-- ==== Sys2Proof/Word.lean ====
section
/-!
DEFINITION. The word and byte of the device, and their plainest arithmetic (spec/00_scope.md, R4, R5, R7, R8).
-/

namespace Sys2Proof

/-- A register or record word, 32 bits (R8, R514). -/
abbrev Word := BitVec 32

/-- A byte of HBM, host memory or a frame. -/
abbrev Byte := BitVec 8

/-- The word whose value is `n` modulo 2³². -/
def Word.ofNat (n : Nat) : Word := BitVec.ofNat 32 n

/-- One bit as a number, 0 or 1. -/
def bit (b : Bool) : Nat := if b then 1 else 0

end Sys2Proof
end

