-- ==== Sys2Proof/Syntax.lean ====
section
/-!
DEFINITION. The commands that reach the device, one constructor of `Instr` for each row of the table of operations and
events, with what each carries: register writes by a host, host commands, packets and symbols received, edges of clocks
and pins, and the moments at which an engine of the device ends a piece of work. Where an engine's result is fixed by an
outside standard (a decoded picture, a bitstream) the command carries it.
-/

namespace Sys2Proof

/-- Who makes a register access: one of the partitions 0–7 (R471), or the device's firmware (R524). -/
inductive Who where
  | fw
  | part (p : Fin 8)
  deriving DecidableEq, Repr, Inhabited

/-- An operand of a descriptor (R476): its space (0 NONE, 1 HBM, 2 HOST), byte address and byte length. -/
structure Operand where
  space : Nat
  addr : Nat
  len : Nat
  deriving DecidableEq, Repr, Inhabited

/-- A command as dispatched (R476): who gave it, TAG, NOTIFY, its operands and ARG0–ARG6. -/
structure Cmd where
  who : Who
  tag : Nat
  notify : Bool
  src : Operand
  dst : Operand
  args : List Word
  deriving DecidableEq, Repr, Inhabited

/-- The commands that reach the plane and window tables (R271). -/
inductive AsmOp where
  | planeAlloc
  | planeSet
  | planeFree
  | winSet
  | winClear
  deriving DecidableEq, Repr, Inhabited

/-- A command that reaches the plane or window tables in the same cycle as another (R271). -/
structure AsmReq where
  op : AsmOp
  cmd : Cmd
  deriving DecidableEq, Repr, Inhabited

/-- The host commands of the Sluice engine (R431). -/
inductive SlcOp where
  | compress
  | flush
  | decompress
  /-- The exports and imports of the correction engine, which count as its host commands; a COUNTER_EXPORT with its lost rows. -/
  | counterExport (lost : List (Nat × Nat))
  | gainExport
  | counterImport
  | gainImport
  deriving DecidableEq, Repr, Inhabited

/-- A host command that reaches the Sluice engine in the same cycle as another (R431). -/
structure SlcReq where
  op : SlcOp
  cmd : Cmd
  deriving DecidableEq, Repr, Inhabited

/-- A register write (R471): the writer, the byte address and the word. -/
structure WriteReq where
  who : Who
  addr : Nat
  value : Word
  deriving DecidableEq, Repr, Inhabited

/-- An access of a PCIe function beside BAR0 (R465): of BAR2, in bytes; of BAR4, which holds the MSI-X table and PBA, in words; or of
the function mask of MSI-X in configuration space (R486). -/
inductive WindowAccess where
  | read (len : Nat)
  | write (bytes : List Byte)
  | msixRead (words : Nat)
  | msixWrite (words : List Word)
  | msixMask (fmask : Bool)
  deriving DecidableEq, Repr, Inhabited

/-- One layer of an access unit as its active parameter sets give it (R236–R239, R250). -/
structure LayerInfo where
  /-- Layer slot of the binding. -/
  slot : Nat
  poc : Int
  /-- general_profile_idc, general_profile_compatibility_flag[1] and [2], and the constraint flags of Main 4:2:2 10. -/
  profile : Nat
  compat1 : Bool
  compat2 : Bool
  main422 : Bool
  /-- general_level_idc. -/
  level : Nat
  /-- AuxId: 0 a primary layer, 1 alpha, any other discarded (R238). -/
  auxId : Nat
  /-- An alpha layer's primary layer, by slot (R238). -/
  alphaOf : Option Nat
  /-- chroma_format_idc: 0 monochrome, 1 4:2:0, 2 4:2:2, 3 4:4:4. -/
  chroma : Nat
  depthY : Nat
  depthC : Nat
  /-- nuh_layer_id of the layers it depends on. -/
  deps : List Nat
  /-- sps_max_dec_pic_buffering_minus1 at MAX_TID (R250). -/
  dpb : Nat
  w : Nat
  h : Nat
  /-- CtbSizeY. -/
  ctb : Nat
  /-- The tiles of the picture in tile scan, each as the raster addresses of its CTUs (R244). -/
  tiles : List (List Nat)
  /-- CTUs of each independent slice segment with its dependent segments, in order (R244). -/
  slices : List Nat
  /-- entropy_coding_sync_enabled_flag (R244). -/
  wpp : Bool
  deriving DecidableEq, Repr, Inhabited

/-- What the headers of an access unit say, as DECODE_START reads them (R243–R246). -/
structure AuInfo where
  irap : Bool
  /-- RASL picture. -/
  rasl : Bool
  tid : Nat
  /-- A picture that nothing refers to (R248). -/
  nonRef : Bool
  layers : List LayerInfo
  deriving DecidableEq, Repr, Inhabited

/-- An entry of a picture's reference sets (R250, R251): the POC and layer slot of the picture it names. -/
structure RefEntry where
  poc : Int
  slot : Nat
  /-- In RefPicSetStCurrBefore, StCurrAfter, LtCurr or the inter-layer set, and not in a Foll set. -/
  current : Bool
  deriving DecidableEq, Repr, Inhabited

/-- A slice segment received (R251). -/
structure SliceSeg where
  /-- Its first CTU, and how many its data cover, in tile scan. -/
  addr : Nat
  len : Nat
  dependent : Bool
  /-- The parameter sets it refers to were received, and hold no element out of range (class 0x03). -/
  sets : Bool
  /-- Its headers, entry points and data keep the syntax (class 0x02). -/
  clean : Bool
  deriving DecidableEq, Repr, Inhabited

/-- One layer picture of an access unit (R249–R257): what its syntax says, its slice segments, and the samples in raster order
that the decoding process of H.265 gives its decoded CTUs. -/
structure LayerResult where
  slot : Nat
  poc : Int
  w : Nat
  h : Nat
  cropX : Nat
  cropY : Nat
  pw : Nat
  ph : Nat
  chroma : Nat
  depthY : Nat
  depthC : Nat
  loc : Nat
  alphaSlot : Option Nat
  matrix : Nat
  trc : Nat
  fullRange : Bool
  field : Bool
  bottom : Bool
  /-- PicOutputFlag: the picture is handed out (R256). -/
  output : Bool
  /-- The entries of its reference picture sets (R250, R251). -/
  refs : List RefEntry
  segs : List SliceSeg
  luma : List Nat
  cb : List Nat
  cr : List Nat
  deriving DecidableEq, Repr, Inhabited

/-- What decoding makes of the layer pictures of an access unit (R249–R257). -/
structure DecodeResult where
  layers : List LayerResult
  deriving DecidableEq, Repr, Inhabited

/-- What the correction engine keeps of a tile and moves when CORRECTION moves (R413). -/
inductive MovedPart where
  | rayMap
  | rayStaged
  | gain
  | gainStaged
  | counters (row : Nat)
  deriving DecidableEq, Repr, Inhabited

/-- A block of a lane that returned poisoned data during such a move (R413). -/
structure MovedLoss where
  lane : Nat
  part : MovedPart
  deriving DecidableEq, Repr, Inhabited

/-- A reconstructed picture: its luma, Cb and Cr samples in raster order. -/
structure Recon where
  y : List Nat
  cb : List Nat
  cr : List Nat
  deriving DecidableEq, Repr, Inhabited

/-- What comes of encoding a picture (R303, R304, R307). -/
structure EncodeResult where
  /-- U of R304 after each CTB row that was coded as normal, a row that is coded again in fallback among them. -/
  rows : List Nat
  /-- The slice segments with their start codes. -/
  slices : List Byte
  /-- QPbase of the picture, and the QP of each CTB of the rows that stay as normal coding made them (R304). -/
  qp : Nat
  qps : List Nat
  recon : Recon
  deriving DecidableEq, Repr, Inhabited

/-- Readings of the V-die converter (R381): the RIM_NTC ratio code, VHV, VHOLD and VRIM. -/
structure Conversion where
  ntc : Nat
  vhv : Nat
  vhold : Nat
  vrim : Nat
  deriving DecidableEq, Repr, Inhabited

/-- What a fall of VHV finds (R383): whether RIM_HOLD carried the line to its end, and whether VHV was the only
supply. -/
structure VhvFall where
  held : Bool
  only : Bool
  deriving DecidableEq, Repr, Inhabited

/-- A CSI-2 long packet of image data (R391, R393). -/
structure CsiLineIn where
  vc : Nat
  /-- Data type: 0x2B RAW10, 0x2C RAW12. -/
  dt : Nat
  samples : List Nat
  crcOk : Bool
  eccBad : Bool
  /-- The line buffer is full as the line arrives (R393). -/
  overrun : Bool
  /-- The PHY reports a start-of-transmission sync or deskew error and no line arrives (R406). -/
  phyError : Bool
  deriving DecidableEq, Repr, Inhabited

/-- How training of a stack ended (R415). -/
inductive TrainResult where
  /-- The training record was loaded, or on a wake the training kept, and the verification passed. -/
  | cached
  /-- Full training. -/
  | full
  | failed
  deriving DecidableEq, Repr, Inhabited

/-- What a read finds (R420). -/
inductive EccKind where
  | onDie
  | correctable
  | uncorrectable
  deriving DecidableEq, Repr, Inhabited

/-- Where a thermal trip comes from (R453). -/
inductive TripSource where
  | comparator (sensor : Nat) (temp : Int)
  | stack (i : Nat)
  | dieBlind (die : Nat)
  deriving DecidableEq, Repr, Inhabited

/-- A JMP datagram (R466, R467): the port it arrived on, its source, and its words. -/
structure JmpIn where
  port : Fin 5
  ipv6 : Bool
  srcAddr : List Word
  srcPort : Nat
  /-- The address it was sent to. -/
  dstAddr : List Word
  /-- Length of the datagram in bytes. -/
  bytes : Nat
  words : List Word
  deriving DecidableEq, Repr, Inhabited

/-- What happens to a PCIe port (R525, R486). -/
inductive LinkChange where
  | up
  | down
  | hotReset
  deriving DecidableEq, Repr, Inhabited


/-- The commands: one constructor for each row of the operation table, named after it; each docstring gives the row's
mnemonic, its leading rule and what it stands for. -/
inductive Instr where
  /-- PG_ENABLE (R35). A write to PG_CTRL.ENABLE starts or stops a block, moving it between OFF, STARTING, STOPPING and PENDING_ON. -/
  | pgEnable (who : Who) (page : Nat) (v : Bool)
  /-- PG_PARK (R35). A write to PG_CTRL.PARK asks a block to go to PARKED or to resume from it. -/
  | pgPark (who : Who) (page : Nat) (v : Bool)
  /-- PG_RESET (R37). A write of PG_CTRL.RESET resets a block in OFF, PARKED or FAULT; in any other state it is ignored and raises event 0x00C. -/
  | pgReset (who : Who) (page : Nat) (enable park : Bool)
  /-- BLOCK_READY (R39). A STARTING block whose dependencies all read ON moves by itself to ON or PARKED. -/
  | blockReady (page : Nat)
  /-- BLOCK_IDLE_POINT (R35). A block with PARK = 1 reaches its idle point and enters PARKED. -/
  | blockIdlePoint (page : Nat)
  /-- STOP_COMPLETE (R35). A STOPPING block whose work in flight has finished and which no dependent holds goes to OFF, or from PENDING_ON to STARTING. -/
  | stopComplete (page : Nat)
  /-- BLOCK_INTERNAL_FAULT (R35). A block detects an internal fault, enters FAULT, sets FAULT_CODE and raises its FAULT event. -/
  | blockInternalFault (page code : Nat)
  /-- REGISTER_WRITE (R471). A write to a register with no row of its own is attributed to a partition, judged for ownership and range, and stored or discarded. -/
  | registerWrite (reqs : List WriteReq)
  /-- BAR0_BAD_ACCESS (R465). A BAR0 access that is not an aligned 32-bit access completes as an Unsupported Request and is recorded with SIZE = 1. -/
  | bar0BadAccess (p : Fin 8) (addr : Nat)
  /-- BAR2_WINDOW_ACCESS (R465). A PCIe BAR2 access reads or writes the partition's HBM regions; a write into a leased buffer is refused. -/
  | bar2WindowAccess (p : Fin 8) (off : Nat) (acc : WindowAccess)
  /-- EV_PEND_CLEAR (R519). Host software writes 1 to EV_PEND bits to clear pending events. -/
  | evPendClear (who : Who) (page : Nat) (mask : Word)
  /-- EV_SET_WRITE (R519). Host software writes 1 to EV_SET bits to raise events for test. -/
  | evSetWrite (who : Who) (page : Nat) (mask : Word)
  /-- HST_EPEND_CLEAR (R485). Host software writes 1 to HST_EPENDw bits to clear delivered events. -/
  | hstEpendClear (who : Who) (p : Fin 8) (w : Fin 64) (mask : Word)
  /-- PANEL_MAP_LOAD (R54). PANEL_MAP_LOAD checks a panel map block and, while every raster group is OFF or PARKED, accepts it and brings the dependent configuration into line. -/
  | panelMapLoad (cs : List Cmd) (lost : List MovedLoss)
  /-- PSD_LOAD (R83). PSD_LOAD reads a PSD by command, validates it and accepts it into its stack slot. -/
  | psdLoad (cs : List Cmd)
  /-- LUT_LOAD (R69). LUT_LOAD loads a transfer LUT slot, which groups take up at their next FL. -/
  | lutLoad (c : Cmd)
  /-- BLEND_LOAD (R73). BLEND_LOAD checks and loads a blend table slot. -/
  | blendLoad (c : Cmd)
  /-- OUTLUT_LOAD (R107). OUTLUT_LOAD loads one output LUT of a lane, in force from the group's next FL, or at once on a lane with no valid tile. -/
  | outlutLoad (c : Cmd)
  /-- FRAME_LATCH (R121). At FLn a raster group latches its SH fields, its stack slot and PSD, its LUTs, its plane pictures and the cue actions due. -/
  | frameLatch (g : Fin 4)
  /-- FRAME_START (R118). At FSn a group's frame begins on its grid: RAS_FRAME updates, leases of the previous frame end and the resync completes. -/
  | frameStart (g : Fin 4)
  /-- RAS_MODE_APPLY (R141). Writing RAS_MODE_CTRL.APPLY while the group reads ON validates the staged timing set, and either sets PENDING or refuses it. -/
  | rasModeApply (who : Who) (g : Fin 4)
  /-- FAN_ROW_START (R123). A fan starts computing the eligible row with the earliest departure time, handing its rays to the jets. -/
  | fanRowStart (fan : Fin 16)
  /-- RAY_ENTERS_JET (R102). A ray enters a jet with its effective budget, and is traced, composited and encoded into output codes. -/
  | rayEntersJet (jet : Fin 128) (idle : List Nat)
  /-- ANCHOR_CACHE_FILL (R89). Texels missing from the anchor cache arrive and the stalled jet resumes. -/
  | anchorCacheFill (fan : Fin 16) (cycles : Nat)
  /-- VIRTUAL_PROBE_RAY (R111). A VIRTUAL probe ray enters a jet on a spare cycle when no row is eligible. -/
  | virtualProbeRay (probe : Fin 4) (jet : Fin 128) (idle : List Nat)
  /-- PROBE_DONE (R112). The last pixel of a probe picture is written, PROBE_DONE is raised and LAST_BUF names the buffer. -/
  | probeDone (probe : Fin 4)
  /-- SYN_CAP_WRITE (R104). A write to SYN_CAP stores the host plane budgets, or discards a value of 0 or above 256 and raises CAP_REFUSED. -/
  | synCapWrite (who : Who) (b : Fin 8) (v : Word)
  /-- ROW_DEPARTURE (R119). At its departure time a row's line packet leaves the lane, and the pool fill is checked against the weir. -/
  | rowDeparture (lane : Fin 1024)
  /-- SYN_POOL_WRITE (R147). Any write to SYN_POOLl sets LOW to 0xFFFF. -/
  | synPoolWrite (who : Who) (lane : Fin 1024) (v : Word)
  /-- ECHO_COMPARE (R162). After the last line packet of a frame, the echo signature is compared, and COMMIT or ABORT is sent. -/
  | echoCompare (lane : Fin 1024) (seen : Option Word) (codeErrors : Bool)
  /-- LNK_EN_WRITE (R155). Writing LNK_CTRLi.EN starts a lane's blind training from HUNT at 1.25 Gb/s, or returns it to DISABLED. -/
  | lnkEnWrite (who : Who) (lane : Fin 1024) (en : Bool)
  /-- LNK_RATE_WRITE (R185). A write of a changed RATE is accepted only while the tile's group is OFF or PARKED; otherwise RATE_REFUSED is raised. -/
  | lnkRateWrite (who : Who) (lane : Fin 1024) (rate : Nat)
  /-- LNK_LOOP_WRITE (R181). A write of LOOP enters or leaves a test loop, or is refused with LOOP_REFUSED while the tile takes part in frames. -/
  | lnkLoopWrite (who : Who) (lane : Fin 1024) (loop : Nat)
  /-- LNK_BLANK_WRITE (R169). Setting LNK_CTRLi.BLANK blanks the tile with BLANK CAUSE 0x02; clearing it removes that cause. -/
  | lnkBlankWrite (who : Who) (lane : Fin 1024) (blank : Bool)
  /-- UNBLANK (R169). A write of UNBLANK clears FBLANK only if a valid status packet with FCODE 0x00 has arrived after the last fault indication. -/
  | unblank (who : Who) (lane : Fin 1024) (fault : Bool)
  /-- LNK_INJ_ARM (R183). Writing LNK_INJ with ARM = 1 arms a fault injection for the next eligible frame, or is refused with INJ_REFUSED. -/
  | lnkInjArm (who : Who) (page : Fin 64) (v : Word)
  /-- RX_COMMA_DETECT (R154). A receiver in HUNT finds a K28.5 comma, sets its word boundary and enters CHECK. -/
  | rxCommaDetect (lane : Fin 1024) (group : Nat)
  /-- RX_IDLE_RECEIVED (R154). An IDLE ordered set is received; eight in a row reach LOCKED, and sixteen with RX_LOCKED advance the lane. -/
  | rxIdleReceived (lane : Fin 1024) (groups : List Nat)
  /-- RX_CODE_ERROR (R154). A code error is counted, sending CHECK back to HUNT or losing lock after 8 errors in 1,024 code groups. -/
  | rxCodeError (lane : Fin 1024) (groups : List Nat)
  /-- STATUS_PACKET_RX (R167). A tile status packet arrives; if valid it is copied into LNK_TST and may bring READY, acknowledge a MODE or indicate a fault. -/
  | statusPacketRx (lane : Fin 1024) (groups : List Nat)
  /-- FAULT_SET_RX (R168). A valid FAULT ordered set arrives and the lane blanks the tile within 5 µs. -/
  | faultSetRx (lane : Fin 1024) (groups : List Nat) (latency : Nat)
  /-- STATUS_TIMEOUT (R155). No valid status packet arrives for 1,100 µs in READY, so STATUS_LOST and DOWN are raised and the lane restarts in HUNT. -/
  | statusTimeout (lane : Fin 1024)
  /-- RATE_ACK_TIMEOUT (R156). No acknowledging status packet arrives within 1 ms, so MODE RATE is resent, or after three attempts RATE_FALLBACK is raised. -/
  | rateAckTimeout (lane : Fin 1024)
  /-- RATE_SWITCH_DELAY (R156). 16 µs after the acknowledgement, the lane switches to the target rate and enters HUNT. -/
  | rateSwitchDelay (lane : Fin 1024)
  /-- RATE_READY_TIMEOUT (R156). No READY within 10 ms at the new rate, so the lane returns to 1.25 Gb/s and raises RATE_FALLBACK. -/
  | rateReadyTimeout (lane : Fin 1024)
  /-- BLANK_REPEAT (R169). Every 256 µs a blanked tile's lane repeats BLANK among its IDLEs. -/
  | blankRepeat (lane : Fin 1024)
  /-- LANE_PLL_UNLOCK (R184). A lane PLL loses lock and its LNK page enters FAULT with code 0x01. -/
  | lanePllUnlock (lane : Fin 1024)
  /-- RAYMAP_LOAD (R192). RAYMAP_LOAD copies a ray map block into the lane's inactive bank for checking. -/
  | raymapLoad (c : Cmd)
  /-- RAYMAP_CHECK_DONE (R192). The copied ray map is checked, then staged with DONE or refused with BAD_ARGUMENT. -/
  | raymapCheckDone (lane : Fin 1024)
  /-- GAIN_LOAD (R196). GAIN_LOAD stages a gain map for a lane's tile. -/
  | gainLoad (c : Cmd)
  /-- GAIN_DERIVE (R202). GAIN_DERIVE starts firmware derivation of gain maps from efficiency maps, counters and the ageing curve. -/
  | gainDerive (c : Cmd)
  /-- GAIN_DERIVE_DONE (R202). Every named tile has been staged, so the derivation completes and GAIN_HEADROOM may be raised. -/
  | gainDeriveDone
  /-- AGEING_CURVE_LOAD (R203). AGEING_CURVE_LOAD checks and loads the 256-entry ageing curve. -/
  | ageingCurveLoad (c : Cmd)
  /-- COUNTER_EXPORT (R206). COUNTER_EXPORT exports the counters of the named tiles row by row, optionally clearing them. `lost`:
  the rows, as lane and row, whose stored block fails in the decoder as they are exported at once (R208). -/
  | counterExport (c : Cmd) (lost : List (Nat × Nat))
  /-- GAIN_EXPORT (R206). GAIN_EXPORT writes the gain bank in force of each named tile as export sections. -/
  | gainExport (c : Cmd)
  /-- COUNTER_IMPORT (R207). COUNTER_IMPORT checks counter sections and applies them with REPLACE or ADD. -/
  | counterImport (c : Cmd)
  /-- GAIN_IMPORT (R207). GAIN_IMPORT checks gain sections and stages them. -/
  | gainImport (c : Cmd)
  /-- STRESS_ROW_UPDATE (R198). After a tile's COMMIT, the increments of a due row are applied to its stress counters through Sluice, and a pending export of the row runs. -/
  | stressRowUpdate (lane : Fin 1024) (row : Nat) (intact : Bool)
  /-- COR_STR_EXP_WRITE (R200). A write to COR_STR_EXP.EXP starts firmware regeneration of the increment table within 10 ms. -/
  | corStrExpWrite (who : Who) (v : Word)
  /-- STRESS_TABLE_REGEN_DONE (R200). The regenerated increment table is ready and is used from the next FL. -/
  | stressTableRegenDone
  /-- FRAME_RECEIVED (R214). An Ethernet frame received on a port is stamped and classified to drop, PFC, PTP, a context, JMP or the slow path. -/
  | frameReceived (port : Fin 5) (frame : List Byte) (fcsOk : Bool) (fecUnc : Nat)
  /-- PORT_LINK_CHANGE (R230). A port's link comes up or goes down, raising LINK_UP or LINK_DOWN. -/
  | portLinkChange (port : Fin 5) (up : Bool) (status : Nat)
  /-- MERGE_GAP_TIMEOUT (R225). At g + W the missing numbers are declared lost, LOSS is raised and delivery resumes. -/
  | mergeGapTimeout (ctx : Fin 1024)
  /-- PATH_TIMEOUT (R227). No accepted packet arrives on a path for TIMEOUT_MS, so the path goes down and PATH_DOWN is raised. -/
  | pathTimeout (ctx : Fin 1024) (pathB : Bool)
  /-- CTX_OPEN (R218). CTX_OPEN checks a context record and opens the lowest free context. -/
  | ctxOpen (cs : List Cmd)
  /-- CTX_CLOSE (R219). CTX_CLOSE stops the context accepting packets and sets it CLOSING. -/
  | ctxClose (c : Cmd)
  /-- CTX_RELEASE_DONE (R219). Once decode has discarded every access unit of the context, its entry is released and CTX_CLOSED is raised. -/
  | ctxReleaseDone (ctx : Fin 1024)
  /-- STR_SEL_WRITE (R234). Writing STR_SEL takes a snapshot of one local context into the window registers. -/
  | strSelWrite (who : Who) (w : Fin 8) (v : Word)
  /-- NET_INJ_ARM (R229). Writing NET_INJ arms the network fault injector for a context. -/
  | netInjArm (who : Who) (port : Fin 5) (v : Word)
  /-- NET_INJ_DELAY_EXPIRE (R229). A packet held by the DELAY injector reaches the port after DELAY_US. -/
  | netInjDelayExpire (port : Fin 5)
  /-- DEC_BIND (R241). DEC_BIND checks a binding record, binds a context to a core group and allocates its buffers. -/
  | decBind (cs : List Cmd)
  /-- DEC_UNBIND (R242). DEC_UNBIND starts releasing a binding. -/
  | decUnbind (c : Cmd)
  /-- UNBIND_DONE (R242). The last buffer of a released binding is freed, DEC_UNBIND completes and UNBOUND is raised. -/
  | unbindDone (ctx : Fin 1024)
  /-- DECODE_START (R245). A group starts the complete access unit with the earliest media time, or skips it under LATE_SKIP. -/
  | decodeStart (ctx : Fin 1024) (info : AuInfo)
  /-- ACCESS_UNIT_COMPLETE (R256). A decoded or concealed access unit completes and its pictures are handed to the assembler. -/
  | accessUnitComplete (ctx : Fin 1024) (res : DecodeResult) (loads : List Cmd)
  /-- DEC_SEL_WRITE (R261). Writing DEC_SEL takes a snapshot of one context's binding into the window registers. -/
  | decSelWrite (who : Who) (v : Word)
  /-- PLANE_ALLOC (R267). PLANE_ALLOC checks a plane record and allocates the lowest free plane ID and its buffers. -/
  | planeAlloc (c : Cmd) (also : List AsmReq)
  /-- PLANE_SET (R267). PLANE_SET changes the settings of an ACTIVE plane. -/
  | planeSet (c : Cmd) (also : List AsmReq)
  /-- PLANE_PRESENT (R269). PLANE_PRESENT begins a picture of a HOST plane in a buffer, at once or after generating its levels. -/
  | planePresent (c : Cmd)
  /-- PLANE_FREE (R270). PLANE_FREE releases the plane's windows and sets the plane FREEING until no frame holds its buffers. -/
  | planeFree (c : Cmd) (also : List AsmReq)
  /-- PLANE_FREED (R270). No frame still holds a buffer of a freeing plane, so the ID is freed and PLANE_FREED is raised. -/
  | planeFreed (plane : Fin 256)
  /-- BUF_RELEASE (R483). BUF_RELEASE withdraws one buffer of a HOST plane, completing at once or with LEASED until the lease ends. -/
  | bufRelease (c : Cmd)
  /-- WIN_SET (R271). WIN_SET creates or replaces a window of an assembled plane. -/
  | winSet (c : Cmd) (also : List AsmReq)
  /-- WIN_CLEAR (R271). WIN_CLEAR releases a window. -/
  | winClear (c : Cmd) (also : List AsmReq)
  /-- COEF_LOAD (R278). COEF_LOAD checks and loads a coefficient set 1–15. -/
  | coefLoad (c : Cmd)
  /-- BUILD_START (R273). A queued build of a plane starts, taking its sources and records, or is skipped or superseded. -/
  | buildStart (plane : Fin 256)
  /-- WATERMARK (R283). The plane reader passes a watermark's line in a build, raising WATERMARK k. -/
  | watermark (k : Fin 4)
  /-- BUILD_COMPLETE (R281). Every dirty block of a build is in HBM, so the picture is complete. -/
  | buildComplete
  /-- DRAW (R286). DRAW checks a draw record and queues a fill, copy, blend or glyph. -/
  | draw (cs : List Cmd)
  /-- DRAW_COMPLETE (R289). A draw command's last burst is written, completing it with DONE or LEASED. -/
  | drawComplete (spans : List (Nat × Nat))
  /-- DMA_COPY (R483). DMA_COPY copies bytes between HBM and host space. -/
  | dmaCopy (c : Cmd)
  /-- DMA_COPY_DONE (R483). A DMA copy finishes and completes. -/
  | dmaCopyDone (c : Cmd) (spans : List (Nat × Nat)) (before : Nat) (ok : Bool)
  /-- ASM_PSEL_WRITE (R293). Writing ASM_PSEL takes a snapshot of one plane into the window registers. -/
  | asmPselWrite (who : Who) (v : Word)
  /-- ENC_OPEN (R297). ENC_OPEN checks a session record and opens the lowest free encode session. -/
  | encOpen (cs : List Cmd)
  /-- ENC_CLOSE (R298). ENC_CLOSE stops a session taking pictures and frees it once its current picture is written. -/
  | encClose (c : Cmd)
  /-- ENC_CAPTURE (R300). A source picture becomes available and is captured into a session's input buffer, replacing a waiting one if both are full. -/
  | encCapture (sess : Fin 16)
  /-- ENC_CAPTURE_DONE (R300). A capture finishes and the source buffer is no longer held. -/
  | encCaptureDone (sess : Fin 16)
  /-- ENC_PICTURE_START (R306). A core starts encoding the captured picture with the earliest presentation time, filling the bucket and setting the budget. -/
  | encPictureStart (core : Fin 4)
  /-- ENC_PICTURE_DONE (R307). An access unit is finished and written to the ring as a record, or discarded with OUT_FULL. -/
  | encPictureDone (core : Fin 4) (res : EncodeResult)
  /-- FORCE_IDR (R302). Writing ENC_S_CTRL.FORCE_IDR makes the next picture that starts an IDR picture. -/
  | forceIdr (who : Who) (sess : Fin 16)
  /-- ROI_APPLY (R305). Writing ENC_S_CTRL.ROI_APPLY makes all staged ROIs take effect from the next picture. -/
  | roiApply (who : Who) (sess : Fin 16)
  /-- ENC_S_RD_WRITE (R310). A write to the ring read offset frees ring space, or is discarded if it passes WR or lies beyond the ring. -/
  | encSRdWrite (who : Who) (sess : Fin 16) (v : Word)
  /-- EGR_SUB_OPEN (R312). EGR_SUB_OPEN allocates a subscriber and its four queues on a port. -/
  | egrSubOpen (cs : List Cmd)
  /-- EGR_SUB_CLOSE (R312). EGR_SUB_CLOSE discards a subscriber's queued frames and frees it. -/
  | egrSubClose (c : Cmd)
  /-- EGR_SEND (R315). EGR_SEND checks a frame record and queues the frame. -/
  | egrSend (c : Cmd)
  /-- EGR_FRAME_TX_START (R318). A free port starts the chosen eligible head frame and charges its buckets. -/
  | egrFrameTxStart (port : Fin 5)
  /-- EGR_FRAME_TX_END (R314). A frame's last byte leaves the port and its EGR_SEND completes, after any transmit stamp is queued. -/
  | egrFrameTxEnd (port : Fin 5)
  /-- TOKEN_TICK (R320). At each 1,000 ns tick every enabled bucket gains RATE millibits, limited to BURST. -/
  | tokenTick
  /-- EGR_BUCKET_WRITE (R321). A write to a RATE or BURST register resets the bucket to FULL or ZERO. -/
  | egrBucketWrite (who : Who) (queue burst : Bool) (v : Word)
  /-- GCL_LOAD (R324). GCL_LOAD replaces a port's admin gate list. -/
  | gclLoad (c : Cmd)
  /-- CONFIG_CHANGE (R324). Writing CONFIG_CHANGE validates the admin gate set and schedules the change time. -/
  | configChange (who : Who) (port : Fin 5)
  /-- GCL_CANCEL (R324). Writing CANCEL withdraws a pending gate list change. -/
  | gclCancel (who : Who) (port : Fin 5)
  /-- GCL_CHANGE_TIME (R324). At the change time the admin list becomes oper, PENDING clears and GCL_CHANGED is raised. -/
  | gclChangeTime (port : Fin 5)
  /-- GATE_ENTRY_END (R322). A gate list interval ends and the next entry's gate states take effect. -/
  | gateEntryEnd (port : Fin 5)
  /-- PFC_PAUSE_EXPIRE (R325). A class's PFC pause timer runs out and the class is released. -/
  | pfcPauseExpire (port : Fin 5) (cls : Fin 8)
  /-- EGR_SAMPLE_TICK (R326). At each sampling instant every queue's depth and head-of-line delay are sampled. -/
  | egrSampleTick
  /-- EGR_Q_CLEAR (R326). Writing EGR_Q_CTRL.CLEAR resets the selected queue's MIN and MAX samples. -/
  | egrQClear (who : Who)
  /-- AOCLK_TICK (R332). At each AOCLK tick counters A, B and S advance and S slews towards its domain. -/
  | aoclkTick
  /-- TIM_SEL_DOMAIN_WRITE (R335). A host write of TIM_SEL.DOMAIN switches the selected domain or is refused. -/
  | timSelDomainWrite (who : Who) (d : Fin 2)
  /-- TIM_SEL_JUMP (R334). Writing TIM_SEL.JUMP clears SEL_VALID so that S copies its domain, or is refused with reason 0x03. -/
  | timSelJump (who : Who)
  /-- TIM_D_VALID_WRITE (R335). A write of a domain's VALID changes its validity, which may switch domains automatically or enter or leave holdover. -/
  | timDValidWrite (who : Who) (d : Fin 2) (v : Bool)
  /-- TIM_D_INC_WRITE (R333). A write to TIM_D_INC_HI sets the domain increment, clamped, from the next tick. -/
  | timDIncWrite (who : Who) (d : Fin 2) (v : Word)
  /-- TIM_D_ADJ_WRITE (R333). A write to TIM_D_ADJ adds a signed offset to the domain counter at the next tick. -/
  | timDAdjWrite (who : Who) (d : Fin 2) (v : Word)
  /-- TIM_D_SET (R333). Writing TIM_D_CTRL.SET loads the domain counter at the next tick. -/
  | timDSet (who : Who) (d : Fin 2)
  /-- TIM_SNAP (R348). Writing TIM_SNAP.TAKE captures S, A, B and e at one tick. -/
  | timSnap (who : Who)
  /-- ANNOUNCE_TIMEOUT (R339). A domain's announce receipt timeout expires and the servo clears VALID. -/
  | announceTimeout (d : Fin 2)
  /-- PTP_DELAY_REQ_SEND (R337). A servo sends a Delay_Req message from a port's system queue. -/
  | ptpDelayReqSend (d : Fin 2) (port : Fin 5) (unicast : Bool)
  /-- PPS_IN_EDGE (R340). A rising edge on PPS_IN is stamped in S, A and B and PPS_CAPTURE is raised. -/
  | ppsInEdge
  /-- TXQ_POP (R341). Writing TIM_TXQ_CTRLp.POP removes the head transmit timestamp entry. -/
  | txqPop (who : Who) (port : Fin 5)
  /-- TIMER_ARM (R345). Writing TIM_CH_CTRLc.ARM latches the staged set and arms the channel, or is discarded with TIMER_LATE. -/
  | timerArm (who : Who) (ch : Fin 16)
  /-- TIMER_DISARM (R345). Writing TIM_CH_CTRLc.DISARM stops the channel after any active pulse. -/
  | timerDisarm (who : Who) (ch : Fin 16)
  /-- TIMER_EDGE (R344). A timer channel reaches an edge, driving its pin or triggering its internal target, and raises TIMER_FIRED. -/
  | timerEdge (ch : Fin 16)
  /-- TIMER_PULSE_END (R344). A pin pulse ends after WIDTH ns. -/
  | timerPulseEnd (ch : Fin 16)
  /-- AOCLK_LOSS (R347). AOCLK is lost, the counters hold, SEL_VALID clears and TIM enters FAULT. -/
  | aoclkLoss
  /-- CUE_LOAD (R358). CUE_LOAD checks and loads, or replaces, a cue list. -/
  | cueLoad (cs : List Cmd)
  /-- CUE_STOP (R365). CUE_STOP discards the unapplied entries and makes the list FREE. -/
  | cueStop (c : Cmd)
  /-- CUE_PRESET (R357). CUE_PRESET stores a window record as a preset. -/
  | cuePreset (c : Cmd)
  /-- CUE_SKIP (R363). An entry whose cue time is reached while its group has no frame grid is skipped and counted. -/
  | cueSkip (l : Fin 8)
  /-- RIM_IMAGE_STORE (R373). RIM_IMAGE_STORE stores a rim image. -/
  | rimImageStore (c : Cmd)
  /-- RIM_REGION_OPEN (R374). RIM_REGION_OPEN allocates a rim region rectangle. -/
  | rimRegionOpen (cs : List Cmd)
  /-- RIM_REGION_SET (R375). RIM_REGION_SET sets or clears a region's co-owner. -/
  | rimRegionSet (c : Cmd)
  /-- RIM_REGION_CLOSE (R375). RIM_REGION_CLOSE frees a region. -/
  | rimRegionClose (c : Cmd)
  /-- RIM_UPDATE (R376). RIM_UPDATE makes an offer of a stored image to a region, judged at the next arbiter tick. -/
  | rimUpdate (c : Cmd)
  /-- RIM_ARBITER_TICK (R376). Each ms the rim arbiter judges pending offers by rank and tie and queues the winners. -/
  | rimArbiterTick
  /-- COMMON_LINE_COMPLETE (R378). A rim common line completes, its elements commit, and the driver serves the next region; an update whose last line completes raises UPDATE_DONE. -/
  | commonLineComplete
  /-- RIM_BAND_LOAD (R380). RIM_BAND_LOAD checks and loads the waveform band table. -/
  | rimBandLoad (c : Cmd)
  /-- RIM_PERSIST (R385). RIM_PERSIST asks for a rim copy write at the earliest allowed time. -/
  | rimPersist (c : Cmd)
  /-- RIM_PERSIST_WRITE (R385). The cistern writes the older rim copy when the committed image differs and 60 s have passed. -/
  | rimPersistWrite
  /-- PERSISTED (R385). A rim copy write ends and PERSISTED is raised. -/
  | persisted (intact : Bool)
  /-- RIM_RESTORE (R386). At power-up, with RIM ON and INHIBIT 0, the driver rewrites every common from the newest valid copy. -/
  | rimRestore
  /-- CONVERTER_CONVERSION (R381). The V-die converter reads RIM_NTC, VHV and the rim voltages every 250 ms or on a trigger, and updates INHIBIT. -/
  | converterConversion (r : Conversion)
  /-- BOOST_READY (R382). The boost converter reaches its target and the first line of an update starts. -/
  | boostReady
  /-- BOOST_IDLE_TIMEOUT (R382). No queue holds an update for 1 s, so the boost stops. -/
  | boostIdleTimeout
  /-- VHV_LOSS (R383). VHV falls below V_UVF; the rim completes its line from RIM_HOLD, and the device goes OFF if VHV was its only supply. -/
  | vhvLoss (v : VhvFall)
  /-- VHV_RISE (R534). VHV rises through V_UVR from OFF, the standby regulator starts and a cold reset occurs. -/
  | vhvRise
  /-- CSI_FRAME_START (R392). A CSI-2 Frame Start packet arrives; FCOUNT advances and the frame is stamped. -/
  | csiFrameStart (port : Fin 2) (vc num : Nat)
  /-- CSI_LINE (R393). A CSI-2 line packet arrives and is stored, or replaced or padded on error. -/
  | csiLine (port : Fin 2) (line : CsiLineIn)
  /-- CSI_FRAME_END (R393). A CSI-2 Frame End packet completes the frame and its statistics record. -/
  | csiFrameEnd (port : Fin 2) (vc : Nat)
  /-- CAM_OUTPUT_COMPLETE (R404). An output frame is written, CAM_O_STAT updates and DONE is raised, or DROP if no buffer is free. -/
  | camOutputComplete (o : Fin 8)
  /-- CAM_I3C (R390). CAM_I3C queues one CCC or private transfer on a port's I3C bus. -/
  | camI3c (c : Cmd)
  /-- I3C_TRANSFER_DONE (R390). An I3C transfer ends, with one retry on NACK, completing with DONE or ABORTED. -/
  | i3cTransferDone (port : Fin 2) (ack : Bool) (data : List Byte)
  /-- I3C_IBI (R390). An in-band interrupt arrives; its payload is recorded and cause IBI is raised. -/
  | i3cIbi (port : Fin 2) (addr : Nat) (payload : List Byte)
  /-- CAM_EXPSET (R395). CAM_EXPSET queues an exposure set for a sensor. -/
  | camExpset (c : Cmd)
  /-- EXPSET_WRITTEN (R396). All writes of an exposure set are sent in its slot and its command completes. -/
  | expsetWritten (k : Fin 8) (ack : Bool)
  /-- EXPSET_SLOT_CLOSE (R397). A slot closes with a set not started, so SET_MISSED is raised and the set moves to the next blanking. -/
  | expsetSlotClose (k : Fin 8)
  /-- CAM_DEFECT_LOAD (R398). CAM_DEFECT_LOAD loads a sensor's static defect list. -/
  | camDefectLoad (c : Cmd)
  /-- CAM_TONE_LOAD (R398). CAM_TONE_LOAD loads a tone curve for a sensor channel. -/
  | camToneLoad (c : Cmd)
  /-- CAM_WIN_LOAD (R402). CAM_WIN_LOAD loads a sensor's statistics windows. -/
  | camWinLoad (c : Cmd)
  /-- CAM_SENSOR_ENABLE (R391). A write of CAM_S_CFG.EN enables a sensor entry, refused on a clash, or disables it and aborts its queued sets. -/
  | camSensorEnable (who : Who) (k : Fin 8) (v : Word)
  /-- CAM_OUTPUT_ENABLE (R408). A write of CAM_O_CFG.EN enables an output, or is discarded and raises CONFIG for a bad crop. -/
  | camOutputEnable (who : Who) (o : Fin 8) (v : Word)
  /-- HBM_TRAINING_DONE (R415). Cached or full training of the stacks finishes; a failure sends the stack to FAULT. -/
  | hbmTrainingDone (i : Fin 4) (res : TrainResult)
  /-- HBM_TEMP_POLL (R416). Every 1 ms a controller reads stack temperature, sets the refresh rate and tracks drift. -/
  | hbmTempPoll (i : Fin 4) (temp : Int) (drift : Bool)
  /-- HBM_ECC_ERROR (R420). A read finds a correctable or uncorrectable ECC error, which is corrected and written back, or returned poisoned. -/
  | hbmEccError (i : Fin 4) (addr port : Nat) (kind : EccKind)
  /-- HBM_SCRUB_PASS (R421). A periodic scrub read of a stack runs every PERIOD hours. -/
  | hbmScrubPass (i : Fin 4) (found : List Nat)
  /-- SLC_COMPRESS (R432). SLC_COMPRESS appends source bytes to the partition's pending block and writes the ended blocks. -/
  | slcCompress (c : Cmd) (also : List SlcReq)
  /-- SLC_FLUSH (R432). SLC_FLUSH ends the pending block at once. -/
  | slcFlush (c : Cmd) (also : List SlcReq)
  /-- SLC_DECOMPRESS (R434). SLC_DECOMPRESS decodes whole blocks into the destination, stopping at the first failure. -/
  | slcDecompress (c : Cmd) (also : List SlcReq)
  /-- PWR_SET (R441). PWR_SET requests STANDBY, SLEEP or SERVICE and is judged. -/
  | pwrSet (cs : List Cmd)
  /-- STANDBY_ENTERED (R442). All main-domain pages are parked, the HBM stacks are in self-refresh and STATE reads STANDBY. -/
  | standbyEntered
  /-- WAKE_N_LOW (R444). WAKE_N is held low for 1 µs and wakes the device if enabled. -/
  | wakeNLow
  /-- TIMED_WAKE (R444). The selected time reaches PWR_WAKE_AT and wakes the device if enabled. -/
  | timedWake
  /-- STANDBY_WAKE_DONE (R444). Parked pages have returned to ON and STATE reads SERVICE or BOOTING again. -/
  | standbyWakeDone
  /-- MAIN_PG_RISE (R497). MAIN_PG rises while MAIN_EN is high and the ROM selects and verifies an image. -/
  | mainPgRise
  /-- MAIN_PG_FALL (R445). MAIN_PG falls while MAIN_EN is high, so the device goes to SLEEP and raises MAIN_LOSS. -/
  | mainPgFall
  /-- MAIN_PG_TIMEOUT (R533). MAIN_PG has not risen 50 ms after MAIN_EN, so MAIN_EN falls and the device stays in SLEEP. -/
  | mainPgTimeout
  /-- RESET_N_LOW (R445). RESET_N low resets every domain, the cistern included. -/
  | resetNLow
  /-- RESET_N_RELEASE (R534). RESET_N is released; PCIE_BIF and WAKE_N are sampled and POWER_UP is read. -/
  | resetNRelease (pcieBif : Fin 4) (wakeLow : Bool)
  /-- PERST_N_CHANGE (R534). PERST_N of a PCIe port changes, holding its link down or resetting its configuration space. -/
  | perstNChange (port : Fin 4) (high : Bool)
  /-- PLL_UNLOCK (R447). A fast PLL loses lock and the blocks it clocks fault, or the hub clock starts shutdown. -/
  | pllUnlock (pll : Fin 70)
  /-- REF_LOST (R447). A reference clock leaves ±1,000 ppm and REF_LOST is raised. -/
  | refLost (ref : Fin 4)
  /-- THERMAL_CONVERSION (R448). Every 100 µs the sensors convert; exclusions, THM_MAX, warnings and throttling are evaluated. -/
  | thermalConversion (readings : List Int)
  /-- THROTTLE_GRACE_EXPIRE (R451). GRACE runs out in REQUEST mode, so THERM is set to CAP and THROTTLE_ENFORCED is raised. -/
  | throttleGraceExpire
  /-- THROTTLE_STEP (R451). Each further 100 ms at or above ON halves THERM or raises the pause duty. -/
  | throttleStep
  /-- THM_CFG_WRITE (R451). A write to THM_CFG changes the thresholds or mode and releases any throttling in force. -/
  | thmCfgWrite (who : Who) (v : Word)
  /-- THERMAL_TRIP (R453). A comparator, an HBM stack or a die with no valid sensor trips the package and it is shut down. -/
  | thermalTrip (src : TripSource)
  /-- THERMAL_RESTART (R454). After a trip, once cooled for 1 s and 10 s have passed, the device restarts through boot. -/
  | thermalRestart
  /-- TRM_REQ (R455). Writing TRM_REQ requests a recalibration run of a zone. -/
  | trmReq (who : Who) (v : Word)
  /-- LANE_RECAL_WINDOW (R456). A lane's blanking window opens; the lane recalibrates if the window is 60 µs or more, otherwise it defers or forces an abort. -/
  | laneRecalWindow (lane : Fin 1024) (width : Nat)
  /-- PORT_RECAL (R458). A pending N-port or M0 zone runs its recalibration, respecting its pair partner. -/
  | portRecal (zone : Fin 30)
  /-- RECAL_DONE (R455). A zone's run ends, LAST_T updates and RECAL_DONE is raised. -/
  | recalDone (zone : Fin 30) (limit : Bool)
  /-- DESCRIPTOR_FETCH (R478). The device fetches a descriptor from the command ring when completion space allows, checks it and dispatches it. -/
  | descriptorFetch (p : Fin 8)
  /-- HST_CMD_TAIL_WRITE (R475). A write of CMD_TAIL posts descriptors, or is discarded with HOST_ERROR. -/
  | hstCmdTailWrite (who : Who) (p : Fin 8) (v : Word)
  /-- HST_CPL_HEAD_WRITE (R475). A write of CPL_HEAD frees completion records, or is discarded with HOST_ERROR. -/
  | hstCplHeadWrite (who : Who) (p : Fin 8) (v : Word)
  /-- HST_RING_RUN (R475). Writing RUN starts or stops fetching and clears STOPPED. -/
  | hstRingRun (who : Who) (p : Fin 8) (run : Bool)
  /-- RING_FETCH_FAIL (R480). A descriptor fetch or completion write fails on PCIe, so STOPPED is set and HOST_ERROR is raised. -/
  | ringFetchFail (p : Fin 8) (completion : Bool)
  /-- NOP (R482). NOP completes with no effect. -/
  | nop (c : Cmd)
  /-- HST_SEM_ACQUIRE (R484). A write of HST_SEMn.ACQUIRE tries to take a semaphore. -/
  | hstSemAcquire (reqs : List (Who × Fin 64))
  /-- HST_SEM_RELEASE (R484). A write of HST_SEMn.RELEASE frees a semaphore held by the writer. -/
  | hstSemRelease (who : Who) (n : Fin 64)
  /-- HST_REG_WRITE (R472). A write of a partition HBM region grant is accepted only under the grant rules. -/
  | hstRegWrite (who : Who) (p k : Fin 8) (size : Bool) (v : Word)
  /-- HST_HWIN_WRITE (R473). A partition writes its host window declarations. -/
  | hstHwinWrite (who : Who) (p : Fin 8) (k : Fin 4) (w : Fin 4) (v : Word)
  /-- HST_ADMIN_WRITE (R470). The acting administrator writes HST_ADMIN to name the administrator. -/
  | hstAdminWrite (who : Who) (v : Word)
  /-- JMP_COMMAND (R468). A JMP COMMAND message writes a descriptor at CMD_TAIL. -/
  | jmpCommand (m : JmpIn)
  /-- JMP_REG_READ (R468). A JMP REG_READ reads registers and answers with REG_DATA. -/
  | jmpRegRead (m : JmpIn)
  /-- JMP_REG_WRITE (R468). A JMP REG_WRITE writes consecutive registers and answers with ACK. -/
  | jmpRegWrite (m : JmpIn)
  /-- JMP_MEM_WRITE (R468). A JMP MEM_WRITE writes words into the partition's HBM regions. -/
  | jmpMemWrite (m : JmpIn)
  /-- JMP_MEM_READ (R468). A JMP MEM_READ reads HBM words and answers with MEM_DATA. -/
  | jmpMemRead (m : JmpIn)
  /-- JMP_POWER (R468). A JMP POWER message requests a power state under the power request rules. -/
  | jmpPower (m : JmpIn)
  /-- JMP_WAKE (R468). A JMP WAKE message wakes the device. -/
  | jmpWake (m : JmpIn)
  /-- JMP_EVENT_SEND (R486). An EVENT message carrying pending deliveries is sent within 50 µs of the first. -/
  | jmpEventSend (p : Fin 8) (sent : Bool)
  /-- FWU_BEGIN (R507). FWU_BEGIN starts or resumes a firmware download into the free slot. -/
  | fwuBegin (c : Cmd)
  /-- FWU_CHUNK (R507). FWU_CHUNK erases and programs one chunk and records it. -/
  | fwuChunk (c : Cmd)
  /-- FWU_VERIFY (R507). FWU_VERIFY checks the downloaded slot. -/
  | fwuVerify (c : Cmd)
  /-- FWU_ACTIVATE (R508). FWU_ACTIVATE writes a trial boot record and restarts the control processors in the trial image. -/
  | fwuActivate (c : Cmd)
  /-- ACTIVATION_PAUSE_END (R508). The trial image's first fetch ends the activation pause, FWU_ACTIVATE completes and deferred cues apply. -/
  | activationPauseEnd (us : Nat)
  /-- FWU_CONFIRM (R509). FWU_CONFIRM confirms the trial image and raises the fuse counter. -/
  | fwuConfirm (c : Cmd)
  /-- FWU_ABORT (R509). FWU_ABORT abandons a download, or falls back from a trial. -/
  | fwuAbort (c : Cmd)
  /-- FW_WATCHDOG_EXPIRE (R509). The 2 s watchdog expires and the control processors restart. -/
  | fwWatchdogExpire
  /-- CFG_ITEM (R506). CFG_ITEM reads or writes a configuration store item. -/
  | cfgItem (c : Cmd)
  /-- CFG_HALF_ERASE (R505). After a confirmation, the old configuration half is erased within 10 s. -/
  | cfgHalfErase
  /-- ATT_REPORT (R511). ATT_REPORT produces a signed attestation report. -/
  | attReport (cs : List Cmd)
  /-- BOOT_REDUCED (R498). The selected image runs, the early picture starts and BOOT_REDUCED is raised. -/
  | bootReduced
  /-- BOOT_FULL (R501). All conditions of full service hold, group 0 switches to plane 255 at an FL and BOOT_FULL is raised. -/
  | bootFull
  /-- FWU_RCV_PROGRAM (R502). In recovery, writing FWU_RCV_CTRL.PROGRAM programs a chunk into a slot. -/
  | fwuRcvProgram (who : Who) (v : Word)
  /-- FWU_RCV_VERIFY (R502). In recovery, writing FWU_RCV_CTRL.VERIFY verifies a slot and boots it if it passes. -/
  | fwuRcvVerify (who : Who) (v : Word)
  /-- EVT_SEL_WRITE (R490). Writing EVT_SEL selects the event number shown in the route registers. -/
  | evtSelWrite (who : Who) (v : Word)
  /-- EGR_SSEL_WRITE (R328). Writing EGR_SSEL or EGR_QSEL selects the subscriber or queue shown in the window registers. -/
  | egrSselWrite (who : Who) (queue : Bool) (v : Word)
  /-- PATTERN_WORD_RX (R181). In a test loop with PAT = 1, the pattern checker receives a PRBS31 word, sets PSYNC after 16 error-free words and counts byte errors in LNK_PRBS_ERRi. -/
  | patternWordRx (lane : Fin 1024) (groups : List Nat)
  /-- CAM_TRIG_PULSE_END (R394). TRIG_WIDTH µs after a trigger, the CAMp_TRIG ball returns inactive and the port's pulse ends. -/
  | camTrigPulseEnd (port : Fin 2)
  /-- SLC_COMMAND_DONE (R434). A Sluice compress, flush or decompress command finishes its blocks at the engine rate and completes with DONE, BAD_ARGUMENT or ABORTED, carrying its results. -/
  | slcCommandDone (decode : Bool)
  /-- PCIE_LINK_CHANGE (R525). A PCIe port's link goes down or comes up, or a hot reset arrives, resetting the functions' configuration space and MSI-X table, with MSI-X messages discarded while the link is down. -/
  | pcieLinkChange (port : Fin 4) (what : LinkChange)
  /-- FUNCTION_LEVEL_RESET (R525). A Function Level Reset of a PCIe function resets that function's configuration space and MSI-X table and no register. -/
  | functionLevelReset (p : Fin 8)
  /-- REF_CLOCK_RETURN (R447). A lost reference clock returns within ±1,000 ppm of nominal and CLK_STAT reports it present again. -/
  | refClockReturn (ref : Fin 4)
  deriving DecidableEq, Repr

end Sys2Proof
end

