-- ==== Sys2Proof/Decode.lean ====
section
/-!
DEFINITION. The command that a word of the operation table spells. The table gives no row any bits, so no word spells a
command.
-/

namespace Sys2Proof

/-- The command spelt by `nbits` bits with value `w`: none, since the table gives bits to no row. -/
def decodeTableWord (_nbits _w : Nat) : Option Instr := none

end Sys2Proof
end

