-- ==== Sys2Proof/Machine/Bits.lean ====
section
/-!
DEFINITION. Arithmetic of the specification's notation: bit ranges, fixed point, rounding, byte order (R4, R7, R9, R11)
and CRC-32C (R78).
-/

namespace Sys2Proof.Machine

/-- Bits [hi:lo] of `n` (R4). -/
def bitsOf (n hi lo : Nat) : Nat := n / 2 ^ lo % 2 ^ (hi + 1 - lo)

/-- `n` with bits [hi:lo] replaced by the low bits of `v`. -/
def putBits (n hi lo v : Nat) : Nat :=
  n / 2 ^ (hi + 1) * 2 ^ (hi + 1) + v % 2 ^ (hi + 1 - lo) * 2 ^ lo + n % 2 ^ lo

/-- Bit `i` of `n`. -/
def bitOf (n i : Nat) : Bool := n / 2 ^ i % 2 = 1

/-- The value of a `w`-bit two's complement code (R7). -/
def toSigned (w n : Nat) : Int :=
  let m := n % 2 ^ w
  if m < 2 ^ (w - 1) then (m : Int) else (m : Int) - (2 ^ w : Nat)

/-- The `w`-bit two's complement code of `x` (R7). -/
def ofSigned (w : Nat) (x : Int) : Nat := (x % ((2 ^ w : Nat) : Int)).toNat

/-- `x >> s`: floor division by 2ˢ (R11). -/
def shr (x : Int) (s : Nat) : Int := x / ((2 ^ s : Nat) : Int)

/-- rnd(x, s): round to nearest, ties towards +∞ (R11). -/
def rnd (x : Int) (s : Nat) : Int := if s = 0 then x else shr (x + ((2 ^ (s - 1) : Nat) : Int)) s

/-- clamp(x, lo, hi) (R11). -/
def clampI (x lo hi : Int) : Int := if x < lo then lo else if hi < x then hi else x

/-- clamp on naturals. -/
def clampN (x lo hi : Nat) : Nat := if x < lo then lo else if hi < x then hi else x

/-- ⌈a / b⌉. -/
def ceilDiv (a b : Nat) : Nat := (a + b - 1) / b

/-- One count more, kept at `top` (a counter that saturates). -/
def satInc (top n : Nat) : Nat := if n < top then n + 1 else n

/-- The signed 32-bit difference a − b (R75, R469, R493). -/
def diff32 (a b : Nat) : Int := toSigned 32 (a + 2 ^ 32 - b % 2 ^ 32)

/-- The signed 64-bit difference of two times (R331). -/
def diff64 (a b : Nat) : Int := toSigned 64 (a + 2 ^ 64 - b % 2 ^ 64)

/-- t is at or before u (R331). -/
def tnsLe (t u : Nat) : Bool := decide (0 ≤ diff64 u t)

/-- The earliest of a list of times (R331). -/
def tnsMin : List Nat → Option Nat
  | [] => none
  | t :: r => match tnsMin r with
    | some u => some (if tnsLe t u then t else u)
    | none => some t

/-- The four bytes of a word, little-endian (R9). -/
def wordBytes (w : Word) : List Byte :=
  [BitVec.ofNat 8 w.toNat, BitVec.ofNat 8 (w.toNat / 256), BitVec.ofNat 8 (w.toNat / 65536),
    BitVec.ofNat 8 (w.toNat / 16777216)]

/-- Words as bytes, each little-endian (R9). -/
def wordsBytes (ws : List Word) : List Byte := ws.flatMap wordBytes

/-- Bytes as words, each little-endian (R9); a last word that is cut short has zero bytes above. -/
def bytesWords : List Byte → List Word
  | [] => []
  | [a] => [Word.ofNat a.toNat]
  | [a, b] => [Word.ofNat (a.toNat + 256 * b.toNat)]
  | [a, b, c] => [Word.ofNat (a.toNat + 256 * b.toNat + 65536 * c.toNat)]
  | a :: b :: c :: d :: r =>
    Word.ofNat (a.toNat + 256 * b.toNat + 65536 * c.toNat + 16777216 * d.toNat) :: bytesWords r

/-- A number from bytes, most significant first (network order). -/
def beNat (bs : List Byte) : Nat := bs.foldl (fun n b => 256 * n + b.toNat) 0

/-- The `n` bytes of a number, most significant first. -/
def natBe : Nat → Nat → List Byte
  | 0, _ => []
  | n + 1, v => natBe n (v / 256) ++ [BitVec.ofNat 8 v]

/-- Bytes `off` to `off + n − 1` of a frame, as a number in network order. -/
def beAt (f : List Byte) (off n : Nat) : Nat := beNat ((f.drop off).take n)

/-- One bit step of the reflected CRC-32C register (R78). -/
def crcBit (c : Nat) : Nat := if c % 2 = 1 then Nat.xor (c / 2) 0x82F63B78 else c / 2

/-- One byte into the CRC-32C register (R78). -/
def crcByte (c b : Nat) : Nat :=
  crcBit (crcBit (crcBit (crcBit (crcBit (crcBit (crcBit (crcBit (Nat.xor c b))))))))

/-- Bytes into the CRC-32C register. -/
def crcFeed (c : Nat) (bs : List Byte) : Nat := bs.foldl (fun c b => crcByte c b.toNat) c

/-- CRC-32C of a byte string: initial value and final XOR 0xFFFF_FFFF (R78). -/
def crcBytes (bs : List Byte) : Nat := Nat.xor (crcFeed 0xFFFFFFFF bs) 0xFFFFFFFF

/-- CRC-32C over words, each most significant byte first (R78). -/
def crcWords (ws : List Word) : Word := Word.ofNat (crcBytes (ws.flatMap (fun w => natBe 4 w.toNat)))

/-- The index of the highest set bit, 0 for 0 (R106). -/
def msb (n : Nat) : Nat := Nat.log2 n

/-- Element `i` of a list of numbers, 0 beyond it. -/
def nth (l : List Nat) (i : Nat) : Nat := l.getD i 0

/-- Word `i` of a block as a number, 0 beyond it. -/
def wordAt (ws : List Word) (i : Nat) : Nat := (ws.getD i 0).toNat

/-- Bits [hi:lo] of word `i` of a block. -/
def fieldAt (ws : List Word) (i hi lo : Nat) : Nat := bitsOf (wordAt ws i) hi lo

/-- The numbers 0 to n − 1 that satisfy `p`, least first: the lowest, if any. -/
def firstBelow (n : Nat) (p : Nat → Bool) : Option Nat := (List.range n).find? p

/-- `l` cut into pieces of `n`; `fuel` bounds the pieces. -/
def chunks {α : Type} (n : Nat) : Nat → List α → List (List α)
  | 0, _ => []
  | fuel + 1, l => if l.isEmpty then [] else l.take n :: chunks n fuel (l.drop n)

end Sys2Proof.Machine
end

