-- ==== Sys2Proof/Machine/Crypto.lean ====
section
/-!
DEFINITION. The cryptographic functions that spec/20 takes from outside standards (R494, R495, R511): SHA3-256 and SHAKE of
FIPS 202, and the verification of ML-DSA-44 signatures of FIPS 204. PRESUMED (log 14): the standards are not in the
specification; the functions are written from general knowledge of them. Words and lanes are naturals, and a lane of
Keccak-f[1600] is below 2⁶⁴.
-/

namespace Sys2Proof.Machine

/-! ## FIPS 202 -/

/-- A 64-bit lane rotated left. -/
def rotLane (a n : Nat) : Nat := a * 2 ^ n % 2 ^ 64 + a / 2 ^ (64 - n)

/-- The rotation offsets of ρ, lane x + 5·y: one list for each y. -/
def rhoOffsets : List Nat := [0, 1, 62, 28, 27] ++ [36, 44, 6, 55, 20] ++ [3, 10, 43, 25, 39] ++ [41, 45, 15, 21, 8] ++ [18, 2, 61, 56, 14]

/-- The round constants of ι. -/
def iotaConsts : List Nat :=
  [0x1, 0x8082, 0x800000000000808A, 0x8000000080008000, 0x808B, 0x80000001] ++
    [0x8000000080008081, 0x8000000000008009, 0x8A, 0x88, 0x80008009, 0x8000000A] ++
    [0x8000808B, 0x800000000000008B, 0x8000000000008089, 0x8000000000008003, 0x8000000000008002, 0x8000000000000080] ++
    [0x800A, 0x800000008000000A, 0x8000000080008081, 0x8000000000008080, 0x80000001, 0x8000000080008008]

/-- A round of Keccak-f[1600]: θ, ρ, π, χ and ι. -/
def keccakRound (a : List Nat) (rc : Nat) : List Nat :=
  let c := (List.range 5).map (fun x => (List.range 5).foldl (fun v y => Nat.xor v (nth a (x + 5 * y))) 0)
  let d := (List.range 5).map (fun x => Nat.xor (nth c ((x + 4) % 5)) (rotLane (nth c ((x + 1) % 5)) 1))
  let b := (List.range 25).map (fun i =>
    let k := (i % 5 + 3 * (i / 5)) % 5 + 5 * (i % 5)
    rotLane (Nat.xor (nth a k) (nth d (k % 5))) (nth rhoOffsets k))
  (List.range 25).map (fun i =>
    let row := i / 5 * 5
    let v := Nat.xor (nth b i) (Nat.land (Nat.xor (nth b (row + (i + 1) % 5)) (2 ^ 64 - 1)) (nth b (row + (i + 2) % 5)))
    if i = 0 then Nat.xor v rc else v)

/-- Keccak-f[1600]. -/
def keccakF (a : List Nat) : List Nat := iotaConsts.foldl keccakRound a

/-- The lanes of a block of bytes, least significant byte first. -/
def lanesOf (bs : List Byte) : List Nat := (chunks 8 25 bs).map (fun g => beNat g.reverse)

/-- The bytes of lanes. -/
def laneBytes (a : List Nat) : List Byte := a.flatMap (fun v => (natBe 8 v).reverse)

/-- A message padded to blocks of `rate` bytes: the domain's suffix, then pad10*1. -/
def padMessage (rate suffix : Nat) (bs : List Byte) : List Byte :=
  let n := rate - bs.length % rate
  if n = 1 then bs ++ [BitVec.ofNat 8 (suffix + 0x80)]
  else bs ++ [BitVec.ofNat 8 suffix] ++ List.replicate (n - 2) 0 ++ [0x80]

/-- A block is absorbed. -/
def absorb (a : List Nat) (block : List Byte) : List Nat :=
  let l := lanesOf block
  keccakF ((List.range 25).map (fun i => Nat.xor (nth a i) (nth l i)))

/-- `n` blocks of `rate` bytes are squeezed. -/
def squeeze (rate : Nat) : Nat → List Nat → List Byte
  | 0, _ => []
  | n + 1, a => (laneBytes a).take rate ++ squeeze rate n (keccakF a)

/-- KECCAK[1600 − 8·rate] of a message with a domain suffix, `n` bytes long. -/
def sponge (rate suffix n : Nat) (bs : List Byte) : List Byte :=
  let p := padMessage rate suffix bs
  (squeeze rate (ceilDiv n rate) ((chunks rate (p.length / rate) p).foldl absorb (List.replicate 25 0))).take n

/-- SHA3-256 (R494, R495). -/
def sha3 (bs : List Byte) : List Byte := sponge 136 0x06 32 bs

/-- SHAKE128, `n` bytes. -/
def shake128 (n : Nat) (bs : List Byte) : List Byte := sponge 168 0x1F n bs

/-- SHAKE256, `n` bytes. -/
def shake256 (n : Nat) (bs : List Byte) : List Byte := sponge 136 0x1F n bs

/-! ## FIPS 204, ML-DSA-44 -/

/-- The modulus q. -/
def dsaQ : Nat := 8380417

/-- 2·γ₂, with γ₂ = (q − 1) / 88. -/
def dsaAlpha : Nat := 190464

/-- `x` to the power `n`, modulo q. -/
def powQ (x : Nat) : Nat → Nat
  | 0 => 1
  | n + 1 => powQ x n * x % dsaQ

/-- The eight bits of `m` in reversed order. -/
def brv8 (m : Nat) : Nat := (List.range 8).foldl (fun v i => 2 * v + m / 2 ^ i % 2) 0

/-- The powers of ζ = 1753, in bit-reversed order. -/
def dsaZetas : List Nat := (List.range 256).map (fun m => powQ 1753 (brv8 m))

/-- The sum, difference and product of polynomials by coefficients, modulo q. -/
def addQ (a b : List Nat) : List Nat := List.zipWith (fun x y => (x + y) % dsaQ) a b
def subQ (a b : List Nat) : List Nat := List.zipWith (fun x y => (x + dsaQ - y) % dsaQ) a b
def mulQ (a b : List Nat) : List Nat := List.zipWith (fun x y => x * y % dsaQ) a b

/-- The number-theoretic transform from node `m` down, `d` levels. -/
def nttFrom (zs : List Nat) : Nat → Nat → List Nat → List Nat
  | 0, _, w => w
  | d + 1, m, w =>
    let lo := w.take (w.length / 2)
    let hi := (w.drop (w.length / 2)).map (fun x => x * nth zs m % dsaQ)
    nttFrom zs d (2 * m) (addQ lo hi) ++ nttFrom zs d (2 * m + 1) (subQ lo hi)

/-- Its inverse but for the factor 256; ζ⁻¹ = −ζ²⁵⁵, so the inverse of ζ to a power is ζ to the rest of 512. -/
def inttFrom : Nat → Nat → List Nat → List Nat
  | 0, _, w => w
  | d + 1, m, w =>
    let a := inttFrom d (2 * m) (w.take (w.length / 2))
    let b := inttFrom d (2 * m + 1) (w.drop (w.length / 2))
    let z := powQ 1753 (512 - brv8 m)
    addQ a b ++ (subQ a b).map (fun x => x * z % dsaQ)

/-- NTT, and its inverse with the factor 256⁻¹ = 8,347,681. -/
def ntt (w : List Nat) : List Nat := nttFrom dsaZetas 8 1 w
def intt (w : List Nat) : List Nat := (inttFrom 8 1 w).map (fun x => x * 8347681 % dsaQ)

/-- `count` fields of `width` bits of packed bytes, least significant bit first. -/
def unpackBits (width count : Nat) (bs : List Byte) : List Nat :=
  let v := beNat bs.reverse
  (List.range count).map (fun i => v / 2 ^ (width * i) % 2 ^ width)

/-- Fields of `width` bits packed into bytes. -/
def packBits (width : Nat) (xs : List Nat) : List Byte :=
  (natBe (ceilDiv (width * xs.length) 8) (xs.foldr (fun x v => x + 2 ^ width * v) 0)).reverse

/-- The entry (r, s) of Â: coefficients below q of SHAKE128(ρ ‖ s ‖ r), three bytes each (ExpandA, RejNTTPoly). -/
def expandEntry (rho : List Byte) (r s : Nat) : List Nat :=
  ((unpackBits 24 336 (shake128 1008 (rho ++ [BitVec.ofNat 8 s, BitVec.ofNat 8 r]))).map (fun v => v % 2 ^ 23)).filter
    (fun v => decide (v < dsaQ)) |>.take 256

/-- The steps of SampleInBall from index `i` on, 39 nonzero coefficients in all: `bs` the bytes left, `h` the sign bits left. -/
def ballFrom : List Byte → Nat → Nat → List Nat → List Nat
  | [], _, _, c => c
  | b :: r, i, h, c =>
    if 256 ≤ i then c
    else if i < b.toNat then ballFrom r i h c
    else ballFrom r (i + 1) (h / 2) ((c.set i (nth c b.toNat)).set b.toNat (if h % 2 = 1 then dsaQ - 1 else 1))

/-- SampleInBall: the challenge polynomial of a commitment hash. -/
def sampleInBall (seed : List Byte) : List Nat :=
  let bs := shake256 408 seed
  ballFrom (bs.drop 8) 217 (beNat (bs.take 8).reverse) (List.replicate 256 0)

/-- The positions of the hint in one polynomial are ascending. -/
def strictUp : List Nat → Bool
  | a :: b :: r => decide (a < b) && strictUp (b :: r)
  | _ => true

/-- HintBitUnpack: the hinted positions of each of the four polynomials; none where the encoding is refused. -/
def unpackHint (y : List Nat) : Option (List (List Nat)) :=
  let ends := 0 :: (y.drop 80).take 4
  let parts := (List.range 4).map (fun i => (y.take (nth ends (i + 1))).drop (nth ends i))
  if (List.range 4).all (fun i => decide (nth ends i ≤ nth ends (i + 1)) && decide (nth ends (i + 1) ≤ 80)) && parts.all strictUp &&
      ((y.take 80).drop (nth ends 4)).all (fun x => decide (x = 0))
  then some parts else none

/-- UseHint on one coefficient. -/
def useHint (hinted : Bool) (r : Nat) : Nat :=
  let low := r % dsaAlpha
  let up := decide (dsaAlpha / 2 < low)
  let top := if up then r / dsaAlpha + 1 else r / dsaAlpha
  let neg := up || decide (low = 0) || decide (top = 44)
  let r1 := top % 44
  if !hinted then r1 else if neg then (r1 + 43) % 44 else (r1 + 1) % 44

/-- ML-DSA-44 verification with an empty context: public key, message, signature (R495). -/
def mldsaVerify (pk msg sig : List Byte) : Bool :=
  let rho := pk.take 32
  let t1 := (chunks 320 4 (pk.drop 32)).map (unpackBits 10 256)
  let ct := sig.take 32
  let zc := (chunks 576 4 ((sig.drop 32).take 2304)).map (unpackBits 18 256)
  let mu := shake256 64 (shake256 64 pk ++ [0, 0] ++ msg)
  let c := ntt (sampleInBall ct)
  let zs := zc.map (fun p => ntt (p.map (fun v => (131072 + dsaQ - v) % dsaQ)))
  match unpackHint ((sig.drop 2336).map (fun b => b.toNat)) with
  | none => false
  | some hs =>
    let w1 := (List.range 4).map (fun r =>
      let az := (List.range 4).foldl (fun acc s => addQ acc (mulQ (expandEntry rho r s) (zs.getD s []))) (List.replicate 256 0)
      let w := intt (subQ az (mulQ c (ntt ((t1.getD r []).map (fun v => v * 8192)))))
      (List.range 256).map (fun i => useHint ((hs.getD r []).contains i) (nth w i)))
    decide (pk.length = 1312) && decide (sig.length = 2420) &&
      zc.all (fun p => p.all (fun v => decide (78 < v) && decide (v < 262066))) &&
      decide (shake256 32 (mu ++ w1.flatMap (packBits 6)) = ct)

end Sys2Proof.Machine
end

