-- ==== Sys2Proof/Machine/Nal.lean ====
section
/-!
DEFINITION. What the decoder reads of NAL units beside the decoding process itself: headers, SEI messages, the PSDs they carry
(R79) and the decoded picture hashes (R257). The layouts and the hash functions are those of ITU-T H.265 and RFC 1321, outside
standards the specification names (log 41).
-/

namespace Sys2Proof.Machine

/-- nal_unit_type. -/
def nalType (n : List Byte) : Nat := beAt n 0 1 / 2 % 64

/-- nuh_layer_id. -/
def nalLayer (n : List Byte) : Nat := beAt n 0 2 / 8 % 64

/-- TemporalId. -/
def nalTid (n : List Byte) : Nat := beAt n 1 1 % 8 - 1

/-- Bytes of a NAL unit without its emulation-prevention bytes; `z` counts the zero bytes just before. -/
def unescape : Nat → List Byte → List Byte
  | _, [] => []
  | z, b :: r =>
    if 2 ≤ z ∧ b = 3 then unescape 0 r
    else b :: unescape (if b = 0 then z + 1 else 0) r

/-- A number coded as bytes 0xFF and a last byte below it, and the bytes after it. -/
def seiNumber : List Byte → Nat × List Byte
  | [] => (0, [])
  | b :: r => if b = 255 then (255 + (seiNumber r).1, (seiNumber r).2) else (b.toNat, r)

/-- More SEI messages follow: what is left is more than the trailing bits. -/
def seiMore (l : List Byte) : Bool :=
  match l.reverse.dropWhile (fun b => decide (b = 0)) with
  | [] => false
  | b :: r => !(decide (b = 0x80) && r.isEmpty)

/-- An SEI message: payloadType, payloadSize and payload. -/
structure SeiMsg where
  typ : Nat
  size : Nat
  payload : List Byte
  deriving DecidableEq, Repr, Inhabited

/-- The SEI messages of an RBSP; `fuel` bounds them. -/
def seiMessages : Nat → List Byte → List SeiMsg
  | 0, _ => []
  | fuel + 1, l =>
    if seiMore l then
      let t := seiNumber l
      let n := seiNumber t.2
      ⟨t.1, n.1, n.2.take n.1⟩ :: seiMessages fuel (n.2.drop n.1)
    else []

/-- The SEI messages of the NAL units of type `t` and layer `layer`, in bitstream order. -/
def seisOf (t layer : Nat) (nals : List (List Byte)) : List SeiMsg :=
  (nals.filter (fun n => decide (nalType n = t) && decide (nalLayer n = layer))).flatMap
    (fun n => seiMessages n.length (unescape 0 (n.drop 2)))

/-- Words carried most significant byte first (R79); a last one that is cut short is left out. -/
def beWords (bs : List Byte) : List Word :=
  (chunks 4 (bs.length / 4) bs).map (fun q => Word.ofNat (beNat q))

/-- The UUID of a PSD (R79). -/
def psdUuid : List Byte := natBe 16 0x3F6E2B107D1C4A579C02A11E0F5B3D28

/-- The PSDs of an access unit, each with its payloadSize, in bitstream order: prefix SEI messages of payloadType 5 in layer 0
with the UUID of R79. -/
def psdSeis (nals : List (List Byte)) : List (Nat × List Word) :=
  ((seisOf 39 0 nals).filter (fun m => decide (m.typ = 5) && decide (m.payload.take 16 = psdUuid))).map
    (fun m => (m.size, beWords (m.payload.drop 16)))

/-! ## Decoded picture hashes (R257) -/

/-- Bytes of the samples of a component: one each up to 8 bits, else two, the low one first. -/
def hashBytes (depth : Nat) (xs : List Nat) : List Byte :=
  xs.flatMap (fun x => if depth ≤ 8 then [BitVec.ofNat 8 x] else [BitVec.ofNat 8 x, BitVec.ofNat 8 (x / 256)])

/-- One bit step of the 16-bit CRC of a component. -/
def crc16Bit (c : Nat) (b : Bool) : Nat :=
  Nat.xor ((2 * c + bit b) % 65536) (if 32768 ≤ c then 0x1021 else 0)

/-- The CRC of a component. -/
def hashCrc (bs : List Byte) : Nat :=
  (bs ++ [0, 0]).foldl (fun c (b : Byte) => (List.range 8).foldl (fun c i => crc16Bit c (bitOf b.toNat (7 - i))) c) 0xFFFF

/-- The checksum of a component of width `w`. -/
def hashSum (depth w : Nat) (xs : List Nat) : Nat :=
  (xs.zipIdx.map (fun e =>
    let x := e.2 % w
    let y := e.2 / w
    let m := Nat.xor (Nat.xor (x % 256) (y % 256)) (Nat.xor (x / 256) (y / 256))
    Nat.xor (e.1 % 256) m + (if 8 < depth then Nat.xor (e.1 / 256) m else 0))).sum % 2 ^ 32

/-- The constants of MD5. -/
def md5K : List Nat :=
  [0xD76AA478, 0xE8C7B756, 0x242070DB, 0xC1BDCEEE, 0xF57C0FAF, 0x4787C62A, 0xA8304613, 0xFD469501] ++
  [0x698098D8, 0x8B44F7AF, 0xFFFF5BB1, 0x895CD7BE, 0x6B901122, 0xFD987193, 0xA679438E, 0x49B40821] ++
  [0xF61E2562, 0xC040B340, 0x265E5A51, 0xE9B6C7AA, 0xD62F105D, 0x02441453, 0xD8A1E681, 0xE7D3FBC8] ++
  [0x21E1CDE6, 0xC33707D6, 0xF4D50D87, 0x455A14ED, 0xA9E3E905, 0xFCEFA3F8, 0x676F02D9, 0x8D2A4C8A] ++
  [0xFFFA3942, 0x8771F681, 0x6D9D6122, 0xFDE5380C, 0xA4BEEA44, 0x4BDECFA9, 0xF6BB4B60, 0xBEBFBC70] ++
  [0x289B7EC6, 0xEAA127FA, 0xD4EF3085, 0x04881D05, 0xD9D4D039, 0xE6DB99E5, 0x1FA27CF8, 0xC4AC5665] ++
  [0xF4292244, 0x432AFF97, 0xAB9423A7, 0xFC93A039, 0x655B59C3, 0x8F0CCC92, 0xFFEFF47D, 0x85845DD1] ++
  [0x6FA87E4F, 0xFE2CE6E0, 0xA3014314, 0x4E0811A1, 0xF7537E82, 0xBD3AF235, 0x2AD7D2BB, 0xEB86D391]

/-- The rotations of MD5. -/
def md5R (i : Nat) : Nat :=
  nth (match i / 16 with | 0 => [7, 12, 17, 22] | 1 => [5, 9, 14, 20] | 2 => [4, 11, 16, 23] | _ => [6, 10, 15, 21]) (i % 4)

/-- The four words of the MD5 state. -/
structure Md5 where
  a : Word
  b : Word
  c : Word
  d : Word
  deriving DecidableEq, Repr

/-- One of the 64 steps of MD5 on a block of 16 words. -/
def md5Step (ws : List Word) (t : Md5) (i : Nat) : Md5 :=
  let f := match i / 16 with
    | 0 => (t.b &&& t.c) ||| (~~~t.b &&& t.d)
    | 1 => (t.d &&& t.b) ||| (~~~t.d &&& t.c)
    | 2 => t.b ^^^ t.c ^^^ t.d
    | _ => t.c ^^^ (t.b ||| ~~~t.d)
  let g := match i / 16 with
    | 0 => i
    | 1 => (5 * i + 1) % 16
    | 2 => (3 * i + 5) % 16
    | _ => 7 * i % 16
  let x := t.a + f + Word.ofNat (nth md5K i) + ws.getD g 0
  ⟨t.d, t.b + x.rotateLeft (md5R i), t.b, t.c⟩

/-- One block of MD5. -/
def md5Block (t : Md5) (bs : List Byte) : Md5 :=
  let u := (List.range 64).foldl (md5Step (bytesWords bs)) t
  ⟨t.a + u.a, t.b + u.b, t.c + u.c, t.d + u.d⟩

/-- MD5 of a byte string, as a number in network order. -/
def md5 (bs : List Byte) : Nat :=
  let n := bs.length
  let m := bs ++ [0x80] ++ List.replicate ((119 - n % 64) % 64) 0 ++ (natBe 8 (8 * n)).reverse
  let t := (chunks 64 (m.length / 64) m).foldl md5Block ⟨0x67452301, 0xEFCDAB89, 0x98BADCFE, 0x10325476⟩
  beNat (wordsBytes [t.a, t.b, t.c, t.d])

/-- One component of a picture: its bit depth, its width and its samples in raster order. -/
structure Component where
  depth : Nat
  w : Nat
  xs : List Nat
  deriving DecidableEq, Repr

/-- Bytes of a component's digest by method: 0 MD5, 1 CRC, 2 checksum. -/
def digestLen (method : Nat) : Nat := if method = 0 then 16 else if method = 1 then 2 else 4

/-- The digest of a component (R257). -/
def digest (method : Nat) (c : Component) : Nat :=
  if method = 0 then md5 (hashBytes c.depth c.xs)
  else if method = 1 then hashCrc (hashBytes c.depth c.xs) else hashSum c.depth c.w c.xs

/-- A decoded picture hash message does not match the components. A method H.265 does not name matches nothing it checks. -/
def hashFails (comps : List Component) (m : SeiMsg) : Bool :=
  let k := beAt m.payload 0 1
  decide (k ≤ 2) && comps.zipIdx.any (fun e => decide (digest k e.1 ≠ beAt m.payload (1 + e.2 * digestLen k) (digestLen k)))

/-- Decoded picture hash messages of a layer's picture that do not match it: suffix SEI messages of payloadType 132 (R257). -/
def hashMismatches (layer : Nat) (nals : List (List Byte)) (comps : List Component) : Nat :=
  (((seisOf 40 layer nals).filter (fun m => decide (m.typ = 132))).filter (hashFails comps)).length

/-! ## Alpha channel information (R238) -/

/-- alpha_channel_use_idc after the messages of an auxiliary layer in an access unit, from `old` before it: a message of
payloadType 165 sets it, or cancels what was set. -/
def alphaUseAfter (layer : Nat) (nals : List (List Byte)) (old : Nat) : Nat :=
  ((seisOf 39 layer nals).filter (fun m => decide (m.typ = 165))).foldl
    (fun u m => let b := beAt m.payload 0 1; if 128 ≤ b then 0 else if m.payload.isEmpty then u else b / 16 % 8) old

end Sys2Proof.Machine
end

