-- ==== Sys2Proof/Config.lean ====
section
/-!
DEFINITION. What an implementation fixes and the specification leaves open. Every constant here is opaque: nothing in
Lean can evaluate it, so what is proved holds whatever its value. The assumption log names each.
-/

namespace Sys2Proof

/-- A free value: what the specification leaves open each time (log 3). It is applied to the counter `State.free`, which
every use advances. -/
opaque Config.freeValue : Nat → Nat

/-- What a read of a poisoned byte of HBM returns, by the counter `State.free` and the address: the specification names only the
mark (R420, R422; log 61). -/
opaque Config.poisonedByte : Nat → Nat → BitVec 8

/-- Where in the CORRECTION class a word of a tile's tables lies: by kind (0 ray map, 1 gain map), lane and index of the word, which
the specification does not lay out (R411; log 62). -/
opaque Config.correctionPlace : Nat → Nat → Nat → Nat

/-- The device identifiers of the HBM stacks (R415; log 72). -/
opaque Config.hbmIds : List Nat

/-- Where an allocator of a pool puts `need` KiB, given the pool's code and the extents in use (log 12); its answer is
taken only where it is legal. -/
opaque Config.place : Nat → List (Nat × Nat) → Nat → Nat

/-- The fused unique device number SYS_UID (R528); log 20. -/
opaque Config.uid : Nat

/-- ML-DSA-44 signature of a message by the identity key, from the counter `State.free` and the message: the private key is fused,
and a signature of FIPS 204 draws on random bytes (R511); log 14. -/
opaque Config.mldsaSign : Nat → List Byte → List Byte

/-- What the device writes into the TRIM item after a run, by the counter `State.free`: the specification lays its trim values out
nowhere (R455, R504; log 34). -/
opaque Config.trimValues : Nat → List Byte

/-- The public key of the identity key (R511); log 14. -/
opaque Config.identityKey : List Byte

/-- The digest of fused key `k`, 0 or 1 (R495); log 14. -/
opaque Config.keyDigest : Nat → List Byte

/-- ATT_FUSE.KEYS_OK, fixed by fuses (R513); log 14. -/
opaque Config.keysOk : Bool

/-- A syntax element of an encode session's parameter sets that neither R302 nor H.265 fixes; log 13. -/
opaque Config.encElement : Nat → Nat

/-- Bytes of a slice header with its start code for a session's settings, a part of HDR (R303); log 13. -/
opaque Config.encSliceHead : List Nat → Nat

/-- The code stream the Sluice compressor chooses for an original (R425, R426); it is used only where it decodes to the
original and is shorter, so only its choice is free; log 26. -/
opaque Config.sluiceStream : List Byte → List Byte

/-- Replacement of dynamic defects by threshold and Bayer phase (R398 stage 2b, not normative); log 59. -/
opaque Config.camDynamic : Nat → Nat → List (List Nat) → List (List Nat)

/-- Spatial noise reduction by strength and Bayer phase (R398 stage 3, not normative); log 59. -/
opaque Config.camSpatial : Nat → Nat → List (List Nat) → List (List Nat)

/-- Temporal noise reduction by strength and history (R398 stage 4, not normative); log 59. -/
opaque Config.camTemporal : Nat → List (List Nat) → List (List Nat) → List (List Nat)

/-- The history that temporal noise reduction keeps after a frame, from strength, history and frame (R399); log 59. -/
opaque Config.camHistory : Nat → Option (List (List Nat)) → List (List Nat) → List (List Nat)

/-- Demosaic by Bayer phase: R, G, B at a pixel (R398 stage 5, not normative); log 59. -/
opaque Config.camDemosaic : Nat → List (List Nat) → Nat → Nat → Nat × Nat × Nat

/-- The IP address of a port, IPv4 or IPv6, as a number: the specification gives a port none (R214, R466); log 57. -/
opaque Config.portIp : Nat → Bool → Nat

/-- The MAC address that leads from a port to an IP address (R214, R466): neighbour discovery's outcome; log 57. -/
opaque Config.hopMac : Nat → List Byte → Nat

end Sys2Proof
end

