-- ==== Sys2Proof/Machine/FMap.lean ====
section
/-!
DEFINITION. Sparse tables kept in one canonical form: keys strictly rising, and no entry equal to what an unlisted key
reads as. Registers, memory and every table of the device that has a number are held this way, so that equal contents
are equal data.
-/

namespace Sys2Proof

/-- A sparse table: pairs of a key and what is held there, in rising order of the key. -/
abbrev FMap (α : Type) := List (Nat × α)

/-- What key `k` holds; an unlisted key holds `d`. -/
def FMap.get {α : Type} (d : α) : FMap α → Nat → α
  | [], _ => d
  | (k', v) :: r, k => if k = k' then v else FMap.get d r k

/-- Key `k` put in its place with value `v`, or taken out when `v` is what an unlisted key holds. -/
def FMap.set {α : Type} [DecidableEq α] (d : α) : FMap α → Nat → α → FMap α
  | [], k, v => if v = d then [] else [(k, v)]
  | (k', v') :: r, k, v =>
    if k < k' then (if v = d then (k', v') :: r else (k, v) :: (k', v') :: r)
    else if k = k' then (if v = d then r else (k, v) :: r)
    else (k', v') :: FMap.set d r k v

/-- The entries whose key satisfies `p`. -/
def FMap.keep {α : Type} (p : Nat → Bool) (m : FMap α) : FMap α := m.filter (fun e => p e.1)

/-- Every listed key lies above `b`, keys rise strictly, and no entry equals the default of its key. -/
def FMap.wfAbove {α : Type} [DecidableEq α] (d : Nat → α) : Option Nat → FMap α → Bool
  | _, [] => true
  | none, (k, v) :: r => decide (v ≠ d k) && FMap.wfAbove d (some k) r
  | some b, (k, v) :: r => decide (b < k) && decide (v ≠ d k) && FMap.wfAbove d (some k) r

/-- The canonical form of a table whose unlisted key `k` reads `d k`. -/
def FMap.wf {α : Type} [DecidableEq α] (d : Nat → α) (m : FMap α) : Bool := FMap.wfAbove d none m

end Sys2Proof
end

