-- ==== Sys2Proof/Machine/PartsA.lean ====
section
/-!
DEFINITION. The state of the light-field side beside the registers: panel map, stack slots, pools, fans, raster
groups, lanes and panel correction (spec/02 to spec/06).
-/

namespace Sys2Proof.Machine

/-- What is kept of a command that will complete later (R479): who gave it, its TAG, NOTIFY and opcode. -/
structure CmdRef where
  who : Who
  tag : Nat
  notify : Bool
  op : Nat
  deriving DecidableEq, Repr, Inhabited

/-! ## The light-field model (spec/02) -/

/-- A panel map tile record (R52). -/
structure TileRec where
  /-- HX0, 14 bits (R52). -/
  hx0 : Nat := 0
  /-- HY0, 13 bits (R52). -/
  hy0 : Nat := 0
  /-- VALID (R52). -/
  valid : Bool := false
  /-- HW_M1, 11 bits (R52). -/
  hwM1 : Nat := 0
  /-- HH_M1, 11 bits (R52). -/
  hhM1 : Nat := 0
  /-- BONDED (R52). -/
  bonded : Bool := false
  /-- GROUP, 0–3 (R52). -/
  group : Nat := 0
  /-- CODE12 (R52). -/
  code12 : Bool := false
  /-- TAG, 32 bits (R52). -/
  tag : Word := 0
  deriving DecidableEq, Repr, Inhabited

/-- The panel map in force (R50, R51, R547). -/
structure PanelMap where
  /-- GRID_W_M1 (R51). -/
  gridWM1 : Nat := 0
  /-- GRID_H_M1 (R51). -/
  gridHM1 : Nat := 0
  /-- A_M1 (R51). -/
  aM1 : Nat := 0
  /-- B_M1 (R51). -/
  bM1 : Nat := 0
  /-- RAY_TOTAL (R51). -/
  rayTotal : Nat := 0
  /-- Tile records by lane; an unlisted lane has the all-zero record (R50, R547). -/
  tiles : FMap TileRec := []
  deriving DecidableEq, Repr, Inhabited

/-- A plane entry of a PSD (R77). -/
structure PlaneEntry where
  /-- PLANE_ID. -/
  plane : Nat
  /-- DEPTH, S11.12. -/
  depth : Int
  /-- EDGE (R66). -/
  edge : Nat
  /-- LUT slot. -/
  lut : Nat
  /-- OX, S15.8. -/
  ox : Int
  /-- OY, S15.8. -/
  oy : Int
  /-- MATRIX (R67). -/
  matrix : Nat
  /-- RANGE (R67). -/
  range : Nat
  /-- ALPHA_MODE (R72). -/
  alphaMode : Nat
  /-- SCX, U4.12. -/
  scx : Nat
  /-- SCY, U4.12. -/
  scy : Nat
  /-- PLANE_ALPHA, U1.10. -/
  planeAlpha : Nat
  deriving DecidableEq, Repr, Inhabited

/-- An anchor of a PSD (R76). -/
structure Anchor where
  /-- TX, S15.8. -/
  tx : Int
  /-- TY, S15.8. -/
  ty : Int
  /-- TZ, S11.12. -/
  tz : Int
  /-- Plane entries, front to back (R63). -/
  entries : List PlaneEntry
  deriving DecidableEq, Repr, Inhabited

/-- A plane stack descriptor (R74, R75). -/
structure Psd where
  /-- SEQ, 32 bits. -/
  seq : Word
  /-- BLEND slot. -/
  blend : Nat
  /-- The anchors, 1–4. -/
  anchors : List Anchor
  /-- The CRC word, for the repeat test of R82. -/
  crc : Word
  deriving DecidableEq, Repr, Inhabited

/-- A stack slot (R61, R84). -/
structure Slot where
  /-- The newest accepted PSD; none while the slot is empty (R61). -/
  psd : Option Psd := none
  /-- Some group has latched that PSD (R84's superseded test). -/
  latched : Bool := false
  deriving DecidableEq, Repr, Inhabited

/-- One blend table entry: the weights of anchors 0–3, U1.11 (R73). -/
structure Blend where
  w0 : Nat
  w1 : Nat
  w2 : Nat
  w3 : Nat
  deriving DecidableEq, Repr, Inhabited

/-- The light-field configuration that every group may latch (spec/02). -/
structure Panel where
  /-- The panel map in force (R50, R547). -/
  map : PanelMap := {}
  /-- The eight stack slots (R59, R61); unlisted: empty. -/
  slots : FMap Slot := []
  /-- Loaded transfer LUT slots 4–63, 1,024 entries each (R69, R70); unlisted: unloaded. -/
  luts : FMap (List Nat) := []
  /-- Loaded blend table slots 0–15 (R73); unlisted: unloaded. -/
  blends : FMap (List Blend) := []
  /-- Loaded output LUTs, key 3·lane + channel, 3,329 entries each (R106, R107); unlisted: the reset contents of R107. -/
  outLuts : FMap (List Nat) := []
  deriving DecidableEq, Repr, Inhabited

/-! ## Pools, fans, raster groups (spec/03, spec/04) -/

/-- A timing set (R120). -/
structure Timing where
  /-- RAS_RATE.NUM. -/
  num : Nat := 60
  /-- RAS_RATE.DEN. -/
  den : Nat := 1
  /-- RAS_ACTIVE, ns. -/
  active : Nat := 16416000
  /-- RAS_LEAD, ns. -/
  lead : Nat := 250000
  /-- RAS_PHASE, signed ns. -/
  phase : Int := 0
  deriving DecidableEq, Repr, Inhabited

/-- The picture of one plane as a group latched it at FL (R121, R132–R134). -/
structure LatchedPic where
  /-- Plane ID. -/
  plane : Nat
  /-- Buffer index; none: the plane is transparent for the frame (R85, R133). -/
  buf : Option Nat
  /-- Byte address of the buffer (R263). -/
  addr : Nat
  /-- Width in texels. -/
  w : Nat
  /-- Height in texels. -/
  h : Nat
  deriving DecidableEq, Repr, Inhabited

/-- What a raster group latched at its FL (R121). -/
structure Latch where
  /-- The latched copies of the SH registers (R522), by byte address; unlisted: the register's reset value. -/
  regs : FMap Word := []
  /-- The stack slot latched (R121). -/
  slot : Nat := 0
  /-- The PSD of that slot (R84). -/
  psd : Option Psd := none
  /-- The planes' pictures (R132, R133). -/
  pics : List LatchedPic := []
  /-- Transfer LUTs in force (R71). -/
  luts : FMap (List Nat) := []
  /-- Blend tables in force (R71). -/
  blends : FMap (List Blend) := []
  /-- Output LUTs in force (R107). -/
  outLuts : FMap (List Nat) := []
  /-- The stress increment table in force, as its exponent EXP (R200). -/
  strExp : Nat := 0x200
  /-- The frame is one of early mode: its plane is in the anchor caches (R500). -/
  early : Bool := false
  deriving DecidableEq, Repr, Inhabited

/-- Where a group's frame stands. -/
inductive Phase where
  /-- No frame: OFF, PARKED, FAULT, or before the first FL. -/
  | none
  /-- FLₙ has passed and FSₙ has not. -/
  | latched
  /-- FSₙ has passed. -/
  | active
  deriving DecidableEq, Repr, Inhabited

/-- The running of one raster group (R117–R142). -/
structure GroupRun where
  /-- The phase of frame n. -/
  phase : Phase := .none
  /-- n, the index of the frame last latched (R118). -/
  idx : Nat := 0
  /-- FSₙ of that frame, TNS ns. -/
  fs : Nat := 0
  /-- When the group last lost its frame grid, TNS ns (R363). -/
  endedAt : Option Nat := none
  /-- The index of the frame whose FS came last, of which RAS_FRAME shows the low bits (R145, R344). -/
  curIdx : Nat := 0
  /-- The next frame's index, once chosen (R139, R142). -/
  nextIdx : Nat := 0
  /-- The next frame's FS, TNS ns. -/
  nextFs : Nat := 0
  /-- A next frame has been chosen. -/
  hasNext : Bool := false
  /-- The timing set in force (R120). -/
  timing : Timing := {}
  /-- The set validated by APPLY and waiting for the next FL (R141). -/
  pendingSet : Option Timing := none
  /-- The set latched at the transition frame's FL, in force from the next frame (R142). -/
  nextSet : Option Timing := none
  /-- Frame n is the first of a new grid, so that its FS raises RESYNC (R142). -/
  resync : Bool := false
  /-- Frame n is the first after a start or resume (R139, R157). -/
  first : Bool := false
  /-- Frame n was aborted (R129). -/
  aborted : Bool := false
  /-- The next frame is to be aborted for a forced recalibration: the lowest lane recalibrated (R457). -/
  forced : Option Nat := none
  /-- The lanes (lane 2i of a bonded tile) whose tiles take part in frame n (R157). -/
  parts : List Nat := []
  /-- PARK was cleared in PARKED: the group waits for its dependencies and its first FL, and still reads PARKED (R140). -/
  resuming : Bool := false
  /-- The group was started in early mode (R500). -/
  early : Bool := false
  /-- Frames in a row each plane has been held by this group (R133, R134), by plane ID. -/
  holds : FMap Nat := []
  /-- What the group latched (R121). -/
  latch : Latch := {}
  deriving DecidableEq, Repr, Inhabited

/-- One row of a pool portion: ray row and the codes of its rays so far, in ascending column. -/
structure PoolRow where
  row : Nat
  rays : List (Nat × Nat × Nat)
  /-- The row has left the lane ahead of its own departure (SWAP, R183). -/
  gone : Bool := false
  deriving DecidableEq, Repr, Inhabited

/-- The pool portion and feeder of one lane (R21, R122–R129); a bonded tile uses that of lane 2i. -/
structure Portion where
  /-- Rows of frame n in the portion that have not left the lane. -/
  rows : List PoolRow := []
  /-- The next row to hand to the jets (R123). -/
  next : Nat := 0
  /-- Rows of frame n that have departed or count as sent (R119, R157). -/
  sent : Nat := 0
  /-- Rows of this tile sent since its fan's last shed step (R127). -/
  sinceStep : Nat := 0
  deriving DecidableEq, Repr, Inhabited

/-- One fan (R17, R123, R126–R128). -/
structure Fan where
  /-- The row being handed to the jets: lane, row and the next ray column (R123). -/
  row : Option (Nat × Nat × Nat) := none
  /-- The group of the tile that caused the most recent shed step (R128). -/
  stepGroup : Nat := 0
  deriving DecidableEq, Repr, Inhabited

/-- A jet (R15, R452): its pause accumulator, the working cycles for which its last ray still occupies it, and the values of
THM_STAT.D that were in force since its last command and are no longer, oldest first. -/
structure Jet where
  acc : Nat := 0
  left : Nat := 0
  past : List Nat := []
  deriving DecidableEq, Repr, Inhabited

/-- A picture that a probe writes (R110–R112). -/
structure ProbeRun where
  /-- The group, the frame and its FS. -/
  group : Nat
  frame : Nat
  fs : Nat
  /-- KIND = VIRTUAL, with its slopes; else PANEL with U and V. -/
  virtual : Bool
  sx : Int
  sy : Int
  u : Nat
  v : Nat
  /-- Which buffer, its byte address and its pitch. -/
  buf : Nat
  addr : Nat
  pitch : Nat
  /-- The box: its first hogel, width and height. -/
  x0 : Nat
  y0 : Nat
  w : Nat
  h : Nat
  /-- Hogels still to be written, in raster order. -/
  todo : List (Nat × Nat)
  /-- What the group latched for that frame. -/
  latch : Latch
  deriving DecidableEq, Repr, Inhabited

/-- A probe (R110–R112, R115). -/
structure Probe where
  /-- The latched words CFG, SX, SY, BUF0, BUF1, PITCH (R115). -/
  cfg : Word := 0
  sx : Word := 0
  sy : Word := 0
  buf0 : Word := 0
  buf1 : Word := 0
  pitch : Word := 0
  /-- The buffer of the next picture. -/
  nextBuf : Nat := 0
  /-- The picture being written. -/
  cur : Option ProbeRun := none
  /-- The next frame's picture, while a VIRTUAL one is still running until FS (R111); a PANEL one is written from its FL on. -/
  next : Option ProbeRun := none
  deriving DecidableEq, Repr, Inhabited

/-- A lease of a frame or an encode capture on a plane buffer (R135, R300). -/
structure Lease where
  /-- The group whose frame holds it, 0–3; 4 for an encode capture (R300). -/
  group : Nat
  /-- The frame index, or the session of the capture. -/
  frame : Nat
  plane : Nat
  buf : Nat
  /-- The plane is host-owned: a lease in the sense of R135; otherwise a hold in the sense of R270. -/
  host : Bool
  /-- The FS of its frame has passed, so that the group's next FS ends it (R135). -/
  begun : Bool := false
  deriving DecidableEq, Repr, Inhabited

/-- The raster side of the device (spec/03, spec/04). -/
structure Raster where
  /-- The four groups (R117). -/
  groups : FMap GroupRun := []
  /-- The pool portions by lane (R21). -/
  pools : FMap Portion := []
  /-- The sixteen fans (R14). -/
  fans : FMap Fan := []
  /-- The 128 jets (R14). -/
  jets : FMap Jet := []
  /-- The four probes (R110). -/
  probes : FMap Probe := []
  /-- Leases and holds in force (R135, R270, R300). -/
  leases : List Lease := []
  deriving DecidableEq, Repr, Inhabited

/-! ## The Rill link (spec/05) -/

/-- What fills a lane wherever no packet and no other ordered set is sent (R153, R155, R181). -/
inductive Fill where
  /-- Electrical idle. -/
  | quiet
  /-- IDLE, with RX_LOCKED. -/
  | idle (rxLocked : Bool)
  /-- The test pattern, from a state of its generator. -/
  | pattern (seed : Nat)
  deriving DecidableEq, Repr, Inhabited

/-- A line packet that leaves a lane: when its first code group leaves, TNS ns, its words, and whether the running disparity
before them is positive (R150, R160). -/
structure TxPacket where
  start : Nat
  words : Nat
  rd : Bool
  deriving DecidableEq, Repr, Inhabited

/-- What a lane holds beside its registers (R154–R157, R161–R172, R181–R183). -/
structure Lane where
  /-- The receiver: 0 HUNT, 1 CHECK, 2 LOCKED (R154). -/
  sync : Nat := 0
  /-- The receiver's running disparity is positive (R150). -/
  rdPlus : Bool := false
  /-- IDLEs received in a row without a code error (R154). -/
  idles : Nat := 0
  /-- IDLEs with RX_LOCKED = 1 received in a row in LOCKED (R155). -/
  lockedIdles : Nat := 0
  /-- Code groups received since lock (R154). -/
  groups : Nat := 0
  /-- The positions of recent code errors, newest first (R154). -/
  errs : List Nat := []
  /-- The tile's MAXRATE from its first valid status packet (R156). -/
  maxRate : Option Nat := none
  /-- MSEQ (R164). -/
  mseq : Nat := 0
  /-- A MODE RATE or LOOP waits for its acknowledgement: the target rate and the tries made (R156). -/
  ratePending : Option (Nat × Nat) := none
  /-- The acknowledgement has come; the switch follows after 16 µs (R156). -/
  rateAcked : Bool := false
  /-- No further switch until RATE or EN is written (R156). -/
  rateGaveUp : Bool := false
  /-- The lane hunts at a new rate after a switch (R156). -/
  switching : Bool := false
  /-- FCODE of the latest valid status packet since the last fault indication (R169). -/
  sinceFault : Option Nat := none
  /-- REJ of the previous valid status packet (R167). -/
  lastRej : Option Nat := none
  /-- The frame at whose FL a MODE TIMING for the timing in force was sent (R157, R165). -/
  timing : Option Nat := none
  /-- The lane has left the frame in progress: no further line packet and no COMMIT of it (R169, R172, R129). -/
  cut : Bool := false
  /-- What fills the lane (R153). -/
  fill : Fill := .quiet
  /-- The line packets in the record that may still be leaving, newest first (R160): a SWAP sends two at once (R183). -/
  tx : List TxPacket := []
  /-- CRC register of the computed signature of the tile frame (R161). -/
  sig : Word := 0xFFFFFFFF
  /-- CRC registers of the rows that this lane carries: as computed, and as its echo receiver sees them leave (R162). -/
  laneSig : Word := 0xFFFFFFFF
  echoSig : Word := 0xFFFFFFFF
  /-- The tile frame was given up on an echo mismatch (R162). -/
  echoCut : Bool := false
  /-- A row of the frame has left the lane differently, by an injected fault (R183). -/
  echoBad : Bool := false
  /-- The echo comparison of the frame has been made, and its result (R162). -/
  echoDone : Option Bool := none
  /-- The injected fault of the page was applied to this tile frame with LNK_INJ.COMMIT = 1 (R183). -/
  injCommit : Bool := false
  /-- FAR_END loop: MODE LOOP was sent and acknowledged (R181). -/
  farEnd : Bool := false
  /-- PRBS31 generator state of the checker and words received error-free (R181). -/
  prbs : Nat := 0
  prbsGood : Nat := 0
  deriving DecidableEq, Repr, Inhabited

/-- The link side of the device. -/
structure Link where
  /-- The lanes (R148). -/
  lanes : FMap Lane := []
  /-- Pages whose armed injection became live at an FL (R183), by page index 0–63. -/
  injLive : FMap Bool := []
  deriving DecidableEq, Repr, Inhabited

/-! ## Panel correction (spec/06) -/

/-- A ray map bank (R186–R189): direction slopes and hogel records. -/
structure RayMap where
  /-- The header words 0–2 of R187. -/
  hdr0 : Word
  hdr1 : Word
  tag : Word
  /-- NSX, NSY by direction index, S3.16 (R188). -/
  dirs : List (Int × Int)
  /-- The two words of each hogel record (R189). -/
  hogels : List (Word × Word)
  deriving DecidableEq, Repr, Inhabited

/-- The increments of one due row, kept until the tile's COMMIT (R198). -/
structure DueRow where
  row : Nat
  frame : Nat
  /-- The output codes of the row's subpixels, in the order of R197. -/
  codes : List Nat
  deriving DecidableEq, Repr, Inhabited

/-- The counters of one ray row of a tile (R197). -/
structure CounterRow where
  /-- The 16-bit counters, in the order of R197. -/
  counts : List Nat
  /-- UPD: the frame index of the row's last update. -/
  upd : Word
  deriving DecidableEq, Repr, Inhabited

/-- What the correction engine holds of one lane's tile (R193, R196, R197). -/
structure TileCor where
  /-- The ray map in force; none: the default map of R191. -/
  rayMap : Option RayMap := none
  /-- The ray map of the frame before, where the last FL replaced it: a VIRTUAL picture of that frame still uses it (R110, R193). -/
  rayOld : Option (Option RayMap) := none
  /-- The staged ray map (R193). -/
  rayStaged : Option RayMap := none
  /-- A load being copied or checked: the command and its block words (R192, R193). -/
  rayCopy : Option (CmdRef × List Word × Nat) := none
  /-- The gain map in force, one word per ray (R195); none: unity. -/
  gain : Option (List Word) := none
  /-- The staged gain map (R196). -/
  gainStaged : Option (List Word) := none
  /-- Stress counters by ray row (R197); unlisted: all zero. -/
  counters : FMap CounterRow := []
  /-- Increments waiting for COMMIT (R198). -/
  due : List DueRow := []
  /-- Committed rows whose increments are still to be applied (R198). -/
  ready : List DueRow := []
  deriving DecidableEq, Repr, Inhabited

/-- A COUNTER_EXPORT in progress (R206). -/
structure Export where
  cmd : Cmd
  clear : Bool
  /-- The tiles it covers, by lane (R208). -/
  covers : List Nat
  /-- Lanes whose sections are still to be written, in the command's order, each with the index of its group's frame at which
  the export began (R205), and the rows still to be exported. -/
  lanes : List (Nat × Nat)
  todo : List (Nat × Nat)
  /-- Bytes written so far. -/
  pos : Nat
  /-- Rows exported and not yet written, key 65536·lane + row. -/
  rows : FMap (Option CounterRow) := []
  deriving DecidableEq, Repr, Inhabited

/-- A GAIN_DERIVE that runs (R202): its command, the maps to be staged, and the subpixels limited and dead. -/
structure Derive where
  cmd : CmdRef
  maps : List (Nat × List Word)
  limited : Nat
  dead : Nat
  deriving DecidableEq, Repr, Inhabited

/-- The correction engine (spec/06). -/
structure Cor where
  tiles : FMap TileCor := []
  /-- The ageing curve, 256 U1.15 values (R203); empty: none loaded, and every value is 0x8000 (log 25). -/
  curve : List Nat := []
  derive : Option Derive := none
  /-- Exports in progress (R206). -/
  exports : List Export := []
  /-- The exponent of the increment table that is ready, and of the one being made (R200). -/
  strReady : Nat := 0x200
  strPending : Option Nat := none
  deriving DecidableEq, Repr, Inhabited

end Sys2Proof.Machine
end

