-- ==== Sys2Proof/Machine/PartsB.lean ====
section
/-!
DEFINITION. The state of the video side beside the registers: stream intake, decode, planes, draw engine, encode
and egress (spec/07 to spec/11).
-/

namespace Sys2Proof.Machine

/-! ## Stream intake (spec/07) -/

/-- A packet held by a merge (R225). -/
structure Held where
  /-- Extended sequence number. -/
  num : Nat
  /-- Arrival stamp, TNS ns (R215). -/
  stamp : Nat
  /-- The earlier of the two paths' stamps for the number (R221). -/
  early : Nat
  /-- RTP timestamp. -/
  ts : Nat
  /-- RTP marker bit. -/
  marker : Bool
  /-- RTP payload (RFC 7798), after CSRCs, extension and padding are skipped (R220). -/
  payload : List Byte
  deriving DecidableEq, Repr, Inhabited

/-- An access unit as handed to decode (R222). -/
structure AccessUnit where
  ctx : Nat
  /-- Media time, ns. -/
  media : Int
  /-- First-packet stamp, ns. -/
  fts : Nat
  /-- LOSS flag. -/
  loss : Bool
  /-- The NAL units in order. -/
  nals : List (List Byte)
  deriving DecidableEq, Repr, Inhabited

/-- The access unit being assembled (R221). -/
structure AuBuild where
  ts : Nat
  fts : Nat
  loss : Bool
  nals : List (List Byte)
  /-- The fragmented NAL unit in progress, none outside one (R221). -/
  frag : Option (List Byte)
  /-- The number of its first packet (R221). -/
  first : Nat
  deriving DecidableEq, Repr, Inhabited

/-- One path of a context (R223, R224, R227). -/
structure StrPath where
  /-- hs_p, none before the first packet or after PATH_DOWN (R223). -/
  hs : Option Nat := none
  up : Bool := false
  /-- Stamp of the last accepted packet (R227). -/
  last : Nat := 0
  /-- The 16-bit number of a jump candidate (R224). -/
  jump : Option Nat := none
  /-- SSRC and number of the last packet with another SSRC (R220). -/
  learn : Option (Nat × Nat) := none
  /-- Numbers received on this path and not yet matched on the other, with stamps (R228). -/
  seen : List (Nat × Nat) := []
  deriving DecidableEq, Repr, Inhabited

/-- A stream context (R216–R228). -/
structure Ctx where
  /-- 0 FREE, 1 OPEN, 2 CLOSING (R233). -/
  state : Nat := 0
  owner : Nat := 0
  pair : Bool := false
  port : Nat := 0
  ipv6 : Bool := false
  srcf : Bool := false
  ssrcLock : Bool := false
  vlanEn : Bool := false
  vid : Nat := 0
  udpA : Nat := 0
  udpB : Nat := 0
  dstA : List Word := []
  dstB : List Word := []
  srcA : List Word := []
  srcB : List Word := []
  timeoutMs : Nat := 0
  pt : Nat := 0
  skewUs : Nat := 0
  bufKib : Nat := 0
  offset : Int := 0
  /-- SSRC in force; none before it is learnt (R220). -/
  ssrc : Option Nat := none
  pathA : StrPath := {}
  pathB : StrPath := {}
  /-- r, the release pointer; none before the first packet (R225). -/
  rel : Option Nat := none
  held : List Held := []
  /-- Numbers below r that were declared lost (R225). -/
  lost : List Nat := []
  au : Option AuBuild := none
  /-- Packets were declared lost since the last one delivered (R222). -/
  lossPending : Bool := false
  /-- Complete access units waiting for decode (R222, R245). -/
  queue : List AccessUnit := []
  rxA : Nat := 0
  rxB : Nat := 0
  dup : Nat := 0
  late : Nat := 0
  stray : Nat := 0
  ovf : Nat := 0
  aus : Nat := 0
  auLoss : Nat := 0
  skewLast : Int := 0
  skewMax : Nat := 0
  lastFts : Nat := 0
  lastTs : Nat := 0
  /-- The CTX_CLOSE waiting for release (R219). -/
  closing : Option CmdRef := none
  deriving DecidableEq, Repr, Inhabited

/-- A packet held by the DELAY injector of a port (R229). -/
structure Delayed where
  port : Nat
  /-- The TNS at which it reaches the port. -/
  due : Nat
  frame : List Byte
  fcsOk : Bool
  deriving DecidableEq, Repr, Inhabited

/-- Stream intake (spec/07). -/
structure Intake where
  ctxs : FMap Ctx := []
  /-- Packets the DELAY injector holds, oldest first (R229). -/
  delayed : List Delayed := []
  /-- Packets of the target seen by each N port's injector since ARM (R229). -/
  injSeen : FMap Nat := []
  /-- The second of the selected time in which each port last took a slow-path frame, and the frames taken in it (R214). -/
  slow : FMap (Nat × Nat) := []
  deriving DecidableEq, Repr, Inhabited

/-! ## Decode (spec/08) -/

/-- What is handed out with a decoded layer picture (R256). -/
structure PicInfo where
  layer : Nat := 0
  poc : Int := 0
  media : Int := 0
  fts : Nat := 0
  /-- Buffer address and pitch. -/
  addr : Nat := 0
  pitch : Nat := 0
  w : Nat := 0
  h : Nat := 0
  cropX : Nat := 0
  cropY : Nat := 0
  /-- Size inside the conformance window (R275). -/
  pw : Nat := 0
  ph : Nat := 0
  /-- 1: 4:2:0, 2: 4:2:2, 0: monochrome (alpha). -/
  chroma : Nat := 1
  /-- Luma and chroma bit depth (R256). -/
  depthY : Nat := 8
  depthC : Nat := 8
  /-- chroma_sample_loc_type_top_field. -/
  loc : Nat := 0
  /-- Lines of luma of the binding's geometry, for the chroma offset (R249). -/
  maxH : Nat := 0
  /-- Layer index of the associated alpha picture. -/
  alpha : Option Nat := none
  /-- alpha_channel_use_idc, matrix_coeffs, transfer_characteristics, video_full_range_flag: recorded only. -/
  alphaUse : Nat := 0
  matrix : Nat := 0
  trc : Nat := 0
  fullRange : Bool := false
  concealed : Bool := false
  loss : Bool := false
  field : Bool := false
  bottom : Bool := false
  /-- Serial number of the picture, distinguishing source pictures (R280). -/
  serial : Nat := 0
  deriving DecidableEq, Repr, Inhabited

/-- A frame buffer of a binding and its marks (R250). -/
structure RefBuf where
  ref : Bool := false
  cur : Bool := false
  newest : Bool := false
  /-- Builds that read it (R275). -/
  reads : Nat := 0
  generated : Bool := false
  /-- HBM address of the buffer (R249, R256). -/
  addr : Nat := 0
  pic : PicInfo := {}
  deriving DecidableEq, Repr, Inhabited

/-- A binding of a context (R240–R242). -/
structure Binding where
  /-- 0 UNBOUND, 1 BOUND, 2 RELEASING (R261). -/
  state : Nat := 0
  cores : Nat := 0
  first : Nat := 0
  maxW : Nat := 0
  maxH : Nat := 0
  cf : Nat := 1
  nBuf : Nat := 0
  maxTid : Nat := 0
  lateSkip : Bool := false
  hashChk : Bool := false
  /-- nuh_layer_id by layer slot. -/
  layers : List Nat := []
  /-- The named layers (nuh_layer_id) that the parameter sets last read make auxiliary with AuxId above 1 (R238, R246). -/
  auxLayers : List Nat := []
  bufs : List RefBuf := []
  /-- The access unit being decoded (R245, R246). -/
  decoding : Option AccessUnit := none
  /-- The layer pictures being decoded, as the headers give them (R244). -/
  work : List LayerInfo := []
  /-- Cores of the group, counted from the first, that entered FAULT during the unit (R258). -/
  faulted : List Nat := []
  /-- alpha_channel_use_idc in force by auxiliary layer slot (R238). -/
  alphaUse : FMap Nat := []
  /-- The last unit was skipped (R248). -/
  skipping : Bool := false
  /-- The latest picture of each layer was CONCEALED (R255), by layer index. -/
  wasConcealed : List Nat := []
  /-- Reason of R239 in force; 0 while decoding. -/
  uns : Nat := 0
  pics : Nat := 0
  concealed : Nat := 0
  generated : Nat := 0
  discarded : Nat := 0
  skipped : Nat := 0
  hashErr : Nat := 0
  lastPoc : Int := 0
  unbind : Option CmdRef := none
  deriving DecidableEq, Repr, Inhabited

/-- The decode block (spec/08). -/
structure Decode where
  binds : FMap Binding := []
  /-- Serial number of the next picture handed out. -/
  serial : Nat := 0
  deriving DecidableEq, Repr, Inhabited

/-! ## Planes, windows, draw engine (spec/09) -/

/-- A picture of a plane (R132, R269, R273). -/
structure Picture where
  buf : Nat
  /-- Presentation time, TNS ns. -/
  pt : Int
  complete : Bool
  concealed : Bool
  /-- Order of beginning, newer is larger (R269). -/
  order : Nat
  deriving DecidableEq, Repr, Inhabited

/-- A window record (R271). -/
structure WinRec where
  plane : Nat := 0
  order : Nat := 0
  /-- SRC_KIND = HOST. -/
  host : Bool := false
  cmark : Bool := false
  sam : Nat := 0
  hset : Nat := 0
  vset : Nat := 0
  layer : Nat := 0
  ctx : Nat := 0
  sx0 : Nat := 0
  sy0 : Nat := 0
  sw : Nat := 0
  sh : Nat := 0
  dx0 : Nat := 0
  dy0 : Nat := 0
  dw : Nat := 0
  dh : Nat := 0
  wa : Nat := 0
  srcC : Nat := 0
  spitch : Nat := 0
  srcA : Nat := 0
  apitch : Nat := 0
  deriving DecidableEq, Repr, Inhabited

/-- The settings of a plane that a build takes when it starts (R267, R272). -/
structure PlaneSet where
  host : Bool := false
  premult : Bool := false
  nbuf : Nat := 0
  pace : Nat := 0
  pgroup : Nat := 0
  pctx : Nat := 0
  w : Nat := 0
  h : Nat := 0
  policy : Bool := false
  conceal : Bool := false
  holdMax : Nat := 0
  buildLead : Nat := 0
  period : Nat := 0
  bg : Word := 0
  bgA : Nat := 0
  deriving DecidableEq, Repr, Inhabited

/-- One window as it contributed to the build that last wrote a buffer (R280). -/
structure BuiltWin where
  win : Nat
  cfg : WinRec
  /-- The source picture's serial; none when the window contributed nothing. -/
  source : Option Nat
  /-- The coefficients of its sets, where they are not those of set 0. -/
  hcoef : List Int
  vcoef : List Int
  deriving DecidableEq, Repr, Inhabited

/-- What a plane buffer was last built from (R274, R280). -/
structure Built where
  /-- Order of that build; larger is later. -/
  order : Nat
  wins : List BuiltWin
  bg : Word
  bgA : Nat
  deriving DecidableEq, Repr, Inhabited

/-- A plane ID (R266–R270). -/
structure Plane where
  /-- 0 FREE, 1 ACTIVE, 2 FREEING (R293). -/
  state : Nat := 0
  owner : Nat := 0
  set : PlaneSet := {}
  /-- The settings in force as the latest build started, by which the plane is paced; `set` are the settings last given, whose
  POLICY, CONCEAL and HOLD_MAX act from the next FL (R267). -/
  force : PlaneSet := {}
  /-- Byte addresses of its buffers (R263, R266). -/
  addrs : List Nat := []
  /-- Pictures begun in its buffers (R132). -/
  pics : List Picture := []
  /-- What last built each buffer (R280). -/
  built : FMap Built := []
  /-- Buffers whose release is pending, with the command, if any, that waits (R136, R137). -/
  releases : List (Nat × Option CmdRef) := []
  /-- PLANE_FREE waiting (R270); the flag says that it is pending even without a command (R291). -/
  freeing : Option CmdRef := none
  deriving DecidableEq, Repr, Inhabited

/-- Why a build was queued (R273). -/
inductive BuildKind where
  | group (frame : Nat)
  | context
  | present (buf : Nat)
  deriving DecidableEq, Repr, Inhabited

/-- A queued build (R273). -/
structure QBuild where
  plane : Nat
  kind : BuildKind
  /-- Start time, TNS ns. -/
  start : Int
  /-- Presentation time. -/
  pt : Int
  cmd : Option CmdRef
  /-- The picture that a present has begun, by its order; 0 for none yet. -/
  pic : Nat := 0
  deriving DecidableEq, Repr, Inhabited

/-- The source a window took at the build's start (R275). -/
structure BuildSrc where
  win : Nat
  cfg : WinRec
  /-- The decoded picture and its alpha picture; none for a HOST window or a missing source. -/
  pic : Option PicInfo
  alpha : Option PicInfo
  missing : Bool
  deriving DecidableEq, Repr, Inhabited

/-- A coefficient set: 512 horizontal then 384 vertical coefficients (R278). -/
structure CoefSet where
  h : List Int
  v : List Int
  deriving DecidableEq, Repr, Inhabited

/-- A line of a HOST window that the plane reader has passed (R275, R283): the C30 words and alpha halfwords of its columns
from the left edge of the crop. -/
structure ReadLine where
  win : Nat
  row : Nat
  colour : List Nat
  alpha : List Nat
  deriving DecidableEq, Repr, Inhabited

/-- The running build (R272–R281). -/
structure RunBuild where
  plane : Nat
  buf : Nat
  set : PlaneSet
  kind : BuildKind
  srcs : List BuildSrc
  coefs : FMap CoefSet
  order : Nat
  /-- Watermarks raised in this build (R283). -/
  marks : List Nat
  cmd : Option CmdRef
  /-- The picture it builds, by its order. -/
  pic : Nat
  /-- Lines of HOST windows that the reader has passed (R275, R283). -/
  lines : List ReadLine := []
  deriving DecidableEq, Repr, Inhabited

/-- A window of the window table (R271). -/
structure Win where
  /-- Owning partition. -/
  owner : Nat
  cfg : WinRec
  deriving DecidableEq, Repr, Inhabited

/-- A lease that an accepted write command has met (R138): the buffer and its bytes, whether it stood as the command was
accepted, and whether it has ended. -/
structure SeenLease where
  plane : Nat
  buf : Nat
  lo : Nat
  hi : Nat
  atStart : Bool
  ended : Bool
  deriving DecidableEq, Repr, Inhabited

/-- An accepted draw command (R285) and the leases it has met. -/
structure DrawJob where
  cmd : CmdRef
  words : List Word
  leases : List SeenLease := []
  deriving DecidableEq, Repr, Inhabited

/-- An accepted DMA copy (R483) and the leases it has met. -/
structure DmaJob where
  cmd : Cmd
  leases : List SeenLease := []
  deriving DecidableEq, Repr, Inhabited

/-- The assembler and draw engine (spec/09). -/
structure Asm where
  planes : FMap Plane := []
  wins : FMap (Option Win) := []
  /-- Loaded coefficient sets 1–15 (R278); unlisted: set 0. -/
  coefs : FMap (Option CoefSet) := []
  /-- Queued builds, oldest first (R273). -/
  queue : List QBuild := []
  run : Option RunBuild := none
  /-- Orders given out to pictures and builds so far. -/
  order : Nat := 0
  /-- Draw commands accepted and not completed, oldest first; the head executes (R289). -/
  draws : List DrawJob := []
  /-- DMA copies accepted and not completed (R483). -/
  dmas : List DmaJob := []
  deriving DecidableEq, Repr, Inhabited

/-! ## Proxy encoding (spec/10) -/

/-- A session record's fields (R296). -/
structure EncRec where
  srcKind : Nat := 0
  core : Nat := 0
  struct_ : Bool := false
  vbr : Bool := false
  hash : Bool := false
  srcId : Nat := 0
  decim : Nat := 0
  level : Nat := 0
  conv : Bool := false
  div : Nat := 0
  idrPeriod : Nat := 0
  x0 : Nat := 0
  y0 : Nat := 0
  w : Nat := 0
  h : Nat := 0
  bitrate : Nat := 0
  cpb : Nat := 0
  picCap : Nat := 0
  qpMin : Nat := 0
  qpMax : Nat := 0
  qpInit : Nat := 0
  sliceRows : Nat := 0
  prim : Nat := 0
  trc : Nat := 0
  mc : Nat := 0
  full : Bool := false
  outAddr : Nat := 0
  outKib : Nat := 0
  deriving DecidableEq, Repr, Inhabited

/-- A captured or capturing source picture (R300). -/
structure Capture where
  /-- i of R299. -/
  index : Nat
  pt : Int
  /-- The source buffer: plane and buffer, or probe buffer, or camera output buffer, as an address. -/
  addr : Nat
  planeBuf : Option (Nat × Nat)
  /-- Camera output and buffer (R404). -/
  camBuf : Option (Nat × Nat)
  /-- Pitch of a probe or camera buffer; width and height of the source picture. -/
  pitch : Nat
  srcW : Nat
  srcH : Nat
  concealed : Bool
  incomplete : Bool
  /-- The capture has finished (ENC_CAPTURE_DONE). -/
  done : Bool
  /-- Captured luma, Cb and Cr codes in raster order (R301). -/
  y : List Nat
  cb : List Nat
  cr : List Nat
  deriving DecidableEq, Repr, Inhabited

/-- The picture being encoded: what R304 fixed at its start. -/
structure Encoding where
  cap : Capture
  idr : Bool
  /-- T′ of R304. -/
  t' : Int
  /-- Bmax of R304. -/
  bmax : Int
  /-- Filler bytes E. -/
  filler : Nat
  /-- Every row is fallback (Bmax < AU_MIN). -/
  allFallback : Bool
  deriving DecidableEq, Repr, Inhabited

/-- An encode session (R295–R310). -/
structure Session where
  /-- 0 FREE, 1 OPEN, 2 CLOSING. -/
  state : Nat := 0
  owner : Nat := 0
  cfg : EncRec := {}
  auMin : Nat := 0
  /-- Its two input and two reference buffers, as byte addresses (R297). -/
  bufs : List Nat := []
  /-- T, signed bytes, and the carry of R304. -/
  bucket : Int := 0
  carry : Nat := 0
  lastPt : Option Int := none
  /-- Pictures received since open (R299). -/
  count : Nat := 0
  /-- Source pictures available and not yet captured, oldest first (R299, R300). -/
  offers : List Capture := []
  /-- Captured pictures not yet begun, oldest first (R300). -/
  queued : List Capture := []
  encoding : Option Encoding := none
  /-- Pictures encoded since open (R302). -/
  coded : Nat := 0
  /-- The encoded pictures that the next one may refer to, the last first (R302). -/
  refs : List Recon := []
  forceIdr : Bool := false
  dropped : Bool := false
  gone : Bool := false
  /-- The ROI registers in force: words CFG and RECT (R305). -/
  rois : FMap (Word × Word) := []
  /-- ROI_APPLY written since the last picture start (R305). -/
  roiApply : Option (FMap (Word × Word)) := none
  close : Option CmdRef := none
  deriving DecidableEq, Repr, Inhabited

/-- The encode block (spec/10). -/
structure Enc where
  sessions : FMap Session := []
  deriving DecidableEq, Repr, Inhabited

/-! ## Egress (spec/11) -/

/-- A queued frame (R314). -/
structure EgrFrame where
  /-- The EGR_SEND that carries it; none for a system frame. -/
  cmd : Option CmdRef
  csum : Bool
  tsReq : Bool
  /-- Requester's partition, for the memory its segments lie in. -/
  part : Nat
  hdrAddr : Nat
  hdrLen : Nat
  payAddr : Nat
  payLen : Nat
  l3Off : Nat
  /-- The header and the payload segment lie in host memory (R315). -/
  hdrHost : Bool
  payHost : Bool
  /-- The bytes of a system frame; empty for a host frame, whose segments are read as it is sent (R314). -/
  bytes : List Byte
  /-- The time it became head of its queue, ns (R326). -/
  headAt : Nat
  deriving DecidableEq, Repr, Inhabited

/-- A token bucket (R320, R321). -/
structure Bucket where
  shape : Bool := false
  rate : Nat := 0
  burst : Nat := 16000
  /-- TRESET: 0 FULL, 1 ZERO. -/
  treset : Bool := false
  /-- Signed millibits. -/
  tokens : Int := 128000000
  deriving DecidableEq, Repr, Inhabited

/-- A subscriber (R311, R312). -/
structure Sub where
  open_ : Bool := false
  owner : Nat := 0
  port : Nat := 0
  quantum : Nat := 1600
  bucket : Bucket := {}
  /-- A close waits for the frame in transmission (R312). -/
  close : Option CmdRef := none
  deriving DecidableEq, Repr, Inhabited

/-- A queue (R311, R326, R328); keys 0–255, and 256 + p for the system queue of port p. -/
structure Queue where
  cls : Nat := 0
  bucket : Bucket := {}
  limit : Nat := 256
  frames : List EgrFrame := []
  depthLast : Nat := 0
  depthMin : Nat := 0xFFFFFFFF
  depthMax : Nat := 0
  delayLast : Nat := 0
  delayMin : Nat := 0xFFFFFFFF
  delayMax : Nat := 0
  sent : Nat := 0
  drop : Nat := 0
  deriving DecidableEq, Repr, Inhabited

/-- A frame in transmission (R318): its queue, its bytes with padding and FCS, and its transmit stamp in S, A and B
(R340). -/
structure EgrTx where
  frame : EgrFrame
  queue : Nat
  bytes : List Byte
  deriving DecidableEq, Repr, Inhabited

/-- A port's gate list and scheduler state (R318, R319, R322–R325). -/
structure EgrPort where
  /-- Admin and oper entry words. -/
  admin : List Word := []
  oper : List Word := []
  /-- Oper base time, cycle, extension and enable. -/
  operBase : Nat := 0
  operCycle : Nat := 0
  operExt : Nat := 0
  /-- Start of the current cycle and the current entry. -/
  cycleStart : Nat := 0
  entry : Nat := 0
  /-- Classes paused (R325), as a bit mask held in EGR_P_PAUSED; the remaining time of each in ns. -/
  pauseUntil : FMap Nat := []
  /-- Round pointer per class (R319). -/
  rr : FMap Nat := []
  /-- Deficit by 64·class + subscriber (R319). -/
  deficit : FMap Nat := []
  /-- The pointer stands at a subscriber that has had its quantum in this visit, per class (R319). -/
  visited : FMap Bool := []
  /-- The frame in transmission (R318). -/
  sending : Option EgrTx := none
  deriving DecidableEq, Repr, Inhabited

/-- The egress scheduler (spec/11). -/
structure Egr where
  /-- The TNS of the next token tick (R320). -/
  nextTick : Nat := 1000
  /-- The TNS of the next sampling instant (R326). -/
  nextSample : Nat := 100000
  subs : FMap Sub := []
  queues : FMap Queue := []
  ports : FMap EgrPort := []
  deriving DecidableEq, Repr, Inhabited

end Sys2Proof.Machine
end

