-- ==== Sys2Proof/Machine/PartsC.lean ====
section
/-!
DEFINITION. The state of the remaining blocks beside the registers: time, cue lists, rim, cameras, Sluice, power,
hosts, events and firmware (spec/12 to spec/20), and what leaves the device.
-/

namespace Sys2Proof.Machine

/-! ## Time base (spec/12) -/

/-- A master heard on a port (R339): its port identity, the address it sends from, its newest Announce message, the time of
that, and whether two came within the window. -/
structure Foreign where
  port : Nat
  src : Nat
  addr : List Byte
  msg : List Byte
  last : Nat
  twice : Bool
  deriving DecidableEq, Repr, Inhabited

/-- One domain counter and what is pending on it (R332, R333). -/
structure Domain where
  /-- The 96-bit counter: TNS in bits 95–32, fraction in bits 31–0 (R332). -/
  count : Nat := 0
  /-- INC in force, U8.32 ns (R332). -/
  inc : Nat := 0x2800000000
  /-- INC written by TIM_D_INC_HI, taken at the next tick (R333). -/
  incNext : Option Nat := none
  /-- ADJ pending, signed ns (R333). -/
  adj : Int := 0
  /-- SET pending, TNS (R333). -/
  set : Option Nat := none
  /-- The port identity of the master in force (R339). -/
  gm : Option Nat := none
  /-- The masters heard, newest first (R339). -/
  foreign : List Foreign := []
  /-- A Sync received: sequenceId, T1 so far, T2, and a Follow_Up is awaited (R339). -/
  sync : Option (Nat × Int × Nat × Bool) := none
  /-- T1 and T2 of the last completed Sync (R339). -/
  t12 : Option (Int × Nat) := none
  /-- A Delay_Req sent: sequenceId, T3 and its port (R339). -/
  t3 : Option (Nat × Nat × Nat) := none
  /-- sequenceId of the newest Delay_Req (R337). -/
  seq : Nat := 0
  /-- Messages counted and not acted on, and messages dropped for their rate (R337). -/
  notActed : Nat := 0
  badRate : Nat := 0
  /-- Offsets within ±1,000 ns in a row (R339). -/
  good : Nat := 0
  deriving DecidableEq, Repr, Inhabited

/-- An entry of a transmit timestamp queue (R341). -/
structure TxStamp where
  seqId : Nat
  msgType : Nat
  port : Nat
  s : Nat
  a : Nat
  b : Nat
  deriving DecidableEq, Repr, Inhabited

/-- A latched timer set (R344, R345): the words CFG, START_LO, START_HI, PERIOD_NS, PERIOD_FRAC, WIDTH. -/
structure TimerSet where
  cfg : Word := 0
  startLo : Word := 0
  startHi : Word := 0
  periodNs : Word := 0
  periodFrac : Word := 0
  width : Nat := 100
  deriving DecidableEq, Repr, Inhabited

/-- A timer channel (R344, R345). -/
structure Timer where
  /-- The latched set. -/
  set : TimerSet := {}
  /-- The next edge of the armed schedule: its TNS and, for PERIODIC, its k. -/
  nextEdge : Option (Nat × Nat) := none
  /-- Edges placed by FRAME mode, TNS (R344). -/
  placed : List Nat := []
  /-- Edges placed by cue actions, TNS (R355). -/
  cued : List Nat := []
  /-- The pulse in progress ends at this TNS. -/
  activeUntil : Option Nat := none
  deriving DecidableEq, Repr, Inhabited

/-- The time base (spec/12). -/
structure Time where
  domA : Domain := {}
  domB : Domain := {}
  /-- S, 96 bits (R332). -/
  s : Nat := 0
  /-- A host write of DOMAIN accepted, taken at the next tick (R335). -/
  switchTo : Option Nat := none
  /-- TIM_SNAP.TAKE written (R348). -/
  snap : Bool := false
  /-- A JUMP has been accepted and S copies X at the next tick (R320, R334). -/
  jumped : Bool := false
  txq : FMap (List TxStamp) := []
  timers : FMap Timer := []
  deriving DecidableEq, Repr, Inhabited

/-! ## Cue lists (spec/13) -/

/-- A cue list entry (R354). -/
structure CueEntry where
  action : Nat
  off : Nat
  target : Word
  value : Word
  deriving DecidableEq, Repr, Inhabited

/-- A cue list (R352–R365). -/
structure CueList where
  /-- 0 FREE, 1 ARMED, 2 RUNNING, 3 ENDED. -/
  state : Nat := 0
  owner : Nat := 0
  cyclic : Bool := false
  group : Nat := 0
  ebase : Nat := 0
  cycle : Nat := 0
  entries : List CueEntry := []
  /-- The next entry, and the cycle k it belongs to. -/
  next : Nat := 0
  k : Nat := 0
  /-- Entries from there on that are applied already, by cycle and index: WINDOW actions apply ahead of others (R359). -/
  ahead : List (Nat × Nat) := []
  /-- The selected time at which the list was loaded, TNS ns (R360). -/
  loaded : Nat := 0
  /-- Entries whose application instant fell into the activation pause, by cycle and index, with the FS of the frame of that
  instant: they are late with CAUSE 2 (R366). -/
  deferred : List ((Nat × Nat) × Nat) := []
  /-- The FS of the last frame in which late entries of the list have applied, for which CUE_LATE is raised once (R360). -/
  lateFs : Option Nat := none
  deriving DecidableEq, Repr, Inhabited

/-- A window preset (R357). -/
structure Preset where
  owner : Nat
  cfg : WinRec
  deriving DecidableEq, Repr, Inhabited

/-- Cue lists, overrides and presets (spec/13). -/
structure Cue where
  lists : FMap CueList := []
  /-- Alpha overrides, key ((group·8 + slot)·256 + entry): ALPHA + 1; 0 means none (R356). -/
  alphas : FMap Nat := []
  presets : FMap (Option Preset) := []
  deriving DecidableEq, Repr, Inhabited

/-! ## Rim (spec/14) -/

/-- An offer waiting for the arbiter (R376). -/
structure RimOffer where
  /-- Requester: a partition (direct) or a list (cue). -/
  cue : Bool
  index : Nat
  /-- The partition the offer is made for: the giver, or the list's owner as its entry applied (R376, R365); 8 for firmware. -/
  part : Nat
  region : Nat
  image : Nat
  cmd : Option CmdRef
  deriving DecidableEq, Repr, Inhabited

/-- An accepted update in a region's queue (R378). -/
structure RimUpdate where
  cmd : Option CmdRef
  /-- The 288 words of the image at acceptance; only the rectangle is used (R376). -/
  image : List Word
  /-- It has begun to run. -/
  run : Bool
  deriving DecidableEq, Repr, Inhabited

/-- A persisted copy of the committed image (R385). -/
structure RimCopy where
  image : List Word
  seq : Word
  levels : Bool
  valid : Bool
  deriving DecidableEq, Repr, Inhabited

/-- A phase of a common line (R382): its length in units of 10 µs, and the voltage, in units of 0.25 V, at each segment of the
common in its first half; in its second half each is the opposite. -/
structure RimPhase where
  len : Nat
  volts : List Int
  deriving DecidableEq, Repr, Inhabited

/-- The rim (spec/14). -/
structure Rim where
  /-- INVERT as it was when the last update started (R382, R388). -/
  invert : Nat := 0
  /-- A timer channel has asked for a conversion of the converter (R346, R381). -/
  convAsked : Bool := false
  /-- The committed image by word 0–287 (R371, R372); unlisted: 0. -/
  image : FMap Word := []
  /-- Stored images 0–255 (R373). -/
  store : FMap (List Word) := []
  /-- Owners of stored images: owner + 1; 0: not stored. -/
  storeOwner : FMap Nat := []
  offers : List RimOffer := []
  /-- Region queues, the head first (R378). -/
  queues : FMap (List RimUpdate) := []
  /-- The line being driven: region (16: restore) and common. -/
  line : Option (Nat × Nat) := none
  /-- The next common of each region's running update. -/
  nextCom : FMap Nat := []
  /-- The region last served (R379). -/
  served : Nat := 15
  /-- The 32 band table words (R380); empty: none accepted. -/
  bands : List Word := []
  /-- The boost converter has reached its target (R382). -/
  boostUp : Bool := false
  /-- Power-up restore: commons still to rewrite and the image used (R386). -/
  restore : Option (List Nat × List Word × Bool) := none
  /-- The restore of this power-up has been started (R386). -/
  restoreDone : Bool := false
  copyA : Option RimCopy := none
  copyB : Option RimCopy := none
  /-- A copy write in progress: the copy (true: B), what it will hold, and the RIM_PERSIST commands it completes. -/
  writing : Option (Bool × RimCopy × List CmdRef) := none
  /-- The selected time, ns, at which the last copy write began (R385). -/
  lastWrite : Option Nat := none
  /-- RIM_PERSIST commands waiting. -/
  persist : List CmdRef := []
  deriving DecidableEq, Repr, Inhabited

/-! ## Cameras (spec/15) -/

/-- A queued exposure set (R395). -/
structure ExpSet where
  cmd : CmdRef
  id : Nat
  w16 : Bool
  target : Nat
  writes : List (Nat × Nat)
  /-- The frame before which it is to be written (R396, R397). -/
  slot : Nat
  /-- Its slot was missed (R397). -/
  missed : Bool
  /-- Its writes have begun (R396). -/
  started : Bool
  deriving DecidableEq, Repr, Inhabited

/-- A frame of a sensor (R392, R393). -/
structure CamFrame where
  fcount : Nat
  csiNum : Nat
  stamp : Nat
  /-- Raw lines stored so far, in order. -/
  lines : List (List Nat)
  received : Nat
  short : Bool
  long : Bool
  corrupt : Bool
  overrun : Bool
  setFailed : Bool
  id : Nat
  /-- BAYER of the entry, and its temporal history at the Frame Start; none: cleared (R399). -/
  bayer : Nat
  history : Option (List (List Nat))
  /-- The lines after noise reduction, once the frame has ended (R398). -/
  filtered : List (List Nat)
  /-- Registers +0x0C to +0x34 as at the Frame Start, in order (R398). -/
  cfg : List Word
  defects : List (Nat × Nat)
  windows : List (Nat × Nat × Nat × Nat)
  tones : FMap (List Nat)
  deriving DecidableEq, Repr, Inhabited

/-- A sensor entry's state beside its registers (R391–R402). -/
structure Sensor where
  /-- Frame Starts seen since EN (R392, R396). -/
  seen : Nat := 0
  /-- FCOUNT of the last Frame Start since EN. -/
  fcount : Nat := 0
  /-- S at the last Frame Start, ns, and the last measured period (R396). -/
  lastFs : Nat := 0
  period : Nat := 0
  /-- The frame between its Frame Start and its Frame End. -/
  frame : Option CamFrame := none
  /-- The slot of the blanking in progress has closed (R396). -/
  slotClosed : Bool := false
  sets : List ExpSet := []
  /-- ID of the last set applied, and what is to apply: frame, ID, failed (R396, R397). -/
  id : Nat := 0
  applied : List (Nat × Nat × Bool) := []
  /-- The temporal noise-reduction history; none: cleared (R399). -/
  history : Option (List (List Nat)) := none
  defects : List (Nat × Nat) := []
  windows : List (Nat × Nat × Nat × Nat) := []
  /-- Tone curves by channel 0–2; one that was never loaded holds zeros (log 23). -/
  tones : FMap (List Nat) := []
  deriving DecidableEq, Repr, Inhabited

/-- A queued I3C transfer (R390). -/
structure I3c where
  cmd : Cmd
  bytes : List Byte
  /-- One NACK has been received. -/
  retried : Bool
  /-- The bus carries it. -/
  running : Bool
  deriving DecidableEq, Repr, Inhabited

/-- The camera block (spec/15). -/
structure Cam where
  sensors : FMap Sensor := []
  /-- I3C transfers by port, the head running. -/
  i3c : FMap (List I3c) := []
  /-- When the pulse in progress on each port's trigger ball ends, TNS ns (R394). -/
  trig : FMap (Option Nat) := []
  /-- The frame each output has still to write (R403). -/
  due : FMap (Option CamFrame) := []
  /-- Output buffers that an encode capture reads, key 8·output + buffer (R404). -/
  reading : FMap Bool := []
  deriving DecidableEq, Repr, Inhabited

/-! ## Memory engines, power, hosts, firmware (spec/16 to spec/20) -/

/-- A Sluice job at the engine (R432–R434): what SLC_COMMAND_DONE finishes. -/
structure SlcJob where
  op : Nat
  cmd : Cmd
  /-- What is to be written into the destination, block by block. -/
  blocks : List (List Byte)
  /-- Original bytes of those blocks, and how many are stored with RAW = 1. -/
  orig : Nat
  raws : Nat
  status : Nat
  result0 : Nat
  result1 : Nat
  /-- A decode failure: its code and the block's index (R434). -/
  err : Option (Nat × Nat)
  /-- The failing block's output would not fit (R434). -/
  short : Bool
  deriving DecidableEq, Repr, Inhabited

/-- The Sluice engine (spec/17). -/
structure Slc where
  /-- The pending block of each partition: BLK in force and its bytes (R432). -/
  pend : FMap (Nat × List Byte) := []
  /-- Compress and flush jobs, and decompress jobs, accepted and not done, the running one first. -/
  comp : List SlcJob := []
  dec : List SlcJob := []
  /-- Bytes compressed, stored and decoded so far (R437). -/
  cIn : Nat := 0
  cOut : Nat := 0
  dOut : Nat := 0
  deriving DecidableEq, Repr, Inhabited

/-- A thermal sensor's record (R448, R449). -/
structure ThSensor where
  /-- Conversions out of range in a row. -/
  bad : Nat := 0
  /-- Of its conversions in the last second, newest first: its reading, and the sum and number of the readings of the
  other valid sensors of its die (R449). -/
  window : List (Int × Int × Nat) := []
  /-- Conversions in a row at 122 °C or above (R453). -/
  hot : Nat := 0
  /-- It is excluded. -/
  excluded : Bool := false
  /-- Its reading when it was excluded as stuck. -/
  stuckAt : Option Int := none
  /-- Conversions in a row since which it has moved or been in range again. -/
  good : Nat := 0
  deriving DecidableEq, Repr, Inhabited

/-- A trim zone (R455–R458). -/
structure Zone where
  /-- Lanes of the zone that have still to run (R456), or sensors of its die that have still to give up a conversion (R455). -/
  lanes : List Nat := []
  /-- Lanes deferred to a frame that a forced recalibration aborts, and the index of that frame (R457). -/
  forced : List (Nat × Nat) := []
  /-- The pages whose part of the zone was calibrated in full as they started (R455). -/
  full : List Nat := []
  /-- The zone's reading at the run's start, 1/256 °C. -/
  start : Int := 0
  /-- A run has ended since the last cold or warm reset, so LAST_T is a reading. -/
  ran : Bool := false
  /-- The groups, and the frames before which lanes were deferred already: one entry a blanking (R457). -/
  deferred : List (Nat × Nat) := []
  /-- Tick of AOCLK, in ns of S, at which the last run ended (R458). -/
  ended : Option Nat := none
  deriving DecidableEq, Repr, Inhabited

/-- One of the two copies of a record of the shared area (R491, R493): its SEQ, whether its CRC and VERSION are right, and what it
says. -/
structure FlashCopy (α : Type) where
  seq : Nat
  valid : Bool
  item : α
  deriving DecidableEq, Repr

/-- An HBM training record (R415): the stacks' training temperatures, °C, and their device identifiers. -/
structure TrainRec where
  temps : List Int
  ids : List Nat
  deriving DecidableEq, Repr, Inhabited

/-- Power, clocks, thermal management and trim (spec/18). -/
structure Power where
  /-- Pages that STANDBY parked, to be resumed at wake (R442). -/
  parked : List Nat := []
  /-- STANDBY was entered from BOOTING, to which its wake returns (R441, R444). -/
  fromBoot : Bool := false
  /-- Sources of the wakes that arrived while STATE read ENTERING (R445). -/
  wakePending : Nat := 0
  /-- A timed wake was delivered for the present PWR_WAKE_AT (R444). -/
  timedDone : Bool := false
  sensors : FMap ThSensor := []
  /-- Bits of the warnings in force (R450). -/
  warned : Bool := false
  zones : FMap Zone := []
  /-- RESET_N is low; the supply VHV is present; MAIN_PG is high. -/
  resetLow : Bool := false
  vhv : Bool := true
  mainPg : Bool := false
  /-- PCIE_BIF as sampled at the release of RESET_N (R464, R534). -/
  pcieBif : Nat := 0
  /-- WAKE_N was low at the release of RESET_N (R535). -/
  wakeAtRelease : Bool := false
  /-- The SYS_RST_CAUSE that the next rise of the main supplies records; 0 while the last reset was a cold one (R525,
  R528). -/
  warmCause : Nat := 0
  /-- PERST_N of each port is high. -/
  perst : FMap Bool := []
  /-- Conversions of THM since the trip, and those in a row in which every die had a valid sensor and THM_MAX lay below
  95 °C (R454). -/
  sinceTrip : Nat := 0
  cool : Nat := 0
  /-- Conversions since throttling began, and those at or above ON since its last step (R451). -/
  thrAge : Nat := 0
  thrHigh : Nat := 0
  /-- TRAIN_FULL has been raised in this boot (R415). -/
  trainFull : Bool := false
  /-- What each stack's controller found as its page started: the training record in force, or the reason why there is none,
  0x01 no record or 0x02 CRC (R415, R424). -/
  trainRec : FMap (Nat × Option TrainRec) := []
  deriving DecidableEq, Repr, Inhabited

/-- A dispatched command that has not completed (R476–R478). -/
structure Disp where
  op : Nat
  cmd : Cmd
  fence : Bool
  /-- It has begun to execute. -/
  started : Bool
  deriving DecidableEq, Repr, Inhabited

/-- A JMP answer as sent (R468, R469). -/
structure JmpOut where
  typ : Nat
  seq : Word
  body : List Word
  deriving DecidableEq, Repr, Inhabited

/-- One partition's state beside its registers. -/
structure Part where
  /-- Opcode and TAG of commands completed with ABORTED whose blocks still hold them (R508). -/
  gone : List (Nat × Nat) := []
  /-- Commands dispatched and not finally complete, oldest first. -/
  disp : List Disp := []
  /-- The page is stopping, and its resources are being released (R474). -/
  tearing : Bool := false
  /-- LAST of R469 is set, and the stored answer. -/
  lastSet : Bool := false
  answer : Option JmpOut := none
  /-- Event numbers waiting for an EVENT message, oldest first (R486). -/
  events : List Nat := []
  /-- The newest completion record in HOST space and the 16 bytes that stood there, by which a write that fails is undone (R480). -/
  lastCpl : Option (Nat × List Byte) := none
  /-- Software stamps of the newest request taken and of the newest message posted, TNS (R342). -/
  rxStamp : Nat := 0
  txStamp : Nat := 0
  /-- Bound to JMP on M0 when STANDBY or SLEEP was entered, and its routes' copy is in force (R466, R487). -/
  m0 : Bool := false
  deriving DecidableEq, Repr, Inhabited

/-- The MSI-X table of a function, in BAR4 (R465, R486). -/
structure MsixTable where
  /-- Message address and data by vector. -/
  entries : FMap (Nat × Word) := []
  /-- Vectors masked; all are after a reset of the function. -/
  masked : FMap Bool := []
  /-- The function mask. -/
  fmask : Bool := false
  /-- Pending bits by vector. -/
  pending : FMap Bool := []
  deriving DecidableEq, Repr, Inhabited

/-- Hosts (spec/19). -/
structure Hst where
  parts : FMap Part := []
  /-- Latched HI copies by reader (0–7, 8 firmware) and HI address: key reader·2^24 + address; 1 + value (R523). -/
  hi : FMap Nat := []
  msix : FMap MsixTable := []
  /-- Semaphores that firmware holds (R484, R546). -/
  fwSems : List Nat := []
  /-- PCIe links that are up. -/
  links : FMap Bool := []
  /-- WIN of each partition, as the store held it at boot (R465, R504). -/
  wins : FMap Nat := []
  /-- Window accesses held at the fabric while a stack is in self-refresh: partition, offset, access (R418). -/
  barHeld : List (Nat × Nat × WindowAccess) := []
  /-- JMP datagrams classified and not yet taken (R214 step 6). -/
  jmpIn : List JmpIn := []
  deriving DecidableEq, Repr, Inhabited

/-- An event's route and count (R490). -/
structure Route where
  /-- It has been written since reset; until then the route is that of R490's reset. -/
  written : Bool := false
  parts : Nat := 0
  vector : Nat := 0
  deriving DecidableEq, Repr, Inhabited

/-- The event block (R485, R490). -/
structure Evt where
  routes : FMap Route := []
  raised : FMap Nat := []
  /-- The routes copied when STANDBY or SLEEP was entered (R466, R487). -/
  copied : FMap Route := []
  /-- Deliveries to PCIe partitions held until the wake: partition and event number (R487). -/
  held : List (Nat × Nat) := []
  deriving DecidableEq, Repr, Inhabited

/-- A boot record (R493, R497). -/
structure BootRec where
  seq : Nat
  slot : Bool
  trial : Bool
  tries : Nat
  /-- ACFG and TCFG: false CFG0, true CFG1. -/
  cfgHalf : Bool
  tcfg : Bool
  deriving DecidableEq, Repr, Inhabited

/-- A download record (R507). -/
structure Download where
  /-- The free slot being filled. -/
  slot : Bool
  manifest : List Byte
  /-- Chunks of the image, and those present. -/
  chunks : Nat
  have_ : List Nat
  verified : Bool
  deriving DecidableEq, Repr, Inhabited

/-- A record of a configuration half (R503): its key, write count, whether its CRC is right, and the item's bytes. -/
structure CfgRec where
  key : Nat
  count : Nat
  ok : Bool
  data : List Byte
  deriving DecidableEq, Repr, Inhabited

/-- Boot, firmware, configuration store and attestation (spec/20). -/
structure Fwu where
  /-- Flash slots A and B, byte by byte from the start of the slot; unwritten bytes read 0xFF (R492). -/
  slotA : FMap Byte := []
  slotB : FMap Byte := []
  /-- Boot record copies 0 and 1, as the words stored; none where the copy is erased (R492, R493). -/
  bootA : List Word := []
  bootB : List Word := []
  /-- The update that runs, and the two copies of the download record (R491, R493, R507). -/
  dl : Option Download := none
  dlA : Option (FlashCopy (Option Download)) := none
  dlB : Option (FlashCopy (Option Download)) := none
  /-- Configuration halves CFG0 and CFG1: the log of records, oldest first (R503, R504). -/
  cfgA : List CfgRec := []
  cfgB : List CfgRec := []
  /-- The configuration format, plus 1, of the items each half holds; 0: none (R505). -/
  fmtA : Nat := 0
  fmtB : Nat := 0
  /-- The slot and 64 KiB sector that the recovery ROM last programmed (R502). -/
  rcvSector : Option (Bool × Nat) := none
  /-- The two copies of the HBM training record (R415, R491). -/
  trainA : Option (FlashCopy TrainRec) := none
  trainB : Option (FlashCopy TrainRec) := none
  /-- Fuses: the counter of R496, KEY0 revoked. -/
  svnFuse : Nat := 0
  key0Revoked : Bool := false
  /-- The FWU_ACTIVATE that the end of the pause completes (R508). -/
  activate : Option CmdRef := none
  /-- The activation pause is running (R508). -/
  pause : Bool := false
  /-- The early plane in the anchor caches, laid out as a plane buffer at address 0, and its size (R499, R500). -/
  early : FMap Byte := []
  earlyW : Nat := 0
  earlyH : Nat := 0
  /-- The next early picture, taken at an FL, and the context of the early FEED (R499). -/
  earlyNext : Option (FMap Byte) := none
  feed : Option Nat := none
  /-- The stream of the early FEED keeps the limits of R499, by its newest activation. -/
  feedOk : Bool := false
  /-- The device has entered RECOVERY (R502). -/
  recovery : Bool := false
  /-- The old configuration half waits to be erased (R505). -/
  erase : Bool := false
  /-- TRIM waits to be rewritten, and when it was written last (R504). -/
  trimDue : Bool := false
  trimAt : Option Nat := none
  /-- The partition of the ADMIN item, as read at boot (R501, R504). -/
  adminItem : Nat := 0
  /-- The early plane has been copied into HBM (R501). -/
  copied : Bool := false
  /-- Early mode ends at the next FL of group 0 (R500, R501). -/
  earlyEnds : Bool := false
  /-- The pointer of the tie rule among reports, which no register shows (R41, R511). -/
  attPtr : Nat := 7
  deriving DecidableEq, Repr, Inhabited

/-- What leaves the device at a pin, lane, port or bus: the model's own record, newest first. -/
inductive Out where
  /-- Words that leave a lane one after another, and their code groups (R150, R151, R158–R164): a word with true is an ordered
  set. Between two such sequences the lane's fill leaves. -/
  | link (lane : Nat) (words : List (Bool × Word)) (groups : List Nat)
  /-- What fills a lane from now on (R153, R155). -/
  | fill (lane : Nat) (f : Fill)
  /-- A lane's driver is silent from one instant to another, TNS ns (R456). -/
  | silent (lane : Nat) (start stop : Nat)
  | msix (port : Nat) (addr : Nat) (data : Word)
  | frame (port : Nat) (bytes : List Byte)
  /-- MAIN_EN (R439). -/
  | mainEn (v : Bool)
  /-- A timing pin TP0–TP7 (R346). -/
  | tp (k : Nat) (level : Bool)
  | i3c (port : Nat) (words : List Word) (bytes : List Byte)
  | trig (port : Nat) (active : Bool)
  | rimLine (common : Nat) (words : List Word) (band vrim : Nat) (phases : List RimPhase)
  | readData (p : Nat) (bytes : List Byte)
  | unsupported (p : Nat)
  | slowPath (port : Nat) (bytes : List Byte)
  deriving DecidableEq, Repr, Inhabited

end Sys2Proof.Machine
end

