-- ==== Sys2Proof/Machine/Registers.lean ====
section
/-!
DEFINITION. The register tables of the specification: every register of every page, its fields, their access types
(R521) and reset values (R526), and one accessor for each field. Registers are words of one file, keyed by byte address
(R514).
-/

namespace Sys2Proof.Machine

/-- A field: its register's byte address and its bit range (R8, R514). -/
structure Fld where
  addr : Nat
  hi : Nat
  lo : Nat
  deriving DecidableEq, Repr, Inhabited

/-- How a field answers a host write (R521, R523). `own`: a row or a rule of its own decides; `win`: a window that shows
the entry selected (R328, R490). -/
inductive Acc where
  /-- RW: sets the value. -/
  | rw
  /-- RO: ignored. -/
  | ro
  /-- W1C: 1 clears the bit. -/
  | w1c
  /-- WO: acts once, nothing is held. -/
  | wo
  /-- RWS: as RW, kept by a warm and a block reset. -/
  | rws
  /-- SH: sets the written copy (R522). -/
  | sh
  /-- A counter cleared by writing 0; a write of any other value is ignored (R523). -/
  | cnt0
  /-- Any write sets the stated value. -/
  | setTo (v : Nat)
  | own
  | win
  deriving DecidableEq, Repr

/-- What becomes of a written value outside the field's range (R523 and the field's own row). -/
inductive Rng where
  | any
  /-- The field keeps its value outside `lo`–`hi`. -/
  | keep (lo hi : Nat)
  /-- Stored as the nearer limit. -/
  | clamp (lo hi : Nat)
  /-- A signed 6-bit value, stored within −26 to +25 (R310). -/
  | qpOffset
  /-- 0 is stored as 1; above the limit the field keeps its value (R461). -/
  | cap (hi : Nat)
  deriving DecidableEq, Repr

/-- A field of a register table. -/
structure FieldDef where
  hi : Nat
  lo : Nat
  acc : Acc
  rng : Rng
  reset : Nat
  deriving DecidableEq, Repr

/-- A register of the tables: first page, number of pages, offset, stride and count of its instances, and its fields. -/
structure RegDef where
  page : Nat
  pages : Nat
  off : Nat
  stride : Nat
  count : Nat
  fields : List FieldDef
  deriving DecidableEq, Repr

/-- The common page of every assigned page (R33, R34, R518); EV_EN resets to 0x0000_000C in pages 0x190–0x197 (R488). -/
def commonRegs : List RegDef := [
  ⟨0, 0x1C0, 0x004, 4, 1, [⟨2, 2, .wo, .any, 0⟩, ⟨1, 1, .own, .any, 0⟩, ⟨0, 0, .own, .any, 0⟩]⟩,
  ⟨0, 0x1C0, 0x008, 4, 1, [⟨15, 8, .ro, .any, 0⟩, ⟨2, 0, .ro, .any, 0⟩]⟩,
  ⟨0, 0x1C0, 0x00C, 4, 1, [⟨2, 0, .own, .any, 0⟩]⟩,
  ⟨0, 0x1C0, 0x010, 4, 1, [⟨31, 0, .ro, .any, 0⟩]⟩,
  ⟨0x190, 8, 0x014, 4, 1, [⟨31, 0, .rw, .any, 0xC⟩]⟩,
  ⟨0, 0x1C0, 0x014, 4, 1, [⟨31, 0, .rw, .any, 0⟩]⟩,
  ⟨0, 0x1C0, 0x018, 4, 1, [⟨31, 0, .own, .any, 0⟩]⟩,
  ⟨0, 0x1C0, 0x01C, 4, 1, [⟨31, 0, .wo, .any, 0⟩]⟩]

/-- Registers of spec/02_light_field_model.md. -/
def regs02 : List RegDef := [
  -- STK_CFG (R86)
  ⟨0x90, 1, 0xC00, 0x10, 8, [⟨26, 24, .rw, .any, 0x0⟩, ⟨16, 16, .rw, .any, 0x0⟩, ⟨9, 0, .rw, .any, 0x0⟩]⟩,
  -- STK_SEQ (R86)
  ⟨0x90, 1, 0xC04, 0x10, 8, [⟨31, 0, .ro, .any, 0x0⟩]⟩,
  -- STK_LATCH (R86)
  ⟨0x90, 1, 0xC08, 0x10, 8, [⟨31, 0, .ro, .any, 0x0⟩]⟩,
  -- STK_CNT (R86)
  ⟨0x90, 1, 0xC0C, 0x10, 8, [⟨31, 16, .cnt0, .any, 0x0⟩, ⟨15, 1, .cnt0, .any, 0x0⟩, ⟨0, 0, .ro, .any, 0x0⟩]⟩,
  -- STK_REJECT (R86)
  ⟨0x90, 1, 0xC80, 0x4, 1, [⟨31, 24, .ro, .any, 0x0⟩, ⟨19, 17, .ro, .any, 0x0⟩, ⟨16, 16, .ro, .any, 0x0⟩, ⟨9, 0, .ro, .any, 0x0⟩]⟩,
  -- STK_REJ_CNT (R86)
  ⟨0x90, 1, 0xC84, 0x4, 1, [⟨31, 0, .cnt0, .any, 0x0⟩]⟩,
  -- STK_TIE (R86)
  ⟨0x90, 1, 0xC88, 0x4, 1, [⟨31, 0, .ro, .any, 0x88888888⟩]⟩,
  -- PMAP_TIE (R86)
  ⟨0x90, 1, 0xC8C, 0x4, 1, [⟨2, 0, .ro, .any, 0x7⟩]⟩]

/-- Registers of spec/03_ray_synthesis.md. -/
def regs03 : List RegDef := [
  -- SYN_STAT (R113)
  ⟨0x80, 8, 0x100, 0x4, 1, [⟨1, 0, .ro, .any, 0x0⟩]⟩,
  -- SYN_ATHR (R113)
  ⟨0x80, 8, 0x104, 0x4, 1, [⟨19, 0, .sh, .clamp 0 0x80000, 0x7fe00⟩]⟩,
  -- SYN_LOD (R113)
  ⟨0x80, 8, 0x108, 0x4, 1, [⟨15, 0, .sh, .any, 0x1000⟩]⟩,
  -- SYN_CAP (R113)
  ⟨0x80, 8, 0x110, 0x4, 1, [⟨24, 16, .sh, .keep 1 256, 0x100⟩, ⟨8, 0, .sh, .keep 1 256, 0x100⟩]⟩,
  -- SYN_LIMIT (R113)
  ⟨0x80, 8, 0x114, 0x4, 2, [⟨24, 16, .ro, .any, 0x100⟩, ⟨8, 0, .ro, .any, 0x100⟩]⟩,
  -- SYN_RAYS (R114)
  ⟨0x80, 8, 0x120, 0x20, 2, [⟨31, 0, .ro, .any, 0x0⟩]⟩,
  -- SYN_CYCLES (R114)
  ⟨0x80, 8, 0x124, 0x20, 2, [⟨31, 0, .ro, .any, 0x0⟩]⟩,
  -- SYN_STALLS (R114)
  ⟨0x80, 8, 0x128, 0x20, 2, [⟨31, 0, .ro, .any, 0x0⟩]⟩,
  -- SYN_SAMPLES_LO (R114)
  ⟨0x80, 8, 0x12C, 0x20, 2, [⟨31, 0, .ro, .any, 0x0⟩]⟩,
  -- SYN_SAMPLES_HI (R114)
  ⟨0x80, 8, 0x130, 0x20, 2, [⟨31, 0, .ro, .any, 0x0⟩]⟩,
  -- SYN_CAPPED (R114)
  ⟨0x80, 8, 0x134, 0x20, 2, [⟨31, 0, .ro, .any, 0x0⟩]⟩,
  -- SYN_PRB_CFG (R115)
  ⟨0x80, 1, 0x400, 0x20, 4, [⟨31, 31, .sh, .any, 0x0⟩, ⟨30, 30, .sh, .any, 0x0⟩, ⟨29, 28, .sh, .any, 0x0⟩, ⟨9, 5, .sh, .any, 0x0⟩, ⟨4, 0, .sh, .any, 0x0⟩]⟩,
  -- SYN_PRB_SX (R115)
  ⟨0x80, 1, 0x404, 0x20, 4, [⟨19, 0, .sh, .any, 0x0⟩]⟩,
  -- SYN_PRB_SY (R115)
  ⟨0x80, 1, 0x408, 0x20, 4, [⟨19, 0, .sh, .any, 0x0⟩]⟩,
  -- SYN_PRB_BUF0 (R115)
  ⟨0x80, 1, 0x40C, 0x20, 4, [⟨31, 0, .sh, .any, 0x0⟩]⟩,
  -- SYN_PRB_BUF1 (R115)
  ⟨0x80, 1, 0x410, 0x20, 4, [⟨31, 0, .sh, .any, 0x0⟩]⟩,
  -- SYN_PRB_PITCH (R115)
  ⟨0x80, 1, 0x414, 0x20, 4, [⟨19, 6, .sh, .any, 0x0⟩]⟩,
  -- SYN_PRB_STAT (R115)
  ⟨0x80, 1, 0x418, 0x20, 4, [⟨31, 31, .ro, .any, 0x0⟩, ⟨30, 30, .ro, .any, 0x0⟩, ⟨29, 16, .cnt0, .any, 0x0⟩, ⟨15, 0, .ro, .any, 0x0⟩]⟩,
  -- SYN_MAT0 (R116)
  ⟨0x80, 1, 0x500, 0x20, 4, [⟨31, 16, .sh, .any, 0x2000⟩, ⟨15, 0, .sh, .any, 0x0⟩]⟩,
  -- SYN_MAT1 (R116)
  ⟨0x80, 1, 0x504, 0x20, 4, [⟨31, 16, .sh, .any, 0x0⟩, ⟨15, 0, .sh, .any, 0x0⟩]⟩,
  -- SYN_MAT2 (R116)
  ⟨0x80, 1, 0x508, 0x20, 4, [⟨31, 16, .sh, .any, 0x2000⟩, ⟨15, 0, .sh, .any, 0x0⟩]⟩,
  -- SYN_MAT3 (R116)
  ⟨0x80, 1, 0x50C, 0x20, 4, [⟨31, 16, .sh, .any, 0x0⟩, ⟨15, 0, .sh, .any, 0x0⟩]⟩,
  -- SYN_MAT4 (R116)
  ⟨0x80, 1, 0x510, 0x20, 4, [⟨31, 16, .sh, .any, 0x2000⟩]⟩]

/-- Registers of spec/04_pools_and_raster_groups.md. -/
def regs04a : List RegDef := [
  -- RAS_RATE (R145)
  ⟨0x90, 4, 0x100, 0x4, 1, [⟨31, 12, .rw, .any, 0x3c⟩, ⟨11, 0, .rw, .any, 0x1⟩]⟩,
  -- RAS_ACTIVE (R145)
  ⟨0x90, 4, 0x104, 0x4, 1, [⟨25, 0, .rw, .any, 0xfa7d00⟩]⟩,
  -- RAS_LEAD (R145)
  ⟨0x90, 4, 0x108, 0x4, 1, [⟨19, 0, .rw, .any, 0x3d090⟩]⟩,
  -- RAS_PHASE (R145)
  ⟨0x90, 4, 0x10C, 0x4, 1, [⟨31, 0, .rw, .any, 0x0⟩]⟩,
  -- RAS_MODE_CTRL (R145)
  ⟨0x90, 4, 0x110, 0x4, 1, [⟨0, 0, .wo, .any, 0x0⟩]⟩,
  -- RAS_MODE_STAT (R145)
  ⟨0x90, 4, 0x114, 0x4, 1, [⟨31, 24, .ro, .any, 0x0⟩, ⟨1, 1, .ro, .any, 0x0⟩, ⟨0, 0, .ro, .any, 0x0⟩]⟩,
  -- RAS_WEIR (R145)
  ⟨0x90, 4, 0x118, 0x4, 1, [⟨7, 0, .sh, .any, 0x40⟩]⟩,
  -- RAS_SHED (R145)
  ⟨0x90, 4, 0x11C, 0x4, 1, [⟨24, 16, .sh, .keep 1 256, 0x4⟩, ⟨7, 0, .sh, .clamp 1 255, 0x4⟩]⟩,
  -- RAS_STACK (R145)
  ⟨0x90, 4, 0x120, 0x4, 1, [⟨2, 0, .sh, .any, 0x0⟩]⟩,
  -- RAS_FRAME (R145)
  ⟨0x90, 4, 0x124, 0x4, 1, [⟨31, 0, .ro, .any, 0x0⟩]⟩,
  -- RAS_FS_LO (R145)
  ⟨0x90, 4, 0x128, 0x4, 1, [⟨31, 0, .ro, .any, 0x0⟩]⟩,
  -- RAS_FS_HI (R145)
  ⟨0x90, 4, 0x12C, 0x4, 1, [⟨31, 0, .ro, .any, 0x0⟩]⟩,
  -- RAS_NFS_LO (R145)
  ⟨0x90, 4, 0x130, 0x4, 1, [⟨31, 0, .ro, .any, 0x0⟩]⟩,
  -- RAS_NFS_HI (R145)
  ⟨0x90, 4, 0x134, 0x4, 1, [⟨31, 0, .ro, .any, 0x0⟩]⟩,
  -- RAS_ABORTS (R145)
  ⟨0x90, 4, 0x138, 0x4, 1, [⟨31, 0, .cnt0, .any, 0x0⟩]⟩,
  -- RAS_ABORT_INFO (R145)
  ⟨0x90, 4, 0x13C, 0x4, 1, [⟨31, 16, .ro, .any, 0x0⟩, ⟨15, 14, .ro, .any, 0x0⟩, ⟨9, 0, .ro, .any, 0x0⟩]⟩,
  -- RAS_ABORT_FRAME (R145)
  ⟨0x90, 4, 0x140, 0x4, 1, [⟨31, 0, .ro, .any, 0x0⟩]⟩,
  -- RAS_LATE (R145)
  ⟨0x90, 4, 0x144, 0x4, 1, [⟨31, 16, .cnt0, .any, 0x0⟩, ⟨15, 0, .cnt0, .any, 0x0⟩]⟩,
  -- RAS_LATE_INFO (R145)
  ⟨0x90, 4, 0x148, 0x4, 1, [⟨31, 24, .ro, .any, 0x0⟩, ⟨16, 16, .ro, .any, 0x0⟩]⟩,
  -- RAS_LEASE_VIOL (R146)
  ⟨0x90, 1, 0x180, 0x4, 1, [⟨31, 24, .ro, .any, 0x0⟩, ⟨23, 16, .ro, .any, 0x0⟩, ⟨9, 8, .ro, .any, 0x0⟩, ⟨2, 0, .ro, .any, 0x0⟩]⟩,
  -- RAS_LEASE_VCNT (R146)
  ⟨0x90, 1, 0x184, 0x4, 1, [⟨31, 0, .cnt0, .any, 0x0⟩]⟩,
  -- RAS_LEASE_DONE (R146)
  ⟨0x90, 1, 0x188, 0x4, 1, [⟨31, 24, .ro, .any, 0x0⟩, ⟨23, 16, .ro, .any, 0x0⟩]⟩,
  -- SYN_GOV (R147)
  ⟨0x80, 8, 0x180, 0x4, 2, [⟨31, 24, .ro, .any, 0x0⟩, ⟨8, 0, .ro, .any, 0x0⟩]⟩,
  -- SYN_SHCNT (R147)
  ⟨0x80, 8, 0x188, 0x4, 2, [⟨31, 0, .cnt0, .any, 0x0⟩]⟩]

/-- Registers of spec/04_pools_and_raster_groups.md. -/
def regs04b : List RegDef := [
  -- SYN_POOL (R147)
  ⟨0x80, 8, 0x800, 0x4, 128, [⟨31, 16, .setTo 65535, .any, 0xffff⟩, ⟨15, 0, .ro, .any, 0x0⟩]⟩]

/-- Registers of spec/05_rill_tile_link.md. -/
def regs05 : List RegDef := [
  -- LNK_INJ (R184)
  ⟨0x100, 64, 0x100, 0x4, 1, [⟨31, 31, .own, .any, 0x0⟩, ⟨30, 30, .own, .any, 0x0⟩, ⟨29, 28, .own, .any, 0x0⟩, ⟨27, 24, .own, .any, 0x0⟩, ⟨15, 0, .own, .any, 0x0⟩]⟩,
  -- LNK_INJ_POS (R184)
  ⟨0x100, 64, 0x104, 0x4, 1, [⟨31, 16, .rw, .any, 0x0⟩, ⟨15, 14, .rw, .any, 0x0⟩, ⟨3, 0, .rw, .clamp 0 9, 0x0⟩]⟩,
  -- LNK_INJ_STAT (R184)
  ⟨0x100, 64, 0x108, 0x4, 1, [⟨31, 31, .w1c, .any, 0x0⟩, ⟨15, 0, .ro, .any, 0x0⟩]⟩,
  -- LNK_CTRL (R185)
  ⟨0x100, 64, 0x800, 0x80, 16, [⟨20, 16, .own, .any, 0xa⟩, ⟨13, 12, .own, .any, 0x0⟩, ⟨11, 11, .rw, .any, 0x0⟩, ⟨1, 1, .own, .any, 0x0⟩, ⟨0, 0, .own, .any, 0x0⟩]⟩,
  -- LNK_STAT (R185)
  ⟨0x100, 64, 0x804, 0x80, 16, [⟨31, 29, .ro, .any, 0x0⟩, ⟨28, 24, .ro, .any, 0x0⟩, ⟨23, 19, .ro, .any, 0x0⟩, ⟨18, 18, .ro, .any, 0x0⟩, ⟨17, 17, .ro, .any, 0x0⟩, ⟨16, 16, .ro, .any, 0x0⟩, ⟨15, 0, .ro, .any, 0x0⟩]⟩,
  -- LNK_CAUSE (R185)
  ⟨0x100, 64, 0x808, 0x80, 16, [⟨14, 0, .w1c, .any, 0x0⟩]⟩,
  -- LNK_CAUSE_EN (R185)
  ⟨0x100, 64, 0x80C, 0x80, 16, [⟨14, 1, .rw, .any, 0x0⟩]⟩,
  -- LNK_CODE_ERR (R185)
  ⟨0x100, 64, 0x810, 0x80, 16, [⟨31, 0, .cnt0, .any, 0x0⟩]⟩,
  -- LNK_ECHO_ERR (R185)
  ⟨0x100, 64, 0x814, 0x80, 16, [⟨31, 0, .cnt0, .any, 0x0⟩]⟩,
  -- LNK_COMMITS (R185)
  ⟨0x100, 64, 0x818, 0x80, 16, [⟨31, 0, .ro, .any, 0x0⟩]⟩,
  -- LNK_PRBS_ERR (R185)
  ⟨0x100, 64, 0x81C, 0x80, 16, [⟨31, 0, .cnt0, .any, 0x0⟩]⟩,
  -- LNK_TST0 (R185)
  ⟨0x100, 64, 0x820, 0x80, 16, [⟨31, 0, .ro, .any, 0x0⟩]⟩,
  -- LNK_TST1 (R185)
  ⟨0x100, 64, 0x824, 0x80, 16, [⟨31, 0, .ro, .any, 0x0⟩]⟩,
  -- LNK_TST2 (R185)
  ⟨0x100, 64, 0x828, 0x80, 16, [⟨31, 0, .ro, .any, 0x0⟩]⟩,
  -- LNK_TST3 (R185)
  ⟨0x100, 64, 0x82C, 0x80, 16, [⟨31, 0, .ro, .any, 0x0⟩]⟩,
  -- LNK_TST4 (R185)
  ⟨0x100, 64, 0x830, 0x80, 16, [⟨31, 0, .ro, .any, 0x0⟩]⟩,
  -- LNK_BLANK_LAT (R185)
  ⟨0x100, 64, 0x834, 0x80, 16, [⟨31, 16, .setTo 0, .any, 0x0⟩, ⟨15, 0, .ro, .any, 0x0⟩]⟩]

/-- Registers of spec/06_panel_correction.md. -/
def regs06 : List RegDef := [
  -- COR_CFG (R210)
  ⟨0x148, 1, 0x100, 0x4, 1, [⟨1, 1, .rw, .any, 0x0⟩, ⟨0, 0, .sh, .any, 0x0⟩]⟩,
  -- COR_STR (R210)
  ⟨0x148, 1, 0x104, 0x4, 1, [⟨4, 0, .rw, .keep 12 31, 0x1f⟩]⟩,
  -- COR_STR_EXP (R210)
  ⟨0x148, 1, 0x108, 0x4, 1, [⟨10, 0, .own, .any, 0x200⟩]⟩,
  -- COR_HEAD (R210)
  ⟨0x148, 1, 0x10C, 0x4, 1, [⟨9, 0, .rw, .any, 0xcd⟩]⟩,
  -- COR_RMREJ (R210)
  ⟨0x148, 1, 0x110, 0x4, 1, [⟨31, 24, .ro, .any, 0x0⟩, ⟨9, 0, .ro, .any, 0x0⟩]⟩,
  -- COR_XREJ (R210)
  ⟨0x148, 1, 0x114, 0x4, 1, [⟨31, 24, .ro, .any, 0x0⟩, ⟨9, 0, .ro, .any, 0x0⟩]⟩,
  -- COR_RMREJ_CNT (R210)
  ⟨0x148, 1, 0x118, 0x4, 1, [⟨31, 0, .cnt0, .any, 0x0⟩]⟩,
  -- COR_STR_SKIP (R210)
  ⟨0x148, 1, 0x11C, 0x4, 1, [⟨31, 0, .cnt0, .any, 0x0⟩]⟩,
  -- COR_STR_SAT (R210)
  ⟨0x148, 1, 0x120, 0x4, 1, [⟨31, 0, .cnt0, .any, 0x0⟩]⟩,
  -- COR_GAIN_HR (R210)
  ⟨0x148, 1, 0x124, 0x4, 1, [⟨31, 0, .ro, .any, 0x0⟩]⟩,
  -- COR_GAIN_DEAD (R210)
  ⟨0x148, 1, 0x128, 0x4, 1, [⟨31, 0, .ro, .any, 0x0⟩]⟩,
  -- COR_LOST (R210)
  ⟨0x148, 1, 0x12C, 0x4, 1, [⟨31, 16, .ro, .any, 0x0⟩, ⟨9, 0, .ro, .any, 0x0⟩]⟩,
  -- COR_XSTAT (R210)
  ⟨0x148, 1, 0x130, 0x4, 1, [⟨2, 2, .ro, .any, 0x0⟩, ⟨1, 1, .ro, .any, 0x0⟩, ⟨0, 0, .ro, .any, 0x0⟩]⟩,
  -- COR_PAT (R210)
  ⟨0x148, 1, 0x140, 0x4, 1, [⟨31, 30, .sh, .any, 0x0⟩, ⟨29, 28, .sh, .any, 0x0⟩, ⟨27, 24, .sh, .any, 0x0⟩, ⟨23, 20, .sh, .any, 0x0⟩, ⟨19, 16, .sh, .any, 0x0⟩, ⟨11, 0, .sh, .any, 0x0⟩]⟩,
  -- COR_RMVALID (R211)
  ⟨0x148, 1, 0x200, 0x4, 32, [⟨31, 0, .ro, .any, 0x0⟩]⟩,
  -- COR_PATM (R211)
  ⟨0x148, 1, 0x280, 0x4, 32, [⟨31, 0, .sh, .any, 0x0⟩]⟩,
  -- COR_GVALID (R211)
  ⟨0x148, 1, 0x300, 0x4, 32, [⟨31, 0, .ro, .any, 0x0⟩]⟩]

/-- Registers of spec/07_stream_intake.md. -/
def regs07a : List RegDef := [
  -- NET_CFG (R230)
  ⟨0x20, 4, 0x100, 0x4, 1, [⟨31, 31, .own, .any, 0x0⟩, ⟨25, 24, .own, .any, 0x0⟩, ⟨23, 23, .rw, .any, 0x1⟩, ⟨22, 22, .rw, .any, 0x1⟩, ⟨13, 0, .rw, .clamp 1518 9216, 0x2400⟩]⟩,
  -- NET_CFG of M0 (R230)
  ⟨0x24, 1, 0x100, 0x4, 1, [⟨25, 24, .own, .any, 0x0⟩, ⟨23, 23, .rw, .any, 0x1⟩, ⟨13, 0, .rw, .clamp 1518 9216, 0x2400⟩]⟩,
  -- NET_MAC_LO (R230)
  ⟨0x20, 5, 0x104, 0x4, 1, [⟨31, 0, .rw, .any, 0x0⟩]⟩,
  -- NET_MAC_HI (R230)
  ⟨0x20, 5, 0x108, 0x4, 1, [⟨15, 0, .rw, .any, 0x0⟩]⟩,
  -- NET_STAT (R230)
  ⟨0x20, 5, 0x10C, 0x4, 1, [⟨31, 31, .ro, .any, 0x0⟩, ⟨30, 30, .ro, .any, 0x0⟩, ⟨29, 29, .ro, .any, 0x0⟩, ⟨28, 28, .ro, .any, 0x0⟩]⟩,
  -- NET_RX_DELAY (R230)
  ⟨0x20, 5, 0x110, 0x4, 1, [⟨19, 0, .rw, .any, 0x0⟩]⟩,
  -- NET_RX_FRAMES (R231)
  ⟨0x20, 5, 0x120, 0x4, 1, [⟨31, 0, .cnt0, .any, 0x0⟩]⟩,
  -- NET_RX_FCS (R231)
  ⟨0x20, 5, 0x124, 0x4, 1, [⟨31, 0, .cnt0, .any, 0x0⟩]⟩,
  -- NET_RX_SIZE (R231)
  ⟨0x20, 5, 0x128, 0x4, 1, [⟨31, 0, .cnt0, .any, 0x0⟩]⟩,
  -- NET_RX_FORMAT (R231)
  ⟨0x20, 5, 0x12C, 0x4, 1, [⟨31, 0, .cnt0, .any, 0x0⟩]⟩,
  -- NET_RX_CSUM (R231)
  ⟨0x20, 5, 0x130, 0x4, 1, [⟨31, 0, .cnt0, .any, 0x0⟩]⟩,
  -- NET_RX_NOMATCH (R231)
  ⟨0x20, 5, 0x134, 0x4, 1, [⟨31, 0, .cnt0, .any, 0x0⟩]⟩,
  -- NET_RX_SLOWDROP (R231)
  ⟨0x20, 5, 0x138, 0x4, 1, [⟨31, 0, .cnt0, .any, 0x0⟩]⟩,
  -- NET_RX_FEC_UNC (R231)
  ⟨0x20, 5, 0x13C, 0x4, 1, [⟨31, 0, .cnt0, .any, 0x0⟩]⟩,
  -- NET_INJ (R231)
  ⟨0x20, 4, 0x180, 0x4, 1, [⟨31, 31, .own, .any, 0x0⟩, ⟨30, 28, .own, .any, 0x0⟩, ⟨25, 16, .own, .any, 0x0⟩, ⟨15, 0, .own, .any, 0x0⟩]⟩,
  -- NET_INJ_PRM (R231)
  ⟨0x20, 4, 0x184, 0x4, 1, [⟨17, 0, .rw, .clamp 0 200000, 0x0⟩]⟩,
  -- NET_INJ_STAT (R231)
  ⟨0x20, 4, 0x188, 0x4, 1, [⟨31, 31, .w1c, .any, 0x0⟩, ⟨15, 0, .ro, .any, 0x0⟩]⟩,
  -- STR_STAT (R233)
  ⟨0x28, 8, 0x800, 0x10, 128, [⟨31, 30, .ro, .any, 0x0⟩, ⟨29, 29, .ro, .any, 0x0⟩, ⟨28, 28, .ro, .any, 0x0⟩, ⟨27, 27, .ro, .any, 0x0⟩, ⟨26, 24, .ro, .any, 0x0⟩, ⟨15, 0, .ro, .any, 0x0⟩]⟩,
  -- STR_CAUSE (R233)
  ⟨0x28, 8, 0x804, 0x10, 128, [⟨10, 1, .w1c, .any, 0x0⟩]⟩,
  -- STR_CAUSE_EN (R233)
  ⟨0x28, 8, 0x808, 0x10, 128, [⟨10, 1, .rw, .any, 0x0⟩]⟩,
  -- STR_LOST (R233)
  ⟨0x28, 8, 0x80C, 0x10, 128, [⟨31, 0, .cnt0, .any, 0x0⟩]⟩,
  -- STR_SEL (R234)
  ⟨0x28, 8, 0x100, 0x4, 1, [⟨6, 0, .own, .any, 0x0⟩]⟩,
  -- STR_D_RXA (R234)
  ⟨0x28, 8, 0x104, 0x4, 1, [⟨31, 0, .ro, .any, 0x0⟩]⟩,
  -- STR_D_RXB (R234)
  ⟨0x28, 8, 0x108, 0x4, 1, [⟨31, 0, .ro, .any, 0x0⟩]⟩,
  -- STR_D_DUP (R234)
  ⟨0x28, 8, 0x10C, 0x4, 1, [⟨31, 0, .ro, .any, 0x0⟩]⟩]

/-- Registers of spec/07_stream_intake.md. -/
def regs07b : List RegDef := [
  -- STR_D_LATE (R234)
  ⟨0x28, 8, 0x110, 0x4, 1, [⟨31, 0, .ro, .any, 0x0⟩]⟩,
  -- STR_D_STRAY (R234)
  ⟨0x28, 8, 0x114, 0x4, 1, [⟨31, 0, .ro, .any, 0x0⟩]⟩,
  -- STR_D_OVF (R234)
  ⟨0x28, 8, 0x118, 0x4, 1, [⟨31, 0, .ro, .any, 0x0⟩]⟩,
  -- STR_D_AU (R234)
  ⟨0x28, 8, 0x11C, 0x4, 1, [⟨31, 0, .ro, .any, 0x0⟩]⟩,
  -- STR_D_AULOSS (R234)
  ⟨0x28, 8, 0x120, 0x4, 1, [⟨31, 0, .ro, .any, 0x0⟩]⟩,
  -- STR_D_SKEW_LAST (R234)
  ⟨0x28, 8, 0x124, 0x4, 1, [⟨31, 0, .ro, .any, 0x0⟩]⟩,
  -- STR_D_SKEW_MAX (R234)
  ⟨0x28, 8, 0x128, 0x4, 1, [⟨31, 0, .ro, .any, 0x0⟩]⟩,
  -- STR_D_FTS_LO (R234)
  ⟨0x28, 8, 0x12C, 0x4, 1, [⟨31, 0, .ro, .any, 0x0⟩]⟩,
  -- STR_D_FTS_HI (R234)
  ⟨0x28, 8, 0x130, 0x4, 1, [⟨31, 0, .ro, .any, 0x0⟩]⟩,
  -- STR_D_RTPTS (R234)
  ⟨0x28, 8, 0x134, 0x4, 1, [⟨31, 0, .ro, .any, 0x0⟩]⟩,
  -- STR_D_SSRC (R234)
  ⟨0x28, 8, 0x138, 0x4, 1, [⟨31, 0, .ro, .any, 0x0⟩]⟩,
  -- STR_D_FILL (R234)
  ⟨0x28, 8, 0x13C, 0x4, 1, [⟨31, 0, .ro, .any, 0x0⟩]⟩,
  -- STR_PEND (R235)
  ⟨0x28, 8, 0x1C0, 0x4, 4, [⟨31, 0, .ro, .any, 0x0⟩]⟩,
  -- STR_TFULL (R235)
  ⟨0x28, 1, 0x180, 0x4, 1, [⟨31, 0, .cnt0, .any, 0x0⟩]⟩,
  -- STR_USED (R235)
  ⟨0x28, 1, 0x184, 0x4, 1, [⟨10, 0, .ro, .any, 0x0⟩]⟩,
  -- STR_TIE (R235)
  ⟨0x28, 1, 0x188, 0x4, 1, [⟨2, 0, .ro, .any, 0x7⟩]⟩,
  -- STR_MEM (R235)
  ⟨0x28, 1, 0x18C, 0x4, 1, [⟨23, 0, .ro, .any, 0x0⟩]⟩,
  -- STR_OPEN_REJ (R235)
  ⟨0x28, 1, 0x190, 0x4, 1, [⟨31, 24, .ro, .any, 0x0⟩, ⟨2, 0, .ro, .any, 0x0⟩]⟩]

/-- Registers of spec/08_video_decode.md. -/
def regs08a : List RegDef := [
  -- DEC_CORE (R259)
  ⟨0x40, 24, 0x100, 0x4, 1, [⟨31, 31, .ro, .any, 0x0⟩, ⟨30, 29, .ro, .any, 0x3⟩, ⟨28, 24, .ro, .any, 0x0⟩, ⟨9, 0, .ro, .any, 0x0⟩]⟩,
  -- DEC_PICS (R259)
  ⟨0x40, 24, 0x104, 0x4, 1, [⟨31, 0, .ro, .any, 0x0⟩]⟩,
  -- DEC_BUSY (R259)
  ⟨0x40, 24, 0x108, 0x4, 1, [⟨31, 0, .ro, .any, 0x0⟩]⟩,
  -- DEC_SERIAL (R259)
  ⟨0x40, 24, 0x10C, 0x4, 1, [⟨31, 0, .ro, .any, 0x0⟩]⟩,
  -- DEC_CON_INFO (R259)
  ⟨0x40, 24, 0x110, 0x4, 1, [⟨31, 24, .ro, .any, 0x0⟩, ⟨9, 0, .ro, .any, 0x0⟩]⟩,
  -- DEC_CON_POC (R259)
  ⟨0x40, 24, 0x114, 0x4, 1, [⟨31, 0, .ro, .any, 0x0⟩]⟩,
  -- DEC_ERR_INFO (R259)
  ⟨0x40, 24, 0x118, 0x4, 1, [⟨31, 24, .ro, .any, 0x0⟩, ⟨9, 0, .ro, .any, 0x0⟩]⟩,
  -- DEC_ERR_POC (R259)
  ⟨0x40, 24, 0x11C, 0x4, 1, [⟨31, 0, .ro, .any, 0x0⟩]⟩,
  -- DEC_UNS_INFO (R259)
  ⟨0x40, 24, 0x120, 0x4, 1, [⟨31, 24, .ro, .any, 0x0⟩, ⟨9, 0, .ro, .any, 0x0⟩]⟩,
  -- DEC_POOL (R260)
  ⟨0x40, 1, 0x180, 0x4, 1, [⟨25, 0, .ro, .any, 0x0⟩]⟩,
  -- DEC_TFULL (R260)
  ⟨0x40, 1, 0x184, 0x4, 1, [⟨31, 0, .cnt0, .any, 0x0⟩]⟩,
  -- DEC_TIE (R260)
  ⟨0x40, 1, 0x188, 0x4, 1, [⟨2, 0, .ro, .any, 0x7⟩]⟩,
  -- DEC_BIND_REJ (R260)
  ⟨0x40, 1, 0x18C, 0x4, 1, [⟨31, 24, .ro, .any, 0x0⟩, ⟨9, 0, .ro, .any, 0x0⟩]⟩,
  -- DEC_UNBOUND_AU (R260)
  ⟨0x40, 1, 0x190, 0x4, 1, [⟨31, 0, .cnt0, .any, 0x0⟩]⟩,
  -- DEC_SEL (R261)
  ⟨0x40, 1, 0x1A0, 0x4, 1, [⟨9, 0, .own, .any, 0x0⟩]⟩,
  -- DEC_D_BIND (R261)
  ⟨0x40, 1, 0x1A4, 0x4, 1, [⟨31, 30, .ro, .any, 0x0⟩, ⟨29, 28, .ro, .any, 0x0⟩, ⟨27, 23, .ro, .any, 0x0⟩, ⟨15, 8, .ro, .any, 0x0⟩, ⟨7, 0, .ro, .any, 0x0⟩]⟩,
  -- DEC_D_PICS (R261)
  ⟨0x40, 1, 0x1A8, 0x4, 1, [⟨31, 0, .ro, .any, 0x0⟩]⟩,
  -- DEC_D_CONCEALED (R261)
  ⟨0x40, 1, 0x1AC, 0x4, 1, [⟨31, 0, .ro, .any, 0x0⟩]⟩,
  -- DEC_D_GENERATED (R261)
  ⟨0x40, 1, 0x1B0, 0x4, 1, [⟨31, 0, .ro, .any, 0x0⟩]⟩,
  -- DEC_D_DISCARDED (R261)
  ⟨0x40, 1, 0x1B4, 0x4, 1, [⟨31, 0, .ro, .any, 0x0⟩]⟩,
  -- DEC_D_SKIPPED (R261)
  ⟨0x40, 1, 0x1B8, 0x4, 1, [⟨31, 0, .ro, .any, 0x0⟩]⟩,
  -- DEC_D_HASH_ERR (R261)
  ⟨0x40, 1, 0x1BC, 0x4, 1, [⟨31, 0, .ro, .any, 0x0⟩]⟩,
  -- DEC_D_LAST_POC (R261)
  ⟨0x40, 1, 0x1C0, 0x4, 1, [⟨31, 0, .ro, .any, 0x0⟩]⟩,
  -- DEC_D_QUEUE (R261)
  ⟨0x40, 1, 0x1C4, 0x4, 1, [⟨15, 0, .ro, .any, 0x0⟩]⟩]

/-- Registers of spec/08_video_decode.md. -/
def regs08b : List RegDef := [
  -- DEC_D_UNS (R261)
  ⟨0x40, 1, 0x1C8, 0x4, 1, [⟨31, 24, .ro, .any, 0x0⟩]⟩]

/-- Registers of spec/09_plane_assembly_and_drawing.md. -/
def regs09a : List RegDef := [
  -- ASM_USE (R292)
  ⟨0x60, 1, 0x100, 0x4, 1, [⟨26, 16, .ro, .any, 0x0⟩, ⟨8, 0, .ro, .any, 0x0⟩]⟩,
  -- ASM_TFULL (R292)
  ⟨0x60, 1, 0x104, 0x4, 1, [⟨31, 0, .cnt0, .any, 0x0⟩]⟩,
  -- ASM_TIE (R292)
  ⟨0x60, 1, 0x108, 0x4, 1, [⟨2, 0, .ro, .any, 0x7⟩]⟩,
  -- ASM_REJ (R292)
  ⟨0x60, 1, 0x10C, 0x4, 1, [⟨31, 24, .ro, .any, 0x0⟩, ⟨23, 22, .ro, .any, 0x0⟩, ⟨2, 0, .ro, .any, 0x0⟩]⟩,
  -- ASM_POOL (R292)
  ⟨0x60, 1, 0x110, 0x4, 1, [⟨24, 0, .ro, .any, 0x0⟩]⟩,
  -- ASM_BUILDS (R292)
  ⟨0x60, 1, 0x114, 0x4, 1, [⟨31, 0, .ro, .any, 0x0⟩]⟩,
  -- ASM_SKIPPED (R292)
  ⟨0x60, 1, 0x118, 0x4, 1, [⟨31, 0, .cnt0, .any, 0x0⟩]⟩,
  -- ASM_SUPERSEDED (R292)
  ⟨0x60, 1, 0x11C, 0x4, 1, [⟨31, 0, .cnt0, .any, 0x0⟩]⟩,
  -- ASM_TEXELS (R292)
  ⟨0x60, 1, 0x120, 0x4, 1, [⟨31, 0, .ro, .any, 0x0⟩]⟩,
  -- ASM_BUSY (R292)
  ⟨0x60, 1, 0x124, 0x4, 1, [⟨31, 0, .ro, .any, 0x0⟩]⟩,
  -- ASM_WM (R292)
  ⟨0x60, 1, 0x140, 0x8, 4, [⟨31, 31, .rw, .any, 0x0⟩, ⟨28, 16, .rw, .any, 0x0⟩, ⟨9, 0, .rw, .any, 0x0⟩]⟩,
  -- ASM_WMSTAT (R292)
  ⟨0x60, 1, 0x144, 0x8, 4, [⟨31, 24, .ro, .any, 0x0⟩, ⟨15, 0, .ro, .any, 0x0⟩]⟩,
  -- ASM_PSEL (R293)
  ⟨0x60, 1, 0x180, 0x4, 1, [⟨7, 0, .own, .any, 0x0⟩]⟩,
  -- ASM_P_STAT (R293)
  ⟨0x60, 1, 0x184, 0x4, 1, [⟨31, 30, .ro, .any, 0x0⟩, ⟨29, 29, .ro, .any, 0x0⟩, ⟨28, 28, .ro, .any, 0x0⟩, ⟨27, 26, .ro, .any, 0x0⟩, ⟨25, 21, .ro, .any, 0x0⟩, ⟨20, 18, .ro, .any, 0x0⟩, ⟨17, 13, .ro, .any, 0x0⟩, ⟨12, 12, .ro, .any, 0x0⟩]⟩,
  -- ASM_P_HELD (R293)
  ⟨0x60, 1, 0x188, 0x4, 1, [⟨15, 0, .ro, .any, 0x0⟩]⟩,
  -- ASM_P_PT_LO (R293)
  ⟨0x60, 1, 0x18C, 0x4, 1, [⟨31, 0, .ro, .any, 0x0⟩]⟩,
  -- ASM_P_PT_HI (R293)
  ⟨0x60, 1, 0x190, 0x4, 1, [⟨31, 0, .ro, .any, 0x0⟩]⟩,
  -- ASM_P_BUF_LO (R293)
  ⟨0x60, 1, 0x1C0, 0x8, 16, [⟨31, 0, .ro, .any, 0x0⟩]⟩,
  -- ASM_P_BUF_HI (R293)
  ⟨0x60, 1, 0x1C4, 0x8, 16, [⟨7, 0, .ro, .any, 0x0⟩]⟩,
  -- DRW_CFG (R294)
  ⟨0x68, 1, 0x100, 0x4, 1, [⟨7, 0, .rw, .any, 0x0⟩]⟩,
  -- DRW_STAT (R294)
  ⟨0x68, 1, 0x104, 0x4, 1, [⟨31, 31, .ro, .any, 0x0⟩, ⟨15, 0, .ro, .any, 0x0⟩]⟩,
  -- DRW_TIE (R294)
  ⟨0x68, 1, 0x108, 0x4, 1, [⟨2, 0, .ro, .any, 0x7⟩]⟩,
  -- DRW_REJ (R294)
  ⟨0x68, 1, 0x10C, 0x4, 1, [⟨31, 24, .ro, .any, 0x0⟩, ⟨2, 0, .ro, .any, 0x0⟩]⟩,
  -- DRW_REJ_CNT (R294)
  ⟨0x68, 1, 0x110, 0x4, 1, [⟨31, 0, .cnt0, .any, 0x0⟩]⟩]

/-- Registers of spec/09_plane_assembly_and_drawing.md. -/
def regs09b : List RegDef := [
  -- DRW_CUT (R294)
  ⟨0x68, 1, 0x114, 0x4, 1, [⟨31, 0, .cnt0, .any, 0x0⟩]⟩,
  -- DRW_PX (R294)
  ⟨0x68, 1, 0x118, 0x4, 1, [⟨31, 0, .ro, .any, 0x0⟩]⟩,
  -- DRW_BURSTS (R294)
  ⟨0x68, 1, 0x11C, 0x4, 1, [⟨31, 0, .ro, .any, 0x0⟩]⟩]

/-- Registers of spec/10_proxy_encode.md. -/
def regs10a : List RegDef := [
  -- ENC_CORE (R309)
  ⟨0x150, 4, 0x100, 0x4, 1, [⟨31, 31, .ro, .any, 0x0⟩, ⟨3, 0, .ro, .any, 0x0⟩]⟩,
  -- ENC_PICS (R309)
  ⟨0x150, 4, 0x104, 0x4, 1, [⟨31, 0, .ro, .any, 0x0⟩]⟩,
  -- ENC_BUSY (R309)
  ⟨0x150, 4, 0x108, 0x4, 1, [⟨31, 0, .ro, .any, 0x0⟩]⟩,
  -- ENC_USED (R309)
  ⟨0x150, 1, 0x180, 0x4, 1, [⟨4, 0, .ro, .any, 0x0⟩]⟩,
  -- ENC_TFULL (R309)
  ⟨0x150, 1, 0x184, 0x4, 1, [⟨31, 0, .cnt0, .any, 0x0⟩]⟩,
  -- ENC_TIE (R309)
  ⟨0x150, 1, 0x188, 0x4, 1, [⟨2, 0, .ro, .any, 0x7⟩]⟩,
  -- ENC_OPEN_REJ (R309)
  ⟨0x150, 1, 0x18C, 0x4, 1, [⟨31, 24, .ro, .any, 0x0⟩, ⟨2, 0, .ro, .any, 0x0⟩]⟩,
  -- ENC_POOL (R309)
  ⟨0x150, 1, 0x190, 0x4, 1, [⟨22, 0, .ro, .any, 0x0⟩]⟩,
  -- ENC_S_STAT (R310)
  ⟨0x150, 4, 0x400, 0x200, 4, [⟨31, 30, .ro, .any, 0x0⟩, ⟨26, 24, .ro, .any, 0x0⟩, ⟨17, 16, .ro, .any, 0x0⟩, ⟨13, 12, .ro, .any, 0x0⟩, ⟨5, 0, .ro, .any, 0x0⟩]⟩,
  -- ENC_S_CTRL (R310)
  ⟨0x150, 4, 0x404, 0x200, 4, [⟨1, 1, .wo, .any, 0x0⟩, ⟨0, 0, .wo, .any, 0x0⟩]⟩,
  -- ENC_S_CAUSE (R310)
  ⟨0x150, 4, 0x408, 0x200, 4, [⟨8, 1, .w1c, .any, 0x0⟩]⟩,
  -- ENC_S_CAUSE_EN (R310)
  ⟨0x150, 4, 0x40C, 0x200, 4, [⟨8, 1, .rw, .any, 0x0⟩]⟩,
  -- ENC_S_WR (R310)
  ⟨0x150, 4, 0x410, 0x200, 4, [⟨31, 6, .ro, .any, 0x0⟩]⟩,
  -- ENC_S_RD (R310)
  ⟨0x150, 4, 0x414, 0x200, 4, [⟨31, 6, .own, .any, 0x0⟩]⟩,
  -- ENC_S_PICS (R310)
  ⟨0x150, 4, 0x418, 0x200, 4, [⟨31, 0, .ro, .any, 0x0⟩]⟩,
  -- ENC_S_CUT (R310)
  ⟨0x150, 4, 0x41C, 0x200, 4, [⟨31, 0, .cnt0, .any, 0x0⟩]⟩,
  -- ENC_S_DROP (R310)
  ⟨0x150, 4, 0x420, 0x200, 4, [⟨31, 0, .cnt0, .any, 0x0⟩]⟩,
  -- ENC_S_BUCKET (R310)
  ⟨0x150, 4, 0x424, 0x200, 4, [⟨31, 0, .ro, .any, 0x0⟩]⟩,
  -- ENC_S_AUMIN (R310)
  ⟨0x150, 4, 0x428, 0x200, 4, [⟨31, 0, .ro, .any, 0x0⟩]⟩,
  -- ENC_S_ROI0_CFG (R310)
  ⟨0x150, 4, 0x500, 0x200, 4, [⟨31, 31, .rw, .any, 0x0⟩, ⟨29, 24, .rw, .qpOffset, 0x0⟩]⟩,
  -- ENC_S_ROI0_RECT (R310)
  ⟨0x150, 4, 0x504, 0x200, 4, [⟨31, 24, .rw, .any, 0x0⟩, ⟨23, 16, .rw, .any, 0x0⟩, ⟨15, 8, .rw, .any, 0x0⟩, ⟨7, 0, .rw, .any, 0x0⟩]⟩,
  -- ENC_S_ROI1_CFG (R310)
  ⟨0x150, 4, 0x508, 0x200, 4, [⟨31, 31, .rw, .any, 0x0⟩, ⟨29, 24, .rw, .qpOffset, 0x0⟩]⟩,
  -- ENC_S_ROI1_RECT (R310)
  ⟨0x150, 4, 0x50C, 0x200, 4, [⟨31, 24, .rw, .any, 0x0⟩, ⟨23, 16, .rw, .any, 0x0⟩, ⟨15, 8, .rw, .any, 0x0⟩, ⟨7, 0, .rw, .any, 0x0⟩]⟩,
  -- ENC_S_ROI2_CFG (R310)
  ⟨0x150, 4, 0x510, 0x200, 4, [⟨31, 31, .rw, .any, 0x0⟩, ⟨29, 24, .rw, .qpOffset, 0x0⟩]⟩]

/-- Registers of spec/10_proxy_encode.md. -/
def regs10b : List RegDef := [
  -- ENC_S_ROI2_RECT (R310)
  ⟨0x150, 4, 0x514, 0x200, 4, [⟨31, 24, .rw, .any, 0x0⟩, ⟨23, 16, .rw, .any, 0x0⟩, ⟨15, 8, .rw, .any, 0x0⟩, ⟨7, 0, .rw, .any, 0x0⟩]⟩,
  -- ENC_S_ROI3_CFG (R310)
  ⟨0x150, 4, 0x518, 0x200, 4, [⟨31, 31, .rw, .any, 0x0⟩, ⟨29, 24, .rw, .qpOffset, 0x0⟩]⟩,
  -- ENC_S_ROI3_RECT (R310)
  ⟨0x150, 4, 0x51C, 0x200, 4, [⟨31, 24, .rw, .any, 0x0⟩, ⟨23, 16, .rw, .any, 0x0⟩, ⟨15, 8, .rw, .any, 0x0⟩, ⟨7, 0, .rw, .any, 0x0⟩]⟩,
  -- ENC_S_ROI4_CFG (R310)
  ⟨0x150, 4, 0x520, 0x200, 4, [⟨31, 31, .rw, .any, 0x0⟩, ⟨29, 24, .rw, .qpOffset, 0x0⟩]⟩,
  -- ENC_S_ROI4_RECT (R310)
  ⟨0x150, 4, 0x524, 0x200, 4, [⟨31, 24, .rw, .any, 0x0⟩, ⟨23, 16, .rw, .any, 0x0⟩, ⟨15, 8, .rw, .any, 0x0⟩, ⟨7, 0, .rw, .any, 0x0⟩]⟩,
  -- ENC_S_ROI5_CFG (R310)
  ⟨0x150, 4, 0x528, 0x200, 4, [⟨31, 31, .rw, .any, 0x0⟩, ⟨29, 24, .rw, .qpOffset, 0x0⟩]⟩,
  -- ENC_S_ROI5_RECT (R310)
  ⟨0x150, 4, 0x52C, 0x200, 4, [⟨31, 24, .rw, .any, 0x0⟩, ⟨23, 16, .rw, .any, 0x0⟩, ⟨15, 8, .rw, .any, 0x0⟩, ⟨7, 0, .rw, .any, 0x0⟩]⟩,
  -- ENC_S_ROI6_CFG (R310)
  ⟨0x150, 4, 0x530, 0x200, 4, [⟨31, 31, .rw, .any, 0x0⟩, ⟨29, 24, .rw, .qpOffset, 0x0⟩]⟩,
  -- ENC_S_ROI6_RECT (R310)
  ⟨0x150, 4, 0x534, 0x200, 4, [⟨31, 24, .rw, .any, 0x0⟩, ⟨23, 16, .rw, .any, 0x0⟩, ⟨15, 8, .rw, .any, 0x0⟩, ⟨7, 0, .rw, .any, 0x0⟩]⟩,
  -- ENC_S_ROI7_CFG (R310)
  ⟨0x150, 4, 0x538, 0x200, 4, [⟨31, 31, .rw, .any, 0x0⟩, ⟨29, 24, .rw, .qpOffset, 0x0⟩]⟩,
  -- ENC_S_ROI7_RECT (R310)
  ⟨0x150, 4, 0x53C, 0x200, 4, [⟨31, 24, .rw, .any, 0x0⟩, ⟨23, 16, .rw, .any, 0x0⟩, ⟨15, 8, .rw, .any, 0x0⟩, ⟨7, 0, .rw, .any, 0x0⟩]⟩,
  -- ENC_S_ROI8_CFG (R310)
  ⟨0x150, 4, 0x540, 0x200, 4, [⟨31, 31, .rw, .any, 0x0⟩, ⟨29, 24, .rw, .qpOffset, 0x0⟩]⟩,
  -- ENC_S_ROI8_RECT (R310)
  ⟨0x150, 4, 0x544, 0x200, 4, [⟨31, 24, .rw, .any, 0x0⟩, ⟨23, 16, .rw, .any, 0x0⟩, ⟨15, 8, .rw, .any, 0x0⟩, ⟨7, 0, .rw, .any, 0x0⟩]⟩,
  -- ENC_S_ROI9_CFG (R310)
  ⟨0x150, 4, 0x548, 0x200, 4, [⟨31, 31, .rw, .any, 0x0⟩, ⟨29, 24, .rw, .qpOffset, 0x0⟩]⟩,
  -- ENC_S_ROI9_RECT (R310)
  ⟨0x150, 4, 0x54C, 0x200, 4, [⟨31, 24, .rw, .any, 0x0⟩, ⟨23, 16, .rw, .any, 0x0⟩, ⟨15, 8, .rw, .any, 0x0⟩, ⟨7, 0, .rw, .any, 0x0⟩]⟩,
  -- ENC_S_ROI10_CFG (R310)
  ⟨0x150, 4, 0x550, 0x200, 4, [⟨31, 31, .rw, .any, 0x0⟩, ⟨29, 24, .rw, .qpOffset, 0x0⟩]⟩,
  -- ENC_S_ROI10_RECT (R310)
  ⟨0x150, 4, 0x554, 0x200, 4, [⟨31, 24, .rw, .any, 0x0⟩, ⟨23, 16, .rw, .any, 0x0⟩, ⟨15, 8, .rw, .any, 0x0⟩, ⟨7, 0, .rw, .any, 0x0⟩]⟩,
  -- ENC_S_ROI11_CFG (R310)
  ⟨0x150, 4, 0x558, 0x200, 4, [⟨31, 31, .rw, .any, 0x0⟩, ⟨29, 24, .rw, .qpOffset, 0x0⟩]⟩,
  -- ENC_S_ROI11_RECT (R310)
  ⟨0x150, 4, 0x55C, 0x200, 4, [⟨31, 24, .rw, .any, 0x0⟩, ⟨23, 16, .rw, .any, 0x0⟩, ⟨15, 8, .rw, .any, 0x0⟩, ⟨7, 0, .rw, .any, 0x0⟩]⟩,
  -- ENC_S_ROI12_CFG (R310)
  ⟨0x150, 4, 0x560, 0x200, 4, [⟨31, 31, .rw, .any, 0x0⟩, ⟨29, 24, .rw, .qpOffset, 0x0⟩]⟩,
  -- ENC_S_ROI12_RECT (R310)
  ⟨0x150, 4, 0x564, 0x200, 4, [⟨31, 24, .rw, .any, 0x0⟩, ⟨23, 16, .rw, .any, 0x0⟩, ⟨15, 8, .rw, .any, 0x0⟩, ⟨7, 0, .rw, .any, 0x0⟩]⟩,
  -- ENC_S_ROI13_CFG (R310)
  ⟨0x150, 4, 0x568, 0x200, 4, [⟨31, 31, .rw, .any, 0x0⟩, ⟨29, 24, .rw, .qpOffset, 0x0⟩]⟩,
  -- ENC_S_ROI13_RECT (R310)
  ⟨0x150, 4, 0x56C, 0x200, 4, [⟨31, 24, .rw, .any, 0x0⟩, ⟨23, 16, .rw, .any, 0x0⟩, ⟨15, 8, .rw, .any, 0x0⟩, ⟨7, 0, .rw, .any, 0x0⟩]⟩,
  -- ENC_S_ROI14_CFG (R310)
  ⟨0x150, 4, 0x570, 0x200, 4, [⟨31, 31, .rw, .any, 0x0⟩, ⟨29, 24, .rw, .qpOffset, 0x0⟩]⟩]

/-- Registers of spec/10_proxy_encode.md. -/
def regs10c : List RegDef := [
  -- ENC_S_ROI14_RECT (R310)
  ⟨0x150, 4, 0x574, 0x200, 4, [⟨31, 24, .rw, .any, 0x0⟩, ⟨23, 16, .rw, .any, 0x0⟩, ⟨15, 8, .rw, .any, 0x0⟩, ⟨7, 0, .rw, .any, 0x0⟩]⟩,
  -- ENC_S_ROI15_CFG (R310)
  ⟨0x150, 4, 0x578, 0x200, 4, [⟨31, 31, .rw, .any, 0x0⟩, ⟨29, 24, .rw, .qpOffset, 0x0⟩]⟩,
  -- ENC_S_ROI15_RECT (R310)
  ⟨0x150, 4, 0x57C, 0x200, 4, [⟨31, 24, .rw, .any, 0x0⟩, ⟨23, 16, .rw, .any, 0x0⟩, ⟨15, 8, .rw, .any, 0x0⟩, ⟨7, 0, .rw, .any, 0x0⟩]⟩]

/-- Registers of spec/11_egress_scheduling.md. -/
def regs11a : List RegDef := [
  -- EGR_SSEL (R328)
  ⟨0x158, 1, 0x100, 0x4, 1, [⟨5, 0, .own, .any, 0x0⟩]⟩,
  -- EGR_S_CFG (R328)
  ⟨0x158, 1, 0x104, 0x4, 1, [⟨31, 30, .ro, .any, 0x0⟩, ⟨29, 27, .ro, .any, 0x0⟩, ⟨26, 24, .ro, .any, 0x0⟩, ⟨16, 16, .win, .any, 0x0⟩, ⟨15, 0, .win, .any, 0x640⟩]⟩,
  -- EGR_S_RATE (R328)
  ⟨0x158, 1, 0x108, 0x4, 1, [⟨26, 0, .win, .any, 0x0⟩]⟩,
  -- EGR_S_BURST (R328)
  ⟨0x158, 1, 0x10C, 0x4, 1, [⟨31, 31, .win, .any, 0x0⟩, ⟨23, 0, .win, .any, 0x3e80⟩]⟩,
  -- EGR_S_TOKENS (R328)
  ⟨0x158, 1, 0x110, 0x4, 1, [⟨31, 0, .ro, .any, 0x0⟩]⟩,
  -- EGR_QSEL (R328)
  ⟨0x158, 1, 0x140, 0x4, 1, [⟨8, 0, .own, .any, 0x0⟩]⟩,
  -- EGR_Q_CFG (R328)
  ⟨0x158, 1, 0x144, 0x4, 1, [⟨18, 16, .win, .any, 0x0⟩, ⟨8, 8, .win, .any, 0x0⟩]⟩,
  -- EGR_Q_RATE (R328)
  ⟨0x158, 1, 0x148, 0x4, 1, [⟨26, 0, .win, .any, 0x0⟩]⟩,
  -- EGR_Q_BURST (R328)
  ⟨0x158, 1, 0x14C, 0x4, 1, [⟨31, 31, .win, .any, 0x0⟩, ⟨23, 0, .win, .any, 0x3e80⟩]⟩,
  -- EGR_Q_LIMIT (R328)
  ⟨0x158, 1, 0x150, 0x4, 1, [⟨15, 0, .win, .any, 0x100⟩]⟩,
  -- EGR_Q_TOKENS (R328)
  ⟨0x158, 1, 0x154, 0x4, 1, [⟨31, 0, .ro, .any, 0x0⟩]⟩,
  -- EGR_Q_DEPTH_LAST (R328)
  ⟨0x158, 1, 0x158, 0x4, 1, [⟨31, 0, .ro, .any, 0x0⟩]⟩,
  -- EGR_Q_DEPTH_MIN (R328)
  ⟨0x158, 1, 0x15C, 0x4, 1, [⟨31, 0, .ro, .any, 0xffffffff⟩]⟩,
  -- EGR_Q_DEPTH_MAX (R328)
  ⟨0x158, 1, 0x160, 0x4, 1, [⟨31, 0, .ro, .any, 0x0⟩]⟩,
  -- EGR_Q_DELAY_LAST (R328)
  ⟨0x158, 1, 0x164, 0x4, 1, [⟨31, 0, .ro, .any, 0x0⟩]⟩,
  -- EGR_Q_DELAY_MIN (R328)
  ⟨0x158, 1, 0x168, 0x4, 1, [⟨31, 0, .ro, .any, 0xffffffff⟩]⟩,
  -- EGR_Q_DELAY_MAX (R328)
  ⟨0x158, 1, 0x16C, 0x4, 1, [⟨31, 0, .ro, .any, 0x0⟩]⟩,
  -- EGR_Q_SENT (R328)
  ⟨0x158, 1, 0x170, 0x4, 1, [⟨31, 0, .ro, .any, 0x0⟩]⟩,
  -- EGR_Q_DROP (R328)
  ⟨0x158, 1, 0x174, 0x4, 1, [⟨31, 0, .win, .any, 0x0⟩]⟩,
  -- EGR_Q_CTRL (R328)
  ⟨0x158, 1, 0x178, 0x4, 1, [⟨0, 0, .wo, .any, 0x0⟩]⟩,
  -- EGR_SAMPLE (R329)
  ⟨0x158, 1, 0x180, 0x4, 1, [⟨9, 0, .rw, .clamp 1 1000, 0x64⟩]⟩,
  -- EGR_TFULL (R329)
  ⟨0x158, 1, 0x184, 0x4, 1, [⟨31, 0, .cnt0, .any, 0x0⟩]⟩,
  -- EGR_TIE (R329)
  ⟨0x158, 1, 0x188, 0x4, 1, [⟨2, 0, .ro, .any, 0x7⟩]⟩,
  -- EGR_USED (R329)
  ⟨0x158, 1, 0x18C, 0x4, 1, [⟨6, 0, .ro, .any, 0x0⟩]⟩]

/-- Registers of spec/11_egress_scheduling.md. -/
def regs11b : List RegDef := [
  -- EGR_SEND_REJ (R329)
  ⟨0x158, 1, 0x190, 0x4, 1, [⟨31, 24, .ro, .any, 0x0⟩, ⟨2, 0, .ro, .any, 0x0⟩]⟩,
  -- EGR_WREJ (R329)
  ⟨0x158, 1, 0x194, 0x4, 1, [⟨31, 0, .cnt0, .any, 0x0⟩]⟩,
  -- EGR_GSEL (R329)
  ⟨0x158, 1, 0x1C0, 0x4, 1, [⟨31, 31, .rw, .any, 0x0⟩, ⟨26, 24, .rw, .any, 0x0⟩, ⟨9, 0, .rw, .any, 0x0⟩]⟩,
  -- EGR_GENT (R329)
  ⟨0x158, 1, 0x1C4, 0x4, 1, [⟨31, 0, .ro, .any, 0x0⟩]⟩,
  -- EGR_P_CFG (R330)
  ⟨0x158, 1, 0x200, 0x40, 5, [⟨31, 31, .rw, .any, 0x1⟩, ⟨30, 28, .rw, .any, 0x7⟩, ⟨17, 8, .rw, .any, 0x8⟩, ⟨5, 0, .rw, .any, 0x14⟩]⟩,
  -- EGR_P_GCTRL (R330)
  ⟨0x158, 1, 0x204, 0x40, 5, [⟨31, 31, .rw, .any, 0x0⟩, ⟨2, 2, .wo, .any, 0x0⟩, ⟨1, 1, .wo, .any, 0x0⟩]⟩,
  -- EGR_P_ABASE_LO (R330)
  ⟨0x158, 1, 0x208, 0x40, 5, [⟨31, 0, .rw, .any, 0x0⟩]⟩,
  -- EGR_P_ABASE_HI (R330)
  ⟨0x158, 1, 0x20C, 0x40, 5, [⟨31, 0, .rw, .any, 0x0⟩]⟩,
  -- EGR_P_ACYCLE (R330)
  ⟨0x158, 1, 0x210, 0x40, 5, [⟨29, 0, .rw, .any, 0xf4240⟩]⟩,
  -- EGR_P_AEXT (R330)
  ⟨0x158, 1, 0x214, 0x40, 5, [⟨29, 0, .rw, .any, 0x0⟩]⟩,
  -- EGR_P_GSTAT (R330)
  ⟨0x158, 1, 0x218, 0x40, 5, [⟨31, 31, .ro, .any, 0x0⟩, ⟨30, 30, .ro, .any, 0x0⟩, ⟨29, 22, .ro, .any, 0xff⟩, ⟨21, 11, .ro, .any, 0x0⟩, ⟨10, 0, .ro, .any, 0x0⟩]⟩,
  -- EGR_P_GREJ (R330)
  ⟨0x158, 1, 0x21C, 0x40, 5, [⟨31, 24, .ro, .any, 0x0⟩]⟩,
  -- EGR_P_CHG_LO (R330)
  ⟨0x158, 1, 0x220, 0x40, 5, [⟨31, 0, .ro, .any, 0x0⟩]⟩,
  -- EGR_P_CHG_HI (R330)
  ⟨0x158, 1, 0x224, 0x40, 5, [⟨31, 0, .ro, .any, 0x0⟩]⟩,
  -- EGR_P_OCYCLE (R330)
  ⟨0x158, 1, 0x228, 0x40, 5, [⟨29, 0, .ro, .any, 0x0⟩]⟩,
  -- EGR_P_PAUSED (R330)
  ⟨0x158, 1, 0x22C, 0x40, 5, [⟨7, 0, .ro, .any, 0x0⟩]⟩,
  -- EGR_P_TOOBIG (R330)
  ⟨0x158, 1, 0x230, 0x40, 5, [⟨31, 0, .cnt0, .any, 0x0⟩]⟩,
  -- EGR_P_FRAMES (R330)
  ⟨0x158, 1, 0x234, 0x40, 5, [⟨31, 0, .ro, .any, 0x0⟩]⟩,
  -- EGR_P_PFC_RX (R330)
  ⟨0x158, 1, 0x238, 0x40, 5, [⟨31, 0, .cnt0, .any, 0x0⟩]⟩]

/-- Registers of spec/12_time_base.md. -/
def regs12a : List RegDef := [
  -- TIM_SEL (R348)
  ⟨0x10, 1, 0x100, 0x4, 1, [⟨31, 31, .rw, .any, 0x1⟩, ⟨1, 1, .wo, .any, 0x0⟩, ⟨0, 0, .own, .any, 0x0⟩]⟩,
  -- TIM_STAT (R348)
  ⟨0x10, 1, 0x104, 0x4, 1, [⟨31, 31, .ro, .any, 0x0⟩, ⟨30, 30, .ro, .any, 0x0⟩, ⟨29, 29, .ro, .any, 0x0⟩, ⟨28, 28, .ro, .any, 0x0⟩, ⟨15, 8, .ro, .any, 0x0⟩]⟩,
  -- TIM_SLEW (R348)
  ⟨0x10, 1, 0x108, 0x4, 1, [⟨16, 0, .rw, .clamp 1 100000, 0x3e8⟩]⟩,
  -- TIM_MAXDIFF (R348)
  ⟨0x10, 1, 0x10C, 0x4, 1, [⟨31, 0, .rw, .any, 0x186a0⟩]⟩,
  -- TIM_SNAP (R348)
  ⟨0x10, 1, 0x110, 0x4, 1, [⟨0, 0, .wo, .any, 0x0⟩]⟩,
  -- TIM_SN_S_LO (R348)
  ⟨0x10, 1, 0x114, 0x4, 1, [⟨31, 0, .ro, .any, 0x0⟩]⟩,
  -- TIM_SN_S_HI (R348)
  ⟨0x10, 1, 0x118, 0x4, 1, [⟨31, 0, .ro, .any, 0x0⟩]⟩,
  -- TIM_SN_S_FRAC (R348)
  ⟨0x10, 1, 0x11C, 0x4, 1, [⟨31, 0, .ro, .any, 0x0⟩]⟩,
  -- TIM_SN_A_LO (R348)
  ⟨0x10, 1, 0x120, 0x4, 1, [⟨31, 0, .ro, .any, 0x0⟩]⟩,
  -- TIM_SN_A_HI (R348)
  ⟨0x10, 1, 0x124, 0x4, 1, [⟨31, 0, .ro, .any, 0x0⟩]⟩,
  -- TIM_SN_B_LO (R348)
  ⟨0x10, 1, 0x128, 0x4, 1, [⟨31, 0, .ro, .any, 0x0⟩]⟩,
  -- TIM_SN_B_HI (R348)
  ⟨0x10, 1, 0x12C, 0x4, 1, [⟨31, 0, .ro, .any, 0x0⟩]⟩,
  -- TIM_SN_E (R348)
  ⟨0x10, 1, 0x130, 0x4, 1, [⟨31, 0, .ro, .any, 0x0⟩]⟩,
  -- TIM_PPS_S_LO (R348)
  ⟨0x10, 1, 0x140, 0x4, 1, [⟨31, 0, .ro, .any, 0x0⟩]⟩,
  -- TIM_PPS_S_HI (R348)
  ⟨0x10, 1, 0x144, 0x4, 1, [⟨31, 0, .ro, .any, 0x0⟩]⟩,
  -- TIM_PPS_A_LO (R348)
  ⟨0x10, 1, 0x148, 0x4, 1, [⟨31, 0, .ro, .any, 0x0⟩]⟩,
  -- TIM_PPS_A_HI (R348)
  ⟨0x10, 1, 0x14C, 0x4, 1, [⟨31, 0, .ro, .any, 0x0⟩]⟩,
  -- TIM_PPS_B_LO (R348)
  ⟨0x10, 1, 0x150, 0x4, 1, [⟨31, 0, .ro, .any, 0x0⟩]⟩,
  -- TIM_PPS_B_HI (R348)
  ⟨0x10, 1, 0x154, 0x4, 1, [⟨31, 0, .ro, .any, 0x0⟩]⟩,
  -- TIM_PPS_CNT (R348)
  ⟨0x10, 1, 0x158, 0x4, 1, [⟨31, 0, .ro, .any, 0x0⟩]⟩,
  -- TIM_TXQ_ID (R349)
  ⟨0x10, 1, 0x200, 0x40, 5, [⟨31, 16, .ro, .any, 0x0⟩, ⟨15, 12, .ro, .any, 0x0⟩, ⟨10, 8, .ro, .any, 0x0⟩, ⟨0, 0, .ro, .any, 0x0⟩]⟩,
  -- TIM_TXQ_S_LO (R349)
  ⟨0x10, 1, 0x204, 0x40, 5, [⟨31, 0, .ro, .any, 0x0⟩]⟩,
  -- TIM_TXQ_S_HI (R349)
  ⟨0x10, 1, 0x208, 0x40, 5, [⟨31, 0, .ro, .any, 0x0⟩]⟩,
  -- TIM_TXQ_A_LO (R349)
  ⟨0x10, 1, 0x20C, 0x40, 5, [⟨31, 0, .ro, .any, 0x0⟩]⟩]

/-- Registers of spec/12_time_base.md. -/
def regs12b : List RegDef := [
  -- TIM_TXQ_A_HI (R349)
  ⟨0x10, 1, 0x210, 0x40, 5, [⟨31, 0, .ro, .any, 0x0⟩]⟩,
  -- TIM_TXQ_B_LO (R349)
  ⟨0x10, 1, 0x214, 0x40, 5, [⟨31, 0, .ro, .any, 0x0⟩]⟩,
  -- TIM_TXQ_B_HI (R349)
  ⟨0x10, 1, 0x218, 0x40, 5, [⟨31, 0, .ro, .any, 0x0⟩]⟩,
  -- TIM_TXQ_CTRL (R349)
  ⟨0x10, 1, 0x21C, 0x40, 5, [⟨0, 0, .wo, .any, 0x0⟩]⟩,
  -- TIM_TXQ_STAT (R349)
  ⟨0x10, 1, 0x220, 0x40, 5, [⟨31, 31, .w1c, .any, 0x0⟩, ⟨6, 0, .ro, .any, 0x0⟩]⟩,
  -- TIM_TXQ_LOST (R349)
  ⟨0x10, 1, 0x224, 0x40, 5, [⟨31, 0, .cnt0, .any, 0x0⟩]⟩,
  -- TIM_TXDLY (R349)
  ⟨0x10, 1, 0x228, 0x40, 5, [⟨19, 0, .rw, .any, 0x0⟩]⟩,
  -- TIM_CH_CFG (R350)
  ⟨0x10, 1, 0x400, 0x20, 16, [⟨31, 30, .rw, .any, 0x0⟩, ⟨29, 29, .rw, .any, 0x0⟩, ⟨28, 27, .rw, .any, 0x0⟩, ⟨26, 24, .rw, .any, 0x0⟩, ⟨23, 16, .rw, .any, 0x0⟩, ⟨15, 0, .rw, .any, 0x0⟩]⟩,
  -- TIM_CH_START_LO (R350)
  ⟨0x10, 1, 0x404, 0x20, 16, [⟨31, 0, .rw, .any, 0x0⟩]⟩,
  -- TIM_CH_START_HI (R350)
  ⟨0x10, 1, 0x408, 0x20, 16, [⟨31, 0, .rw, .any, 0x0⟩]⟩,
  -- TIM_CH_PERIOD_NS (R350)
  ⟨0x10, 1, 0x40C, 0x20, 16, [⟨31, 0, .rw, .keep 1000 4294967295, 0x0⟩]⟩,
  -- TIM_CH_PERIOD_FRAC (R350)
  ⟨0x10, 1, 0x410, 0x20, 16, [⟨31, 0, .rw, .any, 0x0⟩]⟩,
  -- TIM_CH_WIDTH (R350)
  ⟨0x10, 1, 0x414, 0x20, 16, [⟨23, 0, .rw, .keep 8 16777215, 0x64⟩]⟩,
  -- TIM_CH_CTRL (R350)
  ⟨0x10, 1, 0x418, 0x20, 16, [⟨1, 1, .wo, .any, 0x0⟩, ⟨0, 0, .wo, .any, 0x0⟩]⟩,
  -- TIM_CH_STAT (R350)
  ⟨0x10, 1, 0x41C, 0x20, 16, [⟨31, 31, .ro, .any, 0x0⟩, ⟨30, 30, .w1c, .any, 0x0⟩, ⟨29, 16, .cnt0, .any, 0x0⟩, ⟨15, 0, .ro, .any, 0x0⟩]⟩,
  -- TIM_D_CFG (R351)
  ⟨0x11, 2, 0x100, 0x4, 1, [⟨31, 24, .own, .any, 0x7f⟩, ⟨23, 22, .own, .any, 0x0⟩, ⟨21, 20, .own, .any, 0x0⟩, ⟨19, 19, .own, .any, 0x0⟩, ⟨4, 0, .own, .any, 0x0⟩]⟩,
  -- TIM_D_INC_LO (R351)
  ⟨0x11, 2, 0x104, 0x4, 1, [⟨31, 0, .rw, .any, 0x0⟩]⟩,
  -- TIM_D_INC_HI (R351)
  ⟨0x11, 2, 0x108, 0x4, 1, [⟨7, 0, .own, .any, 0x28⟩]⟩,
  -- TIM_D_ADJ (R351)
  ⟨0x11, 2, 0x10C, 0x4, 1, [⟨31, 0, .wo, .any, 0x0⟩]⟩,
  -- TIM_D_SET_LO (R351)
  ⟨0x11, 2, 0x110, 0x4, 1, [⟨31, 0, .rw, .any, 0x0⟩]⟩,
  -- TIM_D_SET_HI (R351)
  ⟨0x11, 2, 0x114, 0x4, 1, [⟨31, 0, .rw, .any, 0x0⟩]⟩,
  -- TIM_D_CTRL (R351)
  ⟨0x11, 2, 0x118, 0x4, 1, [⟨2, 2, .wo, .any, 0x0⟩, ⟨0, 0, .own, .any, 0x0⟩]⟩,
  -- TIM_D_STAT (R351)
  ⟨0x11, 2, 0x11C, 0x4, 1, [⟨31, 28, .ro, .any, 0x0⟩, ⟨26, 24, .ro, .any, 0x0⟩]⟩,
  -- TIM_D_GMID_LO (R351)
  ⟨0x11, 2, 0x120, 0x4, 1, [⟨31, 0, .ro, .any, 0x0⟩]⟩]

/-- Registers of spec/12_time_base.md. -/
def regs12c : List RegDef := [
  -- TIM_D_GMID_HI (R351)
  ⟨0x11, 2, 0x124, 0x4, 1, [⟨31, 0, .ro, .any, 0x0⟩]⟩,
  -- TIM_D_OFFSET (R351)
  ⟨0x11, 2, 0x128, 0x4, 1, [⟨31, 0, .ro, .any, 0x0⟩]⟩,
  -- TIM_D_MPD (R351)
  ⟨0x11, 2, 0x12C, 0x4, 1, [⟨31, 0, .ro, .any, 0x0⟩]⟩,
  -- TIM_D_UTC (R351)
  ⟨0x11, 2, 0x130, 0x4, 1, [⟨16, 16, .ro, .any, 0x0⟩, ⟨15, 0, .ro, .any, 0x0⟩]⟩,
  -- TIM_D_T (R351)
  ⟨0x11, 2, 0x140, 0x4, 8, [⟨31, 0, .ro, .any, 0x0⟩]⟩,
  -- TIM_D_MCNT (R351)
  ⟨0x11, 2, 0x160, 0x4, 1, [⟨31, 0, .ro, .any, 0x0⟩]⟩]

/-- Registers of spec/13_cue_lists.md. -/
def regs13 : List RegDef := [
  -- CUE_REJ (R368)
  ⟨0x18, 1, 0x100, 0x4, 1, [⟨31, 24, .ro, .any, 0x0⟩, ⟨19, 17, .ro, .any, 0x0⟩, ⟨2, 0, .ro, .any, 0x0⟩]⟩,
  -- CUE_TFULL (R368)
  ⟨0x18, 1, 0x104, 0x4, 1, [⟨31, 0, .cnt0, .any, 0x0⟩]⟩,
  -- CUE_TIE (R368)
  ⟨0x18, 1, 0x108, 0x4, 1, [⟨2, 0, .ro, .any, 0x7⟩]⟩,
  -- CUE_STAT (R369)
  ⟨0x18, 1, 0x200, 0x40, 8, [⟨31, 30, .ro, .any, 0x0⟩, ⟨29, 27, .ro, .any, 0x0⟩, ⟨26, 26, .ro, .any, 0x0⟩, ⟨25, 24, .ro, .any, 0x0⟩, ⟨12, 0, .ro, .any, 0x0⟩]⟩,
  -- CUE_EBASE_LO (R369)
  ⟨0x18, 1, 0x204, 0x40, 8, [⟨31, 0, .ro, .any, 0x0⟩]⟩,
  -- CUE_EBASE_HI (R369)
  ⟨0x18, 1, 0x208, 0x40, 8, [⟨31, 0, .ro, .any, 0x0⟩]⟩,
  -- CUE_CYCLES (R369)
  ⟨0x18, 1, 0x20C, 0x40, 8, [⟨31, 0, .ro, .any, 0x0⟩]⟩,
  -- CUE_LATE (R369)
  ⟨0x18, 1, 0x210, 0x40, 8, [⟨31, 0, .cnt0, .any, 0x0⟩]⟩,
  -- CUE_LATE_INFO (R369)
  ⟨0x18, 1, 0x214, 0x40, 8, [⟨31, 24, .ro, .any, 0x0⟩, ⟨11, 0, .ro, .any, 0x0⟩]⟩,
  -- CUE_FAIL (R369)
  ⟨0x18, 1, 0x218, 0x40, 8, [⟨31, 24, .ro, .any, 0x0⟩, ⟨11, 0, .ro, .any, 0x0⟩]⟩,
  -- CUE_SKIP (R369)
  ⟨0x18, 1, 0x21C, 0x40, 8, [⟨31, 0, .cnt0, .any, 0x0⟩]⟩,
  -- CUE_APPLIED (R369)
  ⟨0x18, 1, 0x220, 0x40, 8, [⟨31, 0, .ro, .any, 0x0⟩]⟩]

/-- Registers of spec/14_rim_strip.md. -/
def regs14 : List RegDef := [
  -- RIM_CFG (R388)
  ⟨0x180, 1, 0x100, 0x4, 1, [⟨9, 8, .own, .any, 0x0⟩, ⟨4, 4, .own, .any, 0x1⟩]⟩,
  -- RIM_STAT (R388)
  ⟨0x180, 1, 0x104, 0x4, 1, [⟨31, 31, .ro, .any, 0x0⟩, ⟨30, 30, .ro, .any, 0x1⟩, ⟨29, 29, .ro, .any, 0x0⟩, ⟨28, 28, .ro, .any, 0x0⟩, ⟨27, 27, .ro, .any, 0x1⟩, ⟨26, 26, .ro, .any, 0x0⟩, ⟨20, 16, .ro, .any, 0x1f⟩, ⟨15, 12, .ro, .any, 0x0⟩, ⟨11, 9, .ro, .any, 0x0⟩, ⟨0, 0, .ro, .any, 0x0⟩]⟩,
  -- RIM_TEMP (R388)
  ⟨0x180, 1, 0x108, 0x4, 1, [⟨31, 31, .ro, .any, 0x0⟩, ⟨15, 0, .ro, .any, 0x0⟩]⟩,
  -- RIM_NTC_CFG (R388)
  ⟨0x180, 1, 0x10C, 0x4, 1, [⟨31, 16, .rw, .any, 0xd6b⟩, ⟨15, 0, .rw, .any, 0x1000⟩]⟩,
  -- RIM_VSUP (R388)
  ⟨0x180, 1, 0x110, 0x4, 1, [⟨31, 16, .ro, .any, 0x0⟩, ⟨15, 0, .ro, .any, 0x0⟩]⟩,
  -- RIM_VRIM (R388)
  ⟨0x180, 1, 0x114, 0x4, 1, [⟨15, 0, .ro, .any, 0x0⟩]⟩,
  -- RIM_TFULL (R388)
  ⟨0x180, 1, 0x118, 0x4, 1, [⟨31, 0, .cnt0, .any, 0x0⟩]⟩,
  -- RIM_TIE (R388)
  ⟨0x180, 1, 0x11C, 0x4, 1, [⟨10, 8, .ro, .any, 0x7⟩, ⟨6, 4, .ro, .any, 0x7⟩, ⟨2, 0, .ro, .any, 0x7⟩]⟩,
  -- RIM_CUE_INFO (R388)
  ⟨0x180, 1, 0x120, 0x4, 1, [⟨31, 24, .ro, .any, 0x0⟩, ⟨19, 16, .ro, .any, 0x0⟩, ⟨2, 0, .ro, .any, 0x0⟩]⟩,
  -- RIM_COALESCED (R388)
  ⟨0x180, 1, 0x124, 0x4, 1, [⟨31, 0, .cnt0, .any, 0x0⟩]⟩,
  -- RIM_PSEQ (R388)
  ⟨0x180, 1, 0x128, 0x4, 1, [⟨31, 0, .ro, .any, 0x0⟩]⟩,
  -- RIM_LOSS (R388)
  ⟨0x180, 1, 0x12C, 0x4, 1, [⟨31, 0, .cnt0, .any, 0x0⟩]⟩,
  -- RIM_RGN_STAT (R388)
  ⟨0x180, 1, 0x400, 0x10, 16, [⟨31, 30, .ro, .any, 0x0⟩, ⟨29, 27, .ro, .any, 0x0⟩, ⟨26, 26, .ro, .any, 0x0⟩, ⟨25, 23, .ro, .any, 0x0⟩, ⟨19, 19, .ro, .any, 0x0⟩, ⟨18, 16, .ro, .any, 0x0⟩]⟩,
  -- RIM_RGN_RECT (R388)
  ⟨0x180, 1, 0x404, 0x10, 16, [⟨28, 24, .ro, .any, 0x0⟩, ⟨20, 16, .ro, .any, 0x0⟩, ⟨15, 8, .ro, .any, 0x0⟩, ⟨7, 0, .ro, .any, 0x0⟩]⟩,
  -- RIM_RGN_DONE (R388)
  ⟨0x180, 1, 0x408, 0x10, 16, [⟨31, 0, .ro, .any, 0x0⟩]⟩,
  -- RIM_RGN_NEXT (R388)
  ⟨0x180, 1, 0x40C, 0x10, 16, [⟨4, 0, .ro, .any, 0x0⟩]⟩]

/-- Registers of spec/15_calibration_camera.md. -/
def regs15a : List RegDef := [
  -- CAM_P_CFG (R406)
  ⟨0x160, 2, 0x100, 0x4, 1, [⟨31, 24, .own, .any, 0xa⟩, ⟨5, 4, .own, .any, 0x0⟩, ⟨1, 0, .own, .any, 0x2⟩]⟩,
  -- CAM_P_CAUSE (R406)
  ⟨0x160, 2, 0x104, 0x4, 1, [⟨6, 1, .w1c, .any, 0x0⟩]⟩,
  -- CAM_P_CAUSE_EN (R406)
  ⟨0x160, 2, 0x108, 0x4, 1, [⟨6, 1, .rw, .any, 0x0⟩]⟩,
  -- CAM_P_STRAY (R406)
  ⟨0x160, 2, 0x10C, 0x4, 1, [⟨31, 0, .cnt0, .any, 0x0⟩]⟩,
  -- CAM_P_CRC (R406)
  ⟨0x160, 2, 0x110, 0x4, 1, [⟨31, 0, .cnt0, .any, 0x0⟩]⟩,
  -- CAM_P_IBI (R406)
  ⟨0x160, 2, 0x114, 0x4, 1, [⟨31, 0, .ro, .any, 0x0⟩]⟩,
  -- CAM_P_IBI_ADDR (R406)
  ⟨0x160, 2, 0x118, 0x4, 1, [⟨6, 0, .ro, .any, 0x0⟩]⟩,
  -- CAM_TFULL (R406)
  ⟨0x160, 1, 0x180, 0x4, 1, [⟨31, 0, .cnt0, .any, 0x0⟩]⟩,
  -- CAM_S_CFG (R407)
  ⟨0x160, 1, 0x400, 0x40, 8, [⟨31, 31, .own, .any, 0x0⟩, ⟨30, 30, .own, .any, 0x0⟩, ⟨29, 26, .own, .any, 0x0⟩, ⟨25, 25, .own, .any, 0x0⟩, ⟨24, 23, .own, .any, 0x0⟩, ⟨22, 20, .own, .any, 0x0⟩, ⟨19, 19, .own, .any, 0x0⟩, ⟨18, 12, .own, .any, 0x0⟩]⟩,
  -- CAM_S_SIZE (R407)
  ⟨0x160, 1, 0x404, 0x40, 8, [⟨31, 16, .own, .any, 0x0⟩, ⟨15, 0, .own, .any, 0x0⟩]⟩,
  -- CAM_S_TIMING (R407)
  ⟨0x160, 1, 0x408, 0x40, 8, [⟨31, 16, .rw, .any, 0x64⟩, ⟨15, 0, .rw, .any, 0x0⟩]⟩,
  -- CAM_S_BL0 (R407)
  ⟨0x160, 1, 0x40C, 0x40, 8, [⟨27, 16, .rw, .any, 0x0⟩, ⟨11, 0, .rw, .any, 0x0⟩]⟩,
  -- CAM_S_BL1 (R407)
  ⟨0x160, 1, 0x410, 0x40, 8, [⟨27, 16, .rw, .any, 0x0⟩, ⟨11, 0, .rw, .any, 0x0⟩]⟩,
  -- CAM_S_WB0 (R407)
  ⟨0x160, 1, 0x414, 0x40, 8, [⟨31, 16, .rw, .any, 0x1000⟩, ⟨15, 0, .rw, .any, 0x1000⟩]⟩,
  -- CAM_S_WB1 (R407)
  ⟨0x160, 1, 0x418, 0x40, 8, [⟨15, 0, .rw, .any, 0x1000⟩]⟩,
  -- CAM_S_MAT0 (R407)
  ⟨0x160, 1, 0x41C, 0x40, 8, [⟨31, 16, .rw, .any, 0x1000⟩, ⟨15, 0, .rw, .any, 0x0⟩]⟩,
  -- CAM_S_MAT1 (R407)
  ⟨0x160, 1, 0x420, 0x40, 8, [⟨31, 16, .rw, .any, 0x0⟩, ⟨15, 0, .rw, .any, 0x0⟩]⟩,
  -- CAM_S_MAT2 (R407)
  ⟨0x160, 1, 0x424, 0x40, 8, [⟨31, 16, .rw, .any, 0x1000⟩, ⟨15, 0, .rw, .any, 0x0⟩]⟩,
  -- CAM_S_MAT3 (R407)
  ⟨0x160, 1, 0x428, 0x40, 8, [⟨31, 16, .rw, .any, 0x0⟩, ⟨15, 0, .rw, .any, 0x0⟩]⟩,
  -- CAM_S_MAT4 (R407)
  ⟨0x160, 1, 0x42C, 0x40, 8, [⟨31, 16, .rw, .any, 0x1000⟩]⟩,
  -- CAM_S_NR (R407)
  ⟨0x160, 1, 0x430, 0x40, 8, [⟨27, 16, .rw, .any, 0x0⟩, ⟨8, 8, .rw, .any, 0x0⟩, ⟨7, 4, .rw, .any, 0x0⟩, ⟨3, 0, .rw, .any, 0x0⟩]⟩,
  -- CAM_S_SAT (R407)
  ⟨0x160, 1, 0x434, 0x40, 8, [⟨11, 0, .rw, .any, 0xfff⟩]⟩,
  -- CAM_S_STATS (R407)
  ⟨0x160, 1, 0x438, 0x40, 8, [⟨31, 6, .own, .any, 0x0⟩, ⟨5, 0, .own, .any, 0x0⟩]⟩,
  -- CAM_S_STATUS (R407)
  ⟨0x160, 1, 0x43C, 0x40, 8, [⟨31, 16, .ro, .any, 0x0⟩, ⟨4, 0, .ro, .any, 0x0⟩]⟩]

/-- Registers of spec/15_calibration_camera.md. -/
def regs15b : List RegDef := [
  -- CAM_S_FCOUNT (R407)
  ⟨0x160, 1, 0x600, 0x10, 8, [⟨31, 0, .ro, .any, 0x0⟩]⟩,
  -- CAM_S_CAUSE (R407)
  ⟨0x160, 1, 0x604, 0x10, 8, [⟨8, 1, .w1c, .any, 0x0⟩]⟩,
  -- CAM_S_CAUSE_EN (R407)
  ⟨0x160, 1, 0x608, 0x10, 8, [⟨8, 1, .rw, .any, 0x0⟩]⟩,
  -- CAM_S_MISSED (R407)
  ⟨0x160, 1, 0x60C, 0x10, 8, [⟨31, 0, .cnt0, .any, 0x0⟩]⟩,
  -- CAM_O_CFG (R408)
  ⟨0x160, 1, 0x800, 0x20, 8, [⟨31, 31, .own, .any, 0x0⟩, ⟨30, 28, .own, .any, 0x0⟩, ⟨27, 27, .own, .any, 0x0⟩, ⟨26, 26, .own, .any, 0x0⟩, ⟨3, 0, .own, .any, 0x2⟩]⟩,
  -- CAM_O_SRC0 (R408)
  ⟨0x160, 1, 0x804, 0x20, 8, [⟨31, 16, .rw, .any, 0x0⟩, ⟨15, 0, .rw, .any, 0x0⟩]⟩,
  -- CAM_O_SRC1 (R408)
  ⟨0x160, 1, 0x808, 0x20, 8, [⟨31, 16, .rw, .any, 0x0⟩, ⟨15, 0, .rw, .any, 0x0⟩]⟩,
  -- CAM_O_DST (R408)
  ⟨0x160, 1, 0x80C, 0x20, 8, [⟨31, 16, .rw, .any, 0x0⟩, ⟨15, 0, .rw, .any, 0x0⟩]⟩,
  -- CAM_O_BASE_LO (R408)
  ⟨0x160, 1, 0x810, 0x20, 8, [⟨31, 12, .rw, .any, 0x0⟩]⟩,
  -- CAM_O_BASE_HI (R408)
  ⟨0x160, 1, 0x814, 0x20, 8, [⟨7, 0, .rw, .any, 0x0⟩]⟩,
  -- CAM_O_STAT (R408)
  ⟨0x160, 1, 0x818, 0x20, 8, [⟨31, 29, .ro, .any, 0x0⟩, ⟨4, 1, .ro, .any, 0x0⟩, ⟨0, 0, .ro, .any, 0x0⟩]⟩,
  -- CAM_O_FCOUNT (R408)
  ⟨0x160, 1, 0x81C, 0x20, 8, [⟨31, 0, .ro, .any, 0x0⟩]⟩,
  -- CAM_O_CAUSE (R408)
  ⟨0x160, 1, 0x900, 0x4, 1, [⟨15, 8, .w1c, .any, 0x0⟩, ⟨7, 0, .w1c, .any, 0x0⟩]⟩,
  -- CAM_O_CAUSE_EN (R408)
  ⟨0x160, 1, 0x904, 0x4, 1, [⟨15, 8, .rw, .any, 0x0⟩, ⟨7, 0, .rw, .any, 0x0⟩]⟩]

/-- Registers of spec/16_memory.md. -/
def regs16 : List RegDef := [
  -- HBM_CFG (R423)
  ⟨0x170, 4, 0x100, 0x4, 1, [⟨31, 31, .rw, .any, 0x1⟩, ⟨20, 16, .rw, .clamp 8 16, 0xc⟩, ⟨8, 8, .rw, .any, 0x1⟩]⟩,
  -- HBM_SCRUB (R423)
  ⟨0x170, 4, 0x104, 0x4, 1, [⟨15, 0, .rw, .clamp 1 65535, 0x18⟩]⟩,
  -- HBM_STAT (R423)
  ⟨0x170, 4, 0x108, 0x4, 1, [⟨31, 31, .ro, .any, 0x0⟩, ⟨30, 30, .ro, .any, 0x0⟩, ⟨29, 29, .ro, .any, 0x0⟩, ⟨28, 28, .ro, .any, 0x0⟩, ⟨7, 0, .ro, .any, 0x0⟩]⟩,
  -- HBM_CE_CNT (R423)
  ⟨0x170, 4, 0x10C, 0x4, 1, [⟨31, 0, .cnt0, .any, 0x0⟩]⟩,
  -- HBM_CE_THR (R423)
  ⟨0x170, 4, 0x110, 0x4, 1, [⟨31, 0, .rw, .any, 0x3e8⟩]⟩,
  -- HBM_UE_CNT (R423)
  ⟨0x170, 4, 0x114, 0x4, 1, [⟨31, 0, .cnt0, .any, 0x0⟩]⟩,
  -- HBM_UE_ADDR_LO (R423)
  ⟨0x170, 4, 0x118, 0x4, 1, [⟨31, 0, .ro, .any, 0x0⟩]⟩,
  -- HBM_UE_ADDR_HI (R423)
  ⟨0x170, 4, 0x11C, 0x4, 1, [⟨29, 24, .ro, .any, 0x0⟩, ⟨7, 0, .ro, .any, 0x0⟩]⟩,
  -- HBM_ODECC_CNT (R423)
  ⟨0x170, 4, 0x120, 0x4, 1, [⟨31, 0, .cnt0, .any, 0x0⟩]⟩,
  -- HBM_NR_CNT (R423)
  ⟨0x170, 4, 0x124, 0x4, 1, [⟨31, 0, .ro, .any, 0x0⟩]⟩,
  -- HBM_FWD_CNT (R423)
  ⟨0x170, 4, 0x128, 0x4, 1, [⟨31, 0, .ro, .any, 0x0⟩]⟩,
  -- HBM_CLS_RD (R423)
  ⟨0x170, 4, 0x140, 0x4, 8, [⟨31, 0, .ro, .any, 0x0⟩]⟩,
  -- HBM_CLS_WR (R423)
  ⟨0x170, 4, 0x160, 0x4, 8, [⟨31, 0, .ro, .any, 0x0⟩]⟩,
  -- HBM_CLS_BASE (R424)
  ⟨0x170, 1, 0x180, 0x8, 8, [⟨31, 0, .ro, .any, 0x0⟩]⟩,
  -- HBM_CLS_SIZE (R424)
  ⟨0x170, 1, 0x184, 0x8, 8, [⟨31, 0, .ro, .any, 0x0⟩]⟩,
  -- HBM_TFULL (R424)
  ⟨0x170, 1, 0x1C0, 0x4, 1, [⟨31, 0, .cnt0, .any, 0x0⟩]⟩,
  -- HBM_TRAIN (R424)
  ⟨0x170, 1, 0x1C4, 0x4, 1, [⟨31, 24, .ro, .any, 0x0⟩, ⟨3, 0, .ro, .any, 0x0⟩]⟩]

/-- Registers of spec/17_sluice_format.md. -/
def regs17 : List RegDef := [
  -- SLC_STAT (R437)
  ⟨0x178, 1, 0x100, 0x4, 1, [⟨31, 31, .ro, .any, 0x0⟩, ⟨30, 30, .ro, .any, 0x0⟩]⟩,
  -- SLC_TIE (R437)
  ⟨0x178, 1, 0x104, 0x4, 1, [⟨2, 0, .ro, .any, 0x7⟩]⟩,
  -- SLC_ERR (R437)
  ⟨0x178, 1, 0x108, 0x4, 1, [⟨31, 24, .ro, .any, 0x0⟩, ⟨16, 16, .ro, .any, 0x0⟩, ⟨2, 0, .ro, .any, 0x0⟩]⟩,
  -- SLC_ERR_BLOCK (R437)
  ⟨0x178, 1, 0x10C, 0x4, 1, [⟨31, 0, .ro, .any, 0x0⟩]⟩,
  -- SLC_ERR_CNT (R437)
  ⟨0x178, 1, 0x110, 0x4, 1, [⟨31, 0, .cnt0, .any, 0x0⟩]⟩,
  -- SLC_REJ (R437)
  ⟨0x178, 1, 0x114, 0x4, 1, [⟨31, 24, .ro, .any, 0x0⟩, ⟨2, 0, .ro, .any, 0x0⟩]⟩,
  -- SLC_RAW_CNT (R437)
  ⟨0x178, 1, 0x118, 0x4, 1, [⟨31, 0, .ro, .any, 0x0⟩]⟩,
  -- SLC_C_IN (R437)
  ⟨0x178, 1, 0x11C, 0x4, 1, [⟨31, 0, .ro, .any, 0x0⟩]⟩,
  -- SLC_C_OUT (R437)
  ⟨0x178, 1, 0x120, 0x4, 1, [⟨31, 0, .ro, .any, 0x0⟩]⟩,
  -- SLC_D_OUT (R437)
  ⟨0x178, 1, 0x124, 0x4, 1, [⟨31, 0, .ro, .any, 0x0⟩]⟩,
  -- SLC_PEND (R437)
  ⟨0x178, 1, 0x140, 0x4, 8, [⟨16, 0, .ro, .any, 0x0⟩]⟩]

/-- Registers of spec/18_power_thermal_trim.md. -/
def regs18 : List RegDef := [
  -- PWR_STAT (R459)
  ⟨0x2, 1, 0x100, 0x4, 1, [⟨31, 29, .ro, .any, 0x0⟩, ⟨28, 28, .ro, .any, 0x0⟩, ⟨27, 27, .ro, .any, 0x0⟩, ⟨26, 26, .ro, .any, 0x0⟩]⟩,
  -- PWR_WAKE_EN (R459)
  ⟨0x2, 1, 0x104, 0x4, 1, [⟨3, 3, .rw, .any, 0x1⟩, ⟨2, 2, .rw, .any, 0x0⟩, ⟨1, 1, .rw, .any, 0x1⟩, ⟨0, 0, .rw, .any, 0x1⟩]⟩,
  -- PWR_WAKE_SRC (R459)
  ⟨0x2, 1, 0x108, 0x4, 1, [⟨3, 0, .ro, .any, 0x0⟩]⟩,
  -- PWR_WAKE_AT_LO (R459)
  ⟨0x2, 1, 0x10C, 0x4, 1, [⟨31, 0, .rw, .any, 0x0⟩]⟩,
  -- PWR_WAKE_AT_HI (R459)
  ⟨0x2, 1, 0x110, 0x4, 1, [⟨31, 0, .rw, .any, 0x0⟩]⟩,
  -- PWR_LAST (R459)
  ⟨0x2, 1, 0x114, 0x4, 1, [⟨31, 24, .ro, .any, 0x0⟩]⟩,
  -- PWR_TRIP (R459)
  ⟨0x2, 1, 0x118, 0x4, 1, [⟨22, 16, .ro, .any, 0x0⟩, ⟨15, 0, .ro, .any, 0x0⟩]⟩,
  -- PWR_SHUTDOWNS (R459)
  ⟨0x2, 1, 0x11C, 0x4, 1, [⟨31, 0, .cnt0, .any, 0x0⟩]⟩,
  -- PWR_TIE (R459)
  ⟨0x2, 1, 0x120, 0x4, 1, [⟨2, 0, .ro, .any, 0x7⟩]⟩,
  -- CLK_STAT (R460)
  ⟨0x1, 1, 0x100, 0x4, 1, [⟨19, 19, .ro, .any, 0x0⟩, ⟨18, 18, .ro, .any, 0x0⟩, ⟨17, 17, .ro, .any, 0x0⟩, ⟨16, 16, .ro, .any, 0x0⟩, ⟨5, 5, .ro, .any, 0x0⟩, ⟨4, 4, .ro, .any, 0x0⟩, ⟨3, 0, .ro, .any, 0x0⟩]⟩,
  -- CLK_UNLOCKS (R460)
  ⟨0x1, 1, 0x104, 0x4, 1, [⟨31, 0, .cnt0, .any, 0x0⟩]⟩,
  -- THM_CFG (R461)
  ⟨0x4, 1, 0x100, 0x4, 1, [⟨31, 30, .own, .any, 0x1⟩, ⟨29, 22, .own, .any, 0x6c⟩, ⟨21, 14, .own, .any, 0x64⟩, ⟨13, 6, .own, .any, 0x69⟩]⟩,
  -- THM_THROT (R461)
  ⟨0x4, 1, 0x104, 0x4, 1, [⟨31, 16, .rw, .any, 0x32⟩, ⟨8, 0, .rw, .cap 256, 0x8⟩]⟩,
  -- THM_PAUSE (R461)
  ⟨0x4, 1, 0x108, 0x4, 1, [⟨15, 8, .rw, .any, 0x80⟩, ⟨7, 0, .rw, .any, 0x20⟩]⟩,
  -- THM_MAX (R461)
  ⟨0x4, 1, 0x10C, 0x4, 1, [⟨31, 31, .ro, .any, 0x0⟩, ⟨22, 16, .ro, .any, 0x0⟩, ⟨15, 0, .ro, .any, 0x0⟩]⟩,
  -- THM_STAT (R461)
  ⟨0x4, 1, 0x110, 0x4, 1, [⟨31, 31, .ro, .any, 0x0⟩, ⟨30, 30, .ro, .any, 0x0⟩, ⟨23, 16, .ro, .any, 0x0⟩, ⟨8, 0, .ro, .any, 0x100⟩]⟩,
  -- THM_ENF_CNT (R461)
  ⟨0x4, 1, 0x114, 0x4, 1, [⟨31, 0, .cnt0, .any, 0x0⟩]⟩,
  -- THM_T (R461)
  ⟨0x5, 1, 0x100, 0x4, 72, [⟨31, 31, .ro, .any, 0x0⟩, ⟨30, 30, .ro, .any, 0x0⟩, ⟨29, 29, .ro, .any, 0x0⟩, ⟨15, 0, .ro, .any, 0x0⟩]⟩,
  -- THM_PK (R461)
  ⟨0x5, 1, 0x300, 0x4, 72, [⟨15, 0, .setTo 0x8000, .any, 0x8000⟩]⟩,
  -- TRM_CFG (R462)
  ⟨0x8, 1, 0x100, 0x4, 1, [⟨31, 31, .rw, .any, 0x0⟩, ⟨7, 0, .rw, .clamp 1 255, 0x8⟩]⟩,
  -- TRM_REQ (R462)
  ⟨0x8, 1, 0x104, 0x4, 1, [⟨4, 0, .wo, .any, 0x0⟩]⟩,
  -- TRM_STAT (R462)
  ⟨0x8, 1, 0x400, 0x10, 30, [⟨31, 31, .ro, .any, 0x0⟩, ⟨30, 30, .ro, .any, 0x0⟩, ⟨29, 29, .ro, .any, 0x0⟩, ⟨15, 0, .ro, .any, 0x0⟩]⟩,
  -- TRM_RUNS (R462)
  ⟨0x8, 1, 0x404, 0x10, 30, [⟨31, 0, .ro, .any, 0x0⟩]⟩,
  -- TRM_DEFER (R462)
  ⟨0x8, 1, 0x408, 0x10, 30, [⟨31, 0, .cnt0, .any, 0x0⟩]⟩]

/-- Registers of spec/19_hosts_partitions_events.md. -/
def regs19a : List RegDef := [
  -- HST_BIND (R488)
  ⟨0x190, 8, 0x100, 0x4, 1, [⟨31, 30, .ro, .any, 0x0⟩, ⟨26, 24, .ro, .any, 0x0⟩, ⟨18, 16, .ro, .any, 0x0⟩, ⟨6, 0, .ro, .any, 0x0⟩]⟩,
  -- HST_RING_CTRL (R488)
  ⟨0x190, 8, 0x104, 0x4, 1, [⟨31, 31, .own, .any, 0x0⟩, ⟨30, 30, .own, .any, 0x0⟩, ⟨3, 0, .own, .any, 0x4⟩]⟩,
  -- HST_CMD_BASE_LO (R488)
  ⟨0x190, 8, 0x108, 0x4, 1, [⟨31, 12, .own, .any, 0x0⟩]⟩,
  -- HST_CMD_BASE_HI (R488)
  ⟨0x190, 8, 0x10C, 0x4, 1, [⟨31, 0, .own, .any, 0x0⟩]⟩,
  -- HST_CPL_BASE_LO (R488)
  ⟨0x190, 8, 0x110, 0x4, 1, [⟨31, 12, .own, .any, 0x0⟩]⟩,
  -- HST_CPL_BASE_HI (R488)
  ⟨0x190, 8, 0x114, 0x4, 1, [⟨31, 0, .own, .any, 0x0⟩]⟩,
  -- HST_CMD_TAIL (R488)
  ⟨0x190, 8, 0x118, 0x4, 1, [⟨15, 0, .own, .any, 0x0⟩]⟩,
  -- HST_CMD_HEAD (R488)
  ⟨0x190, 8, 0x11C, 0x4, 1, [⟨15, 0, .ro, .any, 0x0⟩]⟩,
  -- HST_CPL_TAIL (R488)
  ⟨0x190, 8, 0x120, 0x4, 1, [⟨15, 0, .ro, .any, 0x0⟩]⟩,
  -- HST_CPL_HEAD (R488)
  ⟨0x190, 8, 0x124, 0x4, 1, [⟨15, 0, .own, .any, 0x0⟩]⟩,
  -- HST_RING_STAT (R488)
  ⟨0x190, 8, 0x128, 0x4, 1, [⟨31, 31, .ro, .any, 0x0⟩, ⟨23, 16, .ro, .any, 0x0⟩, ⟨15, 0, .ro, .any, 0x0⟩]⟩,
  -- HST_CMDREJ (R488)
  ⟨0x190, 8, 0x12C, 0x4, 1, [⟨31, 24, .ro, .any, 0x0⟩, ⟨15, 0, .ro, .any, 0x0⟩]⟩,
  -- HST_WREJ (R488)
  ⟨0x190, 8, 0x130, 0x4, 1, [⟨31, 0, .cnt0, .any, 0x0⟩]⟩,
  -- HST_SEMRES (R488)
  ⟨0x190, 8, 0x134, 0x4, 1, [⟨31, 24, .ro, .any, 0x0⟩, ⟨5, 0, .ro, .any, 0x0⟩]⟩,
  -- HST_JMP_CFG (R488)
  ⟨0x190, 8, 0x140, 0x4, 1, [⟨31, 31, .own, .any, 0x0⟩, ⟨26, 24, .own, .any, 0x0⟩, ⟨15, 0, .own, .any, 0x0⟩]⟩,
  -- HST_JMP_ADDR (R488)
  ⟨0x190, 8, 0x144, 0x4, 4, [⟨31, 0, .own, .any, 0x0⟩]⟩,
  -- HST_JMP_DROP (R488)
  ⟨0x190, 8, 0x154, 0x4, 1, [⟨31, 0, .cnt0, .any, 0x0⟩]⟩,
  -- HST_JMP_SEQ (R488)
  ⟨0x190, 8, 0x158, 0x4, 1, [⟨31, 0, .ro, .any, 0x0⟩]⟩,
  -- HST_JMP_DSEQ (R488)
  ⟨0x190, 8, 0x15C, 0x4, 1, [⟨31, 0, .ro, .any, 0x0⟩]⟩,
  -- HST_HWIN_BASE_LO (R488)
  ⟨0x190, 8, 0x180, 0x10, 4, [⟨31, 12, .own, .any, 0x0⟩]⟩,
  -- HST_HWIN_BASE_HI (R488)
  ⟨0x190, 8, 0x184, 0x10, 4, [⟨31, 0, .own, .any, 0x0⟩]⟩,
  -- HST_HWIN_SIZE_LO (R488)
  ⟨0x190, 8, 0x188, 0x10, 4, [⟨31, 12, .own, .any, 0x0⟩]⟩,
  -- HST_HWIN_SIZE_HI (R488)
  ⟨0x190, 8, 0x18C, 0x10, 4, [⟨31, 0, .own, .any, 0x0⟩]⟩,
  -- HST_REG_BASE (R488)
  ⟨0x190, 8, 0x1C0, 0x8, 8, [⟨31, 0, .own, .any, 0x0⟩]⟩]

/-- Registers of spec/19_hosts_partitions_events.md. -/
def regs19b : List RegDef := [
  -- HST_REG_SIZE (R488)
  ⟨0x190, 8, 0x1C4, 0x8, 8, [⟨31, 0, .own, .any, 0x0⟩]⟩,
  -- HST_EPEND (R488)
  ⟨0x190, 8, 0x400, 0x4, 64, [⟨31, 0, .own, .any, 0x0⟩]⟩,
  -- HST_ADMIN (R489)
  ⟨0x190, 1, 0xC00, 0x4, 1, [⟨6, 4, .ro, .any, 0x0⟩, ⟨2, 0, .own, .any, 0x0⟩]⟩,
  -- HST_JMPPORT (R489)
  ⟨0x190, 1, 0xC04, 0x4, 1, [⟨15, 0, .rw, .any, 0xbdec⟩]⟩,
  -- HST_WTIE (R489)
  ⟨0x190, 1, 0xC08, 0x4, 1, [⟨2, 0, .ro, .any, 0x7⟩]⟩,
  -- HST_SEM_TIE (R489)
  ⟨0x190, 1, 0xC0C, 0x4, 1, [⟨2, 0, .ro, .any, 0x7⟩]⟩,
  -- HST_JMP_BAD (R489)
  ⟨0x190, 1, 0xC10, 0x4, 1, [⟨31, 0, .cnt0, .any, 0x0⟩]⟩,
  -- HST_SEM (R489)
  ⟨0x190, 1, 0xD00, 0x4, 64, [⟨31, 31, .ro, .any, 0x0⟩, ⟨6, 4, .ro, .any, 0x0⟩, ⟨1, 1, .wo, .any, 0x0⟩, ⟨0, 0, .wo, .any, 0x0⟩]⟩,
  -- EVT_SEL (R490)
  ⟨0x198, 1, 0x100, 0x4, 1, [⟨10, 0, .own, .any, 0x0⟩]⟩,
  -- EVT_ROUTE (R490)
  ⟨0x198, 1, 0x104, 0x4, 1, [⟨23, 16, .win, .any, 0x0⟩, ⟨5, 0, .win, .any, 0x0⟩]⟩,
  -- EVT_RAISED (R490)
  ⟨0x198, 1, 0x108, 0x4, 1, [⟨31, 0, .ro, .any, 0x0⟩]⟩,
  -- EVT_JMP_LOST (R490)
  ⟨0x198, 1, 0x10C, 0x4, 1, [⟨31, 0, .cnt0, .any, 0x0⟩]⟩]

/-- Registers of spec/20_firmware_boot_update.md. -/
def regs20 : List RegDef := [
  -- FWU_BOOT (R512)
  ⟨0x1A0, 1, 0x100, 0x4, 1, [⟨31, 30, .ro, .any, 0x0⟩, ⟨29, 29, .ro, .any, 0x0⟩, ⟨28, 28, .ro, .any, 0x0⟩, ⟨27, 26, .ro, .any, 0x0⟩, ⟨25, 25, .ro, .any, 0x0⟩, ⟨24, 24, .ro, .any, 0x0⟩, ⟨15, 0, .ro, .any, 0x0⟩]⟩,
  -- FWU_DL (R512)
  ⟨0x1A0, 1, 0x104, 0x4, 1, [⟨31, 30, .ro, .any, 0x0⟩, ⟨29, 29, .ro, .any, 0x0⟩, ⟨24, 16, .ro, .any, 0x0⟩, ⟨8, 0, .ro, .any, 0x0⟩]⟩,
  -- FWU_REJ (R512)
  ⟨0x1A0, 1, 0x108, 0x4, 1, [⟨31, 24, .ro, .any, 0x0⟩]⟩,
  -- FWU_SVN (R512)
  ⟨0x1A0, 1, 0x10C, 0x4, 1, [⟨6, 0, .ro, .any, 0x0⟩]⟩,
  -- FWU_SEQ (R512)
  ⟨0x1A0, 1, 0x110, 0x4, 1, [⟨31, 0, .ro, .any, 0x0⟩]⟩,
  -- FWU_VER (R512)
  ⟨0x1A0, 1, 0x114, 0x4, 1, [⟨31, 0, .ro, .any, 0x0⟩]⟩,
  -- FWU_CFMT (R512)
  ⟨0x1A0, 1, 0x118, 0x4, 1, [⟨15, 8, .ro, .any, 0x0⟩, ⟨0, 0, .ro, .any, 0x0⟩]⟩,
  -- FWU_PAUSE (R512)
  ⟨0x1A0, 1, 0x11C, 0x4, 1, [⟨19, 0, .ro, .any, 0x0⟩]⟩,
  -- FWU_TFULL (R512)
  ⟨0x1A0, 1, 0x120, 0x4, 1, [⟨31, 0, .cnt0, .any, 0x0⟩]⟩,
  -- FWU_RCV_CTRL (R512)
  ⟨0x1A0, 1, 0x140, 0x4, 1, [⟨31, 31, .own, .any, 0x0⟩, ⟨1, 1, .wo, .any, 0x0⟩, ⟨0, 0, .wo, .any, 0x0⟩]⟩,
  -- FWU_RCV_CHUNK (R512)
  ⟨0x1A0, 1, 0x144, 0x4, 1, [⟨13, 0, .own, .any, 0x0⟩]⟩,
  -- FWU_RCV_LEN (R512)
  ⟨0x1A0, 1, 0x148, 0x4, 1, [⟨11, 0, .own, .any, 0x0⟩]⟩,
  -- FWU_RCV_STAT (R512)
  ⟨0x1A0, 1, 0x14C, 0x4, 1, [⟨31, 31, .ro, .any, 0x0⟩, ⟨23, 16, .ro, .any, 0x0⟩]⟩,
  -- FWU_RCV_DATA (R512)
  ⟨0x1A0, 1, 0x800, 0x4, 512, [⟨31, 0, .own, .any, 0x0⟩]⟩,
  -- ATT_KEYDIG (R513)
  ⟨0x1A1, 1, 0x100, 0x4, 8, [⟨31, 0, .ro, .any, 0x0⟩]⟩,
  -- ATT_STAT (R513)
  ⟨0x1A1, 1, 0x120, 0x4, 1, [⟨31, 31, .ro, .any, 0x0⟩, ⟨15, 0, .ro, .any, 0x0⟩]⟩,
  -- ATT_FUSE (R513)
  ⟨0x1A1, 1, 0x124, 0x4, 1, [⟨1, 1, .ro, .any, 0x0⟩, ⟨0, 0, .ro, .any, 0x0⟩]⟩]

/-- Registers of spec/21_register_conventions_and_map.md. -/
def regs21 : List RegDef := [
  -- SYS_DEV_ID (R528)
  ⟨0x0, 1, 0x100, 0x4, 1, [⟨31, 0, .ro, .any, 0x7d1c0400⟩]⟩,
  -- SYS_DEV_REV (R528)
  ⟨0x0, 1, 0x104, 0x4, 1, [⟨15, 8, .ro, .any, 0xa⟩, ⟨7, 0, .ro, .any, 0x0⟩]⟩,
  -- SYS_UID_LO (R528)
  ⟨0x0, 1, 0x108, 0x4, 1, [⟨31, 0, .ro, .any, 0x0⟩]⟩,
  -- SYS_UID_HI (R528)
  ⟨0x0, 1, 0x10C, 0x4, 1, [⟨31, 0, .ro, .any, 0x0⟩]⟩,
  -- SYS_RST_CAUSE (R528)
  ⟨0x0, 1, 0x110, 0x4, 1, [⟨7, 0, .ro, .any, 0x1⟩]⟩,
  -- SYS_WARM_CNT (R528)
  ⟨0x0, 1, 0x114, 0x4, 1, [⟨31, 0, .ro, .any, 0x0⟩]⟩,
  -- SYS_BADADDR (R528)
  ⟨0x0, 1, 0x118, 0x4, 1, [⟨31, 31, .ro, .any, 0x0⟩, ⟨30, 30, .ro, .any, 0x0⟩, ⟨27, 27, .ro, .any, 0x0⟩, ⟨26, 24, .ro, .any, 0x0⟩, ⟨23, 2, .ro, .any, 0x0⟩]⟩,
  -- SYS_BADCNT (R528)
  ⟨0x0, 1, 0x11C, 0x4, 1, [⟨31, 0, .cnt0, .any, 0x0⟩]⟩,
  -- SYS_SCRATCH (R528)
  ⟨0x0, 1, 0x140, 0x4, 4, [⟨31, 0, .rws, .any, 0x0⟩]⟩,
  -- SYS_SCHG (R520)
  ⟨0x0, 1, 0x200, 0x4, 14, [⟨31, 0, .w1c, .any, 0x0⟩]⟩,
  -- SYS_FLT (R520)
  ⟨0x0, 1, 0x240, 0x4, 14, [⟨31, 0, .w1c, .any, 0x0⟩]⟩]

/-- Every register table of the specification. -/
def regTable : List RegDef :=
  commonRegs ++ regs02 ++ regs03 ++ regs04a ++ regs04b ++ regs05 ++ regs06 ++ regs07a ++ regs07b ++ regs08a ++ regs08b ++
  regs09a ++
  regs09b ++ regs10a ++ regs10b ++ regs10c ++ regs11a ++ regs11b ++ regs12a ++ regs12b ++ regs12c ++ regs13 ++
  regs14 ++ regs15a ++ regs15b ++ regs16 ++ regs17 ++ regs18 ++ regs19a ++ regs19b ++ regs20 ++ regs21

/-- The register `d` answers at offset `o` of page `p`. -/
def RegDef.covers (d : RegDef) (p o : Nat) : Bool :=
  decide (d.page ≤ p) && decide (p < d.page + d.pages) && decide (d.off ≤ o) && decide (o < d.off + d.stride * d.count) &&
  decide ((o - d.off) % d.stride = 0)

/-- The register at a byte address, none at a reserved offset (R515). -/
def regAt (addr : Nat) : Option RegDef := regTable.find? (fun d => d.covers (addr / 0x1000) (addr % 0x1000))

/-- The value of a register after reset, from its fields' reset values (R526). -/
def resetNat (addr : Nat) : Nat :=
  match regAt addr with
  | none => 0
  | some d => d.fields.foldl (fun acc f => acc + f.reset * 2 ^ f.lo) 0

/-- The word a register holds after reset. -/
def resetWord (addr : Nat) : Word := Word.ofNat (resetNat addr)

/-! ## Field accessors

One definition for each field, named REGISTER_FIELD (R10). `p` is the page within the block, `k` the instance. -/

/-- PG_CTRL.PARK (R33). -/
def PG_CTRL_PARK (page : Nat) : Fld := ⟨0x1000 * page + 4, 1, 1⟩
/-- PG_CTRL.ENABLE (R33). -/
def PG_CTRL_ENABLE (page : Nat) : Fld := ⟨0x1000 * page + 4, 0, 0⟩
/-- PG_STAT.FAULT_CODE (R34). -/
def PG_STAT_FAULT_CODE (page : Nat) : Fld := ⟨0x1000 * page + 8, 15, 8⟩
/-- PG_STAT.STATE (R34). -/
def PG_STAT_STATE (page : Nat) : Fld := ⟨0x1000 * page + 8, 2, 0⟩
/-- PG_OWNER.OWNER (R518). -/
def PG_OWNER (page : Nat) : Fld := ⟨0x1000 * page + 0xC, 2, 0⟩
/-- EV_RAW (R518). -/
def EV_RAW (page : Nat) : Fld := ⟨0x1000 * page + 0x10, 31, 0⟩
/-- EV_EN (R518). -/
def EV_EN (page : Nat) : Fld := ⟨0x1000 * page + 0x14, 31, 0⟩
/-- EV_PEND (R518). -/
def EV_PEND (page : Nat) : Fld := ⟨0x1000 * page + 0x18, 31, 0⟩
/-- STK_CFG.OWNER (R86). -/
def STK_CFG_OWNER (k : Nat) : Fld := ⟨0x90C00 + 0x10 * k, 26, 24⟩
/-- STK_CFG.SEI_EN (R86). -/
def STK_CFG_SEI_EN (k : Nat) : Fld := ⟨0x90C00 + 0x10 * k, 16, 16⟩
/-- STK_CFG.SOURCE_CTX (R86). -/
def STK_CFG_SOURCE_CTX (k : Nat) : Fld := ⟨0x90C00 + 0x10 * k, 9, 0⟩
/-- STK_SEQ (R86). -/
def STK_SEQ (k : Nat) : Fld := ⟨0x90C04 + 0x10 * k, 31, 0⟩
/-- STK_LATCH (R86). -/
def STK_LATCH (k : Nat) : Fld := ⟨0x90C08 + 0x10 * k, 31, 0⟩
/-- STK_CNT.REPEAT (R86). -/
def STK_CNT_REPEAT (k : Nat) : Fld := ⟨0x90C0C + 0x10 * k, 31, 16⟩
/-- STK_CNT.SUPERSEDED (R86). -/
def STK_CNT_SUPERSEDED (k : Nat) : Fld := ⟨0x90C0C + 0x10 * k, 15, 1⟩
/-- STK_CNT.LOADED (R86). -/
def STK_CNT_LOADED (k : Nat) : Fld := ⟨0x90C0C + 0x10 * k, 0, 0⟩
/-- STK_REJECT.REASON (R86). -/
def STK_REJECT_REASON : Fld := ⟨0x90C80, 31, 24⟩
/-- STK_REJECT.SLOT (R86). -/
def STK_REJECT_SLOT : Fld := ⟨0x90C80, 19, 17⟩
/-- STK_REJECT.SRC (R86). -/
def STK_REJECT_SRC : Fld := ⟨0x90C80, 16, 16⟩
/-- STK_REJECT.ORIGIN (R86). -/
def STK_REJECT_ORIGIN : Fld := ⟨0x90C80, 9, 0⟩
/-- STK_REJ_CNT (R86). -/
def STK_REJ_CNT : Fld := ⟨0x90C84, 31, 0⟩
/-- STK_TIE (R86). -/
def STK_TIE : Fld := ⟨0x90C88, 31, 0⟩
/-- PMAP_TIE.PTR (R86). -/
def PMAP_TIE_PTR : Fld := ⟨0x90C8C, 2, 0⟩
/-- SYN_STAT.SHED (R113). -/
def SYN_STAT_SHED (p : Nat) : Fld := ⟨0x80100 + 0x1000 * p, 1, 0⟩
/-- SYN_ATHR.ATHR (R113). -/
def SYN_ATHR_ATHR (p : Nat) : Fld := ⟨0x80104 + 0x1000 * p, 19, 0⟩
/-- SYN_LOD.SPREAD (R113). -/
def SYN_LOD_SPREAD (p : Nat) : Fld := ⟨0x80108 + 0x1000 * p, 15, 0⟩
/-- SYN_CAP.CAP1 (R113). -/
def SYN_CAP_CAP1 (p : Nat) : Fld := ⟨0x80110 + 0x1000 * p, 24, 16⟩
/-- SYN_CAP.CAP0 (R113). -/
def SYN_CAP_CAP0 (p : Nat) : Fld := ⟨0x80110 + 0x1000 * p, 8, 0⟩
/-- SYN_LIMIT.THERM (R113). -/
def SYN_LIMIT_THERM (p k : Nat) : Fld := ⟨0x80114 + 0x1000 * p + 0x4 * k, 24, 16⟩
/-- SYN_LIMIT.SHED (R113). -/
def SYN_LIMIT_SHED (p k : Nat) : Fld := ⟨0x80114 + 0x1000 * p + 0x4 * k, 8, 0⟩
/-- SYN_RAYS (R114). -/
def SYN_RAYS (p k : Nat) : Fld := ⟨0x80120 + 0x1000 * p + 0x20 * k, 31, 0⟩
/-- SYN_CYCLES (R114). -/
def SYN_CYCLES (p k : Nat) : Fld := ⟨0x80124 + 0x1000 * p + 0x20 * k, 31, 0⟩
/-- SYN_STALLS (R114). -/
def SYN_STALLS (p k : Nat) : Fld := ⟨0x80128 + 0x1000 * p + 0x20 * k, 31, 0⟩
/-- SYN_SAMPLES_LO (R114). -/
def SYN_SAMPLES_LO (p k : Nat) : Fld := ⟨0x8012C + 0x1000 * p + 0x20 * k, 31, 0⟩
/-- SYN_SAMPLES_HI (R114). -/
def SYN_SAMPLES_HI (p k : Nat) : Fld := ⟨0x80130 + 0x1000 * p + 0x20 * k, 31, 0⟩
/-- SYN_CAPPED (R114). -/
def SYN_CAPPED (p k : Nat) : Fld := ⟨0x80134 + 0x1000 * p + 0x20 * k, 31, 0⟩
/-- SYN_PRB_CFG.EN (R115). -/
def SYN_PRB_CFG_EN (k : Nat) : Fld := ⟨0x80400 + 0x20 * k, 31, 31⟩
/-- SYN_PRB_CFG.KIND (R115). -/
def SYN_PRB_CFG_KIND (k : Nat) : Fld := ⟨0x80400 + 0x20 * k, 30, 30⟩
/-- SYN_PRB_CFG.GROUP (R115). -/
def SYN_PRB_CFG_GROUP (k : Nat) : Fld := ⟨0x80400 + 0x20 * k, 29, 28⟩
/-- SYN_PRB_CFG.U (R115). -/
def SYN_PRB_CFG_U (k : Nat) : Fld := ⟨0x80400 + 0x20 * k, 9, 5⟩
/-- SYN_PRB_CFG.V (R115). -/
def SYN_PRB_CFG_V (k : Nat) : Fld := ⟨0x80400 + 0x20 * k, 4, 0⟩
/-- SYN_PRB_SX.SLOPE (R115). -/
def SYN_PRB_SX_SLOPE (k : Nat) : Fld := ⟨0x80404 + 0x20 * k, 19, 0⟩
/-- SYN_PRB_SY.SLOPE (R115). -/
def SYN_PRB_SY_SLOPE (k : Nat) : Fld := ⟨0x80408 + 0x20 * k, 19, 0⟩
/-- SYN_PRB_BUF0 (R115). -/
def SYN_PRB_BUF0 (k : Nat) : Fld := ⟨0x8040C + 0x20 * k, 31, 0⟩
/-- SYN_PRB_BUF1 (R115). -/
def SYN_PRB_BUF1 (k : Nat) : Fld := ⟨0x80410 + 0x20 * k, 31, 0⟩
/-- SYN_PRB_PITCH.PITCH (R115). -/
def SYN_PRB_PITCH_PITCH (k : Nat) : Fld := ⟨0x80414 + 0x20 * k, 19, 6⟩
/-- SYN_PRB_STAT.LAST_BUF (R115). -/
def SYN_PRB_STAT_LAST_BUF (k : Nat) : Fld := ⟨0x80418 + 0x20 * k, 31, 31⟩
/-- SYN_PRB_STAT.ERR (R115). -/
def SYN_PRB_STAT_ERR (k : Nat) : Fld := ⟨0x80418 + 0x20 * k, 30, 30⟩
/-- SYN_PRB_STAT.INCOMPLETE (R115). -/
def SYN_PRB_STAT_INCOMPLETE (k : Nat) : Fld := ⟨0x80418 + 0x20 * k, 29, 16⟩
/-- SYN_PRB_STAT.DONE (R115). -/
def SYN_PRB_STAT_DONE (k : Nat) : Fld := ⟨0x80418 + 0x20 * k, 15, 0⟩
/-- SYN_MAT0.M00 (R116). -/
def SYN_MAT0_M00 (k : Nat) : Fld := ⟨0x80500 + 0x20 * k, 31, 16⟩
/-- SYN_MAT0.M01 (R116). -/
def SYN_MAT0_M01 (k : Nat) : Fld := ⟨0x80500 + 0x20 * k, 15, 0⟩
/-- SYN_MAT1.M02 (R116). -/
def SYN_MAT1_M02 (k : Nat) : Fld := ⟨0x80504 + 0x20 * k, 31, 16⟩
/-- SYN_MAT1.M10 (R116). -/
def SYN_MAT1_M10 (k : Nat) : Fld := ⟨0x80504 + 0x20 * k, 15, 0⟩
/-- SYN_MAT2.M11 (R116). -/
def SYN_MAT2_M11 (k : Nat) : Fld := ⟨0x80508 + 0x20 * k, 31, 16⟩
/-- SYN_MAT2.M12 (R116). -/
def SYN_MAT2_M12 (k : Nat) : Fld := ⟨0x80508 + 0x20 * k, 15, 0⟩
/-- SYN_MAT3.M20 (R116). -/
def SYN_MAT3_M20 (k : Nat) : Fld := ⟨0x8050C + 0x20 * k, 31, 16⟩
/-- SYN_MAT3.M21 (R116). -/
def SYN_MAT3_M21 (k : Nat) : Fld := ⟨0x8050C + 0x20 * k, 15, 0⟩
/-- SYN_MAT4.M22 (R116). -/
def SYN_MAT4_M22 (k : Nat) : Fld := ⟨0x80510 + 0x20 * k, 31, 16⟩
/-- RAS_RATE.NUM (R145). -/
def RAS_RATE_NUM (p : Nat) : Fld := ⟨0x90100 + 0x1000 * p, 31, 12⟩
/-- RAS_RATE.DEN (R145). -/
def RAS_RATE_DEN (p : Nat) : Fld := ⟨0x90100 + 0x1000 * p, 11, 0⟩
/-- RAS_ACTIVE.ACTIVE (R145). -/
def RAS_ACTIVE_ACTIVE (p : Nat) : Fld := ⟨0x90104 + 0x1000 * p, 25, 0⟩
/-- RAS_LEAD.LEAD (R145). -/
def RAS_LEAD_LEAD (p : Nat) : Fld := ⟨0x90108 + 0x1000 * p, 19, 0⟩
/-- RAS_PHASE (R145). -/
def RAS_PHASE (p : Nat) : Fld := ⟨0x9010C + 0x1000 * p, 31, 0⟩
/-- RAS_MODE_CTRL.APPLY (R145). -/
def RAS_MODE_CTRL_APPLY (p : Nat) : Fld := ⟨0x90110 + 0x1000 * p, 0, 0⟩
/-- RAS_MODE_STAT.REASON (R145). -/
def RAS_MODE_STAT_REASON (p : Nat) : Fld := ⟨0x90114 + 0x1000 * p, 31, 24⟩
/-- RAS_MODE_STAT.LATCHED (R145). -/
def RAS_MODE_STAT_LATCHED (p : Nat) : Fld := ⟨0x90114 + 0x1000 * p, 1, 1⟩
/-- RAS_MODE_STAT.PENDING (R145). -/
def RAS_MODE_STAT_PENDING (p : Nat) : Fld := ⟨0x90114 + 0x1000 * p, 0, 0⟩
/-- RAS_WEIR.WEIR (R145). -/
def RAS_WEIR_WEIR (p : Nat) : Fld := ⟨0x90118 + 0x1000 * p, 7, 0⟩
/-- RAS_SHED.FLOOR (R145). -/
def RAS_SHED_FLOOR (p : Nat) : Fld := ⟨0x9011C + 0x1000 * p, 24, 16⟩
/-- RAS_SHED.GAP (R145). -/
def RAS_SHED_GAP (p : Nat) : Fld := ⟨0x9011C + 0x1000 * p, 7, 0⟩
/-- RAS_STACK.SLOT (R145). -/
def RAS_STACK_SLOT (p : Nat) : Fld := ⟨0x90120 + 0x1000 * p, 2, 0⟩
/-- RAS_FRAME (R145). -/
def RAS_FRAME (p : Nat) : Fld := ⟨0x90124 + 0x1000 * p, 31, 0⟩
/-- RAS_FS_LO (R145). -/
def RAS_FS_LO (p : Nat) : Fld := ⟨0x90128 + 0x1000 * p, 31, 0⟩
/-- RAS_FS_HI (R145). -/
def RAS_FS_HI (p : Nat) : Fld := ⟨0x9012C + 0x1000 * p, 31, 0⟩
/-- RAS_NFS_LO (R145). -/
def RAS_NFS_LO (p : Nat) : Fld := ⟨0x90130 + 0x1000 * p, 31, 0⟩
/-- RAS_NFS_HI (R145). -/
def RAS_NFS_HI (p : Nat) : Fld := ⟨0x90134 + 0x1000 * p, 31, 0⟩
/-- RAS_ABORTS (R145). -/
def RAS_ABORTS (p : Nat) : Fld := ⟨0x90138 + 0x1000 * p, 31, 0⟩
/-- RAS_ABORT_INFO.ROW (R145). -/
def RAS_ABORT_INFO_ROW (p : Nat) : Fld := ⟨0x9013C + 0x1000 * p, 31, 16⟩
/-- RAS_ABORT_INFO.CAUSE (R145). -/
def RAS_ABORT_INFO_CAUSE (p : Nat) : Fld := ⟨0x9013C + 0x1000 * p, 15, 14⟩
/-- RAS_ABORT_INFO.LANE (R145). -/
def RAS_ABORT_INFO_LANE (p : Nat) : Fld := ⟨0x9013C + 0x1000 * p, 9, 0⟩
/-- RAS_ABORT_FRAME (R145). -/
def RAS_ABORT_FRAME (p : Nat) : Fld := ⟨0x90140 + 0x1000 * p, 31, 0⟩
/-- RAS_LATE.DROPPED (R145). -/
def RAS_LATE_DROPPED (p : Nat) : Fld := ⟨0x90144 + 0x1000 * p, 31, 16⟩
/-- RAS_LATE.HELD (R145). -/
def RAS_LATE_HELD (p : Nat) : Fld := ⟨0x90144 + 0x1000 * p, 15, 0⟩
/-- RAS_LATE_INFO.PLANE (R145). -/
def RAS_LATE_INFO_PLANE (p : Nat) : Fld := ⟨0x90148 + 0x1000 * p, 31, 24⟩
/-- RAS_LATE_INFO.DROPPED (R145). -/
def RAS_LATE_INFO_DROPPED (p : Nat) : Fld := ⟨0x90148 + 0x1000 * p, 16, 16⟩
/-- RAS_LEASE_VIOL.PLANE (R146). -/
def RAS_LEASE_VIOL_PLANE : Fld := ⟨0x90180, 31, 24⟩
/-- RAS_LEASE_VIOL.BUF (R146). -/
def RAS_LEASE_VIOL_BUF : Fld := ⟨0x90180, 23, 16⟩
/-- RAS_LEASE_VIOL.PATH (R146). -/
def RAS_LEASE_VIOL_PATH : Fld := ⟨0x90180, 9, 8⟩
/-- RAS_LEASE_VIOL.PARTITION (R146). -/
def RAS_LEASE_VIOL_PARTITION : Fld := ⟨0x90180, 2, 0⟩
/-- RAS_LEASE_VCNT (R146). -/
def RAS_LEASE_VCNT : Fld := ⟨0x90184, 31, 0⟩
/-- RAS_LEASE_DONE.PLANE (R146). -/
def RAS_LEASE_DONE_PLANE : Fld := ⟨0x90188, 31, 24⟩
/-- RAS_LEASE_DONE.BUF (R146). -/
def RAS_LEASE_DONE_BUF : Fld := ⟨0x90188, 23, 16⟩
/-- SYN_GOV.STEPS (R147). -/
def SYN_GOV_STEPS (p k : Nat) : Fld := ⟨0x80180 + 0x1000 * p + 0x4 * k, 31, 24⟩
/-- SYN_GOV.MAXS (R147). -/
def SYN_GOV_MAXS (p k : Nat) : Fld := ⟨0x80180 + 0x1000 * p + 0x4 * k, 8, 0⟩
/-- SYN_SHCNT (R147). -/
def SYN_SHCNT (p k : Nat) : Fld := ⟨0x80188 + 0x1000 * p + 0x4 * k, 31, 0⟩
/-- SYN_POOL.LOW (R147). -/
def SYN_POOL_LOW (p k : Nat) : Fld := ⟨0x80800 + 0x1000 * p + 0x4 * k, 31, 16⟩
/-- SYN_POOL.FILL (R147). -/
def SYN_POOL_FILL (p k : Nat) : Fld := ⟨0x80800 + 0x1000 * p + 0x4 * k, 15, 0⟩
/-- LNK_INJ.ARM (R184). -/
def LNK_INJ_ARM (p : Nat) : Fld := ⟨0x100100 + 0x1000 * p, 31, 31⟩
/-- LNK_INJ.COMMIT (R184). -/
def LNK_INJ_COMMIT (p : Nat) : Fld := ⟨0x100100 + 0x1000 * p, 30, 30⟩
/-- LNK_INJ.KIND (R184). -/
def LNK_INJ_KIND (p : Nat) : Fld := ⟨0x100100 + 0x1000 * p, 29, 28⟩
/-- LNK_INJ.LANE (R184). -/
def LNK_INJ_LANE (p : Nat) : Fld := ⟨0x100100 + 0x1000 * p, 27, 24⟩
/-- LNK_INJ.ROW (R184). -/
def LNK_INJ_ROW (p : Nat) : Fld := ⟨0x100100 + 0x1000 * p, 15, 0⟩
/-- LNK_INJ_POS.WORD (R184). -/
def LNK_INJ_POS_WORD (p : Nat) : Fld := ⟨0x100104 + 0x1000 * p, 31, 16⟩
/-- LNK_INJ_POS.BYTE (R184). -/
def LNK_INJ_POS_BYTE (p : Nat) : Fld := ⟨0x100104 + 0x1000 * p, 15, 14⟩
/-- LNK_INJ_POS.BIT (R184). -/
def LNK_INJ_POS_BIT (p : Nat) : Fld := ⟨0x100104 + 0x1000 * p, 3, 0⟩
/-- LNK_INJ_STAT.DONE (R184). -/
def LNK_INJ_STAT_DONE (p : Nat) : Fld := ⟨0x100108 + 0x1000 * p, 31, 31⟩
/-- LNK_INJ_STAT.FRAME (R184). -/
def LNK_INJ_STAT_FRAME (p : Nat) : Fld := ⟨0x100108 + 0x1000 * p, 15, 0⟩
/-- LNK_CTRL.RATE (R185). -/
def LNK_CTRL_RATE (p k : Nat) : Fld := ⟨0x100800 + 0x1000 * p + 0x80 * k, 20, 16⟩
/-- LNK_CTRL.LOOP (R185). -/
def LNK_CTRL_LOOP (p k : Nat) : Fld := ⟨0x100800 + 0x1000 * p + 0x80 * k, 13, 12⟩
/-- LNK_CTRL.PAT (R185). -/
def LNK_CTRL_PAT (p k : Nat) : Fld := ⟨0x100800 + 0x1000 * p + 0x80 * k, 11, 11⟩
/-- LNK_CTRL.BLANK (R185). -/
def LNK_CTRL_BLANK (p k : Nat) : Fld := ⟨0x100800 + 0x1000 * p + 0x80 * k, 1, 1⟩
/-- LNK_CTRL.EN (R185). -/
def LNK_CTRL_EN (p k : Nat) : Fld := ⟨0x100800 + 0x1000 * p + 0x80 * k, 0, 0⟩
/-- LNK_STAT.LSTATE (R185). -/
def LNK_STAT_LSTATE (p k : Nat) : Fld := ⟨0x100804 + 0x1000 * p + 0x80 * k, 31, 29⟩
/-- LNK_STAT.ARATE (R185). -/
def LNK_STAT_ARATE (p k : Nat) : Fld := ⟨0x100804 + 0x1000 * p + 0x80 * k, 28, 24⟩
/-- LNK_STAT.MAXRATE (R185). -/
def LNK_STAT_MAXRATE (p k : Nat) : Fld := ⟨0x100804 + 0x1000 * p + 0x80 * k, 23, 19⟩
/-- LNK_STAT.BLANKED (R185). -/
def LNK_STAT_BLANKED (p k : Nat) : Fld := ⟨0x100804 + 0x1000 * p + 0x80 * k, 18, 18⟩
/-- LNK_STAT.FBLANK (R185). -/
def LNK_STAT_FBLANK (p k : Nat) : Fld := ⟨0x100804 + 0x1000 * p + 0x80 * k, 17, 17⟩
/-- LNK_STAT.PSYNC (R185). -/
def LNK_STAT_PSYNC (p k : Nat) : Fld := ⟨0x100804 + 0x1000 * p + 0x80 * k, 16, 16⟩
/-- LNK_STAT.LAST_COMMIT (R185). -/
def LNK_STAT_LAST_COMMIT (p k : Nat) : Fld := ⟨0x100804 + 0x1000 * p + 0x80 * k, 15, 0⟩
/-- LNK_CAUSE.ALL (R185). -/
def LNK_CAUSE_ALL (p k : Nat) : Fld := ⟨0x100808 + 0x1000 * p + 0x80 * k, 14, 0⟩
/-- LNK_CAUSE_EN.ALL (R185). -/
def LNK_CAUSE_EN_ALL (p k : Nat) : Fld := ⟨0x10080C + 0x1000 * p + 0x80 * k, 14, 1⟩
/-- LNK_CODE_ERR (R185). -/
def LNK_CODE_ERR (p k : Nat) : Fld := ⟨0x100810 + 0x1000 * p + 0x80 * k, 31, 0⟩
/-- LNK_ECHO_ERR (R185). -/
def LNK_ECHO_ERR (p k : Nat) : Fld := ⟨0x100814 + 0x1000 * p + 0x80 * k, 31, 0⟩
/-- LNK_COMMITS (R185). -/
def LNK_COMMITS (p k : Nat) : Fld := ⟨0x100818 + 0x1000 * p + 0x80 * k, 31, 0⟩
/-- LNK_PRBS_ERR (R185). -/
def LNK_PRBS_ERR (p k : Nat) : Fld := ⟨0x10081C + 0x1000 * p + 0x80 * k, 31, 0⟩
/-- LNK_TST0 (R185). -/
def LNK_TST0 (p k : Nat) : Fld := ⟨0x100820 + 0x1000 * p + 0x80 * k, 31, 0⟩
/-- LNK_TST1 (R185). -/
def LNK_TST1 (p k : Nat) : Fld := ⟨0x100824 + 0x1000 * p + 0x80 * k, 31, 0⟩
/-- LNK_TST2 (R185). -/
def LNK_TST2 (p k : Nat) : Fld := ⟨0x100828 + 0x1000 * p + 0x80 * k, 31, 0⟩
/-- LNK_TST3 (R185). -/
def LNK_TST3 (p k : Nat) : Fld := ⟨0x10082C + 0x1000 * p + 0x80 * k, 31, 0⟩
/-- LNK_TST4 (R185). -/
def LNK_TST4 (p k : Nat) : Fld := ⟨0x100830 + 0x1000 * p + 0x80 * k, 31, 0⟩
/-- LNK_BLANK_LAT.MAX (R185). -/
def LNK_BLANK_LAT_MAX (p k : Nat) : Fld := ⟨0x100834 + 0x1000 * p + 0x80 * k, 31, 16⟩
/-- LNK_BLANK_LAT.LAST (R185). -/
def LNK_BLANK_LAT_LAST (p k : Nat) : Fld := ⟨0x100834 + 0x1000 * p + 0x80 * k, 15, 0⟩
/-- COR_CFG.STRESS_EN (R210). -/
def COR_CFG_STRESS_EN : Fld := ⟨0x148100, 1, 1⟩
/-- COR_CFG.GAIN_EN (R210). -/
def COR_CFG_GAIN_EN : Fld := ⟨0x148100, 0, 0⟩
/-- COR_STR.QSHIFT (R210). -/
def COR_STR_QSHIFT : Fld := ⟨0x148104, 4, 0⟩
/-- COR_STR_EXP.EXP (R210). -/
def COR_STR_EXP_EXP : Fld := ⟨0x148108, 10, 0⟩
/-- COR_HEAD.HEADROOM (R210). -/
def COR_HEAD_HEADROOM : Fld := ⟨0x14810C, 9, 0⟩
/-- COR_RMREJ.REASON (R210). -/
def COR_RMREJ_REASON : Fld := ⟨0x148110, 31, 24⟩
/-- COR_RMREJ.LANE (R210). -/
def COR_RMREJ_LANE : Fld := ⟨0x148110, 9, 0⟩
/-- COR_XREJ.REASON (R210). -/
def COR_XREJ_REASON : Fld := ⟨0x148114, 31, 24⟩
/-- COR_XREJ.LANE (R210). -/
def COR_XREJ_LANE : Fld := ⟨0x148114, 9, 0⟩
/-- COR_RMREJ_CNT (R210). -/
def COR_RMREJ_CNT : Fld := ⟨0x148118, 31, 0⟩
/-- COR_STR_SKIP (R210). -/
def COR_STR_SKIP : Fld := ⟨0x14811C, 31, 0⟩
/-- COR_STR_SAT (R210). -/
def COR_STR_SAT : Fld := ⟨0x148120, 31, 0⟩
/-- COR_GAIN_HR (R210). -/
def COR_GAIN_HR : Fld := ⟨0x148124, 31, 0⟩
/-- COR_GAIN_DEAD (R210). -/
def COR_GAIN_DEAD : Fld := ⟨0x148128, 31, 0⟩
/-- COR_LOST.ROW (R210). -/
def COR_LOST_ROW : Fld := ⟨0x14812C, 31, 16⟩
/-- COR_LOST.LANE (R210). -/
def COR_LOST_LANE : Fld := ⟨0x14812C, 9, 0⟩
/-- COR_XSTAT.DERIVE_BUSY (R210). -/
def COR_XSTAT_DERIVE_BUSY : Fld := ⟨0x148130, 2, 2⟩
/-- COR_XSTAT.EXPORT_BUSY (R210). -/
def COR_XSTAT_EXPORT_BUSY : Fld := ⟨0x148130, 1, 1⟩
/-- COR_XSTAT.IMPORT_BUSY (R210). -/
def COR_XSTAT_IMPORT_BUSY : Fld := ⟨0x148130, 0, 0⟩
/-- COR_PAT.KIND (R210). -/
def COR_PAT_KIND : Fld := ⟨0x148140, 31, 30⟩
/-- COR_PAT.CH (R210). -/
def COR_PAT_CH : Fld := ⟨0x148140, 29, 28⟩
/-- COR_PAT.PITCH_M1 (R210). -/
def COR_PAT_PITCH_M1 : Fld := ⟨0x148140, 27, 24⟩
/-- COR_PAT.PHY (R210). -/
def COR_PAT_PHY : Fld := ⟨0x148140, 23, 20⟩
/-- COR_PAT.PHX (R210). -/
def COR_PAT_PHX : Fld := ⟨0x148140, 19, 16⟩
/-- COR_PAT.CODE (R210). -/
def COR_PAT_CODE : Fld := ⟨0x148140, 11, 0⟩
/-- COR_RMVALID (R211). -/
def COR_RMVALID (k : Nat) : Fld := ⟨0x148200 + 0x4 * k, 31, 0⟩
/-- COR_PATM (R211). -/
def COR_PATM (k : Nat) : Fld := ⟨0x148280 + 0x4 * k, 31, 0⟩
/-- COR_GVALID (R211). -/
def COR_GVALID (k : Nat) : Fld := ⟨0x148300 + 0x4 * k, 31, 0⟩
/-- NET_CFG.PAIR (R230). -/
def NET_CFG_PAIR (p : Nat) : Fld := ⟨0x20100 + 0x1000 * p, 31, 31⟩
/-- NET_CFG.PMD (R230). -/
def NET_CFG_PMD (p : Nat) : Fld := ⟨0x20100 + 0x1000 * p, 25, 24⟩
/-- NET_CFG.AN_EN (R230). -/
def NET_CFG_AN_EN (p : Nat) : Fld := ⟨0x20100 + 0x1000 * p, 23, 23⟩
/-- NET_CFG.LT_EN (R230). -/
def NET_CFG_LT_EN (p : Nat) : Fld := ⟨0x20100 + 0x1000 * p, 22, 22⟩
/-- NET_CFG.MAX_FRAME (R230). -/
def NET_CFG_MAX_FRAME (p : Nat) : Fld := ⟨0x20100 + 0x1000 * p, 13, 0⟩
/-- NET_MAC_LO (R230). -/
def NET_MAC_LO (p : Nat) : Fld := ⟨0x20104 + 0x1000 * p, 31, 0⟩
/-- NET_MAC_HI.MAC_HI (R230). -/
def NET_MAC_HI_MAC_HI (p : Nat) : Fld := ⟨0x20108 + 0x1000 * p, 15, 0⟩
/-- NET_STAT.LINK (R230). -/
def NET_STAT_LINK (p : Nat) : Fld := ⟨0x2010C + 0x1000 * p, 31, 31⟩
/-- NET_STAT.AN_DONE (R230). -/
def NET_STAT_AN_DONE (p : Nat) : Fld := ⟨0x2010C + 0x1000 * p, 30, 30⟩
/-- NET_STAT.FEC_LOCK (R230). -/
def NET_STAT_FEC_LOCK (p : Nat) : Fld := ⟨0x2010C + 0x1000 * p, 29, 29⟩
/-- NET_STAT.ALIGNED (R230). -/
def NET_STAT_ALIGNED (p : Nat) : Fld := ⟨0x2010C + 0x1000 * p, 28, 28⟩
/-- NET_RX_DELAY.DELAY (R230). -/
def NET_RX_DELAY_DELAY (p : Nat) : Fld := ⟨0x20110 + 0x1000 * p, 19, 0⟩
/-- NET_RX_FRAMES (R231). -/
def NET_RX_FRAMES (p : Nat) : Fld := ⟨0x20120 + 0x1000 * p, 31, 0⟩
/-- NET_RX_FCS (R231). -/
def NET_RX_FCS (p : Nat) : Fld := ⟨0x20124 + 0x1000 * p, 31, 0⟩
/-- NET_RX_SIZE (R231). -/
def NET_RX_SIZE (p : Nat) : Fld := ⟨0x20128 + 0x1000 * p, 31, 0⟩
/-- NET_RX_FORMAT (R231). -/
def NET_RX_FORMAT (p : Nat) : Fld := ⟨0x2012C + 0x1000 * p, 31, 0⟩
/-- NET_RX_CSUM (R231). -/
def NET_RX_CSUM (p : Nat) : Fld := ⟨0x20130 + 0x1000 * p, 31, 0⟩
/-- NET_RX_NOMATCH (R231). -/
def NET_RX_NOMATCH (p : Nat) : Fld := ⟨0x20134 + 0x1000 * p, 31, 0⟩
/-- NET_RX_SLOWDROP (R231). -/
def NET_RX_SLOWDROP (p : Nat) : Fld := ⟨0x20138 + 0x1000 * p, 31, 0⟩
/-- NET_RX_FEC_UNC (R231). -/
def NET_RX_FEC_UNC (p : Nat) : Fld := ⟨0x2013C + 0x1000 * p, 31, 0⟩
/-- NET_INJ.ARM (R231). -/
def NET_INJ_ARM (p : Nat) : Fld := ⟨0x20180 + 0x1000 * p, 31, 31⟩
/-- NET_INJ.KIND (R231). -/
def NET_INJ_KIND (p : Nat) : Fld := ⟨0x20180 + 0x1000 * p, 30, 28⟩
/-- NET_INJ.CTX (R231). -/
def NET_INJ_CTX (p : Nat) : Fld := ⟨0x20180 + 0x1000 * p, 25, 16⟩
/-- NET_INJ.COUNT (R231). -/
def NET_INJ_COUNT (p : Nat) : Fld := ⟨0x20180 + 0x1000 * p, 15, 0⟩
/-- NET_INJ_PRM.DELAY_US (R231). -/
def NET_INJ_PRM_DELAY_US (p : Nat) : Fld := ⟨0x20184 + 0x1000 * p, 17, 0⟩
/-- NET_INJ_STAT.OVF (R231). -/
def NET_INJ_STAT_OVF (p : Nat) : Fld := ⟨0x20188 + 0x1000 * p, 31, 31⟩
/-- NET_INJ_STAT.APPLIED (R231). -/
def NET_INJ_STAT_APPLIED (p : Nat) : Fld := ⟨0x20188 + 0x1000 * p, 15, 0⟩
/-- STR_STAT.STATE (R233). -/
def STR_STAT_STATE (p k : Nat) : Fld := ⟨0x28800 + 0x1000 * p + 0x10 * k, 31, 30⟩
/-- STR_STAT.PAIRED (R233). -/
def STR_STAT_PAIRED (p k : Nat) : Fld := ⟨0x28800 + 0x1000 * p + 0x10 * k, 29, 29⟩
/-- STR_STAT.A_UP (R233). -/
def STR_STAT_A_UP (p k : Nat) : Fld := ⟨0x28800 + 0x1000 * p + 0x10 * k, 28, 28⟩
/-- STR_STAT.B_UP (R233). -/
def STR_STAT_B_UP (p k : Nat) : Fld := ⟨0x28800 + 0x1000 * p + 0x10 * k, 27, 27⟩
/-- STR_STAT.OWNER (R233). -/
def STR_STAT_OWNER (p k : Nat) : Fld := ⟨0x28800 + 0x1000 * p + 0x10 * k, 26, 24⟩
/-- STR_STAT.NEXT_SEQ (R233). -/
def STR_STAT_NEXT_SEQ (p k : Nat) : Fld := ⟨0x28800 + 0x1000 * p + 0x10 * k, 15, 0⟩
/-- STR_CAUSE.ALL (R233). -/
def STR_CAUSE_ALL (p k : Nat) : Fld := ⟨0x28804 + 0x1000 * p + 0x10 * k, 10, 1⟩
/-- STR_CAUSE_EN.ALL (R233). -/
def STR_CAUSE_EN_ALL (p k : Nat) : Fld := ⟨0x28808 + 0x1000 * p + 0x10 * k, 10, 1⟩
/-- STR_LOST (R233). -/
def STR_LOST (p k : Nat) : Fld := ⟨0x2880C + 0x1000 * p + 0x10 * k, 31, 0⟩
/-- STR_SEL.SEL (R234). -/
def STR_SEL_SEL (p : Nat) : Fld := ⟨0x28100 + 0x1000 * p, 6, 0⟩
/-- STR_D_RXA (R234). -/
def STR_D_RXA (p : Nat) : Fld := ⟨0x28104 + 0x1000 * p, 31, 0⟩
/-- STR_D_RXB (R234). -/
def STR_D_RXB (p : Nat) : Fld := ⟨0x28108 + 0x1000 * p, 31, 0⟩
/-- STR_D_DUP (R234). -/
def STR_D_DUP (p : Nat) : Fld := ⟨0x2810C + 0x1000 * p, 31, 0⟩
/-- STR_D_LATE (R234). -/
def STR_D_LATE (p : Nat) : Fld := ⟨0x28110 + 0x1000 * p, 31, 0⟩
/-- STR_D_STRAY (R234). -/
def STR_D_STRAY (p : Nat) : Fld := ⟨0x28114 + 0x1000 * p, 31, 0⟩
/-- STR_D_OVF (R234). -/
def STR_D_OVF (p : Nat) : Fld := ⟨0x28118 + 0x1000 * p, 31, 0⟩
/-- STR_D_AU (R234). -/
def STR_D_AU (p : Nat) : Fld := ⟨0x2811C + 0x1000 * p, 31, 0⟩
/-- STR_D_AULOSS (R234). -/
def STR_D_AULOSS (p : Nat) : Fld := ⟨0x28120 + 0x1000 * p, 31, 0⟩
/-- STR_D_SKEW_LAST (R234). -/
def STR_D_SKEW_LAST (p : Nat) : Fld := ⟨0x28124 + 0x1000 * p, 31, 0⟩
/-- STR_D_SKEW_MAX (R234). -/
def STR_D_SKEW_MAX (p : Nat) : Fld := ⟨0x28128 + 0x1000 * p, 31, 0⟩
/-- STR_D_FTS_LO (R234). -/
def STR_D_FTS_LO (p : Nat) : Fld := ⟨0x2812C + 0x1000 * p, 31, 0⟩
/-- STR_D_FTS_HI (R234). -/
def STR_D_FTS_HI (p : Nat) : Fld := ⟨0x28130 + 0x1000 * p, 31, 0⟩
/-- STR_D_RTPTS (R234). -/
def STR_D_RTPTS (p : Nat) : Fld := ⟨0x28134 + 0x1000 * p, 31, 0⟩
/-- STR_D_SSRC (R234). -/
def STR_D_SSRC (p : Nat) : Fld := ⟨0x28138 + 0x1000 * p, 31, 0⟩
/-- STR_D_FILL (R234). -/
def STR_D_FILL (p : Nat) : Fld := ⟨0x2813C + 0x1000 * p, 31, 0⟩
/-- STR_PEND (R235). -/
def STR_PEND (p k : Nat) : Fld := ⟨0x281C0 + 0x1000 * p + 0x4 * k, 31, 0⟩
/-- STR_TFULL (R235). -/
def STR_TFULL : Fld := ⟨0x28180, 31, 0⟩
/-- STR_USED.USED (R235). -/
def STR_USED_USED : Fld := ⟨0x28184, 10, 0⟩
/-- STR_TIE.PTR (R235). -/
def STR_TIE_PTR : Fld := ⟨0x28188, 2, 0⟩
/-- STR_MEM.MEM (R235). -/
def STR_MEM_MEM : Fld := ⟨0x2818C, 23, 0⟩
/-- STR_OPEN_REJ.REASON (R235). -/
def STR_OPEN_REJ_REASON : Fld := ⟨0x28190, 31, 24⟩
/-- STR_OPEN_REJ.PARTITION (R235). -/
def STR_OPEN_REJ_PARTITION : Fld := ⟨0x28190, 2, 0⟩
/-- DEC_CORE.BUSY (R259). -/
def DEC_CORE_BUSY (p : Nat) : Fld := ⟨0x40100 + 0x1000 * p, 31, 31⟩
/-- DEC_CORE.GSIZE (R259). -/
def DEC_CORE_GSIZE (p : Nat) : Fld := ⟨0x40100 + 0x1000 * p, 30, 29⟩
/-- DEC_CORE.LEAD (R259). -/
def DEC_CORE_LEAD (p : Nat) : Fld := ⟨0x40100 + 0x1000 * p, 28, 24⟩
/-- DEC_CORE.CTX (R259). -/
def DEC_CORE_CTX (p : Nat) : Fld := ⟨0x40100 + 0x1000 * p, 9, 0⟩
/-- DEC_PICS (R259). -/
def DEC_PICS (p : Nat) : Fld := ⟨0x40104 + 0x1000 * p, 31, 0⟩
/-- DEC_BUSY (R259). -/
def DEC_BUSY (p : Nat) : Fld := ⟨0x40108 + 0x1000 * p, 31, 0⟩
/-- DEC_SERIAL (R259). -/
def DEC_SERIAL (p : Nat) : Fld := ⟨0x4010C + 0x1000 * p, 31, 0⟩
/-- DEC_CON_INFO.CODE (R259). -/
def DEC_CON_INFO_CODE (p : Nat) : Fld := ⟨0x40110 + 0x1000 * p, 31, 24⟩
/-- DEC_CON_INFO.CTX (R259). -/
def DEC_CON_INFO_CTX (p : Nat) : Fld := ⟨0x40110 + 0x1000 * p, 9, 0⟩
/-- DEC_CON_POC (R259). -/
def DEC_CON_POC (p : Nat) : Fld := ⟨0x40114 + 0x1000 * p, 31, 0⟩
/-- DEC_ERR_INFO.CODE (R259). -/
def DEC_ERR_INFO_CODE (p : Nat) : Fld := ⟨0x40118 + 0x1000 * p, 31, 24⟩
/-- DEC_ERR_INFO.CTX (R259). -/
def DEC_ERR_INFO_CTX (p : Nat) : Fld := ⟨0x40118 + 0x1000 * p, 9, 0⟩
/-- DEC_ERR_POC (R259). -/
def DEC_ERR_POC (p : Nat) : Fld := ⟨0x4011C + 0x1000 * p, 31, 0⟩
/-- DEC_UNS_INFO.CODE (R259). -/
def DEC_UNS_INFO_CODE (p : Nat) : Fld := ⟨0x40120 + 0x1000 * p, 31, 24⟩
/-- DEC_UNS_INFO.CTX (R259). -/
def DEC_UNS_INFO_CTX (p : Nat) : Fld := ⟨0x40120 + 0x1000 * p, 9, 0⟩
/-- DEC_POOL.KIB (R260). -/
def DEC_POOL_KIB : Fld := ⟨0x40180, 25, 0⟩
/-- DEC_TFULL (R260). -/
def DEC_TFULL : Fld := ⟨0x40184, 31, 0⟩
/-- DEC_TIE.PTR (R260). -/
def DEC_TIE_PTR : Fld := ⟨0x40188, 2, 0⟩
/-- DEC_BIND_REJ.REASON (R260). -/
def DEC_BIND_REJ_REASON : Fld := ⟨0x4018C, 31, 24⟩
/-- DEC_BIND_REJ.CTX (R260). -/
def DEC_BIND_REJ_CTX : Fld := ⟨0x4018C, 9, 0⟩
/-- DEC_UNBOUND_AU (R260). -/
def DEC_UNBOUND_AU : Fld := ⟨0x40190, 31, 0⟩
/-- DEC_SEL.SEL (R261). -/
def DEC_SEL_SEL : Fld := ⟨0x401A0, 9, 0⟩
/-- DEC_D_BIND.STATE (R261). -/
def DEC_D_BIND_STATE : Fld := ⟨0x401A4, 31, 30⟩
/-- DEC_D_BIND.CORES (R261). -/
def DEC_D_BIND_CORES : Fld := ⟨0x401A4, 29, 28⟩
/-- DEC_D_BIND.FIRST_CORE (R261). -/
def DEC_D_BIND_FIRST_CORE : Fld := ⟨0x401A4, 27, 23⟩
/-- DEC_D_BIND.BUF_USED (R261). -/
def DEC_D_BIND_BUF_USED : Fld := ⟨0x401A4, 15, 8⟩
/-- DEC_D_BIND.N_BUF (R261). -/
def DEC_D_BIND_N_BUF : Fld := ⟨0x401A4, 7, 0⟩
/-- DEC_D_PICS (R261). -/
def DEC_D_PICS : Fld := ⟨0x401A8, 31, 0⟩
/-- DEC_D_CONCEALED (R261). -/
def DEC_D_CONCEALED : Fld := ⟨0x401AC, 31, 0⟩
/-- DEC_D_GENERATED (R261). -/
def DEC_D_GENERATED : Fld := ⟨0x401B0, 31, 0⟩
/-- DEC_D_DISCARDED (R261). -/
def DEC_D_DISCARDED : Fld := ⟨0x401B4, 31, 0⟩
/-- DEC_D_SKIPPED (R261). -/
def DEC_D_SKIPPED : Fld := ⟨0x401B8, 31, 0⟩
/-- DEC_D_HASH_ERR (R261). -/
def DEC_D_HASH_ERR : Fld := ⟨0x401BC, 31, 0⟩
/-- DEC_D_LAST_POC (R261). -/
def DEC_D_LAST_POC : Fld := ⟨0x401C0, 31, 0⟩
/-- DEC_D_QUEUE.QUEUE (R261). -/
def DEC_D_QUEUE_QUEUE : Fld := ⟨0x401C4, 15, 0⟩
/-- DEC_D_UNS.REASON (R261). -/
def DEC_D_UNS_REASON : Fld := ⟨0x401C8, 31, 24⟩
/-- ASM_USE.WINDOWS (R292). -/
def ASM_USE_WINDOWS : Fld := ⟨0x60100, 26, 16⟩
/-- ASM_USE.PLANES (R292). -/
def ASM_USE_PLANES : Fld := ⟨0x60100, 8, 0⟩
/-- ASM_TFULL (R292). -/
def ASM_TFULL : Fld := ⟨0x60104, 31, 0⟩
/-- ASM_TIE.PTR (R292). -/
def ASM_TIE_PTR : Fld := ⟨0x60108, 2, 0⟩
/-- ASM_REJ.REASON (R292). -/
def ASM_REJ_REASON : Fld := ⟨0x6010C, 31, 24⟩
/-- ASM_REJ.CMD (R292). -/
def ASM_REJ_CMD : Fld := ⟨0x6010C, 23, 22⟩
/-- ASM_REJ.PARTITION (R292). -/
def ASM_REJ_PARTITION : Fld := ⟨0x6010C, 2, 0⟩
/-- ASM_POOL.KIB (R292). -/
def ASM_POOL_KIB : Fld := ⟨0x60110, 24, 0⟩
/-- ASM_BUILDS (R292). -/
def ASM_BUILDS : Fld := ⟨0x60114, 31, 0⟩
/-- ASM_SKIPPED (R292). -/
def ASM_SKIPPED : Fld := ⟨0x60118, 31, 0⟩
/-- ASM_SUPERSEDED (R292). -/
def ASM_SUPERSEDED : Fld := ⟨0x6011C, 31, 0⟩
/-- ASM_TEXELS (R292). -/
def ASM_TEXELS : Fld := ⟨0x60120, 31, 0⟩
/-- ASM_BUSY (R292). -/
def ASM_BUSY : Fld := ⟨0x60124, 31, 0⟩
/-- ASM_WM.EN (R292). -/
def ASM_WM_EN (k : Nat) : Fld := ⟨0x60140 + 0x8 * k, 31, 31⟩
/-- ASM_WM.LINE (R292). -/
def ASM_WM_LINE (k : Nat) : Fld := ⟨0x60140 + 0x8 * k, 28, 16⟩
/-- ASM_WM.WIN (R292). -/
def ASM_WM_WIN (k : Nat) : Fld := ⟨0x60140 + 0x8 * k, 9, 0⟩
/-- ASM_WMSTAT.PLANE (R292). -/
def ASM_WMSTAT_PLANE (k : Nat) : Fld := ⟨0x60144 + 0x8 * k, 31, 24⟩
/-- ASM_WMSTAT.COUNT (R292). -/
def ASM_WMSTAT_COUNT (k : Nat) : Fld := ⟨0x60144 + 0x8 * k, 15, 0⟩
/-- ASM_PSEL.SEL (R293). -/
def ASM_PSEL_SEL : Fld := ⟨0x60180, 7, 0⟩
/-- ASM_P_STAT.STATE (R293). -/
def ASM_P_STAT_STATE : Fld := ⟨0x60184, 31, 30⟩
/-- ASM_P_STAT.KIND (R293). -/
def ASM_P_STAT_KIND : Fld := ⟨0x60184, 29, 29⟩
/-- ASM_P_STAT.STORE (R293). -/
def ASM_P_STAT_STORE : Fld := ⟨0x60184, 28, 28⟩
/-- ASM_P_STAT.PACE (R293). -/
def ASM_P_STAT_PACE : Fld := ⟨0x60184, 27, 26⟩
/-- ASM_P_STAT.NBUF (R293). -/
def ASM_P_STAT_NBUF : Fld := ⟨0x60184, 25, 21⟩
/-- ASM_P_STAT.OWNER (R293). -/
def ASM_P_STAT_OWNER : Fld := ⟨0x60184, 20, 18⟩
/-- ASM_P_STAT.NEWEST (R293). -/
def ASM_P_STAT_NEWEST : Fld := ⟨0x60184, 17, 13⟩
/-- ASM_P_STAT.CONCEALED (R293). -/
def ASM_P_STAT_CONCEALED : Fld := ⟨0x60184, 12, 12⟩
/-- ASM_P_HELD.HELD (R293). -/
def ASM_P_HELD_HELD : Fld := ⟨0x60188, 15, 0⟩
/-- ASM_P_PT_LO (R293). -/
def ASM_P_PT_LO : Fld := ⟨0x6018C, 31, 0⟩
/-- ASM_P_PT_HI (R293). -/
def ASM_P_PT_HI : Fld := ⟨0x60190, 31, 0⟩
/-- ASM_P_BUF_LO (R293). -/
def ASM_P_BUF_LO (k : Nat) : Fld := ⟨0x601C0 + 0x8 * k, 31, 0⟩
/-- ASM_P_BUF_HI.ADDR (R293). -/
def ASM_P_BUF_HI_ADDR (k : Nat) : Fld := ⟨0x601C4 + 0x8 * k, 7, 0⟩
/-- DRW_CFG.DEADTIME (R294). -/
def DRW_CFG_DEADTIME : Fld := ⟨0x68100, 7, 0⟩
/-- DRW_STAT.BUSY (R294). -/
def DRW_STAT_BUSY : Fld := ⟨0x68104, 31, 31⟩
/-- DRW_STAT.QUEUED (R294). -/
def DRW_STAT_QUEUED : Fld := ⟨0x68104, 15, 0⟩
/-- DRW_TIE.PTR (R294). -/
def DRW_TIE_PTR : Fld := ⟨0x68108, 2, 0⟩
/-- DRW_REJ.REASON (R294). -/
def DRW_REJ_REASON : Fld := ⟨0x6810C, 31, 24⟩
/-- DRW_REJ.PARTITION (R294). -/
def DRW_REJ_PARTITION : Fld := ⟨0x6810C, 2, 0⟩
/-- DRW_REJ_CNT (R294). -/
def DRW_REJ_CNT : Fld := ⟨0x68110, 31, 0⟩
/-- DRW_CUT (R294). -/
def DRW_CUT : Fld := ⟨0x68114, 31, 0⟩
/-- DRW_PX (R294). -/
def DRW_PX : Fld := ⟨0x68118, 31, 0⟩
/-- DRW_BURSTS (R294). -/
def DRW_BURSTS : Fld := ⟨0x6811C, 31, 0⟩
/-- ENC_CORE.BUSY (R309). -/
def ENC_CORE_BUSY (p : Nat) : Fld := ⟨0x150100 + 0x1000 * p, 31, 31⟩
/-- ENC_CORE.SESSION (R309). -/
def ENC_CORE_SESSION (p : Nat) : Fld := ⟨0x150100 + 0x1000 * p, 3, 0⟩
/-- ENC_PICS (R309). -/
def ENC_PICS (p : Nat) : Fld := ⟨0x150104 + 0x1000 * p, 31, 0⟩
/-- ENC_BUSY (R309). -/
def ENC_BUSY (p : Nat) : Fld := ⟨0x150108 + 0x1000 * p, 31, 0⟩
/-- ENC_USED.USED (R309). -/
def ENC_USED_USED : Fld := ⟨0x150180, 4, 0⟩
/-- ENC_TFULL (R309). -/
def ENC_TFULL : Fld := ⟨0x150184, 31, 0⟩
/-- ENC_TIE.PTR (R309). -/
def ENC_TIE_PTR : Fld := ⟨0x150188, 2, 0⟩
/-- ENC_OPEN_REJ.REASON (R309). -/
def ENC_OPEN_REJ_REASON : Fld := ⟨0x15018C, 31, 24⟩
/-- ENC_OPEN_REJ.PARTITION (R309). -/
def ENC_OPEN_REJ_PARTITION : Fld := ⟨0x15018C, 2, 0⟩
/-- ENC_POOL.KIB (R309). -/
def ENC_POOL_KIB : Fld := ⟨0x150190, 22, 0⟩
/-- ENC_S_STAT.STATE (R310). -/
def ENC_S_STAT_STATE (p k : Nat) : Fld := ⟨0x150400 + 0x1000 * p + 0x200 * k, 31, 30⟩
/-- ENC_S_STAT.OWNER (R310). -/
def ENC_S_STAT_OWNER (p k : Nat) : Fld := ⟨0x150400 + 0x1000 * p + 0x200 * k, 26, 24⟩
/-- ENC_S_STAT.QUEUED (R310). -/
def ENC_S_STAT_QUEUED (p k : Nat) : Fld := ⟨0x150400 + 0x1000 * p + 0x200 * k, 17, 16⟩
/-- ENC_S_STAT.CORE (R310). -/
def ENC_S_STAT_CORE (p k : Nat) : Fld := ⟨0x150400 + 0x1000 * p + 0x200 * k, 13, 12⟩
/-- ENC_S_STAT.QP_LAST (R310). -/
def ENC_S_STAT_QP_LAST (p k : Nat) : Fld := ⟨0x150400 + 0x1000 * p + 0x200 * k, 5, 0⟩
/-- ENC_S_CTRL.FORCE_IDR (R310). -/
def ENC_S_CTRL_FORCE_IDR (p k : Nat) : Fld := ⟨0x150404 + 0x1000 * p + 0x200 * k, 1, 1⟩
/-- ENC_S_CTRL.ROI_APPLY (R310). -/
def ENC_S_CTRL_ROI_APPLY (p k : Nat) : Fld := ⟨0x150404 + 0x1000 * p + 0x200 * k, 0, 0⟩
/-- ENC_S_CAUSE.ALL (R310). -/
def ENC_S_CAUSE_ALL (p k : Nat) : Fld := ⟨0x150408 + 0x1000 * p + 0x200 * k, 8, 1⟩
/-- ENC_S_CAUSE_EN.ALL (R310). -/
def ENC_S_CAUSE_EN_ALL (p k : Nat) : Fld := ⟨0x15040C + 0x1000 * p + 0x200 * k, 8, 1⟩
/-- ENC_S_WR.OFFSET (R310). -/
def ENC_S_WR_OFFSET (p k : Nat) : Fld := ⟨0x150410 + 0x1000 * p + 0x200 * k, 31, 6⟩
/-- ENC_S_RD.OFFSET (R310). -/
def ENC_S_RD_OFFSET (p k : Nat) : Fld := ⟨0x150414 + 0x1000 * p + 0x200 * k, 31, 6⟩
/-- ENC_S_PICS (R310). -/
def ENC_S_PICS (p k : Nat) : Fld := ⟨0x150418 + 0x1000 * p + 0x200 * k, 31, 0⟩
/-- ENC_S_CUT (R310). -/
def ENC_S_CUT (p k : Nat) : Fld := ⟨0x15041C + 0x1000 * p + 0x200 * k, 31, 0⟩
/-- ENC_S_DROP (R310). -/
def ENC_S_DROP (p k : Nat) : Fld := ⟨0x150420 + 0x1000 * p + 0x200 * k, 31, 0⟩
/-- ENC_S_BUCKET (R310). -/
def ENC_S_BUCKET (p k : Nat) : Fld := ⟨0x150424 + 0x1000 * p + 0x200 * k, 31, 0⟩
/-- ENC_S_AUMIN (R310). -/
def ENC_S_AUMIN (p k : Nat) : Fld := ⟨0x150428 + 0x1000 * p + 0x200 * k, 31, 0⟩
/-- EGR_SSEL.SEL (R328). -/
def EGR_SSEL_SEL : Fld := ⟨0x158100, 5, 0⟩
/-- EGR_S_CFG.STATE (R328). -/
def EGR_S_CFG_STATE : Fld := ⟨0x158104, 31, 30⟩
/-- EGR_S_CFG.OWNER (R328). -/
def EGR_S_CFG_OWNER : Fld := ⟨0x158104, 29, 27⟩
/-- EGR_S_CFG.PORT (R328). -/
def EGR_S_CFG_PORT : Fld := ⟨0x158104, 26, 24⟩
/-- EGR_S_CFG.SHAPE_EN (R328). -/
def EGR_S_CFG_SHAPE_EN : Fld := ⟨0x158104, 16, 16⟩
/-- EGR_S_CFG.QUANTUM (R328). -/
def EGR_S_CFG_QUANTUM : Fld := ⟨0x158104, 15, 0⟩
/-- EGR_S_RATE.RATE (R328). -/
def EGR_S_RATE_RATE : Fld := ⟨0x158108, 26, 0⟩
/-- EGR_S_BURST.TRESET (R328). -/
def EGR_S_BURST_TRESET : Fld := ⟨0x15810C, 31, 31⟩
/-- EGR_S_BURST.BURST (R328). -/
def EGR_S_BURST_BURST : Fld := ⟨0x15810C, 23, 0⟩
/-- EGR_S_TOKENS (R328). -/
def EGR_S_TOKENS : Fld := ⟨0x158110, 31, 0⟩
/-- EGR_QSEL.SEL (R328). -/
def EGR_QSEL_SEL : Fld := ⟨0x158140, 8, 0⟩
/-- EGR_Q_CFG.CLASS (R328). -/
def EGR_Q_CFG_CLASS : Fld := ⟨0x158144, 18, 16⟩
/-- EGR_Q_CFG.SHAPE_EN (R328). -/
def EGR_Q_CFG_SHAPE_EN : Fld := ⟨0x158144, 8, 8⟩
/-- EGR_Q_RATE.RATE (R328). -/
def EGR_Q_RATE_RATE : Fld := ⟨0x158148, 26, 0⟩
/-- EGR_Q_BURST.TRESET (R328). -/
def EGR_Q_BURST_TRESET : Fld := ⟨0x15814C, 31, 31⟩
/-- EGR_Q_BURST.BURST (R328). -/
def EGR_Q_BURST_BURST : Fld := ⟨0x15814C, 23, 0⟩
/-- EGR_Q_LIMIT.LIMIT (R328). -/
def EGR_Q_LIMIT_LIMIT : Fld := ⟨0x158150, 15, 0⟩
/-- EGR_Q_TOKENS (R328). -/
def EGR_Q_TOKENS : Fld := ⟨0x158154, 31, 0⟩
/-- EGR_Q_DEPTH_LAST (R328). -/
def EGR_Q_DEPTH_LAST : Fld := ⟨0x158158, 31, 0⟩
/-- EGR_Q_DEPTH_MIN (R328). -/
def EGR_Q_DEPTH_MIN : Fld := ⟨0x15815C, 31, 0⟩
/-- EGR_Q_DEPTH_MAX (R328). -/
def EGR_Q_DEPTH_MAX : Fld := ⟨0x158160, 31, 0⟩
/-- EGR_Q_DELAY_LAST (R328). -/
def EGR_Q_DELAY_LAST : Fld := ⟨0x158164, 31, 0⟩
/-- EGR_Q_DELAY_MIN (R328). -/
def EGR_Q_DELAY_MIN : Fld := ⟨0x158168, 31, 0⟩
/-- EGR_Q_DELAY_MAX (R328). -/
def EGR_Q_DELAY_MAX : Fld := ⟨0x15816C, 31, 0⟩
/-- EGR_Q_SENT (R328). -/
def EGR_Q_SENT : Fld := ⟨0x158170, 31, 0⟩
/-- EGR_Q_DROP.DROP (R328). -/
def EGR_Q_DROP_DROP : Fld := ⟨0x158174, 31, 0⟩
/-- EGR_Q_CTRL.CLEAR (R328). -/
def EGR_Q_CTRL_CLEAR : Fld := ⟨0x158178, 0, 0⟩
/-- EGR_SAMPLE.PERIOD (R329). -/
def EGR_SAMPLE_PERIOD : Fld := ⟨0x158180, 9, 0⟩
/-- EGR_TFULL (R329). -/
def EGR_TFULL : Fld := ⟨0x158184, 31, 0⟩
/-- EGR_TIE.PTR (R329). -/
def EGR_TIE_PTR : Fld := ⟨0x158188, 2, 0⟩
/-- EGR_USED.USED (R329). -/
def EGR_USED_USED : Fld := ⟨0x15818C, 6, 0⟩
/-- EGR_SEND_REJ.REASON (R329). -/
def EGR_SEND_REJ_REASON : Fld := ⟨0x158190, 31, 24⟩
/-- EGR_SEND_REJ.PARTITION (R329). -/
def EGR_SEND_REJ_PARTITION : Fld := ⟨0x158190, 2, 0⟩
/-- EGR_WREJ (R329). -/
def EGR_WREJ : Fld := ⟨0x158194, 31, 0⟩
/-- EGR_GSEL.OPER (R329). -/
def EGR_GSEL_OPER : Fld := ⟨0x1581C0, 31, 31⟩
/-- EGR_GSEL.PORT (R329). -/
def EGR_GSEL_PORT : Fld := ⟨0x1581C0, 26, 24⟩
/-- EGR_GSEL.ENTRY (R329). -/
def EGR_GSEL_ENTRY : Fld := ⟨0x1581C0, 9, 0⟩
/-- EGR_GENT (R329). -/
def EGR_GENT : Fld := ⟨0x1581C4, 31, 0⟩
/-- EGR_P_CFG.PFC_EN (R330). -/
def EGR_P_CFG_PFC_EN (k : Nat) : Fld := ⟨0x158200 + 0x40 * k, 31, 31⟩
/-- EGR_P_CFG.SYS_CLASS (R330). -/
def EGR_P_CFG_SYS_CLASS (k : Nat) : Fld := ⟨0x158200 + 0x40 * k, 30, 28⟩
/-- EGR_P_CFG.GUARD (R330). -/
def EGR_P_CFG_GUARD (k : Nat) : Fld := ⟨0x158200 + 0x40 * k, 17, 8⟩
/-- EGR_P_CFG.OVERHEAD (R330). -/
def EGR_P_CFG_OVERHEAD (k : Nat) : Fld := ⟨0x158200 + 0x40 * k, 5, 0⟩
/-- EGR_P_GCTRL.ADMIN_GATE_EN (R330). -/
def EGR_P_GCTRL_ADMIN_GATE_EN (k : Nat) : Fld := ⟨0x158204 + 0x40 * k, 31, 31⟩
/-- EGR_P_GCTRL.CANCEL (R330). -/
def EGR_P_GCTRL_CANCEL (k : Nat) : Fld := ⟨0x158204 + 0x40 * k, 2, 2⟩
/-- EGR_P_GCTRL.CONFIG_CHANGE (R330). -/
def EGR_P_GCTRL_CONFIG_CHANGE (k : Nat) : Fld := ⟨0x158204 + 0x40 * k, 1, 1⟩
/-- EGR_P_ABASE_LO (R330). -/
def EGR_P_ABASE_LO (k : Nat) : Fld := ⟨0x158208 + 0x40 * k, 31, 0⟩
/-- EGR_P_ABASE_HI (R330). -/
def EGR_P_ABASE_HI (k : Nat) : Fld := ⟨0x15820C + 0x40 * k, 31, 0⟩
/-- EGR_P_ACYCLE.NS (R330). -/
def EGR_P_ACYCLE_NS (k : Nat) : Fld := ⟨0x158210 + 0x40 * k, 29, 0⟩
/-- EGR_P_AEXT.NS (R330). -/
def EGR_P_AEXT_NS (k : Nat) : Fld := ⟨0x158214 + 0x40 * k, 29, 0⟩
/-- EGR_P_GSTAT.OPER_GATE_EN (R330). -/
def EGR_P_GSTAT_OPER_GATE_EN (k : Nat) : Fld := ⟨0x158218 + 0x40 * k, 31, 31⟩
/-- EGR_P_GSTAT.PENDING (R330). -/
def EGR_P_GSTAT_PENDING (k : Nat) : Fld := ⟨0x158218 + 0x40 * k, 30, 30⟩
/-- EGR_P_GSTAT.OPER_GATES (R330). -/
def EGR_P_GSTAT_OPER_GATES (k : Nat) : Fld := ⟨0x158218 + 0x40 * k, 29, 22⟩
/-- EGR_P_GSTAT.ADMIN_LEN (R330). -/
def EGR_P_GSTAT_ADMIN_LEN (k : Nat) : Fld := ⟨0x158218 + 0x40 * k, 21, 11⟩
/-- EGR_P_GSTAT.OPER_LEN (R330). -/
def EGR_P_GSTAT_OPER_LEN (k : Nat) : Fld := ⟨0x158218 + 0x40 * k, 10, 0⟩
/-- EGR_P_GREJ.REASON (R330). -/
def EGR_P_GREJ_REASON (k : Nat) : Fld := ⟨0x15821C + 0x40 * k, 31, 24⟩
/-- EGR_P_CHG_LO (R330). -/
def EGR_P_CHG_LO (k : Nat) : Fld := ⟨0x158220 + 0x40 * k, 31, 0⟩
/-- EGR_P_CHG_HI (R330). -/
def EGR_P_CHG_HI (k : Nat) : Fld := ⟨0x158224 + 0x40 * k, 31, 0⟩
/-- EGR_P_OCYCLE.NS (R330). -/
def EGR_P_OCYCLE_NS (k : Nat) : Fld := ⟨0x158228 + 0x40 * k, 29, 0⟩
/-- EGR_P_PAUSED.CLASSES (R330). -/
def EGR_P_PAUSED_CLASSES (k : Nat) : Fld := ⟨0x15822C + 0x40 * k, 7, 0⟩
/-- EGR_P_TOOBIG (R330). -/
def EGR_P_TOOBIG (k : Nat) : Fld := ⟨0x158230 + 0x40 * k, 31, 0⟩
/-- EGR_P_FRAMES (R330). -/
def EGR_P_FRAMES (k : Nat) : Fld := ⟨0x158234 + 0x40 * k, 31, 0⟩
/-- EGR_P_PFC_RX (R330). -/
def EGR_P_PFC_RX (k : Nat) : Fld := ⟨0x158238 + 0x40 * k, 31, 0⟩
/-- TIM_SEL.AUTO (R348). -/
def TIM_SEL_AUTO : Fld := ⟨0x10100, 31, 31⟩
/-- TIM_SEL.JUMP (R348). -/
def TIM_SEL_JUMP : Fld := ⟨0x10100, 1, 1⟩
/-- TIM_SEL.DOMAIN (R348). -/
def TIM_SEL_DOMAIN : Fld := ⟨0x10100, 0, 0⟩
/-- TIM_STAT.SEL_VALID (R348). -/
def TIM_STAT_SEL_VALID : Fld := ⟨0x10104, 31, 31⟩
/-- TIM_STAT.HOLDOVER (R348). -/
def TIM_STAT_HOLDOVER : Fld := ⟨0x10104, 30, 30⟩
/-- TIM_STAT.SLEWING (R348). -/
def TIM_STAT_SLEWING : Fld := ⟨0x10104, 29, 29⟩
/-- TIM_STAT.DOMAIN (R348). -/
def TIM_STAT_DOMAIN : Fld := ⟨0x10104, 28, 28⟩
/-- TIM_STAT.REASON (R348). -/
def TIM_STAT_REASON : Fld := ⟨0x10104, 15, 8⟩
/-- TIM_SLEW.RATE (R348). -/
def TIM_SLEW_RATE : Fld := ⟨0x10108, 16, 0⟩
/-- TIM_MAXDIFF (R348). -/
def TIM_MAXDIFF : Fld := ⟨0x1010C, 31, 0⟩
/-- TIM_SNAP.TAKE (R348). -/
def TIM_SNAP_TAKE : Fld := ⟨0x10110, 0, 0⟩
/-- TIM_SN_S_LO (R348). -/
def TIM_SN_S_LO : Fld := ⟨0x10114, 31, 0⟩
/-- TIM_SN_S_HI (R348). -/
def TIM_SN_S_HI : Fld := ⟨0x10118, 31, 0⟩
/-- TIM_SN_S_FRAC (R348). -/
def TIM_SN_S_FRAC : Fld := ⟨0x1011C, 31, 0⟩
/-- TIM_SN_A_LO (R348). -/
def TIM_SN_A_LO : Fld := ⟨0x10120, 31, 0⟩
/-- TIM_SN_A_HI (R348). -/
def TIM_SN_A_HI : Fld := ⟨0x10124, 31, 0⟩
/-- TIM_SN_B_LO (R348). -/
def TIM_SN_B_LO : Fld := ⟨0x10128, 31, 0⟩
/-- TIM_SN_B_HI (R348). -/
def TIM_SN_B_HI : Fld := ⟨0x1012C, 31, 0⟩
/-- TIM_SN_E (R348). -/
def TIM_SN_E : Fld := ⟨0x10130, 31, 0⟩
/-- TIM_PPS_S_LO (R348). -/
def TIM_PPS_S_LO : Fld := ⟨0x10140, 31, 0⟩
/-- TIM_PPS_S_HI (R348). -/
def TIM_PPS_S_HI : Fld := ⟨0x10144, 31, 0⟩
/-- TIM_PPS_A_LO (R348). -/
def TIM_PPS_A_LO : Fld := ⟨0x10148, 31, 0⟩
/-- TIM_PPS_A_HI (R348). -/
def TIM_PPS_A_HI : Fld := ⟨0x1014C, 31, 0⟩
/-- TIM_PPS_B_LO (R348). -/
def TIM_PPS_B_LO : Fld := ⟨0x10150, 31, 0⟩
/-- TIM_PPS_B_HI (R348). -/
def TIM_PPS_B_HI : Fld := ⟨0x10154, 31, 0⟩
/-- TIM_PPS_CNT (R348). -/
def TIM_PPS_CNT : Fld := ⟨0x10158, 31, 0⟩
/-- TIM_TXQ_ID.SEQ_ID (R349). -/
def TIM_TXQ_ID_SEQ_ID (k : Nat) : Fld := ⟨0x10200 + 0x40 * k, 31, 16⟩
/-- TIM_TXQ_ID.MSGTYPE (R349). -/
def TIM_TXQ_ID_MSGTYPE (k : Nat) : Fld := ⟨0x10200 + 0x40 * k, 15, 12⟩
/-- TIM_TXQ_ID.PORT (R349). -/
def TIM_TXQ_ID_PORT (k : Nat) : Fld := ⟨0x10200 + 0x40 * k, 10, 8⟩
/-- TIM_TXQ_ID.VALID (R349). -/
def TIM_TXQ_ID_VALID (k : Nat) : Fld := ⟨0x10200 + 0x40 * k, 0, 0⟩
/-- TIM_TXQ_S_LO (R349). -/
def TIM_TXQ_S_LO (k : Nat) : Fld := ⟨0x10204 + 0x40 * k, 31, 0⟩
/-- TIM_TXQ_S_HI (R349). -/
def TIM_TXQ_S_HI (k : Nat) : Fld := ⟨0x10208 + 0x40 * k, 31, 0⟩
/-- TIM_TXQ_A_LO (R349). -/
def TIM_TXQ_A_LO (k : Nat) : Fld := ⟨0x1020C + 0x40 * k, 31, 0⟩
/-- TIM_TXQ_A_HI (R349). -/
def TIM_TXQ_A_HI (k : Nat) : Fld := ⟨0x10210 + 0x40 * k, 31, 0⟩
/-- TIM_TXQ_B_LO (R349). -/
def TIM_TXQ_B_LO (k : Nat) : Fld := ⟨0x10214 + 0x40 * k, 31, 0⟩
/-- TIM_TXQ_B_HI (R349). -/
def TIM_TXQ_B_HI (k : Nat) : Fld := ⟨0x10218 + 0x40 * k, 31, 0⟩
/-- TIM_TXQ_CTRL.POP (R349). -/
def TIM_TXQ_CTRL_POP (k : Nat) : Fld := ⟨0x1021C + 0x40 * k, 0, 0⟩
/-- TIM_TXQ_STAT.OVERFLOW (R349). -/
def TIM_TXQ_STAT_OVERFLOW (k : Nat) : Fld := ⟨0x10220 + 0x40 * k, 31, 31⟩
/-- TIM_TXQ_STAT.COUNT (R349). -/
def TIM_TXQ_STAT_COUNT (k : Nat) : Fld := ⟨0x10220 + 0x40 * k, 6, 0⟩
/-- TIM_TXQ_LOST (R349). -/
def TIM_TXQ_LOST (k : Nat) : Fld := ⟨0x10224 + 0x40 * k, 31, 0⟩
/-- TIM_TXDLY.DELAY (R349). -/
def TIM_TXDLY_DELAY (k : Nat) : Fld := ⟨0x10228 + 0x40 * k, 19, 0⟩
/-- TIM_CH_CFG.MODE (R350). -/
def TIM_CH_CFG_MODE (k : Nat) : Fld := ⟨0x10400 + 0x20 * k, 31, 30⟩
/-- TIM_CH_CFG.POL (R350). -/
def TIM_CH_CFG_POL (k : Nat) : Fld := ⟨0x10400 + 0x20 * k, 29, 29⟩
/-- TIM_CH_CFG.GROUP (R350). -/
def TIM_CH_CFG_GROUP (k : Nat) : Fld := ⟨0x10400 + 0x20 * k, 28, 27⟩
/-- TIM_CH_CFG.TARGET (R350). -/
def TIM_CH_CFG_TARGET (k : Nat) : Fld := ⟨0x10400 + 0x20 * k, 26, 24⟩
/-- TIM_CH_CFG.DIV (R350). -/
def TIM_CH_CFG_DIV (k : Nat) : Fld := ⟨0x10400 + 0x20 * k, 23, 16⟩
/-- TIM_CH_CFG.ARG (R350). -/
def TIM_CH_CFG_ARG (k : Nat) : Fld := ⟨0x10400 + 0x20 * k, 15, 0⟩
/-- TIM_CH_START_LO (R350). -/
def TIM_CH_START_LO (k : Nat) : Fld := ⟨0x10404 + 0x20 * k, 31, 0⟩
/-- TIM_CH_START_HI (R350). -/
def TIM_CH_START_HI (k : Nat) : Fld := ⟨0x10408 + 0x20 * k, 31, 0⟩
/-- TIM_CH_PERIOD_NS (R350). -/
def TIM_CH_PERIOD_NS (k : Nat) : Fld := ⟨0x1040C + 0x20 * k, 31, 0⟩
/-- TIM_CH_PERIOD_FRAC (R350). -/
def TIM_CH_PERIOD_FRAC (k : Nat) : Fld := ⟨0x10410 + 0x20 * k, 31, 0⟩
/-- TIM_CH_WIDTH.NS (R350). -/
def TIM_CH_WIDTH_NS (k : Nat) : Fld := ⟨0x10414 + 0x20 * k, 23, 0⟩
/-- TIM_CH_CTRL.DISARM (R350). -/
def TIM_CH_CTRL_DISARM (k : Nat) : Fld := ⟨0x10418 + 0x20 * k, 1, 1⟩
/-- TIM_CH_CTRL.ARM (R350). -/
def TIM_CH_CTRL_ARM (k : Nat) : Fld := ⟨0x10418 + 0x20 * k, 0, 0⟩
/-- TIM_CH_STAT.ARMED (R350). -/
def TIM_CH_STAT_ARMED (k : Nat) : Fld := ⟨0x1041C + 0x20 * k, 31, 31⟩
/-- TIM_CH_STAT.LATE (R350). -/
def TIM_CH_STAT_LATE (k : Nat) : Fld := ⟨0x1041C + 0x20 * k, 30, 30⟩
/-- TIM_CH_STAT.MERGED (R350). -/
def TIM_CH_STAT_MERGED (k : Nat) : Fld := ⟨0x1041C + 0x20 * k, 29, 16⟩
/-- TIM_CH_STAT.FIRED (R350). -/
def TIM_CH_STAT_FIRED (k : Nat) : Fld := ⟨0x1041C + 0x20 * k, 15, 0⟩
/-- TIM_D_CFG.DNUM (R351). -/
def TIM_D_CFG_DNUM (p : Nat) : Fld := ⟨0x11100 + 0x1000 * p, 31, 24⟩
/-- TIM_D_CFG.PROFILE (R351). -/
def TIM_D_CFG_PROFILE (p : Nat) : Fld := ⟨0x11100 + 0x1000 * p, 23, 22⟩
/-- TIM_D_CFG.TRANSPORT (R351). -/
def TIM_D_CFG_TRANSPORT (p : Nat) : Fld := ⟨0x11100 + 0x1000 * p, 21, 20⟩
/-- TIM_D_CFG.HOST (R351). -/
def TIM_D_CFG_HOST (p : Nat) : Fld := ⟨0x11100 + 0x1000 * p, 19, 19⟩
/-- TIM_D_CFG.PORTS (R351). -/
def TIM_D_CFG_PORTS (p : Nat) : Fld := ⟨0x11100 + 0x1000 * p, 4, 0⟩
/-- TIM_D_INC_LO (R351). -/
def TIM_D_INC_LO (p : Nat) : Fld := ⟨0x11104 + 0x1000 * p, 31, 0⟩
/-- TIM_D_INC_HI.NS (R351). -/
def TIM_D_INC_HI_NS (p : Nat) : Fld := ⟨0x11108 + 0x1000 * p, 7, 0⟩
/-- TIM_D_ADJ (R351). -/
def TIM_D_ADJ (p : Nat) : Fld := ⟨0x1110C + 0x1000 * p, 31, 0⟩
/-- TIM_D_SET_LO (R351). -/
def TIM_D_SET_LO (p : Nat) : Fld := ⟨0x11110 + 0x1000 * p, 31, 0⟩
/-- TIM_D_SET_HI (R351). -/
def TIM_D_SET_HI (p : Nat) : Fld := ⟨0x11114 + 0x1000 * p, 31, 0⟩
/-- TIM_D_CTRL.SET (R351). -/
def TIM_D_CTRL_SET (p : Nat) : Fld := ⟨0x11118 + 0x1000 * p, 2, 2⟩
/-- TIM_D_CTRL.VALID (R351). -/
def TIM_D_CTRL_VALID (p : Nat) : Fld := ⟨0x11118 + 0x1000 * p, 0, 0⟩
/-- TIM_D_STAT.PSTATE (R351). -/
def TIM_D_STAT_PSTATE (p : Nat) : Fld := ⟨0x1111C + 0x1000 * p, 31, 28⟩
/-- TIM_D_STAT.PORT (R351). -/
def TIM_D_STAT_PORT (p : Nat) : Fld := ⟨0x1111C + 0x1000 * p, 26, 24⟩
/-- TIM_D_GMID_LO (R351). -/
def TIM_D_GMID_LO (p : Nat) : Fld := ⟨0x11120 + 0x1000 * p, 31, 0⟩
/-- TIM_D_GMID_HI (R351). -/
def TIM_D_GMID_HI (p : Nat) : Fld := ⟨0x11124 + 0x1000 * p, 31, 0⟩
/-- TIM_D_OFFSET (R351). -/
def TIM_D_OFFSET (p : Nat) : Fld := ⟨0x11128 + 0x1000 * p, 31, 0⟩
/-- TIM_D_MPD (R351). -/
def TIM_D_MPD (p : Nat) : Fld := ⟨0x1112C + 0x1000 * p, 31, 0⟩
/-- TIM_D_UTC.VALID (R351). -/
def TIM_D_UTC_VALID (p : Nat) : Fld := ⟨0x11130 + 0x1000 * p, 16, 16⟩
/-- TIM_D_UTC.OFFSET (R351). -/
def TIM_D_UTC_OFFSET (p : Nat) : Fld := ⟨0x11130 + 0x1000 * p, 15, 0⟩
/-- TIM_D_T (R351). -/
def TIM_D_T (p k : Nat) : Fld := ⟨0x11140 + 0x1000 * p + 0x4 * k, 31, 0⟩
/-- TIM_D_MCNT (R351). -/
def TIM_D_MCNT (p : Nat) : Fld := ⟨0x11160 + 0x1000 * p, 31, 0⟩
/-- CUE_REJ.REASON (R368). -/
def CUE_REJ_REASON : Fld := ⟨0x18100, 31, 24⟩
/-- CUE_REJ.LIST (R368). -/
def CUE_REJ_LIST : Fld := ⟨0x18100, 19, 17⟩
/-- CUE_REJ.PARTITION (R368). -/
def CUE_REJ_PARTITION : Fld := ⟨0x18100, 2, 0⟩
/-- CUE_TFULL (R368). -/
def CUE_TFULL : Fld := ⟨0x18104, 31, 0⟩
/-- CUE_TIE.PTR (R368). -/
def CUE_TIE_PTR : Fld := ⟨0x18108, 2, 0⟩
/-- CUE_STAT.STATE (R369). -/
def CUE_STAT_STATE (k : Nat) : Fld := ⟨0x18200 + 0x40 * k, 31, 30⟩
/-- CUE_STAT.OWNER (R369). -/
def CUE_STAT_OWNER (k : Nat) : Fld := ⟨0x18200 + 0x40 * k, 29, 27⟩
/-- CUE_STAT.KIND (R369). -/
def CUE_STAT_KIND (k : Nat) : Fld := ⟨0x18200 + 0x40 * k, 26, 26⟩
/-- CUE_STAT.GROUP (R369). -/
def CUE_STAT_GROUP (k : Nat) : Fld := ⟨0x18200 + 0x40 * k, 25, 24⟩
/-- CUE_STAT.NEXT (R369). -/
def CUE_STAT_NEXT (k : Nat) : Fld := ⟨0x18200 + 0x40 * k, 12, 0⟩
/-- CUE_EBASE_LO (R369). -/
def CUE_EBASE_LO (k : Nat) : Fld := ⟨0x18204 + 0x40 * k, 31, 0⟩
/-- CUE_EBASE_HI (R369). -/
def CUE_EBASE_HI (k : Nat) : Fld := ⟨0x18208 + 0x40 * k, 31, 0⟩
/-- CUE_CYCLES (R369). -/
def CUE_CYCLES (k : Nat) : Fld := ⟨0x1820C + 0x40 * k, 31, 0⟩
/-- CUE_LATE (R369). -/
def CUE_LATE (k : Nat) : Fld := ⟨0x18210 + 0x40 * k, 31, 0⟩
/-- CUE_LATE_INFO.CAUSE (R369). -/
def CUE_LATE_INFO_CAUSE (k : Nat) : Fld := ⟨0x18214 + 0x40 * k, 31, 24⟩
/-- CUE_LATE_INFO.ENTRY (R369). -/
def CUE_LATE_INFO_ENTRY (k : Nat) : Fld := ⟨0x18214 + 0x40 * k, 11, 0⟩
/-- CUE_FAIL.REASON (R369). -/
def CUE_FAIL_REASON (k : Nat) : Fld := ⟨0x18218 + 0x40 * k, 31, 24⟩
/-- CUE_FAIL.ENTRY (R369). -/
def CUE_FAIL_ENTRY (k : Nat) : Fld := ⟨0x18218 + 0x40 * k, 11, 0⟩
/-- CUE_SKIP (R369). -/
def CUE_SKIP (k : Nat) : Fld := ⟨0x1821C + 0x40 * k, 31, 0⟩
/-- CUE_APPLIED (R369). -/
def CUE_APPLIED (k : Nat) : Fld := ⟨0x18220 + 0x40 * k, 31, 0⟩
/-- RIM_CFG.INVERT (R388). -/
def RIM_CFG_INVERT : Fld := ⟨0x180100, 9, 8⟩
/-- RIM_CFG.LEVELS (R388). -/
def RIM_CFG_LEVELS : Fld := ⟨0x180100, 4, 4⟩
/-- RIM_STAT.BOOST_ON (R388). -/
def RIM_STAT_BOOST_ON : Fld := ⟨0x180104, 31, 31⟩
/-- RIM_STAT.INHIBIT (R388). -/
def RIM_STAT_INHIBIT : Fld := ⟨0x180104, 30, 30⟩
/-- RIM_STAT.T_OUT (R388). -/
def RIM_STAT_T_OUT : Fld := ⟨0x180104, 29, 29⟩
/-- RIM_STAT.VHV_LOW (R388). -/
def RIM_STAT_VHV_LOW : Fld := ⟨0x180104, 28, 28⟩
/-- RIM_STAT.NO_TABLE (R388). -/
def RIM_STAT_NO_TABLE : Fld := ⟨0x180104, 27, 27⟩
/-- RIM_STAT.RESTORED (R388). -/
def RIM_STAT_RESTORED : Fld := ⟨0x180104, 26, 26⟩
/-- RIM_STAT.LINE (R388). -/
def RIM_STAT_LINE : Fld := ⟨0x180104, 20, 16⟩
/-- RIM_STAT.REGION (R388). -/
def RIM_STAT_REGION : Fld := ⟨0x180104, 15, 12⟩
/-- RIM_STAT.BAND (R388). -/
def RIM_STAT_BAND : Fld := ⟨0x180104, 11, 9⟩
/-- RIM_STAT.POL (R388). -/
def RIM_STAT_POL : Fld := ⟨0x180104, 0, 0⟩
/-- RIM_TEMP.VALID (R388). -/
def RIM_TEMP_VALID : Fld := ⟨0x180108, 31, 31⟩
/-- RIM_TEMP.TEMP (R388). -/
def RIM_TEMP_TEMP : Fld := ⟨0x180108, 15, 0⟩
/-- RIM_NTC_CFG.B (R388). -/
def RIM_NTC_CFG_B : Fld := ⟨0x18010C, 31, 16⟩
/-- RIM_NTC_CFG.R25 (R388). -/
def RIM_NTC_CFG_R25 : Fld := ⟨0x18010C, 15, 0⟩
/-- RIM_VSUP.VHV (R388). -/
def RIM_VSUP_VHV : Fld := ⟨0x180110, 31, 16⟩
/-- RIM_VSUP.VHOLD (R388). -/
def RIM_VSUP_VHOLD : Fld := ⟨0x180110, 15, 0⟩
/-- RIM_VRIM.VRIM (R388). -/
def RIM_VRIM_VRIM : Fld := ⟨0x180114, 15, 0⟩
/-- RIM_TFULL (R388). -/
def RIM_TFULL : Fld := ⟨0x180118, 31, 0⟩
/-- RIM_TIE.ALLOC (R388). -/
def RIM_TIE_ALLOC : Fld := ⟨0x18011C, 10, 8⟩
/-- RIM_TIE.CUE (R388). -/
def RIM_TIE_CUE : Fld := ⟨0x18011C, 6, 4⟩
/-- RIM_TIE.CMD (R388). -/
def RIM_TIE_CMD : Fld := ⟨0x18011C, 2, 0⟩
/-- RIM_CUE_INFO.STATUS (R388). -/
def RIM_CUE_INFO_STATUS : Fld := ⟨0x180120, 31, 24⟩
/-- RIM_CUE_INFO.REGION (R388). -/
def RIM_CUE_INFO_REGION : Fld := ⟨0x180120, 19, 16⟩
/-- RIM_CUE_INFO.LIST (R388). -/
def RIM_CUE_INFO_LIST : Fld := ⟨0x180120, 2, 0⟩
/-- RIM_COALESCED (R388). -/
def RIM_COALESCED : Fld := ⟨0x180124, 31, 0⟩
/-- RIM_PSEQ (R388). -/
def RIM_PSEQ : Fld := ⟨0x180128, 31, 0⟩
/-- RIM_LOSS (R388). -/
def RIM_LOSS : Fld := ⟨0x18012C, 31, 0⟩
/-- RIM_RGN_STAT.STATE (R388). -/
def RIM_RGN_STAT_STATE (k : Nat) : Fld := ⟨0x180400 + 0x10 * k, 31, 30⟩
/-- RIM_RGN_STAT.OWNER (R388). -/
def RIM_RGN_STAT_OWNER (k : Nat) : Fld := ⟨0x180400 + 0x10 * k, 29, 27⟩
/-- RIM_RGN_STAT.CO_EN (R388). -/
def RIM_RGN_STAT_CO_EN (k : Nat) : Fld := ⟨0x180400 + 0x10 * k, 26, 26⟩
/-- RIM_RGN_STAT.CO_OWNER (R388). -/
def RIM_RGN_STAT_CO_OWNER (k : Nat) : Fld := ⟨0x180400 + 0x10 * k, 25, 23⟩
/-- RIM_RGN_STAT.RUN (R388). -/
def RIM_RGN_STAT_RUN (k : Nat) : Fld := ⟨0x180400 + 0x10 * k, 19, 19⟩
/-- RIM_RGN_STAT.QUEUED (R388). -/
def RIM_RGN_STAT_QUEUED (k : Nat) : Fld := ⟨0x180400 + 0x10 * k, 18, 16⟩
/-- RIM_RGN_RECT.C0 (R388). -/
def RIM_RGN_RECT_C0 (k : Nat) : Fld := ⟨0x180404 + 0x10 * k, 28, 24⟩
/-- RIM_RGN_RECT.C1 (R388). -/
def RIM_RGN_RECT_C1 (k : Nat) : Fld := ⟨0x180404 + 0x10 * k, 20, 16⟩
/-- RIM_RGN_RECT.S0 (R388). -/
def RIM_RGN_RECT_S0 (k : Nat) : Fld := ⟨0x180404 + 0x10 * k, 15, 8⟩
/-- RIM_RGN_RECT.S1 (R388). -/
def RIM_RGN_RECT_S1 (k : Nat) : Fld := ⟨0x180404 + 0x10 * k, 7, 0⟩
/-- RIM_RGN_DONE (R388). -/
def RIM_RGN_DONE (k : Nat) : Fld := ⟨0x180408 + 0x10 * k, 31, 0⟩
/-- RIM_RGN_NEXT.NEXT (R388). -/
def RIM_RGN_NEXT_NEXT (k : Nat) : Fld := ⟨0x18040C + 0x10 * k, 4, 0⟩
/-- CAM_P_CFG.TRIG_WIDTH (R406). -/
def CAM_P_CFG_TRIG_WIDTH (p : Nat) : Fld := ⟨0x160100 + 0x1000 * p, 31, 24⟩
/-- CAM_P_CFG.I3C_RATE (R406). -/
def CAM_P_CFG_I3C_RATE (p : Nat) : Fld := ⟨0x160100 + 0x1000 * p, 5, 4⟩
/-- CAM_P_CFG.LANES (R406). -/
def CAM_P_CFG_LANES (p : Nat) : Fld := ⟨0x160100 + 0x1000 * p, 1, 0⟩
/-- CAM_P_CAUSE.ALL (R406). -/
def CAM_P_CAUSE_ALL (p : Nat) : Fld := ⟨0x160104 + 0x1000 * p, 6, 1⟩
/-- CAM_P_CAUSE_EN.ALL (R406). -/
def CAM_P_CAUSE_EN_ALL (p : Nat) : Fld := ⟨0x160108 + 0x1000 * p, 6, 1⟩
/-- CAM_P_STRAY (R406). -/
def CAM_P_STRAY (p : Nat) : Fld := ⟨0x16010C + 0x1000 * p, 31, 0⟩
/-- CAM_P_CRC (R406). -/
def CAM_P_CRC (p : Nat) : Fld := ⟨0x160110 + 0x1000 * p, 31, 0⟩
/-- CAM_P_IBI (R406). -/
def CAM_P_IBI (p : Nat) : Fld := ⟨0x160114 + 0x1000 * p, 31, 0⟩
/-- CAM_P_IBI_ADDR.ADDR (R406). -/
def CAM_P_IBI_ADDR_ADDR (p : Nat) : Fld := ⟨0x160118 + 0x1000 * p, 6, 0⟩
/-- CAM_TFULL (R406). -/
def CAM_TFULL : Fld := ⟨0x160180, 31, 0⟩
/-- CAM_S_CFG.EN (R407). -/
def CAM_S_CFG_EN (k : Nat) : Fld := ⟨0x160400 + 0x40 * k, 31, 31⟩
/-- CAM_S_CFG.PORT (R407). -/
def CAM_S_CFG_PORT (k : Nat) : Fld := ⟨0x160400 + 0x40 * k, 30, 30⟩
/-- CAM_S_CFG.VC (R407). -/
def CAM_S_CFG_VC (k : Nat) : Fld := ⟨0x160400 + 0x40 * k, 29, 26⟩
/-- CAM_S_CFG.RAW12 (R407). -/
def CAM_S_CFG_RAW12 (k : Nat) : Fld := ⟨0x160400 + 0x40 * k, 25, 25⟩
/-- CAM_S_CFG.BAYER (R407). -/
def CAM_S_CFG_BAYER (k : Nat) : Fld := ⟨0x160400 + 0x40 * k, 24, 23⟩
/-- CAM_S_CFG.LATENCY (R407). -/
def CAM_S_CFG_LATENCY (k : Nat) : Fld := ⟨0x160400 + 0x40 * k, 22, 20⟩
/-- CAM_S_CFG.TRIGGERED (R407). -/
def CAM_S_CFG_TRIGGERED (k : Nat) : Fld := ⟨0x160400 + 0x40 * k, 19, 19⟩
/-- CAM_S_CFG.DADDR (R407). -/
def CAM_S_CFG_DADDR (k : Nat) : Fld := ⟨0x160400 + 0x40 * k, 18, 12⟩
/-- CAM_S_SIZE.W (R407). -/
def CAM_S_SIZE_W (k : Nat) : Fld := ⟨0x160404 + 0x40 * k, 31, 16⟩
/-- CAM_S_SIZE.H (R407). -/
def CAM_S_SIZE_H (k : Nat) : Fld := ⟨0x160404 + 0x40 * k, 15, 0⟩
/-- CAM_S_TIMING.GUARD (R407). -/
def CAM_S_TIMING_GUARD (k : Nat) : Fld := ⟨0x160408 + 0x40 * k, 31, 16⟩
/-- CAM_S_TIMING.FS_DELAY (R407). -/
def CAM_S_TIMING_FS_DELAY (k : Nat) : Fld := ⟨0x160408 + 0x40 * k, 15, 0⟩
/-- CAM_S_BL0.R (R407). -/
def CAM_S_BL0_R (k : Nat) : Fld := ⟨0x16040C + 0x40 * k, 27, 16⟩
/-- CAM_S_BL0.GR (R407). -/
def CAM_S_BL0_GR (k : Nat) : Fld := ⟨0x16040C + 0x40 * k, 11, 0⟩
/-- CAM_S_BL1.GB (R407). -/
def CAM_S_BL1_GB (k : Nat) : Fld := ⟨0x160410 + 0x40 * k, 27, 16⟩
/-- CAM_S_BL1.B (R407). -/
def CAM_S_BL1_B (k : Nat) : Fld := ⟨0x160410 + 0x40 * k, 11, 0⟩
/-- CAM_S_WB0.R (R407). -/
def CAM_S_WB0_R (k : Nat) : Fld := ⟨0x160414 + 0x40 * k, 31, 16⟩
/-- CAM_S_WB0.G (R407). -/
def CAM_S_WB0_G (k : Nat) : Fld := ⟨0x160414 + 0x40 * k, 15, 0⟩
/-- CAM_S_WB1.B (R407). -/
def CAM_S_WB1_B (k : Nat) : Fld := ⟨0x160418 + 0x40 * k, 15, 0⟩
/-- CAM_S_MAT0.M00 (R407). -/
def CAM_S_MAT0_M00 (k : Nat) : Fld := ⟨0x16041C + 0x40 * k, 31, 16⟩
/-- CAM_S_MAT0.M01 (R407). -/
def CAM_S_MAT0_M01 (k : Nat) : Fld := ⟨0x16041C + 0x40 * k, 15, 0⟩
/-- CAM_S_MAT1.M02 (R407). -/
def CAM_S_MAT1_M02 (k : Nat) : Fld := ⟨0x160420 + 0x40 * k, 31, 16⟩
/-- CAM_S_MAT1.M10 (R407). -/
def CAM_S_MAT1_M10 (k : Nat) : Fld := ⟨0x160420 + 0x40 * k, 15, 0⟩
/-- CAM_S_MAT2.M11 (R407). -/
def CAM_S_MAT2_M11 (k : Nat) : Fld := ⟨0x160424 + 0x40 * k, 31, 16⟩
/-- CAM_S_MAT2.M12 (R407). -/
def CAM_S_MAT2_M12 (k : Nat) : Fld := ⟨0x160424 + 0x40 * k, 15, 0⟩
/-- CAM_S_MAT3.M20 (R407). -/
def CAM_S_MAT3_M20 (k : Nat) : Fld := ⟨0x160428 + 0x40 * k, 31, 16⟩
/-- CAM_S_MAT3.M21 (R407). -/
def CAM_S_MAT3_M21 (k : Nat) : Fld := ⟨0x160428 + 0x40 * k, 15, 0⟩
/-- CAM_S_MAT4.M22 (R407). -/
def CAM_S_MAT4_M22 (k : Nat) : Fld := ⟨0x16042C + 0x40 * k, 31, 16⟩
/-- CAM_S_NR.DYN_THR (R407). -/
def CAM_S_NR_DYN_THR (k : Nat) : Fld := ⟨0x160430 + 0x40 * k, 27, 16⟩
/-- CAM_S_NR.DYN_EN (R407). -/
def CAM_S_NR_DYN_EN (k : Nat) : Fld := ⟨0x160430 + 0x40 * k, 8, 8⟩
/-- CAM_S_NR.SNR (R407). -/
def CAM_S_NR_SNR (k : Nat) : Fld := ⟨0x160430 + 0x40 * k, 7, 4⟩
/-- CAM_S_NR.TNR (R407). -/
def CAM_S_NR_TNR (k : Nat) : Fld := ⟨0x160430 + 0x40 * k, 3, 0⟩
/-- CAM_S_SAT.SAT (R407). -/
def CAM_S_SAT_SAT (k : Nat) : Fld := ⟨0x160434 + 0x40 * k, 11, 0⟩
/-- CAM_S_STATS.BASE (R407). -/
def CAM_S_STATS_BASE (k : Nat) : Fld := ⟨0x160438 + 0x40 * k, 31, 6⟩
/-- CAM_S_STATS.NREC_M1 (R407). -/
def CAM_S_STATS_NREC_M1 (k : Nat) : Fld := ⟨0x160438 + 0x40 * k, 5, 0⟩
/-- CAM_S_STATUS.ID (R407). -/
def CAM_S_STATUS_ID (k : Nat) : Fld := ⟨0x16043C + 0x40 * k, 31, 16⟩
/-- CAM_S_STATUS.QUEUED (R407). -/
def CAM_S_STATUS_QUEUED (k : Nat) : Fld := ⟨0x16043C + 0x40 * k, 4, 0⟩
/-- CAM_S_FCOUNT (R407). -/
def CAM_S_FCOUNT (k : Nat) : Fld := ⟨0x160600 + 0x10 * k, 31, 0⟩
/-- CAM_S_CAUSE.ALL (R407). -/
def CAM_S_CAUSE_ALL (k : Nat) : Fld := ⟨0x160604 + 0x10 * k, 8, 1⟩
/-- CAM_S_CAUSE_EN.ALL (R407). -/
def CAM_S_CAUSE_EN_ALL (k : Nat) : Fld := ⟨0x160608 + 0x10 * k, 8, 1⟩
/-- CAM_S_MISSED (R407). -/
def CAM_S_MISSED (k : Nat) : Fld := ⟨0x16060C + 0x10 * k, 31, 0⟩
/-- CAM_O_CFG.EN (R408). -/
def CAM_O_CFG_EN (k : Nat) : Fld := ⟨0x160800 + 0x20 * k, 31, 31⟩
/-- CAM_O_CFG.SENSOR (R408). -/
def CAM_O_CFG_SENSOR (k : Nat) : Fld := ⟨0x160800 + 0x20 * k, 30, 28⟩
/-- CAM_O_CFG.FMT (R408). -/
def CAM_O_CFG_FMT (k : Nat) : Fld := ⟨0x160800 + 0x20 * k, 27, 27⟩
/-- CAM_O_CFG.CONV (R408). -/
def CAM_O_CFG_CONV (k : Nat) : Fld := ⟨0x160800 + 0x20 * k, 26, 26⟩
/-- CAM_O_CFG.NBUF (R408). -/
def CAM_O_CFG_NBUF (k : Nat) : Fld := ⟨0x160800 + 0x20 * k, 3, 0⟩
/-- CAM_O_SRC0.SX0 (R408). -/
def CAM_O_SRC0_SX0 (k : Nat) : Fld := ⟨0x160804 + 0x20 * k, 31, 16⟩
/-- CAM_O_SRC0.SY0 (R408). -/
def CAM_O_SRC0_SY0 (k : Nat) : Fld := ⟨0x160804 + 0x20 * k, 15, 0⟩
/-- CAM_O_SRC1.SW_M1 (R408). -/
def CAM_O_SRC1_SW_M1 (k : Nat) : Fld := ⟨0x160808 + 0x20 * k, 31, 16⟩
/-- CAM_O_SRC1.SH_M1 (R408). -/
def CAM_O_SRC1_SH_M1 (k : Nat) : Fld := ⟨0x160808 + 0x20 * k, 15, 0⟩
/-- CAM_O_DST.DW_M1 (R408). -/
def CAM_O_DST_DW_M1 (k : Nat) : Fld := ⟨0x16080C + 0x20 * k, 31, 16⟩
/-- CAM_O_DST.DH_M1 (R408). -/
def CAM_O_DST_DH_M1 (k : Nat) : Fld := ⟨0x16080C + 0x20 * k, 15, 0⟩
/-- CAM_O_BASE_LO.ADDR (R408). -/
def CAM_O_BASE_LO_ADDR (k : Nat) : Fld := ⟨0x160810 + 0x20 * k, 31, 12⟩
/-- CAM_O_BASE_HI.ADDR (R408). -/
def CAM_O_BASE_HI_ADDR (k : Nat) : Fld := ⟨0x160814 + 0x20 * k, 7, 0⟩
/-- CAM_O_STAT.LAST_BUF (R408). -/
def CAM_O_STAT_LAST_BUF (k : Nat) : Fld := ⟨0x160818 + 0x20 * k, 31, 29⟩
/-- CAM_O_STAT.FLAGS (R408). -/
def CAM_O_STAT_FLAGS (k : Nat) : Fld := ⟨0x160818 + 0x20 * k, 4, 1⟩
/-- CAM_O_STAT.VALID (R408). -/
def CAM_O_STAT_VALID (k : Nat) : Fld := ⟨0x160818 + 0x20 * k, 0, 0⟩
/-- CAM_O_FCOUNT (R408). -/
def CAM_O_FCOUNT (k : Nat) : Fld := ⟨0x16081C + 0x20 * k, 31, 0⟩
/-- CAM_O_CAUSE.DROP (R408). -/
def CAM_O_CAUSE_DROP : Fld := ⟨0x160900, 15, 8⟩
/-- CAM_O_CAUSE.DONE (R408). -/
def CAM_O_CAUSE_DONE : Fld := ⟨0x160900, 7, 0⟩
/-- CAM_O_CAUSE_EN.DROP (R408). -/
def CAM_O_CAUSE_EN_DROP : Fld := ⟨0x160904, 15, 8⟩
/-- CAM_O_CAUSE_EN.DONE (R408). -/
def CAM_O_CAUSE_EN_DONE : Fld := ⟨0x160904, 7, 0⟩
/-- HBM_CFG.SCRUB_EN (R423). -/
def HBM_CFG_SCRUB_EN (p : Nat) : Fld := ⟨0x170100 + 0x1000 * p, 31, 31⟩
/-- HBM_CFG.NR_K (R423). -/
def HBM_CFG_NR_K (p : Nat) : Fld := ⟨0x170100 + 0x1000 * p, 20, 16⟩
/-- HBM_CFG.NR_EN (R423). -/
def HBM_CFG_NR_EN (p : Nat) : Fld := ⟨0x170100 + 0x1000 * p, 8, 8⟩
/-- HBM_SCRUB.PERIOD (R423). -/
def HBM_SCRUB_PERIOD (p : Nat) : Fld := ⟨0x170104 + 0x1000 * p, 15, 0⟩
/-- HBM_STAT.TRAINED (R423). -/
def HBM_STAT_TRAINED (p : Nat) : Fld := ⟨0x170108 + 0x1000 * p, 31, 31⟩
/-- HBM_STAT.CACHED (R423). -/
def HBM_STAT_CACHED (p : Nat) : Fld := ⟨0x170108 + 0x1000 * p, 30, 30⟩
/-- HBM_STAT.SELF_REFRESH (R423). -/
def HBM_STAT_SELF_REFRESH (p : Nat) : Fld := ⟨0x170108 + 0x1000 * p, 29, 29⟩
/-- HBM_STAT.REF2X (R423). -/
def HBM_STAT_REF2X (p : Nat) : Fld := ⟨0x170108 + 0x1000 * p, 28, 28⟩
/-- HBM_STAT.TEMP (R423). -/
def HBM_STAT_TEMP (p : Nat) : Fld := ⟨0x170108 + 0x1000 * p, 7, 0⟩
/-- HBM_CE_CNT (R423). -/
def HBM_CE_CNT (p : Nat) : Fld := ⟨0x17010C + 0x1000 * p, 31, 0⟩
/-- HBM_CE_THR (R423). -/
def HBM_CE_THR (p : Nat) : Fld := ⟨0x170110 + 0x1000 * p, 31, 0⟩
/-- HBM_UE_CNT (R423). -/
def HBM_UE_CNT (p : Nat) : Fld := ⟨0x170114 + 0x1000 * p, 31, 0⟩
/-- HBM_UE_ADDR_LO (R423). -/
def HBM_UE_ADDR_LO (p : Nat) : Fld := ⟨0x170118 + 0x1000 * p, 31, 0⟩
/-- HBM_UE_ADDR_HI.PORT (R423). -/
def HBM_UE_ADDR_HI_PORT (p : Nat) : Fld := ⟨0x17011C + 0x1000 * p, 29, 24⟩
/-- HBM_UE_ADDR_HI.ADDR (R423). -/
def HBM_UE_ADDR_HI_ADDR (p : Nat) : Fld := ⟨0x17011C + 0x1000 * p, 7, 0⟩
/-- HBM_ODECC_CNT (R423). -/
def HBM_ODECC_CNT (p : Nat) : Fld := ⟨0x170120 + 0x1000 * p, 31, 0⟩
/-- HBM_NR_CNT (R423). -/
def HBM_NR_CNT (p : Nat) : Fld := ⟨0x170124 + 0x1000 * p, 31, 0⟩
/-- HBM_FWD_CNT (R423). -/
def HBM_FWD_CNT (p : Nat) : Fld := ⟨0x170128 + 0x1000 * p, 31, 0⟩
/-- HBM_CLS_RD (R423). -/
def HBM_CLS_RD (p k : Nat) : Fld := ⟨0x170140 + 0x1000 * p + 0x4 * k, 31, 0⟩
/-- HBM_CLS_WR (R423). -/
def HBM_CLS_WR (p k : Nat) : Fld := ⟨0x170160 + 0x1000 * p + 0x4 * k, 31, 0⟩
/-- HBM_CLS_BASE (R424). -/
def HBM_CLS_BASE (k : Nat) : Fld := ⟨0x170180 + 0x8 * k, 31, 0⟩
/-- HBM_CLS_SIZE (R424). -/
def HBM_CLS_SIZE (k : Nat) : Fld := ⟨0x170184 + 0x8 * k, 31, 0⟩
/-- HBM_TFULL (R424). -/
def HBM_TFULL : Fld := ⟨0x1701C0, 31, 0⟩
/-- HBM_TRAIN.REASON (R424). -/
def HBM_TRAIN_REASON : Fld := ⟨0x1701C4, 31, 24⟩
/-- HBM_TRAIN.FULL (R424). -/
def HBM_TRAIN_FULL : Fld := ⟨0x1701C4, 3, 0⟩
/-- SLC_STAT.C_BUSY (R437). -/
def SLC_STAT_C_BUSY : Fld := ⟨0x178100, 31, 31⟩
/-- SLC_STAT.D_BUSY (R437). -/
def SLC_STAT_D_BUSY : Fld := ⟨0x178100, 30, 30⟩
/-- SLC_TIE.PTR (R437). -/
def SLC_TIE_PTR : Fld := ⟨0x178104, 2, 0⟩
/-- SLC_ERR.CODE (R437). -/
def SLC_ERR_CODE : Fld := ⟨0x178108, 31, 24⟩
/-- SLC_ERR.USER (R437). -/
def SLC_ERR_USER : Fld := ⟨0x178108, 16, 16⟩
/-- SLC_ERR.PARTITION (R437). -/
def SLC_ERR_PARTITION : Fld := ⟨0x178108, 2, 0⟩
/-- SLC_ERR_BLOCK (R437). -/
def SLC_ERR_BLOCK : Fld := ⟨0x17810C, 31, 0⟩
/-- SLC_ERR_CNT (R437). -/
def SLC_ERR_CNT : Fld := ⟨0x178110, 31, 0⟩
/-- SLC_REJ.REASON (R437). -/
def SLC_REJ_REASON : Fld := ⟨0x178114, 31, 24⟩
/-- SLC_REJ.PARTITION (R437). -/
def SLC_REJ_PARTITION : Fld := ⟨0x178114, 2, 0⟩
/-- SLC_RAW_CNT (R437). -/
def SLC_RAW_CNT : Fld := ⟨0x178118, 31, 0⟩
/-- SLC_C_IN (R437). -/
def SLC_C_IN : Fld := ⟨0x17811C, 31, 0⟩
/-- SLC_C_OUT (R437). -/
def SLC_C_OUT : Fld := ⟨0x178120, 31, 0⟩
/-- SLC_D_OUT (R437). -/
def SLC_D_OUT : Fld := ⟨0x178124, 31, 0⟩
/-- SLC_PEND.BYTES (R437). -/
def SLC_PEND_BYTES (k : Nat) : Fld := ⟨0x178140 + 0x4 * k, 16, 0⟩
/-- PWR_STAT.STATE (R459). -/
def PWR_STAT_STATE : Fld := ⟨0x2100, 31, 29⟩
/-- PWR_STAT.MAIN_EN (R459). -/
def PWR_STAT_MAIN_EN : Fld := ⟨0x2100, 28, 28⟩
/-- PWR_STAT.MAIN_PG (R459). -/
def PWR_STAT_MAIN_PG : Fld := ⟨0x2100, 27, 27⟩
/-- PWR_STAT.PENDING_WAKE (R459). -/
def PWR_STAT_PENDING_WAKE : Fld := ⟨0x2100, 26, 26⟩
/-- PWR_WAKE_EN.REQUEST (R459). -/
def PWR_WAKE_EN_REQUEST : Fld := ⟨0x2104, 3, 3⟩
/-- PWR_WAKE_EN.TIMED (R459). -/
def PWR_WAKE_EN_TIMED : Fld := ⟨0x2104, 2, 2⟩
/-- PWR_WAKE_EN.JMP (R459). -/
def PWR_WAKE_EN_JMP : Fld := ⟨0x2104, 1, 1⟩
/-- PWR_WAKE_EN.WAKE_N (R459). -/
def PWR_WAKE_EN_WAKE_N : Fld := ⟨0x2104, 0, 0⟩
/-- PWR_WAKE_SRC.SRC (R459). -/
def PWR_WAKE_SRC_SRC : Fld := ⟨0x2108, 3, 0⟩
/-- PWR_WAKE_AT_LO (R459). -/
def PWR_WAKE_AT_LO : Fld := ⟨0x210C, 31, 0⟩
/-- PWR_WAKE_AT_HI (R459). -/
def PWR_WAKE_AT_HI : Fld := ⟨0x2110, 31, 0⟩
/-- PWR_LAST.CAUSE (R459). -/
def PWR_LAST_CAUSE : Fld := ⟨0x2114, 31, 24⟩
/-- PWR_TRIP.SENSOR (R459). -/
def PWR_TRIP_SENSOR : Fld := ⟨0x2118, 22, 16⟩
/-- PWR_TRIP.TEMP (R459). -/
def PWR_TRIP_TEMP : Fld := ⟨0x2118, 15, 0⟩
/-- PWR_SHUTDOWNS (R459). -/
def PWR_SHUTDOWNS : Fld := ⟨0x211C, 31, 0⟩
/-- PWR_TIE.PTR (R459). -/
def PWR_TIE_PTR : Fld := ⟨0x2120, 2, 0⟩
/-- CLK_STAT.AOCLK (R460). -/
def CLK_STAT_AOCLK : Fld := ⟨0x1100, 19, 19⟩
/-- CLK_STAT.REF_LANE (R460). -/
def CLK_STAT_REF_LANE : Fld := ⟨0x1100, 18, 18⟩
/-- CLK_STAT.REF_PCIE (R460). -/
def CLK_STAT_REF_PCIE : Fld := ⟨0x1100, 17, 17⟩
/-- CLK_STAT.REF_NET (R460). -/
def CLK_STAT_REF_NET : Fld := ⟨0x1100, 16, 16⟩
/-- CLK_STAT.HUB (R460). -/
def CLK_STAT_HUB : Fld := ⟨0x1100, 5, 5⟩
/-- CLK_STAT.DEC (R460). -/
def CLK_STAT_DEC : Fld := ⟨0x1100, 4, 4⟩
/-- CLK_STAT.RCLK (R460). -/
def CLK_STAT_RCLK : Fld := ⟨0x1100, 3, 0⟩
/-- CLK_UNLOCKS (R460). -/
def CLK_UNLOCKS : Fld := ⟨0x1104, 31, 0⟩
/-- THM_CFG.MODE (R461). -/
def THM_CFG_MODE : Fld := ⟨0x4100, 31, 30⟩
/-- THM_CFG.ON (R461). -/
def THM_CFG_ON : Fld := ⟨0x4100, 29, 22⟩
/-- THM_CFG.OFF (R461). -/
def THM_CFG_OFF : Fld := ⟨0x4100, 21, 14⟩
/-- THM_CFG.WARN (R461). -/
def THM_CFG_WARN : Fld := ⟨0x4100, 13, 6⟩
/-- THM_THROT.GRACE (R461). -/
def THM_THROT_GRACE : Fld := ⟨0x4104, 31, 16⟩
/-- THM_THROT.CAP (R461). -/
def THM_THROT_CAP : Fld := ⟨0x4104, 8, 0⟩
/-- THM_PAUSE.DUTY_MAX (R461). -/
def THM_PAUSE_DUTY_MAX : Fld := ⟨0x4108, 15, 8⟩
/-- THM_PAUSE.DUTY (R461). -/
def THM_PAUSE_DUTY : Fld := ⟨0x4108, 7, 0⟩
/-- THM_MAX.VALID (R461). -/
def THM_MAX_VALID : Fld := ⟨0x410C, 31, 31⟩
/-- THM_MAX.SENSOR (R461). -/
def THM_MAX_SENSOR : Fld := ⟨0x410C, 22, 16⟩
/-- THM_MAX.TEMP (R461). -/
def THM_MAX_TEMP : Fld := ⟨0x410C, 15, 0⟩
/-- THM_STAT.THROTTLING (R461). -/
def THM_STAT_THROTTLING : Fld := ⟨0x4110, 31, 31⟩
/-- THM_STAT.ENFORCED (R461). -/
def THM_STAT_ENFORCED : Fld := ⟨0x4110, 30, 30⟩
/-- THM_STAT.D (R461). -/
def THM_STAT_D : Fld := ⟨0x4110, 23, 16⟩
/-- THM_STAT.THERM (R461). -/
def THM_STAT_THERM : Fld := ⟨0x4110, 8, 0⟩
/-- THM_ENF_CNT (R461). -/
def THM_ENF_CNT : Fld := ⟨0x4114, 31, 0⟩
/-- THM_T.VALID (R461). -/
def THM_T_VALID (k : Nat) : Fld := ⟨0x5100 + 0x4 * k, 31, 31⟩
/-- THM_T.STUCK (R461). -/
def THM_T_STUCK (k : Nat) : Fld := ⟨0x5100 + 0x4 * k, 30, 30⟩
/-- THM_T.RANGE (R461). -/
def THM_T_RANGE (k : Nat) : Fld := ⟨0x5100 + 0x4 * k, 29, 29⟩
/-- THM_T.TEMP (R461). -/
def THM_T_TEMP (k : Nat) : Fld := ⟨0x5100 + 0x4 * k, 15, 0⟩
/-- THM_PK.PEAK (R461). -/
def THM_PK_PEAK (k : Nat) : Fld := ⟨0x5300 + 0x4 * k, 15, 0⟩
/-- TRM_CFG.FORCE (R462). -/
def TRM_CFG_FORCE : Fld := ⟨0x8100, 31, 31⟩
/-- TRM_CFG.DELTA (R462). -/
def TRM_CFG_DELTA : Fld := ⟨0x8100, 7, 0⟩
/-- TRM_REQ.ZONE (R462). -/
def TRM_REQ_ZONE : Fld := ⟨0x8104, 4, 0⟩
/-- TRM_STAT.PENDING (R462). -/
def TRM_STAT_PENDING (k : Nat) : Fld := ⟨0x8400 + 0x10 * k, 31, 31⟩
/-- TRM_STAT.RUNNING (R462). -/
def TRM_STAT_RUNNING (k : Nat) : Fld := ⟨0x8400 + 0x10 * k, 30, 30⟩
/-- TRM_STAT.LIMIT (R462). -/
def TRM_STAT_LIMIT (k : Nat) : Fld := ⟨0x8400 + 0x10 * k, 29, 29⟩
/-- TRM_STAT.LAST_T (R462). -/
def TRM_STAT_LAST_T (k : Nat) : Fld := ⟨0x8400 + 0x10 * k, 15, 0⟩
/-- TRM_RUNS (R462). -/
def TRM_RUNS (k : Nat) : Fld := ⟨0x8404 + 0x10 * k, 31, 0⟩
/-- TRM_DEFER (R462). -/
def TRM_DEFER (k : Nat) : Fld := ⟨0x8408 + 0x10 * k, 31, 0⟩
/-- HST_BIND.TRANSPORT (R488). -/
def HST_BIND_TRANSPORT (p : Nat) : Fld := ⟨0x190100 + 0x1000 * p, 31, 30⟩
/-- HST_BIND.PORT (R488). -/
def HST_BIND_PORT (p : Nat) : Fld := ⟨0x190100 + 0x1000 * p, 26, 24⟩
/-- HST_BIND.FUNC (R488). -/
def HST_BIND_FUNC (p : Nat) : Fld := ⟨0x190100 + 0x1000 * p, 18, 16⟩
/-- HST_BIND.VECTORS (R488). -/
def HST_BIND_VECTORS (p : Nat) : Fld := ⟨0x190100 + 0x1000 * p, 6, 0⟩
/-- HST_RING_CTRL.RUN (R488). -/
def HST_RING_CTRL_RUN (p : Nat) : Fld := ⟨0x190104 + 0x1000 * p, 31, 31⟩
/-- HST_RING_CTRL.RSPACE (R488). -/
def HST_RING_CTRL_RSPACE (p : Nat) : Fld := ⟨0x190104 + 0x1000 * p, 30, 30⟩
/-- HST_RING_CTRL.LOG2 (R488). -/
def HST_RING_CTRL_LOG2 (p : Nat) : Fld := ⟨0x190104 + 0x1000 * p, 3, 0⟩
/-- HST_CMD_BASE_LO.ADDR (R488). -/
def HST_CMD_BASE_LO_ADDR (p : Nat) : Fld := ⟨0x190108 + 0x1000 * p, 31, 12⟩
/-- HST_CMD_BASE_HI (R488). -/
def HST_CMD_BASE_HI (p : Nat) : Fld := ⟨0x19010C + 0x1000 * p, 31, 0⟩
/-- HST_CPL_BASE_LO.ADDR (R488). -/
def HST_CPL_BASE_LO_ADDR (p : Nat) : Fld := ⟨0x190110 + 0x1000 * p, 31, 12⟩
/-- HST_CPL_BASE_HI (R488). -/
def HST_CPL_BASE_HI (p : Nat) : Fld := ⟨0x190114 + 0x1000 * p, 31, 0⟩
/-- HST_CMD_TAIL.IDX (R488). -/
def HST_CMD_TAIL_IDX (p : Nat) : Fld := ⟨0x190118 + 0x1000 * p, 15, 0⟩
/-- HST_CMD_HEAD.IDX (R488). -/
def HST_CMD_HEAD_IDX (p : Nat) : Fld := ⟨0x19011C + 0x1000 * p, 15, 0⟩
/-- HST_CPL_TAIL.IDX (R488). -/
def HST_CPL_TAIL_IDX (p : Nat) : Fld := ⟨0x190120 + 0x1000 * p, 15, 0⟩
/-- HST_CPL_HEAD.IDX (R488). -/
def HST_CPL_HEAD_IDX (p : Nat) : Fld := ⟨0x190124 + 0x1000 * p, 15, 0⟩
/-- HST_RING_STAT.STOPPED (R488). -/
def HST_RING_STAT_STOPPED (p : Nat) : Fld := ⟨0x190128 + 0x1000 * p, 31, 31⟩
/-- HST_RING_STAT.REASON (R488). -/
def HST_RING_STAT_REASON (p : Nat) : Fld := ⟨0x190128 + 0x1000 * p, 23, 16⟩
/-- HST_RING_STAT.OUTSTANDING (R488). -/
def HST_RING_STAT_OUTSTANDING (p : Nat) : Fld := ⟨0x190128 + 0x1000 * p, 15, 0⟩
/-- HST_CMDREJ.REASON (R488). -/
def HST_CMDREJ_REASON (p : Nat) : Fld := ⟨0x19012C + 0x1000 * p, 31, 24⟩
/-- HST_CMDREJ.TAG (R488). -/
def HST_CMDREJ_TAG (p : Nat) : Fld := ⟨0x19012C + 0x1000 * p, 15, 0⟩
/-- HST_WREJ (R488). -/
def HST_WREJ (p : Nat) : Fld := ⟨0x190130 + 0x1000 * p, 31, 0⟩
/-- HST_SEMRES.STATUS (R488). -/
def HST_SEMRES_STATUS (p : Nat) : Fld := ⟨0x190134 + 0x1000 * p, 31, 24⟩
/-- HST_SEMRES.SEM (R488). -/
def HST_SEMRES_SEM (p : Nat) : Fld := ⟨0x190134 + 0x1000 * p, 5, 0⟩
/-- HST_JMP_CFG.IPV6 (R488). -/
def HST_JMP_CFG_IPV6 (p : Nat) : Fld := ⟨0x190140 + 0x1000 * p, 31, 31⟩
/-- HST_JMP_CFG.PORT (R488). -/
def HST_JMP_CFG_PORT (p : Nat) : Fld := ⟨0x190140 + 0x1000 * p, 26, 24⟩
/-- HST_JMP_CFG.SPORT (R488). -/
def HST_JMP_CFG_SPORT (p : Nat) : Fld := ⟨0x190140 + 0x1000 * p, 15, 0⟩
/-- HST_JMP_ADDR (R488). -/
def HST_JMP_ADDR (p k : Nat) : Fld := ⟨0x190144 + 0x1000 * p + 0x4 * k, 31, 0⟩
/-- HST_JMP_DROP (R488). -/
def HST_JMP_DROP (p : Nat) : Fld := ⟨0x190154 + 0x1000 * p, 31, 0⟩
/-- HST_JMP_SEQ (R488). -/
def HST_JMP_SEQ (p : Nat) : Fld := ⟨0x190158 + 0x1000 * p, 31, 0⟩
/-- HST_JMP_DSEQ (R488). -/
def HST_JMP_DSEQ (p : Nat) : Fld := ⟨0x19015C + 0x1000 * p, 31, 0⟩
/-- HST_HWIN_BASE_LO.ADDR (R488). -/
def HST_HWIN_BASE_LO_ADDR (p k : Nat) : Fld := ⟨0x190180 + 0x1000 * p + 0x10 * k, 31, 12⟩
/-- HST_HWIN_BASE_HI (R488). -/
def HST_HWIN_BASE_HI (p k : Nat) : Fld := ⟨0x190184 + 0x1000 * p + 0x10 * k, 31, 0⟩
/-- HST_HWIN_SIZE_LO.SIZE (R488). -/
def HST_HWIN_SIZE_LO_SIZE (p k : Nat) : Fld := ⟨0x190188 + 0x1000 * p + 0x10 * k, 31, 12⟩
/-- HST_HWIN_SIZE_HI (R488). -/
def HST_HWIN_SIZE_HI (p k : Nat) : Fld := ⟨0x19018C + 0x1000 * p + 0x10 * k, 31, 0⟩
/-- HST_REG_BASE (R488). -/
def HST_REG_BASE (p k : Nat) : Fld := ⟨0x1901C0 + 0x1000 * p + 0x8 * k, 31, 0⟩
/-- HST_REG_SIZE (R488). -/
def HST_REG_SIZE (p k : Nat) : Fld := ⟨0x1901C4 + 0x1000 * p + 0x8 * k, 31, 0⟩
/-- HST_EPEND (R488). -/
def HST_EPEND (p k : Nat) : Fld := ⟨0x190400 + 0x1000 * p + 0x4 * k, 31, 0⟩
/-- HST_ADMIN.ACTING (R489). -/
def HST_ADMIN_ACTING : Fld := ⟨0x190C00, 6, 4⟩
/-- HST_ADMIN.ADMIN (R489). -/
def HST_ADMIN_ADMIN : Fld := ⟨0x190C00, 2, 0⟩
/-- HST_JMPPORT.PORT (R489). -/
def HST_JMPPORT_PORT : Fld := ⟨0x190C04, 15, 0⟩
/-- HST_WTIE.PTR (R489). -/
def HST_WTIE_PTR : Fld := ⟨0x190C08, 2, 0⟩
/-- HST_SEM_TIE.PTR (R489). -/
def HST_SEM_TIE_PTR : Fld := ⟨0x190C0C, 2, 0⟩
/-- HST_JMP_BAD (R489). -/
def HST_JMP_BAD : Fld := ⟨0x190C10, 31, 0⟩
/-- HST_SEM.HELD (R489). -/
def HST_SEM_HELD (k : Nat) : Fld := ⟨0x190D00 + 0x4 * k, 31, 31⟩
/-- HST_SEM.HOLDER (R489). -/
def HST_SEM_HOLDER (k : Nat) : Fld := ⟨0x190D00 + 0x4 * k, 6, 4⟩
/-- HST_SEM.RELEASE (R489). -/
def HST_SEM_RELEASE (k : Nat) : Fld := ⟨0x190D00 + 0x4 * k, 1, 1⟩
/-- HST_SEM.ACQUIRE (R489). -/
def HST_SEM_ACQUIRE (k : Nat) : Fld := ⟨0x190D00 + 0x4 * k, 0, 0⟩
/-- EVT_SEL.SEL (R490). -/
def EVT_SEL_SEL : Fld := ⟨0x198100, 10, 0⟩
/-- EVT_ROUTE.PARTS (R490). -/
def EVT_ROUTE_PARTS : Fld := ⟨0x198104, 23, 16⟩
/-- EVT_ROUTE.VECTOR (R490). -/
def EVT_ROUTE_VECTOR : Fld := ⟨0x198104, 5, 0⟩
/-- EVT_RAISED (R490). -/
def EVT_RAISED : Fld := ⟨0x198108, 31, 0⟩
/-- EVT_JMP_LOST (R490). -/
def EVT_JMP_LOST : Fld := ⟨0x19810C, 31, 0⟩
/-- FWU_BOOT.STAGE (R512). -/
def FWU_BOOT_STAGE : Fld := ⟨0x1A0100, 31, 30⟩
/-- FWU_BOOT.SLOT (R512). -/
def FWU_BOOT_SLOT : Fld := ⟨0x1A0100, 29, 29⟩
/-- FWU_BOOT.TRIAL (R512). -/
def FWU_BOOT_TRIAL : Fld := ⟨0x1A0100, 28, 28⟩
/-- FWU_BOOT.TRIES (R512). -/
def FWU_BOOT_TRIES : Fld := ⟨0x1A0100, 27, 26⟩
/-- FWU_BOOT.ALT (R512). -/
def FWU_BOOT_ALT : Fld := ⟨0x1A0100, 25, 25⟩
/-- FWU_BOOT.CFG (R512). -/
def FWU_BOOT_CFG : Fld := ⟨0x1A0100, 24, 24⟩
/-- FWU_BOOT.WDOG (R512). -/
def FWU_BOOT_WDOG : Fld := ⟨0x1A0100, 15, 0⟩
/-- FWU_DL.STATE (R512). -/
def FWU_DL_STATE : Fld := ⟨0x1A0104, 31, 30⟩
/-- FWU_DL.SLOT (R512). -/
def FWU_DL_SLOT : Fld := ⟨0x1A0104, 29, 29⟩
/-- FWU_DL.PRESENT (R512). -/
def FWU_DL_PRESENT : Fld := ⟨0x1A0104, 24, 16⟩
/-- FWU_DL.CHUNKS (R512). -/
def FWU_DL_CHUNKS : Fld := ⟨0x1A0104, 8, 0⟩
/-- FWU_REJ.REASON (R512). -/
def FWU_REJ_REASON : Fld := ⟨0x1A0108, 31, 24⟩
/-- FWU_SVN.SVN (R512). -/
def FWU_SVN_SVN : Fld := ⟨0x1A010C, 6, 0⟩
/-- FWU_SEQ (R512). -/
def FWU_SEQ : Fld := ⟨0x1A0110, 31, 0⟩
/-- FWU_VER (R512). -/
def FWU_VER : Fld := ⟨0x1A0114, 31, 0⟩
/-- FWU_CFMT.CFMT (R512). -/
def FWU_CFMT_CFMT : Fld := ⟨0x1A0118, 15, 8⟩
/-- FWU_CFMT.MIGRATED (R512). -/
def FWU_CFMT_MIGRATED : Fld := ⟨0x1A0118, 0, 0⟩
/-- FWU_PAUSE.US (R512). -/
def FWU_PAUSE_US : Fld := ⟨0x1A011C, 19, 0⟩
/-- FWU_TFULL (R512). -/
def FWU_TFULL : Fld := ⟨0x1A0120, 31, 0⟩
/-- FWU_RCV_CTRL.SLOT (R512). -/
def FWU_RCV_CTRL_SLOT : Fld := ⟨0x1A0140, 31, 31⟩
/-- FWU_RCV_CTRL.VERIFY (R512). -/
def FWU_RCV_CTRL_VERIFY : Fld := ⟨0x1A0140, 1, 1⟩
/-- FWU_RCV_CTRL.PROGRAM (R512). -/
def FWU_RCV_CTRL_PROGRAM : Fld := ⟨0x1A0140, 0, 0⟩
/-- FWU_RCV_CHUNK.CHUNK (R512). -/
def FWU_RCV_CHUNK_CHUNK : Fld := ⟨0x1A0144, 13, 0⟩
/-- FWU_RCV_LEN.LEN (R512). -/
def FWU_RCV_LEN_LEN : Fld := ⟨0x1A0148, 11, 0⟩
/-- FWU_RCV_STAT.BUSY (R512). -/
def FWU_RCV_STAT_BUSY : Fld := ⟨0x1A014C, 31, 31⟩
/-- FWU_RCV_STAT.REASON (R512). -/
def FWU_RCV_STAT_REASON : Fld := ⟨0x1A014C, 23, 16⟩
/-- FWU_RCV_DATA (R512). -/
def FWU_RCV_DATA (k : Nat) : Fld := ⟨0x1A0800 + 0x4 * k, 31, 0⟩
/-- ATT_KEYDIG (R513). -/
def ATT_KEYDIG (k : Nat) : Fld := ⟨0x1A1100 + 0x4 * k, 31, 0⟩
/-- ATT_STAT.BUSY (R513). -/
def ATT_STAT_BUSY : Fld := ⟨0x1A1120, 31, 31⟩
/-- ATT_STAT.COUNT (R513). -/
def ATT_STAT_COUNT : Fld := ⟨0x1A1120, 15, 0⟩
/-- ATT_FUSE.KEY0_REVOKED (R513). -/
def ATT_FUSE_KEY0_REVOKED : Fld := ⟨0x1A1124, 1, 1⟩
/-- ATT_FUSE.KEYS_OK (R513). -/
def ATT_FUSE_KEYS_OK : Fld := ⟨0x1A1124, 0, 0⟩
/-- SYS_DEV_ID (R528). -/
def SYS_DEV_ID : Fld := ⟨0x100, 31, 0⟩
/-- SYS_DEV_REV.LETTER (R528). -/
def SYS_DEV_REV_LETTER : Fld := ⟨0x104, 15, 8⟩
/-- SYS_DEV_REV.NUMBER (R528). -/
def SYS_DEV_REV_NUMBER : Fld := ⟨0x104, 7, 0⟩
/-- SYS_UID_LO (R528). -/
def SYS_UID_LO : Fld := ⟨0x108, 31, 0⟩
/-- SYS_UID_HI (R528). -/
def SYS_UID_HI : Fld := ⟨0x10C, 31, 0⟩
/-- SYS_RST_CAUSE.CAUSE (R528). -/
def SYS_RST_CAUSE_CAUSE : Fld := ⟨0x110, 7, 0⟩
/-- SYS_WARM_CNT (R528). -/
def SYS_WARM_CNT : Fld := ⟨0x114, 31, 0⟩
/-- SYS_BADADDR.OFF (R528). -/
def SYS_BADADDR_OFF : Fld := ⟨0x118, 31, 31⟩
/-- SYS_BADADDR.SIZE (R528). -/
def SYS_BADADDR_SIZE : Fld := ⟨0x118, 30, 30⟩
/-- SYS_BADADDR.FW (R528). -/
def SYS_BADADDR_FW : Fld := ⟨0x118, 27, 27⟩
/-- SYS_BADADDR.PARTITION (R528). -/
def SYS_BADADDR_PARTITION : Fld := ⟨0x118, 26, 24⟩
/-- SYS_BADADDR.ADDR (R528). -/
def SYS_BADADDR_ADDR : Fld := ⟨0x118, 23, 2⟩
/-- SYS_BADCNT (R528). -/
def SYS_BADCNT : Fld := ⟨0x11C, 31, 0⟩
/-- SYS_SCRATCH (R528). -/
def SYS_SCRATCH (k : Nat) : Fld := ⟨0x140 + 0x4 * k, 31, 0⟩
/-- SYS_SCHG (R520). -/
def SYS_SCHG (k : Nat) : Fld := ⟨0x200 + 0x4 * k, 31, 0⟩
/-- SYS_FLT (R520). -/
def SYS_FLT (k : Nat) : Fld := ⟨0x240 + 0x4 * k, 31, 0⟩
/-- ENC_S_ROIr_CFG_EN of local session `k` in page 0x150 + p (R310). -/
def ENC_S_ROI_CFG_EN (p k r : Nat) : Fld := ⟨0x150500 + 0x1000 * p + 0x200 * k + 8 * r, 31, 31⟩
/-- ENC_S_ROIr_CFG_OFFSET of local session `k` in page 0x150 + p (R310). -/
def ENC_S_ROI_CFG_OFFSET (p k r : Nat) : Fld := ⟨0x150500 + 0x1000 * p + 0x200 * k + 8 * r, 29, 24⟩
/-- ENC_S_ROIr_CFG of local session `k` in page 0x150 + p (R310). -/
def ENC_S_ROI_CFG (p k r : Nat) : Fld := ⟨0x150500 + 0x1000 * p + 0x200 * k + 8 * r, 31, 0⟩
/-- ENC_S_ROIr_RECT of local session `k` in page 0x150 + p (R310). -/
def ENC_S_ROI_RECT (p k r : Nat) : Fld := ⟨0x150504 + 0x1000 * p + 0x200 * k + 8 * r, 31, 0⟩

end Sys2Proof.Machine
end

