-- ==== Sys2Proof/Machine/State.lean ====
section
/-!
DEFINITION. The state of the device, as plain data: the register file of every page, the memories, what each block holds
beside its registers, the queue of waiting commands, and the model's own record of what leaves the device.
-/

namespace Sys2Proof.Machine

/-- Reasons for which a command stops the model. The specification gives every command an effect, so no meaning raises
one. -/
inductive Fault where
  /-- Raised by no meaning; safe, since no command ends in it. -/
  | none
  deriving DecidableEq, Repr

/-- Reasons for which a command has no meaning in the model. -/
inductive Refusal where
  /-- Raised by the dispatch for a command whose meaning is not written yet; safe, since nothing is claimed of it. -/
  | notModelled (mnemonic : String)
  deriving DecidableEq, Repr

/-- The state of the device. -/
structure State where
  /-- Registers by byte address (R514); an unlisted register holds its reset value (R526). -/
  regs : FMap Word := []
  /-- HBM by byte address, 0 to 0x17_FFFF_FFFF (R409, R410); an unlisted byte reads 0 (log 2). -/
  hbm : FMap Byte := []
  /-- Host memory behind the PCIe ports, key port·2^64 + address; an unlisted byte reads 0 (log 2). -/
  hostMem : FMap Byte := []
  /-- Bytes of HBM whose reads are poisoned: those of 64-bit words in which two bits are bad (R420; log 61). -/
  poison : List Nat := []
  panel : Panel := {}
  ras : Raster := {}
  lnk : Link := {}
  cor : Cor := {}
  str : Intake := {}
  dec : Decode := {}
  asm : Asm := {}
  enc : Enc := {}
  egr : Egr := {}
  tim : Time := {}
  cue : Cue := {}
  rim : Rim := {}
  cam : Cam := {}
  slc : Slc := {}
  pwr : Power := {}
  hst : Hst := {}
  evt : Evt := {}
  fwu : Fwu := {}
  /-- What has left the device, newest first: the model's own record (log 4). -/
  out : List Out := []
  /-- Free values used so far: the model's own counter (log 3). -/
  free : Nat := 0
  /-- Commands waiting, first in, first out. -/
  pending : List Instr := []
  deriving DecidableEq, Repr, Inhabited

/-- The device right after a cold reset by VHV power-up (R525, R534): every register at its reset value, nothing held by
any block, memory unlisted, RESET_N still low. -/
def State.reset : State := { pwr := { resetLow := true, vhv := true } }

end Sys2Proof.Machine
end

