-- ==== Sys2Proof/Machine/Access.lean ====
section
/-!
DEFINITION. Reading and writing the parts of the state: registers and their fields, memory bytes, and the numbered tables
of each block. Every meaning goes through these.
-/

namespace Sys2Proof.Machine

/-! ## Registers -/

/-- The word of the register at byte address `a` (R514). -/
def rd (a : Nat) (s : State) : Word := FMap.get (resetWord a) s.regs a

/-- Sets the word of the register at byte address `a`. -/
def wr (a : Nat) (w : Word) (s : State) : State := { s with regs := FMap.set (resetWord a) s.regs a w }

/-- The value of a field. -/
def getF (f : Fld) (s : State) : Nat := bitsOf (rd f.addr s).toNat f.hi f.lo

/-- Sets a field; the register's other bits are kept. -/
def setF (f : Fld) (v : Nat) (s : State) : State :=
  wr f.addr (Word.ofNat (putBits (rd f.addr s).toNat f.hi f.lo v)) s

/-- A field reads nonzero. -/
def getB (f : Fld) (s : State) : Bool := decide (getF f s ≠ 0)

/-- Sets a one-bit field. -/
def setB (f : Fld) (b : Bool) (s : State) : State := setF f (bit b) s

/-- A counter that saturates at the top of its field counts one more. -/
def countF (f : Fld) (s : State) : State := setF f (satInc (2 ^ (f.hi + 1 - f.lo) - 1) (getF f s)) s

/-- A counter that wraps counts `n` more. -/
def addF (f : Fld) (n : Nat) (s : State) : State := setF f (getF f s + n) s

/-- The bits of `m` set in a field (a W1C cause register, a bitmap). -/
def orF (f : Fld) (m : Nat) (s : State) : State := setF f (Nat.lor (getF f s) m) s

/-- The bits of `m` cleared in a field. -/
def clearF (f : Fld) (m : Nat) (s : State) : State := setF f (Nat.xor (getF f s) (Nat.land (getF f s) m)) s

/-! ## Memory -/

/-- The first address above HBM (R410). -/
def hbmTop : Nat := 0x1800000000

/-- The stack that holds a byte of HBM (R410) is in FAULT: reads are poisoned and writes discarded (R422). -/
def stackDead (a : Nat) (s : State) : Bool := decide (getF (PG_STAT_STATE (0x170 + a / 256 % 4)) s = 7)

/-- A byte of HBM; above the range there is none (R410) and 0 is read (log 5). A poisoned byte reads as a free value (R420, R422;
log 61). -/
def hbmGet (a : Nat) (s : State) : Byte :=
  if hbmTop ≤ a then 0
  else if s.poison.contains a || stackDead a s then Config.poisonedByte s.free a
  else FMap.get 0 s.hbm a

/-- Writes a byte of HBM; above the range the write is refused (R410), and a stack in FAULT discards it (R422). A byte
written is good again (R420; log 61). -/
def hbmPut (a : Nat) (b : Byte) (s : State) : State :=
  if a < hbmTop && !stackDead a s then
    { s with hbm := FMap.set 0 s.hbm a b, poison := s.poison.filter (fun w => decide (w ≠ a)) } else s

/-- A read of `n` bytes at `a` of HBM returns poisoned data (R420, R422). -/
def hbmPoisoned (a n : Nat) (s : State) : Bool :=
  s.poison.any (fun b => decide (a ≤ b) && decide (b < a + n)) ||
  (decide (0 < n) && ((List.range 4).any (fun i =>
    decide (getF (PG_STAT_STATE (0x170 + i)) s = 7) &&
      (decide (1024 ≤ n + 255) || (List.range (min 5 (n / 256 + 2))).any (fun j =>
        decide ((a / 256 + j) % 4 = i) && decide (256 * (a / 256 + j) < a + n))))))

/-- What a read of the 32-bit word at `a` returns where it is poisoned (R420; log 61). -/
def poisonedWord (a : Nat) (s : State) : Nat :=
  ((List.range 4).map (fun i => (Config.poisonedByte s.free (a + i)).toNat * 256 ^ i)).sum

/-- Some word of HBM reads poisoned (R420, R422). -/
def hbmBad (s : State) : Bool :=
  !s.poison.isEmpty || (List.range 4).any (fun i => decide (getF (PG_STAT_STATE (0x170 + i)) s = 7))

/-- The 64-bit word `w` reads poisoned from now on (R420). -/
def poisonWord (w : Nat) (s : State) : State :=
  { s with poison := (List.range 8).map (fun i => 8 * w + i) ++ s.poison.filter (fun a => decide (a / 8 ≠ w)) }

/-- The key of a byte of the host memory behind PCIe port `port`. -/
def hostKey (port a : Nat) : Nat := port * 2 ^ 64 + a % 2 ^ 64

/-- Where bytes lie: HBM, or the host memory behind a PCIe port. -/
inductive Space where
  | hbm
  | host (port : Nat)
  deriving DecidableEq, Repr

/-- A byte of a space. -/
def memGet (sp : Space) (a : Nat) (s : State) : Byte :=
  match sp with
  | .hbm => hbmGet a s
  | .host p => FMap.get 0 s.hostMem (hostKey p a)

/-- Writes a byte of a space. -/
def memPut (sp : Space) (a : Nat) (b : Byte) (s : State) : State :=
  match sp with
  | .hbm => hbmPut a b s
  | .host p => { s with hostMem := FMap.set 0 s.hostMem (hostKey p a) b }

/-- `n` bytes from address `a`. -/
def memRead (sp : Space) (a n : Nat) (s : State) : List Byte := (List.range n).map (fun i => memGet sp (a + i) s)

/-- Bytes written from address `a` upwards. -/
def memWrite (sp : Space) : Nat → List Byte → State → State
  | _, [], s => s
  | a, b :: r, s => memWrite sp (a + 1) r (memPut sp a b s)

/-! ## Numbered tables -/

/-- What the state holds of raster group g. -/
def State.grp (s : State) (i : Nat) : GroupRun := FMap.get {} s.ras.groups i

/-- Sets what the state holds of raster group g. -/
def State.setGrp (i : Nat) (v : GroupRun) (s : State) : State :=
  { s with ras := { s.ras with groups := FMap.set {} s.ras.groups i v } }

/-- What the state holds of the pool portion of lane n. -/
def State.pool (s : State) (i : Nat) : Portion := FMap.get {} s.ras.pools i

/-- Sets what the state holds of the pool portion of lane n. -/
def State.setPool (i : Nat) (v : Portion) (s : State) : State :=
  { s with ras := { s.ras with pools := FMap.set {} s.ras.pools i v } }

/-- What the state holds of fan f. -/
def State.fan (s : State) (i : Nat) : Fan := FMap.get {} s.ras.fans i

/-- Sets what the state holds of fan f. -/
def State.setFan (i : Nat) (v : Fan) (s : State) : State :=
  { s with ras := { s.ras with fans := FMap.set {} s.ras.fans i v } }

/-- What the state holds of jet j. -/
def State.jet (s : State) (i : Nat) : Jet := FMap.get {} s.ras.jets i

/-- Sets what the state holds of jet j. -/
def State.setJet (i : Nat) (v : Jet) (s : State) : State :=
  { s with ras := { s.ras with jets := FMap.set {} s.ras.jets i v } }

/-- What the state holds of probe p. -/
def State.probe (s : State) (i : Nat) : Probe := FMap.get {} s.ras.probes i

/-- Sets what the state holds of probe p. -/
def State.setProbe (i : Nat) (v : Probe) (s : State) : State :=
  { s with ras := { s.ras with probes := FMap.set {} s.ras.probes i v } }

/-- What the state holds of lane n. -/
def State.lane (s : State) (i : Nat) : Lane := FMap.get {} s.lnk.lanes i

/-- Sets what the state holds of lane n. -/
def State.setLane (i : Nat) (v : Lane) (s : State) : State :=
  { s with lnk := { s.lnk with lanes := FMap.set {} s.lnk.lanes i v } }

/-- What the state holds of the live injection of LNK page i. -/
def State.injLive (s : State) (i : Nat) : Bool := FMap.get false s.lnk.injLive i

/-- Sets what the state holds of the live injection of LNK page i. -/
def State.setInjLive (i : Nat) (v : Bool) (s : State) : State :=
  { s with lnk := { s.lnk with injLive := FMap.set false s.lnk.injLive i v } }

/-- What the state holds of the correction state of lane n. -/
def State.tileCor (s : State) (i : Nat) : TileCor := FMap.get {} s.cor.tiles i

/-- Sets what the state holds of the correction state of lane n. -/
def State.setTileCor (i : Nat) (v : TileCor) (s : State) : State :=
  { s with cor := { s.cor with tiles := FMap.set {} s.cor.tiles i v } }

/-- What the state holds of stack slot k. -/
def State.slot (s : State) (i : Nat) : Slot := FMap.get {} s.panel.slots i

/-- Sets what the state holds of stack slot k. -/
def State.setSlot (i : Nat) (v : Slot) (s : State) : State :=
  { s with panel := { s.panel with slots := FMap.set {} s.panel.slots i v } }

/-- What the state holds of transfer LUT slot k, empty while unloaded. -/
def State.lut (s : State) (i : Nat) : List Nat := FMap.get [] s.panel.luts i

/-- Sets what the state holds of transfer LUT slot k, empty while unloaded. -/
def State.setLut (i : Nat) (v : List Nat) (s : State) : State :=
  { s with panel := { s.panel with luts := FMap.set [] s.panel.luts i v } }

/-- What the state holds of blend slot k, empty while unloaded. -/
def State.blendSlot (s : State) (i : Nat) : List Blend := FMap.get [] s.panel.blends i

/-- Sets what the state holds of blend slot k, empty while unloaded. -/
def State.setBlendSlot (i : Nat) (v : List Blend) (s : State) : State :=
  { s with panel := { s.panel with blends := FMap.set [] s.panel.blends i v } }

/-- What the state holds of a loaded output LUT, key 3·lane + channel; empty: reset contents. -/
def State.outLut (s : State) (i : Nat) : List Nat := FMap.get [] s.panel.outLuts i

/-- Sets what the state holds of a loaded output LUT, key 3·lane + channel; empty: reset contents. -/
def State.setOutLut (i : Nat) (v : List Nat) (s : State) : State :=
  { s with panel := { s.panel with outLuts := FMap.set [] s.panel.outLuts i v } }

/-- What the state holds of stream context i. -/
def State.ctx (s : State) (i : Nat) : Ctx := FMap.get {} s.str.ctxs i

/-- Sets what the state holds of stream context i. -/
def State.setCtx (i : Nat) (v : Ctx) (s : State) : State :=
  { s with str := { s.str with ctxs := FMap.set {} s.str.ctxs i v } }

/-- What the state holds of the binding of context i. -/
def State.binding (s : State) (i : Nat) : Binding := FMap.get {} s.dec.binds i

/-- Sets what the state holds of the binding of context i. -/
def State.setBinding (i : Nat) (v : Binding) (s : State) : State :=
  { s with dec := { s.dec with binds := FMap.set {} s.dec.binds i v } }

/-- What the state holds of plane i. -/
def State.plane (s : State) (i : Nat) : Plane := FMap.get {} s.asm.planes i

/-- Sets what the state holds of plane i. -/
def State.setPlane (i : Nat) (v : Plane) (s : State) : State :=
  { s with asm := { s.asm with planes := FMap.set {} s.asm.planes i v } }

/-- What the state holds of window i. -/
def State.win (s : State) (i : Nat) : Option Win := FMap.get none s.asm.wins i

/-- Sets what the state holds of window i. -/
def State.setWin (i : Nat) (v : Option Win) (s : State) : State :=
  { s with asm := { s.asm with wins := FMap.set none s.asm.wins i v } }

/-- What the state holds of loaded coefficient set i. -/
def State.coef (s : State) (i : Nat) : Option CoefSet := FMap.get none s.asm.coefs i

/-- Sets what the state holds of loaded coefficient set i. -/
def State.setCoef (i : Nat) (v : Option CoefSet) (s : State) : State :=
  { s with asm := { s.asm with coefs := FMap.set none s.asm.coefs i v } }

/-- What the state holds of encode session i. -/
def State.sess (s : State) (i : Nat) : Session := FMap.get {} s.enc.sessions i

/-- Sets what the state holds of encode session i. -/
def State.setSess (i : Nat) (v : Session) (s : State) : State :=
  { s with enc := { s.enc with sessions := FMap.set {} s.enc.sessions i v } }

/-- What the state holds of egress subscriber i. -/
def State.sub (s : State) (i : Nat) : Sub := FMap.get {} s.egr.subs i

/-- Sets what the state holds of egress subscriber i. -/
def State.setSub (i : Nat) (v : Sub) (s : State) : State :=
  { s with egr := { s.egr with subs := FMap.set {} s.egr.subs i v } }

/-- What the state holds of egress queue i. -/
def State.queue (s : State) (i : Nat) : Queue := FMap.get {} s.egr.queues i

/-- Sets what the state holds of egress queue i. -/
def State.setQueue (i : Nat) (v : Queue) (s : State) : State :=
  { s with egr := { s.egr with queues := FMap.set {} s.egr.queues i v } }

/-- What the state holds of egress port p. -/
def State.eport (s : State) (i : Nat) : EgrPort := FMap.get {} s.egr.ports i

/-- Sets what the state holds of egress port p. -/
def State.setEport (i : Nat) (v : EgrPort) (s : State) : State :=
  { s with egr := { s.egr with ports := FMap.set {} s.egr.ports i v } }

/-- What the state holds of the transmit timestamp queue of port p. -/
def State.txq (s : State) (i : Nat) : List TxStamp := FMap.get [] s.tim.txq i

/-- Sets what the state holds of the transmit timestamp queue of port p. -/
def State.setTxq (i : Nat) (v : List TxStamp) (s : State) : State :=
  { s with tim := { s.tim with txq := FMap.set [] s.tim.txq i v } }

/-- What the state holds of timer channel c. -/
def State.timer (s : State) (i : Nat) : Timer := FMap.get {} s.tim.timers i

/-- Sets what the state holds of timer channel c. -/
def State.setTimer (i : Nat) (v : Timer) (s : State) : State :=
  { s with tim := { s.tim with timers := FMap.set {} s.tim.timers i v } }

/-- What the state holds of cue list l. -/
def State.cueList (s : State) (i : Nat) : CueList := FMap.get {} s.cue.lists i

/-- Sets what the state holds of cue list l. -/
def State.setCueList (i : Nat) (v : CueList) (s : State) : State :=
  { s with cue := { s.cue with lists := FMap.set {} s.cue.lists i v } }

/-- What the state holds of an alpha override, 0 for none. -/
def State.alphaOv (s : State) (i : Nat) : Nat := FMap.get 0 s.cue.alphas i

/-- Sets what the state holds of an alpha override, 0 for none. -/
def State.setAlphaOv (i : Nat) (v : Nat) (s : State) : State :=
  { s with cue := { s.cue with alphas := FMap.set 0 s.cue.alphas i v } }

/-- What the state holds of window preset i. -/
def State.preset (s : State) (i : Nat) : Option Preset := FMap.get none s.cue.presets i

/-- Sets what the state holds of window preset i. -/
def State.setPreset (i : Nat) (v : Option Preset) (s : State) : State :=
  { s with cue := { s.cue with presets := FMap.set none s.cue.presets i v } }

/-- What the state holds of sensor i. -/
def State.sensor (s : State) (i : Nat) : Sensor := FMap.get {} s.cam.sensors i

/-- Sets what the state holds of sensor i. -/
def State.setSensor (i : Nat) (v : Sensor) (s : State) : State :=
  { s with cam := { s.cam with sensors := FMap.set {} s.cam.sensors i v } }

/-- What the state holds of the I3C queue of port p. -/
def State.i3cq (s : State) (i : Nat) : List I3c := FMap.get [] s.cam.i3c i

/-- Sets what the state holds of the I3C queue of port p. -/
def State.setI3cq (i : Nat) (v : List I3c) (s : State) : State :=
  { s with cam := { s.cam with i3c := FMap.set [] s.cam.i3c i v } }

/-- What the state holds of thermal sensor i. -/
def State.thSensor (s : State) (i : Nat) : ThSensor := FMap.get {} s.pwr.sensors i

/-- Sets what the state holds of thermal sensor i. -/
def State.setThSensor (i : Nat) (v : ThSensor) (s : State) : State :=
  { s with pwr := { s.pwr with sensors := FMap.set {} s.pwr.sensors i v } }

/-- What the state holds of trim zone z. -/
def State.zone (s : State) (i : Nat) : Zone := FMap.get {} s.pwr.zones i

/-- Sets what the state holds of trim zone z. -/
def State.setZone (i : Nat) (v : Zone) (s : State) : State :=
  { s with pwr := { s.pwr with zones := FMap.set {} s.pwr.zones i v } }

/-- What the state holds of partition p. -/
def State.prt (s : State) (i : Nat) : Part := FMap.get {} s.hst.parts i

/-- Sets what the state holds of partition p. -/
def State.setPrt (i : Nat) (v : Part) (s : State) : State :=
  { s with hst := { s.hst with parts := FMap.set {} s.hst.parts i v } }

/-- What the state holds of the MSI-X table of partition p. -/
def State.msixT (s : State) (i : Nat) : MsixTable := FMap.get {} s.hst.msix i

/-- Sets what the state holds of the MSI-X table of partition p. -/
def State.setMsixT (i : Nat) (v : MsixTable) (s : State) : State :=
  { s with hst := { s.hst with msix := FMap.set {} s.hst.msix i v } }

/-- What the state holds of the link of PCIe port p. -/
def State.linkUp (s : State) (i : Nat) : Bool := FMap.get false s.hst.links i

/-- Sets what the state holds of the link of PCIe port p. -/
def State.setLinkUp (i : Nat) (v : Bool) (s : State) : State :=
  { s with hst := { s.hst with links := FMap.set false s.hst.links i v } }

/-- What the state holds of a changed event route. -/
def State.route (s : State) (i : Nat) : Route := FMap.get {} s.evt.routes i

/-- Sets what the state holds of a changed event route. -/
def State.setRoute (i : Nat) (v : Route) (s : State) : State :=
  { s with evt := { s.evt with routes := FMap.set {} s.evt.routes i v } }

/-- What the state holds of raises of event n. -/
def State.raisedCnt (s : State) (i : Nat) : Nat := FMap.get 0 s.evt.raised i

/-- Sets what the state holds of raises of event n. -/
def State.setRaisedCnt (i : Nat) (v : Nat) (s : State) : State :=
  { s with evt := { s.evt with raised := FMap.set 0 s.evt.raised i v } }

/-- What the state holds of the queue of rim region r. -/
def State.rimQ (s : State) (i : Nat) : List RimUpdate := FMap.get [] s.rim.queues i

/-- Sets what the state holds of the queue of rim region r. -/
def State.setRimQ (i : Nat) (v : List RimUpdate) (s : State) : State :=
  { s with rim := { s.rim with queues := FMap.set [] s.rim.queues i v } }

/-- Time domain d: 0 A, 1 B (R332). -/
def State.dom (s : State) (d : Nat) : Domain := if d = 0 then s.tim.domA else s.tim.domB

/-- Sets time domain d. -/
def State.setDom (d : Nat) (v : Domain) (s : State) : State :=
  if d = 0 then { s with tim := { s.tim with domA := v } } else { s with tim := { s.tim with domB := v } }

/-- Something leaves the device. -/
def emit (o : Out) (s : State) : State := { s with out := o :: s.out }

/-- A fresh free value below `2^w` (log 3), and the state with the counter advanced. -/
def fresh (w : Nat) (s : State) : Nat × State := (Config.freeValue s.free % 2 ^ w, { s with free := s.free + 1 })

/-- `f` applied for each element of a list, in order. -/
def each {α : Type} (l : List α) (f : α → State → State) (s : State) : State := l.foldl (fun t a => f a t) s

/-- `f` applied where `b` holds. -/
def ifS (b : Bool) (f : State → State) (s : State) : State := if b then f s else s

end Sys2Proof.Machine
end

