-- ==== Sys2Proof/Machine/Frames.lean ====
section
/-!
DEFINITION. Ethernet frames as bytes: VLAN tag, IPv4, IPv6 and UDP headers, the FCS and the checksums (R213, R214, R314).
The layouts are those of the outside standards the specification names (log 21).
-/

namespace Sys2Proof.Machine

/-- The frame check sequence of IEEE 802.3: the reflected CRC-32 register after one bit. -/
def fcsBit (c : Nat) : Nat := if c % 2 = 1 then Nat.xor (c / 2) 0xEDB88320 else c / 2

/-- One byte into the FCS register. -/
def fcsByte (c b : Nat) : Nat :=
  fcsBit (fcsBit (fcsBit (fcsBit (fcsBit (fcsBit (fcsBit (fcsBit (Nat.xor c b))))))))

/-- The four FCS bytes of a frame, as they are sent. -/
def fcs (bs : List Byte) : List Byte :=
  wordBytes (Word.ofNat (Nat.xor (bs.foldl (fun c b => fcsByte c b.toNat) 0xFFFFFFFF) 0xFFFFFFFF))

/-- EtherType of a frame, past one VLAN tag. -/
def etherType (f : List Byte) : Nat := if beAt f 12 2 = 0x8100 then beAt f 16 2 else beAt f 12 2

/-- Where the payload of the frame begins, past one VLAN tag. -/
def l3Start (f : List Byte) : Nat := if beAt f 12 2 = 0x8100 then 18 else 14

/-- The VLAN identifier of a frame, 0 for an untagged one. -/
def frameVid (f : List Byte) : Nat := if beAt f 12 2 = 0x8100 then beAt f 14 2 % 4096 else 0

/-- The frame carries two VLAN tags or more. -/
def twoTags (f : List Byte) : Bool :=
  (decide (beAt f 12 2 = 0x8100) || decide (beAt f 12 2 = 0x88A8)) &&
  (decide (beAt f 16 2 = 0x8100) || decide (beAt f 16 2 = 0x88A8))

/-- The IP version at offset `o` (0 where there is none). -/
def ipVersion (f : List Byte) (o : Nat) : Nat := if o < f.length then beAt f o 1 / 16 else 0

/-- Length of the IP header at `o`. -/
def ipHeader (f : List Byte) (o : Nat) : Nat := if ipVersion f o = 4 then beAt f o 1 % 16 * 4 else 40

/-- The IP header at `o` carries UDP: IPv4 with protocol 17, or IPv6 with next header 17. -/
def ipUdp (f : List Byte) (o : Nat) : Bool :=
  (decide (ipVersion f o = 4) && decide (20 ≤ ipHeader f o) && decide (beAt f (o + 9) 1 = 17)) ||
  (decide (ipVersion f o = 6) && decide (beAt f (o + 6) 1 = 17))

/-- The ones' complement sum of 16-bit words; an odd last byte is the high half of its word. -/
def onesSum : List Byte → Nat → Nat
  | [], n => n
  | [a], n => n + 256 * a.toNat
  | a :: b :: r, n => onesSum r (n + 256 * a.toNat + b.toNat)

/-- The carries of a ones' complement sum folded in, and the sum complemented. -/
def onesFold (n : Nat) : Nat :=
  let a := n % 65536 + n / 65536
  let b := a % 65536 + a / 65536
  65535 - (b % 65536 + b / 65536) % 65536

/-- Two bytes of a frame replaced. -/
def put16 (f : List Byte) (o v : Nat) : List Byte := f.take o ++ natBe 2 v ++ f.drop (o + 2)

/-- The UDP checksum of the datagram whose IP header lies at `o` (RFC 768, RFC 8200), and for IPv4 the header checksum,
written into the frame (R314). -/
def putChecksums (f : List Byte) (o : Nat) : List Byte :=
  let h := ipHeader f o
  let u := o + h
  let len := beAt f (u + 4) 2
  let f := put16 f (u + 6) 0
  let addrs := if ipVersion f o = 4 then (f.drop (o + 12)).take 8 else (f.drop (o + 8)).take 32
  let sum := onesFold (onesSum ((f.drop u).take len) (onesSum addrs (17 + len)))
  let f := put16 f (u + 6) (if sum = 0 then 65535 else sum)
  if ipVersion f o = 4 then
    let f := put16 f (o + 10) 0
    put16 f (o + 10) (onesFold (onesSum ((f.drop o).take h) 0))
  else f

/-- A frame as it leaves a port: padded to 64 bytes with the FCS (R314). -/
def sealFrame (f : List Byte) : List Byte :=
  let f := f ++ List.replicate (60 - f.length) 0
  f ++ fcs f

/-- An Ethernet header without a tag. -/
def etherHeader (dst src typ : Nat) : List Byte := natBe 6 dst ++ natBe 6 src ++ natBe 2 typ

/-- An IP address given as words, in network order. -/
def addrBytes (ipv6 : Bool) (ws : List Word) : List Byte := (ws.take (if ipv6 then 4 else 1)).flatMap (fun w => natBe 4 w.toNat)

/-- The address of a port, in network order (log 57). -/
def portAddr (p : Nat) (ipv6 : Bool) : List Byte := natBe (if ipv6 then 16 else 4) (Config.portIp p ipv6)

/-- An IP header without options, its checksum still 0: protocol or next header, hop limit, payload length, addresses (log 57). -/
def ipBytes (ipv6 : Bool) (proto ttl len : Nat) (src dst : List Byte) : List Byte :=
  if ipv6 then natBe 4 0x60000000 ++ natBe 2 len ++ natBe 1 proto ++ natBe 1 ttl ++ src ++ dst
  else natBe 2 0x4500 ++ natBe 2 (20 + len) ++ natBe 4 0x4000 ++ natBe 1 ttl ++ natBe 1 proto ++ natBe 2 0 ++ src ++ dst

/-- A UDP datagram of a port, as a frame without its FCS (R314, R466; log 57). -/
def udpFrame (p mac : Nat) (ipv6 : Bool) (src dst : List Byte) (sport dport : Nat) (data : List Byte) : List Byte :=
  let n := 8 + data.length
  putChecksums (etherHeader (Config.hopMac p dst) mac (if ipv6 then 0x86DD else 0x0800) ++ ipBytes ipv6 17 64 n src dst ++
    natBe 2 sport ++ natBe 2 dport ++ natBe 2 n ++ natBe 2 0 ++ data) 14

/-- The PTP message of a frame whose payload begins at `o`: its transport (0 UDP/IPv4, 1 UDP/IPv6, 2 Ethernet) and the
message (R214, R337). -/
def ptpAt (f : List Byte) (o : Nat) : Option (Nat × List Byte) :=
  if ipUdp f o then
    let u := o + ipHeader f o
    if beAt f (u + 2) 2 = 319 ∨ beAt f (u + 2) 2 = 320 then some ((if ipVersion f o = 4 then 0 else 1), f.drop (u + 8)) else none
  else none

/-- The PTP message of a frame, over Ethernet or UDP (R214). -/
def ptpOf (f : List Byte) : Option (Nat × List Byte) :=
  if etherType f = 0x88F7 then some (2, f.drop (l3Start f))
  else if etherType f = 0x0800 ∨ etherType f = 0x86DD then ptpAt f (l3Start f) else none

end Sys2Proof.Machine
end

