-- ==== Sys2Proof/Machine/Ops.lean ====
section
/-!
DEFINITION. The shared operations: pages and their domains (R12, R31, R514–R516), the block lifecycle's state (R33–R39),
events and their delivery (R485–R487, R519, R520), ownership of register writes (R470, R471), ties (R41, R42, R46), and
the running and completing of host commands (R476–R481, R548).
-/

namespace Sys2Proof.Machine

/-! ## Pages and power -/

/-- Power domains of register pages (R31, R516). -/
inductive PDom where
  | cistern
  | vdie
  | main
  | sdie (k : Nat)
  | ldie (m : Nat)
  deriving DecidableEq, Repr

/-- The assigned pages of R516: first page, last page and block type. -/
def pageMap : List (Nat × Nat × Nat) := [
  (0x000, 0x000, 0x0001), (0x001, 0x001, 0x0002), (0x002, 0x002, 0x0003), (0x004, 0x007, 0x0004),
  (0x008, 0x008, 0x0005), (0x010, 0x012, 0x0006), (0x018, 0x018, 0x0007), (0x020, 0x024, 0x0008),
  (0x028, 0x02F, 0x0009), (0x040, 0x057, 0x000A), (0x060, 0x060, 0x000B), (0x068, 0x068, 0x000C),
  (0x080, 0x087, 0x000D), (0x090, 0x093, 0x000E), (0x100, 0x13F, 0x000F), (0x148, 0x148, 0x0010),
  (0x150, 0x153, 0x0011), (0x158, 0x158, 0x0012), (0x160, 0x161, 0x0013), (0x170, 0x173, 0x0014),
  (0x178, 0x178, 0x0015), (0x180, 0x180, 0x0016), (0x190, 0x197, 0x0017), (0x198, 0x198, 0x0018),
  (0x1A0, 0x1A0, 0x0019), (0x1A1, 0x1A1, 0x001A)]

/-- The row of R516 for a page, none when it is not assigned. -/
def pageRow (page : Nat) : Option (Nat × Nat × Nat) :=
  pageMap.find? (fun r => decide (r.1 ≤ page) && decide (page ≤ r.2.1))

/-- The page is assigned (R516). -/
def assigned (page : Nat) : Bool := (pageRow page).isSome

/-- Every assigned page, in ascending order. -/
def allPages : List Nat := pageMap.flatMap (fun r => (List.range (r.2.1 - r.1 + 1)).map (fun i => r.1 + i))

/-- PG_ID of a page: type and instance (R516, R518). -/
def pageId (page : Nat) : Nat :=
  match pageRow page with
  | none => 0
  | some r => r.2.2 * 65536 + (page - r.1)

/-- The domain of an assigned page (R12, R516). -/
def pageDom (page : Nat) : PDom :=
  if page = 1 ∨ page = 2 ∨ (0x10 ≤ page ∧ page ≤ 0x12) ∨ page = 0x24 then .cistern
  else if page = 0x180 then .vdie
  else if 0x80 ≤ page ∧ page ≤ 0x87 then .sdie ((page - 0x80) / 2)
  else if 0x100 ≤ page ∧ page ≤ 0x13F then .ldie ((page - 0x100) / 32)
  else .main

/-- The page lies in the cistern or on the V-die, whose supply is VHV (R31). -/
def alwaysOn (page : Nat) : Bool := decide (pageDom page = .cistern) || decide (pageDom page = .vdie)

/-- The main supplies are up: MAIN_EN is high and MAIN_PG with it (R439). -/
def mainOn (s : State) : Bool := getB PWR_STAT_MAIN_EN s && s.pwr.mainPg

/-- PWR_STAT.STATE (R440). -/
def pwrState (s : State) : Nat := getF PWR_STAT_STATE s

/-- FWU_BOOT.STAGE (R498). -/
def stage (s : State) : Nat := getF FWU_BOOT_STAGE s

/-- The page answers register accesses (R32, R515); log 8 on ENTERING and WAKING. -/
def answers (page : Nat) (s : State) : Bool :=
  if alwaysOn page then s.pwr.vhv
  else mainOn s && (decide (pwrState s = 0) || decide (pwrState s = 3) || decide (pwrState s = 4) ||
    (decide (pwrState s = 6) && (decide (stage s = 1) || decide (stage s = 2) ||
      (decide (stage s = 3) && (decide (page = 0) || decide (page = 0x1A0))))))

/-- The four HBM pages (R409). -/
def hbmPages : List Nat := [0x170, 0x171, 0x172, 0x173]

/-- PG_STAT.STATE of a page; a page without a lifecycle of its own reads ON while its domain is powered (R518), THM pages
follow page 0x004 (R461), and a page that does not answer reads OFF (R32). -/
def blockState (page : Nat) (s : State) : Nat :=
  if !alwaysOn page && !mainOn s then 0
  else if page = 0 then 2
  else if 0x29 ≤ page ∧ page ≤ 0x2F then getF (PG_STAT_STATE 0x28) s
  else if 5 ≤ page ∧ page ≤ 7 then getF (PG_STAT_STATE 4) s
  else getF (PG_STAT_STATE page) s

/-- The page reads ON. -/
def isOn (page : Nat) (s : State) : Bool := decide (blockState page s = 2)

/-- The page is at work: ON, or stopping and finishing what it has in hand (R35). -/
def runs (page : Nat) (s : State) : Bool := [2, 3, 4].contains (blockState page s)

/-- The page reads OFF or PARKED. -/
def offOrParked (page : Nat) (s : State) : Bool := decide (blockState page s = 0) || decide (blockState page s = 5)

/-! ## Events -/

/-- The event number of an EV_RAW bit of a page (R516 and the block chapters); none where no event is assigned. -/
def evNum (page b : Nat) : Option Nat :=
  let seg (lo hi base : Nat) : Option Nat := if lo ≤ b ∧ b ≤ hi then some (base + (b - lo)) else none
  if page = 0x000 then (seg 2 3 0x001).or (seg 4 6 0x00C)
  else if page = 0x001 then seg 2 3 0x008
  else if page = 0x002 then seg 2 5 0x010
  else if page = 0x004 then seg 2 8 0x018
  else if page = 0x008 then seg 2 5 0x020
  else if page = 0x010 then (seg 2 10 0x040).or (seg 11 26 0x050)
  else if page = 0x011 ∨ page = 0x012 then
    let d := page - 0x011
    ((seg 2 2 (0x04A + d)).or (seg 3 3 (0x04C + d))).or (seg 4 4 (0x04E + d))
  else if page = 0x018 then seg 2 27 0x060
  else if 0x020 ≤ page ∧ page ≤ 0x024 then
    let p := page - 0x020
    (((seg 2 2 (0x080 + p)).or (seg 3 3 (0x088 + p))).or (seg 4 4 (0x090 + p))).or
      (if p < 4 then seg 5 5 (0x098 + p) else none)
  else if 0x028 ≤ page ∧ page ≤ 0x02F then
    (seg 2 2 (0x0A0 + (page - 0x028))).or (if page = 0x028 then seg 3 5 0x0A8 else none)
  else if 0x040 ≤ page ∧ page ≤ 0x057 then
    let k := page - 0x040
    if 2 ≤ b ∧ b ≤ 6 then some (0x100 + 0x20 * (b - 2) + k) else if page = 0x040 then seg 7 9 0x1E0 else none
  else if page = 0x060 then seg 2 11 0x200
  else if page = 0x068 then seg 2 3 0x240
  else if 0x080 ≤ page ∧ page ≤ 0x087 then
    let i := page - 0x080
    (((seg 2 2 (0x2C8 + i)).or (seg 12 13 (0x2A0 + 2 * i))).or (seg 14 15 (0x2B0 + 2 * i))).or
      (if i = 0 then seg 4 11 0x2C0 else none)
  else if 0x090 ≤ page ∧ page ≤ 0x093 then
    if 2 ≤ b ∧ b ≤ 8 then some (0x280 + 4 * (b - 2) + (page - 0x090))
    else if page = 0x090 then (seg 9 10 0x29C).or (seg 11 13 0x2E0) else none
  else if 0x100 ≤ page ∧ page ≤ 0x13F then seg 2 17 (0x380 + 16 * (page - 0x100))
  else if page = 0x148 then seg 2 11 0x780
  else if 0x150 ≤ page ∧ page ≤ 0x153 then
    (seg 2 5 (0x790 + 4 * (page - 0x150))).or (if page = 0x150 then seg 6 8 0x7A0 else none)
  else if page = 0x158 then (seg 2 6 0x7B0).or (seg 7 11 0x7B8)
  else if page = 0x160 then ((seg 2 2 0x7C8).or (seg 3 10 0x7C0)).or (seg 11 12 0x7CA)
  else if page = 0x161 then seg 2 2 0x7C9
  else if 0x170 ≤ page ∧ page ≤ 0x173 then
    let i := page - 0x170
    ((seg 2 2 (0x7D0 + i)).or (seg 3 3 (0x7D4 + i))).or (if i = 0 then seg 4 6 0x7D8 else none)
  else if page = 0x178 then seg 2 3 0x7DC
  else if page = 0x180 then seg 2 11 0x7E0
  else if 0x190 ≤ page ∧ page ≤ 0x197 then
    (seg 2 2 (0x7F0 + (page - 0x190))).or (seg 3 3 (0x7F8 + (page - 0x190)))
  else if page = 0x1A0 then seg 2 9 0x028
  else if page = 0x1A1 then seg 2 2 0x030
  else none

/-- The route of an event: partitions as a bit map, and the vector (R490). -/
def routeOf (n : Nat) (s : State) : Nat × Nat :=
  let r := s.route n
  if r.written then (r.parts, r.vector)
  else if 0x7F0 ≤ n ∧ n ≤ 0x7FF then (2 ^ (n % 8), 0) else (0, 0)

/-- TRANSPORT of a partition: 0 none, 1 PCIe, 2 JMP (R488). -/
def transport (p : Nat) (s : State) : Nat := getF (HST_BIND_TRANSPORT p) s

/-! ## Frames that the device originates (R311, R466, R467) -/

/-- The selected time as TNS (R331). -/
def now (s : State) : Nat := s.tim.s / 2 ^ 32

/-- The selected time is at or after `t` (R331). -/
def reached (t : Nat) (s : State) : Bool := tnsLe t (now s)

/-- MAC address of a port (R230). -/
def portMac (p : Nat) (s : State) : Nat := getF (NET_MAC_HI_MAC_HI p) s * 2 ^ 32 + getF (NET_MAC_LO p) s

/-- A frame that firmware makes, for a port's system queue (R311, R314). -/
def systemFrame (bytes : List Byte) (at_ : Nat) : EgrFrame :=
  { cmd := none, csum := false, tsReq := false, part := 0, hdrAddr := 0, hdrLen := 0, payAddr := 0, payLen := 0,
    l3Off := 0, hdrHost := false, payHost := false, bytes := bytes, headAt := at_ }

/-- A system frame joins the system queue of its port (R311). -/
def sendSystem (port : Nat) (bytes : List Byte) (s : State) : State :=
  let q := s.queue (256 + port)
  s.setQueue (256 + port) { q with frames := q.frames ++ [systemFrame bytes (now s)] }

/-- The words of a JMP message, CRC included (R467). -/
def jmpWords (p typ : Nat) (seq : Word) (body : List Word) : List Word :=
  let ws := Word.ofNat (2 ^ 24 + typ % 16 * 2 ^ 20 + p % 8 * 2 ^ 16 + (body.length + 3)) :: seq :: body
  ws ++ [crcWords ws]

/-- A JMP message of partition `p` leaves for a host, and is stamped (R311, R342, R467). DESIGN CHOICE (log 57): where the egress
scheduler does not serve the port, in STANDBY, SLEEP or recovery or as page 0x158 reads OFF, STARTING or FAULT, it leaves at
once. -/
def jmpPost (p port : Nat) (ipv6 : Bool) (src : List Byte) (addr : List Word) (dport typ : Nat) (seq : Word) (body : List Word) (s : State) : State :=
  let dst := addrBytes ipv6 addr
  let data := (jmpWords p typ seq body).flatMap (fun w => natBe 4 w.toNat)
  let f := udpFrame port (portMac port s) ipv6 src dst (getF HST_JMPPORT_PORT s) dport data
  let s := s.setPrt p { s.prt p with txStamp := now s }
  let st := getF PWR_STAT_STATE s
  if [2, 3, 4, 5].contains (blockState 0x158 s) && decide (st ≠ 1) && decide (st ≠ 2) then sendSystem port f s
  else emit (.frame port (sealFrame f)) s

/-- A device message of a JMP partition leaves with HST_JMP_DSEQ, which then counts on (R469). -/
def jmpDevice (p typ : Nat) (body : List Word) (s : State) : State :=
  let cfg := (rd (HST_JMP_CFG_PORT p).addr s).toNat
  s |> jmpPost p (bitsOf cfg 26 24) (bitOf cfg 31) (portAddr (bitsOf cfg 26 24) (bitOf cfg 31)) ((List.range 4).map (fun k => rd (HST_JMP_ADDR p k).addr s)) (cfg % 65536) typ
      (Word.ofNat (getF (HST_JMP_DSEQ p) s)) body
    |> addF (HST_JMP_DSEQ p) 1

/-- The words of the MSI-X table of partition `p`, four a vector (address, address, data, mask), and from 0x8000 on the pending bits,
by word of BAR4. DESIGN CHOICE (log 38): where the two lie in BAR4. -/
def msixWord (p w : Nat) (s : State) : Word :=
  let t := s.msixT p
  let n := getF (HST_BIND_VECTORS p) s
  if w < 4 * n then
    let e := FMap.get (0, 0) t.entries (w / 4)
    match w % 4 with
    | 0 => Word.ofNat e.1
    | 1 => Word.ofNat (e.1 / 2 ^ 32)
    | 2 => e.2
    | _ => Word.ofNat (bit (FMap.get true t.masked (w / 4)))
  else if 8192 ≤ w ∧ w < 8194 then
    Word.ofNat (((List.range 32).map (fun i => bit (FMap.get false t.pending (32 * (w - 8192) + i)) * 2 ^ i)).sum)
  else 0

/-- A word of the MSI-X table is written. -/
def putMsix (p w : Nat) (v : Word) (s : State) : State :=
  let t := s.msixT p
  let k := w / 4
  let e := FMap.get (0, 0) t.entries k
  if 4 * getF (HST_BIND_VECTORS p) s ≤ w then s
  else match w % 4 with
    | 0 => s.setMsixT p { t with entries := FMap.set (0, 0) t.entries k (e.1 / 2 ^ 32 * 2 ^ 32 + v.toNat / 4 * 4, e.2) }
    | 1 => s.setMsixT p { t with entries := FMap.set (0, 0) t.entries k (e.1 % 2 ^ 32 + v.toNat * 2 ^ 32, e.2) }
    | 2 => s.setMsixT p { t with entries := FMap.set (0, 0) t.entries k (e.1, v) }
    | _ => s.setMsixT p { t with masked := FMap.set true t.masked k (bitOf v.toNat 0) }

/-- An MSI-X message of partition `p`, under its masks and its port's link (R486). -/
def msixSend (p vec : Nat) (s : State) : State :=
  let t := s.msixT p
  let v := if getF (HST_BIND_VECTORS p) s = 0 then 0 else vec % getF (HST_BIND_VECTORS p) s
  if !s.linkUp (getF (HST_BIND_PORT p) s) then s
  else if t.fmask || FMap.get true t.masked v then s.setMsixT p { t with pending := FMap.set false t.pending v true }
  else
    let e := FMap.get (0, 0) t.entries v
    emit (.msix (getF (HST_BIND_PORT p) s) e.1 e.2) s

/-- The vectors that wait and are masked no longer are sent, in ascending order (R486; log 38). -/
def msixRelease (p : Nat) (s : State) : State :=
  if (s.msixT p).fmask then s else
  each (((s.msixT p).pending.map (fun e => e.1)).filter (fun v => !FMap.get true (s.msixT p).masked v)) (fun v t =>
    t.setMsixT p { t.msixT p with pending := FMap.set false (t.msixT p).pending v false } |> msixSend p v) s

/-- The notification of event `n` for partition `p` (R485, R486). -/
def notify (p n vec : Nat) (s : State) : State :=
  if transport p s = 1 then msixSend p vec s
  else if transport p s = 2 then s.setPrt p { s.prt p with events := (s.prt p).events ++ [n] }
  else s

/-- Delivery of event `n` to partition `p`: its pending bit, and a notification if the bit was 0 (R485). -/
def deliverTo (p n vec : Nat) (s : State) : State :=
  let f := HST_EPEND p (n / 32)
  if bitOf (getF f s) (n % 32) then s else s |> orF f (2 ^ (n % 32)) |> notify p n vec

/-- The pages whose events the cistern processor delivers in STANDBY and SLEEP (R487). -/
def cisternEvent (page : Nat) : Bool :=
  decide (page = 1) || decide (page = 2) || (decide (0x10 ≤ page) && decide (page ≤ 0x12)) || decide (page = 0x180)

/-- Delivery through the routes copied at entry, in STANDBY and SLEEP (R487). -/
def deliverAsleep (page n : Nat) (s : State) : State :=
  if !cisternEvent page then s else
  let r := FMap.get {} s.evt.copied n
  (List.range 8).foldl (fun t p =>
    if !bitOf r.parts p then t
    else if (t.prt p).m0 then
      if pwrState t = 1 then deliverTo p n r.vector t else t.setPrt p { t.prt p with events := (t.prt p).events ++ [n] }
    else if decide (pwrState t = 1) && decide (transport p t = 1) then
      { t with evt := { t.evt with held := t.evt.held ++ [(p, n)] } }
    else t) s

/-- Delivery of event `n`, raised by `page`, to every partition of its route whose page reads ON or PARKED (R485). A
fault of the route table ends all delivery (R490). -/
def deliver (page n : Nat) (s : State) : State :=
  if pwrState s = 1 ∨ pwrState s = 2 then deliverAsleep page n s
  else if getF (PG_STAT_STATE 0x198) s = 7 then s
  else
    let r := routeOf n s
    (List.range 8).foldl (fun t p =>
      if bitOf r.1 p && (decide (blockState (0x190 + p) t = 2) || decide (blockState (0x190 + p) t = 5))
      then deliverTo p n r.2 t else t) s

/-- The raise of an EV_RAW bit: counted (R490), pending and delivered if enabled (R485, R519). -/
def raiseCore (page b : Nat) (s : State) : State :=
  let s := orF (EV_RAW page) (2 ^ b) s
  let s := match evNum page b with
    | some n => s.setRaisedCnt n ((s.raisedCnt n + 1) % 2 ^ 32)
    | none => s
  if !bitOf (getF (EV_EN page) s) b then s else
  let s := orF (EV_PEND page) (2 ^ b) s
  match evNum page b with
  | some n => deliver page n s
  | none => s

/-- The level of a summary bit: it is raised when its condition begins to hold, and clears when it ends (R519). -/
def summary (page b : Nat) (cond : Bool) (s : State) : State :=
  if cond then (if bitOf (getF (EV_RAW page) s) b then s else raiseCore page b s)
  else clearF (EV_RAW page) (2 ^ b) s

/-- The summary bits 2 and 3 of the SYS page follow its bitmaps (R520). -/
def sysSummary (s : State) : State :=
  s |> summary 0 2 ((List.range 14).any (fun w => getB (SYS_SCHG w) s))
    |> summary 0 3 ((List.range 14).any (fun w => getB (SYS_FLT w) s))

/-- A page raises one of its events; bits 0 and 1 set the page's bit in SYS_SCHG or SYS_FLT (R38, R519, R520). -/
def raise (page b : Nat) (s : State) : State :=
  let s := raiseCore page b s
  if b < 2 ∧ bitOf (getF (EV_EN page) s) b = true then
    let f := if b = 0 then SYS_SCHG (page / 32) else SYS_FLT (page / 32)
    s |> orF f (2 ^ (page % 32)) |> sysSummary
  else s

/-! ## Lifecycle state -/

/-- A block is asked to park: by PG_CTRL.PARK, or, in the main domains, by the device's own request on the way to STANDBY
(R35, R442). -/
def parkAsked (page : Nat) (s : State) : Bool :=
  getB (PG_CTRL_PARK page) s || (!alwaysOn page && decide (pwrState s = 3))

/-- A block changes state and raises STATE_CHANGED (R35). -/
def setState (page st : Nat) (s : State) : State :=
  if getF (PG_STAT_STATE page) s = st then s else s |> setF (PG_STAT_STATE page) st |> raise page 0

/-- A block detects an internal fault: it enters FAULT, with FAULT_CODE, STATE_CHANGED and FAULT (R35, R38). -/
def enterFault (page code : Nat) (s : State) : State :=
  s |> setF (PG_STAT_FAULT_CODE page) code |> setState page 7 |> raise page 1

/-! ## Ownership and accesses -/

/-- The acting administrator (R470): the partition named while its page reads ON, else the lowest that reads ON. -/
def actingAdmin (s : State) : Option Nat :=
  if isOn (0x190 + getF HST_ADMIN_ADMIN s) s then some (getF HST_ADMIN_ADMIN s)
  else firstBelow 8 (fun p => isOn (0x190 + p) s)

/-- The accessor is partition `p`. -/
def isPart (who : Who) (p : Nat) : Bool :=
  match who with
  | .fw => false
  | .part q => decide (q.val = p)

/-- The accessor is firmware (R524). -/
def isFw (who : Who) : Bool :=
  match who with
  | .fw => true
  | .part _ => false

/-- The accessor is firmware or the acting administrator. -/
def isAdmin (who : Who) (s : State) : Bool :=
  match who with
  | .fw => true
  | .part p => decide (actingAdmin s = some p.val)

/-- The accessor is firmware or the page's PG_OWNER. -/
def isOwner (who : Who) (page : Nat) (s : State) : Bool :=
  match who with
  | .fw => true
  | .part p => decide (getF (PG_OWNER page) s = p.val)

/-- A write to a page without a rule of its own is accepted (R471, R524). -/
def mayWrite (who : Who) (page : Nat) (s : State) : Bool := isOwner who page s || isAdmin who s

/-- A discarded write is counted in the writer's page (R471), while that page has power. -/
def rejectWrite (who : Who) (s : State) : State :=
  match who with
  | .fw => s
  | .part p => ifS (mainOn s) (countF (HST_WREJ p.val)) s

/-- An access under R515 is recorded in SYS_BADADDR and SYS_BADCNT and raises event 0x00D or 0x00E; the SYS page records
it while its domain is powered. -/
def badAccess (off size : Bool) (who : Who) (addr : Nat) (s : State) : State :=
  if !mainOn s then s else
  let w := bit off * 2 ^ 31 + bit size * 2 ^ 30 + bit (isFw who) * 2 ^ 27 +
    (match who with | .fw => 0 | .part p => p.val) * 2 ^ 24 + addr / 4 % 2 ^ 22 * 4
  s |> wr SYS_BADADDR_OFF.addr (Word.ofNat w) |> countF SYS_BADCNT |> raise 0 (if off then 5 else 6)

/-- A write to `page` that is answered and accepted goes on to `f`; an unassigned page or one that does not answer is
reported (R32, R515), and a write not accepted is counted (R471). -/
def guardWrite (who : Who) (page addr : Nat) (ok : Bool) (f : State → State) (s : State) : State :=
  if !assigned page then badAccess false false who addr s
  else if !answers page s then badAccess true false who addr s
  else if !ok then rejectWrite who s
  else f s

/-! ## Ties -/

/-- How far after pointer `ptr` requester `i` of `n` comes (R41). -/
def tieKey (n ptr i : Nat) : Nat := (i + n - (ptr + 1) % n) % n

/-- Inserts a request in the order of the tie rule. -/
def tieInsert {α : Type} (n ptr : Nat) (idx : α → Nat) (x : α) : List α → List α
  | [] => [x]
  | y :: r => if tieKey n ptr (idx x) < tieKey n ptr (idx y) then x :: y :: r else y :: tieInsert n ptr idx x r

/-- Requests of one cycle in the order of the tie rule of R41: the next index after the pointer first; equal indices
keep their order. -/
def tieSort {α : Type} (n ptr : Nat) (idx : α → Nat) (l : List α) : List α :=
  l.foldl (fun acc x => tieInsert n ptr idx x acc) []

/-- The requester index of an accessor among the partitions; firmware has none and is served first (R546). -/
def whoIdx (who : Who) : Nat :=
  match who with
  | .fw => 8
  | .part p => p.val

/-- The number of different requesters. -/
def requesters {α : Type} (idx : α → Nat) (l : List α) : List Nat := (l.map idx).eraseDups

/-! ## Commands -/

/-- Status codes (R481). -/
def DONE : Nat := 0x00
def ACCEPTED : Nat := 0x01
def BUSY : Nat := 0x02
def TABLE_FULL : Nat := 0x03
def NOT_OWNER : Nat := 0x04
def BAD_ARGUMENT : Nat := 0x05
def LEASED : Nat := 0x06
def LOST_TIE : Nat := 0x07
def TOO_LATE : Nat := 0x08
def INHIBITED : Nat := 0x09
def NOT_READY : Nat := 0x0A
def SIGNATURE_FAIL : Nat := 0x0B
def COALESCED : Nat := 0x0C
def ABORTED : Nat := 0x0D

end Sys2Proof.Machine

namespace Sys2Proof

/-- ARG word `i` of a command as a number. -/
def Cmd.arg (c : Cmd) (i : Nat) : Nat := Machine.wordAt c.args i

/-- Bits of an ARG word. -/
def Cmd.argF (c : Cmd) (i hi lo : Nat) : Nat := Machine.bitsOf (c.arg i) hi lo

/-- The requester index of a command's giver (R41). -/
def Cmd.idx (c : Cmd) : Nat := Machine.whoIdx c.who

end Sys2Proof

namespace Sys2Proof.Machine

/-- What is kept of a command that completes later. -/
def refOf (op : Nat) (c : Cmd) : CmdRef := ⟨c.who, c.tag, c.notify, op⟩

/-- A HOST_ERROR of partition `p` (R488). -/
def hostError (p reason : Nat) (s : State) : State :=
  s |> setF (HST_RING_STAT_REASON p) reason |> raise (0x190 + p) 3

/-- The space of partition `p`'s rings: HBM or the host memory of its port (R475). -/
def ringSpace (p : Nat) (s : State) : Space :=
  if getB (HST_RING_CTRL_RSPACE p) s then .host (getF (HST_BIND_PORT p) s) else .hbm

/-- N, the descriptors of a command ring (R475). -/
def ringN (p : Nat) (s : State) : Nat := 2 ^ getF (HST_RING_CTRL_LOG2 p) s

/-- The PCIe link of a partition's port is down, so that accesses to host memory fail (R480, R486). -/
def hostDown (p : Nat) (s : State) : Bool := !s.linkUp (getF (HST_BIND_PORT p) s)

/-- The `n` bytes at `a` of the ring of partition `p` cannot be reached: they lie in HOST space behind a link that is down, or of a
partition that has none (R473, R480); or in HBM above its range (R410; log 5). -/
def ringDown (p a n : Nat) (s : State) : Bool :=
  if getB (HST_RING_CTRL_RSPACE p) s then decide (transport p s ≠ 1) || hostDown p s else decide (hbmTop < a + n)

/-- CPL_BASE as an address. -/
def cplBase (p : Nat) (s : State) : Nat :=
  getF (HST_CPL_BASE_LO_ADDR p) s * 4096 + getF (HST_CPL_BASE_HI p) s * 2 ^ 32

/-- CMD_BASE as an address. -/
def cmdBase (p : Nat) (s : State) : Nat :=
  getF (HST_CMD_BASE_LO_ADDR p) s * 4096 + getF (HST_CMD_BASE_HI p) s * 2 ^ 32

/-- The four words of a completion record (R479). -/
def cplWords (j n : Nat) (final : Bool) (r : CmdRef) (status reason r0 r1 : Nat) : List Word :=
  [Word.ofNat (bit (decide (j / (2 * n) % 2 = 0)) * 2 ^ 31 + bit final * 2 ^ 30 + status % 256 * 2 ^ 16 + r.tag % 65536),
    Word.ofNat (r.op % 256 * 2 ^ 24 + reason % 256 * 2 ^ 16), Word.ofNat r0, Word.ofNat r1]

/-- Takes the first entry that satisfies `p` out of a list. -/
def dropFirst {α : Type} (p : α → Bool) : List α → List α
  | [] => []
  | x :: r => if p x then r else x :: dropFirst p r

/-- Where completion record `j` of partition `p` lies (R475). -/
def cplAddr (p j : Nat) (s : State) : Nat := cplBase p s + 16 * (j % (2 * ringN p s))

/-- A completion record of partition `p` is written, sent to a JMP host, and notified (R479); one that cannot be written
stops the ring and is discarded (R480). -/
def writeCpl (p : Nat) (final : Bool) (r : CmdRef) (status reason r0 r1 : Nat) (s : State) : State :=
  let j := getF (HST_CPL_TAIL_IDX p) s
  let a := cplAddr p j s
  if ringDown p a 16 s then s |> setB (HST_RING_STAT_STOPPED p) true |> hostError p 3 else
  let ws := cplWords j (ringN p s) final r status reason r0 r1
  let old := memRead (ringSpace p s) a 16 s
  let s := s |> ifS (getB (HST_RING_CTRL_RSPACE p) s) (State.setPrt p { s.prt p with lastCpl := some (j, old) })
    |> memWrite (ringSpace p s) a (wordsBytes ws) |> addF (HST_CPL_TAIL_IDX p) 1
  let s := ifS (decide (transport p s = 2)) (jmpDevice p 2 ws) s
  ifS r.notify (raise (0x190 + p) 2) s

/-- A command writes a completion: interim, or final, which ends it (R479). A command of the firmware has no ring, and one
that an activation has aborted writes nothing more (R508). -/
def complete (final : Bool) (r : CmdRef) (status reason r0 r1 : Nat) (s : State) : State :=
  match r.who with
  | .fw => s
  | .part p =>
    if (s.prt p.val).gone.contains (r.op, r.tag) then
      ifS final (fun s => s.setPrt p.val { s.prt p.val with gone := (s.prt p.val).gone.erase (r.op, r.tag) }) s
    else
    let s := writeCpl p.val final r status reason r0 r1 s
    if !final then s else
    let o := getF (HST_RING_STAT_OUTSTANDING p.val) s
    let t := s.prt p.val
    s |> setF (HST_RING_STAT_OUTSTANDING p.val) (o - 1)
      |> State.setPrt p.val { t with disp := dropFirst (fun d => decide (d.op = r.op) && decide (d.cmd.tag = r.tag)) t.disp }

/-- The final completion of a command. -/
def finish (op : Nat) (c : Cmd) (status reason r0 r1 : Nat) (s : State) : State :=
  complete true (refOf op c) status reason r0 r1 s

/-- The final completion with a status alone. -/
def answer (op : Nat) (c : Cmd) (status : Nat) (s : State) : State := finish op c status 0 0 0 s

/-- The final completion of a command that a check refused, with the reason code that the check recorded (R479). -/
def refuse (op : Nat) (c : Cmd) (status reason : Nat) (s : State) : State := finish op c status reason 0 0 s

/-- The update commands, FWU_BEGIN to FWU_ABORT (R506). -/
def updateOp (op : Nat) : Bool := decide (0x58 ≤ op) && decide (op ≤ 0x5D)

/-- The pages whose state R477 judges for an opcode (R548); opcodes 0x21 and 0x40 depend on operands. -/
def judgedPages (op : Nat) (c : Cmd) : List Nat :=
  if op < 0x08 then []
  else if op ≤ 0x0F then [0x148]
  else if op ≤ 0x11 then [0x028]
  else if op ≤ 0x13 then [0x040]
  else if op ≤ 0x1F then [0x060]
  else if op = 0x20 then [0x068]
  else if op = 0x21 then (if c.src.space = 1 ∨ c.dst.space = 1 then hbmPages else [])
  else if op ≤ 0x29 then [0x150]
  else if op ≤ 0x2D then [0x158]
  else if op ≤ 0x32 then [0x018]
  else if op ≤ 0x3E then [0x180]
  else if op = 0x40 then (if c.argF 0 16 16 = 1 then [0x161] else [0x160])
  else if op ≤ 0x44 then [0x160]
  else if op ≤ 0x4A then [0x178]
  else if op ≤ 0x51 then []
  else if op ≤ 0x5E then [0x1A0]
  else [0x1A1]

/-- How a block's state meets a command (R477). -/
inductive Gate where
  | ready
  | notReady
  | wait
  deriving DecidableEq, Repr

/-- NOT_READY if a page reads OFF, STOPPING or FAULT; a wait if one reads STARTING, PENDING_ON or PARKED (R477, R548). -/
def gate (pages : List Nat) (s : State) : Gate :=
  if pages.any (fun p => [0, 3, 7].contains (blockState p s)) then .notReady
  else if pages.any (fun p => [1, 4, 5].contains (blockState p s)) then .wait
  else .ready

/-- A fenced entry waits until it is the oldest, and everything behind a fence that has not begun waits for it (R476);
each block takes one partition's commands in ring order (R478), and the Sluice engine takes the next only when the one before has
completed, which may write what it reads (R431). -/
def mayStartIn (op : Nat) (c : Cmd) : List Disp → List Disp → Bool
  | _, [] => true
  | earlier, d :: r =>
    if d.op = op ∧ d.cmd = c ∧ d.started = false then
      (!d.fence || earlier.isEmpty) && !earlier.any (fun e => e.fence && !e.started) &&
      !earlier.any (fun e => (!e.started || decide (judgedPages op c = [0x178])) &&
        (decide (judgedPages e.op e.cmd = judgedPages op c) || (decide (e.op = 0x21) && decide (op = 0x21))))
    else mayStartIn op c (earlier ++ [d]) r

/-- A command may begin now; one that no ring holds is taken as dispatched (log 7). -/
def mayStart (op : Nat) (c : Cmd) (s : State) : Bool :=
  match c.who with
  | .fw => true
  | .part p => mayStartIn op c [] (s.prt p.val).disp

/-- The first entry of a command is marked as begun. -/
def markStartedIn (op : Nat) (c : Cmd) : List Disp → List Disp
  | [] => []
  | d :: r => if d.op = op ∧ d.cmd = c ∧ d.started = false then { d with started := true } :: r
    else d :: markStartedIn op c r

/-- The command has begun to execute. -/
def markStarted (op : Nat) (c : Cmd) (s : State) : State :=
  match c.who with
  | .fw => s
  | .part p => s.setPrt p.val { s.prt p.val with disp := markStartedIn op c (s.prt p.val).disp }

/-- A dispatched command meets its block: it waits, completes with NOT_READY, or runs `body` (R477). -/
def runCmd (op : Nat) (c : Cmd) (body : State → State) (s : State) : State :=
  if !mayStart op c s then s
  else match gate (judgedPages op c) s with
    | .wait => s
    | .notReady => answer op c NOT_READY (markStarted op c s)
    | .ready => body (markStarted op c s)

/-- The space of an operand: HOST lies behind the giver's PCIe port (R473, R476). -/
def opSpace (c : Cmd) (o : Operand) (s : State) : Space :=
  if o.space = 2 then .host (match c.who with | .fw => 0 | .part p => getF (HST_BIND_PORT p.val) s) else .hbm

/-- The bytes of a command's SRC. -/
def srcBytes (c : Cmd) (s : State) : List Byte := memRead (opSpace c c.src s) c.src.addr c.src.len s

/-- The words of a command's SRC (R9). -/
def srcWords (c : Cmd) (s : State) : List Word := bytesWords (srcBytes c s)

/-- The giver's host memory cannot be reached. -/
def giverDown (c : Cmd) (s : State) : Bool :=
  match c.who with
  | .fw => false
  | .part p => hostDown p.val s

/-- The SRC operand returns poisoned data, or its read fails because the link is down (R480). -/
def srcBad (c : Cmd) (s : State) : Bool :=
  (decide (c.src.space = 1) && hbmPoisoned c.src.addr c.src.len s) || (decide (c.src.space = 2) && giverDown c s)

/-- A write to the DST operand fails because the link is down (R480). -/
def dstBad (c : Cmd) (s : State) : Bool := decide (c.dst.space = 2) && giverDown c s

/-- A command whose operand read failed (R480). -/
def abortOperand (op : Nat) (c : Cmd) (s : State) : State :=
  match c.who with
  | .fw => s
  | .part p => s |> answer op c ABORTED |> hostError p.val 5

/-- `n` words that the specification leaves open (log 3). -/
def freshWords : Nat → State → List Word × State
  | 0, s => ([], s)
  | n + 1, s =>
    let r := fresh 32 s
    let q := freshWords n r.2
    (Word.ofNat r.1 :: q.1, q.2)

/-- The words of SRC, read whole, go to `f`; a failed read aborts the command (R480). -/
def withSrc (op : Nat) (c : Cmd) (f : List Word → State → State) (s : State) : State :=
  if srcBad c s then abortOperand op c s else f (srcWords c s) s

/-- The words of a SRC whose length R482 fixes at `n` bytes. -/
def withLen (op : Nat) (c : Cmd) (n : Nat) (f : List Word → State → State) (s : State) : State :=
  if c.src.len ≠ n then answer op c BAD_ARGUMENT s else withSrc op c f s

/-- The requests of one cycle, each a command with its opcode, of which `body` meets those that may begin and whose block is
ready; the others complete or wait by themselves. -/
def runReqs {α : Type} (op : α → Nat) (cmd : α → Cmd) (rs : List α) (body : List α → State → State) (s : State) : State :=
  let may (g : Gate) (r : α) : Bool := mayStart (op r) (cmd r) s && decide (gate (judgedPages (op r) (cmd r)) s = g)
  let go := rs.filter (may .ready)
  let s := each (rs.filter (may .notReady)) (fun r t => answer (op r) (cmd r) NOT_READY (markStarted (op r) (cmd r) t)) s
  body go (each go (fun r => markStarted (op r) (cmd r)) s)

/-- The commands of one opcode that reach their block in one cycle. -/
def runTies (op : Nat) (cs : List Cmd) (body : List Cmd → State → State) (s : State) : State :=
  runReqs (fun _ => op) id cs body s

/-- Requests of one table in one cycle: the firmware's first, then those of the `n` requesters by the tie rule, each served in
turn (R46, R546). Where requesters tied, the pointer moves to the first one served: DESIGN CHOICE (log 9), R46 does not say. -/
def serveInOrder {α : Type} (ptr : Fld) (n : Nat) (fw : α → Bool) (idx : α → Nat) (rs : List α) (serve : α → State → State)
    (s : State) : State :=
  let ps := tieSort n (getF ptr s) idx (rs.filter (fun r => !fw r))
  let s := s |> each (rs.filter fw) serve |> each ps serve
  if (requesters idx ps).length < 2 then s
  else match ps.head? with
    | some r => setF ptr (idx r) s
    | none => s

/-- Commands that ask for entries of one table in one cycle (R46, R546). -/
def serveTable (ptr : Fld) (n : Nat) (cs : List Cmd) (serve : Cmd → State → State) (s : State) : State :=
  serveInOrder ptr n (fun c => isFw c.who) Cmd.idx cs serve s

end Sys2Proof.Machine
end

