-- ==== Sys2Proof/Machine/Time.lean ====
section
/-!
DEFINITION. The time base (spec/12): the counters A, B and S, the choice of domain, holdover, the servo's part of PTP,
stamps, and the arming of timer channels.
-/

namespace Sys2Proof.Machine

/-! ## Counters (R331–R335) -/

/-- 2⁹⁶. -/
def top96 : Nat := 2 ^ 96

/-- INC limited to 40 ns ± 500 ppm (R333). -/
def clampInc (inc : Nat) : Nat := clampN inc 0x27FAE147AE 0x28051EB851

/-- m of R332: the most that S gains or loses in a tick. -/
def slewStep (s : State) : Int := ((getF TIM_SLEW_RATE s * 2 ^ 32 * 40 / 10 ^ 9 : Nat) : Int)

/-- One tick of a domain counter: INC, then the pending SET or ADJ (R332, R333). -/
def tickDomain (d : Domain) : Domain :=
  let inc := d.incNext.getD d.inc
  let c : Int := match d.set with
    | some t => ((t % 2 ^ 64 * 2 ^ 32 : Nat) : Int)
    | none => (d.count : Int) + inc + d.adj * ((2 ^ 32 : Nat) : Int)
  { d with count := (c % ((top96 : Nat) : Int)).toNat, inc := inc, incNext := none, adj := 0, set := none }

/-- The domain in force (R335). -/
def domain (s : State) : Nat := getF TIM_STAT_DOMAIN s

/-- VALID of a domain; a page that reads OFF reads 0 (R351). -/
def dValid (d : Nat) (s : State) : Bool := getB (TIM_D_CTRL_VALID d) s && decide (blockState (0x11 + d) s ≠ 0)

/-- |e| of domain `d` is at most MAXDIFF (R335). -/
def withinMax (d : Nat) (s : State) : Bool :=
  decide ((toSigned 96 ((s.dom d).count + top96 - s.tim.s)).natAbs ≤ getF TIM_MAXDIFF s * 2 ^ 32)

/-- A refusal is recorded in TIM_STAT.REASON (R335). -/
def switchRefused (reason : Nat) (s : State) : State :=
  s |> setF TIM_STAT_REASON reason |> raise 0x10 4

/-- DOMAIN becomes `d` and slewing begins (R335). -/
def switchDomain (d : Nat) (s : State) : State :=
  s |> setF TIM_STAT_DOMAIN d |> setF TIM_SEL_DOMAIN d |> ifS (getB TIM_STAT_SEL_VALID s) (setB TIM_STAT_SLEWING true)
    |> raise 0x10 2

/-- A switch leaves holdover (R335). -/
def autoSwitch (d : Nat) (s : State) : State :=
  let h := getB TIM_STAT_HOLDOVER s
  let s := switchDomain d s
  ifS h (fun s => s |> setB TIM_STAT_HOLDOVER false |> raise 0x10 6) s

/-- The selected domain's VALID falls (R335). -/
def selectedFalls (s : State) : State :=
  let o := 1 - domain s
  let auto := getB TIM_SEL_AUTO s
  if auto && dValid o s && withinMax o s then autoSwitch o s
  else
    let s := s |> setB TIM_STAT_HOLDOVER true |> raise 0x10 5
    ifS (auto && !withinMax o s) (switchRefused 2) s

/-- VALID of domain `d` becomes `v`: VALID_CHANGED, and what R335 makes of it. -/
def setValid (d : Nat) (v : Bool) (s : State) : State :=
  if getB (TIM_D_CTRL_VALID d) s = v then s
  else
    let s := s |> setB (TIM_D_CTRL_VALID d) v |> raise (0x11 + d) 2
    if !v then (if domain s = d then selectedFalls s else s)
    else if !getB TIM_STAT_HOLDOVER s then s
    else if domain s = d then s |> setB TIM_STAT_HOLDOVER false |> raise 0x10 6
    else if getB TIM_SEL_AUTO s && withinMax d s then autoSwitch d s
    else s

/-- e of R332, in signed nanoseconds, saturating, as TIM_SN_E shows it. -/
def satNs (e : Int) : Nat := ofSigned 32 (clampI (shr e 32) (-(2 ^ 31 : Nat)) ((2 ^ 31 - 1 : Nat) : Int))

/-- TIM_SNAP's capture (R348). -/
def takeSnap (e : Int) (s : State) : State :=
  if !s.tim.snap then s else
  let a := s.tim.domA.count
  let b := s.tim.domB.count
  { s with tim := { s.tim with snap := false } }
    |> setF TIM_SN_S_FRAC (s.tim.s) |> setF TIM_SN_S_LO (s.tim.s / 2 ^ 32) |> setF TIM_SN_S_HI (s.tim.s / 2 ^ 64)
    |> setF TIM_SN_A_LO (a / 2 ^ 32) |> setF TIM_SN_A_HI (a / 2 ^ 64)
    |> setF TIM_SN_B_LO (b / 2 ^ 32) |> setF TIM_SN_B_HI (b / 2 ^ 64) |> setF TIM_SN_E (satNs e)

/-- A bucket is filled (R320). -/
def fillBucket (b : Bucket) : Bucket := if b.shape then { b with tokens := (b.burst : Int) * 8000 } else b

/-- S has stepped: the next token tick and the next sample fall at the first multiples of their periods after the new S
(R320, R326). -/
def placeTicks (s : State) : State :=
  let p := getF EGR_SAMPLE_PERIOD s * 1000
  { s with egr := { s.egr with nextTick := (now s / 1000 + 1) * 1000, nextSample := (now s / p + 1) * p } }

/-- S has stepped by `e`: what waits for a length of time keeps that length (R229, R325, R326, R385, R394). -/
def shiftWaits (e : Int) (s : State) : State :=
  let d := ofSigned 64 (shr e 32)
  let sh (t : Nat) : Nat := (t + d) % 2 ^ 64
  { s with
    egr := { s.egr with
      ports := s.egr.ports.map (fun x => (x.1, { x.2 with pauseUntil := x.2.pauseUntil.map (fun u => (u.1, sh u.2)) }))
      queues := s.egr.queues.map (fun x => (x.1, { x.2 with frames := x.2.frames.map (fun f => { f with headAt := sh f.headAt }) })) }
    str := { s.str with delayed := s.str.delayed.map (fun x => { x with due := sh x.due }) }
    rim := { s.rim with lastWrite := s.rim.lastWrite.map sh }
    fwu := { s.fwu with trimAt := s.fwu.trimAt.map sh }
    pwr := { s.pwr with zones := s.pwr.zones.map (fun x => (x.1, { x.2 with ended := x.2.ended.map sh })) }
    cam := { s.cam with trig := s.cam.trig.map (fun x => (x.1, x.2.map sh)) } }

/-- At the tick at which a JUMP copies X into S every enabled bucket is full (R320). -/
def jumpRefill (s : State) : State :=
  let s := each (List.range 64) (fun i t => t.setSub i { t.sub i with bucket := fillBucket (t.sub i).bucket }) s
  let s := each (List.range 256) (fun i t => t.setQueue i { t.queue i with bucket := fillBucket (t.queue i).bucket }) s
  placeTicks { s with tim := { s.tim with jumped := false } }

/-- A host write of DOMAIN, judged at the tick against what automatic switches before it left (R335); a write of the domain in
force asks for nothing. -/
def judgeWrite (d : Nat) (s : State) : State :=
  if d = domain s then s
  else if !dValid d s then switchRefused 1 s
  else if !withinMax d s then switchRefused 2 s
  else autoSwitch d s

/-- A tick begins: a write of DOMAIN takes effect, and the counters A and B advance (R332, R335). -/
def tickDomains (s : State) : State :=
  let s := match s.tim.switchTo with
    | none => s
    | some d => judgeWrite d { s with tim := { s.tim with switchTo := none } }
  { s with tim := { s.tim with domA := tickDomain s.tim.domA, domB := tickDomain s.tim.domB } }

/-- S follows X (R332, R334). -/
def tickSelected (s : State) : State :=
  let x := s.dom (domain s)
  let base := s.tim.s + x.inc
  let e := toSigned 96 (x.count + 2 * top96 - base % top96)
  if !getB TIM_STAT_SEL_VALID s then
    let s := { s with tim := { s.tim with s := x.count } }
    let s := ifS (decide (e ≠ 0)) (shiftWaits e) s
    let s := if s.tim.jumped then jumpRefill s else ifS (decide (e ≠ 0)) placeTicks s
    let s := ifS (dValid (domain s) s) (fun s => s |> setB TIM_STAT_SEL_VALID true |> raise 0x10 10) s
    takeSnap e s
  else
    let step := clampI e (-slewStep s) (slewStep s)
    let s := { s with tim := { s.tim with s := (((base : Int) + step) % ((top96 : Nat) : Int)).toNat } }
    let was := getB TIM_STAT_SLEWING s
    let s := setB TIM_STAT_SLEWING (decide (e ≠ step)) s
    let s := ifS (was && decide (e = step)) (raise 0x10 3) s
    takeSnap e s

/-! ## Writes of the common page (R333–R335, R347, R348) -/

/-- TIM_SEL.DOMAIN is written: it is judged at the next tick (R335). -/
def writeDomain (d : Nat) (s : State) : State := { s with tim := { s.tim with switchTo := some d } }

/-- JUMP is accepted only while nothing runs on the selected time (R334, R363). -/
def jumpAllowed (s : State) : Bool :=
  (List.range 4).all (fun g => offOrParked (0x90 + g) s) && (List.range 5).all (fun p => !getB (EGR_P_GSTAT_OPER_GATE_EN p) s) &&
  (List.range 16).all (fun c => !getB (TIM_CH_STAT_ARMED c) s) &&
  (List.range 8).all (fun l => decide ((s.cueList l).state ≠ 1) && decide ((s.cueList l).state ≠ 2))

/-- TIM_SEL.JUMP is written (R334). -/
def writeJump (s : State) : State :=
  if jumpAllowed s then
    { s with tim := { s.tim with jumped := true } } |> setB TIM_STAT_SEL_VALID false |> setB TIM_STAT_SLEWING false
  else switchRefused 3 s

/-- TIM_SEL_DOMAIN_WRITE (R335). -/
def execTimSelDomainWrite (who : Who) (d : Fin 2) (s : State) : Host.Outcome State Fault Refusal :=
  .next (guardWrite who 0x10 TIM_SEL_DOMAIN.addr (isOwner who 0x10 s) (writeDomain d.val) s)

/-- TIM_SEL_JUMP (R334). -/
def execTimSelJump (who : Who) (s : State) : Host.Outcome State Fault Refusal :=
  .next (guardWrite who 0x10 TIM_SEL_JUMP.addr (isOwner who 0x10 s) writeJump s)

/-- TIM_SNAP: the capture happens at the next tick (R348). -/
def execTimSnap (who : Who) (s : State) : Host.Outcome State Fault Refusal :=
  .next (guardWrite who 0x10 TIM_SNAP_TAKE.addr (mayWrite who 0x10 s)
    (fun s => { s with tim := { s.tim with snap := true } }) s)

/-- The three counters captured at a PPS_IN edge. -/
def capturePps (s : State) : State :=
  let a := s.tim.domA.count
  let b := s.tim.domB.count
  s |> setF TIM_PPS_S_LO (now s) |> setF TIM_PPS_S_HI (now s / 2 ^ 32)
    |> setF TIM_PPS_A_LO (a / 2 ^ 32) |> setF TIM_PPS_A_HI (a / 2 ^ 64)
    |> setF TIM_PPS_B_LO (b / 2 ^ 32) |> setF TIM_PPS_B_HI (b / 2 ^ 64) |> addF TIM_PPS_CNT 1 |> raise 0x10 7

/-- PPS_IN_EDGE (R340, R348), while the cistern is powered (R31). -/
def execPpsInEdge (s : State) : Host.Outcome State Fault Refusal := .next (ifS s.pwr.vhv capturePps s)

/-! ## Writes of the domain pages (R333, R339, R351) -/

/-- Who writes INC, ADJ, SET and VALID: the servo while HOST = 0, host software while HOST = 1 (R339). -/
def servoWrites (who : Who) (d : Nat) (s : State) : Bool := decide (isFw who ≠ getB (TIM_D_CFG_HOST d) s)

/-- A write of the servo's registers, discarded from whom R339 does not name. -/
def domainWrite (who : Who) (d addr : Nat) (f : State → State) (s : State) : State :=
  guardWrite who (0x11 + d) addr (mayWrite who (0x11 + d) s) (ifS (servoWrites who d s) f) s

/-- VALID is written; a page that reads OFF stays at 0 (R351). -/
def writeValid (d : Nat) (v : Bool) (s : State) : State :=
  if blockState (0x11 + d) s = 0 then s else setValid d v s

/-- TIM_D_INC_HI is written: INC from the next tick, limited (R333). -/
def writeIncHi (d v : Nat) (s : State) : State :=
  let inc := clampInc (v % 256 * 2 ^ 32 + getF (TIM_D_INC_LO d) s)
  s |> setF (TIM_D_INC_HI_NS d) (inc / 2 ^ 32) |> setF (TIM_D_INC_LO d) inc
    |> State.setDom d { s.dom d with incNext := some inc }

/-- TIM_D_ADJ is written: writes within one tick add together (R333). -/
def writeAdj (d v : Nat) (s : State) : State :=
  s.setDom d { s.dom d with adj := (s.dom d).adj + toSigned 32 v }

/-- TIM_D_CTRL.SET is written (R333). -/
def writeSet (d : Nat) (s : State) : State :=
  s.setDom d { s.dom d with set := some (getF (TIM_D_SET_HI d) s * 2 ^ 32 + getF (TIM_D_SET_LO d) s) }

/-- TIM_D_VALID_WRITE (R335, R339). -/
def execTimDValidWrite (who : Who) (d : Fin 2) (v : Bool) (s : State) : Host.Outcome State Fault Refusal :=
  .next (domainWrite who d.val (TIM_D_CTRL_VALID d.val).addr (writeValid d.val v) s)

/-- TIM_D_INC_WRITE (R333). -/
def execTimDIncWrite (who : Who) (d : Fin 2) (v : Word) (s : State) : Host.Outcome State Fault Refusal :=
  .next (domainWrite who d.val (TIM_D_INC_HI_NS d.val).addr (writeIncHi d.val v.toNat) s)

/-- TIM_D_ADJ_WRITE (R333). -/
def execTimDAdjWrite (who : Who) (d : Fin 2) (v : Word) (s : State) : Host.Outcome State Fault Refusal :=
  .next (domainWrite who d.val (TIM_D_ADJ d.val).addr (writeAdj d.val v.toNat) s)

/-- TIM_D_SET (R333). -/
def execTimDSet (who : Who) (d : Fin 2) (s : State) : Host.Outcome State Fault Refusal :=
  .next (domainWrite who d.val (TIM_D_CTRL_SET d.val).addr (writeSet d.val) s)

/-! ## The servo's messages (R337–R339) -/

/-- The servo has no grandmaster and no exchange in progress, and its port is in state `pstate` (R351; log 39). -/
def restServo (d pstate : Nat) (s : State) : State :=
  s.setDom d { s.dom d with gm := none, foreign := [], sync := none, t12 := none, t3 := none, good := 0 }
    |> setF (TIM_D_STAT_PSTATE d) pstate

/-- The servo drops its grandmaster: LISTENING, and VALID falls unless the host keeps it (R339). The other masters it hears
stay known. -/
def loseMaster (d : Nat) (s : State) : State :=
  let others := match (s.dom d).gm with
    | some src => (s.dom d).foreign.filter (fun x => decide (x.src ≠ src))
    | none => []
  let s := restServo d 1 s
  let s := s.setDom d { s.dom d with foreign := others }
  ifS (!getB (TIM_D_CFG_HOST d) s) (setValid d false) s

/-- ANNOUNCE_TIMEOUT (R339). -/
def execAnnounceTimeout (d : Fin 2) (s : State) : Host.Outcome State Fault Refusal :=
  .next (if runs (0x11 + d.val) s && decide (blockState 0x10 s ≠ 7) then loseMaster d.val s else s)

/-- A signed 32-bit register value that saturates. -/
def sat32 (x : Int) : Nat := ofSigned 32 (clampI x (-(2 ^ 31 : Nat)) ((2 ^ 31 - 1 : Nat) : Int))

/-- The measurement record is posted in host mode (R339). -/
def postRecord (d : Nat) (t1 : Int) (t2 t3 : Nat) (t4 : Int) (s : State) : State :=
  let put (k : Nat) (v : Int) (s : State) : State :=
    let n := ofSigned 64 v
    s |> setF (TIM_D_T d (2 * k)) n |> setF (TIM_D_T d (2 * k + 1)) (n / 2 ^ 32)
  s |> put 0 t1 |> put 1 t2 |> put 2 t3 |> put 3 t4 |> addF (TIM_D_MCNT d) 1 |> raise (0x11 + d) 3

/-- VALID follows the offsets: 16 in a row within ±1,000 ns set it, one beyond ±10,000 ns clears it (R339). -/
def judgeOffset (d : Nat) (off : Int) (s : State) : State :=
  let n := if off.natAbs ≤ 1000 then (s.dom d).good + 1 else 0
  let s := s.setDom d { s.dom d with good := min n 16 }
  if off.natAbs > 10000 then setValid d false s
  else if 16 ≤ n then setValid d true s else s

/-- The difference a − b of two times, modulo 2⁶⁴ and signed (R331). -/
def tnsDiff (a b : Int) : Int := toSigned 64 (ofSigned 64 (a - b))

/-- A PTP exchange of domain `d` completes with T1–T4 (R339). The servo's own writes of INC, ADJ and SET come as register
writes by firmware. -/
def measured (d : Nat) (t1 : Int) (t2 t3 : Nat) (t4 : Int) (s : State) : State :=
  let mpd := shr (tnsDiff t2 t1 + tnsDiff t4 t3) 1
  let off := tnsDiff t2 t1 - mpd
  let s := s |> setF (TIM_D_OFFSET d) (sat32 off)
    |> setF (TIM_D_MPD d) (clampI mpd 0 ((2 ^ 32 - 1 : Nat) : Int)).toNat |> setF (TIM_D_STAT_PSTATE d) 3
  if getB (TIM_D_CFG_HOST d) s then postRecord d t1 t2 t3 t4 s else judgeOffset d off s

/-- TNS of an 80-bit PTP timestamp at `off` of a message (R331). -/
def ptpTime (m : List Byte) (off : Nat) : Int := (((beAt m off 6 * 10 ^ 9 + beAt m (off + 6) 4) % 2 ^ 64 : Nat) : Int)

/-- The 80-bit PTP timestamp of a TNS (R331). -/
def ptpStamp (t : Nat) : List Byte := natBe 6 (t / 10 ^ 9 % 2 ^ 48) ++ natBe 4 (t % 10 ^ 9)

/-- A message's correctionField in whole nanoseconds, by floor (R339). -/
def ptpCorr (m : List Byte) : Int := shr (toSigned 64 (beAt m 8 8)) 16

/-- messageType of a PTP message. -/
def ptpType (m : List Byte) : Nat := beAt m 0 1 % 16

/-- logMessageInterval lies in the range of R337 for the message; that of a unicast Delay_Resp is 0x7F (log 39). -/
def ptpRate (m : List Byte) : Bool :=
  let i := toSigned 8 (beAt m 33 1)
  match ptpType m with
  | 0x0 => decide (-7 ≤ i) && decide (i ≤ 1)
  | 0x8 => decide (-7 ≤ i) && decide (i ≤ 1)
  | 0xB => decide (-3 ≤ i) && decide (i ≤ 3)
  | 0x9 => (decide (-7 ≤ i) && decide (i ≤ 5)) || (decide (i = 0x7F) && bitOf (beAt m 6 1) 2)
  | _ => true

/-! ### The best master (R339; log 39) -/

/-- Priorities, quality and identity of the grandmaster that an Announce message names, in order of preference. -/
def ptpRank (m : List Byte) : Nat := beAt m 47 14

/-- stepsRemoved of an Announce message. -/
def ptpSteps (m : List Byte) : Nat := beAt m 61 2

/-- A foreign master is better than another: by grandmaster, then by fewer steps, then by the sender's and the receiving
port's identity. -/
def betterMaster (x y : Foreign) : Bool :=
  let key (z : Foreign) : List Nat := [ptpRank z.msg, ptpSteps z.msg, z.src, z.port]
  let rec less : List Nat → List Nat → Bool
    | a :: r, b :: q => decide (a < b) || (decide (a = b) && less r q)
    | _, _ => false
  less (key x) (key y)

/-- The announce interval of a master, ns: 2 to the logMessageInterval of its message. -/
def announceNs (m : List Byte) : Nat :=
  let i := toSigned 8 (beAt m 33 1)
  if 0 ≤ i then 10 ^ 9 * 2 ^ i.toNat else 10 ^ 9 / 2 ^ (-i).toNat

/-- A master counts: two Announce messages of it came within four intervals, the last of them within four of now, and it is
fewer than 255 steps away. -/
def qualified (t : Nat) (x : Foreign) : Bool :=
  x.twice && decide ((diff64 t x.last).natAbs ≤ 4 * announceNs x.msg) && decide (ptpSteps x.msg < 255)

/-- The best of the masters that count. -/
def bestMaster (t : Nat) (l : List Foreign) : Option Foreign :=
  (l.filter (qualified t)).foldl (fun a x => match a with
    | none => some x
    | some y => if betterMaster x y then some x else some y) none

/-- A master is followed: its data are shown, and a change of grandmasterIdentity starts the servo anew (R339). -/
def followMaster (d : Nat) (x : Foreign) (s : State) : State :=
  let m := x.msg
  let first := (s.dom d).gm.isNone
  let gmid := beAt m 53 8
  let old := getF (TIM_D_GMID_HI d) s * 2 ^ 32 + getF (TIM_D_GMID_LO d) s
  let s := s.setDom d { s.dom d with gm := some x.src }
  let s := s |> setF (TIM_D_GMID_LO d) gmid |> setF (TIM_D_GMID_HI d) (gmid / 2 ^ 32) |> setF (TIM_D_STAT_PORT d) x.port
    |> setF (TIM_D_UTC_OFFSET d) (beAt m 44 2) |> setF (TIM_D_UTC_VALID d) (beAt m 7 1 / 4)
  let s := ifS first (setF (TIM_D_STAT_PSTATE d) 2) s
  if gmid = old then s else
  let s := s.setDom d { s.dom d with sync := none, t12 := none, t3 := none, good := 0 }
  let s := s |> setF (TIM_D_STAT_PSTATE d) 2 |> raise (0x11 + d) 4
  ifS (!getB (TIM_D_CFG_HOST d) s) (setValid d false) s

/-- An Announce message received on a port, from an address: the best master is chosen anew (R339). -/
def ptpAnnounce (d port : Nat) (from_ : List Byte) (m : List Byte) (s : State) : State :=
  let src := beAt m 20 10
  let t := now s
  let same (x : Foreign) : Bool := decide (x.src = src) && decide (x.port = port)
  let twice := match (s.dom d).foreign.find? same with
    | some x => x.twice || decide ((diff64 t x.last).natAbs ≤ 4 * announceNs m)
    | none => false
  let l := ⟨port, src, from_, m, t, twice⟩ :: ((s.dom d).foreign.filter (fun x => !same x)).take 15
  let s := s.setDom d { s.dom d with foreign := l }
  match bestMaster t l with
  | some x => followMaster d x s
  | none => s

/-! ### Measurements (R339) -/

/-- portIdentity of a port of the device: the EUI-64 of its MAC address, and its number from 1 (log 39). -/
def portIdentity (p : Nat) (s : State) : Nat :=
  let mac := portMac p s
  (mac / 2 ^ 24 * 2 ^ 40 + 0xFFFE * 2 ^ 24 + mac % 2 ^ 24) * 2 ^ 16 + (p + 1)

/-- A Sync, Follow_Up or Delay_Resp message of the grandmaster in force; a Delay_Resp answers the device's own request (R339). -/
def ptpMeasure (d : Nat) (m : List Byte) (stamp : Nat) (s : State) : State :=
  let x := s.dom d
  let seq := beAt m 30 2
  match ptpType m with
  | 0x0 =>
    if beAt m 6 1 / 2 % 2 = 1 then s.setDom d { x with sync := some (seq, ptpCorr m, stamp, true) }
    else s.setDom d { x with sync := none, t12 := some (ptpTime m 34 + ptpCorr m, stamp) }
  | 0x8 =>
    match x.sync with
    | some (q, corr, t2, true) =>
      if q = seq then s.setDom d { x with sync := none, t12 := some (ptpTime m 34 + ptpCorr m + corr, t2) } else s
    | _ => s
  | 0x9 =>
    match x.t12, x.t3 with
    | some (t1, t2), some (q, t3, port) =>
      if q = seq ∧ beAt m 44 10 = portIdentity port s then
        s.setDom d { x with t3 := none } |> measured d t1 t2 t3 (ptpTime m 34 - ptpCorr m)
      else s
    | _, _ => s
  | _ => s

/-- A received PTP message goes to domain `d` (R338): its port, domainNumber and transport match, and the page is ON; a page
that stops takes what ends an exchange (R35, R351). -/
def ptpMatches (d port transport : Nat) (m : List Byte) (s : State) : Bool :=
  runs (0x11 + d) s && (isOn (0x11 + d) s || decide (ptpType m ≠ 0)) && bitOf (getF (TIM_D_CFG_PORTS d) s) port && decide (getF (TIM_D_CFG_DNUM d) s = beAt m 4 1) &&
  decide (getF (TIM_D_CFG_TRANSPORT d) s = transport)

/-- A PTP message that domain `d` takes (R337–R339); `stamp` is its receive stamp in domain `d`, and `from_` its sender's
address. Messages with a rate out of range, and Signaling and Management, are counted (log 39). -/
def ptpReceive (d port : Nat) (from_ : List Byte) (m : List Byte) (stamp : Nat) (s : State) : State :=
  if !ptpRate m then s.setDom d { s.dom d with badRate := (s.dom d).badRate + 1 }
  else if ptpType m = 0xC ∨ ptpType m = 0xD then s.setDom d { s.dom d with notActed := (s.dom d).notActed + 1 }
  else if ptpType m = 0xB then ptpAnnounce d port from_ m s
  else match (s.dom d).gm with
    | some src => if beAt m 20 10 = src then ptpMeasure d m stamp s else s
    | none => s

/-- A PTP message has left the port: a Delay_Req gives T3 (R339, R340). -/
def ptpSent (port transport : Nat) (m : List Byte) (s : State) : State :=
  if ptpType m ≠ 1 then s else
  each [0, 1] (fun d t => ifS (ptpMatches d port transport m t)
    (fun t => t.setDom d { t.dom d with
      t3 := some (beAt m 30 2, ((t.dom d).count + getF (TIM_TXDLY_DELAY port) t * 2 ^ 28) / 2 ^ 32, port) }) t) s

/-- A Delay_Req message of domain `d` on a port (R337; IEEE 1588-2019): version 2.1, the domain's number, the port's identity,
sequenceId and the domain's time. -/
def delayReq (d port : Nat) (unicast : Bool) (s : State) : List Byte :=
  natBe 4 (0x01120000 + 44) ++ natBe 1 (getF (TIM_D_CFG_DNUM d) s) ++ natBe 1 0 ++ natBe 2 (if unicast then 0x0400 else 0) ++ natBe 12 0 ++
    natBe 10 (portIdentity port s) ++ natBe 2 (s.dom d).seq ++ natBe 2 0x017F ++ ptpStamp ((s.dom d).count / 2 ^ 32)

/-- The frame of a Delay_Req: to PTP's primary multicast group, or to the master's address (R337). -/
def delayReqFrame (d port : Nat) (master : Option (List Byte)) (s : State) : List Byte :=
  let m := delayReq d port master.isSome s
  let tr := getF (TIM_D_CFG_TRANSPORT d) s
  if tr = 2 then etherHeader (beAt (master.getD (natBe 6 0x011B19000000)) 0 6) (portMac port s) 0x88F7 ++ m
  else
    let v6 := decide (tr = 1)
    let f := udpFrame port (portMac port s) v6 (portAddr port v6) (master.getD (if v6 then natBe 16 0xFF0E0000000000000000000000000181 else natBe 4 0xE0000181)) 319 319 m
    match master with
    | some _ => f
    | none => natBe 6 (if v6 then 0x333300000181 else 0x01005E000181) ++ f.drop 6

/-- The address that the grandmaster in force sends from. -/
def masterAddr (d : Nat) (s : State) : Option (List Byte) :=
  (s.dom d).gm.bind (fun src => ((s.dom d).foreign.find? (fun x => decide (x.src = src))).map (fun x => x.addr))

/-- PTP_DELAY_REQ_SEND: the servo of a domain with a grandmaster hands a Delay_Req, multicast or unicast, to the system queue
of a port of its domain (R337, R340). -/
def execPtpDelayReqSend (d : Fin 2) (port : Fin 5) (unicast : Bool) (s : State) : Host.Outcome State Fault Refusal :=
  .next (if isOn (0x11 + d.val) s && bitOf (getF (TIM_D_CFG_PORTS d.val) s) port.val && (s.dom d.val).gm.isSome then
      let s := s.setDom d.val { s.dom d.val with seq := ((s.dom d.val).seq + 1) % 65536 }
      sendSystem port.val (delayReqFrame d.val port.val (if unicast then masterAddr d.val s else none) s) s
    else s)

/-! ## Transmit timestamps (R341, R349) -/

/-- The window of a port's transmit timestamp queue shows its head. -/
def showTxq (p : Nat) (s : State) : State :=
  let z (f : Nat → Fld) (v : Nat) (s : State) : State := setF (f p) v s
  match s.txq p with
  | [] => s |> wr (TIM_TXQ_ID_VALID p).addr 0 |> z TIM_TXQ_S_LO 0 |> z TIM_TXQ_S_HI 0 |> z TIM_TXQ_A_LO 0
    |> z TIM_TXQ_A_HI 0 |> z TIM_TXQ_B_LO 0 |> z TIM_TXQ_B_HI 0 |> z TIM_TXQ_STAT_COUNT 0
  | e :: r => s |> z TIM_TXQ_ID_SEQ_ID e.seqId |> z TIM_TXQ_ID_MSGTYPE e.msgType |> z TIM_TXQ_ID_PORT e.port
    |> z TIM_TXQ_ID_VALID 1 |> z TIM_TXQ_S_LO e.s |> z TIM_TXQ_S_HI (e.s / 2 ^ 32) |> z TIM_TXQ_A_LO e.a
    |> z TIM_TXQ_A_HI (e.a / 2 ^ 32) |> z TIM_TXQ_B_LO e.b |> z TIM_TXQ_B_HI (e.b / 2 ^ 32)
    |> z TIM_TXQ_STAT_COUNT (r.length + 1)

/-- A transmit stamp arrives at the queue of port `p` (R341). -/
def pushTxq (p : Nat) (e : TxStamp) (s : State) : State :=
  if 64 ≤ (s.txq p).length then
    s |> setB (TIM_TXQ_STAT_OVERFLOW p) true |> countF (TIM_TXQ_LOST p) |> raise 0x10 8
  else s.setTxq p (s.txq p ++ [e]) |> showTxq p

/-- POP removes the head entry (R341). -/
def popTxq (p : Nat) (s : State) : State := s.setTxq p (s.txq p).tail |> showTxq p

/-- TXQ_POP (R341). -/
def execTxqPop (who : Who) (port : Fin 5) (s : State) : Host.Outcome State Fault Refusal :=
  .next (guardWrite who 0x10 (TIM_TXQ_CTRL_POP port.val).addr (isOwner who 0x10 s) (popTxq port.val) s)

/-! ## Arming timer channels (R344, R345) -/

/-- The staged set of channel `c` (R345). -/
def stagedSet (c : Nat) (s : State) : TimerSet where
  cfg := rd (TIM_CH_CFG_MODE c).addr s
  startLo := rd (TIM_CH_START_LO c).addr s
  startHi := rd (TIM_CH_START_HI c).addr s
  periodNs := rd (TIM_CH_PERIOD_NS c).addr s
  periodFrac := rd (TIM_CH_PERIOD_FRAC c).addr s
  width := getF (TIM_CH_WIDTH_NS c) s

/-- MODE of a set (R344). -/
def TimerSet.mode (t : TimerSet) : Nat := t.cfg.toNat / 2 ^ 30

/-- POL: active low. -/
def TimerSet.pol (t : TimerSet) : Bool := bitOf t.cfg.toNat 29

/-- GROUP of FRAME mode. -/
def TimerSet.group (t : TimerSet) : Nat := bitsOf t.cfg.toNat 28 27

/-- TARGET of an internal channel (R346). -/
def TimerSet.target (t : TimerSet) : Nat := bitsOf t.cfg.toNat 26 24

/-- DIV; 0 acts as 1 (R344). -/
def TimerSet.div (t : TimerSet) : Nat := max 1 (bitsOf t.cfg.toNat 23 16)

/-- START as TNS. -/
def TimerSet.start (t : TimerSet) : Nat := t.startHi.toNat * 2 ^ 32 + t.startLo.toNat

/-- P in units of 2⁻³² ns. -/
def TimerSet.period (t : TimerSet) : Nat := t.periodNs.toNat * 2 ^ 32 + t.periodFrac.toNat

/-- T_k of a PERIODIC channel (R344). -/
def TimerSet.edge (t : TimerSet) (k : Nat) : Nat := (t.start + k * t.period / 2 ^ 32) % 2 ^ 64

/-- The first whole nanosecond at least 2 µs after the selected time. -/
def soon (s : State) : Nat := (s.tim.s + 2 ^ 32 - 1) / 2 ^ 32 + 2000

/-- The first k whose T_k lies at least 2 µs ahead (R345). -/
def TimerSet.firstK (t : TimerSet) (s : State) : Nat :=
  if tnsLe (soon s) t.start then 0
  else ceilDiv ((soon s + 2 ^ 64 - t.start % 2 ^ 64) % 2 ^ 64 * 2 ^ 32) (max 1 t.period)

/-- The edge of a frame whose FS has just been fixed, at least 2 µs ahead (R344). -/
def frameEdge (fs : Nat) (off : Int) (s : State) : Nat :=
  let t := ofSigned 64 ((fs : Int) + off)
  if tnsLe (soon s) t then t else soon s

/-- The frames of a group whose FS is fixed: the one that runs, the one latched and the one after it, by index and FS (R142). -/
def fixedFrames (g : Nat) (s : State) : List (Nat × Nat) :=
  let x := s.grp g
  (if x.phase = .none ∨ (x.phase = .latched ∧ x.first = true) then [] else
    [(x.curIdx, getF (RAS_FS_LO g) s + getF (RAS_FS_HI g) s * 2 ^ 32)]) ++
  (if x.phase = .latched then [(x.idx, x.fs)] else []) ++ (if x.hasNext then [(x.nextIdx, x.nextFs)] else [])

/-- A pulse in progress ends 8 ns before an edge that is placed within it (R344). -/
def cutPulse (e : Nat) (x : Timer) : Timer :=
  { x with activeUntil := x.activeUntil.map (fun u => if tnsLe e u then (e + 2 ^ 64 - 8) % 2 ^ 64 else u) }

/-- FRAME channels of group `g` place the edge of frame `n` when FSₙ is fixed (R344). -/
def placeFrameEdges (g n fs : Nat) (s : State) : State :=
  each (List.range 16) (fun c t =>
    let x := t.timer c
    if getB (TIM_CH_STAT_ARMED c) t && decide (x.set.mode = 3) && decide (x.set.group = g) && decide (n % x.set.div = 0)
    then
      let e := frameEdge fs (toSigned 32 x.set.startLo.toNat) t
      t.setTimer c (cutPulse e { x with placed := x.placed ++ [e] })
    else t) s

/-- TIMER_LATE, with LATE set where R345 says so. -/
def timerLate (c : Nat) (late : Bool) (s : State) : State :=
  s |> ifS late (setB (TIM_CH_STAT_LATE c) true) |> raise 0x10 9

/-- The staged set is latched; an edge not yet begun belongs to the new schedule, and a pin at rest takes the inactive level
of the new POL (R344, R345). -/
def latchSet (c : Nat) (t : TimerSet) (next : Option (Nat × Nat)) (placed : List Nat) (armed : Bool) (s : State) : State :=
  let turn := decide (c < 8) && decide (t.pol ≠ (s.timer c).set.pol) && (s.timer c).activeUntil.isNone
  s.setTimer c { s.timer c with set := t, nextEdge := next, placed := placed } |> setB (TIM_CH_STAT_ARMED c) armed
    |> ifS turn (emit (.tp c t.pol))

/-- ARM (R345). -/
def armTimer (c : Nat) (s : State) : State :=
  let t := stagedSet c s
  if !getB TIM_STAT_SEL_VALID s then timerLate c false s
  else if t.mode = 2 ∧ t.periodNs.toNat < 1000 then timerLate c false s
  else if t.mode = 1 then
    if tnsLe (soon s) t.start then latchSet c t (some (t.start, 0)) [] true s else timerLate c true s
  else if t.mode = 2 then
    let k := t.firstK s
    latchSet c t (some (t.edge k, k)) [] true s
  else if t.mode = 3 then
    latchSet c t none (((fixedFrames t.group s).filter (fun x => decide (x.1 % t.div = 0))).filterMap (fun x =>
      let e := ofSigned 64 ((x.2 : Int) + toSigned 32 t.startLo.toNat)
      if tnsLe (soon s) e then some e else none)) true s
  else latchSet c t none [] false s

/-- DISARM: the schedule ends after any active pulse; edges that cue actions placed stay (R345, R365). -/
def disarmTimer (c : Nat) (s : State) : State :=
  s.setTimer c { s.timer c with nextEdge := none, placed := [] } |> setB (TIM_CH_STAT_ARMED c) false

/-- TIMER_ARM (R345). -/
def execTimerArm (who : Who) (ch : Fin 16) (s : State) : Host.Outcome State Fault Refusal :=
  .next (guardWrite who 0x10 (TIM_CH_CTRL_ARM ch.val).addr (isOwner who 0x10 s) (armTimer ch.val) s)

/-- TIMER_DISARM (R345). -/
def execTimerDisarm (who : Who) (ch : Fin 16) (s : State) : Host.Outcome State Fault Refusal :=
  .next (guardWrite who 0x10 (TIM_CH_CTRL_DISARM ch.val).addr (isOwner who 0x10 s) (disarmTimer ch.val) s)

end Sys2Proof.Machine
end

