-- ==== Sys2Proof/Machine/Capture.lean ====
section
/-!
DEFINITION. What the blocks that make pictures tell the encode sessions (R299, R300): a picture to take, a source that is
gone, and the causes of a session (R308, R310).
-/

namespace Sys2Proof.Machine

/-- Page index and local number of session `i` (R308). -/
def sessPage (i : Nat) : Nat := i / 4
def sessLocal (i : Nat) : Nat := i % 4

/-- SESSION_CAUSE of session `i` follows its causes (R308). -/
def refreshSession (i : Nat) (s : State) : State :=
  summary (0x150 + sessPage i) (2 + sessLocal i)
    (decide (Nat.land (getF (ENC_S_CAUSE_ALL (sessPage i) (sessLocal i)) s) (getF (ENC_S_CAUSE_EN_ALL (sessPage i) (sessLocal i)) s) ≠ 0)) s

/-- Cause bit `b` of session `i` is set (R310). -/
def sessCause (i b : Nat) (s : State) : State :=
  s |> orF (ENC_S_CAUSE_ALL (sessPage i) (sessLocal i)) (2 ^ (b - 1)) |> refreshSession i

/-- ENC_S_STAT shows session `i` (R310). -/
def showSession (i : Nat) (s : State) : State :=
  let x := s.sess i
  let p := sessPage i
  let l := sessLocal i
  s |> setF (ENC_S_STAT_STATE p l) x.state |> setF (ENC_S_STAT_OWNER p l) x.owner |> setF (ENC_S_STAT_CORE p l) x.cfg.core
    |> setF (ENC_S_STAT_QUEUED p l) ((x.queued.filter (fun c => c.done)).length)

/-- A picture of a source is available: each open session of that source takes it where i mod DIV = 0 (R299). `index` is
the frame index of a probe; a camera frame or a plane picture counts from the session's opening. -/
def takePicture (kind id : Nat) (index : Option Nat) (c : Capture) (s : State) : State :=
  each (List.range 16) (fun i t =>
    let x := t.sess i
    if x.state ≠ 1 ∨ x.gone = true ∨ x.cfg.srcKind ≠ kind ∨ x.cfg.srcId ≠ id then t
    else
      let n := index.getD x.count
      let x := { x with count := x.count + 1 }
      t.setSess i (if n % max 1 x.cfg.div = 0 then { x with offers := x.offers ++ [{ c with index := n }] } else x)) s

/-- A plane that is freed is no source any more: SOURCE_GONE once (R299). -/
def sourceGone (plane : Nat) (s : State) : State :=
  each (List.range 16) (fun i t =>
    let x := t.sess i
    if x.state = 1 ∧ x.gone = false ∧ x.cfg.srcKind = 2 ∧ x.cfg.srcId = plane then
      t.setSess i { x with gone := true, offers := [] } |> sessCause i 8
    else t) s

/-- A camera frame in a format that sessions do not take (R299). -/
def wrongFormat (output : Nat) (s : State) : State :=
  each (List.range 16) (fun i t =>
    let x := t.sess i
    if x.state = 1 ∧ x.cfg.srcKind = 1 ∧ x.cfg.srcId = output then sessCause i 7 t else t) s

/-- A probe starts to write buffer address `a` before a capture of it has ended: the capture is lost (R300). -/
def probeOverwrites (probe a : Nat) (s : State) : State :=
  each (List.range 16) (fun i t =>
    let x := t.sess i
    let hit (c : Capture) : Bool := decide (x.cfg.srcKind = 0) && decide (x.cfg.srcId = probe) && decide (c.addr = a) && !c.done
    if x.queued.any hit ∨ x.offers.any hit then
      t.setSess i { x with queued := x.queued.filter (fun c => !hit c), offers := x.offers.filter (fun c => !hit c) }
        |> countF (ENC_S_DROP (sessPage i) (sessLocal i)) |> sessCause i 6 |> showSession i
    else t) s

end Sys2Proof.Machine
end

