-- ==== Sys2Proof/Machine/Planes.lean ====
section
/-!
DEFINITION. Planes and windows (spec/09): the plane storage, the records and their checks, leases and releases (R135–R138),
the queue of builds and the arithmetic of a build.
-/

namespace Sys2Proof.Machine

/-! ## Placing buffers in a pool (log 12) -/

/-- `need` KiB from `x` lie inside the pool and clear of every extent in use. -/
def placeOk (total : Nat) (used : List (Nat × Nat)) (need x : Nat) : Bool :=
  decide (x + need ≤ total) && used.all (fun u => decide (x + need ≤ u.1) || decide (u.1 + u.2 ≤ x))

/-- KiB of the extents in use. -/
def usedKib (used : List (Nat × Nat)) : Nat := (used.map (fun u => u.2)).sum

/-- Where an allocator puts `need` KiB of a pool of `total`: where the implementation says, if that is legal, else the
first place that fits; none when the pool cannot hold it. -/
def findPlace (pool total : Nat) (used : List (Nat × Nat)) (need : Nat) : Option Nat :=
  if total < usedKib used + need then none
  else
    let x := Config.place pool used need / 4 * 4
    if placeOk total used need x then some x
    else (0 :: used.map (fun u => u.1 + u.2)).find? (placeOk total used need)

/-- Places for `n` buffers of `need` KiB each; none when the pool cannot hold them. -/
def placeMany (pool total need : Nat) : Nat → List (Nat × Nat) → Option (List Nat)
  | 0, _ => some []
  | n + 1, used =>
    match findPlace pool total used need with
    | none => none
    | some x => (placeMany pool total need n ((x, need) :: used)).map (fun l => x :: l)

/-- First addresses of the HBM classes PLANE, REFERENCE and ENCODE (R411). -/
def planeClass : Nat := 41 * 2 ^ 30
def referenceClass : Nat := 9 * 2 ^ 30
def encodeClass : Nat := 57 * 2 ^ 30

/-! ## Plane storage (R262–R265, R91) -/

/-- Texels of a dimension at level L (R91). -/
def lvl (w l : Nat) : Nat := (w + 2 ^ l - 1) / 2 ^ l

/-- Pitch of a row of `w` items of `b` bytes (R263). -/
def pitchOf (b w : Nat) : Nat := 64 * ceilDiv (b * w) 64

/-- Words of an occupancy row (R263). -/
def occWords (w : Nat) : Nat := ceilDiv (ceilDiv w 64) 16

/-- Pitch and lines of section `k` of a buffer: C0, A0, C1, A1, C2, A2, OCC (R263). -/
def section_ (w h k : Nat) : Nat × Nat :=
  if k = 6 then (pitchOf 4 (occWords w), ceilDiv h 64)
  else (pitchOf (if k % 2 = 0 then 4 else 2) (lvl w (k / 2)), lvl h (k / 2))

/-- Bytes of a section. -/
def sectionLen (w h k : Nat) : Nat := ceilDiv ((section_ w h k).1 * (section_ w h k).2) 4096 * 4096

/-- Offset of a section from the buffer's start. -/
def sectionOff (w h k : Nat) : Nat := ((List.range k).map (sectionLen w h)).sum

/-- Bytes of a buffer. -/
def bufferLen (w h : Nat) : Nat := sectionOff w h 7

/-- Address of texel (i, j) of level `l`, colour, in the buffer at `a`. -/
def colAddr (a w h l i j : Nat) : Nat := a + sectionOff w h (2 * l) + j * (section_ w h (2 * l)).1 + 4 * i

/-- Address of its alpha. -/
def alpAddr (a w h l i j : Nat) : Nat := a + sectionOff w h (2 * l + 1) + j * (section_ w h (2 * l + 1)).1 + 2 * i

/-- A 32-bit word of HBM (R9). -/
def hbmWord (a : Nat) (s : State) : Nat :=
  (hbmGet a s).toNat + 256 * (hbmGet (a + 1) s).toNat + 65536 * (hbmGet (a + 2) s).toNat + 16777216 * (hbmGet (a + 3) s).toNat

/-- A 16-bit halfword of HBM (R9). -/
def hbmHalf (a : Nat) (s : State) : Nat := (hbmGet a s).toNat + 256 * (hbmGet (a + 1) s).toNat

/-- Writes a halfword. -/
def putHalf (a v : Nat) (s : State) : State :=
  memWrite .hbm a [BitVec.ofNat 8 v, BitVec.ofNat 8 (v / 256)] s

/-- Writes a word. -/
def putWord (a v : Nat) (s : State) : State := memWrite .hbm a (wordBytes (Word.ofNat v)) s

/-- The C30 word of three codes (R262). -/
def c30 (y cb cr : Nat) : Nat := y * 2 ^ 20 + cb * 2 ^ 10 + cr

/-- Component `k` of a C30 word: 0 Y′, 1 Cb, 2 Cr. -/
def c30Part (w k : Nat) : Nat := w / 2 ^ (20 - 10 * k) % 1024

/-- Texel (i, j) of level `l` of the level above it (R264): component 0–2, or 3 for A. -/
def halve (a w h l i j k : Nat) (s : State) : Nat :=
  let get (x y : Nat) : Nat :=
    let x := min x (lvl w l - 1)
    let y := min y (lvl h l - 1)
    if k = 3 then hbmHalf (alpAddr a w h l x y) s % 1024 else c30Part (hbmWord (colAddr a w h l x y) s) k
  (get (2 * i) (2 * j) + get (2 * i + 1) (2 * j) + get (2 * i) (2 * j + 1) + get (2 * i + 1) (2 * j + 1) + 2) / 4

/-- Level `l + 1` is written from level `l` (R264). -/
def writeLevel (a w h l : Nat) (s : State) : State :=
  each (List.range (lvl h (l + 1))) (fun j => each (List.range (lvl w (l + 1))) (fun i t =>
    t |> putWord (colAddr a w h (l + 1) i j) (c30 (halve a w h l i j 0 t) (halve a w h l i j 1 t) (halve a w h l i j 2 t))
      |> putHalf (alpAddr a w h (l + 1) i j) (halve a w h l i j 3 t))) s

/-- The occupancy code of block (bx, by) (R265): 0 EMPTY, 1 OPAQUE, 2 PARTIAL, over the block and its ring of 8. -/
def occCode (a w h bx by_ : Nat) (s : State) : Nat :=
  let xs := (List.range 80).filterMap (fun d => if 64 * bx + d < 8 ∨ w ≤ 64 * bx + d - 8 then none else some (64 * bx + d - 8))
  let ys := (List.range 80).filterMap (fun d => if 64 * by_ + d < 8 ∨ h ≤ 64 * by_ + d - 8 then none else some (64 * by_ + d - 8))
  let test (v : Nat) : Bool := ys.all (fun y => xs.all (fun x => decide (hbmHalf (alpAddr a w h 0 x y) s % 1024 = v)))
  if test 0 then 0 else if test 1023 then 1 else 2

/-- The occupancy map is written; the bytes of a row beyond its last word are 0 (R265). -/
def writeOcc (a w h : Nat) (s : State) : State :=
  let p := (section_ w h 6).1
  let base := a + sectionOff w h 6
  each (List.range (ceilDiv h 64)) (fun by_ => each (List.range (p / 4)) (fun k t =>
    let v := (List.range 16).foldl (fun acc i =>
      let bx := 16 * k + i
      if bx < ceilDiv w 64 then acc + occCode a w h bx by_ t * 4 ^ i else acc) 0
    putWord (base + by_ * p + 4 * k) v t)) s

/-- Levels 1 and 2 and the occupancy map follow from level 0 (R264, R265). -/
def writeReduced (a w h : Nat) (s : State) : State :=
  s |> writeLevel a w h 0 |> writeLevel a w h 1 |> writeOcc a w h

/-! ## Planes in use -/

/-- Byte address of buffer `b` of a plane. -/
def bufAddr (p : Plane) (b : Nat) : Nat := p.addrs.getD b 0

/-- KiB of one buffer of a plane. -/
def bufKib (t : PlaneSet) : Nat := bufferLen t.w t.h / 1024

/-- The extents of the plane pool in use, KiB from its start (R266). -/
def planeUsed (s : State) : List (Nat × Nat) :=
  (List.range 256).flatMap (fun i =>
    let p := s.plane i
    if p.state = 0 then [] else p.addrs.map (fun a => ((a - planeClass) / 1024, bufKib p.set)))

/-- ASM_USE and ASM_POOL show the tables (R292). -/
def showAsm (s : State) : State :=
  s |> setF ASM_USE_WINDOWS s.asm.wins.length
    |> setF ASM_USE_PLANES ((List.range 256).filter (fun i => decide ((s.plane i).state ≠ 0))).length
    |> setF ASM_POOL_KIB (usedKib (planeUsed s))

/-- The windows of plane `i`. -/
def planeWins (i : Nat) (s : State) : List (Nat × WinRec) :=
  s.asm.wins.filterMap (fun e => match e.2 with
    | some w => if w.cfg.plane = i then some (e.1, w.cfg) else none
    | none => none)

/-- One picture is newer than another: later presentation time, then later begun (R132, R269). -/
def newerPic (a b : Picture) : Bool := decide (0 < diff64 (ofSigned 64 a.pt) (ofSigned 64 b.pt)) || (decide (a.pt = b.pt) && decide (b.order < a.order))

/-- The newest picture that satisfies `p`. -/
def newestPic (p : Picture → Bool) (l : List Picture) : Option Picture :=
  (l.filter p).foldl (fun acc x => match acc with
    | none => some x
    | some y => if newerPic x y then some x else some y) none

/-- A frame or a capture holds buffer `b` of plane `i` (R135, R270, R300). -/
def held (i b : Nat) (s : State) : Bool := s.ras.leases.any (fun l => decide (l.plane = i) && decide (l.buf = b))

/-- A lease covers buffer `b` of host plane `i` (R135). -/
def leased (i b : Nat) (s : State) : Bool :=
  s.ras.leases.any (fun l => l.host && decide (l.plane = i) && decide (l.buf = b))

/-- The leased plane buffer that contains byte `a` of HBM: plane and buffer. -/
def leasedAt (a : Nat) (s : State) : Option (Nat × Nat) :=
  (s.ras.leases.find? (fun l =>
    let p := s.plane l.plane
    l.host && decide (bufAddr p l.buf ≤ a) && decide (a < bufAddr p l.buf + bufferLen p.set.w p.set.h))).map
    (fun l => (l.plane, l.buf))

/-! ## Leases as the write paths meet them (R138) -/

/-- The host buffers under lease. -/
def leasedBufs (s : State) : List (Nat × Nat) :=
  ((s.ras.leases.filter (fun l => l.host)).map (fun l => (l.plane, l.buf))).eraseDups

/-- A lease of a buffer as a command meets it. -/
def seenLease (s : State) (atStart : Bool) (k : Nat × Nat) : SeenLease :=
  let p := s.plane k.1
  ⟨k.1, k.2, bufAddr p k.2, bufAddr p k.2 + bufferLen p.set.w p.set.h, atStart, false⟩

/-- The leases in force as a command is accepted. -/
def leasesNow (s : State) : List SeenLease := (leasedBufs s).map (seenLease s true)

/-- The leases a command has met, brought up to those in force: some have ended, others have begun. -/
def meetLeases (s : State) (l : List SeenLease) : List SeenLease :=
  let l := l.map (fun x => if leased x.plane x.buf s then x else { x with ended := true })
  l ++ ((leasedBufs s).filter (fun k => !l.any (fun x => decide (x.plane = k.1) && decide (x.buf = k.2) && !x.ended))).map (seenLease s false)

/-- Every accepted draw command and DMA copy takes note of the leases in force. -/
def noteLeases (s : State) : State :=
  { s with asm := { s.asm with draws := s.asm.draws.map (fun j => { j with leases := meetLeases s j.leases })
                               dmas := s.asm.dmas.map (fun j => { j with leases := meetLeases s j.leases }) } }

/-- A lease or hold begins (R135, R300). -/
def addLease (l : Lease) (s : State) : State := noteLeases { s with ras := { s.ras with leases := s.ras.leases ++ [l] } }

/-- Burst `k` of a command, into byte `a`, is issued under a lease of those it has met, and so is refused (R138): the leased
buffer. The command's completion tells for each lease met which bursts were issued while it stood, from one to before another;
a lease that stood at the start covers every burst from the first, and one that still stands every burst to the last. -/
def refusedBy (l : List SeenLease) (spans : List (Nat × Nat)) (a k : Nat) : Option (Nat × Nat) :=
  match l with
  | [] => none
  | x :: r =>
    let sp := spans.headD (0, 0)
    if x.lo ≤ a ∧ a < x.hi ∧ (x.atStart = true ∨ sp.1 ≤ k) ∧ (x.ended = false ∨ k < sp.2) then some (x.plane, x.buf)
    else refusedBy r spans.tail a k

/-- A write into a leased buffer is refused (R138); PATH 0 DMA, 1 draw engine, 2 PCIe window. DESIGN CHOICE (log 49): a DMA or
draw command that lost bursts is one refused write, that of its first refused burst. -/
def leaseViolation (path part : Nat) (l : Nat × Nat) (s : State) : State :=
  s |> setF RAS_LEASE_VIOL_PLANE l.1 |> setF RAS_LEASE_VIOL_BUF l.2 |> setF RAS_LEASE_VIOL_PATH path
    |> setF RAS_LEASE_VIOL_PARTITION part |> countF RAS_LEASE_VCNT |> raise 0x90 9

/-! ## The end of a plane (R136, R270) -/

/-- Counts a READ mark on the buffer at address `a` of a context's binding. -/
def markRead (ctx a : Nat) (up : Bool) (s : State) : State :=
  let bd := s.binding ctx
  s.setBinding ctx { bd with bufs := bd.bufs.map (fun b =>
    if b.pic.addr = a then { b with reads := if up then b.reads + 1 else b.reads - 1 } else b) }

/-- The READ marks of a build's sources are set or taken back (R250, R275). -/
def markSources (srcs : List BuildSrc) (up : Bool) (s : State) : State :=
  each srcs (fun x t => t
    |> (fun s => match x.pic with | some p => markRead x.cfg.ctx p.addr up s | none => s)
    |> (fun s => match x.alpha with | some p => markRead x.cfg.ctx p.addr up s | none => s)) s

/-- The running build ends without a picture; a present that waited for it ends with ABORTED (R479). -/
def abandonBuild (s : State) : State :=
  match s.asm.run with
  | none => s
  | some r =>
    let s := markSources r.srcs false { s with asm := { s.asm with run := none } }
    match r.cmd with
    | some ref => complete true ref ABORTED 0 0 0 s
    | none => s

/-- Plane `i` becomes FREE, with its memory (R270). DESIGN CHOICE (log 53): a build of it that still runs ends without a
picture. -/
def freePlane (i : Nat) (s : State) : State :=
  let r := (s.plane i).freeing
  let s := ifS (s.asm.run.any (fun b => decide (b.plane = i))) abandonBuild s
  let s := s.setPlane i {}
  let s := s |> showAsm |> raise 0x60 10
  match r with
  | some ref => complete true ref DONE 0 0 0 s
  | none => s

/-- A release that did not complete at once has met the end of its last lease (R136). -/
def leaseDone (i b : Nat) (s : State) : State :=
  s |> setF RAS_LEASE_DONE_PLANE i |> setF RAS_LEASE_DONE_BUF b |> raise 0x90 10

/-- The last lease of buffer `b` of host plane `i` has ended: a release of the buffer completes, with its picture gone, and so
does that of the plane when no other release of it waits and no other buffer of it is held (R136). DESIGN CHOICE (log 69): where
the released picture was the plane's only one, later latches show the plane transparent without being late, and raise no
PLANE_DROPPED. -/
def releaseEnds (i b : Nat) (s : State) : State :=
  let p := s.plane i
  let mine := p.releases.filter (fun r => decide (r.1 = b))
  let s := ifS (!mine.isEmpty) (fun s => leaseDone i b (s.setPlane i { p with
    releases := p.releases.filter (fun r => decide (r.1 ≠ b)), pics := p.pics.filter (fun x => decide (x.buf ≠ b)) })) s
  let s := each (mine.filterMap (fun r => r.2)) (fun ref => complete true ref DONE 0 0 0) s
  if p.state = 2 ∧ (s.plane i).releases.isEmpty = true ∧ s.ras.leases.any (fun l => decide (l.plane = i)) = false then
    s |> leaseDone i b |> freePlane i
  else s

/-- Leases end (R135): those that satisfy `p` go, and releases that waited for them complete (R136). -/
def endLeases (p : Lease → Bool) (s : State) : State :=
  let gone := (s.ras.leases.filter (fun l => p l && l.host)).map (fun l => (l.plane, l.buf))
  let s := noteLeases { s with ras := { s.ras with leases := s.ras.leases.filter (fun l => !p l) } }
  each gone.eraseDups (fun k t => if leased k.1 k.2 t then t else releaseEnds k.1 k.2 t) s

/-! ## Records (R267, R271) -/

/-- The settings of a plane record (R267). -/
def parsePlane (ws : List Word) : PlaneSet where
  host := decide (fieldAt ws 0 23 23 = 1)
  premult := decide (fieldAt ws 0 22 22 = 1)
  nbuf := fieldAt ws 0 21 17
  pace := fieldAt ws 0 16 15
  pgroup := fieldAt ws 0 14 13
  pctx := fieldAt ws 0 9 0
  w := fieldAt ws 1 31 19 + 1
  h := fieldAt ws 1 18 6 + 1
  policy := decide (fieldAt ws 2 31 31 = 1)
  conceal := decide (fieldAt ws 2 30 30 = 1)
  holdMax := fieldAt ws 2 29 22
  buildLead := fieldAt ws 2 21 8
  period := wordAt ws 3
  bg := ws.getD 4 0
  bgA := fieldAt ws 5 9 0

/-- Reasons 0x01–0x04 of R282 for a plane record; 0 when it passes. -/
def planeReason (ws : List Word) : Nat :=
  let t := parsePlane ws
  if crcWords (ws.take 7) ≠ ws.getD 7 0 then 1
  else if fieldAt ws 0 31 24 ≠ 1 then 2
  else if fieldAt ws 0 12 10 ≠ 0 ∨ fieldAt ws 1 5 0 ≠ 0 ∨ fieldAt ws 2 7 0 ≠ 0 ∨ fieldAt ws 4 31 30 ≠ 0 ∨
    fieldAt ws 5 31 10 ≠ 0 ∨ wordAt ws 6 ≠ 0 then 3
  else if t.host = true ∧ (t.nbuf < 1 ∨ 16 < t.nbuf ∨ t.pace ≠ 2) then 4
  else if t.host = false ∧ (t.nbuf < 2 ∨ 6 < t.nbuf ∨ 1 < t.pace ∨ (t.pace = 0 ∧ t.buildLead < 100)) then 4
  else 0

/-- A window record (R271). -/
def parseWin (ws : List Word) : WinRec where
  plane := fieldAt ws 0 23 16
  order := fieldAt ws 0 15 8
  host := decide (fieldAt ws 1 31 30 = 1)
  cmark := decide (fieldAt ws 1 29 29 = 1)
  sam := fieldAt ws 1 28 27
  hset := fieldAt ws 1 26 23
  vset := fieldAt ws 1 22 19
  layer := fieldAt ws 1 18 16
  ctx := fieldAt ws 1 9 0
  sx0 := fieldAt ws 2 31 19
  sy0 := fieldAt ws 2 18 6
  sw := fieldAt ws 3 31 19 + 1
  sh := fieldAt ws 3 18 6 + 1
  dx0 := fieldAt ws 4 31 19
  dy0 := fieldAt ws 4 18 6
  dw := fieldAt ws 5 31 19 + 1
  dh := fieldAt ws 5 18 6 + 1
  wa := fieldAt ws 6 10 0
  srcC := fieldAt ws 8 31 24 * 2 ^ 32 + wordAt ws 7
  spitch := fieldAt ws 8 23 6 * 64
  srcA := fieldAt ws 10 31 24 * 2 ^ 32 + wordAt ws 9
  apitch := fieldAt ws 10 23 6 * 64

/-- Reasons 0x01–0x04 of R282 for a window record; 0 when it passes. -/
def winReason (ws : List Word) : Nat :=
  let t := parseWin ws
  if crcWords (ws.take 11) ≠ ws.getD 11 0 then 1
  else if fieldAt ws 0 31 24 ≠ 1 then 2
  else if fieldAt ws 0 7 0 ≠ 0 ∨ fieldAt ws 1 15 10 ≠ 0 ∨ fieldAt ws 2 5 0 ≠ 0 ∨ fieldAt ws 3 5 0 ≠ 0 ∨
    fieldAt ws 4 5 0 ≠ 0 ∨ fieldAt ws 5 5 0 ≠ 0 ∨ fieldAt ws 6 31 11 ≠ 0 ∨ fieldAt ws 8 5 0 ≠ 0 ∨ fieldAt ws 10 5 0 ≠ 0 then 3
  else if 2 ≤ fieldAt ws 1 31 30 ∨ t.sam = 3 ∨ 0x400 < t.wa then 4
  else if t.host = false ∧ (wordAt ws 7 ≠ 0 ∨ wordAt ws 8 ≠ 0 ∨ wordAt ws 9 ≠ 0 ∨ wordAt ws 10 ≠ 0) then 4
  else 0

/-- A HOST window's surfaces keep the C30 and A10 rules of R284. -/
def winSurfacesOk (t : WinRec) : Bool :=
  let last (base pitch px : Nat) : Nat := base + (t.sy0 + t.sh - 1) * pitch + px * (t.sx0 + t.sw)
  !t.host || (decide (t.srcC % 4 = 0) && decide (4 * (t.sx0 + t.sw) ≤ t.spitch) && decide (last t.srcC t.spitch 4 ≤ hbmTop) &&
    (decide (t.srcA = 0) || (decide (t.srcA % 2 = 0) && decide (2 * (t.sx0 + t.sw) ≤ t.apitch) && decide (last t.srcA t.apitch 2 ≤ hbmTop))))

/-- Reasons 0x05–0x08 of R282 for setting window `n` by partition `p`; 0 when it passes. -/
def winPlaceReason (p n : Nat) (t : WinRec) (s : State) : Nat :=
  let pl := s.plane t.plane
  if (pl.state ≠ 0 ∧ pl.owner ≠ p) ∨ (s.win n).any (fun w => decide (w.owner ≠ p)) = true then 5
  else if pl.state ≠ 1 ∨ pl.set.host then 6
  else if pl.set.w < t.dx0 + t.dw ∨ pl.set.h < t.dy0 + t.dh ∨ 8192 < t.sx0 + t.sw ∨ 8192 < t.sy0 + t.sh ∨
    winSurfacesOk t = false then 7
  else if 256 ≤ ((planeWins t.plane s).filter (fun e => decide (e.1 ≠ n))).length then 8
  else 0

/-- The status of a reason of R282. -/
def asmStatus (r : Nat) : Nat := if r = 5 then NOT_OWNER else if r = 8 ∨ r = 9 then TABLE_FULL else if r = 10 then LEASED else BAD_ARGUMENT

/-- A command is refused under R282; CMD: 0 plane, 1 window, 2 coefficients, 3 present. -/
def asmRefuse (op : Nat) (c : Cmd) (kind r : Nat) (s : State) : State :=
  s |> setF ASM_REJ_REASON r |> setF ASM_REJ_CMD kind |> setF ASM_REJ_PARTITION c.idx |> raise 0x60 9
    |> ifS (decide (r = 8) || decide (r = 9)) (fun s => s |> countF ASM_TFULL |> raise 0x60 8) |> refuse op c (asmStatus r) r

/-! ## Plane commands (R267–R270, R483) -/

/-- Where the buffers of a plane of these settings are put, KiB from the start of the class (R266, log 12). -/
def planeRoom (t : PlaneSet) (s : State) : Option (List Nat) := placeMany 0 16777216 (bufKib t) t.nbuf (planeUsed s)

/-- A plane of partition `p` with its buffers at the places given. -/
def newPlane (p : Nat) (t : PlaneSet) (places : List Nat) : Plane :=
  { state := 1, owner := p, set := t, force := t, addrs := places.map (fun x => planeClass + 1024 * x) }

/-- Takes queued builds of plane `i` away as superseded by a newer one (R273). -/
def supersede (i : Nat) (s : State) : State :=
  let old := s.asm.queue.filter (fun q => decide (q.plane = i))
  let s := { s with asm := { s.asm with queue := s.asm.queue.filter (fun q => decide (q.plane ≠ i)) } }
  each old (fun q t =>
    let t := t |> countF ASM_SUPERSEDED |> raise 0x60 7
    let t := t.setPlane i { t.plane i with pics := (t.plane i).pics.filter (fun x => decide (x.order ≠ q.pic)) }
    match q.cmd with
    | some ref => complete true ref COALESCED 0 0 0 t
    | none => t) s

/-- A build is queued (R273). -/
def enqueueBuild (b : QBuild) (s : State) : State :=
  let s := supersede b.plane s
  { s with asm := { s.asm with queue := s.asm.queue ++ [b] } }

/-- The build of frame `n` of a group, with FS and the lead to its FL, for plane `i`, is queued (R273). -/
def queueGroupBuild (i n fs lead : Nat) (s : State) : State :=
  let start : Int := (fs : Int) - lead - 1000 * (s.plane i).force.buildLead
  enqueueBuild ⟨i, .group n, if tnsLe (ofSigned 64 start) (now s) then now s else start, fs, none, 0⟩ s

/-- Plane `i` is ASSEMBLED, paced on raster group `g`, and page 0x060 reads ON (R273). -/
def pacedOn (g i : Nat) (s : State) : Bool :=
  let p := s.plane i
  decide (p.state = 1) && !p.set.host && decide (p.force.pace = 0) && decide (p.force.pgroup = g) && isOn 0x60 s

/-- A plane that comes to be paced on a group whose next FS is known already: its build for that frame is queued while
FL − BUILD_LEAD has not passed (R273). -/
def queueKnown (i : Nat) (s : State) : State :=
  let g := (s.plane i).force.pgroup
  let x := s.grp g
  let lead := (x.nextSet.getD x.timing).lead
  if pacedOn g i s = true ∧ x.hasNext = true ∧ tnsLe (now s) (ofSigned 64 ((x.nextFs : Int) - lead - 1000 * (s.plane i).force.buildLead)) = true then
    queueGroupBuild i x.nextIdx x.nextFs lead s
  else s

/-- The order that the next picture or build is given. -/
def nextOrder (s : State) : Nat := s.asm.order + 1

/-- A picture begins in a buffer; the picture that was there is gone. DESIGN CHOICE (log 69): this holds too where it was the
picture shown last and the new one is due later, so the plane is transparent until then without being late. -/
def beginPicture (i b : Nat) (pt : Int) (complete_ : Bool) (s : State) : State :=
  let p := s.plane i
  let s := { s with asm := { s.asm with order := s.asm.order + 1 } }
  s.setPlane i { p with pics := p.pics.filter (fun x => decide (x.buf ≠ b)) ++ [⟨b, pt, complete_, false, s.asm.order⟩] }

/-- A PLANE_ALLOC into free place `i` of the table (R267). -/
def planeAllocAt (c : Cmd) (i : Nat) (t : PlaneSet) (s : State) : State :=
  match planeRoom t s with
  | none => asmRefuse 0x18 c 0 9 s
  | some l => s.setPlane i (newPlane (c.idx % 8) t l) |> showAsm |> queueKnown i |> finish 0x18 c DONE 0 i 0

/-- One PLANE_ALLOC, against the table as the one before left it; a plane released in this cycle, whose start `s0` saw, can be
allocated from the next (R47, R267). -/
def planeAllocOne (s0 : State) (c : Cmd) (s : State) : State := withLen 0x18 c 32 (fun ws s =>
  if planeReason ws ≠ 0 then asmRefuse 0x18 c 0 (planeReason ws) s
  else match firstBelow 256 (fun i => decide ((s.plane i).state = 0) && decide ((s0.plane i).state = 0)) with
    | none => asmRefuse 0x18 c 0 8 s
    | some i => planeAllocAt c i (parsePlane ws) s) s

/-- The reason for which PLANE_SET of plane `i` is refused (R267, R282). -/
def planeSetReason (c : Cmd) (i : Nat) (ws : List Word) (s : State) : Nat :=
  let p := s.plane i
  let t := parsePlane ws
  if planeReason ws ≠ 0 ∧ (planeReason ws ≠ 4 ∨ p.state = 1) then planeReason ws
  else if p.state ≠ 1 then 6
  else if t.host ≠ p.set.host ∨ t.premult ≠ p.set.premult ∨ t.nbuf ≠ p.set.nbuf ∨ t.w ≠ p.set.w ∨ t.h ≠ p.set.h then 4
  else if p.owner ≠ c.idx then 5 else 0

/-- One PLANE_SET (R267): POLICY, CONCEAL and HOLD_MAX act from each group's next FL, the other settings from the next build
that starts. -/
def planeSetOne (c : Cmd) (s : State) : State := withLen 0x19 c 32 (fun ws s =>
  let i := c.argF 0 7 0
  let r := planeSetReason c i ws s
  if r ≠ 0 then asmRefuse 0x19 c 0 r s
  else s.setPlane i { s.plane i with set := parsePlane ws } |> answer 0x19 c DONE) s

/-- The reason for which a command on buffer `b` of plane `i` by partition `p` is refused (R282). -/
def hostBufReason (p i b : Nat) (s : State) : Nat :=
  let pl := s.plane i
  if pl.state ≠ 0 ∧ pl.owner ≠ p then 5
  else if pl.state ≠ 1 ∨ pl.set.host = false ∨ pl.set.nbuf ≤ b ∨ pl.releases.any (fun r => decide (r.1 = b)) = true then 6
  else 0

/-- A picture of plane `i` in buffer `b` has become complete: the encode sessions take it if it is the newest (R299). -/
def announcePicture (i b : Nat) (s : State) : State :=
  let p := s.plane i
  match newestPic (fun x => x.complete) p.pics with
  | some x => if x.buf = b then
      takePicture 2 i none ⟨0, x.pt, bufAddr p b, some (i, b), none, 0, p.set.w, p.set.h, x.concealed, false, false, [], [], []⟩ s
    else s
  | none => s

/-- The presentation time of a PLANE_PRESENT: its operand words 1 and 2, or, when both are 0, the time of S (R269). -/
def presentTime (c : Cmd) (s : State) : Nat :=
  if c.arg 2 * 2 ^ 32 + c.arg 1 = 0 then now s else c.arg 2 * 2 ^ 32 + c.arg 1

/-- PLANE_PRESENT (R269). With GEN = 0 no build starts, so the settings last given do not come into force by it (R267). -/
def presentBody (c : Cmd) (s : State) : State :=
  let i := c.argF 0 7 0
  let b := c.argF 0 11 8
  let gen := decide (c.argF 0 16 16 = 1)
  let r := hostBufReason c.idx i b s
  let r := if r = 0 ∧ gen = true ∧ leased i b s = true then 10 else r
  if r ≠ 0 then asmRefuse 0x1A c 3 r s
  else
    let pt := presentTime c s
    if gen then
      let s := supersede i s
      let n := nextOrder s
      s |> beginPicture i b pt false |> enqueueBuild ⟨i, .present b, now s, pt, some (refOf 0x1A c), n⟩
    else
      let s := beginPicture i b pt true s
      s |> announcePicture i b |> answer 0x1A c DONE

/-- PLANE_PRESENT (R269). -/
def execPlanePresent (c : Cmd) (s : State) : Host.Outcome State Fault Refusal := .next (runCmd 0x1A c (presentBody c) s)

/-- The queued builds of plane `i` and its windows end with it (R270); a present that waited ends with ABORTED (R479). -/
def dropPlaneWork (i : Nat) (s : State) : State :=
  let cut := (s.asm.queue.filter (fun q => decide (q.plane = i))).filterMap (fun q => q.cmd)
  let s := each cut (fun ref => complete true ref ABORTED 0 0 0) s
  let s := { s with asm := { s.asm with
      wins := s.asm.wins.filter (fun e => match e.2 with | some w => decide (w.cfg.plane ≠ i) | none => false),
      queue := s.asm.queue.filter (fun q => decide (q.plane ≠ i)) } }
  showAsm s

/-- A plane begins to be freed; it is FREE at once when nothing holds its buffers (R136, R270). -/
def startFree (i : Nat) (ref : Option CmdRef) (s : State) : State :=
  let s := dropPlaneWork i s
  let s := s.setPlane i { s.plane i with state := 2, freeing := ref, pics := [] } |> sourceGone i
  if s.ras.leases.any (fun l => decide (l.plane = i)) then
    match ref with
    | some r => if (s.plane i).set.host then complete false r LEASED 0 0 0 s else s
    | none => s
  else freePlane i s

/-- One PLANE_FREE (R270). -/
def planeFreeOne (c : Cmd) (s : State) : State :=
  let i := c.argF 0 7 0
  let p := s.plane i
  if p.state ≠ 0 ∧ p.owner ≠ c.idx then asmRefuse 0x1B c 0 5 s
  else if p.state ≠ 1 then asmRefuse 0x1B c 0 6 s
  else startFree i (some (refOf 0x1B c)) s

/-- PLANE_FREED: no frame holds a buffer of the plane any more (R270). -/
def execPlaneFreed (plane : Fin 256) (s : State) : Host.Outcome State Fault Refusal :=
  .next (if (s.plane plane.val).state = 2 ∧ s.ras.leases.any (fun l => decide (l.plane = plane.val)) = false then
    freePlane plane.val s else s)

/-- BUF_RELEASE (R136, R137, R483): while a lease covers the buffer its picture stays, as one that no FL counts as complete. -/
def bufReleaseBody (c : Cmd) (s : State) : State :=
  let i := c.argF 0 7 0
  let b := c.argF 0 11 8
  let r := hostBufReason c.idx i b s
  if r ≠ 0 then asmRefuse 0x1C c 0 r s
  else
    let p := s.plane i
    if leased i b s then
      s.setPlane i { p with releases := p.releases ++ [(b, some (refOf 0x1C c))] } |> complete false (refOf 0x1C c) LEASED 0 0 0
    else s.setPlane i { p with pics := p.pics.filter (fun x => decide (x.buf ≠ b)) } |> answer 0x1C c DONE

/-- BUF_RELEASE (R483). -/
def execBufRelease (c : Cmd) (s : State) : Host.Outcome State Fault Refusal := .next (runCmd 0x1C c (bufReleaseBody c) s)

/-! ## Window and coefficient commands (R271, R278) -/

/-- Window `n` takes a record. -/
def setWindow (p n : Nat) (t : WinRec) (s : State) : State := s.setWin n (some ⟨p, t⟩) |> showAsm

/-- One WIN_SET (R271); a window released in this cycle, whose start `s0` saw, belongs to its owner until the next (R47). -/
def winSetOne (s0 : State) (c : Cmd) (s : State) : State := withLen 0x1D c 48 (fun ws s =>
  let n := c.argF 0 9 0
  let t := parseWin ws
  let gone := decide (s.win n = none) && (s0.win n).any (fun w => decide (w.owner ≠ c.idx))
  let r := if winReason ws ≠ 0 then winReason ws else if gone then 5 else winPlaceReason c.idx n t s
  if r ≠ 0 then asmRefuse 0x1D c 1 r s else s |> setWindow c.idx n t |> answer 0x1D c DONE) s

/-- One WIN_CLEAR (R271). Releasing a window that is free changes nothing. -/
def winClearOne (c : Cmd) (s : State) : State :=
  let n := c.argF 0 9 0
  match s.win n with
  | none => answer 0x1E c DONE s
  | some w => if w.owner ≠ c.idx then asmRefuse 0x1E c 1 5 s else s.setWin n none |> showAsm |> answer 0x1E c DONE

/-! ## The commands of one cycle (R46, R271) -/

/-- The opcode of a command of the plane and window tables. -/
def asmOpcode (r : AsmReq) : Nat :=
  match r.op with
  | .planeAlloc => 0x18
  | .planeSet => 0x19
  | .planeFree => 0x1B
  | .winSet => 0x1D
  | .winClear => 0x1E

/-- One of them is judged and served; `s0` is the state at the start of the cycle. -/
def asmServe (s0 : State) (r : AsmReq) (s : State) : State :=
  match r.op with
  | .planeAlloc => planeAllocOne s0 r.cmd s
  | .planeSet => planeSetOne r.cmd s
  | .planeFree => planeFreeOne r.cmd s
  | .winSet => winSetOne s0 r.cmd s
  | .winClear => winClearOne r.cmd s

/-- The commands that reach the plane and window tables in one cycle, in the order of R46 with the pointer in ASM_TIE (R271,
R546). -/
def asmCycle (rs : List AsmReq) (s : State) : State :=
  runReqs asmOpcode AsmReq.cmd rs (fun go s =>
    serveInOrder ASM_TIE_PTR 8 (fun r => isFw r.cmd.who) (fun r => r.cmd.idx) go (asmServe s) s) s

/-- PLANE_ALLOC (R266, R267), with the other commands of its cycle. -/
def execPlaneAlloc (c : Cmd) (also : List AsmReq) (s : State) : Host.Outcome State Fault Refusal :=
  .next (asmCycle (⟨.planeAlloc, c⟩ :: also) s)

/-- PLANE_SET (R267), with the other commands of its cycle. -/
def execPlaneSet (c : Cmd) (also : List AsmReq) (s : State) : Host.Outcome State Fault Refusal :=
  .next (asmCycle (⟨.planeSet, c⟩ :: also) s)

/-- PLANE_FREE (R270), with the other commands of its cycle. -/
def execPlaneFree (c : Cmd) (also : List AsmReq) (s : State) : Host.Outcome State Fault Refusal :=
  .next (asmCycle (⟨.planeFree, c⟩ :: also) s)

/-- WIN_SET (R271), with the other commands of its cycle. -/
def execWinSet (c : Cmd) (also : List AsmReq) (s : State) : Host.Outcome State Fault Refusal :=
  .next (asmCycle (⟨.winSet, c⟩ :: also) s)

/-- WIN_CLEAR (R271), with the other commands of its cycle. -/
def execWinClear (c : Cmd) (also : List AsmReq) (s : State) : Host.Outcome State Fault Refusal :=
  .next (asmCycle (⟨.winClear, c⟩ :: also) s)

/-! ## Coefficients (R278) -/

/-- The 896 coefficients of a COEF_LOAD (R278). -/
def parseCoef (ws : List Word) : List Int :=
  ws.flatMap (fun w => [toSigned 16 (w.toNat % 65536), toSigned 16 (w.toNat / 65536)])

/-- Every coefficient is an S1.12 value and every phase sums to 4,096 (R278). -/
def coefOk (l : List Int) : Bool :=
  l.all (fun x => decide (-8192 ≤ x) && decide (x ≤ 8191)) &&
  (List.range 64).all (fun i => decide (((l.drop (8 * i)).take 8).sum = 4096)) &&
  (List.range 64).all (fun i => decide (((l.drop (512 + 6 * i)).take 6).sum = 4096))

/-- COEF_LOAD (R278). -/
def execCoefLoad (c : Cmd) (s : State) : Host.Outcome State Fault Refusal :=
  .next (runCmd 0x1F c (withLen 0x1F c 1792 (fun ws s =>
    let n := c.argF 0 3 0
    let l := parseCoef ws
    if n = 0 ∨ coefOk l = false then asmRefuse 0x1F c 2 4 s
    else
      s.setCoef n (some ⟨l.take 512, l.drop 512⟩) |> answer 0x1F c DONE)) s)

/-! ## Starting a build (R272–R275) -/

/-- The queued build that the assembler takes first: earliest start, then lowest plane (R273). -/
def nextBuild (l : List QBuild) : Option QBuild :=
  l.foldl (fun acc q => match acc with
    | none => some q
    | some b => if q.start < b.start ∨ (q.start = b.start ∧ q.plane < b.plane) then some q else some b) none

/-- The order of the build that last wrote buffer `b`, 0 for none. -/
def builtOrder (p : Plane) (b : Nat) : Nat := (FMap.get ⟨0, [], 0, 0⟩ p.built b).order

/-- The buffer an ASSEMBLED build writes (R274). -/
def targetBuffer (i : Nat) (s : State) : Option Nat :=
  let p := s.plane i
  let nc := (newestPic (fun x => x.complete) p.pics).map (fun x => x.buf)
  ((List.range p.set.nbuf).filter (fun b => !held i b s && decide (nc ≠ some b))).foldl (fun acc b => match acc with
    | none => some b
    | some a => if builtOrder p b < builtOrder p a then some b else some a) none

/-- The buffer of layer slot `l` of a binding that holds the NEWEST mark (R250, R275). -/
def newestBuf (bd : Binding) (l : Nat) : Option Nat :=
  (List.range bd.bufs.length).find? (fun i => match bd.bufs[i]? with
    | some b => b.newest && decide (b.pic.layer = l)
    | none => false)

/-- The source a window takes at the build's start (R275). -/
def takeSource (s : State) (e : Nat × WinRec) : BuildSrc :=
  let t := e.2
  if t.host then ⟨e.1, t, none, none, false⟩
  else
    let bd := s.binding t.ctx
    match (if bd.state = 1 then newestBuf bd t.layer else none) with
    | none => ⟨e.1, t, none, none, true⟩
    | some b =>
      let pic := (bd.bufs.getD b {}).pic
      let alpha := if t.sam = 0 then none else
        pic.alpha.bind (fun l => (newestBuf bd l).map (fun a => (bd.bufs.getD a {}).pic))
      ⟨e.1, t, some pic, alpha, false⟩

/-- WATERMARK k is raised for the running build (R283). -/
def raiseMark (k : Nat) (s : State) : State :=
  match s.asm.run with
  | none => s
  | some r =>
    if r.marks.contains k then s else
    { s with asm := { s.asm with run := some { r with marks := k :: r.marks } } }
      |> setF (ASM_WMSTAT_PLANE k) r.plane |> addF (ASM_WMSTAT_COUNT k) 1 |> raise 0x60 (2 + k)

/-- What a build records of itself for the next build of its buffer (R280). -/
def builtOf (r : RunBuild) : Built :=
  let set_ (n : Nat) : CoefSet := ((r.coefs.find? (fun e => decide (e.1 = n))).map (fun e => e.2)).getD ⟨[], []⟩
  ⟨r.order, r.srcs.map (fun x => ⟨x.win, x.cfg, if x.missing then none else x.pic.map (fun p => p.serial),
      (set_ x.cfg.hset).h, (set_ x.cfg.vset).v⟩), r.set.bg, r.set.bgA⟩

/-- Block (bx, by) is dirty against the build that last wrote the buffer (R280). -/
def dirtyBlock (old new : Built) (first : Bool) (bx by_ : Nat) : Bool :=
  let touches (t : WinRec) : Bool :=
    decide (t.dx0 < 64 * bx + 64) && decide (64 * bx < t.dx0 + t.dw) && decide (t.dy0 < 64 * by_ + 64) && decide (64 * by_ < t.dy0 + t.dh)
  first || decide (old.bg ≠ new.bg) || decide (old.bgA ≠ new.bgA) ||
  new.wins.any (fun w => touches w.cfg && (w.cfg.host || !old.wins.contains w)) ||
  old.wins.any (fun w => touches w.cfg && !new.wins.contains w)

/-- Dirty blocks of the running build, numbered along the rows of blocks. -/
def dirtyBlocks (r : RunBuild) (s : State) : List Nat :=
  let old := FMap.get ⟨0, [], 0, 0⟩ (s.plane r.plane).built r.buf
  let n := ceilDiv r.set.w 64
  (List.range (n * ceilDiv r.set.h 64)).filter (fun k => dirtyBlock old (builtOf r) (decide (old.order = 0)) (k % n) (k / n))

/-- Dirty block `k` of the running build lies under the destination of window `w`. -/
def blockUnder (r : RunBuild) (w : WinRec) (k : Nat) : Bool :=
  let n := ceilDiv r.set.w 64
  decide (w.dx0 < 64 * (k % n) + 64) && decide (64 * (k % n) < w.dx0 + w.dw) && decide (w.dy0 < 64 * (k / n) + 64) &&
    decide (64 * (k / n) < w.dy0 + w.dh)

/-- The running build reads window `x`: it contributes, and lies over a dirty block (R280, R283). -/
def readsWindow (r : RunBuild) (s : State) (x : BuildSrc) : Bool := !x.missing && (dirtyBlocks r s).any (blockUnder r x.cfg)

/-- At its start the build has no line up to LINE of watermark `k`'s window to read: the window is none that it reads, or its
crop begins below (R283). -/
def passedAtStart (k : Nat) (r : RunBuild) (s : State) : Bool :=
  r.srcs.any (fun x => decide (x.win = getF (ASM_WM_WIN k) s) && (!readsWindow r s x || decide (getF (ASM_WM_LINE k) s < x.cfg.sy0)))

/-- Watermark `k` is armed on a window of the running build. -/
def markArmed (k : Nat) (s : State) : Bool :=
  getB (ASM_WM_EN k) s && s.asm.run.any (fun r => r.srcs.any (fun x => decide (x.win = getF (ASM_WM_WIN k) s)))

/-- The build `r` of queue entry `q` starts on its buffer (R272–R275, R283). -/
def runBuild (r : RunBuild) (s : State) : State :=
  let s := { s with asm := { s.asm with order := s.asm.order + 1, run := some r } }
  let p := s.plane r.plane
  let s := s.setPlane r.plane { p with force := p.set }
  let again := decide (r.kind = .group (s.grp p.set.pgroup).nextIdx) && decide (p.force.pgroup = p.set.pgroup)
  let s := ifS (decide (p.force ≠ p.set) && !again) (queueKnown r.plane) s
  let s := markSources r.srcs true s
  let s := ifS (r.srcs.any (fun x => x.missing)) (raise 0x60 11) s
  each (List.range 4) (fun k t => ifS (getB (ASM_WM_EN k) t && passedAtStart k r t) (raiseMark k) t) s

/-- The queued build `q` starts (R272–R275), or is skipped for want of a buffer. -/
def startBuild (q : QBuild) (s : State) : State :=
  let s := { s with asm := { s.asm with queue := s.asm.queue.filter (fun x => decide (x ≠ q)) } }
  let coefs := s.asm.coefs.filterMap (fun e => e.2.map (fun x => (e.1, x)))
  match q.kind with
  | .present b => runBuild ⟨q.plane, b, (s.plane q.plane).set, q.kind, [], coefs, nextOrder s, [], q.cmd, q.pic, []⟩ s
  | _ => match targetBuffer q.plane s with
    | none => s |> countF ASM_SKIPPED |> raise 0x60 6
    | some b =>
      let n := nextOrder s
      let srcs := (planeWins q.plane s).map (takeSource s)
      let s := beginPicture q.plane b q.pt false s
      runBuild ⟨q.plane, b, (s.plane q.plane).set, q.kind, srcs, coefs, nextOrder s, [], q.cmd, n, []⟩ s

/-- Lines up to LINE of watermark `k`'s HOST window, as the reader passes them (R275, R283). -/
def passLines (k : Nat) (s : State) : State :=
  match s.asm.run with
  | none => s
  | some r =>
    let line (x : BuildSrc) (j : Nat) : ReadLine :=
      let cols := (List.range x.cfg.sw).map (fun i => x.cfg.sx0 + i)
      ⟨x.win, j, cols.map (fun i => hbmWord (x.cfg.srcC + j * x.cfg.spitch + 4 * i) s),
        if x.cfg.sam = 0 ∨ x.cfg.srcA = 0 then [] else cols.map (fun i => hbmHalf (x.cfg.srcA + j * x.cfg.apitch + 2 * i) s)⟩
    let rows (x : BuildSrc) : List Nat :=
      ((List.range x.cfg.sh).map (fun j => x.cfg.sy0 + j)).filter (fun j => decide (j ≤ getF (ASM_WM_LINE k) s) &&
        !r.lines.any (fun l => decide (l.win = x.win) && decide (l.row = j)))
    let new := (r.srcs.filter (fun x => x.cfg.host && decide (x.win = getF (ASM_WM_WIN k) s))).flatMap (fun x => (rows x).map (line x))
    { s with asm := { s.asm with run := some { r with lines := r.lines ++ new } } }

/-- WATERMARK (R283): the reader has passed the lines up to LINE. DESIGN CHOICE (log 54): it passes every line of a HOST window
at the last moment that the watermarks and the end of the build leave. -/
def execWatermark (k : Fin 4) (s : State) : Host.Outcome State Fault Refusal :=
  .next (ifS (markArmed k.val s) (fun s => s |> passLines k.val |> raiseMark k.val) s)

/-! ## The arithmetic of a build (R276–R279) -/

/-- CH[φ][t] of a set; set 0 and unloaded sets are bilinear (R278). -/
def coefH (cs : FMap CoefSet) (n φ t : Nat) : Int :=
  match cs.find? (fun e => decide (e.1 = n)) with
  | some e => e.2.h.getD (8 * φ + t) 0
  | none => if t = 3 then 4096 - 64 * (φ : Int) else if t = 4 then 64 * (φ : Int) else 0

/-- CV[φ][k] of a set (R278). -/
def coefV (cs : FMap CoefSet) (n φ k : Nat) : Int :=
  match cs.find? (fun e => decide (e.1 = n)) with
  | some e => e.2.v.getD (6 * φ + k) 0
  | none => if k = 2 then 4096 - 64 * (φ : Int) else if k = 3 then 64 * (φ : Int) else 0

/-- The filter of R277 about the positions pX, pY (16 fraction bits); `col` and `row` clamp indices, `get` reads a code. -/
def filterAt (cs : FMap CoefSet) (hs vs : Nat) (px py : Int) (col row : Int → Nat) (get : Nat → Nat → Nat) : Nat :=
  let ix := shr px 16
  let iy := shr py 16
  let φx := (shr px 10 % 64).toNat
  let φy := (shr py 10 % 64).toNat
  let line (k : Nat) : Int :=
    clampI (rnd ((List.range 8).map (fun t => coefH cs hs φx t * (get (col (ix - 3 + t)) (row (iy - 2 + k)) : Int))).sum 12) 0 1023
  (clampI (rnd ((List.range 6).map (fun k => coefV cs vs φy k * line k)).sum 12) 0 1023).toNat

/-- The chroma offsets oX, oY of a location type (R276). -/
def locOffset (loc : Nat) : Int × Int :=
  match loc with
  | 0 => (0, 32768)
  | 1 => (32768, 32768)
  | 2 => (0, 0)
  | 3 => (32768, 0)
  | 4 => (0, 65536)
  | 5 => (32768, 65536)
  | _ => (0, 32768)

/-- A packed sample `k` of the line at byte address `a` (R249). -/
def packedSample (a k : Nat) (s : State) : Nat := hbmWord (a + 4 * (k / 3)) s / 2 ^ (10 * (k % 3)) % 1024

/-- Luma sample (x, y) of a decoded picture, (0, 0) inside the conformance window (R249, R275). -/
def picLuma (p : PicInfo) (x y : Nat) (s : State) : Nat := packedSample (p.addr + (p.cropY + y) * p.pitch) (p.cropX + x) s

/-- Chroma sample (m, n) of a decoded picture: `v` 0 Cb, 1 Cr; a monochrome picture has the chroma zero. -/
def picChroma (p : PicInfo) (v m n : Nat) (s : State) : Nat :=
  if p.chroma = 0 then 512 else
  let cy := if p.chroma = 1 then p.cropY / 2 else p.cropY
  packedSample (p.addr + p.pitch * p.maxH + (cy + n) * p.pitch) (2 * (p.cropX / 2 + m) + v) s

/-- Clamps a tap index into the readable span of `n` samples from `x0` of a source `pw` wide, shifted for chroma (R276). -/
def clampTap (x0 n pw sh : Nat) (i : Int) : Nat :=
  let lo := min x0 (pw - 1) / 2 ^ sh
  let hi := (min (x0 + n) pw - 1) / 2 ^ sh
  (clampI i lo hi).toNat

/-- The filtered source codes y, cb, cr, a of a window, its HOST lines as they were where the reader has passed them,  at destination texel (dx, dy) (R275–R277). -/
def windowCodes (cs : FMap CoefSet) (lines : List ReadLine) (x : BuildSrc) (dx dy : Nat) (s : State) : Nat × Nat × Nat × Nat :=
  let t := x.cfg
  let stepx : Int := ((t.sw * 65536 / t.dw : Nat) : Int)
  let stepy : Int := ((t.sh * 65536 / t.dh : Nat) : Int)
  let px : Int := t.sx0 * 65536 + dx * stepx + shr (stepx - 65536) 1
  let py : Int := t.sy0 * 65536 + dy * stepy + shr (stepy - 65536) 1
  let flt := filterAt cs t.hset t.vset
  match x.pic with
  | none =>
    let col := clampTap t.sx0 t.sw 8192 0
    let row := clampTap t.sy0 t.sh 8192 0
    let passed (j : Nat) : Option ReadLine := lines.find? (fun l => decide (l.win = x.win) && decide (l.row = j))
    let c (k : Nat) : Nat := flt px py col row (fun i j => c30Part (match passed j with
      | some l => nth l.colour (i - t.sx0)
      | none => hbmWord (t.srcC + j * t.spitch + 4 * i) s) k)
    let a := if t.sam = 0 ∨ t.srcA = 0 then 1023
      else flt px py col row (fun i j => (match passed j with
        | some l => nth l.alpha (i - t.sx0)
        | none => hbmHalf (t.srcA + j * t.apitch + 2 * i) s) % 1024)
    (c 0, c 1, c 2, a)
  | some p =>
    let o := locOffset p.loc
    let col := clampTap t.sx0 t.sw p.pw 0
    let row := clampTap t.sy0 t.sh p.ph 0
    let cx := shr (px - o.1) 1
    let cy := if p.chroma = 1 then shr (py - o.2) 1 else py
    let ccol := clampTap t.sx0 t.sw p.pw 1
    let crow := clampTap t.sy0 t.sh p.ph (if p.chroma = 1 then 1 else 0)
    let a := match x.alpha with
      | none => 1023
      | some q => flt px py (clampTap t.sx0 t.sw q.pw 0) (clampTap t.sy0 t.sh q.ph 0) (fun i j => picLuma q i j s)
    (flt px py col row (fun i j => picLuma p i j s), flt cx cy ccol crow (fun i j => picChroma p 0 i j s),
      flt cx cy ccol crow (fun i j => picChroma p 1 i j s), a)

/-- The destination of compositing: Yd, Cbd, Crd, Wd (R279). -/
structure Dest where
  y : Int := 0
  cb : Int := 512
  cr : Int := 512
  w : Int := 0
  deriving DecidableEq, Repr

/-- One window step of R279. -/
def windowStep (premult : Bool) (wa : Int) (y cb cr a : Int) (d : Dest) : Dest :=
  let w := rnd ((a + shr a 9) * wa) 10
  let f := if premult then wa else w
  { y := rnd (y * f) 10 + rnd (d.y * (1024 - w)) 10,
    cb := 512 + rnd ((cb - 512) * f) 10 + rnd ((d.cb - 512) * (1024 - w)) 10,
    cr := 512 + rnd ((cr - 512) * f) 10 + rnd ((d.cr - 512) * (1024 - w)) 10,
    w := w + rnd (d.w * (1024 - w)) 10 }

/-- The texel written under STORE: Y′, Cb, Cr and A (R279). -/
def storeTexel (premult : Bool) (d : Dest) : Nat × Nat × Nat × Nat :=
  let c (x : Int) : Nat := (clampI x 0 1023).toNat
  let a := c (rnd (d.w * 1023) 10)
  if premult then (c d.y, c d.cb, c d.cr, a)
  else if d.w = 0 then (0, 512, 512, a)
  else (c ((d.y * 1024 + shr d.w 1) / d.w), c (512 + ((d.cb - 512) * 1024 + shr d.w 1) / d.w),
    c (512 + ((d.cr - 512) * 1024 + shr d.w 1) / d.w), a)

/-- The windows of a build in compositing order: ORDER, then window number (R271). -/
def compositing (srcs : List BuildSrc) : List BuildSrc :=
  (List.range 256).flatMap (fun o => srcs.filter (fun x => decide (x.cfg.order = o) && !x.missing))

/-- Texel (i, j) of the plane that a build gives (R279). -/
def buildTexel (r : RunBuild) (i j : Nat) (s : State) : Nat × Nat × Nat × Nat :=
  let bg := r.set.bg.toNat
  let d := windowStep false 0x400 (c30Part bg 0) (c30Part bg 1) (c30Part bg 2) r.set.bgA {}
  let d := (compositing r.srcs).foldl (fun d x =>
    let t := x.cfg
    if t.dx0 ≤ i ∧ i < t.dx0 + t.dw ∧ t.dy0 ≤ j ∧ j < t.dy0 + t.dh then
      let c := windowCodes r.coefs r.lines x (i - t.dx0) (j - t.dy0) s
      windowStep (decide (t.sam = 2)) t.wa c.1 c.2.1 c.2.2.1 c.2.2.2 d
    else d) d
  storeTexel r.set.premult d

/-- The buffer's address of the running build. -/
def runAddr (r : RunBuild) (s : State) : Nat := bufAddr (s.plane r.plane) r.buf

/-- Level 0 of an ASSEMBLED build is written (R279, R280). -/
def writeBuild (r : RunBuild) (s : State) : State :=
  let a := runAddr r s
  each (List.range r.set.h) (fun j => each (List.range r.set.w) (fun i t =>
    let x := buildTexel r i j t
    t |> putWord (colAddr a r.set.w r.set.h 0 i j) (c30 x.1 x.2.1 x.2.2.1)
      |> putHalf (alpAddr a r.set.w r.set.h 0 i j) x.2.2.2)) s

/-! ## Ending a build (R280, R281) -/

/-- The running build ends: its picture is complete (R281). -/
def completeBuild (r : RunBuild) (s : State) : State :=
  let gen := match r.kind with | .present _ => true | _ => false
  let s := each (List.range 4) (fun k t => ifS (markArmed k t) (raiseMark k) t) s
  let texels := if gen then lvl r.set.w 1 * lvl r.set.h 1 + lvl r.set.w 2 * lvl r.set.h 2 else 5376 * (dirtyBlocks r s).length
  let s := ifS (!gen) (writeBuild r) s
  let s := writeReduced (runAddr r s) r.set.w r.set.h s
  let conc := r.srcs.any (fun x => x.cfg.cmark && x.pic.any (fun p => p.concealed))
  let p := s.plane r.plane
  let s := s.setPlane r.plane { p with
    pics := p.pics.map (fun x => if x.order = r.pic then { x with complete := true, concealed := conc } else x)
    built := FMap.set ⟨0, [], 0, 0⟩ p.built r.buf (builtOf r) }
  let s := { s with asm := { s.asm with run := none } }
  let f := fresh 32 s
  let s := f.2
  let s := s |> markSources r.srcs false |> addF ASM_BUILDS 1 |> addF ASM_TEXELS texels |> addF ASM_BUSY f.1
    |> announcePicture r.plane r.buf
  match r.cmd with
  | some ref => complete true ref DONE 0 0 0 s
  | none => s

/-- BUILD_COMPLETE (R276–R281). -/
def execBuildComplete (s : State) : Host.Outcome State Fault Refusal :=
  .next (match s.asm.run with
    | some r => completeBuild r s
    | none => s)

/-- When FSₙ of a group's frame becomes known, every plane paced on it queues a build (R273). -/
def queueGroupBuilds (g n fs lead : Nat) (s : State) : State :=
  each (List.range 256) (fun i t => ifS (pacedOn g i t) (queueGroupBuild i n fs lead) t) s

/-- Page 0x060 comes to read ON: planes paced on a group whose next FS is known queue their builds (R273). -/
def queueAllKnown (s : State) : State := each (List.range 256) queueKnown s

/-- A picture of context `c`, layer 0, is handed out: every plane paced on it queues a build (R273). -/
def queueContextBuilds (c : Nat) (media : Int) (s : State) : State :=
  each (List.range 256) (fun i t =>
    let p := t.plane i
    if p.state = 1 ∧ p.set.host = false ∧ p.force.pace = 1 ∧ p.force.pctx = c ∧ isOn 0x60 t = true then
      enqueueBuild ⟨i, .context, now t, media, none, 0⟩ t
    else t) s

/-! ## The plane window and the page's lifecycle (R291, R293) -/

/-- ASM_PSEL is written: a snapshot of one plane (R293). -/
def writePsel (v : Nat) (s : State) : State :=
  let i := v % 256
  let p := s.plane i
  let nw := newestPic (fun x => x.complete) p.pics
  let held_ := (List.range 16).foldl (fun n b => n + bit (held i b s) * 2 ^ b) 0
  let pt := ofSigned 64 (nw.elim 0 (fun x => x.pt))
  let s := s |> setF ASM_PSEL_SEL i |> setF ASM_P_STAT_STATE p.state |> setB ASM_P_STAT_KIND p.set.host
    |> setB ASM_P_STAT_STORE p.set.premult |> setF ASM_P_STAT_PACE p.force.pace |> setF ASM_P_STAT_NBUF p.set.nbuf
    |> setF ASM_P_STAT_OWNER p.owner |> setF ASM_P_STAT_NEWEST (nw.elim 0 (fun x => x.buf))
    |> setB ASM_P_STAT_CONCEALED (nw.any (fun x => x.concealed)) |> setF ASM_P_HELD_HELD held_
    |> setF ASM_P_PT_LO pt |> setF ASM_P_PT_HI (pt / 2 ^ 32)
  each (List.range 16) (fun b t =>
    let a := if b < p.set.nbuf then bufAddr p b else 0
    t |> setF (ASM_P_BUF_LO b) a |> setF (ASM_P_BUF_HI_ADDR b) (a / 2 ^ 32)) s

/-- ASM_PSEL_WRITE (R293). -/
def execAsmPselWrite (who : Who) (v : Word) (s : State) : Host.Outcome State Fault Refusal :=
  .next (guardWrite who 0x60 ASM_PSEL_SEL.addr (mayWrite who 0x60 s) (writePsel v.toNat) s)

/-- RESET of page 0x060 (R291). Presents whose builds it takes away end with ABORTED (R479). -/
def asmReset (s : State) : State :=
  let s := each (s.asm.queue.filterMap (fun q => q.cmd)) (fun ref => complete true ref ABORTED 0 0 0) s
  let s := abandonBuild s
  let s := { s with asm := { s.asm with coefs := [], wins := [], queue := [] } }
  each (List.range 256) (fun i t => if (t.plane i).state = 1 then startFree i none t else t) s |> showAsm

end Sys2Proof.Machine
end

