-- ==== Sys2Proof/Machine/Decode.lean ====
section
/-!
DEFINITION. H.265 decoding (spec/08): bindings, the order in which a group takes access units, the marks and the storage of
the reference pool, errors and concealment, and the handing out of pictures. What the syntax of an access unit says, and the
samples that the H.265 decoding process gives its CTUs, are carried by the command, since ITU-T H.265 is an outside standard.
-/

namespace Sys2Proof.Machine

/-- Cores of a binding's group (R240). -/
def groupSize (b : Binding) : Nat := 2 ^ b.cores

/-- Bytes of a line of a frame buffer (R249). -/
def refPitch (maxW : Nat) : Nat := 64 * ceilDiv (ceilDiv maxW 3) 16

/-- Bytes of a frame buffer (R249). -/
def refLen (maxW maxH cf : Nat) : Nat :=
  ceilDiv (refPitch maxW * (maxH + if cf = 1 then ceilDiv maxH 2 else maxH)) 4096 * 4096

/-- A buffer without a mark is free (R250). -/
def bufFree (x : RefBuf) : Bool := !x.ref && !x.cur && !x.newest && decide (x.reads = 0)

/-- The buffers that a binding still has: a released one gives each of them back by itself, as its marks and the assembler's reads
end (R242); the picture in progress keeps them all. -/
def boundBufs (b : Binding) : List RefBuf :=
  if b.state = 2 ∧ b.decoding.isNone = true then b.bufs.filter (fun x => !bufFree x) else b.bufs

/-- Extents of the reference pool in use, in KiB: every buffer of every binding (R249). -/
def refUsed (s : State) : List (Nat × Nat) :=
  s.dec.binds.flatMap (fun e => if e.2.state = 0 then []
    else (boundBufs e.2).map (fun x => ((x.addr - referenceClass) / 1024, refLen e.2.maxW e.2.maxH e.2.cf / 1024)))

/-- Places for the buffers of a binding record (R240, R249). -/
def bindRoom (ws : List Word) (s : State) : Option (List Nat) :=
  placeMany 1 33554432 (refLen (fieldAt ws 1 31 19 + 1) (fieldAt ws 1 18 6 + 1) (fieldAt ws 1 5 4) / 1024)
    (fieldAt ws 2 31 24) (refUsed s)

/-- DEC_POOL, and GSIZE and LEAD of every core, show the bindings (R259, R260). -/
def showDec (s : State) : State :=
  let s := setF DEC_POOL_KIB (usedKib (refUsed s)) s
  each (List.range 24) (fun k t =>
    match t.dec.binds.find? (fun e => decide (e.2.state ≠ 0) && decide (e.2.first ≤ k) && decide (k < e.2.first + groupSize e.2)) with
    | some e => t |> setF (DEC_CORE_GSIZE k) e.2.cores |> setF (DEC_CORE_LEAD k) e.2.first
    | none => t |> setF (DEC_CORE_GSIZE k) 3 |> setF (DEC_CORE_LEAD k) 0) s

/-- Byte `i` of the layer slots of a binding record, slot 0 first. -/
def layerByte (ws : List Word) (i : Nat) : Nat := fieldAt ws (3 + i / 4) (31 - 8 * (i % 4)) (24 - 8 * (i % 4))

/-- nuh_layer_id of the used slots. -/
def usedLayers (ws : List Word) : List Nat :=
  ((List.range 8).filter (fun i => decide (128 ≤ layerByte ws i))).map (fun i => layerByte ws i % 64)

/-- The reason for which a binding record is refused; 0 when it is accepted (R241). -/
def bindReason (p : Nat) (ws : List Word) (s : State) : Nat :=
  let c := fieldAt ws 0 9 0
  let cores := fieldAt ws 0 23 22
  let first := fieldAt ws 0 20 16
  let used := usedLayers ws
  let cf := fieldAt ws 1 5 4
  if crcWords (ws.take 7) ≠ ws.getD 7 0 then 1
  else if fieldAt ws 0 31 24 ≠ 1 then 2
  else if fieldAt ws 0 21 21 ≠ 0 ∨ fieldAt ws 0 15 10 ≠ 0 ∨ fieldAt ws 1 3 0 ≠ 0 ∨ fieldAt ws 2 18 0 ≠ 0 ∨
    (List.range 8).any (fun i => decide (layerByte ws i / 64 % 2 = 1)) = true ∨ wordAt ws 5 ≠ 0 ∨ wordAt ws 6 ≠ 0 then 3
  else if (s.ctx c).state ≠ 1 then 4
  else if (s.ctx c).owner ≠ p then 5
  else if (s.binding c).state ≠ 0 then 6
  else if cores = 3 ∨ first % 2 ^ cores ≠ 0 ∨ 24 < first + 2 ^ cores then 7
  else if s.dec.binds.any (fun e => decide (e.2.state ≠ 0) && decide (e.2.cores ≠ cores) &&
    decide (e.2.first < first + 2 ^ cores) && decide (first < e.2.first + groupSize e.2)) = true then 8
  else if layerByte ws 0 ≠ 128 ∨ used.eraseDups.length ≠ used.length ∨
    (List.range 7).any (fun i => decide (layerByte ws i < 128) && decide (128 ≤ layerByte ws (i + 1))) = true then 9
  else if cf = 0 ∨ cf = 3 ∨ fieldAt ws 2 31 24 = 0 then 10
  else if (bindRoom ws s).isNone then 11 else 0

/-- The binding that a record asks for, with its buffers at the places `xs`, in KiB of the pool. -/
def parseBind (ws : List Word) (xs : List Nat) : Binding where
  state := 1
  cores := fieldAt ws 0 23 22
  first := fieldAt ws 0 20 16
  maxW := fieldAt ws 1 31 19 + 1
  maxH := fieldAt ws 1 18 6 + 1
  cf := fieldAt ws 1 5 4
  nBuf := fieldAt ws 2 31 24
  maxTid := fieldAt ws 2 23 21
  lateSkip := decide (fieldAt ws 2 20 20 = 1)
  hashChk := decide (fieldAt ws 2 19 19 = 1)
  layers := usedLayers ws
  bufs := xs.map (fun x => { addr := referenceClass + 1024 * x })

/-- One DEC_BIND, against the table as the one before left it (R241). -/
def decBindOne (c : Cmd) (s : State) : State := withLen 0x12 c 32 (fun ws s =>
  let r := bindReason c.idx ws s
  if r ≠ 0 then
    s |> setF DEC_BIND_REJ_REASON r |> setF DEC_BIND_REJ_CTX (fieldAt ws 0 9 0) |> raise 0x40 7
      |> ifS (decide (r = 11)) (fun s => s |> countF DEC_TFULL |> raise 0x40 8)
      |> refuse 0x12 c (if r = 5 then NOT_OWNER else if r = 11 then TABLE_FULL else BAD_ARGUMENT) r
  else s.setBinding (fieldAt ws 0 9 0) (parseBind ws ((bindRoom ws s).getD [])) |> showDec |> answer 0x12 c DONE) s

/-- DEC_BIND (R240, R241). -/
def execDecBind (cs : List Cmd) (s : State) : Host.Outcome State Fault Refusal :=
  .next (runTies 0x12 cs (fun cs => serveTable DEC_TIE_PTR 8 cs decBindOne) s)

/-- Only READ marks are left on a binding that is released (R242). -/
def dropMarks (b : Binding) : Binding :=
  { b with bufs := b.bufs.map (fun x => { x with ref := false, cur := false, newest := false }) }

/-- The release of a binding begins (R242): queued access units are discarded, and the picture in progress completes. -/
def startRelease (c : Nat) (ref : Option CmdRef) (s : State) : State :=
  let b := s.binding c
  let x := s.ctx c
  let b := { b with state := 2, unbind := ref, discarded := b.discarded + x.queue.length }
  let b := if b.decoding.isSome then b else dropMarks b
  s.setCtx c { x with queue := [] } |> State.setBinding c b

/-- DEC_UNBIND (R242). A context without a binding in force has nothing to release. -/
def execDecUnbind (c : Cmd) (s : State) : Host.Outcome State Fault Refusal :=
  .next (runCmd 0x13 c (fun s =>
    let i := c.argF 0 9 0
    if (s.ctx i).state ≠ 0 ∧ (s.ctx i).owner ≠ c.idx then answer 0x13 c NOT_OWNER s
    else if (s.binding i).state ≠ 1 then answer 0x13 c BAD_ARGUMENT s
    else startRelease i (some (refOf 0x13 c)) s) s)

/-- UNBIND_DONE: the last buffer is freed (R242). -/
def execUnbindDone (ctx : Fin 1024) (s : State) : Host.Outcome State Fault Refusal :=
  let b := s.binding ctx.val
  .next (if b.state ≠ 2 ∨ b.decoding.isSome = true ∨ b.bufs.any (fun x => decide (x.reads ≠ 0)) = true then s
    else
      let s := s.setBinding ctx.val {} |> showDec |> raise 0x40 9
      match b.unbind with
      | some ref => complete true ref DONE 0 0 0 s
      | none => s)

/-! ## Taking an access unit (R243–R248) -/

/-- Every core of the group reads ON (R243). -/
def groupOn (b : Binding) (s : State) : Bool := (List.range (groupSize b)).all (fun k => isOn (0x40 + b.first + k) s)

/-- The group of a binding decodes an access unit of some context (R244). -/
def groupBusy (b : Binding) (s : State) : Bool :=
  s.dec.binds.any (fun e => decide (e.2.state ≠ 0) && decide (e.2.first = b.first) && e.2.decoding.isSome)

/-- Free buffers of a binding. -/
def freeBufs (b : Binding) : List Nat :=
  (List.range b.bufs.length).filter (fun i => (b.bufs[i]?).any bufFree)

/-- The named layers of which an access unit carries a picture to decode (R246, R256): not those that the parameter sets in force
make auxiliary with AuxId above 1 (R238). -/
def carried (b : Binding) (au : AccessUnit) : List Nat :=
  b.layers.filter (fun l => !b.auxLayers.contains l && au.nals.any (fun n => decide (nalType n < 32) && decide (nalLayer n = l)))

/-- The binding's buffers let `n` layer pictures begin (R246). -/
def hasRoom (b : Binding) (n : Nat) : Bool := decide (n ≤ (freeBufs b).length)

/-- Context `c` is the one its group takes: among the contexts of the group with a complete unit and room for it, the
earliest media time, then the lower number (R245, R246). -/
def takesNext (c : Nat) (s : State) : Bool :=
  let b := s.binding c
  match (s.ctx c).queue with
  | [] => false
  | au :: _ => s.dec.binds.all (fun e =>
      decide (e.2.state ≠ 1) || decide (e.2.first ≠ b.first) || decide (e.1 = c) ||
      match (s.ctx e.1).queue with
      | [] => true
      | v :: _ => !hasRoom e.2 (carried e.2 v).length ||
        decide (au.media < v.media) || (decide (au.media = v.media) && decide (c < e.1)))

/-- The head access unit of a context is taken from its queue. -/
def popUnit (c : Nat) (s : State) : State := s.setCtx c { s.ctx c with queue := (s.ctx c).queue.tail }

/-- Buffers taken by the layers of a unit: CUR, and which layer they hold. -/
def takeBufs : List Nat → List Nat → List RefBuf → List RefBuf
  | l :: ls, i :: is, bufs => takeBufs ls is (bufs.set i { cur := true, addr := (bufs.getD i {}).addr, pic := { layer := l } })
  | _, _, bufs => bufs

/-- Numbers before the part that holds element `k`, of parts of the given lengths. -/
def partStart : List Nat → Nat → Nat
  | [], _ => 0
  | n :: r, k => if k < n then 0 else n + partStart r (k - n)

/-- CTUs of a line of a layer picture. -/
def ctuCols (w ctb : Nat) : Nat := ceilDiv w ctb

/-- The rule of R244 that divides a layer picture: 1 tiles, 2 independent slice segments, 3 CTU rows, 4 none. -/
def divRule (l : LayerInfo) : Nat := if 1 < l.tiles.length then 1 else if 1 < l.slices.length then 2 else if l.wpp then 3 else 4

/-- The core, counted from the first of `c`, that decodes CTU `k` of a layer picture, in tile scan (R244). -/
def ctuCore (c : Nat) (l : LayerInfo) (k : Nat) : Nat :=
  let scan := l.tiles.flatten
  if c ≤ 1 then 0
  else match divRule l with
    | 1 => c * partStart (l.tiles.map List.length) k / scan.length
    | 2 => c * partStart l.slices k / scan.length
    | 3 => nth scan k / ctuCols l.w l.ctb % c
    | _ => 0

/-- The cores that hold a unit of work of a layer picture (R244). -/
def workers (c : Nat) (l : LayerInfo) : List Nat := ((List.range (max 1 l.tiles.flatten.length)).map (ctuCore c l)).eraseDups

/-- The layer pictures of a unit that are decoded: auxiliary layers other than alpha are discarded (R238). -/
def decodedLayers (info : AuInfo) : List LayerInfo := info.layers.filter (fun l => decide (l.auxId ≤ 1))

/-- Layer pictures in ascending nuh_layer_id (R244). -/
def inLayerOrder {α : Type} (b : Binding) (slot : α → Nat) (l : List α) : List α :=
  l.foldl (fun acc x => acc.takeWhile (fun y => decide (nth b.layers (slot y) ≤ nth b.layers (slot x))) ++
    x :: acc.dropWhile (fun y => decide (nth b.layers (slot y) ≤ nth b.layers (slot x)))) []

/-- A unit begins to decode. -/
def beginUnit (c : Nat) (au : AccessUnit) (info : AuInfo) (s : State) : State :=
  let b := s.binding c
  let ls := inLayerOrder b (fun l => l.slot) (decodedLayers info)
  let s := s.setBinding c { b with
    auxLayers := (info.layers.filter (fun l => decide (1 < l.auxId))).map (fun l => nth b.layers l.slot)
    decoding := some au, work := ls, faulted := [], skipping := false, uns := if info.irap then 0 else b.uns,
    bufs := takeBufs (ls.map (fun l => l.slot)) (freeBufs b) b.bufs }
  each (ls.flatMap (workers (groupSize b))).eraseDups (fun k t =>
    t |> setB (DEC_CORE_BUSY (b.first + k)) true |> setF (DEC_CORE_CTX (b.first + k)) c) (popUnit c s)

/-- The unit is not decoded because its parameter sets are refused: UNSUPPORTED once for each activation (R239). -/
def unsupportedUnit (c r : Nat) (s : State) : State :=
  let b := s.binding c
  s.setBinding c { b with uns := r, discarded := b.discarded + 1 } |> popUnit c
    |> setF (DEC_UNS_INFO_CODE b.first) r |> setF (DEC_UNS_INFO_CTX b.first) c |> raise (0x40 + b.first) 4

/-- A layer picture is alpha (R238). -/
def isAlpha (l : LayerInfo) : Bool := decide (l.auxId = 1)

/-- The profile of a layer is one that R236 names; an alpha layer has none of its own (log 40). -/
def profileOk (ls : List LayerInfo) (l : LayerInfo) : Bool :=
  isAlpha l || decide (l.profile = 1) || l.compat1 || decide (l.profile = 2) || l.compat2 ||
  (decide (l.profile = 4) && l.main422) ||
  (decide (l.profile = 6) && ls.all (fun k => isAlpha k ||
    (decide (k.chroma = 1) && decide (k.depthY = 8) && decide (k.depthC = 8))))

/-- The size of a layer exceeds R237 or the binding (R239 reason 0x03). -/
def sizeBad (b : Binding) (l : LayerInfo) : Bool :=
  decide ((if b.cores = 0 then 8912896 else 35651584) < l.w * l.h) || decide (8192 < l.w) || decide (8192 < l.h) ||
  decide (b.maxW < l.w) || decide (b.maxH < l.h)

/-- The chroma format of a layer is refused (R236, R238, R239 reason 0x05). -/
def chromaBad (b : Binding) (l : LayerInfo) : Bool :=
  if isAlpha l then decide (l.chroma ≠ 0)
  else decide (l.chroma = 0) || decide (3 ≤ l.chroma) ||
    (decide (l.chroma = 2) && (decide (b.cf = 1) || !(decide (l.profile = 4) && l.main422)))

/-- A layer depends on a layer that is not named, or an alpha layer's size differs from its primary's (R239 reason 0x06). -/
def layersBad (b : Binding) (ls : List LayerInfo) (l : LayerInfo) : Bool :=
  l.deps.any (fun d => !b.layers.contains d) ||
  (match l.alphaOf with
    | none => false
    | some p => ls.any (fun k => decide (k.slot = p) && (decide (k.w ≠ l.w) || decide (k.h ≠ l.h))))

/-- Buffers that the decoded layers ask for (R250). -/
def poolNeed (ls : List LayerInfo) : Nat := (ls.map (fun l => l.dpb + 3)).sum

/-- The reason for which an activation is unsupported: the first of the table that holds for a layer; 0 for none (R239). -/
def activation (b : Binding) (info : AuInfo) : Nat :=
  let ls := decodedLayers info
  if ls.any (fun l => !profileOk ls l) then 1
  else if ls.any (fun l => decide ((if b.cores = 0 then 156 else 186) < l.level)) then 2
  else if ls.any (sizeBad b) then 3
  else if ls.any (fun l => decide (10 < l.depthY) || decide (10 < l.depthC)) then 4
  else if ls.any (chromaBad b) then 5
  else if ls.any (layersBad b ls) then 6
  else if b.nBuf < poolNeed ls then 7 else 0

/-- What becomes of the unit at the head of a context's queue (R239, R248). -/
inductive UnitFate where
  /-- Discarded after a refused activation, and counted (R239). -/
  | refused
  /-- A RASL unit whose references are missing, or one above MAX_TID: discarded (R237, R251). -/
  | dropped
  /-- Its activation is unsupported for the reason given (R239). -/
  | unsupported (r : Nat)
  /-- Late and skipped (R248). -/
  | late
  | decode
  deriving DecidableEq, Repr

/-- The fate of a unit as it is about to start. -/
def unitFate (b : Binding) (au : AccessUnit) (info : AuInfo) (s : State) : UnitFate :=
  if b.uns ≠ 0 ∧ info.irap = false then .refused
  else if info.rasl || decide (b.maxTid < info.tid) then .dropped
  else if info.irap && decide (activation b info ≠ 0) then .unsupported (activation b info)
  else if b.lateSkip && reached (ofSigned 64 au.media) s && info.nonRef && decide (info.tid = b.maxTid) then .late
  else .decode

/-- The stream of the early FEED is Main or Main 10 4:2:0 of at most 1,920 × 1,080 with at most 4 picture buffers (R499). -/
def feedLimits (info : AuInfo) : Bool :=
  match info.layers.find? (fun l => decide (l.slot = 0)) with
  | none => false
  | some l => (decide (l.profile = 1) || l.compat1 || decide (l.profile = 2) || l.compat2) && decide (l.chroma = 1) &&
      decide (l.w ≤ 1920) && decide (l.h ≤ 1080) && decide (l.depthY ≤ 10) && decide (l.depthC ≤ 10) && decide (l.dpb ≤ 3)

/-- The firmware judges an activation of the early FEED (R499). -/
def feedStart (info : AuInfo) (s : State) : State :=
  ifS info.irap (fun s => { s with fwu := { s.fwu with feedOk := feedLimits info } }) s

/-- DECODE_START (R239, R243–R248, R499). -/
def execDecodeStart (ctx : Fin 1024) (info : AuInfo) (s : State) : Host.Outcome State Fault Refusal :=
  let c := ctx.val
  let b := s.binding c
  .next (if s.fwu.feed = some c then feedStart info s else match (s.ctx c).queue with
    | [] => s
    | au :: _ =>
      let fate := unitFate b au info s
      if b.state ≠ 1 ∨ groupOn b s = false ∨ groupBusy b s = true ∨
        (fate = .decode ∧ hasRoom b (decodedLayers info).length = false) ∨ takesNext c s = false then s
      else match fate with
        | .refused => s.setBinding c { b with discarded := b.discarded + 1 } |> popUnit c
        | .dropped => popUnit c s
        | .unsupported r => unsupportedUnit c r s
        | .late => s.setBinding c { b with skipped := b.skipped + 1, skipping := true } |> popUnit c
            |> ifS (!b.skipping) (raise (0x40 + b.first) 5)
        | .decode => beginUnit c au info s)

/-! ## Completing an access unit (R249–R257) -/

/-- A line of samples packed three to a word (R249). -/
def packLine : Nat → List Nat → List Word
  | 0, _ => []
  | _, [] => []
  | fuel + 1, l => Word.ofNat (nth l 0 + 2 ^ 10 * nth l 1 + 2 ^ 20 * nth l 2) :: packLine fuel (l.drop 3)

/-- Writes `h` lines of `n` samples at address `a`. -/
def writeLines (a pitch n h : Nat) (xs : List Nat) (s : State) : State :=
  each (List.range h) (fun j => memWrite .hbm (a + j * pitch) (wordsBytes (packLine n ((xs.drop (j * n)).take n)))) s

/-- Cb and Cr interleaved (R249). -/
def interleave : List Nat → List Nat → List Nat
  | a :: r, b :: t => a :: b :: interleave r t
  | _, _ => []

/-- Samples as they are stored: a sample of bit depth b as its value × 2^(10 − b) (R249). -/
def scaled (depth : Nat) (xs : List Nat) : List Nat := xs.map (fun v => v * 2 ^ (10 - depth) % 1024)

/-- The planes of a layer picture are stored at address `a`, with the geometry of pitch `p` and `maxH` lines (R249). -/
def writePicture (a p maxH : Nat) (w h chroma : Nat) (luma cb cr : List Nat) (s : State) : State :=
  let s := writeLines a p w h luma s
  if chroma = 0 then s
  else writeLines (a + p * maxH) p (2 * ceilDiv w 2) (if chroma = 1 then ceilDiv h 2 else h) (interleave cb cr) s

/-! ### Slice segments and errors (R251) -/

/-- What reading the slice segments of a picture in order gives. -/
structure SegScan where
  /-- First CTU of the segment before. -/
  prev : Option Nat := none
  /-- An independent segment was decoded, and the one in force was not discarded. -/
  indep : Bool := false
  dropping : Bool := false
  /-- CTUs, in tile scan, covered by a segment received, and those of segments discarded. -/
  received : List Nat := []
  bad : List Nat := []
  /-- Some independent segment was decoded. -/
  any : Bool := false
  /-- SYNTAX errors (class 0x02). -/
  errors : Nat := 0
  deriving DecidableEq, Repr, Inhabited

/-- One slice segment of a picture of `total` CTUs is read (R251, class 0x02). -/
def readSeg (total : Nat) (x : SegScan) (g : SliceSeg) : SegScan :=
  let ctus := (List.range g.len).map (fun i => g.addr + i)
  let x := { x with received := x.received ++ ctus }
  if g.dependent && x.dropping then { x with bad := x.bad ++ ctus, prev := some g.addr }
  else if !g.clean || x.prev.any (fun q => decide (g.addr ≤ q)) || decide (total ≤ g.addr) || (g.dependent && !x.indep) then
    { x with bad := x.bad ++ ctus, prev := some g.addr, errors := x.errors + 1, dropping := x.dropping || !g.dependent }
  else { x with prev := some g.addr, indep := true, dropping := false, any := true }

/-- The slice segments of a picture, read in order. -/
def readSegs (total : Nat) (gs : List SliceSeg) : SegScan := gs.foldl (readSeg total) {}

/-- CTUs of a picture, in tile scan, that no segment received covers, when data of the unit was lost (R251, class 0x01). -/
def lostCtus (loss : Bool) (total : Nat) (x : SegScan) : List Nat :=
  if loss then (List.range total).filter (fun k => !x.received.contains k) else []

/-- The class for which a layer picture is not decoded; 0 if it is decoded (R251, classes 0x03 and 0x05). -/
def notDecoded (r : LayerResult) (x : SegScan) : Nat :=
  if r.segs.any (fun g => !g.sets) then 3 else if !x.any then 5 else 0

/-! ### References (R250, R252) -/

/-- The buffer of the pool that holds the picture an entry of a reference set names. -/
def findRef (b : Binding) (e : RefEntry) : Option Nat :=
  (List.range b.bufs.length).find? (fun i =>
    (b.bufs[i]?).any (fun x => x.ref && !x.cur && decide (x.pic.layer = e.slot) && decide (x.pic.poc = e.poc)))

/-- Pictures of the layer that its reference sets do not name lose REF (R250). -/
def dropRefs (r : LayerResult) (b : Binding) : Binding :=
  { b with bufs := b.bufs.map (fun x =>
      if x.pic.layer = r.slot ∧ x.cur = false then
        { x with ref := x.ref && r.refs.any (fun e => decide (e.slot = r.slot) && decide (e.poc = x.pic.poc)) } else x) }

/-- The entries of the Curr and inter-layer sets that are not in the pool (R251, class 0x04). -/
def missingRefs (b : Binding) (r : LayerResult) : List RefEntry :=
  (r.refs.filter (fun e => e.current && (findRef b e).isNone)).eraseDups

/-- A stand-in for a missing reference takes a free buffer, every sample 512 (R252). -/
def standIn (c : Nat) (r : LayerResult) (e : RefEntry) (s : State) : State :=
  let b := s.binding c
  let s := s.setBinding c { b with generated := b.generated + 1 }
  match freeBufs b with
  | [] => s
  | i :: _ =>
    let x := b.bufs.getD i {}
    let grey (n : Nat) : List Nat := List.replicate n 512
    let cn := ceilDiv r.w 2 * (if r.chroma = 1 then ceilDiv r.h 2 else r.h)
    let pic : PicInfo := { layer := e.slot, poc := e.poc, addr := x.addr, pitch := refPitch b.maxW, w := r.w, h := r.h
                           chroma := r.chroma, maxH := b.maxH, depthY := r.depthY, depthC := r.depthC }
    s.setBinding c { s.binding c with bufs := b.bufs.set i { addr := x.addr, ref := true, generated := true, pic := pic } }
      |> writePicture x.addr (refPitch b.maxW) b.maxH r.w r.h r.chroma (grey (r.w * r.h)) (grey cn) (grey cn)

/-! ### Concealment (R253, R254) -/

/-- The source of concealed CTUs: the picture of the layer marked REF whose POC is closest, then lower (R253). -/
def concealSource (b : Binding) (r : LayerResult) : Option PicInfo :=
  ((b.bufs.filter (fun x => x.ref && !x.cur && decide (x.pic.layer = r.slot))).map (fun x => x.pic)).foldl
    (fun acc p => match acc with
      | none => some p
      | some q =>
        if (p.poc - r.poc).natAbs < (q.poc - r.poc).natAbs ∨ ((p.poc - r.poc).natAbs = (q.poc - r.poc).natAbs ∧ p.poc < q.poc)
        then some p else acc) none

/-- The raster addresses of the CTUs of a picture, in tile scan; without tiles, in raster order. -/
def ctuScan (l : LayerInfo) : List Nat := l.tiles.flatten

/-- The samples of a component of width `n` in which the CTUs of `bad` (raster addresses; blocks of `bw` by `bh` samples, `cols`
to a line) are filled with the collocated samples of the source, or 512 (R253). -/
def concealed (bad : List Nat) (cols bw bh n : Nat) (src : Nat → Nat → Nat) (xs : List Nat) : List Nat :=
  xs.zipIdx.map (fun e =>
    let x := e.2 % n
    let y := e.2 / n
    if bad.contains (y / bh * cols + x / bw) then src x y else e.1)

/-- What is handed out with a layer picture (R256). -/
def picInfo (b : Binding) (i serial : Nat) (au : AccessUnit) (con : Bool) (r : LayerResult) : PicInfo where
  layer := r.slot
  poc := r.poc
  media := au.media
  fts := au.fts
  addr := (b.bufs.getD i {}).addr
  pitch := refPitch b.maxW
  w := r.w
  h := r.h
  cropX := r.cropX
  cropY := r.cropY
  pw := r.pw
  ph := r.ph
  chroma := r.chroma
  depthY := r.depthY
  depthC := r.depthC
  loc := r.loc
  maxH := b.maxH
  alpha := r.alphaSlot
  alphaUse := match r.alphaSlot with | some a => FMap.get 0 b.alphaUse a | none => 0
  matrix := r.matrix
  trc := r.trc
  fullRange := r.fullRange
  concealed := con
  loss := au.loss
  field := r.field
  bottom := r.bottom
  serial := serial

/-- The picture of a layer that is being decoded and its buffer. -/
def curBuf (b : Binding) (slot : Nat) : Option Nat :=
  (List.range b.bufs.length).find? (fun i => (b.bufs[i]?).any (fun x => x.cur && decide (x.pic.layer = slot)))

/-- The components of a picture, for its hashes (R257). -/
def components (r : LayerResult) : List Component :=
  ⟨r.depthY, r.w, r.luma⟩ :: if r.chroma = 0 then [] else [⟨r.depthC, ceilDiv r.w 2, r.cb⟩, ⟨r.depthC, ceilDiv r.w 2, r.cr⟩]

/-- A decoded layer picture is stored, with its concealed CTUs filled, marked and counted (R249, R250, R253–R255, R257). -/
def storeLayer (c : Nat) (au : AccessUnit) (r : LayerResult) (l : LayerInfo) (bad : List Nat) (tainted : Bool) (i : Nat)
    (s : State) : State :=
  let b := s.binding c
  let src := concealSource b r
  let con := !bad.isEmpty || tainted
  let serial := s.dec.serial
  let raster := bad.map (fun k => nth (ctuScan l) k)
  let cols := ctuCols r.w l.ctb
  let cw := l.ctb / 2
  let ch := if r.chroma = 1 then l.ctb / 2 else l.ctb
  let fill (f : PicInfo → Nat → Nat → Nat) (x y : Nat) : Nat := match src with | some p => f p x y | none => 512
  let uncropped (p : PicInfo) : PicInfo := { p with cropX := 0, cropY := 0 }
  let luma := concealed raster cols l.ctb l.ctb r.w (fill (fun p x y => picLuma (uncropped p) x y s)) (scaled r.depthY r.luma)
  let part (v : Nat) (xs : List Nat) : List Nat :=
    concealed raster cols cw ch (ceilDiv r.w 2) (fill (fun p x y => picChroma (uncropped p) v x y s)) (scaled r.depthC xs)
  let cb := part 0 r.cb
  let cr := part 1 r.cr
  let s := { s with dec := { s.dec with serial := serial + 1 } }
    |> writePicture (b.bufs.getD i {}).addr (refPitch b.maxW) b.maxH r.w r.h r.chroma luma cb cr
  let first := con && !b.wasConcealed.contains r.slot
  let fails := if b.hashChk && !con then hashMismatches (nth b.layers r.slot) au.nals (components r) else 0
  let bufs := b.bufs.map (fun x => if x.pic.layer = r.slot then { x with newest := false } else x)
  let b := { b with
    bufs := bufs.set i { (bufs.getD i {}) with cur := false, ref := true, newest := true, pic := picInfo b i serial au con r }
    pics := b.pics + bit r.output, concealed := b.concealed + bit con, hashErr := b.hashErr + fails
    wasConcealed := (if con then [r.slot] else []) ++ b.wasConcealed.filter (fun x => decide (x ≠ r.slot))
    lastPoc := if r.output && decide (r.slot = 0) then r.poc else b.lastPoc }
  s.setBinding c b
    |> ifS first (fun s => s |> setF (DEC_CON_INFO_CTX b.first) c |> setF (DEC_CON_POC b.first) (ofSigned 32 r.poc)
        |> raise (0x40 + b.first) 2)
    |> each (List.range fails) (fun _ => raise (0x40 + b.first) 6)

/-- An error is recorded and STREAM_ERROR raised (R251). -/
def streamError (c first cls : Nat) (poc : Int) (s : State) : State :=
  s |> setF (DEC_ERR_INFO_CODE first) cls |> setF (DEC_ERR_INFO_CTX first) c |> setF (DEC_ERR_POC first) (ofSigned 32 poc)
    |> raise (0x40 + first) 3

/-- One layer picture of the unit: its errors, its stand-ins, and its picture (R249–R257). -/
def finishLayer (c : Nat) (au : AccessUnit) (r : LayerResult) (s : State) : State :=
  let b := s.binding c
  match curBuf b r.slot with
  | none => s
  | some i =>
    let l := (b.work.find? (fun l => decide (l.slot = r.slot))).getD default
    let total := (ctuScan l).length
    let x := readSegs total r.segs
    let lost := lostCtus au.loss total x
    let none' := notDecoded r x
    let err (cls : Nat) : State → State := streamError c b.first cls r.poc
    if none' ≠ 0 then
      s.setBinding c { b with bufs := b.bufs.set i { addr := (b.bufs.getD i {}).addr } }
        |> each (List.range x.errors) (fun _ => err 2) |> ifS (!lost.isEmpty) (err 1) |> err none'
    else
      let s := s.setBinding c (dropRefs r b)
      let gone := missingRefs (s.binding c) r
      let s := each gone (fun e s => s |> err 4 |> standIn c r e) s
      let b := s.binding c
      let tainted := !gone.isEmpty || r.refs.any (fun e => e.current && (findRef b e).any (fun k =>
        (b.bufs.getD k {}).generated || (b.bufs.getD k {}).pic.concealed))
      let faulty := (List.range total).filter (fun k => b.faulted.contains (ctuCore (groupSize b) l k))
      let s := s |> each (List.range x.errors) (fun _ => err 2) |> ifS (!lost.isEmpty) (err 1) |> ifS (!faulty.isEmpty) (err 2)
      storeLayer c au r l ((lost ++ x.bad ++ faulty).filter (fun k => decide (k < total))).eraseDups tainted i s

/-- Core `k` enters FAULT: the units of work it holds are concealed when their access unit completes (R258). -/
def decFault (k : Nat) (s : State) : State :=
  each (s.dec.binds.map (fun e => e.1)) (fun c t =>
    let b := t.binding c
    ifS (b.decoding.isSome && decide (b.first ≤ k) && decide (k < b.first + groupSize b))
      (State.setBinding c { b with faulted := (k - b.first) :: b.faulted }) t) s

/-- The uses of alpha that the unit's messages set (R238). -/
def noteAlpha (au : AccessUnit) (b : Binding) : Binding :=
  { b with alphaUse := (List.range b.layers.length).foldl (fun m k =>
      FMap.set 0 m k (alphaUseAfter (nth b.layers k) au.nals (FMap.get 0 m k))) b.alphaUse }

/-- The picture of a layer result is not decoded (R251, classes 0x03 and 0x05). -/
def layerAbsent (b : Binding) (r : LayerResult) : Bool :=
  decide (notDecoded r (readSegs (ctuScan ((b.work.find? (fun l => decide (l.slot = r.slot))).getD default)).length r.segs) ≠ 0)

/-- The NAL units of an access unit whose PSD SEI messages are passed to acceptance: none where its layer 0 picture is not
complete in the pool (R83, R248, R254). -/
def unitNals (c : Nat) (au : AccessUnit) (res : DecodeResult) (s : State) : List (List Byte) :=
  let b := s.binding c
  if res.layers.any (fun r => decide (r.slot = 0) && b.work.any (fun l => decide (l.slot = 0)) && !layerAbsent b r) then au.nals else []

/-- The unit being decoded for context `c` completes: its pictures are stored and handed out (R249–R257); the media time
of a layer-0 picture handed out is answered beside the state. -/
def completeUnit (c : Nat) (res : DecodeResult) (s : State) : State × Option Int :=
  let b := s.binding c
  match b.decoding with
  | none => (s, none)
  | some au =>
    let rs := inLayerOrder b (fun (r : LayerResult) => r.slot) (res.layers.filter (fun r => b.work.any (fun l => decide (l.slot = r.slot))))
    let bad := layerAbsent b
    let s := s.setBinding c (noteAlpha au b)
    let s := each rs (finishLayer c au) s
    let b := s.binding c
    let bufs := b.bufs.map (fun x => if x.cur then { addr := x.addr } else x)
    let work := b.work
    let n := groupSize b
    let b := { b with bufs := bufs, decoding := none, work := [], faulted := [], discarded := b.discarded + bit (rs.any bad) }
    let s := s.setBinding c (if b.state = 2 then dropMarks b else b)
    let s := each (List.range n) (fun k t =>
      let mine := work.filter (fun l => (workers n l).contains k)
      let f := fresh 32 t
      t |> ifS (!mine.isEmpty) (fun _ => f.2 |> addF (DEC_BUSY (b.first + k)) f.1)
        |> setB (DEC_CORE_BUSY (b.first + k)) false |> addF (DEC_PICS (b.first + k)) mine.length) s
    let s := ifS (decide (1 < n)) (addF (DEC_SERIAL b.first) (work.filter (fun l => decide (divRule l = 4))).length) s
    (s, if rs.any (fun r => r.output && decide (r.slot = 0) && !bad r) then some au.media else none)

/-! ## The binding window (R261) -/

/-- DEC_SEL is written: a snapshot of one binding (R261). -/
def writeDecSel (v : Nat) (s : State) : State :=
  let c := v % 1024
  let b := s.binding c
  let used := (b.bufs.filter (fun x => !bufFree x)).length
  s |> setF DEC_SEL_SEL c |> setF DEC_D_BIND_STATE b.state |> setF DEC_D_BIND_CORES b.cores
    |> setF DEC_D_BIND_FIRST_CORE b.first |> setF DEC_D_BIND_BUF_USED used |> setF DEC_D_BIND_N_BUF b.nBuf
    |> setF DEC_D_PICS b.pics |> setF DEC_D_CONCEALED b.concealed |> setF DEC_D_GENERATED b.generated
    |> setF DEC_D_DISCARDED b.discarded |> setF DEC_D_SKIPPED b.skipped |> setF DEC_D_HASH_ERR b.hashErr
    |> setF DEC_D_LAST_POC (ofSigned 32 b.lastPoc) |> setF DEC_D_QUEUE_QUEUE (s.ctx c).queue.length
    |> setF DEC_D_UNS_REASON b.uns

/-- DEC_SEL_WRITE (R261). -/
def execDecSelWrite (who : Who) (v : Word) (s : State) : Host.Outcome State Fault Refusal :=
  .next (guardWrite who 0x40 DEC_SEL_SEL.addr (mayWrite who 0x40 s) (writeDecSel v.toNat) s)

end Sys2Proof.Machine
end

