-- ==== Sys2Proof/Machine/Draw.lean ====
section
/-!
DEFINITION. The draw engine and DMA copies (R284–R290, R294, R483): records, their checks, the arithmetic of each operation,
and what a lease cuts off (R138).
-/

namespace Sys2Proof.Machine

/-! ## Ownership of HBM (R286, R472) -/

/-- Bytes `a` to `a + n − 1` lie wholly within one HBM region granted to partition `p` (R472); firmware,
index 8, has no grants that bind it (log 7). -/
def inRegion (p a n : Nat) (s : State) : Bool :=
  decide (8 ≤ p) || (List.range 8).any (fun k =>
    let b := getF (HST_REG_BASE p k) s
    let z := getF (HST_REG_SIZE p k) s
    decide (z ≠ 0) && decide (b * 2 ^ 20 ≤ a) && decide (a + n ≤ (b + z) * 2 ^ 20))

/-- Bytes `a` to `a + n − 1` lie within one host window of partition `p`, which is bound to PCIe (R473). -/
def inHostWindow (p a n : Nat) (s : State) : Bool :=
  decide (p < 8) && decide (transport p s = 1) && (List.range 4).any (fun k =>
    let b := getF (HST_HWIN_BASE_LO_ADDR p k) s * 4096 + getF (HST_HWIN_BASE_HI p k) s * 2 ^ 32
    let z := getF (HST_HWIN_SIZE_LO_SIZE p k) s * 4096 + getF (HST_HWIN_SIZE_HI p k) s * 2 ^ 32
    decide (z ≠ 0) && decide (b ≤ a) && decide (a + n ≤ b + z))

/-- Bytes `a` to `a + n − 1` lie in a buffer of a HOST plane that partition `p` owns (R286). -/
def inHostPlane (p a n : Nat) (s : State) : Bool :=
  (List.range 256).any (fun i =>
    let x := s.plane i
    decide (x.state = 1) && x.set.host && decide (x.owner = p) && (List.range x.set.nbuf).any (fun b =>
      decide (bufAddr x b ≤ a) && decide (a + n ≤ bufAddr x b + bufferLen x.set.w x.set.h)))

/-! ## The draw record (R284–R286) -/

/-- A draw record (R285). -/
structure DrawRec where
  op : Nat
  dfmt : Nat
  dalpha : Bool
  sfmt : Nat
  premult : Bool
  sam : Nat
  ga : Nat
  dst : Nat
  dpitch : Nat
  src : Nat
  spitch : Nat
  dstA : Nat
  dapitch : Nat
  srcA : Nat
  sapitch : Nat
  w : Nat
  h : Nat
  colour : Nat
  mx : Nat
  falpha : Nat
  deriving DecidableEq, Repr

/-- Reads a draw record. -/
def parseDraw (ws : List Word) : DrawRec where
  op := fieldAt ws 0 31 28
  dfmt := fieldAt ws 0 27 26
  dalpha := decide (fieldAt ws 0 25 25 = 1)
  sfmt := fieldAt ws 0 24 23
  premult := decide (fieldAt ws 0 22 22 = 1)
  sam := fieldAt ws 0 21 20
  ga := fieldAt ws 0 10 0
  dst := fieldAt ws 2 31 24 * 2 ^ 32 + wordAt ws 1
  dpitch := fieldAt ws 2 23 6 * 64
  src := fieldAt ws 4 31 24 * 2 ^ 32 + wordAt ws 3
  spitch := fieldAt ws 4 23 6 * 64
  dstA := fieldAt ws 6 31 24 * 2 ^ 32 + wordAt ws 5
  dapitch := fieldAt ws 6 23 6 * 64
  srcA := fieldAt ws 8 31 24 * 2 ^ 32 + wordAt ws 7
  sapitch := fieldAt ws 8 23 6 * 64
  w := fieldAt ws 9 31 18 + 1
  h := fieldAt ws 9 17 4 + 1
  colour := wordAt ws 10
  mx := fieldAt ws 11 31 27
  falpha := fieldAt ws 11 9 0

/-- The operation reads a source surface, and a source alpha surface. -/
def DrawRec.usesSrc (d : DrawRec) : Bool := decide (d.op = 1) || decide (d.op = 2) || decide (d.op = 3)
def DrawRec.usesSrcA (d : DrawRec) : Bool := (decide (d.op = 1) && d.dalpha) || (decide (d.op = 2) && decide (d.sam ≠ 0))

/-- Reason 0x01 of R286: the operation, its formats, or a field it does not use. -/
def badOp (ws : List Word) (d : DrawRec) : Bool :=
  decide (3 < d.op) || decide (1 < d.dfmt) || (d.dalpha && decide (d.dfmt ≠ 0)) ||
  decide (fieldAt ws 0 19 11 ≠ 0) || decide (fieldAt ws 2 5 0 ≠ 0) || decide (fieldAt ws 4 5 0 ≠ 0) ||
  decide (fieldAt ws 6 5 0 ≠ 0) || decide (fieldAt ws 8 5 0 ≠ 0) || decide (fieldAt ws 9 3 0 ≠ 0) || decide (fieldAt ws 11 26 10 ≠ 0) ||
  (match d.op with
    | 0 => decide (d.sfmt ≠ 0) || d.premult || decide (d.sam ≠ 0) || decide (d.ga ≠ 0) || decide (d.mx ≠ 0) ||
      (decide (d.dfmt = 1) && decide (d.colour ≠ 0)) || (decide (d.dfmt = 0) && !d.dalpha && decide (d.falpha ≠ 0))
    | 1 => decide (d.sfmt ≠ d.dfmt) || d.premult || decide (d.sam ≠ 0) || decide (d.ga ≠ 0) || decide (d.mx ≠ 0) ||
      decide (d.colour ≠ 0) || decide (d.falpha ≠ 0)
    | 2 => decide (d.dfmt ≠ 0) || !d.dalpha || decide (d.sfmt ≠ 0) || decide (d.sam = 3) || decide (d.mx ≠ 0) ||
      decide (d.colour ≠ 0) || decide (d.falpha ≠ 0)
    | _ => decide (d.dfmt ≠ 0) || !d.dalpha || decide (d.sfmt < 2) || decide (d.sam ≠ 0) || decide (d.falpha ≠ 0) ||
      (decide (d.sfmt = 3) && decide (d.mx % 2 = 1))) ||
  (!d.usesSrc && (decide (wordAt ws 3 ≠ 0) || decide (wordAt ws 4 ≠ 0))) ||
  (!d.dalpha && (decide (wordAt ws 5 ≠ 0) || decide (wordAt ws 6 ≠ 0))) ||
  (!d.usesSrcA && (decide (wordAt ws 7 ≠ 0) || decide (wordAt ws 8 ≠ 0)))

/-- Start alignment of a format (R284). -/
def fmtAlign (f : Nat) : Nat := if f = 1 then 2 else 4

/-- Bytes of `w` pixels of a row from its start (R284). -/
def rowBytes (f mx w : Nat) : Nat :=
  match f with
  | 0 => 4 * w
  | 1 => 2 * w
  | 2 => 4 * ceilDiv (mx + w) 32
  | _ => 4 * ceilDiv (mx + 2 * w) 32

/-- Byte span of a surface of `h` rows: first byte and one past the last. -/
def span (a pitch row h : Nat) : Nat × Nat := (a, a + pitch * (h - 1) + row)

/-- Two byte spans overlap. -/
def spanHit (x y : Nat × Nat) : Bool := decide (x.1 < y.2) && decide (y.1 < x.2)

/-- The spans of the four surfaces: destination, source, destination alpha, source alpha. -/
def DrawRec.dSpan (d : DrawRec) : Nat × Nat := span d.dst d.dpitch (rowBytes d.dfmt 0 d.w) d.h
def DrawRec.sSpan (d : DrawRec) : Nat × Nat := span d.src d.spitch (rowBytes d.sfmt d.mx d.w) d.h
def DrawRec.daSpan (d : DrawRec) : Nat × Nat := span d.dstA d.dapitch (rowBytes 1 0 d.w) d.h
def DrawRec.saSpan (d : DrawRec) : Nat × Nat := span d.srcA d.sapitch (rowBytes 1 0 d.w) d.h

/-- The reason for which a draw record of partition `p` is refused; 0 when it is accepted (R286). -/
def drawReason (p : Nat) (ws : List Word) (s : State) : Nat :=
  let d := parseDraw ws
  let mine (x : Nat × Nat) : Bool := inHostPlane p x.1 (x.2 - x.1) s || inRegion p x.1 (x.2 - x.1) s
  let srcs := (if d.usesSrc then [d.sSpan] else []) ++ (if d.usesSrcA then [d.saSpan] else [])
  let dsts := d.dSpan :: (if d.dalpha then [d.daSpan] else [])
  if badOp ws d then 1
  else if d.dst % fmtAlign d.dfmt ≠ 0 ∨ (d.usesSrc = true ∧ d.src % fmtAlign d.sfmt ≠ 0) ∨ (d.dalpha = true ∧ d.dstA % 2 ≠ 0) ∨
    (d.usesSrcA = true ∧ d.srcA % 2 ≠ 0) then 2
  else if d.dpitch < rowBytes d.dfmt 0 d.w ∨ (d.usesSrc = true ∧ d.spitch < rowBytes d.sfmt d.mx d.w) ∨
    (d.dalpha = true ∧ d.dapitch < 2 * d.w) ∨ (d.usesSrcA = true ∧ d.sapitch < 2 * d.w) then 3
  else if 0x400 < d.ga then 4
  else if d.op = 1 ∧ ((spanHit d.sSpan d.dSpan = true ∧ d.spitch ≠ d.dpitch) ∨
    (d.dalpha = true ∧ spanHit d.saSpan d.daSpan = true ∧ d.sapitch ≠ d.dapitch)) then 5
  else if 2 ≤ d.op ∧ srcs.any (fun x => dsts.any (spanHit x)) = true then 5
  else if (srcs ++ dsts).all mine = false then 6 else 0

/-- DRW_STAT shows the queue (R294). -/
def showDrw (s : State) : State :=
  s |> setB DRW_STAT_BUSY (!s.asm.draws.isEmpty) |> setF DRW_STAT_QUEUED (s.asm.draws.length - 1)

/-- A DRAW record is checked and the command accepted (R286, R289). -/
def drawRecord (c : Cmd) (ws : List Word) (s : State) : State :=
  let r := drawReason c.idx ws s
  if r ≠ 0 then
    s |> setF DRW_REJ_REASON r |> setF DRW_REJ_PARTITION c.idx |> countF DRW_REJ_CNT |> raise 0x68 2
      |> refuse 0x20 c (if r = 6 then NOT_OWNER else BAD_ARGUMENT) r
  else { s with asm := { s.asm with draws := s.asm.draws ++ [⟨refOf 0x20 c, ws, leasesNow s⟩] } } |> showDrw

/-- One DRAW. -/
def drawOne (c : Cmd) (s : State) : State := withLen 0x20 c 48 (drawRecord c) s

/-- DRAW (R284–R286): the commands of one cycle in the order of the tie rule (R289). -/
def execDraw (cs : List Cmd) (s : State) : Host.Outcome State Fault Refusal :=
  .next (runTies 0x20 cs (fun cs => serveTable DRW_TIE_PTR 8 cs drawOne) s)

/-! ## Pixels (R287, R288) -/

/-- A destination in the premultiplied form of R279, from its stored texel. -/
def loadDest (premult : Bool) (y cb cr a : Nat) : Dest :=
  if premult then ⟨y, cb, cr, rnd (((a : Int) + shr a 9) * 0x400) 10⟩ else windowStep false 0x400 y cb cr a {}

/-- The mask value of pixel `i` of row `j`, as coverage 0–1,023 (R287). -/
def maskAlpha (d : DrawRec) (i j : Nat) (s : State) : Nat :=
  let bitAt (b : Nat) : Nat := bit (bitOf (hbmWord (d.src + j * d.spitch + 4 * (b / 32)) s) (31 - b % 32))
  if d.sfmt = 2 then bitAt (d.mx + i) * 1023 else (2 * bitAt (d.mx + 2 * i) + bitAt (d.mx + 2 * i + 1)) * 341

/-- A blended pixel: source codes, alpha, and how the source is held. -/
def blended (d : DrawRec) (premultSrc : Bool) (i j y cb cr a : Nat) (s : State) : List (Nat × List Byte) :=
  let da := d.dst + j * d.dpitch + 4 * i
  let aa := d.dstA + j * d.dapitch + 2 * i
  let w := hbmWord da s
  let t := loadDest d.premult (c30Part w 0) (c30Part w 1) (c30Part w 2) (hbmHalf aa s % 1024)
  let x := storeTexel d.premult (windowStep premultSrc d.ga y cb cr a t)
  [(da, wordBytes (Word.ofNat (c30 x.1 x.2.1 x.2.2.1))), (aa, (wordBytes (Word.ofNat x.2.2.2)).take 2)]

/-- What a draw command writes for pixel (i, j): addresses and bytes, from memory as it was before the command (R287,
R288). -/
def drawPixel (d : DrawRec) (i j : Nat) (s : State) : List (Nat × List Byte) :=
  let px := if d.dfmt = 0 then 4 else 2
  let da := d.dst + j * d.dpitch + px * i
  let aa := d.dstA + j * d.dapitch + 2 * i
  match d.op with
  | 0 =>
    if d.dfmt = 0 then (da, wordBytes (Word.ofNat (d.colour % 2 ^ 30))) ::
      (if d.dalpha then [(aa, (wordBytes (Word.ofNat d.falpha)).take 2)] else [])
    else [(da, (wordBytes (Word.ofNat d.falpha)).take 2)]
  | 1 => (da, memRead .hbm (d.src + j * d.spitch + px * i) px s) ::
      (if d.dalpha then [(aa, memRead .hbm (d.srcA + j * d.sapitch + 2 * i) 2 s)] else [])
  | 2 =>
    let w := hbmWord (d.src + j * d.spitch + 4 * i) s
    let a := if d.sam = 0 then 1023 else hbmHalf (d.srcA + j * d.sapitch + 2 * i) s % 1024
    blended d (decide (d.sam = 2)) i j (c30Part w 0) (c30Part w 1) (c30Part w 2) a s
  | _ =>
    let a := maskAlpha d i j s
    if a = 0 then []
    else blended d false i j (c30Part d.colour 0) (c30Part d.colour 1) (c30Part d.colour 2) a s

/-- The pixel that a surface pair takes at step `k`; a COPY runs backwards where the destination starts above the source
(R288). -/
def stepPixel (d : DrawRec) (back : Bool) (k : Nat) : Nat × Nat :=
  let n := if back then d.w * d.h - 1 - k else k
  (n % d.w, n / d.w)

/-- What a draw command writes at step `k`: of a COPY, each surface pair goes in its own direction (R288). -/
def drawStep (d : DrawRec) (k : Nat) (s : State) : List (Nat × List Byte) :=
  let back := decide (d.op = 1) && decide (d.src < d.dst)
  let backA := decide (d.op = 1) && decide (d.srcA < d.dstA)
  let p := stepPixel d back k
  if d.op = 1 ∧ d.dalpha = true then
    let q := stepPixel d backA k
    (drawPixel d p.1 p.2 s).take 1 ++ (drawPixel d q.1 q.2 s).drop 1
  else drawPixel d p.1 p.2 s

/-- A write of burst `k` of a command, unless a lease refuses it: the first leased buffer hit is answered beside the state
(R138). -/
def leasedWrite (l : List SeenLease) (spans : List (Nat × Nat)) (k : Nat) (x : Nat × List Byte) (t : State × Option (Nat × Nat)) :
    State × Option (Nat × Nat) :=
  match refusedBy l spans x.1 k with
  | some b => (t.1, t.2.or (some b))
  | none => (memWrite .hbm x.1 x.2 t.1, t.2)

/-- The steps of a draw command in order: the state, the first leased buffer hit, and the pixels written whole. -/
def drawAll (d : DrawRec) (l : List SeenLease) (spans : List (Nat × Nat)) (s : State) : (State × Option (Nat × Nat)) × Nat :=
  (List.range (d.w * d.h)).foldl (fun acc k =>
    let ws := drawStep d k s
    (ws.foldl (fun t x => leasedWrite l spans k x t) acc.1,
      acc.2 + bit (!ws.isEmpty && ws.all (fun x => (refusedBy l spans x.1 k).isNone)))) ((s, none), 0)

/-- DRAW_COMPLETE: the head command has written its last burst, also on the way to OFF (R35, R287–R290). `spans` tells for each
lease that it met which of its pixel steps were issued under it (R138). -/
def execDrawComplete (spans : List (Nat × Nat)) (s : State) : Host.Outcome State Fault Refusal :=
  .next (match s.asm.draws with
    | [] => s
    | j :: rest =>
      if !runs 0x68 s then s else
      let r := drawAll (parseDraw j.words) j.leases spans s
      let f := fresh 32 r.1.1
      let s := { f.2 with asm := { f.2.asm with draws := rest } } |> showDrw |> addF DRW_PX r.2 |> addF DRW_BURSTS f.1
      match r.1.2 with
      | none => complete true j.cmd DONE 0 0 0 s
      | some l => s |> leaseViolation 1 (whoIdx j.cmd.who) l |> countF DRW_CUT |> raise 0x68 3
          |> complete true j.cmd LEASED 0 0 0)

/-! ## DMA copies (R483) -/

/-- DMA_COPY is accepted; DST_LEN must equal SRC_LEN (R482, R483). -/
def dmaBody (c : Cmd) (s : State) : State :=
  if c.src.len ≠ c.dst.len then answer 0x21 c BAD_ARGUMENT s
  else if srcBad c s then abortOperand 0x21 c s
  else { s with asm := { s.asm with dmas := s.asm.dmas ++ [⟨c, leasesNow s⟩] } }

/-- DMA_COPY (R483). -/
def execDmaCopy (c : Cmd) (s : State) : Host.Outcome State Fault Refusal := .next (runCmd 0x21 c (dmaBody c) s)

/-- Bytes written at `a` upwards, byte `k` first, under the leases that the copy met (R138). -/
def dmaWrite (sp : Space) (l : List SeenLease) (spans : List (Nat × Nat)) :
    Nat → Nat → List Byte → State × Option (Nat × Nat) → State × Option (Nat × Nat)
  | _, _, [], t => t
  | a, k, b :: r, t =>
    let t := match sp with
      | .hbm => leasedWrite l spans k (a, [b]) t
      | .host _ => (memPut sp a b t.1, t.2)
    dmaWrite sp l spans (a + 1) (k + 1) r t

/-- DMA_COPY_DONE: the copy ends (R483). `spans` tells for each lease that it met which of its bytes were issued under it (R138),
`before` how many bytes were written before the failure of an operand write (R480). -/
def execDmaCopyDone (c : Cmd) (spans : List (Nat × Nat)) (before : Nat) (ok : Bool) (s : State) : Host.Outcome State Fault Refusal :=
  .next (match s.asm.dmas.find? (fun j => decide (j.cmd.who = c.who)) with
    | none => s
    | some j =>
      if j.cmd ≠ c then s else
      let ok := ok && !srcBad c s && !dstBad c s
      let bs := srcBytes c s
      let r := dmaWrite (opSpace c c.dst s) j.leases spans c.dst.addr 0 (if ok then bs else bs.take before) (s, none)
      let s := r.1
      let s := { s with asm := { s.asm with dmas := dropFirst (fun x => decide (x = j)) s.asm.dmas } }
      let s := match r.2 with
        | none => s
        | some l => leaseViolation 0 c.idx l s
      if !ok then abortOperand 0x21 c s else answer 0x21 c (if r.2.isSome then LEASED else DONE) s)

end Sys2Proof.Machine
end

