-- ==== Sys2Proof/Machine/ParamSets.lean ====
section
/-!
DEFINITION. What an encode session writes around its coded slices: VPS, SPS and PPS with the tools of R302 and the signalling
of R301, and the SEI messages of R302 and R303. Their syntax is that of ITU-T H.265 (7.3, annexes B and E), an outside standard.
A syntax element that neither R302 nor that standard fixes is an open value, `Config.encElement` (log 13).
-/

namespace Sys2Proof.Machine

/-! ## Bit strings -/

/-- u(n). -/
def uBits : Nat → Nat → List Bool
  | 0, _ => []
  | n + 1, v => bitOf v n :: uBits n v

/-- ue(v). -/
def ueBits (v : Nat) : List Bool :=
  let k := Nat.log2 (v + 1)
  List.replicate k false ++ uBits (k + 1) (v + 1)

/-- se(v). -/
def seBits (v : Int) : List Bool := ueBits (if 0 < v then (2 * v - 1).toNat else (-2 * v).toNat)

/-- A number from its bits, most significant first. -/
def bitsNat (l : List Bool) : Nat := l.foldl (fun n b => 2 * n + bit b) 0

/-- The bytes of a bit string with rbsp_trailing_bits. -/
def rbsp (l : List Bool) : List Byte :=
  let m := l ++ [true] ++ List.replicate (7 - l.length % 8) false
  (chunks 8 m.length m).map (fun c => BitVec.ofNat 8 (bitsNat c))

/-- Emulation prevention of H.265 7.4.2: 0x03 goes before a byte of at most 3 that follows two zero bytes; `z` zero bytes
came before. -/
def escapeBytes : Nat → List Byte → List Byte
  | _, [] => []
  | z, b :: r =>
    if 2 ≤ z ∧ b.toNat ≤ 3 then 0x03 :: b :: escapeBytes (if b = 0 then 1 else 0) r
    else b :: escapeBytes (if b = 0 then z + 1 else 0) r

/-- A NAL unit of type `t`, layer 0 and TemporalId 0 in a byte stream: start code, header, payload. The start code has a
zero_byte before it (`zero`) in front of a parameter set and of an access unit's first NAL unit. -/
def nalBytes (zero : Bool) (t : Nat) (payload : List Byte) : List Byte :=
  (if zero then [0x00] else []) ++ [0x00, 0x00, 0x01, BitVec.ofNat 8 (2 * t), 0x01] ++ escapeBytes 0 payload

/-! ## Parameter sets (R301, R302) -/

/-- Open syntax element `k`, below `n` (log 13). -/
def openElem (k n : Nat) : Nat := Config.encElement k % n

/-- profile_tier_level: Main 10, Main tier, the record's LEVEL. -/
def profileBits (r : EncRec) : List Bool :=
  uBits 8 2 ++ uBits 32 0x20000000 ++ uBits 4 0b1001 ++ uBits 44 0 ++ uBits 8 r.level

/-- Pictures the decoder holds beside the current one: one for P, two for low-delay B. -/
def refPics (r : EncRec) : Nat := if r.struct_ then 2 else 1

/-- sps_max_dec_pic_buffering_minus1, sps_max_num_reorder_pics = 0, no limit of latency. -/
def dpbBits (r : EncRec) : List Bool := ueBits (refPics r) ++ ueBits 0 ++ ueBits 0

/-- The video parameter set. -/
def vps (r : EncRec) : List Byte :=
  rbsp (uBits 4 0 ++ uBits 2 3 ++ uBits 6 0 ++ uBits 3 0 ++ uBits 1 1 ++ uBits 16 0xFFFF ++ profileBits r ++ uBits 1 1 ++
    dpbBits r ++ uBits 6 0 ++ ueBits 0 ++ uBits 1 0 ++ uBits 1 0)

/-- A width or height padded to a multiple of 8 (R301). -/
def padded (n : Nat) : Nat := 8 * ceilDiv n 8

/-- The conformance window crops the padding away, in units of two luma samples (R301). -/
def cropBits (r : EncRec) : List Bool :=
  if padded r.w = r.w ∧ padded r.h = r.h then uBits 1 0
  else uBits 1 1 ++ ueBits 0 ++ ueBits ((padded r.w - r.w) / 2) ++ ueBits 0 ++ ueBits ((padded r.h - r.h) / 2)

/-- The short-term reference picture sets: the previous picture; for low-delay B also the two previous ones. -/
def rpsBits (r : EncRec) : List Bool :=
  let prev (n : Nat) : List Bool := ueBits n ++ ueBits 0 ++ (List.replicate n (ueBits 0 ++ uBits 1 1)).flatten
  if r.struct_ then ueBits 2 ++ prev 1 ++ uBits 1 0 ++ prev 2 else ueBits 1 ++ prev 1

/-- The VUI: PRIM, TRC, MC and FULL, chroma_loc_info type 1 for probes and planes, no timing information (R301, R302). -/
def vuiBits (r : EncRec) : List Bool :=
  uBits 2 0 ++ uBits 1 1 ++ uBits 3 5 ++ uBits 1 (bit r.full) ++ uBits 1 1 ++ uBits 8 r.prim ++ uBits 8 r.trc ++ uBits 8 r.mc ++
    (if r.srcKind = 1 then uBits 1 0 else uBits 1 1 ++ ueBits 1 ++ ueBits 1) ++ uBits 6 0

/-- The sequence parameter set: CTB 64, CB from 8, TU 4 to 32; AMP, PCM, scaling lists and long-term references off; SAO, TMVP
and strong intra smoothing on (R302). -/
def sps (r : EncRec) : List Byte :=
  rbsp (uBits 4 0 ++ uBits 3 0 ++ uBits 1 1 ++ profileBits r ++ ueBits 0 ++ ueBits 1 ++ ueBits (padded r.w) ++ ueBits (padded r.h) ++
    cropBits r ++ ueBits 2 ++ ueBits 2 ++ ueBits (openElem 0 13) ++ uBits 1 1 ++ dpbBits r ++
    ueBits 0 ++ ueBits 3 ++ ueBits 0 ++ ueBits 3 ++ ueBits (openElem 1 5) ++ ueBits (openElem 2 5) ++
    uBits 1 0 ++ uBits 1 0 ++ uBits 1 1 ++ uBits 1 0 ++ rpsBits r ++ uBits 1 0 ++ uBits 1 1 ++ uBits 1 1 ++
    uBits 1 1 ++ vuiBits r ++ uBits 1 0)

/-- The picture parameter set: sign data hiding and a QP per CTB on; dependent slices, transform skip, tiles and WPP off;
deblocking as the standard's default has it, on (R302, R304). -/
def pps (r : EncRec) : List Byte :=
  rbsp (ueBits 0 ++ ueBits 0 ++ uBits 1 0 ++ uBits 1 0 ++ uBits 3 0 ++ uBits 1 1 ++ uBits 1 (openElem 3 2) ++
    ueBits (openElem 4 (refPics r)) ++ ueBits (openElem 5 (refPics r)) ++ seBits ((openElem 6 64 : Int) - 38) ++ uBits 1 (openElem 7 2) ++
    uBits 1 0 ++ uBits 1 1 ++ ueBits 0 ++ seBits ((openElem 8 25 : Int) - 12) ++ seBits ((openElem 9 25 : Int) - 12) ++
    uBits 1 (openElem 10 2) ++ uBits 1 (openElem 11 2) ++ uBits 1 (openElem 12 2) ++ uBits 1 (openElem 13 2) ++
    uBits 1 0 ++ uBits 1 0 ++ uBits 1 (openElem 14 2) ++ uBits 1 0 ++ uBits 1 0 ++ uBits 1 (openElem 15 2) ++
    ueBits (openElem 16 5) ++ uBits 1 0 ++ uBits 1 0)

/-- VPS, SPS and PPS, before every IDR picture (R302). -/
def paramSets (r : EncRec) : List Byte :=
  nalBytes true 32 (vps r) ++ nalBytes true 33 (sps r) ++ nalBytes true 34 (pps r)

/-! ## SEI messages -/

/-- uuid_iso_iec_11578 of the SEI message (R303). -/
def seiUuid : List Byte :=
  [0x3F, 0x6E, 0x2B, 0x10, 0x7D, 0x1C, 0x4A, 0x57, 0x9C, 0x02, 0xA1, 0x1E, 0x0F, 0x5B, 0x3D, 0x29]

/-- The prefix SEI NAL unit of an access unit: payloadType 5, 36 bytes (R303). -/
def seiNal (first : Bool) (ws : List Word) : List Byte :=
  nalBytes first 39 ([0x05, 0x24] ++ seiUuid ++ ws.flatMap (fun w => natBe 4 w.toNat) ++ [0x80])

/-- The suffix SEI NAL unit with the MD5 digests of a picture's components: payloadType 132, 49 bytes (R302). -/
def hashNal (comps : List Component) : List Byte :=
  nalBytes false 40 ([0x84, 0x31, 0x00] ++ comps.flatMap (fun c => natBe 16 (digest 0 c)) ++ [0x80])

/-! ## The fixed bytes of an access unit (R303) -/

/-- CTBs of a row, and rows of CTBs, of a session's pictures. -/
def ctbCols (r : EncRec) : Nat := ceilDiv r.w 64
def ctbRows (r : EncRec) : Nat := ceilDiv r.h 64

/-- Slices of a picture (R302). -/
def sliceCount (r : EncRec) : Nat := if r.sliceRows = 0 then 1 else ceilDiv (ctbRows r) r.sliceRows

/-- HDR of R303: parameter sets, SEI messages, and for each slice its header and start code, whose size is open (log 13). -/
def hdrBytes (r : EncRec) : Nat :=
  (paramSets r).length + 44 + (if r.hash then 57 else 0) +
    sliceCount r * Config.encSliceHead [bit r.struct_, r.w, r.h, r.sliceRows]

/-! ## The heads of slices (R302) -/

/-- The NAL units of a byte stream, without start codes and the zero bytes before them: `z` zero bytes stand just before, and
`cur` is the unit being read, last byte first. -/
def splitNalsFrom (z : Nat) (cur : Option (List Byte)) : List Byte → List (List Byte)
  | [] => cur.toList.map List.reverse
  | b :: l =>
    if b = 1 ∧ 2 ≤ z then
      (cur.toList.map (fun c => (c.dropWhile (fun x => decide (x = 0))).reverse)) ++ splitNalsFrom 0 (some []) l
    else splitNalsFrom (if b = 0 then z + 1 else 0) (cur.map (fun c => b :: c)) l

def splitNals (l : List Byte) : List (List Byte) := splitNalsFrom 0 none l

/-- The bits of bytes, most significant first. -/
def bitsOfBytes (l : List Byte) : List Bool := l.flatMap (fun b => uBits 8 b.toNat)

/-- A number in ue(v) at the head of bits, and what follows it. -/
def readUe (l : List Bool) : Nat × List Bool :=
  let k := (l.takeWhile (fun b => !b)).length
  (bitsNat ((l.drop k).take (k + 1)) - 1, l.drop (2 * k + 1))

/-- Address of the first CTB and slice type of a slice segment under the session's parameter sets; none where its head names
another picture parameter set. -/
def sliceHead (r : EncRec) (idr : Bool) (nal : List Byte) : Option (Nat × Nat) :=
  let l := bitsOfBytes (unescape 0 (nal.drop 2))
  let first := l.headD false
  let l := l.drop (if idr then 2 else 1)
  let id := readUe l
  let n := ctbCols r * ctbRows r
  let v := if first ∨ n ≤ 1 then 0 else Nat.log2 (n - 1) + 1
  if id.1 ≠ 0 then none else some (bitsNat (id.2.take v), (readUe (id.2.drop v)).1)

/-- AU_MIN (R303). -/
def auMin (r : EncRec) : Nat := hdrBytes r + ctbRows r * (8 * ctbCols r + 4) + 64

end Sys2Proof.Machine
end

