-- ==== Sys2Proof/Machine/Encode.lean ====
section
/-!
DEFINITION. Proxy encoding (spec/10): sessions, captures and their arithmetic, the bucket and its row test, access units, and
the output rings. The slices that code a picture are carried by the command, since ITU-T H.265 is an outside standard and the
rate control is not normative; the model holds them to the bounds of R304.
-/

namespace Sys2Proof.Machine

/-! ## Sessions (R295–R298) -/

/-- A session record (R296). -/
def parseEnc (ws : List Word) : EncRec where
  srcKind := fieldAt ws 0 23 22
  core := fieldAt ws 0 21 20
  struct_ := decide (fieldAt ws 0 19 19 = 1)
  vbr := decide (fieldAt ws 0 18 18 = 1)
  hash := decide (fieldAt ws 0 17 17 = 1)
  srcId := fieldAt ws 0 7 0
  decim := fieldAt ws 1 31 30
  level := fieldAt ws 1 29 22
  conv := decide (fieldAt ws 1 21 21 = 1)
  div := fieldAt ws 1 19 16
  idrPeriod := fieldAt ws 1 15 0
  x0 := fieldAt ws 2 31 18
  y0 := fieldAt ws 2 17 5
  w := fieldAt ws 3 31 18 + 1
  h := fieldAt ws 3 17 5 + 1
  bitrate := wordAt ws 4
  cpb := wordAt ws 5
  picCap := wordAt ws 6
  qpMin := fieldAt ws 7 31 26
  qpMax := fieldAt ws 7 25 20
  qpInit := fieldAt ws 7 19 14
  sliceRows := fieldAt ws 7 13 6
  prim := fieldAt ws 8 31 24
  trc := fieldAt ws 8 23 16
  mc := fieldAt ws 8 15 8
  full := decide (fieldAt ws 8 7 7 = 1)
  outAddr := fieldAt ws 10 31 24 * 2 ^ 32 + wordAt ws 9
  outKib := fieldAt ws 10 23 0

/-- MaxLumaPs of a general_level_idc (H.265 table A.8; log 13). -/
def maxLumaPs (level : Nat) : Nat :=
  if level < 30 then 0 else if level < 60 then 36864 else if level < 63 then 122880 else if level < 90 then 245760
  else if level < 93 then 552960 else if level < 120 then 983040 else if level < 150 then 2228224
  else if level < 180 then 8912896 else 35651584

/-- KiB of each of a session's four buffers (R297). -/
def sessKib (r : EncRec) : Nat := ceilDiv (2 * r.w * r.h) 4096 * 4

/-- The extents of the encode pool in use. -/
def encUsed (s : State) : List (Nat × Nat) :=
  s.enc.sessions.flatMap (fun e => if e.2.state = 0 then [] else e.2.bufs.map (fun a => ((a - encodeClass) / 1024, sessKib e.2.cfg)))

/-- Places for the four buffers of a session: two input buffers and two reference buffers (R297). -/
def sessRoom (r : EncRec) (s : State) : Option (List Nat) := placeMany 2 4194304 (sessKib r) 4 (encUsed s)

/-- ENC_USED and ENC_POOL show the table (R309). -/
def showEnc (s : State) : State :=
  s |> setF ENC_USED_USED (s.enc.sessions.filter (fun e => decide (e.2.state ≠ 0))).length
    |> setF ENC_POOL_KIB (usedKib (encUsed s))

/-- The reason for which a session record is refused; 0 when it is accepted (R297). -/
def encReason (p : Nat) (ws : List Word) (s : State) : Nat :=
  let r := parseEnc ws
  if crcWords (ws.take 11) ≠ ws.getD 11 0 then 1
  else if fieldAt ws 0 31 24 ≠ 1 then 2
  else if fieldAt ws 0 16 8 ≠ 0 ∨ fieldAt ws 1 20 20 ≠ 0 ∨ fieldAt ws 2 4 0 ≠ 0 ∨ fieldAt ws 3 4 0 ≠ 0 ∨
    fieldAt ws 7 5 0 ≠ 0 ∨ fieldAt ws 8 6 0 ≠ 0 then 3
  else if r.srcKind = 3 ∨ r.decim = 3 ∨ r.div = 0 ∨ 51 < r.qpMax ∨ r.qpInit < r.qpMin ∨ r.qpMax < r.qpInit ∨
    (r.picCap ≠ 0 ∧ r.vbr = false) ∨ r.bitrate = 0 ∨ r.cpb = 0 ∨ (r.decim ≠ 0 ∧ r.srcKind = 1) ∨
    (r.srcKind = 0 ∧ 3 < r.srcId) ∨ (r.srcKind = 1 ∧ 7 < r.srcId) ∨ r.outAddr % 4096 ≠ 0 ∨ r.outKib < 64 then 4
  else if r.w < 64 ∨ 8192 < r.w ∨ r.h < 64 ∨ 8192 < r.h ∨ 35651584 < r.w * r.h ∨ maxLumaPs r.level < r.w * r.h ∨ 186 < r.level then 5
  else if (r.srcKind = 2 ∧ ((s.plane r.srcId).state ≠ 1 ∨ (s.plane r.srcId).owner ≠ p)) ∨
    inRegion p r.outAddr (1024 * r.outKib) s = false then 6
  else if (r.picCap ≠ 0 ∧ r.picCap < auMin r) ∨ r.cpb < auMin r then 7
  else if (firstBelow 16 (fun i => decide ((s.sess i).state = 0))).isNone then 8
  else if (sessRoom r s).isNone then 9 else 0

/-- One ENC_OPEN, against the table as the one before left it (R297). -/
def encOpenOne (c : Cmd) (s : State) : State := withLen 0x28 c 48 (fun ws s =>
  let r := encReason c.idx ws s
  if r ≠ 0 then
    s |> setF ENC_OPEN_REJ_REASON r |> setF ENC_OPEN_REJ_PARTITION c.idx |> raise 0x150 6
      |> ifS (decide (r = 8) || decide (r = 9)) (fun s => s |> countF ENC_TFULL |> raise 0x150 7)
      |> refuse 0x28 c (if r = 6 then NOT_OWNER else if r = 8 ∨ r = 9 then TABLE_FULL else BAD_ARGUMENT) r
  else
    let i := (firstBelow 16 (fun i => decide ((s.sess i).state = 0))).getD 0
    let e := parseEnc ws
    let bufs := ((sessRoom e s).getD []).map (fun x => encodeClass + 1024 * x)
    let y : Session := { state := 1, owner := c.idx % 8, cfg := e, auMin := auMin e, bufs := bufs }
    s.setSess i { y with bucket := (e.cpb : Int) } |> showSession i |> showEnc
      |> setF (ENC_S_AUMIN (sessPage i) (sessLocal i)) (auMin e) |> setF (ENC_S_BUCKET (sessPage i) (sessLocal i)) e.cpb
      |> setF (ENC_S_WR_OFFSET (sessPage i) (sessLocal i)) 0 |> setF (ENC_S_RD_OFFSET (sessPage i) (sessLocal i)) 0
      |> setF (ENC_S_PICS (sessPage i) (sessLocal i)) 0 |> finish 0x28 c DONE 0 i 0) s

/-- ENC_OPEN (R295–R297). -/
def execEncOpen (cs : List Cmd) (s : State) : Host.Outcome State Fault Refusal :=
  .next (runTies 0x28 cs (fun cs => serveTable ENC_TIE_PTR 8 cs encOpenOne) s)

/-- The hold of a capture of session `i`, which no longer waits in it, on its source buffer ends, unless another capture that is
under way holds the buffer too (R300, R404). -/
def endCapture (i : Nat) (c : Capture) (s : State) : State :=
  if c.done then s else
  let more (j : Nat) (f : Capture → Bool) : Bool := (s.sess j).queued.any (fun d => !d.done && f d)
  let s := ifS (!more i (fun d => decide (d.planeBuf = c.planeBuf)))
    (endLeases (fun l => decide (l.group = 4) && decide (l.frame = i) && decide (some (l.plane, l.buf) = c.planeBuf))) s
  match c.camBuf with
  | some (o, b) =>
    if (List.range 16).any (fun j => more j (fun d => decide (d.camBuf = some (o, b)))) then s
    else { s with cam := { s.cam with reading := FMap.set false s.cam.reading (8 * o + b) false } }
  | none => s

/-- The captures of session `i` are discarded, and what they hold ends. -/
def endCaptures (i : Nat) (s : State) : State :=
  let x := s.sess i
  each x.queued (endCapture i) (s.setSess i { x with queued := [] })

/-- A session closes for good (R298). -/
def freeSession (i : Nat) (s : State) : State :=
  let ref := (s.sess i).close
  let s := s |> State.setSess i {} |> showSession i |> showEnc |> raise 0x150 8
  match ref with
  | some r => complete true r DONE 0 0 0 s
  | none => s

/-- A session begins to close: it takes nothing more, and a picture in encoding completes first (R298). -/
def closeSession (i : Nat) (ref : Option CmdRef) (s : State) : State :=
  let x := s.sess i
  let s := s |> endCaptures i |> State.setSess i { x with state := 2, offers := [], queued := [], close := ref } |> showSession i
  if x.encoding.isSome then s else freeSession i s

/-- ENC_CLOSE (R298). A session that is not open has nothing to close. -/
def execEncClose (c : Cmd) (s : State) : Host.Outcome State Fault Refusal :=
  .next (runCmd 0x29 c (fun s =>
    let i := c.argF 0 3 0
    let x := s.sess i
    if x.state ≠ 0 ∧ x.owner ≠ c.idx then answer 0x29 c NOT_OWNER s
    else if x.state ≠ 1 then answer 0x29 c BAD_ARGUMENT s
    else closeSession i (some (refOf 0x29 c)) s) s)

/-! ## Captures (R299–R301) -/

/-- ENC_CAPTURE: an available source picture begins to be copied; with both input buffers full the newer one gives way
(R300). -/
def startCapture (i : Nat) (s : State) : State :=
  let x := s.sess i
  match x.offers with
  | [] => s
  | c :: rest =>
    let full : Bool := decide (2 ≤ x.queued.length)
    let out := if full then x.queued.getLast?.toList else []
    let x := { x with offers := rest, queued := (if full then x.queued.dropLast else x.queued) ++ [c], dropped := x.dropped || full }
    let s := each out (endCapture i) (s.setSess i x)
    let s := match c.planeBuf with
      | some (p, b) => addLease { group := 4, frame := i, plane := p, buf := b, host := (s.plane p).set.host } s
      | none => s
    let s := match c.camBuf with
      | some (o, b) => { s with cam := { s.cam with reading := FMap.set false s.cam.reading (8 * o + b) true } }
      | none => s
    s |> ifS full (fun s => s |> countF (ENC_S_DROP (sessPage i) (sessLocal i)) |> sessCause i 3) |> showSession i

/-- ENC_CAPTURE (R300). -/
def execEncCapture (sess : Fin 16) (s : State) : Host.Outcome State Fault Refusal :=
  .next (if (s.sess sess.val).state = 1 then startCapture sess.val s else s)

/-- Component `k` of a 32-bit-per-pixel source at (x, y), averaged 2 × 2 `d` times with the edge rule of R264. -/
def decimated (get : Nat → Nat → Nat) (w h : Nat) : Nat → Nat → Nat → Nat
  | 0, x, y => get x y
  | d + 1, x, y =>
    let g (i j : Nat) : Nat := decimated get w h d (min i (lvl w d - 1)) (min j (lvl h d - 1))
    (g (2 * x) (2 * y) + g (2 * x + 1) (2 * y) + g (2 * x) (2 * y + 1) + g (2 * x + 1) (2 * y + 1) + 2) / 4

/-- The coefficients yr, yg, yb, cbr, cbg, cbb, crr, crg, crb of a CONV (R301). -/
def convCoef (bt2020 : Bool) : List Int :=
  if bt2020 then [3686, 9512, 832, -2004, -5171, 7175, 7175, -6598, -577]
  else [2983, 10034, 1013, -1644, -5531, 7175, 7175, -6517, -658]

/-- Three coefficients applied to R, G, B. -/
def dot3 (c : List Int) (k : Nat) (p : Nat × Nat × Nat) : Int :=
  c.getD k 0 * p.1 + c.getD (k + 1) 0 * p.2.1 + c.getD (k + 2) 0 * p.2.2

/-- Y′ of R, G, B (R301). -/
def lumaOf (c : List Int) (p : Nat × Nat × Nat) : Nat := (clampI (64 + rnd (dot3 c 0 p) 14) 0 1023).toNat

/-- Cb (k = 3) or Cr (k = 6) of four pixels (R301). -/
def chromaOf (c : List Int) (k : Nat) (p : List (Nat × Nat × Nat)) : Nat :=
  (clampI (512 + rnd (p.map (dot3 c k)).sum 16) 0 1023).toNat

/-- The 10-bit codes a capture forms: Y′, Cb and Cr in raster order, padded to multiples of 8 (R301). -/
def captureCodes (r : EncRec) (c : Capture) (s : State) : List Nat × List Nat × List Nat :=
  let pw := 8 * ceilDiv r.w 8
  let ph := 8 * ceilDiv r.h 8
  let luma := (List.range (pw * ph)).map (fun k => (k % pw, k / pw))
  let chroma := (List.range (pw / 2 * (ph / 2))).map (fun k => (k % (pw / 2), k / (pw / 2)))
  let px (x : Nat) : Nat := min x (r.w - 1) + r.x0
  let py (y : Nat) : Nat := min y (r.h - 1) + r.y0
  let quad (m : Nat × Nat) : List (Nat × Nat) :=
    [(2 * m.1, 2 * m.2), (2 * m.1 + 1, 2 * m.2), (2 * m.1, 2 * m.2 + 1), (2 * m.1 + 1, 2 * m.2 + 1)]
  if r.srcKind = 0 then
    let coef := convCoef r.conv
    let part (k x y : Nat) : Nat := decimated (fun i j => c30Part (hbmWord (c.addr + j * c.pitch + 4 * i) s) k) c.srcW c.srcH r.decim x y
    let rgb (q : Nat × Nat) : Nat × Nat × Nat :=
      (part 0 (px q.1) (py q.2), part 1 (px q.1) (py q.2), part 2 (px q.1) (py q.2))
    (luma.map (fun q => lumaOf coef (rgb q)), chroma.map (fun m => chromaOf coef 3 ((quad m).map rgb)),
      chroma.map (fun m => chromaOf coef 6 ((quad m).map rgb)))
  else if r.srcKind = 2 then
    let part (k : Nat) (q : Nat × Nat) : Nat :=
      c30Part (hbmWord (colAddr c.addr c.srcW c.srcH r.decim (px q.1) (py q.2)) s) k
    (luma.map (part 0), chroma.map (fun m => (((quad m).map (part 1)).sum + 2) / 4),
      chroma.map (fun m => (((quad m).map (part 2)).sum + 2) / 4))
  else
    let cw := fun (v : Nat) (m : Nat × Nat) =>
      packedSample (c.addr + c.pitch * c.srcH + (py (2 * m.2)) / 2 * c.pitch) (2 * (px (2 * m.1) / 2) + v) s
    (luma.map (fun q => packedSample (c.addr + py q.2 * c.pitch) (px q.1) s), chroma.map (cw 0), chroma.map (cw 1))

/-- The first capture of a session that is still being copied becomes done with its codes. -/
def finishCapture (f : Capture → Capture) : List Capture → List Capture
  | [] => []
  | c :: r => if c.done then c :: finishCapture f r else f c :: r

/-- ENC_CAPTURE_DONE: the codes stand in the input buffer and the source is no longer held (R300, R301). -/
def execEncCaptureDone (sess : Fin 16) (s : State) : Host.Outcome State Fault Refusal :=
  let i := sess.val
  let x := s.sess i
  .next (match x.queued.find? (fun c => !c.done) with
    | none => s
    | some c =>
      let k := captureCodes x.cfg c s
      let s := s.setSess i { x with queued := finishCapture (fun c => { c with done := true, y := k.1, cb := k.2.1, cr := k.2.2 }) x.queued }
      s |> endCapture i c |> showSession i)

/-! ## Encoding (R302–R307) -/

/-- A time as a signed difference from another (R331). -/
def ptFrom (a b : Int) : Int := toSigned 64 (ofSigned 64 (a - b))

/-- The captured picture a core takes next: earliest presentation time, then lower session (R306). -/
def nextPicture (core : Nat) (s : State) : Option (Nat × Capture) :=
  ((List.range 16).flatMap (fun i =>
    let x := s.sess i
    if x.cfg.core = core ∧ x.state = 1 then (x.queued.filter (fun c => c.done)).map (fun c => (i, c)) else [])).foldl
    (fun acc e => match acc with
      | none => some e
      | some a => if ptFrom e.2.pt a.2.pt < 0 then some e else some a) none

/-- The picture to start is an IDR picture: the first, every IDR_PERIOD-th after it, or one that is forced (R302). -/
def wantsIdr (x : Session) : Bool :=
  x.forceIdr || decide (x.coded = 0) || (decide (x.cfg.idrPeriod ≠ 0) && decide (x.coded % x.cfg.idrPeriod = 0))

/-- What R304 fixes at the start of a picture with presentation time `pt`: the encoding, the bucket's carry. -/
def startBudget (x : Session) (c : Capture) : Encoding × Int :=
  let r := x.cfg
  let num : Int := match x.lastPt with
    | none => 0
    | some p => (r.bitrate : Int) * 1000 * ptFrom c.pt p + x.carry
  let f := num / 8000000000
  let t := x.bucket + f
  let e := t - r.cpb
  let filler := if r.vbr = false ∧ 6 ≤ e then e.toNat else 0
  let t' := if r.vbr then min t r.cpb else if 6 ≤ e then (r.cpb : Int) else t
  let bmax := if r.vbr = true ∧ r.picCap ≠ 0 then min t' r.picCap else t'
  (⟨c, wantsIdr x, t', bmax, filler, decide (bmax < x.auMin)⟩, num % 8000000000)

/-- ENC_PICTURE_START (R302, R304–R306): FORCE_IDR and ROI_APPLY written before take effect with this picture. -/
def execEncPictureStart (core : Fin 4) (s : State) : Host.Outcome State Fault Refusal :=
  .next (if !isOn (0x150 + core.val) s || getB (ENC_CORE_BUSY core.val) s then s
    else match nextPicture core.val s with
      | none => s
      | some (i, c) =>
        let x := s.sess i
        let b := startBudget x c
        let x := { x with queued := x.queued.erase c, encoding := some b.1, carry := b.2.toNat }
        s.setSess i { x with lastPt := some c.pt, forceIdr := false, rois := x.roiApply.getD x.rois, roiApply := none }
          |> setB (ENC_CORE_BUSY core.val) true |> setF (ENC_CORE_SESSION core.val) i |> showSession i)

/-- Filler data NAL units of `n` bytes in all (R304). -/
def fillerNal (n : Nat) : List Byte :=
  if n < 6 then [] else [0x00, 0x00, 0x01, 0x4C, 0x01] ++ List.replicate (n - 6) 0xFF ++ [0x80]

/-- A ring record's four header words (R307). -/
def recordHead (size typ flags : Nat) (pt : Int) : List Word :=
  let t := ofSigned 64 pt
  [Word.ofNat size, Word.ofNat (typ * 2 ^ 24 + flags), Word.ofNat (t / 2 ^ 32), Word.ofNat t]

/-- Writes at offset `off` of a session's ring. -/
def ringWrite (r : EncRec) (off : Nat) (bs : List Byte) (s : State) : State := memWrite .hbm (r.outAddr + off) bs s

/-- An access unit goes to the ring, or is discarded for want of room; true when it was written (R307). -/
def writeRecord (i typ flags : Nat) (pt : Int) (bs : List Byte) (s : State) : State × Bool :=
  let r := (s.sess i).cfg
  let p := sessPage i
  let l := sessLocal i
  let ring := 1024 * r.outKib
  let wr := 64 * getF (ENC_S_WR_OFFSET p l) s
  let rd := 64 * getF (ENC_S_RD_OFFSET p l) s
  let len := 64 * ceilDiv (16 + bs.length) 64
  let pad := if ring < wr + len then ring - wr else 0
  let free := (rd + 2 * ring - wr - 64) % ring
  if ring < len ∨ free < pad + len then (s, false)
  else
    let s := ifS (decide (pad ≠ 0)) (ringWrite r wr (wordsBytes (recordHead 0 0xFF 0 0))) s
    let at_ := if pad = 0 then wr else 0
    let s := ringWrite r at_ (wordsBytes (recordHead bs.length typ flags pt) ++ bs ++ List.replicate (len - 16 - bs.length) 0) s
    (s |> setF (ENC_S_WR_OFFSET p l) ((at_ + len) % ring / 64) |> addF (ENC_S_PICS p l) 1, true)

/-- The five words of the SEI message of session `i` (R303). -/
def seiWords (i : Nat) (x : Session) (c : Capture) (cutRow : Option Nat) : List Word :=
  let t := ofSigned 64 c.pt
  [Word.ofNat (2 ^ 24 + i * 2 ^ 20 + x.cfg.srcKind * 2 ^ 18 + bit c.concealed * 2 ^ 11 + bit x.dropped * 2 ^ 10 +
      bit cutRow.isSome * 2 ^ 9 + bit c.incomplete * 2 ^ 8 + x.cfg.srcId),
    Word.ofNat c.index, Word.ofNat (t / 2 ^ 32), Word.ofNat t, Word.ofNat (cutRow.getD 0xFFFF * 65536)]

/-- The offset of the lowest-numbered enabled ROI that covers CTB (x, y); 0 where none does (R305). -/
def roiOffset (rois : FMap (Word × Word)) (x y : Nat) : Int :=
  match firstBelow 16 (fun r =>
    let w := FMap.get (0, 0) rois r
    let b := w.2.toNat
    bitOf w.1.toNat 31 && decide (bitsOf b 31 24 ≤ x) && decide (x ≤ bitsOf b 15 8) &&
      decide (bitsOf b 23 16 ≤ y) && decide (y ≤ bitsOf b 7 0)) with
  | some r => toSigned 6 (bitsOf (FMap.get (0, 0) rois r).1.toNat 29 24)
  | none => 0

/-- The QP of CTB (x, y) in a row coded as normal (R304). -/
def ctbQp (r : EncRec) (rois : FMap (Word × Word)) (base x y : Nat) : Nat :=
  (clampI ((base : Int) + roiOffset rois x y) r.qpMin r.qpMax).toNat

/-- RSV, the bytes kept for a CTB row in fallback (R304). -/
def rsv (r : EncRec) (idr : Bool) : Nat := if idr then 8 * ctbCols r + 4 else ceilDiv (ctbCols r) 4 + 4

/-- The first CTB row coded in fallback: row 0 where Bmax is below AU_MIN, else the first after which U + RSV · (rows after) + 64
exceeds Bmax (R304). -/
def cutRow (r : EncRec) (e : Encoding) (u : List Nat) : Option Nat :=
  if e.allFallback then some 0
  else firstBelow (ctbRows r) (fun k => decide (k < u.length) &&
    decide (e.bmax < (nth u k + rsv r e.idr * (ctbRows r - 1 - k) + 64 : Nat)))

/-- The components of a reconstructed picture (R302). -/
def reconComps (r : EncRec) (p : Recon) : List Component :=
  [⟨10, padded r.w, p.y⟩, ⟨10, padded r.w / 2, p.cb⟩, ⟨10, padded r.w / 2, p.cr⟩]

/-- The access unit without filler: parameter sets of an IDR picture, the SEI message, the slices, the hash (R302, R303). -/
def accessUnit (i : Nat) (x : Session) (e : Encoding) (cut : Option Nat) (res : EncodeResult) : List Byte :=
  (if e.idr then paramSets x.cfg else []) ++ seiNal (!e.idr) (seiWords i x e.cap cut) ++ res.slices ++
    (if x.cfg.hash then hashNal (reconComps x.cfg res.recon) else [])

/-- The slices of a picture: one for the picture or one for every SLICE_ROWS rows of CTBs, none dependent, each with the address
of its first CTB, of an IDR picture in IDR NAL units and intra coded, else in trailing ones and of the session's kind, P or
low-delay B (R302). -/
def slicesOk (r : EncRec) (idr : Bool) (slices : List Byte) : Bool :=
  let heads := (splitNals slices).map (fun n => (nalType n, nalLayer n, sliceHead r idr n))
  let typ (t : Nat) : Bool := if idr then decide (t = 19) || decide (t = 20) else decide (t ≤ 1)
  let kind := if idr then 2 else if r.struct_ then 0 else 1
  decide (heads.length = sliceCount r) &&
    heads.zipIdx.all (fun h => typ h.1.1 && decide (h.1.2.1 = 0) && decide (h.1.2.2 = some (h.2 * r.sliceRows * ctbCols r, kind)))

/-- U grows from row to row, past the headers, and a row that stays lies within the access unit (R304). -/
def rowsOk (e : Encoding) (cut : Option Nat) (head au : Nat) (rows : List Nat) : Bool :=
  e.allFallback || ((rows.zip (rows.drop 1)).all (fun p => decide (p.1 ≤ p.2)) && rows.all (fun u => decide (head ≤ u)) &&
    (rows.take (cut.getD rows.length)).all (fun u => decide (u ≤ au)))

/-- What a coded picture must keep: U is told for each row coded as normal, the QPs are those of R304 and R305, the slices are
those of R302, the picture has its size, and the access unit is within max(Bmax, AU_MIN) and PIC_CAP (R304). DESIGN CHOICE (log 13): a result outside these
bounds comes of no core, and the command does nothing. -/
def keepsBounds (x : Session) (e : Encoding) (cut : Option Nat) (au : Nat) (res : EncodeResult) : Bool :=
  let r := x.cfg
  let n := padded r.w * padded r.h
  decide (res.rows.length = (if e.allFallback then 0 else match cut with | some k => k + 1 | none => ctbRows r)) &&
  decide (res.qps = (List.range (cut.getD (ctbRows r) * ctbCols r)).map (fun k => ctbQp r x.rois res.qp (k % ctbCols r) (k / ctbCols r))) &&
  slicesOk r e.idr res.slices && rowsOk e cut (au - res.slices.length - (if r.hash then (hashNal (reconComps r res.recon)).length else 0)) au res.rows &&
  decide (res.recon.y.length = n) && decide (res.recon.cb.length = n / 4) && decide (res.recon.cr.length = n / 4) &&
  decide ((au : Int) ≤ max e.bmax x.auMin) && (decide (r.picCap = 0) || decide (au ≤ r.picCap))

/-- The core has coded session `i`'s picture; `au` is its access unit (R303, R304, R307). -/
def pictureDone (core i : Nat) (e : Encoding) (cut : Option Nat) (au : List Byte) (res : EncodeResult) (s : State) : State :=
  let x := s.sess i
  let p := sessPage i
  let l := sessLocal i
  let flags := 8 * bit e.cap.concealed + 4 * bit x.dropped + 2 * bit cut.isSome + bit e.cap.incomplete
  let typ := if e.idr then 0 else if x.cfg.struct_ then 2 else 1
  let s := s.setSess i { x with encoding := none, bucket := e.t' - au.length, coded := x.coded + 1
                                refs := (res.recon :: if e.idr then [] else x.refs).take (refPics x.cfg) }
  let w := writeRecord i typ flags e.cap.pt (au ++ fillerNal e.filler) s
  let f := fresh 32 w.1
  let s := f.2
  let s := s |> setB (ENC_CORE_BUSY core) false |> addF (ENC_PICS core) 1 |> addF (ENC_BUSY core) f.1
    |> setF (ENC_S_BUCKET p l) (sat32 (e.t' - au.length)) |> setF (ENC_S_STAT_QP_LAST p l) res.qp
    |> ifS cut.isSome (fun s => s |> countF (ENC_S_CUT p l) |> sessCause i 2)
    |> ifS e.cap.incomplete (sessCause i 4)
  if w.2 then s.setSess i { s.sess i with dropped := false } |> sessCause i 1
  else s.setSess i { s.sess i with forceIdr := true, dropped := true } |> countF (ENC_S_DROP p l) |> sessCause i 5

/-- ENC_PICTURE_DONE (R303, R304, R307); a session that is closing is freed (R298). -/
def execEncPictureDone (core : Fin 4) (res : EncodeResult) (s : State) : Host.Outcome State Fault Refusal :=
  let i := getF (ENC_CORE_SESSION core.val) s
  let x := s.sess i
  .next (if !getB (ENC_CORE_BUSY core.val) s then s
    else match x.encoding with
      | none => s
      | some e =>
        let cut := cutRow x.cfg e res.rows
        let au := accessUnit i x e cut res
        if !keepsBounds x e cut au.length res then s else
        let s := pictureDone core.val i e cut au res s
        if (s.sess i).state = 2 then freeSession i s else s)

/-- A core that enters FAULT discards its picture in progress, and an IDR picture follows (R302, R308). -/
def encFault (core : Nat) (s : State) : State :=
  if !getB (ENC_CORE_BUSY core) s then s else
  let i := getF (ENC_CORE_SESSION core) s
  let s := s.setSess i { s.sess i with encoding := none, forceIdr := true } |> setB (ENC_CORE_BUSY core) false
  if (s.sess i).state = 2 then freeSession i s else s

/-! ## Session registers (R305, R310) -/

/-- A control write of session `i` comes from its owner (R295). -/
def sessWrite (who : Who) (i addr : Nat) (f : State → State) (s : State) : State :=
  guardWrite who (0x150 + sessPage i) addr
    (isFw who || (decide ((s.sess i).state ≠ 0) && isPart who (s.sess i).owner)) f s

/-- The staged ROI registers of a session (R305). -/
def stagedRois (i : Nat) (s : State) : FMap (Word × Word) :=
  (List.range 16).map (fun r =>
    let a := 0x150500 + 0x1000 * sessPage i + 0x200 * sessLocal i + 8 * r
    (r, (rd a s, rd (a + 4) s)))

/-- FORCE_IDR is written (R302). -/
def writeForceIdr (i : Nat) (s : State) : State := s.setSess i { s.sess i with forceIdr := true }

/-- ROI_APPLY is written (R305). -/
def writeRoiApply (i : Nat) (s : State) : State := s.setSess i { s.sess i with roiApply := some (stagedRois i s) }

/-- ENC_S_RD is written; a value beyond the ring, or past WR, is discarded (R310). -/
def writeSRd (i v : Nat) (s : State) : State :=
  let p := sessPage i
  let l := sessLocal i
  let ring := 1024 * (s.sess i).cfg.outKib
  let n := v / 64 * 64
  let rd := 64 * getF (ENC_S_RD_OFFSET p l) s
  let wr := 64 * getF (ENC_S_WR_OFFSET p l) s
  if ring ≤ n ∨ (wr + ring - rd) % ring < (n + ring - rd) % ring then s else setF (ENC_S_RD_OFFSET p l) (n / 64) s

/-- FORCE_IDR (R302). -/
def execForceIdr (who : Who) (sess : Fin 16) (s : State) : Host.Outcome State Fault Refusal :=
  .next (sessWrite who sess.val (ENC_S_CTRL_FORCE_IDR (sessPage sess.val) (sessLocal sess.val)).addr (writeForceIdr sess.val) s)

/-- ROI_APPLY (R305). -/
def execRoiApply (who : Who) (sess : Fin 16) (s : State) : Host.Outcome State Fault Refusal :=
  .next (sessWrite who sess.val (ENC_S_CTRL_ROI_APPLY (sessPage sess.val) (sessLocal sess.val)).addr (writeRoiApply sess.val) s)

/-- ENC_S_RD_WRITE (R310). -/
def execEncSRdWrite (who : Who) (sess : Fin 16) (v : Word) (s : State) : Host.Outcome State Fault Refusal :=
  .next (sessWrite who sess.val (ENC_S_RD_OFFSET (sessPage sess.val) (sessLocal sess.val)).addr (writeSRd sess.val v.toNat) s)

end Sys2Proof.Machine
end

