-- ==== Sys2Proof/Machine/Camera.lean ====
section
/-!
DEFINITION. Calibration cameras (spec/15): sensors and their frames, statistics, exposure sets and their slots, I3C
transfers, the colour pipeline and the scaled outputs. Dynamic defects, noise reduction and demosaic are not normative
(R398): they are open functions of Config (log 59).
-/

namespace Sys2Proof.Machine

/-! ## Causes and ports (R405, R406) -/

/-- The cause bits of ports, sensors and outputs follow their causes (R405). -/
def refreshCam (s : State) : State :=
  let s := each [0, 1] (fun p t => summary (0x160 + p) 2
    (decide (Nat.land (getF (CAM_P_CAUSE_ALL p) t) (getF (CAM_P_CAUSE_EN_ALL p) t) ≠ 0)) t) s
  let s := each (List.range 8) (fun k t => summary 0x160 (3 + k)
    (decide (Nat.land (getF (CAM_S_CAUSE_ALL k) t) (getF (CAM_S_CAUSE_EN_ALL k) t) ≠ 0)) t) s
  summary 0x160 11 (decide (Nat.land (getF CAM_O_CAUSE_DROP s) (getF CAM_O_CAUSE_EN_DROP s) ≠ 0) ||
    decide (Nat.land (getF CAM_O_CAUSE_DONE s) (getF CAM_O_CAUSE_EN_DONE s) ≠ 0)) s

/-- Cause bit `b` of port `p` (R406). -/
def portCause (p b : Nat) (s : State) : State := s |> orF (CAM_P_CAUSE_ALL p) (2 ^ (b - 1)) |> refreshCam

/-- Cause bit `b` of sensor `k` (R407). -/
def sensorCause (k b : Nat) (s : State) : State := s |> orF (CAM_S_CAUSE_ALL k) (2 ^ (b - 1)) |> refreshCam

/-- The enabled sensor of a port and virtual channel (R391). -/
def sensorOf (port vc : Nat) (s : State) : Option Nat :=
  firstBelow 8 (fun k => getB (CAM_S_CFG_EN k) s && decide (getF (CAM_S_CFG_PORT k) s = port) && decide (getF (CAM_S_CFG_VC k) s = vc))

/-- CAM_S_STATUS shows the sensor (R407). -/
def showSensor (k : Nat) (s : State) : State :=
  s |> setF (CAM_S_STATUS_ID k) (s.sensor k).id |> setF (CAM_S_STATUS_QUEUED k) (s.sensor k).sets.length

/-- The pulse on the trigger ball of a port, by its end (R394). -/
def setTrig (p : Nat) (until_ : Option Nat) (s : State) : State :=
  { s with cam := { s.cam with trig := FMap.set none s.cam.trig p until_ } } |> emit (.trig p until_.isSome)

/-- A trigger of a camera port drives its ball for TRIG_WIDTH µs; it is ignored while the page is not ON (R394). -/
def camTrigger (p : Nat) (s : State) : State :=
  if !isOn (0x160 + p) s then portCause p 4 s
  else setTrig p (some ((now s + 1000 * getF (CAM_P_CFG_TRIG_WIDTH p) s) % 2 ^ 64)) s

/-- CAM_TRIG_PULSE_END: TRIG_WIDTH has passed (R394). -/
def execCamTrigPulseEnd (port : Fin 2) (s : State) : Host.Outcome State Fault Refusal :=
  .next (match FMap.get none s.cam.trig port.val with
    | some u => ifS (reached u s) (setTrig port.val none) s
    | none => s)

/-! ## The statistics of a frame (R398, R400, R401) -/

/-- Bits of a register latched at the Frame Start, by its place from +0x0C on. -/
def CamFrame.reg (f : CamFrame) (i hi lo : Nat) : Nat := fieldAt f.cfg i hi lo

/-- Bayer channel of a sample: 0 R, 1 Gr, 2 Gb, 3 B (R401). -/
def bayerChannel (bayer x y : Nat) : Nat :=
  let i := 2 * (y % 2) + x % 2
  nth (match bayer with | 0 => [0, 1, 2, 3] | 1 => [1, 0, 3, 2] | 2 => [2, 3, 0, 1] | _ => [3, 2, 1, 0]) i

/-- Black level of a channel (R398). -/
def blackLevel (f : CamFrame) (c : Nat) : Nat :=
  match c with
  | 0 => f.reg 0 27 16
  | 1 => f.reg 0 11 0
  | 2 => f.reg 1 27 16
  | _ => f.reg 1 11 0

/-- The lines after stage 1: 12-bit samples less the black level (R398). -/
def blackLines (raw12 : Bool) (f : CamFrame) : List (List Nat) :=
  f.lines.zipIdx.map (fun l => l.1.zipIdx.map (fun x =>
    (if raw12 then x.1 else 4 * x.1) - blackLevel f (bayerChannel f.bayer x.2 l.2)))

/-- Stage 2a: listed defects are filled from the same colour on their line (R398). -/
def defectLines (f : CamFrame) (v : List (List Nat)) : List (List Nat) :=
  v.zipIdx.map (fun l => l.1.zipIdx.map (fun x =>
    if f.defects.contains (x.2, l.2) then (nth l.1 (x.2 - 2) + nth l.1 (min (x.2 + 2) (l.1.length - 1)) + 1) / 2 else x.1))

/-- Stages 2b to 4: dynamic defects, spatial and temporal noise reduction; strength 0 passes the data unchanged, and a frame whose
history is cleared is not filtered temporally (R398, R399). -/
def noiseLines (f : CamFrame) (v : List (List Nat)) : List (List Nat) :=
  let v := if f.reg 9 8 8 = 1 then Config.camDynamic (f.reg 9 27 16) f.bayer v else v
  let v := if f.reg 9 7 4 = 0 then v else Config.camSpatial (f.reg 9 7 4) f.bayer v
  if f.reg 9 3 0 = 0 then v else match f.history with
    | some h => Config.camTemporal (f.reg 9 3 0) h v
    | none => v

/-- Stage 5: the pixel (x, y), each colour 12-bit (R398). -/
def demosaic (f : CamFrame) (x y : Nat) : Nat × Nat × Nat :=
  let p := Config.camDemosaic f.bayer f.filtered x y
  (p.1 % 4096, p.2.1 % 4096, p.2.2 % 4096)

/-- Samples of a frame with channel and position: (channel, qx, qy, v). -/
def quadSamples (bayer : Nat) (v : List (List Nat)) : List (Nat × Nat × Nat × Nat) :=
  v.zipIdx.flatMap (fun l => l.1.zipIdx.map (fun x => (bayerChannel bayer x.2 l.2, x.2 / 2, l.2 / 2, x.1)))

/-- The sum of the samples of channel `c` in a rectangle of quads. -/
def sumIn (q : List (Nat × Nat × Nat × Nat)) (c x0 x1 y0 y1 : Nat) : Nat :=
  ((q.filter (fun e => decide (e.1 = c) && decide (x0 ≤ e.2.1) && decide (e.2.1 < x1) && decide (y0 ≤ e.2.2.1) &&
    decide (e.2.2.1 < y1))).map (fun e => e.2.2.2)).sum

/-- The histogram of channel `c` (R400). -/
def histogram (q : List (Nat × Nat × Nat × Nat)) (c : Nat) : List Word :=
  (List.range 256).map (fun b => Word.ofNat (q.filter (fun e => decide (e.1 = c) && decide (e.2.2.2 / 16 = b))).length)

/-- The two words of a zone's means R, Gr, Gb, B (R400, R401). -/
def zoneWords (q : List (Nat × Nat × Nat × Nat)) (qw qh zx zy : Nat) : List Word :=
  let x0 := zx * qw / 64
  let x1 := (zx + 1) * qw / 64
  let y0 := zy * qh / 32
  let y1 := (zy + 1) * qh / 32
  let n := (x1 - x0) * (y1 - y0)
  let m (c : Nat) : Nat := (16 * sumIn q c x0 x1 y0 y1 + n / 2) / n
  [Word.ofNat (m 0 + 65536 * m 1), Word.ofNat (m 2 + 65536 * m 3)]

/-- The eight words of a window (R400, R401): clipped to the frame; one clipped to nothing reads 0. -/
def windowWords (q : List (Nat × Nat × Nat × Nat)) (sat qw qh : Nat) (w : Nat × Nat × Nat × Nat) : List Word :=
  let x1 := min qw (w.1 + w.2.2.1)
  let y1 := min qh (w.2.1 + w.2.2.2)
  let sum (c : Nat) : Nat := sumIn q c w.1 x1 w.2.1 y1
  let hot := (q.filter (fun e => decide (w.1 ≤ e.2.1) && decide (e.2.1 < x1) && decide (w.2.1 ≤ e.2.2.1) && decide (e.2.2.1 < y1) &&
    decide (sat ≤ e.2.2.2))).length
  let two (n : Nat) : List Word := [Word.ofNat n, Word.ofNat (n / 2 ^ 32)]
  [Word.ofNat ((x1 - w.1) * (y1 - w.2.1)), Word.ofNat hot] ++ two (sum 0) ++ two (sum 1 + sum 2) ++ two (sum 3)

/-- The statistics of a frame are valid (R393). -/
def CamFrame.valid (f : CamFrame) : Bool := !(f.short || f.corrupt || f.overrun)

/-- FLAGS as SHORT, LONG, CORRUPT, OVERRUN from bit 0 upwards. -/
def CamFrame.flags (f : CamFrame) : Nat := bit f.short + 2 * bit f.long + 4 * bit f.corrupt + 8 * bit f.overrun

/-- The statistics record of a frame whose samples at the tap are `v` (R398, R400). -/
def statsRecord (k w h : Nat) (f : CamFrame) (v : List (List Nat)) : List Word :=
  let q := quadSamples f.bayer v
  let head := [Word.ofNat f.fcount, Word.ofNat (f.csiNum % 65536 * 65536 + f.id),
    Word.ofNat (bit f.valid * 2 ^ 31 + k * 2 ^ 8 + bit f.setFailed * 2 ^ 5 + 2 * f.flags),
    Word.ofNat f.stamp, Word.ofNat (f.stamp / 2 ^ 32), Word.ofNat f.received] ++ List.replicate 10 0
  let zones := (List.range 32).flatMap (fun zy => (List.range 64).flatMap (fun zx => zoneWords q (w / 2) (h / 2) zx zy))
  let wins := (List.range 64).flatMap (fun i => match f.windows[i]? with
    | some x => windowWords q (f.reg 10 11 0) (w / 2) (h / 2) x
    | none => List.replicate 8 0)
  head ++ [0, 1, 2, 3].flatMap (histogram q) ++ zones ++ wins ++ List.replicate 496 0

/-! ## Frames (R392, R393) -/

/-- The frame index before which the blanking in progress, or the next one, lies. -/
def nextFrame (k : Nat) (s : State) : Nat := if (s.sensor k).seen = 0 then 0 else ((s.sensor k).fcount + 1) % 2 ^ 32

/-- The sets due in the blanking in progress and not begun, in the order in which they are written (R396): ascending TARGET, then the
order of the queue. -/
def dueSets (k : Nat) (s : State) : List ExpSet :=
  ((s.sensor k).sets.filter (fun e => decide (e.slot = nextFrame k s) && !e.started)).foldl
    (fun acc e => acc.takeWhile (fun x => decide (diff32 x.target e.target ≤ 0)) ++ [e] ++
      acc.dropWhile (fun x => decide (diff32 x.target e.target ≤ 0))) []

/-- A slot of sensor `k` is missed: SET_MISSED is raised and CAM_S_MISSED counts it (R397, R407). -/
def missSlot (k : Nat) (s : State) : State := s |> countF (CAM_S_MISSED k) |> sensorCause k 7

/-- The slot closes: every set still due has missed it and is to be written in the next blanking (R397). -/
def closeSlot (k : Nat) (s : State) : State :=
  let x := s.sensor k
  let n := (dueSets k s).length
  let late (e : ExpSet) : ExpSet := if e.slot = nextFrame k s ∧ e.started = false then { e with slot := (e.slot + 1) % 2 ^ 32, missed := true } else e
  let s := s.setSensor k { x with slotClosed := true, sets := x.sets.map late }
  ifS (decide (n ≠ 0)) (missSlot k) s

/-- The earliest of some times, in the order of R331. -/
def earliest (l : List Nat) : Option Nat :=
  l.foldl (fun acc x => match acc with
    | none => some x
    | some y => if tnsLe y x then some y else some x) none

/-- The edges of channel `c` that a pulse must leave room for: those of its schedule (R344). -/
def scheduled (x : Timer) : List Nat := (x.nextEdge.map (fun e => e.1)).toList ++ x.placed

/-- The next scheduled edge of the channel that triggers camera port `p` (R394, R396). -/
def triggerEdge (p : Nat) (s : State) : Option Nat :=
  ((List.range 8).filterMap (fun i =>
    let t := s.timer (8 + i)
    if t.set.target = 1 + p then earliest (scheduled t ++ t.cued) else none)) |> earliest

/-- When the slot of the blanking in progress closes: GUARD before the expected Frame Start; none where no Frame Start can
be expected (R396). -/
def slotEnd (k : Nat) (s : State) : Option Nat :=
  let x := s.sensor k
  let g := 1000 * getF (CAM_S_TIMING_GUARD k) s
  if getB (CAM_S_CFG_TRIGGERED k) s then
    (triggerEdge (getF (CAM_S_CFG_PORT k) s) s).map (fun e => e + 1000 * getF (CAM_S_TIMING_FS_DELAY k) s - g)
  else if x.seen < 2 then none else some (x.lastFs + x.period - g)

/-- A blanking of an enabled sensor is in progress and its slot is open. -/
def slotOpen (k : Nat) (s : State) : Bool :=
  let x := s.sensor k
  getB (CAM_S_CFG_EN k) s && decide (x.seen ≠ 0) && x.frame.isNone && !x.slotClosed &&
  (getB (CAM_S_CFG_TRIGGERED k) s || decide (2 ≤ x.seen))

/-- T_W of R396 for a bus: 48 SCL periods and 1 µs, in ns. -/
def writeTime (p : Nat) (s : State) : Nat := 48 * nth [80, 160, 320, 1000] (getF (CAM_P_CFG_I3C_RATE p) s) + 1000

/-- The first due set of sensor `k` whose writes can all end before its slot closes (R396). -/
def setToStart (k : Nat) (s : State) : Option ExpSet :=
  if slotOpen k s then
    (dueSets k s).find? (fun e => match slotEnd k s with
      | some t => tnsLe (now s + e.writes.length * writeTime (getF (CAM_S_CFG_PORT k) s) s) t
      | none => true)
  else none

/-- A sensor of port `p`. -/
def onPort (p k : Nat) (s : State) : Bool := decide (getF (CAM_S_CFG_PORT k) s = p)

/-- The I3C bus of port `p` carries a transfer or the writes of a set. -/
def busBusy (p : Nat) (s : State) : Bool :=
  (s.i3cq p).head?.any (fun h => h.running) ||
  (List.range 8).any (fun k => onPort p k s && (s.sensor k).sets.any (fun e => e.started))

/-- An idle bus takes up the sets due on it, by ascending sensor, and then the oldest transfer that waits (R390, R396). -/
def busNext (p : Nat) (s : State) : State :=
  if !runs (0x160 + p) s || busBusy p s then s else
  match firstBelow 8 (fun k => onPort p k s && (setToStart k s).isSome) with
  | some k =>
    let x := s.sensor k
    s.setSensor k { x with sets := x.sets.map (fun e => if some e = setToStart k s then { e with started := true } else e) }
  | none => match s.i3cq p with
    | h :: r => s.setI3cq p ({ h with running := true } :: r)
    | [] => s

/-- The missing lines of a frame are filled by repeating the last line received (R393). -/
def fillLines (w h : Nat) (f : CamFrame) : CamFrame :=
  if f.lines.length < h then
    { f with
      short := true
      lines := f.lines ++ List.replicate (h - f.lines.length) (f.lines.getLast?.getD (List.replicate w 0)) }
  else f

/-- A frame ends: its statistics are written, it enters the temporal history, which a flagged frame leaves cleared, and its
outputs are due; the slot of the blanking opens (R393, R396, R399, R400, R403). -/
def endFrame (k : Nat) (f : CamFrame) (s : State) : State :=
  let w := getF (CAM_S_SIZE_W k) s
  let h := getF (CAM_S_SIZE_H k) s
  let was := f.short
  let f := fillLines w h f
  let s := ifS (f.short && !was) (sensorCause k 3) s
  let at_ := 4096 * getF (CAM_S_STATS_BASE k) s + 24576 * (f.fcount % (getF (CAM_S_STATS_NREC_M1 k) s + 1))
  let v := defectLines f (blackLines (getB (CAM_S_CFG_RAW12 k) s) f)
  let s := memWrite .hbm at_ (wordsBytes (statsRecord k w h f v)) s
  let f := { f with filtered := noiseLines f v }
  let kept := if f.valid then some (Config.camHistory (f.reg 9 3 0) f.history f.filtered) else none
  let s := s.setSensor k { s.sensor k with frame := none, slotClosed := false, history := kept }
  let s := each (List.range 8) (fun o t =>
    if getB (CAM_O_CFG_EN o) t && decide (getF (CAM_O_CFG_SENSOR o) t = k) then
      { t with cam := { t.cam with due := FMap.set none t.cam.due o (some f) } } else t) s
  s |> sensorCause k 2 |> busNext (getF (CAM_S_CFG_PORT k) s)

/-- The configuration a frame takes at its Frame Start (R398). -/
def latchedCam (k : Nat) (s : State) : List Word := (List.range 11).map (fun i => rd (0x16040C + 0x40 * k + 4 * i) s)

/-- A Frame Start of sensor `k` (R392): FCOUNT, the stamp, and the sets applied from this frame (R396, R397); the first frame after
EN and one on which a set is first applied find the temporal history cleared (R399). -/
def startCamFrame (k num : Nat) (s : State) : State :=
  let s := match (s.sensor k).frame with
    | some f => s |> sensorCause k 3 |> endFrame k { f with short := true }
    | none => s
  let s := ifS (!(s.sensor k).slotClosed) (closeSlot k) s
  let x := s.sensor k
  let n := nextFrame k s
  let mine := x.applied.filter (fun a => decide (a.1 = n))
  let failed := mine.any (fun a => a.2.2)
  let id := match (mine.filter (fun a => !a.2.2)).getLast? with
    | some a => a.2.1
    | none => x.id
  let f : CamFrame := {
    fcount := n, csiNum := num, stamp := now s, lines := [], received := 0, short := false, long := false,
    corrupt := false, overrun := false, setFailed := failed, id := id, bayer := getF (CAM_S_CFG_BAYER k) s, filtered := [],
    history := if x.seen = 0 ∨ mine.any (fun a => !a.2.2) then none else x.history, cfg := latchedCam k s, defects := x.defects,
    windows := x.windows, tones := x.tones }
  let y := { x with seen := x.seen + 1, fcount := n, lastFs := now s, period := if x.seen = 0 then x.period else (diff64 (now s) x.lastFs).toNat }
  s.setSensor k { y with frame := some f, id := id, applied := x.applied.filter (fun a => decide (a.1 ≠ n)) }
    |> setF (CAM_S_FCOUNT k) n |> showSensor k |> sensorCause k 1

/-- CSI_FRAME_START (R392). A channel that no enabled entry names is stray (R391). -/
def execCsiFrameStart (port : Fin 2) (vc num : Nat) (s : State) : Host.Outcome State Fault Refusal :=
  .next (if !isOn (0x160 + port.val) s then s else
    match sensorOf port.val vc s with
    | none => countF (CAM_P_STRAY port.val) s
    | some k => startCamFrame k num s)

/-- A line as configured: truncated, or padded by its last two pixels in turn (R393). -/
def fitLine (w : Nat) (l : List Nat) : List Nat :=
  let n := l.length
  (List.range w).map (fun x => if x < n then nth l x else if n < 2 then nth l (n - 1) else nth l (n - 2 + (x - n) % 2))

/-- A line arrives for the open frame of sensor `k` (R393). -/
def takeLine (k : Nat) (l : CsiLineIn) (f : CamFrame) (s : State) : State :=
  let w := getF (CAM_S_SIZE_W k) s
  let n := f.lines.length
  let f := { f with received := f.received + 1 }
  let put (f : CamFrame) (s : State) : State := s.setSensor k { s.sensor k with frame := some f }
  let replaced := if n < 2 then List.replicate w 0 else f.lines.getD (n - 2) []
  if getF (CAM_S_SIZE_H k) s ≤ n then s |> put { f with long := true } |> sensorCause k 4
  else if l.overrun then s |> put { f with overrun := true, lines := f.lines ++ [replaced] } |> sensorCause k 6
  else if !l.crcOk || l.eccBad then s |> put { f with corrupt := true, lines := f.lines ++ [replaced] } |> sensorCause k 5
  else if l.samples.length ≠ w then s |> put { f with corrupt := true, lines := f.lines ++ [fitLine w l.samples] } |> sensorCause k 5
  else put { f with lines := f.lines ++ [l.samples] } s

/-- CSI_LINE (R391, R393). -/
def execCsiLine (port : Fin 2) (line : CsiLineIn) (s : State) : Host.Outcome State Fault Refusal :=
  let p := port.val
  .next (if !runs (0x160 + p) s then s
    else if line.phyError then portCause p 1 s
    else
      let s := ifS (!line.crcOk || line.eccBad) (countF (CAM_P_CRC p)) s
      let s := ifS line.eccBad (portCause p 2) s
      match sensorOf p line.vc s with
      | none => countF (CAM_P_STRAY p) s
      | some k =>
        if line.dt ≠ (if getB (CAM_S_CFG_RAW12 k) s then 0x2C else 0x2B) then countF (CAM_P_STRAY p) s
        else match (s.sensor k).frame with
          | none => s
          | some f => takeLine k line f s)

/-- CSI_FRAME_END (R393). -/
def execCsiFrameEnd (port : Fin 2) (vc : Nat) (s : State) : Host.Outcome State Fault Refusal :=
  let p := port.val
  .next (if !runs (0x160 + p) s then s else
    match sensorOf p vc s with
    | none => countF (CAM_P_STRAY p) s
    | some k =>
      match (s.sensor k).frame with
      | none => countF (CAM_P_STRAY p) s
      | some f => endFrame k f s)

/-! ## The colour pipeline and the outputs (R398, R403, R404) -/

/-- Stages 6 to 8 for one demosaiced pixel: R′, G′, B′ (R398). -/
def colourPixel (f : CamFrame) (p : Nat × Nat × Nat) : Nat × Nat × Nat :=
  let wb (x g : Nat) : Int := clampI (rnd ((x * g : Nat) : Int) 12) 0 4095
  let r := wb p.1 (f.reg 2 31 16)
  let g := wb p.2.1 (f.reg 2 15 0)
  let b := wb p.2.2 (f.reg 3 15 0)
  let m (i hi : Nat) : Int := toSigned 16 (f.reg i hi (hi - 15))
  let row (a b' c : Int) : Int := clampI (rnd (a * r + b' * g + c * b) 12) 0 4095
  let tone (c : Nat) (o : Int) : Nat :=
    let t := FMap.get [] f.tones c
    let i := o.toNat / 4
    ((nth t i : Int) + rnd (((nth t (min (i + 1) 1023) : Int) - nth t i) * (o.toNat % 4 : Nat)) 2).toNat
  (tone 0 (row (m 4 31) (m 4 15) (m 5 31)), tone 1 (row (m 5 15) (m 6 31) (m 6 15)), tone 2 (row (m 7 31) (m 7 15) (m 8 31)))

/-- Geometry of an output: DW and DH (R403). -/
def outW (o : Nat) (s : State) : Nat := getF (CAM_O_DST_DW_M1 o) s + 1
def outH (o : Nat) (s : State) : Nat := getF (CAM_O_DST_DH_M1 o) s + 1

/-- The output writes YC420; else RGB30 (R403). -/
def outYc (o : Nat) (s : State) : Bool := decide (getF (CAM_O_CFG_FMT o) s = 0)

/-- Pitch of an output's buffers (R249, R403). -/
def outPitch (o : Nat) (s : State) : Nat :=
  if outYc o s then refPitch (outW o s) else 64 * ceilDiv (4 * outW o s) 64

/-- Size of an output's buffers (R249, R403). -/
def outSize (o : Nat) (s : State) : Nat :=
  if outYc o s then refLen (outW o s) (outH o s) 1 else ceilDiv (outPitch o s * outH o s) 4096 * 4096

/-- Address of buffer `b` of an output (R404). -/
def outAddr (o b : Nat) (s : State) : Nat :=
  getF (CAM_O_BASE_LO_ADDR o) s * 4096 + getF (CAM_O_BASE_HI_ADDR o) s * 2 ^ 32 + b * outSize o s

/-- The scaled R′G′B′ of an output at (dx, dy): the crop, the positions of R276 and the filter of R277 with set 0 (R403). -/
def outPixel (o : Nat) (img : List (List (Nat × Nat × Nat))) (s : State) (dx dy : Nat) : Nat × Nat × Nat :=
  let sx := getF (CAM_O_SRC0_SX0 o) s
  let sy := getF (CAM_O_SRC0_SY0 o) s
  let sw := getF (CAM_O_SRC1_SW_M1 o) s + 1
  let sh := getF (CAM_O_SRC1_SH_M1 o) s + 1
  let stepx : Int := ((sw * 65536 / outW o s : Nat) : Int)
  let stepy : Int := ((sh * 65536 / outH o s : Nat) : Int)
  let px : Int := sx * 65536 + dx * stepx + shr (stepx - 65536) 1
  let py : Int := sy * 65536 + dy * stepy + shr (stepy - 65536) 1
  let pw := (img.head?.map (fun l => l.length)).getD 0
  let get (i j : Nat) : Nat × Nat × Nat := (img.getD j []).getD i (0, 0, 0)
  let flt (f : Nat × Nat × Nat → Nat) : Nat :=
    filterAt [] 0 0 px py (clampTap sx sw pw 0) (clampTap sy sh img.length 0) (fun i j => f (get i j))
  (flt (fun p => p.1), flt (fun p => p.2.1), flt (fun p => p.2.2))

/-- An output frame is written at `a` (R403). -/
def writeOutput (o a : Nat) (img : List (List (Nat × Nat × Nat))) (s : State) : State :=
  let w := outW o s
  let h := outH o s
  let px := outPixel o img s
  let all (n m : Nat) : List (Nat × Nat) := (List.range (n * m)).map (fun k => (k % n, k / n))
  if outYc o s then
    let c := convCoef (getB (CAM_O_CFG_CONV o) s)
    let quad (m : Nat × Nat) : List (Nat × Nat × Nat) :=
      [px (2 * m.1) (2 * m.2), px (2 * m.1 + 1) (2 * m.2), px (2 * m.1) (2 * m.2 + 1), px (2 * m.1 + 1) (2 * m.2 + 1)]
    let q := all (w / 2) (h / 2)
    s |> writeLines a (outPitch o s) w h ((all w h).map (fun k => lumaOf c (px k.1 k.2)))
      |> writeLines (a + outPitch o s * h) (outPitch o s) w (h / 2)
        (interleave (q.map (fun m => chromaOf c 3 (quad m))) (q.map (fun m => chromaOf c 6 (quad m))))
  else
    each (all w h) (fun k t =>
      let p := px k.1 k.2
      memWrite .hbm (a + outPitch o s * k.2 + 4 * k.1) (wordBytes (Word.ofNat (p.1 * 2 ^ 20 + p.2.1 * 2 ^ 10 + p.2.2))) t) s

/-- The buffer an output writes next: after the last written, past any that a capture reads (R404). -/
def nextOutBuf (o : Nat) (s : State) : Option Nat :=
  let n := max 1 (getF (CAM_O_CFG_NBUF o) s)
  let first := if getB (CAM_O_STAT_VALID o) s then getF (CAM_O_STAT_LAST_BUF o) s + 1 else 0
  let tries := if getB (CAM_O_STAT_VALID o) s then n - 1 else n
  ((List.range tries).map (fun i => (first + i) % n)).find? (fun b => !FMap.get false s.cam.reading (8 * o + b))

/-- The pipeline result of a frame (R398). -/
def pipeline (f : CamFrame) : List (List (Nat × Nat × Nat)) :=
  f.filtered.zipIdx.map (fun l => (List.range l.1.length).map (fun x => colourPixel f (demosaic f x l.2)))

/-- CAM_OUTPUT_COMPLETE: an output writes the frame due (R398, R403, R404). -/
def execCamOutputComplete (o : Fin 8) (s : State) : Host.Outcome State Fault Refusal :=
  let o := o.val
  .next (match FMap.get none s.cam.due o with
    | none => s
    | some f =>
      let s := { s with cam := { s.cam with due := FMap.set none s.cam.due o none } }
      match nextOutBuf o s with
      | none => s |> orF CAM_O_CAUSE_DROP (2 ^ o) |> refreshCam
      | some b =>
        let a := outAddr o b s
        let cap : Capture := {
          index := 0, pt := (f.stamp : Int), addr := a, planeBuf := none, camBuf := some (o, b), pitch := outPitch o s,
          srcW := outW o s, srcH := outH o s, concealed := false, incomplete := false, done := false, y := [], cb := [], cr := [] }
        let yc := outYc o s
        let s := s |> writeOutput o a (pipeline f)
          |> setF (CAM_O_STAT_LAST_BUF o) b |> setF (CAM_O_STAT_FLAGS o) f.flags
          |> setF (CAM_O_STAT_VALID o) 1 |> setF (CAM_O_FCOUNT o) f.fcount |> orF CAM_O_CAUSE_DONE (2 ^ o) |> refreshCam
        if yc then takePicture 1 o none cap s else wrongFormat o s)

/-! ## I3C (R390) -/

/-- A command of the cameras comes from PG_OWNER of page 0x160 (R405). -/
def camOwned (op : Nat) (c : Cmd) (f : State → State) (s : State) : State :=
  if isOwner c.who 0x160 s then f s else answer op c NOT_OWNER s

/-- The common command codes supported (R390), by the codes of MIPI I3C Basic (log 24). -/
def cccSupported : List Nat :=
  [0x07, 0x87, 0x88, 0x06, 0x86, 0x00, 0x80, 0x01, 0x81, 0x09, 0x89, 0x0A, 0x8A, 0x8D, 0x8E, 0x8F, 0x90]

/-- CAM_I3C: one CCC or one private transfer joins the queue of its port (R390). -/
def execCamI3c (c : Cmd) (s : State) : Host.Outcome State Fault Refusal :=
  .next (runCmd 0x40 c (camOwned 0x40 c (fun s =>
    let p := c.argF 0 16 16
    let read := decide (c.argF 0 30 30 = 1)
    let len := if read then c.dst.len else c.src.len
    if 256 < len ∨ (c.argF 0 31 31 = 1 ∧ cccSupported.contains (c.argF 0 7 0) = false) then answer 0x40 c BAD_ARGUMENT s
    else if read then s.setI3cq p (s.i3cq p ++ [⟨c, [], false, false⟩]) |> busNext p
    else if srcBad c s then abortOperand 0x40 c s
    else s.setI3cq p (s.i3cq p ++ [⟨c, srcBytes c s, false, false⟩]) |> busNext p)) s)

/-- I3C_TRANSFER_DONE: the transfer at the head ends; a NACK is retried once (R390). -/
def execI3cTransferDone (port : Fin 2) (ack : Bool) (data : List Byte) (s : State) : Host.Outcome State Fault Refusal :=
  let p := port.val
  .next (if !runs (0x160 + p) s then s else
    match s.i3cq p with
    | [] => s
    | h :: r =>
      if h.running = false then s else
      let read := decide (h.cmd.argF 0 30 30 = 1)
      let s := emit (.i3c p [Word.ofNat (h.cmd.arg 0)] h.bytes) s
      if !ack then
        if h.retried then s.setI3cq p r |> portCause p 3 |> answer 0x40 h.cmd ABORTED |> busNext p
        else s.setI3cq p ({ h with retried := true } :: r)
      else if read && dstBad h.cmd s then s.setI3cq p r |> abortOperand 0x40 h.cmd |> busNext p
      else if read then
        let d := data.take h.cmd.dst.len
        s.setI3cq p r |> memWrite (opSpace h.cmd h.cmd.dst s) h.cmd.dst.addr d |> finish 0x40 h.cmd DONE 0 d.length 0 |> busNext p
      else s.setI3cq p r |> answer 0x40 h.cmd DONE |> busNext p)

/-- I3C_IBI: an in-band interrupt with up to 4 payload bytes (R390). -/
def execI3cIbi (port : Fin 2) (addr : Nat) (payload : List Byte) (s : State) : Host.Outcome State Fault Refusal :=
  let p := port.val
  .next (if !isOn (0x160 + p) s then s
    else s |> setF (CAM_P_IBI p) (beNat ((payload.take 4) ++ List.replicate (4 - payload.length) 0))
      |> setF (CAM_P_IBI_ADDR_ADDR p) addr |> portCause p 5)

/-! ## Exposure sets (R395–R397) -/

/-- The record of an exposure set is refused as BAD_ARGUMENT (R395). -/
def badSet (ws : List Word) : Bool :=
  let n := fieldAt ws 0 4 0
  decide (n = 0) || decide (16 < n) || decide (ws.length ≠ 4 + n) || decide (crcWords (ws.take (3 + n)) ≠ ws.getD (3 + n) 0) ||
  decide (fieldAt ws 0 31 24 ≠ 1) || decide (fieldAt ws 0 20 5 ≠ 0) || decide (fieldAt ws 1 15 1 ≠ 0) ||
  (decide (fieldAt ws 1 0 0 = 0) && (List.range n).any (fun i => decide (fieldAt ws (3 + i) 15 8 ≠ 0)))

/-- The frame before which a set of TARGET t is written, and whether its slot has passed (R396, R397): then it is written
in the first blanking that begins after the queueing. -/
def slotFor (k t : Nat) (s : State) : Nat × Bool :=
  let x := s.sensor k
  let n := nextFrame k s
  let m := (t + 2 ^ 32 - getF (CAM_S_CFG_LATENCY k) s) % 2 ^ 32
  let early := if x.seen = 0 then decide (getF (CAM_S_CFG_LATENCY k) s ≤ t) else decide (0 ≤ diff32 m n)
  let closed := x.frame.isNone && x.slotClosed && decide (m = n)
  if early && !closed then (m, false) else ((if x.frame.isSome then n else (n + 1) % 2 ^ 32), true)

/-- CAM_EXPSET (R395, R397): an older set of the same TARGET gives way, and a set queued after its slot has passed is treated as one
that missed it. -/
def execCamExpset (c : Cmd) (s : State) : Host.Outcome State Fault Refusal :=
  .next (runCmd 0x41 c (camOwned 0x41 c (withSrc 0x41 c (fun ws s =>
    let k := fieldAt ws 0 23 21
    let n := fieldAt ws 0 4 0
    let t := wordAt ws 2
    if badSet ws then answer 0x41 c BAD_ARGUMENT s
    else if !getB (CAM_S_CFG_EN k) s then answer 0x41 c NOT_READY s
    else
      let old := (s.sensor k).sets.filter (fun e => decide (e.target = t) && !e.started)
      let s := s.setSensor k { s.sensor k with sets := (s.sensor k).sets.filter (fun e => decide (e.target ≠ t) || e.started) }
      let s := each old (fun e => complete true e.cmd COALESCED 0 0 0) s
      if 16 ≤ (s.sensor k).sets.length then s |> countF CAM_TFULL |> raise 0x160 12 |> answer 0x41 c TABLE_FULL
      else
        let m := slotFor k t s
        let e : ExpSet := { cmd := refOf 0x41 c, id := fieldAt ws 1 31 16, w16 := decide (fieldAt ws 1 0 0 = 1), target := t
                            writes := (List.range n).map (fun i => (fieldAt ws (3 + i) 31 16, fieldAt ws (3 + i) 15 0))
                            slot := m.1, missed := m.2, started := false }
        s.setSensor k { s.sensor k with sets := (s.sensor k).sets ++ [e] } |> ifS m.2 (missSlot k) |> showSensor k
          |> busNext (getF (CAM_S_CFG_PORT k) s)))) s)

/-- The I3C bytes of one write of a set: the register, then its data (R395). -/
def writeBytes (w16 : Bool) (w : Nat × Nat) : List Byte := natBe 2 w.1 ++ (if w16 then natBe 2 w.2 else natBe 1 w.2)

/-- The writes of a set that reach the bus: all of them, or with two NACKs those up to the write that received them, which is
sent twice and is a free one of the set (R390, R397, log 3). -/
def sentWrites (e : ExpSet) (ack : Bool) (s : State) : List (Nat × Nat) :=
  let j := (fresh 4 s).1 % max 1 e.writes.length
  if ack then e.writes else e.writes.take (j + 1) ++ (e.writes.drop j).take 1

/-- Each write of a set is one private write to the sensor's address (R395). -/
def sendSet (p k : Nat) (e : ExpSet) (ack : Bool) (s : State) : State :=
  let ws := sentWrites e ack s
  each ws (fun w t => emit (.i3c p [Word.ofNat (getF (CAM_S_CFG_DADDR k) t)] (writeBytes e.w16 w)) t) (if ack then s else (fresh 4 s).2)

/-- EXPSET_WRITTEN: the writes of the set that the bus carries have been sent, or one had two NACKs (R396, R397). -/
def execExpsetWritten (k : Fin 8) (ack : Bool) (s : State) : Host.Outcome State Fault Refusal :=
  let k := k.val
  let x := s.sensor k
  let p := getF (CAM_S_CFG_PORT k) s
  .next (match x.sets.find? (fun e => e.started) with
    | none => s
    | some e =>
      let f := (e.slot + getF (CAM_S_CFG_LATENCY k) s) % 2 ^ 32
      let s := sendSet p k e ack s
      let s := s.setSensor k { x with sets := dropFirst (fun y => y.started) x.sets, applied := x.applied ++ [(f, e.id, !ack)] } |> showSensor k
      let s := if ack then complete true e.cmd (if e.missed then TOO_LATE else DONE) 0 0 0 s
        else s |> sensorCause k 8 |> complete true e.cmd ABORTED 0 0 0
      busNext p s)

/-- EXPSET_SLOT_CLOSE: the slot of the blanking in progress closes (R396, R397). -/
def execExpsetSlotClose (k : Fin 8) (s : State) : Host.Outcome State Fault Refusal :=
  let k := k.val
  .next (match slotEnd k s with
    | some t => if slotOpen k s && reached t s then closeSlot k s else s
    | none => s)

/-! ## Tables (R398, R402) -/

/-- CAM_DEFECT_LOAD (R398). -/
def execCamDefectLoad (c : Cmd) (s : State) : Host.Outcome State Fault Refusal :=
  .next (runCmd 0x42 c (camOwned 0x42 c (fun s =>
    if 16384 < c.src.len ∨ c.src.len % 4 ≠ 0 then answer 0x42 c BAD_ARGUMENT s
    else withSrc 0x42 c (fun ws s =>
      let k := c.argF 0 2 0
      s.setSensor k { s.sensor k with defects := ws.map (fun w => (w.toNat / 65536, w.toNat % 65536)) } |> answer 0x42 c DONE) s)) s)

/-- CAM_TONE_LOAD (R398). -/
def execCamToneLoad (c : Cmd) (s : State) : Host.Outcome State Fault Refusal :=
  .next (runCmd 0x43 c (camOwned 0x43 c (withLen 0x43 c 2048 (fun ws s =>
    let k := c.argF 0 2 0
    let ch := c.argF 0 5 4
    let t := ws.flatMap (fun w => [w.toNat % 65536, w.toNat / 65536])
    if ch = 3 ∨ t.any (fun x => decide (1023 < x)) = true then answer 0x43 c BAD_ARGUMENT s
    else s.setSensor k { s.sensor k with tones := FMap.set [] (s.sensor k).tones ch t } |> answer 0x43 c DONE))) s)

/-- CAM_WIN_LOAD (R402). -/
def execCamWinLoad (c : Cmd) (s : State) : Host.Outcome State Fault Refusal :=
  .next (runCmd 0x44 c (camOwned 0x44 c (withSrc 0x44 c (fun ws s =>
    let k := fieldAt ws 0 23 21
    let n := fieldAt ws 0 6 0
    if 64 < n ∨ c.src.len ≠ 4 * (2 + 2 * n) ∨ crcWords (ws.take (1 + 2 * n)) ≠ ws.getD (1 + 2 * n) 0 ∨ fieldAt ws 0 31 24 ≠ 1 then
      answer 0x44 c BAD_ARGUMENT s
    else
      let w := (List.range n).map (fun i => (fieldAt ws (1 + 2 * i) 31 16, fieldAt ws (1 + 2 * i) 15 0,
        fieldAt ws (2 + 2 * i) 31 16 + 1, fieldAt ws (2 + 2 * i) 15 0 + 1))
      s.setSensor k { s.sensor k with windows := w } |> answer 0x44 c DONE))) s)

/-! ## Enables (R391, R397, R403, R408) -/

/-- The sets queued for a sensor complete with ABORTED (R397, R405). -/
def abortSets (k : Nat) (s : State) : State :=
  let l := (s.sensor k).sets
  each l (fun e => complete true e.cmd ABORTED 0 0 0) (s.setSensor k { s.sensor k with sets := [] }) |> showSensor k

/-- CAM_S_CFG is written (R391): EN = 1 keeps the entry's configuration, and a second entry of a channel is refused. -/
def writeSensorCfg (k v : Nat) (s : State) : State :=
  let a := 0x160400 + 0x40 * k
  if getB (CAM_S_CFG_EN k) s then
    if bitOf v 31 then s else
    let s := s |> setF (CAM_S_CFG_EN k) 0 |> abortSets k |> busNext (getF (CAM_S_CFG_PORT k) s)
    let due := (List.range 8).filter (fun o => decide (getF (CAM_O_CFG_SENSOR o) s = k))
    let s := { s with cam := { s.cam with due := due.foldl (fun m o => FMap.set none m o none) s.cam.due } }
    s.setSensor k { s.sensor k with seen := 0, fcount := 0, frame := none, slotClosed := false, applied := [], history := none }
  else
    let clash := bitOf v 31 && (sensorOf (bitsOf v 30 30) (bitsOf v 29 26) s).isSome
    if clash then portCause (bitsOf v 30 30) 6 s else wr a (Word.ofNat (v / 2 ^ 12 * 2 ^ 12)) s

/-- CAM_SENSOR_ENABLE (R391). Page 0x160 takes writes from its PG_OWNER only (R405). -/
def execCamSensorEnable (who : Who) (k : Fin 8) (v : Word) (s : State) : Host.Outcome State Fault Refusal :=
  .next (guardWrite who 0x160 (CAM_S_CFG_EN k.val).addr (isOwner who 0x160 s) (writeSensorCfg k.val v.toNat) s)

/-- The geometry of output `o` for sensor `k` breaks R403 (R408). -/
def badOutput (o k : Nat) (s : State) : Bool :=
  let sw := getF (CAM_O_SRC1_SW_M1 o) s + 1
  let sh := getF (CAM_O_SRC1_SH_M1 o) s + 1
  decide (getF (CAM_S_SIZE_W k) s < getF (CAM_O_SRC0_SX0 o) s + sw) || decide (getF (CAM_S_SIZE_H k) s < getF (CAM_O_SRC0_SY0 o) s + sh) ||
  decide (sw < outW o s) || decide (sh < outH o s) || decide (outW o s % 2 ≠ 0) || decide (outH o s % 2 ≠ 0) ||
  decide (outW o s < 64) || decide (8192 < outW o s) || decide (outH o s < 64) || decide (8192 < outH o s)

/-- CAM_O_CFG is written (R404, R408): EN = 1 keeps the output's configuration. -/
def writeOutputCfg (o v : Nat) (s : State) : State :=
  if getB (CAM_O_CFG_EN o) s then
    if bitOf v 31 then s
    else { s with cam := { s.cam with due := FMap.set none s.cam.due o none } } |> setF (CAM_O_CFG_EN o) 0
  else if bitOf v 31 && badOutput o (bitsOf v 30 28) s then portCause 0 6 s
  else s |> setF (CAM_O_CFG_SENSOR o) (bitsOf v 30 28) |> setF (CAM_O_CFG_FMT o) (bitsOf v 27 27) |> setF (CAM_O_CFG_CONV o) (bitsOf v 26 26)
    |> setF (CAM_O_CFG_NBUF o) (clampN (v % 16) 2 8) |> setF (CAM_O_CFG_EN o) (bitsOf v 31 31)

/-- CAM_OUTPUT_ENABLE (R404, R408). -/
def execCamOutputEnable (who : Who) (o : Fin 8) (v : Word) (s : State) : Host.Outcome State Fault Refusal :=
  .next (guardWrite who 0x160 (CAM_O_CFG_EN o.val).addr (isOwner who 0x160 s) (writeOutputCfg o.val v.toNat) s)

/-- A camera page enters OFF or FAULT: the sets of its port's sensors complete with ABORTED (R405). -/
def camDown (p : Nat) (s : State) : State :=
  each (List.range 8) (fun k t => if getF (CAM_S_CFG_PORT k) t = p then
    abortSets k (t.setSensor k { t.sensor k with frame := none }) else t) s

/-- The transfers queued at a port end with ABORTED, and its trigger ball rests: its page is RESET (R37). -/
def abortPort (p : Nat) (s : State) : State :=
  let q := s.i3cq p
  let s := each q (fun h => answer 0x40 h.cmd ABORTED) (s.setI3cq p [])
  ifS (FMap.get none s.cam.trig p).isSome (setTrig p none) s

/-- RESET of page 0x160: sensors, outputs and tables are emptied, and every set ends with ABORTED (R37, R397, R405). -/
def camReset (s : State) : State :=
  let s := each (List.range 8) abortSets s |> abortPort 0
  { s with cam := { s.cam with sensors := [], due := [] } }

end Sys2Proof.Machine
end

