-- ==== Sys2Proof/Machine/Flash.lean ====
section
/-!
DEFINITION. The NOR flash (spec/20, R491–R493, R503–R505): its areas, the records that are kept in two copies, the boot record,
and the logs of the configuration halves.
-/

namespace Sys2Proof.Machine

/-! ## Areas (R491) -/

/-- The first byte and the size of slot A or B. -/
def slotRange (slot : Bool) : Nat × Nat := if slot then (0x01800000, 0x01800000) else (0, 0x01800000)

/-- The first byte and the size of configuration half CFG0 or CFG1. -/
def halfRange (half : Bool) : Nat × Nat := if half then (0x03880000, 0x00780000) else (0x03100000, 0x00780000)

/-- The addresses of the two copies of a record of the shared area: boot, download, rim, HBM training. -/
def copyAddr : Nat → Nat × Nat
  | 0 => (0x03000000, 0x03001000)
  | 1 => (0x03002000, 0x03003000)
  | 2 => (0x03004000, 0x03005000)
  | _ => (0x03008000, 0x03009000)

/-! ## Records in two copies (R493) -/

/-- The copy in force of a record kept in two: the valid one with the newer SEQ (R493). -/
def copyInForce {α : Type} (a b : Option (FlashCopy α)) : Option (FlashCopy α) :=
  match a.filter (fun c => c.valid), b.filter (fun c => c.valid) with
  | some x, some y => if 0 ≤ diff32 x.seq y.seq then some x else some y
  | some x, none => some x
  | none, y => y

/-- The two copies after a record is written: it replaces the copy that is not in force, with SEQ one above (R493). -/
def writeCopies {α : Type} [DecidableEq α] (item : α) (a b : Option (FlashCopy α)) : Option (FlashCopy α) × Option (FlashCopy α) :=
  match copyInForce a b with
  | none => (some ⟨1, true, item⟩, b)
  | some c =>
    let n : FlashCopy α := ⟨(c.seq + 1) % 2 ^ 32, true, item⟩
    if a = some c then (a, some n) else (some n, b)

/-! ## The boot record (R492, R493) -/

/-- The five words of a boot record. -/
def bootWords (r : BootRec) : List Word :=
  let ws := [0x01000000, Word.ofNat r.seq,
    Word.ofNat (bit r.slot * 2 ^ 31 + bit r.trial * 2 ^ 30 + r.tries % 4 * 2 ^ 28 + bit r.cfgHalf * 2 ^ 27 + bit r.tcfg * 2 ^ 26), 0]
  ws ++ [crcWords ws]

/-- What a stored boot record says; none where its VERSION or its CRC is wrong. -/
def parseBoot (ws : List Word) : Option BootRec :=
  if ws.length ≠ 5 ∨ fieldAt ws 0 31 24 ≠ 1 ∨ ws.getD 4 0 ≠ crcWords (ws.take 4) then none
  else some ⟨wordAt ws 1, bitOf (wordAt ws 2) 31, bitOf (wordAt ws 2) 30, fieldAt ws 2 29 28, bitOf (wordAt ws 2) 27, bitOf (wordAt ws 2) 26⟩

/-- The record in force: the valid copy with the newer SEQ; without one, ACTIVE, TRIAL and ACFG are 0. -/
def bootRec (s : State) : BootRec :=
  match parseBoot s.fwu.bootA, parseBoot s.fwu.bootB with
  | some a, some b => if 0 < diff32 b.seq a.seq then b else a
  | some a, none => a
  | none, some b => b
  | none, none => ⟨0, false, false, 0, false, false⟩

/-- A new record replaces the older copy, or an invalid one, with the next SEQ. -/
def writeBoot (r : BootRec) (s : State) : State :=
  let r := { r with seq := ((bootRec s).seq + 1) % 2 ^ 32 }
  let toA := match parseBoot s.fwu.bootA, parseBoot s.fwu.bootB with
    | some a, some b => decide (0 < diff32 b.seq a.seq)
    | some _, none => false
    | none, _ => true
  let s := if toA then { s with fwu := { s.fwu with bootA := bootWords r } } else { s with fwu := { s.fwu with bootB := bootWords r } }
  setF FWU_SEQ r.seq s

/-! ## The download record (R493, R507) -/

/-- FWU_DL follows the download. -/
def showDl (s : State) : State :=
  match s.fwu.dl with
  | none => wr FWU_DL_STATE.addr 0 s
  | some d => s |> setF FWU_DL_STATE (if d.verified then 2 else 1) |> setB FWU_DL_SLOT d.slot
      |> setF FWU_DL_PRESENT d.have_.length |> setF FWU_DL_CHUNKS d.chunks

/-- The download that the record in force names; that it is verified is not recorded (R510). -/
def storedDl (s : State) : Option Download :=
  match copyInForce s.fwu.dlA s.fwu.dlB with
  | some c => c.item
  | none => none

/-- Sets the download; a record that differs is written (R507, R509). -/
def setDl (d : Option Download) (s : State) : State :=
  let item := d.map (fun x => { x with verified := false })
  let ab := if storedDl s = item then (s.fwu.dlA, s.fwu.dlB) else writeCopies item s.fwu.dlA s.fwu.dlB
  { s with fwu := { s.fwu with dl := d, dlA := ab.1, dlB := ab.2 } } |> showDl

/-- Every update is taken to be unverified. -/
def unverified (d : Option Download) : Option Download := d.map (fun x => { x with verified := false })

/-! ## The configuration halves (R503–R505) -/

/-- The slot, half and trial flag of the running image, as FWU_BOOT shows them. -/
def runSlot (s : State) : Bool := getB FWU_BOOT_SLOT s
def runHalf (s : State) : Bool := getB FWU_BOOT_CFG s
def trialRuns (s : State) : Bool := getB FWU_BOOT_TRIAL s

/-- The log of a half, oldest record first, and the format of its items. -/
def halfLog (half : Bool) (s : State) : List CfgRec := if half then s.fwu.cfgB else s.fwu.cfgA
def halfFmt (half : Bool) (s : State) : Nat := if half then s.fwu.fmtB else s.fwu.fmtA

/-- Sets the log and the format of a half. -/
def setHalf (half : Bool) (log : List CfgRec) (fmt : Nat) (s : State) : State :=
  if half then { s with fwu := { s.fwu with cfgB := log, fmtB := fmt } }
  else { s with fwu := { s.fwu with cfgA := log, fmtA := fmt } }

/-- The live value of each key: its newest record with a valid CRC (R503). -/
def liveItems (log : List CfgRec) : FMap (List Byte) := log.foldl (fun m r => if r.ok then FMap.set [] m r.key r.data else m) []

/-- The live items of a half, by key. -/
def halfItems (half : Bool) (s : State) : FMap (List Byte) := liveItems (halfLog half s)

/-- The bytes of the live items of a half (R503). -/
def halfSize (half : Bool) (s : State) : Nat := ((halfItems half s).map (fun e => e.2.length)).sum

/-- The flash that a record takes: DESIGN CHOICE (log 45): 16 bytes for key, length, write count and CRC, beside its data. -/
def recSize (r : CfgRec) : Nat := 16 + r.data.length
def logSize (log : List CfgRec) : Nat := (log.map recSize).sum

/-- The records that begin within the next `n` bytes. -/
def firstRecs : Nat → List CfgRec → List CfgRec
  | _, [] => []
  | n, r :: rest => if n = 0 then [] else r :: firstRecs (n - recSize r) rest

/-- The write count of the next record of a log. -/
def nextCount (log : List CfgRec) : Nat := (log.getLast?.map (fun r => (r.count + 1) % 2 ^ 32)).getD 0

/-- A record is written at the head of the log. -/
def appendRec (key : Nat) (data : List Byte) (log : List CfgRec) : List CfgRec := log ++ [⟨key, nextCount log, true, data⟩]

/-- A record is the live one of its key. -/
def isLive (log : List CfgRec) (r : CfgRec) : Bool :=
  r.ok && (log.filter (fun x => x.ok && decide (x.key = r.key))).getLast? == some r

/-- Sectors are erased, the oldest first, until `need` more bytes fit in a half; the live records of each are rewritten at the head
of the log before (R503). -/
def reclaim : Nat → Nat → List CfgRec → List CfgRec
  | 0, _, log => log
  | n + 1, need, log =>
    if logSize log + need ≤ (halfRange false).2 then log
    else
      let old := firstRecs 65536 log
      let log' := (old.filter (isLive log)).foldl (fun l r => appendRec r.key r.data l) log
      reclaim n need (log'.drop old.length)

/-- An item is written to a half in the format of the running image (R503, R505). -/
def writeItem (half : Bool) (fmt key : Nat) (data : List Byte) (s : State) : State :=
  let log := halfLog half s
  setHalf half (appendRec key data (reclaim log.length (16 + data.length) log)) fmt s

/-- An item of `n` bytes would pass the limit on the live items of a half (R503). -/
def itemFull (half : Bool) (key n : Nat) (s : State) : Bool :=
  decide (5242880 < halfSize half s - (FMap.get [] (halfItems half s) key).length + n)

end Sys2Proof.Machine
end

