-- ==== Sys2Proof/Machine/Sluice.lean ====
section
/-!
DEFINITION. The Sluice block format and engine (spec/17): the decoder, the compressor up to the choice the specification
leaves it, and the host commands.
-/

namespace Sys2Proof.Machine

/-! ## The decoder (R425–R430) -/

/-- A result or the code of an error (R430). -/
abbrev Slu (α : Type) := Except Nat α

/-- ext() of R429: the bytes it takes and their sum; none when the payload ends. -/
def sluExt : List Byte → Option (Nat × List Byte)
  | [] => none
  | b :: r => if b = 255 then (sluExt r).map (fun x => (x.1 + 255, x.2)) else some (b.toNat, r)

/-- A match of `n` bytes at distance `dist`, copied one byte at a time; `o` is the output reversed (R427). -/
def sluCopy (dist : Nat) : Nat → List Byte → List Byte
  | 0, o => o
  | n + 1, o => sluCopy dist n (o.getD (dist - 1) 0 :: o)

/-- A field of 15 is followed by its extension (R428). -/
def sluField (v : Nat) (p : List Byte) : Option (Nat × List Byte) :=
  if v = 15 then (sluExt p).map (fun x => (15 + x.1, x.2)) else some (v, p)

/-- The sequences of a code stream (R429); `o` is the output reversed, `fuel` bounds the sequences. -/
def sluSeqs (olen : Nat) : Nat → List Byte → List Byte → Slu (List Byte)
  | _, [], o => .ok o
  | 0, _, o => .ok o
  | fuel + 1, t :: p, o =>
    match sluField (t.toNat / 16) p with
    | none => .error 1
    | some (lit, p) =>
      if olen < o.length + lit then .error 3
      else if p.length < lit then .error 1
      else
        let o := (p.take lit).reverse ++ o
        match p.drop lit with
        | [] => .ok o
        | [_] => .error 1
        | d0 :: d1 :: p =>
          let d := d0.toNat + 256 * d1.toNat
          if 16384 ≤ d then .error 1
          else if o.length < d + 1 then .error 2
          else match sluField (t.toNat % 16) p with
            | none => .error 1
            | some (ml, p) => if olen < o.length + ml + 4 then .error 3 else sluSeqs olen fuel p (sluCopy (d + 1) (ml + 4) o)

/-- The bytes of a code stream or a raw payload (R429). -/
def sluBody (raw : Bool) (olen : Nat) (p : List Byte) : Slu (List Byte) :=
  if raw then (if p.length ≠ olen then .error 3 else .ok p)
  else match sluSeqs olen p.length p [] with
    | .error e => .error e
    | .ok o => if o.length ≠ olen then .error 3 else .ok o.reverse

/-- A block from its header words and payload (R429). -/
def sluBlock (w0 w1 w2 : Word) (p : List Byte) : Slu (List Byte) :=
  if bitsOf w0.toNat 31 28 ≠ 1 ∨ bitsOf w0.toNat 26 16 ≠ 0 ∨ bitsOf w1.toNat 31 17 ≠ 0 then .error 1
  else match sluBody (bitOf w0.toNat 27) (w0.toNat % 65536 + 1) p with
    | .error e => .error e
    | .ok o => if crcBytes o ≠ w2.toNat then .error 4 else .ok o

/-- The block at the head of `b`, and what follows it (R425). A block that runs past the end is LENGTH_OVERRUN (R434). -/
def sluTake (b : List Byte) : Slu (List Byte × List Byte) :=
  let ws := bytesWords (b.take 12)
  let plen := wordAt ws 1 % 2 ^ 17
  if b.length < 12 + 4 * ceilDiv plen 4 then .error 3
  else match sluBlock (ws.getD 0 0) (ws.getD 1 0) (ws.getD 2 0) ((b.drop 12).take plen) with
    | .error e => .error e
    | .ok o => .ok (o, b.drop (12 + 4 * ceilDiv plen 4))

/-! ## The compressor (R425, R426) -/

/-- The payload the compressor writes, and whether it is raw: its code stream where that is shorter and decodes (log 26). -/
def sluPayload (o : List Byte) : Bool × List Byte :=
  let p := Config.sluiceStream o
  if p.length < o.length then
    match sluBody false o.length p with
    | .ok x => if x = o then (false, p) else (true, o)
    | .error _ => (true, o)
  else (true, o)

/-- The block of an original of 1 to 65,536 bytes (R425). -/
def sluCompress (o : List Byte) : List Byte :=
  let x := sluPayload o
  let w0 := 2 ^ 28 + bit x.1 * 2 ^ 27 + (o.length - 1)
  wordsBytes [Word.ofNat w0, Word.ofNat x.2.length, Word.ofNat (crcBytes o)] ++ x.2 ++ List.replicate (4 * ceilDiv x.2.length 4 - x.2.length) 0

/-- Blocks compressed and written are counted (R437). -/
def countCompressed (orig stored raws : Nat) (s : State) : State :=
  let s := { s with slc := { s.slc with cIn := s.slc.cIn + orig, cOut := s.slc.cOut + stored } }
  s |> setF SLC_C_IN (s.slc.cIn / 64) |> setF SLC_C_OUT (s.slc.cOut / 64) |> addF SLC_RAW_CNT raws

/-- Blocks decoded are counted (R437). -/
def countDecoded (orig : Nat) (s : State) : State :=
  let s := { s with slc := { s.slc with dOut := s.slc.dOut + orig } }
  setF SLC_D_OUT (s.slc.dOut / 64) s

/-- A decode failure is recorded (R434, R437). -/
def decodeFailed (code index : Nat) (engine : Bool) (p : Nat) (s : State) : State :=
  s |> setF SLC_ERR_CODE code |> setB SLC_ERR_USER engine |> setF SLC_ERR_PARTITION p |> setF SLC_ERR_BLOCK index
    |> countF SLC_ERR_CNT |> raise 0x178 2

/-! ## Host commands (R431–R435) -/

/-- An operand lies in HBM regions or host windows granted to the giver (R431). -/
def granted (c : Cmd) (o : Operand) (s : State) : Bool :=
  decide (o.len = 0) || (if o.space = 2 then inHostWindow c.idx o.addr o.len s else inRegion c.idx o.addr o.len s)

/-- C_BUSY, D_BUSY and the pending bytes show the engine: a job that ends or holds a block is being worked on (R437). The blocks of
the correction engine take no step of their own. -/
def showSlc (p : Nat) (s : State) : State :=
  let busy (l : List SlcJob) : Bool := l.head?.any (fun j => !j.blocks.isEmpty || j.err.isSome)
  s |> setB SLC_STAT_C_BUSY (busy s.slc.comp) |> setB SLC_STAT_D_BUSY (busy s.slc.dec)
    |> setF (SLC_PEND_BYTES p) (FMap.get (0, []) s.slc.pend p).2.length

/-- A compress or flush command that writes nothing completes with the bytes pending (R432). -/
def slcEnd (op : Nat) (c : Cmd) (status reason : Nat) (s : State) : State :=
  finish op c status reason 0 (FMap.get (0, []) s.slc.pend c.idx).2.length s

/-- A refusal of R433. -/
def slcRefuse (op : Nat) (c : Cmd) (reason : Nat) (s : State) : State :=
  s |> setF SLC_REJ_REASON reason |> setF SLC_REJ_PARTITION c.idx |> raise 0x178 3 |> slcEnd op c BAD_ARGUMENT reason

/-- A compress or flush command whose operand fails (R432, R480). -/
def slcAbort (op : Nat) (c : Cmd) (s : State) : State :=
  match c.who with
  | .fw => s
  | .part p => s |> slcEnd op c ABORTED 0 |> hostError p.val 5

/-- Blocks that end as bytes are appended to a pending block of block size `cur`, later ones having size `blk` (R432):
the blocks ended and the bytes left. -/
def cutBlocks (blk : Nat) : Nat → Nat → List Byte → List (List Byte) × List Byte
  | 0, _, l => ([], l)
  | fuel + 1, cur, l =>
    if l.length < cur then ([], l)
    else
      let r := cutBlocks blk fuel blk (l.drop cur)
      (l.take cur :: r.1, r.2)

/-- A compress or flush job joins the engine (R431, R432). -/
def queueCompress (op : Nat) (c : Cmd) (blk : Nat) (ended : List (List Byte)) (left : List Byte) (s : State) : State :=
  let out := ended.map sluCompress
  let job : SlcJob := { op := op, cmd := c, blocks := out, orig := (ended.map List.length).sum
                        raws := (ended.filter (fun o => (sluPayload o).1)).length, status := DONE
                        result0 := (out.map List.length).sum, result1 := left.length, err := none, short := false }
  { s with slc := { s.slc with comp := s.slc.comp ++ [job], pend := FMap.set (0, []) s.slc.pend c.idx (if left.isEmpty then (0, []) else (blk, left)) } }
    |> showSlc c.idx

/-- One SLC_COMPRESS (R432, R433). -/
def slcCompressOne (c : Cmd) (s : State) : State :=
  let p := FMap.get (0, []) s.slc.pend c.idx
  let blk := c.arg 0
  let total := p.2.length + c.src.len
  if !granted c c.src s || !granted c c.dst s then slcEnd 0x48 c NOT_OWNER 0 s
  else if blk < 64 ∨ 65536 < blk then slcRefuse 0x48 c 1 s
  else if c.src.len = 0 then slcRefuse 0x48 c 2 s
  else if c.src.addr % 4 ≠ 0 ∨ c.dst.addr % 4 ≠ 0 then slcRefuse 0x48 c 3 s
  else if c.dst.len < total + 16 * ceilDiv total blk then slcRefuse 0x48 c 4 s
  else if srcBad c s then slcAbort 0x48 c s
  else
    let cur := if p.2.isEmpty then blk else p.1
    let r := cutBlocks blk (total + 1) cur (p.2 ++ srcBytes c s)
    let flush := decide (c.argF 1 0 0 = 1)
    let ended := if flush && !r.2.isEmpty then r.1 ++ [r.2] else r.1
    queueCompress 0x48 c (if r.1.isEmpty then cur else blk) ended (if flush then [] else r.2) s

/-- One SLC_FLUSH (R432, R433). -/
def slcFlushOne (c : Cmd) (s : State) : State :=
  let p := FMap.get (0, []) s.slc.pend c.idx
  if !granted c c.dst s then slcEnd 0x49 c NOT_OWNER 0 s
  else if c.dst.addr % 4 ≠ 0 then slcRefuse 0x49 c 3 s
  else if c.dst.len < p.2.length + 16 then slcRefuse 0x49 c 4 s
  else queueCompress 0x49 c 0 (if p.2.isEmpty then [] else [p.2]) [] s

/-- Whole blocks one after another (R434): the outputs, and what stopped the command: a code and whether it was for want
of room. -/
def decodeBlocks : Nat → List Byte → Nat → List (List Byte) × Option (Nat × Bool)
  | 0, _, _ => ([], none)
  | fuel + 1, b, room =>
    if b.isEmpty then ([], none)
    else match sluTake b with
      | .error e => ([], some (e, false))
      | .ok (o, rest) =>
        if room < o.length then ([], some (0, true))
        else
          let r := decodeBlocks fuel rest (room - o.length)
          (o :: r.1, r.2)

/-- One SLC_DECOMPRESS (R434). The code recorded for a block that does not fit is not stated: a free value (log 3). -/
def slcDecompressOne (c : Cmd) (s : State) : State :=
  if !granted c c.src s || !granted c c.dst s then answer 0x4A c NOT_OWNER s
  else if srcBad c s then abortOperand 0x4A c s
  else
    let r := decodeBlocks (c.src.len + 1) (srcBytes c s) c.dst.len
    let f := fresh 8 s
    let short := match r.2 with | some (_, true) => true | _ => false
    let s := if short then f.2 else s
    let job : SlcJob := { op := 0x4A, cmd := c, blocks := r.1, orig := (r.1.map List.length).sum, raws := 0
                          status := if r.2.isSome then BAD_ARGUMENT else DONE, result0 := r.1.length, result1 := 0
                          err := r.2.map (fun e => (if e.2 then f.1 else e.1, r.1.length)), short := short }
    { s with slc := { s.slc with dec := s.slc.dec ++ [job] } } |> showSlc c.idx

/-- The blocks of a job are written into its destination, one after another. -/
def writeJob (j : SlcJob) (blocks : List (List Byte)) (s : State) : State :=
  memWrite (opSpace j.cmd j.cmd.dst s) j.cmd.dst.addr blocks.flatten s

/-- SLC_COMMAND_DONE: the job at the head of a direction is written and completes, also on the way to OFF (R35, R432, R434). -/
def execSlcCommandDone (decode : Bool) (s : State) : Host.Outcome State Fault Refusal :=
  .next (if !runs 0x178 s then s else
    match (if decode then s.slc.dec else s.slc.comp) with
    | [] => s
    | j :: r =>
      let s := { s with slc := if decode then { s.slc with dec := r } else { s.slc with comp := r } }
      let s := showSlc j.cmd.idx s
      if dstBad j.cmd s then (if decode then abortOperand j.op j.cmd s else slcAbort j.op j.cmd s) else
      let s := writeJob j j.blocks s
      let s := if decode then countDecoded j.orig s else countCompressed j.orig (j.blocks.map List.length).sum j.raws s
      let s := ifS j.short (fun s => s |> setF SLC_REJ_REASON 4 |> setF SLC_REJ_PARTITION j.cmd.idx) s
      let s := match j.err with
        | some e => decodeFailed e.1 e.2 false j.cmd.idx s
        | none => s
      finish j.op j.cmd j.status (if j.short then 4 else 0) j.result0 j.result1 s)

/-- The commands of partition `p` dispatched to the engine that have not begun complete with ABORTED (R435). -/
def abortWaiting (p : Nat) (s : State) : State :=
  each ((s.prt p).disp.filter (fun d => !d.started && decide (judgedPages d.op d.cmd = [0x178]))) (fun d => answer d.op d.cmd ABORTED) s

/-- The page goes OFF or FAULT, is RESET, or the device sleeps: pending blocks are discarded and commands complete with
ABORTED; how many of their blocks had been written is open (R435, log 3), and the completion carries it (R432, R434). -/
def slcDown (s : State) : State :=
  let jobs := s.slc.comp ++ s.slc.dec
  let s := { s with slc := { s.slc with pend := [], comp := [], dec := [] } }
  let s := each jobs (fun j t =>
    let f := fresh 32 t
    let out := j.blocks.take (f.1 % (j.blocks.length + 1))
    f.2 |> writeJob j out |> finish j.op j.cmd ABORTED 0 (if j.op = 0x4A then out.length else (out.map List.length).sum) 0) s
  each (List.range 8) (fun p t => t |> abortWaiting p |> showSlc p) s

end Sys2Proof.Machine
end

