-- ==== Sys2Proof/Machine/Correction.lean ====
section
/-!
DEFINITION. Panel correction (spec/06): ray maps and the ray inputs they give, gain maps, stress counters, derivation,
export and import. Tiles are addressed through their lane; a bonded tile through its even lane (R186).
-/

namespace Sys2Proof.Machine

/-! ## Tiles (R51, R52, R56) -/

/-- The record of a lane in the panel map in force. -/
def tileRec (lane : Nat) (s : State) : TileRec := FMap.get {} s.panel.map.tiles lane

/-- A valid tile is addressed through this lane (R196). -/
def tileValid (lane : Nat) (s : State) : Bool := (tileRec lane s).valid

/-- A and B (R51). -/
def dirA (s : State) : Nat := s.panel.map.aM1 + 1
def dirB (s : State) : Nat := s.panel.map.bM1 + 1

/-- RW and RH of a tile: its rays across and down. -/
def tileRW (lane : Nat) (s : State) : Nat := ((tileRec lane s).hwM1 + 1) * dirA s
def tileRH (lane : Nat) (s : State) : Nat := ((tileRec lane s).hhM1 + 1) * dirB s

/-- Rays of a tile. -/
def tileRays (lane : Nat) (s : State) : Nat := tileRW lane s * tileRH lane s

/-- The ray address of ray (0, 0) of a lane's tile (R56). -/
def rayBase (lane : Nat) (s : State) : Nat :=
  ((List.range lane).map (fun k => if tileValid k s then tileRays k s else 0)).sum

/-- State of a raster group's page. -/
def groupState (g : Nat) (s : State) : Nat := blockState (0x90 + g) s

/-- A group that is OFF or PARKED takes a staged bank up at once (R193). -/
def groupIdle (g : Nat) (s : State) : Bool := offOrParked (0x90 + g) s

/-- Bit of a lane in a per-lane bitmap. -/
def laneBit (f : Nat → Fld) (lane : Nat) (s : State) : Bool := bitOf (getF (f (lane / 32)) s) (lane % 32)

/-- Sets the bit of a lane in a per-lane bitmap. -/
def setLaneBit (f : Nat → Fld) (lane : Nat) (v : Bool) (s : State) : State :=
  if v then orF (f (lane / 32)) (2 ^ (lane % 32)) s else clearF (f (lane / 32)) (2 ^ (lane % 32)) s

/-! ## From record to ray inputs (R190, R191, R195) -/

/-- The inputs of R87 that belong to the panel: X, Y and the slopes. -/
structure RayIn where
  x : Int
  y : Int
  sx : Int
  sy : Int
  deriving DecidableEq, Repr

/-- R190 for a hogel record's fields. -/
def rayInputs (hx hy : Nat) (nsx nsy dx dy rot psc kx ky : Int) : RayIn :=
  let sx1 := rnd (nsx * (16384 + psc)) 14
  let sy1 := rnd (nsy * (16384 + psc)) 14
  { x := hx * 4096 + 0x800 + 4 * dx
    y := hy * 4096 + 0x800 + 4 * dy
    sx := clampI (sx1 - rnd (rot * sy1) 14 + 4 * kx) (-0x80000) 0x7FFFF
    sy := clampI (sy1 + rnd (rot * sx1) 14 + 4 * ky) (-0x80000) 0x7FFFF }

/-- What a read of word `i` of a tile's table in CORRECTION returns, `w` being what it holds: a free value where the word reads
poisoned (R420, R422; logs 61, 62). Kinds: 0 direction table, 1 hogel records, 2 gain map. -/
def corRead (kind lane i w : Nat) (s : State) : Nat :=
  let a := Config.correctionPlace kind lane i
  if hbmBad s && hbmPoisoned a 4 s then poisonedWord a s else w

/-- The inputs of the ray at (col, row) of a lane's tile under a ray map, or the default map (R57, R190, R191). -/
def mapRayIn (map : Option RayMap) (lane col row : Nat) (s : State) : RayIn :=
  let t := tileRec lane s
  let hx := col / dirA s
  let hy := row / dirB s
  let d := row % dirB s * dirA s + col % dirA s
  match map with
  | none => rayInputs (t.hx0 + hx) (t.hy0 + hy) 0 0 0 0 0 0 0 0
  | some m =>
    let j := hy * (t.hwM1 + 1) + hx
    let n := m.dirs.getD d (0, 0)
    let h := m.hogels.getD j (0, 0)
    let slope (k : Nat) (x : Int) : Int := toSigned 20 (corRead 0 lane k (ofSigned 20 x) s)
    let h0 := corRead 1 lane (2 * j) h.1.toNat s
    let h1 := corRead 1 lane (2 * j + 1) h.2.toNat s
    let f (w hi lo : Nat) : Int := toSigned (hi + 1 - lo) (bitsOf w hi lo)
    rayInputs (t.hx0 + hx) (t.hy0 + hy) (slope (2 * d) n.1) (slope (2 * d + 1) n.2) (f h0 31 21) (f h0 20 10) (f h0 9 0)
      (f h1 31 22) (f h1 21 11) (f h1 10 0)

/-- The inputs of the ray at (col, row) of a lane's tile in the frame that runs: its ray map in force, or the default map, which
early mode always uses (R191, R500). -/
def tileRayIn (lane col row : Nat) (s : State) : RayIn :=
  mapRayIn (if (s.grp (tileRec lane s).group).latch.early then none else (s.tileCor lane).rayMap) lane col row s

/-- The gain codes R, G, B of ray (col, row) of a lane's tile; `on` is the group's latched GAIN_EN (R195). -/
def tileGain (on : Bool) (lane col row : Nat) (s : State) : Nat × Nat × Nat :=
  match (s.tileCor lane).gain with
  | none => (0x200, 0x200, 0x200)
  | some g =>
    if !on then (0x200, 0x200, 0x200) else
    let i := row * tileRW lane s + col
    let w := corRead 2 lane i (wordAt g i) s
    (bitsOf w 29 20, bitsOf w 19 10, bitsOf w 9 0)

/-- The pattern code of ray (col, row), channel `ch`, from the word of COR_PAT (R201). -/
def patternCode (pat : Nat) (code12 : Bool) (col row ch : Nat) : Nat :=
  let code := if code12 then pat % 4096 else pat % 4096 / 4
  let p := bitsOf pat 27 24 + 1
  if bitsOf pat 31 30 ≠ 1 then code
  else if col % p = bitsOf pat 19 16 % 16 ∧ row % p = bitsOf pat 23 20 ∧
    (bitsOf pat 29 28 = 3 ∨ bitsOf pat 29 28 = ch) then code else 0

/-! ## Ray maps (R186–R194) -/

/-- A command of the correction engine comes from PG_OWNER of page 0x148 (R209). -/
def corOwned (op : Nat) (c : Cmd) (f : State → State) (s : State) : State :=
  if isOwner c.who 0x148 s then f s else answer op c NOT_OWNER s

/-- Words of the direction table, where the hogel records begin, and words of the records, by a block's header (R186). -/
def rmDirWords (ws : List Word) : Nat := 2 * ((fieldAt ws 0 23 19 + 1) * (fieldAt ws 0 18 14 + 1))
def rmStart (ws : List Word) : Nat := ceilDiv (64 + 4 * rmDirWords ws) 4096 * 4096
def rmHogelWords (ws : List Word) : Nat := 2 * ((fieldAt ws 1 31 21 + 1) * (fieldAt ws 1 20 10 + 1))

/-- `n` words of a block from word `i`; what lies beyond the block reads 0 (R192). -/
def wordsFrom (ws : List Word) (i n : Nat) : List Word :=
  let l := (ws.drop i).take n
  l ++ List.replicate (n - l.length) 0

/-- The first two of the checks against the panel map: reasons 0x04 and 0x05 (R192). -/
def rmMismatch (lane : Nat) (hdr0 hdr1 : Word) (s : State) : Nat :=
  let t := tileRec lane s
  if hdr0.toNat % 1024 ≠ lane ∨ t.valid = false ∨ (lane % 2 = 1 ∧ (tileRec (lane - 1) s).bonded = true) then 4
  else if bitsOf hdr0.toNat 23 19 ≠ s.panel.map.aM1 ∨ bitsOf hdr0.toNat 18 14 ≠ s.panel.map.bM1 ∨
    bitsOf hdr1.toNat 31 21 ≠ t.hwM1 ∨ bitsOf hdr1.toNat 20 10 ≠ t.hhM1 then 5 else 0

/-- The reason for which a ray map block of `len` bytes is refused; 0 when it passes (R192). -/
def rmReason (lane len : Nat) (ws : List Word) (s : State) : Nat :=
  if len < 64 then 6
  else
    let dirs := wordsFrom ws 16 (rmDirWords ws)
    let hogels := wordsFrom ws (rmStart ws / 4) (rmHogelWords ws)
    if crcWords (ws.take 15) ≠ ws.getD 15 0 ∨ crcWords (dirs ++ hogels) ≠ ws.getD 14 0 then 1
    else if fieldAt ws 0 31 24 ≠ 1 then 2
    else if fieldAt ws 0 13 10 ≠ 0 ∨ fieldAt ws 1 9 0 ≠ 0 ∨ ((ws.drop 3).take 11).any (fun w => decide (w ≠ 0)) = true ∨
      dirs.any (fun w => decide (w.toNat / 2 ^ 20 ≠ 0)) = true then 3
    else if rmMismatch lane (ws.getD 0 0) (ws.getD 1 0) s ≠ 0 then rmMismatch lane (ws.getD 0 0) (ws.getD 1 0) s
    else if len ≠ rmStart ws + 4 * rmHogelWords ws then 6 else 0

/-- Words two by two. -/
def wordPairs : List Word → List (Word × Word)
  | a :: b :: r => (a, b) :: wordPairs r
  | _ => []

/-- A block that passed, as a bank (R187–R189). -/
def parseRayMap (ws : List Word) : RayMap where
  hdr0 := ws.getD 0 0
  hdr1 := ws.getD 1 0
  tag := ws.getD 2 0
  dirs := (wordPairs (wordsFrom ws 16 (rmDirWords ws))).map (fun p => (toSigned 20 p.1.toNat, toSigned 20 p.2.toNat))
  hogels := wordPairs (wordsFrom ws (rmStart ws / 4) (rmHogelWords ws))

/-- The staged ray map of a lane comes into force (R193). -/
def takeRayMap (lane : Nat) (s : State) : State :=
  let x := s.tileCor lane
  match x.rayStaged with
  | none => s
  | some m => s.setTileCor lane { x with rayMap := some m, rayStaged := none } |> setLaneBit COR_RMVALID lane true |> raise 0x148 3

/-- The staged gain map of a lane comes into force (R196). -/
def takeGain (lane : Nat) (s : State) : State :=
  let x := s.tileCor lane
  match x.gainStaged with
  | none => s
  | some g => s.setTileCor lane { x with gain := some g, gainStaged := none } |> setLaneBit COR_GVALID lane true |> raise 0x148 9

/-- At an FL the staged banks of a lane come into force; the ray map they replace is kept for the frame before (R110, R193). -/
def latchBanks (lane : Nat) (s : State) : State :=
  let x := s.tileCor lane
  s |> State.setTileCor lane { x with rayOld := if x.rayStaged.isSome then some x.rayMap else none }
    |> takeRayMap lane |> takeGain lane

/-- The lanes that hold something in the correction engine. -/
def corLanes (s : State) : List Nat := s.cor.tiles.map (fun e => e.1)

/-- At an FL of group `g`, and as it is OFF or PARKED, its tiles take their staged banks (R193, R196). -/
def takeBanks (g : Nat) (s : State) : State :=
  let mine (lane : Nat) (s : State) : Bool := tileValid lane s && decide ((tileRec lane s).group = g)
  each (corLanes s) (fun k t => ifS (mine k t) (latchBanks k) t) s

/-- The staged banks of a lane whose group is OFF or PARKED come into force at once (R193). -/
def takeIfIdle (lane : Nat) (s : State) : State :=
  ifS (groupIdle (tileRec lane s).group s) (fun s => s |> takeRayMap lane |> takeGain lane) s

/-- RAYMAP_LOAD: the source is copied, to be checked (R192, R193). -/
def execRaymapLoad (c : Cmd) (s : State) : Host.Outcome State Fault Refusal :=
  .next (runCmd 0x08 c (corOwned 0x08 c (fun s =>
    let lane := c.argF 0 9 0
    if (s.tileCor lane).rayCopy.isSome then answer 0x08 c BUSY s
    else withSrc 0x08 c (fun ws s => s.setTileCor lane { s.tileCor lane with rayCopy := some (refOf 0x08 c, ws, c.src.len) }) s)) s)

/-- RAYMAP_CHECK_DONE: the copied block is refused, or staged (R192, R193). -/
def execRaymapCheckDone (lane : Fin 1024) (s : State) : Host.Outcome State Fault Refusal :=
  let k := lane.val
  .next (if !runs 0x148 s then s else
    match (s.tileCor k).rayCopy with
    | none => s
    | some (ref, ws, len) =>
      let r := rmReason k len ws s
      let x := { s.tileCor k with rayCopy := none }
      if r ≠ 0 then
        s.setTileCor k x |> setF COR_RMREJ_REASON r |> setF COR_RMREJ_LANE k |> countF COR_RMREJ_CNT |> raise 0x148 2
          |> complete true ref BAD_ARGUMENT r 0 0
      else s.setTileCor k { x with rayStaged := some (parseRayMap ws) } |> complete true ref DONE 0 0 0 |> takeIfIdle k)

/-- A ray map bank fails against the panel map now in force (R194). -/
def bankFails (lane : Nat) (m : Option RayMap) (s : State) : Bool :=
  match m with
  | none => false
  | some m => decide (rmMismatch lane m.hdr0 m.hdr1 s ≠ 0)

/-- A panel map has been accepted in place of `old` (R194). -/
def corRemap (old : PanelMap) (s : State) : State :=
  each (corLanes s) (fun k t =>
    let x := t.tileCor k
    let a := bankFails k x.rayMap t
    let b := bankFails k x.rayStaged t
    let o := FMap.get {} old.tiles k
    let n := tileRec k t
    let changed := decide (o.valid ≠ n.valid) || decide (o.hwM1 ≠ n.hwM1) || decide (o.hhM1 ≠ n.hhM1) || decide (o.code12 ≠ n.code12) ||
      decide (o.bonded ≠ n.bonded) || decide (old.aM1 ≠ t.panel.map.aM1) || decide (old.bM1 ≠ t.panel.map.bM1)
    let x := { x with rayMap := if a then none else x.rayMap, rayOld := x.rayOld.map (fun m => if bankFails k m t then none else m), rayStaged := if b then none else x.rayStaged }
    let x := if changed then { x with gain := none, gainStaged := none, counters := [], due := [], ready := [] } else x
    t.setTileCor k x |> ifS a (setLaneBit COR_RMVALID k false) |> ifS changed (setLaneBit COR_GVALID k false)
      |> ifS (a || b) (raise 0x148 4)) s

/-! ## Gain maps (R195, R196, R202, R203) -/

/-- The derivation that runs covers this lane (R196). -/
def deriving_ (lane : Nat) (s : State) : Bool :=
  match s.cor.derive with
  | some d => d.maps.any (fun m => decide (m.1 = lane))
  | none => false

/-- A gain map is staged (R196). -/
def stageGain (lane : Nat) (g : List Word) (s : State) : State :=
  s.setTileCor lane { s.tileCor lane with gainStaged := some g } |> takeIfIdle lane

/-- GAIN_LOAD (R196). -/
def execGainLoad (c : Cmd) (s : State) : Host.Outcome State Fault Refusal :=
  .next (runCmd 0x09 c (corOwned 0x09 c (fun s =>
    let lane := c.argF 0 9 0
    if !tileValid lane s ∨ c.src.len ≠ 4 * tileRays lane s then answer 0x09 c BAD_ARGUMENT s
    else if deriving_ lane s then answer 0x09 c BUSY s
    else withSrc 0x09 c (fun ws s =>
      if ws.any (fun w => decide (w.toNat / 2 ^ 30 ≠ 0)) then answer 0x09 c BAD_ARGUMENT s
      else s |> stageGain lane ws |> answer 0x09 c DONE) s)) s)

/-- AC[i] (R203); with no curve loaded every value is 0x8000 (log 25). -/
def ageing (s : State) (i : Nat) : Nat := if s.cor.curve.isEmpty then 0x8000 else nth s.cor.curve i

/-- The derived gain of one subpixel: its code, and whether it was limited or dead (R202). -/
def deriveGain (e ac h : Nat) : Nat × Bool × Bool :=
  let ep := (rnd ((e * ac : Nat) : Int) 9).toNat
  if ep = 0 then (0x200, false, true)
  else
    let g := ((1024 - h) * 2 ^ 15 / ep + 1) / 2
    if 0x200 < g then (0x200, true, false) else (g, false, false)

/-- Row `r` of a lane's counters; an unlisted row is all zero (R197). -/
def counterRow (lane r : Nat) (s : State) : CounterRow := FMap.get ⟨[], 0⟩ (s.tileCor lane).counters r

/-- Sets row `r` of a lane's counters. -/
def setCounterRow (lane r : Nat) (v : CounterRow) (s : State) : State :=
  s.setTileCor lane { s.tileCor lane with counters := FMap.set ⟨[], 0⟩ (s.tileCor lane).counters r v }

/-- The derived map of a tile: its words, and how many subpixels were limited and dead (R202). -/
def deriveTile (lane : Nat) (es : List Word) (s : State) : List Word × Nat × Nat :=
  let h := getF COR_HEAD_HEADROOM s
  let rw_ := tileRW lane s
  let one (i ch : Nat) (e : Nat) : Nat × Bool × Bool :=
    deriveGain e (ageing s (nth (counterRow lane (i / rw_) s).counts (3 * (i % rw_) + ch) / 256)) h
  let l := es.zipIdx.map (fun w => [one w.2 0 (bitsOf w.1.toNat 29 20), one w.2 1 (bitsOf w.1.toNat 19 10), one w.2 2 (bitsOf w.1.toNat 9 0)])
  (l.map (fun x => Word.ofNat ((x.map (fun g => g.1)).foldl (fun n g => 1024 * n + g) 0)),
    (l.map (fun x => (x.filter (fun g => g.2.1)).length)).sum, (l.map (fun x => (x.filter (fun g => g.2.2)).length)).sum)

/-- The lanes named by the first `t` words of a source. -/
def laneWords (t : Nat) (ws : List Word) : List Nat := (ws.take t).map BitVec.toNat

/-- The efficiency maps that follow the lane words, tile by tile (R202). -/
def splitMaps (s : State) : List Nat → List Word → List (Nat × List Word)
  | [], _ => []
  | k :: r, ws => (k, ws.take (tileRays k s)) :: splitMaps s r (ws.drop (tileRays k s))

/-- GAIN_DERIVE: counters, curve and headroom are read as the derivation starts (R202). -/
def execGainDerive (c : Cmd) (s : State) : Host.Outcome State Fault Refusal :=
  .next (runCmd 0x0A c (corOwned 0x0A c (fun s =>
    let n := c.arg 0
    if s.cor.derive.isSome then answer 0x0A c BUSY s
    else if c.src.len < 4 * n then answer 0x0A c BAD_ARGUMENT s
    else withSrc 0x0A c (fun ws s =>
      let lanes := laneWords n ws
      if lanes.any (fun k => !tileValid k s) ∨ c.src.len ≠ 4 * (n + (lanes.map (fun k => tileRays k s)).sum) then answer 0x0A c BAD_ARGUMENT s
      else
        let l := (splitMaps s lanes (ws.drop n)).map (fun m => (m.1, deriveTile m.1 m.2 s))
        { s with cor := { s.cor with derive := some { cmd := refOf 0x0A c, maps := l.map (fun m => (m.1, m.2.1))
                                                      limited := (l.map (fun m => m.2.2.1)).sum, dead := (l.map (fun m => m.2.2.2)).sum } } }
          |> setB COR_XSTAT_DERIVE_BUSY true) s)) s)

/-- GAIN_DERIVE_DONE: every named tile that is still on its lane is staged at once (R196, R202). -/
def execGainDeriveDone (s : State) : Host.Outcome State Fault Refusal :=
  .next (if !runs 0x148 s then s else
    match s.cor.derive with
    | none => s
    | some d =>
      let s := { s with cor := { s.cor with derive := none } } |> setB COR_XSTAT_DERIVE_BUSY false
        |> setF COR_GAIN_HR d.limited |> setF COR_GAIN_DEAD d.dead
      let s := each (d.maps.filter (fun m => tileValid m.1 s && decide (m.2.length = tileRays m.1 s))) (fun m => stageGain m.1 m.2) s
      s |> ifS (decide (d.limited ≠ 0)) (raise 0x148 10) |> complete true d.cmd DONE 0 0 0)

/-- The entries of a table never increase. -/
def nonIncreasing : List Nat → Bool
  | a :: b :: r => decide (b ≤ a) && nonIncreasing (b :: r)
  | _ => true

/-- AGEING_CURVE_LOAD (R203). -/
def execAgeingCurveLoad (c : Cmd) (s : State) : Host.Outcome State Fault Refusal :=
  .next (runCmd 0x0B c (corOwned 0x0B c (withLen 0x0B c 512 (fun ws s =>
    let l := ws.flatMap (fun w => [w.toNat % 65536, w.toNat / 65536])
    if nth l 0 ≠ 0x8000 ∨ nonIncreasing l = false then answer 0x0B c BAD_ARGUMENT s
    else if s.cor.derive.isSome then answer 0x0B c BUSY s
    else { s with cor := { s.cor with curve := l } } |> answer 0x0B c DONE))) s)

/-! ## Stress counters (R197–R200) -/

/-- The largest p in [lo, lo + 2^n) for which `ok` holds, given that it holds at lo and falls once. -/
def searchUp (ok : Nat → Bool) : Nat → Nat → Nat
  | 0, lo => lo
  | n + 1, lo => if ok (lo + 2 ^ n) then searchUp ok n (lo + 2 ^ n) else searchUp ok n lo

/-- P[i] = rnd(65,535·(i / 1,023)^EXP), EXP = `e` / 256 (R200): the largest p with p − 1/2 ≤ 65,535·(i / 1,023)^(e/256). -/
def stressP (e i : Nat) : Nat :=
  searchUp (fun p => decide ((2 * p - 1) ^ 256 * 1023 ^ e ≤ 131070 ^ 256 * i ^ e)) 16 0

/-- The increment of one subpixel (R199). -/
def stressDelta (q p addr ch n : Nat) : Nat :=
  let h := Nat.xor ((addr * 3 + ch) % 2 ^ 32) (n * 0x9E3779B9 % 2 ^ 32)
  let h := Nat.xor h (h / 2 ^ 16)
  let h := h * 0x85EBCA6B % 2 ^ 32
  let h := Nat.xor h (h / 2 ^ 13)
  let h := h * 0xC2B2AE35 % 2 ^ 32
  let h := Nat.xor h (h / 2 ^ 16)
  (16 * p + h / 2 ^ (32 - q)) / 2 ^ q

/-- A row's counters after the increments of a due row, and how many counters saturated (R199). -/
def stressRow (lane : Nat) (d : DueRow) (s : State) : CounterRow × Nat :=
  let rw_ := tileRW lane s
  let base := rayBase lane s + d.row * rw_
  let q := getF COR_STR_QSHIFT s
  let e := (s.grp (tileRec lane s).group).latch.strExp
  let old := (counterRow lane d.row s).counts
  let l := (List.range (3 * rw_)).map (fun j =>
    let code := nth d.codes j
    let c := nth old j
    let v := c + stressDelta q (stressP e (if (tileRec lane s).code12 then code / 4 else code)) (base + j / 3) (j % 3) d.frame
    (min v 0xFFFF, decide (c < 0xFFFF) && decide (0xFFFF ≤ v)))
  (⟨l.map (fun x => x.1), Word.ofNat d.frame⟩, (l.filter (fun x => x.2)).length)

/-- The 64-byte lines of a counter row (R197). -/
def counterLines (rw_ : Nat) (r : CounterRow) : List Word :=
  (List.range (ceilDiv rw_ 10)).flatMap (fun k =>
    (List.range 15).map (fun w => Word.ofNat (nth r.counts (30 * k + 2 * w) + 65536 * nth r.counts (30 * k + 2 * w + 1))) ++ [r.upd])

/-- The due rows of a tile whose increments wait for its COMMIT (R198): committed, they are to be applied; otherwise they
are discarded and counted. -/
def settleRows (lane : Nat) (committed : Bool) (s : State) : State :=
  let x := s.tileCor lane
  if x.due.isEmpty then s
  else if committed then s.setTileCor lane { x with due := [], ready := x.ready ++ x.due }
  else each x.due (fun _ => countF COR_STR_SKIP) (s.setTileCor lane { x with due := [] })

/-- COR_STR_EXP is written: 0 is stored as 1, and the table is made anew (R200, R210). -/
def writeStrExp (v : Nat) (s : State) : State :=
  let e := max 1 (v % 2048)
  { s with cor := { s.cor with strPending := some e } } |> setF COR_STR_EXP_EXP e

/-- COR_STR_EXP_WRITE (R200). -/
def execCorStrExpWrite (who : Who) (v : Word) (s : State) : Host.Outcome State Fault Refusal :=
  .next (guardWrite who 0x148 COR_STR_EXP_EXP.addr (mayWrite who 0x148 s) (writeStrExp v.toNat) s)

/-- STRESS_TABLE_REGEN_DONE: the new table is used from the first FL on (R200). -/
def execStressTableRegenDone (s : State) : Host.Outcome State Fault Refusal :=
  .next (match s.cor.strPending with
    | some e => { s with cor := { s.cor with strReady := e, strPending := none } }
    | none => s)

/-! ## Export sections (R205, R206) -/

/-- An original cut into blocks, compressed. -/
def blocksOf (n : Nat) (ws : List Word) : List (List Byte × List Byte) :=
  (chunks n (ws.length + 1) ws).map (fun b => (wordsBytes b, sluCompress (wordsBytes b)))

/-- An export section of a tile: header, blocks, trailer (R205). -/
def sectionBytes (kind lane rw_ rh frame qshift : Nat) (blocks : List (List Byte)) : List Byte :=
  let h := [Word.ofNat (kind * 2 ^ 24 + 2 ^ 16 + lane), Word.ofNat ((rw_ - 1) * 65536 + (rh - 1)), Word.ofNat blocks.length,
    Word.ofNat frame, Word.ofNat qshift, 0, 0]
  let body := wordsBytes (h ++ [crcWords h]) ++ blocks.flatten
  body ++ wordsBytes [Word.ofNat blocks.length, crcWords (bytesWords body)]

/-- Bytes of an export go to its destination as far as it reaches (log 27). -/
def exportWrite (c : Cmd) (pos : Nat) (b : List Byte) (s : State) : State :=
  if c.dst.space = 0 then s else memWrite (opSpace c c.dst s) (c.dst.addr + pos) (b.take (c.dst.len - pos)) s

/-- EXPORT_BUSY shows whether an export runs (R210). -/
def showExports (s : State) : State := setB COR_XSTAT_EXPORT_BUSY (!s.cor.exports.isEmpty) s

/-- The tile takes part in the frames of its group, so that its rows are updated in turn (R157, R206): the frame in hand of a group
that stops counts too (R140). -/
def tileRuns (lane : Nat) (s : State) : Bool :=
  (s.grp (tileRec lane s).group).parts.contains lane

/-- The row images of a lane in row order, as Sluice blocks (R197, R205). -/
def counterBlocks (lane : Nat) (rows : FMap (Option CounterRow)) (s : State) : List (List Byte × List Byte) :=
  (List.range (tileRH lane s)).flatMap (fun r =>
    blocksOf (16 * 1024) (counterLines (tileRW lane s) ((FMap.get none rows (65536 * lane + r)).getD ⟨[], 0⟩)))

/-- The sections of an export whose rows are all there are written, in the command's order; at the last trailer the
command completes (R206). `fuel` bounds the lanes. -/
def advanceExport : Nat → Export → State → Option Export × State
  | 0, x, s => (some x, s)
  | fuel + 1, x, s =>
    match x.lanes with
    | [] => (none, if dstBad x.cmd s then abortOperand 0x0C x.cmd s
        else s |> raise 0x148 6 |> finish 0x0C x.cmd DONE 0 (min x.pos x.cmd.dst.len) 0)
    | (k, frame) :: r =>
      if x.todo.any (fun t => decide (t.1 = k)) then (some x, s)
      else if x.cmd.dst.space = 0 then advanceExport fuel { x with lanes := r } s
      else
        let b := counterBlocks k x.rows s
        let out := sectionBytes 1 k (tileRW k s) (tileRH k s) frame (getF COR_STR_QSHIFT s) (b.map (fun e => e.2))
        let s := s |> countDecoded (b.map (fun e => e.1.length)).sum
          |> countCompressed (b.map (fun e => e.1.length)).sum (b.map (fun e => e.2.length)).sum (b.filter (fun e => (sluPayload e.1).1)).length
          |> exportWrite x.cmd x.pos out
        advanceExport fuel { x with lanes := r, pos := x.pos + out.length } s

/-- Every export goes as far as its rows allow. -/
def advanceExports (s : State) : State :=
  let l := s.cor.exports
  let s := { s with cor := { s.cor with exports := [] } }
  let s := l.foldl (fun t x =>
    let r := advanceExport (x.lanes.length + 1) x t
    match r.1 with
    | some y => { r.2 with cor := { r.2.cor with exports := r.2.cor.exports ++ [y] } }
    | none => r.2) s
  showExports s

/-- The exports that wait for row `r` of a lane take it, and a clearing one sets it to zero (R206). -/
def exportRow (lane r : Nat) (s : State) : State :=
  let v := counterRow lane r s
  let hit (x : Export) : Bool := x.todo.contains (lane, r)
  let clear := s.cor.exports.any (fun x => hit x && x.clear)
  let take (x : Export) : Export := if hit x then
      { x with todo := x.todo.filter (fun t => decide (t ≠ (lane, r))), rows := FMap.set none x.rows (65536 * lane + r) (some v) }
    else x
  let s := { s with cor := { s.cor with exports := s.cor.exports.map take } }
  ifS clear (setCounterRow lane r ⟨[], v.upd⟩) s

/-- A row's counters are lost and set to 0 (R208). -/
def zeroRow (lane row : Nat) (upd : Word) (s : State) : State :=
  s |> setCounterRow lane row ⟨[], upd⟩ |> setF COR_LOST_ROW row |> setF COR_LOST_LANE lane |> raise 0x148 11

/-- The stored block of a row has failed in the decoder: its counters are 0, and the loss is reported (R208). The decoder's code
is open (log 3). -/
def loseRow (lane row : Nat) (upd : Word) (s : State) : State :=
  let f := fresh 2 s
  f.2 |> zeroRow lane row upd |> decodeFailed (1 + f.1) 0 true 0

/-- A row of a tile that takes no part in frames is exported at once, or lost first (R206, R208). The UPD of a lost row is a
free value (log 55). -/
def exportNow (lost : Bool) (lane row : Nat) (s : State) : State :=
  let f := fresh 32 s
  exportRow lane row (if lost then loseRow lane row (Word.ofNat f.1) f.2 else s)

/-- The rows that exports wait for, of tiles that take no part in frames any more, are exported at once (R206). Whether the stored
block of such a row fails in the decoder (R208) is a free value (log 55). -/
def exportStill (s : State) : State :=
  let l := (s.cor.exports.flatMap (fun x => x.todo)).filter (fun t => !tileRuns t.1 s)
  ifS (!l.isEmpty) (fun s => each l (fun t u => exportNow (decide ((fresh 1 u).1 = 1)) t.1 t.2 (fresh 1 u).2) s |> advanceExports) s

/-- COUNTER_EXPORT (R206); `lost` names the rows whose stored block fails as they are exported at once (R208). -/
def counterExportBody (c : Cmd) (lost : List (Nat × Nat)) (s : State) : State :=
  corOwned 0x0C c (withLen 0x0C c (4 * c.arg 0) (fun ws s =>
    let lanes := (laneWords (c.arg 0) ws).eraseDups
    if lanes.any (fun k => !tileValid k s) then answer 0x0C c BAD_ARGUMENT s
    else
      let todo := lanes.flatMap (fun k => (List.range (tileRH k s)).map (fun r => (k, r)))
      let x : Export := { cmd := c, clear := decide (c.argF 1 0 0 = 1), covers := lanes
                          lanes := lanes.map (fun k => (k, (s.grp (tileRec k s).group).idx % 2 ^ 32)), todo := todo, pos := 0 }
      let s := { s with cor := { s.cor with exports := s.cor.exports ++ [x] } }
      each (todo.filter (fun t => !tileRuns t.1 s)) (fun t => exportNow (lost.contains t) t.1 t.2) s |> advanceExports)) s

/-- COUNTER_EXPORT (R206). -/
def execCounterExport (c : Cmd) (lost : List (Nat × Nat)) (s : State) : Host.Outcome State Fault Refusal :=
  .next (runCmd 0x0C c (counterExportBody c lost) s)

/-- STRESS_ROW_UPDATE: the increments of a committed row are applied, or the row is lost, and an export takes it (R198,
R199, R206, R208). -/
def execStressRowUpdate (lane : Fin 1024) (row : Nat) (intact : Bool) (s : State) : Host.Outcome State Fault Refusal :=
  let k := lane.val
  .next (if !runs 0x148 s then s else
    match (s.tileCor k).ready.find? (fun d => decide (d.row = row)) with
    | none => s
    | some d =>
      let s := s.setTileCor k { s.tileCor k with ready := dropFirst (fun e => decide (e = d)) (s.tileCor k).ready }
      let n := 64 * ceilDiv (tileRW k s) 10
      let s := if intact then
          let r := stressRow k d s
          let b := blocksOf (16 * 1024) (counterLines (tileRW k s) r.1)
          let s := s |> setCounterRow k row r.1 |> countDecoded n
            |> countCompressed n (b.map (fun e => e.2.length)).sum (b.filter (fun e => (sluPayload e.1).1)).length
          each (List.range r.2) (fun _ t => t |> countF COR_STR_SAT |> raise 0x148 5) s
        else loseRow k row (Word.ofNat d.frame) s
      s |> exportRow k row |> advanceExports)

/-- The bank in force of a tile, unity where there is none (R195, R206). -/
def gainWords (lane : Nat) (s : State) : List Word :=
  match (s.tileCor lane).gain with
  | some g => g.zipIdx.map (fun e => Word.ofNat (corRead 2 lane e.2 e.1.toNat s))
  | none => List.replicate (tileRays lane s) (Word.ofNat (0x200 * (2 ^ 20 + 2 ^ 10 + 1)))

/-- GAIN_EXPORT: the bank in force of each named tile, in blocks of at most 16,384 words, each row starting one (R205,
R206). -/
def gainExportBody (c : Cmd) (s : State) : State :=
  corOwned 0x0D c (withLen 0x0D c (4 * c.arg 0) (fun ws s =>
    let lanes := laneWords (c.arg 0) ws
    if lanes.any (fun k => !tileValid k s) then answer 0x0D c BAD_ARGUMENT s
    else if dstBad c s then abortOperand 0x0D c s
    else
      let out := lanes.map (fun k =>
        let b := (chunks (tileRW k s) (tileRays k s + 1) (gainWords k s)).flatMap (blocksOf 16384)
        (b, sectionBytes 2 k (tileRW k s) (tileRH k s) 0 0 (b.map (fun e => e.2))))
      let b := out.flatMap (fun e => e.1)
      let bytes := out.flatMap (fun e => e.2)
      s |> countCompressed (b.map (fun e => e.1.length)).sum (b.map (fun e => e.2.length)).sum (b.filter (fun e => (sluPayload e.1).1)).length
        |> exportWrite c 0 bytes |> finish 0x0D c DONE 0 (min bytes.length c.dst.len) 0)) s

/-- GAIN_EXPORT (R206). -/
def execGainExport (c : Cmd) (s : State) : Host.Outcome State Fault Refusal :=
  .next (runCmd 0x0D c (gainExportBody c) s)

/-! ## Import (R207, R208) -/

/-- `n` blocks at the head of `b`: their outputs, or the code of the first failure; and what follows them, by their stored
lengths, where they can be passed over. -/
def takeBlocks : Nat → List Byte → Slu (List Byte) × Option (List Byte)
  | 0, b => (.ok [], some b)
  | n + 1, b =>
    let len := 12 + 4 * ceilDiv (wordAt (bytesWords (b.take 12)) 1 % 2 ^ 17) 4
    if b.length < len then (.error 3, none)
    else
      let r := takeBlocks n (b.drop len)
      match sluTake b, r.1 with
      | .error e, _ => (.error e, r.2)
      | .ok _, .error e => (.error e, r.2)
      | .ok o, .ok q => (.ok (o.1 ++ q), r.2)

/-- A section as it is judged (R207): its reason, 0 when it passes; the decoder's code where that fails; its lane and
decoded bytes; and the bytes after it, none where the end of the section cannot be found. -/
structure SectionIn where
  reason : Nat
  code : Nat
  lane : Nat
  data : List Byte
  rest : Option (List Byte)

/-- Judges the section at the head of `b` (R207): the checks in the order of the reasons of COR_XREJ. -/
def judgeSection (kind : Nat) (b : List Byte) (s : State) : SectionIn :=
  let h := bytesWords (b.take 32)
  let lane := fieldAt h 0 9 0
  let n := wordAt h 2
  if b.length < 32 ∨ crcWords (h.take 7) ≠ h.getD 7 0 then ⟨1, 0, lane, [], none⟩
  else
    let r := takeBlocks n (b.drop 32)
    match r.2 with
    | none => ⟨2, 3, lane, [], none⟩
    | some rest =>
      let tr := bytesWords (rest.take 8)
      let after := if rest.length < 8 then none else some (rest.drop 8)
      let body := b.take (b.length - rest.length)
      if rest.length < 8 ∨ wordAt tr 0 ≠ n ∨ crcWords (bytesWords body) ≠ tr.getD 1 0 then ⟨1, 0, lane, [], after⟩
      else match r.1 with
        | .error e => ⟨2, e, lane, [], after⟩
        | .ok d =>
          let size := if kind = 1 then 64 * ceilDiv (tileRW lane s) 10 * tileRH lane s else 4 * tileRays lane s
          if fieldAt h 0 31 24 ≠ kind then ⟨3, 0, lane, [], after⟩
          else if !tileValid lane s ∨ fieldAt h 1 31 16 + 1 ≠ tileRW lane s ∨ fieldAt h 1 15 0 + 1 ≠ tileRH lane s ∨ d.length ≠ size then
            ⟨4, 0, lane, [], after⟩
          else if kind = 1 ∧ fieldAt h 4 4 0 ≠ getF COR_STR_QSHIFT s then ⟨5, 0, lane, [], after⟩
          else ⟨0, 0, lane, d, after⟩

/-- The sections of a source, judged one after another; `fuel` bounds them. -/
def judgeAll (kind : Nat) (s : State) : Nat → List Byte → List SectionIn
  | 0, _ => []
  | fuel + 1, b =>
    if b.isEmpty then [] else
    let x := judgeSection kind b s
    match x.rest with
    | none => [x]
    | some r => x :: judgeAll kind s fuel r

/-- A refused section (R207). -/
def rejectSection (x : SectionIn) (s : State) : State :=
  s |> setF COR_XREJ_REASON x.reason |> setF COR_XREJ_LANE x.lane
    |> ifS (decide (x.reason = 2)) (decodeFailed x.code 0 true 0) |> raise 0x148 8

/-- The counters of a row image (R197). -/
def imageCounts (rw_ : Nat) (ws : List Word) : CounterRow :=
  let lines := chunks 16 (ws.length + 1) ws
  ⟨(lines.flatMap (fun l => (l.take 15).flatMap (fun w => [w.toNat % 65536, w.toNat / 65536]))).take (3 * rw_),
    (lines.head?.getD []).getD 15 0⟩

/-- A counter section is applied whole (R207). DESIGN CHOICE (log 71): with REPLACE every line of a row takes the UPD of the
image's first line, with ADD it keeps its own; and a counter that an ADD saturates counts in no COR_STR_SAT and raises no
STRESS_SATURATED, which R199 gives for the increments of an update. -/
def applyCounters (add : Bool) (lane : Nat) (d : List Byte) (s : State) : State :=
  let rw_ := tileRW lane s
  let rows := chunks (16 * ceilDiv rw_ 10) (d.length + 1) (bytesWords d)
  each rows.zipIdx (fun e t =>
    let new := imageCounts rw_ e.1
    let old := counterRow lane e.2 t
    setCounterRow lane e.2 (if add then
      ⟨(List.range (3 * rw_)).map (fun j => min 0xFFFF (nth old.counts j + nth new.counts j)), old.upd⟩ else new) t) s

/-- COUNTER_IMPORT and GAIN_IMPORT (R207, R208): each section on its own; the command is done within the step, so that
IMPORT_BUSY is never seen set (log 28). -/
def importSections (op kind : Nat) (c : Cmd) (apply : SectionIn → State → State) (s : State) : State :=
  if srcBad c s then abortOperand op c s else
  let l := judgeAll kind s (c.src.len + 1) (srcBytes c s)
  let busy (x : SectionIn) : Bool := s.cor.exports.any (fun e => e.covers.contains x.lane) || (decide (kind = 2) && deriving_ x.lane s)
  if l.any busy then answer op c BUSY s
  else
    let s := each l (fun x => if x.reason = 0 then apply x else rejectSection x) s
    let n := (l.filter (fun x => decide (x.reason ≠ 0))).length
    s |> countDecoded (l.map (fun x => x.data.length)).sum |> raise 0x148 7
      |> finish op c (if n = 0 then DONE else BAD_ARGUMENT) (if n = 0 then 0 else getF COR_XREJ_REASON s) n 0

/-- COUNTER_IMPORT (R207). -/
def counterImportBody (c : Cmd) (s : State) : State :=
  corOwned 0x0E c (importSections 0x0E 1 c (fun x => applyCounters (decide (c.argF 0 0 0 = 1)) x.lane x.data)) s

/-- COUNTER_IMPORT (R207). -/
def execCounterImport (c : Cmd) (s : State) : Host.Outcome State Fault Refusal :=
  .next (runCmd 0x0E c (counterImportBody c) s)

/-- GAIN_IMPORT (R207). -/
def gainImportBody (c : Cmd) (s : State) : State :=
  corOwned 0x0F c (importSections 0x0F 2 c (fun x => stageGain x.lane (bytesWords x.data))) s

/-- GAIN_IMPORT (R207). -/
def execGainImport (c : Cmd) (s : State) : Host.Outcome State Fault Refusal :=
  .next (runCmd 0x0F c (gainImportBody c) s)

/-! ## The host commands of the Sluice engine in one cycle (R431) -/

/-- The opcode of a host command of the engine. -/
def slcOpcode (r : SlcReq) : Nat :=
  match r.op with
  | .compress => 0x48
  | .flush => 0x49
  | .decompress => 0x4A
  | .counterExport _ => 0x0C
  | .gainExport => 0x0D
  | .counterImport => 0x0E
  | .gainImport => 0x0F

/-- One host command is judged and joins the engine. -/
def slcServe (r : SlcReq) (s : State) : State :=
  match r.op with
  | .compress => slcCompressOne r.cmd s
  | .flush => slcFlushOne r.cmd s
  | .decompress => slcDecompressOne r.cmd s
  | .counterExport lost => counterExportBody r.cmd lost s
  | .gainExport => gainExportBody r.cmd s
  | .counterImport => counterImportBody r.cmd s
  | .gainImport => gainImportBody r.cmd s

/-- The host commands of one cycle, in the order of the tie rule, those of one partition in ring order (R431, R435). -/
def slcCycle (rs : List SlcReq) (s : State) : State :=
  runReqs slcOpcode SlcReq.cmd rs (fun go s =>
    serveInOrder SLC_TIE_PTR 8 (fun r => isFw r.cmd.who) (fun r => r.cmd.idx) go slcServe s) s

/-- SLC_COMPRESS (R432), with the other host commands of its cycle. -/
def execSlcCompress (c : Cmd) (also : List SlcReq) (s : State) : Host.Outcome State Fault Refusal :=
  .next (slcCycle (⟨.compress, c⟩ :: also) s)

/-- SLC_FLUSH (R432), with the other host commands of its cycle. -/
def execSlcFlush (c : Cmd) (also : List SlcReq) (s : State) : Host.Outcome State Fault Refusal :=
  .next (slcCycle (⟨.flush, c⟩ :: also) s)

/-- SLC_DECOMPRESS (R434), with the other host commands of its cycle. -/
def execSlcDecompress (c : Cmd) (also : List SlcReq) (s : State) : Host.Outcome State Fault Refusal :=
  .next (slcCycle (⟨.decompress, c⟩ :: also) s)

/-- The page goes OFF or FAULT, or the device sleeps: what runs completes with ABORTED (R208). -/
def corAbort (s : State) : State :=
  let copies := s.cor.tiles.filterMap (fun e => e.2.rayCopy.map (fun r => (e.1, r.1)))
  let s := each copies (fun e t => t.setTileCor e.1 { t.tileCor e.1 with rayCopy := none } |> complete true e.2 ABORTED 0 0 0) s
  let d := s.cor.derive
  let x := s.cor.exports
  let s := { s with cor := { s.cor with derive := none, exports := [] } } |> setB COR_XSTAT_DERIVE_BUSY false |> showExports
  let s := match d with | some d => complete true d.cmd ABORTED 0 0 0 s | none => s
  each x (fun e => answer 0x0C e.cmd ABORTED) s

/-- Maps and counters are lost (R208): tiles use the default map, unity gain and zero counters. -/
def corLose (s : State) : State :=
  let s := { s with cor := { s.cor with tiles := [] } }
  each (List.range 32) (fun w t => t |> setF (COR_RMVALID w) 0 |> setF (COR_GVALID w) 0) s

end Sys2Proof.Machine
end

