-- ==== Sys2Proof/Machine/FixedLuts.lean ====
section
/-!
DEFINITION. The fixed transfer LUT slots 0–3 (R70). BT1886 and LINEAR are computed; the entries of PQ and HLG are the
values of the formulas of SMPTE ST 2084 and ITU-R BT.2100, which R70 names (log 29).
-/

namespace Sys2Proof.Machine

/-- Entry i of slot 0: the nearest integer to 65,536·(i / 1,023)^2.4, the largest y with y − 1/2 at or below it (R70). -/
def bt1886 (i : Nat) : Nat := searchUp (fun y => decide ((2 * y - 1) ^ 5 * 1023 ^ 12 ≤ 131072 ^ 5 * i ^ 12)) 17 0

/-- Entry i of slot 3: the nearest integer to 65,536·i / 1,023 (R70). -/
def linearLut (i : Nat) : Nat := (131072 * i + 1023) / 2046

/-- Entries 0 to 127 of slot 1, PQ. -/
def pqPart0 : List Nat := [
  0, 0, 0, 0, 0, 0, 0, 0, 0, 1, 1, 1, 1, 1, 1, 2,
  2, 2, 2, 2, 3, 3, 3, 4, 4, 4, 5, 5, 5, 6, 6, 7,
  7, 7, 8, 8, 9, 9, 10, 11, 11, 12, 12, 13, 14, 15, 15, 16,
  17, 18, 18, 19, 20, 21, 22, 23, 24, 25, 26, 27, 28, 29, 30, 31] ++ [
  33, 34, 35, 36, 38, 39, 40, 42, 43, 45, 46, 48, 49, 51, 53, 54,
  56, 58, 59, 61, 63, 65, 67, 69, 71, 73, 75, 77, 80, 82, 84, 86,
  89, 91, 94, 96, 99, 101, 104, 107, 109, 112, 115, 118, 121, 124, 127, 130,
  133, 137, 140, 143, 147, 150, 154, 157, 161, 165, 168, 172, 176, 180, 184, 188]

/-- Entries 128 to 255 of slot 1, PQ. -/
def pqPart1 : List Nat := [
  192, 196, 201, 205, 210, 214, 219, 223, 228, 233, 238, 243, 248, 253, 258, 263,
  269, 274, 279, 285, 291, 296, 302, 308, 314, 320, 327, 333, 339, 346, 352, 359,
  366, 373, 380, 387, 394, 401, 408, 416, 423, 431, 439, 447, 455, 463, 471, 480,
  488, 497, 505, 514, 523, 532, 541, 551, 560, 569, 579, 589, 599, 609, 619, 630] ++ [
  640, 651, 661, 672, 683, 694, 706, 717, 729, 741, 753, 765, 777, 789, 802, 814,
  827, 840, 854, 867, 880, 894, 908, 922, 936, 951, 965, 980, 995, 1010, 1025, 1041,
  1056, 1072, 1088, 1104, 1121, 1138, 1154, 1171, 1189, 1206, 1224, 1242, 1260, 1278, 1297, 1315,
  1334, 1353, 1373, 1392, 1412, 1432, 1453, 1473, 1494, 1515, 1537, 1558, 1580, 1602, 1624, 1647]

/-- Entries 256 to 383 of slot 1, PQ. -/
def pqPart2 : List Nat := [
  1670, 1693, 1716, 1740, 1764, 1788, 1812, 1837, 1862, 1887, 1913, 1939, 1965, 1991, 2018, 2045,
  2072, 2100, 2128, 2156, 2185, 2214, 2243, 2272, 2302, 2333, 2363, 2394, 2425, 2457, 2489, 2521,
  2554, 2586, 2620, 2653, 2688, 2722, 2757, 2792, 2827, 2863, 2900, 2936, 2974, 3011, 3049, 3087,
  3126, 3165, 3205, 3245, 3285, 3326, 3367, 3409, 3451, 3494, 3537, 3580, 3624, 3669, 3714, 3759] ++ [
  3805, 3851, 3898, 3945, 3993, 4041, 4090, 4139, 4189, 4240, 4290, 4342, 4394, 4446, 4499, 4553,
  4607, 4662, 4717, 4773, 4829, 4886, 4943, 5002, 5060, 5120, 5179, 5240, 5301, 5363, 5425, 5488,
  5552, 5616, 5681, 5747, 5813, 5880, 5948, 6016, 6085, 6155, 6225, 6296, 6368, 6440, 6514, 6588,
  6662, 6738, 6814, 6891, 6969, 7047, 7127, 7207, 7288, 7369, 7452, 7535, 7619, 7704, 7790, 7877]

/-- Entries 384 to 511 of slot 1, PQ. -/
def pqPart3 : List Nat := [
  7964, 8052, 8142, 8232, 8323, 8415, 8508, 8601, 8696, 8791, 8888, 8985, 9084, 9183, 9283, 9385,
  9487, 9590, 9694, 9800, 9906, 10013, 10122, 10231, 10341, 10453, 10566, 10679, 10794, 10910, 11027, 11145,
  11264, 11385, 11506, 11629, 11753, 11878, 12005, 12132, 12261, 12391, 12522, 12655, 12788, 12923, 13060, 13197,
  13336, 13476, 13618, 13761, 13905, 14051, 14198, 14346, 14496, 14647, 14800, 14954, 15110, 15267, 15425, 15585] ++ [
  15747, 15910, 16074, 16240, 16408, 16577, 16748, 16921, 17095, 17270, 17448, 17627, 17808, 17990, 18174, 18360,
  18547, 18737, 18928, 19121, 19315, 19512, 19710, 19910, 20112, 20316, 20522, 20730, 20939, 21151, 21364, 21580,
  21798, 22017, 22239, 22462, 22688, 22916, 23146, 23378, 23612, 23848, 24087, 24327, 24570, 24815, 25063, 25313,
  25565, 25819, 26076, 26335, 26596, 26860, 27126, 27395, 27666, 27940, 28216, 28494, 28776, 29059, 29346, 29635]

/-- Entries 512 to 639 of slot 1, PQ. -/
def pqPart4 : List Nat := [
  29927, 30221, 30518, 30818, 31120, 31425, 31733, 32044, 32358, 32675, 32994, 33316, 33642, 33970, 34301, 34635,
  34973, 35313, 35656, 36003, 36353, 36706, 37062, 37421, 37784, 38150, 38519, 38891, 39267, 39647, 40029, 40416,
  40805, 41199, 41595, 41996, 42400, 42808, 43219, 43634, 44053, 44476, 44902, 45332, 45766, 46205, 46647, 47093,
  47543, 47997, 48455, 48917, 49384, 49855, 50330, 50809, 51292, 51780, 52272, 52769, 53270, 53776, 54286, 54801] ++ [
  55320, 55844, 56373, 56907, 57445, 57988, 58536, 59089, 59647, 60210, 60778, 61351, 61929, 62513, 63101, 63695,
  64294, 64899, 65509, 66124, 66745, 67371, 68003, 68641, 69285, 69934, 70589, 71250, 71916, 72589, 73268, 73953,
  74643, 75340, 76044, 76753, 77469, 78192, 78920, 79656, 80397, 81146, 81901, 82663, 83431, 84207, 84989, 85779,
  86575, 87378, 88189, 89007, 89832, 90665, 91505, 92352, 93207, 94070, 94940, 95818, 96704, 97597, 98499, 99409]

/-- Entries 640 to 767 of slot 1, PQ. -/
def pqPart5 : List Nat := [
  100327, 101253, 102187, 103129, 104080, 105040, 106007, 106984, 107969, 108963, 109966, 110978, 111998, 113028, 114067, 115115,
  116173, 117240, 118316, 119402, 120498, 121603, 122718, 123844, 124979, 126124, 127279, 128445, 129621, 130807, 132004, 133212,
  134430, 135660, 136900, 138151, 139413, 140687, 141971, 143268, 144575, 145895, 147226, 148569, 149924, 151290, 152670, 154061,
  155464, 156881, 158309, 159751, 161205, 162672, 164152, 165646, 167152, 168672, 170206, 171753, 173314, 174889, 176477, 178080] ++ [
  179697, 181329, 182975, 184636, 186311, 188001, 189707, 191427, 193163, 194915, 196681, 198464, 200262, 202077, 203907, 205754,
  207618, 209497, 211394, 213308, 215238, 217186, 219151, 221133, 223134, 225152, 227188, 229242, 231314, 233405, 235514, 237643,
  239790, 241956, 244142, 246347, 248572, 250817, 253081, 255366, 257671, 259997, 262344, 264711, 267100, 269509, 271941, 274394,
  276869, 279366, 281885, 284427, 286992, 289579, 292190, 294824, 297481, 300162, 302867, 305597, 308350, 311129, 313932, 316760]

/-- Entries 768 to 895 of slot 1, PQ. -/
def pqPart6 : List Nat := [
  319614, 322493, 325398, 328328, 331285, 334269, 337279, 340316, 343381, 346473, 349592, 352739, 355915, 359119, 362352, 365614,
  368905, 372226, 375576, 378956, 382367, 385809, 389281, 392784, 396319, 399886, 403485, 407116, 410779, 414476, 418206, 421969,
  425766, 429598, 433464, 437364, 441300, 445271, 449278, 453321, 457400, 461517, 465670, 469861, 474089, 478356, 482661, 487005,
  491388, 495811, 500273, 504776, 509320, 513905, 518531, 523199, 527909, 532661, 537457, 542296, 547179, 552106, 557078, 562094] ++ [
  567157, 572264, 577419, 582620, 587868, 593164, 598507, 603900, 609341, 614831, 620372, 625963, 631604, 637297, 643041, 648838,
  654688, 660591, 666547, 672558, 678623, 684744, 690920, 697153, 703442, 709789, 716194, 722657, 729179, 735761, 742402, 749105,
  755869, 762694, 769582, 776533, 783547, 790626, 797769, 804978, 812253, 819594, 827003, 834480, 842025, 849639, 857323, 865078,
  872904, 880802, 888772, 896816, 904934, 913126, 921393, 929737, 938158, 946656, 955232, 963887, 972622, 981438, 990335, 999314]

/-- Entries 896 to 1023 of slot 1, PQ. -/
def pqPart7 : List Nat := [
  1008376, 1017521, 1026751, 1036066, 1045468, 1048575, 1048575, 1048575, 1048575, 1048575, 1048575, 1048575, 1048575, 1048575, 1048575, 1048575,
  1048575, 1048575, 1048575, 1048575, 1048575, 1048575, 1048575, 1048575, 1048575, 1048575, 1048575, 1048575, 1048575, 1048575, 1048575, 1048575,
  1048575, 1048575, 1048575, 1048575, 1048575, 1048575, 1048575, 1048575, 1048575, 1048575, 1048575, 1048575, 1048575, 1048575, 1048575, 1048575,
  1048575, 1048575, 1048575, 1048575, 1048575, 1048575, 1048575, 1048575, 1048575, 1048575, 1048575, 1048575, 1048575, 1048575, 1048575, 1048575] ++ [
  1048575, 1048575, 1048575, 1048575, 1048575, 1048575, 1048575, 1048575, 1048575, 1048575, 1048575, 1048575, 1048575, 1048575, 1048575, 1048575,
  1048575, 1048575, 1048575, 1048575, 1048575, 1048575, 1048575, 1048575, 1048575, 1048575, 1048575, 1048575, 1048575, 1048575, 1048575, 1048575,
  1048575, 1048575, 1048575, 1048575, 1048575, 1048575, 1048575, 1048575, 1048575, 1048575, 1048575, 1048575, 1048575, 1048575, 1048575, 1048575,
  1048575, 1048575, 1048575, 1048575, 1048575, 1048575, 1048575, 1048575, 1048575, 1048575, 1048575, 1048575, 1048575, 1048575, 1048575, 1048575]

/-- The entries of slot 1, PQ (R70). -/
def pqLut : List Nat := pqPart0 ++ pqPart1 ++ pqPart2 ++ pqPart3 ++ pqPart4 ++ pqPart5 ++ pqPart6 ++ pqPart7

/-- Entries 0 to 127 of slot 2, HLG. -/
def hlgPart0 : List Nat := [
  0, 0, 0, 1, 1, 2, 3, 4, 5, 6, 8, 10, 11, 13, 15, 18,
  20, 23, 26, 28, 32, 35, 38, 42, 45, 49, 53, 57, 62, 66, 71, 76,
  81, 86, 91, 97, 102, 108, 114, 120, 126, 132, 139, 146, 153, 160, 167, 174,
  182, 189, 197, 205, 213, 221, 230, 238, 247, 256, 265, 274, 284, 293, 303, 313] ++ [
  323, 333, 343, 354, 364, 375, 386, 397, 408, 420, 431, 443, 455, 467, 479, 492,
  504, 517, 530, 543, 556, 569, 583, 596, 610, 624, 638, 652, 667, 681, 696, 711,
  726, 741, 757, 772, 788, 804, 820, 836, 852, 869, 885, 902, 919, 936, 953, 971,
  988, 1006, 1024, 1042, 1060, 1078, 1097, 1116, 1134, 1153, 1173, 1192, 1211, 1231, 1251, 1271]

/-- Entries 128 to 255 of slot 2, HLG. -/
def hlgPart1 : List Nat := [
  1291, 1311, 1331, 1352, 1373, 1394, 1415, 1436, 1457, 1479, 1500, 1522, 1544, 1566, 1589, 1611,
  1634, 1656, 1679, 1702, 1726, 1749, 1773, 1796, 1820, 1844, 1868, 1893, 1917, 1942, 1967, 1992,
  2017, 2042, 2068, 2093, 2119, 2145, 2171, 2197, 2224, 2250, 2277, 2304, 2331, 2358, 2385, 2413,
  2440, 2468, 2496, 2524, 2553, 2581, 2610, 2638, 2667, 2696, 2726, 2755, 2784, 2814, 2844, 2874] ++ [
  2904, 2935, 2965, 2996, 3026, 3057, 3089, 3120, 3151, 3183, 3215, 3246, 3279, 3311, 3343, 3376,
  3408, 3441, 3474, 3507, 3541, 3574, 3608, 3642, 3676, 3710, 3744, 3778, 3813, 3848, 3883, 3918,
  3953, 3988, 4024, 4060, 4095, 4131, 4168, 4204, 4240, 4277, 4314, 4351, 4388, 4425, 4462, 4500,
  4538, 4576, 4614, 4652, 4690, 4729, 4768, 4806, 4845, 4885, 4924, 4963, 5003, 5043, 5083, 5123]

/-- Entries 256 to 383 of slot 2, HLG. -/
def hlgPart2 : List Nat := [
  5163, 5203, 5244, 5285, 5326, 5367, 5408, 5449, 5491, 5532, 5574, 5616, 5658, 5701, 5743, 5786,
  5829, 5871, 5915, 5958, 6001, 6045, 6089, 6132, 6176, 6221, 6265, 6310, 6354, 6399, 6444, 6489,
  6534, 6580, 6626, 6671, 6717, 6763, 6810, 6856, 6902, 6949, 6996, 7043, 7090, 7138, 7185, 7233,
  7281, 7329, 7377, 7425, 7474, 7522, 7571, 7620, 7669, 7718, 7768, 7817, 7867, 7917, 7967, 8017] ++ [
  8067, 8118, 8168, 8219, 8270, 8321, 8373, 8424, 8476, 8527, 8579, 8631, 8684, 8736, 8789, 8841,
  8894, 8947, 9000, 9054, 9107, 9161, 9215, 9269, 9323, 9377, 9431, 9486, 9541, 9596, 9651, 9706,
  9761, 9817, 9873, 9928, 9984, 10041, 10097, 10153, 10210, 10267, 10324, 10381, 10438, 10496, 10553, 10611,
  10669, 10727, 10785, 10844, 10902, 10961, 11020, 11079, 11138, 11197, 11257, 11316, 11376, 11436, 11496, 11556]

/-- Entries 384 to 511 of slot 2, HLG. -/
def hlgPart3 : List Nat := [
  11617, 11677, 11738, 11799, 11860, 11921, 11983, 12044, 12106, 12168, 12230, 12292, 12354, 12417, 12479, 12542,
  12605, 12668, 12731, 12795, 12858, 12922, 12986, 13050, 13114, 13179, 13243, 13308, 13373, 13438, 13503, 13568,
  13634, 13699, 13765, 13831, 13897, 13963, 14030, 14096, 14163, 14230, 14297, 14364, 14431, 14499, 14567, 14634,
  14702, 14771, 14839, 14907, 14976, 15045, 15114, 15183, 15252, 15321, 15391, 15461, 15531, 15601, 15671, 15741] ++ [
  15812, 15882, 15953, 16024, 16095, 16167, 16238, 16310, 16381, 16453, 16525, 16598, 16670, 16743, 16815, 16888,
  16961, 17034, 17108, 17181, 17255, 17329, 17403, 17477, 17551, 17626, 17700, 17775, 17850, 17925, 18000, 18076,
  18151, 18227, 18303, 18379, 18455, 18531, 18608, 18684, 18761, 18838, 18915, 18993, 19070, 19148, 19225, 19303,
  19381, 19460, 19538, 19617, 19695, 19774, 19853, 19932, 20012, 20091, 20171, 20251, 20331, 20411, 20491, 20571]

/-- Entries 512 to 639 of slot 2, HLG. -/
def hlgPart4 : List Nat := [
  20652, 20733, 20815, 20897, 20979, 21062, 21145, 21229, 21313, 21398, 21483, 21568, 21654, 21741, 21828, 21915,
  22003, 22092, 22181, 22270, 22360, 22450, 22541, 22633, 22725, 22817, 22910, 23003, 23097, 23192, 23287, 23382,
  23478, 23575, 23672, 23769, 23867, 23966, 24065, 24165, 24265, 24366, 24467, 24569, 24672, 24775, 24879, 24983,
  25088, 25193, 25299, 25405, 25512, 25620, 25728, 25837, 25947, 26057, 26167, 26279, 26391, 26503, 26616, 26730] ++ [
  26844, 26959, 27075, 27191, 27308, 27425, 27544, 27662, 27782, 27902, 28023, 28144, 28266, 28389, 28513, 28637,
  28761, 28887, 29013, 29140, 29267, 29396, 29525, 29654, 29785, 29916, 30048, 30180, 30313, 30447, 30582, 30718,
  30854, 30991, 31128, 31267, 31406, 31546, 31687, 31828, 31971, 32114, 32258, 32402, 32548, 32694, 32841, 32989,
  33137, 33287, 33437, 33588, 33740, 33893, 34047, 34201, 34356, 34513, 34670, 34827, 34986, 35146, 35306, 35468]

/-- Entries 640 to 767 of slot 2, HLG. -/
def hlgPart5 : List Nat := [
  35630, 35793, 35957, 36122, 36288, 36454, 36622, 36791, 36960, 37131, 37302, 37474, 37647, 37822, 37997, 38173,
  38350, 38528, 38707, 38887, 39068, 39250, 39433, 39617, 39802, 39988, 40175, 40363, 40552, 40742, 40933, 41126,
  41319, 41513, 41708, 41905, 42102, 42301, 42501, 42702, 42903, 43106, 43310, 43516, 43722, 43930, 44138, 44348,
  44559, 44771, 44984, 45199, 45414, 45631, 45849, 46068, 46288, 46510, 46733, 46957, 47182, 47408, 47636, 47865] ++ [
  48095, 48327, 48559, 48793, 49029, 49265, 49503, 49742, 49983, 50224, 50468, 50712, 50958, 51205, 51453, 51703,
  51955, 52207, 52461, 52716, 52973, 53231, 53491, 53752, 54015, 54278, 54544, 54811, 55079, 55349, 55620, 55892,
  56167, 56442, 56720, 56998, 57279, 57560, 57844, 58129, 58415, 58703, 58993, 59284, 59577, 59871, 60167, 60465,
  60764, 61065, 61367, 61671, 61977, 62285, 62594, 62905, 63218, 63532, 63848, 64166, 64485, 64807, 65130, 65455]

/-- Entries 768 to 895 of slot 2, HLG. -/
def hlgPart6 : List Nat := [
  65781, 66110, 66440, 66772, 67106, 67441, 67779, 68118, 68459, 68802, 69147, 69494, 69843, 70193, 70546, 70901,
  71257, 71615, 71976, 72338, 72702, 73069, 73437, 73807, 74180, 74554, 74931, 75309, 75690, 76073, 76457, 76844,
  77233, 77624, 78018, 78413, 78811, 79211, 79613, 80017, 80423, 80832, 81243, 81656, 82071, 82489, 82909, 83331,
  83756, 84183, 84612, 85044, 85478, 85914, 86353, 86794, 87237, 87683, 88132, 88583, 89036, 89492, 89950, 90411] ++ [
  90875, 91340, 91809, 92280, 92754, 93230, 93709, 94190, 94674, 95161, 95650, 96143, 96637, 97135, 97635, 98138,
  98644, 99152, 99664, 100178, 100695, 101214, 101737, 102262, 102791, 103322, 103856, 104393, 104933, 105476, 106022, 106571,
  107123, 107678, 108236, 108797, 109361, 109929, 110499, 111073, 111649, 112229, 112812, 113398, 113988, 114580, 115176, 115775,
  116378, 116983, 117592, 118205, 118820, 119439, 120062, 120688, 121317, 121950, 122586, 123226, 123869, 124516, 125166, 125820]

/-- Entries 896 to 1023 of slot 2, HLG. -/
def hlgPart7 : List Nat := [
  126478, 127139, 127803, 128472, 129144, 129820, 130499, 131182, 131869, 132559, 133254, 133952, 134654, 135360, 136070, 136783,
  137501, 138222, 138948, 139677, 140411, 141148, 141890, 142635, 143385, 144139, 144896, 145659, 146425, 147195, 147970, 148749,
  149532, 150319, 151111, 151907, 152707, 153512, 154322, 155135, 155953, 156776, 157603, 158435, 159271, 160112, 160957, 161807,
  162662, 163521, 164386, 165254, 166128, 167006, 167890, 168778, 169671, 170568, 171471, 172379, 173292, 174209, 175132, 176060] ++ [
  176992, 177930, 178874, 179822, 180775, 181734, 182698, 183667, 184642, 185621, 186607, 187597, 188593, 189595, 190602, 191615,
  192633, 193656, 194686, 195720, 196761, 197807, 198859, 199917, 200981, 202050, 203126, 204207, 205294, 206387, 207486, 208591,
  209702, 210819, 211943, 213072, 214208, 215350, 216498, 217653, 218813, 219981, 221154, 222334, 223521, 224714, 225913, 227119,
  228332, 229551, 230777, 232010, 233249, 234496, 235749, 237009, 238276, 239550, 240830, 242118, 243413, 244715, 246024, 247341]

/-- The entries of slot 2, HLG (R70). -/
def hlgLut : List Nat := hlgPart0 ++ hlgPart1 ++ hlgPart2 ++ hlgPart3 ++ hlgPart4 ++ hlgPart5 ++ hlgPart6 ++ hlgPart7

/-- Entry i of fixed slot k (R70). -/
def fixedLut (k i : Nat) : Nat :=
  if k = 0 then bt1886 i else if k = 1 then nth pqLut i else if k = 2 then nth hlgLut i else linearLut i

end Sys2Proof.Machine
end

