-- ==== Sys2Proof/Machine/Coding.lean ====
section
/-!
DEFINITION. The coding of the Rill lanes (spec/05, R150–R152): the 8b/10b code tables and running disparity of IEEE 802.3
clause 36 (log 31), and the ordered sets. A code group is a number of ten bits with bit a, sent first, as its most significant
one. A word of a lane is a pair: whether it is an ordered set, whose byte 0 is a K character, and its 32 bits.
-/

namespace Sys2Proof.Machine

/-! ## The code tables -/

/-- The 5b/6b codes abcdei of D.0 to D.31 for negative running disparity. -/
def codes6 : List Nat :=
  [0b100111, 0b011101, 0b101101, 0b110001, 0b110101, 0b101001, 0b011001, 0b111000,
   0b111001, 0b100101, 0b010101, 0b110100, 0b001101, 0b101100, 0b011100, 0b010111] ++
  [0b011011, 0b100011, 0b010011, 0b110010, 0b001011, 0b101010, 0b011010, 0b111010,
   0b110011, 0b100110, 0b010110, 0b110110, 0b001110, 0b101110, 0b011110, 0b101011]

/-- The 3b/4b codes fghj of D.x.0 to D.x.P7 for negative running disparity. -/
def codes4 : List Nat := [0b1011, 0b1001, 0b0101, 0b1100, 0b1101, 0b1010, 0b0110, 0b1110]

/-- The control characters of the table and their codes for negative running disparity: K28.0 to K28.7, K23.7, K27.7, K29.7
and K30.7. -/
def codesK : List (Nat × Nat) :=
  [(0x1C, 0b0011110100), (0x3C, 0b0011111001), (0x5C, 0b0011110101), (0x7C, 0b0011110011), (0x9C, 0b0011110010),
   (0xBC, 0b0011111010), (0xDC, 0b0011110110), (0xFC, 0b0011111000), (0xF7, 0b1110101000), (0xFB, 0b1101101000),
   (0xFD, 0b1011101000), (0xFE, 0b0111101000)]

/-- The control characters that R151 names: K28.5, K27.7, K29.7, K28.0, K30.7, K28.2, K28.4 and K28.6. -/
def namedK (k : Nat) : Bool := [0xBC, 0xFB, 0xFD, 0x1C, 0xFE, 0x5C, 0x9C, 0xDC].contains k

/-- Ones among the `n` low bits. -/
def onesOf (n v : Nat) : Nat := ((List.range n).filter (fun i => bitOf v i)).length

/-- The running disparity after a sub-block of `n` bits, positive as true: its excess decides, or, where it has none, the
sub-blocks 000111 and 0011 leave it positive and 111000 and 1100 negative. -/
def rdAfter (n v : Nat) (rd : Bool) : Bool :=
  let o := onesOf n v
  if n < 2 * o then true
  else if 2 * o < n then false
  else if v = 2 ^ (n / 2) - 1 then true
  else if v = 2 ^ n - 2 ^ (n / 2) then false
  else rd

/-- The running disparity after a code group. -/
def rdNext (g : Nat) (rd : Bool) : Bool := rdAfter 4 (g % 16) (rdAfter 6 (g / 16) rd)

/-- A sub-block of the table for negative disparity, at disparity `rd`: the complement where it is unbalanced, or is one of the
two balanced codes that alternate. -/
def atRd (n v : Nat) (rd : Bool) : Nat :=
  if rd = true ∧ (2 * onesOf n v ≠ n ∨ v = 0b111000 ∨ (n = 4 ∧ v = 0b1100)) then 2 ^ n - 1 - v else v

/-- The code group of a data byte at a running disparity: D.x.A7 in place of D.x.P7 where the latter would run on. -/
def codeD (byte : Nat) (rd : Bool) : Nat :=
  let x := byte % 32
  let y := byte / 32 % 8
  let a := atRd 6 (codes6.getD x 0) rd
  let rd' := rdAfter 6 a rd
  let a7 := decide (y = 7) && (if rd' then [11, 13, 14].contains x else [17, 18, 20].contains x)
  a * 16 + (if a7 then (if rd' then 0b1000 else 0b0111) else atRd 4 (codes4.getD y 0) rd')

/-- The code group of a control character at a running disparity. -/
def codeK (byte : Nat) (rd : Bool) : Nat :=
  let g := ((codesK.find? (fun e => decide (e.1 = byte))).map (fun e => e.2)).getD 0
  if rd then 1023 - g else g

/-- The code group of a character. -/
def codeOf (k : Bool) (byte : Nat) (rd : Bool) : Nat := if k then codeK byte rd else codeD byte rd

/-- The character of a code group at a running disparity: whether it is a control character, and its byte; none for a code
error: a group that is not in the tables, has the wrong running disparity, or is a K character that R151 does not name (R150). -/
def charOf (g : Nat) (rd : Bool) : Option (Bool × Nat) :=
  let ks := (codesK.map (fun e => (true, e.1))).filter (fun c => namedK c.2)
  let xs := (List.range 32).filter (fun x => decide (atRd 6 (codes6.getD x 0) rd = g / 16))
  let ds := xs.flatMap (fun x => (List.range 8).map (fun y => (false, 32 * y + x)))
  (ks ++ ds).find? (fun c => decide (codeOf c.1 c.2 rd = g))

/-! ## Words -/

/-- Byte `i` of a word, the most significant one first (R151). -/
def wordByte (w : Word) (i : Nat) : Nat := w.toNat / 256 ^ (3 - i) % 256

/-- The four code groups of a word from a running disparity, and the disparity after them (R151). -/
def codeWord (rd : Bool) (x : Bool × Word) : List Nat × Bool :=
  (List.range 4).foldl (fun acc i =>
    let g := codeOf (x.1 && decide (i = 0)) (wordByte x.2 i) acc.2
    (acc.1 ++ [g], rdNext g acc.2)) ([], rd)

/-- The code groups of words sent one after another. -/
def codeWords (rd : Bool) (xs : List (Bool × Word)) : List Nat :=
  (xs.foldl (fun acc x => let c := codeWord acc.2 x; (acc.1 ++ c.1, c.2)) (([] : List Nat), rd)).1

/-! ## Ordered sets (R151, R152) -/

/-- A word from its four bytes. -/
def wordOf4 (a b c d : Nat) : Word := Word.ofNat (((a % 256 * 256 + b % 256) * 256 + c % 256) * 256 + d % 256)

/-- IDLE with FLAGS. -/
def idleSet (flags : Nat) : Bool × Word := (true, wordOf4 0xBC flags (255 - flags % 256) 0xB5)

/-- SOF of a TYPE. -/
def sofSet (typ : Nat) : Bool × Word := (true, wordOf4 0xFB typ 0 0)

/-- EOP. -/
def eopSet : Bool × Word := (true, wordOf4 0xFD 0 0 0)

/-- COMMIT and ABORT of a frame. -/
def commitSet (frame : Nat) : Bool × Word := (true, wordOf4 0x1C (frame / 256) frame 0)
def abortSet (frame cause : Nat) : Bool × Word := (true, wordOf4 0xFE (frame / 256) frame cause)

/-- BLANK of a CAUSE. -/
def blankSet (cause : Nat) : Bool × Word := (true, wordOf4 0x9C cause (255 - cause % 256) 0)

/-- What a received word is. -/
inductive RxSet where
  | idle (flags : Nat)
  | fault (code : Nat)
  | sof (typ : Nat)
  | eop
  /-- An ordered set of the forward direction, which a back channel does not carry. -/
  | other
  /-- Four data characters. -/
  | data (w : Word)
  /-- An ordered set that R152 ignores, or characters that form no word of R151. -/
  | ignored
  deriving DecidableEq, Repr

/-- Four characters as a word of R151, with the checks of R152. -/
def setOf (c : List (Bool × Nat)) : RxSet :=
  let b (i : Nat) : Nat := (c.getD i (false, 0)).2
  if (c.drop 1).any (fun x => x.1) then .ignored
  else if c.head?.any (fun x => x.1) = false then .data (wordOf4 (b 0) (b 1) (b 2) (b 3))
  else if b 0 = 0xBC then (if b 2 = 255 - b 1 ∧ b 3 = 0xB5 then .idle (b 1) else .ignored)
  else if b 0 = 0xDC then (if b 2 = 255 - b 1 ∧ b 3 = 0 then .fault (b 1) else .ignored)
  else if b 0 = 0xFB then (if b 2 = 0 ∧ b 3 = 0 then .sof (b 1) else .ignored)
  else if b 0 = 0xFD then (if b 1 = 0 ∧ b 2 = 0 ∧ b 3 = 0 then .eop else .ignored)
  else if b 0 = 0x9C then (if b 2 = 255 - b 1 ∧ b 3 = 0 then .other else .ignored)
  else if b 0 = 0x1C then (if b 3 = 0 then .other else .ignored)
  else .other

end Sys2Proof.Machine
end

