-- ==== Sys2Proof/Machine/Lane.lean ====
section
/-!
DEFINITION. What the Rill lanes share (spec/05): a lane's registers and causes, the lanes of a tile, line packets and
their signature, and the checks of an armed fault injection.
-/

namespace Sys2Proof.Machine

/-! ## Lanes and their registers (R155, R184, R185) -/

/-- The LNK page of a lane. -/
def lanePage (lane : Nat) : Nat := 0x100 + lane / 16

/-- A per-lane field of a LNK page. -/
def laneF (f : Nat → Nat → Fld) (lane : Nat) : Fld := f (lane / 16) (lane % 16)

/-- LNK_STATi.LSTATE (R155): 0 DISABLED, 1 HUNT, 2 CHECK, 3 LOCKED, 4 READY, 5 RATE_SWITCH, 6 LOOP. -/
def lstate (lane : Nat) (s : State) : Nat := getF (laneF LNK_STAT_LSTATE lane) s

/-- LNK_STATi.ARATE. -/
def arate (lane : Nat) (s : State) : Nat := getF (laneF LNK_STAT_ARATE lane) s

/-- The page's summary bit of a lane follows LNK_CAUSEi and LNK_CAUSE_ENi (R184). -/
def refreshLane (lane : Nat) (s : State) : State :=
  summary (lanePage lane) (2 + lane % 16)
    (decide (Nat.land (getF (laneF LNK_CAUSE_ALL lane) s) (2 * getF (laneF LNK_CAUSE_EN_ALL lane) s) ≠ 0)) s

/-- A cause of a lane is raised (R185). -/
def laneCause (lane b : Nat) (s : State) : State :=
  s |> orF (laneF LNK_CAUSE_ALL lane) (2 ^ b) |> refreshLane lane

/-- The page works: it reads ON, STOPPING or PENDING_ON. -/
def lnkRuns (lane : Nat) (s : State) : Bool := runs (lanePage lane) s

/-- Changes a lane's record. -/
def modLane (lane : Nat) (f : Lane → Lane) (s : State) : State := s.setLane lane (f (s.lane lane))

/-! ## Tiles and lanes (R52, R172) -/

/-- The lane that addresses the tile of a lane: lane 2i for lane 2i + 1 of a bonded tile. -/
def tileLane (lane : Nat) (s : State) : Nat :=
  if lane % 2 = 1 ∧ (tileRec (lane - 1) s).valid = true ∧ (tileRec (lane - 1) s).bonded = true then lane - 1 else lane

/-- The lanes of the tile that `base` addresses. -/
def tileLanes (base : Nat) (s : State) : List Nat :=
  if (tileRec base s).valid ∧ (tileRec base s).bonded then [base, base + 1] else [base]

/-- The lane that carries row `r` of a tile (R172). -/
def rowLane (base r : Nat) (s : State) : Nat :=
  if (tileRec base s).valid ∧ (tileRec base s).bonded then base + r % 2 else base

/-- A valid record names the lane. -/
def hasTile (lane : Nat) (s : State) : Bool := tileValid (tileLane lane s) s

/-- The state of the raster group of a lane's tile is OFF or PARKED; a lane without a tile has no group. -/
def laneIdle (lane : Nat) (s : State) : Bool :=
  !hasTile lane s || groupIdle (tileRec (tileLane lane s) s).group s

/-! ## Line packets (R158–R161) -/

/-- Bits of a ray: 30 or 36 (R158). -/
def rayBits (code12 : Bool) : Nat := if code12 then 36 else 30

/-- P: payload words of a row (R158). -/
def payloadLen (rw_ : Nat) (code12 : Bool) : Nat := ceilDiv (rw_ * rayBits code12) 32

/-- N: words of a line packet (R158). -/
def packetLen (rw_ : Nat) (code12 : Bool) : Nat := payloadLen rw_ code12 + 5

/-- The bit string of a ray (R159). -/
def rayString (code12 : Bool) (c : Nat × Nat × Nat) : Nat :=
  let w := rayBits code12 / 3
  (c.1 * 2 ^ w + c.2.1) * 2 ^ w + c.2.2

/-- The payload words of a row (R159). -/
def payload (rw_ : Nat) (code12 : Bool) (rays : List (Nat × Nat × Nat)) : List Word :=
  let p := payloadLen rw_ code12
  let n := rays.foldl (fun acc c => acc * 2 ^ rayBits code12 + rayString code12 c) 0 * 2 ^ (32 * p - rw_ * rayBits code12)
  (List.range p).map (fun i => Word.ofNat (n / 2 ^ (32 * (p - 1 - i))))

/-- The words of a line packet (R158). -/
def linePacket (t : TileRec) (rw_ frame row : Nat) (rays : List (Nat × Nat × Nat)) : List (Bool × Word) :=
  let body := [Word.ofNat (frame % 65536 * 65536 + row % 65536),
    Word.ofNat ((rw_ - 1) % 65536 * 65536 + bit t.code12 * 2 ^ 15 + bit t.bonded * 2 ^ 14)] ++ payload rw_ t.code12 rays
  [sofSet 1] ++ (body ++ [crcWords body]).map (fun w => (false, w)) ++ [eopSet]

/-- The CRC register of the signature after a row (R161). -/
def sigFeed (sig : Word) (ws : List Word) : Word :=
  Word.ofNat (crcFeed sig.toNat (ws.flatMap (fun w => natBe 4 w.toNat)))

/-- The signature a CRC register stands for. -/
def sigValue (sig : Word) : Word := sig ^^^ 0xFFFFFFFF

/-- t_pkt = 64·(N + 1) / `rate` ns of a tile's packets at rate code `rate`, halved for a bonded tile, fits in `ns` (R120,
R160). -/
def packetFits (t : TileRec) (rw_ rate ns : Nat) : Bool :=
  decide (64 * (packetLen rw_ t.code12 + 1) ≤ ns * rate * (if t.bonded then 2 else 1))

/-! ## What a lane sends (R150–R153, R155, R171) -/

/-- The lane's receiver is LOCKED, as its IDLEs tell (R151). -/
def rxLocked (lane : Nat) (s : State) : Bool := decide ((s.lane lane).sync = 2)

/-- The lane's driver is in electrical idle: DISABLED, or in NEAR_PARALLEL (R155, R181). -/
def driverIdle (lane : Nat) (s : State) : Bool :=
  decide (lstate lane s = 0) || (decide (lstate lane s = 6) && decide (getF (laneF LNK_CTRL_LOOP lane) s = 2))

/-- Words leave a lane one after another; none reach the balls while its driver is idle. The running disparity they start from
depends on how many IDLEs have filled the lane: a free value (log 3). -/
def sendWords (lane : Nat) (xs : List (Bool × Word)) (s : State) : State :=
  if driverIdle lane s then s else
  let r := fresh 1 s
  emit (.link lane xs (codeWords (decide (r.1 = 1)) xs)) r.2

/-- A packet, COMMIT or MODE leaves, and the IDLE that separates it from whatever follows (R153). -/
def sendClosed (lane : Nat) (xs : List (Bool × Word)) (s : State) : State :=
  sendWords lane (xs ++ [idleSet (bit (rxLocked lane s))]) s

/-- Words of a packet that have begun to leave by time `t`: a word lasts 64 / ARATE ns (R148). -/
def wordsBy (lane t : Nat) (p : TxPacket) (s : State) : Nat := ceilDiv ((diff64 t p.start).toNat * arate lane s) 64

/-- The line packets of a lane that have not left whole by time `t`, newest first: the oldest of them is the one in progress, and
any other has not begun. -/
def openPackets (lane t : Nat) (s : State) : List TxPacket :=
  (s.lane lane).tx.filter (fun p => decide (wordsBy lane t p s < p.words))

/-- A line packet is in progress on the lane at time `t`. -/
def inPacket (lane t : Nat) (s : State) : Bool := !(openPackets lane t s).isEmpty

/-- What a lane has sent, newest first, as its open packets end at a word boundary: `drop` packets that had not begun are taken
out, and the one in progress keeps `n` words, which `x` follows ahead of whatever waited for its end. -/
def cutRecord (lane drop n : Nat) (x : List Out) : List Out → List Out
  | [] => x
  | .link k xs gs :: r =>
    if k ≠ lane ∨ xs.head? ≠ some (sofSet 1) then .link k xs gs :: cutRecord lane drop n x r
    else match drop with
      | 0 => x ++ .link k (xs.take n) (gs.take (4 * n)) :: r
      | d + 1 => cutRecord lane d n x r
  | o :: r => o :: cutRecord lane drop n x r

/-- The words of a packet that the record holds, by its start: those of the `drop`-th newest packet of the lane. -/
def packetWords (lane : Nat) : Nat → List Out → List (Bool × Word)
  | _, [] => []
  | d, .link k xs _ :: r =>
    if k ≠ lane ∨ xs.head? ≠ some (sofSet 1) then packetWords lane d r
    else match d with
      | 0 => xs
      | d + 1 => packetWords lane d r
  | d, _ :: r => packetWords lane d r

/-- The line packets of a lane end where they stand at time `t`; `x` takes the place of the next word of the one in progress and
goes on from the running disparity of the word before it (R150, R153). -/
def cutPackets (lane t : Nat) (x : List (Bool × Word)) (s : State) : State :=
  let open_ := openPackets lane t s
  match open_.getLast? with
  | none => s
  | some p =>
    let n := wordsBy lane t p s
    let xs := packetWords lane (open_.length - 1) s.out
    let rd := (codeWords p.rd (xs.take n)).foldl (fun rd g => rdNext g rd) p.rd
    let out := if x.isEmpty then [] else [.link lane x (codeWords rd x)]
    { s with out := cutRecord lane (open_.length - 1) n out s.out } |> modLane lane (fun l => { l with tx := [] })

/-- BLANK or ABORT leaves a lane at time `t`: it takes the place of the next word of a line packet in progress, which ends
there (R153). -/
def sendCutting (lane t : Nat) (x : Bool × Word) (s : State) : State :=
  if inPacket lane t s then cutPackets lane t [x] s else sendWords lane [x] s

/-- The generator's next word of the PRBS31 sequence, x³¹ + x²⁸ + 1, after the 31 bits `st`, the newest lowest; the bits of a
word run from its most significant one (R181). -/
def prbsNext : Nat → Nat → Nat
  | 0, st => st
  | n + 1, st => prbsNext n (st * 2 + (st / 2 ^ 30 + st / 2 ^ 27) % 2)

/-- The `n` words of the pattern after generator state `st`. -/
def prbsWords : Nat → Nat → List Word
  | 0, _ => []
  | n + 1, st => Word.ofNat (prbsNext 32 st) :: prbsWords n (prbsNext 32 st % 2 ^ 31)

/-- One block of the test pattern: an IDLE and 255 words of PRBS31 (R181). -/
def patternBlock (rxLock : Bool) (st : Nat) : List (Bool × Word) :=
  idleSet (bit rxLock) :: (prbsWords 255 st).map (fun w => (false, w))

/-- The lane sends the test pattern into a loop (R181). -/
def sendsPattern (lane : Nat) (s : State) : Bool := decide (lstate lane s = 6) && getB (laneF LNK_CTRL_PAT lane) s

/-- What fills a lane: nothing while DISABLED, and at the driver in NEAR_PARALLEL; the pattern in a loop with PAT = 1; else IDLE
(R153, R155, R181). The pattern's first state is a free value. -/
def showFill (lane : Nat) (s : State) : State :=
  let x := s.lane lane
  let put (f : Fill) (s : State) : State :=
    if x.fill = f then s else s |> modLane lane (fun l => { l with fill := f }) |> emit (.fill lane f)
  if driverIdle lane s then put .quiet s
  else if sendsPattern lane s then
    match x.fill with
    | .pattern _ => s
    | _ => let r := fresh 30 s; put (.pattern (r.1 + 1)) r.2
  else put (.idle (rxLocked lane s)) s

/-! ## Fault injection (R183) -/

/-- What LNK_INJ and LNK_INJ_POS ask for passes against the panel map in force (R183). -/
def injOk (page : Nat) (kind lane row word : Nat) (s : State) : Bool :=
  let n := 16 * page + lane
  let base := tileLane n s
  let t := tileRec base s
  let step := if t.bonded then 2 else 1
  tileValid base s && decide (row < tileRH base s) &&
    (decide (kind ≠ 2) || decide (word < packetLen (tileRW base s) t.code12)) &&
    (decide (kind ≠ 3) || decide (row + step < tileRH base s))

/-- A panel map has been accepted: armed injections are checked again (R183). -/
def recheckInj (s : State) : State :=
  each (List.range 64) (fun p t =>
    if getB (LNK_INJ_ARM p) t && !injOk p (getF (LNK_INJ_KIND p) t) (getF (LNK_INJ_LANE p) t) (getF (LNK_INJ_ROW p) t)
        (getF (LNK_INJ_POS_WORD p) t) t
    then t |> setB (LNK_INJ_ARM p) false |> State.setInjLive p false |> laneCause (16 * p + getF (LNK_INJ_LANE p) t) 13
    else t) s

end Sys2Proof.Machine
end

