-- ==== Sys2Proof/Machine/Light.lean ====
section
/-!
DEFINITION. Loading the light-field configuration (spec/02): panel maps, plane stack descriptors, transfer LUTs, blend
tables and output LUTs.
-/

namespace Sys2Proof.Machine

/-! ## Panel maps (R50–R55, R412) -/

/-- A tile record (R52). -/
def parseTile (ws : List Word) (k : Nat) : TileRec where
  hx0 := fieldAt ws (4 + 4 * k) 31 18
  hy0 := fieldAt ws (4 + 4 * k) 17 5
  valid := decide (fieldAt ws (4 + 4 * k) 0 0 = 1)
  hwM1 := fieldAt ws (5 + 4 * k) 31 21
  hhM1 := fieldAt ws (5 + 4 * k) 20 10
  bonded := decide (fieldAt ws (6 + 4 * k) 31 31 = 1)
  group := fieldAt ws (6 + 4 * k) 30 29
  code12 := decide (fieldAt ws (6 + 4 * k) 28 28 = 1)
  tag := ws.getD (7 + 4 * k) 0

/-- The tiles of a block by lane. -/
def parseTiles (ws : List Word) : FMap TileRec :=
  (List.range 1024).foldr (fun k m => FMap.set {} m k (parseTile ws k)) []

/-- The panel map of a block (R51). -/
def parseMap (ws : List Word) : PanelMap where
  gridWM1 := fieldAt ws 0 31 18
  gridHM1 := fieldAt ws 0 17 5
  aM1 := fieldAt ws 1 31 27
  bM1 := fieldAt ws 1 26 22
  rayTotal := wordAt ws 2
  tiles := parseTiles ws

/-- The lanes of the valid tiles of a map. -/
def PanelMap.lanes (m : PanelMap) : List (Nat × TileRec) := m.tiles.filter (fun e => e.2.valid)

/-- Rays of a tile under a map. -/
def PanelMap.rays (m : PanelMap) (t : TileRec) : Nat := (t.hwM1 + 1) * (m.aM1 + 1) * ((t.hhM1 + 1) * (m.bM1 + 1))

/-- Two tiles share a hogel. -/
def tilesMeet (t u : TileRec) : Bool :=
  decide (t.hx0 < u.hx0 + u.hwM1 + 1) && decide (u.hx0 < t.hx0 + t.hwM1 + 1) &&
  decide (t.hy0 < u.hy0 + u.hhM1 + 1) && decide (u.hy0 < t.hy0 + t.hhM1 + 1)

/-- A reserved bit of a block is 1, or an invalid record has words T0–T2 that are not zero (R51–R53). -/
def mapReserved (ws : List Word) : Bool :=
  decide (fieldAt ws 0 4 0 ≠ 0) || decide (fieldAt ws 1 21 16 ≠ 0) || decide (fieldAt ws 1 7 0 ≠ 0) ||
  (List.range 1024).any (fun k =>
    decide (fieldAt ws (4 + 4 * k) 4 1 ≠ 0) || decide (fieldAt ws (5 + 4 * k) 9 0 ≠ 0) || decide (fieldAt ws (6 + 4 * k) 27 0 ≠ 0) ||
    (decide (fieldAt ws (4 + 4 * k) 0 0 = 0) &&
      (decide (wordAt ws (4 + 4 * k) ≠ 0) || decide (wordAt ws (5 + 4 * k) ≠ 0) || decide (wordAt ws (6 + 4 * k) ≠ 0))))

/-- A block passes R53. -/
def mapOk (ws : List Word) : Bool :=
  let m := parseMap ws
  let l := m.lanes
  decide (fieldAt ws 1 15 8 = 1) && !mapReserved ws && decide (crcWords (ws.take 3 ++ (ws.drop 4).take 4096) = ws.getD 3 0) &&
  decide ((m.aM1 + 1) * (m.bM1 + 1) ≤ 1024) &&
  l.all (fun e => decide (e.2.hx0 + e.2.hwM1 ≤ m.gridWM1) && decide (e.2.hy0 + e.2.hhM1 ≤ m.gridHM1) && decide (m.rays e.2 ≤ 4194304) &&
    (!e.2.bonded || (decide (e.1 % 2 = 0) && !(FMap.get {} m.tiles (e.1 + 1)).valid)) &&
    !l.any (fun f => decide (f.1 ≠ e.1) && tilesMeet e.2 f.2)) &&
  decide (m.rayTotal = (l.map (fun e => m.rays e.2)).sum)

/-- Bytes of CORRECTION under a map (R412). -/
def correctionSize (m : PanelMap) : Nat :=
  let one (t : TileRec) : Nat :=
    let a := m.aM1 + 1
    let b := m.bM1 + 1
    let rw_ := (t.hwM1 + 1) * a
    let rh := (t.hhM1 + 1) * b
    let lines := ceilDiv rw_ 10
    2 * (ceilDiv (64 + 8 * a * b) 4096 * 4096 + 8 * (t.hwM1 + 1) * (t.hhM1 + 1)) + 8 * rw_ * rh +
      (64 * lines + 16 * ceilDiv lines 1024) * rh + 6 * rw_ * ceilDiv rh 16
  ceilDiv ((m.lanes.map (fun e => one e.2)).sum) (2 ^ 30) * 2 ^ 30

/-- The first address of HOST (R411). -/
def hostClass : Nat := 61 * 2 ^ 30

/-- CORRECTION of a map would not fit, or would overlap a grant in force (R412). -/
def correctionFull (m : PanelMap) (s : State) : Bool :=
  decide (hbmTop < hostClass + correctionSize m) ||
  (List.range 8).any (fun p => (List.range 8).any (fun k =>
    decide (getF (HST_REG_SIZE p k) s ≠ 0) &&
    decide (hbmTop < (getF (HST_REG_BASE p k) s + getF (HST_REG_SIZE p k) s) * 2 ^ 20 + correctionSize m)))

/-- A stack slot is emptied because A·B has changed (R55). -/
def emptySlot (k origin : Nat) (s : State) : State :=
  s.setSlot k {} |> setF (STK_CNT_LOADED k) 0 |> setF STK_REJECT_REASON 0x0F |> setF STK_REJECT_SLOT k |> setF STK_REJECT_SRC 0
    |> setF STK_REJECT_ORIGIN origin |> countF STK_REJ_CNT |> raise 0x90 11

/-- A panel map is accepted, and what depends on it is brought into line (R54, R55, R194). DESIGN CHOICE (log 43): the slots it
empties are taken in ascending order, which decides the SLOT that STK_REJECT shows last. -/
def acceptMap (m : PanelMap) (origin : Nat) (s : State) : State :=
  let old := s.panel.map
  let changed (k : Nat) : Bool :=
    let o := FMap.get {} old.tiles k
    let n := FMap.get {} m.tiles k
    decide (o.valid ≠ n.valid) || decide (o.code12 ≠ n.code12) || decide (o.bonded ≠ n.bonded)
  let s := { s with panel := { s.panel with map := m, outLuts := s.panel.outLuts.filter (fun e => !changed (e.1 / 3)) } }
  let ab := decide ((old.aM1 + 1) * (old.bM1 + 1) ≠ (m.aM1 + 1) * (m.bM1 + 1))
  let s := if !ab then s else
    let s := { s with panel := { s.panel with blends := [] } }
    each (List.range 8) (fun k t => match (t.slot k).psd with
      | some p => if 1 < p.anchors.length then emptySlot k origin t else t
      | none => t) s
  s |> corRemap old |> recheckInj

/-- A block lost in the move of CORRECTION: a map or gain map is discarded, a counter row is set to 0 (R208, R413). The UPD of a
lost row is a free value (log 55). -/
def loseMoved (l : MovedLoss) (s : State) : State :=
  let k := l.lane
  let x := s.tileCor k
  match l.part with
  | .rayMap => ifS x.rayMap.isSome (fun s => s.setTileCor k { x with rayMap := none } |> setLaneBit COR_RMVALID k false |> raise 0x148 4) s
  | .rayStaged => ifS x.rayStaged.isSome (fun s => s.setTileCor k { x with rayStaged := none } |> raise 0x148 4) s
  | .gain => ifS x.gain.isSome (fun s => s.setTileCor k { x with gain := none } |> setLaneBit COR_GVALID k false |> raise 0x148 4) s
  | .gainStaged => ifS x.gainStaged.isSome (fun s => s.setTileCor k { x with gainStaged := none } |> raise 0x148 4) s
  | .counters row =>
    if tileValid k s = false ∨ tileRH k s ≤ row then s
    else
      let f := fresh 32 s
      zeroRow k row (Word.ofNat f.1) f.2

/-- A word of CORRECTION is bad (R413, R420). -/
def correctionBad (s : State) : Bool :=
  s.poison.any (fun a => decide (hbmTop ≤ a + correctionSize s.panel.map)) ||
    (List.range 4).any (fun i => decide (getF (PG_STAT_STATE (0x170 + i)) s = 7))

/-- What the move of CORRECTION to its new range loses: nothing where its size stays or no word of it is bad. Which blocks a bad
word costs the command tells, since the spec does not place them in CORRECTION (R413, log 62). -/
def moveCorrection (old : State) (lost : List MovedLoss) (s : State) : State :=
  if correctionSize old.panel.map = correctionSize s.panel.map ∨ correctionBad old = false then s else each lost loseMoved s

/-- One panel map load (R53, R54, R412, R413). -/
def mapLoadOne (lost : List MovedLoss) (c : Cmd) (s : State) : State := withLen 0x01 c 16400 (fun ws s =>
  let m := parseMap ws
  if !mapOk ws then answer 0x01 c BAD_ARGUMENT s
  else if (List.range 4).any (fun g => !groupIdle g s) then answer 0x01 c BUSY s
  else if correctionFull m s then s |> countF HBM_TFULL |> raise 0x170 6 |> answer 0x01 c TABLE_FULL
  else s |> acceptMap m (c.idx % 8) |> moveCorrection s lost |> answer 0x01 c DONE) s

/-- PANEL_MAP_LOAD: loads of one cycle are applied one after another in the order of the tie rule (R54). -/
def execPanelMapLoad (cs : List Cmd) (lost : List MovedLoss) (s : State) : Host.Outcome State Fault Refusal :=
  .next (runTies 0x01 cs (fun cs => serveTable PMAP_TIE_PTR 8 cs (mapLoadOne lost)) s)

/-! ## Plane stack descriptors (R74–R84) -/

/-- A plane entry (R77). -/
def parseEntry (ws : List Word) (i : Nat) : PlaneEntry where
  plane := fieldAt ws i 31 24
  depth := toSigned 24 (fieldAt ws i 23 0)
  edge := fieldAt ws (i + 1) 31 30
  lut := fieldAt ws (i + 1) 29 24
  ox := toSigned 24 (fieldAt ws (i + 1) 23 0)
  matrix := fieldAt ws (i + 2) 31 28
  range := fieldAt ws (i + 2) 27 26
  alphaMode := fieldAt ws (i + 2) 25 24
  oy := toSigned 24 (fieldAt ws (i + 2) 23 0)
  scx := fieldAt ws (i + 3) 31 16
  scy := fieldAt ws (i + 3) 15 0
  planeAlpha := fieldAt ws (i + 4) 20 10

/-- An anchor block at word `i` (R76). -/
def parseAnchor (ws : List Word) (i : Nat) : Anchor where
  tx := toSigned 24 (fieldAt ws (i + 1) 23 0)
  ty := toSigned 24 (fieldAt ws (i + 2) 23 0)
  tz := toSigned 24 (fieldAt ws (i + 3) 23 0)
  entries := (List.range (fieldAt ws i 31 26 + 1)).map (fun e => parseEntry ws (i + 4 + 5 * e))

/-- The words at which `n` anchor blocks begin, from word `i`, and the word after the last (R74). -/
def anchorStarts (ws : List Word) : Nat → Nat → List Nat × Nat
  | 0, i => ([], i)
  | n + 1, i =>
    let r := anchorStarts ws n (i + 4 + 5 * (fieldAt ws i 31 26 + 1))
    (i :: r.1, r.2)

/-- Anchors of a PSD. -/
def psdAnchors (ws : List Word) : Nat := fieldAt ws 2 31 30 + 1

/-- A PSD (R74–R77). -/
def parsePsd (ws : List Word) : Psd where
  seq := ws.getD 1 0
  blend := fieldAt ws 2 19 16
  anchors := (anchorStarts ws (psdAnchors ws) 3).1.map (parseAnchor ws)
  crc := ws.getLast?.getD 0

/-- A reserved bit of a PSD is 1 (R75–R77). -/
def psdReserved (ws : List Word) : Bool :=
  decide (fieldAt ws 0 23 19 ≠ 0) || decide (fieldAt ws 2 29 20 ≠ 0) || decide (fieldAt ws 2 15 0 ≠ 0) ||
  (anchorStarts ws (psdAnchors ws) 3).1.any (fun i =>
    decide (fieldAt ws i 25 0 ≠ 0) || [1, 2, 3].any (fun j => decide (fieldAt ws (i + j) 31 24 ≠ 0)) ||
    (List.range (fieldAt ws i 31 26 + 1)).any (fun e =>
      decide (fieldAt ws (i + 8 + 5 * e) 31 21 ≠ 0) || decide (fieldAt ws (i + 8 + 5 * e) 9 0 ≠ 0)))

/-- DEPTH never decreases (R63). -/
def depthsRise : List PlaneEntry → Bool
  | a :: b :: r => decide (a.depth ≤ b.depth) && depthsRise (b :: r)
  | _ => true

/-- The PSD needs a blend table that does not serve it (R81, reason 0x0F). -/
def blendMismatch (p : Psd) (s : State) : Bool :=
  let n := p.anchors.length
  let b := s.blendSlot p.blend
  decide (1 < n) && (b.isEmpty || decide (b.length ≠ dirA s * dirB s) ||
    b.any (fun w => (decide (n ≤ 2) && decide (w.w2 ≠ 0)) || (decide (n ≤ 3) && decide (w.w3 ≠ 0))))

/-- Where a PSD comes from: a partition's command, or the SEI message of a context. -/
inductive PsdFrom where
  | cmd (who : Who)
  | sei (ctx : Nat)
  deriving DecidableEq, Repr

/-- A PSD is a repeat of the slot's newest one (R82). -/
def psdRepeat (k : Nat) (ws : List Word) (s : State) : Bool :=
  match (s.slot k).psd with
  | some p => decide (p.seq = ws.getD 1 0) && decide (p.crc = ws.getLast?.getD 0)
  | none => false

/-- The reason for which a PSD of `len` words, stated as `size` words, is refused; 0 when it passes, and 0 for a repeat
(R81, R82). DESIGN CHOICE (log 43): a plane in state FREEING counts as not allocated for reason 0x0D. -/
def psdReason (src : PsdFrom) (sizeOk : Bool) (ws : List Word) (s : State) : Nat :=
  let k := fieldAt ws 0 18 16
  let p := parsePsd ws
  let all := p.anchors.flatMap (fun a => a.entries)
  let newest := (s.slot k).psd
  if ws.length < 2 ∨ crcWords ws.dropLast ≠ ws.getLast?.getD 0 then 0x01
  else if fieldAt ws 0 31 24 ≠ 1 then 0x02
  else if fieldAt ws 0 15 0 ≠ ws.length ∨ (anchorStarts ws (psdAnchors ws) 3).2 + 1 ≠ ws.length ∨ sizeOk = false then 0x03
  else if psdReserved ws then 0x04
  else if (match src with | .cmd (.part q) => decide (q.val ≠ getF (STK_CFG_OWNER k) s) | _ => false) then 0x05
  else if (match src with
      | .sei c => decide (c ≠ getF (STK_CFG_SOURCE_CTX k) s) || !getB (STK_CFG_SEI_EN k) s | _ => false) then 0x06
  else if psdRepeat k ws s then 0
  else if (match newest with | some q => decide (diff32 p.seq.toNat q.seq.toNat ≤ 0) | none => false) then 0x07
  else if all.any (fun e => decide (1 < e.edge) || decide (3 < e.matrix) || decide (1 < e.range) || decide (e.alphaMode = 3)) then 0x08
  else if all.any (fun e => decide (0x400 < e.planeAlpha)) then 0x09
  else if all.any (fun e => decide (e.scx = 0) || decide (e.scy = 0)) then 0x0A
  else if p.anchors.any (fun a => !depthsRise a.entries) then 0x0B
  else if p.anchors.any (fun a => a.entries.any (fun e => decide (e.depth + a.tz < -0x800000) || decide (0x7FFFFF < e.depth + a.tz))) then 0x0C
  else if all.any (fun e => decide ((s.plane e.plane).state ≠ 1)) then 0x0D
  else if all.any (fun e => decide (4 ≤ e.lut) && (s.lut e.lut).isEmpty) then 0x0E
  else if blendMismatch p s then 0x0F else 0

/-- A refused PSD is recorded, counted and raised (R81, R86). DESIGN CHOICE (log 7): ORIGIN shows 0 for the firmware's own
command, which has no partition number. -/
def psdRefuse (src : PsdFrom) (k reason : Nat) (s : State) : State :=
  let o := match src with
    | .cmd w => (0, whoIdx w % 8)
    | .sei c => (1, c)
  s |> setF STK_REJECT_REASON reason |> setF STK_REJECT_SLOT k |> setF STK_REJECT_SRC o.1 |> setF STK_REJECT_ORIGIN o.2
    |> countF STK_REJ_CNT |> raise 0x90 11

/-- A PSD that passed is accepted, or counted as a repeat (R82–R84). -/
def psdAccept (k : Nat) (ws : List Word) (s : State) : State :=
  if psdRepeat k ws s then countF (STK_CNT_REPEAT k) s
  else
    let x := s.slot k
    let lost := x.psd.isSome && !x.latched
    s.setSlot k { psd := some (parsePsd ws), latched := false } |> setF (STK_SEQ k) (wordAt ws 1) |> setF (STK_CNT_LOADED k) 1
      |> ifS lost (fun s => s |> countF (STK_CNT_SUPERSEDED k) |> raise 0x90 12)

/-- One PSD_LOAD (R80, R81, R83). -/
def psdLoadOne (c : Cmd) (s : State) : State := withSrc 0x02 c (fun ws s =>
  let k := fieldAt ws 0 18 16
  let r := psdReason (.cmd c.who) (decide (c.src.len % 4 = 0)) ws s
  if r ≠ 0 then s |> psdRefuse (.cmd c.who) k r |> refuse 0x02 c (if r = 5 then NOT_OWNER else BAD_ARGUMENT) r
  else s |> psdAccept k ws |> answer 0x02 c DONE) s

/-- The slot a PSD command names, in the W0 word as received (R86). -/
def psdSlot (c : Cmd) (s : State) : Nat := fieldAt (srcWords c s) 0 18 16

/-- The field of STK_TIE that holds the pointer of slot `k`. -/
def STK_TIE_PTR (k : Nat) : Fld := ⟨STK_TIE.addr, 4 * k + 3, 4 * k⟩

/-- One PSD of an access unit, with the payloadSize that carried it (R79, R81, R83). -/
def psdSeiOne (ctx : Nat) (e : Nat × List Word) (s : State) : State :=
  let ws := e.2
  let r := psdReason (.sei ctx) (decide (e.1 = 16 + 4 * ws.length)) ws s
  if r ≠ 0 then psdRefuse (.sei ctx) (fieldAt ws 0 18 16) r s else psdAccept (fieldAt ws 0 18 16) ws s

/-- A PSD that reaches its slot in this cycle: by command, or by the SEI path (R83). -/
inductive PsdReq where
  | cmd (c : Cmd)
  | sei (ctx : Nat) (e : Nat × List Word)
  deriving DecidableEq, Repr

/-- The requester: the command paths of partitions 0–7, and the SEI path as 8 (R83). -/
def PsdReq.idx : PsdReq → Nat
  | .cmd c => c.idx
  | .sei _ _ => 8

/-- The slot a PSD of this cycle names. -/
def PsdReq.slot (s : State) : PsdReq → Nat
  | .cmd c => psdSlot c s
  | .sei _ e => fieldAt e.2 0 18 16

/-- One PSD of the cycle is judged and accepted or refused. -/
def psdServe (r : PsdReq) (s : State) : State :=
  match r with
  | .cmd c => psdLoadOne c s
  | .sei ctx e => psdSeiOne ctx e s

/-- The PSD is the firmware's own. -/
def PsdReq.fw : PsdReq → Bool
  | .cmd c => isFw c.who
  | .sei _ _ => false

/-- The PSD comes by the SEI path. -/
def PsdReq.isSei : PsdReq → Bool
  | .cmd _ => false
  | .sei _ _ => true

/-- The PSDs that reach slot `k` in one cycle, in the order of the slot's own pointer with nine requesters; firmware's come
first (R83, R46, R546). -/
def slotOrder (k : Nat) (rs : List PsdReq) (s : State) : List PsdReq :=
  let mine := rs.filter (fun r => decide (r.slot s = k))
  mine.filter PsdReq.fw ++ tieSort 9 (getF (STK_TIE_PTR k) s) PsdReq.idx (mine.filter (fun r => !r.fw))

/-- The pointer of slot `k` follows a tie for it (R83, R41). DESIGN CHOICE (log 43): every PSD that names the slot is a requester
of the tie, one that is then refused too. -/
def movePsdPtr (k : Nat) (rs : List PsdReq) (s : State) : State :=
  let ps := (slotOrder k rs s).filter (fun r => !r.fw)
  match ps.head? with
  | some r => ifS (decide (2 ≤ (requesters PsdReq.idx ps).length)) (setF (STK_TIE_PTR k) r.idx) s
  | none => s

/-- The PSDs of one cycle: those of each slot in the order of its tie (R83), and those of the access unit in bitstream order
(R256), so that the commands that go before the SEI path at their slot come first and those that go after it last. DESIGN
CHOICE (log 43): among the commands of different slots the slots are taken in ascending order, which decides what STK_REJECT
shows last. -/
def settleSlots (rs : List PsdReq) (s : State) : State :=
  let before (k : Nat) : List PsdReq := (slotOrder k rs s).takeWhile (fun r => !r.isSei)
  let after (k : Nat) : List PsdReq := ((slotOrder k rs s).dropWhile (fun r => !r.isSei)).filter (fun r => !r.isSei)
  let todo := (List.range 8).flatMap before ++ rs.filter PsdReq.isSei ++ (List.range 8).flatMap after
  let moved := each (List.range 8) (fun k t => movePsdPtr k (rs.filter (fun r => decide (r.slot s = k))) t) s
  each todo psdServe moved

/-- PSD_LOAD (R80, R81, R83). -/
def execPsdLoad (cs : List Cmd) (s : State) : Host.Outcome State Fault Refusal :=
  .next (runTies 0x02 cs (fun cs => settleSlots (cs.map PsdReq.cmd)) s)

/-- The PSDs of an access unit, as its picture is complete, with the PSD_LOADs `loads` of the same cycle (R79, R83). -/
def acceptSeis (ctx : Nat) (nals : List (List Byte)) (loads : List Cmd) (s : State) : State :=
  runTies 0x02 loads (fun cs => settleSlots (cs.map PsdReq.cmd ++ (psdSeis nals).map (PsdReq.sei ctx))) s

/-! ## Tables (R69–R73, R106, R107) -/

/-- LUT_LOAD (R69–R71). -/
def execLutLoad (c : Cmd) (s : State) : Host.Outcome State Fault Refusal :=
  .next (runCmd 0x03 c (withLen 0x03 c 4096 (fun ws s =>
    let k := c.argF 0 5 0
    if k < 4 ∨ ws.any (fun w => decide (w.toNat / 2 ^ 20 ≠ 0)) = true then answer 0x03 c BAD_ARGUMENT s
    else s.setLut k (ws.map BitVec.toNat) |> answer 0x03 c DONE)) s)

/-- The entries of a blend table; none where bits [63:48] are not 0 (R73). -/
def parseBlends (ws : List Word) : Option (List Blend) :=
  (wordPairs ws).mapM (fun p =>
    let n := p.1.toNat + p.2.toNat * 2 ^ 32
    if n / 2 ^ 48 ≠ 0 then none else some ⟨bitsOf n 11 0, bitsOf n 23 12, bitsOf n 35 24, bitsOf n 47 36⟩)

/-- BLEND_LOAD (R71, R73). -/
def execBlendLoad (c : Cmd) (s : State) : Host.Outcome State Fault Refusal :=
  .next (runCmd 0x04 c (fun s => withLen 0x04 c (8 * (dirA s * dirB s)) (fun ws s =>
    match parseBlends ws with
    | none => answer 0x04 c BAD_ARGUMENT s
    | some l =>
      if l.any (fun b => decide (b.w0 + b.w1 + b.w2 + b.w3 ≠ 0x800)) then answer 0x04 c BAD_ARGUMENT s
      else s.setBlendSlot (c.argF 0 3 0) l |> answer 0x04 c DONE) s) s)

/-- OUTLUT_LOAD (R107). -/
def execOutlutLoad (c : Cmd) (s : State) : Host.Outcome State Fault Refusal :=
  .next (runCmd 0x05 c (withLen 0x05 c 6660 (fun ws s =>
    let ch := c.argF 0 17 16
    if ch = 3 ∨ fieldAt ws 1664 31 16 ≠ 0 then answer 0x05 c BAD_ARGUMENT s
    else
      let l := (ws.flatMap (fun w => [w.toNat % 65536, w.toNat / 65536])).take 3329
      s.setOutLut (3 * c.argF 0 9 0 + ch) l |> answer 0x05 c DONE)) s)

end Sys2Proof.Machine
end

