-- ==== Sys2Proof/Machine/Jet.lean ====
section
/-!
DEFINITION. Ray synthesis in the jets (spec/03): the arithmetic of one ray, the budget, the fans' order of work, and probe
views. A ray is computed in the step in which it enters its jet: stalls and cycles change when it completes, never its
codes (R89).
-/

namespace Sys2Proof.Machine

/-! ## Reading a plane (R91, R93, R262–R265) -/

/-- The components Y′, Cb, Cr and A of texel (i, j) of level `l` of a latched picture. -/
def picTexel (p : LatchedPic) (l i j : Nat) (s : State) : Nat × Nat × Nat × Nat :=
  let w := hbmWord (colAddr p.addr p.w p.h l i j) s
  (c30Part w 0, c30Part w 1, c30Part w 2, hbmHalf (alpAddr p.addr p.w p.h l i j) s % 1024)

/-- The occupancy code of the block of texel (i, j) of level 0: 0 EMPTY, 1 OPAQUE, otherwise PARTIAL (R93, R265). -/
def picOcc (p : LatchedPic) (i j : Nat) (s : State) : Nat :=
  let base := p.addr + sectionOff p.w p.h 6 + j / 64 * (section_ p.w p.h 6).1
  hbmWord (base + 4 * (i / 64 / 16)) s / 4 ^ (i / 64 % 16) % 4

/-! ## Intersection, level and sample (R90–R96) -/

/-- px or py of R90, with 12 fraction bits. -/
def meetAt (pos slope z t o : Int) : Int := pos + rnd (z * slope) 16 - 16 * t - 16 * o

/-- The level of a sample (R95). -/
def levelOf (z : Int) (scx scy spread : Nat) : Nat :=
  let f := max scx scy * max (2 ^ 28) (z.natAbs * spread)
  if f < 2 * 2 ^ 40 then 0 else if f < 4 * 2 ^ 40 then 1 else 2

/-- The bilinear sample at level `l` (R96): Yb, Cbb, Crb and Ab, U10.16 each; `clampEdge` is EDGE = CLAMP. -/
def bilinear (p : LatchedPic) (l : Nat) (sl tl : Int) (clampEdge : Bool) (s : State) : Int × Int × Int × Int :=
  let u := sl - 128
  let v := tl - 128
  let i0 := shr u 8
  let j0 := shr v 8
  let fx := u - i0 * 256
  let fy := v - j0 * 256
  let wl : Int := lvl p.w l
  let hl : Int := lvl p.h l
  let tap (acc : Int × Int × Int × Int) (x : Int × Int × Int) : Int × Int × Int × Int :=
    let t := picTexel p l (clampI x.1 0 (wl - 1)).toNat (clampI x.2.1 0 (hl - 1)).toNat s
    let out := decide (x.1 < 0) || decide (wl ≤ x.1) || decide (x.2.1 < 0) || decide (hl ≤ x.2.1)
    let a : Int := if out && !clampEdge then 0 else t.2.2.2
    (acc.1 + x.2.2 * t.1, acc.2.1 + x.2.2 * t.2.1, acc.2.2.1 + x.2.2 * t.2.2.1, acc.2.2.2 + x.2.2 * a)
  [(i0, j0, (256 - fx) * (256 - fy)), (i0 + 1, j0, fx * (256 - fy)), (i0, j0 + 1, (256 - fx) * fy),
    (i0 + 1, j0 + 1, fx * fy)].foldl tap (0, 0, 0, 0)

/-! ## From codes to linear light (R97–R99) -/

/-- cY, RV, GU, GV, BU of a matrix and range (R97): MATRIX 0 BT.709, 1 BT.2020, 2 BT.601, 3 IDENTITY (R67). -/
def matrixRow (matrix : Nat) (narrow : Bool) : Int × Int × Int × Int × Int :=
  if matrix = 0 then (if narrow then (19133, 29459, 3504, 8757, 34711) else (16384, 25802, 3069, 7670, 30402))
  else if matrix = 1 then (if narrow then (19133, 27584, 3078, 10688, 35194) else (16384, 24160, 2696, 9361, 30825))
  else if matrix = 2 then (if narrow then (19133, 26226, 6438, 13359, 33148) else (16384, 22970, 5638, 11700, 29032))
  else (if narrow then (19133, 0, 0, 0, 0) else (16384, 0, 0, 0, 0))

/-- The full-range R′, G′, B′ codes (R97). -/
def toRgb (matrix : Nat) (narrow : Bool) (yb cb cr : Int) : Nat × Nat × Nat :=
  let c := matrixRow matrix narrow
  let o : Int := if narrow then 64 * 65536 else 0
  let h : Int := 512 * 65536
  let fin (x : Int) : Nat := (clampI (rnd x 30) 0 1023).toNat
  if matrix = 3 then (fin (c.1 * (cr - o)), fin (c.1 * (yb - o)), fin (c.1 * (cb - o)))
  else (fin (c.1 * (yb - o) + c.2.1 * (cr - h)),
    fin (c.1 * (yb - o) - c.2.2.1 * (cb - h) - c.2.2.2.1 * (cr - h)),
    fin (c.1 * (yb - o) + c.2.2.2.2 * (cb - h)))

/-- An entry of a transfer LUT slot as the group latched it (R69–R71, R98). -/
def lutAt (l : Latch) (slot i : Nat) : Nat := if slot < 4 then fixedLut slot i else nth (FMap.get [] l.luts slot) i

/-! ## One anchor (R92, R100, R101) -/

/-- An anchor's accumulation: colour, alpha, samples taken, a share that stopped with entries left, and the end. -/
structure Trace where
  r : Nat := 0
  g : Nat := 0
  b : Nat := 0
  a : Nat := 0
  taken : Nat := 0
  capped : Bool := false
  stop : Bool := false
  deriving DecidableEq, Repr, Inhabited

/-- A sample is composited behind what the anchor holds (R99–R101). -/
def composite (l : Latch) (e : PlaneEntry) (athr : Nat) (opaque_ : Bool) (q : Int × Int × Int × Int) (t : Trace) : Trace :=
  let rgb := toRgb e.matrix (decide (e.range = 0)) q.1 q.2.1 q.2.2.1
  let al : Int := if opaque_ then 0x80000 else clampI (rnd (q.2.2.2 * 8396808) 30) 0 0x80000
  let ap := rnd (al * e.planeAlpha) 10
  let tr : Int := 0x80000 - t.a
  let put (acc code : Nat) : Nat :=
    let lin : Int := lutAt l e.lut code
    let c := if e.alphaMode = 0 then rnd (lin * ap) 19 else rnd (lin * e.planeAlpha) 10
    min (acc + (rnd (c * tr) 19).toNat) 0xFFFFF
  let a := min (t.a + (rnd (ap * tr) 19).toNat) 0x80000
  { t with r := put t.r rgb.1, g := put t.g rgb.2.1, b := put t.b rgb.2.2, a := a, taken := t.taken + 1,
           stop := decide (athr ≤ a) }

/-- One plane entry of a traced anchor (R92–R96). -/
def traceEntry (l : Latch) (an : Anchor) (i : RayIn) (share spread athr : Nat) (s : State) (t : Trace) (e : PlaneEntry) : Trace :=
  if t.stop then t
  else if t.taken = share then { t with capped := true, stop := true }
  else if e.planeAlpha = 0 then t
  else match l.pics.find? (fun p => decide (p.plane = e.plane)) with
    | none => t
    | some p =>
      if p.buf.isNone then t else
      let z := e.depth + an.tz
      let px := meetAt i.x i.sx z an.tx e.ox
      let py := meetAt i.y i.sy z an.ty e.oy
      let s0 := rnd (px * e.scx) 16
      let t0 := rnd (py * e.scy) 16
      let clampEdge := decide (e.edge ≠ 0)
      if clampEdge = false ∧ (s0 < 0 ∨ (p.w : Int) * 256 ≤ s0 ∨ t0 < 0 ∨ (p.h : Int) * 256 ≤ t0) then t
      else
        let occ := picOcc p (clampI (shr s0 8) 0 ((p.w : Int) - 1)).toNat (clampI (shr t0 8) 0 ((p.h : Int) - 1)).toNat s
        if occ = 0 then t
        else
          let k := levelOf z e.scx e.scy spread
          let q := bilinear p k (rnd (px * e.scx) (16 + k)) (rnd (py * e.scy) (16 + k)) clampEdge s
          composite l e athr (decide (e.alphaMode = 2) || (decide (occ = 1) && decide (e.planeAlpha = 0x400))) q t

/-- The colour of one anchor for a share (R92–R101). -/
def traceAnchor (l : Latch) (an : Anchor) (i : RayIn) (share spread athr : Nat) (s : State) : Trace :=
  an.entries.foldl (traceEntry l an i share spread athr s) {}

/-! ## The whole ray (R103, R105, R106) -/

/-- Wₐ of anchor `a` for direction `d` (R73, R103); a stack with one anchor has weight 1.0. -/
def weightOf (l : Latch) (p : Psd) (a d : Nat) : Nat :=
  if p.anchors.length ≤ 1 then 0x800 else
    let b := (FMap.get [] l.blends p.blend).getD d ⟨0, 0, 0, 0⟩
    if a = 0 then b.w0 else if a = 1 then b.w1 else if a = 2 then b.w2 else b.w3

/-- The traces of the traced anchors with their weights, in ascending anchor index, ranked for their shares (R103). -/
def traceAll (l : Latch) (p : Psd) (i : RayIn) (d budget spread athr : Nat) (s : State) : List (Nat × Trace) :=
  let on := (List.range p.anchors.length).filter (fun a => decide (weightOf l p a d ≠ 0))
  let n := on.length
  (List.range n).map (fun r =>
    let a := on.getD r 0
    let share := budget / n + (if r < budget % n then 1 else 0)
    (weightOf l p a d, traceAnchor l (p.anchors.getD a ⟨0, 0, 0, []⟩) i share spread athr s))

/-- Entry `i` of an output LUT: the loaded one, or the reset contents (R106, R107). -/
def outEntry (lut : List Nat) (cmax i : Nat) : Nat :=
  if !lut.isEmpty then nth lut i
  else
    let k := i / 256 - 1
    let o := if i < 512 then i else (i - 256 * k) * 2 ^ k
    min (rnd ((o * cmax : Nat) : Int) 12).toNat (16 * cmax)

/-- The output LUT and the final rounding (R106). -/
def outlut (lut : List Nat) (cmax o : Nat) : Nat :=
  let k := msb o - 8
  let i := 256 * k + o / 2 ^ k
  let f := o % 2 ^ k
  let out : Int := if k = 0 then outEntry lut cmax i
    else outEntry lut cmax i + rnd (((outEntry lut cmax (i + 1) : Int) - outEntry lut cmax i) * f) k
  (clampI (rnd out 4) 0 cmax).toNat

/-- A latched SH register of the group (R88, R522). -/
def latched (l : Latch) (f : Fld) : Nat := bitsOf (FMap.get (resetWord f.addr) l.regs f.addr).toNat f.hi f.lo

/-- M[r][k] of group `g`'s output matrix, S2.13 (R116). -/
def matrixAt (l : Latch) (g r k : Nat) : Int :=
  let n := 3 * r + k
  toSigned 16 (latched l ⟨(SYN_MAT0_M00 g).addr + 4 * (n / 2), if n % 2 = 0 then 31 else 15, if n % 2 = 0 then 16 else 0⟩)

/-- What a ray gives: its three codes, its effective samples, and whether a share stopped with entries left. -/
structure RayOut where
  codes : Nat × Nat × Nat
  samples : Nat
  capped : Bool
  deriving DecidableEq, Repr

/-- One ray of a tile (R87–R107): `b` is the fan's basin page index. -/
def castRay (l : Latch) (g b lane : Nat) (i : RayIn) (d : Nat) (gain : Nat × Nat × Nat) (budget : Nat) (s : State) : RayOut :=
  let s := if l.early then { s with hbm := s.fwu.early } else s
  let ts := match l.psd with
    | none => []
    | some p => traceAll l p i d budget (latched l (SYN_LOD_SPREAD b)) (latched l (SYN_ATHR_ATHR b)) s
  let blend (f : Trace → Nat) : Int := clampI (rnd ((ts.map (fun x => ((x.1 * f x.2 : Nat) : Int))).sum) 11) 0 0xFFFFF
  let gained (x : Int) (k : Nat) : Int := clampI (rnd (x * k) 9) 0 0xFFFFF
  let r := gained (blend Trace.r) gain.1
  let gr := gained (blend Trace.g) gain.2.1
  let bl := gained (blend Trace.b) gain.2.2
  let cmax := if (tileRec lane s).code12 then 4095 else 1023
  let code (k : Nat) : Nat :=
    let o := clampI (rnd (matrixAt l g k 0 * r + matrixAt l g k 1 * gr + matrixAt l g k 2 * bl) 13) 0 0xFFFFF
    outlut (FMap.get [] l.outLuts (3 * lane + k)) cmax o.toNat
  { codes := (code 0, code 1, code 2)
    samples := (ts.map (fun x => x.2.taken)).sum
    capped := ts.any (fun x => x.2.capped) }

/-! ## Fans (R17, R102, R123–R128) -/

/-- The fan of a lane, its basin and its index there (R14, R17). -/
def fanOf (lane : Nat) : Nat := lane / 64
def basinOf (fan : Nat) : Nat := fan / 2

/-- The effective budget of a ray of group `g` that enters now (R102). -/
def budgetOf (l : Latch) (fan : Nat) (s : State) : Nat :=
  let b := basinOf fan
  let cap := latched l (if fan % 2 = 0 then SYN_CAP_CAP0 b else SYN_CAP_CAP1 b)
  min cap (min (getF (SYN_LIMIT_SHED b (fan % 2)) s) (getF (SYN_LIMIT_THERM b (fan % 2)) s))

/-- The fan is in shed (R127). -/
def inShed (fan : Nat) (s : State) : Bool := bitOf (getF (SYN_STAT_SHED (basinOf fan)) s) (fan % 2)

/-- The basin's page works: it reads ON, STOPPING or PENDING_ON. -/
def synRuns (fan : Nat) (s : State) : Bool := runs (0x80 + basinOf fan) s

/-- The pool depth of a lane's tile, in rows (R122). -/
def poolDepth (t : TileRec) (rw_ : Nat) : Nat :=
  min 1024 (98304 * (if t.bonded then 2 else 1) / (rw_ * (if t.code12 then 5 else 4)))

/-- Computed rays whose rows have not left the lane (R124). -/
def poolRays (lane : Nat) (s : State) : Nat :=
  (((s.pool lane).rows.filter (fun r => !r.gone)).map (fun r => r.rays.length)).sum

/-- The fill as SYN_POOLl shows it, U12.4 rows rounded down (R124). -/
def poolFill (lane : Nat) (s : State) : Nat := 16 * poolRays lane s / max 1 (tileRW lane s)

/-- SYN_POOLl.FILL follows the portion (R147). -/
def showPool (lane : Nat) (s : State) : State :=
  setF (SYN_POOL_FILL (lane / 128) (lane % 128)) (min 0xFFFF (poolFill lane s)) s

/-- The tile emits the pattern of COR_PAT in this frame (R201). -/
def patterned (lane : Nat) (s : State) : Bool :=
  bitOf (latched (s.grp (tileRec lane s).group).latch (COR_PATM (lane / 32))) (lane % 32)

/-- The time at which row `r` of a lane's tile departs (R119). -/
def departTime (lane r : Nat) (s : State) : Nat :=
  let g := s.grp (tileRec lane s).group
  g.fs + r * g.timing.active / max 1 (tileRH lane s)

/-- The lane's tile takes part in the frame of its group that runs (R157), and is not cut off from it (R169, R172). -/
def takesPart (lane : Nat) (s : State) : Bool :=
  let g := s.grp (tileRec lane s).group
  tileValid lane s && decide (g.phase ≠ .none) && !g.aborted && g.parts.contains lane && !(s.lane lane).cut

/-- The next row of a tile is eligible (R123). The FL of a frame comes only after the rows of the frame before have left,
so that every ray of it has been computed by then. -/
def eligible (lane : Nat) (s : State) : Bool :=
  let p := s.pool lane
  let d := poolDepth (tileRec lane s) (tileRW lane s)
  takesPart lane s && !patterned lane s && decide (p.next < tileRH lane s) &&
    (decide (p.next < d) || decide (p.next - d < p.sent) ||
      p.rows.any (fun r => decide (r.row = p.next - d) && r.gone))

/-- The lane whose row a fan starts: the earliest departure, then the lower lane (R123). -/
def pickLane (fan : Nat) (s : State) : Option Nat :=
  (List.range 64).foldl (fun acc i =>
    let lane := 64 * fan + i
    if !eligible lane s then acc
    else match acc with
      | none => some lane
      | some b => if departTime lane (s.pool lane).next s < departTime b (s.pool b).next s then some lane else some b) none

/-- FAN_ROW_START (R123). -/
def execFanRowStart (fan : Fin 16) (s : State) : Host.Outcome State Fault Refusal :=
  .next (if (s.fan fan.val).row.isSome ∨ synRuns fan.val s = false then s else
    match pickLane fan.val s with
    | none => s
    | some lane =>
      let p := s.pool lane
      s |> State.setPool lane { p with next := p.next + 1, rows := p.rows ++ [{ row := p.next, rays := [] }] }
        |> State.setFan fan.val { s.fan fan.val with row := some (lane, p.next, 0) })

/-- `n` cycles of a jet at `d`. Every cycle adds D to the accumulator, and a carry makes it a pause (R452), in which no ray
enters and the work in the jet stands still; a ray occupies the jet for its working cycles (R15; log 50). -/
def jetIdle (x : Jet) (n d : Nat) : Jet :=
  let a := x.acc + n * d
  { x with acc := a % 256, left := x.left - (n - a / 256) }

/-- A jet at an RCLK cycle, whether a ray may enter it, and how it then stands. `idle` tells the cycles since its last command:
how many passed under each value of D that has gone since, and then how many under the one in force, `d` (R452). -/
def jetCycle (idle : List Nat) (d : Nat) (x : Jet) : Bool × Jet :=
  let y := ((x.past ++ [d]).zip idle).foldl (fun y e => jetIdle y e.2 e.1) x
  let b := y.acc + d
  if 256 ≤ b then (false, ⟨b % 256, y.left, []⟩)
  else (decide (y.left = 0), ⟨b, y.left - 1, []⟩)

/-- The working cycles of a ray of `n` effective samples (R15). -/
def rayCycles (n : Nat) : Nat := max 1 (ceilDiv n 16)

/-- A ray of `n` samples has entered jet `j`. -/
def occupy (j n : Nat) (s : State) : State := s.setJet j { s.jet j with left := rayCycles n - 1 }

/-- A completed ray is counted: rays, cycles under R15, samples and capped rays (R114). -/
def countRay (fan : Nat) (o : RayOut) (s : State) : State :=
  let b := basinOf fan
  let k := fan % 2
  let lo := getF (SYN_SAMPLES_LO b k) s + o.samples
  s |> addF (SYN_RAYS b k) 1 |> addF (SYN_CYCLES b k) (rayCycles o.samples)
    |> setF (SYN_SAMPLES_LO b k) lo |> addF (SYN_SAMPLES_HI b k) (lo / 2 ^ 32)
    |> addF (SYN_CAPPED b k) (bit o.capped)

/-! ## Probe views (R110–R112, R115) -/

/-- The word of a probe pixel; codes of 12-bit tiles are reduced (R112). -/
def probeWord (code12 : Bool) (c : Nat × Nat × Nat) : Nat :=
  let f (x : Nat) : Nat := if code12 then (clampI (rnd x 2) 0 1023).toNat else x
  f c.1 * 2 ^ 20 + f c.2.1 * 2 ^ 10 + f c.2.2

/-- The byte address of a hogel's pixel (R112). -/
def ProbeRun.pixel (r : ProbeRun) (h : Nat × Nat) : Nat := r.addr + (h.2 - r.y0) * r.pitch + 4 * (h.1 - r.x0)

/-- A hogel of a probe's picture has been written. -/
def ProbeRun.wrote (r : ProbeRun) (h : Nat × Nat) : ProbeRun := { r with todo := r.todo.filter (fun x => decide (x ≠ h)) }

/-- One pixel of a probe's picture is written. -/
def writeProbe (p : Nat) (r : ProbeRun) (h : Nat × Nat) (w : Nat) (s : State) : State :=
  s |> putWord (r.pixel h) w |> State.setProbe p { s.probe p with cur := some (r.wrote h) }

/-- A PANEL picture of the frame that runs takes hogel `h` from a ray of direction (u, v) (R110). -/
def ProbeRun.takes (r : ProbeRun) (g n u v : Nat) (h : Nat × Nat) : Bool :=
  !r.virtual && decide (r.group = g) && decide (r.frame = n) && decide (r.u = u) && decide (r.v = v) && r.todo.contains h

/-- PANEL probes copy the codes of the ray as it leaves the jet (R110), also while the VIRTUAL picture of the frame before still
runs until FS (R111). -/
def copyToProbes (lane col row : Nat) (codes : Nat × Nat × Nat) (s : State) : State :=
  let t := tileRec lane s
  let h := (t.hx0 + col / dirA s, t.hy0 + row / dirB s)
  let takes (r : ProbeRun) (u : State) : Bool := r.takes t.group (u.grp t.group).idx (col % dirA s) (row % dirB s) h
  let w := probeWord t.code12 codes
  each (List.range 4) (fun p u =>
    let u := match (u.probe p).cur with
      | some r => ifS (takes r u) (writeProbe p r h w) u
      | none => u
    match (u.probe p).next with
    | some r => ifS (takes r u) (fun u => u |> putWord (r.pixel h) w |> State.setProbe p { u.probe p with next := some (r.wrote h) }) u
    | none => u) s

/-- A probe picture that is not finished: counted and raised; what is not written keeps its contents (R111). -/
def probeIncomplete (p : Nat) (s : State) : State :=
  s |> State.setProbe p { s.probe p with cur := none } |> countF (SYN_PRB_STAT_INCOMPLETE p) |> raise 0x80 (8 + p)

/-- A probe's picture ends and is the newest (R112); encode sessions of the probe take it (R299). `marked`: it is incomplete, so
it is counted and raised as such too. DESIGN CHOICE (log 58): an incomplete VIRTUAL picture that ends at the next FS counts in
STAT.DONE, sets STAT.LAST_BUF and raises PROBE_DONE like a complete one; R115 calls these those of completed pictures. -/
def probeEnds (marked : Bool) (p : Nat) (r : ProbeRun) (s : State) : State :=
  s |> State.setProbe p { s.probe p with cur := none }
    |> setF (SYN_PRB_STAT_LAST_BUF p) r.buf |> addF (SYN_PRB_STAT_DONE p) 1
    |> ifS marked (fun s => s |> countF (SYN_PRB_STAT_INCOMPLETE p) |> raise 0x80 (8 + p)) |> raise 0x80 (4 + p)
    |> takePicture 0 p (some r.frame) ⟨r.frame, r.fs, r.addr, none, none, r.pitch, r.w, r.h, false, marked, false, [], [], []⟩

/-- The last pixel of a picture has been written (R112). -/
def probeComplete (p : Nat) (r : ProbeRun) (s : State) : State := probeEnds false p r s

/-- PROBE_DONE (R112). -/
def execProbeDone (probe : Fin 4) (s : State) : Host.Outcome State Fault Refusal :=
  .next (match (s.probe probe.val).cur with
    | some r => if r.todo.isEmpty then probeComplete probe.val r s else s
    | none => s)

/-- The box of the hogels of a group's valid tiles: its corners, the second one outside (R112). -/
def groupBox (g : Nat) (s : State) : Nat × Nat × Nat × Nat :=
  let ts := (s.panel.map.tiles.map (fun e => e.2)).filter (fun t => t.valid && decide (t.group = g))
  (ts.foldl (fun a t => min a t.hx0) (2 ^ 14), ts.foldl (fun a t => min a t.hy0) (2 ^ 13),
    ts.foldl (fun a t => max a (t.hx0 + t.hwM1 + 1)) 0, ts.foldl (fun a t => max a (t.hy0 + t.hhM1 + 1)) 0)

/-- A tile of the group covers a hogel; its lane. -/
def laneOfHogel (g : Nat) (h : Nat × Nat) (s : State) : Option Nat :=
  (s.panel.map.tiles.find? (fun e => e.2.valid && decide (e.2.group = g) && decide (e.2.hx0 ≤ h.1) && decide (h.1 ≤ e.2.hx0 + e.2.hwM1) &&
    decide (e.2.hy0 ≤ h.2) && decide (h.2 ≤ e.2.hy0 + e.2.hhM1))).map (fun e => e.1)

/-- A probe begins the picture of frame `n`, or does not run because PITCH is too small or U, V do not exist (R112, R115).
The hogels of the box that no tile covers are written as 0 at the beginning (log 30). -/
def beginProbe (p : Nat) (r : ProbeRun) (s : State) : State :=
  let s := probeOverwrites p r.addr s
  let all := (List.range r.h).flatMap (fun y => (List.range r.w).map (fun x => (r.x0 + x, r.y0 + y)))
  let bare := all.filter (fun h => (laneOfHogel r.group h s).isNone)
  let s := each bare (fun h t => putWord (r.pixel h) 0 t) s
  let r := { r with todo := all.filter (fun h => !bare.contains h) }
  s.setProbe p (if (s.probe p).cur.isSome then { s.probe p with next := some r } else { s.probe p with cur := some r })

/-- A group's FL: the probes that name it latch, and those that run on it begin their pictures (R88, R112, R115). DESIGN
CHOICE (log 30): a frame for which the probe does not run counts in STAT.INCOMPLETE too, beside ERR and the event that R112
names, and leaves the order of the buffers as it is. -/
def latchProbe (g : Nat) (p : Nat) (s : State) : State :=
  let a (k : Nat) : Word := rd ((SYN_PRB_CFG_EN p).addr + 4 * k) s
  let x := s.probe p
  let x := if bitsOf (a 0).toNat 29 28 ≠ g then x else
    { x with cfg := a 0, sx := a 1, sy := a 2, buf0 := a 3, buf1 := a 4, pitch := a 5,
             nextBuf := if bitOf x.cfg.toNat 31 then x.nextBuf else 0 }
  let s := s.setProbe p x
  let c := x.cfg.toNat
  if bitOf c 31 = false ∨ bitsOf c 29 28 ≠ g ∨ (s.grp g).early = true then s
  else
    let box := groupBox g s
    let w := box.2.2.1 - box.1
    let h := box.2.2.2 - box.2.1
    let virtual := bitOf c 30
    let bad := decide (x.pitch.toNat < 4 * w) ||
      (!virtual && (decide (dirA s ≤ bitsOf c 9 5) || decide (dirB s ≤ bitsOf c 4 0)))
    let s := setB (SYN_PRB_STAT_ERR p) bad s
    -- a PANEL picture of the frame before that tiles without part have left unfinished (log 30)
    let s := match (s.probe p).cur with
      | some r => if r.todo.isEmpty then probeComplete p r s else if r.virtual then s else probeIncomplete p s
      | none => s
    if bad then s |> countF (SYN_PRB_STAT_INCOMPLETE p) |> raise 0x80 (8 + p) else
    let buf := x.nextBuf
    let r : ProbeRun := {
      group := g, frame := (s.grp g).idx, fs := (s.grp g).fs, virtual := virtual,
      sx := toSigned 20 x.sx.toNat, sy := toSigned 20 x.sy.toNat, u := bitsOf c 9 5, v := bitsOf c 4 0,
      buf := buf, addr := (if buf = 0 then x.buf0.toNat else x.buf1.toNat) * 256, pitch := x.pitch.toNat,
      x0 := box.1, y0 := box.2.1, w := w, h := h, todo := [], latch := (s.grp g).latch }
    let s := s.setProbe p { s.probe p with nextBuf := 1 - buf }
    if (s.probe p).cur.isSome && virtual then s.setProbe p { s.probe p with next := some r } else beginProbe p r s

/-- A group's FS: a VIRTUAL picture of the frame before ends, and the next one begins (R111). DEDUCED (log 58): a VIRTUAL picture
that R111 marks incomplete is handed out all the same, with its mark, since R303 carries the mark to the encoded picture. -/
def probeAtFs (g : Nat) (p : Nat) (s : State) : State :=
  let s := match (s.probe p).cur with
    | some r => if r.group = g ∧ r.frame ≠ (s.grp g).idx then
        (if r.todo.isEmpty then probeComplete p r s else if r.virtual then probeEnds true p r s else probeIncomplete p s) else s
    | none => s
  match (s.probe p).next with
  | some r =>
    if (s.probe p).cur.isSome then s
    else if r.virtual then beginProbe p r (s.setProbe p { s.probe p with next := none })
    else s.setProbe p { s.probe p with cur := some r, next := none }
  | none => s

/-- A frame of a group is aborted: its PANEL pictures are incomplete (R129). -/
def probesAbort (g : Nat) (s : State) : State :=
  let mine (r : ProbeRun) (t : State) : Bool := decide (r.group = g) && !r.virtual && decide (r.frame = (t.grp g).idx)
  each (List.range 4) (fun p t =>
    let t := match (t.probe p).cur with
      | some r => ifS (mine r t) (probeIncomplete p) t
      | none => t
    match (t.probe p).next with
    | some r => ifS (mine r t) (fun t => t |> State.setProbe p { t.probe p with next := none } |> countF (SYN_PRB_STAT_INCOMPLETE p) |> raise 0x80 (8 + p)) t
    | none => t) s

/-- A fan's spare cycles serve probe rays: it is not in shed, no row of it waits, and every pool portion of its tiles is above
the weir (R111, R123). DEDUCED (log 51): a tile that takes no part, or emits the pattern, counts with its empty portion. -/
def spare (fan : Nat) (s : State) : Bool :=
  synRuns fan s && !inShed fan s && (s.fan fan).row.isNone && (pickLane fan s).isNone &&
  (List.range 64).all (fun i =>
    let lane := 64 * fan + i
    let g := (tileRec lane s).group
    !tileValid lane s || decide (latched (s.grp g).latch (RAS_WEIR_WEIR g) * tileRW lane s < 16 * poolRays lane s))

/-- The fan serves the tile that a hogel of a group lies in (R17). -/
def fanServes (fan g : Nat) (h : Nat × Nat) (s : State) : Bool :=
  match laneOfHogel g h s with
  | some lane => decide (fanOf lane = fan)
  | none => false

/-- The ray map that a probe's picture uses: that of its own frame, which runs until the next FS (R110, R111, R193). -/
def ProbeRun.rayMap (r : ProbeRun) (lane : Nat) (s : State) : Option RayMap :=
  let x := s.tileCor lane
  if r.fs = (s.grp r.group).fs then x.rayMap else x.rayOld.getD x.rayMap

/-- The ray of a VIRTUAL probe through hogel `h`, at the fan's effective budget (R110, R111). -/
def probeRay (fan : Nat) (r : ProbeRun) (h : Nat × Nat) (s : State) : RayOut :=
  let lane := (laneOfHogel r.group h s).getD 0
  let t := tileRec lane s
  castRay r.latch r.group (basinOf fan) lane
    { mapRayIn (r.rayMap lane s) lane ((h.1 - t.hx0) * dirA s) ((h.2 - t.hy0) * dirB s) s with sx := r.sx, sy := r.sy } 0 (0x200, 0x200, 0x200)
    (budgetOf r.latch fan s) s

/-- VIRTUAL_PROBE_RAY: in a spare cycle the next hogel of the picture whose tile the jet's fan serves is taken (R110, R111,
R452). -/
def execVirtualProbeRay (probe : Fin 4) (jet : Fin 128) (idle : List Nat) (s : State) : Host.Outcome State Fault Refusal :=
  let fan := jet.val / 8
  .next (if synRuns fan s = false then s else
    let c := jetCycle idle (getF THM_STAT_D s) (s.jet jet.val)
    let s := s.setJet jet.val c.2
    match (s.probe probe.val).cur with
    | none => s
    | some r =>
      match r.todo.find? (fun h => fanServes fan r.group h s) with
      | none => s
      | some h =>
        if r.virtual = false ∨ spare fan s = false ∨ c.1 = false then s else
        let o := probeRay fan r h s
        s |> occupy jet.val o.samples |> countRay fan o
          |> writeProbe probe.val r h (probeWord (tileRec ((laneOfHogel r.group h s).getD 0) s).code12 o.codes))

/-! ## The commands of a jet -/

/-- The ray that a fan hands out: ray (col, row) of a lane's tile, traced, composited and encoded (R87, R102). -/
def handedRay (fan lane row col : Nat) (s : State) : RayOut :=
  let l := (s.grp (tileRec lane s).group).latch
  let gain := if l.early then (0x200, 0x200, 0x200) else tileGain (latched l COR_CFG_GAIN_EN ≠ 0) lane col row s
  castRay l (tileRec lane s).group (basinOf fan) lane (tileRayIn lane col row s) (row % dirB s * dirA s + col % dirA s) gain
    (budgetOf l fan s) s

/-- RAY_ENTERS_JET: `idle` RCLK cycles after the last command of the jet (`jetCycle`), it takes the next ray of the row its fan hands out,
unless the cycle is a pause or its last ray still occupies it (R15, R87, R102, R452). -/
def execRayEntersJet (jet : Fin 128) (idle : List Nat) (s : State) : Host.Outcome State Fault Refusal :=
  let fan := jet.val / 8
  .next (if synRuns fan s = false then s else
    let c := jetCycle idle (getF THM_STAT_D s) (s.jet jet.val)
    let s := s.setJet jet.val c.2
    match (s.fan fan).row with
    | none => s
    | some (lane, row, col) =>
      if c.1 = false then s else
      let o := handedRay fan lane row col s
      let p := s.pool lane
      s |> occupy jet.val o.samples
        |> State.setPool lane { p with rows := p.rows.map (fun r => if r.row = row then { r with rays := r.rays ++ [o.codes] } else r) }
        |> State.setFan fan { s.fan fan with row := if col + 1 < tileRW lane s then some (lane, row, col + 1) else none }
        |> countRay fan o
        |> setF (SYN_GOV_MAXS (basinOf fan) (fan % 2)) (max (getF (SYN_GOV_MAXS (basinOf fan) (fan % 2)) s) o.samples)
        |> showPool lane |> copyToProbes lane col row o.codes)

/-- ANCHOR_CACHE_FILL: a stalled jet resumes; the cycles lost are counted (R89, R114). -/
def execAnchorCacheFill (fan : Fin 16) (cycles : Nat) (s : State) : Host.Outcome State Fault Refusal :=
  .next (ifS (synRuns fan.val s) (addF (SYN_STALLS (basinOf fan.val) (fan.val % 2)) cycles) s)

/-- A CAP field of a write: 0 and values above 256 are discarded and raise CAP_REFUSED (R104). -/
def writeCap (b : Nat) (v : Word) (s : State) : State :=
  let ok (n : Nat) : Bool := decide (1 ≤ n) && decide (n ≤ 256)
  let c1 := bitsOf v.toNat 24 16
  let c0 := bitsOf v.toNat 8 0
  s |> ifS (ok c1) (setF (SYN_CAP_CAP1 b) c1) |> ifS (ok c0) (setF (SYN_CAP_CAP0 b) c0)
    |> ifS (!(ok c1 && ok c0)) (raise (0x80 + b) 2)

/-- SYN_CAP_WRITE (R104). -/
def execSynCapWrite (who : Who) (b : Fin 8) (v : Word) (s : State) : Host.Outcome State Fault Refusal :=
  .next (guardWrite who (0x80 + b.val) (SYN_CAP_CAP0 b.val).addr (mayWrite who (0x80 + b.val) s) (writeCap b.val v) s)

/-- SYN_POOL_WRITE: any write sets LOW to 0xFFFF (R147). -/
def execSynPoolWrite (who : Who) (lane : Fin 1024) (_v : Word) (s : State) : Host.Outcome State Fault Refusal :=
  let p := lane.val / 128
  .next (guardWrite who (0x80 + p) (SYN_POOL_LOW p (lane.val % 128)).addr (mayWrite who (0x80 + p) s)
    (setF (SYN_POOL_LOW p (lane.val % 128)) 0xFFFF) s)

end Sys2Proof.Machine
end

