-- ==== Sys2Proof/Machine/Link.lean ====
section
/-!
DEFINITION. The Rill tile link (spec/05): bring-up, rate switching, status packets, faults and blanking, line packets,
signatures and the echo check, test loops and fault injection.
-/

namespace Sys2Proof.Machine

/-! ## Leaving a frame (R157, R169, R172) -/

/-- The group's frame is in progress and the tile takes part in it. -/
def inFrame (base : Nat) (s : State) : Bool := takesPart base s

/-- The portion of a tile is emptied, and its row leaves the fan (R129, R169). -/
def dropRays (base : Nat) (s : State) : State :=
  let f := fanOf base
  let s := match (s.fan f).row with
    | some (l, _, _) => if l = base then s.setFan f { s.fan f with row := none } else s
    | none => s
  s |> State.setPool base { s.pool base with rows := [] } |> showPool base

/-- The tile leaves the frame in progress: no further line packet and no COMMIT of it; its rays are discarded, and its
remaining rows count as sent (R169, R172). -/
def cutTile (base : Nat) (s : State) : State :=
  if !inFrame base s then s
  else s |> modLane base (fun x => { x with cut := true }) |> dropRays base |> settleRows base false

/-! ## MODE (R164) -/

/-- MODE of a type and body is sent on a lane: MSEQ counts on (R164). -/
def sendMode (lane mtype : Nat) (body : List Word) (s : State) : State :=
  let m := ((s.lane lane).mseq + 1) % 256
  let head := 0x5C000000 + mtype * 65536 + body.length * 256 + m
  let crc := Word.ofNat (crcBytes (natBe 3 (head % 2 ^ 24) ++ body.flatMap (fun w => natBe 4 w.toNat)))
  s |> modLane lane (fun x => { x with mseq := m })
    |> sendClosed lane ((true, Word.ofNat head) :: (body ++ [crc]).map (fun w => (false, w)))

/-- MODE goes out on every lane of a tile (R172); a DISABLED lane sends nothing (R155). -/
def sendModeTile (base mtype : Nat) (body : List Word) (s : State) : State :=
  each ((tileLanes base s).filter (fun k => decide (lstate k s ≠ 0))) (fun k => sendMode k mtype body) s

/-! ## The lane's states (R155, R156) -/

/-- The lane changes state: leaving READY raises DOWN, reaching it raises UP (R155). -/
def setLstate (lane st : Nat) (s : State) : State :=
  let old := lstate lane s
  let s := setF (laneF LNK_STAT_LSTATE lane) st s
  showFill lane (if old = 4 ∧ st ≠ 4 then laneCause lane 2 s else if old ≠ 4 ∧ st = 4 then laneCause lane 1 s else s)

/-- A line packet in progress ends where it stands, as its lane leaves READY. -/
def endPacket (lane : Nat) (s : State) : State :=
  s |> cutPackets lane (now s) [] |> modLane lane (fun x => { x with tx := [] })

/-- A lane leaves READY, or RATE_SWITCH, in which it transmits as in READY until the switch: its tile stops taking part
(R155, R157, R172). A bonded tile stops at once; where its pair loses one lane and does not switch its rate,
BOND_MISMATCH is raised on lane 2i (log 31). -/
def leaveReady (lane st : Nat) (s : State) : State :=
  if lstate lane s ≠ 4 ∧ lstate lane s ≠ 5 then setLstate lane st s else
  let base := tileLane lane s
  let pair := tileLanes base s
  let lost := decide (lstate lane s = 4) && decide (st ≠ 5) && pair.any (fun k => decide (k ≠ lane) && decide (lstate k s = 4))
  s |> ifS (decide (st ≠ 5) || decide (1 < pair.length)) (cutTile base) |> ifS (decide (st ≠ 5)) (endPacket lane) |> setLstate lane st
    |> modLane base (fun x => { x with timing := none }) |> ifS lost (laneCause base 10)

/-- The lane hunts at a rate code (R155). -/
def huntAt (lane rate : Nat) (s : State) : State :=
  s |> leaveReady lane 1 |> setF (laneF LNK_STAT_ARATE lane) rate
    |> modLane lane (fun x => { x with sync := 0, idles := 0, lockedIdles := 0, groups := 0, errs := [], ratePending := none,
                                       rateAcked := false, farEnd := false }) |> showFill lane

/-- The receiver has left LOCKED outside READY: HUNT at the same rate (R155). -/
def hunt (lane : Nat) (s : State) : State := huntAt lane (arate lane s) s

/-- What a lane keeps over DISABLED: the REJ and FCODE of its latest valid status packet (R167, R169), and whether its tile has
left the frame in progress. -/
def restedLane (x : Lane) : Lane := { cut := x.cut, lastRej := x.lastRej, sinceFault := x.sinceFault, fill := x.fill }

/-- A lane leaves DISABLED (R155, R164); with LOOP ≠ 0 it reads LOOP at once, and a FAR_END loop asks its tile (R181). -/
def startLane (lane : Nat) (s : State) : State :=
  let s := s.setLane lane (restedLane (s.lane lane))
  let s := huntAt lane 2 s
  let loop := getF (laneF LNK_CTRL_LOOP lane) s
  if loop = 0 then s else s |> setLstate lane 6 |> ifS (decide (loop = 3)) (sendModeTile (tileLane lane s) 3 [1])

/-- A lane returns to DISABLED (R155). -/
def disableLane (lane : Nat) (s : State) : State :=
  s |> leaveReady lane 0 |> modLane lane restedLane |> setF (laneF LNK_STAT_ARATE lane) 0
    |> setB (laneF LNK_STAT_PSYNC lane) false

/-- The target rate of a lane: min(RATE, MAXRATE); for a bonded pair the lower of the two, while both read READY (R156). -/
def targetRate (lane : Nat) (s : State) : Option Nat :=
  let base := tileLane lane s
  let pair := tileLanes base s
  let rate := getF (laneF LNK_CTRL_RATE base) s
  if pair.length = 1 then ((s.lane lane).maxRate).map (fun m => min (getF (laneF LNK_CTRL_RATE lane) s) m)
  else if pair.any (fun k => decide (lstate k s ≠ 4)) then none
  else pair.foldl (fun acc k => match acc, (s.lane k).maxRate with
    | some a, some m => some (min a (min rate m))
    | _, _ => none) (some 16)

/-- A READY lane whose target differs from ARATE sends MODE RATE and waits for its acknowledgement (R156); the lanes of a
bonded pair switch together, and one that leaves READY alone raises BOND_MISMATCH (R172). -/
def checkRate (lane : Nat) (s : State) : State :=
  match targetRate lane s with
  | none => s
  | some t =>
    let go (k : Nat) : Bool := decide (lstate k s = 4) && decide (t ≠ arate k s) && !(s.lane k).rateGaveUp
    let pair := tileLanes (tileLane lane s) s
    let ks := (if pair.length = 1 then [lane] else pair).filter go
    if ks.isEmpty then s else
    each ks (fun k u => u |> leaveReady k 5 |> modLane k (fun x => { x with ratePending := some (t, 1), rateAcked := false })) s
      |> sendModeTile (tileLane lane s) 2 [Word.ofNat t]
      |> ifS (decide (ks.length < pair.length)) (laneCause (tileLane lane s) 10)

/-- A lane reaches READY (R155, R156). -/
def reachReady (lane : Nat) (s : State) : State :=
  s |> setLstate lane 4 |> modLane lane (fun x => { x with switching := false })
    |> modLane (tileLane lane s) (fun x => { x with timing := none }) |> checkRate lane

/-! ## Blanking (R168–R170) -/

/-- BLANK leaves a lane that is LOCKED or beyond at time `t` (R168, R170). -/
def sendBlankAt (t cause lane : Nat) (s : State) : State :=
  ifS (decide (3 ≤ lstate lane s)) (sendCutting lane t (blankSet cause)) s

/-- BLANK goes out at once. -/
def sendBlank (cause lane : Nat) (s : State) : State := sendBlankAt (now s) cause lane s

/-- A cause of blanking is in force on the tile of `base`. -/
def blankCause (base : Nat) (s : State) : Bool :=
  (tileLanes base s).any (fun k => getB (laneF LNK_STAT_FBLANK k) s || getB (laneF LNK_CTRL_BLANK k) s)

/-- BLANKED follows its causes; a tile that becomes blanked leaves the frame in progress and needs MODE TIMING anew (R169). -/
def refreshBlank (base : Nat) (s : State) : State :=
  let on := blankCause base s
  let s := if on && !getB (laneF LNK_STAT_BLANKED base) s then
      each (tileLanes base s) (fun k => modLane k (fun x => { x with timing := none })) (cutTile base s)
    else s
  each (tileLanes base s) (fun k => setB (laneF LNK_STAT_BLANKED k) on) s

/-- A tile fault is indicated on a lane (R168): BLANK is sent unless the tile is blanked already. -/
def tileFault (lane latency : Nat) (s : State) : State :=
  let base := tileLane lane s
  let pair := tileLanes base s
  let was := getB (laneF LNK_STAT_BLANKED base) s
  let s := if was then s else
    s |> each pair (sendBlankAt (now s + latency) 1) |> setF (laneF LNK_BLANK_LAT_LAST lane) latency
      |> setF (laneF LNK_BLANK_LAT_MAX lane) (max (getF (laneF LNK_BLANK_LAT_MAX lane) s) latency)
  s |> each pair (fun k t => t |> setB (laneF LNK_STAT_FBLANK k) true |> modLane k (fun x => { x with sinceFault := none }))
    |> refreshBlank base |> laneCause lane 3

/-- BLANK_REPEAT (R169). -/
def execBlankRepeat (lane : Fin 1024) (s : State) : Host.Outcome State Fault Refusal :=
  .next (ifS (lnkRuns lane.val s && getB (laneF LNK_STAT_BLANKED lane.val) s)
    (sendBlank (if getB (laneF LNK_STAT_FBLANK lane.val) s then 1 else 2) lane.val) s)

/-- LNK_CTRLi.BLANK is written (R169). -/
def writeBlank (lane : Nat) (on : Bool) (s : State) : State :=
  if getB (laneF LNK_CTRL_BLANK lane) s = on then s else
  let base := tileLane lane s
  s |> setB (laneF LNK_CTRL_BLANK lane) on |> ifS on (each (tileLanes base s) (sendBlank 2)) |> refreshBlank base

/-- UNBLANK is written (R169): every lane of the tile must have had a valid status packet since the last fault indication,
the latest with FCODE 0x00. -/
def writeUnblank (lane : Nat) (s : State) : State :=
  let base := tileLane lane s
  let pair := tileLanes base s
  if pair.all (fun k => decide ((s.lane k).sinceFault = some 0)) then
    s |> each pair (fun k => setB (laneF LNK_STAT_FBLANK k) false) |> refreshBlank base
  else s

/-! ## Register writes of a lane (R155, R181, R185) -/

/-- LNK_CTRLi.EN is written (R155, R156). -/
def writeEn (lane : Nat) (en : Bool) (s : State) : State :=
  if getB (laneF LNK_CTRL_EN lane) s = en then s else
  let s := setB (laneF LNK_CTRL_EN lane) en s
  if !en then disableLane lane s else if isOn (lanePage lane) s then startLane lane s else s

/-- LNK_CTRLi.RATE is written (R156, R185). -/
def writeRate (lane rate : Nat) (s : State) : State :=
  if getF (laneF LNK_CTRL_RATE lane) s = rate then s
  else if rate < 2 ∨ 16 < rate ∨ laneIdle lane s = false then laneCause lane 7 s
  else
    let s := setF (laneF LNK_CTRL_RATE lane) rate s
    s |> each (tileLanes (tileLane lane s) s) (fun k => modLane k (fun x => { x with rateGaveUp := false })) |> checkRate lane

/-- DESIGN CHOICE (log 70): a change from FAR_END to a near-end loop sends MODE LOOP with bit 0 = 0 as R182 asks for LOOP = 0.
LNK_CTRLi.LOOP is written (R181, R182): a nonzero LOOP only while the lane's tile takes part in no frame, be it the one
held. -/
def writeLoop (lane loop : Nat) (s : State) : State :=
  let old := getF (laneF LNK_CTRL_LOOP lane) s
  if loop ≠ 0 ∧ laneIdle lane s = false then laneCause lane 8 s
  else if old = loop then s
  else
    let base := tileLane lane s
    let s := s |> setF (laneF LNK_CTRL_LOOP lane) loop |> setB (laneF LNK_STAT_PSYNC lane) false
      |> modLane lane (fun x => { x with prbs := 0, prbsGood := 0, switching := false })
    if lstate lane s = 0 then s
    else if loop ≠ 0 then
      s |> leaveReady lane 6 |> ifS (decide (old = 3)) (sendModeTile base 3 [0]) |> ifS (decide (loop = 3)) (sendModeTile base 3 [1])
        |> modLane lane (fun x => { x with farEnd := false, ratePending := none, rateAcked := false }) |> showFill lane
    else if old = 3 then s |> sendModeTile base 3 [0] |> modLane lane (fun x => { x with farEnd := false }) |> showFill lane
    else huntAt lane 2 s

/-- LNK_INJ is written (R183); the page's index is 0–63. -/
def writeInj (p : Nat) (v : Word) (s : State) : State :=
  let n := v.toNat
  let kind := bitsOf n 29 28
  let lane := bitsOf n 27 24
  if getB (LNK_INJ_ARM p) s then s else
  let s := s |> setF (LNK_INJ_COMMIT p) (bitsOf n 30 30) |> setF (LNK_INJ_KIND p) kind |> setF (LNK_INJ_LANE p) lane
    |> setF (LNK_INJ_ROW p) (bitsOf n 15 0)
  if bitOf n 31 = false ∨ kind = 0 then s
  else if injOk p kind lane (bitsOf n 15 0) (getF (LNK_INJ_POS_WORD p) s) s then
    s |> setB (LNK_INJ_ARM p) true |> State.setInjLive p false
  else laneCause (16 * p + lane) 13 s

/-- LNK_INJ_POS is written: discarded while ARM = 1, and BIT above 9 is stored as 9 (R183, R184). -/
def writeInjPos (p : Nat) (v : Word) (s : State) : State :=
  if getB (LNK_INJ_ARM p) s then s
  else s |> setF (LNK_INJ_POS_WORD p) (bitsOf v.toNat 31 16) |> setF (LNK_INJ_POS_BYTE p) (bitsOf v.toNat 15 14)
    |> setF (LNK_INJ_POS_BIT p) (min 9 (bitsOf v.toNat 3 0))

/-- A write of a lane's register by `who`. -/
def laneWrite (who : Who) (lane : Nat) (f : Nat → Nat → Fld) (g : State → State) (s : State) : State :=
  guardWrite who (lanePage lane) (laneF f lane).addr (mayWrite who (lanePage lane) s) g s

/-- LNK_EN_WRITE (R155). -/
def execLnkEnWrite (who : Who) (lane : Fin 1024) (en : Bool) (s : State) : Host.Outcome State Fault Refusal :=
  .next (laneWrite who lane.val LNK_CTRL_EN (writeEn lane.val en) s)

/-- LNK_RATE_WRITE (R185). -/
def execLnkRateWrite (who : Who) (lane : Fin 1024) (rate : Nat) (s : State) : Host.Outcome State Fault Refusal :=
  .next (laneWrite who lane.val LNK_CTRL_RATE (writeRate lane.val (rate % 32)) s)

/-- LNK_LOOP_WRITE (R181). -/
def execLnkLoopWrite (who : Who) (lane : Fin 1024) (loop : Nat) (s : State) : Host.Outcome State Fault Refusal :=
  .next (laneWrite who lane.val LNK_CTRL_LOOP (writeLoop lane.val (loop % 4)) s)

/-- LNK_BLANK_WRITE (R169). -/
def execLnkBlankWrite (who : Who) (lane : Fin 1024) (blank : Bool) (s : State) : Host.Outcome State Fault Refusal :=
  .next (laneWrite who lane.val LNK_CTRL_BLANK (writeBlank lane.val blank) s)

/-- UNBLANK (R169); in the cycle of a fault indication of the tile it has no effect (R171). -/
def execUnblank (who : Who) (lane : Fin 1024) (fault : Bool) (s : State) : Host.Outcome State Fault Refusal :=
  .next (laneWrite who lane.val LNK_CTRL_EN (ifS (!fault) (writeUnblank lane.val)) s)

/-- LNK_INJ_ARM (R183). -/
def execLnkInjArm (who : Who) (page : Fin 64) (v : Word) (s : State) : Host.Outcome State Fault Refusal :=
  .next (guardWrite who (0x100 + page.val) (LNK_INJ_ARM page.val).addr (mayWrite who (0x100 + page.val) s) (writeInj page.val v) s)

/-! ## The back channel (R154, R155, R167) -/

/-- The lane's receiver works: its page works, and the lane is not DISABLED (R154). -/
def listens (lane : Nat) (s : State) : Bool :=
  lnkRuns lane s && decide (1 ≤ lstate lane s) && decide (lstate lane s ≤ 6)

/-- The receiver loses lock (R154, R155): in READY, and while LOOP ≠ 0 (R181), the lane's state stays. -/
def loseLock (lane : Nat) (s : State) : State :=
  let s := modLane lane (fun x => { x with sync := 0, idles := 0, lockedIdles := 0, errs := [], groups := 0 }) s
  if lstate lane s = 4 ∨ (lstate lane s = 6 ∧ getF (laneF LNK_CTRL_LOOP lane) s ≠ 0) then showFill lane s else hunt lane s

/-- DESIGN CHOICE (log 70): a code error, like an IDLE with RX_LOCKED = 0, voids a run of sixteen IDLEs that is complete (R155);
other words keep it. A code error at the code group received last (R150, R152, R154): it ends CHECK, and the eighth within 1,024 code groups ends
LOCKED. -/
def codeError (lane : Nat) (s : State) : State :=
  let s := countF (laneF LNK_CODE_ERR lane) s
  let x := s.lane lane
  let errs := (x.groups :: x.errs).filter (fun e => decide (x.groups < e + 1024))
  if x.sync = 1 ∨ (x.sync = 2 ∧ 8 ≤ errs.length) then loseLock lane s
  else s.setLane lane { x with errs := errs, idles := 0, lockedIdles := 0 }

/-- One code group is received and decoded at the running disparity (R150). -/
def rxGroup (lane : Nat) (t : State × List (Option (Bool × Nat))) (g : Nat) : State × List (Option (Bool × Nat)) :=
  let s := t.1
  if (s.lane lane).sync = 0 then t else
  let c := charOf g (s.lane lane).rdPlus
  let s := modLane lane (fun x => { x with groups := x.groups + 1, rdPlus := rdNext g x.rdPlus }) s
  (ifS c.isNone (codeError lane) s, t.2 ++ [c])

/-- A run of IDLEs is broken by whatever is no IDLE (R154, R155); a run of sixteen has done its work. -/
def breakRuns (lane : Nat) (s : State) : State :=
  modLane lane (fun x => { x with idles := 0, lockedIdles := if x.lockedIdles = 16 then 16 else 0 }) s

/-- A word is received: its characters, and what it is. A receiver in HUNT takes no words; an ordered set that R152 ignores is a
code error. -/
def rxWord (lane : Nat) (gs : List Nat) (s : State) : State × List (Option (Bool × Nat)) × RxSet :=
  let r := gs.foldl (rxGroup lane) (s, [])
  match r.2.mapM id with
  | none => (r.1, r.2, .ignored)
  | some cs =>
    if r.2.length < 4 then (r.1, r.2, .ignored) else
    match setOf cs with
    | .idle f => (r.1, r.2, .idle f)
    | .ignored => (codeError lane r.1, r.2, .ignored)
    | x => (breakRuns lane r.1, r.2, x)

/-- RX_COMMA_DETECT: a K28.5 is found, whose form tells the running disparity; HUNT ends (R154, R155). -/
def execRxCommaDetect (lane : Fin 1024) (group : Nat) (s : State) : Host.Outcome State Fault Refusal :=
  let k := lane.val
  .next (if listens k s = false ∨ (s.lane k).sync ≠ 0 ∨ (group ≠ codeK 0xBC false ∧ group ≠ codeK 0xBC true) then s
    else s |> modLane k (fun x => { x with sync := 1, idles := 0, groups := 0, errs := [], rdPlus := decide (group = codeK 0xBC true) })
      |> ifS (decide (lstate k s = 1)) (setLstate k 2))

/-- An IDLE has been received: eight in a row make the receiver LOCKED, sixteen with RX_LOCKED = 1 prepare READY (R154,
R155). -/
def takeIdle (lane flags : Nat) (s : State) : State :=
  let x := s.lane lane
  if x.sync = 1 then
    if x.idles + 1 < 8 then s.setLane lane { x with idles := x.idles + 1 }
    else s.setLane lane { x with sync := 2, idles := 0, lockedIdles := 0, groups := 0, errs := [] }
      |> ifS (decide (lstate lane s = 2)) (setLstate lane 3) |> showFill lane
  else s.setLane lane { x with lockedIdles := if bitOf flags 0 then min 16 (x.lockedIdles + 1) else 0 }

/-- RX_IDLE_RECEIVED (R151, R154, R155). -/
def execRxIdleReceived (lane : Fin 1024) (groups : List Nat) (s : State) : Host.Outcome State Fault Refusal :=
  .next (if !listens lane.val s then s else
    let r := rxWord lane.val groups s
    match r.2.2 with
    | .idle f => takeIdle lane.val f r.1
    | _ => r.1)

/-- RX_CODE_ERROR: a word with a code error, or an ordered set that is ignored (R150, R152, R154). -/
def execRxCodeError (lane : Fin 1024) (groups : List Nat) (s : State) : Host.Outcome State Fault Refusal :=
  .next (if !listens lane.val s then s else (rxWord lane.val groups s).1)

/-- FAULT_SET_RX: a valid FAULT, in every lane state from LOCKED onwards (R168); the delay to BLANK is at most 5 µs. -/
def execFaultSetRx (lane : Fin 1024) (groups : List Nat) (latency : Nat) (s : State) : Host.Outcome State Fault Refusal :=
  .next (if !listens lane.val s then s else
    let r := rxWord lane.val groups s
    match r.2.2 with
    | .fault _ => ifS (decide (3 ≤ lstate lane.val r.1)) (tileFault lane.val (min latency 5000)) r.1
    | _ => r.1)

/-- A valid status packet is taken (R155, R156, R167, R168, R181, R182). -/
def takeStatus (lane : Nat) (ws : List Word) (s : State) : State :=
  let x := s.lane lane
  let rej := fieldAt ws 4 31 16
  let max_ := fieldAt ws 2 4 0
  let bad := decide (max_ < 2) || decide (16 < max_)
  let m := if bad then 2 else max_
  let fcode := fieldAt ws 1 15 8
  let mseq := fieldAt ws 1 7 0
  let acked := decide (mseq = x.mseq) && x.ratePending.isSome
  let s := s |> setF (laneF LNK_TST0 lane) (wordAt ws 1) |> setF (laneF LNK_TST1 lane) (wordAt ws 2)
    |> setF (laneF LNK_TST2 lane) (wordAt ws 3) |> setF (laneF LNK_TST3 lane) (wordAt ws 4) |> setF (laneF LNK_TST4 lane) (wordAt ws 5)
    |> setF (laneF LNK_STAT_MAXRATE lane) m |> ifS bad (laneCause lane 14)
    |> ifS (decide (fieldAt ws 2 10 10 = 1) || decide (x.lastRej.isSome ∧ x.lastRej ≠ some rej)) (laneCause lane 6)
    |> modLane lane (fun x => { x with maxRate := some m, lastRej := some rej, sinceFault := some fcode,
                                       rateAcked := x.rateAcked || acked,
                                       farEnd := x.farEnd || (decide (getF (laneF LNK_CTRL_LOOP lane) s = 3) && decide (mseq = x.mseq)) })
  let d := fresh 16 s
  let s := if fcode ≠ 0 ∧ 3 ≤ lstate lane s then tileFault lane (d.1 % 5001) d.2 else s
  if lstate lane s = 3 ∧ 16 ≤ x.lockedIdles then reachReady lane s
  else if lstate lane s = 6 ∧ getF (laneF LNK_CTRL_LOOP lane) s = 0 then reachReady lane s
  else checkRate lane s

/-- The eight words of a status packet as received, one after another (R166). -/
def rxWords (lane : Nat) : List Nat → Nat → State → State × List RxSet
  | _, 0, s => (s, [])
  | gs, n + 1, s =>
    let r := rxWord lane (gs.take 4) s
    let q := rxWords lane (gs.drop 4) n r.1
    (q.1, r.2.2 :: q.2)

/-- The data words of a status packet's words 1 to 6, where all are sound. -/
def statusData (l : List RxSet) : Option (List Word) :=
  ((l.drop 1).take 6).mapM (fun x => match x with | .data w => some w | _ => none)

/-- STATUS_PACKET_RX (R166, R167): a packet whose SOF is sound is taken if its words are whole, its CRC is right and EOP ends
it. -/
def execStatusPacketRx (lane : Fin 1024) (groups : List Nat) (s : State) : Host.Outcome State Fault Refusal :=
  let k := lane.val
  .next (if !listens k s then s else
    let r := rxWords k groups 8 s
    let s' := r.1
    if lstate k s < 3 ∨ (s.lane k).sync ≠ 2 ∨ (s'.lane k).sync ≠ 2 ∨ (s.lane k).farEnd = true ∨ r.2.head? ≠ some (.sof 0x81) then s'
    else match statusData r.2 with
      | none => laneCause k 11 s'
      | some ws =>
        if crcWords (ws.take 5) ≠ ws.getD 5 0 then laneCause k 11 s'
        else if r.2.getLast? = some .eop then takeStatus k (0 :: ws) s' else s')

/-- STATUS_TIMEOUT: 1,100 µs without a valid status packet in READY (R155). -/
def execStatusTimeout (lane : Fin 1024) (s : State) : Host.Outcome State Fault Refusal :=
  let k := lane.val
  .next (if lnkRuns k s = false ∨ lstate k s ≠ 4 then s else s |> laneCause k 4 |> huntAt k 2)

/-- A MODE RATE is sent again on its lane, and on the other lane of the tile unless that one waits for one of its own (R156,
R172). -/
def resendRate (lane t : Nat) (s : State) : State :=
  each ((tileLanes (tileLane lane s) s).filter (fun k => decide (k = lane) || (decide (lstate k s ≠ 0) && (s.lane k).ratePending.isNone)))
    (fun k => sendMode k 2 [Word.ofNat t]) s

/-- RATE_ACK_TIMEOUT: the MODE is sent again, three times in all (R156). -/
def execRateAckTimeout (lane : Fin 1024) (s : State) : Host.Outcome State Fault Refusal :=
  let k := lane.val
  .next (if lnkRuns k s = false ∨ lstate k s ≠ 5 ∨ (s.lane k).rateAcked = true then s else
    match (s.lane k).ratePending with
    | none => s
    | some (t, n) =>
      if n < 3 then s |> resendRate k t |> modLane k (fun x => { x with ratePending := some (t, n + 1) })
      else s |> modLane k (fun x => { x with ratePending := none, rateGaveUp := true }) |> setLstate k 4 |> laneCause k 9)

/-- RATE_SWITCH_DELAY: 16 µs after the acknowledgement the lane switches (R156). -/
def execRateSwitchDelay (lane : Fin 1024) (s : State) : Host.Outcome State Fault Refusal :=
  let k := lane.val
  .next (if lnkRuns k s = false ∨ lstate k s ≠ 5 ∨ (s.lane k).rateAcked = false then s else
    match (s.lane k).ratePending with
    | none => s
    | some (t, _) => s |> huntAt k t |> modLane k (fun x => { x with switching := true }))

/-- RATE_READY_TIMEOUT: no READY within 10 ms of the switch (R156). -/
def execRateReadyTimeout (lane : Fin 1024) (s : State) : Host.Outcome State Fault Refusal :=
  let k := lane.val
  .next (if lnkRuns k s = false ∨ (s.lane k).switching = false then s
    else s |> huntAt k 2 |> modLane k (fun x => { x with switching := false, rateGaveUp := true }) |> laneCause k 9)

/-! ## Line packets and the echo check (R158–R163, R172, R183) -/

/-- The injection that is live for row `row` of a tile: its page index (R183). -/
def liveInj (base row : Nat) (s : State) : Option Nat :=
  let p := base / 16
  if s.injLive p && getB (LNK_INJ_ARM p) s && decide (tileLane (16 * p + getF (LNK_INJ_LANE p) s) s = base) &&
    decide (getF (LNK_INJ_ROW p) s = row) then some p else none

/-- The injected fault has been applied (R183). DESIGN CHOICE (log 70): on a bonded tile INJ_DONE is raised on the lane that LANE
names, whichever lane carried the row. -/
def injDone (p carrier frame : Nat) (s : State) : State :=
  let commit := getB (LNK_INJ_COMMIT p) s
  s |> setB (LNK_INJ_ARM p) false |> State.setInjLive p false |> setB (LNK_INJ_STAT_DONE p) true
    |> setF (LNK_INJ_STAT_FRAME p) (frame % 65536)
    |> modLane carrier (fun x => { x with echoBad := true, injCommit := commit })
    |> laneCause (16 * p + getF (LNK_INJ_LANE p) s) 12

/-- A code group with one bit inverted, bit 0 being a (R183). -/
def flipGroup (gs : List Nat) (n b : Nat) : List Nat := gs.set n (Nat.xor (gs.getD n 0) (2 ^ (9 - b)))

/-- The packet of a row goes out on its lane from time `t` (R160), `flip` of its code groups being inverted in one bit (R183); the
lane's echo receiver feeds its payload (R162). -/
def sendPacket (base frame row t : Nat) (rays : List (Nat × Nat × Nat)) (flip : Option (Nat × Nat × Nat)) (s : State) : State :=
  let k := rowLane base row s
  let xs := linePacket (tileRec base s) (tileRW base s) frame row rays
  let ys := xs ++ [idleSet (bit (rxLocked k s))]
  let r := fresh 1 s
  let gs := codeWords (decide (r.1 = 1)) ys
  let gs := match flip with
    | some f => flipGroup gs (4 * f.1 + f.2.1) f.2.2
    | none => gs
  r.2 |> emit (.link k ys gs)
    |> modLane k (fun x => { x with tx := ⟨t, xs.length, decide (r.1 = 1)⟩ :: openPackets k t s,
                                    echoSig := sigFeed x.echoSig (payload (tileRW base s) (tileRec base s).code12 rays) })

/-- Row `row` leaves its lane; `later` gives the rays of a later row if all are computed (R158, R161, R183). The signatures
take the rows in row order, before injection. -/
def departRow (base frame row : Nat) (rays : List (Nat × Nat × Nat)) (gone : Bool)
    (later : Nat → Option (List (Nat × Nat × Nat))) (s : State) : State :=
  let t := tileRec base s
  let at_ := departTime base row s
  let carrier := rowLane base row s
  let words := payload (tileRW base s) t.code12 rays
  let s := s |> modLane base (fun x => { x with sig := sigFeed x.sig words })
    |> modLane carrier (fun x => { x with laneSig := sigFeed x.laneSig words })
  if gone then s else
  match liveInj base row s with
  | none => sendPacket base frame row at_ rays none s
  | some p =>
    let kind := getF (LNK_INJ_KIND p) s
    if kind = 1 then injDone p carrier frame s
    else if kind = 2 then
      s |> sendPacket base frame row at_ rays
            (some (getF (LNK_INJ_POS_WORD p) s, getF (LNK_INJ_POS_BYTE p) s, getF (LNK_INJ_POS_BIT p) s))
        |> injDone p carrier frame
    else
      let r2 := row + (if t.bonded then 2 else 1)
      match later r2 with
      | none => sendPacket base frame row at_ rays none s
      | some rays2 =>
        let q := s.pool base
        let mark (r : PoolRow) : PoolRow := if r.row = r2 then { r with gone := true } else r
        let rows := if q.rows.any (fun r => decide (r.row = r2)) then q.rows.map mark else q.rows ++ [{ row := r2, rays := [], gone := true }]
        let next := at_ + 64 * (packetLen (tileRW base s) t.code12 + 1) / max 1 (arate carrier s)
        s |> sendPacket base frame r2 at_ rays2 none |> sendPacket base frame row next rays none
          |> State.setPool base { q with rows := rows } |> injDone p carrier frame

/-- ABORT of a frame on a lane (R163): it interrupts a line packet (R153). -/
def sendAbort (frame cause lane : Nat) (s : State) : State := sendCutting lane (now s) (abortSet frame cause) s

/-- COMMIT of a frame on a lane (R162). -/
def sendCommit (frame : Nat) (sig : Word) (lane : Nat) (s : State) : State :=
  s |> sendClosed lane [commitSet frame, (false, sig)] |> addF (laneF LNK_COMMITS lane) 1
    |> setF (laneF LNK_STAT_LAST_COMMIT lane) (frame % 65536)

/-- The tile's frame is in progress for its echo check: it takes part, or was given up on the echo of its other lane. -/
def echoOpen (base : Nat) (s : State) : Bool :=
  let g := s.grp (tileRec base s).group
  decide (g.phase = .active) && decide (tileRH base s ≤ (s.pool base).sent) &&
    (takesPart base s || (tileValid base s && !g.aborted && g.parts.contains base && (s.lane base).echoCut))

/-- ECHO_COMPARE on one lane after its last line packet (R162, R183): the signature of the rows that the lane carried against
that of what left its balls, which is `seen` where the balls carried something else than was sent; `codeErrors` tells of code
errors there. On a bonded tile COMMIT goes out once both results are equal. -/
def execEchoCompare (lane : Fin 1024) (seen : Option Word) (codeErrors : Bool) (s : State) : Host.Outcome State Fault Refusal :=
  let k := lane.val
  let base := tileLane k s
  let g := s.grp (tileRec base s).group
  let pair := tileLanes base s
  .next (if echoOpen base s = false ∨ (s.lane k).echoDone.isSome = true then s
    else
      let x := s.lane k
      let bad := x.echoBad || codeErrors || decide (seen.getD (sigValue x.echoSig) ≠ sigValue x.laneSig)
      let s := s |> ifS bad (fun s => s |> countF (laneF LNK_ECHO_ERR k) |> laneCause k 5)
      -- an injected fault with COMMIT = 1 commits the frame on purpose
      let good := !bad || (x.injCommit && seen.isNone && !codeErrors)
      let s := modLane k (fun x => { x with echoDone := some good }) s
      if (s.lane base).echoCut then s
      else if !good then
        s |> each pair (sendAbort g.idx 2) |> modLane base (fun x => { x with cut := true, echoCut := true }) |> settleRows base false
      else if pair.all (fun j => decide ((s.lane j).echoDone = some true)) then
        s |> each pair (sendCommit g.idx (sigValue (s.lane base).sig)) |> settleRows base true
      else s)

/-! ## Test patterns (R181) -/

/-- The received characters that are not the pattern's byte (R181). -/
def byteErrors (e : Nat) (cs : List (Option (Bool × Nat))) : Nat :=
  ((List.range 4).filter (fun i => decide (cs.getD i none ≠ some (false, wordByte (Word.ofNat e) i)))).length

/-- PATTERN_WORD_RX (R181). -/
def execPatternWordRx (lane : Fin 1024) (groups : List Nat) (s : State) : Host.Outcome State Fault Refusal :=
  let k := lane.val
  .next (if lnkRuns k s = false ∨ sendsPattern k s = false then s else
    let r := rxWord k groups s
    let s := r.1
    let x := s.lane k
    let e := prbsNext 32 x.prbs % 2 ^ 32
    if getB (laneF LNK_STAT_PSYNC k) s then
      each (List.range (byteErrors e r.2.1)) (fun _ => countF (laneF LNK_PRBS_ERR k)) (s.setLane k { x with prbs := e % 2 ^ 31 })
    else match r.2.2 with
      | .data w =>
        let n := if e = w.toNat ∧ x.prbs ≠ 0 then x.prbsGood + 1 else 0
        s.setLane k { x with prbs := w.toNat % 2 ^ 31, prbsGood := n } |> ifS (decide (16 ≤ n)) (setB (laneF LNK_STAT_PSYNC k) true)
      | _ => s.setLane k { x with prbsGood := 0 })

/-- The lane sends nothing but IDLE (R184). -/
def sendsIdle (lane : Nat) (s : State) : Bool := !sendsPattern lane s && !inPacket lane (now s) s

/-! ## The page's lifecycle (R155, R184) -/

/-- The lanes of a LNK page. -/
def pageLanes (p : Nat) : List Nat := (List.range 16).map (fun i => 16 * p + i)

/-- The page reads ON: its enabled lanes start to hunt (R155). -/
def lnkUp (p : Nat) (s : State) : State := each ((pageLanes p).filter (fun k => getB (laneF LNK_CTRL_EN k) s)) startLane s

/-- The page stops driving: its lanes are DISABLED (R184). -/
def lnkDown (p : Nat) (s : State) : State := each (pageLanes p) disableLane s

/-- The page enters FAULT with a code (R38, R184). -/
def lnkFault (p code : Nat) (s : State) : State :=
  s |> lnkDown p |> enterFault (0x100 + p) code

/-- A PLL's loss of lock is counted and raised (R447, R460). -/
def unlocked (s : State) : State := s |> countF CLK_UNLOCKS |> raise 1 2

/-- The lane PLL of page 0x100 + p, which runs while the page does, loses lock (R184, R447). -/
def unlockLanes (p : Nat) (s : State) : State :=
  ifS ([1, 2, 3, 4].contains (blockState (0x100 + p) s)) (fun s => s |> unlocked |> lnkFault p 1) s

/-- LANE_PLL_UNLOCK: FAULT with code 0x01 (R184), and PLL_UNLOCK (R447). -/
def execLanePllUnlock (lane : Fin 1024) (s : State) : Host.Outcome State Fault Refusal :=
  .next (unlockLanes (lane.val / 16) s)

end Sys2Proof.Machine
end

