-- ==== Sys2Proof/Machine/Cue.lean ====
section
/-!
DEFINITION. Cue lists (spec/13): loading, stopping, presets, the mapping of entries to frames, their application at FL and
ahead of it, and skipping. BUILD_START stands here because WINDOW entries come before it (R359).
-/

namespace Sys2Proof.Machine

/-! ## Records (R353–R355) -/

/-- A list header and its entries. -/
def parseEntries (ws : List Word) (n : Nat) : List CueEntry :=
  (List.range n).map (fun i =>
    let w := 8 + 4 * i
    ⟨fieldAt ws w 31 28, fieldAt ws w 15 0 * 2 ^ 32 + wordAt ws (w + 1), ws.getD (w + 2) 0, ws.getD (w + 3) 0⟩)

/-- Bits of an entry that its action leaves reserved are 0 (R354, R355); refused actions are judged later. -/
def entryClean (e : CueEntry) : Bool :=
  let t := e.target.toNat
  let v := e.value.toNat
  if e.action = 0 then decide (t = 0) && decide (v = 0)
  else if e.action = 1 then decide (t < 8) && decide (v = 0)
  else if e.action = 2 then decide (t / 2 ^ 19 = 0) && decide (bitsOf t 15 8 = 0) && decide (bitsOf v 30 11 = 0)
  else if e.action = 3 then decide (t < 1024) && decide (v < 256)
  else if e.action = 4 then decide (t < 16) && decide (v < 256)
  else if e.action = 5 ∨ e.action = 6 then decide (t < 16)
  else true

/-- An entry's fields are in range (R355, R356, R358). -/
def entryOk (e : CueEntry) (s : State) : Bool :=
  let t := e.target.toNat
  if e.action = 2 then decide (bitsOf e.value.toNat 10 0 ≤ 0x400)
  else if e.action = 3 then (FMap.get none s.cue.presets e.value.toNat).isSome
  else if e.action = 5 then decide (t < 8)
  else if e.action = 6 then decide (8 ≤ t)
  else decide (e.action < 7)

/-- Offsets never decrease (R354). -/
def offsetsRise : List CueEntry → Bool
  | a :: b :: r => decide (a.off ≤ b.off) && offsetsRise (b :: r)
  | _ => true

/-- A WINDOW entry names a preset of another partition (R358). -/
def foreignPreset (p : Nat) (e : CueEntry) (s : State) : Bool :=
  decide (e.action = 3) && (FMap.get none s.cue.presets e.value.toNat).any (fun x => decide (x.owner ≠ p))

/-- The list a load names. -/
def cueTarget (ws : List Word) : Nat := fieldAt ws 0 19 17

/-- The reason for which a load by partition `p` is refused; 0 when it passes (R358). -/
def cueReason (p : Nat) (ws : List Word) (s : State) : Nat :=
  let count := fieldAt ws 0 12 0
  let es := parseEntries ws count
  let cyclic := decide (fieldAt ws 0 23 23 = 1)
  let late := decide (fieldAt ws 0 22 22 = 1)
  let cycle := fieldAt ws 4 15 0 * 2 ^ 32 + wordAt ws 3
  let base := wordAt ws 2 * 2 ^ 32 + wordAt ws 1
  let l := s.cueList (cueTarget ws)
  if crcWords (ws.take 7 ++ (ws.drop 8).take (4 * count)) ≠ ws.getD 7 0 then 1
  else if fieldAt ws 0 31 24 ≠ 1 then 2
  else if fieldAt ws 0 16 13 ≠ 0 ∨ fieldAt ws 4 31 16 ≠ 0 ∨ wordAt ws 5 ≠ 0 ∨ wordAt ws 6 ≠ 0 ∨
    (List.range count).any (fun i => decide (fieldAt ws (8 + 4 * i) 27 16 ≠ 0)) = true ∨ es.all entryClean = false then 3
  else if (l.state ≠ 0 ∧ l.owner ≠ p) ∨ es.any (fun e => foreignPreset p e s) = true then 4
  else if 4096 < count then 5
  else if count = 0 ∨ es.all (fun e => entryOk e s) = false ∨ offsetsRise es = false ∨
    (cyclic = true ∧ (cycle < 1000000 ∨ es.any (fun e => decide (cycle ≤ e.off)) = true ∨ late = true)) ∨
    (cyclic = false ∧ cycle ≠ 0) then 6
  else if getB TIM_STAT_SEL_VALID s = false then 7
  else if cyclic = false ∧ late = false ∧ tnsLe (soon s) base = false then 8 else 0

/-- The status of a reason of R358. -/
def cueStatus (r : Nat) : Nat :=
  if r = 4 then NOT_OWNER else if r = 5 then TABLE_FULL else if r = 7 then NOT_READY else if r = 8 then TOO_LATE else BAD_ARGUMENT

/-! ## The registers (R369) -/

/-- CUE_STATl shows the list. -/
def showList (l : Nat) (s : State) : State :=
  let x := s.cueList l
  s |> setF (CUE_STAT_STATE l) x.state |> setF (CUE_STAT_OWNER l) x.owner |> setB (CUE_STAT_KIND l) x.cyclic
    |> setF (CUE_STAT_GROUP l) x.group |> setF (CUE_STAT_NEXT l) x.next

/-! ## Loading and stopping (R352, R358–R361, R364, R365) -/

/-- A load is accepted (R360, R361, R364). DESIGN CHOICE (log 7): a list that the firmware loads is held as partition 0's. -/
def acceptList (c : Cmd) (ws : List Word) (s : State) : State :=
  let l := cueTarget ws
  let cyclic := decide (fieldAt ws 0 23 23 = 1)
  let cycle := fieldAt ws 4 15 0 * 2 ^ 32 + wordAt ws 3
  let base := wordAt ws 2 * 2 ^ 32 + wordAt ws 1
  let ahead := (toSigned 64 (soon s + 2 ^ 64 - base)).toNat
  let ebase := if cyclic then (base + ceilDiv ahead (max 1 cycle) * cycle) % 2 ^ 64 else base
  s |> State.setCueList l { state := 1, owner := c.idx % 8, cyclic := cyclic, group := fieldAt ws 0 21 20, ebase := ebase,
                            cycle := cycle, entries := parseEntries ws (fieldAt ws 0 12 0),
                            loaded := now s }
    |> setF (CUE_EBASE_LO l) ebase |> setF (CUE_EBASE_HI l) (ebase / 2 ^ 32) |> showList l |> answer 0x30 c DONE

/-- A load is refused (R358). -/
def refuseList (c : Cmd) (ws : List Word) (r : Nat) (s : State) : State :=
  s |> setF CUE_REJ_REASON r |> setF CUE_REJ_LIST (cueTarget ws) |> setF CUE_REJ_PARTITION c.idx |> raise 0x18 26
    |> ifS (decide (r = 5)) (fun s => s |> countF CUE_TFULL |> raise 0x18 27) |> refuse 0x30 c (cueStatus r) r

/-- SRC is as long as the header's COUNT says (R482). -/
def loadFits (c : Cmd) (s : State) : Bool := decide (c.src.len = 32 + 16 * fieldAt (srcWords c s) 0 12 0)

/-- A load passes its checks against the lists as they stand (R358). -/
def loadPasses (c : Cmd) (s : State) : Bool :=
  !srcBad c s && loadFits c s && decide (cueReason (c.idx % 8) (srcWords c s) s = 0)

/-- A load that fails its checks against the lists as they stood in `s0` completes with that check's status (R352, R358). -/
def judgeLoad (s0 : State) (c : Cmd) (s : State) : State :=
  if srcBad c s0 then abortOperand 0x30 c s
  else if !loadFits c s0 then answer 0x30 c BAD_ARGUMENT s
  else
    let r := cueReason (c.idx % 8) (srcWords c s0) s0
    if r ≠ 0 then refuseList c (srcWords c s0) r s else s

/-- One load of the firmware, served before the partitions' and against the lists as they stand (R546). -/
def loadOne (c : Cmd) (s : State) : State :=
  if loadPasses c s then acceptList c (srcWords c s) s else judgeLoad s c s

/-- The loads of one cycle that pass compete, list by list: the winner is accepted, the others lose the tie (R352). -/
def settleLoads (l : Nat) (cs : List Cmd) (s : State) : State :=
  match tieSort 8 (getF CUE_TIE_PTR s) Cmd.idx cs with
  | [] => s
  | w :: r =>
    let ws := srcWords w s
    let s := each r (fun c => answer 0x30 c LOST_TIE) s
    let s := ifS (decide (2 ≤ (requesters Cmd.idx (w :: r)).length)) (setF CUE_TIE_PTR w.idx) s
    if l = cueTarget ws then acceptList w ws s else s

/-- The loads of one cycle: the firmware's come first, and the partitions' are then checked and settled against the lists
that it left (R352, R358, R546). -/
def loadCycle (cs : List Cmd) (s : State) : State :=
  let s := each (cs.filter (fun c => isFw c.who)) loadOne s
  let ps := cs.filter (fun c => !isFw c.who)
  let ok := ps.filter (fun c => loadPasses c s)
  let s' := each ps (judgeLoad s) s
  each (List.range 8) (fun l => settleLoads l (ok.filter (fun c => decide (cueTarget (srcWords c s) = l)))) s'

/-- CUE_LOAD (R358); during the activation pause it waits (R366). -/
def execCueLoad (cs : List Cmd) (s : State) : Host.Outcome State Fault Refusal :=
  .next (if s.fwu.pause then s else runTies 0x30 cs loadCycle s)

/-- A list becomes FREE. -/
def freeList (l : Nat) (s : State) : State := s.setCueList l {} |> showList l

/-- CUE_STOP (R365); during the activation pause it waits (R366). -/
def execCueStop (c : Cmd) (s : State) : Host.Outcome State Fault Refusal :=
  .next (if s.fwu.pause then s else runCmd 0x31 c (fun s =>
    let l := c.argF 0 2 0
    let x := s.cueList l
    if x.state = 0 then answer 0x31 c DONE s
    else if x.owner ≠ c.idx % 8 then answer 0x31 c NOT_OWNER s
    else s |> freeList l |> answer 0x31 c DONE) s)

/-- CUE_PRESET (R357); reasons 0x01–0x04 refuse it as they refuse any window command (R282). -/
def execCuePreset (c : Cmd) (s : State) : Host.Outcome State Fault Refusal :=
  .next (runCmd 0x32 c (withLen 0x32 c 48 (fun ws s =>
    let i := c.argF 0 7 0
    let p := c.idx % 8
    if winReason ws ≠ 0 then asmRefuse 0x32 c 1 (winReason ws) s
    else if (FMap.get none s.cue.presets i).any (fun x => decide (x.owner ≠ p)) then answer 0x32 c NOT_OWNER s
    else { s with cue := { s.cue with presets := FMap.set none s.cue.presets i (some ⟨p, parseWin ws⟩) } } |> answer 0x32 c DONE)) s)

/-! ## From cue time to frame (R354, R359) -/

/-- How far a TNS lies before another. -/
def tnsTo (t u : Nat) : Int := toSigned 64 (u + 2 ^ 64 - t % 2 ^ 64)

/-- The cue time of entry `e` in cycle `k` (R354). -/
def cueTime (x : CueList) (k i : Nat) : Nat := (x.ebase + k * x.cycle + (x.entries.getD i ⟨0, 0, 0, 0⟩).off) % 2 ^ 64

/-- The entries of a list whose cue time is at or before `t` and that have not been applied, by cycle and index. -/
def dueEntries (x : CueList) (t : Nat) : List (Nat × Nat) :=
  if x.state ≠ 1 ∧ x.state ≠ 2 then [] else
  let span := (tnsTo x.ebase t).toNat
  let kmax := if x.cyclic then span / max 1 x.cycle else 0
  ((List.range (kmax + 1 - x.k)).map (fun j => x.k + j)).flatMap (fun k =>
    ((List.range x.entries.length).filter (fun i =>
      (decide (x.k < k) || decide (x.next ≤ i)) && !x.ahead.contains (k, i) && tnsLe (cueTime x k i) t)).map (fun i => (k, i)))

/-- The list moves past entries that are done; its end, or a cycle, is reached (R361, R365). -/
def advanceList (l : Nat) : Nat → State → State
  | 0, s => s
  | n + 1, s =>
    let x := s.cueList l
    if x.ahead.contains (x.k, x.next) then
      let x := { x with ahead := x.ahead.filter (fun e => decide (e ≠ (x.k, x.next))), next := x.next + 1 }
      if x.next < x.entries.length then advanceList l n (s.setCueList l x)
      else if x.cyclic then advanceList l n (s |> State.setCueList l { x with next := 0, k := x.k + 1 } |> addF (CUE_CYCLES l) 1)
      else s |> State.setCueList l { x with state := 3 } |> raise 0x18 (10 + l)
    else s

/-- Entry (k, i) of a list is done. -/
def markDone (l : Nat) (e : Nat × Nat) (s : State) : State :=
  let x := s.cueList l
  let s := s.setCueList l { x with ahead := x.ahead ++ [e], deferred := x.deferred.filter (fun d => decide (d.1 ≠ e)) }
  s |> advanceList l (x.ahead.length + 1) |> showList l

/-- An entry is skipped (R363). -/
def skipEntry (l : Nat) (e : Nat × Nat) (s : State) : State :=
  s |> countF (CUE_SKIP l) |> setF (CUE_FAIL_REASON l) 0xF0 |> setF (CUE_FAIL_ENTRY l) e.2 |> markDone l e

/-! ## The actions (R355–R357) -/

/-- The effect of an action at the frame whose FS is `fs` and FL is `fl`; group and list are the entry's. -/
def cueAction (l : Nat) (e : CueEntry) (i g fs fl : Nat) (s : State) : State :=
  let t := e.target.toNat
  let v := e.value.toNat
  if e.action = 1 then setF (RAS_STACK_SLOT g) t s
  else if e.action = 2 then
    s.setAlphaOv ((g * 8 + bitsOf t 18 16) * 256 + bitsOf t 7 0) (if bitOf v 31 then 0 else bitsOf v 10 0 + 1)
  else if e.action = 3 then
    let owner := (s.cueList l).owner
    match FMap.get none s.cue.presets v with
    | none => s |> setF (CUE_FAIL_REASON l) 6 |> setF (CUE_FAIL_ENTRY l) i |> raise 0x18 (18 + l)
    | some p =>
      let r := winPlaceReason owner t p.cfg s
      if r ≠ 0 then s |> setF (CUE_FAIL_REASON l) r |> setF (CUE_FAIL_ENTRY l) i |> raise 0x18 (18 + l)
      else setWindow owner t p.cfg s
  else if e.action = 4 then
    { s with rim := { s.rim with offers := s.rim.offers ++ [⟨true, l, (s.cueList l).owner, t, v, none⟩] } }
  else if e.action = 5 ∨ e.action = 6 then
    let at_ := ofSigned 64 ((fs : Int) + toSigned 32 v)
    let floor_ := (fl + 2000) % 2 ^ 64
    let x := s.timer t
    s.setTimer t { x with cued := x.cued ++ [if tnsLe floor_ at_ then at_ else floor_] }
  else s

/-- An entry is applied; `late` is 0 for on time, else its CAUSE (R360, R366). -/
def applyEntry (l : Nat) (e : Nat × Nat) (g fs fl late : Nat) (s : State) : State :=
  let x := s.cueList l
  s |> State.setCueList l { x with state := 2 } |> cueAction l (x.entries.getD e.2 ⟨0, 0, 0, 0⟩) e.2 g fs fl
    |> addF (CUE_APPLIED l) 1
    |> ifS (decide (late ≠ 0)) (fun s => s |> countF (CUE_LATE l) |> setF (CUE_LATE_INFO_CAUSE l) late |> setF (CUE_LATE_INFO_ENTRY l) e.2)
    |> markDone l e

/-- An entry due for a frame is late: its own frame came before, with FS `prev` at the latest, or the activation pause has
deferred it (R360, R366). -/
def isLate (x : CueList) (prev : Option Nat) (e : Nat × Nat) : Bool :=
  x.deferred.any (fun d => decide (d.1 = e)) || prev.any (fun p => tnsLe (cueTime x e.1 e.2) p)

/-- The late entries `es` of a list are applied in a frame, which raises CUE_LATE once for the frame (R360). -/
def runLate (l g fs fl : Nat) (es : List (Nat × Nat)) (s : State) : State :=
  if es.isEmpty then s else
  let x := s.cueList l
  let s := each es (fun e t => applyEntry l e g fs fl (if x.deferred.any (fun d => decide (d.1 = e)) then 2 else 1) t) s
  ifS (decide (x.lateFs ≠ some fs)) (raise 0x18 (2 + l)) (s.setCueList l { s.cueList l with lateFs := some fs })

/-- The entries `sel` picks among those due for a frame are applied: late ones first, list by list in ascending number,
then those on time; while the page does not read ON they are skipped, and in the activation pause they are deferred (R359–R363,
R366, R367). `prev` is the FS of the group's frame before, if it ran one. -/
def runEntries (sel : CueList → Nat × Nat → Bool) (g fs fl : Nat) (prev : Option Nat) (s : State) : State :=
  let due (l : Nat) (t : State) : List (Nat × Nat) :=
    let x := t.cueList l
    if x.group ≠ g then [] else (dueEntries x fs).filter (fun e => sel x e && !x.deferred.contains (e, fs))
  if s.fwu.pause then
    each (List.range 8) (fun l t =>
      let x := t.cueList l
      let es := due l t
      if es.isEmpty then t
      else t.setCueList l { x with deferred := x.deferred.filter (fun d => !es.contains d.1) ++ es.map (fun e => (e, fs)) }) s
  else if !isOn 0x18 s then each (List.range 8) (fun l t => each (due l t) (skipEntry l) t) s
  else
    let s := each (List.range 8) (fun l t => runLate l g fs fl ((due l t).filter (isLate (t.cueList l) prev)) t) s
    each (List.range 8) (fun l t => each (due l t) (fun e => applyEntry l e g fs fl 0) t) s

/-- A WINDOW entry whose preset targets a plane paced on the group (R359). -/
def pacedWindow (g : Nat) (e : CueEntry) (s : State) : Option Nat :=
  if e.action ≠ 3 then none else
  match FMap.get none s.cue.presets e.value.toNat with
  | none => none
  | some p =>
    let q := s.plane p.cfg.plane
    if q.state = 1 ∧ q.set.host = false ∧ q.force.pace = 0 ∧ q.force.pgroup = g then some p.cfg.plane else none

/-- Entry `e` of a list, as loaded. -/
def entryOf (x : CueList) (e : Nat × Nat) : CueEntry := x.entries.getD e.2 ⟨0, 0, 0, 0⟩

/-- The entries applied at FLₙ: all but those of planes paced on the group, of the lists loaded before FLₙ (R359, R360). -/
def cuesAtFl (g fs fl : Nat) (prev : Option Nat) (s : State) : State :=
  runEntries (fun x e => (pacedWindow g (entryOf x e) s).isNone && !tnsLe fl x.loaded) g fs fl prev s

/-- The instant FLₙ − BUILD_LEAD of plane `i` has come, and the list was loaded before it (R359, R360). -/
def pacedDue (fl i : Nat) (x : CueList) (s : State) : Bool :=
  let at_ := ofSigned 64 ((fl : Int) - 1000 * (s.plane i).force.buildLead)
  reached at_ s && !tnsLe at_ x.loaded

/-- The WINDOW entries for planes paced on a group, applied at FLₙ − BUILD_LEAD of their plane, n being the group's next frame,
whether or not a build of the plane starts there; those of one instant in the order of R362 (R359). -/
def cuesPaced (g : Nat) (s : State) : State :=
  let x := s.grp g
  if !x.hasNext || !([1, 2].contains (groupState g s) || x.resuming) then s else
  let fl := ofSigned 64 ((x.nextFs : Int) - (x.nextSet.getD x.timing).lead)
  runEntries (fun l e => (pacedWindow g (entryOf l e) s).any (fun i => pacedDue fl i l s)) g x.nextFs fl
    (if x.phase = .none then none else some x.fs) s

/-- The group has a frame grid (R359). -/
def hasGrid (g : Nat) (s : State) : Bool := (s.grp g).hasNext || decide ((s.grp g).phase ≠ .none)

/-- An unapplied entry with cue time `t` of a list whose group has no grid is skipped (R363): one whose frame the group had
chosen when it lost its grid, at that frame's FL; any other as its cue time is reached. -/
def skipDue (r : GroupRun) (t : Nat) (s : State) : Bool :=
  (r.endedAt.isSome && tnsLe t r.nextFs && reached (ofSigned 64 ((r.nextFs : Int) - r.timing.lead)) s) ||
    (reached t s && !(r.endedAt.any (tnsLe t) && tnsLe t r.nextFs))

/-- The first unapplied entry of a list that its group, having no frame grid, skips now (R363). -/
def skippable (l : Nat) (s : State) : Option (Nat × Nat) :=
  let x := s.cueList l
  let r := s.grp x.group
  if hasGrid x.group s then none
  else (dueEntries x (if tnsLe (now s) r.nextFs && r.endedAt.isSome then r.nextFs else now s)).find?
    (fun e => skipDue r (cueTime x e.1 e.2) s)

/-- CUE_SKIP (R363). -/
def execCueSkip (l : Fin 8) (s : State) : Host.Outcome State Fault Refusal :=
  .next (if s.fwu.pause then s else match skippable l.val s with
    | some e => skipEntry l.val e s
    | none => s)

/-- As a group chooses its first frame, entries whose cue time has been reached are skipped (R363). -/
def skipReached (g : Nat) (s : State) : State :=
  each (List.range 8) (fun l t => if (t.cueList l).group ≠ g then t else each (dueEntries (t.cueList l) (now t)) (skipEntry l) t) s

/-- BUILD_START: the assembler takes its next queued build, which must be that of the plane; the WINDOW entries whose instant
has come are applied first (R272–R274, R359). A build of a frame that its group does not run any more is dropped: the group reads
neither ON nor is it on the way to its first frame. -/
def execBuildStart (plane : Fin 256) (s : State) : Host.Outcome State Fault Refusal :=
  .next (if s.asm.run.isSome ∨ runs 0x60 s = false then s else
    match nextBuild s.asm.queue with
    | none => s
    | some q =>
      if q.plane ≠ plane.val ∨ reached (ofSigned 64 q.start) s = false then s else
      match q.kind with
      | .group _ =>
        let p := (s.plane q.plane).force
        let g := s.grp p.pgroup
        if groupState p.pgroup s ≠ 2 ∧ !(g.hasNext && ([1, 5].contains (groupState p.pgroup s))) then { s with asm := { s.asm with queue := s.asm.queue.filter (fun x => decide (x ≠ q)) } }
        else
          s |> cuesPaced p.pgroup |> startBuild q
      | _ => startBuild q s)

/-- RESET of page 0x018: every list FREE, overrides and presets cleared, without completions (R367). -/
def cueReset (s : State) : State :=
  each (List.range 8) showList { s with cue := {} }

end Sys2Proof.Machine
end

