-- ==== Sys2Proof/Machine/Raster.lean ====
section
/-!
DEFINITION. Raster groups and frame timing (spec/04): the frame grid, timing sets, the frame latch point, frame starts,
row departures, weir and shed, underrun and abort, late planes and leases.
-/

namespace Sys2Proof.Machine

/-! ## The frame grid (R118–R120, R139, R142) -/

/-- The timing registers of a group (R141, R145). -/
def writtenTiming (g : Nat) (s : State) : Timing where
  num := getF (RAS_RATE_NUM g) s
  den := getF (RAS_RATE_DEN g) s
  active := getF (RAS_ACTIVE_ACTIVE g) s
  lead := getF (RAS_LEAD_LEAD g) s
  phase := toSigned 32 (getF (RAS_PHASE g) s)

/-- FS_k, TNS ns (R118). -/
def frameStart (t : Timing) (k : Nat) : Nat :=
  ofSigned 64 ((ceilDiv (k * t.den * 10 ^ 9) (max 1 t.num) : Nat) + t.phase)

/-- The first grid index whose FS is at or after `x` (R139, R142). -/
def firstIndex (t : Timing) (x : Nat) : Nat :=
  (((x : Int) - t.phase - 1) * t.num / (max 1 (t.den * 10 ^ 9) : Nat) + 1).toNat

/-- The lanes of a group's valid tiles, ascending (R117). -/
def groupTiles (g : Nat) (s : State) : List Nat :=
  (s.panel.map.tiles.filter (fun e => e.2.valid && decide (e.2.group = g))).map (fun e => e.1)

/-- The reason for which a timing set is not valid; 0 when every check passes (R120). -/
def timingReason (g : Nat) (t : Timing) (s : State) : Nat :=
  let p := t.den * 10 ^ 9 / max 1 t.num
  if t.den = 0 ∨ 1001 * t.num < 24000 * t.den ∨ 120 * t.den < t.num then 1
  else if t.lead < 100000 then 2
  else if p < t.active + t.lead then 3
  else if p ≤ t.phase.natAbs then 4
  else if (groupTiles g s).any (fun k => !packetFits (tileRec k s) (tileRW k s) (getF (laneF LNK_CTRL_RATE k) s)
      (t.active / max 1 (tileRH k s))) then 5
  else if (groupTiles g s).any (fun k => decide (poolDepth (tileRec k s) (tileRW k s) < 4)) then 6
  else 0

/-- FSₙ of a group's next frame is fixed: FRAME timer channels and builds follow it (R273, R344). -/
def fixNext (g n fs : Nat) (lead : Nat) (s : State) : State :=
  s.setGrp g { s.grp g with nextIdx := n, nextFs := fs, hasNext := true }
    |> placeFrameEdges g n fs |> queueGroupBuilds g n fs lead

/-- The first frame after a start or a resume: the first FS whose FL lies at least 1 ms later (R139), which the NFS pair
then shows (R145); cue entries already reached are skipped (R363). -/
def chooseFirst (g : Nat) (s : State) : State :=
  let t := (s.grp g).timing
  let n := firstIndex t (soon s - 2000 + 1000000 + t.lead)
  s |> skipReached g |> State.setGrp g { s.grp g with first := true, phase := .none, aborted := false, nextSet := none, resync := false }
    |> fixNext g n (frameStart t n) t.lead
    |> setF (RAS_NFS_LO g) (frameStart t n) |> setF (RAS_NFS_HI g) (frameStart t n / 2 ^ 32)

/-! ## Leaving a frame or the grid (R128, R129, R135, R140) -/

/-- A fan leaves shed (R128). -/
def leaveShed (fan : Nat) (s : State) : State :=
  let b := basinOf fan
  let k := fan % 2
  s |> setF (SYN_LIMIT_SHED b k) 256 |> setF (SYN_GOV_STEPS b k) 0 |> setF (SYN_GOV_MAXS b k) 0
    |> clearF (SYN_STAT_SHED b) (2 ^ k) |> raise (0x80 + b) (14 + k)

/-- The fans whose last step a group's tile caused leave shed (R128). -/
def leaveShedOf (g : Nat) (s : State) : State :=
  each ((List.range 16).filter (fun f => inShed f s && decide ((s.fan f).stepGroup = g))) leaveShed s

/-- A group reads OFF, PARKED or FAULT: its grid, its leases and its shed end, a set that was waiting is given up (R128, R135,
R139–R141), and exports no longer wait for its rows (R206). A tile needs a new MODE TIMING after the next start (R157). -/
def groupDown (g : Nat) (s : State) : State :=
  let x := s.grp g
  let s := each (groupTiles g s) (fun k => dropRays k) s
  let s := each (groupTiles g s) (fun k => settleRows k false) s
  let s := each (groupTiles g s) (fun k => modLane k (fun l => { l with timing := none })) s
  s |> State.setGrp g { x with phase := .none, hasNext := false, first := true, aborted := false, pendingSet := none,
                               nextSet := none, resync := false, forced := none, parts := [], resuming := false,
                               endedAt := if hasGrid g s then some (now s) else x.endedAt }
    |> setF (RAS_MODE_STAT_PENDING g) 0 |> setF (RAS_MODE_STAT_LATCHED g) 0
    |> endLeases (fun l => decide (l.group = g)) |> leaveShedOf g |> exportStill

/-- ABORT goes out on every lane of the group (R129, R163) but a DISABLED one, which is in electrical idle (R155). -/
def sendAborts (g cause : Nat) (s : State) : State :=
  each ((groupTiles g s).flatMap (fun k => tileLanes k s)) (fun k t => ifS (decide (lstate k t ≠ 0)) (sendAbort (s.grp g).idx cause k) t) s

/-- Frame n of a group ends in an abort (R129, R457): CAUSE 0 underrun, 1 forced recalibration. -/
def endAborted (g cause lane row : Nat) (s : State) : State :=
  let x := s.grp g
  let s := s |> setF (RAS_ABORT_INFO_ROW g) row |> setF (RAS_ABORT_INFO_CAUSE g) cause |> setF (RAS_ABORT_INFO_LANE g) lane
    |> setF (RAS_ABORT_FRAME g) x.idx
  let s := each (groupTiles g s) (fun k t => t |> dropRays k |> settleRows k false) s
  s |> State.setGrp g { s.grp g with aborted := true }
    |> countF (RAS_ABORTS g) |> raise (0x90 + g) 4
    |> endLeases (fun l => decide (l.group = g) && decide (l.begun = decide (x.phase = .active))) |> probesAbort g

/-- Frame n of a group is aborted. -/
def abortFrame (g cause lane row : Nat) (s : State) : State := s |> sendAborts g cause |> endAborted g cause lane row

/-! ## Planes at the frame latch point (R85, R132–R137) -/

/-- What becomes of a plane in a frame (R132, R133). -/
inductive PicFate where
  | shown (p : Picture)
  | held (p : Picture)
  /-- Transparent without being late. -/
  | clear
  | dropped
  deriving DecidableEq, Repr

/-- The picture of plane `i` counts as complete at an FL: it is, no release of its buffer waits, and it is not a concealed
one where CONCEAL = 1 (R133, R137). -/
def countsComplete (p : Plane) (x : Picture) : Bool :=
  x.complete && !(p.set.conceal && x.concealed) && !p.releases.any (fun r => decide (r.1 = x.buf))

/-- The nominal period of a plane: that of PGROUP's timing in force, which the group has from its start on, or PERIOD (R268). -/
def planePeriod (p : Plane) (s : State) : Nat :=
  if p.set.host || decide (p.force.pace ≠ 0) then p.force.period
  else if [1, 2, 3, 4].contains (groupState p.force.pgroup s) || (s.grp p.force.pgroup).resuming then
    (s.grp p.force.pgroup).timing.den * 10 ^ 9 / max 1 (s.grp p.force.pgroup).timing.num
  else 0

/-- The fate of a plane of nominal period `period` for a frame with FS `fs`; `holds` is how many frames in a row the group
has held it (R132, R133). -/
def picFate (p : Plane) (period fs holds : Nat) : PicFate :=
  let due := p.pics.filter (fun x => tnsLe (ofSigned 64 x.pt) fs)
  let newest := newestPic (fun _ => true) due
  let begun := newestPic (fun _ => true) p.pics
  let missing := decide (period ≠ 0) && (match begun with
    | some x => tnsLe (ofSigned 64 (x.pt + period)) fs
    | none => false)
  let last := newestPic (countsComplete p) due
  match newest with
  | none => if missing then .dropped else .clear
  | some x =>
    if missing = false ∧ countsComplete p x = true then .shown x
    else match last with
      | none => .dropped
      | some y =>
        if p.set.policy ∨ (p.set.holdMax ≠ 0 ∧ p.set.holdMax ≤ holds) then .dropped else .held y

/-- One plane of a group's PSD at FLₙ: its picture, the late counts, and the lease of its buffer (R85, R133, R135). DESIGN
CHOICE (log 48): how many frames in a row a plane has been held stays as it is over frames that do not name the plane, and over
a stop and a new start of the group. -/
def latchPlane (g fs : Nat) (i : Nat) (s : State) : State :=
  let p := s.plane i
  let x := s.grp g
  let add (pic : LatchedPic) (holds : Nat) (s : State) : State :=
    let x := s.grp g
    s.setGrp g { x with latch := { x.latch with pics := x.latch.pics ++ [pic] }, holds := FMap.set 0 x.holds i holds }
  let lease (b : Nat) (s : State) : State :=
    addLease { group := g, frame := x.idx, plane := i, buf := b, host := p.set.host } s
  let late (dropped : Bool) (s : State) : State :=
    s |> countF (if dropped then RAS_LATE_DROPPED g else RAS_LATE_HELD g) |> setF (RAS_LATE_INFO_PLANE g) i
      |> setB (RAS_LATE_INFO_DROPPED g) dropped |> raise (0x90 + g) (if dropped then 8 else 7)
  let none_ : LatchedPic := ⟨i, none, 0, p.set.w, p.set.h⟩
  let pic (b : Nat) : LatchedPic := ⟨i, some b, bufAddr p b, p.set.w, p.set.h⟩
  if p.state ≠ 1 then s |> add none_ 0 |> raise 0x90 13
  else match picFate p (planePeriod p s) fs (FMap.get 0 x.holds i) with
    | .shown y => s |> add (pic y.buf) 0 |> lease y.buf
    | .held y => s |> add (pic y.buf) (FMap.get 0 x.holds i + 1) |> lease y.buf |> late false
    | .clear => add none_ 0 s
    | .dropped => s |> add none_ (FMap.get 0 x.holds i) |> late true

/-- The planes that a PSD names, each once. -/
def psdPlanes (p : Psd) : List Nat := ((p.anchors.flatMap (fun a => a.entries)).map (fun e => e.plane)).eraseDups

/-! ## The frame latch point (R121) -/

/-- The SH registers that group `g` latches (R522). -/
def latchesReg (g a : Nat) : Bool :=
  let page := a / 0x1000
  let off := a % 0x1000
  (decide (0x80 ≤ page) && decide (page ≤ 0x87) && [0x104, 0x108, 0x110].contains off) ||
  (decide (page = 0x80) && decide (0x500 + 0x20 * g ≤ off) && decide (off < 0x514 + 0x20 * g)) ||
  (decide (page = 0x90 + g) && [0x118, 0x11C, 0x120].contains off) ||
  (decide (page = 0x148) && ([0x100, 0x140].contains off || (decide (0x280 ≤ off) && decide (off < 0x300))))

/-- Numbers the entries of a PSD in order and gives each its alpha override for group `g` and slot `k` (R356). -/
def overrideAlpha (g k : Nat) (p : Psd) (s : State) : Psd :=
  let one (n : Nat) (e : PlaneEntry) : PlaneEntry :=
    let o := s.alphaOv ((g * 8 + k) * 256 + n)
    if o = 0 then e else { e with planeAlpha := o - 1 }
  let step (acc : Nat × List Anchor) (a : Anchor) : Nat × List Anchor :=
    (acc.1 + a.entries.length, acc.2 ++ [{ a with entries := (List.range a.entries.length).zipWith (fun i e => one (acc.1 + i) e) a.entries }])
  { p with anchors := (p.anchors.foldl step (0, [])).2 }

/-- The group latches its registers, its slot and PSD, and the tables (R71, R84, R107, R121, R200). -/
def latchConfig (g : Nat) (s : State) : State :=
  let x := s.grp g
  let k := getF (RAS_STACK_SLOT g) s
  let psd := (s.slot k).psd
  let l : Latch := {
    regs := FMap.keep (latchesReg g) s.regs, slot := k, psd := psd.map (fun p => overrideAlpha g k p s), pics := [],
    luts := s.panel.luts, blends := s.panel.blends, outLuts := if x.early then [] else s.panel.outLuts, strExp := s.cor.strReady, early := x.early }
  let s := s.setGrp g { x with latch := l }
  match psd with
  | none => s
  | some p => s |> State.setSlot k { s.slot k with latched := true } |> setF (STK_LATCH k) p.seq.toNat

/-- The early picture that waits is taken (R499). -/
def takeEarly (s : State) : State :=
  match s.fwu.earlyNext with
  | some m => { s with fwu := { s.fwu with early := m, earlyNext := none } }
  | none => s

/-- The pictures of the planes of the PSD latched; in early mode the plane is in the anchor caches (R121, R500). -/
def latchPictures (g fs : Nat) (s : State) : State :=
  let x := s.grp g
  if x.early then takeEarly s |> State.setGrp g { x with latch := { x.latch with pics := [⟨255, some 0, 0, s.fwu.earlyW, s.fwu.earlyH⟩] } }
  else match x.latch.psd with
    | none => s
    | some p => each (psdPlanes p) (latchPlane g fs) s

/-- A tile's lanes are READY, at one rate, and it is not blanked (R157, R172). -/
def tileReady (base : Nat) (s : State) : Bool :=
  let ks := tileLanes base s
  ks.all (fun k => decide (lstate k s = 4) && decide (arate k s = arate base s)) && !getB (laneF LNK_STAT_BLANKED base) s

/-- MODE TIMING for a tile (R164). -/
def timingBody (base : Nat) (t : Timing) (frame : Nat) (s : State) : List Word :=
  let r := tileRec base s
  [Word.ofNat (t.num * 4096 + t.den), Word.ofNat t.active,
    Word.ofNat ((tileRW base s - 1) % 65536 * 65536 + (tileRH base s - 1) % 65536),
    Word.ofNat (bit r.code12 * 2 ^ 31 + bit r.bonded * 2 ^ 30 + r.group * 2 ^ 28), Word.ofNat frame, r.tag]

/-- A tile at FLₙ (R157, R165): whether it takes part in frame n, and the MODE TIMING it is sent. -/
def latchTile (g base : Nat) (s : State) : State :=
  let x := s.grp g
  let had := (s.lane base).timing.isSome
  let part := tileReady base s && (had || x.first) &&
    packetFits (tileRec base s) (tileRW base s) (arate base s) (x.timing.active / max 1 (tileRH base s))
  let send := tileReady base s && (x.first || !had || x.nextSet.isSome)
  let tell (t : Timing) (frame : Nat) (s : State) : State := each (tileLanes base s) (fun k => sendMode k 1 (timingBody base t frame s)) s
  let s := ifS send (fun s =>
    s |> ifS x.first (tell x.timing x.idx)
      |> ifS (x.nextSet.isSome || !x.first) (tell (x.nextSet.getD x.timing) x.nextIdx)
      |> modLane base (fun l => { l with timing := some x.idx })) s
  let s := s.setGrp g { s.grp g with parts := if part then (s.grp g).parts ++ [base] else (s.grp g).parts }
  let s := each (tileLanes base s) (fun k => modLane k (fun l =>
    { l with cut := false, sig := 0xFFFFFFFF, laneSig := 0xFFFFFFFF, echoSig := 0xFFFFFFFF, echoCut := false, echoBad := false,
             echoDone := none, injCommit := false })) s
  s |> State.setPool base { s.pool base with rows := [], next := 0, sent := 0 } |> showPool base

/-- Every row of the frame that runs has left, so that every ray of it has been computed (R123). -/
def rowsLeft (g : Nat) (s : State) : Bool :=
  let x := s.grp g
  decide (x.phase = .none) || x.aborted || x.parts.all (fun k => (s.lane k).cut || decide (tileRH k s ≤ (s.pool k).sent))

/-- FLₙ has come: the group works, its next frame is chosen, and the frame before it has run its course (R121, R140). -/
def latchDue (g : Nat) (s : State) : Bool :=
  let x := s.grp g
  let st := groupState g s
  (decide (st = 1) || (decide (st = 2) && !parkAsked (0x90 + g) s) || (decide (st = 5) && x.resuming)) && x.hasNext && decide (x.phase ≠ .latched) &&
    rowsLeft g s && reached (ofSigned 64 ((x.nextFs : Int) - (x.nextSet.getD x.timing).lead)) s

/-- Early mode ends (R500, R501). -/
def endEarly (s : State) : State :=
  { s.setGrp 0 { s.grp 0 with early := false } with fwu := { s.fwu with earlyEnds := false } }

/-- FLₙ of a group (R121, R128, R142): the frame that was next is latched, and the one after it is fixed. A forced ABORT of the
frame goes out before MODE (R171). The increments of a
frame that no COMMIT has followed are discarded (R198). -/
def frameLatch (g : Nat) (s : State) : State :=
  let s := ifS (decide (g = 0) && s.fwu.earlyEnds) endEarly s
  let x := s.grp g
  let first := x.first && decide (x.phase = .none)
  let t := x.nextSet.getD x.timing
  let n := x.nextIdx
  let fs := x.nextFs
  let fl := ofSigned 64 ((fs : Int) - t.lead)
  let s := s.setGrp g { x with
    phase := .latched, idx := n, fs := fs, timing := t, resync := x.nextSet.isSome, nextSet := x.pendingSet,
    pendingSet := none, first := first, aborted := false, parts := [], hasNext := false, resuming := false }
  let s := ifS x.pendingSet.isSome (fun s => s |> setF (RAS_MODE_STAT_PENDING g) 0 |> setF (RAS_MODE_STAT_LATCHED g) 1) s
  let s := ifS (decide (groupState g s ≠ 2)) (fun s => s |> setState (0x90 + g) 2) s
  let s := s |> cuesAtFl g fs fl (if first then none else some x.fs) |> latchConfig g |> takeBanks g |> latchPictures g fs
    |> leaveShedOf g
  let s := match x.pendingSet with
    | some u =>
      let k := firstIndex u ((fs + t.active + u.lead) % 2 ^ 64)
      fixNext g k (frameStart u k) u.lead s
    | none => fixNext g (n + 1) (frameStart t (n + 1)) t.lead s
  let s := ifS x.forced.isSome (sendAborts g 1) s
  let s := exportStill (each (groupTiles g s) (fun k t => t |> settleRows k false |> latchTile g k) s)
  let s := each (List.range 64) (fun p t =>
    let base := tileLane (16 * p + getF (LNK_INJ_LANE p) t) t
    ifS (getB (LNK_INJ_ARM p) t && decide ((tileRec base t).group = g)) (State.setInjLive p true) t) s
  let s := each (List.range 4) (latchProbe g) s
  let s := raise (0x90 + g) 2 s
  match x.forced with
  | some lane => endAborted g 1 lane 0 (s.setGrp g { s.grp g with forced := none })
  | none => s

/-- FRAME_LATCH (R121). -/
def execFrameLatch (g : Fin 4) (s : State) : Host.Outcome State Fault Refusal :=
  .next (ifS (latchDue g.val s) (frameLatch g.val) s)

/-! ## The frame start (R118, R135, R142) -/

/-- The FS of the frame that a group's leases belong to has come: its next FS ends them (R135). -/
def beginLeases (g : Nat) (s : State) : State :=
  { s with ras := { s.ras with leases := s.ras.leases.map (fun l => if l.group = g then { l with begun := true } else l) } }

/-- FSₙ of a group. -/
def frameStarts (g : Nat) (s : State) : State :=
  let x := s.grp g
  let s := s.setGrp g { x with phase := .active, first := false, resync := false, curIdx := x.idx }
  let s := s |> setF (RAS_FRAME g) x.idx |> setF (RAS_FS_LO g) x.fs |> setF (RAS_FS_HI g) (x.fs / 2 ^ 32)
    |> setF (RAS_NFS_LO g) x.nextFs |> setF (RAS_NFS_HI g) (x.nextFs / 2 ^ 32)
    |> endLeases (fun l => decide (l.group = g) && l.begun) |> beginLeases g |> raise (0x90 + g) 3
  let s := ifS x.resync (fun s => s |> setB (RAS_MODE_STAT_LATCHED g) x.nextSet.isSome |> raise (0x90 + g) 5) s
  each (List.range 4) (probeAtFs g) s

/-- FRAME_START (R118). -/
def execFrameStart (g : Fin 4) (s : State) : Host.Outcome State Fault Refusal :=
  let x := s.grp g.val
  .next (ifS (decide (x.phase = .latched) && reached x.fs s) (frameStarts g.val) s)

/-! ## Row departures (R119, R124–R129) -/

/-- The shed budget of a step (R126). -/
def shedBudget (floor_ maxs : Nat) : Nat :=
  if 16 < maxs then max floor_ (16 * (ceilDiv maxs 16 - 1)) else max floor_ (max (maxs / 2) 1)

/-- A shed step of a fan, caused by a tile of group `g` (R126, R127). -/
def shedStep (fan g : Nat) (s : State) : State :=
  let b := basinOf fan
  let k := fan % 2
  let l := (s.grp g).latch
  let s := s |> setF (SYN_LIMIT_SHED b k) (shedBudget (latched l (RAS_SHED_FLOOR g)) (getF (SYN_GOV_MAXS b k) s))
    |> setF (SYN_GOV_MAXS b k) 0 |> countF (SYN_GOV_STEPS b k) |> State.setFan fan { s.fan fan with stepGroup := g }
  each (List.range 64) (fun i t => t.setPool (64 * fan + i) { t.pool (64 * fan + i) with sinceStep := 0 }) s

/-- The check of a departure against the weir (R125, R127). -/
def weirCheck (lane : Nat) (s : State) : State :=
  let g := (tileRec lane s).group
  let l := (s.grp g).latch
  let p := s.pool lane
  let left := tileRH lane s - p.sent - (p.rows.filter (fun r => r.gone)).length
  let weff := min (latched l (RAS_WEIR_WEIR g)) (16 * left)
  let fan := fanOf lane
  if weff * tileRW lane s ≤ 16 * poolRays lane s then s
  else if !inShed fan s then
    s |> shedStep fan g |> orF (SYN_STAT_SHED (basinOf fan)) (2 ^ (fan % 2)) |> countF (SYN_SHCNT (basinOf fan) (fan % 2))
      |> raise (0x80 + basinOf fan) (12 + fan % 2)
  else if latched l (RAS_SHED_GAP g) ≤ p.sinceStep then shedStep fan g s
  else s

/-- All rays of row `r` of a lane's tile are in its portion. -/
def rowRays (lane r : Nat) (s : State) : Option (List (Nat × Nat × Nat)) :=
  match (s.pool lane).rows.find? (fun x => decide (x.row = r)) with
  | some x => if x.rays.length = tileRW lane s then some x.rays else none
  | none => none

/-- The rays of row `r` of a tile that emits the pattern (R201). -/
def patternRays (lane r : Nat) (s : State) : List (Nat × Nat × Nat) :=
  let t := tileRec lane s
  let pat := (FMap.get 0 (s.grp t.group).latch.regs COR_PAT_KIND.addr).toNat
  (List.range (tileRW lane s)).map (fun c => (patternCode pat t.code12 c r 0, patternCode pat t.code12 c r 1, patternCode pat t.code12 c r 2))

/-- The increments of a row that is due are kept until COMMIT (R198); none are formed in early mode (R500). -/
def keepDue (lane r : Nat) (rays : List (Nat × Nat × Nat)) (s : State) : State :=
  let x := s.grp (tileRec lane s).group
  if getB COR_CFG_STRESS_EN s = false ∨ x.early = true ∨ r % 16 ≠ x.idx % 16 then s
  else
    let c := s.tileCor lane
    s.setTileCor lane { c with due := c.due ++ [⟨r, x.idx % 2 ^ 32, rays.flatMap (fun y => [y.1, y.2.1, y.2.2])⟩] }

/-- The row whose departure time has come leaves its lane (R119, R124). -/
def rowLeaves (lane r : Nat) (rays : List (Nat × Nat × Nat)) (s : State) : State :=
  let x := s.grp (tileRec lane s).group
  let pat := patterned lane s
  let gone := (s.pool lane).rows.any (fun y => decide (y.row = r) && y.gone)
  let later (n : Nat) : Option (List (Nat × Nat × Nat)) := if pat then some (patternRays lane n s) else rowRays lane n s
  let s := s |> keepDue lane r rays |> departRow lane x.idx r rays gone later
  let p := s.pool lane
  let s := s.setPool lane { p with rows := p.rows.filter (fun y => decide (y.row ≠ r)), sent := r + 1, sinceStep := p.sinceStep + 1 }
  if pat then each (List.range rays.length) (fun c => copyToProbes lane c r (rays.getD c (0, 0, 0))) s else
  let low := SYN_POOL_LOW (lane / 128) (lane % 128)
  s |> showPool lane |> setF low (min (getF low s) (min 0xFFFF (poolFill lane s))) |> weirCheck lane

/-- The lowest lane of a group whose next row departs at the same time and is not computed (R129). -/
def lowestUnderrun (lane : Nat) (s : State) : Nat :=
  let g := (tileRec lane s).group
  let at_ := departTime lane (s.pool lane).sent s
  ((groupTiles g s).find? (fun k => takesPart k s && !patterned k s && decide ((s.pool k).sent < tileRH k s) &&
    decide (departTime k (s.pool k).sent s = at_) && (rowRays k (s.pool k).sent s).isNone)).getD lane

/-- ROW_DEPARTURE on a lane (R119, R129, R157): the tile's next row leaves, counts as sent, or underruns. -/
def execRowDeparture (lane : Fin 1024) (s : State) : Host.Outcome State Fault Refusal :=
  let base := tileLane lane.val s
  let g := (tileRec base s).group
  let x := s.grp g
  let p := s.pool base
  .next (if tileValid base s = false ∨ x.phase ≠ .active ∨ x.aborted = true ∨ tileRH base s ≤ p.sent ∨
      rowLane base p.sent s ≠ lane.val ∨ reached (departTime base p.sent s) s = false then s
    else if !takesPart base s then s.setPool base { p with sent := p.sent + 1 }
    else if patterned base s then rowLeaves base p.sent (patternRays base p.sent s) s
    else match rowRays base p.sent s with
      | some rays => rowLeaves base p.sent rays s
      | none =>
        let k := lowestUnderrun base s
        abortFrame g 0 (rowLane k (s.pool k).sent s) (s.pool k).sent s)

/-! ## Timing changes and the page's lifecycle (R139–R142) -/

/-- RAS_MODE_CTRL.APPLY is written: only while the group reads ON (R141). -/
def writeApply (g : Nat) (s : State) : State :=
  if groupState g s ≠ 2 then s else
  let t := writtenTiming g s
  let r := timingReason g t s
  if r ≠ 0 then s |> setF (RAS_MODE_STAT_REASON g) r |> raise (0x90 + g) 6
  else s.setGrp g { s.grp g with pendingSet := some t } |> setF (RAS_MODE_STAT_PENDING g) 1

/-- RAS_MODE_APPLY (R141). -/
def execRasModeApply (who : Who) (g : Fin 4) (s : State) : Host.Outcome State Fault Refusal :=
  .next (guardWrite who (0x90 + g.val) (RAS_MODE_CTRL_APPLY g.val).addr (mayWrite who (0x90 + g.val) s) (writeApply g.val) s)

/-- A group enters FAULT (R135, R144). -/
def groupFault (g code : Nat) (s : State) : State := s |> enterFault (0x90 + g) code |> groupDown g

/-- A start or a resume validates the timing set and the selected time (R139). DESIGN CHOICE (log 47): where both fail, the code
is that of the timing set. -/
def groupStart (g : Nat) (s : State) : State :=
  let t := writtenTiming g s
  let r := timingReason g t s
  if r ≠ 0 then s |> setF (RAS_MODE_STAT_REASON g) r |> groupFault g 2
  else if getB TIM_STAT_SEL_VALID s = false ∧ (s.grp g).early = false then groupFault g 1 s
  else s.setGrp g { s.grp g with timing := t, first := true, hasNext := false, phase := .none }

/-- The frame in hand is complete, its COMMITs included, or there is none (R140). -/
def groupFinished (g : Nat) (s : State) : Bool :=
  let x := s.grp g
  decide (x.phase = .none) || (decide (x.phase = .active) && (x.aborted || x.parts.all (fun k => (s.lane k).cut ||
    (decide (tileRH k s ≤ (s.pool k).sent) && (tileLanes k s).all (fun j => (s.lane j).echoDone.isSome)))))

/-- PARK is cleared in PARKED: the group validates its set and waits as at a start, and reads PARKED until its first FL (R139,
R140; log 47). -/
def groupResumes (g : Nat) (s : State) : State := groupStart g (s.setGrp g { s.grp g with resuming := true })

/-- PARK is set again before the first FL: no frame is chosen any more. -/
def groupStays (g : Nat) (s : State) : State := s.setGrp g { s.grp g with resuming := false, hasNext := false }

end Sys2Proof.Machine
end

