-- ==== Sys2Proof/Machine/Hbm.lean ====
section
/-!
DEFINITION. The HBM stacks (spec/16): training, temperature and refresh, ECC errors and scrubbing.
-/

namespace Sys2Proof.Machine

/-- Stack `i` is being brought up: its page starts, or the device wakes from STANDBY (R415, R418). -/
def trains (i : Nat) (s : State) : Bool :=
  decide (getF (PG_STAT_STATE (0x170 + i)) s = 1) || (decide (pwrState s = 4) && decide (getF (PG_STAT_STATE (0x170 + i)) s = 5))

/-- The temperature a stack reads, °C. -/
def stackTemp (i : Nat) (s : State) : Int := toSigned 8 (getF (HBM_STAT_TEMP i) s)

/-- What a controller finds when it looks for a training record: it, or the reason 0x01 or 0x02 (R415, R424). -/
def lookForRecord (s : State) : Nat × Option TrainRec :=
  match copyInForce s.fwu.trainA s.fwu.trainB with
  | some c => (0, some c.item)
  | none => (if s.fwu.trainA.isSome || s.fwu.trainB.isSome then 2 else 1, none)

/-- Why stack `i` is trained in full at its start; 0 where the record that it found is used: it names these stacks, and every
stack now reads within ±20 °C of its recorded temperature (R415). -/
def trainReason (i : Nat) (s : State) : Nat :=
  match FMap.get (1, none) s.pwr.trainRec i with
  | (_, some r) =>
    if r.ids ≠ Config.hbmIds then 3
    else if (List.range 4).any (fun j =>
      let t := r.temps.getD j 0
      decide (20 < stackTemp j s - t) || decide (20 < t - stackTemp j s)) then 4
    else 0
  | (n, none) => n

/-- The controllers write a new training record after stack `i` was trained in full (R415): the other stacks keep the temperatures of
the record in force for these stacks, and read their present ones where there is none (log 72). -/
def writeTraining (i : Nat) (s : State) : State :=
  let old (j : Nat) : Int := match copyInForce s.fwu.trainA s.fwu.trainB with
    | some c => if c.item.ids = Config.hbmIds then c.item.temps.getD j 0 else stackTemp j s
    | none => stackTemp j s
  let ab := writeCopies ⟨(List.range 4).map (fun j => if j = i then stackTemp j s else old j), Config.hbmIds⟩ s.fwu.trainA s.fwu.trainB
  { s with fwu := { s.fwu with trainA := ab.1, trainB := ab.2 } }

/-- Full training of stack `i`, at its start or on a wake: the reason is recorded, TRAIN_FULL is raised once for the boot or the
wake, and a new record is written (R415, R418). FULL tells of the last start (R424). -/
def trainedFull (i reason : Nat) (start : Bool) (s : State) : State :=
  let s := s |> setB (HBM_STAT_TRAINED i) true |> setB (HBM_STAT_CACHED i) false |> setB (HBM_STAT_SELF_REFRESH i) false
    |> setF HBM_TRAIN_REASON reason |> ifS start (orF HBM_TRAIN_FULL (2 ^ i)) |> writeTraining i
  if s.pwr.trainFull then s else { s with pwr := { s.pwr with trainFull := true } } |> raise 0x170 4

/-- The stack's controller runs: it reads the temperature and serves reads. -/
def stackRuns (i : Nat) (s : State) : Bool :=
  [1, 2, 3, 4].contains (blockState (0x170 + i) s)

/-- The counts of a stack's traffic, which its controller alone determines, go on by free amounts while it runs; RFM commands are
issued only while NR_EN = 1 (R417, R419, R423; log 3). -/
def advanceTraffic (i : Nat) (s : State) : State :=
  if !stackRuns i s then s else
  let add (f : Fld) (s : State) : State := setF f (getF f (fresh 32 s).2 + (fresh 32 s).1) (fresh 32 s).2
  let s := s |> ifS (getB (HBM_CFG_NR_EN i) s) (add (HBM_NR_CNT i)) |> add (HBM_FWD_CNT i)
  each (List.range 7) (fun c t => t |> add (HBM_CLS_RD i c) |> add (HBM_CLS_WR i c)) s

/-- HBM_TRAINING_DONE (R415, R418): a start uses the record or trains in full for the reason that keeps it from being used, 0x05 if the
verification failed; a wake only verifies what the stack holds. -/
def execHbmTrainingDone (i : Fin 4) (res : TrainResult) (s : State) : Host.Outcome State Fault Refusal :=
  let start := decide (getF (PG_STAT_STATE (0x170 + i.val)) s = 1)
  let why := if start then trainReason i.val s else 0
  .next (if !trains i.val s then s else
    match res with
    | .cached => if why ≠ 0 then s else
        s |> setB (HBM_STAT_TRAINED i.val) true |> ifS start (setB (HBM_STAT_CACHED i.val) true) |> setB (HBM_STAT_SELF_REFRESH i.val) false
    | .full => trainedFull i.val (if why = 0 then 5 else why) start s
    | .failed => s |> advanceTraffic i.val |> enterFault (0x170 + i.val) 1)

/-- HBM_TEMP_POLL: the refresh rate follows the temperature (R416), and a lost interface is a fault (R422). -/
def execHbmTempPoll (i : Fin 4) (temp : Int) (drift : Bool) (s : State) : Host.Outcome State Fault Refusal :=
  .next (if !stackRuns i.val s then s else
    let was := getB (HBM_STAT_REF2X i.val) s
    let hot := decide (85 < temp)
    let s := s |> setF (HBM_STAT_TEMP i.val) (ofSigned 8 (clampI temp (-128) 127)) |> setB (HBM_STAT_REF2X i.val) hot
      |> ifS (hot && !was) (raise 0x170 5)
    if drift then s |> advanceTraffic i.val |> enterFault (0x170 + i.val) 2 else s)

/-- A corrected error is counted, and its threshold reported (R420). -/
def correctedError (i : Nat) (s : State) : State :=
  let s := countF (HBM_CE_CNT i) s
  let n := getF (HBM_CE_THR i) s
  ifS (decide (n ≠ 0) && decide (getF (HBM_CE_CNT i) s = n)) (raise (0x170 + i) 2) s

/-- An uncorrectable error of a word is counted and recorded with its fabric port (R420). -/
def uncorrectedError (i addr port : Nat) (s : State) : State :=
  s |> countF (HBM_UE_CNT i) |> setF (HBM_UE_ADDR_LO i) addr |> setF (HBM_UE_ADDR_HI_PORT i) port
    |> setF (HBM_UE_ADDR_HI_ADDR i) (addr / 2 ^ 32) |> raise (0x170 + i) 3

/-- HBM_ECC_ERROR (R420): a corrected word is written back good, a word with two bad bits reads poisoned. -/
def execHbmEccError (i : Fin 4) (addr port : Nat) (kind : EccKind) (s : State) : Host.Outcome State Fault Refusal :=
  .next (if !stackRuns i.val s || decide (hbmTop ≤ addr) || decide (addr / 256 % 4 ≠ i.val) then s else
    match kind with
    | .onDie => countF (HBM_ODECC_CNT i.val) s
    | .correctable => correctedError i.val s
    | .uncorrectable =>
      s |> poisonWord (addr / 8) |> uncorrectedError i.val (8 * (addr / 8)) port)

/-- HBM_SCRUB_PASS: every word of the stack is read once; single-bit errors found are corrected, and words with two bad
bits are counted again, the port being free (R420, R421, log 3). -/
def execHbmScrubPass (i : Fin 4) (found : List Nat) (s : State) : Host.Outcome State Fault Refusal :=
  .next (if !stackRuns i.val s || !getB (HBM_CFG_SCRUB_EN i.val) s then s else
    let s := each (found.filter (fun a => decide (a < hbmTop) && decide (a / 256 % 4 = i.val) && !s.poison.contains a))
      (fun _ => correctedError i.val) s
    each (((s.poison.map (fun a => a / 8)).eraseDups).filter (fun w => decide (8 * w / 256 % 4 = i.val)))
      (fun w t => let f := fresh 6 t; uncorrectedError i.val (8 * w) f.1 f.2) s)

/-- The stacks enter self-refresh (R418). -/
def selfRefresh (i : Nat) (s : State) : State := setB (HBM_STAT_SELF_REFRESH i) true s

/-- The start of a stack's page: its controller looks for a training record, and its training is awaited (R415). -/
def hbmStart (i : Nat) (s : State) : State :=
  { s with pwr := { s.pwr with trainRec := FMap.set (1, none) s.pwr.trainRec i (lookForRecord s) } }
    |> setB (HBM_STAT_TRAINED i) false |> clearF HBM_TRAIN_FULL (2 ^ i)

/-! ## The PCIe window onto HBM (R138, R418, R465) -/

/-- The HBM address `off` bytes into the regions listed, which are concatenated; none beyond the last. -/
def regionsAddr (p : Nat) (s : State) : List Nat → Nat → Option Nat
  | [], _ => none
  | k :: r, off =>
    let size := getF (HST_REG_SIZE p k) s * 2 ^ 20
    if off < size then some (getF (HST_REG_BASE p k) s * 2 ^ 20 + off) else regionsAddr p s r (off - size)

/-- The HBM address of byte `off` of the window of partition `p` (R465). -/
def windowAddr (p off : Nat) (s : State) : Option Nat := regionsAddr p s (List.range 8) off

/-- The leased buffer that a byte of the window lies in (R138). -/
def windowLease (p off : Nat) (s : State) : Option (Nat × Nat) := (windowAddr p off s).bind (fun a => leasedAt a s)

/-- A byte written at the place a window offset leads to, if any; in a leased buffer it is discarded (R138). -/
def storeAt (a : Option Nat) (b : Byte) (s : State) : State :=
  match a with
  | none => s
  | some a => ifS (leasedAt a s).isNone (hbmPut a b) s

/-- One byte is written through the window; beyond the last region it is discarded (R465). -/
def windowStore (p off : Nat) (b : Byte) (s : State) : State := storeAt (windowAddr p off s) b s

/-- The byte at the place a window offset leads to; beyond the last region 0xFF is read (R465). -/
def loadAt (a : Option Nat) (s : State) : Byte :=
  match a with
  | none => 0xFF
  | some a => hbmGet a s

/-- `n` bytes read through the window. -/
def windowRead (p off n : Nat) (s : State) : List Byte := (List.range n).map (fun i => loadAt (windowAddr p (off + i) s) s)

/-- A window access takes effect (R138, R465, R472). -/
def serveWindow (p off : Nat) (acc : WindowAccess) (s : State) : State :=
  match acc with
  | .read n =>
    let beyond := (List.range n).any (fun i => (windowAddr p (off + i) s).isNone)
    s |> emit (.readData p (windowRead p off n s)) |> ifS beyond (hostError p 4)
  | .write bytes =>
    let beyond := (List.range bytes.length).any (fun i => (windowAddr p (off + i) s).isNone)
    let leased := ((List.range bytes.length).filterMap (fun i => windowLease p (off + i) s)).eraseDups
    s |> each bytes.zipIdx (fun e => windowStore p (off + e.2) e.1) |> each leased (leaseViolation 2 p) |> ifS beyond (hostError p 4)
  | .msixRead n => emit (.readData p (wordsBytes ((List.range n).map (fun i => msixWord p (off / 4 + i) s)))) s
  | .msixWrite ws => s |> each ws.zipIdx (fun e => putMsix p (off / 4 + e.2) e.1) |> msixRelease p
  | .msixMask m => s |> State.setMsixT p { s.msixT p with fmask := m } |> msixRelease p

/-- A stack is in self-refresh, so that the fabric holds new requests (R418). -/
def hbmAsleep (s : State) : Bool := (List.range 4).any (fun i => getB (HBM_STAT_SELF_REFRESH i) s)

/-- The requests that the fabric held are served once every stack has left self-refresh (R418). -/
def serveBars (s : State) : State :=
  if hbmAsleep s then s
  else each s.hst.barHeld (fun e => serveWindow e.1 e.2.1 e.2.2) { s with hst := { s.hst with barHeld := [] } }

/-- A stack's page reads ON again: the stack has left self-refresh (R418). -/
def hbmWakes (i : Nat) (s : State) : State := s |> setB (HBM_STAT_SELF_REFRESH i) false |> serveBars

end Sys2Proof.Machine
end

