-- ==== Sys2Proof/Machine/Rim.lean ====
section
/-!
DEFINITION. The rim strip (spec/14): stored images, regions, offers and their arbiter, the queues, the line driver, the
waveform bands, the converter's readings, and the persisted copies.
-/

namespace Sys2Proof.Machine

/-! ## Images and regions (R370–R375) -/

/-- Some region has an update in its queue. -/
def rimBusy (s : State) : Bool := (List.range 16).any (fun r => !(s.rimQ r).isEmpty)

/-- The rectangle of region `r`: C0, C1, S0, S1 (R374). -/
def rimRect (r : Nat) (s : State) : Nat × Nat × Nat × Nat :=
  (getF (RIM_RGN_RECT_C0 r) s, getF (RIM_RGN_RECT_C1 r) s, getF (RIM_RGN_RECT_S0 r) s, getF (RIM_RGN_RECT_S1 r) s)

/-- Region `r` is open. -/
def rimOpen (r : Nat) (s : State) : Bool := decide (getF (RIM_RGN_STAT_STATE r) s = 1)

/-- The code of element (c, s) of an image (R371). -/
def rimCode (img : List Word) (c e : Nat) : Nat := bitsOf (wordAt img (12 * c + e / 16)) (2 * (e % 16) + 1) (2 * (e % 16))

/-- The image's rectangle holds a code 2 or 3 (R376). -/
def rimHasLevels (img : List Word) (rc : Nat × Nat × Nat × Nat) : Bool :=
  (List.range 24).any (fun c => decide (rc.1 ≤ c) && decide (c ≤ rc.2.1) &&
    (List.range 192).any (fun e => decide (rc.2.2.1 ≤ e) && decide (e ≤ rc.2.2.2) && decide (2 ≤ rimCode img c e)))

/-- RIM_IMAGE_STORE (R373). -/
def rimImageStoreBody (c : Cmd) (ws : List Word) (s : State) : State :=
  let i := c.argF 0 7 0
  let o := FMap.get 0 s.rim.storeOwner i
  if crcWords (ws.take 288) ≠ ws.getD 288 0 then answer 0x38 c BAD_ARGUMENT s
  else if o ≠ 0 ∧ o ≠ c.idx + 1 then answer 0x38 c NOT_OWNER s
  else { s with rim := { s.rim with store := FMap.set [] s.rim.store i (ws.take 288),
                                    storeOwner := FMap.set 0 s.rim.storeOwner i (c.idx + 1) } } |> answer 0x38 c DONE

/-- RIM_IMAGE_STORE (R373). -/
def execRimImageStore (c : Cmd) (s : State) : Host.Outcome State Fault Refusal :=
  .next (runCmd 0x38 c (withLen 0x38 c 1156 (rimImageStoreBody c)) s)

/-- Two rectangles share an element. -/
def rimOverlap (a b : Nat × Nat × Nat × Nat) : Bool :=
  decide (a.1 ≤ b.2.1) && decide (b.1 ≤ a.2.1) && decide (a.2.2.1 ≤ b.2.2.2) && decide (b.2.2.1 ≤ a.2.2.2)

/-- One RIM_REGION_OPEN, against the regions the one before left (R374). -/
def rimRegionOpenOne (c : Cmd) (s : State) : State :=
  let rc := (c.argF 0 28 24, c.argF 0 20 16, c.argF 0 15 8, c.argF 0 7 0)
  if rc.2.1 < rc.1 ∨ 23 < rc.2.1 ∨ rc.2.2.2 < rc.2.2.1 ∨ 191 < rc.2.2.2 then answer 0x39 c BAD_ARGUMENT s
  else if (List.range 16).any (fun r => rimOpen r s && rimOverlap rc (rimRect r s)) then answer 0x39 c BAD_ARGUMENT s
  else match firstBelow 16 (fun r => !rimOpen r s) with
    | none => s |> countF RIM_TFULL |> raise 0x180 11 |> answer 0x39 c TABLE_FULL
    | some r => s |> wr (RIM_RGN_STAT_STATE r).addr 0 |> setF (RIM_RGN_STAT_STATE r) 1 |> setF (RIM_RGN_STAT_OWNER r) c.idx
        |> setF (RIM_RGN_RECT_C0 r) rc.1 |> setF (RIM_RGN_RECT_C1 r) rc.2.1 |> setF (RIM_RGN_RECT_S0 r) rc.2.2.1
        |> setF (RIM_RGN_RECT_S1 r) rc.2.2.2 |> finish 0x39 c DONE 0 r 0

/-- RIM_REGION_OPEN (R374). -/
def execRimRegionOpen (cs : List Cmd) (s : State) : Host.Outcome State Fault Refusal :=
  .next (runTies 0x39 cs (fun cs => serveTable RIM_TIE_ALLOC 8 cs rimRegionOpenOne) s)

/-- The owner's right to a region command, and its queue empty (R375); the firmware, which is no other partition, has it too (log 7). -/
def rimOwnerCmd (op : Nat) (c : Cmd) (f : Nat → State → State) (s : State) : State :=
  let r := c.argF 0 3 0
  if !rimOpen r s || decide (c.idx ≠ 8 ∧ getF (RIM_RGN_STAT_OWNER r) s ≠ c.idx) then answer op c NOT_OWNER s
  else if !(s.rimQ r).isEmpty then answer op c BUSY s
  else s |> f r |> answer op c DONE

/-- RIM_REGION_SET (R375). -/
def execRimRegionSet (c : Cmd) (s : State) : Host.Outcome State Fault Refusal :=
  .next (runCmd 0x3A c (rimOwnerCmd 0x3A c (fun r s =>
    s |> setF (RIM_RGN_STAT_CO_EN r) (c.argF 1 31 31) |> setF (RIM_RGN_STAT_CO_OWNER r) (c.argF 1 2 0))) s)

/-- RIM_REGION_CLOSE (R375). -/
def execRimRegionClose (c : Cmd) (s : State) : Host.Outcome State Fault Refusal :=
  .next (runCmd 0x3B c (rimOwnerCmd 0x3B c (fun r => wr (RIM_RGN_STAT_STATE r).addr 0)) s)

/-! ## The line driver (R378, R379, R382, R386) -/

/-- QUEUED, RUN and NEXT of a region show its queue. -/
def showRimQ (r : Nat) (s : State) : State :=
  let run := (s.rimQ r).head?.any (fun u => u.run)
  s |> setF (RIM_RGN_STAT_QUEUED r) (s.rimQ r).length |> setB (RIM_RGN_STAT_RUN r) run
    |> setF (RIM_RGN_NEXT_NEXT r) (if run then FMap.get 0 s.rim.nextCom r else 31)

/-- Word `4b + k` of the band table. -/
def bandWord (b k : Nat) (s : State) : Nat := wordAt s.rim.bands (4 * b + k)

/-- T_LO and T_HI of band `b`, °C (R380). -/
def bandLo (b : Nat) (s : State) : Int := toSigned 8 (bitsOf (bandWord b 0 s) 31 24)
def bandHi (b : Nat) (s : State) : Int := toSigned 8 (bitsOf (bandWord b 0 s) 23 16)

/-- Band `b` is in use. -/
def bandValid (b : Nat) (s : State) : Bool := bitOf (bandWord b 0 s) 0

/-- RIM_TEMP as a number of 1/16 °C. -/
def rimTemp (s : State) : Int := toSigned 16 (getF RIM_TEMP_TEMP s)

/-- The band that contains the latest valid reading (R382). -/
def bandNow (s : State) : Nat :=
  (firstBelow 8 (fun b => bandValid b s && decide (16 * bandLo b s ≤ rimTemp s) && decide (rimTemp s < 16 * bandHi b s))).getD 0

/-- Word `w` of a common line: the update's codes inside its segments, committed codes elsewhere (R379). -/
def mergeWord (w s0 s1 old new : Nat) : Nat :=
  (List.range 16).foldl (fun acc i =>
    let e := 16 * (w % 12) + i
    if s0 ≤ e ∧ e ≤ s1 then putBits acc (2 * i + 1) (2 * i) (bitsOf new (2 * i + 1) (2 * i)) else acc) old

/-- The twelve words that a common line writes: of region `r`'s running update, or of the restore (region 16). -/
def lineWords (r c : Nat) (s : State) : List Word :=
  (List.range 12).map (fun j =>
    let w := 12 * c + j
    let old := (FMap.get 0 s.rim.image w).toNat
    if r = 16 then (match s.rim.restore with | some (_, img, _) => img.getD w 0 | none => Word.ofNat old)
    else match (s.rimQ r).head? with
      | some u => Word.ofNat (mergeWord w (rimRect r s).2.2.1 (rimRect r s).2.2.2 old (wordAt u.image w))
      | none => Word.ofNat old)

/-- The sign of element (c, e) in the first half of a phase (R382). -/
def rimSign (invert pol c e : Nat) : Int :=
  if (pol + (if invert = 0 then 0 else c) + (if invert = 2 then e else 0)) % 2 = 0 then 1 else -1

/-- The phases of a common line of band `b` whose elements take the codes of `ws`: RESET, SELECT, EVOLVE and the rest (R382). -/
def rimPhases (c b : Nat) (ws : List Word) (s : State) : List RimPhase :=
  let f (k hi lo : Nat) : Nat := bitsOf (bandWord b k s) hi lo
  let drive (v : Nat → Nat) : List Int :=
    (List.range 192).map (fun e => rimSign s.rim.invert (getF RIM_STAT_POL s) c e * (v e : Int))
  let sel (e : Nat) : Nat :=
    nth [f 2 31 24, f 2 23 16, f 2 15 8, f 2 7 0] (rimCode ws 0 e)
  [⟨10 * f 3 31 21, drive (fun _ => f 1 31 24)⟩, ⟨f 3 9 0, drive sel⟩, ⟨10 * f 3 20 10, drive (fun _ => f 1 23 16)⟩,
    ⟨10, drive (fun _ => 0)⟩]

/-- A common line starts, with the band of its start (R382). -/
def startLine (r c : Nat) (s : State) : State :=
  let b := bandNow s
  let ws := lineWords r c s
  { s with rim := { s.rim with line := some (r, c) } }
    |> setF RIM_STAT_LINE c |> ifS (decide (r < 16)) (setF RIM_STAT_REGION r) |> setF RIM_STAT_BAND b
    |> emit (.rimLine c ws b (bitsOf (bandWord b 1 s) 15 8) (rimPhases c b ws s))

/-- The next region after the one last served that has an update (R379). -/
def nextRegion (s : State) : Option Nat :=
  ((List.range 16).map (fun i => (s.rim.served + 1 + i) % 16)).find? (fun r => !(s.rimQ r).isEmpty)

/-- The head of a region's queue begins to run: its first common, POL toggles, and INVERT takes effect (R378, R382, R388). -/
def beginUpdate (r : Nat) (s : State) : State :=
  match s.rimQ r with
  | [] => s
  | u :: rest =>
    if u.run then s else
    let s := s.setRimQ r ({ u with run := true } :: rest)
    { s with rim := { s.rim with nextCom := FMap.set 0 s.rim.nextCom r (rimRect r s).1, invert := getF RIM_CFG_INVERT s } }
      |> setF RIM_STAT_POL (getF RIM_STAT_POL s + 1) |> showRimQ r

/-- The driver starts the next common line if it may: the restore before any region, the boost before the first line
(R379, R381, R382, R386). While PARK is asked for the driver stays at its idle point between two lines (R387), and a trim run of
zone 21 takes that place too (R455). -/
def rimServe (s : State) : State :=
  if s.rim.line.isSome || getB RIM_STAT_INHIBIT s || !isOn 0x180 s || !s.rim.restoreDone || parkAsked 0x180 s ||
    getB (TRM_STAT_RUNNING 21) s then s else
  let want : Option (Nat × Nat) := match s.rim.restore with
    | some (c :: _, _, _) => some (16, c)
    | _ => (nextRegion s).map (fun r => (r, 0))
  match want with
  | none => s
  | some (r, c) =>
    if !s.rim.boostUp then setB RIM_STAT_BOOST_ON true s
    else if r = 16 then startLine 16 c s
    else
      let s := beginUpdate r s
      startLine r (FMap.get 0 s.rim.nextCom r) s

/-- The elements of a completed line become committed (R372). -/
def commitLine (c : Nat) (ws : List Word) (s : State) : State :=
  each (List.range 12) (fun j t =>
    { t with rim := { t.rim with image := FMap.set 0 t.rim.image (12 * c + j) (ws.getD j 0) } }) s

/-- A region whose owner is being torn down closes once its queue is empty (R474). -/
def closeTorn (r : Nat) (s : State) : State :=
  ifS (rimOpen r s && (s.rimQ r).isEmpty && (s.prt (getF (RIM_RGN_STAT_OWNER r) s)).tearing) (wr (RIM_RGN_STAT_STATE r).addr 0) s

/-- The running update of region `r` has committed its last line (R378). -/
def updateDone (r : Nat) (s : State) : State :=
  match s.rimQ r with
  | [] => s
  | u :: rest =>
    let s := s.setRimQ r rest
    let s := match u.cmd with
      | some ref => complete true ref DONE 0 0 0 s
      | none => s
    s |> raise 0x180 2 |> addF (RIM_RGN_DONE r) 1 |> showRimQ r |> closeTorn r

/-- The restore has rewritten common `c` (R386). -/
def restoreLineDone (s : State) : State :=
  match s.rim.restore with
  | some (_ :: [], _, valid) =>
    let s := { s with rim := { s.rim with restore := none } }
    if valid then s |> setB RIM_STAT_RESTORED true |> raise 0x180 9 else raise 0x180 10 s
  | some (_ :: rest, img, valid) => { s with rim := { s.rim with restore := some (rest, img, valid) } }
  | _ => s

/-- The line being driven ends: it is committed and its region moves on; no new line has started yet. -/
def finishLine (s : State) : State :=
  match s.rim.line with
  | none => s
  | some (r, c) =>
    let ws := lineWords r c s
    let s := commitLine c ws { s with rim := { s.rim with line := none } } |> setF RIM_STAT_LINE 31
    if r = 16 then restoreLineDone s
    else
      let s := { s with rim := { s.rim with served := r } }
      if (rimRect r s).2.1 ≤ c then updateDone r s
      else { s with rim := { s.rim with nextCom := FMap.set 0 s.rim.nextCom r (c + 1) } } |> showRimQ r

/-- A line that RIM_HOLD did not carry to its end is not committed (R372, R384). DEDUCED (log 60): its common is driven again when
the update goes on, since RIM_RGN_NEXT still names it. -/
def dropLine (s : State) : State :=
  if s.rim.line.isNone then s else { s with rim := { s.rim with line := none } } |> setF RIM_STAT_LINE 31

/-- COMMON_LINE_COMPLETE (R378, R379). -/
def execCommonLineComplete (s : State) : Host.Outcome State Fault Refusal :=
  .next (if s.rim.line.isSome then s |> finishLine |> rimServe else s)

/-- BOOST_READY: the boost output reaches its target (R382). -/
def execBoostReady (s : State) : Host.Outcome State Fault Refusal :=
  .next (if getB RIM_STAT_BOOST_ON s then { s with rim := { s.rim with boostUp := true } } |> rimServe else s)

/-- BOOST_IDLE_TIMEOUT: no queue has held an update for 1 s (R382). -/
def execBoostIdleTimeout (s : State) : Host.Outcome State Fault Refusal :=
  .next (if rimBusy s || s.rim.line.isSome || s.rim.restore.isSome then s
    else { s with rim := { s.rim with boostUp := false } } |> setB RIM_STAT_BOOST_ON false)

/-! ## Offers (R376–R378) -/

/-- RIM_UPDATE: the offer waits for the arbiter's next tick; step 1 of R376 stands in place of R477 (R548). -/
def rimUpdateBody (c : Cmd) (s : State) : State :=
  { s with rim := { s.rim with offers := s.rim.offers ++
    [⟨false, c.idx, c.idx, c.argF 0 3 0, c.argF 1 7 0, some (refOf 0x3C c)⟩] } }

/-- RIM_UPDATE (R376). -/
def execRimUpdate (c : Cmd) (s : State) : Host.Outcome State Fault Refusal :=
  .next (if mayStart 0x3C c s then rimUpdateBody c (markStarted 0x3C c s) else s)

/-- Steps 1 to 4 of R376: the status of the first that fails. Step 3 refuses a partition; the firmware's own offers are
served before it (R546). -/
def judgeOffer (o : RimOffer) (s : State) : Option Nat :=
  let img := FMap.get [] s.rim.store o.image
  let p := o.part
  if !isOn 0x180 s then some NOT_READY
  else if !rimOpen o.region s || decide (FMap.get 0 s.rim.storeOwner o.image = 0) ||
    (!getB RIM_CFG_LEVELS s && rimHasLevels img (rimRect o.region s)) then some BAD_ARGUMENT
  else if p < 8 ∧ getF (RIM_RGN_STAT_OWNER o.region) s ≠ p ∧
    ¬ (getB (RIM_RGN_STAT_CO_EN o.region) s = true ∧ getF (RIM_RGN_STAT_CO_OWNER o.region) s = p) then some NOT_OWNER
  else if getB RIM_STAT_INHIBIT s then some INHIBITED
  else none

/-- The result of an offer: a completion, or RIM_CUE_INFO and OFFER_REFUSED (R377). -/
def offerResult (o : RimOffer) (status : Nat) (s : State) : State :=
  if o.cue then
    s |> setF RIM_CUE_INFO_STATUS status |> setF RIM_CUE_INFO_REGION o.region |> setF RIM_CUE_INFO_LIST o.index
      |> ifS (decide (status ≠ DONE)) (raise 0x180 3)
  else match o.cmd with
    | some ref => if status = DONE then s else complete true ref status 0 0 0 s
    | none => s

/-- An accepted offer joins its region's queue, or replaces the newest update that waits there (R378). -/
def acceptOffer (o : RimOffer) (s : State) : State :=
  let u : RimUpdate := ⟨o.cmd, FMap.get [] s.rim.store o.image, false⟩
  let q := s.rimQ o.region
  let s := offerResult o DONE s
  if q.length < 4 then s.setRimQ o.region (q ++ [u]) |> showRimQ o.region
  else
    let s := match q.getLast?.bind (fun v => v.cmd) with
      | some ref => complete true ref COALESCED 0 0 0 s
      | none => s
    s.setRimQ o.region (q.dropLast ++ [u]) |> countF RIM_COALESCED |> raise 0x180 4 |> showRimQ o.region

/-- Offers of one rank to one region: one is accepted, the others lose the tie (R41, R377). -/
def settleOffers (ptr : Fld) (os : List RimOffer) (s : State) : State :=
  match tieSort 8 (getF ptr s) (fun o => o.index) os with
  | [] => s
  | w :: ls =>
    let s := each ls (fun o => offerResult o LOST_TIE) s
    let s := ifS (decide (2 ≤ (requesters (fun o : RimOffer => o.index) os).length)) (setF ptr w.index) s
    acceptOffer w s

/-- The offers to one region in one tick (R376, R377). -/
def arbitrateRegion (os : List RimOffer) (r : Nat) (s : State) : State :=
  let mine := os.filter (fun o => decide (o.region = r))
  let s' := each mine (fun o t => match judgeOffer o s with
    | some st => offerResult o st t
    | none => t) s
  let ok := mine.filter (fun o => (judgeOffer o s).isNone)
  let cues := ok.filter (fun o => o.cue)
  let fw := ok.filter (fun o => !o.cue && decide (8 ≤ o.index))
  let direct := ok.filter (fun o => !o.cue && decide (o.index < 8))
  let s' := each fw acceptOffer s'
  if cues.isEmpty then settleOffers RIM_TIE_CMD direct s'
  else s' |> each direct (fun o => offerResult o BUSY) |> settleOffers RIM_TIE_CUE cues

/-- RIM_ARBITER_TICK: every waiting offer is judged, region by region (R376, R377). -/
def execRimArbiterTick (s : State) : Host.Outcome State Fault Refusal :=
  .next (each (List.range 16) (arbitrateRegion s.rim.offers) { s with rim := { s.rim with offers := [] } } |> rimServe)

/-! ## Bands, converter, inhibit (R380–R382) -/

/-- INHIBIT follows its causes (R381). -/
def showInhibit (s : State) : State :=
  let v := getB RIM_STAT_T_OUT s || getB RIM_STAT_VHV_LOW s || getB RIM_STAT_NO_TABLE s
  if getB RIM_STAT_INHIBIT s = v then s
  else s |> setB RIM_STAT_INHIBIT v |> raise 0x180 (if v then 5 else 6)

/-- The valid bands of a table of 32 words. -/
def bandsUsed (ws : List Word) : List Nat := (List.range 8).filter (fun b => bitOf (wordAt ws (4 * b)) 0)

/-- The checks of R380 on one valid band. -/
def bandOk (dot : Bool) (ws : List Word) (b : Nat) : Bool :=
  let f (k hi lo : Nat) : Nat := fieldAt ws (4 * b + k) hi lo
  let lo := toSigned 8 (f 0 31 24)
  let hi := toSigned 8 (f 0 23 16)
  let vrim := f 1 15 8
  let vs := [f 1 31 24, f 1 23 16, f 2 31 24, f 2 23 16, f 2 15 8, f 2 7 0]
  decide (lo < hi) && decide (-20 ≤ lo) && decide (hi ≤ 70) && decide (vrim ≤ 180) &&
  vs.all (fun v => decide (v ≤ vrim) && (!dot || decide (2 * v ≤ vrim))) &&
  decide (f 3 31 21 ≠ 0) && decide (f 3 20 10 ≠ 0) && decide (f 3 9 0 ≠ 0)

/-- A band table passes R380. -/
def bandTableOk (dot : Bool) (ws : List Word) : Bool :=
  let used := bandsUsed ws
  let first := used.headD 0
  decide (crcWords (ws.take 32) = ws.getD 32 0) &&
  (List.range 8).all (fun b => decide (fieldAt ws (4 * b) 15 1 = 0) && decide (fieldAt ws (4 * b + 1) 7 0 = 0)) &&
  !used.isEmpty && decide (used = (List.range used.length).map (fun i => first + i)) &&
  used.all (bandOk dot ws) &&
  used.all (fun b => !used.contains (b + 1) || decide (fieldAt ws (4 * b) 23 16 = fieldAt ws (4 * b + 4) 31 24))

/-- The latest reading lies outside the table range, or is invalid (R381). -/
def rimTOut (s : State) : Bool :=
  let used := bandsUsed s.rim.bands
  !getB RIM_TEMP_VALID s ||
  (!used.isEmpty && (decide (rimTemp s < 16 * bandLo (used.headD 0) s) || decide (16 * bandHi (used.getLastD 0) s ≤ rimTemp s)))

/-- RIM_BAND_LOAD (R380). -/
def rimBandLoadBody (c : Cmd) (ws : List Word) (s : State) : State :=
  if !isOwner c.who 0x180 s then answer 0x3D c NOT_OWNER s
  else if !bandTableOk (decide (getF RIM_CFG_INVERT s = 2)) ws then answer 0x3D c BAD_ARGUMENT s
  else
    let s := { s with rim := { s.rim with bands := ws.take 32 } } |> setB RIM_STAT_NO_TABLE false
    s |> ifS (getB RIM_TEMP_VALID s) (fun s => setB RIM_STAT_T_OUT (rimTOut s) s) |> showInhibit |> answer 0x3D c DONE |> rimServe

/-- RIM_BAND_LOAD (R380). -/
def execRimBandLoad (c : Cmd) (s : State) : Host.Outcome State Fault Refusal :=
  .next (runCmd 0x3D c (withLen 0x3D c 132 (rimBandLoadBody c)) s)

/-- 2⁶⁰·atanh(1/q·p) by its series: the sum of z^(2i+1)/(2i+1), z = p/q, over `fuel` terms. -/
def atanhSum (p q : Int) : Nat → Int → Int → Int
  | 0, _, _ => 0
  | fuel + 1, z, k => z / k + atanhSum p q fuel (z * (p * p) / (q * q)) (k + 2)

/-- 2⁶⁰·ln(a/b), to well below 2⁻⁴⁰: powers of two are taken out, and the rest is 2·atanh((m−1)/(m+1)). -/
def lnFix (a b : Nat) : Int :=
  let k : Int := (Nat.log2 a : Int) - (Nat.log2 b : Int)
  let n : Int := if 0 ≤ k then a else a * (2 ^ (-k).toNat : Nat)
  let d : Int := if 0 ≤ k then b * (2 ^ k.toNat : Nat) else b
  let p := n - d
  let q := n + d
  k * 799144290325165979 + 2 * atanhSum p q 40 ((2 ^ 60 : Nat) * p / q) 1

/-- The strip temperature in 1/16 °C, rounded down, from code N, R25 (U4.12) and B (R381); none where the formula has no
value. T = 1 / (1/298.15 + ln(r/R25)/B) − 273.15. -/
def stripTemp (n r25 b : Nat) : Option Int :=
  if n = 0 ∨ 4096 ≤ n ∨ r25 = 0 ∨ b = 0 then none else
  let l := lnFix (n * 4096) ((4096 - n) * r25)
  -- denominator 1/298.15 + l/B, times 29815·B·2⁶⁰
  let den : Int := 100 * (b : Int) * (2 ^ 60 : Nat) + 29815 * l
  if den ≤ 0 then none
  else some ((16 * 29815 * (b : Int) * (2 ^ 60 : Nat) * 100 - 16 * 27315 * den) / (100 * den))

/-- The strip temperature after a conversion of its sensor (R381). It is not bit-normative: either multiple of 1/16 °C next
to the formula's value may be written, and where the formula has none the value is free (log 3). Only at r = R25 is the formula's
value a multiple of 1/16 °C itself, 25 °C, and no other lies within the error that R381 allows. -/
def putStripTemp (ntc : Nat) (s : State) : State :=
  if ntc * 4096 = (4096 - ntc) * getF RIM_NTC_CFG_R25 s ∧ getF RIM_NTC_CFG_B s ≠ 0 then setF RIM_TEMP_TEMP 400 s else
  match stripTemp ntc (getF RIM_NTC_CFG_R25 s) (getF RIM_NTC_CFG_B s) with
  | some t => setF RIM_TEMP_TEMP (ofSigned 16 (t + (fresh 1 s).1)) (fresh 1 s).2
  | none => setF RIM_TEMP_TEMP (fresh 16 s).1 (fresh 16 s).2

/-- CONVERTER_CONVERSION (R381): every 250 ms, or as a timer channel has asked for it. -/
def execConverterConversion (r : Conversion) (s : State) : Host.Outcome State Fault Refusal :=
  let s := { s with rim := { s.rim with convAsked := false } }
  let s := s |> setF RIM_VSUP_VHV r.vhv |> setF RIM_VSUP_VHOLD r.vhold |> setF RIM_VRIM_VRIM r.vrim
  let valid : Bool := decide (41 ≤ r.ntc) && decide (r.ntc ≤ 4055)
  let s := setB RIM_TEMP_VALID valid s
  let s := ifS valid (putStripTemp r.ntc) s
  .next (s |> setB RIM_STAT_T_OUT (rimTOut s) |> showInhibit |> rimServe)

/-! ## Persistence and restore (R385, R386) -/

/-- The copy with a valid CRC and the newest SEQ (R386), and whether it is B. -/
def newestCopy (s : State) : Option (Bool × RimCopy) :=
  let a := s.rim.copyA.filter (fun c => c.valid)
  let b := s.rim.copyB.filter (fun c => c.valid)
  match a, b with
  | none, none => none
  | some x, none => some (false, x)
  | none, some y => some (true, y)
  | some x, some y => if 0 ≤ diff32 x.seq.toNat y.seq.toNat then some (false, x) else some (true, y)

/-- The 288 words of the committed image. -/
def committedImage (s : State) : List Word := (List.range 288).map (fun w => FMap.get 0 s.rim.image w)

/-- RIM_PERSIST: completes when the write it asks for ends (R385). -/
def execRimPersist (c : Cmd) (s : State) : Host.Outcome State Fault Refusal :=
  .next (runCmd 0x3E c (fun s => { s with rim := { s.rim with persist := s.rim.persist ++ [refOf 0x3E c] } }) s)

/-- A copy may be written: the committed image differs from the newer copy, and 60 s have passed (R385). DEDUCED (log 60): not
before the power-up restore has given the strip its committed image again (R372, R386). -/
def mayPersist (s : State) : Bool :=
  s.rim.writing.isNone && s.pwr.vhv && s.rim.restoreDone && s.rim.restore.isNone &&
  (match newestCopy s with | none => true | some (_, c) => decide (c.image ≠ committedImage s)) &&
  (match s.rim.lastWrite with | none => true | some t => tnsLe (t + 60000000000) (now s))

/-- RIM_PERSIST_WRITE: the write of the older copy begins (R385). -/
def execRimPersistWrite (s : State) : Host.Outcome State Fault Refusal :=
  .next (if !mayPersist s then s else
    let b := match newestCopy s with | some (x, _) => !x | none => false
    let seq := match newestCopy s with | some (_, c) => c.seq.toNat | none => 0
    { s with rim := { s.rim with
        writing := some (b, ⟨committedImage s, Word.ofNat (seq + 1), getB RIM_CFG_LEVELS s, true⟩, s.rim.persist),
        persist := [], lastWrite := some (now s) } })

/-- PERSISTED: the write ends; one that a power loss cut leaves that copy with a failing CRC (R385). -/
def execPersisted (intact : Bool) (s : State) : Host.Outcome State Fault Refusal :=
  .next (match s.rim.writing with
    | none => s
    | some (b, c, cmds) =>
      let c := { c with valid := intact }
      let rim := if b then { s.rim with copyB := some c, writing := none } else { s.rim with copyA := some c, writing := none }
      let s := { s with rim := rim }
      if !intact then { s with rim := { s.rim with persist := cmds ++ s.rim.persist } }
      else s |> setF RIM_PSEQ c.seq.toNat |> raise 0x180 8 |> each cmds (fun r => complete true r DONE 0 0 0))

/-- RIM_RESTORE: the restore of a power-up begins, before any offer runs (R386). -/
def execRimRestore (s : State) : Host.Outcome State Fault Refusal :=
  .next (if s.rim.restoreDone || !isOn 0x180 s || getB RIM_STAT_INHIBIT s then s else
    let c := newestCopy s
    let img := match c with | some (_, c) => c.image | none => []
    let s := match c with | some (_, c) => s |> setB RIM_CFG_LEVELS c.levels |> setF RIM_PSEQ c.seq.toNat | none => s
    { s with rim := { s.rim with restore := some (List.range 24, img, c.isSome), restoreDone := true, invert := getF RIM_CFG_INVERT s } } |> rimServe)

/-! ## The page's lifecycle and RIM_CFG (R387, R388) -/

/-- RESET of page 0x180: regions, images, queues and the band table go (R387). Offers that wait for
the arbiter are judged at its next tick (R376). -/
def rimReset (s : State) : State :=
  let s := each (List.range 16) (fun r t => t.setRimQ r [] |> wr (RIM_RGN_STAT_STATE r).addr 0 |> showRimQ r) s
  { s with rim := { s.rim with
      store := [], storeOwner := [], bands := [], line := none, nextCom := [], boostUp := false } }

/-- Entry into FAULT: the outputs go to 0 V and every update completes with ABORTED (R387). -/
def rimFault (s : State) : State :=
  let s := { s with rim := { s.rim with line := none } } |> setF RIM_STAT_LINE 31
  each (List.range 16) (fun r t =>
    let q := t.rimQ r
    each (q.filterMap (fun u => u.cmd)) (fun ref => complete true ref ABORTED 0 0 0) (t.setRimQ r []) |> showRimQ r |> closeTorn r) s

/-- RIM_CFG is written: discarded while any queue is not empty, and with INVERT = 3 (R382, R388). -/
def writeRimCfg (v : Nat) (s : State) : State :=
  if rimBusy s || decide (bitsOf v 9 8 = 3) then s
  else s |> setF RIM_CFG_INVERT (bitsOf v 9 8) |> setF RIM_CFG_LEVELS (bitsOf v 4 4)

end Sys2Proof.Machine
end

