-- ==== Sys2Proof/Machine/Thermal.lean ====
section
/-!
DEFINITION. Thermal sensing, throttling and trim calibration (spec/18, R448–R458). A conversion comes every 100 µs, so
GRACE and the steps of R451 are counted in conversions.
-/

namespace Sys2Proof.Machine

/-! ## Sensors (R448–R450) -/

/-- The die of sensor `n`: 0–3 S-dies, 4 H-die, 5 and 6 L-dies, 7 V-die (R448). -/
def sensorDie (n : Nat) : Nat :=
  if n < 48 then n / 12 else if n < 60 then 4 else if n < 64 then 5 else if n < 68 then 6 else 7

/-- The sensors of a die. -/
def dieSensors (d : Nat) : List Nat := (List.range 72).filter (fun n => decide (sensorDie n = d))

/-- A sensor's reading, S11.4 °C. -/
def sensorTemp (n : Nat) (s : State) : Int := toSigned 16 (getF (THM_T_TEMP n) s)

/-- A sensor has converted and is not excluded (R449). -/
def sensorValid (n : Nat) (s : State) : Bool := getB (THM_T_VALID n) s

/-- A sensor is excluded (R449). -/
def sensorExcluded (n : Nat) (s : State) : Bool := getB (THM_T_RANGE n) s || getB (THM_T_STUCK n) s

/-- The highest reading of valid sensors, with the sensor; the lowest number where several read it. -/
def hottest (ns : List Nat) (s : State) : Option (Nat × Int) :=
  ns.foldl (fun acc n => if !sensorValid n s then acc else match acc with
    | none => some (n, sensorTemp n s)
    | some b => if b.2 < sensorTemp n s then some (n, sensorTemp n s) else acc) none

/-- The maximum of a die's valid sensors (R455). -/
def dieMax (d : Nat) (s : State) : Option Int := (hottest (dieSensors d) s).map (fun x => x.2)

/-- A conversion's reading is held, and the RANGE exclusion follows it (R448, R449, R461). -/
def takeReading (n : Nat) (r : Int) (s : State) : State :=
  let x := s.thSensor n
  let s := s |> setF (THM_T_TEMP n) (ofSigned 16 r)
    |> ifS (decide (toSigned 16 (getF (THM_PK_PEAK n) s) < r)) (setF (THM_PK_PEAK n) (ofSigned 16 r))
  let inRange := decide (-960 ≤ r) && decide (r ≤ 2560)
  if !inRange then s.setThSensor n { x with good := 0, hot := 0 } |> setB (THM_T_RANGE n) true
  else if getB (THM_T_RANGE n) s then
    s.setThSensor n { x with good := (x.good + 1) % 10 } |> ifS (decide (9 ≤ x.good)) (setB (THM_T_RANGE n) false)
  else s

/-- Readings of the last second span no more than 1/16 °C, and the mean of the others has changed by more than 2 °C from
the window's first conversion to its last (R449). -/
def stuck (w : List (Int × Int × Nat)) : Bool :=
  let rs := w.map (fun e => e.1)
  let others := w.filter (fun e => decide (e.2.2 ≠ 0))
  decide (10000 ≤ w.length) && decide (rs.foldl max (-32768) - rs.foldl min 32767 ≤ 1) &&
  (match others.head?, others.getLast? with
    | some a, some b =>
      let d := a.2.1 * b.2.2 - b.2.1 * a.2.2
      let lim : Int := (32 * (a.2.2 * b.2.2) : Nat)
      decide (lim < d) || decide (d < -lim)
    | _, _ => false)

/-- The STUCK exclusion of a sensor that has just converted (R449). -/
def judgeStuck (n : Nat) (s : State) : State :=
  let x := s.thSensor n
  let r := sensorTemp n s
  match x.stuckAt with
  | some v =>
    if 8 < r - v ∨ 8 < v - r then s.setThSensor n { x with stuckAt := none, window := [] } |> setB (THM_T_STUCK n) false else s
  | none =>
    let others := (dieSensors (sensorDie n)).filter (fun m => decide (m ≠ n) && !sensorExcluded m s)
    let w := ((r, (others.map (fun m => sensorTemp m s)).sum, others.length) :: x.window).take 10000
    if stuck w then s.setThSensor n { x with window := w, stuckAt := some r } |> setB (THM_T_STUCK n) true
    else s.setThSensor n { x with window := w }

/-- VALID follows the exclusions, whose changes are raised, and the comparator counts (R449, R453). -/
def judgeValid (n : Nat) (was : Bool) (s : State) : State :=
  let ex := sensorExcluded n s
  let x := s.thSensor n
  s.setThSensor n { x with excluded := ex, hot := if !ex && decide (1952 ≤ sensorTemp n s) then x.hot + 1 else 0 }
    |> setB (THM_T_VALID n) (!ex)
    |> ifS (ex && !was) (raise 4 5) |> ifS (was && !ex) (raise 4 6)

/-! ## Throttling (R451) -/

/-- THERM of every fan, shown in THM_STAT too (R102, R451). -/
def setTherm (v : Nat) (s : State) : State :=
  each (List.range 16) (fun f => setF (SYN_LIMIT_THERM (f / 2) (f % 2)) v) s |> setF THM_STAT_THERM v

/-- Every jet keeps the value of D that goes out of force, for the cycles that it has spent under it (R452). -/
def keepD (s : State) : State :=
  each (List.range 128) (fun j t => t.setJet j { t.jet j with past := (t.jet j).past ++ [getF THM_STAT_D t] }) s

/-- D takes a value (R451). -/
def setD (v : Nat) (s : State) : State := s |> ifS (decide (getF THM_STAT_D s ≠ v)) keepD |> setF THM_STAT_D v

/-- Throttling ends or is released (R451). -/
def throttleRelease (s : State) : State :=
  if !getB THM_STAT_THROTTLING s then s else
  s |> setB THM_STAT_THROTTLING false |> setB THM_STAT_ENFORCED false |> setTherm 256 |> setD 0 |> raise 4 4

/-- Throttling is enforced from now on. -/
def throttleEnforce (s : State) : State :=
  { s with pwr := { s.pwr with thrHigh := 0 } } |> setB THM_STAT_ENFORCED true |> countF THM_ENF_CNT |> raise 4 3

/-- Throttling begins in the mode set. -/
def throttleBegin (s : State) : State :=
  let s := { s with pwr := { s.pwr with thrAge := 0, thrHigh := 0 } }
  if getF THM_CFG_MODE s = 1 then s |> setB THM_STAT_THROTTLING true |> raise 4 2
  else if getF THM_CFG_MODE s = 2 then
    s |> setB THM_STAT_THROTTLING true |> setD (min (getF THM_PAUSE_DUTY s) (getF THM_PAUSE_DUTY_MAX s))
      |> throttleEnforce
  else s

/-- The evaluation of throttling after a conversion (R451). -/
def evalThrottle (t : Int) (s : State) : State :=
  let on := decide ((16 * getF THM_CFG_ON s : Nat) ≤ t)
  if getB THM_STAT_THROTTLING s then
    if t < (16 * getF THM_CFG_OFF s : Nat) then throttleRelease s
    else { s with pwr := { s.pwr with thrAge := s.pwr.thrAge + 1, thrHigh := s.pwr.thrHigh + bit on } }
  else ifS on throttleBegin s

/-- THM_MAX after a conversion of the sensors `ns`, with what is reached (R450). -/
def evalMax (ns : List Nat) (s : State) : State :=
  match hottest ns s with
  | none => setB THM_MAX_VALID false s
  | some (n, t) =>
    let was := if getB THM_MAX_VALID s then toSigned 16 (getF THM_MAX_TEMP s) else -32768
    let warn := decide ((16 * getF THM_CFG_WARN s : Nat) ≤ t)
    let warned := s.pwr.warned
    let s := s |> setB THM_MAX_VALID true |> setF THM_MAX_SENSOR n |> setF THM_MAX_TEMP (ofSigned 16 t)
      |> ifS (decide (was < 1840) && decide (1840 ≤ t)) (raise 4 7) |> ifS (warn && !warned) (raise 4 8)
    let s := { s with pwr := { s.pwr with warned := warn } }
    if runs 4 s then evalThrottle t s else s

/-! ## Trim zones (R455–R458) -/

/-- The temperature of a zone: that of its die (R455). -/
def zoneTemp (z : Nat) (s : State) : Option Int :=
  dieMax (if z < 16 then 5 + z / 8 else if z < 21 then 4 else if z = 21 then 7
    else if z < 26 then z - 22 else if z = 26 then 4 else if z < 29 then z - 22 else 7) s

/-- What a run of a zone has to go through: its lanes (R456), or the sensors of its die (R455). -/
def zoneParts (z : Nat) : List Nat :=
  if z < 16 then (List.range 64).map (fun i => 64 * z + i) else if 22 ≤ z then dieSensors (z - 22) else []

/-- A run of a zone is requested; one that is pending or running takes no second request (R455). -/
def requestRun (z : Nat) (s : State) : State :=
  if 29 < z ∨ !isOn 8 s ∨ getB (TRM_STAT_PENDING z) s ∨ getB (TRM_STAT_RUNNING z) s then s else
  s.setZone z { s.zone z with lanes := zoneParts z } |> setB (TRM_STAT_PENDING z) true

/-- The zones whose temperature has moved by more than DELTA request a run (R455). -/
def zoneDrift (s : State) : State :=
  if !isOn 8 s then s else
  each (List.range 30) (fun z t => match zoneTemp z t with
    | none => t
    | some v =>
      let l := toSigned 16 (getF (TRM_STAT_LAST_T z) t)
      let d : Int := (16 * getF TRM_CFG_DELTA t : Nat)
      if d < v - l ∨ d < l - v then requestRun z t else t) s

/-- A zone may run: in SERVICE, and a tile-lane zone in BOOTING on the way to FULL (R455, R501), but not in the activation pause
(R508). -/
def trimMayRun (z : Nat) (s : State) : Bool :=
  isOn 8 s && !s.fwu.pause && (decide (pwrState s = 0) || (decide (z < 16) && decide (pwrState s = 6) && decide (stage s = 1)))

/-- The zones, parts of which the page calibrates as it starts (R455). -/
def pageZones (page : Nat) : List Nat :=
  if 0x100 ≤ page ∧ page ≤ 0x13F then [(page - 0x100) / 4]
  else if 0x20 ≤ page ∧ page ≤ 0x24 then [16 + (page - 0x20)]
  else if page = 0x180 then [21]
  else if page = 4 then (List.range 8).map (fun d => 22 + d)
  else []

/-- The page starts: its part of its zones is not calibrated yet (R455). -/
def uncalibrate (page : Nat) (s : State) : State :=
  each (pageZones page) (fun z t => t.setZone z { t.zone z with full := (t.zone z).full.filter (fun q => decide (q ≠ page)) }) s

/-- The page has started: its part of its zones is calibrated in full (R455). DESIGN CHOICE (log 19): the full calibration is no run,
and changes neither LAST_T nor RUNS. -/
def calibrate (page : Nat) (s : State) : State :=
  each (pageZones page) (fun z t => t.setZone z { t.zone z with full := page :: (t.zone z).full.filter (fun q => decide (q ≠ page)) }) s

/-- RESET of page 0x008 forgets the runs; the calibration of the DACs stays (R37, R455). -/
def resetZones (s : State) : State :=
  each (s.pwr.zones.map (fun e => e.1)) (fun z t => t.setZone z { full := (s.zone z).full }) s

/-- A zone's run begins: its temperature is kept for LAST_T. -/
def beginRun (z : Nat) (s : State) : State :=
  if getB (TRM_STAT_RUNNING z) s then s else
  s.setZone z { s.zone z with start := (zoneTemp z s).getD 0 } |> setB (TRM_STAT_PENDING z) false |> setB (TRM_STAT_RUNNING z) true

/-! ## The conversion -/

/-- The supplies of the sensor arrays are up; they stay so in SHUTDOWN (R448, R453). -/
def sensorsRun (s : State) : Bool := mainOn s

/-- The sensors whose conversion serves their trim: in each zone of sensors that runs, the next one in turn (R455). -/
def inTrim (s : State) : List Nat :=
  (List.range 8).filterMap (fun d => if getB (TRM_STAT_RUNNING (22 + d)) s then (s.zone (22 + d)).lanes.head? else none)

/-- Those conversions are done. -/
def sensorsServed (ns : List Nat) (s : State) : State :=
  each ns (fun n t =>
    let z := 22 + sensorDie n
    t.setZone z { t.zone z with lanes := (t.zone z).lanes.filter (fun k => decide (k ≠ n)) }) s

/-- TRIM waits to be rewritten, an image runs, and the last rewriting is 60 s past (R504). -/
def trimDue (s : State) : Bool :=
  s.fwu.trimDue && (decide (stage s = 1) || decide (stage s = 2)) &&
  (match s.fwu.trimAt with | none => true | some t => reached (t + 60000000000) s)

/-- TRIM is rewritten after a run, at most once per 60 s; what it holds is a free value (R455, R504; log 34). -/
def writeTrim (s : State) : State :=
  let b := Config.trimValues s.free
  let half := runHalf s
  if !trimDue s then s else
    let s := { s with free := s.free + 1, fwu := { s.fwu with trimDue := false, trimAt := some (now s) } }
    if itemFull half 0x30 b.length s then countF FWU_TFULL s else writeItem half (halfFmt half s) 0x30 b s

/-- THERMAL_CONVERSION (R448–R451, R454, R455): one reading per sensor; a sensor whose conversion serves its trim takes no
part. -/
def execThermalConversion (readings : List Int) (s : State) : Host.Outcome State Fault Refusal :=
  .next (if !sensorsRun s then s else
    let off := inTrim s
    let rs := ((List.range (min 72 readings.length)).filter (fun n => !off.contains n)).map
      (fun n => (n, clampI (readings.getD n 0) (-32768) 32767))
    let was := rs.map (fun e => (e.1, sensorExcluded e.1 s))
    let s := each rs (fun e => takeReading e.1 e.2) s
    let s := each rs (fun e => judgeStuck e.1) s
    let s := each was (fun e => judgeValid e.1 e.2) s
    let s := evalMax (rs.map (fun e => e.1)) s
    let cold := getB THM_MAX_VALID s && decide (toSigned 16 (getF THM_MAX_TEMP s) < 1520)
    let s := { s with pwr := { s.pwr with sinceTrip := s.pwr.sinceTrip + 1, cool := if cold then s.pwr.cool + 1 else 0 } }
    s |> sensorsServed off |> zoneDrift |> writeTrim)

/-- THROTTLE_GRACE_EXPIRE (R451): GRACE has run, ten conversions a millisecond. -/
def execThrottleGraceExpire (s : State) : Host.Outcome State Fault Refusal :=
  .next (if getB THM_STAT_THROTTLING s && decide (getF THM_CFG_MODE s = 1) && !getB THM_STAT_ENFORCED s &&
      decide (10 * getF THM_THROT_GRACE s ≤ s.pwr.thrAge)
    then s |> setTherm (getF THM_THROT_CAP s) |> throttleEnforce else s)

/-- THROTTLE_STEP (R451): a further 100 ms at or above ON. -/
def execThrottleStep (s : State) : Host.Outcome State Fault Refusal :=
  .next (if !(getB THM_STAT_THROTTLING s && getB THM_STAT_ENFORCED s && decide (1000 ≤ s.pwr.thrHigh)) then s else
    let s := { s with pwr := { s.pwr with thrHigh := 0 } }
    if getF THM_CFG_MODE s = 1 then setTherm (max 1 (getF THM_STAT_THERM s / 2)) s
    else setD (min (getF THM_STAT_D s + getF THM_PAUSE_DUTY s) (getF THM_PAUSE_DUTY_MAX s)) s)

/-- A write of THM_CFG (R451, R461): discarded where OFF is not below ON; a MODE without meaning keeps the old one (R523). -/
def writeThmCfg (v : Nat) (s : State) : State :=
  let on := bitsOf v 29 22
  let off := bitsOf v 21 14
  if on ≤ off then s else
  let mode := if bitsOf v 31 30 = 3 then getF THM_CFG_MODE s else bitsOf v 31 30
  s |> throttleRelease |> setF THM_CFG_MODE mode |> setF THM_CFG_ON on |> setF THM_CFG_OFF off |> setF THM_CFG_WARN (bitsOf v 13 6)

/-- THM_CFG_WRITE (R451). -/
def execThmCfgWrite (who : Who) (v : Word) (s : State) : Host.Outcome State Fault Refusal :=
  .next (guardWrite who 4 THM_CFG_MODE.addr (mayWrite who 4 s) (writeThmCfg v.toNat) s)

/-! ## Trim runs -/

/-- TRM_REQ (R455, R462). -/
def execTrmReq (who : Who) (v : Word) (s : State) : Host.Outcome State Fault Refusal :=
  .next (guardWrite who 8 TRM_REQ_ZONE.addr (mayWrite who 8 s) (requestRun (bitsOf v.toNat 4 0)) s)

/-- The lanes that recalibrate together with a lane: the pair of a bonded tile (R456). -/
def trimPair (lane : Nat) (s : State) : List Nat :=
  let b := tileLane lane s
  if tileValid b s && (tileRec b s).bonded then [b, b + 1] else [lane]

/-- Lanes of a zone recalibrate: their drivers are silent for 40 µs, from `wait` ns on (R456). -/
def laneRuns (z : Nat) (ks : List Nat) (wait : Nat) (s : State) : State :=
  let s := beginRun z s
  let t := (now s + wait) % 2 ^ 64
  let s := each ks (fun k => emit (.silent k t ((t + 40000) % 2 ^ 64))) s
  s.setZone z { s.zone z with
    lanes := (s.zone z).lanes.filter (fun k => !ks.contains k), forced := (s.zone z).forced.filter (fun e => !ks.contains e.1) }

/-- The index of the frame before which a group's present blanking lies: the frame latched, or the one after the frame that runs. -/
def blankedFrame (g : Nat) (s : State) : Nat :=
  let x := s.grp g
  if x.phase = .latched then x.idx else if x.hasNext then x.nextIdx else x.idx + 1

/-- A window is too short, FORCE = 0: DEFER counts once in a blanking (R457). -/
def deferLane (z g : Nat) (s : State) : State :=
  let key := (g, blankedFrame g s)
  if (s.zone z).deferred.contains key then s else
  s.setZone z { s.zone z with deferred := key :: (s.zone z).deferred.filter (fun e => decide (e.1 ≠ g)) }
    |> countF (TRM_DEFER z) |> raise 8 3

/-- A window is too short, FORCE = 1: the frame that starts at the next FS is aborted, and the lane waits for it (R457). -/
def forceLane (z g lane : Nat) (s : State) : State :=
  let x := s.grp g
  let s := s.setZone z { s.zone z with forced := (lane, blankedFrame g s) :: (s.zone z).forced.filter (fun e => decide (e.1 ≠ lane)) }
  if x.phase = .latched then
    if x.aborted then setF (RAS_ABORT_INFO_LANE g) (min lane (getF (RAS_ABORT_INFO_LANE g) s)) s
    else s |> abortFrame g 1 lane 0 |> raise 8 4
  else match x.forced with
    | some k => s.setGrp g { x with forced := some (min k lane) }
    | none => s.setGrp g { x with forced := some lane } |> raise 8 4

/-- Nothing but IDLE is due on a lane: no MODE waits for its answer, and no test pattern or line packet leaves (R456). -/
def onlyIdle (lane : Nat) (s : State) : Bool :=
  let x := s.lane lane
  x.ratePending.isNone && (match x.fill with | .pattern _ => false | _ => true) &&
  !inPacket lane (now s) s

/-- The length of the window that opens now on a lane (R456): from the end of COMMIT and SIG to FS − 2 µs, or to the FL whose
blanking carries a MODE on the lane, where the tile takes part in a frame; none while its frame runs. The lane of a tile that
takes part in no frame sends nothing but IDLE for the `told` ns, which end at its group's next FL at the latest; none while
something else is due on it. -/
def recalWidth (lane told : Nat) (s : State) : Option Nat :=
  let b := tileLane lane s
  let x := s.grp (tileRec b s).group
  let until_ (t : Int) : Option Nat := some (toSigned 64 (ofSigned 64 (t - (now s : Nat)))).toNat
  let upToFl := if x.hasNext then (until_ ((x.nextFs : Int) - (x.nextSet.getD x.timing).lead)).map (fun n => min told n) else some told
  if !takesPart b s then (if onlyIdle lane s then (if tileValid b s then upToFl else some told) else none)
  else if x.phase = .latched then (if x.first || x.nextSet.isSome then some 0 else until_ ((x.fs : Int) - 2000))
  else if !(tileLanes b s).all (fun k => decide ((s.lane k).echoDone = some true)) then none
  else if !x.hasNext then some told
  else until_ ((x.nextFs : Int) - (if x.pendingSet.isSome then (x.nextSet.getD x.timing).lead else 2000))

/-- A lane waits for the frame `k` that its forced recalibration aborts: that frame is latched, or still to come. -/
def awaitsFrame (g k : Nat) (s : State) : Bool :=
  let x := s.grp g
  (decide (x.phase ≠ .none) && decide (x.idx = k)) || (x.hasNext && decide (x.nextIdx = k))

/-- FS + 10 µs of the aborted frame has come (R457). -/
def abortedFrameOpen (g k : Nat) (s : State) : Bool :=
  let x := s.grp g
  decide (x.idx = k) && decide (x.curIdx = k) && reached (x.fs + 10000) s

/-- LANE_RECAL_WINDOW (R456, R457): a window opens on a lane whose zone has a run to make. A lane deferred to an aborted frame runs
from FS + 10 µs of that frame. -/
def execLaneRecalWindow (lane : Fin 1024) (width : Nat) (s : State) : Host.Outcome State Fault Refusal :=
  let z := lane.val / 64
  let b := tileLane lane.val s
  let g := (tileRec b s).group
  let waits := ((s.zone z).forced.find? (fun e => decide (e.1 = lane.val))).filter (fun e => awaitsFrame g e.2 s)
  .next (if !trimMayRun z s || !(s.zone z).lanes.contains lane.val || !(getB (TRM_STAT_PENDING z) s || getB (TRM_STAT_RUNNING z) s) then s
    else match waits with
    | some e => ifS (abortedFrameOpen g e.2 s) (laneRuns z (trimPair lane.val s) 0) s
    | none => match recalWidth lane.val width s with
      | none => s
      | some width =>
        if 60000 ≤ width then laneRuns z (trimPair lane.val s) 10000 s
        else if getB TRM_CFG_FORCE s && hasTile lane.val s && decide ((s.grp g).phase ≠ .none) then forceLane z g lane.val s
        else deferLane z g s)

/-- The partner of an N port in an ST 2022-7 pair holds the zone of its port back (R458). -/
def partnerHolds (p : Nat) (s : State) : Bool :=
  let q := if p % 2 = 0 then p + 1 else p - 1
  decide (p < 4) && getB (NET_CFG_PAIR (p - p % 2)) s && (getB (TRM_STAT_RUNNING (16 + q)) s ||
    (match (s.zone (16 + q)).ended with | some t => !reached (t + 1000000) s | none => false))

/-- The zone of N port `p` or M0 is to run: egress starts no frame on the port from then on (R458). -/
def portClaimed (p : Nat) (s : State) : Bool :=
  getB (TRM_STAT_RUNNING (16 + p)) s || (getB (TRM_STAT_PENDING (16 + p)) s && trimMayRun (16 + p) s && !partnerHolds p s)

/-- PORT_RECAL (R455, R458): a pending zone of a port, the rim or a die's sensors begins its run; that of a port once the frame
that it is sending has ended, that of the rim between two common lines. -/
def execPortRecal (zone : Fin 30) (s : State) : Host.Outcome State Fault Refusal :=
  let z := zone.val
  .next (if z < 16 ∨ !trimMayRun z s ∨ !getB (TRM_STAT_PENDING z) s then s
    else if (z < 21 ∧ (partnerHolds (z - 16) s = true ∨ (s.eport (z - 16)).sending.isSome)) ∨ (z = 21 ∧ s.rim.line.isSome) then s
    else beginRun z s)

/-- RECAL_DONE (R455): the run of a zone ends; `limit` says that a DAC ended at a limit of its range. -/
def execRecalDone (zone : Fin 30) (limit : Bool) (s : State) : Host.Outcome State Fault Refusal :=
  let z := zone.val
  .next (if !getB (TRM_STAT_RUNNING z) s || !(s.zone z).lanes.isEmpty then s else
    let x := s.zone z
    let s := { s with fwu := { s.fwu with trimDue := true } }
    s.setZone z { x with ran := true, deferred := [], ended := some (now s) }
      |> setB (TRM_STAT_RUNNING z) false |> setF (TRM_STAT_LAST_T z) (ofSigned 16 x.start) |> setB (TRM_STAT_LIMIT z) limit
      |> addF (TRM_RUNS z) 1 |> raise 8 2 |> ifS limit (raise 8 5) |> writeTrim |> ifS (decide (z = 21)) rimServe)

end Sys2Proof.Machine
end

