-- ==== Sys2Proof/Machine/Egress.lean ====
section
/-!
DEFINITION. The egress scheduler (spec/11): subscribers, frames and their checks, the choice of the next frame, token
buckets, gate lists, priority flow control and sampling.
-/

namespace Sys2Proof.Machine

/-! ## Subscribers (R311–R313) -/

/-- EGR_USED shows the open subscribers (R329). -/
def showEgr (s : State) : State := setF EGR_USED_USED (s.egr.subs.filter (fun e => e.2.open_)).length s

/-- Subscriber of a queue 0–255 (R311). -/
def subOf (q : Nat) : Nat := q / 4

/-- A subscriber takes frames and window writes: it is open and no close is under way. -/
def subOpen (i : Nat) (s : State) : Bool := (s.sub i).open_ && (s.sub i).close.isNone

/-- One EGR_SUB_OPEN, against the table as the one before left it (R312). -/
def subOpenOne (c : Cmd) (s : State) : State :=
  let port := c.argF 0 2 0
  if 4 < port then answer 0x2A c BAD_ARGUMENT s else
  match firstBelow 64 (fun i => decide ((s.sub i).open_ = false)) with
  | none => s |> countF EGR_TFULL |> raise 0x158 2 |> answer 0x2A c TABLE_FULL
  | some i =>
    let s := each [0, 1, 2, 3] (fun v => State.setQueue (4 * i + v) {}) s
    s.setSub i { open_ := true, owner := c.idx, port := port } |> showEgr |> finish 0x2A c DONE 0 i 0

/-- EGR_SUB_OPEN (R312). -/
def execEgrSubOpen (cs : List Cmd) (s : State) : Host.Outcome State Fault Refusal :=
  .next (runTies 0x2A cs (fun cs => serveTable EGR_TIE_PTR 8 cs subOpenOne) s)

/-- A frame of a host is given up: its EGR_SEND completes with ABORTED. -/
def abortSend (f : EgrFrame) (s : State) : State :=
  match f.cmd with
  | some r => complete true r ABORTED 0 0 0 s
  | none => s

/-- The frame in transmission on the subscriber's port is one of its own. -/
def subSending (i : Nat) (s : State) : Bool :=
  match (s.eport (s.sub i).port).sending with
  | some x => decide (x.queue < 256) && decide (subOf x.queue = i)
  | none => false

/-- A subscriber is free (R312). -/
def freeSub (i : Nat) (s : State) : State :=
  let ref := (s.sub i).close
  let s := each [0, 1, 2, 3] (fun v => State.setQueue (4 * i + v) {}) s
  let s := s.setSub i {} |> showEgr
  match ref with
  | some r => complete true r DONE 0 0 0 s
  | none => s

/-- A subscriber closes: its queued frames are discarded, and it is free once the frame in transmission has left (R312). -/
def closeSub (i : Nat) (ref : Option CmdRef) (s : State) : State :=
  let s := each [0, 1, 2, 3] (fun v t =>
    let q := t.queue (4 * i + v)
    each q.frames abortSend (t.setQueue (4 * i + v) { q with frames := [] })) s
  let busy := subSending i s
  let s := s.setSub i { s.sub i with close := ref }
  if busy then s else freeSub i s

/-- EGR_SUB_CLOSE (R312). A subscriber that is not open, or closes already, has nothing to close. -/
def execEgrSubClose (c : Cmd) (s : State) : Host.Outcome State Fault Refusal :=
  .next (runCmd 0x2B c (fun s =>
    let i := c.argF 0 5 0
    if (s.sub i).open_ ∧ (s.sub i).owner ≠ c.idx then answer 0x2B c NOT_OWNER s
    else if !subOpen i s then answer 0x2B c BAD_ARGUMENT s
    else closeSub i (some (refOf 0x2B c)) s) s)

/-! ## Frames (R314, R315) -/

/-- FCS, header and payload: the frame length (R314); a system frame adds its FCS. -/
def EgrFrame.len (f : EgrFrame) : Nat :=
  max 64 (match f.cmd with | some _ => f.hdrLen + f.payLen + 4 | none => f.bytes.length + 4)

/-- A segment lies in the partition's HBM regions or host memory windows (R315); one of no bytes lies anywhere. -/
def segmentOk (p a n : Nat) (s : State) : Bool := decide (n = 0) || inRegion p a n s || inHostWindow p a n s

/-- The frame of a frame record (R314). A segment is taken from HBM where a granted region holds it, else from the host
memory of the partition's port (log 22). -/
def parseFrame (c : Cmd) (ws : List Word) (s : State) : EgrFrame :=
  let ha := fieldAt ws 2 31 24 * 2 ^ 32 + wordAt ws 1
  let pa := fieldAt ws 4 31 24 * 2 ^ 32 + wordAt ws 3
  { cmd := some (refOf 0x2C c), csum := decide (fieldAt ws 0 15 15 = 1), tsReq := decide (fieldAt ws 0 14 14 = 1)
    part := c.idx, hdrAddr := ha, hdrLen := fieldAt ws 2 8 0, payAddr := pa, payLen := fieldAt ws 4 13 0
    l3Off := fieldAt ws 5 31 24, bytes := [], headAt := 0
    hdrHost := !inRegion c.idx ha (fieldAt ws 2 8 0) s, payHost := !inRegion c.idx pa (fieldAt ws 4 13 0) s }

/-- The space a frame's segment lies in. -/
def frameSpace (p : Nat) (host : Bool) (s : State) : Space :=
  if host then .host (getF (HST_BIND_PORT p) s) else .hbm

/-- The header segment of a frame. -/
def frameHeader (f : EgrFrame) (s : State) : List Byte := memRead (frameSpace f.part f.hdrHost s) f.hdrAddr f.hdrLen s

/-- The bytes of a frame before padding and FCS, its segments read as they are now (R314). -/
def frameBytes (f : EgrFrame) (s : State) : List Byte :=
  if f.cmd.isNone then f.bytes else
  let b := frameHeader f s ++ memRead (frameSpace f.part f.payHost s) f.payAddr f.payLen s
  if f.csum then putChecksums b f.l3Off else b

/-- Bytes queued, by frame length (R326). -/
def queueBytes (q : Queue) : Nat := (q.frames.map EgrFrame.len).sum

/-- Frames queued in the device (R315). -/
def framesQueued (s : State) : Nat := (s.egr.queues.map (fun e => e.2.frames.length)).sum

/-- The reason for which a frame record is refused; 0 when it is accepted (R315). -/
def sendReason (c : Cmd) (ws : List Word) (s : State) : Nat :=
  let q := fieldAt ws 0 7 0
  let f := parseFrame c ws s
  let h := frameHeader f s
  if fieldAt ws 0 31 24 ≠ 1 then 1
  else if fieldAt ws 0 23 16 ≠ 0 ∨ fieldAt ws 0 13 8 ≠ 0 ∨ fieldAt ws 2 23 9 ≠ 0 ∨ fieldAt ws 4 23 14 ≠ 0 ∨
    fieldAt ws 5 23 0 ≠ 0 then 2
  else if !subOpen (subOf q) s then 3
  else if (s.sub (subOf q)).owner ≠ c.idx ∨ segmentOk c.idx f.hdrAddr f.hdrLen s = false ∨
    segmentOk c.idx f.payAddr f.payLen s = false then 4
  else if f.hdrLen < 14 ∨ 256 < f.hdrLen ∨ getF (NET_CFG_MAX_FRAME (s.sub (subOf q)).port) s < f.hdrLen + f.payLen + 4 then 5
  else if f.csum ∧ (ipUdp h f.l3Off = false ∨ h.length < f.l3Off + ipHeader h f.l3Off + 8) then 6
  else if (s.queue q).limit * 1024 < queueBytes (s.queue q) + f.len ∨ 65536 ≤ framesQueued s then 7 else 0

/-- A frame joins a queue; as the only one it is its head (R317, R326). -/
def enqueueFrame (q : Nat) (f : EgrFrame) (s : State) : State :=
  s.setQueue q { s.queue q with frames := (s.queue q).frames ++ [{ f with headAt := now s }] }

/-- A refusal for a full queue is counted; the first since the counter was cleared raises QUEUE_DROP (R315). -/
def countDrop (q : Nat) (s : State) : State :=
  let x := s.queue q
  s.setQueue q { x with drop := satInc (2 ^ 32 - 1) x.drop } |> ifS (decide (x.drop = 0)) (raise 0x158 4)

/-- EGR_SEND: the record is checked and the frame joins its queue; its completion comes with its last byte (R314, R315). -/
def execEgrSend (c : Cmd) (s : State) : Host.Outcome State Fault Refusal :=
  .next (runCmd 0x2C c (withLen 0x2C c 24 (fun ws s =>
    let r := sendReason c ws s
    let q := fieldAt ws 0 7 0
    if r = 0 then enqueueFrame q (parseFrame c ws s) s
    else
      s |> setF EGR_SEND_REJ_REASON r |> setF EGR_SEND_REJ_PARTITION c.idx |> raise 0x158 3
        |> ifS (decide (r = 7)) (countDrop q)
        |> refuse 0x2C c (if r = 4 then NOT_OWNER else if r = 7 then TABLE_FULL else BAD_ARGUMENT) r)) s)

/-! ## The gate schedule (R322–R324) -/

/-- GATES and INTERVAL of a gate list entry (R322). -/
def gatesOf (w : Word) : Nat := w.toNat / 2 ^ 24
def intervalOf (w : Word) : Nat := w.toNat % 2 ^ 24

/-- The segments of one cycle: gates and end, as offsets from the cycle's start. The list is cut off at the cycle's end,
and the last entry's gates hold to it (R322). -/
def cycleSegs (cycle : Nat) : Nat → List Word → List (Nat × Nat)
  | _, [] => []
  | t, [w] => if t < cycle then [(gatesOf w, cycle)] else []
  | t, w :: r =>
    if cycle ≤ t then [] else (gatesOf w, min cycle (t + intervalOf w)) :: cycleSegs cycle (t + intervalOf w) r

/-- The pending change time of a port (R324). -/
def changeTime (p : Nat) (s : State) : Nat := getF (EGR_P_CHG_LO p) s + getF (EGR_P_CHG_HI p) s * 2 ^ 32

/-- A change of gate list is pending (R324). -/
def gatePending (p : Nat) (s : State) : Bool := getB (EGR_P_GSTAT_PENDING p) s

/-- The end of a cycle that began at `t`: a cycle that would end less than the extension before the change time lasts up
to it (R324). -/
def cycleEnd (p t : Nat) (s : State) : Nat :=
  let x := s.eport p
  let e := (t + x.operCycle) % 2 ^ 64
  if gatePending p s && tnsLe e (changeTime p s) && !tnsLe (e + x.operExt) (changeTime p s) then changeTime p s else e

/-- The end of the entry in force on a port (R322, R324). -/
def entryEnd (p : Nat) (s : State) : Nat :=
  let x := s.eport p
  let segs := cycleSegs x.operCycle 0 x.oper
  if segs.length ≤ x.entry + 1 then cycleEnd p x.cycleStart s else x.cycleStart + (segs.getD x.entry (0, 0)).2

/-- The first segment of a list, from time `t`, in which class `c` is closed begins at this time; none if it stays open. -/
def firstClosed (c t : Nat) : List (Nat × Nat) → Option Nat
  | [] => none
  | (g, e) :: r => if bitOf g c then firstClosed c e r else some t

/-- The segments of a list as absolute times from `t`. -/
def segsAt (t : Nat) (segs : List (Nat × Nat)) : List (Nat × Nat) := segs.map (fun g => (g.1, t + g.2))

/-- When the gate of class `c` on port `p` next closes, following the schedule as it will run, a pending change included;
none where it never closes (R323). -/
def gateCloses (p c : Nat) (s : State) : Option Nat :=
  let x := s.eport p
  let segs := cycleSegs x.operCycle 0 x.oper
  let after := if getB (EGR_P_GCTRL_ADMIN_GATE_EN p) s then
    firstClosed c (changeTime p s) (segsAt (changeTime p s) (cycleSegs (getF (EGR_P_ACYCLE_NS p) s) 0 x.admin)) else none
  let old := if getB (EGR_P_GSTAT_OPER_GATE_EN p) s then
      (firstClosed c (entryEnd p s) (segsAt x.cycleStart (segs.drop (x.entry + 1)))).or
        (firstClosed c (cycleEnd p x.cycleStart s) (segsAt (cycleEnd p x.cycleStart s) segs))
    else none
  if !gatePending p s then old
  else match old with
    | some t => if tnsLe (changeTime p s) t then after else some t
    | none => after

/-- The longest window of class `c` in a cyclic list; none where the class is never closed (R323). -/
def longestWindow (cycle c : Nat) (l : List Word) : Option Nat :=
  let segs := cycleSegs cycle 0 l
  if segs.all (fun g => bitOf g.1 c) then none else
  let two := segs ++ segsAt cycle segs
  let r := two.foldl (fun (a : Nat × Nat × Nat) g =>
    let run := if bitOf g.1 c then a.1 + (g.2 - a.2.1) else 0
    (run, g.2, max a.2.2 run)) (0, 0, 0)
  some r.2.2

/-- The wire time of R323 in hundredths of a ns: the port runs at 100 Gb/s, M0 at 1 Gb/s. -/
def wireTime (p : Nat) (f : EgrFrame) (s : State) : Nat :=
  (f.len + 20) * (if p = 4 then 800 else 8) + 100 * getF (EGR_P_CFG_GUARD p) s

/-- The head frame fits the rest of its window (R323). -/
def fitsWindow (p c : Nat) (f : EgrFrame) (s : State) : Bool :=
  match gateCloses p c s with
  | none => true
  | some t => decide (((100 * (s.tim.s % 2 ^ 32) + wireTime p f s * 2 ^ 32 : Nat) : Int) ≤ 100 * diff64 t (now s) * 2 ^ 32)

/-- Class of a queue; a system queue has SYS_CLASS (R318, R322). -/
def queueClass (q : Nat) (s : State) : Nat := if 256 ≤ q then getF (EGR_P_CFG_SYS_CLASS (q - 256)) s else (s.queue q).cls

/-- The queues that send on a port: its system queue, then those of its open subscribers (R311). -/
def portQueues (p : Nat) (s : State) : List Nat :=
  (256 + p) :: (List.range 256).filter (fun q => (s.sub (subOf q)).open_ && decide ((s.sub (subOf q)).port = p))

/-- The head frame leaves its queue, and the next one is head (R317, R326). -/
def popFrame (q : Nat) (s : State) : State :=
  let x := s.queue q
  s.setQueue q { x with frames := (match x.frames.tail with | [] => [] | g :: r => { g with headAt := now s } :: r) }

/-- A head frame that can fit no coming window of its class is discarded (R323). -/
def dropTooBig (p q : Nat) (s : State) : State :=
  match (s.queue q).frames with
  | [] => s
  | f :: _ =>
    let x := s.eport p
    let c := queueClass q s
    let short := match longestWindow x.operCycle c x.oper with
      | none => false
      | some w => decide (100 * w < wireTime p f s)
    if getB (EGR_P_GSTAT_OPER_GATE_EN p) s && bitOf (getF (EGR_P_GSTAT_OPER_GATES p) s) c && short && !fitsWindow p c f s then
      s |> popFrame q |> abortSend f |> countF (EGR_P_TOOBIG p) |> raise 0x158 5
    else s

/-- The head frames of a port, of the classes in `mask`, are judged against their windows (R323). -/
def dropAllTooBig (p mask : Nat) (s : State) : State :=
  each (portQueues p s) (fun q t => ifS (bitOf mask (queueClass q t)) (dropTooBig p q) t) s

/-! ## Choosing the next frame (R316–R319) -/

/-- The counted length of a frame (R316). -/
def counted (p : Nat) (f : EgrFrame) (s : State) : Nat := f.len + getF (EGR_P_CFG_OVERHEAD p) s

/-- An enabled bucket holds at least 0 tokens (R317). -/
def bucketOk (b : Bucket) : Bool := !b.shape || decide (0 ≤ b.tokens)

/-- The head frame of a queue, if it is eligible (R317). -/
def mayLeave (p q : Nat) (s : State) : Option EgrFrame :=
  match (s.queue q).frames with
  | [] => none
  | f :: _ =>
    let c := queueClass q s
    if bitOf (getF (EGR_P_GSTAT_OPER_GATES p) s) c && !bitOf (getF (EGR_P_PAUSED_CLASSES p) s) c &&
      (decide (256 ≤ q) || (bucketOk (s.queue q).bucket && bucketOk (s.sub (subOf q)).bucket && (s.sub (subOf q)).close.isNone)) &&
      fitsWindow p c f s then some f else none

/-- The lowest service of a subscriber that is eligible in a class (R318). -/
def subEligible (p c i : Nat) (s : State) : Option (Nat × EgrFrame) :=
  if !((s.sub i).open_ && decide ((s.sub i).port = p)) then none else
  [0, 1, 2, 3].findSome? (fun v =>
    if queueClass (4 * i + v) s = c then (mayLeave p (4 * i + v) s).map (fun f => (4 * i + v, f)) else none)

/-- The round robin of R319: pointer, whether its subscriber has had its quantum, and the deficits; `fuel` bounds the
rounds, and every round adds a quantum of at least 64 bytes. -/
def roundRobin (p c : Nat) (s : State) : Nat → Nat → Bool → FMap Nat → Option (Nat × EgrFrame) × Nat × Bool × FMap Nat
  | 0, ptr, seen, d => (none, ptr, seen, d)
  | fuel + 1, ptr, seen, d =>
    match subEligible p c ptr s with
    | none => roundRobin p c s fuel ((ptr + 1) % 64) false (FMap.set 0 d (64 * c + ptr) 0)
    | some (q, f) =>
      let have_ := FMap.get 0 d (64 * c + ptr) + (if seen then 0 else (s.sub ptr).quantum)
      if counted p f s ≤ have_ then (some (q, f), ptr, true, FMap.set 0 d (64 * c + ptr) (have_ - counted p f s))
      else roundRobin p c s fuel ((ptr + 1) % 64) false (FMap.set 0 d (64 * c + ptr) have_)

/-- The round robin of class `c` as a port looks for a frame: a subscriber with nothing eligible has a deficit of 0, and the
pointer has moved on from it (R319). DEDUCED (log 22): eligibility is looked at as the port is free. -/
def settleClass (p : Nat) (s : State) (x : EgrPort) (c : Nat) : EgrPort :=
  let on := (List.range 64).filter (fun i => (subEligible p c i s).isSome)
  let ptr := FMap.get 0 x.rr c
  let d := FMap.keep (fun k => decide (k / 64 ≠ c) || on.contains (k % 64)) x.deficit
  if on.contains ptr then { x with deficit := d }
  else
    let next := if on.isEmpty then (if FMap.get false x.visited c then (ptr + 1) % 64 else ptr)
      else ((on.find? (fun i => decide (ptr < i))).or on.head?).getD 0
    { x with deficit := d, rr := FMap.set 0 x.rr c next, visited := FMap.set false x.visited c false }

/-- The port is free: in every class a subscriber that has nothing eligible loses its deficit, and a pointer that stands on one
moves on (R319). -/
def settlePort (p : Nat) (s : State) : State := s.setEport p ((List.range 8).foldl (settleClass p s) (s.eport p))

/-- The frame a free port starts (R318), and the port's round robin state after the choice. -/
def chooseFrame (p : Nat) (s : State) : Option (Nat × EgrFrame) × EgrPort :=
  let x := (settlePort p s).eport p
  let c := (List.range 8).reverse.find? (fun c => (portQueues p s).any (fun q => decide (queueClass q s = c) && (mayLeave p q s).isSome))
  match c with
  | none => (none, x)
  | some c =>
    match (if queueClass (256 + p) s = c then mayLeave p (256 + p) s else none) with
    | some f => (some (256 + p, f), x)
    | none =>
      let r := roundRobin p c s (64 * 200) (FMap.get 0 x.rr c) (FMap.get false x.visited c) x.deficit
      (r.1, { x with rr := FMap.set 0 x.rr c r.2.1, visited := FMap.set false x.visited c r.2.2.1, deficit := r.2.2.2 })

/-- The gain of `n` ticks, limited to BURST·8,000 (R320). -/
def tickBucket (n : Nat) (b : Bucket) : Bucket :=
  if b.shape then { b with tokens := min ((b.burst * 8000 : Nat) : Int) (b.tokens + ((n * b.rate : Nat) : Int)) } else b

/-- The ticks whose instants the selected time has reached and that are not applied yet (R320). -/
def ticksDue (s : State) : Nat :=
  if reached s.egr.nextTick s then (diff64 (now s) s.egr.nextTick).toNat / 1000 + 1 else 0

/-- Every tick that is due is applied (R320). -/
def applyTicks (s : State) : State :=
  let n := ticksDue s
  if n = 0 then s else
  let s := each (List.range 64) (fun i t => t.setSub i { t.sub i with bucket := tickBucket n (t.sub i).bucket }) s
  let s := each (List.range 256) (fun i t => t.setQueue i { t.queue i with bucket := tickBucket n (t.queue i).bucket }) s
  { s with egr := { s.egr with nextTick := (s.egr.nextTick + 1000 * n) % 2 ^ 64 } }

/-- A bucket pays for a frame, if its shaper is enabled (R320). -/
def charge (n : Nat) (b : Bucket) : Bucket := if b.shape then { b with tokens := b.tokens - (8000 * n : Nat) } else b

/-- A stamp of a 96-bit counter as the message timestamp point leaves the port: plus TIM_TXDLYp, as TNS (R340). -/
def txStamp (p count : Nat) (s : State) : Nat := (count + getF (TIM_TXDLY_DELAY p) s * 2 ^ 28) / 2 ^ 32 % 2 ^ 64

/-- The entry of a frame's transmit stamps: under the identifier of its PTP message, else its queue (R341). -/
def stampOf (p : Nat) (x : EgrTx) (s : State) : TxStamp :=
  let m := (if etherType x.bytes = 0x88F7 then ptpOf x.bytes else ptpAt x.bytes x.frame.l3Off).map (fun e => e.2)
  let st (count : Nat) : Nat := txStamp p count s
  let id := match m with
    | some m => (beAt m 30 2, ptpType m)
    | none => (x.queue, 0xF)
  { seqId := id.1, msgType := id.2, port := p, s := st s.tim.s, a := st s.tim.domA.count, b := st s.tim.domB.count }

/-- A chosen frame starts: it leaves its queue, its buckets are charged, and its stamp is taken and queued
(R318, R320, R340, R341). -/
def startFrame (p q : Nat) (f : EgrFrame) (s : State) : State :=
  let n := counted p f s
  let b := frameBytes f s
  let tx : EgrTx := { frame := f, queue := q, bytes := sealFrame b }
  let s := s.setEport p { s.eport p with sending := some tx } |> popFrame q
  let s := if 256 ≤ q then (match ptpOf b with | some (t, m) => ptpSent p t m s | none => s)
    else s.setQueue q { s.queue q with bucket := charge n (s.queue q).bucket }
      |> State.setSub (subOf q) { s.sub (subOf q) with bucket := charge n (s.sub (subOf q)).bucket }
  ifS f.tsReq (pushTxq p (stampOf p tx s)) s

/-- EGR_FRAME_TX_START: a free port starts the chosen frame, after the ticks of that instant (R318, R320). A PARKED block starts
none (R327). -/
def execEgrFrameTxStart (port : Fin 5) (s : State) : Host.Outcome State Fault Refusal :=
  let p := port.val
  .next (if !isOn 0x158 s || (s.eport p).sending.isSome || portClaimed p s then s else
    let s := applyTicks s
    let r := chooseFrame p s
    match r.1 with
    | none => s.setEport p r.2
    | some (q, f) => s.setEport p r.2 |> startFrame p q f)

/-- A frame has left port `p`: it is counted (R314, R328). -/
def frameLeft (p : Nat) (x : EgrTx) (s : State) : State :=
  s.setEport p { s.eport p with sending := none } |> settlePort p |> emit (.frame p x.bytes) |> addF (EGR_P_FRAMES p) 1
    |> State.setQueue x.queue { s.queue x.queue with sent := ((s.queue x.queue).sent + 1) % 2 ^ 32 }

/-- The EGR_SEND of a frame that has left completes (R314). -/
def sendDone (ref : Option CmdRef) (s : State) : State :=
  match ref with
  | some r => complete true r DONE 0 0 0 s
  | none => s

/-- EGR_FRAME_TX_END: the frame has left, and its EGR_SEND completes (R314). -/
def execEgrFrameTxEnd (port : Fin 5) (s : State) : Host.Outcome State Fault Refusal :=
  .next (match (s.eport port.val).sending with
    | none => s
    | some x =>
      let s := s |> frameLeft port.val x |> sendDone x.frame.cmd
      if x.queue < 256 ∧ (s.sub (subOf x.queue)).close.isSome = true then freeSub (subOf x.queue) s else s)

/-! ## Token buckets (R320, R321) -/

/-- TOKEN_TICK: at a multiple of 1,000 ns of the selected time every enabled bucket gains its RATE (R320). -/
def execTokenTick (s : State) : Host.Outcome State Fault Refusal := .next (applyTicks s)

/-- A bucket after a write to its RATE or BURST (R321); with its shaper disabled it stays at BURST·8,000 (R320). -/
def resetBucket (b : Bucket) : Bucket :=
  { b with tokens := if b.shape && b.treset then 0 else ((b.burst * 8000 : Nat) : Int) }

/-- A bucket with the word written to its RATE or BURST register (R321, R328); a BURST below 64 leaves the field (R523). -/
def writeBucket (burst : Bool) (v : Nat) (b : Bucket) : Bucket :=
  if burst then resetBucket { b with treset := bitOf v 31, burst := if v % 2 ^ 24 < 64 then b.burst else v % 2 ^ 24 }
  else resetBucket { b with rate := min 100000000 (v % 2 ^ 27) }

/-- A shaper is switched; a disabled one holds BURST·8,000 (R320). -/
def switchShaper (on : Bool) (b : Bucket) : Bucket :=
  { b with shape := on, tokens := if on then b.tokens else ((b.burst * 8000 : Nat) : Int) }

/-- The subscriber that a window write touches: the one selected, or the selected queue's; system queues have none. -/
def windowSub (queue : Bool) (s : State) : Option Nat :=
  if !queue then some (getF EGR_SSEL_SEL s)
  else if getF EGR_QSEL_SEL s < 256 then some (subOf (getF EGR_QSEL_SEL s)) else none

/-- The writer owns the selected subscriber, or is firmware (R313, R524). -/
def ownsWindow (who : Who) (queue : Bool) (s : State) : Bool :=
  match windowSub queue s with
  | none => isFw who
  | some i => isFw who || (subOpen i s && isPart who (s.sub i).owner)

/-- A window write: from anyone but the owner it is discarded and counted (R313, R471). -/
def windowWrite (who : Who) (queue : Bool) (addr : Nat) (f : State → State) (s : State) : State :=
  guardWrite who 0x158 addr true (fun s => if ownsWindow who queue s then f s else s |> countF EGR_WREJ |> rejectWrite who) s

/-- A write to the RATE or BURST register of the selected bucket, after the ticks of that instant (R321). -/
def writeRateBurst (queue burst : Bool) (v : Nat) (s : State) : State :=
  let s := applyTicks s
  if queue then
    let q := getF EGR_QSEL_SEL s
    if 256 ≤ q then s else s.setQueue q { s.queue q with bucket := writeBucket burst v (s.queue q).bucket }
  else
    let i := getF EGR_SSEL_SEL s
    s.setSub i { s.sub i with bucket := writeBucket burst v (s.sub i).bucket }

/-- EGR_BUCKET_WRITE (R321). -/
def execEgrBucketWrite (who : Who) (queue burst : Bool) (v : Word) (s : State) : Host.Outcome State Fault Refusal :=
  .next (windowWrite who queue (if queue then (if burst then 0x15814C else 0x158148) else (if burst then 0x15810C else 0x158108))
    (writeRateBurst queue burst v.toNat) s)

/-- EGR_S_CFG is written (R328). -/
def writeSubCfg (v : Nat) (s : State) : State :=
  let i := getF EGR_SSEL_SEL s
  s.setSub i { s.sub i with quantum := max 64 (v % 65536), bucket := switchShaper (bitOf v 16) (s.sub i).bucket }

/-- EGR_Q_CFG is written; a system queue keeps its class (R328). -/
def writeQueueCfg (v : Nat) (s : State) : State :=
  let q := getF EGR_QSEL_SEL s
  if 256 ≤ q then s else
  s.setQueue q { s.queue q with cls := bitsOf v 18 16, bucket := switchShaper (bitOf v 8) (s.queue q).bucket }

/-- EGR_Q_LIMIT is written (R328). -/
def writeQueueLimit (v : Nat) (s : State) : State :=
  let q := getF EGR_QSEL_SEL s
  s.setQueue q { s.queue q with limit := max 1 (v % 65536) }

/-- EGR_Q_DROP is written: 0 clears it (R328). -/
def writeQueueDrop (v : Nat) (s : State) : State :=
  let q := getF EGR_QSEL_SEL s
  if v = 0 then s.setQueue q { s.queue q with drop := 0 } else s

/-- EGR_Q_CTRL.CLEAR (R326). -/
def clearQueue (s : State) : State :=
  let q := getF EGR_QSEL_SEL s
  s.setQueue q { s.queue q with depthMin := 0xFFFFFFFF, depthMax := 0, delayMin := 0xFFFFFFFF, delayMax := 0 }

/-- EGR_Q_CLEAR (R326). -/
def execEgrQClear (who : Who) (s : State) : Host.Outcome State Fault Refusal :=
  .next (windowWrite who true 0x158178 clearQueue s)

/-- EGR_SSEL or EGR_QSEL is written (R328): a value that selects nothing changes nothing (log 22). -/
def writeEgrSel (queue : Bool) (v : Nat) (s : State) : State :=
  if queue then (if v % 512 ≤ 0x104 then setF EGR_QSEL_SEL (v % 512) s else s) else setF EGR_SSEL_SEL (v % 64) s

/-- EGR_SSEL_WRITE (R328): any partition selects (log 22). -/
def execEgrSselWrite (who : Who) (queue : Bool) (v : Word) (s : State) : Host.Outcome State Fault Refusal :=
  .next (guardWrite who 0x158 (if queue then 0x158140 else 0x158100) true (writeEgrSel queue v.toNat) s)

/-- Tokens in bytes, rounded towards −∞ (R320). -/
def tokenBytes (b : Bucket) : Nat := ofSigned 32 (b.tokens / 8000)

/-- The words of the window registers, which show the selected subscriber and queue (R328); none at another address. -/
def readEgr (addr : Nat) (s : State) : Option Nat :=
  let x := s.sub (getF EGR_SSEL_SEL s)
  let n := getF EGR_QSEL_SEL s
  let q := s.queue n
  match addr with
  | 0x158104 => some (bit x.open_ * 2 ^ 30 + x.owner % 8 * 2 ^ 27 + x.port * 2 ^ 24 + bit x.bucket.shape * 2 ^ 16 + x.quantum)
  | 0x158108 => some x.bucket.rate
  | 0x15810C => some (bit x.bucket.treset * 2 ^ 31 + x.bucket.burst)
  | 0x158110 => some (if x.open_ then tokenBytes x.bucket else 0)
  | 0x158144 => some (queueClass n s * 2 ^ 16 + bit q.bucket.shape * 2 ^ 8)
  | 0x158148 => some q.bucket.rate
  | 0x15814C => some (bit q.bucket.treset * 2 ^ 31 + q.bucket.burst)
  | 0x158150 => some q.limit
  | 0x158154 => some (if n < 256 ∧ (s.sub (subOf n)).open_ = true then tokenBytes q.bucket else 0)
  | 0x158158 => some q.depthLast
  | 0x15815C => some q.depthMin
  | 0x158160 => some q.depthMax
  | 0x158164 => some q.delayLast
  | 0x158168 => some q.delayMin
  | 0x15816C => some q.delayMax
  | 0x158170 => some q.sent
  | 0x158174 => some q.drop
  | 0x1581C4 =>
    let l := s.eport (getF EGR_GSEL_PORT s)
    some (wordAt (if getB EGR_GSEL_OPER s then l.oper else l.admin) (getF EGR_GSEL_ENTRY s))
  | _ => none

/-! ## Gate lists (R322, R324) -/

/-- GCL_LOAD (R324). -/
def execGclLoad (c : Cmd) (s : State) : Host.Outcome State Fault Refusal :=
  .next (runCmd 0x2D c (fun s =>
    let p := c.argF 0 2 0
    if !isOwner c.who 0x158 s then answer 0x2D c NOT_OWNER s
    else if 4 < p ∨ c.src.len % 4 ≠ 0 then answer 0x2D c BAD_ARGUMENT s
    else if 4096 < c.src.len then s |> countF EGR_TFULL |> raise 0x158 2 |> answer 0x2D c TABLE_FULL
    else withSrc 0x2D c (fun ws s =>
      if ws.isEmpty || ws.any (fun w => decide (intervalOf w < 64)) then answer 0x2D c BAD_ARGUMENT s
      else if gatePending p s then answer 0x2D c BUSY s
      else s.setEport p { s.eport p with admin := ws } |> setF (EGR_P_GSTAT_ADMIN_LEN p) ws.length |> answer 0x2D c DONE) s) s)

/-- The reason for which a CONFIG_CHANGE is refused; 0 when the admin set is valid (R324, R330). -/
def gateReason (p : Nat) (s : State) : Nat :=
  let x := s.eport p
  let cycle := getF (EGR_P_ACYCLE_NS p) s
  if gatePending p s then 5
  else if x.admin.length = 0 ∨ 1024 < x.admin.length then 1
  else if cycle < 1000 ∨ 1000000000 < cycle then 2
  else if x.admin.any (fun w => decide (intervalOf w < 64)) then 3
  else if cycle < getF (EGR_P_AEXT_NS p) s then 4 else 0

/-- CONFIG_CHANGE = 1 is written (R324). -/
def configChange (p : Nat) (s : State) : State :=
  let r := gateReason p s
  if r ≠ 0 then s |> setF (EGR_P_GREJ_REASON p) r |> raise 0x158 6
  else
    let b := getF (EGR_P_ABASE_LO p) s + getF (EGR_P_ABASE_HI p) s * 2 ^ 32
    let cycle := getF (EGR_P_ACYCLE_NS p) s
    let t := if tnsLe (soon s) b then b else (b + ceilDiv (diff64 (soon s) b).toNat cycle * cycle) % 2 ^ 64
    s |> setF (EGR_P_CHG_LO p) t |> setF (EGR_P_CHG_HI p) (t / 2 ^ 32) |> setB (EGR_P_GSTAT_PENDING p) true

/-- CONFIG_CHANGE (R324). Gate lists belong to the PG_OWNER of the page (R313). -/
def execConfigChange (who : Who) (port : Fin 5) (s : State) : Host.Outcome State Fault Refusal :=
  .next (guardWrite who 0x158 (EGR_P_GCTRL_CANCEL port.val).addr (isOwner who 0x158 s) (configChange port.val) s)

/-- The gates of the entry in force (R322). -/
def showGates (p : Nat) (s : State) : State :=
  let x := s.eport p
  let g := if getB (EGR_P_GSTAT_OPER_GATE_EN p) s then gatesOf (x.oper.getD x.entry 0) else 255
  let opened := Nat.land g (255 - getF (EGR_P_GSTAT_OPER_GATES p) s)
  s |> setF (EGR_P_GSTAT_OPER_GATES p) g |> dropAllTooBig p opened

/-- At the change time the admin copy becomes the oper copy and starts at its first entry (R324). -/
def changeGates (p : Nat) (s : State) : State :=
  let x := s.eport p
  let cycle := getF (EGR_P_ACYCLE_NS p) s
  let y := { x with oper := x.admin, operBase := changeTime p s, operCycle := cycle, operExt := getF (EGR_P_AEXT_NS p) s }
  s.setEport p { y with cycleStart := changeTime p s, entry := 0 }
    |> setB (EGR_P_GSTAT_OPER_GATE_EN p) (getB (EGR_P_GCTRL_ADMIN_GATE_EN p) s) |> setF (EGR_P_GSTAT_OPER_LEN p) x.admin.length
    |> setF (EGR_P_OCYCLE_NS p) cycle |> setB (EGR_P_GSTAT_PENDING p) false |> showGates p |> raise 0x158 (7 + p)

/-- A change is pending and its time has come. -/
def changeDue (p : Nat) (s : State) : Bool := gatePending p s && reached (changeTime p s) s

/-- CANCEL = 1 is written: a change whose time has come is made first (R324). -/
def cancelChange (p : Nat) (s : State) : State := s |> ifS (changeDue p s) (changeGates p) |> setB (EGR_P_GSTAT_PENDING p) false

/-- GCL_CANCEL (R324). -/
def execGclCancel (who : Who) (port : Fin 5) (s : State) : Host.Outcome State Fault Refusal :=
  .next (guardWrite who 0x158 (EGR_P_GCTRL_CANCEL port.val).addr (isOwner who 0x158 s) (cancelChange port.val) s)

/-- GCL_CHANGE_TIME (R324). -/
def execGclChangeTime (port : Fin 5) (s : State) : Host.Outcome State Fault Refusal :=
  .next (ifS (changeDue port.val s) (changeGates port.val) s)

/-- GATE_ENTRY_END: an interval ends and the next entry's gates take effect (R322). -/
def execGateEntryEnd (port : Fin 5) (s : State) : Host.Outcome State Fault Refusal :=
  let p := port.val
  let x := s.eport p
  .next (if x.oper.isEmpty || !reached (entryEnd p s) s || (gatePending p s && tnsLe (changeTime p s) (entryEnd p s)) then s else
    if (cycleSegs x.operCycle 0 x.oper).length ≤ x.entry + 1 then
      s.setEport p { x with cycleStart := (x.cycleStart + x.operCycle) % 2 ^ 64, entry := 0 } |> showGates p
    else s.setEport p { x with entry := x.entry + 1 } |> showGates p)

/-! ## Priority flow control (R325) -/

/-- Class `c` of a port is paused for `t` quanta, or released by 0 (R325). -/
def pauseClass (p c t : Nat) (s : State) : State :=
  if t = 0 then
    s.setEport p { s.eport p with pauseUntil := FMap.set 0 (s.eport p).pauseUntil c 0 } |> clearF (EGR_P_PAUSED_CLASSES p) (2 ^ c)
  else
    let ns := if p = 4 then 512 * t else ceilDiv (512 * t) 100
    s.setEport p { s.eport p with pauseUntil := FMap.set 0 (s.eport p).pauseUntil c ((now s + ns) % 2 ^ 64) }
      |> orF (EGR_P_PAUSED_CLASSES p) (2 ^ c)

/-- A PFC frame is received on a port: MAC control opcode 0x0101, class-enable vector, eight times (R325, log 21). -/
def pfcFrame (p : Nat) (f : List Byte) (s : State) : State :=
  let s := countF (EGR_P_PFC_RX p) s
  if !getB (EGR_P_CFG_PFC_EN p) s then s else
  each (List.range 8) (fun c t => ifS (bitOf (beAt f 16 2) c) (pauseClass p c (beAt f (18 + 2 * c) 2)) t) s

/-- PFC_PAUSE_EXPIRE: a class's pause timer has run out (R325). -/
def execPfcPauseExpire (port : Fin 5) (cls : Fin 8) (s : State) : Host.Outcome State Fault Refusal :=
  let p := port.val
  .next (if bitOf (getF (EGR_P_PAUSED_CLASSES p) s) cls.val && reached (FMap.get 0 (s.eport p).pauseUntil cls.val) s
    then pauseClass p cls.val 0 s else s)

/-! ## Sampling (R326) -/

/-- A queue is sampled (R326). -/
def sampleQueue (t : Nat) (q : Queue) : Queue :=
  let d := min 0xFFFFFFFF (queueBytes q)
  let w := match q.frames with
    | [] => 0
    | f :: _ => min 0xFFFFFFFF (diff64 t f.headAt).toNat
  { q with
    depthLast := d, depthMin := min q.depthMin d, depthMax := max q.depthMax d
    delayLast := w, delayMin := min q.delayMin w, delayMax := max q.delayMax w }

/-- EGR_SAMPLE_TICK: every queue and system queue is sampled at a multiple of the period (R326). -/
def execEgrSampleTick (s : State) : Host.Outcome State Fault Refusal :=
  .next (if !reached s.egr.nextSample s then s else
    let s := each (List.range 261) (fun i t => t.setQueue i (sampleQueue (now t) (t.queue i))) s
    { s with egr := { s.egr with nextSample := s.egr.nextSample + getF EGR_SAMPLE_PERIOD s * 1000 } })

/-- EGR_SAMPLE is written: the first multiple of the new period is the next instant (R326, R329). -/
def writeSample (v : Nat) (s : State) : State :=
  let p := clampN (v % 1024) 1 1000
  { s with egr := { s.egr with nextSample := (now s / (p * 1000) + 1) * (p * 1000) } } |> setF EGR_SAMPLE_PERIOD p

/-- RESET of the page: every subscriber closes without completions and the gate lists are empty (R327). A frame in
transmission still leaves. -/
def egrReset (s : State) : State :=
  let clear (x : EgrPort) : EgrPort :=
    { sending := x.sending.map (fun y => { y with frame := { y.frame with cmd := none } }) }
  { s with egr := { subs := [], queues := [], ports := (s.egr.ports.filter (fun e => e.2.sending.isSome)).map (fun e => (e.1, clear e.2))
                    nextTick := s.egr.nextTick, nextSample := (now s / 100000 + 1) * 100000 } }

end Sys2Proof.Machine
end

