-- ==== Sys2Proof/Machine/Slowpath.lean ====
section
/-!
DEFINITION. The firmware's slow path (R214): answers to ARP and neighbour discovery, the reports with which contexts join
multicast groups, and answers to IGMP and MLD queries. The specification names the protocols; their messages are those of
RFC 826, 4861, 2236, 3376, 2710 and 3810 (log 57). Every answer joins the system queue of its port (R311).
-/

namespace Sys2Proof.Machine

/-- An IP destination is a multicast group. -/
def isGroup (ipv6 : Bool) (a : List Byte) : Bool := if ipv6 then decide (beAt a 0 1 = 0xFF) else decide (beAt a 0 1 / 16 = 0xE)

/-- The MAC address of an IP multicast group (RFC 1112, RFC 2464). -/
def macOfGroup (ipv6 : Bool) (a : List Byte) : Nat :=
  if ipv6 then 0x333300000000 + beAt a 12 4 else 0x01005E000000 + beAt a 0 4 % 2 ^ 23

/-- The ports, groups and sources that an open context joins (R214, R217). -/
def joins (x : Ctx) : List (Nat × List Byte × Option (List Byte)) :=
  let path (port : Nat) (dst src : List Word) : List (Nat × List Byte × Option (List Byte)) :=
    if isGroup x.ipv6 (addrBytes x.ipv6 dst) then
      [(port, addrBytes x.ipv6 dst, if x.srcf then some (addrBytes x.ipv6 src) else none)] else []
  path x.port x.dstA x.srcA ++ (if x.pair then path (x.port + 1) x.dstB x.srcB else [])

/-- The IP groups that the firmware joins on every port whatever the contexts: that of PTP (log 37). -/
def standingGroups (ipv6 : Bool) : List (List Byte × Option (List Byte)) :=
  [(if ipv6 then natBe 16 0xFF020000000000000000000000000181 else natBe 4 0xE0000181, none)]

/-- The groups joined on a port, of one IP version, with their sources. -/
def joined (p : Nat) (ipv6 : Bool) (s : State) : List (List Byte × Option (List Byte)) :=
  standingGroups ipv6 ++ ((s.str.ctxs.filter (fun e => decide (e.2.state = 1) && decide (e.2.ipv6 = ipv6))).flatMap (fun e => joins e.2)).filterMap
    (fun j => if j.1 = p then some j.2 else none) |>.eraseDups

/-! ## Messages -/

/-- The checksum of a message put at offset `o` of it, over the message and what is given besides. -/
def sumAt (m : List Byte) (o : Nat) (besides : List Byte) : List Byte :=
  put16 m o (onesFold (onesSum m (onesSum besides 0)))

/-- An IGMP message in a frame: IPv4 with Router Alert, hop limit 1 (RFC 3376). -/
def igmpFrame (p mac : Nat) (dst m : List Byte) : List Byte :=
  let m := sumAt m 2 []
  let ip := natBe 2 0x46C0 ++ natBe 2 (24 + m.length) ++ natBe 4 0 ++ natBe 1 1 ++ natBe 1 2 ++ natBe 2 0 ++ portAddr p false ++ dst ++
    natBe 4 0x94040000
  etherHeader (macOfGroup false dst) mac 0x0800 ++ sumAt ip 10 [] ++ m

/-- An ICMPv6 message with its checksum over the pseudo-header (RFC 4443). -/
def icmp6 (src dst m : List Byte) : List Byte := sumAt m 2 (src ++ dst ++ natBe 4 m.length ++ natBe 4 58)

/-- An MLD message in a frame: IPv6 with Router Alert in hop-by-hop options, hop limit 1 (RFC 3810). -/
def mldFrame (p mac : Nat) (dst m : List Byte) : List Byte :=
  etherHeader (macOfGroup true dst) mac 0x86DD ++ ipBytes true 0 1 (8 + m.length) (portAddr p true) dst ++
    natBe 8 0x3A00050200000100 ++ icmp6 (portAddr p true) dst m

/-- A group record of an IGMPv3 or MLDv2 report. -/
def groupRecord (typ : Nat) (g : List Byte × Option (List Byte)) : List Byte :=
  natBe 1 typ ++ natBe 1 0 ++ natBe 2 (if g.2.isSome then 1 else 0) ++ g.1 ++ g.2.getD []

/-- An IGMPv3 or MLDv2 report of groups: a record's type is `incl` where a source is named, else `excl` (R214). -/
def reportFrame (p mac : Nat) (ipv6 : Bool) (incl excl : Nat) (gs : List (List Byte × Option (List Byte))) : List Byte :=
  let recs := gs.flatMap (fun g => groupRecord (if g.2.isSome then incl else excl) g)
  if ipv6 then mldFrame p mac (natBe 16 0xFF020000000000000000000000000016) (natBe 4 0x8F000000 ++ natBe 2 0 ++ natBe 2 gs.length ++ recs)
  else igmpFrame p mac (natBe 4 0xE0000016) (natBe 4 0x22000000 ++ natBe 2 0 ++ natBe 2 gs.length ++ recs)

/-- An IGMPv2 or MLDv1 report of one group. -/
def oldReport (p mac : Nat) (ipv6 : Bool) (g : List Byte) : List Byte :=
  if ipv6 then mldFrame p mac g (natBe 8 0x8300000000000000 ++ g) else igmpFrame p mac g (natBe 4 0x16000000 ++ g)

/-! ## Reports and answers (R214) -/

/-- A context that opens joins its groups: ALLOW_NEW_SOURCES with a source filter, else CHANGE_TO_EXCLUDE. -/
def joinReports (x : Ctx) (s : State) : State :=
  each (joins x) (fun j t => sendSystem j.1 (reportFrame j.1 (portMac j.1 t) x.ipv6 5 4 [j.2]) t) s

/-- A port whose link comes up joins the standing groups (log 37). -/
def standingReports (p : Nat) (s : State) : State :=
  each [false, true] (fun v t => sendSystem p (reportFrame p (portMac p t) v 5 4 (standingGroups v)) t) s

/-- The answer to a query for group `g`, all 0 for a general one: a report of the current state, in the query's version. -/
def answerQuery (p : Nat) (ipv6 new : Bool) (g : List Byte) (s : State) : State :=
  let gs := (joined p ipv6 s).filter (fun j => g.all (fun b => decide (b = 0)) || decide (j.1 = g))
  if gs.isEmpty then s
  else if new then sendSystem p (reportFrame p (portMac p s) ipv6 1 2 gs) s
  else each gs (fun j t => sendSystem p (oldReport p (portMac p t) ipv6 j.1) t) s

/-- A bytes' range of a frame. -/
def bytesAt (f : List Byte) (o n : Nat) : List Byte := (f.drop o).take n

/-- The answer to an ARP request for the port's address. -/
def arpReply (p : Nat) (f : List Byte) (s : State) : State :=
  let o := l3Start f
  if beAt f o 8 = 0x0001080006040001 ∧ bytesAt f (o + 24) 4 = portAddr p false then
    sendSystem p (etherHeader (beAt f (o + 8) 6) (portMac p s) 0x0806 ++ natBe 8 0x0001080006040002 ++ natBe 6 (portMac p s) ++
      portAddr p false ++ bytesAt f (o + 8) 10) s
  else s

/-- The answer to a neighbour solicitation for the port's address; an unspecified source is answered to all nodes. -/
def neighbourReply (p : Nat) (f : List Byte) (s : State) : State :=
  let o := l3Start f
  let src := bytesAt f (o + 8) 16
  let dad := decide (beAt f (o + 8) 16 = 0)
  let dst := if dad then natBe 16 0xFF020000000000000000000000000001 else src
  let m := natBe 4 0x88000000 ++ natBe 4 (if dad then 0x20000000 else 0x60000000) ++ portAddr p true ++ natBe 2 0x0201 ++ natBe 6 (portMac p s)
  if bytesAt f (o + 48) 16 = portAddr p true then
    sendSystem p (etherHeader (if dad then 0x333300000001 else beAt f 6 6) (portMac p s) 0x86DD ++
      ipBytes true 58 255 m.length (portAddr p true) dst ++ icmp6 (portAddr p true) dst m) s
  else s

/-- Where the ICMPv6 message of a frame begins, past hop-by-hop options. -/
def icmp6Start (f : List Byte) : Option Nat :=
  let o := l3Start f
  if etherType f ≠ 0x86DD then none
  else if beAt f (o + 6) 1 = 58 then some (o + 40)
  else if beAt f (o + 6) 1 = 0 ∧ beAt f (o + 40) 1 = 58 then some (o + 48 + 8 * beAt f (o + 41) 1) else none

/-- What the firmware answers to a frame of the slow path. -/
def firmwareAnswers (p : Nat) (f : List Byte) (s : State) : State :=
  let o := l3Start f
  if etherType f = 0x0806 then arpReply p f s
  else if etherType f = 0x0800 then
    let i := o + ipHeader f o
    let n := beAt f (o + 2) 2 - ipHeader f o
    if beAt f (o + 9) 1 = 2 ∧ beAt f i 1 = 0x11 then answerQuery p false (decide (12 ≤ n)) (bytesAt f (i + 4) 4) s else s
  else match icmp6Start f with
    | none => s
    | some i =>
      if beAt f i 1 = 135 then neighbourReply p f s
      else if beAt f i 1 = 130 then answerQuery p true (decide (28 ≤ o + 40 + beAt f (o + 4) 2 - i)) (bytesAt f (i + 8) 16) s
      else s

end Sys2Proof.Machine
end

