-- ==== Sys2Proof/Machine/Intake.lean ====
section
/-!
DEFINITION. Stream intake (spec/07): the context table, RTP, the merge of two paths, H.265 depacketisation, the network
fault injector's registers, and the context windows.
-/

namespace Sys2Proof.Machine

/-! ## Contexts (R216–R219, R233–R235) -/

/-- Page 0x028 + w of context `c`, and its local number (R216). -/
def ctxPage (c : Nat) : Nat := c / 128
def ctxLocal (c : Nat) : Nat := c % 128

/-- STR_PENDj and CTX_CAUSE of page `w` follow the causes (R232, R235). -/
def refreshCauses (w : Nat) (s : State) : State :=
  let hot (l : Nat) : Bool := decide (Nat.land (getF (STR_CAUSE_ALL w l) s) (getF (STR_CAUSE_EN_ALL w l) s) ≠ 0)
  let s := each (List.range 4) (fun j => setF (STR_PEND w j)
    ((List.range 32).foldl (fun n i => n + bit (hot (32 * j + i)) * 2 ^ i) 0)) s
  summary (0x28 + w) 2 ((List.range 128).any hot) s

/-- A cause bit of context `c` is set (R233). -/
def ctxCause (c b : Nat) (s : State) : State :=
  s |> orF (STR_CAUSE_ALL (ctxPage c) (ctxLocal c)) (2 ^ (b - 1)) |> refreshCauses (ctxPage c)

/-- STR_STATl shows context `c` (R233). -/
def showCtx (c : Nat) (s : State) : State :=
  let x := s.ctx c
  let w := ctxPage c
  let l := ctxLocal c
  s |> setF (STR_STAT_STATE w l) x.state |> setB (STR_STAT_PAIRED w l) x.pair |> setB (STR_STAT_A_UP w l) x.pathA.up
    |> setB (STR_STAT_B_UP w l) x.pathB.up |> setF (STR_STAT_OWNER w l) x.owner |> setF (STR_STAT_NEXT_SEQ w l) (x.rel.getD 0)

/-- STR_USED and STR_MEM show the table (R235). -/
def showStr (s : State) : State :=
  let open_ := s.str.ctxs.filter (fun e => decide (e.2.state ≠ 0))
  s |> setF STR_USED_USED open_.length |> setF STR_MEM_MEM (open_.map (fun e => e.2.bufKib)).sum

/-- Four words of a record. -/
def addrAt (ws : List Word) (i : Nat) : List Word := (ws.drop i).take 4

/-- The context a record describes (R217). -/
def parseCtx (owner : Nat) (ws : List Word) : Ctx where
  state := 1
  owner := owner
  pair := decide (fieldAt ws 0 23 22 = 1)
  port := fieldAt ws 0 21 20
  ipv6 := decide (fieldAt ws 0 19 19 = 1)
  srcf := decide (fieldAt ws 0 18 18 = 1)
  ssrcLock := decide (fieldAt ws 0 17 17 = 1)
  vlanEn := decide (fieldAt ws 0 16 16 = 1)
  vid := fieldAt ws 0 11 0
  udpA := fieldAt ws 1 31 16
  udpB := fieldAt ws 1 15 0
  dstA := addrAt ws 2
  dstB := addrAt ws 6
  srcA := addrAt ws 10
  srcB := addrAt ws 14
  timeoutMs := fieldAt ws 18 31 24
  pt := fieldAt ws 18 6 0
  skewUs := fieldAt ws 19 17 0
  bufKib := fieldAt ws 21 15 0
  offset := toSigned 32 (wordAt ws 22)
  ssrc := if fieldAt ws 0 17 17 = 1 then some (wordAt ws 20) else none

/-- A field that R217 requires to be zero is not. -/
def ctxReserved (ws : List Word) : Bool :=
  let z (i n : Nat) : Bool := ((ws.drop i).take n).all (fun w => decide (w = 0))
  let pair := decide (fieldAt ws 0 23 22 ≠ 0)
  let v6 := decide (fieldAt ws 0 19 19 = 1)
  let srcf := decide (fieldAt ws 0 18 18 = 1)
  decide (fieldAt ws 0 15 12 ≠ 0) || decide (fieldAt ws 18 23 7 ≠ 0) || decide (fieldAt ws 19 31 18 ≠ 0) ||
  decide (fieldAt ws 21 31 16 ≠ 0) || (!pair && (decide (fieldAt ws 1 15 0 ≠ 0) || !z 6 4 || !z 14 4)) ||
  (!v6 && (!z 3 3 || !z 7 3 || !z 11 3 || !z 15 3)) || (!srcf && (!z 10 4 || !z 14 4)) ||
  (decide (fieldAt ws 0 17 17 = 0) && decide (wordAt ws 20 ≠ 0))

/-- The paths of a context: port, destination, UDP port and source filter. -/
def ctxPaths (x : Ctx) : List (Nat × List Word × Nat × List Word) :=
  (x.port, x.dstA, x.udpA, x.srcA) :: (if x.pair then [(x.port + 1, x.dstB, x.udpB, x.srcB)] else [])

/-- The VLAN of a context, for a clash (R218): its VID, or 0 for untagged frames and VID 0. -/
def ctxVlan (x : Ctx) : Nat := if x.vlanEn then x.vid else 0

/-- Two contexts clash on a path (R218 reason 0x07). -/
def ctxClash (x y : Ctx) : Bool :=
  decide (x.ipv6 = y.ipv6) && decide (ctxVlan x = ctxVlan y) &&
  (ctxPaths x).any (fun p => (ctxPaths y).any (fun q =>
    decide (p.1 = q.1) && decide (p.2.1 = q.2.1) && decide (p.2.2.1 = q.2.2.1) &&
    !(x.srcf && y.srcf && decide (p.2.2.2 ≠ q.2.2.2))))

/-- The reason for which a context record is refused; 0 when it is accepted (R218). -/
def ctxReason (ws : List Word) (s : State) : Nat :=
  let x := parseCtx 0 ws
  let paths := fieldAt ws 0 23 22
  if crcWords (ws.take 23) ≠ ws.getD 23 0 then 1
  else if fieldAt ws 0 31 24 ≠ 1 then 2
  else if ctxReserved ws then 3
  else if 2 ≤ paths ∨ (paths = 1 ∧ (x.port % 2 = 1 ∨ getB (NET_CFG_PAIR x.port) s = false)) then 4
  else if 150000 < x.skewUs ∨ x.timeoutMs = 0 then 5
  else if x.bufKib < 64 then 6
  else if s.str.ctxs.any (fun e => decide (e.2.state = 1) && ctxClash x e.2) = true then 7
  else if (firstBelow 1024 (fun i => decide ((s.ctx i).state = 0))).isNone then 8
  else if 8388608 < getF STR_MEM_MEM s + x.bufKib then 9 else 0

/-- One CTX_OPEN, against the table as the one before left it (R218); the context joins its groups (R214). -/
def ctxOpenOne (c : Cmd) (s : State) : State := withLen 0x10 c 96 (fun ws s =>
  let r := ctxReason ws s
  if r ≠ 0 then
    s |> setF STR_OPEN_REJ_REASON r |> setF STR_OPEN_REJ_PARTITION c.idx |> raise 0x28 5
      |> ifS (decide (r = 8) || decide (r = 9)) (fun s => s |> countF STR_TFULL |> raise 0x28 3)
      |> refuse 0x10 c (if r = 8 ∨ r = 9 then TABLE_FULL else BAD_ARGUMENT) r
  else
    let i := (firstBelow 1024 (fun i => decide ((s.ctx i).state = 0))).getD 0
    s.setCtx i (parseCtx (c.idx % 8) ws) |> showCtx i |> showStr |> joinReports (parseCtx (c.idx % 8) ws) |> finish 0x10 c DONE 0 i 0) s

/-- CTX_OPEN (R218). -/
def execCtxOpen (cs : List Cmd) (s : State) : Host.Outcome State Fault Refusal :=
  .next (runTies 0x10 cs (fun cs => serveTable STR_TIE_PTR 8 cs ctxOpenOne) s)

/-- A context stops accepting packets and its binding is released (R219, R242). -/
def closeCtx (i : Nat) (ref : Option CmdRef) (s : State) : State :=
  let s := s.setCtx i { s.ctx i with state := 2, held := [], au := none, closing := ref }
  let s := if (s.binding i).state = 1 then startRelease i none s else s.setCtx i { s.ctx i with queue := [] }
  showCtx i s

/-- CTX_CLOSE (R219). A context that is not open has nothing to close. -/
def execCtxClose (c : Cmd) (s : State) : Host.Outcome State Fault Refusal :=
  .next (runCmd 0x11 c (fun s =>
    let i := c.argF 0 9 0
    let x := s.ctx i
    if x.state ≠ 0 ∧ x.owner ≠ c.idx then answer 0x11 c NOT_OWNER s
    else if x.state ≠ 1 then answer 0x11 c BAD_ARGUMENT s
    else closeCtx i (some (refOf 0x11 c)) s) s)

/-- The entry of a closing context is released (R219). -/
def releaseCtx (i : Nat) (s : State) : State :=
  let ref := (s.ctx i).closing
  let s := s.setCtx i {} |> showCtx i |> showStr |> raise 0x28 4
  match ref with
  | some r => complete true r DONE 0 0 0 s
  | none => s

/-- CTX_RELEASE_DONE: decode has discarded every access unit of the context (R219). -/
def execCtxReleaseDone (ctx : Fin 1024) (s : State) : Host.Outcome State Fault Refusal :=
  .next (if (s.ctx ctx.val).state = 2 ∧ (s.ctx ctx.val).queue = [] ∧ (s.binding ctx.val).decoding.isNone = true
    then releaseCtx ctx.val s else s)

/-! ## Access units (R221, R222) -/

/-- Bytes of the context buffer in use: packets held, the unit in progress with its fragments, and units waiting. -/
def ctxFill (x : Ctx) : Nat :=
  (x.held.map (fun h => h.payload.length)).sum + (x.au.elim 0 (fun a => (a.nals.map List.length).sum + (a.frag.getD []).length)) +
  (x.queue.map (fun u => (u.nals.map List.length).sum)).sum

/-- The media time of an access unit (R222). -/
def mediaTime (fts ts : Nat) (offset : Int) : Int :=
  let m : Int := toSigned 64 fts * 9 / 100000
  let diff := toSigned 32 ((((ts : Int) - m) % ((2 ^ 32 : Nat) : Int)).toNat)
  (m + diff) * 100000 / 9 + offset

/-- A fragmented NAL unit that lacks a part is discarded whole (R221). -/
def dropFragment (c : Nat) (s : State) : State :=
  let x := s.ctx c
  match x.au with
  | some a =>
    if a.frag.isSome then s.setCtx c { x with au := some { a with frag := none, loss := true } } |> ctxCause c 10 else s
  | none => s

/-- The access unit in progress ends and is handed to decode; without a binding decode discards it (R222, R242). -/
def endUnit (c : Nat) (s : State) : State :=
  let s := dropFragment c s
  let x := s.ctx c
  match x.au with
  | none => s
  | some a =>
    let u : AccessUnit := ⟨c, mediaTime a.fts a.ts x.offset, a.fts, a.loss, a.nals⟩
    let bound := decide ((s.binding c).state = 1) || decide (s.fwu.feed = some c)
    let x := { x with au := none, aus := x.aus + 1, auLoss := x.auLoss + bit a.loss, lastFts := a.fts, lastTs := a.ts,
                      queue := if bound then x.queue ++ [u] else x.queue }
    s.setCtx c x |> ifS (!bound) (countF DEC_UNBOUND_AU)

/-- Part of the access unit in progress is discarded (R221). -/
def unsupportedNal (c : Nat) (s : State) : State :=
  let x := s.ctx c
  s.setCtx c { x with au := x.au.map (fun a => { a with loss := true }) } |> ctxCause c 9

/-- A whole NAL unit joins the access unit (R221). -/
def takeNal (c : Nat) (n : List Byte) (s : State) : State :=
  if beAt n 0 1 / 128 = 1 ∨ 16777216 < n.length ∨ n.length < 2 then unsupportedNal c s
  else
    let x := s.ctx c
    s.setCtx c { x with au := x.au.map (fun a => { a with nals := a.nals ++ [n] }) }

/-- The NAL units of an aggregation packet (R221). -/
def takeAggregate (c : Nat) : Nat → List Byte → State → State
  | 0, _, s => s
  | fuel + 1, p, s =>
    let n := beAt p 0 2
    if p.length < 2 then s
    else if p.length < 2 + n then unsupportedNal c s
    else takeAggregate c fuel (p.drop (2 + n)) (takeNal c ((p.drop 2).take n) s)

/-- A fragmentation unit (R221). -/
def takeFragment (c : Nat) (p : List Byte) (s : State) : State :=
  let fu := beAt p 2 1
  let s := ifS (decide (128 ≤ fu)) (dropFragment c) s
  let x := s.ctx c
  match x.au with
  | none => s
  | some a =>
    let hdr : List Byte := [BitVec.ofNat 8 (Nat.lor (Nat.land (beAt p 0 1) 0x81) (2 * (fu % 64))), BitVec.ofNat 8 (beAt p 1 1)]
    let sofar : Option (List Byte) := if 128 ≤ fu then some (hdr ++ p.drop 3) else a.frag.map (fun f => f ++ p.drop 3)
    match sofar with
    | none => s.setCtx c { x with au := some { a with loss := true } } |> ctxCause c 10
    | some f =>
      if fu / 64 % 2 = 1 then s.setCtx c { x with au := some { a with frag := none } } |> takeNal c f
      else s.setCtx c { x with au := some { a with frag := some f } }

/-- A packet is delivered by the merge: it may end the unit before it, joins its own, and its marker ends that (R221). -/
def deliverPacket (c : Nat) (h : Held) (s : State) : State :=
  let s := ifS ((s.ctx c).au.any (fun a => decide (a.ts ≠ h.ts))) (endUnit c) s
  let x := s.ctx c
  let au := match x.au with
    | some a => { a with loss := a.loss || x.lossPending }
    | none => { ts := h.ts, fts := h.early, loss := x.lossPending, nals := [], frag := none, first := h.num }
  let s := s.setCtx c { x with au := some au, lossPending := false }
  let typ := beAt h.payload 0 1 / 2 % 64
  let s := ifS (decide (typ ≠ 49)) (dropFragment c) s
  let s :=
    if h.payload.length < 2 then s
    else if typ = 48 then takeAggregate c h.payload.length (h.payload.drop 2) s
    else if 128 ≤ beAt h.payload 0 1 then s |> dropFragment c |> unsupportedNal c
    else if typ = 49 then takeFragment c h.payload s
    else if typ = 50 then unsupportedNal c s
    else takeNal c h.payload s
  ifS h.marker (endUnit c) s

/-! ## The merge (R223–R228) -/

/-- Packets from the release pointer on are delivered while they are held (R225). -/
def deliverRun (c : Nat) : Nat → State → State
  | 0, s => s
  | fuel + 1, s =>
    let x := s.ctx c
    match x.rel with
    | none => s
    | some r => match x.held.find? (fun h => decide (h.num = r)) with
      | none => s
      | some h =>
        s.setCtx c { x with held := x.held.filter (fun k => decide (k.num ≠ r)), rel := some (r + 1) }
          |> deliverPacket c h |> deliverRun c fuel

/-- The lowest number held. -/
def lowestHeld (x : Ctx) : Option Nat := (x.held.map (fun h => h.num)).min?

/-- The oldest arrival stamp held. -/
def oldestHeld (x : Ctx) : Option Nat := tnsMin (x.held.map (fun h => h.stamp))

/-- MERGE_GAP_TIMEOUT: at g + W the missing numbers are declared lost (R225). -/
def gapTimeout (c : Nat) (s : State) : State :=
  let x := s.ctx c
  match x.rel, lowestHeld x with
  | some r, some low =>
    let missing := (List.range (low - r)).map (fun i => r + i)
    let s := dropFragment c s
    let x := s.ctx c
    let s := s.setCtx c { x with rel := some low, lost := (x.lost.filter (fun n => decide (low < n + 16384))) ++ missing,
                                 au := x.au.map (fun a => { a with loss := true }), lossPending := true }
    let s := each missing (fun _ => countF (STR_LOST (ctxPage c) (ctxLocal c))) s
    let s := ifS (!missing.isEmpty) (ctxCause c 1) s
    s |> deliverRun c (s.ctx c).held.length |> showCtx c
  | _, _ => s

/-- MERGE_GAP_TIMEOUT (R225). -/
def execMergeGapTimeout (ctx : Fin 1024) (s : State) : Host.Outcome State Fault Refusal :=
  .next (match oldestHeld (s.ctx ctx.val) with
    | none => s
    | some g => if (s.ctx ctx.val).state = 1 ∧ reached (g + 1000 * (s.ctx ctx.val).skewUs) s = true then gapTimeout ctx.val s else s)

/-- One path of a context. -/
def pathOf (b : Bool) (x : Ctx) : StrPath := if b then x.pathB else x.pathA

/-- Sets one path. -/
def setPath (b : Bool) (p : StrPath) (x : Ctx) : Ctx := if b then { x with pathB := p } else { x with pathA := p }

/-- PATH_TIMEOUT (R227). -/
def execPathTimeout (ctx : Fin 1024) (pathB : Bool) (s : State) : Host.Outcome State Fault Refusal :=
  let x := s.ctx ctx.val
  let p := pathOf pathB x
  .next (if p.up && reached (p.last + 1000000 * x.timeoutMs) s then
      s.setCtx ctx.val (setPath pathB { p with up := false } x) |> ctxCause ctx.val 3 |> showCtx ctx.val
    else s)

/-- The context restarts from a new packet (R224). -/
def resync (c q : Nat) (s : State) : State :=
  let s := s.setCtx c { s.ctx c with held := [] }
  let x := s.ctx c
  let s := s.setCtx c { x with au := x.au.map (fun a => { a with loss := true }) } |> endUnit c
  let x := s.ctx c
  s.setCtx c { x with rel := some q, lost := [], lossPending := false,
                      pathA := { x.pathA with hs := some q, jump := none, seen := [] },
                      pathB := { x.pathB with hs := some q, jump := none, seen := [] } } |> ctxCause c 5

/-- A packet is dropped as STRAY (R220, R224). -/
def stray (c : Nat) (s : State) : State := s.setCtx c { s.ctx c with stray := (s.ctx c).stray + 1 }

/-- The skew of a number received on both paths (R228). -/
def noteSkew (c : Nat) (b : Bool) (e stamp : Nat) (s : State) : State :=
  let x := s.ctx c
  if !x.pair then s else
  match (pathOf (!b) x).seen.find? (fun k => decide (k.1 = e)) with
  | none =>
    let p := pathOf b x
    s.setCtx c (setPath b { p with seen := (p.seen.filter (fun k => decide (e < k.1 + 16384))) ++ [(e, stamp)] } x)
  | some k =>
    let d : Int := if b then diff64 stamp k.2 else diff64 k.2 stamp
    let x := setPath (!b) { pathOf (!b) x with seen := (pathOf (!b) x).seen.filter (fun j => decide (j.1 ≠ e)) } x
    s.setCtx c { x with skewLast := d, skewMax := max x.skewMax (min d.natAbs (2 ^ 32 - 1)) }
      |> ifS (decide (1000 * x.skewUs < d.natAbs)) (ctxCause c 7)

/-- The other copy of a number held, or of the first packet of the unit in progress: the earlier stamp counts (R221).
DESIGN CHOICE (log 56): once the unit has ended, its FTS stands. -/
def earlier (e stamp : Nat) (x : Ctx) : Ctx :=
  let le (t : Nat) : Nat := if tnsLe stamp t then stamp else t
  { x with held := x.held.map (fun k => if k.num = e then { k with early := le k.early } else k)
           au := x.au.map (fun a => if a.first = e then { a with fts := le a.fts } else a) }

/-- A packet with extended number `e` meets the merge (R225). -/
def mergePacket (c e : Nat) (h : Held) (s : State) : State :=
  let s := s.setCtx c (earlier e h.stamp (s.ctx c))
  let x := s.ctx c
  let r := x.rel.getD e
  let s := s.setCtx c { x with rel := some r }
  let x := s.ctx c
  if e < r ∧ x.lost.contains e = false then s.setCtx c { x with dup := x.dup + 1 }
  else if e < r then s.setCtx c { x with late := x.late + 1 } |> ctxCause c 2
  else if x.held.any (fun k => decide (k.num = e)) then s.setCtx c { x with dup := x.dup + 1 }
  else if 1024 * x.bufKib < ctxFill x + h.payload.length then s.setCtx c { x with ovf := x.ovf + 1 } |> ctxCause c 6
  else
    let s := s.setCtx c { x with held := x.held ++ [{ h with num := e }] }
    s |> deliverRun c (x.held.length + 1) |> showCtx c

/-- The RTP payload of a packet: CSRCs, extension and padding are skipped (R220). -/
def rtpPayload (p : List Byte) : List Byte :=
  let b0 := beAt p 0 1
  let off := 12 + 4 * (b0 % 16)
  let off := if b0 / 16 % 2 = 1 then off + 4 + 4 * beAt p (off + 2) 2 else off
  let pad := if b0 / 32 % 2 = 1 then beAt p (p.length - 1) 1 else 0
  (p.take (p.length - pad)).drop off

/-- A packet accepted by the RTP stage is extended and merged (R223–R228). -/
def acceptPacket (c : Nat) (b : Bool) (p : List Byte) (stamp : Nat) (s : State) : State :=
  let q := beAt p 2 2
  let x := s.ctx c
  let path := pathOf b x
  let highest : Option Nat := match x.pathA.hs, x.pathB.hs with
    | some m, some n => some (max m n)
    | some m, none => some m
    | none, o => o
  let base : Nat := ((if path.up then path.hs else highest).getD q)
  let δ := toSigned 16 (q + 65536 - base % 65536)
  let e : Int := base + δ
  let jump : Bool := decide (8192 < δ) || decide (δ < -1024)
  let follows := decide (path.jump = some ((q + 65535) % 65536))
  if jump && !follows then s.setCtx c (setPath b { path with jump := some q } x) |> stray c
  else
    let s := ifS follows (resync c q) s
    let e : Int := if follows then q else e
    let x := s.ctx c
    let path := pathOf b x
    let was := path.up
    let path := { path with hs := some (if follows then q else (max e base).toNat), up := true, last := stamp, jump := none }
    let x := setPath b path x
    let x := if b then { x with rxB := x.rxB + 1 } else { x with rxA := x.rxA + 1 }
    let s := s.setCtx c x |> ifS (!was) (ctxCause c 4)
    -- a number before 0 lies below the release pointer (log 37)
    if e < 0 then s.setCtx c { s.ctx c with dup := (s.ctx c).dup + 1 } |> showCtx c
    else s |> noteSkew c b e.toNat stamp
      |> mergePacket c e.toNat ⟨e.toNat, stamp, stamp, beAt p 4 4, decide (128 ≤ beAt p 1 1), rtpPayload p⟩ |> showCtx c

/-- A packet classified to path `b` of context `c` meets the RTP stage (R220). -/
def rtpPacket (c : Nat) (b : Bool) (p : List Byte) (stamp : Nat) (s : State) : State :=
  let x := s.ctx c
  let ssrc := beAt p 8 4
  let path := pathOf b x
  if p.length < 12 ∨ beAt p 0 1 / 64 ≠ 2 ∨ beAt p 1 1 % 128 ≠ x.pt then stray c s
  else if x.ssrc = some ssrc then acceptPacket c b p stamp s
  else if x.ssrc = none then s.setCtx c { x with ssrc := some ssrc } |> acceptPacket c b p stamp
  else if x.ssrcLock then stray c s
  else if path.learn = some (ssrc, (beAt p 2 2 + 65535) % 65536) then
    s.setCtx c (setPath b { path with learn := none } { x with ssrc := some ssrc }) |> ctxCause c 8 |> resync c (beAt p 2 2)
      |> acceptPacket c b p stamp
  else s.setCtx c (setPath b { path with learn := some (ssrc, beAt p 2 2) } x) |> stray c

/-! ## Windows, injector, links (R229, R230, R234) -/

/-- STR_SEL of page 0x028 + w is written: a snapshot of one context (R234). -/
def writeStrSel (w v : Nat) (s : State) : State :=
  let l := v % 128
  let x := s.ctx (128 * w + l)
  s |> setF (STR_SEL_SEL w) l |> setF (STR_D_RXA w) x.rxA |> setF (STR_D_RXB w) x.rxB |> setF (STR_D_DUP w) x.dup
    |> setF (STR_D_LATE w) x.late |> setF (STR_D_STRAY w) x.stray |> setF (STR_D_OVF w) x.ovf |> setF (STR_D_AU w) x.aus
    |> setF (STR_D_AULOSS w) x.auLoss |> setF (STR_D_SKEW_LAST w) (ofSigned 32 x.skewLast) |> setF (STR_D_SKEW_MAX w) x.skewMax
    |> setF (STR_D_FTS_LO w) x.lastFts |> setF (STR_D_FTS_HI w) (x.lastFts / 2 ^ 32) |> setF (STR_D_RTPTS w) x.lastTs
    |> setF (STR_D_SSRC w) (x.ssrc.getD 0) |> setF (STR_D_FILL w) (ctxFill x)

/-- STR_SEL_WRITE (R234). -/
def execStrSelWrite (who : Who) (w : Fin 8) (v : Word) (s : State) : Host.Outcome State Fault Refusal :=
  .next (guardWrite who (0x28 + w.val) (STR_SEL_SEL w.val).addr (mayWrite who (0x28 + w.val) s) (writeStrSel w.val v.toNat) s)

/-- NET_INJ is written (R229, R231): while ARM = 1 only a write that clears ARM acts. -/
def writeNetInj (p v : Nat) (s : State) : State :=
  if 4 ≤ p then s
  else if getB (NET_INJ_ARM p) s then ifS (decide (v / 2 ^ 31 % 2 = 0)) (setF (NET_INJ_ARM p) 0) s
  else
    let s := s |> setF (NET_INJ_KIND p) (bitsOf v 30 28) |> setF (NET_INJ_CTX p) (bitsOf v 25 16)
      |> setF (NET_INJ_COUNT p) (bitsOf v 15 0) |> setF (NET_INJ_ARM p) (bitsOf v 31 31)
    { s with str := { s.str with injSeen := FMap.set 0 s.str.injSeen p 0 } }

/-- NET_INJ_ARM (R229). -/
def execNetInjArm (who : Who) (port : Fin 5) (v : Word) (s : State) : Host.Outcome State Fault Refusal :=
  .next (guardWrite who (0x20 + port.val) (0x20180 + 0x1000 * port.val) (mayWrite who (0x20 + port.val) s) (writeNetInj port.val v.toNat) s)

/-- PORT_LINK_CHANGE (R230): NET_STAT takes its bits and LINK_UP or LINK_DOWN is raised; a link that comes up reports the groups
that the firmware joins whatever the contexts (R214). The link state is held while the
port's trim runs (R458). -/
def execPortLinkChange (port : Fin 5) (up : Bool) (status : Nat) (s : State) : Host.Outcome State Fault Refusal :=
  let p := port.val
  .next (if (up && !isOn (0x20 + p) s) || getB (TRM_STAT_RUNNING (16 + p)) s then s
    else s |> setB (NET_STAT_LINK p) up |> setB (NET_STAT_AN_DONE p) (bitOf status 30)
      |> setB (NET_STAT_FEC_LOCK p) (decide (p < 4) && bitOf status 29) |> setB (NET_STAT_ALIGNED p) (bitOf status 28)
      |> raise (0x20 + p) (if up then 2 else 3) |> ifS up (standingReports p))

/-- RESET of page 0x028 empties the table (R232): every entry is released as R219 says, without a completion but for a
CTX_CLOSE that has begun. -/
def strReset (s : State) : State :=
  each (List.range 1024) (fun i t => ifS (decide ((t.ctx i).state ≠ 0))
    (fun t => t |> ifS (decide ((t.binding i).state = 1)) (startRelease i none) |> releaseCtx i) t) s |> showStr

end Sys2Proof.Machine
end

