-- ==== Sys2Proof/Machine/Lifecycle.lean ====
section
/-!
DEFINITION. The block lifecycle of spec/01 (R33–R40) with the dependencies, idle points, RESET effects and fault effects
that each block's chapter gives, partition teardown (R474), and the host side of EV_PEND and EV_SET (R519).
-/

namespace Sys2Proof.Machine

/-! ## Dependencies (R39) -/

/-- NET pages that a domain's PORTS names (R351). -/
def domainPorts (d : Nat) (s : State) : List Nat :=
  ((List.range 5).filter (fun p => bitOf (getF (TIM_D_CFG_PORTS d) s) p)).map (fun p => 0x20 + p)

/-- Group 0 runs in early mode (R500). -/
def earlyMode (s : State) : Bool := (s.grp 0).early

/-- The SYN and LNK pages that serve the tiles of a group (R144). -/
def groupPages (g : Nat) (s : State) : List Nat :=
  (((groupTiles g s).map (fun k => 0x80 + k / 128)) ++ ((groupTiles g s).map lanePage)).eraseDups

/-- The blocks a block depends on, as its chapter lists them. -/
def deps (page : Nat) (s : State) : List Nat :=
  if page = 8 then [1, 4]
  else if page = 0x11 ∨ page = 0x12 then 0x10 :: domainPorts (page - 0x11) s
  else if page = 0x18 ∨ page = 0x180 then [0x10]
  else if 0x20 ≤ page ∧ page ≤ 0x24 then [1, 0x10]
  else if page = 0x28 then 0x10 :: hbmPages
  else if 0x40 ≤ page ∧ page ≤ 0x57 then [1, 0x28] ++ hbmPages
  else if page = 0x60 then 0x10 :: hbmPages
  else if page = 0x68 ∨ page = 0x178 then hbmPages
  else if 0x80 ≤ page ∧ page ≤ 0x87 then (if earlyMode s && (groupPages 0 s).contains page then [] else 0x148 :: hbmPages)
  else if 0x90 ≤ page ∧ page ≤ 0x93 then
    [0x10] ++ (if (s.grp (page - 0x90)).early then [] else hbmPages) ++ groupPages (page - 0x90) s
  else if 0x100 ≤ page ∧ page ≤ 0x13F then [1]
  else if page = 0x148 then 0x178 :: hbmPages
  else if 0x150 ≤ page ∧ page ≤ 0x153 then [0x10, 0x80] ++ hbmPages
  else if page = 0x158 then [0x20, 0x21, 0x22, 0x23, 0x24, 0x10] ++ hbmPages
  else if page = 0x160 then [1, 0x10] ++ hbmPages
  else if page = 0x161 then [1, 0x10, 0x160] ++ hbmPages
  else if 0x170 ≤ page ∧ page ≤ 0x173 then [1]
  else if 0x190 ≤ page ∧ page ≤ 0x197 then 0x198 :: hbmPages
  else []

/-- The pages with a lifecycle of their own (R232, R461, R518). -/
def hasLifecycle (page : Nat) : Bool :=
  assigned page && decide (page ≠ 0) && !(decide (0x29 ≤ page) && decide (page ≤ 0x2F)) && !(decide (5 ≤ page) && decide (page ≤ 7))

/-- The blocks that depend on a block. -/
def dependents (page : Nat) (s : State) : List Nat :=
  allPages.filter (fun q => hasLifecycle q && (deps q s).contains page)

/-- Every block that depends on a block reads one of the states given. -/
def dependentsIn (sts : List Nat) (page : Nat) (s : State) : Bool :=
  (dependents page s).all (fun q => sts.contains (blockState q s))

/-! ## Work in hand -/

/-- Ports whose NET page or camera output is meant: a sensor of the port has a frame between Frame Start and outputs. -/
def camBusy (p : Nat) (s : State) : Bool :=
  (List.range 8).any (fun k => decide (getF (CAM_S_CFG_PORT k) s = p) && (s.sensor k).frame.isSome) ||
  (List.range 8).any (fun o => (FMap.get none s.cam.due o).isSome &&
    decide (getF (CAM_S_CFG_PORT (getF (CAM_O_CFG_SENSOR o) s)) s = p))

/-- A jet of the basin holds a ray, or a portion holds rays of an unfinished frame (R113). -/
def synBusy (b : Nat) (s : State) : Bool :=
  (List.range 2).any (fun k => (s.fan (2 * b + k)).row.isSome) ||
  (List.range 128).any (fun i => decide (poolRays (128 * b + i) s ≠ 0))

/-- The block is at the idle point its chapter gives for PARK; frames are received and probe rays cast in single steps, so
nothing of them is in hand between steps. -/
def atIdlePoint (page : Nat) (s : State) : Bool :=
  if page = 2 ∨ page = 0x10 ∨ page = 0x198 ∨ page = 0x1A0 then false
  else if page = 8 then (List.range 30).all (fun z => !getB (TRM_STAT_RUNNING z) s)
  else if page = 0x11 ∨ page = 0x12 then (s.dom (page - 0x11)).sync.isNone && (s.dom (page - 0x11)).t3.isNone
  else if page = 0x28 then s.str.ctxs.all (fun e => e.2.held.isEmpty && e.2.au.isNone && e.2.queue.isEmpty)
  else if 0x40 ≤ page ∧ page ≤ 0x57 then
    !getB (DEC_CORE_BUSY (page - 0x40)) s
  else if page = 0x60 then s.asm.run.isNone
  else if page = 0x68 then s.asm.draws.isEmpty
  else if 0x80 ≤ page ∧ page ≤ 0x87 then !synBusy (page - 0x80) s
  else if 0x90 ≤ page ∧ page ≤ 0x93 then groupFinished (page - 0x90) s
  else if 0x100 ≤ page ∧ page ≤ 0x13F then (pageLanes (page - 0x100)).all (fun k => sendsIdle k s)
  else if page = 0x148 then
    (List.range 4).all (fun g => [0, 5, 7].contains (groupState g s)) && s.cor.derive.isNone && s.cor.exports.isEmpty &&
      s.cor.tiles.all (fun e => e.2.rayCopy.isNone && e.2.ready.isEmpty)
  else if 0x150 ≤ page ∧ page ≤ 0x153 then !getB (ENC_CORE_BUSY (page - 0x150)) s
  else if page = 0x158 then s.egr.ports.all (fun e => e.2.sending.isNone)
  else if page = 0x160 ∨ page = 0x161 then !camBusy (page - 0x160) s
  else if 0x170 ≤ page ∧ page ≤ 0x173 then dependentsIn [0, 5] page s
  else if page = 0x178 then s.slc.comp.isEmpty && s.slc.dec.isEmpty
  else if page = 0x180 then s.rim.line.isNone
  else if 0x190 ≤ page ∧ page ≤ 0x197 then (s.prt (page - 0x190)).disp.isEmpty
  else true

/-- Work in flight has finished, for a stop (R35): a group first completes every frame whose FL has passed (R140). -/
def workDone (page : Nat) (s : State) : Bool :=
  if page = 2 ∨ page = 0x10 ∨ page = 0x198 ∨ page = 0x1A0 ∨ (0x170 ≤ page ∧ page ≤ 0x173) then true
  else if 0x90 ≤ page ∧ page ≤ 0x93 then groupFinished (page - 0x90) s
  else if page = 0x160 ∨ page = 0x161 then atIdlePoint page s && (s.i3cq (page - 0x160)).isEmpty
  else atIdlePoint page s

/-! ## Partition teardown (R474) -/

/-- Semaphore `n` is freed. -/
def freeSem (n : Nat) (s : State) : State := s |> setB (HST_SEM_HELD n) false |> setF (HST_SEM_HOLDER n) 0

/-- Open rim regions of partition `p` whose queues are empty close. -/
def closeRegions (p : Nat) (s : State) : State :=
  each (List.range 16) (fun r t =>
    ifS (rimOpen r t && decide (getF (RIM_RGN_STAT_OWNER r) t = p) && (t.rimQ r).isEmpty) (wr (RIM_RGN_STAT_STATE r).addr 0) t) s

/-- Every resource of partition `p` begins to be released, without completions (R474 step 3). -/
def teardown (p : Nat) (s : State) : State :=
  let s := each (s.str.ctxs.map (fun e => e.1)) (fun i t =>
    ifS (decide ((t.ctx i).state = 1) && decide ((t.ctx i).owner = p)) (closeCtx i none) t) s
  let s := each (s.asm.planes.map (fun e => e.1)) (fun i t =>
    ifS (decide ((t.plane i).state = 1) && decide ((t.plane i).owner = p)) (startFree i none) t) s
  let s := each (s.asm.wins.map (fun e => e.1)) (fun i t =>
    ifS ((t.win i).any (fun w => decide (w.owner = p))) (State.setWin i none) t) s |> showAsm
  let s := each (s.enc.sessions.map (fun e => e.1)) (fun i t =>
    ifS (decide ((t.sess i).state = 1) && decide ((t.sess i).owner = p)) (closeSession i none) t) s
  let s := each (s.egr.subs.map (fun e => e.1)) (fun i t =>
    ifS ((t.sub i).open_ && decide ((t.sub i).owner = p)) (closeSub i none) t) s
  let s := each (List.range 8) (fun l t =>
    ifS (decide ((t.cueList l).state ≠ 0) && decide ((t.cueList l).owner = p)) (freeList l) t) s
  let s := each (s.cue.presets.map (fun e => e.1)) (fun i t =>
    ifS ((t.preset i).any (fun x => decide (x.owner = p))) (State.setPreset i none) t) s
  let s := each (s.rim.storeOwner.map (fun e => e.1)) (fun i t =>
    if FMap.get 0 t.rim.storeOwner i = p + 1 then
      { t with rim := { t.rim with store := FMap.set [] t.rim.store i [], storeOwner := FMap.set 0 t.rim.storeOwner i 0 } }
    else t) s
  let s := each (List.range 64) (fun n t => 
    ifS (getB (HST_SEM_HELD n) t && decide (getF (HST_SEM_HOLDER n) t = p) && !t.hst.fwSems.contains n) (freeSem n) t) s
  { s with slc := { s.slc with pend := FMap.keep (fun q => decide (q ≠ p)) s.slc.pend } } |> showSlc p |> closeRegions p

/-- Every resource of partition `p` has been released. -/
def tornDown (p : Nat) (s : State) : Bool :=
  s.str.ctxs.all (fun e => decide (e.2.state = 0) || decide (e.2.owner ≠ p)) &&
  s.asm.planes.all (fun e => decide (e.2.state = 0) || decide (e.2.owner ≠ p)) &&
  s.enc.sessions.all (fun e => decide (e.2.state = 0) || decide (e.2.owner ≠ p)) &&
  s.egr.subs.all (fun e => !e.2.open_ || decide (e.2.owner ≠ p)) &&
  (List.range 16).all (fun r => !rimOpen r s || decide (getF (RIM_RGN_STAT_OWNER r) s ≠ p))

/-- The teardown of a stopping partition begins once no command of it is outstanding (R474). -/
def beginTeardown (p : Nat) (s : State) : State :=
  if (s.prt p).tearing || !(s.prt p).disp.isEmpty then s
  else s.setPrt p { s.prt p with tearing := true } |> teardown p

/-- The pending map is cleared, and the page can read OFF. -/
def endTeardown (p : Nat) (s : State) : State :=
  each (List.range 64) (fun w => setF (HST_EPEND p w) 0) (s.setPrt p { s.prt p with tearing := false })

/-! ## Entering states -/

/-- CLK_STAT shows which fast PLLs run: those whose blocks do (R22, R447). DESIGN CHOICE (log 44): a clock whose blocks are
only STARTING or in FAULT shows unlocked, which R22 does not say. -/
def showPlls (s : State) : State :=
  let mask := ((List.range 4).map (fun k => bit (runs (0x80 + 2 * k) s || runs (0x81 + 2 * k) s) * 2 ^ k)).sum
  s |> setF CLK_STAT_RCLK mask |> setB CLK_STAT_DEC ((List.range 24).any (fun k => runs (0x40 + k) s))
    |> setB CLK_STAT_HUB (mainOn s && [0, 3, 4, 6].contains (pwrState s))

/-- A port that stops driving loses its link (R230). -/
def linkDrops (p : Nat) (s : State) : State :=
  if !getB (NET_STAT_LINK p) s then s else
  s |> setB (NET_STAT_LINK p) false |> setB (NET_STAT_AN_DONE p) false |> setB (NET_STAT_FEC_LOCK p) false
    |> setB (NET_STAT_ALIGNED p) false |> raise (0x20 + p) 3

/-- What the block stops doing when it leaves its running states for OFF, PARKED or FAULT. -/
def stopsDriving (page : Nat) (s : State) : State :=
  if 0x100 ≤ page ∧ page ≤ 0x13F then lnkDown (page - 0x100) s
  else if 0x90 ≤ page ∧ page ≤ 0x93 then groupDown (page - 0x90) s
  else if 0x20 ≤ page ∧ page ≤ 0x24 then linkDrops (page - 0x20) s
  else if 0x170 ≤ page ∧ page ≤ 0x173 then advanceTraffic (page - 0x170) s
  else s

/-- What happens as a block reads OFF (R208, R351, R405, R435). -/
def goesOff (page : Nat) (s : State) : State :=
  let s := stopsDriving page s
  if page = 0x11 ∨ page = 0x12 then s |> restServo (page - 0x11) 0 |> setValid (page - 0x11) false
  else if page = 0x148 then corAbort s
  else if page = 0x178 then slcDown s
  else if page = 0x160 ∨ page = 0x161 then camDown (page - 0x160) s
  else if 0x90 ≤ page ∧ page ≤ 0x93 then takeBanks (page - 0x90) s
  else s

/-- What happens as a block reads PARKED (R193, R351, R418; log 39). -/
def goesParked (page : Nat) (s : State) : State :=
  let s := stopsDriving page s
  if 0x170 ≤ page ∧ page ≤ 0x173 then selfRefresh (page - 0x170) s
  else if page = 0x11 ∨ page = 0x12 then setF (TIM_D_STAT_PSTATE (page - 0x11)) 5 s
  else if 0x90 ≤ page ∧ page ≤ 0x93 then takeBanks (page - 0x90) s else s

/-- What happens as a block reads ON (R155, R378, R469); a group does so in its first FL (R139). -/
def goesOn (page : Nat) (s : State) : State :=
  if 0x100 ≤ page ∧ page ≤ 0x13F then lnkUp (page - 0x100) s
  else if page = 0x11 ∨ page = 0x12 then restServo (page - 0x11) 1 s
  else if page = 0x180 then rimServe s
  else if page = 0x160 ∨ page = 0x161 then busNext (page - 0x160) s
  else if page = 0x60 then queueAllKnown s
  else if 0x170 ≤ page ∧ page ≤ 0x173 then hbmWakes (page - 0x170) s
  else s

/-- A PARKED block goes on: it reads ON at once, a raster group from its first FL (R35, R140). -/
def unpark (page : Nat) (s : State) : State :=
  if 0x90 ≤ page ∧ page ≤ 0x93 then ifS (!(s.grp (page - 0x90)).resuming) (groupResumes (page - 0x90)) s else s |> setState page 2 |> goesOn page

/-- A block enters STARTING (R139, R415); a camera port disables hot-join with DISEC (R390, log 24). -/
def starts (page : Nat) (s : State) : State :=
  let s := s |> setState page 1 |> uncalibrate page
  if 0x90 ≤ page ∧ page ≤ 0x93 then groupStart (page - 0x90) s
  else if 0x170 ≤ page ∧ page ≤ 0x173 then hbmStart (page - 0x170) s
  else if page = 0x160 ∨ page = 0x161 then emit (.i3c (page - 0x160) [Word.ofNat (2 ^ 31 + 1)] [0x08]) s
  else if 0x190 ≤ page ∧ page ≤ 0x197 then
    let p := page - 0x190
    s.setPrt p { s.prt p with lastSet := false, answer := none }
  else s

/-- A block detects an internal fault (R35, R38) and does what its chapter says of FAULT. -/
def blockFaults (page code : Nat) (s : State) : State :=
  let s := s |> stopsDriving page |> enterFault page (code % 256)
  let s := if 0x150 ≤ page ∧ page ≤ 0x153 then encFault (page - 0x150) s
    else if page = 0x180 then rimFault s
    else if page = 0x148 then corAbort s
    else if page = 0x178 then slcDown s
    else if page = 0x160 ∨ page = 0x161 then camDown (page - 0x160) s
    else if 0x40 ≤ page ∧ page ≤ 0x57 then decFault (page - 0x40) s
    else if page = 0x11 ∨ page = 0x12 then setF (TIM_D_STAT_PSTATE (page - 0x11)) 4 s
    else s
  showPlls s

/-- The page has a PLL of its own, whose loss of lock is its FAULT_CODE 0x01: a SerDes PLL or a lane PLL (R184, R230). -/
def hasPll (page : Nat) : Bool := (decide (0x20 ≤ page) && decide (page ≤ 0x24)) || (decide (0x100 ≤ page) && decide (page ≤ 0x13F))

/-! ## PG_CTRL -/

/-- A PG_CTRL write without an accepted RESET (R35). DEDUCED (log 39): a partition's page whose ENABLE is cleared while it reads
PARKED reads STOPPING and is torn down as R474 says, which R35's row for PARKED does not tell. -/
def applyCtrl (page : Nat) (en park : Bool) (s : State) : State :=
  let st := getF (PG_STAT_STATE page) s
  let s := s |> setB (PG_CTRL_ENABLE page) en |> setB (PG_CTRL_PARK page) park
  let s :=
    if st = 0 then ifS en (starts page) s
    else if st = 1 ∨ st = 4 then ifS (!en) (setState page 3) s
    else if st = 2 then
      if !en then s |> setState page 3 |> ifS (decide (0x190 ≤ page) && decide (page ≤ 0x197)) (beginTeardown (page - 0x190))
      else ifS (decide (page = 0x180)) rimServe s
    else if st = 3 then ifS en (setState page 4) s
    else if st = 5 then
      if !en then
        if 0x190 ≤ page ∧ page ≤ 0x197 then s |> setState page 3 |> beginTeardown (page - 0x190) else s |> setState page 0 |> goesOff page
      else if !park then unpark page s
      else if 0x90 ≤ page ∧ page ≤ 0x93 then groupStays (page - 0x90) s else s
    else s
  showPlls s

/-- The registers that the configuration store fills at each cold and warm reset (R504, R526). -/
def storeRegs : List Nat :=
  (List.range 5).flatMap (fun p => [(NET_MAC_LO p).addr, (NET_MAC_HI_MAC_HI p).addr, (NET_RX_DELAY_DELAY p).addr, (TIM_TXDLY_DELAY p).addr]) ++
  (List.range 8).flatMap (fun p => [(HST_BIND_TRANSPORT p).addr, (HST_JMP_CFG_PORT p).addr] ++
    (List.range 4).map (fun k => (HST_JMP_ADDR p k).addr)) ++ [HST_ADMIN_ADMIN.addr]

/-- Registers that report the power, clock, boot and fuse state of the device, which no RESET of their page changes
(R37, R526; log 42). -/
def reportRegs : List Nat :=
  [PWR_STAT_STATE.addr, CLK_STAT_RCLK.addr, FWU_BOOT_STAGE.addr, FWU_DL_STATE.addr, FWU_SVN_SVN.addr, FWU_SEQ.addr, FWU_VER.addr,
    FWU_CFMT_CFMT.addr, ATT_FUSE_KEYS_OK.addr]

/-- Registers that a block RESET leaves: the common page's, those that the configuration store fills, and those that report
the state of the device (R37, R521, R526; log 42). -/
def resetKeeps (a : Nat) : Bool :=
  decide (a % 4096 < 0x100) || storeRegs.contains a || reportRegs.contains a

/-- The sessions that RESET of an ENC page closes: those whose registers it holds, and on page 0x150, which has the table, all
(DEDUCED, log 46). -/
def pageSessions (page : Nat) (s : State) : List Nat :=
  (s.enc.sessions.map (fun e => e.1)).filter (fun i => decide (page = 0x150) || decide (i / 4 = page - 0x150))

/-- The page's tables are emptied, as its chapter says (R37). DESIGN CHOICE (log 46): the stack slots, the transfer LUTs and the
blend tables are page 0x090's. -/
def emptyTables (page : Nat) (s : State) : State :=
  if page = 4 then { s with pwr := { s.pwr with sensors := [], warned := false } } |> setTherm 256 |> setD 0
  else if page = 8 then resetZones s
  else if page = 0x10 then
    let s := each (List.range 8) (fun c t => ifS (decide ((t.timer c).activeUntil.isSome ≠ (t.timer c).set.pol)) (emit (.tp c false)) t) s
    { s with tim := { s.tim with timers := [], txq := [] } }
  else if page = 0x11 ∨ page = 0x12 then
    s.setDom (page - 0x11) { count := (s.dom (page - 0x11)).count, seq := (s.dom (page - 0x11)).seq }
  else if page = 0x18 then cueReset s
  else if 0x20 ≤ page ∧ page ≤ 0x24 then
    { s with str := { s.str with delayed := s.str.delayed.filter (fun d => decide (d.port ≠ page - 0x20))
                                 injSeen := FMap.keep (fun p => decide (p ≠ page - 0x20)) s.str.injSeen } }
  else if page = 0x28 then strReset s
  else if page = 0x40 then
    each (s.dec.binds.map (fun e => e.1)) (fun i t => ifS (decide ((t.binding i).state = 1)) (startRelease i none) t) s
  else if page = 0x60 then asmReset s
  else if page = 0x68 then
    let js := s.asm.draws
    each js (fun j => complete true j.cmd ABORTED 0 0 0) { s with asm := { s.asm with draws := [] } } |> showDrw
  else if 0x80 ≤ page ∧ page ≤ 0x87 then
    let s := { s with ras := { s.ras with jets := FMap.keep (fun j => decide (j / 16 ≠ page - 0x80)) s.ras.jets } }
    ifS (decide (page = 0x80)) (fun s => { s with ras := { s.ras with probes := [] } }) s
  else if page = 0x90 then
    each (List.range 8) (fun k => setF (STK_SEQ k) 0)
      { s with panel := { s.panel with slots := [], luts := [], blends := [] } }
  else if 0x100 ≤ page ∧ page ≤ 0x13F then
    each (pageLanes (page - 0x100)) (fun k => State.setLane k {}) (s.setInjLive (page - 0x100) false)
  else if page = 0x148 then
    let s := s |> corAbort |> corLose
    { s with cor := { s.cor with curve := [], strReady := 0x200, strPending := none } }
  else if 0x150 ≤ page ∧ page ≤ 0x153 then
    each (pageSessions page s) (fun i t => ifS (decide ((t.sess i).state = 1)) (closeSession i none) t) s
  else if page = 0x158 then egrReset s
  else if page = 0x160 then camReset s
  else if page = 0x161 then abortPort 1 s
  else if page = 0x178 then { slcDown s with slc := {} }
  else if page = 0x180 then rimReset s
  else if 0x190 ≤ page ∧ page ≤ 0x197 then
    let s := s.setPrt (page - 0x190) {}
    if page = 0x190 then { s with hst := { s.hst with fwSems := [] } } else s
  else if page = 0x198 then { s with evt := { s.evt with routes := [], raised := [] } }
  else if page = 0x1A0 then { s with fwu := { s.fwu with dl := unverified s.fwu.dl } }
  else if page = 0x1A1 then { s with fwu := { s.fwu with attPtr := 7 } }
  else s

/-- RESET of a page reaches the block-specific area of this page too: those that one PG_CTRL governs as a block (R232, R461). -/
def resets (page q : Nat) : Bool :=
  decide (q = page) || (decide (page = 4) && decide (5 ≤ q) && decide (q ≤ 7)) || (decide (page = 0x28) && decide (0x29 ≤ q) && decide (q ≤ 0x2F))

/-- The summary bits of a page whose causes a RESET has cleared follow them (R519). -/
def refreshSummaries (page : Nat) (s : State) : State :=
  if page = 0x28 then each (List.range 8) refreshCauses s
  else if 0x100 ≤ page ∧ page ≤ 0x13F then each (pageLanes (page - 0x100)) refreshLane s
  else if 0x150 ≤ page ∧ page ≤ 0x153 then each ((List.range 4).map (fun i => 4 * (page - 0x150) + i)) refreshSession s
  else if page = 0x160 ∨ page = 0x161 then refreshCam s
  else s

/-- An accepted RESET (R37): the block reads OFF, with the fields of its area, ENABLE, PARK and FAULT_CODE at reset. -/
def resetPage (page : Nat) (s : State) : State :=
  let s := ifS (decide (page = 0x11) || decide (page = 0x12)) (setValid (page - 0x11) false) s
  let vhvLow := getB RIM_STAT_VHV_LOW s
  let s := emptyTables page s
  let s := { s with regs := FMap.keep (fun a => !resets page (a / 4096) || resetKeeps a) s.regs }
  s |> setB (PG_CTRL_ENABLE page) false |> setB (PG_CTRL_PARK page) false |> setF (PG_STAT_FAULT_CODE page) 0
    |> ifS (decide (0x40 ≤ page) && decide (page ≤ 0x57)) showDec
    |> ifS (decide (page = 0x180)) (setB RIM_STAT_VHV_LOW vhvLow)
    |> ifS (decide (page = 0x1A0)) (fun s => s |> showDl |> setF FWU_BOOT_WDOG 0)
    |> ifS (decide (0x150 ≤ page) && decide (page ≤ 0x153)) (fun s => showEnc (each (pageSessions page s) showSession s))
    |> ifS (decide (0x80 ≤ page) && decide (page ≤ 0x87)) (fun s => each [0, 1] (fun k => setF (SYN_LIMIT_THERM (page - 0x80) k) (getF THM_STAT_THERM s)) s)
    |> ifS (decide (getF (PG_STAT_STATE page) s ≠ 0)) (fun s => s |> setState page 0 |> goesOff page) |> showPlls |> refreshSummaries page

/-- A PG_CTRL write that carries RESET = 1, judged as a whole (R37). -/
def applyReset (page : Nat) (en park : Bool) (s : State) : State :=
  if [0, 5, 7].contains (getF (PG_STAT_STATE page) s) then resetPage page s
  else s |> applyCtrl page en park |> raise 0 4

/-- Who may write PG_CTRL: a partition's page takes it from the partition and the acting administrator (R474). -/
def mayControl (who : Who) (page : Nat) (s : State) : Bool :=
  if 0x190 ≤ page ∧ page ≤ 0x197 then isPart who (page - 0x190) || isAdmin who s else mayWrite who page s

/-- A PG_CTRL write reaches its page; pages without a lifecycle of their own discard it (R518). -/
def ctrlWrite (who : Who) (page : Nat) (f : State → State) (s : State) : State :=
  guardWrite who page (4096 * page + 4) (mayControl who page s) (ifS (hasLifecycle page) f) s

/-- PG_ENABLE (R35). -/
def execPgEnable (who : Who) (page : Nat) (v : Bool) (s : State) : Host.Outcome State Fault Refusal :=
  .next (ctrlWrite who page (fun s => applyCtrl page v (getB (PG_CTRL_PARK page) s) s) s)

/-- PG_PARK (R35). -/
def execPgPark (who : Who) (page : Nat) (v : Bool) (s : State) : Host.Outcome State Fault Refusal :=
  .next (ctrlWrite who page (fun s => applyCtrl page (getB (PG_CTRL_ENABLE page) s) v s) s)

/-- PG_RESET (R37). -/
def execPgReset (who : Who) (page : Nat) (enable park : Bool) (s : State) : Host.Outcome State Fault Refusal :=
  .next (ctrlWrite who page (applyReset page enable park) s)

/-! ## What blocks do by themselves -/

/-- The block itself is ready (R347, R415); a group also needs to stand at a valid timing set. -/
def selfReady (page : Nat) (s : State) : Bool :=
  if page = 0x10 then getB CLK_STAT_AOCLK s
  else if 0x170 ≤ page ∧ page ≤ 0x173 then getB (HBM_STAT_TRAINED (page - 0x170)) s
  else if 0x90 ≤ page ∧ page ≤ 0x93 then !(s.grp (page - 0x90)).hasNext
  else true

/-- The page's lifecycle runs: it has one, and its domain is powered. -/
def lives (page : Nat) (s : State) : Bool := hasLifecycle page && (if alwaysOn page then s.pwr.vhv else mainOn s)

/-- The settings of the HOST plane that the early plane becomes (R501). -/
def earlySet (s : State) : PlaneSet := { host := true, nbuf := 1, w := s.fwu.earlyW, h := s.fwu.earlyH }

/-- The texels of the early plane, those that wait for the next FL among them, are written to plane 255 (R501). -/
def writeEarly (s : State) : State :=
  (s.fwu.earlyNext.getD s.fwu.early).foldl (fun s e => hbmPut (bufAddr (s.plane 255) 0 + e.1) e.2 s) s

/-- The early plane becomes HOST plane 255 of the partition of the ADMIN item (R501). -/
def copyEarly (s : State) : State :=
  let t := earlySet s
  match planeRoom t s with
  | none => s
  | some k =>
    let pic : Picture := { buf := 0, pt := 0, complete := true, concealed := false, order := s.asm.order + 1 }
    { s with asm := { s.asm with order := s.asm.order + 1 }, fwu := { s.fwu with copied := true } }
      |> State.setPlane 255 { newPlane s.fwu.adminItem t k with pics := [pic] } |> showAsm |> writeEarly

/-- Once every HBM page reads ON, the firmware starts COR (R500) and copies the early plane into HBM (R501), once in a boot. -/
def bootHbmOn (page : Nat) (s : State) : State :=
  if !(hbmPages.contains page && decide (pwrState s = 6) && decide (stage s = 1) && hbmPages.all (fun q => isOn q s)) then s
  else s |> ifS (decide (blockState 0x148 s = 0)) (applyCtrl 0x148 true (getB (PG_CTRL_PARK 0x148) s))
    |> ifS (!s.fwu.copied && decide ((s.plane 255).state = 0)) copyEarly

/-- BLOCK_READY (R35, R39). A raster group that is not to park, or that resumes, chooses its first frame, and reads ON at that
frame's FL (R139, R140). PARK never takes effect on pages 0x010 (R347) and 0x002 (R459). -/
def execBlockReady (page : Nat) (s : State) : Host.Outcome State Fault Refusal :=
  let again := decide (0x90 ≤ page) && decide (page ≤ 0x93) && decide (getF (PG_STAT_STATE page) s = 5) && (s.grp (page - 0x90)).resuming
  .next (if !lives page s || !(decide (getF (PG_STAT_STATE page) s = 1) || again) || !selfReady page s ||
      !(deps page s).all (fun q => isOn q s) then s
    else if again then chooseFirst (page - 0x90) s
    else if getB (PG_CTRL_PARK page) s && decide (page ≠ 0x10) && decide (page ≠ 2) then
      s |> calibrate page |> setState page 5 |> goesParked page
    else if 0x90 ≤ page ∧ page ≤ 0x93 then chooseFirst (page - 0x90) s
    else s |> calibrate page |> setState page 2 |> goesOn page |> showPlls |> bootHbmOn page)

/-- A block reads PARKED at its idle point (R35, R36). -/
def parkBlock (page : Nat) (s : State) : State :=
  s |> ifS (hbmPages.contains page) (advanceTraffic (page - 0x170)) |> setState page 5 |> goesParked page |> showPlls

/-- BLOCK_IDLE_POINT (R35). On the way to STANDBY the blocks that others depend on park after those (R39, R442). -/
def execBlockIdlePoint (page : Nat) (s : State) : Host.Outcome State Fault Refusal :=
  .next (if !lives page s || decide (getF (PG_STAT_STATE page) s ≠ 2) || !parkAsked page s || !atIdlePoint page s then s
    else if getB (PG_CTRL_PARK page) s then parkBlock page s
    else if !dependentsIn [0, 5, 7] page s then s
    else { s with pwr := { s.pwr with parked := page :: s.pwr.parked } } |> parkBlock page)

/-- STOP_COMPLETE (R35, R39). A partition's page first releases what the partition owns (R474). -/
def execStopComplete (page : Nat) (s : State) : Host.Outcome State Fault Refusal :=
  let st := getF (PG_STAT_STATE page) s
  .next (if !lives page s || !(decide (st = 3) || decide (st = 4)) || !workDone page s || !dependentsIn [0, 7] page s then s
    else
      let part := decide (0x190 ≤ page) && decide (page ≤ 0x197)
      let s := ifS part (fun s => s |> beginTeardown (page - 0x190) |> closeRegions (page - 0x190)) s
      if part && !tornDown (page - 0x190) s then s else
      let s := s |> ifS part (endTeardown (page - 0x190)) |> ifS (hbmPages.contains page) (advanceTraffic (page - 0x170))
      let s := if st = 3 then s |> setState page 0 |> goesOff page else s |> goesOff page |> starts page
      showPlls s)

/-- Loss of AOCLK as the time page sees it (R347): the counters hold, SEL_VALID clears, and groups that need it fault
(R144, R500); the absence of the clock raises REF_LOST (R447). -/
def aoclkGone (s : State) : State :=
  let s := s |> ifS (getB CLK_STAT_AOCLK s) (raise 1 3) |> setB CLK_STAT_AOCLK false |> setB TIM_STAT_SEL_VALID false
  each (List.range 4) (fun g t =>
    ifS ([1, 2, 3, 4].contains (groupState g t) && !(t.grp g).early) (groupFault g 1) t) s

/-- BLOCK_INTERNAL_FAULT (R35, R38). -/
def execBlockInternalFault (page code : Nat) (s : State) : Host.Outcome State Fault Refusal :=
  .next (if !lives page s || decide (getF (PG_STAT_STATE page) s = 7) then s
    else s |> ifS (decide (code % 256 = 1) && hasPll page) unlocked |> blockFaults page code |> ifS (decide (page = 0x10) && decide (code % 256 = 1)) aoclkGone)

/-- AOCLK_LOSS (R347). -/
def execAoclkLoss (s : State) : Host.Outcome State Fault Refusal :=
  .next (ifS s.pwr.vhv (fun s => s |> ifS (decide (getF (PG_STAT_STATE 0x10) s ≠ 7)) (blockFaults 0x10 1) |> aoclkGone) s)

/-- AOCLK_TICK: A, B and S advance (R332–R335). A page in FAULT with code 0x01, a loss of AOCLK, holds them (R347). When S first copies
its domain, a group in early mode takes its next frame as at start (R499). WINDOW entries whose instant has come are
applied (R359). -/
def execAoclkTick (s : State) : Host.Outcome State Fault Refusal :=
  .next (if blockState 0x10 s = 7 ∧ getF (PG_STAT_FAULT_CODE 0x10) s = 1 then s else
    let first := !getB TIM_STAT_SEL_VALID s
    let s := s |> tickDomains |> tickSelected
    ifS (first && getB TIM_STAT_SEL_VALID s && earlyMode s && (s.grp 0).hasNext && [1, 2].contains (groupState 0 s))
      (fun s => s |> groupDown 0 |> chooseFirst 0) (each (List.range 4) cuesPaced s))

/-! ## EV_PEND and EV_SET (R519) -/

/-- The bit is that of a summary event. -/
def isSummary (page b : Nat) : Bool :=
  (decide (page = 0) && (decide (b = 2) || decide (b = 3))) ||
  (decide (0x28 ≤ page) && decide (page ≤ 0x2F) && decide (b = 2)) ||
  (decide (0x100 ≤ page) && decide (page ≤ 0x13F) && decide (2 ≤ b)) ||
  (decide (0x150 ≤ page) && decide (page ≤ 0x153) && decide (2 ≤ b) && decide (b ≤ 5)) ||
  (decide (page = 0x160) && decide (2 ≤ b) && decide (b ≤ 11)) ||
  (decide (page = 0x161) && decide (b = 2))

/-- Host writes of 1 to EV_PEND bits: a pulse bit of EV_RAW clears too, a summary bit keeps its level. -/
def clearPend (page mask : Nat) (s : State) : State :=
  let pulses := ((List.range 32).map (fun b => bit (bitOf mask b && !isSummary page b) * 2 ^ b)).sum
  s |> clearF (EV_PEND page) mask |> clearF (EV_RAW page) pulses

/-- EV_PEND_CLEAR (R519). -/
def execEvPendClear (who : Who) (page : Nat) (mask : Word) (s : State) : Host.Outcome State Fault Refusal :=
  .next (guardWrite who page (EV_PEND page).addr (mayWrite who page s) (clearPend page mask.toNat) s)

/-- A raise by EV_SET: as a raise, with EV_RAW of a summary left alone; a bit without an event is ignored. -/
def raiseForTest (page b : Nat) (s : State) : State :=
  if 2 ≤ b ∧ evNum page b = none then s
  else
    let raw := getF (EV_RAW page) s
    s |> raise page b |> ifS (isSummary page b) (setF (EV_RAW page) raw)

/-- Host writes of 1 to EV_SET bits, in ascending order. -/
def writeEvSet (page mask : Nat) (s : State) : State :=
  each ((List.range 32).filter (fun b => bitOf mask b)) (raiseForTest page) s

/-- EV_SET_WRITE (R519). -/
def execEvSetWrite (who : Who) (page : Nat) (mask : Word) (s : State) : Host.Outcome State Fault Refusal :=
  .next (guardWrite who page (4096 * page + 0x1C) (mayWrite who page s) (writeEvSet page mask.toNat) s)

end Sys2Proof.Machine
end

