-- ==== Sys2Proof/Machine/Firmware.lean ====
section
/-!
DEFINITION. Firmware images, boot records, updates, the configuration store and attestation (spec/20, R491–R497,
R502–R513).
-/

namespace Sys2Proof.Machine

/-! ## Slots and images (R491, R494–R496) -/

/-- A byte of a slot; erased flash reads 0xFF. -/
def slotByte (slot : Bool) (a : Nat) (s : State) : Byte := FMap.get 0xFF (if slot then s.fwu.slotB else s.fwu.slotA) a

/-- Bytes of a slot. -/
def slotBytes (slot : Bool) (a n : Nat) (s : State) : List Byte := (List.range n).map (fun i => slotByte slot (a + i) s)

/-- Sets the contents of a slot. -/
def setSlotMem (slot : Bool) (m : FMap Byte) (s : State) : State :=
  if slot then { s with fwu := { s.fwu with slotB := m } } else { s with fwu := { s.fwu with slotA := m } }

/-- Erases `n` bytes of a slot from `a`. -/
def eraseSlot (slot : Bool) (a n : Nat) (s : State) : State :=
  setSlotMem slot (FMap.keep (fun x => decide (x < a) || decide (a + n ≤ x)) (if slot then s.fwu.slotB else s.fwu.slotA)) s

/-- Programs bytes of a slot from `a`; programming can only clear bits of flash. -/
def programSlot (slot : Bool) (a : Nat) (bs : List Byte) (s : State) : State :=
  setSlotMem slot ((List.range bs.length).foldl (fun m i => FMap.set 0xFF m (a + i) (FMap.get 0xFF m (a + i) &&& bs.getD i 0xFF))
    (if slot then s.fwu.slotB else s.fwu.slotA)) s

/-- The words of the manifest in a slot (R494). -/
def manifest (slot : Bool) (s : State) : List Word := bytesWords (slotBytes slot 0 64 s)

/-- SVN of the image in a slot. -/
def imageSvn (slot : Bool) (s : State) : Nat := fieldAt (manifest slot s) 1 23 16

/-- CFMT of the image in a slot. -/
def imageCfmt (slot : Bool) (s : State) : Nat := fieldAt (manifest slot s) 1 15 8

/-- The digest of the manifest in a slot (R495). -/
def manifestDigest (slot : Bool) (s : State) : List Byte := sha3 (slotBytes slot 0 64 s)

/-- The checks of R496 from HEADER on, in table order; 0 when the slot passes. -/
def verifyImage (slot : Bool) (s : State) : Nat :=
  let m := manifest slot s
  let key := slotBytes slot 0x40 1312 s
  let kd := sha3 key
  if wordAt m 0 ≠ 0x484C4657 ∨ fieldAt m 1 31 24 ≠ 1 ∨ fieldAt m 1 7 0 ≠ 0 ∨ fieldAt m 3 31 16 ≠ 0 ∨ wordAt m 14 ≠ 0 ∨
      wordAt m 15 ≠ 0 ∨ 64 < imageSvn slot s ∨ 25157632 < wordAt m 4 then 2
  else if wordAt m 2 ≠ 0x7D1C0400 ∨ 0x0A00 < fieldAt m 3 15 0 then 3
  else if ¬(kd = Config.keyDigest 1 ∨ (kd = Config.keyDigest 0 ∧ s.fwu.key0Revoked = false)) then 4
  else if !mldsaVerify key (manifestDigest slot s) (slotBytes slot 0x800 2420 s) then 5
  else if sha3 (slotBytes slot 0x2000 (wordAt m 4) s) ≠ slotBytes slot 24 32 s then 6
  else if imageSvn slot s < s.fwu.svnFuse then 7
  else 0

/-- The status of a verification (R496). -/
def verifyStatus (r : Nat) : Nat :=
  if r = 0 then DONE else if r = 1 then NOT_READY else if r ≤ 3 then BAD_ARGUMENT else if r ≤ 6 then SIGNATURE_FAIL else INHIBITED

/-! ## The image that runs (R496, R497, R505) -/

/-- Fuses are blown until the counter equals the confirmed image's SVN (R496). -/
def blowFuses (slot : Bool) (s : State) : State :=
  let s := { s with fwu := { s.fwu with svnFuse := max s.fwu.svnFuse (min 64 (imageSvn slot s)) } }
  setF FWU_SVN_SVN s.fwu.svnFuse s

/-- An image runs from a slot with a configuration half; the confirmed image completes the fuse counter, also where it boots because the trial slot failed
(R496). -/
def runImage (slot half trial alt : Bool) (tries : Nat) (s : State) : State :=
  let m := manifest slot s
  s |> setB FWU_BOOT_SLOT slot |> setB FWU_BOOT_TRIAL trial |> setF FWU_BOOT_TRIES tries |> setB FWU_BOOT_ALT alt
    |> setB FWU_BOOT_CFG half |> setF FWU_SEQ (bootRec s).seq |> setF FWU_VER (wordAt m 5)
    |> setF FWU_CFMT_CFMT (fieldAt m 1 15 8) |> setB FWU_CFMT_MIGRATED false |> setF FWU_SVN_SVN s.fwu.svnFuse
    |> ifS (!trial && decide (slot = (bootRec s).slot)) (blowFuses slot)

/-- The ROM enters recovery (R497, R502). DEDUCED (log 68): STATE reads BOOTING there, also where the device was in SERVICE, since it reads
SERVICE only from FULL onwards (R498). -/
def enterRecovery (s : State) : State :=
  { s with fwu := { s.fwu with recovery := true, rcvSector := none, pause := false } } |> setF FWU_BOOT_STAGE 3 |> setF PWR_STAT_STATE 6

/-- One choice of R497: the slot if it verifies, else the other slot with the other half, else recovery; the last failure
is recorded (R512). -/
def trySlot (slot half trial : Bool) (tries : Nat) (s : State) : State :=
  if verifyImage slot s = 0 then runImage slot half trial false tries s
  else if verifyImage (!slot) s = 0 then
    s |> setF FWU_REJ_REASON (verifyImage slot s) |> runImage (!slot) (!half) false true tries |> raise 0x1A0 5
  else s |> setF FWU_REJ_REASON (verifyImage (!slot) s) |> enterRecovery

/-- The image selection of the ROM (R497). -/
def romSelect (s : State) : State :=
  let r := bootRec s
  if r.trial ∧ r.tries < 3 then
    let s := writeBoot { r with tries := r.tries + 1 } s
    trySlot (!r.slot) r.tcfg true (r.tries + 1) s
  else if r.trial then
    s |> writeBoot { r with trial := false } |> raise 0x1A0 4 |> trySlot r.slot r.cfgHalf false 0
  else trySlot r.slot r.cfgHalf false 0 s

/-- A trial image whose half holds no items of its format migrates the confirmed image's (R505). -/
def migrate (s : State) : State :=
  let half := runHalf s
  let f := imageCfmt (runSlot s) s + 1
  if !trialRuns s || decide (halfFmt half s = f) then s
  else s |> setHalf half ((halfItems (!half) s).foldl (fun l e => appendRec e.1 e.2 l) []) f |> setB FWU_CFMT_MIGRATED true |> raise 0x1A0 9

/-! ## Updates (R506–R509) -/

/-- An update command completes; UPDATE_FAILED is raised unless it completed with DONE, ACCEPTED or BUSY (R512). -/
def fwuDone (op : Nat) (c : Cmd) (status reason r0 : Nat) (s : State) : State :=
  s |> finish op c status reason r0 0 |> ifS (decide (2 < status)) (raise 0x1A0 8)

/-- An update command of the owner of page 0x1A0 (R506); UPDATE_FAILED is raised too where the page's state refuses it
(R512). -/
def updateCmd (op : Nat) (c : Cmd) (body : State → State) (s : State) : State :=
  s |> runCmd op c (fun s => if isOwner c.who 0x1A0 s then body s else fwuDone op c NOT_OWNER 0 0 s)
    |> ifS (mayStart op c s && decide (gate (judgedPages op c) s = .notReady)) (raise 0x1A0 8)

/-- The bytes of SRC go to `f`; a failed read aborts the command (R480). -/
def updateSrc (op : Nat) (c : Cmd) (f : List Byte → State → State) (s : State) : State :=
  if srcBad c s then s |> abortOperand op c |> raise 0x1A0 8 else f (srcBytes c s) s

/-- FWU_BEGIN (R507). DEDUCED (log 68): after an alternative boot the record still names a trial, and no slot is then neither confirmed nor
on trial, so the command does not fit the update state (R506). -/
def execFwuBegin (c : Cmd) (s : State) : Host.Outcome State Fault Refusal :=
  .next (updateCmd 0x58 c (fun s =>
    if trialRuns s || (bootRec s).trial || s.fwu.pause then fwuDone 0x58 c BUSY 0 0 s
    else if c.src.len ≠ 64 then fwuDone 0x58 c BAD_ARGUMENT 0 0 s
    else updateSrc 0x58 c (fun m s =>
      match s.fwu.dl with
      | some d => if d.manifest = m then fwuDone 0x58 c DONE 0 d.have_.length s else
          s |> setDl (some ⟨!(bootRec s).slot, m, ceilDiv (8192 + wordAt (bytesWords m) 4) 65536, [], false⟩) |> fwuDone 0x58 c DONE 0 0
      | none => s |> setDl (some ⟨!(bootRec s).slot, m, ceilDiv (8192 + wordAt (bytesWords m) 4) 65536, [], false⟩)
          |> fwuDone 0x58 c DONE 0 0) s) s)

/-- FWU_CHUNK (R507): the chunk is erased and programmed, and then marked in the download record. -/
def execFwuChunk (c : Cmd) (s : State) : Host.Outcome State Fault Refusal :=
  .next (updateCmd 0x59 c (fun s =>
    match s.fwu.dl with
    | none => fwuDone 0x59 c BUSY 0 0 s
    | some d =>
      let i := c.argF 0 8 0
      let n := c.src.len
      if d.chunks ≤ i ∨ n = 0 ∨ 65536 < n ∨ (n ≠ 65536 ∧ i + 1 ≠ d.chunks) then fwuDone 0x59 c BAD_ARGUMENT 0 0 s
      else updateSrc 0x59 c (fun b s =>
        if i = 0 ∧ b.take 64 ≠ d.manifest then fwuDone 0x59 c BAD_ARGUMENT 0 0 s
        else s |> eraseSlot d.slot (65536 * i) 65536 |> programSlot d.slot (65536 * i) b
          |> setDl (some { d with have_ := i :: d.have_.filter (fun k => decide (k ≠ i)), verified := false })
          |> fwuDone 0x59 c DONE 0 0) s) s)

/-- FWU_VERIFY (R496, R507). -/
def execFwuVerify (c : Cmd) (s : State) : Host.Outcome State Fault Refusal :=
  .next (updateCmd 0x5A c (fun s =>
    match s.fwu.dl with
    | none => fwuDone 0x5A c BUSY 0 0 s
    | some d =>
      let r := if d.have_.length < d.chunks then 1 else verifyImage d.slot s
      s |> setDl (some { d with verified := decide (r = 0) }) |> ifS (decide (r ≠ 0)) (setF FWU_REJ_REASON r)
        |> fwuDone 0x5A c (verifyStatus r) r r) s)

/-- The activation pause begins: the rings stop (R508). -/
def beginPause (s : State) : State := { s with fwu := { s.fwu with pause := true } }

/-- FWU_ACTIVATE (R508): ACCEPTED at once; the final completion comes with the trial image's first fetch. The download is
over. -/
def execFwuActivate (c : Cmd) (s : State) : Host.Outcome State Fault Refusal :=
  .next (updateCmd 0x5B c (fun s =>
    if s.fwu.pause || !(s.fwu.dl.any (fun d => d.verified)) then fwuDone 0x5B c BUSY 0 0 s
    else
      let r := bootRec s
      let s := s |> complete false (refOf 0x5B c) ACCEPTED 0 0 0
        |> writeBoot { r with trial := true, tries := 1, tcfg := !r.cfgHalf } |> setDl none |> beginPause
      { s with fwu := { s.fwu with activate := some (refOf 0x5B c) } }) s)

/-- FWU_CONFIRM (R509). -/
def execFwuConfirm (c : Cmd) (s : State) : Host.Outcome State Fault Refusal :=
  .next (updateCmd 0x5C c (fun s =>
    if !trialRuns s then fwuDone 0x5C c BUSY 0 0 s
    else
      let r := bootRec s
      let s := s |> writeBoot { r with slot := runSlot s, trial := false, cfgHalf := r.tcfg, tcfg := r.cfgHalf }
        |> blowFuses (runSlot s) |> setB FWU_BOOT_TRIAL false |> setF FWU_BOOT_TRIES 0
      { s with fwu := { s.fwu with erase := true } } |> fwuDone 0x5C c DONE 0 0 |> raise 0x1A0 7) s)

/-- FWU_ABORT (R509): a trial falls back to the confirmed image; a download's record is emptied. -/
def execFwuAbort (c : Cmd) (s : State) : Host.Outcome State Fault Refusal :=
  .next (updateCmd 0x5D c (fun s =>
    if trialRuns s then
      let r := bootRec s
      s |> writeBoot { r with trial := false } |> raise 0x1A0 4 |> fwuDone 0x5D c DONE 0 0 |> beginPause
        |> trySlot r.slot r.cfgHalf false 0
    else if s.fwu.dl.isSome then s |> setDl none |> fwuDone 0x5D c DONE 0 0
    else fwuDone 0x5D c BUSY 0 0 s) s)

/-- Commands of partition `p` still outstanding are aborted, except the one given; their blocks let go of them later
(R508). -/
def abortOutstanding (keep : Option CmdRef) (p : Nat) (s : State) : State :=
  let ds := (s.prt p).disp.filter (fun d => decide (some (refOf d.op d.cmd) ≠ keep))
  let s := each ds (fun d t => t |> complete true (refOf d.op d.cmd) ABORTED 0 0 0 |> ifS (updateOp d.op) (raise 0x1A0 8)) s
  s.setPrt p { s.prt p with gone := (s.prt p).gone ++ (ds.filter (fun d => d.started)).map (fun d => (d.op, d.cmd.tag)) }

/-- ACTIVATION_PAUSE_END (R508): the restarted image fetches its first descriptor, `us` after the rings stopped. What was
outstanding for 100 ms is aborted; an activation completes. -/
def execActivationPauseEnd (us : Nat) (s : State) : Host.Outcome State Fault Refusal :=
  .next (if !s.fwu.pause then s else
    let a := s.fwu.activate
    let s := ifS (decide (100000 ≤ us)) (each (List.range 8) (abortOutstanding a)) s
    let s := { s with fwu := { s.fwu with pause := false, activate := none } } |> setF FWU_PAUSE_US (min us 0xFFFFF)
    match a with
    | none => migrate s
    | some ref =>
      let r := bootRec s
      s |> runImage (!r.slot) r.tcfg true false 1 |> migrate |> complete true ref DONE 0 0 0 |> raise 0x1A0 6)

/-- FW_WATCHDOG_EXPIRE (R509): a trial image restarts as a counted trial boot, a confirmed one as itself. -/
def execFwWatchdogExpire (s : State) : Host.Outcome State Fault Refusal :=
  .next (if !mainOn s || !(decide (stage s = 1) || decide (stage s = 2)) || s.fwu.pause then s else
    s |> addF FWU_BOOT_WDOG 1 |> beginPause |> ifS (trialRuns s) romSelect)

/-! ## The configuration store (R503–R505) -/

/-- A key of R504. -/
def keyKnown (k : Nat) : Bool :=
  [0x0001, 0x0002, 0x0003, 0x0004, 0x0005, 0x0010, 0x0020, 0x0021, 0x0022, 0x0023, 0x0030].contains k ||
  (decide (0x1000 ≤ k) && decide (k ≤ 0x1FFF))

/-- CFG_ITEM (R503, R506): an item of the half in use is written or read. DESIGN CHOICE (log 45): TABLE_FULL is counted and
raises no event. -/
def execCfgItem (c : Cmd) (s : State) : Host.Outcome State Fault Refusal :=
  .next (runCmd 0x5E c (fun s =>
    let key := c.argF 0 15 0
    let half := runHalf s
    if c.argF 0 31 31 = 1 then
      if !isAdmin c.who s then answer 0x5E c NOT_OWNER s
      else if !keyKnown key || (decide (0x1000 ≤ key) && decide (65536 < c.src.len)) then answer 0x5E c BAD_ARGUMENT s
      else if srcBad c s then abortOperand 0x5E c s
      else if itemFull half key c.src.len s then s |> countF FWU_TFULL |> answer 0x5E c TABLE_FULL
      else s |> writeItem half (imageCfmt (runSlot s) s + 1) key (srcBytes c s) |> answer 0x5E c DONE
    else if !keyKnown key then answer 0x5E c BAD_ARGUMENT s
    else if dstBad c s then abortOperand 0x5E c s
    else
      let b := (FMap.get [] (halfItems half s) key).take c.dst.len
      s |> memWrite (opSpace c c.dst s) c.dst.addr b |> finish 0x5E c DONE 0 b.length 0) s)

/-- CFG_HALF_ERASE (R505): the old half is erased after a confirmation, and becomes TCFG. -/
def execCfgHalfErase (s : State) : Host.Outcome State Fault Refusal :=
  .next (if !s.fwu.erase then s else
    { s with fwu := { s.fwu with erase := false } } |> setHalf (!(bootRec s).cfgHalf) [] 0)

/-! ## Recovery (R502) -/

/-- A write of FWU_RCV_CTRL, CHUNK, LEN or the buffer is taken only in RECOVERY (R512). -/
def inRecovery (s : State) : Bool := decide (stage s = 3) && mainOn s

/-- The bytes of the chunk buffer. -/
def rcvBytes (n : Nat) (s : State) : List Byte :=
  ((List.range 512).flatMap (fun k => wordBytes (rd (FWU_RCV_DATA k).addr s))).take n

/-- PROGRAM: the sectors entered are erased first, and the buffer is written (R502). -/
def rcvProgram (s : State) : State :=
  let slot := getB FWU_RCV_CTRL_SLOT s
  let a := 2048 * getF FWU_RCV_CHUNK_CHUNK s
  let n := getF FWU_RCV_LEN_LEN s
  if (slotRange slot).2 < a + n then setF FWU_RCV_STAT_REASON 0x10 s else
  let sec := a / 65536
  s |> ifS (decide (s.fwu.rcvSector ≠ some (slot, sec))) (eraseSlot slot (65536 * sec) 65536)
    |> (fun s => { s with fwu := { s.fwu with rcvSector := some (slot, sec) } })
    |> programSlot slot a (rcvBytes n s) |> setF FWU_RCV_STAT_REASON 0

/-- VERIFY: a slot that passes becomes the confirmed one, and the ROM boots it (R502). -/
def rcvVerify (s : State) : State :=
  let slot := getB FWU_RCV_CTRL_SLOT s
  let r := verifyImage slot s
  if r ≠ 0 then s |> setF FWU_RCV_STAT_REASON r |> setF FWU_REJ_REASON r else
  let b := bootRec s
  let s := { s with fwu := { s.fwu with recovery := false } }
  s |> setF FWU_RCV_STAT_REASON 0 |> writeBoot { b with slot := slot, trial := false, cfgHalf := b.tcfg }
    |> setF FWU_BOOT_STAGE 0 |> runImage slot b.tcfg false false 0

/-- A write of FWU_RCV_CTRL (R502, R512): SLOT is held; PROGRAM and VERIFY act, PROGRAM first. -/
def writeRcvCtrl (v : Nat) (s : State) : State :=
  if !inRecovery s then s else
  s |> setB FWU_RCV_CTRL_SLOT (bitOf v 31) |> ifS (bitOf v 0) rcvProgram |> ifS (bitOf v 1) rcvVerify

/-- FWU_RCV_PROGRAM (R502). -/
def execFwuRcvProgram (who : Who) (v : Word) (s : State) : Host.Outcome State Fault Refusal :=
  .next (guardWrite who 0x1A0 FWU_RCV_CTRL_SLOT.addr (mayWrite who 0x1A0 s) (writeRcvCtrl (Nat.lor v.toNat 1)) s)

/-- FWU_RCV_VERIFY (R502). -/
def execFwuRcvVerify (who : Who) (v : Word) (s : State) : Host.Outcome State Fault Refusal :=
  .next (guardWrite who 0x1A0 FWU_RCV_CTRL_SLOT.addr (mayWrite who 0x1A0 s) (writeRcvCtrl (Nat.lor v.toNat 2)) s)

/-! ## Attestation (R511, R513) -/

/-- A digest as eight words, byte 0 the low byte of the first (R9, R494). -/
def digestWords (b : List Byte) : List Word := (List.range 8).map (fun i => (bytesWords b).getD i 0)

/-- The 40 words of a report's body (R511). -/
def reportBody (key : Bool) (nonce : List Word) (s : State) : List Word :=
  let slot := runSlot s
  let other := verifyImage (!slot) s
  [Word.ofNat (0x01000000 + bit key)] ++ (List.range 8).map (fun i => nonce.getD i 0) ++
  [0x7D1C0400, 0x00000A00, Word.ofNat s.fwu.svnFuse, Word.ofNat (bootRec s).seq,
    Word.ofNat (bit slot * 2 ^ 31 + bit (trialRuns s) * 2 ^ 30 + getF FWU_BOOT_TRIES s * 2 ^ 28 + bit (getB FWU_BOOT_ALT s) * 2 ^ 27)] ++
  digestWords (manifestDigest slot s) ++
  (if other = 0 ∨ other = 7 then digestWords (manifestDigest (!slot) s) else List.replicate 8 0) ++
  [Word.ofNat (now s % 2 ^ 32), Word.ofNat (now s / 2 ^ 32)] ++ digestWords (sha3 Config.identityKey)

/-- Bytes taken to a fixed length. -/
def fitBytes (n : Nat) (b : List Byte) : List Byte := (List.range n).map (fun i => b.getD i 0)

/-- One report (R511). -/
def reportOne (c : Cmd) (s : State) : State :=
  let key := decide (c.argF 0 0 0 = 1)
  if c.dst.len < (if key then 3892 else 2580) then answer 0x5F c BAD_ARGUMENT s
  else if dstBad c s then abortOperand 0x5F c s
  else withLen 0x5F c 32 (fun nonce s =>
    let body := wordsBytes (reportBody key nonce s)
    let b := body ++ fitBytes 2420 (Config.mldsaSign s.free (sha3 body)) ++ (if key then fitBytes 1312 Config.identityKey else [])
    { s with free := s.free + 1 } |> memWrite (opSpace c c.dst s) c.dst.addr b |> addF ATT_STAT_COUNT 1 |> finish 0x5F c DONE 0 b.length 0 |> raise 0x1A1 2) s

/-- The reports asked for in one cycle, one after another in the order of R41; its pointer is no register (log 14). -/
def serveReports (cs : List Cmd) (s : State) : State :=
  let ps := tieSort 8 s.fwu.attPtr Cmd.idx (cs.filter (fun c => !isFw c.who))
  let s := s |> each (cs.filter (fun c => isFw c.who)) reportOne |> each ps reportOne
  if (requesters Cmd.idx ps).length < 2 then s else { s with fwu := { s.fwu with attPtr := (ps.head?.map Cmd.idx).getD 7 } }

/-- ATT_REPORT (R511). -/
def execAttReport (cs : List Cmd) (s : State) : Host.Outcome State Fault Refusal := .next (runTies 0x5F cs serveReports s)

end Sys2Proof.Machine
end

