-- ==== Sys2Proof/Machine/Power.lean ====
section
/-!
DEFINITION. Power states, resets, clocks and shutdown (spec/18 R438–R447, R453, R454; spec/21 R525; spec/22 R533–R535).
-/

namespace Sys2Proof.Machine

/-! ## What power losses and resets take (R31, R525) -/

/-- Registers that keep their values while the main supplies are off: the pages of the cistern and the V-die, and what the
retention store holds (R525, R528). -/
def survives (a : Nat) : Bool :=
  alwaysOn (a / 4096) || a == SYS_RST_CAUSE_CAUSE.addr || a == SYS_WARM_CNT.addr ||
  (List.range 4).any (fun k => a == (SYS_SCRATCH k).addr)

/-- The bindings of partitions, as the cistern processor copied them for SLEEP (R466): HST_BIND, the JMP source, LAST and
the next device SEQ. -/
def copiedBinding (a : Nat) : Bool :=
  a == HST_JMPPORT_PORT.addr || decide (0x190 ≤ a / 4096) && decide (a / 4096 ≤ 0x197) &&
  (decide (a % 4096 = 0x100) || (decide (0x140 ≤ a % 4096) && decide (a % 4096 ≤ 0x150)) || decide (a % 4096 = 0x158) || decide (a % 4096 = 0x15C))

/-- The commands of the hosts have ended: what the rim has in hand goes on without them, and offers of theirs are withdrawn
(R443, R445). -/
def forgetCmds (r : Rim) : Rim :=
  { r with
    offers := r.offers.filter (fun o => o.cue)
    queues := r.queues.map (fun e => (e.1, e.2.map (fun u => { u with cmd := none })))
    persist := []
    writing := r.writing.map (fun w => (w.1, w.2.1, [])) }

/-- The main domains lose their state, HBM included (R31, R443, R525); `keep` names registers that stay besides. -/
def mainLost (keep : Nat → Bool) (s : State) : State :=
  let part (p : Nat) : Part := if (s.prt p).m0 then { s.prt p with gone := [], disp := [], tearing := false } else {}
  { s with
    regs := FMap.keep (fun a => survives a || keep a) s.regs
    hbm := [], poison := [], panel := {}, ras := {}, lnk := {}, cor := {}, str := {}, dec := {}, asm := {}, enc := {}, egr := {}
    cue := {}, cam := {}, slc := {}, rim := forgetCmds s.rim
    hst := { parts := (List.range 8).foldl (fun m p => FMap.set {} m p (part p)) [] }
    evt := { copied := s.evt.copied }
    fwu := { s.fwu with dl := unverified s.fwu.dl, trimDue := false, trimAt := none, copied := false, earlyEnds := false, activate := none, pause := false
                        early := [], earlyW := 0, earlyH := 0, earlyNext := none, feed := none, feedOk := false, recovery := false, rcvSector := none
                        attPtr := 7 }
    pwr := { s.pwr with parked := [], fromBoot := false, wakePending := 0, zones := [], warned := false, thrAge := 0
                        thrHigh := 0, trainFull := false } }
    |> setB PWR_STAT_PENDING_WAKE false

/-- A rim copy that was being written fails its CRC (R385). -/
def tornCopies (s : State) : Option RimCopy × Option RimCopy :=
  match s.rim.writing with
  | some (true, _, _) => (s.rim.copyA, none)
  | some (false, _, _) => (none, s.rim.copyB)
  | none => (s.rim.copyA, s.rim.copyB)

/-- A cold reset (R525): every field at its reset value; flash and fuses are kept. -/
def coldReset (cause : Nat) (vhv : Bool) (s : State) : State :=
  let cs := tornCopies s
  { State.reset with
    hostMem := s.hostMem
    rim := { copyA := cs.1, copyB := cs.2 }
    pwr := { resetLow := true, vhv := vhv, perst := s.pwr.perst }
    fwu := { slotA := s.fwu.slotA, slotB := s.fwu.slotB, bootA := s.fwu.bootA, bootB := s.fwu.bootB
             dl := storedDl s, dlA := s.fwu.dlA, dlB := s.fwu.dlB, cfgA := s.fwu.cfgA, cfgB := s.fwu.cfgB
             fmtA := s.fwu.fmtA, fmtB := s.fwu.fmtB, trainA := s.fwu.trainA, trainB := s.fwu.trainB, svnFuse := s.fwu.svnFuse
             key0Revoked := s.fwu.key0Revoked, erase := s.fwu.erase }
    out := s.out, free := s.free, pending := s.pending }
    |> setF SYS_RST_CAUSE_CAUSE cause |> showDl

/-- MAIN_EN is driven (R439). -/
def driveMainEn (v : Bool) (s : State) : State :=
  if getB PWR_STAT_MAIN_EN s = v then s else
  { s with pwr := { s.pwr with mainPg := s.pwr.mainPg && v } } |> setB PWR_STAT_MAIN_EN v
    |> setB PWR_STAT_MAIN_PG (s.pwr.mainPg && v) |> emit (.mainEn v)

/-- STATE is shown (R440). -/
def setPwr (st : Nat) (s : State) : State := s |> setF PWR_STAT_STATE st |> showPlls

/-- The bindings and routes are copied for the cistern processor (R466, R487). -/
def copyRoutes (s : State) : State :=
  each (List.range 8) (fun p t => t.setPrt p { t.prt p with m0 := decide (transport p t = 2) && decide (getF (HST_JMP_CFG_PORT p) t = 4) })
    { s with evt := { s.evt with copied := s.evt.routes } }

/-! ## STANDBY and SLEEP (R441–R444) -/

/-- The status of a power request (R441); NOT_OWNER is judged before. -/
def powerStatus (target : Nat) (s : State) : Nat :=
  let st := pwrState s
  if st = 3 ∨ st = 4 ∨ st = 5 ∨ (st = 6 ∧ stage s ≠ 1) ∨ s.fwu.pause = true then BUSY
  else if target = 3 ∨ (st = 6 ∧ target = 0) ∨ target = st ∨ (st = 2 ∧ target = 1) then BAD_ARGUMENT
  else ACCEPTED

/-- The main supplies are requested for a wake from SLEEP (R444). -/
def raiseMain (s : State) : State := s |> setPwr 4 |> driveMainEn true

/-- A wake starts, from the sources of `mask` that are enabled (R444, R445). -/
def wake (mask : Nat) (s : State) : State :=
  let m := Nat.land mask (rd PWR_WAKE_EN_WAKE_N.addr s).toNat
  let st := pwrState s
  if m = 0 then s
  else if st = 3 then { s with pwr := { s.pwr with wakePending := Nat.lor s.pwr.wakePending m } } |> setB PWR_STAT_PENDING_WAKE true
  else if st = 1 then { s with pwr := { s.pwr with trainFull := false } } |> setF PWR_WAKE_SRC_SRC m |> setPwr 4 |> raise 2 3
  else if st = 2 then s |> setF PWR_WAKE_SRC_SRC m |> raise 2 3 |> raiseMain
  else s

/-- Entry into STANDBY begins (R442). -/
def enterStandby (s : State) : State :=
  { s with pwr := { s.pwr with parked := [], fromBoot := decide (pwrState s = 6) } } |> setF PWR_LAST_CAUSE 1 |> setPwr 3

/-- Entry into SLEEP (R443): outstanding commands complete with ABORTED, the main pages go OFF, and MAIN_EN falls. -/
def enterSleep (s : State) : State :=
  let s := s |> setPwr 3 |> copyRoutes |> corAbort |> slcDown |> each (List.range 8) (abortOutstanding none)
  let s := s |> mainLost copiedBinding |> driveMainEn false |> setF PWR_LAST_CAUSE 1
  { s with pwr := { s.pwr with warmCause := 3 } } |> setPwr 2 |> raise 2 2

/-- An accepted power request takes effect (R441). -/
def applyPower (target : Nat) (s : State) : State :=
  if target = 0 then wake 8 s else if target = 1 then enterStandby s else enterSleep s

/-- One PWR_SET of the owner, judged against the state as it stands. -/
def powerOne (c : Cmd) (s : State) : State :=
  let t := c.argF 0 1 0
  let r := powerStatus t s
  s |> answer 0x50 c r |> ifS (decide (r = ACCEPTED)) (applyPower t)

/-- The partitions' power requests of one cycle: those that would be accepted are a tie on PWR_TIE (R441). -/
def settlePower (cs : List Cmd) (s : State) : State :=
  let s := each (cs.filter (fun c => !isOwner c.who 2 s)) (answer 0x50 · NOT_OWNER) s
  let own := cs.filter (fun c => isOwner c.who 2 s)
  let ok := tieSort 8 (getF PWR_TIE_PTR s) Cmd.idx (own.filter (fun c => decide (powerStatus (c.argF 0 1 0) s = ACCEPTED)))
  if (requesters Cmd.idx ok).length < 2 then each own powerOne s
  else match ok with
    | [] => s
    | c :: r =>
      let s := each (own.filter (fun c => decide (powerStatus (c.argF 0 1 0) s ≠ ACCEPTED))) powerOne s
      let s := each r (answer 0x50 · LOST_TIE) s
      s |> setF PWR_TIE_PTR c.idx |> powerOne c

/-- PWR_SET (R441): the firmware's requests come first (R546). A request in the activation pause waits for its end (R508). -/
def execPwrSet (cs : List Cmd) (s : State) : Host.Outcome State Fault Refusal :=
  .next (if s.fwu.pause then s else runTies 0x50 cs (fun cs s =>
    settlePower (cs.filter (fun c => !isFw c.who)) (each (cs.filter (fun c => isFw c.who)) powerOne s)) s)

/-- Every main-domain page reads PARKED or OFF, but for those without an idle point, which park with the entry's last step,
and those in FAULT, which never read ON again by themselves (R442, log 32). -/
def allParked (s : State) : Bool :=
  allPages.all (fun q => alwaysOn q || !hasLifecycle q || q == 0x198 || q == 0x1A0 || [0, 5, 7].contains (blockState q s))

/-- STANDBY_ENTERED (R442): the stacks are in self-refresh, the fast clocks stop; a wake that waits follows at once. -/
def execStandbyEntered (s : State) : Host.Outcome State Fault Refusal :=
  .next (if pwrState s ≠ 3 ∨ !allParked s then s else
    let late := [0x1A0, 0x198].filter (fun q => isOn q s)
    let s := each late parkBlock s
    let s := each (List.range 4) (fun i t => ifS (decide (blockState (0x170 + i) t = 5)) (selfRefresh i) t) (copyRoutes s)
    let w := s.pwr.wakePending
    let s := { s with pwr := { s.pwr with parked := late ++ s.pwr.parked, wakePending := 0 } }
    s |> setPwr 1 |> raise 2 2 |> setB PWR_STAT_PENDING_WAKE false |> wake w)

/-- WAKE_N_LOW (R444). -/
def execWakeNLow (s : State) : Host.Outcome State Fault Refusal := .next (wake 1 s)

/-- TIMED_WAKE (R444): the selected time reaches PWR_WAKE_AT, once for each value written. -/
def execTimedWake (s : State) : Host.Outcome State Fault Refusal :=
  let t := getF PWR_WAKE_AT_HI s * 2 ^ 32 + getF PWR_WAKE_AT_LO s
  .next (if !getB TIM_STAT_SEL_VALID s || !reached t s || s.pwr.timedDone then s
    else { s with pwr := { s.pwr with timedDone := true } } |> wake 4)

/-- Deliveries to PCIe partitions held in STANDBY are made (R487). -/
def releaseHeld (s : State) : State :=
  let h := s.evt.held
  each h (fun e t => deliverTo e.1 e.2 (FMap.get {} t.evt.copied e.2).vector t) { s with evt := { s.evt with held := [] } }

/-- STANDBY_WAKE_DONE (R444): the stacks are up again; what the entry parked reads ON. -/
def execStandbyWakeDone (s : State) : Host.Outcome State Fault Refusal :=
  .next (if pwrState s ≠ 4 ∨ !mainOn s ∨ hbmPages.any (fun q => s.pwr.parked.contains q && decide (blockState q s = 5) &&
      getB (HBM_STAT_SELF_REFRESH (q - 0x170)) s) then s
    else
      let ps := s.pwr.parked
      let s := s |> setF PWR_STAT_STATE (if s.pwr.fromBoot then 6 else 0)
      let s := each ps (fun q t => ifS (decide (blockState q t = 5)) (unpark q) t) s
      { s with pwr := { s.pwr with parked := [], fromBoot := false } } |> showPlls |> releaseHeld)

/-! ## Main supplies (R439, R445, R497, R498, R533) -/

/-- The device boots: registers of the main domains at reset, STATE BOOTING, and the ROM selects an image (R497, R498). -/
def boot (s : State) : State :=
  let c := s.pwr.warmCause
  let s := mainLost (fun _ => false) s
  let s := { s with pwr := { s.pwr with warmCause := 0, sensors := [], sinceTrip := 0, cool := 0 } }
  let s := ifS (decide (c ≠ 0)) (fun s => s |> setF SYS_RST_CAUSE_CAUSE c |> addF SYS_WARM_CNT 1) s
  s |> setPwr 6 |> showDl

/-- The ROM's work at power-good: recovery if WAKE_N was low at the release of RESET_N, else the selection of R497. -/
def romStarts (s : State) : State :=
  if s.pwr.wakeAtRelease then { s with pwr := { s.pwr with wakeAtRelease := false } } |> enterRecovery else romSelect s

/-- MAIN_PG_RISE (R497); while MAIN_EN is low it is ignored and PWR enters FAULT (R535). -/
def execMainPgRise (s : State) : Host.Outcome State Fault Refusal :=
  .next (if !s.pwr.vhv ∨ s.pwr.resetLow then s
    else if !getB PWR_STAT_MAIN_EN s then ifS (decide (getF (PG_STAT_STATE 2) s ≠ 7)) (enterFault 2 1) s
    else if s.pwr.mainPg then s
    else { s with pwr := { s.pwr with mainPg := true } } |> setB PWR_STAT_MAIN_PG true |> boot |> romStarts)

/-- The main supplies are gone: the device is in SLEEP, without completions (R445, R533). -/
def mainFails (warm : Nat) (s : State) : State :=
  let s := s |> mainLost copiedBinding |> driveMainEn false |> setF PWR_LAST_CAUSE 2
  { s with pwr := { s.pwr with warmCause := warm } } |> setPwr 2 |> raise 2 4

/-- MAIN_PG_FALL (R445). -/
def execMainPgFall (s : State) : Host.Outcome State Fault Refusal := .next (ifS (mainOn s) (fun s => s |> copyRoutes |> mainFails 4) s)

/-- MAIN_PG_TIMEOUT (R533). -/
def execMainPgTimeout (s : State) : Host.Outcome State Fault Refusal :=
  .next (ifS (getB PWR_STAT_MAIN_EN s && !s.pwr.mainPg) (mainFails (if s.pwr.warmCause = 0 then 4 else s.pwr.warmCause)) s)

/-! ## RESET_N, VHV, PERST_N (R383, R384, R445, R446, R534, R535) -/

/-- RESET_N_LOW (R445, R535). -/
def execResetNLow (s : State) : Host.Outcome State Fault Refusal :=
  .next (ifS (s.pwr.vhv && !s.pwr.resetLow) (fun s => s |> driveMainEn false |> coldReset 2 true) s)

/-- POWER_UP of the configuration store reads SLEEP (R446, R504). -/
def powerUpSleeps (s : State) : Bool :=
  decide (wordAt (bytesWords (FMap.get [] (halfItems (bootRec s).cfgHalf s) 1)) 0 = 1)

/-- RESET_N_RELEASE (R446, R464, R534, R535). -/
def execResetNRelease (pcieBif : Fin 4) (wakeLow : Bool) (s : State) : Host.Outcome State Fault Refusal :=
  .next (if !s.pwr.vhv || !s.pwr.resetLow then s else
    let s := { s with pwr := { s.pwr with resetLow := false, pcieBif := pcieBif.val, wakeAtRelease := wakeLow } }
    if powerUpSleeps s then { s with pwr := { s.pwr with warmCause := 6 } } |> setPwr 2 else raiseMain s)

/-- VHV_LOSS (R383, R384, R535): the rim's line completes from RIM_HOLD; without another supply the device is OFF. -/
def execVhvLoss (v : VhvFall) (s : State) : Host.Outcome State Fault Refusal :=
  .next (if !s.pwr.vhv then s else
    let s := s |> raise 0x180 7 |> countF RIM_LOSS |> setB RIM_STAT_VHV_LOW true |> showInhibit
    let s := if v.held then finishLine s else dropLine s
    if v.only then s |> corAbort |> slcDown |> driveMainEn false |> coldReset 1 false else s)

/-- VHV_RISE (R384, R534): from OFF it is a cold reset; otherwise the rim's running update goes on. -/
def execVhvRise (s : State) : Host.Outcome State Fault Refusal :=
  .next (if !s.pwr.vhv then coldReset 1 true s
    else if getB RIM_STAT_VHV_LOW s then s |> setB RIM_STAT_VHV_LOW false |> showInhibit |> rimServe
    else s)

/-- A PCIe port is reset: its functions' configuration space and MSI-X tables (R525), and its link. -/
def portReset (port : Nat) (s : State) : State :=
  each (List.range 8) (fun p t =>
    ifS (decide (transport p t = 1) && decide (getF (HST_BIND_PORT p) t = port)) (State.setMsixT p {}) t) (s.setLinkUp port false)

/-- PERST_N_CHANGE (R534). -/
def execPerstNChange (port : Fin 4) (high : Bool) (s : State) : Host.Outcome State Fault Refusal :=
  let s := { s with pwr := { s.pwr with perst := FMap.set false s.pwr.perst port.val high } }
  .next (if high then s else portReset port.val s)

/-! ## Thermal shutdown (R453, R454) -/

/-- The package is shut down (R453): BLANK on every lane from LOCKED onwards, the dies held in reset, the sensor arrays
running on. The bindings are copied for the cistern processor, as for SLEEP (DEDUCED, log 35). -/
def shutDown (cause : Nat) (trip : Option (Nat × Int)) (s : State) : State :=
  let s := each (List.range 1024) (sendBlank 3) s
  let s := mainLost (fun a => copiedBinding a || (decide (4 ≤ a / 4096) && decide (a / 4096 ≤ 7))) (copyRoutes s)
  let s := { s with pwr := { s.pwr with warmCause := 5, sinceTrip := 0, cool := 0 } }
  let s := match trip with
    | some e => s |> setF PWR_TRIP_SENSOR e.1 |> setF PWR_TRIP_TEMP (ofSigned 16 e.2)
    | none => s
  s |> setF PWR_LAST_CAUSE cause |> countF PWR_SHUTDOWNS |> setPwr 5

/-- THERMAL_TRIP (R453). -/
def execThermalTrip (src : TripSource) (s : State) : Host.Outcome State Fault Refusal :=
  .next (if !mainOn s || decide (pwrState s = 5) then s else
    match src with
    | .comparator n t =>
      ifS (decide (n < 72) && decide (2 ≤ (s.thSensor n).hot) && decide (t = sensorTemp n s)) (shutDown 3 (some (n, t))) s
    | .stack i => ifS (decide (i < 4)) (shutDown 4 none) s
    | .dieBlind d => ifS (decide (d < 8) && (dieSensors d).all (fun n => sensorExcluded n s)) (shutDown 5 none) s)

/-- THERMAL_RESTART (R454): 10 s after the trip and 1 s of cool conversions, at 10,000 conversions a second. -/
def execThermalRestart (s : State) : Host.Outcome State Fault Refusal :=
  .next (if pwrState s ≠ 5 ∨ s.pwr.cool < 10000 ∨ s.pwr.sinceTrip < 100000 then s
    else s |> boot |> raise 2 5 |> romStarts)

/-! ## Clocks (R447, R460) -/

/-- PLL_UNLOCK (R447): 0–3 RCLK of an S-die, 4 decode clock, 5 hub fabric clock, and 6 + p the lane PLL of LNK page
0x100 + p, which also LANE_PLL_UNLOCK tells of. -/
def execPllUnlock (pll : Fin 70) (s : State) : Host.Outcome State Fault Refusal :=
  let k := pll.val
  .next (if k < 4 then ifS (bitOf (getF CLK_STAT_RCLK s) k) (fun s => s |> unlocked |> blockFaults (0x80 + 2 * k) 1 |> blockFaults (0x81 + 2 * k) 1) s
    else if k = 4 then
      ifS (getB CLK_STAT_DEC s) (fun s => each (List.range 24) (fun i => blockFaults (0x40 + i) 1) (unlocked s)) s
    else if k = 5 then ifS (getB CLK_STAT_HUB s) (fun s => s |> unlocked |> shutDown 6 none) s
    else unlockLanes (k - 6) s)

/-- The field of CLK_STAT of a reference: 0 network, 1 PCIe, 2 lane, 3 AOCLK. -/
def refField (ref : Nat) : Fld :=
  if ref = 0 then CLK_STAT_REF_NET else if ref = 1 then CLK_STAT_REF_PCIE else if ref = 2 then CLK_STAT_REF_LANE else CLK_STAT_AOCLK

/-- REF_LOST (R447): the PLLs that the reference feeds lose lock: those of the running NET ports, the PCIe links, or the
lane PLLs of the running LNK pages; the loss of AOCLK is AOCLK_LOSS. -/
def execRefLost (ref : Fin 4) (s : State) : Host.Outcome State Fault Refusal :=
  .next (if !getB (refField ref.val) s then s else
    let s := s |> setB (refField ref.val) false |> raise 1 3
    if ref.val = 0 then each ((List.range 5).filter (fun p => [1, 2, 3, 4].contains (blockState (0x20 + p) s))) (fun p t => t |> unlocked |> blockFaults (0x20 + p) 1) s
    else if ref.val = 1 then each (List.range 4) (fun p t => t.setLinkUp p false) s
    else if ref.val = 2 then each (List.range 64) unlockLanes s
    else s)

/-- REF_CLOCK_RETURN (R447, R460). -/
def execRefClockReturn (ref : Fin 4) (s : State) : Host.Outcome State Fault Refusal :=
  .next (ifS s.pwr.vhv (setB (refField ref.val) true) s)

end Sys2Proof.Machine
end

