-- ==== Sys2Proof/Machine/Host.lean ====
section
/-!
DEFINITION. Hosts (spec/19): command and completion rings, descriptor checks, semaphores, grants, windows, event routes
and PCIe functions.
-/

namespace Sys2Proof.Machine

/-! ## Descriptors (R476, R477) -/

/-- The opcodes of R482 and R506. -/
def opcodes : List Nat :=
  [0x01, 0x02, 0x03, 0x04, 0x05, 0x08, 0x09, 0x0A, 0x0B, 0x0C, 0x0D, 0x0E, 0x0F, 0x10, 0x11, 0x12, 0x13, 0x18, 0x19, 0x1A,
    0x1B, 0x1C, 0x1D, 0x1E, 0x1F, 0x20, 0x21, 0x28, 0x29, 0x2A, 0x2B, 0x2C, 0x2D, 0x30, 0x31, 0x32, 0x38, 0x39, 0x3A, 0x3B] ++
  [0x3C, 0x3D, 0x3E, 0x40, 0x41, 0x42, 0x43, 0x44, 0x48, 0x49, 0x4A, 0x50, 0x51, 0x58, 0x59, 0x5A, 0x5B, 0x5C, 0x5D, 0x5E, 0x5F]

/-- The argument bits that R482 and R506 list for an opcode: ARG0, ARG1, ARG2; the other ARG words are reserved. -/
def argMasks (op : Nat) : Nat × Nat × Nat :=
  match op with
  | 0x03 => (0x3F, 0, 0)
  | 0x04 | 0x1F | 0x29 | 0x3B => (0xF, 0, 0)
  | 0x05 => (0x303FF, 0, 0)
  | 0x08 | 0x09 | 0x11 | 0x13 | 0x1D | 0x1E => (0x3FF, 0, 0)
  | 0x0A | 0x0D => (0xFFFFFFFF, 0, 0)
  | 0x0C | 0x48 => (0xFFFFFFFF, 1, 0)
  | 0x0E | 0x5F => (1, 0, 0)
  | 0x19 | 0x1B | 0x32 | 0x38 => (0xFF, 0, 0)
  | 0x1A => (0x10FFF, 0xFFFFFFFF, 0xFFFFFFFF)
  | 0x1C => (0xFFF, 0, 0)
  | 0x2A | 0x2D | 0x31 | 0x42 => (0x7, 0, 0)
  | 0x2B => (0x3F, 0, 0)
  | 0x39 => (0x1F1FFFFF, 0, 0)
  | 0x3A => (0xF, 0x80000007, 0)
  | 0x3C => (0xF, 0xFF, 0)
  | 0x40 => (0xC0017FFF, 0, 0)
  | 0x43 => (0x37, 0, 0)
  | 0x50 => (0x3, 0, 0)
  | 0x59 => (0x1FF, 0, 0)
  | 0x5E => (0x8000FFFF, 0, 0)
  | _ => (0, 0, 0)

/-- The command a descriptor of partition `p` gives (R476). -/
def parseCmd (p : Fin 8) (ws : List Word) : Cmd where
  who := .part p
  tag := fieldAt ws 0 15 0
  notify := decide (fieldAt ws 0 22 22 = 1)
  src := ⟨fieldAt ws 5 31 30, wordAt ws 1 + 2 ^ 32 * wordAt ws 2, wordAt ws 6⟩
  dst := ⟨fieldAt ws 5 29 28, wordAt ws 3 + 2 ^ 32 * wordAt ws 4, wordAt ws 7⟩
  args := (ws.drop 8).take 7

/-- A reserved bit or word is nonzero, or an operand of space NONE has an address or a length (R476, R477). -/
def descReserved (op : Nat) (c : Cmd) (ws : List Word) : Bool :=
  let m := argMasks op
  let extra (v k : Nat) : Bool := decide (Nat.land v k ≠ v)
  decide (fieldAt ws 0 21 16 ≠ 0) || decide (fieldAt ws 5 27 0 ≠ 0) || decide (wordAt ws 15 ≠ 0) ||
  extra (c.arg 0) m.1 || extra (c.arg 1) m.2.1 || extra (c.arg 2) m.2.2 ||
  decide (c.arg 3 ≠ 0) || decide (c.arg 4 ≠ 0) || decide (c.arg 5 ≠ 0) || decide (c.arg 6 ≠ 0) ||
  (decide (c.src.space = 0) && (decide (c.src.addr ≠ 0) || decide (c.src.len ≠ 0))) ||
  (decide (c.dst.space = 0) && (decide (c.dst.addr ≠ 0) || decide (c.dst.len ≠ 0)))

/-- An operand keeps R472 or R473; a DMA_COPY may also name a buffer of a HOST plane of its giver (R266, R472). -/
def operandOk (op p : Nat) (o : Operand) (s : State) : Bool :=
  if o.space = 0 then true
  else if o.space = 2 then inHostWindow p o.addr o.len s
  else inRegion p o.addr o.len s || (decide (op = 0x21) && inHostPlane p o.addr o.len s)

/-- The first failure of R477; 0 when the descriptor passes. -/
def descReason (p op : Nat) (c : Cmd) (ws : List Word) (s : State) : Nat :=
  let host := decide (c.src.space = 2) || decide (c.dst.space = 2)
  if !opcodes.contains op then 1
  else if descReserved op c ws then 2
  else if c.src.space = 3 ∨ c.dst.space = 3 ∨ (host = true ∧ transport p s = 2) then 3
  else if !operandOk op p c.src s || !operandOk op p c.dst s then 4
  else 0

/-- Space is left in the completion ring for one more command (R478). -/
def ringRoom (p : Nat) (s : State) : Bool :=
  let used := (getF (HST_CPL_TAIL_IDX p) s + 65536 - getF (HST_CPL_HEAD_IDX p) s) % 65536
  decide (2 * (getF (HST_RING_STAT_OUTSTANDING p) s + 1) + used ≤ 2 * ringN p s)

/-- The ring of partition `p` may fetch (R475, R478, R480, R508). -/
def ringRuns (p : Nat) (s : State) : Bool :=
  isOn (0x190 + p) s && getB (HST_RING_CTRL_RUN p) s && !getB (HST_RING_STAT_STOPPED p) s && !s.fwu.pause

/-- A fetched descriptor is checked, and dispatched or completed (R477). -/
def dispatch (p : Fin 8) (ws : List Word) (s : State) : State :=
  let op := fieldAt ws 0 31 24
  let c := parseCmd p ws
  let s := addF (HST_CMD_HEAD_IDX p.val) 1 s
  let r := descReason p.val op c ws s
  if r = 0 then
    let s := addF (HST_RING_STAT_OUTSTANDING p.val) 1 s
    let t := s.prt p.val
    s.setPrt p.val { t with disp := t.disp ++ [⟨op, c, decide (fieldAt ws 0 23 23 = 1), false⟩] }
  else
    s |> setF (HST_CMDREJ_REASON p.val) r |> setF (HST_CMDREJ_TAG p.val) c.tag
      |> writeCpl p.val true (refOf op c) (if r = 4 then NOT_OWNER else BAD_ARGUMENT) r 0 0
      |> ifS (updateOp op) (raise 0x1A0 8)

/-- Where the next descriptor of partition `p` lies (R475). -/
def descAddr (p : Nat) (s : State) : Nat := cmdBase p s + 64 * (getF (HST_CMD_HEAD_IDX p) s % ringN p s)

/-- The next descriptor's words. -/
def fetchWords (p : Nat) (s : State) : List Word := bytesWords (memRead (ringSpace p s) (descAddr p s) 64 s)

/-- The next descriptor has FENCE = 1 and waits for the commands before it (R476). DESIGN CHOICE (log 72): it is fetched only then, so
that it is checked, as every descriptor is, as it is dispatched (R473, R477). -/
def fenceWaits (p : Nat) (s : State) : Bool :=
  decide (fieldAt (fetchWords p s) 0 23 23 = 1) && decide (getF (HST_RING_STAT_OUTSTANDING p) s ≠ 0)

/-- The ring stops for a fetch or a completion write that failed (R480). -/
def stopRing (p : Nat) (completion : Bool) (s : State) : State :=
  s |> setB (HST_RING_STAT_STOPPED p) true |> hostError p (if completion then 3 else 2)

/-- DESCRIPTOR_FETCH (R475–R478); where the ring cannot be reached the fetch fails (R410, R480). -/
def execDescriptorFetch (p : Fin 8) (s : State) : Host.Outcome State Fault Refusal :=
  let i := p.val
  .next (if !ringRuns i s || decide (getF (HST_CMD_HEAD_IDX i) s = getF (HST_CMD_TAIL_IDX i) s) || !ringRoom i s then s
    else if ringDown i (descAddr i s) 64 s then stopRing i false s
    else if fenceWaits i s then s
    else dispatch p (fetchWords i s) s)

/-- NOP (R482). -/
def execNop (c : Cmd) (s : State) : Host.Outcome State Fault Refusal := .next (runCmd 0x51 c (answer 0x51 c DONE) s)

/-- The newest completion record of partition `p`, which the host has not taken, could not be written: it is discarded (R480). -/
def undoCpl (p : Nat) (s : State) : State :=
  match (s.prt p).lastCpl with
  | none => s
  | some (j, old) =>
    if getF (HST_CPL_TAIL_IDX p) s ≠ (j + 1) % 65536 ∨ getF (HST_CPL_HEAD_IDX p) s = (j + 1) % 65536 then s
    else s |> State.setPrt p { s.prt p with lastCpl := none } |> setF (HST_CPL_TAIL_IDX p) j
      |> memWrite (ringSpace p s) (cplAddr p j s) old |> stopRing p true

/-- RING_FETCH_FAIL (R480): a descriptor fetch fails on PCIe, or the write of the newest completion record, and the ring stops. -/
def execRingFetchFail (p : Fin 8) (completion : Bool) (s : State) : Host.Outcome State Fault Refusal :=
  let i := p.val
  .next (if !getB (HST_RING_CTRL_RSPACE i) s then s
    else if completion then undoCpl i s else ifS (ringRuns i s) (stopRing i false) s)

/-! ## Ring registers (R475, R488) -/

/-- The page of partition `p` takes its ring writes from `p`, its PG_OWNER and the acting administrator (R471, R475). -/
def mayRing (who : Who) (p : Nat) (s : State) : Bool := isPart who p || mayWrite who (0x190 + p) s

/-- A write of CMD_TAIL (R475). -/
def writeTail (p v : Nat) (s : State) : State :=
  if ringN p s < (v % 65536 + 65536 - getF (HST_CMD_HEAD_IDX p) s) % 65536 then hostError p 1 s
  else setF (HST_CMD_TAIL_IDX p) v s

/-- A write of CPL_HEAD (R475). -/
def writeHead (p v : Nat) (s : State) : State :=
  let h := getF (HST_CPL_HEAD_IDX p) s
  if (getF (HST_CPL_TAIL_IDX p) s + 65536 - h) % 65536 < (v % 65536 + 65536 - h) % 65536 then hostError p 1 s
  else setF (HST_CPL_HEAD_IDX p) v s

/-- A write of RUN; from 0 to 1 it clears STOPPED (R480). -/
def writeRun (p : Nat) (run : Bool) (s : State) : State :=
  s |> ifS (run && !getB (HST_RING_CTRL_RUN p) s) (setB (HST_RING_STAT_STOPPED p) false) |> setB (HST_RING_CTRL_RUN p) run

/-- The ring's place and size may be written (R475). -/
def ringIdle (p : Nat) (s : State) : Bool :=
  !getB (HST_RING_CTRL_RUN p) s && decide (getF (HST_RING_STAT_OUTSTANDING p) s = 0)

/-- A write of HST_RING_CTRL: RSPACE and LOG2, stored within 4–14, only while the ring is idle; then RUN. -/
def writeRingCtrl (p v : Nat) (s : State) : State :=
  s |> ifS (ringIdle p s) (fun s => s |> setB (HST_RING_CTRL_RSPACE p) (bitOf v 30) |> setF (HST_RING_CTRL_LOG2 p) (clampN (v % 16) 4 14))
    |> writeRun p (bitOf v 31)

/-- HST_CMD_TAIL_WRITE (R475). -/
def execHstCmdTailWrite (who : Who) (p : Fin 8) (v : Word) (s : State) : Host.Outcome State Fault Refusal :=
  .next (guardWrite who (0x190 + p.val) (HST_CMD_TAIL_IDX p.val).addr (mayRing who p.val s) (writeTail p.val v.toNat) s)

/-- HST_CPL_HEAD_WRITE (R475). -/
def execHstCplHeadWrite (who : Who) (p : Fin 8) (v : Word) (s : State) : Host.Outcome State Fault Refusal :=
  .next (guardWrite who (0x190 + p.val) (HST_CPL_HEAD_IDX p.val).addr (mayRing who p.val s) (writeHead p.val v.toNat) s)

/-- HST_RING_RUN (R475, R480). -/
def execHstRingRun (who : Who) (p : Fin 8) (run : Bool) (s : State) : Host.Outcome State Fault Refusal :=
  .next (guardWrite who (0x190 + p.val) (HST_RING_CTRL_RUN p.val).addr (mayRing who p.val s) (writeRun p.val run) s)

/-! ## Semaphores (R484) -/

/-- The outcome of a semaphore write is recorded in the writer's page. -/
def semResult (who : Who) (n status : Nat) (s : State) : State :=
  match who with
  | .fw => s
  | .part p => s |> setF (HST_SEMRES_STATUS p.val) status |> setF (HST_SEMRES_SEM p.val) n

/-- The writer holds semaphore `n`. -/
def holdsSem (who : Who) (n : Nat) (s : State) : Bool :=
  getB (HST_SEM_HELD n) s && (match who with
    | .fw => s.hst.fwSems.contains n
    | .part p => decide (getF (HST_SEM_HOLDER n) s = p.val) && !s.hst.fwSems.contains n)

/-- The writer becomes the holder. -/
def takeSem (who : Who) (n : Nat) (s : State) : State :=
  let s := setB (HST_SEM_HELD n) true s
  match who with
  | .fw => { s with hst := { s.hst with fwSems := n :: s.hst.fwSems } } |> setF (HST_SEM_HOLDER n) 0
  | .part p => setF (HST_SEM_HOLDER n) p.val s

/-- One ACQUIRE against the state as it stands. -/
def acquireSem (n : Nat) (s : State) (who : Who) : State :=
  if holdsSem who n s then semResult who n DONE s
  else if getB (HST_SEM_HELD n) s then semResult who n BUSY s
  else s |> takeSem who n |> semResult who n DONE

/-- The ACQUIREs of one cycle on semaphore `n`: firmware first, then the partitions, a tie on HST_SEM_TIE if it is free
(R41, R484, R546). -/
def settleSem (reqs : List (Who × Fin 64)) (s : State) (n : Nat) : State :=
  let mine := (reqs.filter (fun r => decide (r.2.val = n))).map (fun r => r.1)
  let s := (mine.filter (fun w => isFw w)).foldl (acquireSem n) s
  let ps := tieSort 8 (getF HST_SEM_TIE_PTR s) whoIdx ((mine.filter (fun w => !isFw w)).eraseDups)
  match ps with
  | w :: a :: r =>
    if getB (HST_SEM_HELD n) s then ps.foldl (acquireSem n) s
    else (a :: r).foldl (fun t x => semResult x n LOST_TIE t) (s |> (fun s => acquireSem n s w) |> setF HST_SEM_TIE_PTR (whoIdx w))
  | ps => ps.foldl (acquireSem n) s

/-- HST_SEM_ACQUIRE (R484): ties on several semaphores are settled in ascending number. -/
def execHstSemAcquire (reqs : List (Who × Fin 64)) (s : State) : Host.Outcome State Fault Refusal :=
  .next (if !answers 0x190 s then each reqs (fun r => badAccess true false r.1 (HST_SEM_HELD r.2.val).addr) s
    else (List.range 64).foldl (settleSem reqs) s)

/-- A RELEASE (R484). -/
def releaseSem (who : Who) (n : Nat) (s : State) : State :=
  if holdsSem who n s then
    { s with hst := { s.hst with fwSems := s.hst.fwSems.filter (fun k => decide (k ≠ n)) } } |> freeSem n |> semResult who n DONE
  else semResult who n NOT_OWNER s

/-- HST_SEM_RELEASE (R484). -/
def execHstSemRelease (who : Who) (n : Fin 64) (s : State) : Host.Outcome State Fault Refusal :=
  .next (guardWrite who 0x190 (HST_SEM_HELD n.val).addr true (releaseSem who n.val) s)

/-! ## Grants, windows, the administrator (R470, R472, R473) -/

/-- A region in MiB lies within the HOST class and shares no MiB with any other region (R411, R472). -/
def regionOk (p k base size : Nat) (s : State) : Bool :=
  decide (size = 0) ||
  (decide (hostClass ≤ base * 2 ^ 20) && decide ((base + size) * 2 ^ 20 + correctionSize s.panel.map ≤ hbmTop) &&
    (List.range 8).all (fun q => (List.range 8).all (fun j =>
      let b := getF (HST_REG_BASE q j) s
      let z := getF (HST_REG_SIZE q j) s
      decide (q = p ∧ j = k) || decide (z = 0) || decide (base + size ≤ b) || decide (b + z ≤ base))))

/-- A region write (R472). -/
def writeRegion (who : Who) (p k : Nat) (size : Bool) (v : Nat) (s : State) : State :=
  let b := if size then getF (HST_REG_BASE p k) s else v
  let z := if size then v else getF (HST_REG_SIZE p k) s
  if blockState (0x190 + p) s = 0 ∧ regionOk p k b z s = true then
    s |> setF (HST_REG_BASE p k) b |> setF (HST_REG_SIZE p k) z
  else rejectWrite who s

/-- HST_REG_WRITE (R472): from the acting administrator only (R470). -/
def execHstRegWrite (who : Who) (p k : Fin 8) (size : Bool) (v : Word) (s : State) : Host.Outcome State Fault Refusal :=
  .next (guardWrite who (0x190 + p.val) (if size then HST_REG_SIZE p.val k.val else HST_REG_BASE p.val k.val).addr (isAdmin who s)
    (writeRegion who p.val k.val size v.toNat) s)

/-- The address of word `w` of host window `k`. -/
def hwinAddr (p k w : Nat) : Nat := (HST_HWIN_BASE_LO_ADDR p k).addr + 4 * w

/-- A write of word `w` of a host window: BASE and SIZE are multiples of 4,096 (R473). -/
def writeHwin (p k w v : Nat) (s : State) : State :=
  wr (hwinAddr p k w) (Word.ofNat (if w % 2 = 0 then v / 4096 * 4096 else v)) s

/-- HST_HWIN_WRITE (R473): only partition `p` writes its windows. -/
def execHstHwinWrite (who : Who) (p : Fin 8) (k w : Fin 4) (v : Word) (s : State) : Host.Outcome State Fault Refusal :=
  .next (guardWrite who (0x190 + p.val) (hwinAddr p.val k.val w.val) (isFw who || isPart who p.val)
    (writeHwin p.val k.val w.val v.toNat) s)

/-- HST_ADMIN_WRITE (R470). -/
def execHstAdminWrite (who : Who) (v : Word) (s : State) : Host.Outcome State Fault Refusal :=
  .next (guardWrite who 0x190 HST_ADMIN_ADMIN.addr (isAdmin who s) (setF HST_ADMIN_ADMIN v.toNat) s)

/-! ## Events at the host (R485, R490) -/

/-- EVT_SEL_WRITE (R490). -/
def execEvtSelWrite (who : Who) (v : Word) (s : State) : Host.Outcome State Fault Refusal :=
  .next (guardWrite who 0x198 EVT_SEL_SEL.addr (mayWrite who 0x198 s) (setF EVT_SEL_SEL v.toNat) s)

/-- A write of EVT_ROUTE of the selected event (R490). -/
def writeRoute (v : Nat) (s : State) : State :=
  s.setRoute (getF EVT_SEL_SEL s) { written := true, parts := bitsOf v 23 16, vector := bitsOf v 5 0 }

/-- HST_EPEND_CLEAR (R485). -/
def execHstEpendClear (who : Who) (p : Fin 8) (w : Fin 64) (mask : Word) (s : State) : Host.Outcome State Fault Refusal :=
  .next (guardWrite who (0x190 + p.val) (HST_EPEND p.val w.val).addr (mayRing who p.val s)
    (clearF (HST_EPEND p.val w.val) mask.toNat) s)

/-! ## PCIe functions (R463–R465, R486, R525) -/

/-- The port exists under PCIE_BIF (R464). -/
def portExists (port : Nat) (s : State) : Bool :=
  decide (port < (if s.pwr.pcieBif = 1 then 2 else if s.pwr.pcieBif = 2 then 4 else 1))

/-- Partitions bound to a PCIe port. -/
def portParts (port : Nat) (s : State) : List Nat :=
  (List.range 8).filter (fun p => decide (transport p s = 1) && decide (getF (HST_BIND_PORT p) s = port))

/-- PCIE_LINK_CHANGE (R464, R486, R525, R534). -/
def execPcieLinkChange (port : Fin 4) (what : LinkChange) (s : State) : Host.Outcome State Fault Refusal :=
  .next (match what with
    | .up => ifS (FMap.get false s.pwr.perst port.val && portExists port.val s && mainOn s && (!(portParts port.val s).isEmpty || (inRecovery s && decide (port.val = 0))))
        (State.setLinkUp port.val true) s
    | .down => portReset port.val s
    | .hotReset => each (portParts port.val s) (fun p => State.setMsixT p {}) s)

/-- FUNCTION_LEVEL_RESET (R525): the function's configuration space and MSI-X table. -/
def execFunctionLevelReset (p : Fin 8) (s : State) : Host.Outcome State Fault Refusal :=
  .next (ifS (decide (transport p.val s = 1)) (State.setMsixT p.val {}) s)

end Sys2Proof.Machine
end

