-- ==== Sys2Proof/Machine/RegWrite.lean ====
section
/-!
DEFINITION. Register writes and reads of every page (R465, R470, R471, R514, R515, R521–R524), and the accesses of PCIe
functions to the register space and to the window onto HBM (R465, R472).
-/

namespace Sys2Proof.Machine

/-! ## Fields by access type (R521, R523) -/

/-- What a field holds after a write of `new` where it held `old` (R523 and the field's own range). -/
def Rng.store (r : Rng) (old new : Nat) : Nat :=
  match r with
  | .any => new
  | .keep lo hi => if lo ≤ new ∧ new ≤ hi then new else old
  | .clamp lo hi => clampN new lo hi
  | .qpOffset => ofSigned 6 (clampI (toSigned 6 new) (-26) 25)
  | .cap hi => if new = 0 then 1 else if hi < new then old else new

/-- The register at `a` with the bits of `v` written to field `d`, by its access type. -/
def writeField (a v : Nat) (d : FieldDef) (s : State) : State :=
  let f : Fld := ⟨a, d.hi, d.lo⟩
  let new := bitsOf v d.hi d.lo
  match d.acc with
  | .rw | .rws | .sh => setF f (d.rng.store (getF f s) new) s
  | .cnt0 => ifS (decide (new = 0)) (setF f 0) s
  | .w1c => clearF f new s
  | .setTo c => setF f c s
  | .ro | .wo | .own | .win => s

/-- A write to a register whose chapter gives no rule beyond its table; a reserved offset ignores it (R515). -/
def writePlain (a v : Nat) (s : State) : State :=
  match regAt a with
  | none => s
  | some d => each d.fields (writeField a v) s

/-! ## Registers with rules of their own -/

/-- PG_CTRL is written (R33, R35, R37); pages without a lifecycle discard it (R518). -/
def writeCtrl (page v : Nat) (s : State) : State :=
  if !hasLifecycle page then s
  else if bitOf v 2 then applyReset page (bitOf v 0) (bitOf v 1) s else applyCtrl page (bitOf v 0) (bitOf v 1) s

/-- A pair context of ports `p` and `p + 1` is open (R217, R230). -/
def pairInUse (p : Nat) (s : State) : Bool :=
  s.str.ctxs.any (fun e => decide (e.2.state ≠ 0) && e.2.pair && decide (e.2.port / 2 = p / 2))

/-- NET_CFG is written (R230). -/
def writeNetCfg (p v : Nat) (s : State) : State :=
  s |> ifS (decide (p = 0 ∨ p = 2) && (bitOf v 31 || !pairInUse p s)) (setF (NET_CFG_PAIR p) (bitsOf v 31 31))
    |> ifS (decide (bitsOf v 25 24 < 2) && decide (blockState (0x20 + p) s = 0)) (setF (NET_CFG_PMD p) (bitsOf v 25 24))
    |> writePlain (0x20100 + 0x1000 * p) v

/-- TIM_D_CFG is written: in OFF only, and with a profile, transport and domain number that exist (R336, R351). -/
def writeDomainCfg (d v : Nat) (s : State) : State :=
  let prof := bitsOf v 23 22
  if blockState (0x11 + d) s ≠ 0 ∨ 1 < prof ∨ bitsOf v 21 20 = 3 ∨ (prof = 0 ∧ 127 < bitsOf v 31 24) then s
  else s |> setF (TIM_D_CFG_DNUM d) (bitsOf v 31 24) |> setF (TIM_D_CFG_PROFILE d) prof
    |> setF (TIM_D_CFG_TRANSPORT d) (bitsOf v 21 20) |> setF (TIM_D_CFG_HOST d) (bitsOf v 19 19) |> setF (TIM_D_CFG_PORTS d) (bitsOf v 4 0)

/-- TIM_SEL is written: AUTO, then DOMAIN, then JUMP (log 33). -/
def writeTimSel (v : Nat) (s : State) : State :=
  s |> writePlain TIM_SEL_DOMAIN.addr v |> writeDomain (v % 2) |> ifS (bitOf v 1) writeJump

/-- CAM_P_CFG is written: in OFF only, and LANES = 3 is discarded (R406). -/
def writeCamPort (p v : Nat) (s : State) : State :=
  if blockState (0x160 + p) s ≠ 0 then s
  else s |> setF (CAM_P_CFG_TRIG_WIDTH p) (max 1 (bitsOf v 31 24)) |> setF (CAM_P_CFG_I3C_RATE p) (bitsOf v 5 4)
    |> ifS (decide (v % 4 ≠ 3)) (setF (CAM_P_CFG_LANES p) (v % 4))

/-- CAM_S_SIZE is written: while EN = 0, and within the sizes of R391 (R523). -/
def writeCamSize (k v : Nat) (s : State) : State :=
  let w := bitsOf v 31 16
  let h := bitsOf v 15 0
  if getB (CAM_S_CFG_EN k) s then s
  else s |> ifS (decide (128 ≤ w) && decide (w ≤ 8192) && decide (w % 2 = 0)) (setF (CAM_S_SIZE_W k) w)
    |> ifS (decide (64 ≤ h) && decide (h ≤ 8192) && decide (h % 2 = 0)) (setF (CAM_S_SIZE_H k) h)

/-- CAM_S_STATS is written: while EN = 0 (R407). -/
def writeCamStats (k v : Nat) (s : State) : State :=
  if getB (CAM_S_CFG_EN k) s then s
  else s |> setF (CAM_S_STATS_BASE k) (bitsOf v 31 6) |> setF (CAM_S_STATS_NREC_M1 k) (bitsOf v 5 0)

/-- A register of page 0x160 or 0x161 is written; the cause summaries follow (R405–R408). -/
def writeCam (p o v : Nat) (s : State) : State :=
  let a := 0x160000 + 0x1000 * p + o
  let k := (o - 0x400) / 0x40
  let n := (o - 0x800) / 0x20
  if o = 0x100 then writeCamPort p v s
  else if p = 0 ∧ 0x400 ≤ o ∧ o < 0x600 ∧ (o - 0x400) % 0x40 = 0 then writeSensorCfg k v s
  else if p = 0 ∧ 0x400 ≤ o ∧ o < 0x600 ∧ (o - 0x400) % 0x40 = 4 then writeCamSize k v s
  else if p = 0 ∧ 0x400 ≤ o ∧ o < 0x600 ∧ (o - 0x400) % 0x40 = 0x38 then writeCamStats k v s
  else if p = 0 ∧ 0x800 ≤ o ∧ o < 0x900 ∧ (o - 0x800) % 0x20 = 0 then writeOutputCfg n v s
  else if p = 0 ∧ 0x800 ≤ o ∧ o < 0x900 ∧ getB (CAM_O_CFG_EN n) s = true then s
  else s |> writePlain a v |> refreshCam

/-- A register of a LNK page is written. BLANK goes out ahead of a MODE of the same write (R171); RATE and LOOP are judged by the
state of the group, which BLANK leaves alone; EN acts last (R155, R169, R181, R185; log 33). -/
def writeLnk (p o v : Nat) (s : State) : State :=
  let a := 0x100000 + 0x1000 * p + o
  let lane := 16 * p + (o - 0x800) / 0x80
  if o = 0x100 then writeInj p (Word.ofNat v) s
  else if o = 0x104 then writeInjPos p (Word.ofNat v) s
  else if o < 0x800 then writePlain a v s
  else if (o - 0x800) % 0x80 = 0 then
    s |> writePlain a v |> writeBlank lane (bitOf v 1) |> ifS (bitOf v 2) (writeUnblank lane) |> writeRate lane (bitsOf v 20 16)
      |> writeLoop lane (bitsOf v 13 12) |> writeEn lane (bitOf v 0)
      |> showFill lane
  else s |> writePlain a v |> refreshLane lane

/-- A register of an encode session is written (R302, R305, R310). -/
def writeEnc (p o v : Nat) (s : State) : State :=
  let a := 0x150000 + 0x1000 * p + o
  let i := 4 * p + (o - 0x400) / 0x200
  if o < 0x400 ∨ 0xC00 ≤ o then writePlain a v s
  else if (o - 0x400) % 0x200 = 4 then s |> ifS (bitOf v 1) (writeForceIdr i) |> ifS (bitOf v 0) (writeRoiApply i)
  else if (o - 0x400) % 0x200 = 0x14 then writeSRd i v s
  else s |> writePlain a v |> refreshSession i

/-- The subscriber or queue window register at offset `o` is written (R321, R326, R328). -/
def writeEgrWindow (o v : Nat) (s : State) : State :=
  match o with
  | 0x104 => writeSubCfg v s
  | 0x108 => writeRateBurst false false v s
  | 0x10C => writeRateBurst false true v s
  | 0x144 => writeQueueCfg v s
  | 0x148 => writeRateBurst true false v s
  | 0x14C => writeRateBurst true true v s
  | 0x150 => writeQueueLimit v s
  | 0x174 => writeQueueDrop v s
  | 0x178 => ifS (bitOf v 0) clearQueue s
  | _ => s

/-- The offset lies in one of the windows of R328. -/
def egrWindow (o : Nat) : Bool := (decide (0x104 ≤ o) && decide (o ≤ 0x110)) || (decide (0x144 ≤ o) && decide (o ≤ 0x178))

/-- A register of a port of EGR is written: the admin set is held while a change is pending (R324, R330). ADMIN_GATE_EN
comes first, then CONFIG_CHANGE, then CANCEL (log 33). -/
def writeEgrPort (p o v : Nat) (s : State) : State :=
  let a := 0x158200 + 0x40 * p + o
  if o = 4 then
    s |> ifS (!gatePending p s) (writePlain a v) |> ifS (bitOf v 1) (configChange p) |> ifS (bitOf v 2) (cancelChange p)
  else if 8 ≤ o ∧ o ≤ 0x14 ∧ gatePending p s = true then s
  else writePlain a v s

/-- A register of page 0x158 is written. -/
def writeEgrReg (who : Who) (o v : Nat) (s : State) : State :=
  if o = 0x100 then writeEgrSel false v s
  else if o = 0x140 then writeEgrSel true v s
  else if egrWindow o then windowWrite who (decide (0x140 ≤ o)) (0x158000 + o) (writeEgrWindow o v) s
  else if o = 0x180 then writeSample v s
  else if 0x200 ≤ o ∧ o < 0x340 then writeEgrPort ((o - 0x200) / 0x40) ((o - 0x200) % 0x40) v s
  else writePlain (0x158000 + o) v s

/-- A register of the common time page is written (R341, R345, R348–R350); DISARM comes before ARM. -/
def writeTim (o v : Nat) (s : State) : State :=
  let c := (o - 0x400) / 0x20
  if o = 0x100 then writeTimSel v s
  else if o = 0x110 then (if bitOf v 0 then { s with tim := { s.tim with snap := true } } else s)
  else if 0x200 ≤ o ∧ o < 0x340 ∧ (o - 0x200) % 0x40 = 0x1C then ifS (bitOf v 0) (popTxq ((o - 0x200) / 0x40)) s
  else if 0x400 ≤ o ∧ o < 0x600 ∧ (o - 0x400) % 0x20 = 0x18 then s |> ifS (bitOf v 1) (disarmTimer c) |> ifS (bitOf v 0) (armTimer c)
  else writePlain (0x10000 + o) v s

/-- A register of a domain page is written; INC, ADJ, SET and VALID are the servo's while HOST = 0 (R339, R351). -/
def writeDom (who : Who) (d o v : Nat) (s : State) : State :=
  if o = 0x100 then writeDomainCfg d v s
  else if !servoWrites who d s then s
  else if o = 0x108 then writeIncHi d v s
  else if o = 0x10C then writeAdj d v s
  else if o = 0x118 then s |> ifS (bitOf v 2) (writeSet d) |> writeValid d (bitOf v 0)
  else writePlain (0x11000 + 0x1000 * d + o) v s

/-- A JMP register of partition `p`: written by the acting administrator while the page reads OFF (R488). -/
def writeJmpReg (who : Who) (p a v : Nat) (s : State) : State :=
  if blockState (0x190 + p) s = 0 then wr a (Word.ofNat (if a % 0x1000 = 0x140 then Nat.land v 0x8700FFFF else v)) s
  else rejectWrite who s

/-- A register of a partition's page is written (R470–R473, R475, R484, R485, R488, R489). -/
def writeHst (who : Who) (p o v : Nat) (s : State) : State :=
  let a := 0x190000 + 0x1000 * p + o
  if o = 0x104 then writeRingCtrl p v s
  else if o = 0x108 ∨ o = 0x110 then ifS (ringIdle p s) (wr a (Word.ofNat (v / 4096 * 4096))) s
  else if o = 0x10C ∨ o = 0x114 then ifS (ringIdle p s) (wr a (Word.ofNat v)) s
  else if o = 0x118 then writeTail p v s
  else if o = 0x124 then writeHead p v s
  else if 0x140 ≤ o ∧ o ≤ 0x150 then writeJmpReg who p a v s
  else if 0x180 ≤ o ∧ o < 0x1C0 then writeHwin p ((o - 0x180) / 16) ((o - 0x180) % 16 / 4) v s
  else if 0x1C0 ≤ o ∧ o < 0x200 then writeRegion who p ((o - 0x1C0) / 8) (decide ((o - 0x1C0) % 8 = 4)) v s
  else if 0x400 ≤ o ∧ o < 0x500 then clearF (HST_EPEND p ((o - 0x400) / 4)) v s
  else if p = 0 ∧ o = 0xC00 then setF HST_ADMIN_ADMIN v s
  else if p = 0 ∧ 0xD00 ≤ o ∧ o < 0xE00 then
    let n := (o - 0xD00) / 4
    if bitOf v 0 && bitOf v 1 then semResult who n BAD_ARGUMENT s
    else s |> ifS (bitOf v 1) (releaseSem who n) |> ifS (bitOf v 0) (fun s => acquireSem n s who)
  else writePlain a v s

/-- A register of the firmware page is written: the recovery registers act only in RECOVERY (R502, R512). -/
def writeFwu (o v : Nat) (s : State) : State :=
  if o = 0x140 then writeRcvCtrl v s
  else if o = 0x144 then ifS (inRecovery s) (setF FWU_RCV_CHUNK_CHUNK v) s
  else if o = 0x148 then ifS (inRecovery s && decide (4 ≤ v % 4096) && decide (v % 4096 ≤ 2048) && decide (v % 4 = 0)) (setF FWU_RCV_LEN_LEN v) s
  else if 0x800 ≤ o then ifS (inRecovery s) (wr (0x1A0000 + o) (Word.ofNat v)) s
  else writePlain (0x1A0000 + o) v s

/-- The effect of an accepted write of `v` at offset `o` of `page`. -/
def writeAt (who : Who) (page o v : Nat) (s : State) : State :=
  let a := 0x1000 * page + o
  if o = 4 then writeCtrl page v s
  else if o = 0x18 then clearPend page v s
  else if o = 0x1C then writeEvSet page v s
  else if o = 0xC then setF (PG_OWNER page) v s
  else if o < 0x100 then writePlain a v s
  else if page = 0 then s |> writePlain a v |> sysSummary
  else if page = 2 then
    s |> ifS (decide (o = 0x10C ∨ o = 0x110)) (fun s => { s with pwr := { s.pwr with timedDone := false } }) |> writePlain a v
  else if page = 4 ∧ o = 0x100 then writeThmCfg v s
  else if 0x170 ≤ page ∧ page ≤ 0x173 ∧ o = 0x100 then s |> advanceTraffic (page - 0x170) |> writePlain a v
  else if page = 8 ∧ o = 0x104 then requestRun (bitsOf v 4 0) s
  else if page = 0x10 then writeTim o v s
  else if page = 0x11 ∨ page = 0x12 then writeDom who (page - 0x11) o v s
  else if 0x20 ≤ page ∧ page ≤ 0x24 then
    let p := page - 0x20
    if o = 0x100 then writeNetCfg p v s
    else if o = 0x180 then writeNetInj p v s
    else if o = 0x184 ∧ getB (NET_INJ_ARM p) s = true then s
    else writePlain a v s
  else if 0x28 ≤ page ∧ page ≤ 0x2F then
    if o = 0x100 then writeStrSel (page - 0x28) v s else s |> writePlain a v |> refreshCauses (page - 0x28)
  else if page = 0x40 ∧ o = 0x1A0 then writeDecSel v s
  else if page = 0x60 ∧ o = 0x180 then writePsel v s
  else if 0x80 ≤ page ∧ page ≤ 0x87 ∧ o = 0x110 then writeCap (page - 0x80) (Word.ofNat v) s
  else if 0x90 ≤ page ∧ page ≤ 0x93 ∧ o = 0x110 then ifS (bitOf v 0) (writeApply (page - 0x90)) s
  else if 0x100 ≤ page ∧ page ≤ 0x13F then writeLnk (page - 0x100) o v s
  else if page = 0x148 ∧ o = 0x108 then writeStrExp v s
  else if 0x150 ≤ page ∧ page ≤ 0x153 then writeEnc (page - 0x150) o v s
  else if page = 0x158 then writeEgrReg who o v s
  else if page = 0x160 ∨ page = 0x161 then writeCam (page - 0x160) o v s
  else if page = 0x180 ∧ o = 0x100 then writeRimCfg v s
  else if 0x190 ≤ page ∧ page ≤ 0x197 then writeHst who (page - 0x190) o v s
  else if page = 0x198 ∧ o = 0x104 then writeRoute v s
  else if page = 0x1A0 then writeFwu o v s
  else writePlain a v s

/-! ## Who may write (R470, R471) -/

/-- A write at offset `o` of `page` by `who` is accepted: by the chapter's rule where it states one, else from PG_OWNER
and the acting administrator. -/
def accepts (who : Who) (page o : Nat) (s : State) : Bool :=
  if o = 4 then mayControl who page s
  else if o = 0xC then isAdmin who s
  else if o < 0x100 then mayWrite who page s
  else if page = 0 then mayWrite who page s || (decide (0x140 ≤ o) && decide (o < 0x150))
  else if page = 0x10 then
    if o = 0x100 ∨ o = 0x108 ∨ o = 0x10C ∨ (0x400 ≤ o ∧ o < 0x600) ∨ (0x200 ≤ o ∧ o < 0x340 ∧ (o - 0x200) % 0x40 = 0x1C)
    then isOwner who page s else mayWrite who page s
  else if 0x150 ≤ page ∧ page ≤ 0x153 ∧ 0x400 ≤ o ∧ o < 0xC00 then
    let i := 4 * (page - 0x150) + (o - 0x400) / 0x200
    isFw who || (decide ((s.sess i).state ≠ 0) && isPart who (s.sess i).owner)
  else if page = 0x158 then
    if o = 0x100 ∨ o = 0x140 ∨ egrWindow o = true then true
    else if o = 0x180 ∨ 0x200 ≤ o then isOwner who page s else mayWrite who page s
  else if page = 0x160 then isOwner who 0x160 s
  else if 0x190 ≤ page ∧ page ≤ 0x197 then
    let p := page - 0x190
    if 0x140 ≤ o ∧ o ≤ 0x150 then isAdmin who s
    else if 0x180 ≤ o ∧ o < 0x1C0 then isFw who || isPart who p
    else if 0x1C0 ≤ o ∧ o < 0x200 then isAdmin who s
    else if p = 0 ∧ o = 0xC00 then isAdmin who s
    else if p = 0 ∧ 0xD00 ≤ o ∧ o < 0xE00 then true
    else if (0x104 ≤ o ∧ o < 0x128) ∨ (0x400 ≤ o ∧ o < 0x500) then mayRing who p s
    else mayWrite who page s
  else if page = 0x198 ∧ o = 0x104 then isAdmin who s
  else mayWrite who page s

/-- An aligned 32-bit write by `who` (R471, R514, R515). -/
def writeReg (who : Who) (addr v : Nat) (s : State) : State :=
  let page := addr / 0x1000
  let o := addr % 0x1000
  guardWrite who page addr (accepts who page o s) (writeAt who page o v) s

/-- The address is that of a semaphore register (R489). -/
def isSem (addr : Nat) : Bool := decide (0x190D00 ≤ addr) && decide (addr < 0x190E00) && decide (addr % 4 = 0)

/-- The writes of one cycle to one semaphore: the releases first, then the acquires as R484 settles them. -/
def settleSemWrites (reqs : List WriteReq) (addr : Nat) (s : State) : State :=
  let n := (addr - 0x190D00) / 4
  let both (r : WriteReq) : Bool := bitOf r.value.toNat 0 && bitOf r.value.toNat 1
  let acq := reqs.filter (fun r => bitOf r.value.toNat 0 && !both r)
  let s := each (reqs.filter both) (fun r => semResult r.who n BAD_ARGUMENT) s
  let s := each (reqs.filter (fun r => bitOf r.value.toNat 1 && !both r)) (fun r => releaseSem r.who n) s
  settleSem (acq.map (fun r => (r.who, Fin.ofNat 64 n))) s n

/-- The writes of one cycle to one register: firmware's first, then the partitions' by the tie rule on HST_WTIE (R471,
R546); a semaphore has the rule of R484. -/
def settleWrites (reqs : List WriteReq) (s : State) (addr : Nat) : State :=
  let mine := reqs.filter (fun r => decide (r.addr = addr))
  if isSem addr && answers 0x190 s then settleSemWrites mine addr s else
  let s := each (mine.filter (fun r => isFw r.who)) (fun r => writeReg r.who r.addr r.value.toNat) s
  let ps := tieSort 8 (getF HST_WTIE_PTR s) (fun r => whoIdx r.who) (mine.filter (fun r => !isFw r.who))
  let s := each ps (fun r => writeReg r.who r.addr r.value.toNat) s
  if (requesters (fun (r : WriteReq) => whoIdx r.who) ps).length < 2 then s
  else match ps.head? with
    | some r => ifS (answers 0x190 s) (setF HST_WTIE_PTR (whoIdx r.who)) s
    | none => s

/-- Ascending, without repeats. -/
def sortNats (l : List Nat) : List Nat := l.foldl (fun acc x =>
  acc.takeWhile (fun y => decide (y < x)) ++ x :: (acc.dropWhile (fun y => decide (y < x))).filter (fun y => decide (y ≠ x))) []

/-- REGISTER_WRITE (R471): the writes of one cycle, registers in ascending byte address. -/
def execRegisterWrite (reqs : List WriteReq) (s : State) : Host.Outcome State Fault Refusal :=
  .next ((sortNats (reqs.map (fun r => r.addr))).foldl (settleWrites reqs) s)

/-! ## Reads -/

/-- The registers whose read latches others, and those they latch (R523 and their own rows). -/
def latchedBy (addr : Nat) : List Nat :=
  let page := addr / 0x1000
  let o := addr % 0x1000
  if addr = 0x108 then [0x10C]
  else if addr = 0x10140 then [0x10144, 0x10148, 0x1014C, 0x10150, 0x10154]
  else if addr = 0x6018C then [0x60190]
  else if 0x80 ≤ page ∧ page ≤ 0x87 ∧ (o = 0x12C ∨ o = 0x14C) then [addr + 4]
  else if 0x90 ≤ page ∧ page ≤ 0x93 ∧ (o = 0x128 ∨ o = 0x130) then [addr + 4]
  else if page = 0x158 ∧ 0x200 ≤ o ∧ o < 0x340 ∧ (o - 0x200) % 0x40 = 0x20 then [addr + 4]
  else []

/-- Base and size of HBM class `c` in MiB (R411, R424). -/
def classRange (c : Nat) (s : State) : Nat × Nat :=
  let cor := correctionSize s.panel.map / 2 ^ 20
  match c with
  | 0 => (0, 1024)
  | 1 => (1024, 8192)
  | 2 => (9216, 32768)
  | 3 => (41984, 16384)
  | 4 => (58368, 4096)
  | 5 => (62464, 98304 - 62464 - cor)
  | 6 => (98304 - cor, cor)
  | _ => (0, 0)

/-- A count of HBM traffic, which goes on as advanceTraffic says (R423). -/
def trafficCount (page o : Nat) : Bool :=
  decide (0x170 ≤ page) && decide (page ≤ 0x173) &&
  (decide (o = 0x124) || decide (o = 0x128) || (decide (0x140 ≤ o) && decide (o < 0x15C)) || (decide (0x160 ≤ o) && decide (o < 0x17C)))

/-- A register that reads what the state shows elsewhere; none for one that reads its own word. -/
def readShown (page o : Nat) (s : State) : Option Nat :=
  let a := 0x1000 * page + o
  if o = 0 then some (pageId page)
  else if o = 8 then
    let p := if page = 0 then page else if 5 ≤ page ∧ page ≤ 7 then 4 else if 0x29 ≤ page ∧ page ≤ 0x2F then 0x28 else page
    some (getF (PG_STAT_FAULT_CODE p) s * 256 + blockState page s)
  else if a = 0x108 then some (Config.uid % 2 ^ 32)
  else if a = 0x10C then some (Config.uid / 2 ^ 32 % 2 ^ 32)
  else if page = 0x158 then readEgr a s
  else if a = DEC_POOL_KIB.addr then some (usedKib (refUsed s))
  else if page = 0x170 ∧ 0x180 ≤ o ∧ o < 0x1B8 then
    let r := classRange ((o - 0x180) / 8) s
    some (if (o - 0x180) % 8 = 0 then r.1 else r.2)
  else if a = 0x190C00 then some ((actingAdmin s).getD 0 * 16 + getF HST_ADMIN_ADMIN s)
  else if a = 0x198104 then
    let r := routeOf (getF EVT_SEL_SEL s) s
    some (r.1 * 2 ^ 16 + r.2)
  else if page = 0x1A0 ∧ 0x800 ≤ o ∧ inRecovery s = false then some 0
  else if a = 0x198108 then some (s.raisedCnt (getF EVT_SEL_SEL s))
  else if page = 0x1A1 ∧ 0x100 ≤ o ∧ o < 0x120 then some (wordAt (digestWords (sha3 Config.identityKey)) ((o - 0x100) / 4))
  else if a = FWU_SVN_SVN.addr then some s.fwu.svnFuse
  else if a = FWU_SEQ.addr then some (bootRec s).seq
  else if a = 0x1A1124 then some (bit s.fwu.key0Revoked * 2 + bit Config.keysOk)
  else none

/-- The word that a register shows now. -/
def readNow (addr : Nat) (s : State) : Nat :=
  match readShown (addr / 0x1000) (addr % 0x1000) s with
  | some v => v % 2 ^ 32
  | none => if (regAt addr).isSome then (rd addr s).toNat else 0

/-- The key of a reader's latched copy. -/
def latchKey (who : Who) (addr : Nat) : Nat := whoIdx who * 2 ^ 24 + addr

/-- An aligned 32-bit read by `who`: its value, and what it latches or reports (R32, R515, R523). -/
def readReg (who : Who) (addr : Nat) (s : State) : Nat × State :=
  let page := addr / 0x1000
  if !assigned page then (0, badAccess false false who addr s)
  else if !answers page s then (0, badAccess true false who addr s)
  else
    let s := ifS (trafficCount page (addr % 0x1000)) (advanceTraffic (page - 0x170)) s
    let held := FMap.get 0 s.hst.hi (latchKey who addr)
    let v := if held = 0 then readNow addr s else held - 1
    (v, each (latchedBy addr) (fun b t =>
      { t with hst := { t.hst with hi := FMap.set 0 t.hst.hi (latchKey who b) (1 + readNow b s) } }) s)

/-! ## Accesses of a PCIe function (R465) -/

/-- The function of partition `p` is there and its port's link is up; in RECOVERY function 0 of port 0, as partition 0 (R502). -/
def functionUp (p : Nat) (s : State) : Bool :=
  if inRecovery s then decide (p = 0) && s.linkUp 0 else decide (transport p s = 1) && s.linkUp (getF (HST_BIND_PORT p) s)

/-- BAR0_BAD_ACCESS (R465, R515): not an aligned 32-bit access. -/
def execBar0BadAccess (p : Fin 8) (addr : Nat) (s : State) : Host.Outcome State Fault Refusal :=
  .next (if functionUp p.val s = false then s
    else s |> emit (.unsupported p.val) |> badAccess false true (.part p) addr)

/-- An access of `n` bytes lies in BAR2 of partition `p`, which is 2^WIN GiB large (R465). -/
def inBar2 (p off n : Nat) (s : State) : Bool := decide (off + n ≤ 2 ^ (30 + FMap.get 0 s.hst.wins p))

/-- An access lies in its BAR; BAR4 is 64 KiB, and its accesses are of aligned words (R465). -/
def inBar (p off : Nat) (acc : WindowAccess) (s : State) : Bool :=
  let words (n : Nat) : Bool := decide (off % 4 = 0) && decide (off + 4 * n ≤ 65536)
  match acc with
  | .read n => inBar2 p off n s
  | .write bytes => inBar2 p off bytes.length s
  | .msixRead n => words n
  | .msixWrite ws => words ws.length
  | .msixMask _ => true

/-- An access reaches HBM. -/
def hbmAccess (acc : WindowAccess) : Bool :=
  match acc with
  | .read _ | .write _ => true
  | .msixRead _ | .msixWrite _ | .msixMask _ => false

/-- BAR2_WINDOW_ACCESS (R138, R465, R472); the fabric holds it while a stack is in self-refresh (R418). DESIGN CHOICE (log 38): the
accesses of BAR4 and of the MSI-X mask, for which the table has no row, come with it. In RECOVERY only BAR0 is served (R502). -/
def execBar2WindowAccess (p : Fin 8) (off : Nat) (acc : WindowAccess) (s : State) : Host.Outcome State Fault Refusal :=
  .next (if inRecovery s ∨ functionUp p.val s = false ∨
      inBar p.val off acc s = false then s else
    if hbmAccess acc && hbmAsleep s then { s with hst := { s.hst with barHeld := s.hst.barHeld ++ [(p.val, off, acc)] } } else serveWindow p.val off acc s)

end Sys2Proof.Machine
end

