-- ==== Sys2Proof/Machine/Jmp.lean ====
section
/-!
DEFINITION. JMP, the message protocol of hosts on the network (R466–R469, R485, R486, R502): which datagrams are accepted,
what each request does, and what is answered.
-/

namespace Sys2Proof.Machine

/-- Fields of word 0 (R467). -/
def jmpType (m : JmpIn) : Nat := fieldAt m.words 0 23 20
def jmpPart (m : JmpIn) : Nat := fieldAt m.words 0 18 16

/-- A dropped datagram is counted where the counters are powered (R466). -/
def jmpDrop (m : JmpIn) (s : State) : State :=
  ifS (answers 0x190 s) (if decide (transport (jmpPart m) s = 2) && !m.words.isEmpty then countF (HST_JMP_DROP (jmpPart m))
    else countF HST_JMP_BAD) s

/-- The words between SEQ and CRC. -/
def jmpBody (m : JmpIn) : List Word := (m.words.drop 2).take (m.words.length - 3)

/-- VERSION, LENGTH and CRC pass (R466, R467). -/
def jmpFormed (m : JmpIn) : Bool :=
  let n := m.words.length
  decide (3 ≤ n) && decide (m.bytes = 4 * n) && decide (fieldAt m.words 0 31 24 = 1) && decide (fieldAt m.words 0 15 0 = n) &&
  decide (m.words.getD (n - 1) 0 = crcWords (m.words.take (n - 1)))

/-- The datagram comes from a host's address and port, given as the words of HST_JMP_CFG and HST_JMP_ADDR (R466). -/
def jmpFrom (m : JmpIn) (cfg : Nat) (addr : List Word) : Bool :=
  decide (m.port.val = bitsOf cfg 26 24) && decide (m.ipv6 = bitOf cfg 31) && decide (m.srcPort = cfg % 65536) &&
  decide (m.srcAddr.take (if m.ipv6 then 4 else 1) = addr.take (if m.ipv6 then 4 else 1))

/-- STANDBY or SLEEP: the cistern processor serves M0 (R466). DEDUCED (log 35): so it does in SHUTDOWN, where M0 runs on and a wake
request completes with BUSY (R453, R454). -/
def asleep (s : State) : Bool := [1, 2, 5].contains (pwrState s)

/-- The JMP item of the store for partition `p`: HST_JMP_CFG and the four words of HST_JMP_ADDR (R504; log 34). -/
def storedJmp (items : FMap (List Byte)) (p : Nat) : Option (Nat × List Word) :=
  let ws := bytesWords (FMap.get [] items 4)
  if ws.length < 5 * p + 5 then none else some (wordAt ws (5 * p), (ws.drop (5 * p + 1)).take 4)

/-- The recovery ROM takes REG_READ and REG_WRITE for partition 0 on M0 (R502). -/
def jmpRecovery (m : JmpIn) (s : State) : Bool :=
  decide (jmpPart m = 0) && decide (m.port.val = 4) && (decide (jmpType m = 4) || decide (jmpType m = 5)) &&
  (match storedJmp (halfItems (bootRec s).cfgHalf s) 0 with
    | some r => jmpFrom m r.1 r.2
    | none => true)

/-- A datagram is accepted for the partition it names (R466). -/
def jmpAccepted (m : JmpIn) (s : State) : Bool :=
  let p := jmpPart m
  jmpFormed m &&
  (if inRecovery s then jmpRecovery m s
  else decide (transport p s = 2) &&
    (if asleep s then (s.prt p).m0 && decide (m.port.val = 4) else isOn (0x190 + p) s || decide (blockState (0x190 + p) s = 5)) &&
    jmpFrom m (rd (HST_JMP_CFG_PORT p).addr s).toNat ((List.range 4).map (fun k => rd (HST_JMP_ADDR p k).addr s)))

/-- A message goes back to where a request came from, from the address that it was sent to (R466). -/
def jmpReply (m : JmpIn) (typ : Nat) (seq : Word) (body : List Word) (s : State) : State :=
  jmpPost (jmpPart m) m.port.val m.ipv6 (addrBytes m.ipv6 m.dstAddr) m.srcAddr m.srcPort typ seq body s

/-- An answer: it carries the request's SEQ (log 35), and is kept for a repeat (R469). -/
def jmpAnswer (m : JmpIn) (typ : Nat) (body : List Word) (s : State) : State :=
  let p := jmpPart m
  let seq := m.words.getD 1 0
  s.setPrt p { s.prt p with lastSet := true, answer := some ⟨typ, seq, body⟩ } |> wr (HST_JMP_SEQ p).addr seq |> jmpReply m typ seq body

/-- An ACK with a status (R468). -/
def jmpAck (m : JmpIn) (status : Nat) (s : State) : State :=
  jmpAnswer m 0xC [Word.ofNat (status * 2 ^ 24 + jmpType m * 2 ^ 20)] s

/-- A message is stamped as its receive interrupt is taken, whatever becomes of it (R342). -/
def jmpStamp (m : JmpIn) (s : State) : State := s.setPrt (jmpPart m) { s.prt (jmpPart m) with rxStamp := now s }

/-- A datagram of TYPE `typ` is taken: dropped in the activation pause (R508) or where R466 does not accept it, answered
again when its SEQ is LAST, dropped when older, and stamped and executed otherwise (R342, R469). -/
def jmpRun (typ : Nat) (m : JmpIn) (body : State → State) (s : State) : State :=
  if m.words.isEmpty || decide (jmpType m ≠ typ) then s else
  let s := { s with hst := { s.hst with jmpIn := dropFirst (fun x => decide (x = m)) s.hst.jmpIn } }
  let p := jmpPart m
  let seq := wordAt m.words 1
  let last := (rd (HST_JMP_SEQ p).addr s).toNat
  if s.fwu.pause then s else
  let s := jmpStamp m s
  if !jmpAccepted m s then jmpDrop m s
  else if (s.prt p).lastSet && decide (seq = last) then
    match (s.prt p).answer with
    | some a => jmpReply m a.typ a.seq a.body s
    | none => s
  else if (s.prt p).lastSet && decide (diff32 seq last < 0) then jmpDrop m s
  else body s

/-- A request that the cistern processor does not serve in STANDBY and SLEEP (R466). -/
def jmpAwake (m : JmpIn) (body : State → State) (s : State) : State :=
  if asleep s then jmpAck m NOT_READY s else body s

/-- The partition a request speaks for, as a writer (R471). -/
def jmpWho (m : JmpIn) : Who := .part (Fin.ofNat 8 (jmpPart m))

/-- JMP_COMMAND (R468): the descriptor is written at CMD_TAIL. -/
def execJmpCommand (m : JmpIn) (s : State) : Host.Outcome State Fault Refusal :=
  .next (jmpRun 1 m (jmpAwake m (fun s =>
    let p := jmpPart m
    let tail := getF (HST_CMD_TAIL_IDX p) s
    if (jmpBody m).length ≠ 16 then jmpAck m BAD_ARGUMENT s
    else if ringN p s ≤ (tail + 65536 - getF (HST_CMD_HEAD_IDX p) s) % 65536 then jmpAck m BUSY s
    else s |> memWrite (ringSpace p s) (cmdBase p s + 64 * (tail % ringN p s)) (wordsBytes (jmpBody m))
      |> addF (HST_CMD_TAIL_IDX p) 1 |> jmpAck m DONE)) s)

/-- ADDR and COUNT of a register request name registers (R468). -/
def regSpan (a n : Nat) : Bool := decide (a % 4 = 0) && decide (1 ≤ n) && decide (n ≤ 64) && decide (a + 4 * n ≤ 0x1000000)

/-- The addresses of a register request, all of which the cistern processor serves (R466). -/
def cisternSpan (a n : Nat) : Bool :=
  (List.range n).all (fun i =>
    let p := (a + 4 * i) / 0x1000
    decide (p = 1) || decide (p = 2) || (decide (0x10 ≤ p) && decide (p ≤ 0x12)))

/-- Successive reads, with the values they gave (R523). -/
def readRegs (who : Who) : Nat → Nat → State → List Word × State
  | 0, _, s => ([], s)
  | n + 1, a, s =>
    let r := readReg who a s
    let q := readRegs who n (a + 4) r.2
    (Word.ofNat r.1 :: q.1, q.2)

/-- Successive writes (R523). -/
def writeRegs (who : Who) : List Word → Nat → State → State
  | [], _, s => s
  | w :: r, a, s => writeRegs who r (a + 4) (writeReg who a w.toNat s)

/-- JMP_REG_READ (R468). -/
def execJmpRegRead (m : JmpIn) (s : State) : Host.Outcome State Fault Refusal :=
  .next (jmpRun 4 m (fun s =>
    let b := jmpBody m
    let a := wordAt b 0
    let n := wordAt b 1
    if b.length ≠ 2 ∨ regSpan a n = false then jmpAck m BAD_ARGUMENT s
    else if asleep s && !cisternSpan a n then jmpAck m NOT_READY s
    else
      let r := readRegs (jmpWho m) n a s
      jmpAnswer m 6 (Word.ofNat a :: Word.ofNat n :: r.1) r.2) s)

/-- JMP_REG_WRITE (R468). -/
def execJmpRegWrite (m : JmpIn) (s : State) : Host.Outcome State Fault Refusal :=
  .next (jmpRun 5 m (fun s =>
    let b := jmpBody m
    let a := wordAt b 0
    let n := wordAt b 1
    if b.length < 2 ∨ regSpan a n = false ∨ b.length ≠ n + 2 then jmpAck m BAD_ARGUMENT s
    else if asleep s && !cisternSpan a n then jmpAck m NOT_READY s
    else s |> writeRegs (jmpWho m) (b.drop 2) a |> jmpAck m DONE) s)

/-- Address and COUNT of a memory request (R468). -/
def memAddr (b : List Word) : Nat := wordAt b 0 + fieldAt b 1 7 0 * 2 ^ 32
def memCount (b : List Word) : Nat := fieldAt b 1 24 16

/-- The two words of a memory request are well formed (R468). -/
def memSpan (b : List Word) : Bool :=
  decide (2 ≤ b.length) && decide (wordAt b 0 % 4 = 0) && decide (1 ≤ memCount b) && decide (memCount b ≤ 256) &&
  decide (fieldAt b 1 31 25 = 0) && decide (fieldAt b 1 15 8 = 0)

/-- JMP_MEM_WRITE (R468). -/
def execJmpMemWrite (m : JmpIn) (s : State) : Host.Outcome State Fault Refusal :=
  .next (jmpRun 7 m (jmpAwake m (fun s =>
    let b := jmpBody m
    if memSpan b = false ∨ b.length ≠ memCount b + 2 then jmpAck m BAD_ARGUMENT s
    else if inRegion (jmpPart m) (memAddr b) (4 * memCount b) s then
      s |> memWrite .hbm (memAddr b) (wordsBytes (b.drop 2)) |> jmpAck m DONE
    else jmpAck m NOT_OWNER s)) s)

/-- JMP_MEM_READ (R468). -/
def execJmpMemRead (m : JmpIn) (s : State) : Host.Outcome State Fault Refusal :=
  .next (jmpRun 8 m (jmpAwake m (fun s =>
    let b := jmpBody m
    let n := memCount b
    if memSpan b = false ∨ b.length ≠ 2 then jmpAck m BAD_ARGUMENT s
    else if !inRegion (jmpPart m) (memAddr b) (4 * n) s then jmpAck m NOT_OWNER s
    else
      jmpAnswer m 9 (b ++ bytesWords (memRead .hbm (memAddr b) (4 * n) s)) s)) s)

/-- JMP_POWER (R441, R468): on M0, from the PG_OWNER of page 0x002; elsewhere it makes no request (log 35). -/
def execJmpPower (m : JmpIn) (s : State) : Host.Outcome State Fault Refusal :=
  .next (jmpRun 0xA m (fun s =>
    let t := fieldAt (jmpBody m) 0 1 0
    let r := powerStatus t s
    if (jmpBody m).length ≠ 1 then jmpAck m BAD_ARGUMENT s
    else if m.port.val ≠ 4 ∨ isOwner (jmpWho m) 2 s = false then jmpAck m NOT_OWNER s
    else s |> jmpAck m r |> ifS (decide (r = ACCEPTED)) (applyPower t)) s)

/-- JMP_WAKE (R444, R454, R468): a wake source when received on M0; BUSY in SHUTDOWN. -/
def execJmpWake (m : JmpIn) (s : State) : Host.Outcome State Fault Refusal :=
  .next (jmpRun 0xB m (fun s =>
    if (jmpBody m).length ≠ 0 then jmpAck m BAD_ARGUMENT s
    else if pwrState s = 5 then jmpAck m BUSY s
    else s |> jmpAck m DONE |> ifS (decide (m.port.val = 4)) (wake 2)) s)

/-- JMP_EVENT_SEND (R468, R469, R486, R490): up to 64 waiting events leave, or the message is lost. -/
def execJmpEventSend (p : Fin 8) (sent : Bool) (s : State) : Host.Outcome State Fault Refusal :=
  let q := (s.prt p.val).events
  let es := q.take 64
  .next (if es.isEmpty || decide (transport p.val s ≠ 2) then s else
    let t := now s
    let s := s.setPrt p.val { s.prt p.val with events := q.drop 64 }
    if sent then
      jmpDevice p.val 3 (Word.ofNat (t / 2 ^ 32) :: Word.ofNat t :: Word.ofNat es.length :: es.map Word.ofNat) s
    else s |> addF (HST_JMP_DSEQ p.val) 1 |> ifS (answers 0x198 s) (countF EVT_JMP_LOST))

end Sys2Proof.Machine
end

