-- ==== Sys2Proof/Machine/Boot.lean ====
section
/-!
DEFINITION. The stages of boot (R498–R501): what the firmware loads from the configuration store, the early picture, and
the change to full service.
-/

namespace Sys2Proof.Machine

/-! ## The configuration store at boot (R464, R466, R470, R504, R526) -/

/-- The words of an item of the half that boots (R504; layouts: log 34). -/
def storeItem (k : Nat) (s : State) : List Word := bytesWords (FMap.get [] (halfItems (runHalf s) s) k)

/-- The binding of partition `p`: transport and port. -/
def storedBinding (p : Nat) (s : State) : Nat × Nat := (fieldAt (storeItem 2 s) p 31 30, fieldAt (storeItem 2 s) p 26 24)

/-- The partitions bound to PCIe port `port`, ascending (R464). -/
def storedOn (port : Nat) (s : State) : List Nat := (List.range 8).filter (fun p => decide (storedBinding p s = (1, port)))

/-- The binding, the JMP source and, through `owner`, the administrator are loaded (R464, R466, R526). -/
def loadBinding (p : Nat) (s : State) : State :=
  let b := storedBinding p s
  let fs := storedOn b.2 s
  let s := if b.1 = 1 then
      s |> setF (HST_BIND_TRANSPORT p) 1 |> setF (HST_BIND_PORT p) b.2 |> setF (HST_BIND_FUNC p) (fs.findIdx (fun q => decide (q = p)))
        |> setF (HST_BIND_VECTORS p) (64 / fs.length)
    else if b.1 = 2 then s |> setF (HST_BIND_TRANSPORT p) 2 |> setF (HST_BIND_PORT p) b.2
    else s
  match storedJmp (halfItems (runHalf s) s) p with
  | none => s
  | some j => s |> wr (HST_JMP_CFG_PORT p).addr (Word.ofNat (Nat.land j.1 0x8700FFFF))
      |> each (List.range 4) (fun k => wr (HST_JMP_ADDR p k).addr (j.2.getD k 0))

/-- The calibration of network port `p` is loaded (R215, R340). -/
def loadPort (p : Nat) (s : State) : State :=
  let ws := storeItem 0x10 s
  if ws.length < 4 * p + 4 then s
  else s |> setF (NET_RX_DELAY_DELAY p) (wordAt ws (4 * p)) |> setF (TIM_TXDLY_DELAY p) (wordAt ws (4 * p + 1))
    |> setF (NET_MAC_HI_MAC_HI p) (wordAt ws (4 * p + 2)) |> setF (NET_MAC_LO p) (wordAt ws (4 * p + 3))

/-- The size codes of BAR2 are loaded (R465). -/
def loadWins (s : State) : State :=
  { s with hst := { s.hst with
      wins := (List.range 8).foldl (fun m p => FMap.set 0 m p (min 6 (wordAt (storeItem 3 s) p))) s.hst.wins } }

/-- Everything that reads "From store" is loaded (R526). -/
def loadStore (s : State) : State :=
  let a := bitsOf (wordAt (storeItem 5 s) 0) 2 0
  { s with fwu := { s.fwu with adminItem := a } } |> loadWins |> each (List.range 8) loadBinding |> each (List.range 5) loadPort
    |> setF HST_ADMIN_ADMIN a

/-! ## The early plane (R499) -/

/-- A state with empty memory, in which an early plane is laid out. -/
def scratch (s : State) : State := { s with hbm := [], poison := [], regs := [] }

/-- The size of EARLY_SLATE, where the item is present and whole. -/
def slateSize (s : State) : Option (Nat × Nat) :=
  let bs := FMap.get [] (halfItems (runHalf s) s) 0x23
  let w := wordAt (bytesWords (bs.take 8)) 0
  let h := wordAt (bytesWords (bs.take 8)) 1
  if 1 ≤ w ∧ w ≤ 960 ∧ 1 ≤ h ∧ h ≤ 540 ∧ bs.length = 8 + 6 * w * h then some (w, h) else none

/-- Level 0 of an early plane is written from its texels, and its levels and occupancy map are formed (R264, R265). -/
def layOut (w h : Nat) (texel : Nat → Nat → Nat × Nat) (s : State) : FMap Byte :=
  let t := each (List.range h) (fun j => each (List.range w) (fun i t =>
    let x := texel i j
    t |> putWord (colAddr 0 w h 0 i j) x.1 |> putHalf (alpAddr 0 w h 0 i j) x.2)) (scratch s)
  FMap.keep (fun a => decide (a < 2 ^ 30)) (writeReduced 0 w h t).hbm

/-- The slate; without one, opaque black on one texel (R499; log 36). -/
def slatePlane (s : State) : (Nat × Nat) × FMap Byte :=
  match slateSize s with
  | none => ((1, 1), layOut 1 1 (fun _ _ => (c30 64 512 512, 1023)) s)
  | some (w, h) =>
    let bs := (FMap.get [] (halfItems (runHalf s) s) 0x23).drop 8
    let cs := bytesWords (bs.take (4 * w * h))
    let as_ := bs.drop (4 * w * h)
    ((w, h), layOut w h (fun i j =>
      let n := j * w + i
      (wordAt cs n % 2 ^ 30, ((as_.getD (2 * n) 0).toNat + 256 * (as_.getD (2 * n + 1) 0).toNat) % 1024)) s)

/-- A slate of `w` texels over `g` hogels, U4.12, rounded to nearest. -/
def earlyScale (w g : Nat) : Nat := min 65535 ((8192 * w + g) / (2 * g))

/-- The early PSD (R499). -/
def earlyPsd (w h : Nat) (s : State) : Psd :=
  let m := s.panel.map
  { seq := 0, blend := 0, crc := 0,
    anchors := [⟨0, 0, 0, [{ plane := 255, depth := 0, edge := 1, lut := 0, ox := 0, oy := 0, matrix := 0, range := 0, alphaMode := 2
                             scx := earlyScale w (m.gridWM1 + 1), scy := earlyScale h (m.gridHM1 + 1), planeAlpha := 0x400 }]⟩] }

/-- EARLY_MAP is a panel map (R53) whose CORRECTION would not fit (R412). -/
def earlyFull (s : State) : Bool :=
  let ws := storeItem 0x20 s
  decide (ws.length = 4100) && mapOk ws && correctionFull (parseMap ws) s

/-- EARLY_MAP as a panel map, every valid tile in group 0; none where it is absent or refused (R53, R412, R499). -/
def earlyMap (s : State) : Option PanelMap :=
  let ws := storeItem 0x20 s
  if ws.length ≠ 4100 ∨ mapOk ws = false ∨ correctionFull (parseMap ws) s = true then none
  else
    let m := parseMap ws
    some { m with tiles := m.tiles.map (fun e => (e.1, if e.2.valid then { e.2 with group := 0 } else e.2)) }

/-- The early FEED's stream context is opened by the firmware (R499; log 36). -/
def openFeed (s : State) : State :=
  let ws := (storeItem 0x22 s).drop 1
  if wordAt (storeItem 0x22 s) 0 ≠ 1 ∨ ws.length ≠ 24 ∨ ctxReason ws s ≠ 0 then s
  else
    let i := (firstBelow 1024 (fun i => decide ((s.ctx i).state = 0))).getD 0
    { s with fwu := { s.fwu with feed := some i } } |> State.setCtx i (parseCtx 8 ws) |> joinReports (parseCtx 8 ws)
      |> showCtx i |> showStr

/-- A page is enabled by the firmware. -/
def bootEnable (page : Nat) (s : State) : State := applyCtrl page true (getB (PG_CTRL_PARK page) s) s

/-- EARLY_TIMING: the staged timing set of group 0 and the lanes' rate (R499). -/
def loadTiming (s : State) : State :=
  let ws := storeItem 0x21 s
  if ws.length < 5 then s
  else s |> wr (RAS_RATE_NUM 0).addr (ws.getD 0 0) |> setF (RAS_ACTIVE_ACTIVE 0) (wordAt ws 1) |> setF (RAS_LEAD_LEAD 0) (wordAt ws 2)
    |> wr (RAS_PHASE 0).addr (ws.getD 3 0)

/-- The rate of the early lanes: EARLY_RATE where it is a rate code. -/
def earlyRate (lane : Nat) (s : State) : Nat :=
  let r := wordAt (storeItem 0x21 s) 4
  if 2 ≤ r ∧ r ≤ 16 then r else getF (laneF LNK_CTRL_RATE lane) s

/-- The early picture is started (R499, R500): map, stack slot 0, lanes, basins and group 0. -/
def startEarly (m : PanelMap) (s : State) : State :=
  let s := s |> acceptMap m 8 |> loadTiming
  let s := s.setGrp 0 { s.grp 0 with early := true }
  let p := earlyPsd s.fwu.earlyW s.fwu.earlyH s
  let s := s |> State.setSlot 0 { psd := some p, latched := false } |> setF (STK_SEQ 0) 0 |> setF (STK_CNT_LOADED 0) 1
  let lanes := m.lanes.flatMap (fun e => tileLanes e.1 s)
  let s := each lanes (fun k t => t |> setF (laneF LNK_CTRL_RATE k) (earlyRate k t) |> setB (laneF LNK_CTRL_EN k) true) s
  let pages := groupPages 0 s
  s |> each pages bootEnable |> openFeed |> bootEnable 0x90

/-- The pages that the firmware starts so that the conditions of R501 can come to hold (log 36). -/
def bootPages (s : State) : List Nat :=
  [1, 2, 4, 8, 0x10] ++ ((List.range 5).filter (fun p => (List.range 8).any (fun q => decide (storedBinding q s = (2, p))))).map (fun p => 0x20 + p) ++
  hbmPages ++ [0x178, 0x198] ++ ((List.range 8).filter (fun p => decide ((storedBinding p s).1 ≠ 0))).map (fun p => 0x190 + p) ++ [0x1A0, 0x1A1]

/-- The network port of the FEED is started. -/
def feedPort (s : State) : List Nat :=
  match s.fwu.feed with
  | some i => [0x20 + (s.ctx i).port]
  | none => []

/-- BOOT_REDUCED (R498–R500). -/
def execBootReduced (s : State) : Host.Outcome State Fault Refusal :=
  .next (if !mainOn s || decide (pwrState s ≠ 6) || decide (stage s ≠ 0) || s.fwu.recovery then s else
    let s := s |> migrate |> loadStore
    let e := slatePlane s
    let s := { s with fwu := { s.fwu with early := e.2, earlyW := e.1.1, earlyH := e.1.2 } } |> setF FWU_BOOT_STAGE 1 |> raise 0x1A0 2
    let s := each (bootPages s) bootEnable s
    let s := ifS (earlyFull s) (fun s => s |> countF HBM_TFULL |> raise 0x170 6) s
    let s := match earlyMap s with
      | some m => startEarly m s
      | none => s
    each (feedPort s) bootEnable s)

/-- A picture of layer 0 of the early FEED that is handed out (R499). -/
def feedTakes (r : LayerResult) : Bool :=
  r.output && decide (r.slot = 0) && decide (r.w ≤ 1920) && decide (r.h ≤ 1080) && decide (r.chroma = 1) && decide (1 ≤ r.pw) && decide (1 ≤ r.ph)

/-- A picture of the FEED is scaled to the slate's size with coefficient set 0, and is shown from the next FL (R278, R499). -/
def feedPicture (r : LayerResult) (s : State) : State :=
  let base := 2 ^ 30
  let p := refPitch r.w
  let t := scratch s |> writePicture base p r.h r.w r.h 1 (scaled r.depthY r.luma) (scaled r.depthC r.cb) (scaled r.depthC r.cr)
  let info : PicInfo := { addr := base, pitch := p, w := r.w, h := r.h, cropX := r.cropX, cropY := r.cropY, pw := r.pw, ph := r.ph
                          chroma := 1, loc := r.loc, maxH := r.h }
  let src : BuildSrc := ⟨0, { sw := r.pw, sh := r.ph, dw := s.fwu.earlyW, dh := s.fwu.earlyH, wa := 0x400 }, some info, none, false⟩
  let m := layOut s.fwu.earlyW s.fwu.earlyH (fun i j =>
    let c := windowCodes [] [] src i j t
    (c30 c.1 c.2.1 c.2.2.1, 1023)) s
  { s with fwu := { s.fwu with earlyNext := some m } }

/-- An access unit of the early FEED completes (R499). -/
def feedUnit (c : Nat) (res : DecodeResult) (s : State) : State :=
  let s := s.setCtx c { s.ctx c with queue := (s.ctx c).queue.tail }
  match res.layers.find? feedTakes with
  | some r => ifS (earlyMode s && s.fwu.feedOk) (feedPicture r) s
  | none => s

/-- ACCESS_UNIT_COMPLETE (R79, R249–R257, R273, R499): the unit's pictures are stored, its PSDs are judged, and the builds
paced by its context are queued. -/
def execAccessUnitComplete (ctx : Fin 1024) (res : DecodeResult) (loads : List Cmd) (s : State) :
    Host.Outcome State Fault Refusal :=
  let c := ctx.val
  .next (if s.fwu.feed = some c then acceptSeis c [] loads (if (s.ctx c).queue.isEmpty then s else feedUnit c res s)
    else match (s.binding c).decoding with
      | none => acceptSeis c [] loads s
      | some au =>
        let r := completeUnit c res s
        let s := acceptSeis c (unitNals c au res s) loads r.1
        match r.2 with
        | some media => queueContextBuilds c media s
        | none => s)

/-- The conditions of R501 hold, COR reads ON (R500), and no HBM page is in FAULT. The bindings are those read at boot (R464,
R504). -/
def fullReady (s : State) : Bool :=
  hbmPages.all (fun q => isOn q s) && isOn 0x148 s &&
  (List.range 8).all (fun p => decide (transport p s = 0) || isOn (0x190 + p) s) &&
  (List.range 16).all (fun z => (s.zone z).ran) && s.fwu.copied

/-- The FEED ends with early mode (log 36). -/
def closeFeed (s : State) : State :=
  match s.fwu.feed with
  | some i => { s with fwu := { s.fwu with feed := none } } |> State.setCtx i {} |> showCtx i |> showStr
  | none => s

/-- The switch of R501: slot 0 becomes the ADMIN partition's, and early mode ends at the next FL of group 0; at once where the group
has no frame to come. -/
def switchEarly (s : State) : State :=
  let s := setF (STK_CFG_OWNER 0) s.fwu.adminItem s
  if (s.grp 0).hasNext then { s with fwu := { s.fwu with earlyEnds := true } } else endEarly s

/-- BOOT_FULL (R498, R501). The FEED may have gone on since the plane was copied, so its texels are written once more. -/
def execBootFull (s : State) : Host.Outcome State Fault Refusal :=
  .next (if !mainOn s || decide (pwrState s ≠ 6) || decide (stage s ≠ 1) || !fullReady s then s else
    s |> writeEarly |> closeFeed |> ifS (earlyMode s) switchEarly |> setF FWU_BOOT_STAGE 2 |> setPwr 0 |> raise 0x1A0 3)

end Sys2Proof.Machine
end

