-- ==== Sys2Proof/Machine/Receive.lean ====
section
/-!
DEFINITION. Frames received on the network ports: the fault injector (R229), the checks of R213, the classification of R214
and its counters (R231), and the receive stamps (R215, R340).
-/

namespace Sys2Proof.Machine

/-! ## What a frame carries -/

/-- The frame carries IP. -/
def isIp (f : List Byte) : Bool := decide (etherType f = 0x0800) || decide (etherType f = 0x86DD)

/-- What follows the IPv6 header at `o` is UDP or ICMPv6, or MLD behind its hop-by-hop options: a query, report or done of MLDv1
or MLDv2; every other packet with an extension header is refused (R213, R214). DEDUCED (log 37): the slow path takes neighbour
discovery and MLD. -/
def ipv6Next (f : List Byte) (o : Nat) : Bool :=
  [17, 58].contains (beAt f (o + 6) 1) ||
  (decide (beAt f (o + 6) 1 = 0) && decide (beAt f (o + 40) 1 = 58) &&
    [130, 131, 132, 143].contains (beAt f (o + 48 + 8 * beAt f (o + 41) 1) 1))

/-- A frame that R213 refuses: not Ethernet II, two tags, an IP header that does not parse, a fragment, or IPv6 with an
extension header. -/
def badFormat (f : List Byte) : Bool :=
  let o := l3Start f
  decide (etherType f < 0x600) || twoTags f ||
  (decide (etherType f = 0x0800) &&
    (decide (ipVersion f o ≠ 4) || decide (ipHeader f o < 20) || decide (f.length < o + beAt f (o + 2) 2 + 4) ||
      decide (beAt f (o + 6) 2 % 0x4000 ≠ 0) || (ipUdp f o && decide (beAt f (o + 2) 2 < ipHeader f o + beAt f (o + ipHeader f o + 4) 2)))) ||
  (decide (etherType f = 0x86DD) &&
    (decide (ipVersion f o ≠ 6) || decide (f.length < o + 40 + beAt f (o + 4) 2 + 4) || !ipv6Next f o ||
      (ipUdp f o && decide (beAt f (o + 4) 2 < beAt f (o + 44) 2))))

/-- The UDP header of a frame, when it carries a UDP datagram. -/
def udpStart (f : List Byte) : Option Nat :=
  let o := l3Start f
  if isIp f && ipUdp f o then some (o + ipHeader f o) else none

/-- The IPv4 header checksum or the UDP checksum is wrong (R213); an absent checksum of IPv4 passes. -/
def badChecksum (f : List Byte) : Bool :=
  let o := l3Start f
  (decide (etherType f = 0x0800) && decide (onesFold (onesSum ((f.drop o).take (ipHeader f o)) 0) ≠ 0)) ||
  (match udpStart f with
    | none => false
    | some u =>
      let len := beAt f (u + 4) 2
      let addrs := if ipVersion f o = 4 then (f.drop (o + 12)).take 8 else (f.drop (o + 8)).take 32
      !(decide (ipVersion f o = 4) && decide (beAt f (u + 6) 2 = 0)) &&
        decide (onesFold (onesSum ((f.drop u).take len) (onesSum addrs (17 + len))) ≠ 0))

/-- The payload of the UDP datagram whose header is at `u`. -/
def udpPayload (f : List Byte) (u : Nat) : List Byte := (f.drop (u + 8)).take (beAt f (u + 4) 2 - 8)

/-- Source or destination address of the IP header, as words. -/
def ipAddr (f : List Byte) (dst : Bool) : List Word :=
  let o := l3Start f
  if ipVersion f o = 4 then [Word.ofNat (beAt f (o + (if dst then 16 else 12)) 4)]
  else (List.range 4).map (fun i => Word.ofNat (beAt f (o + (if dst then 24 else 8) + 4 * i) 4))

/-! ## Contexts and multicast groups -/

/-- VLAN_EN = 1 takes only frames tagged with VID; 0 takes untagged frames and those with VID 0 (R217). -/
def vlanTakes (x : Ctx) (f : List Byte) : Bool :=
  if x.vlanEn then decide (beAt f 12 2 = 0x8100) && decide (frameVid f = x.vid) else decide (frameVid f = 0)

/-- A path of a context takes the datagram (R214, R217). -/
def pathTakes (p : Nat) (f : List Byte) (u : Nat) (x : Ctx) (q : Nat × List Word × Nat × List Word) : Bool :=
  let n := if x.ipv6 then 4 else 1
  decide (q.1 = p) && decide (x.ipv6 = decide (ipVersion f (l3Start f) = 6)) && vlanTakes x f &&
  decide (q.2.1.take n = ipAddr f true) && decide (q.2.2.1 = beAt f (u + 2) 2) && (!x.srcf || decide (q.2.2.2.take n = ipAddr f false))

/-- The open context, and the path, that a frame on port `p` belongs to. -/
def ctxOf (p : Nat) (f : List Byte) (s : State) : Option (Nat × Bool) :=
  match udpStart f with
  | none => none
  | some u => s.str.ctxs.findSome? (fun e =>
      if e.2.state ≠ 1 then none else
      match (ctxPaths e.2).findIdx? (pathTakes p f u e.2) with
      | some i => some (e.1, decide (i = 1))
      | none => none)

/-- The MAC address of an IP multicast destination, 0 for a unicast one (RFC 1112, RFC 2464). -/
def groupMac (ipv6 : Bool) (dst : List Word) : Nat :=
  if ipv6 then (if wordAt dst 0 / 2 ^ 24 = 0xFF then 0x333300000000 + wordAt dst 3 else 0)
  else if wordAt dst 0 / 2 ^ 28 = 0xE then 0x01005E000000 + wordAt dst 0 % 2 ^ 23 else 0

/-- Group addresses that the firmware joins whatever the contexts: MAC control, PTP and the all-nodes groups (log 37). -/
def standingMacs : List Nat :=
  [0x0180C2000001, 0x011B19000000, 0x0180C200000E, 0x01005E000181, 0x333300000181, 0x01005E000001, 0x333300000001]

/-- The destination is the port's, broadcast, or a group joined on the port (R214). -/
def forUs (p mac : Nat) (s : State) : Bool :=
  decide (mac = getF (NET_MAC_HI_MAC_HI p) s * 2 ^ 32 + getF (NET_MAC_LO p) s) || decide (mac = 2 ^ 48 - 1) || standingMacs.contains mac ||
  decide (mac / 2 ^ 24 = 0x3333FF) ||
  (decide (mac ≠ 0) && s.str.ctxs.any (fun e => decide (e.2.state = 1) &&
    (ctxPaths e.2).any (fun q => decide (q.1 = p) && decide (groupMac e.2.ipv6 q.2.1 = mac))))

/-! ## Classification (R214) -/

/-- A drop is counted; the first since its counter was cleared raises RX_DROP (R230, R231). -/
def rxDrop (p : Nat) (f : Fld) (s : State) : State :=
  s |> countF f |> ifS (decide (getF f s = 0)) (raise (0x20 + p) 4)

/-- A time of 2⁻³² ns, less NET_RX_DELAY, as TNS (R215). -/
def rxStamp (p t : Nat) (s : State) : Nat :=
  ((t + 2 ^ 96 - getF (NET_RX_DELAY_DELAY p) s * 2 ^ 28) / 2 ^ 32) % 2 ^ 64

/-- A frame for the firmware's slow path, 10,000 in a second at most (R214; log 37). -/
def slowPath (p : Nat) (f : List Byte) (s : State) : State :=
  let sec := now s / 1000000000
  let w := FMap.get (0, 0) s.str.slow p
  let n := if w.1 = sec then w.2 else 0
  if 10000 ≤ n then rxDrop p (NET_RX_SLOWDROP p) s
  else { s with str := { s.str with slow := FMap.set (0, 0) s.str.slow p (sec, n + 1) } } |> emit (.slowPath p f) |> firmwareAnswers p f

/-- The JMP datagram in a frame, if its UDP destination is HST_JMPPORT (R466). -/
def jmpOf (p : Fin 5) (f : List Byte) (s : State) : Option JmpIn :=
  match udpStart f with
  | none => none
  | some u =>
    if beAt f (u + 2) 2 ≠ getF HST_JMPPORT_PORT s then none else
    let d := udpPayload f u
    some ⟨p, decide (ipVersion f (l3Start f) = 6), ipAddr f false, beAt f u 2, ipAddr f true, d.length,
      (List.range (d.length / 4)).map (fun i => Word.ofNat (beAt d (4 * i) 4))⟩

/-- A datagram of a request waits for the command that takes it; one of no request's TYPE is dropped (R466, R468; log 35), and
in the activation pause all are (R508). -/
def jmpArrives (m : JmpIn) (s : State) : State :=
  if s.fwu.pause then s
  else if !m.words.isEmpty && [1, 4, 5, 7, 8, 10, 11].contains (jmpType m) then { s with hst := { s.hst with jmpIn := s.hst.jmpIn ++ [m] } }
  else s |> jmpStamp m |> jmpDrop m

/-- Steps 5 to 7 of R214. -/
def classifyUdp (p : Fin 5) (f : List Byte) (s : State) : State :=
  let ctx := if p.val < 4 then ctxOf p.val f s else none
  match ctx with
  | some (c, b) =>
    if !isOn 0x28 s && decide (s.fwu.feed ≠ some c) then s
    else rtpPacket c b (udpPayload f ((udpStart f).getD 0)) (rxStamp p.val s.tim.s s) s
  | none => match jmpOf p f s with
    | some m => jmpArrives m s
    | none => slowPath p.val f s

/-- A frame reaches the port (R213–R215). -/
def receive (p : Fin 5) (f : List Byte) (fcsOk : Bool) (s : State) : State :=
  let i := p.val
  let s := ifS fcsOk (countF (NET_RX_FRAMES i)) s
  if !fcsOk then rxDrop i (NET_RX_FCS i) s
  else if f.length < 64 ∨ getF (NET_CFG_MAX_FRAME i) s < f.length then rxDrop i (NET_RX_SIZE i) s
  else if badFormat f then rxDrop i (NET_RX_FORMAT i) s
  else if badChecksum f then rxDrop i (NET_RX_CSUM i) s
  else if !forUs i (beAt f 0 6) s then rxDrop i (NET_RX_NOMATCH i) s
  else if etherType f = 0x8808 then ifS (decide (beAt f 14 2 = 0x0101)) (pfcFrame i f) s
  else match ptpOf f with
    | some (t, m) =>
      let src := if t = 2 then (f.drop 6).take 6 else (ipAddr f false).flatMap (fun w => natBe 4 w.toNat)
      each [0, 1] (fun d x => ifS (ptpMatches d i t m s) (ptpReceive d i src m (rxStamp i (s.dom d).count s)) x) s
    | none => classifyUdp p f s

/-! ## The injector (R229) -/

/-- The injector's kind has ended by itself. -/
def injEnds (p : Nat) (s : State) : State := s |> setF (NET_INJ_ARM p) 0 |> raise (0x20 + p) 5

/-- A packet of the target is affected. -/
def injApplied (p : Nat) (s : State) : State := addF (NET_INJ_STAT_APPLIED p) 1 s

/-- A packet of the injector's target context arrives. COUNT = 0 of DROP_BURST and DUPLICATE ends them at once (log 37). -/
def inject (p : Fin 5) (f : List Byte) (fcsOk : Bool) (s : State) : State :=
  let i := p.val
  let n := FMap.get 0 s.str.injSeen i + 1
  let count := getF (NET_INJ_COUNT i) s
  let s := { s with str := { s.str with injSeen := FMap.set 0 s.str.injSeen i n } }
  match getF (NET_INJ_KIND i) s with
  | 1 => if n % max 1 count = 0 then injApplied i s else receive p f fcsOk s
  | 2 => if count = 0 then s |> injEnds i |> receive p f fcsOk else s |> injApplied i |> ifS (decide (count ≤ n)) (injEnds i)
  | 3 =>
    let held := (s.str.delayed.map (fun d => d.frame.length)).sum
    if 67108864 < held + f.length then s |> injApplied i |> setB (NET_INJ_STAT_OVF i) true
    else { s with str := { s.str with delayed := s.str.delayed ++
        [⟨i, (now s + 1000 * getF (NET_INJ_PRM_DELAY_US i) s) % 2 ^ 64, f, fcsOk⟩] } } |> injApplied i
  | 4 => s |> injApplied i |> receive p f false |> injEnds i
  | 5 =>
    if count = 0 then s |> injEnds i |> receive p f fcsOk
    else s |> injApplied i |> receive p f fcsOk |> receive p f fcsOk |> ifS (decide (count ≤ n)) (injEnds i)
  | _ => receive p f fcsOk s

/-- The port takes frames: its page reads ON, its link is up, and its zone is not recalibrating (R230, R456). -/
def portTakes (p : Nat) (s : State) : Bool :=
  isOn (0x20 + p) s && getB (NET_STAT_LINK p) s && !getB (TRM_STAT_RUNNING (16 + p)) s

/-- FRAME_RECEIVED (R214, R229, R231); `frame` ends with its FCS, and `fecUnc` counts the uncorrectable codewords met with
it. -/
def execFrameReceived (port : Fin 5) (frame : List Byte) (fcsOk : Bool) (fecUnc : Nat) (s : State) : Host.Outcome State Fault Refusal :=
  let p := port.val
  .next (if !portTakes p s then s
    else
      let s := setF (NET_RX_FEC_UNC p) (min 0xFFFFFFFF (getF (NET_RX_FEC_UNC p) s + fecUnc)) s
      if decide (p < 4) && getB (NET_INJ_ARM p) s && decide ((ctxOf p frame s).map (fun c => c.1) = some (getF (NET_INJ_CTX p) s))
    then inject port frame fcsOk s else receive port frame fcsOk s)

/-- NET_INJ_DELAY_EXPIRE (R229): the oldest packet held for the port leaves when its time has come. -/
def execNetInjDelayExpire (port : Fin 5) (s : State) : Host.Outcome State Fault Refusal :=
  .next (match s.str.delayed.find? (fun d => decide (d.port = port.val)) with
    | none => s
    | some d => if !reached d.due s then s else
      let s := { s with str := { s.str with delayed := s.str.delayed.erase d } }
      ifS (portTakes port.val s) (receive port d.frame d.fcsOk) s)

end Sys2Proof.Machine
end

