-- ==== Sys2Proof/Machine/Timers.lean ====
section
/-!
DEFINITION. Timer channels at their edges (R344–R346, R355).
-/

namespace Sys2Proof.Machine

/-- The schedule after the edge at `t`: ONESHOT ends, PERIODIC goes on to its next k, FRAME waits for its next frame; an
edge of a cue action is used up (R344, R345, R355). -/
def advance (t : Nat) (x : Timer) : Timer :=
  if x.placed.contains t then { x with placed := x.placed.erase t }
  else if x.cued.contains t then { x with cued := x.cued.erase t }
  else match x.nextEdge with
    | some (_, k) => { x with nextEdge := if x.set.mode = 2 then some (x.set.edge (k + 1), k + 1) else none }
    | none => x

/-- The edge at `t` was that of an armed ONESHOT. -/
def oneshotEnds (t : Nat) (x : Timer) : Bool :=
  !x.placed.contains t && !x.cued.contains t && x.nextEdge.isSome && decide (x.set.mode ≠ 2)

/-- When the pulse of an edge at `t` ends: WIDTH later, or 8 ns before the next edge (R344). -/
def pulseEnd (t : Nat) (x : Timer) : Nat :=
  let e := t + x.set.width
  match earliest (scheduled x) with
  | some n => if tnsLe n e then n + 2 ^ 64 - 8 else e
  | none => e

/-- An internal channel acts on its target (R346): the frame trigger of a camera port, a conversion of the V-die converter, asked
for, or a recalibration. -/
def fireTarget (x : Timer) (s : State) : State :=
  match x.set.target with
  | 1 => camTrigger 0 s
  | 2 => camTrigger 1 s
  | 3 => { s with rim := { s.rim with convAsked := true } }
  | 4 => requestRun (x.set.cfg.toNat % 65536) s
  | _ => s

/-- A pulse of channel `c` is active: on its pin, or on the trigger ball of the camera port it triggers (R345, R394). -/
def pulseActive (c : Nat) (x : Timer) (s : State) : Bool :=
  x.activeUntil.isSome || (decide (8 ≤ c) && (x.set.target == 1 || x.set.target == 2) && (FMap.get none s.cam.trig (x.set.target - 1)).isSome)

/-- An edge of channel `c` at `t`: the pin is driven or the target triggered; with a pulse in progress it is merged. -/
def fire (c t : Nat) (s : State) : State :=
  let x := s.timer c
  let y := advance t x
  let s := ifS (oneshotEnds t x) (setB (TIM_CH_STAT_ARMED c) false) (s.setTimer c y)
  if pulseActive c x s then countF (TIM_CH_STAT_MERGED c) s
  else
    let s := s |> addF (TIM_CH_STAT_FIRED c) 1 |> raise 0x10 (11 + c)
    if c < 8 then s.setTimer c { y with activeUntil := some (pulseEnd t y % 2 ^ 64) } |> emit (.tp c (!y.set.pol))
    else fireTarget y s

/-- TIMER_EDGE (R344–R346, R355): the earliest edge whose time has come. -/
def execTimerEdge (ch : Fin 16) (s : State) : Host.Outcome State Fault Refusal :=
  let x := s.timer ch.val
  .next (match earliest ((scheduled x ++ x.cued).filter (fun t => reached t s)) with
    | some t => ifS (runs 0x10 s) (fire ch.val t) s
    | none => s)

/-- TIMER_PULSE_END (R344). -/
def execTimerPulseEnd (ch : Fin 16) (s : State) : Host.Outcome State Fault Refusal :=
  let x := s.timer ch.val
  .next (match x.activeUntil with
    | some u => ifS (reached u s) (fun s => s.setTimer ch.val { x with activeUntil := none } |> emit (.tp ch.val x.set.pol)) s
    | none => s)

end Sys2Proof.Machine
end

