-- ==== Sys2Proof/Machine/Dispatch.lean ====
section
/-!
DEFINITION. The dispatch of a command to its meaning: one arm for each constructor.
-/

namespace Sys2Proof.Machine

/-- The effect of a command on everything but the queue. -/
def exec (i : Instr) (s : State) : Host.Outcome State Fault Refusal :=
  match i with
  | .pgEnable who page v => Sys2Proof.Machine.execPgEnable who page v s
  | .pgPark who page v => Sys2Proof.Machine.execPgPark who page v s
  | .pgReset who page enable park => Sys2Proof.Machine.execPgReset who page enable park s
  | .blockReady page => Sys2Proof.Machine.execBlockReady page s
  | .blockIdlePoint page => Sys2Proof.Machine.execBlockIdlePoint page s
  | .stopComplete page => Sys2Proof.Machine.execStopComplete page s
  | .blockInternalFault page code => Sys2Proof.Machine.execBlockInternalFault page code s
  | .registerWrite reqs => Sys2Proof.Machine.execRegisterWrite reqs s
  | .bar0BadAccess p addr => Sys2Proof.Machine.execBar0BadAccess p addr s
  | .bar2WindowAccess p off acc => Sys2Proof.Machine.execBar2WindowAccess p off acc s
  | .evPendClear who page mask => Sys2Proof.Machine.execEvPendClear who page mask s
  | .evSetWrite who page mask => Sys2Proof.Machine.execEvSetWrite who page mask s
  | .hstEpendClear who p w mask => Sys2Proof.Machine.execHstEpendClear who p w mask s
  | .panelMapLoad cs lost => Sys2Proof.Machine.execPanelMapLoad cs lost s
  | .psdLoad cs => Sys2Proof.Machine.execPsdLoad cs s
  | .lutLoad c => Sys2Proof.Machine.execLutLoad c s
  | .blendLoad c => Sys2Proof.Machine.execBlendLoad c s
  | .outlutLoad c => Sys2Proof.Machine.execOutlutLoad c s
  | .frameLatch g => Sys2Proof.Machine.execFrameLatch g s
  | .frameStart g => Sys2Proof.Machine.execFrameStart g s
  | .rasModeApply who g => Sys2Proof.Machine.execRasModeApply who g s
  | .fanRowStart fan => Sys2Proof.Machine.execFanRowStart fan s
  | .rayEntersJet jet idle => Sys2Proof.Machine.execRayEntersJet jet idle s
  | .anchorCacheFill fan cycles => Sys2Proof.Machine.execAnchorCacheFill fan cycles s
  | .virtualProbeRay probe jet idle => Sys2Proof.Machine.execVirtualProbeRay probe jet idle s
  | .probeDone probe => Sys2Proof.Machine.execProbeDone probe s
  | .synCapWrite who b v => Sys2Proof.Machine.execSynCapWrite who b v s
  | .rowDeparture lane => Sys2Proof.Machine.execRowDeparture lane s
  | .synPoolWrite who lane v => Sys2Proof.Machine.execSynPoolWrite who lane v s
  | .echoCompare lane seen codeErrors => Sys2Proof.Machine.execEchoCompare lane seen codeErrors s
  | .lnkEnWrite who lane en => Sys2Proof.Machine.execLnkEnWrite who lane en s
  | .lnkRateWrite who lane rate => Sys2Proof.Machine.execLnkRateWrite who lane rate s
  | .lnkLoopWrite who lane loop => Sys2Proof.Machine.execLnkLoopWrite who lane loop s
  | .lnkBlankWrite who lane blank => Sys2Proof.Machine.execLnkBlankWrite who lane blank s
  | .unblank who lane fault => Sys2Proof.Machine.execUnblank who lane fault s
  | .lnkInjArm who page v => Sys2Proof.Machine.execLnkInjArm who page v s
  | .rxCommaDetect lane group => Sys2Proof.Machine.execRxCommaDetect lane group s
  | .rxIdleReceived lane groups => Sys2Proof.Machine.execRxIdleReceived lane groups s
  | .rxCodeError lane groups => Sys2Proof.Machine.execRxCodeError lane groups s
  | .statusPacketRx lane groups => Sys2Proof.Machine.execStatusPacketRx lane groups s
  | .faultSetRx lane groups latency => Sys2Proof.Machine.execFaultSetRx lane groups latency s
  | .statusTimeout lane => Sys2Proof.Machine.execStatusTimeout lane s
  | .rateAckTimeout lane => Sys2Proof.Machine.execRateAckTimeout lane s
  | .rateSwitchDelay lane => Sys2Proof.Machine.execRateSwitchDelay lane s
  | .rateReadyTimeout lane => Sys2Proof.Machine.execRateReadyTimeout lane s
  | .blankRepeat lane => Sys2Proof.Machine.execBlankRepeat lane s
  | .lanePllUnlock lane => Sys2Proof.Machine.execLanePllUnlock lane s
  | .raymapLoad c => Sys2Proof.Machine.execRaymapLoad c s
  | .raymapCheckDone lane => Sys2Proof.Machine.execRaymapCheckDone lane s
  | .gainLoad c => Sys2Proof.Machine.execGainLoad c s
  | .gainDerive c => Sys2Proof.Machine.execGainDerive c s
  | .gainDeriveDone => Sys2Proof.Machine.execGainDeriveDone s
  | .ageingCurveLoad c => Sys2Proof.Machine.execAgeingCurveLoad c s
  | .counterExport c lost => Sys2Proof.Machine.execCounterExport c lost s
  | .gainExport c => Sys2Proof.Machine.execGainExport c s
  | .counterImport c => Sys2Proof.Machine.execCounterImport c s
  | .gainImport c => Sys2Proof.Machine.execGainImport c s
  | .stressRowUpdate lane row intact => Sys2Proof.Machine.execStressRowUpdate lane row intact s
  | .corStrExpWrite who v => Sys2Proof.Machine.execCorStrExpWrite who v s
  | .stressTableRegenDone => Sys2Proof.Machine.execStressTableRegenDone s
  | .frameReceived port frame fcsOk fecUnc => Sys2Proof.Machine.execFrameReceived port frame fcsOk fecUnc s
  | .portLinkChange port up status => Sys2Proof.Machine.execPortLinkChange port up status s
  | .mergeGapTimeout ctx => Sys2Proof.Machine.execMergeGapTimeout ctx s
  | .pathTimeout ctx pathB => Sys2Proof.Machine.execPathTimeout ctx pathB s
  | .ctxOpen cs => Sys2Proof.Machine.execCtxOpen cs s
  | .ctxClose c => Sys2Proof.Machine.execCtxClose c s
  | .ctxReleaseDone ctx => Sys2Proof.Machine.execCtxReleaseDone ctx s
  | .strSelWrite who w v => Sys2Proof.Machine.execStrSelWrite who w v s
  | .netInjArm who port v => Sys2Proof.Machine.execNetInjArm who port v s
  | .netInjDelayExpire port => Sys2Proof.Machine.execNetInjDelayExpire port s
  | .decBind cs => Sys2Proof.Machine.execDecBind cs s
  | .decUnbind c => Sys2Proof.Machine.execDecUnbind c s
  | .unbindDone ctx => Sys2Proof.Machine.execUnbindDone ctx s
  | .decodeStart ctx info => Sys2Proof.Machine.execDecodeStart ctx info s
  | .accessUnitComplete ctx res loads => Sys2Proof.Machine.execAccessUnitComplete ctx res loads s
  | .decSelWrite who v => Sys2Proof.Machine.execDecSelWrite who v s
  | .planeAlloc c also => Sys2Proof.Machine.execPlaneAlloc c also s
  | .planeSet c also => Sys2Proof.Machine.execPlaneSet c also s
  | .planePresent c => Sys2Proof.Machine.execPlanePresent c s
  | .planeFree c also => Sys2Proof.Machine.execPlaneFree c also s
  | .planeFreed plane => Sys2Proof.Machine.execPlaneFreed plane s
  | .bufRelease c => Sys2Proof.Machine.execBufRelease c s
  | .winSet c also => Sys2Proof.Machine.execWinSet c also s
  | .winClear c also => Sys2Proof.Machine.execWinClear c also s
  | .coefLoad c => Sys2Proof.Machine.execCoefLoad c s
  | .buildStart plane => Sys2Proof.Machine.execBuildStart plane s
  | .watermark k => Sys2Proof.Machine.execWatermark k s
  | .buildComplete => Sys2Proof.Machine.execBuildComplete s
  | .draw cs => Sys2Proof.Machine.execDraw cs s
  | .drawComplete spans => Sys2Proof.Machine.execDrawComplete spans s
  | .dmaCopy c => Sys2Proof.Machine.execDmaCopy c s
  | .dmaCopyDone c spans before ok => Sys2Proof.Machine.execDmaCopyDone c spans before ok s
  | .asmPselWrite who v => Sys2Proof.Machine.execAsmPselWrite who v s
  | .encOpen cs => Sys2Proof.Machine.execEncOpen cs s
  | .encClose c => Sys2Proof.Machine.execEncClose c s
  | .encCapture sess => Sys2Proof.Machine.execEncCapture sess s
  | .encCaptureDone sess => Sys2Proof.Machine.execEncCaptureDone sess s
  | .encPictureStart core => Sys2Proof.Machine.execEncPictureStart core s
  | .encPictureDone core res => Sys2Proof.Machine.execEncPictureDone core res s
  | .forceIdr who sess => Sys2Proof.Machine.execForceIdr who sess s
  | .roiApply who sess => Sys2Proof.Machine.execRoiApply who sess s
  | .encSRdWrite who sess v => Sys2Proof.Machine.execEncSRdWrite who sess v s
  | .egrSubOpen cs => Sys2Proof.Machine.execEgrSubOpen cs s
  | .egrSubClose c => Sys2Proof.Machine.execEgrSubClose c s
  | .egrSend c => Sys2Proof.Machine.execEgrSend c s
  | .egrFrameTxStart port => Sys2Proof.Machine.execEgrFrameTxStart port s
  | .egrFrameTxEnd port => Sys2Proof.Machine.execEgrFrameTxEnd port s
  | .tokenTick => Sys2Proof.Machine.execTokenTick s
  | .egrBucketWrite who queue burst v => Sys2Proof.Machine.execEgrBucketWrite who queue burst v s
  | .gclLoad c => Sys2Proof.Machine.execGclLoad c s
  | .configChange who port => Sys2Proof.Machine.execConfigChange who port s
  | .gclCancel who port => Sys2Proof.Machine.execGclCancel who port s
  | .gclChangeTime port => Sys2Proof.Machine.execGclChangeTime port s
  | .gateEntryEnd port => Sys2Proof.Machine.execGateEntryEnd port s
  | .pfcPauseExpire port cls => Sys2Proof.Machine.execPfcPauseExpire port cls s
  | .egrSampleTick => Sys2Proof.Machine.execEgrSampleTick s
  | .egrQClear who => Sys2Proof.Machine.execEgrQClear who s
  | .aoclkTick => Sys2Proof.Machine.execAoclkTick s
  | .timSelDomainWrite who d => Sys2Proof.Machine.execTimSelDomainWrite who d s
  | .timSelJump who => Sys2Proof.Machine.execTimSelJump who s
  | .timDValidWrite who d v => Sys2Proof.Machine.execTimDValidWrite who d v s
  | .timDIncWrite who d v => Sys2Proof.Machine.execTimDIncWrite who d v s
  | .timDAdjWrite who d v => Sys2Proof.Machine.execTimDAdjWrite who d v s
  | .timDSet who d => Sys2Proof.Machine.execTimDSet who d s
  | .timSnap who => Sys2Proof.Machine.execTimSnap who s
  | .announceTimeout d => Sys2Proof.Machine.execAnnounceTimeout d s
  | .ptpDelayReqSend d port unicast => Sys2Proof.Machine.execPtpDelayReqSend d port unicast s
  | .ppsInEdge => Sys2Proof.Machine.execPpsInEdge s
  | .txqPop who port => Sys2Proof.Machine.execTxqPop who port s
  | .timerArm who ch => Sys2Proof.Machine.execTimerArm who ch s
  | .timerDisarm who ch => Sys2Proof.Machine.execTimerDisarm who ch s
  | .timerEdge ch => Sys2Proof.Machine.execTimerEdge ch s
  | .timerPulseEnd ch => Sys2Proof.Machine.execTimerPulseEnd ch s
  | .aoclkLoss => Sys2Proof.Machine.execAoclkLoss s
  | .cueLoad cs => Sys2Proof.Machine.execCueLoad cs s
  | .cueStop c => Sys2Proof.Machine.execCueStop c s
  | .cuePreset c => Sys2Proof.Machine.execCuePreset c s
  | .cueSkip l => Sys2Proof.Machine.execCueSkip l s
  | .rimImageStore c => Sys2Proof.Machine.execRimImageStore c s
  | .rimRegionOpen cs => Sys2Proof.Machine.execRimRegionOpen cs s
  | .rimRegionSet c => Sys2Proof.Machine.execRimRegionSet c s
  | .rimRegionClose c => Sys2Proof.Machine.execRimRegionClose c s
  | .rimUpdate c => Sys2Proof.Machine.execRimUpdate c s
  | .rimArbiterTick => Sys2Proof.Machine.execRimArbiterTick s
  | .commonLineComplete => Sys2Proof.Machine.execCommonLineComplete s
  | .rimBandLoad c => Sys2Proof.Machine.execRimBandLoad c s
  | .rimPersist c => Sys2Proof.Machine.execRimPersist c s
  | .rimPersistWrite => Sys2Proof.Machine.execRimPersistWrite s
  | .persisted intact => Sys2Proof.Machine.execPersisted intact s
  | .rimRestore => Sys2Proof.Machine.execRimRestore s
  | .converterConversion r => Sys2Proof.Machine.execConverterConversion r s
  | .boostReady => Sys2Proof.Machine.execBoostReady s
  | .boostIdleTimeout => Sys2Proof.Machine.execBoostIdleTimeout s
  | .vhvLoss v => Sys2Proof.Machine.execVhvLoss v s
  | .vhvRise => Sys2Proof.Machine.execVhvRise s
  | .csiFrameStart port vc num => Sys2Proof.Machine.execCsiFrameStart port vc num s
  | .csiLine port line => Sys2Proof.Machine.execCsiLine port line s
  | .csiFrameEnd port vc => Sys2Proof.Machine.execCsiFrameEnd port vc s
  | .camOutputComplete o => Sys2Proof.Machine.execCamOutputComplete o s
  | .camI3c c => Sys2Proof.Machine.execCamI3c c s
  | .i3cTransferDone port ack data => Sys2Proof.Machine.execI3cTransferDone port ack data s
  | .i3cIbi port addr payload => Sys2Proof.Machine.execI3cIbi port addr payload s
  | .camExpset c => Sys2Proof.Machine.execCamExpset c s
  | .expsetWritten k ack => Sys2Proof.Machine.execExpsetWritten k ack s
  | .expsetSlotClose k => Sys2Proof.Machine.execExpsetSlotClose k s
  | .camDefectLoad c => Sys2Proof.Machine.execCamDefectLoad c s
  | .camToneLoad c => Sys2Proof.Machine.execCamToneLoad c s
  | .camWinLoad c => Sys2Proof.Machine.execCamWinLoad c s
  | .camSensorEnable who k v => Sys2Proof.Machine.execCamSensorEnable who k v s
  | .camOutputEnable who o v => Sys2Proof.Machine.execCamOutputEnable who o v s
  | .hbmTrainingDone stack res => Sys2Proof.Machine.execHbmTrainingDone stack res s
  | .hbmTempPoll stack temp drift => Sys2Proof.Machine.execHbmTempPoll stack temp drift s
  | .hbmEccError stack addr port kind => Sys2Proof.Machine.execHbmEccError stack addr port kind s
  | .hbmScrubPass stack found => Sys2Proof.Machine.execHbmScrubPass stack found s
  | .slcCompress c also => Sys2Proof.Machine.execSlcCompress c also s
  | .slcFlush c also => Sys2Proof.Machine.execSlcFlush c also s
  | .slcDecompress c also => Sys2Proof.Machine.execSlcDecompress c also s
  | .pwrSet cs => Sys2Proof.Machine.execPwrSet cs s
  | .standbyEntered => Sys2Proof.Machine.execStandbyEntered s
  | .wakeNLow => Sys2Proof.Machine.execWakeNLow s
  | .timedWake => Sys2Proof.Machine.execTimedWake s
  | .standbyWakeDone => Sys2Proof.Machine.execStandbyWakeDone s
  | .mainPgRise => Sys2Proof.Machine.execMainPgRise s
  | .mainPgFall => Sys2Proof.Machine.execMainPgFall s
  | .mainPgTimeout => Sys2Proof.Machine.execMainPgTimeout s
  | .resetNLow => Sys2Proof.Machine.execResetNLow s
  | .resetNRelease pcieBif wakeLow => Sys2Proof.Machine.execResetNRelease pcieBif wakeLow s
  | .perstNChange port high => Sys2Proof.Machine.execPerstNChange port high s
  | .pllUnlock pll => Sys2Proof.Machine.execPllUnlock pll s
  | .refLost ref => Sys2Proof.Machine.execRefLost ref s
  | .thermalConversion readings => Sys2Proof.Machine.execThermalConversion readings s
  | .throttleGraceExpire => Sys2Proof.Machine.execThrottleGraceExpire s
  | .throttleStep => Sys2Proof.Machine.execThrottleStep s
  | .thmCfgWrite who v => Sys2Proof.Machine.execThmCfgWrite who v s
  | .thermalTrip src => Sys2Proof.Machine.execThermalTrip src s
  | .thermalRestart => Sys2Proof.Machine.execThermalRestart s
  | .trmReq who v => Sys2Proof.Machine.execTrmReq who v s
  | .laneRecalWindow lane width => Sys2Proof.Machine.execLaneRecalWindow lane width s
  | .portRecal zone => Sys2Proof.Machine.execPortRecal zone s
  | .recalDone zone limit => Sys2Proof.Machine.execRecalDone zone limit s
  | .descriptorFetch p => Sys2Proof.Machine.execDescriptorFetch p s
  | .hstCmdTailWrite who p v => Sys2Proof.Machine.execHstCmdTailWrite who p v s
  | .hstCplHeadWrite who p v => Sys2Proof.Machine.execHstCplHeadWrite who p v s
  | .hstRingRun who p run => Sys2Proof.Machine.execHstRingRun who p run s
  | .ringFetchFail p completion => Sys2Proof.Machine.execRingFetchFail p completion s
  | .nop c => Sys2Proof.Machine.execNop c s
  | .hstSemAcquire reqs => Sys2Proof.Machine.execHstSemAcquire reqs s
  | .hstSemRelease who n => Sys2Proof.Machine.execHstSemRelease who n s
  | .hstRegWrite who p k size v => Sys2Proof.Machine.execHstRegWrite who p k size v s
  | .hstHwinWrite who p k w v => Sys2Proof.Machine.execHstHwinWrite who p k w v s
  | .hstAdminWrite who v => Sys2Proof.Machine.execHstAdminWrite who v s
  | .jmpCommand m => Sys2Proof.Machine.execJmpCommand m s
  | .jmpRegRead m => Sys2Proof.Machine.execJmpRegRead m s
  | .jmpRegWrite m => Sys2Proof.Machine.execJmpRegWrite m s
  | .jmpMemWrite m => Sys2Proof.Machine.execJmpMemWrite m s
  | .jmpMemRead m => Sys2Proof.Machine.execJmpMemRead m s
  | .jmpPower m => Sys2Proof.Machine.execJmpPower m s
  | .jmpWake m => Sys2Proof.Machine.execJmpWake m s
  | .jmpEventSend p sent => Sys2Proof.Machine.execJmpEventSend p sent s
  | .fwuBegin c => Sys2Proof.Machine.execFwuBegin c s
  | .fwuChunk c => Sys2Proof.Machine.execFwuChunk c s
  | .fwuVerify c => Sys2Proof.Machine.execFwuVerify c s
  | .fwuActivate c => Sys2Proof.Machine.execFwuActivate c s
  | .activationPauseEnd us => Sys2Proof.Machine.execActivationPauseEnd us s
  | .fwuConfirm c => Sys2Proof.Machine.execFwuConfirm c s
  | .fwuAbort c => Sys2Proof.Machine.execFwuAbort c s
  | .fwWatchdogExpire => Sys2Proof.Machine.execFwWatchdogExpire s
  | .cfgItem c => Sys2Proof.Machine.execCfgItem c s
  | .cfgHalfErase => Sys2Proof.Machine.execCfgHalfErase s
  | .attReport cs => Sys2Proof.Machine.execAttReport cs s
  | .bootReduced => Sys2Proof.Machine.execBootReduced s
  | .bootFull => Sys2Proof.Machine.execBootFull s
  | .fwuRcvProgram who v => Sys2Proof.Machine.execFwuRcvProgram who v s
  | .fwuRcvVerify who v => Sys2Proof.Machine.execFwuRcvVerify who v s
  | .evtSelWrite who v => Sys2Proof.Machine.execEvtSelWrite who v s
  | .egrSselWrite who queue v => Sys2Proof.Machine.execEgrSselWrite who queue v s
  | .patternWordRx lane groups => Sys2Proof.Machine.execPatternWordRx lane groups s
  | .camTrigPulseEnd port => Sys2Proof.Machine.execCamTrigPulseEnd port s
  | .slcCommandDone decode => Sys2Proof.Machine.execSlcCommandDone decode s
  | .pcieLinkChange port what => Sys2Proof.Machine.execPcieLinkChange port what s
  | .functionLevelReset p => Sys2Proof.Machine.execFunctionLevelReset p s
  | .refClockReturn ref => Sys2Proof.Machine.execRefClockReturn ref s

end Sys2Proof.Machine
end

