-- ==== Sys2Proof/Safety.lean ====
section
/-!
DEFINITION. What counts as a well-kept state: registers and memories in their canonical form, and no byte of HBM listed
above its range (R410). And what a write and a host command need before they have their effect, and what raising an event
may touch, in the words the statements use.
-/

namespace Sys2Proof.Machine

/-- The canonical form of a memory: addresses strictly rising, and no entry equal to what an unlisted byte reads as. -/
def Memory.wf (m : FMap Byte) : Bool := FMap.wf (fun _ => 0) m

/-- The canonical form of the register file, whose unlisted registers read their reset values (R526). -/
def Registers.wf (m : FMap Word) : Bool := FMap.wf resetWord m

/-- Every listed byte lies in HBM's range (R410). -/
def Memory.inHbm (m : FMap Byte) : Bool := m.all (fun e => decide (e.1 < hbmTop))

/-- Registers, HBM and host memory in canonical form, and HBM within its range. -/
def State.Canonical (s : State) : Prop :=
  Registers.wf s.regs = true ∧ Memory.wf s.hbm = true ∧ Memory.inHbm s.hbm = true ∧ Memory.wf s.hostMem = true

/-- A write to an ordinary register of `page` goes through: the page is assigned and answers, and the writer is firmware,
the page's owner or the acting administrator (R32, R471, R515, R524). -/
abbrev Accepted (who : Who) (page : Nat) (s : State) : Prop :=
  assigned page = true ∧ answers page s = true ∧ mayWrite who page s = true

/-- A write to a register of `page` that its owner and firmware alone write goes through. -/
abbrev OwnerAccepted (who : Who) (page : Nat) (s : State) : Prop :=
  assigned page = true ∧ answers page s = true ∧ isOwner who page s = true

/-- A host command is dispatched, nothing before it holds it back, and every page it depends on reads ON
(R476–R478, R548). -/
abbrev Served (op : Nat) (c : Cmd) (s : State) : Prop :=
  mayStart op c s = true ∧ gate (judgedPages op c) s = .ready

/-- The SRC operand has the length the opcode fixes and its read does not fail (R480, R482). -/
abbrev SrcReads (c : Cmd) (n : Nat) (s : State) : Prop := c.src.len = n ∧ srcBad c s = false

/-- The registers that raising an event can write: EV_RAW and EV_PEND of a page, HST_EPEND of a partition, and the
bitmaps SYS_SCHG and SYS_FLT. -/
def eventReg (a : Nat) : Bool :=
  decide (a % 4096 = 0x10) || decide (a % 4096 = 0x18) ||
  (decide (0x190 ≤ a / 4096) && decide (a / 4096 ≤ 0x197) && decide (0x400 ≤ a % 4096) && decide (a % 4096 < 0x500)) ||
  (decide (0x200 ≤ a) && decide (a < 0x280))

/-- From `s` to `t` nothing changes but event registers, deliveries, counts of raises and what has left the device. -/
structure EventOnly (s t : State) : Prop where
  rd : ∀ a, eventReg a = false → rd a t = rd a s
  hbm : t.hbm = s.hbm
  hostMem : t.hostMem = s.hostMem
  poison : t.poison = s.poison
  panel : t.panel = s.panel
  ras : t.ras = s.ras
  lnk : t.lnk = s.lnk
  cor : t.cor = s.cor
  str : t.str = s.str
  dec : t.dec = s.dec
  asm : t.asm = s.asm
  enc : t.enc = s.enc
  egr : t.egr = s.egr
  tim : t.tim = s.tim
  cue : t.cue = s.cue
  rim : t.rim = s.rim
  cam : t.cam = s.cam
  slc : t.slc = s.slc
  pwr : t.pwr = s.pwr
  fwu : t.fwu = s.fwu
  free : t.free = s.free
  pending : t.pending = s.pending

end Sys2Proof.Machine
end

