-- ==== Sys2Proof/Certificates/Slice0/Obligations.lean ====
section
/-!
DEFINITION. The statements about the model, for the provers. Each says in its docstring which rules it rests on; a clause
that rests on a choice of the model names the log entry. `Accepted`, `OwnerAccepted`, `Served` and `SrcReads` are in Safety.
-/

open Sys2Proof Sys2Proof.Machine

/-- A PG_CTRL write of an accessor that may control the page (R35, R37, R474), state by state. -/
def Obligations.LifecycleWritesComplete : Prop :=
  ∀ (who : Who) (page : Nat) (s : State), assigned page = true → hasLifecycle page = true → answers page s = true →
    (mayControl who page s = false → ∀ v, exec (.pgEnable who page v) s = .next (rejectWrite who s) ∧
      exec (.pgPark who page v) s = .next (rejectWrite who s) ∧
      ∀ w, exec (.pgReset who page v w) s = .next (rejectWrite who s)) ∧
    (mayControl who page s = true →
      (getF (PG_STAT_STATE page) s = 0 → exec (.pgEnable who page true) s =
        .next (s |> setB (PG_CTRL_ENABLE page) true |> setB (PG_CTRL_PARK page) (getB (PG_CTRL_PARK page) s)
          |> starts page |> showPlls)) ∧
      (getF (PG_STAT_STATE page) s = 3 → exec (.pgEnable who page true) s =
        .next (s |> setB (PG_CTRL_ENABLE page) true |> setB (PG_CTRL_PARK page) (getB (PG_CTRL_PARK page) s)
          |> setState page 4 |> showPlls)) ∧
      (getF (PG_STAT_STATE page) s = 1 ∨ getF (PG_STAT_STATE page) s = 4 → exec (.pgEnable who page false) s =
        .next (s |> setB (PG_CTRL_ENABLE page) false |> setB (PG_CTRL_PARK page) (getB (PG_CTRL_PARK page) s)
          |> setState page 3 |> showPlls)) ∧
      (getF (PG_STAT_STATE page) s = 2 → ¬(0x190 ≤ page ∧ page ≤ 0x197) → exec (.pgEnable who page false) s =
        .next (s |> setB (PG_CTRL_ENABLE page) false |> setB (PG_CTRL_PARK page) (getB (PG_CTRL_PARK page) s)
          |> setState page 3 |> showPlls)) ∧
      (getF (PG_STAT_STATE page) s = 2 → 0x190 ≤ page ∧ page ≤ 0x197 → exec (.pgEnable who page false) s =
        .next (s |> setB (PG_CTRL_ENABLE page) false |> setB (PG_CTRL_PARK page) (getB (PG_CTRL_PARK page) s)
          |> setState page 3 |> beginTeardown (page - 0x190) |> showPlls)) ∧
      (getF (PG_STAT_STATE page) s = 2 → getB (PG_CTRL_ENABLE page) s = true → ∀ v, exec (.pgPark who page v) s =
        .next (s |> setB (PG_CTRL_ENABLE page) true |> setB (PG_CTRL_PARK page) v |> ifS (decide (page = 0x180)) rimServe |> showPlls)) ∧
      (getF (PG_STAT_STATE page) s = 5 → getB (PG_CTRL_ENABLE page) s = true → exec (.pgPark who page false) s =
        .next (s |> setB (PG_CTRL_ENABLE page) true |> setB (PG_CTRL_PARK page) false
          |> unpark page |> showPlls)) ∧
      (∀ en park, getF (PG_STAT_STATE page) s ∈ [0, 5, 7] →
        exec (.pgReset who page en park) s = .next (resetPage page s)) ∧
      (∀ en park, getF (PG_STAT_STATE page) s ∉ [0, 5, 7] →
        exec (.pgReset who page en park) s = .next (s |> applyCtrl page en park |> raise 0 4)))

/-- What blocks do by themselves (R35, R38, R39). -/
def Obligations.LifecycleProgressCompletes : Prop :=
  ∀ (page : Nat) (s : State) (traffic : State → State), lives page s = true →
    traffic = ifS (hbmPages.contains page) (advanceTraffic (page - 0x170)) →
    (getF (PG_STAT_STATE page) s = 1 → selfReady page s = true → (deps page s).all (fun q => isOn q s) = true →
      (getB (PG_CTRL_PARK page) s = true → page ≠ 0x10 → page ≠ 2 →
        exec (.blockReady page) s = .next (s |> calibrate page |> setState page 5 |> goesParked page)) ∧
      (page = 0x10 ∨ page = 2 →
        exec (.blockReady page) s = .next (s |> calibrate page |> setState page 2 |> goesOn page |> showPlls |> bootHbmOn page)) ∧
      (getB (PG_CTRL_PARK page) s = false → 0x90 ≤ page ∧ page ≤ 0x93 →
        exec (.blockReady page) s = .next (chooseFirst (page - 0x90) s)) ∧
      (getB (PG_CTRL_PARK page) s = false → ¬(0x90 ≤ page ∧ page ≤ 0x93) →
        exec (.blockReady page) s = .next (s |> calibrate page |> setState page 2 |> goesOn page |> showPlls |> bootHbmOn page))) ∧
    (getF (PG_STAT_STATE page) s = 5 → 0x90 ≤ page ∧ page ≤ 0x93 → (s.grp (page - 0x90)).resuming = true →
      selfReady page s = true → (deps page s).all (fun q => isOn q s) = true →
      exec (.blockReady page) s = .next (chooseFirst (page - 0x90) s)) ∧
    (getF (PG_STAT_STATE page) s = 2 → getB (PG_CTRL_PARK page) s = true → atIdlePoint page s = true →
      exec (.blockIdlePoint page) s = .next (s |> traffic |> setState page 5 |> goesParked page |> showPlls)) ∧
    (workDone page s = true → dependentsIn [0, 7] page s = true → ¬(0x190 ≤ page ∧ page ≤ 0x197) →
      (getF (PG_STAT_STATE page) s = 3 → exec (.stopComplete page) s =
        .next (s |> traffic |> setState page 0 |> goesOff page |> showPlls)) ∧
      (getF (PG_STAT_STATE page) s = 4 → exec (.stopComplete page) s =
        .next (s |> traffic |> goesOff page |> starts page |> showPlls))) ∧
    (∀ t, workDone page s = true → dependentsIn [0, 7] page s = true → 0x190 ≤ page ∧ page ≤ 0x197 →
      t = closeRegions (page - 0x190) (beginTeardown (page - 0x190) s) → tornDown (page - 0x190) t = true →
      (getF (PG_STAT_STATE page) s = 3 → exec (.stopComplete page) s =
        .next (t |> endTeardown (page - 0x190) |> setState page 0 |> goesOff page |> showPlls)) ∧
      (getF (PG_STAT_STATE page) s = 4 → exec (.stopComplete page) s =
        .next (t |> endTeardown (page - 0x190) |> goesOff page |> starts page |> showPlls))) ∧
    (∀ code, getF (PG_STAT_STATE page) s ≠ 7 →
      (¬(page = 0x10 ∧ code % 256 = 1) → exec (.blockInternalFault page code) s =
        .next (s |> ifS (decide (code % 256 = 1) && hasPll page) unlocked |> blockFaults page code)) ∧
      (page = 0x10 ∧ code % 256 = 1 →
        exec (.blockInternalFault page code) s = .next (s |> blockFaults page code |> aoclkGone)))

/-- REGISTER_WRITE with one write (R32, R471, R515). -/
def Obligations.RegisterWriteReachesItsRegister : Prop :=
  ∀ (who : Who) (addr : Nat) (v : Word) (s : State),
    (assigned (addr / 0x1000) = false →
      exec (.registerWrite [⟨who, addr, v⟩]) s = .next (badAccess false false who addr s)) ∧
    (assigned (addr / 0x1000) = true → answers (addr / 0x1000) s = false →
      exec (.registerWrite [⟨who, addr, v⟩]) s = .next (badAccess true false who addr s)) ∧
    (assigned (addr / 0x1000) = true → answers (addr / 0x1000) s = true →
      accepts who (addr / 0x1000) (addr % 0x1000) s = false →
      exec (.registerWrite [⟨who, addr, v⟩]) s = .next (rejectWrite who s)) ∧
    (assigned (addr / 0x1000) = true → answers (addr / 0x1000) s = true →
      accepts who (addr / 0x1000) (addr % 0x1000) s = true →
      exec (.registerWrite [⟨who, addr, v⟩]) s = .next (writeAt who (addr / 0x1000) (addr % 0x1000) v.toNat s))

/-- Events and the PCIe apertures (R465, R484, R486, R519); the MSI-X accesses follow log 38. -/
def Obligations.EventRegistersAndWindowComplete : Prop :=
  (∀ (who : Who) (page : Nat) (m : Word) (s : State), Accepted who page s →
    exec (.evPendClear who page m) s = .next (clearPend page m.toNat s) ∧
    exec (.evSetWrite who page m) s = .next (each ((List.range 32).filter (fun b => bitOf m.toNat b)) (raiseForTest page) s)) ∧
  (∀ (who : Who) (p : Fin 8) (w : Fin 64) (m : Word) (s : State), answers (0x190 + p.val) s = true →
    mayRing who p.val s = true →
    exec (.hstEpendClear who p w m) s = .next (clearF (HST_EPEND p.val w.val) m.toNat s)) ∧
  (∀ (p : Fin 8) (addr : Nat) (s : State), functionUp p.val s = true →
    exec (.bar0BadAccess p addr) s = .next (s |> emit (.unsupported p.val) |> badAccess false true (.part p) addr)) ∧
  (∀ (p : Fin 8) (off : Nat) (acc : WindowAccess) (s : State), inRecovery s = false → functionUp p.val s = true → inBar p.val off acc s = true →
    (hbmAccess acc = true → hbmAsleep s = true →
      exec (.bar2WindowAccess p off acc) s = .next { s with hst := { s.hst with barHeld := s.hst.barHeld ++ [(p.val, off, acc)] } }) ∧
    (hbmAccess acc = true → hbmAsleep s = false →
      (∀ n, acc = .read n → exec (.bar2WindowAccess p off acc) s =
        .next (s |> emit (.readData p.val ((List.range n).map (fun i => loadAt (windowAddr p.val (off + i) s) s)))
          |> ifS ((List.range n).any (fun i => (windowAddr p.val (off + i) s).isNone)) (hostError p.val 4))) ∧
      (∀ bs, acc = .write bs → exec (.bar2WindowAccess p off acc) s =
        .next (s |> each bs.zipIdx (fun e => windowStore p.val (off + e.2) e.1)
          |> each ((List.range bs.length).filterMap (fun i => windowLease p.val (off + i) s)).eraseDups (leaseViolation 2 p.val)
          |> ifS ((List.range bs.length).any (fun i => (windowAddr p.val (off + i) s).isNone)) (hostError p.val 4)))) ∧
    (∀ n, acc = .msixRead n → exec (.bar2WindowAccess p off acc) s =
      .next (emit (.readData p.val (wordsBytes ((List.range n).map (fun i => msixWord p.val (off / 4 + i) s)))) s)) ∧
    (∀ ws, acc = .msixWrite ws → exec (.bar2WindowAccess p off acc) s =
      .next (s |> each ws.zipIdx (fun e => putMsix p.val (off / 4 + e.2) e.1) |> msixRelease p.val)) ∧
    (∀ m, acc = .msixMask m → exec (.bar2WindowAccess p off acc) s =
      .next (s |> State.setMsixT p.val { s.msixT p.val with fmask := m } |> msixRelease p.val)))

/-- Loads of spec/02 and spec/03 (R53, R71, R80). -/
def Obligations.PanelAndTableLoadsComplete : Prop :=
  (∀ c s lost, Served 0x01 c s → SrcReads c 16400 s → mapOk (srcWords c s) = true →
    (∀ g, g < 4 → groupIdle g s = true) → correctionFull (parseMap (srcWords c s)) (markStarted 0x01 c s) = false →
    exec (.panelMapLoad [c] lost) s =
      .next (markStarted 0x01 c s |> acceptMap (parseMap (srcWords c s)) (c.idx % 8)
        |> moveCorrection (markStarted 0x01 c s) lost |> answer 0x01 c DONE)) ∧
  (∀ c s, Served 0x02 c s → srcBad c s = false → fieldAt (srcWords c s) 0 18 16 < 8 →
    psdReason (.cmd c.who) (decide (c.src.len % 4 = 0)) (srcWords c s) (markStarted 0x02 c s) = 0 →
    exec (.psdLoad [c]) s =
      .next (markStarted 0x02 c s |> psdAccept (fieldAt (srcWords c s) 0 18 16) (srcWords c s) |> answer 0x02 c DONE)) ∧
  (∀ c s, Served 0x03 c s → SrcReads c 4096 s → 4 ≤ c.argF 0 5 0 →
    (∀ w ∈ srcWords c s, w.toNat / 2 ^ 20 = 0) →
    exec (.lutLoad c) s =
      .next (markStarted 0x03 c s |> State.setLut (c.argF 0 5 0) ((srcWords c s).map BitVec.toNat) |> answer 0x03 c DONE)) ∧
  (∀ c s l, Served 0x04 c s → SrcReads c (8 * (dirA s * dirB s)) s → parseBlends (srcWords c s) = some l →
    (∀ b ∈ l, b.w0 + b.w1 + b.w2 + b.w3 = 0x800) →
    exec (.blendLoad c) s = .next (markStarted 0x04 c s |> State.setBlendSlot (c.argF 0 3 0) l |> answer 0x04 c DONE)) ∧
  (∀ c s, Served 0x05 c s → SrcReads c 6660 s → c.argF 0 17 16 ≠ 3 → fieldAt (srcWords c s) 1664 31 16 = 0 →
    exec (.outlutLoad c) s =
      .next (markStarted 0x05 c s
        |> State.setOutLut (3 * c.argF 0 9 0 + c.argF 0 17 16)
          (((srcWords c s).flatMap (fun w => [w.toNat % 65536, w.toNat / 65536])).take 3329)
        |> answer 0x05 c DONE))

/-- Raster groups (R118, R119, R121, R129, R141). -/
def Obligations.FrameTimingCompletes : Prop :=
  (∀ (g : Fin 4) s, latchDue g.val s = true → exec (.frameLatch g) s = .next (frameLatch g.val s)) ∧
  (∀ (g : Fin 4) s x, x = s.grp g.val → x.phase = .latched → reached x.fs s = true →
    exec (.frameStart g) s = .next (each (List.range 4) (probeAtFs g.val)
      (ifS x.resync (fun s => s |> setB (RAS_MODE_STAT_LATCHED g.val) x.nextSet.isSome |> raise (0x90 + g.val) 5) <|
        s |> State.setGrp g.val { x with phase := .active, first := false, resync := false, curIdx := x.idx }
        |> setF (RAS_FRAME g.val) x.idx |> setF (RAS_FS_LO g.val) x.fs |> setF (RAS_FS_HI g.val) (x.fs / 2 ^ 32)
        |> setF (RAS_NFS_LO g.val) x.nextFs |> setF (RAS_NFS_HI g.val) (x.nextFs / 2 ^ 32)
        |> endLeases (fun l => decide (l.group = g.val) && l.begun) |> beginLeases g.val |> raise (0x90 + g.val) 3))) ∧
  (∀ (who : Who) (g : Fin 4) s, Accepted who (0x90 + g.val) s → groupState g.val s = 2 →
    (timingReason g.val (writtenTiming g.val s) s = 0 →
      exec (.rasModeApply who g) s =
        .next (s |> State.setGrp g.val { s.grp g.val with pendingSet := some (writtenTiming g.val s) }
          |> setF (RAS_MODE_STAT_PENDING g.val) 1)) ∧
    (timingReason g.val (writtenTiming g.val s) s ≠ 0 →
      exec (.rasModeApply who g) s =
        .next (s |> setF (RAS_MODE_STAT_REASON g.val) (timingReason g.val (writtenTiming g.val s) s)
          |> raise (0x90 + g.val) 6))) ∧
  (∀ (lane : Fin 1024) s b g, b = tileLane lane.val s → g = (tileRec b s).group → tileValid b s = true →
    (s.grp g).phase = .active → (s.grp g).aborted = false → (s.pool b).sent < tileRH b s →
    rowLane b (s.pool b).sent s = lane.val → reached (departTime b (s.pool b).sent s) s = true →
    (takesPart b s = false → exec (.rowDeparture lane) s =
      .next (s.setPool b { s.pool b with sent := (s.pool b).sent + 1 })) ∧
    (takesPart b s = true → patterned b s = true → exec (.rowDeparture lane) s =
      .next (rowLeaves b (s.pool b).sent (patternRays b (s.pool b).sent s) s)) ∧
    (∀ rays, takesPart b s = true → patterned b s = false → rowRays b (s.pool b).sent s = some rays → exec (.rowDeparture lane) s =
      .next (rowLeaves b (s.pool b).sent rays s)) ∧
    (∀ k, k = lowestUnderrun b s → takesPart b s = true → patterned b s = false → rowRays b (s.pool b).sent s = none →
      exec (.rowDeparture lane) s = .next (abortFrame g 0 (rowLane k (s.pool k).sent s) (s.pool k).sent s))) ∧
  (∀ (who : Who) (lane : Fin 1024) (v : Word) s, Accepted who (0x80 + lane.val / 128) s →
    exec (.synPoolWrite who lane v) s = .next (setF (SYN_POOL_LOW (lane.val / 128) (lane.val % 128)) 0xFFFF s))

/-- The ray jets (R102, R104, R110, R112, R123). -/
def Obligations.RaySynthesisCompletes : Prop :=
  (∀ (fan : Fin 16) s lane, (s.fan fan.val).row = none → synRuns fan.val s = true → pickLane fan.val s = some lane →
    exec (.fanRowStart fan) s = .next (s
      |> State.setPool lane { s.pool lane with next := (s.pool lane).next + 1, rows := (s.pool lane).rows ++ [{ row := (s.pool lane).next, rays := [] }] }
      |> State.setFan fan.val { s.fan fan.val with row := some (lane, (s.pool lane).next, 0) })) ∧
  (∀ (jet : Fin 128) idle u fan, fan = jet.val / 8 → synRuns fan u = true → ((u.fan fan).row = none ∨
      (jetCycle idle (getF THM_STAT_D u) (u.jet jet.val)).1 = false) →
    exec (.rayEntersJet jet idle) u = .next (u.setJet jet.val (jetCycle idle (getF THM_STAT_D u) (u.jet jet.val)).2)) ∧
  (∀ (jet : Fin 128) idle u s fan lane row col t l gain o, fan = jet.val / 8 → synRuns fan u = true →
    (u.fan fan).row = some (lane, row, col) → (jetCycle idle (getF THM_STAT_D u) (u.jet jet.val)).1 = true →
    s = u.setJet jet.val (jetCycle idle (getF THM_STAT_D u) (u.jet jet.val)).2 → t = tileRec lane s → l = (s.grp t.group).latch →
    gain = (if l.early then (0x200, 0x200, 0x200) else tileGain (latched l COR_CFG_GAIN_EN ≠ 0) lane col row s) →
    o = castRay l t.group (basinOf fan) lane (tileRayIn lane col row s) (row % dirB s * dirA s + col % dirA s) gain
      (budgetOf l fan s) s →
    exec (.rayEntersJet jet idle) u = .next (s
      |> occupy jet.val o.samples
      |> State.setPool lane { s.pool lane with rows := (s.pool lane).rows.map (fun r => if r.row = row then { r with rays := r.rays ++ [o.codes] } else r) }
      |> State.setFan fan { s.fan fan with row := if col + 1 < tileRW lane s then some (lane, row, col + 1) else none }
      |> countRay fan o
      |> setF (SYN_GOV_MAXS (basinOf fan) (fan % 2)) (max (getF (SYN_GOV_MAXS (basinOf fan) (fan % 2)) s) o.samples)
      |> showPool lane |> copyToProbes lane col row o.codes)) ∧
  (∀ (fan : Fin 16) n s, synRuns fan.val s = true →
    exec (.anchorCacheFill fan n) s = .next (addF (SYN_STALLS (basinOf fan.val) (fan.val % 2)) n s)) ∧
  (∀ (probe : Fin 4) (jet : Fin 128) idle u s fan r h lane i o, fan = jet.val / 8 → synRuns fan u = true →
    (jetCycle idle (getF THM_STAT_D u) (u.jet jet.val)).1 = true →
    s = u.setJet jet.val (jetCycle idle (getF THM_STAT_D u) (u.jet jet.val)).2 →
    (s.probe probe.val).cur = some r → r.virtual = true → spare fan s = true →
    r.todo.find? (fun h => fanServes fan r.group h s) = some h →
    lane = (laneOfHogel r.group h s).getD 0 →
    i = mapRayIn (r.rayMap lane s) lane ((h.1 - (tileRec lane s).hx0) * dirA s) ((h.2 - (tileRec lane s).hy0) * dirB s) s →
    o = castRay r.latch r.group (basinOf fan) lane { i with sx := r.sx, sy := r.sy } 0 (0x200, 0x200, 0x200)
      (budgetOf r.latch fan s) s →
    exec (.virtualProbeRay probe jet idle) u =
      .next (s |> occupy jet.val o.samples |> countRay fan o |> writeProbe probe.val r h (probeWord (tileRec lane s).code12 o.codes))) ∧
  (∀ (probe : Fin 4) s r, (s.probe probe.val).cur = some r → r.todo = [] →
    exec (.probeDone probe) s = .next (s |> State.setProbe probe.val { s.probe probe.val with cur := none }
      |> setF (SYN_PRB_STAT_LAST_BUF probe.val) r.buf |> addF (SYN_PRB_STAT_DONE probe.val) 1
      |> raise 0x80 (4 + probe.val)
      |> takePicture 0 probe.val (some r.frame)
        ⟨r.frame, r.fs, r.addr, none, none, r.pitch, r.w, r.h, false, false, false, [], [], []⟩)) ∧
  (∀ (who : Who) (b : Fin 8) (v : Word) s, Accepted who (0x80 + b.val) s →
    exec (.synCapWrite who b v) s = .next (s
      |> ifS (decide (1 ≤ bitsOf v.toNat 24 16) && decide (bitsOf v.toNat 24 16 ≤ 256)) (setF (SYN_CAP_CAP1 b.val) (bitsOf v.toNat 24 16))
      |> ifS (decide (1 ≤ bitsOf v.toNat 8 0) && decide (bitsOf v.toNat 8 0 ≤ 256)) (setF (SYN_CAP_CAP0 b.val) (bitsOf v.toNat 8 0))
      |> ifS (!((decide (1 ≤ bitsOf v.toNat 24 16) && decide (bitsOf v.toNat 24 16 ≤ 256)) &&
          (decide (1 ≤ bitsOf v.toNat 8 0) && decide (bitsOf v.toNat 8 0 ≤ 256)))) (raise (0x80 + b.val) 2)))

/-- The pause accumulator of R452, over idle cycles. -/
def Obligations.IdleCyclesOfAJetAddUp : Prop :=
  ∀ (x : Jet) (m n d : Nat), x.acc < 256 → d ≤ 255 →
    jetIdle x (m + n) d = jetIdle (jetIdle x m d) n d ∧ jetIdle x 0 d = x ∧
    (jetIdle x 1 d).acc = (x.acc + d) % 256 ∧ (jetIdle x 1 d).acc < 256 ∧ (jetIdle x 1 d).past = x.past ∧
    (256 ≤ x.acc + d → (jetIdle x 1 d).left = x.left) ∧
    (x.acc + d < 256 → (jetIdle x 1 d).left = x.left - 1)

/-- Writes of spec/05 (R155, R156, R169, R181, R183, R185). -/
def Obligations.LinkWritesComplete : Prop :=
  ∀ (who : Who) (lane : Fin 1024) (s : State), Accepted who (lanePage lane.val) s →
    (getB (laneF LNK_CTRL_EN lane.val) s = false → isOn (lanePage lane.val) s = true → exec (.lnkEnWrite who lane true) s =
      .next (s |> setB (laneF LNK_CTRL_EN lane.val) true |> startLane lane.val)) ∧
    (getB (laneF LNK_CTRL_EN lane.val) s = true → exec (.lnkEnWrite who lane false) s =
      .next (s |> setB (laneF LNK_CTRL_EN lane.val) false |> disableLane lane.val)) ∧
    (∀ r, 2 ≤ r → r ≤ 16 → getF (laneF LNK_CTRL_RATE lane.val) s ≠ r → laneIdle lane.val s = true →
      ∀ t, t = setF (laneF LNK_CTRL_RATE lane.val) r s → exec (.lnkRateWrite who lane r) s =
      .next (t |> (fun t => each (tileLanes (tileLane lane.val t) t) (fun k => modLane k (fun x => { x with rateGaveUp := false })) t)
        |> checkRate lane.val)) ∧
    (∀ r, getF (laneF LNK_CTRL_RATE lane.val) s ≠ r % 32 → r % 32 < 2 ∨ 16 < r % 32 ∨ laneIdle lane.val s = false →
      exec (.lnkRateWrite who lane r) s = .next (laneCause lane.val 7 s)) ∧
    (∀ n, 0 < n → n < 4 → getF (laneF LNK_CTRL_LOOP lane.val) s ≠ n → laneIdle lane.val s = false →
      exec (.lnkLoopWrite who lane n) s = .next (laneCause lane.val 8 s)) ∧
    (∀ n, n < 4 → laneIdle lane.val s = true → exec (.lnkLoopWrite who lane n) s = .next (writeLoop lane.val n s)) ∧
    (getB (laneF LNK_CTRL_BLANK lane.val) s = false → exec (.lnkBlankWrite who lane true) s =
      .next (s |> setB (laneF LNK_CTRL_BLANK lane.val) true |> each (tileLanes (tileLane lane.val s) s) (sendBlank 2)
        |> refreshBlank (tileLane lane.val s))) ∧
    (getB (laneF LNK_CTRL_BLANK lane.val) s = true → exec (.lnkBlankWrite who lane false) s =
      .next (s |> setB (laneF LNK_CTRL_BLANK lane.val) false |> refreshBlank (tileLane lane.val s))) ∧
    ((∀ k ∈ tileLanes (tileLane lane.val s) s, (s.lane k).sinceFault = some 0) → exec (.unblank who lane false) s =
      .next (s |> each (tileLanes (tileLane lane.val s) s) (fun k => setB (laneF LNK_STAT_FBLANK k) false)
        |> refreshBlank (tileLane lane.val s))) ∧
    exec (.unblank who lane true) s = .next s ∧
    (∀ (page : Fin 64) (v : Word) t, Accepted who (0x100 + page.val) s → getB (LNK_INJ_ARM page.val) s = false →
      bitOf v.toNat 31 = true → bitsOf v.toNat 29 28 ≠ 0 →
      t = (s |> setF (LNK_INJ_COMMIT page.val) (bitsOf v.toNat 30 30) |> setF (LNK_INJ_KIND page.val) (bitsOf v.toNat 29 28)
        |> setF (LNK_INJ_LANE page.val) (bitsOf v.toNat 27 24) |> setF (LNK_INJ_ROW page.val) (bitsOf v.toNat 15 0)) →
      (injOk page.val (bitsOf v.toNat 29 28) (bitsOf v.toNat 27 24) (bitsOf v.toNat 15 0) (getF (LNK_INJ_POS_WORD page.val) t) t = true →
        exec (.lnkInjArm who page v) s = .next (t |> setB (LNK_INJ_ARM page.val) true |> State.setInjLive page.val false)) ∧
      (injOk page.val (bitsOf v.toNat 29 28) (bitsOf v.toNat 27 24) (bitsOf v.toNat 15 0) (getF (LNK_INJ_POS_WORD page.val) t) t = false →
        exec (.lnkInjArm who page v) s = .next (laneCause (16 * page.val + bitsOf v.toNat 27 24) 13 t)))

/-- The back channel (R154, R155, R167, R168, R182). -/
def Obligations.BackChannelCompletes : Prop :=
  ∀ (lane : Fin 1024) (s : State), listens lane.val s = true →
    (∀ g, (s.lane lane.val).sync = 0 → g = codeK 0xBC false ∨ g = codeK 0xBC true → exec (.rxCommaDetect lane g) s =
      .next (s |> modLane lane.val (fun x => { x with sync := 1, idles := 0, groups := 0, errs := [], rdPlus := decide (g = codeK 0xBC true) })
        |> ifS (decide (lstate lane.val s = 1)) (setLstate lane.val 2))) ∧
    (∀ gs u cs f, rxWord lane.val gs s = (u, cs, .idle f) →
      ((u.lane lane.val).sync = 1 → (u.lane lane.val).idles < 7 → exec (.rxIdleReceived lane gs) s =
        .next (u.setLane lane.val { u.lane lane.val with idles := (u.lane lane.val).idles + 1 })) ∧
      ((u.lane lane.val).sync = 1 → 7 ≤ (u.lane lane.val).idles → exec (.rxIdleReceived lane gs) s =
        .next (u.setLane lane.val { u.lane lane.val with sync := 2, idles := 0, lockedIdles := 0, groups := 0, errs := [] }
          |> ifS (decide (lstate lane.val u = 2)) (setLstate lane.val 3) |> showFill lane.val)) ∧
      ((u.lane lane.val).sync = 2 → exec (.rxIdleReceived lane gs) s =
        .next (u.setLane lane.val { u.lane lane.val with
          lockedIdles := if bitOf f 0 then min 16 ((u.lane lane.val).lockedIdles + 1) else 0 }))) ∧
    (∀ g u, (s.lane lane.val).sync ≠ 0 → charOf g (s.lane lane.val).rdPlus = none →
      u = modLane lane.val (fun x => { x with groups := x.groups + 1, rdPlus := rdNext g x.rdPlus }) s →
      exec (.rxCodeError lane [g]) s = .next (codeError lane.val u) ∧
      ((u.lane lane.val).sync = 1 →
        exec (.rxCodeError lane [g]) s = .next (u |> countF (laneF LNK_CODE_ERR lane.val) |> loseLock lane.val))) ∧
    (∀ gs u l, rxWords lane.val gs 8 s = (u, l) → 3 ≤ lstate lane.val s → (s.lane lane.val).sync = 2 →
      (u.lane lane.val).sync = 2 → (s.lane lane.val).farEnd = false → l.head? = some (.sof 0x81) →
      (∀ ws, statusData l = some ws → crcWords (ws.take 5) = ws.getD 5 0 → l.getLast? = some .eop →
        exec (.statusPacketRx lane gs) s = .next (takeStatus lane.val (0 :: ws) u)) ∧
      (∀ ws, statusData l = some ws → crcWords (ws.take 5) ≠ ws.getD 5 0 →
        exec (.statusPacketRx lane gs) s = .next (laneCause lane.val 11 u)) ∧
      (statusData l = none → exec (.statusPacketRx lane gs) s = .next (laneCause lane.val 11 u))) ∧
    (∀ gs u cs code d, rxWord lane.val gs s = (u, cs, .fault code) → 3 ≤ lstate lane.val u →
      exec (.faultSetRx lane gs d) s = .next (tileFault lane.val (min d 5000) u)) ∧
    (∀ gs u cs x e, sendsPattern lane.val s = true → rxWord lane.val gs s = (u, cs, x) →
      getB (laneF LNK_STAT_PSYNC lane.val) u = true → e = prbsNext 32 (u.lane lane.val).prbs % 2 ^ 32 →
      exec (.patternWordRx lane gs) s = .next (each (List.range (byteErrors e cs)) (fun _ => countF (laneF LNK_PRBS_ERR lane.val))
        (u.setLane lane.val { u.lane lane.val with prbs := e % 2 ^ 31 })))

/-- Link timers and ECHO_COMPARE (R155, R156, R162, R169). -/
def Obligations.LinkTimersAndEchoComplete : Prop :=
  ∀ (lane : Fin 1024) (s : State),
    (lnkRuns lane.val s = true → lstate lane.val s = 4 → exec (.statusTimeout lane) s =
      .next (s |> laneCause lane.val 4 |> huntAt lane.val 2)) ∧
    (∀ t n, lnkRuns lane.val s = true → lstate lane.val s = 5 → (s.lane lane.val).rateAcked = false →
      (s.lane lane.val).ratePending = some (t, n) →
      (n < 3 → exec (.rateAckTimeout lane) s =
        .next (s |> resendRate lane.val t |> modLane lane.val (fun x => { x with ratePending := some (t, n + 1) }))) ∧
      (3 ≤ n → exec (.rateAckTimeout lane) s =
        .next (s |> modLane lane.val (fun x => { x with ratePending := none, rateGaveUp := true }) |> setLstate lane.val 4
          |> laneCause lane.val 9))) ∧
    (∀ t n, lnkRuns lane.val s = true → lstate lane.val s = 5 → (s.lane lane.val).rateAcked = true →
      (s.lane lane.val).ratePending = some (t, n) → exec (.rateSwitchDelay lane) s =
      .next (s |> huntAt lane.val t |> modLane lane.val (fun x => { x with switching := true }))) ∧
    (lnkRuns lane.val s = true → (s.lane lane.val).switching = true → exec (.rateReadyTimeout lane) s =
      .next (s |> huntAt lane.val 2 |> modLane lane.val (fun x => { x with switching := false, rateGaveUp := true })
        |> laneCause lane.val 9)) ∧
    (lnkRuns lane.val s = true → getB (laneF LNK_STAT_BLANKED lane.val) s = true → exec (.blankRepeat lane) s =
      .next (sendBlank (if getB (laneF LNK_STAT_FBLANK lane.val) s then 1 else 2) lane.val s)) ∧
    (blockState (lanePage lane.val) s ∈ [1, 2, 3, 4] → exec (.lanePllUnlock lane) s =
      .next (s |> unlocked |> lnkFault (lane.val / 16) 1)) ∧
    (∀ b g x, b = tileLane lane.val s → g = s.grp (tileRec b s).group → x = s.lane lane.val → echoOpen b s = true →
      x.echoDone = none → (s.lane b).echoCut = false →
      (∀ u, x.echoBad = false → u = modLane lane.val (fun x => { x with echoDone := some true }) s → (u.lane b).echoCut = false →
        ((tileLanes b s).all (fun j => decide ((u.lane j).echoDone = some true)) = true → sigValue x.echoSig = sigValue x.laneSig →
          exec (.echoCompare lane none false) s =
            .next (u |> each (tileLanes b s) (sendCommit g.idx (sigValue (u.lane b).sig)) |> settleRows b true)) ∧
        ((tileLanes b s).all (fun j => decide ((u.lane j).echoDone = some true)) = false → sigValue x.echoSig = sigValue x.laneSig →
          exec (.echoCompare lane none false) s = .next u)) ∧
      (∀ u v, v ≠ sigValue x.laneSig → u = (s |> countF (laneF LNK_ECHO_ERR lane.val) |> laneCause lane.val 5
          |> modLane lane.val (fun x => { x with echoDone := some false })) → (u.lane b).echoCut = false →
        exec (.echoCompare lane (some v) false) s =
          .next (u |> each (tileLanes b s) (sendAbort g.idx 2) |> modLane b (fun x => { x with cut := true, echoCut := true })
            |> settleRows b false)))

/-- Correction tables of spec/06 (R192, R193, R196, R201). -/
def Obligations.CorrectionLoadsComplete : Prop :=
  (∀ c s t, t = markStarted 0x08 c s → Served 0x08 c s → isOwner c.who 0x148 s = true → srcBad c s = false →
    (t.tileCor (c.argF 0 9 0)).rayCopy = none →
    exec (.raymapLoad c) s = .next (t.setTileCor (c.argF 0 9 0)
      { t.tileCor (c.argF 0 9 0) with rayCopy := some (refOf 0x08 c, srcWords c s, c.src.len) })) ∧
  (∀ (lane : Fin 1024) s ref ws len x, runs 0x148 s = true → (s.tileCor lane.val).rayCopy = some (ref, ws, len) →
    x = { s.tileCor lane.val with rayCopy := none } →
    (∀ r, r = rmReason lane.val len ws s → r ≠ 0 → exec (.raymapCheckDone lane) s =
      .next (s.setTileCor lane.val x |> setF COR_RMREJ_REASON r |> setF COR_RMREJ_LANE lane.val |> countF COR_RMREJ_CNT
        |> raise 0x148 2 |> complete true ref BAD_ARGUMENT r 0 0)) ∧
    (rmReason lane.val len ws s = 0 → exec (.raymapCheckDone lane) s =
      .next (s.setTileCor lane.val { x with rayStaged := some (parseRayMap ws) } |> complete true ref DONE 0 0 0
        |> takeIfIdle lane.val))) ∧
  (∀ c s t, t = markStarted 0x09 c s → Served 0x09 c s → isOwner c.who 0x148 s = true → srcBad c s = false →
    tileValid (c.argF 0 9 0) t = true → c.src.len = 4 * tileRays (c.argF 0 9 0) t → deriving_ (c.argF 0 9 0) t = false →
    (srcWords c s).any (fun w => decide (w.toNat / 2 ^ 30 ≠ 0)) = false →
    exec (.gainLoad c) s = .next (t |> stageGain (c.argF 0 9 0) (srcWords c s) |> answer 0x09 c DONE)) ∧
  (∀ c s t lanes l, t = markStarted 0x0A c s → Served 0x0A c s → isOwner c.who 0x148 s = true → srcBad c s = false →
    s.cor.derive = none → lanes = laneWords (c.arg 0) (srcWords c s) → lanes.any (fun k => !tileValid k t) = false →
    c.src.len = 4 * (c.arg 0 + (lanes.map (fun k => tileRays k t)).sum) →
    l = (splitMaps t lanes ((srcWords c s).drop (c.arg 0))).map (fun m => (m.1, deriveTile m.1 m.2 t)) →
    exec (.gainDerive c) s = .next ({ t with cor := { t.cor with derive := some {
        cmd := refOf 0x0A c, maps := l.map (fun m => (m.1, m.2.1)), limited := (l.map (fun m => m.2.2.1)).sum,
        dead := (l.map (fun m => m.2.2.2)).sum } } } |> setB COR_XSTAT_DERIVE_BUSY true)) ∧
  (∀ s d u, runs 0x148 s = true → s.cor.derive = some d →
    u = ({ s with cor := { s.cor with derive := none } } |> setB COR_XSTAT_DERIVE_BUSY false
      |> setF COR_GAIN_HR d.limited |> setF COR_GAIN_DEAD d.dead) →
    exec .gainDeriveDone s = .next (u
      |> each (d.maps.filter (fun m => tileValid m.1 u && decide (m.2.length = tileRays m.1 u))) (fun m => stageGain m.1 m.2)
      |> ifS (decide (d.limited ≠ 0)) (raise 0x148 10) |> complete true d.cmd DONE 0 0 0)) ∧
  (∀ c s t l, t = markStarted 0x0B c s → Served 0x0B c s → isOwner c.who 0x148 s = true → SrcReads c 512 s →
    l = (srcWords c s).flatMap (fun w => [w.toNat % 65536, w.toNat / 65536]) → nth l 0 = 0x8000 → nonIncreasing l = true →
    s.cor.derive = none →
    exec (.ageingCurveLoad c) s = .next ({ t with cor := { t.cor with curve := l } } |> answer 0x0B c DONE))

/-- Stress counters of spec/06 (R198, R200, R206, R207). -/
def Obligations.CorrectionDataCompletes : Prop :=
  (∀ c s t lost lanes todo x, t = markStarted 0x0C c s → Served 0x0C c s → isOwner c.who 0x148 s = true →
    SrcReads c (4 * c.arg 0) s → lanes = (laneWords (c.arg 0) (srcWords c s)).eraseDups →
    lanes.any (fun k => !tileValid k t) = false →
    todo = lanes.flatMap (fun k => (List.range (tileRH k t)).map (fun r => (k, r))) →
    x = { t with cor := { t.cor with exports := t.cor.exports ++ [{
      cmd := c, clear := decide (c.argF 1 0 0 = 1), covers := lanes
      lanes := lanes.map (fun k => (k, (t.grp (tileRec k t).group).idx % 2 ^ 32)), todo := todo, pos := 0 }] } } →
    exec (.counterExport c lost) s =
      .next (each (todo.filter (fun e => !tileRuns e.1 x)) (fun e => exportNow (lost.contains e) e.1 e.2) x |> advanceExports)) ∧
  (∀ c s t lanes out b bytes, t = markStarted 0x0D c s → Served 0x0D c s → isOwner c.who 0x148 s = true →
    SrcReads c (4 * c.arg 0) s → dstBad c s = false → lanes = laneWords (c.arg 0) (srcWords c s) →
    lanes.any (fun k => !tileValid k t) = false →
    out = lanes.map (fun k =>
      let b := (chunks (tileRW k t) (tileRays k t + 1) (gainWords k t)).flatMap (blocksOf 16384)
      (b, sectionBytes 2 k (tileRW k t) (tileRH k t) 0 0 (b.map (fun e => e.2)))) →
    b = out.flatMap (fun e => e.1) → bytes = out.flatMap (fun e => e.2) →
    exec (.gainExport c) s = .next (t
      |> countCompressed (b.map (fun e => e.1.length)).sum (b.map (fun e => e.2.length)).sum (b.filter (fun e => (sluPayload e.1).1)).length
      |> exportWrite c 0 bytes |> finish 0x0D c DONE 0 (min bytes.length c.dst.len) 0)) ∧
  (∀ c s t l u n, t = markStarted 0x0E c s → Served 0x0E c s → isOwner c.who 0x148 s = true → srcBad c s = false →
    l = judgeAll 1 t (c.src.len + 1) (srcBytes c s) →
    l.any (fun x => t.cor.exports.any (fun e => e.covers.contains x.lane)) = false →
    u = each l (fun x => if x.reason = 0 then applyCounters (decide (c.argF 0 0 0 = 1)) x.lane x.data else rejectSection x) t →
    n = (l.filter (fun x => decide (x.reason ≠ 0))).length →
    (n = 0 → exec (.counterImport c) s = .next (u |> countDecoded (l.map (fun x => x.data.length)).sum |> raise 0x148 7
      |> finish 0x0E c DONE 0 0 0)) ∧
    (n ≠ 0 → exec (.counterImport c) s = .next (u |> countDecoded (l.map (fun x => x.data.length)).sum |> raise 0x148 7
      |> finish 0x0E c BAD_ARGUMENT (getF COR_XREJ_REASON u) n 0))) ∧
  (∀ c s t l u n, t = markStarted 0x0F c s → Served 0x0F c s → isOwner c.who 0x148 s = true → srcBad c s = false →
    l = judgeAll 2 t (c.src.len + 1) (srcBytes c s) →
    l.any (fun x => t.cor.exports.any (fun e => e.covers.contains x.lane) || deriving_ x.lane t) = false →
    u = each l (fun x => if x.reason = 0 then stageGain x.lane (bytesWords x.data) else rejectSection x) t →
    n = (l.filter (fun x => decide (x.reason ≠ 0))).length →
    (n = 0 → exec (.gainImport c) s = .next (u |> countDecoded (l.map (fun x => x.data.length)).sum |> raise 0x148 7
      |> finish 0x0F c DONE 0 0 0)) ∧
    (n ≠ 0 → exec (.gainImport c) s = .next (u |> countDecoded (l.map (fun x => x.data.length)).sum |> raise 0x148 7
      |> finish 0x0F c BAD_ARGUMENT (getF COR_XREJ_REASON u) n 0))) ∧
  (∀ (lane : Fin 1024) row s d u, runs 0x148 s = true →
    (s.tileCor lane.val).ready.find? (fun d => decide (d.row = row)) = some d →
    u = s.setTileCor lane.val { s.tileCor lane.val with ready := dropFirst (fun e => decide (e = d)) (s.tileCor lane.val).ready } →
    exec (.stressRowUpdate lane row false) s = .next (u |> loseRow lane.val row (Word.ofNat d.frame) |> exportRow lane.val row |> advanceExports) ∧
    (∀ r, r = stressRow lane.val d u → ∀ b, b = blocksOf (16 * 1024) (counterLines (tileRW lane.val u) r.1) →
      exec (.stressRowUpdate lane row true) s = .next (u
        |> setCounterRow lane.val row r.1 |> countDecoded (64 * ceilDiv (tileRW lane.val u) 10)
        |> countCompressed (64 * ceilDiv (tileRW lane.val u) 10) (b.map (fun e => e.2.length)).sum
          (b.filter (fun e => (sluPayload e.1).1)).length
        |> each (List.range r.2) (fun _ t => t |> countF COR_STR_SAT |> raise 0x148 5)
        |> exportRow lane.val row |> advanceExports))) ∧
  (∀ (who : Who) (v : Word) s, Accepted who 0x148 s → exec (.corStrExpWrite who v) s =
    .next ({ s with cor := { s.cor with strPending := some (max 1 (v.toNat % 2048)) } }
      |> setF COR_STR_EXP_EXP (max 1 (v.toNat % 2048)))) ∧
  (∀ s e, s.cor.strPending = some e → exec .stressTableRegenDone s =
    .next { s with cor := { s.cor with strReady := e, strPending := none } })

/-- Reception (R214, R225, R227, R229, R230). -/
def Obligations.FrameReceptionCompletes : Prop :=
  (∀ (port : Fin 5) f ok n u s, portTakes port.val u = true →
    s = setF (NET_RX_FEC_UNC port.val) (min 0xFFFFFFFF (getF (NET_RX_FEC_UNC port.val) u + n)) u →
    ((decide (port.val < 4) && getB (NET_INJ_ARM port.val) s &&
        decide ((ctxOf port.val f s).map (fun c => c.1) = some (getF (NET_INJ_CTX port.val) s))) = true →
      exec (.frameReceived port f ok n) u = .next (inject port f ok s)) ∧
    ((decide (port.val < 4) && getB (NET_INJ_ARM port.val) s &&
        decide ((ctxOf port.val f s).map (fun c => c.1) = some (getF (NET_INJ_CTX port.val) s))) = false →
      exec (.frameReceived port f true n) u = .next (receive port f true s) ∧
      exec (.frameReceived port f false n) u = .next (rxDrop port.val (NET_RX_FCS port.val) s))) ∧
  (∀ (port : Fin 5) st s, isOn (0x20 + port.val) s = true → getB (TRM_STAT_RUNNING (16 + port.val)) s = false → exec (.portLinkChange port true st) s =
    .next (s |> setB (NET_STAT_LINK port.val) true |> setB (NET_STAT_AN_DONE port.val) (bitOf st 30)
      |> setB (NET_STAT_FEC_LOCK port.val) (decide (port.val < 4) && bitOf st 29) |> setB (NET_STAT_ALIGNED port.val) (bitOf st 28)
      |> raise (0x20 + port.val) 2 |> standingReports port.val)) ∧
  (∀ (port : Fin 5) up st s, getB (TRM_STAT_RUNNING (16 + port.val)) s = true → exec (.portLinkChange port up st) s = .next s) ∧
  (∀ (port : Fin 5) st s, getB (TRM_STAT_RUNNING (16 + port.val)) s = false → exec (.portLinkChange port false st) s =
    .next (s |> setB (NET_STAT_LINK port.val) false |> setB (NET_STAT_AN_DONE port.val) (bitOf st 30)
      |> setB (NET_STAT_FEC_LOCK port.val) (decide (port.val < 4) && bitOf st 29) |> setB (NET_STAT_ALIGNED port.val) (bitOf st 28)
      |> raise (0x20 + port.val) 3)) ∧
  (∀ (ctx : Fin 1024) g s, oldestHeld (s.ctx ctx.val) = some g → (s.ctx ctx.val).state = 1 →
    reached (g + 1000 * (s.ctx ctx.val).skewUs) s = true →
    exec (.mergeGapTimeout ctx) s = .next (gapTimeout ctx.val s)) ∧
  (∀ (ctx : Fin 1024) b p s, p = pathOf b (s.ctx ctx.val) → p.up = true →
    reached (p.last + 1000000 * (s.ctx ctx.val).timeoutMs) s = true →
    exec (.pathTimeout ctx b) s = .next (s.setCtx ctx.val (setPath b { p with up := false } (s.ctx ctx.val))
      |> ctxCause ctx.val 3 |> showCtx ctx.val)) ∧
  (∀ (who : Who) (port : Fin 5) (v : Word) s, Accepted who (0x20 + port.val) s → port.val < 4 → getB (NET_INJ_ARM port.val) s = false →
    ∀ t, t = (s |> setF (NET_INJ_KIND port.val) (bitsOf v.toNat 30 28) |> setF (NET_INJ_CTX port.val) (bitsOf v.toNat 25 16)
      |> setF (NET_INJ_COUNT port.val) (bitsOf v.toNat 15 0) |> setF (NET_INJ_ARM port.val) (bitsOf v.toNat 31 31)) →
    exec (.netInjArm who port v) s = .next { t with str := { t.str with injSeen := FMap.set 0 t.str.injSeen port.val 0 } }) ∧
  (∀ (port : Fin 5) s d, s.str.delayed.find? (fun d => decide (d.port = port.val)) = some d → reached d.due s = true →
    portTakes port.val s = true →
    exec (.netInjDelayExpire port) s =
      .next (receive port d.frame d.fcsOk { s with str := { s.str with delayed := s.str.delayed.erase d } }))

/-- Stream contexts (R218, R219, R234). -/
def Obligations.ContextsComplete : Prop :=
  (∀ c s t i, t = markStarted 0x10 c s → Served 0x10 c s → SrcReads c 96 s → ctxReason (srcWords c s) t = 0 →
    i = (firstBelow 1024 (fun i => decide ((t.ctx i).state = 0))).getD 0 →
    exec (.ctxOpen [c]) s = .next (t.setCtx i (parseCtx (c.idx % 8) (srcWords c s)) |> showCtx i |> showStr
      |> joinReports (parseCtx (c.idx % 8) (srcWords c s)) |> finish 0x10 c DONE 0 i 0)) ∧
  (∀ c s t r, t = markStarted 0x10 c s → Served 0x10 c s → SrcReads c 96 s → r = ctxReason (srcWords c s) t → r ≠ 0 →
    exec (.ctxOpen [c]) s = .next (t |> setF STR_OPEN_REJ_REASON r |> setF STR_OPEN_REJ_PARTITION c.idx |> raise 0x28 5
      |> ifS (decide (r = 8) || decide (r = 9)) (fun s => s |> countF STR_TFULL |> raise 0x28 3)
      |> refuse 0x10 c (if r = 8 ∨ r = 9 then TABLE_FULL else BAD_ARGUMENT) r)) ∧
  (∀ c s t i, t = markStarted 0x11 c s → Served 0x11 c s → i = c.argF 0 9 0 → (t.ctx i).state = 1 → (t.ctx i).owner = c.idx →
    exec (.ctxClose c) s = .next (closeCtx i (some (refOf 0x11 c)) t)) ∧
  (∀ (ctx : Fin 1024) s r, (s.ctx ctx.val).state = 2 → (s.ctx ctx.val).queue = [] → (s.binding ctx.val).decoding = none →
    (s.ctx ctx.val).closing = some r →
    exec (.ctxReleaseDone ctx) s = .next (s.setCtx ctx.val {} |> showCtx ctx.val |> showStr |> raise 0x28 4
      |> complete true r DONE 0 0 0)) ∧
  (∀ (ctx : Fin 1024) s, (s.ctx ctx.val).state = 2 → (s.ctx ctx.val).queue = [] → (s.binding ctx.val).decoding = none →
    (s.ctx ctx.val).closing = none →
    exec (.ctxReleaseDone ctx) s = .next (s.setCtx ctx.val {} |> showCtx ctx.val |> showStr |> raise 0x28 4)) ∧
  (∀ (who : Who) (w : Fin 8) (v : Word) s, Accepted who (0x28 + w.val) s →
    exec (.strSelWrite who w v) s = .next (writeStrSel w.val v.toNat s))

/-- Decode contexts (R240 to R244, R256, R261). -/
def Obligations.DecodingCompletes : Prop :=
  (∀ c s t, t = markStarted 0x12 c s → Served 0x12 c s → SrcReads c 32 s → bindReason c.idx (srcWords c s) t = 0 →
    exec (.decBind [c]) s = .next (t.setBinding (fieldAt (srcWords c s) 0 9 0)
      (parseBind (srcWords c s) ((bindRoom (srcWords c s) t).getD [])) |> showDec |> answer 0x12 c DONE)) ∧
  (∀ c s t r, t = markStarted 0x12 c s → Served 0x12 c s → SrcReads c 32 s → r = bindReason c.idx (srcWords c s) t → r ≠ 0 →
    exec (.decBind [c]) s = .next (t |> setF DEC_BIND_REJ_REASON r |> setF DEC_BIND_REJ_CTX (fieldAt (srcWords c s) 0 9 0)
      |> raise 0x40 7 |> ifS (decide (r = 11)) (fun s => s |> countF DEC_TFULL |> raise 0x40 8)
      |> refuse 0x12 c (if r = 5 then NOT_OWNER else if r = 11 then TABLE_FULL else BAD_ARGUMENT) r)) ∧
  (∀ c s t i, t = markStarted 0x13 c s → Served 0x13 c s → i = c.argF 0 9 0 → (t.ctx i).owner = c.idx → (t.binding i).state = 1 →
    exec (.decUnbind c) s = .next (startRelease i (some (refOf 0x13 c)) t)) ∧
  (∀ (ctx : Fin 1024) s b, b = s.binding ctx.val → b.state = 2 → b.decoding = none → (∀ x ∈ b.bufs, x.reads = 0) →
    (∀ r, b.unbind = some r → exec (.unbindDone ctx) s =
      .next (s.setBinding ctx.val {} |> showDec |> raise 0x40 9 |> complete true r DONE 0 0 0)) ∧
    (b.unbind = none → exec (.unbindDone ctx) s = .next (s.setBinding ctx.val {} |> showDec |> raise 0x40 9))) ∧
  (∀ (ctx : Fin 1024) info s b au q f, s.fwu.feed ≠ some ctx.val → b = s.binding ctx.val → (s.ctx ctx.val).queue = au :: q →
    b.state = 1 → groupOn b s = true → groupBusy b s = false → takesNext ctx.val s = true → f = unitFate b au info s →
    (f = .dropped → exec (.decodeStart ctx info) s = .next (popUnit ctx.val s)) ∧
    (∀ r, f = .unsupported r → exec (.decodeStart ctx info) s = .next (unsupportedUnit ctx.val r s)) ∧
    (f = .refused → exec (.decodeStart ctx info) s =
      .next (s.setBinding ctx.val { b with discarded := b.discarded + 1 } |> popUnit ctx.val)) ∧
    (f = .late → exec (.decodeStart ctx info) s =
      .next (s.setBinding ctx.val { b with skipped := b.skipped + 1, skipping := true } |> popUnit ctx.val
        |> ifS (!b.skipping) (raise (0x40 + b.first) 5))) ∧
    (f = .decode → hasRoom b (decodedLayers info).length = true →
      exec (.decodeStart ctx info) s = .next (beginUnit ctx.val au info s)) ∧
    (f = .decode → hasRoom b (decodedLayers info).length = false → exec (.decodeStart ctx info) s = .next s)) ∧
  (∀ (ctx : Fin 1024) res loads s r au, s.fwu.feed ≠ some ctx.val → (s.binding ctx.val).decoding = some au →
    r = completeUnit ctx.val res s →
    (r.2 = none → exec (.accessUnitComplete ctx res loads) s = .next (acceptSeis ctx.val (unitNals ctx.val au res s) loads r.1)) ∧
    (∀ m, r.2 = some m → exec (.accessUnitComplete ctx res loads) s =
      .next (r.1 |> acceptSeis ctx.val (unitNals ctx.val au res s) loads |> queueContextBuilds ctx.val m))) ∧
  (∀ (who : Who) (v : Word) s, Accepted who 0x40 s → exec (.decSelWrite who v) s = .next (writeDecSel v.toNat s))

/-- Commands of spec/10 (R267 to R271, R278, R483). -/
def Obligations.PlaneCommandsComplete : Prop :=
  (∀ c s t i x, t = markStarted 0x18 c s → Served 0x18 c s → SrcReads c 32 s → planeReason (srcWords c s) = 0 →
    firstBelow 256 (fun i => decide ((t.plane i).state = 0)) = some i → planeRoom (parsePlane (srcWords c s)) t = some x →
    exec (.planeAlloc c []) s = .next (t.setPlane i (newPlane (c.idx % 8) (parsePlane (srcWords c s)) x)
      |> showAsm |> queueKnown i |> finish 0x18 c DONE 0 i 0)) ∧
  (∀ c s t, t = markStarted 0x18 c s → Served 0x18 c s → SrcReads c 32 s → planeReason (srcWords c s) ≠ 0 →
    exec (.planeAlloc c []) s = .next (asmRefuse 0x18 c 0 (planeReason (srcWords c s)) t)) ∧
  (∀ c s t, t = markStarted 0x19 c s → Served 0x19 c s → SrcReads c 32 s →
    planeSetReason c (c.argF 0 7 0) (srcWords c s) t = 0 →
    exec (.planeSet c []) s = .next (t.setPlane (c.argF 0 7 0) { t.plane (c.argF 0 7 0) with set := parsePlane (srcWords c s) }
      |> answer 0x19 c DONE)) ∧
  (∀ c s t i b pt, t = markStarted 0x1A c s → Served 0x1A c s → i = c.argF 0 7 0 → b = c.argF 0 11 8 →
    hostBufReason c.idx i b t = 0 →
    (c.argF 0 16 16 ≠ 1 → pt = presentTime c t → exec (.planePresent c) s =
      .next (t |> beginPicture i b pt true |> announcePicture i b |> answer 0x1A c DONE)) ∧
    (∀ u, c.argF 0 16 16 = 1 → pt = presentTime c t → leased i b t = false → u = supersede i t → exec (.planePresent c) s =
      .next (u |> beginPicture i b pt false |> enqueueBuild ⟨i, .present b, now u, pt, some (refOf 0x1A c), nextOrder u⟩))) ∧
  (∀ c s t i, t = markStarted 0x1B c s → Served 0x1B c s → i = c.argF 0 7 0 → (t.plane i).state = 1 → (t.plane i).owner = c.idx →
    exec (.planeFree c []) s = .next (startFree i (some (refOf 0x1B c)) t)) ∧
  (∀ (p : Fin 256) s, (s.plane p.val).state = 2 → s.ras.leases.any (fun l => decide (l.plane = p.val)) = false →
    exec (.planeFreed p) s = .next (freePlane p.val s)) ∧
  (∀ c s t i b p, t = markStarted 0x1C c s → Served 0x1C c s → i = c.argF 0 7 0 → b = c.argF 0 11 8 →
    hostBufReason c.idx i b t = 0 → p = t.plane i →
    (leased i b t = false → exec (.bufRelease c) s =
      .next (t.setPlane i { p with pics := p.pics.filter (fun x => decide (x.buf ≠ b)) } |> answer 0x1C c DONE)) ∧
    (leased i b t = true → exec (.bufRelease c) s =
      .next (t.setPlane i { p with releases := p.releases ++ [(b, some (refOf 0x1C c))] } |> complete false (refOf 0x1C c) LEASED 0 0 0))) ∧
  (∀ c s t, t = markStarted 0x1D c s → Served 0x1D c s → SrcReads c 48 s → winReason (srcWords c s) = 0 →
    winPlaceReason c.idx (c.argF 0 9 0) (parseWin (srcWords c s)) t = 0 →
    exec (.winSet c []) s = .next (t.setWin (c.argF 0 9 0) (some ⟨c.idx, parseWin (srcWords c s)⟩) |> showAsm |> answer 0x1D c DONE)) ∧
  (∀ c s t w, t = markStarted 0x1E c s → Served 0x1E c s → t.win (c.argF 0 9 0) = some w → w.owner = c.idx →
    exec (.winClear c []) s = .next (t.setWin (c.argF 0 9 0) none |> showAsm |> answer 0x1E c DONE)) ∧
  (∀ c s t l, t = markStarted 0x1F c s → Served 0x1F c s → SrcReads c 1792 s → l = parseCoef (srcWords c s) → coefOk l = true →
    c.argF 0 3 0 ≠ 0 →
    exec (.coefLoad c) s = .next (t.setCoef (c.argF 0 3 0) (some ⟨l.take 512, l.drop 512⟩) |> answer 0x1F c DONE))

/-- Assembly, drawing and copying (R273, R276, R283, R286, R483). -/
def Obligations.BuildsAndDrawsComplete : Prop :=
  (∀ (p : Fin 256) s q, s.asm.run = none → runs 0x60 s = true → nextBuild s.asm.queue = some q → q.plane = p.val →
    reached (ofSigned 64 q.start) s = true →
    ((∀ n, q.kind ≠ .group n) → exec (.buildStart p) s = .next (startBuild q s)) ∧
    (∀ n w g, q.kind = .group n → w = (s.plane q.plane).force → g = s.grp w.pgroup →
      (groupState w.pgroup s = 2 ∨ (g.hasNext && [1, 5].contains (groupState w.pgroup s)) = true →
        exec (.buildStart p) s = .next (s |> cuesPaced w.pgroup |> startBuild q)) ∧
      (groupState w.pgroup s ≠ 2 → (g.hasNext && [1, 5].contains (groupState w.pgroup s)) = false →
        exec (.buildStart p) s = .next { s with asm := { s.asm with queue := s.asm.queue.filter (fun x => decide (x ≠ q)) } }))) ∧
  (∀ (k : Fin 4) u s r, markArmed k.val u = true → s = passLines k.val u → s.asm.run = some r → r.marks.contains k.val = false →
    exec (.watermark k) u = .next ({ s with asm := { s.asm with run := some { r with marks := k.val :: r.marks } } }
      |> setF (ASM_WMSTAT_PLANE k.val) r.plane |> addF (ASM_WMSTAT_COUNT k.val) 1 |> raise 0x60 (2 + k.val))) ∧
  (∀ s r, s.asm.run = some r → exec .buildComplete s = .next (completeBuild r s)) ∧
  (∀ c s t, t = markStarted 0x20 c s → Served 0x20 c s → SrcReads c 48 s → drawReason c.idx (srcWords c s) t = 0 →
    exec (.draw [c]) s = .next ({ t with asm := { t.asm with draws := t.asm.draws ++ [⟨refOf 0x20 c, srcWords c s, leasesNow t⟩] } } |> showDrw)) ∧
  (∀ c s t r, t = markStarted 0x20 c s → Served 0x20 c s → SrcReads c 48 s → r = drawReason c.idx (srcWords c s) t → r ≠ 0 →
    exec (.draw [c]) s = .next (t |> setF DRW_REJ_REASON r |> setF DRW_REJ_PARTITION c.idx |> countF DRW_REJ_CNT |> raise 0x68 2
      |> refuse 0x20 c (if r = 6 then NOT_OWNER else BAD_ARGUMENT) r)) ∧
  (∀ spans s j rest r f u, s.asm.draws = j :: rest → runs 0x68 s = true → r = drawAll (parseDraw j.words) j.leases spans s →
    f = fresh 32 r.1.1 →
    u = ({ f.2 with asm := { f.2.asm with draws := rest } } |> showDrw |> addF DRW_PX r.2 |> addF DRW_BURSTS f.1) →
    (r.1.2 = none → exec (.drawComplete spans) s = .next (complete true j.cmd DONE 0 0 0 u)) ∧
    (∀ l, r.1.2 = some l → exec (.drawComplete spans) s =
      .next (u |> leaseViolation 1 (whoIdx j.cmd.who) l |> countF DRW_CUT |> raise 0x68 3 |> complete true j.cmd LEASED 0 0 0))) ∧
  (∀ c s t, t = markStarted 0x21 c s → Served 0x21 c s → c.src.len = c.dst.len → srcBad c s = false →
    exec (.dmaCopy c) s = .next { t with asm := { t.asm with dmas := t.asm.dmas ++ [⟨c, leasesNow t⟩] } }) ∧
  (∀ c spans before s j r u, s.asm.dmas.find? (fun j => decide (j.cmd.who = c.who)) = some j → j.cmd = c →
    srcBad c s = false → dstBad c s = false →
    r = dmaWrite (opSpace c c.dst s) j.leases spans c.dst.addr 0 (srcBytes c s) (s, none) →
    u = { r.1 with asm := { r.1.asm with dmas := dropFirst (fun x => decide (x = j)) r.1.asm.dmas } } →
    (r.2 = none → exec (.dmaCopyDone c spans before true) s = .next (answer 0x21 c DONE u)) ∧
    (∀ l, r.2 = some l → exec (.dmaCopyDone c spans before true) s =
      .next (u |> leaseViolation 0 c.idx l |> answer 0x21 c LEASED))) ∧
  (∀ c spans before ok s j r u, s.asm.dmas.find? (fun j => decide (j.cmd.who = c.who)) = some j → j.cmd = c →
    (ok && !srcBad c s && !dstBad c s) = false →
    r = dmaWrite (opSpace c c.dst s) j.leases spans c.dst.addr 0 ((srcBytes c s).take before) (s, none) →
    u = { r.1 with asm := { r.1.asm with dmas := dropFirst (fun x => decide (x = j)) r.1.asm.dmas } } →
    (r.2 = none → exec (.dmaCopyDone c spans before ok) s = .next (abortOperand 0x21 c u)) ∧
    (∀ l, r.2 = some l → exec (.dmaCopyDone c spans before ok) s =
      .next (u |> leaseViolation 0 c.idx l |> abortOperand 0x21 c))) ∧
  (∀ (who : Who) (v : Word) s, Accepted who 0x60 s → exec (.asmPselWrite who v) s = .next (writePsel v.toNat s))

/-- Encode sessions (R295, R298, R300, R302, R305, R310). -/
def Obligations.EncodingCompletes : Prop :=
  (∀ c s t i e x y p l, t = markStarted 0x28 c s → Served 0x28 c s → SrcReads c 48 s → encReason c.idx (srcWords c s) t = 0 →
    i = (firstBelow 16 (fun i => decide ((t.sess i).state = 0))).getD 0 → e = parseEnc (srcWords c s) →
    x = ((sessRoom e t).getD []).map (fun x => encodeClass + 1024 * x) → p = sessPage i → l = sessLocal i →
    y = { state := 1, owner := c.idx % 8, cfg := e, auMin := auMin e, bufs := x, bucket := (e.cpb : Int) } →
    exec (.encOpen [c]) s = .next (t.setSess i y |> showSession i |> showEnc |> setF (ENC_S_AUMIN p l) (auMin e)
      |> setF (ENC_S_BUCKET p l) e.cpb |> setF (ENC_S_WR_OFFSET p l) 0 |> setF (ENC_S_RD_OFFSET p l) 0
      |> setF (ENC_S_PICS p l) 0 |> finish 0x28 c DONE 0 i 0)) ∧
  (∀ c s t r, t = markStarted 0x28 c s → Served 0x28 c s → SrcReads c 48 s → r = encReason c.idx (srcWords c s) t → r ≠ 0 →
    exec (.encOpen [c]) s = .next (t |> setF ENC_OPEN_REJ_REASON r |> setF ENC_OPEN_REJ_PARTITION c.idx |> raise 0x150 6
      |> ifS (decide (r = 8) || decide (r = 9)) (fun s => s |> countF ENC_TFULL |> raise 0x150 7)
      |> refuse 0x28 c (if r = 6 then NOT_OWNER else if r = 8 ∨ r = 9 then TABLE_FULL else BAD_ARGUMENT) r)) ∧
  (∀ c s t i, t = markStarted 0x29 c s → Served 0x29 c s → i = c.argF 0 3 0 → (t.sess i).state = 1 → (t.sess i).owner = c.idx →
    exec (.encClose c) s = .next (closeSession i (some (refOf 0x29 c)) t)) ∧
  (∀ (i : Fin 16) s, (s.sess i.val).state = 1 → exec (.encCapture i) s = .next (startCapture i.val s)) ∧
  (∀ (i : Fin 16) s c k u, (s.sess i.val).queued.find? (fun c => !c.done) = some c → k = captureCodes (s.sess i.val).cfg c s →
    u = s.setSess i.val { s.sess i.val with
        queued := finishCapture (fun c => { c with done := true, y := k.1, cb := k.2.1, cr := k.2.2 }) (s.sess i.val).queued } →
    exec (.encCaptureDone i) s = .next (u |> endCapture i.val c |> showSession i.val)) ∧
  (∀ (core : Fin 4) s i c x b, isOn (0x150 + core.val) s = true → getB (ENC_CORE_BUSY core.val) s = false →
    nextPicture core.val s = some (i, c) → b = startBudget (s.sess i) c →
    x = { s.sess i with queued := (s.sess i).queued.erase c, encoding := some b.1, carry := b.2.toNat } →
    exec (.encPictureStart core) s =
      .next (s.setSess i { x with lastPt := some c.pt, forceIdr := false, rois := x.roiApply.getD x.rois, roiApply := none }
        |> setB (ENC_CORE_BUSY core.val) true |> setF (ENC_CORE_SESSION core.val) i |> showSession i)) ∧
  (∀ (core : Fin 4) res s i x e cut au u, i = getF (ENC_CORE_SESSION core.val) s → getB (ENC_CORE_BUSY core.val) s = true →
    x = s.sess i → x.encoding = some e → cut = cutRow x.cfg e res.rows → au = accessUnit i x e cut res →
    (keepsBounds x e cut au.length res = true → u = pictureDone core.val i e cut au res s →
      ((u.sess i).state = 2 → exec (.encPictureDone core res) s = .next (freeSession i u)) ∧
      ((u.sess i).state ≠ 2 → exec (.encPictureDone core res) s = .next u)) ∧
    (keepsBounds x e cut au.length res = false → exec (.encPictureDone core res) s = .next s)) ∧
  (∀ (who : Who) (i : Fin 16) s, answers (0x150 + sessPage i.val) s = true →
    (isFw who || (decide ((s.sess i.val).state ≠ 0) && isPart who (s.sess i.val).owner)) = true →
    exec (.forceIdr who i) s = .next (s.setSess i.val { s.sess i.val with forceIdr := true }) ∧
    exec (.roiApply who i) s = .next (s.setSess i.val { s.sess i.val with roiApply := some (stagedRois i.val s) }) ∧
    ∀ (v : Word), exec (.encSRdWrite who i v) s = .next (writeSRd i.val v.toNat s))

/-- Egress queues (R312, R314, R318, R321, R326, R328). -/
def Obligations.EgressFramesComplete : Prop :=
  (∀ c s t i, t = markStarted 0x2A c s → Served 0x2A c s → c.argF 0 2 0 ≤ 4 →
    firstBelow 64 (fun i => decide ((t.sub i).open_ = false)) = some i →
    exec (.egrSubOpen [c]) s = .next (each [0, 1, 2, 3] (fun v => State.setQueue (4 * i + v) {}) t
      |> State.setSub i { open_ := true, owner := c.idx, port := c.argF 0 2 0 } |> showEgr |> finish 0x2A c DONE 0 i 0)) ∧
  (∀ c s t, t = markStarted 0x2A c s → Served 0x2A c s → c.argF 0 2 0 ≤ 4 →
    firstBelow 64 (fun i => decide ((t.sub i).open_ = false)) = none →
    exec (.egrSubOpen [c]) s = .next (t |> countF EGR_TFULL |> raise 0x158 2 |> answer 0x2A c TABLE_FULL)) ∧
  (∀ c s t i, t = markStarted 0x2B c s → Served 0x2B c s → i = c.argF 0 5 0 → subOpen i t = true → (t.sub i).owner = c.idx →
    exec (.egrSubClose c) s = .next (closeSub i (some (refOf 0x2B c)) t)) ∧
  (∀ c s t q f, t = markStarted 0x2C c s → Served 0x2C c s → SrcReads c 24 s → sendReason c (srcWords c s) t = 0 →
    q = fieldAt (srcWords c s) 0 7 0 → f = parseFrame c (srcWords c s) t →
    exec (.egrSend c) s = .next (t.setQueue q { t.queue q with frames := (t.queue q).frames ++ [{ f with headAt := now t }] })) ∧
  (∀ c s t r, t = markStarted 0x2C c s → Served 0x2C c s → SrcReads c 24 s → r = sendReason c (srcWords c s) t → r ≠ 0 →
    exec (.egrSend c) s = .next (t |> setF EGR_SEND_REJ_REASON r |> setF EGR_SEND_REJ_PARTITION c.idx |> raise 0x158 3
      |> ifS (decide (r = 7)) (countDrop (fieldAt (srcWords c s) 0 7 0))
      |> refuse 0x2C c (if r = 4 then NOT_OWNER else if r = 7 then TABLE_FULL else BAD_ARGUMENT) r)) ∧
  (∀ (port : Fin 5) u s q f x, isOn 0x158 u = true → (u.eport port.val).sending = none →
    portClaimed port.val u = false → s = applyTicks u → chooseFrame port.val s = (some (q, f), x) →
    exec (.egrFrameTxStart port) u = .next (s.setEport port.val x |> startFrame port.val q f)) ∧
  (∀ (port : Fin 5) s x u, (s.eport port.val).sending = some x → u = (s |> frameLeft port.val x |> sendDone x.frame.cmd) →
    (x.queue < 256 → (u.sub (subOf x.queue)).close.isSome = true →
      exec (.egrFrameTxEnd port) s = .next (freeSub (subOf x.queue) u)) ∧
    (256 ≤ x.queue ∨ (u.sub (subOf x.queue)).close = none → exec (.egrFrameTxEnd port) s = .next u)) ∧
  (∀ (who : Who) s, answers 0x158 s = true →
    (∀ q b v, ownsWindow who q s = true → exec (.egrBucketWrite who q b v) s = .next (writeRateBurst q b v.toNat s)) ∧
    (∀ q b v, ownsWindow who q s = false →
      exec (.egrBucketWrite who q b v) s = .next (s |> countF EGR_WREJ |> rejectWrite who)) ∧
    (∀ q, ownsWindow who true s = true → q = getF EGR_QSEL_SEL s → exec (.egrQClear who) s =
      .next (s.setQueue q { s.queue q with depthMin := 0xFFFFFFFF, depthMax := 0, delayMin := 0xFFFFFFFF, delayMax := 0 })) ∧
    (∀ (v : Word), exec (.egrSselWrite who false v) s = .next (setF EGR_SSEL_SEL (v.toNat % 64) s)) ∧
    (∀ (v : Word), v.toNat % 512 ≤ 0x104 → exec (.egrSselWrite who true v) s = .next (setF EGR_QSEL_SEL (v.toNat % 512) s)))

/-- Gates and shapers (R320, R322, R324, R325, R326). -/
def Obligations.EgressGatesComplete : Prop :=
  (∀ s, ticksDue s = 0 → exec .tokenTick s = .next s) ∧
  (∀ s n u, n = ticksDue s → n ≠ 0 →
    u = each (List.range 256) (fun i t => t.setQueue i { t.queue i with bucket := tickBucket n (t.queue i).bucket })
      (each (List.range 64) (fun i t => t.setSub i { t.sub i with bucket := tickBucket n (t.sub i).bucket }) s) →
    exec .tokenTick s = .next { u with egr := { u.egr with nextTick := (u.egr.nextTick + 1000 * n) % 2 ^ 64 } }) ∧
  (∀ c s t p, t = markStarted 0x2D c s → Served 0x2D c s → isOwner c.who 0x158 s = true → p = c.argF 0 2 0 → p ≤ 4 →
    c.src.len % 4 = 0 → c.src.len ≤ 4096 → srcBad c s = false → srcWords c s ≠ [] →
    (srcWords c s).any (fun w => decide (intervalOf w < 64)) = false → gatePending p s = false →
    exec (.gclLoad c) s = .next (t.setEport p { t.eport p with admin := srcWords c s }
      |> setF (EGR_P_GSTAT_ADMIN_LEN p) (srcWords c s).length |> answer 0x2D c DONE)) ∧
  (∀ (who : Who) (port : Fin 5) s, OwnerAccepted who 0x158 s →
    (gateReason port.val s ≠ 0 → exec (.configChange who port) s =
      .next (s |> setF (EGR_P_GREJ_REASON port.val) (gateReason port.val s) |> raise 0x158 6)) ∧
    (∀ b cycle x, gateReason port.val s = 0 → b = getF (EGR_P_ABASE_LO port.val) s + getF (EGR_P_ABASE_HI port.val) s * 2 ^ 32 →
      cycle = getF (EGR_P_ACYCLE_NS port.val) s →
      x = (if tnsLe (soon s) b then b else (b + ceilDiv (diff64 (soon s) b).toNat cycle * cycle) % 2 ^ 64) → exec (.configChange who port) s =
      .next (s |> setF (EGR_P_CHG_LO port.val) x |> setF (EGR_P_CHG_HI port.val) (x / 2 ^ 32)
        |> setB (EGR_P_GSTAT_PENDING port.val) true)) ∧
    ((gatePending port.val s && reached (changeTime port.val s) s) = false →
      exec (.gclCancel who port) s = .next (setB (EGR_P_GSTAT_PENDING port.val) false s)) ∧
    ((gatePending port.val s && reached (changeTime port.val s) s) = true →
      exec (.gclCancel who port) s = .next (s |> changeGates port.val |> setB (EGR_P_GSTAT_PENDING port.val) false))) ∧
  (∀ (port : Fin 5) s x, gatePending port.val s = true → reached (changeTime port.val s) s = true → x = s.eport port.val →
    exec (.gclChangeTime port) s = .next (s.setEport port.val { x with
        oper := x.admin, operBase := changeTime port.val s, operCycle := getF (EGR_P_ACYCLE_NS port.val) s,
        operExt := getF (EGR_P_AEXT_NS port.val) s, cycleStart := changeTime port.val s, entry := 0 }
      |> setB (EGR_P_GSTAT_OPER_GATE_EN port.val) (getB (EGR_P_GCTRL_ADMIN_GATE_EN port.val) s)
      |> setF (EGR_P_GSTAT_OPER_LEN port.val) x.admin.length |> setF (EGR_P_OCYCLE_NS port.val) (getF (EGR_P_ACYCLE_NS port.val) s)
      |> setB (EGR_P_GSTAT_PENDING port.val) false |> showGates port.val |> raise 0x158 (7 + port.val))) ∧
  (∀ (port : Fin 5) s x, x = s.eport port.val → x.oper ≠ [] → reached (entryEnd port.val s) s = true → gatePending port.val s = false →
    ((cycleSegs x.operCycle 0 x.oper).length ≤ x.entry + 1 → exec (.gateEntryEnd port) s =
      .next (s.setEport port.val { x with cycleStart := (x.cycleStart + x.operCycle) % 2 ^ 64, entry := 0 } |> showGates port.val)) ∧
    (x.entry + 1 < (cycleSegs x.operCycle 0 x.oper).length → exec (.gateEntryEnd port) s =
      .next (s.setEport port.val { x with entry := x.entry + 1 } |> showGates port.val))) ∧
  (∀ (port : Fin 5) (cls : Fin 8) s, bitOf (getF (EGR_P_PAUSED_CLASSES port.val) s) cls.val = true →
    reached (FMap.get 0 (s.eport port.val).pauseUntil cls.val) s = true →
    exec (.pfcPauseExpire port cls) s =
      .next (s.setEport port.val { s.eport port.val with pauseUntil := FMap.set 0 (s.eport port.val).pauseUntil cls.val 0 }
        |> clearF (EGR_P_PAUSED_CLASSES port.val) (2 ^ cls.val))) ∧
  (∀ s u, reached s.egr.nextSample s = true → u = each (List.range 261) (fun i t => t.setQueue i (sampleQueue (now t) (t.queue i))) s →
    exec .egrSampleTick s = .next { u with egr := { u.egr with nextSample := u.egr.nextSample + getF EGR_SAMPLE_PERIOD u * 1000 } })

/-- Writes of spec/11 (R333 to R335, R341, R345, R348). -/
def Obligations.TimeWritesComplete : Prop :=
  (∀ (who : Who) s, OwnerAccepted who 0x10 s →
    (∀ (d : Fin 2), exec (.timSelDomainWrite who d) s = .next { s with tim := { s.tim with switchTo := some d.val } }) ∧
    (jumpAllowed s = true → exec (.timSelJump who) s = .next ({ s with tim := { s.tim with jumped := true } }
      |> setB TIM_STAT_SEL_VALID false |> setB TIM_STAT_SLEWING false)) ∧
    (jumpAllowed s = false → exec (.timSelJump who) s = .next (switchRefused 3 s)) ∧
    (∀ (p : Fin 5), exec (.txqPop who p) s = .next (s.setTxq p.val (s.txq p.val).tail |> showTxq p.val)) ∧
    (∀ (c : Fin 16), exec (.timerDisarm who c) s =
      .next (s.setTimer c.val { s.timer c.val with nextEdge := none, placed := [] } |> setB (TIM_CH_STAT_ARMED c.val) false)) ∧
    (∀ (c : Fin 16), getB TIM_STAT_SEL_VALID s = false → exec (.timerArm who c) s = .next (timerLate c.val false s)) ∧
    (∀ (c : Fin 16) x, x = stagedSet c.val s → getB TIM_STAT_SEL_VALID s = true → x.mode = 1 →
      (tnsLe (soon s) x.start = true → exec (.timerArm who c) s = .next (latchSet c.val x (some (x.start, 0)) [] true s)) ∧
      (tnsLe (soon s) x.start = false → exec (.timerArm who c) s = .next (timerLate c.val true s))) ∧
    (∀ (c : Fin 16) x, x = stagedSet c.val s → getB TIM_STAT_SEL_VALID s = true → x.mode = 2 → 1000 ≤ x.periodNs.toNat →
      exec (.timerArm who c) s = .next (latchSet c.val x (some (x.edge (x.firstK s), x.firstK s)) [] true s)) ∧
    (∀ (c : Fin 16) x e, x = stagedSet c.val s → getB TIM_STAT_SEL_VALID s = true → x.mode = 3 →
      e = (((fixedFrames x.group s).filter (fun f => decide (f.1 % x.div = 0))).map (fun f =>
        ofSigned 64 ((f.2 : Int) + toSigned 32 x.startLo.toNat))).filter (fun t => tnsLe (soon s) t) → exec (.timerArm who c) s =
      .next (latchSet c.val x none e true s))) ∧
  (∀ (d : Fin 2) s, d.val ≠ domain s →
    (dValid d.val s = false → judgeWrite d.val s = switchRefused 1 s) ∧
    (dValid d.val s = true → withinMax d.val s = false → judgeWrite d.val s = switchRefused 2 s) ∧
    (dValid d.val s = true → withinMax d.val s = true → judgeWrite d.val s = autoSwitch d.val s)) ∧
  (∀ (who : Who) s, Accepted who 0x10 s → exec (.timSnap who) s = .next { s with tim := { s.tim with snap := true } }) ∧
  (∀ (who : Who) (d : Fin 2) s, Accepted who (0x11 + d.val) s →
    (servoWrites who d.val s = true →
      (∀ v, blockState (0x11 + d.val) s ≠ 0 → exec (.timDValidWrite who d v) s = .next (setValid d.val v s)) ∧
      (∀ v, blockState (0x11 + d.val) s = 0 → exec (.timDValidWrite who d v) s = .next s) ∧
      (∀ (v : Word), exec (.timDIncWrite who d v) s = .next (writeIncHi d.val v.toNat s)) ∧
      (∀ (v : Word), exec (.timDAdjWrite who d v) s =
        .next (s.setDom d.val { s.dom d.val with adj := (s.dom d.val).adj + toSigned 32 v.toNat })) ∧
      exec (.timDSet who d) s = .next (writeSet d.val s)) ∧
    (servoWrites who d.val s = false → exec (.timDSet who d) s = .next s ∧ ∀ (v : Word), exec (.timDIncWrite who d v) s = .next s ∧
      exec (.timDAdjWrite who d v) s = .next s ∧ ∀ b, exec (.timDValidWrite who d b) s = .next s))

/-- What time does by itself (R332, R334, R344, R347). -/
def Obligations.TimeEventsComplete : Prop :=
  (∀ s, ¬(blockState 0x10 s = 7 ∧ getF (PG_STAT_FAULT_CODE 0x10) s = 1) → earlyMode (tickSelected (tickDomains s)) = false →
    exec .aoclkTick s = .next (each (List.range 4) cuesPaced (tickSelected (tickDomains s)))) ∧
  (∀ s, s.pwr.vhv = true → exec .ppsInEdge s = .next (s |> setF TIM_PPS_S_LO (now s) |> setF TIM_PPS_S_HI (now s / 2 ^ 32)
    |> setF TIM_PPS_A_LO (s.tim.domA.count / 2 ^ 32) |> setF TIM_PPS_A_HI (s.tim.domA.count / 2 ^ 64)
    |> setF TIM_PPS_B_LO (s.tim.domB.count / 2 ^ 32) |> setF TIM_PPS_B_HI (s.tim.domB.count / 2 ^ 64)
    |> addF TIM_PPS_CNT 1 |> raise 0x10 7)) ∧
  (∀ (d : Fin 2) s, runs (0x11 + d.val) s = true → blockState 0x10 s ≠ 7 →
    exec (.announceTimeout d) s = .next (s |> restServo d.val 1
      |> (fun t => t.setDom d.val { t.dom d.val with foreign := match (s.dom d.val).gm with
        | some src => (s.dom d.val).foreign.filter (fun x => decide (x.src ≠ src))
        | none => [] })
      |> fun t => ifS (!getB (TIM_D_CFG_HOST d.val) t) (setValid d.val false) t)) ∧
  (∀ (d : Fin 2) (p : Fin 5) uni s u f, isOn (0x11 + d.val) s = true → bitOf (getF (TIM_D_CFG_PORTS d.val) s) p.val = true →
    (s.dom d.val).gm.isSome = true → u = s.setDom d.val { s.dom d.val with seq := ((s.dom d.val).seq + 1) % 65536 } →
    f = delayReqFrame d.val p.val (if uni then masterAddr d.val u else none) u →
    exec (.ptpDelayReqSend d p uni) s = .next (u.setQueue (256 + p.val)
      { u.queue (256 + p.val) with frames := (u.queue (256 + p.val)).frames ++ [systemFrame f (now u)] })) ∧
  (∀ (c : Fin 16) s t, earliest ((scheduled (s.timer c.val) ++ (s.timer c.val).cued).filter (fun t => reached t s)) = some t →
    runs 0x10 s = true → exec (.timerEdge c) s = .next (fire c.val t s)) ∧
  (∀ (c : Fin 16) s u, (s.timer c.val).activeUntil = some u → reached u s = true → exec (.timerPulseEnd c) s =
    .next (s.setTimer c.val { s.timer c.val with activeUntil := none } |> emit (.tp c.val (s.timer c.val).set.pol))) ∧
  (∀ s, s.pwr.vhv = true → getF (PG_STAT_STATE 0x10) s ≠ 7 → exec .aoclkLoss s = .next (s |> blockFaults 0x10 1 |> aoclkGone)) ∧
  (∀ s, s.pwr.vhv = true → getF (PG_STAT_STATE 0x10) s = 7 → exec .aoclkLoss s = .next (aoclkGone s))

/-- Cue lists (R352, R357, R358, R363, R365). -/
def Obligations.CueCommandsComplete : Prop :=
  (∀ c s t, s.fwu.pause = false → t = markStarted 0x30 c s → Served 0x30 c s → srcBad c s = false →
    c.src.len = 32 + 16 * fieldAt (srcWords c s) 0 12 0 → cueTarget (srcWords c s) < 8 →
    cueReason (c.idx % 8) (srcWords c s) t = 0 →
    exec (.cueLoad [c]) s = .next (acceptList c (srcWords c s) t)) ∧
  (∀ c s t r, s.fwu.pause = false → t = markStarted 0x30 c s → Served 0x30 c s → srcBad c s = false →
    c.src.len = 32 + 16 * fieldAt (srcWords c s) 0 12 0 → r = cueReason (c.idx % 8) (srcWords c s) t → r ≠ 0 →
    exec (.cueLoad [c]) s = .next (t |> setF CUE_REJ_REASON r |> setF CUE_REJ_LIST (cueTarget (srcWords c s))
      |> setF CUE_REJ_PARTITION c.idx |> raise 0x18 26 |> ifS (decide (r = 5)) (fun s => s |> countF CUE_TFULL |> raise 0x18 27)
      |> refuse 0x30 c (cueStatus r) r)) ∧
  (∀ c s t l, s.fwu.pause = false → t = markStarted 0x31 c s → Served 0x31 c s → l = c.argF 0 2 0 →
    ((t.cueList l).state = 0 → exec (.cueStop c) s = .next (answer 0x31 c DONE t)) ∧
    ((t.cueList l).state ≠ 0 → (t.cueList l).owner = c.idx % 8 → exec (.cueStop c) s =
      .next (t.setCueList l {} |> showList l |> answer 0x31 c DONE)) ∧
    ((t.cueList l).state ≠ 0 → (t.cueList l).owner ≠ c.idx % 8 → exec (.cueStop c) s = .next (answer 0x31 c NOT_OWNER t))) ∧
  (∀ c s t i, t = markStarted 0x32 c s → Served 0x32 c s → SrcReads c 48 s → winReason (srcWords c s) = 0 → i = c.argF 0 7 0 →
    (FMap.get none t.cue.presets i).any (fun x => decide (x.owner ≠ c.idx % 8)) = false →
    exec (.cuePreset c) s = .next ({ t with cue := { t.cue with
      presets := FMap.set none t.cue.presets i (some ⟨c.idx % 8, parseWin (srcWords c s)⟩) } } |> answer 0x32 c DONE)) ∧
  (∀ c s t, t = markStarted 0x32 c s → Served 0x32 c s → SrcReads c 48 s → winReason (srcWords c s) ≠ 0 →
    exec (.cuePreset c) s = .next (asmRefuse 0x32 c 1 (winReason (srcWords c s)) t)) ∧
  (∀ (l : Fin 8) s e, s.fwu.pause = false → skippable l.val s = some e → exec (.cueSkip l) s =
    .next (s |> countF (CUE_SKIP l.val) |> setF (CUE_FAIL_REASON l.val) 0xF0 |> setF (CUE_FAIL_ENTRY l.val) e.2 |> markDone l.val e))

/-- Commands of the rim strip (R373 to R376, R380, R385). -/
def Obligations.RimCommandsComplete : Prop :=
  (∀ c s t i, t = markStarted 0x38 c s → Served 0x38 c s → SrcReads c 1156 s → i = c.argF 0 7 0 →
    crcWords ((srcWords c s).take 288) = (srcWords c s).getD 288 0 →
    (FMap.get 0 t.rim.storeOwner i = 0 ∨ FMap.get 0 t.rim.storeOwner i = c.idx + 1) →
    exec (.rimImageStore c) s = .next ({ t with rim := { t.rim with
      store := FMap.set [] t.rim.store i ((srcWords c s).take 288),
      storeOwner := FMap.set 0 t.rim.storeOwner i (c.idx + 1) } } |> answer 0x38 c DONE)) ∧
  (∀ c s t c0 c1 s0 s1 r, t = markStarted 0x39 c s → Served 0x39 c s → c0 = c.argF 0 28 24 → c1 = c.argF 0 20 16 →
    s0 = c.argF 0 15 8 → s1 = c.argF 0 7 0 → c0 ≤ c1 → c1 ≤ 23 → s0 ≤ s1 → s1 ≤ 191 →
    (List.range 16).any (fun r => rimOpen r t && rimOverlap (c0, c1, s0, s1) (rimRect r t)) = false →
    firstBelow 16 (fun r => !rimOpen r t) = some r →
    exec (.rimRegionOpen [c]) s = .next (t |> wr (RIM_RGN_STAT_STATE r).addr 0 |> setF (RIM_RGN_STAT_STATE r) 1
      |> setF (RIM_RGN_STAT_OWNER r) c.idx |> setF (RIM_RGN_RECT_C0 r) c0 |> setF (RIM_RGN_RECT_C1 r) c1
      |> setF (RIM_RGN_RECT_S0 r) s0 |> setF (RIM_RGN_RECT_S1 r) s1 |> finish 0x39 c DONE 0 r 0)) ∧
  (∀ c s t r, t = markStarted 0x3A c s → Served 0x3A c s → r = c.argF 0 3 0 → rimOpen r t = true →
    (c.idx = 8 ∨ getF (RIM_RGN_STAT_OWNER r) t = c.idx) →
    (t.rimQ r = [] → exec (.rimRegionSet c) s = .next (t |> setF (RIM_RGN_STAT_CO_EN r) (c.argF 1 31 31)
      |> setF (RIM_RGN_STAT_CO_OWNER r) (c.argF 1 2 0) |> answer 0x3A c DONE)) ∧
    (t.rimQ r ≠ [] → exec (.rimRegionSet c) s = .next (answer 0x3A c BUSY t))) ∧
  (∀ c s t r, t = markStarted 0x3B c s → Served 0x3B c s → r = c.argF 0 3 0 → rimOpen r t = true →
    (c.idx = 8 ∨ getF (RIM_RGN_STAT_OWNER r) t = c.idx) →
    (t.rimQ r = [] → exec (.rimRegionClose c) s = .next (t |> wr (RIM_RGN_STAT_STATE r).addr 0 |> answer 0x3B c DONE)) ∧
    (t.rimQ r ≠ [] → exec (.rimRegionClose c) s = .next (answer 0x3B c BUSY t))) ∧
  (∀ c s t, t = markStarted 0x3C c s → mayStart 0x3C c s = true → exec (.rimUpdate c) s = .next { t with rim := { t.rim with
    offers := t.rim.offers ++ [⟨false, c.idx, c.idx, c.argF 0 3 0, c.argF 1 7 0, some (refOf 0x3C c)⟩] } }) ∧
  (∀ c s t, t = markStarted 0x3D c s → Served 0x3D c s → SrcReads c 132 s → isOwner c.who 0x180 t = true →
    bandTableOk (decide (getF RIM_CFG_INVERT t = 2)) (srcWords c s) = true →
    exec (.rimBandLoad c) s = .next ({ t with rim := { t.rim with bands := (srcWords c s).take 32 } }
      |> setB RIM_STAT_NO_TABLE false |> fun u => ifS (getB RIM_TEMP_VALID u) (fun u => setB RIM_STAT_T_OUT (rimTOut u) u) u
      |> showInhibit |> answer 0x3D c DONE |> rimServe)) ∧
  (∀ c s t, t = markStarted 0x3E c s → Served 0x3E c s → exec (.rimPersist c) s =
    .next { t with rim := { t.rim with persist := t.rim.persist ++ [refOf 0x3E c] } })

/-- What the strip does by itself (R376 to R386). -/
def Obligations.RimEventsComplete : Prop :=
  (∀ s, exec .rimArbiterTick s = .next (each (List.range 16) (arbitrateRegion s.rim.offers)
    { s with rim := { s.rim with offers := [] } } |> rimServe)) ∧
  (∀ s r c ws u, s.rim.line = some (r, c) → r < 16 → ws = lineWords r c s →
    u = (commitLine c ws { s with rim := { s.rim with line := none } } |> setF RIM_STAT_LINE 31) →
    ((rimRect r { u with rim := { u.rim with served := r } }).2.1 ≤ c →
      exec .commonLineComplete s = .next (updateDone r { u with rim := { u.rim with served := r } } |> rimServe)) ∧
    (c < (rimRect r { u with rim := { u.rim with served := r } }).2.1 → exec .commonLineComplete s =
      .next ({ u with rim := { u.rim with served := r, nextCom := FMap.set 0 u.rim.nextCom r (c + 1) } } |> showRimQ r |> rimServe))) ∧
  (∀ s c ws u, s.rim.line = some (16, c) → ws = lineWords 16 c s →
    u = (commitLine c ws { s with rim := { s.rim with line := none } } |> setF RIM_STAT_LINE 31) →
    exec .commonLineComplete s = .next (u |> restoreLineDone |> rimServe)) ∧
  (∀ s, getB RIM_STAT_BOOST_ON s = true → exec .boostReady s = .next ({ s with rim := { s.rim with boostUp := true } } |> rimServe)) ∧
  (∀ s, rimBusy s = false → s.rim.line = none → s.rim.restore = none → exec .boostIdleTimeout s =
    .next ({ s with rim := { s.rim with boostUp := false } } |> setB RIM_STAT_BOOST_ON false)) ∧
  (∀ r s u, u = ({ s with rim := { s.rim with convAsked := false } } |> setF RIM_VSUP_VHV r.vhv |> setF RIM_VSUP_VHOLD r.vhold |> setF RIM_VRIM_VRIM r.vrim) →
    (41 ≤ r.ntc → r.ntc ≤ 4055 → exec (.converterConversion r) s = .next (u |> setB RIM_TEMP_VALID true |> putStripTemp r.ntc
      |> fun v => setB RIM_STAT_T_OUT (rimTOut v) v |> showInhibit |> rimServe)) ∧
    ((r.ntc < 41 ∨ 4055 < r.ntc) → exec (.converterConversion r) s = .next (u |> setB RIM_TEMP_VALID false
      |> fun v => setB RIM_STAT_T_OUT (rimTOut v) v |> showInhibit |> rimServe))) ∧
  (∀ s, mayPersist s = true →
    (newestCopy s = none → exec .rimPersistWrite s = .next { s with rim := { s.rim with
      persist := [], lastWrite := some (now s),
      writing := some (false, ⟨committedImage s, Word.ofNat 1, getB RIM_CFG_LEVELS s, true⟩, s.rim.persist) } }) ∧
    (∀ b k, newestCopy s = some (b, k) → exec .rimPersistWrite s = .next { s with rim := { s.rim with
      persist := [], lastWrite := some (now s),
      writing := some (!b, ⟨committedImage s, Word.ofNat (k.seq.toNat + 1), getB RIM_CFG_LEVELS s, true⟩, s.rim.persist) } })) ∧
  (∀ s c cmds b, s.rim.writing = some (b, c, cmds) →
    exec (.persisted true) s = .next ({ s with rim := { s.rim with
        writing := none, copyA := if b then s.rim.copyA else some { c with valid := true },
        copyB := if b then some { c with valid := true } else s.rim.copyB } }
      |> setF RIM_PSEQ c.seq.toNat |> raise 0x180 8 |> fun t => each cmds (fun r => complete true r DONE 0 0 0) t) ∧
    exec (.persisted false) s = .next { s with rim := { s.rim with
        writing := none, persist := cmds ++ s.rim.persist, copyA := if b then s.rim.copyA else some { c with valid := false },
        copyB := if b then some { c with valid := false } else s.rim.copyB } }) ∧
  (∀ s, s.rim.restoreDone = false → isOn 0x180 s = true → getB RIM_STAT_INHIBIT s = false →
    (newestCopy s = none → exec .rimRestore s = .next ({ s with rim := { s.rim with
      restore := some (List.range 24, [], false), restoreDone := true, invert := getF RIM_CFG_INVERT s } } |> rimServe)) ∧
    (∀ b k u, newestCopy s = some (b, k) → u = (s |> setB RIM_CFG_LEVELS k.levels |> setF RIM_PSEQ k.seq.toNat) →
      exec .rimRestore s = .next ({ u with rim := { u.rim with restore := some (List.range 24, k.image, true), restoreDone := true, invert := getF RIM_CFG_INVERT u } }
        |> rimServe)))

/-- Frames of the calibration cameras (R391 to R394, R403 to R405). -/
def Obligations.CameraFramesComplete : Prop :=
  (∀ (p : Fin 2) vc num s k, isOn (0x160 + p.val) s = true → sensorOf p.val vc s = some k →
    exec (.csiFrameStart p vc num) s = .next (startCamFrame k num s)) ∧
  (∀ (p : Fin 2) (l : CsiLineIn) s k f, runs (0x160 + p.val) s = true → l.phyError = false → l.crcOk = true → l.eccBad = false →
    l.overrun = false → sensorOf p.val l.vc s = some k → l.dt = (if getB (CAM_S_CFG_RAW12 k) s then 0x2C else 0x2B) →
    (s.sensor k).frame = some f → f.lines.length < getF (CAM_S_SIZE_H k) s → l.samples.length = getF (CAM_S_SIZE_W k) s →
    exec (.csiLine p l) s = .next (s.setSensor k { s.sensor k with
      frame := some { f with received := f.received + 1, lines := f.lines ++ [l.samples] } })) ∧
  (∀ (p : Fin 2) vc s k f, runs (0x160 + p.val) s = true → sensorOf p.val vc s = some k → (s.sensor k).frame = some f →
    exec (.csiFrameEnd p vc) s = .next (endFrame k f s)) ∧
  (∀ (o : Fin 8) s f t b u, FMap.get none s.cam.due o.val = some f →
    t = { s with cam := { s.cam with due := FMap.set none s.cam.due o.val none } } → nextOutBuf o.val t = some b →
    u = (t |> writeOutput o.val (outAddr o.val b t) (pipeline f)
      |> setF (CAM_O_STAT_LAST_BUF o.val) b |> setF (CAM_O_STAT_FLAGS o.val) f.flags |> setF (CAM_O_STAT_VALID o.val) 1
      |> setF (CAM_O_FCOUNT o.val) f.fcount |> orF CAM_O_CAUSE_DONE (2 ^ o.val) |> refreshCam) →
    (outYc o.val t = true → exec (.camOutputComplete o) s = .next (takePicture 1 o.val none
      { index := 0, pt := (f.stamp : Int), addr := outAddr o.val b t, planeBuf := none, camBuf := some (o.val, b),
        pitch := outPitch o.val t, srcW := outW o.val t, srcH := outH o.val t, concealed := false, incomplete := false,
        done := false, y := [], cb := [], cr := [] } u)) ∧
    (outYc o.val t = false → exec (.camOutputComplete o) s = .next (wrongFormat o.val u))) ∧
  (∀ (o : Fin 8) s f t, FMap.get none s.cam.due o.val = some f →
    t = { s with cam := { s.cam with due := FMap.set none s.cam.due o.val none } } → nextOutBuf o.val t = none →
    exec (.camOutputComplete o) s = .next (t |> orF CAM_O_CAUSE_DROP (2 ^ o.val) |> refreshCam)) ∧
  (∀ (p : Fin 2) s u, FMap.get none s.cam.trig p.val = some u → reached u s = true →
    exec (.camTrigPulseEnd p) s = .next (setTrig p.val none s)) ∧
  (∀ (who : Who) (k : Fin 8) (v : Word) s, OwnerAccepted who 0x160 s → getB (CAM_S_CFG_EN k.val) s = false →
    (bitOf v.toNat 31 = true → sensorOf (bitsOf v.toNat 30 30) (bitsOf v.toNat 29 26) s = none →
      exec (.camSensorEnable who k v) s = .next (wr (0x160400 + 0x40 * k.val) (Word.ofNat (v.toNat / 2 ^ 12 * 2 ^ 12)) s)) ∧
    (∀ k', bitOf v.toNat 31 = true → sensorOf (bitsOf v.toNat 30 30) (bitsOf v.toNat 29 26) s = some k' →
      exec (.camSensorEnable who k v) s = .next (portCause (bitsOf v.toNat 30 30) 6 s))) ∧
  (∀ (who : Who) (o : Fin 8) (v : Word) s, OwnerAccepted who 0x160 s →
    (getB (CAM_O_CFG_EN o.val) s = true → bitOf v.toNat 31 = false → exec (.camOutputEnable who o v) s =
      .next ({ s with cam := { s.cam with due := FMap.set none s.cam.due o.val none } } |> setF (CAM_O_CFG_EN o.val) 0)) ∧
    (getB (CAM_O_CFG_EN o.val) s = false → bitOf v.toNat 31 = true → badOutput o.val (bitsOf v.toNat 30 28) s = false →
      exec (.camOutputEnable who o v) s = .next (s |> setF (CAM_O_CFG_SENSOR o.val) (bitsOf v.toNat 30 28)
        |> setF (CAM_O_CFG_FMT o.val) (bitsOf v.toNat 27 27) |> setF (CAM_O_CFG_CONV o.val) (bitsOf v.toNat 26 26)
        |> setF (CAM_O_CFG_NBUF o.val) (clampN (v.toNat % 16) 2 8) |> setF (CAM_O_CFG_EN o.val) (bitsOf v.toNat 31 31))))

/-- Commands of the calibration cameras (R390, R395 to R398, R402). -/
def Obligations.CameraCommandsComplete : Prop :=
  (∀ c s t p, t = markStarted 0x40 c s → Served 0x40 c s → isOwner c.who 0x160 t = true → p = c.argF 0 16 16 →
    (c.argF 0 31 31 = 0 ∨ cccSupported.contains (c.argF 0 7 0) = true) →
    (c.argF 0 30 30 = 1 → c.dst.len ≤ 256 → exec (.camI3c c) s = .next (t.setI3cq p (t.i3cq p ++ [⟨c, [], false, false⟩]) |> busNext p)) ∧
    (c.argF 0 30 30 = 0 → c.src.len ≤ 256 → srcBad c t = false →
      exec (.camI3c c) s = .next (t.setI3cq p (t.i3cq p ++ [⟨c, srcBytes c t, false, false⟩]) |> busNext p))) ∧
  (∀ (p : Fin 2) data s h r t, runs (0x160 + p.val) s = true → s.i3cq p.val = h :: r → h.running = true →
    t = emit (.i3c p.val [Word.ofNat (h.cmd.arg 0)] h.bytes) s →
    (h.cmd.argF 0 30 30 = 0 → exec (.i3cTransferDone p true data) s = .next (t.setI3cq p.val r |> answer 0x40 h.cmd DONE |> busNext p.val)) ∧
    (h.cmd.argF 0 30 30 = 1 → dstBad h.cmd t = false → exec (.i3cTransferDone p true data) s =
      .next (t.setI3cq p.val r |> memWrite (opSpace h.cmd h.cmd.dst t) h.cmd.dst.addr (data.take h.cmd.dst.len)
        |> finish 0x40 h.cmd DONE 0 (data.take h.cmd.dst.len).length 0 |> busNext p.val)) ∧
    (h.retried = false → exec (.i3cTransferDone p false data) s = .next (t.setI3cq p.val ({ h with retried := true } :: r))) ∧
    (h.retried = true → exec (.i3cTransferDone p false data) s =
      .next (t.setI3cq p.val r |> portCause p.val 3 |> answer 0x40 h.cmd ABORTED |> busNext p.val))) ∧
  (∀ (p : Fin 2) addr payload s, isOn (0x160 + p.val) s = true → exec (.i3cIbi p addr payload) s =
    .next (s |> setF (CAM_P_IBI p.val) (beNat ((payload.take 4) ++ List.replicate (4 - payload.length) 0))
      |> setF (CAM_P_IBI_ADDR_ADDR p.val) addr |> portCause p.val 5)) ∧
  (∀ c s t ws k n tg u e, t = markStarted 0x41 c s → Served 0x41 c s → isOwner c.who 0x160 t = true → srcBad c t = false →
    ws = srcWords c t → k = fieldAt ws 0 23 21 → n = fieldAt ws 0 4 0 → tg = wordAt ws 2 → badSet ws = false →
    getB (CAM_S_CFG_EN k) t = true →
    u = each ((t.sensor k).sets.filter (fun e => decide (e.target = tg) && !e.started)) (fun e => complete true e.cmd COALESCED 0 0 0)
      (t.setSensor k { t.sensor k with sets := (t.sensor k).sets.filter (fun e => decide (e.target ≠ tg) || e.started) }) →
    (u.sensor k).sets.length < 16 →
    e = { cmd := refOf 0x41 c, id := fieldAt ws 1 31 16, w16 := decide (fieldAt ws 1 0 0 = 1), target := tg,
          writes := (List.range n).map (fun i => (fieldAt ws (3 + i) 31 16, fieldAt ws (3 + i) 15 0)),
          slot := (slotFor k tg u).1, missed := (slotFor k tg u).2, started := false } →
    exec (.camExpset c) s = .next (u.setSensor k { u.sensor k with sets := (u.sensor k).sets ++ [e] } |> ifS (slotFor k tg u).2 (missSlot k) |> showSensor k
      |> busNext (getF (CAM_S_CFG_PORT k) u))) ∧
  (∀ (k : Fin 8) s e (v : Bool → State), (s.sensor k.val).sets.find? (fun e => e.started) = some e →
    (∀ ack, v ack = (sendSet (getF (CAM_S_CFG_PORT k.val) s) k.val e ack s
      |> State.setSensor k.val { s.sensor k.val with
        sets := dropFirst (fun y => y.started) (s.sensor k.val).sets,
        applied := (s.sensor k.val).applied ++ [((e.slot + getF (CAM_S_CFG_LATENCY k.val) s) % 2 ^ 32, e.id, !ack)] }
      |> showSensor k.val)) →
    exec (.expsetWritten k true) s = .next (v true |> complete true e.cmd (if e.missed then TOO_LATE else DONE) 0 0 0
      |> busNext (getF (CAM_S_CFG_PORT k.val) s)) ∧
    exec (.expsetWritten k false) s = .next (v false |> sensorCause k.val 8 |> complete true e.cmd ABORTED 0 0 0
      |> busNext (getF (CAM_S_CFG_PORT k.val) s))) ∧
  (∀ (k : Fin 8) s z, slotEnd k.val s = some z → slotOpen k.val s = true → reached z s = true →
    exec (.expsetSlotClose k) s = .next (closeSlot k.val s)) ∧
  (∀ c s t k, t = markStarted 0x42 c s → Served 0x42 c s → isOwner c.who 0x160 t = true → srcBad c t = false →
    c.src.len ≤ 16384 → c.src.len % 4 = 0 → k = c.argF 0 2 0 → exec (.camDefectLoad c) s =
    .next (t.setSensor k { t.sensor k with defects := (srcWords c t).map (fun w => (w.toNat / 65536, w.toNat % 65536)) }
      |> answer 0x42 c DONE)) ∧
  (∀ c s t k l, t = markStarted 0x43 c s → Served 0x43 c s → isOwner c.who 0x160 t = true → SrcReads c 2048 s →
    k = c.argF 0 2 0 → l = (srcWords c s).flatMap (fun w => [w.toNat % 65536, w.toNat / 65536]) → c.argF 0 5 4 ≠ 3 →
    l.any (fun x => decide (1023 < x)) = false → exec (.camToneLoad c) s =
    .next (t.setSensor k { t.sensor k with tones := FMap.set [] (t.sensor k).tones (c.argF 0 5 4) l } |> answer 0x43 c DONE)) ∧
  (∀ c s t ws k n, t = markStarted 0x44 c s → Served 0x44 c s → isOwner c.who 0x160 t = true → srcBad c t = false →
    ws = srcWords c t → k = fieldAt ws 0 23 21 → n = fieldAt ws 0 6 0 → n ≤ 64 → c.src.len = 4 * (2 + 2 * n) →
    crcWords (ws.take (1 + 2 * n)) = ws.getD (1 + 2 * n) 0 → fieldAt ws 0 31 24 = 1 → exec (.camWinLoad c) s =
    .next (t.setSensor k { t.sensor k with windows := (List.range n).map (fun i => (fieldAt ws (1 + 2 * i) 31 16,
      fieldAt ws (1 + 2 * i) 15 0, fieldAt ws (2 + 2 * i) 31 16 + 1, fieldAt ws (2 + 2 * i) 15 0 + 1)) } |> answer 0x44 c DONE))

/-- The HBM stacks (R415, R416, R420 to R422). -/
def Obligations.MemoryEventsComplete : Prop :=
  (∀ (i : Fin 4) s, trains i.val s = true →
    (∀ start why, start = decide (getF (PG_STAT_STATE (0x170 + i.val)) s = 1) → why = (if start then trainReason i.val s else 0) →
      (why = 0 → exec (.hbmTrainingDone i .cached) s = .next (s |> setB (HBM_STAT_TRAINED i.val) true
        |> ifS start (setB (HBM_STAT_CACHED i.val) true) |> setB (HBM_STAT_SELF_REFRESH i.val) false)) ∧
      (why ≠ 0 → exec (.hbmTrainingDone i .cached) s = .next s) ∧
      exec (.hbmTrainingDone i .full) s = .next (trainedFull i.val (if why = 0 then 5 else why) start s)) ∧
    exec (.hbmTrainingDone i .failed) s = .next (s |> advanceTraffic i.val |> enterFault (0x170 + i.val) 1)) ∧
  (∀ (i : Fin 4) temp s t, stackRuns i.val s = true →
    t = (s |> setF (HBM_STAT_TEMP i.val) (ofSigned 8 (clampI temp (-128) 127)) |> setB (HBM_STAT_REF2X i.val) (decide (85 < temp))) →
    (85 < temp → getB (HBM_STAT_REF2X i.val) s = false → exec (.hbmTempPoll i temp false) s = .next (raise 0x170 5 t)) ∧
    ((temp ≤ 85 ∨ getB (HBM_STAT_REF2X i.val) s = true) → exec (.hbmTempPoll i temp false) s = .next t ∧
      exec (.hbmTempPoll i temp true) s = .next (t |> advanceTraffic i.val |> enterFault (0x170 + i.val) 2))) ∧
  (∀ (i : Fin 4) addr port s, stackRuns i.val s = true → addr < hbmTop → addr / 256 % 4 = i.val →
    exec (.hbmEccError i addr port .onDie) s = .next (countF (HBM_ODECC_CNT i.val) s) ∧
    exec (.hbmEccError i addr port .correctable) s = .next (correctedError i.val s) ∧
    exec (.hbmEccError i addr port .uncorrectable) s =
      .next (s |> poisonWord (addr / 8) |> uncorrectedError i.val (8 * (addr / 8)) port)) ∧
  (∀ (i : Fin 4) found s t, stackRuns i.val s = true → getB (HBM_CFG_SCRUB_EN i.val) s = true →
    (∀ a ∈ found, a < hbmTop ∧ a / 256 % 4 = i.val ∧ a ∉ s.poison) →
    t = each found (fun _ => correctedError i.val) s →
    exec (.hbmScrubPass i found) s = .next (each (((t.poison.map (fun a => a / 8)).eraseDups).filter (fun w => decide (8 * w / 256 % 4 = i.val)))
      (fun w u => uncorrectedError i.val (8 * w) (fresh 6 u).1 (fresh 6 u).2) t))

/-- The Sluice engine (R431 to R434, R437). -/
def Obligations.SluiceCommandsComplete : Prop :=
  (∀ c s t p total cur r ended, t = markStarted 0x48 c s → Served 0x48 c s → p = FMap.get (0, []) t.slc.pend c.idx →
    total = p.2.length + c.src.len → granted c c.src t = true → granted c c.dst t = true → 64 ≤ c.arg 0 → c.arg 0 ≤ 65536 →
    c.src.len ≠ 0 → c.src.addr % 4 = 0 → c.dst.addr % 4 = 0 → total + 16 * ceilDiv total (c.arg 0) ≤ c.dst.len →
    srcBad c t = false → cur = (if p.2.isEmpty then c.arg 0 else p.1) →
    r = cutBlocks (c.arg 0) (total + 1) cur (p.2 ++ srcBytes c t) →
    ended = (if r.2.isEmpty then r.1 else r.1 ++ [r.2]) →
    (c.argF 1 0 0 = 1 → exec (.slcCompress c []) s =
      .next (queueCompress 0x48 c (if r.1.isEmpty then cur else c.arg 0) ended [] t)) ∧
    (c.argF 1 0 0 = 0 → exec (.slcCompress c []) s =
      .next (queueCompress 0x48 c (if r.1.isEmpty then cur else c.arg 0) r.1 r.2 t))) ∧
  (∀ c s t p, t = markStarted 0x49 c s → Served 0x49 c s → p = FMap.get (0, []) t.slc.pend c.idx → granted c c.dst t = true →
    c.dst.addr % 4 = 0 → p.2.length + 16 ≤ c.dst.len → exec (.slcFlush c []) s =
    .next (queueCompress 0x49 c 0 (if p.2.isEmpty then [] else [p.2]) [] t)) ∧
  (∀ c s t l, t = markStarted 0x4A c s → Served 0x4A c s → granted c c.src t = true → granted c c.dst t = true →
    srcBad c t = false → decodeBlocks (c.src.len + 1) (srcBytes c t) c.dst.len = (l, none) → exec (.slcDecompress c []) s =
    .next ({ t with slc := { t.slc with dec := t.slc.dec ++ [{
      op := 0x4A, cmd := c, blocks := l, orig := (l.map List.length).sum, raws := 0, status := DONE, result0 := l.length, result1 := 0, err := none, short := false }] } } |> showSlc c.idx)) ∧
  (∀ s j r t, runs 0x178 s = true → j.short = false → j.err = none →
    (s.slc.comp = j :: r → t = showSlc j.cmd.idx { s with slc := { s.slc with comp := r } } → dstBad j.cmd t = false →
      exec (.slcCommandDone false) s = .next (t |> writeJob j j.blocks
        |> countCompressed j.orig (j.blocks.map List.length).sum j.raws |> finish j.op j.cmd j.status 0 j.result0 j.result1)) ∧
    (s.slc.dec = j :: r → t = showSlc j.cmd.idx { s with slc := { s.slc with dec := r } } → dstBad j.cmd t = false →
      exec (.slcCommandDone true) s = .next (t |> writeJob j j.blocks
        |> countDecoded j.orig |> finish j.op j.cmd j.status 0 j.result0 j.result1)))

/-- The power states (R441 to R444). -/
def Obligations.PowerRequestsComplete : Prop :=
  (∀ c s t g, t = markStarted 0x50 c s → Served 0x50 c s → isOwner c.who 2 t = true → g = c.argF 0 1 0 → s.fwu.pause = false →
    (powerStatus g t = ACCEPTED → g = 1 → exec (.pwrSet [c]) s = .next (t |> answer 0x50 c ACCEPTED |> enterStandby)) ∧
    (powerStatus g t = ACCEPTED → g = 2 → exec (.pwrSet [c]) s = .next (t |> answer 0x50 c ACCEPTED |> enterSleep)) ∧
    (powerStatus g t = ACCEPTED → g = 0 → exec (.pwrSet [c]) s = .next (t |> answer 0x50 c ACCEPTED |> wake 8)) ∧
    (powerStatus g t ≠ ACCEPTED → exec (.pwrSet [c]) s = .next (answer 0x50 c (powerStatus g t) t))) ∧
  (∀ cs s, s.fwu.pause = true → exec (.pwrSet cs) s = .next s) ∧
  (∀ s late t, pwrState s = 3 → allParked s = true → late = [0x1A0, 0x198].filter (fun q => isOn q s) →
    t = each (List.range 4) (fun i t => ifS (decide (blockState (0x170 + i) t = 5)) (selfRefresh i) t)
      (copyRoutes (each late parkBlock s)) →
    exec .standbyEntered s = .next ({ t with pwr := { t.pwr with parked := late ++ t.pwr.parked, wakePending := 0 } }
      |> setPwr 1 |> raise 2 2 |> setB PWR_STAT_PENDING_WAKE false |> wake t.pwr.wakePending)) ∧
  (∀ s, exec .wakeNLow s = .next (wake 1 s)) ∧
  (∀ s, getB TIM_STAT_SEL_VALID s = true → reached (getF PWR_WAKE_AT_HI s * 2 ^ 32 + getF PWR_WAKE_AT_LO s) s = true →
    s.pwr.timedDone = false → exec .timedWake s = .next (wake 4 { s with pwr := { s.pwr with timedDone := true } })) ∧
  (∀ s m, m = Nat.land 1 (rd PWR_WAKE_EN_WAKE_N.addr s).toNat → m ≠ 0 → pwrState s = 1 →
    exec .wakeNLow s = .next ({ s with pwr := { s.pwr with trainFull := false } } |> setF PWR_WAKE_SRC_SRC m |> setPwr 4 |> raise 2 3)) ∧
  (∀ s m, m = Nat.land 1 (rd PWR_WAKE_EN_WAKE_N.addr s).toNat → m ≠ 0 → pwrState s = 2 →
    exec .wakeNLow s = .next (s |> setF PWR_WAKE_SRC_SRC m |> raise 2 3 |> raiseMain)) ∧
  (∀ s t, pwrState s = 4 → mainOn s = true → hbmPages.any (fun q => s.pwr.parked.contains q && decide (blockState q s = 5) &&
      getB (HBM_STAT_SELF_REFRESH (q - 0x170)) s) = false →
    t = each s.pwr.parked (fun q t => ifS (decide (blockState q t = 5)) (unpark q) t)
      (setF PWR_STAT_STATE (if s.pwr.fromBoot then 6 else 0) s) →
    exec .standbyWakeDone s = .next ({ t with pwr := { t.pwr with parked := [], fromBoot := false } } |> showPlls |> releaseHeld))

/-- Supplies and clocks (R383, R384, R445 to R447, R453, R533 to R535). -/
def Obligations.SuppliesResetsAndClocksComplete : Prop :=
  (∀ s, s.pwr.vhv = true → s.pwr.resetLow = false → getB PWR_STAT_MAIN_EN s = true → s.pwr.mainPg = false →
    exec .mainPgRise s = .next ({ s with pwr := { s.pwr with mainPg := true } } |> setB PWR_STAT_MAIN_PG true |> boot |> romStarts)) ∧
  (∀ s, mainOn s = true → exec .mainPgFall s = .next (s |> copyRoutes |> mainFails 4)) ∧
  (∀ s, getB PWR_STAT_MAIN_EN s = true → s.pwr.mainPg = false → s.pwr.warmCause = 0 →
    exec .mainPgTimeout s = .next (mainFails 4 s)) ∧
  (∀ s, s.pwr.vhv = true → s.pwr.resetLow = false → exec .resetNLow s = .next (s |> driveMainEn false |> coldReset 2 true)) ∧
  (∀ (b : Fin 4) w s t, s.pwr.vhv = true → s.pwr.resetLow = true →
    t = { s with pwr := { s.pwr with resetLow := false, pcieBif := b.val, wakeAtRelease := w } } →
    (powerUpSleeps t = true → exec (.resetNRelease b w) s =
      .next ({ t with pwr := { t.pwr with warmCause := 6 } } |> setPwr 2)) ∧
    (powerUpSleeps t = false → exec (.resetNRelease b w) s = .next (raiseMain t))) ∧
  (∀ (v : VhvFall) s t, s.pwr.vhv = true → t = (s |> raise 0x180 7 |> countF RIM_LOSS |> setB RIM_STAT_VHV_LOW true |> showInhibit
      |> fun u => if v.held then finishLine u else dropLine u) →
    (v.only = false → exec (.vhvLoss v) s = .next t) ∧
    (v.only = true → exec (.vhvLoss v) s = .next (t |> corAbort |> slcDown |> driveMainEn false |> coldReset 1 false))) ∧
  (∀ s, (s.pwr.vhv = false → exec .vhvRise s = .next (coldReset 1 true s)) ∧
    (s.pwr.vhv = true → getB RIM_STAT_VHV_LOW s = true →
      exec .vhvRise s = .next (s |> setB RIM_STAT_VHV_LOW false |> showInhibit |> rimServe))) ∧
  (∀ (p : Fin 4) s, exec (.perstNChange p true) s = .next { s with pwr := { s.pwr with perst := FMap.set false s.pwr.perst p.val true } } ∧
    exec (.perstNChange p false) s =
      .next (portReset p.val { s with pwr := { s.pwr with perst := FMap.set false s.pwr.perst p.val false } })) ∧
  (∀ (k : Fin 70) s, (k.val < 4 → bitOf (getF CLK_STAT_RCLK s) k.val = true → exec (.pllUnlock k) s =
      .next (s |> countF CLK_UNLOCKS |> raise 1 2 |> blockFaults (0x80 + 2 * k.val) 1 |> blockFaults (0x81 + 2 * k.val) 1)) ∧
    (k.val = 4 → getB CLK_STAT_DEC s = true → exec (.pllUnlock k) s =
      .next (each (List.range 24) (fun i => blockFaults (0x40 + i) 1) (s |> countF CLK_UNLOCKS |> raise 1 2))) ∧
    (k.val = 5 → getB CLK_STAT_HUB s = true → exec (.pllUnlock k) s = .next (s |> countF CLK_UNLOCKS |> raise 1 2 |> shutDown 6 none)) ∧
    (6 ≤ k.val → [1, 2, 3, 4].contains (blockState (0x100 + (k.val - 6)) s) = true → exec (.pllUnlock k) s =
      .next (s |> countF CLK_UNLOCKS |> raise 1 2 |> lnkFault (k.val - 6) 1))) ∧
  (∀ (r : Fin 4) s t, getB (refField r.val) s = true → t = (s |> setB (refField r.val) false |> raise 1 3) →
    (r.val = 0 → exec (.refLost r) s = .next (each ((List.range 5).filter (fun p => [1, 2, 3, 4].contains (blockState (0x20 + p) t)))
      (fun p t => t |> countF CLK_UNLOCKS |> raise 1 2 |> blockFaults (0x20 + p) 1) t)) ∧
    (r.val = 1 → exec (.refLost r) s = .next (each (List.range 4) (fun p t => t.setLinkUp p false) t)) ∧
    (r.val = 2 → exec (.refLost r) s = .next (each (List.range 64) unlockLanes t)) ∧
    (r.val = 3 → exec (.refLost r) s = .next t)) ∧
  (∀ (r : Fin 4) s, s.pwr.vhv = true → exec (.refClockReturn r) s = .next (setB (refField r.val) true s))

/-- Temperatures, throttling and trim (R448 to R457). -/
def Obligations.ThermalAndTrimComplete : Prop :=
  (∀ readings s off rs was t cold, sensorsRun s = true → off = inTrim s →
    rs = ((List.range (min 72 readings.length)).filter (fun n => !off.contains n)).map
      (fun n => (n, clampI (readings.getD n 0) (-32768) 32767)) →
    was = rs.map (fun e => (e.1, sensorExcluded e.1 s)) →
    t = (each rs (fun e => takeReading e.1 e.2) s |> each rs (fun e => judgeStuck e.1) |> each was (fun e => judgeValid e.1 e.2)
      |> evalMax (rs.map (fun e => e.1))) →
    cold = (getB THM_MAX_VALID t && decide (toSigned 16 (getF THM_MAX_TEMP t) < 1520)) →
    exec (.thermalConversion readings) s = .next ({ t with pwr := { t.pwr with
      sinceTrip := t.pwr.sinceTrip + 1, cool := if cold then t.pwr.cool + 1 else 0 } } |> sensorsServed off |> zoneDrift |> writeTrim)) ∧
  (∀ s, getB THM_STAT_THROTTLING s = true → getF THM_CFG_MODE s = 1 → getB THM_STAT_ENFORCED s = false →
    10 * getF THM_THROT_GRACE s ≤ s.pwr.thrAge →
    exec .throttleGraceExpire s = .next (s |> setTherm (getF THM_THROT_CAP s) |> throttleEnforce)) ∧
  (∀ s t, getB THM_STAT_THROTTLING s = true → getB THM_STAT_ENFORCED s = true → 1000 ≤ s.pwr.thrHigh →
    t = { s with pwr := { s.pwr with thrHigh := 0 } } →
    (getF THM_CFG_MODE t = 1 → exec .throttleStep s = .next (setTherm (max 1 (getF THM_STAT_THERM t / 2)) t)) ∧
    (getF THM_CFG_MODE t ≠ 1 → exec .throttleStep s =
      .next (setD (min (getF THM_STAT_D t + getF THM_PAUSE_DUTY t) (getF THM_PAUSE_DUTY_MAX t)) t))) ∧
  (∀ who (v : Word) s, Accepted who 4 s → bitsOf v.toNat 31 30 ≠ 3 →
    (bitsOf v.toNat 21 14 < bitsOf v.toNat 29 22 → exec (.thmCfgWrite who v) s = .next (s |> throttleRelease
      |> setF THM_CFG_MODE (bitsOf v.toNat 31 30) |> setF THM_CFG_ON (bitsOf v.toNat 29 22)
      |> setF THM_CFG_OFF (bitsOf v.toNat 21 14) |> setF THM_CFG_WARN (bitsOf v.toNat 13 6))) ∧
    (bitsOf v.toNat 29 22 ≤ bitsOf v.toNat 21 14 → exec (.thmCfgWrite who v) s = .next s)) ∧
  (∀ n s, mainOn s = true → pwrState s ≠ 5 → n < 72 → 2 ≤ (s.thSensor n).hot →
    exec (.thermalTrip (.comparator n (sensorTemp n s))) s = .next (shutDown 3 (some (n, sensorTemp n s)) s)) ∧
  (∀ i s, mainOn s = true → pwrState s ≠ 5 → i < 4 → exec (.thermalTrip (.stack i)) s = .next (shutDown 4 none s)) ∧
  (∀ s, pwrState s = 5 → 10000 ≤ s.pwr.cool → 100000 ≤ s.pwr.sinceTrip →
    exec .thermalRestart s = .next (s |> boot |> raise 2 5 |> romStarts)) ∧
  (∀ who (v : Word) s z, Accepted who 8 s → z = bitsOf v.toNat 4 0 → z ≤ 29 → isOn 8 s = true → getB (TRM_STAT_PENDING z) s = false →
    getB (TRM_STAT_RUNNING z) s = false → exec (.trmReq who v) s = .next (s.setZone z { s.zone z with
      lanes := zoneParts z } |> setB (TRM_STAT_PENDING z) true)) ∧
  (∀ (lane : Fin 1024) told s z g waits, z = lane.val / 64 → g = (tileRec (tileLane lane.val s) s).group → trimMayRun z s = true →
    lane.val ∈ (s.zone z).lanes → (getB (TRM_STAT_PENDING z) s = true ∨ getB (TRM_STAT_RUNNING z) s = true) →
    waits = ((s.zone z).forced.find? (fun e => decide (e.1 = lane.val))).filter (fun e => awaitsFrame g e.2 s) →
    (∀ e, waits = some e → abortedFrameOpen g e.2 s = true →
      exec (.laneRecalWindow lane told) s = .next (laneRuns z (trimPair lane.val s) 0 s)) ∧
    (∀ width, waits = none → recalWidth lane.val told s = some width →
      (60000 ≤ width → exec (.laneRecalWindow lane told) s = .next (laneRuns z (trimPair lane.val s) 10000 s)) ∧
      (width < 60000 → getB TRM_CFG_FORCE s = true → hasTile lane.val s = true → (s.grp g).phase ≠ .none →
        exec (.laneRecalWindow lane told) s = .next (forceLane z g lane.val s)) ∧
      (width < 60000 → (getB TRM_CFG_FORCE s = false ∨ hasTile lane.val s = false ∨ (s.grp g).phase = .none) →
        exec (.laneRecalWindow lane told) s = .next (deferLane z g s)))) ∧
  (∀ (z : Fin 30) s, 16 ≤ z.val → trimMayRun z.val s = true → getB (TRM_STAT_PENDING z.val) s = true →
    (z.val < 21 → partnerHolds (z.val - 16) s = false ∧ (s.eport (z.val - 16)).sending = none) → (z.val = 21 → s.rim.line = none) →
    exec (.portRecal z) s = .next (beginRun z.val s)) ∧
  (∀ (z : Fin 30) s limit, getB (TRM_STAT_RUNNING z.val) s = true → (s.zone z.val).lanes = [] →
    exec (.recalDone z limit) s = .next ({ s with fwu := { s.fwu with trimDue := true } }
      |> State.setZone z.val { s.zone z.val with ran := true, deferred := [], ended := some (now s) }
      |> setB (TRM_STAT_RUNNING z.val) false |> setF (TRM_STAT_LAST_T z.val) (ofSigned 16 (s.zone z.val).start)
      |> setB (TRM_STAT_LIMIT z.val) limit |> addF (TRM_RUNS z.val) 1 |> raise 8 2 |> ifS limit (raise 8 5)
      |> writeTrim |> ifS (decide (z.val = 21)) rimServe))

/-- Command and completion rings (R475 to R482). -/
def Obligations.RingsComplete : Prop :=
  (∀ (p : Fin 8) s ws t r, ringRuns p.val s = true → getF (HST_CMD_HEAD_IDX p.val) s ≠ getF (HST_CMD_TAIL_IDX p.val) s →
    ringRoom p.val s = true → ringDown p.val (descAddr p.val s) 64 s = false → fenceWaits p.val s = false → ws = fetchWords p.val s →
    t = addF (HST_CMD_HEAD_IDX p.val) 1 s →
    r = descReason p.val (fieldAt ws 0 31 24) (parseCmd p ws) ws t →
    (∀ u, r = 0 → u = addF (HST_RING_STAT_OUTSTANDING p.val) 1 t → exec (.descriptorFetch p) s =
      .next (u.setPrt p.val { u.prt p.val with disp := (u.prt p.val).disp ++
        [⟨fieldAt ws 0 31 24, parseCmd p ws, decide (fieldAt ws 0 23 23 = 1), false⟩] })) ∧
    (r ≠ 0 → exec (.descriptorFetch p) s = .next (t |> setF (HST_CMDREJ_REASON p.val) r
      |> setF (HST_CMDREJ_TAG p.val) (parseCmd p ws).tag
      |> writeCpl p.val true (refOf (fieldAt ws 0 31 24) (parseCmd p ws)) (if r = 4 then NOT_OWNER else BAD_ARGUMENT) r 0 0
      |> ifS (updateOp (fieldAt ws 0 31 24)) (raise 0x1A0 8)))) ∧
  (∀ (p : Fin 8) s, ringRuns p.val s = true → getF (HST_CMD_HEAD_IDX p.val) s ≠ getF (HST_CMD_TAIL_IDX p.val) s →
    ringRoom p.val s = true → ringDown p.val (descAddr p.val s) 64 s = true → exec (.descriptorFetch p) s =
    .next (s |> setB (HST_RING_STAT_STOPPED p.val) true |> hostError p.val 2)) ∧
  (∀ who (p : Fin 8) (v : Word) s, assigned (0x190 + p.val) = true → answers (0x190 + p.val) s = true → mayRing who p.val s = true →
    ((v.toNat % 65536 + 65536 - getF (HST_CMD_HEAD_IDX p.val) s) % 65536 ≤ ringN p.val s →
      exec (.hstCmdTailWrite who p v) s = .next (setF (HST_CMD_TAIL_IDX p.val) v.toNat s)) ∧
    (ringN p.val s < (v.toNat % 65536 + 65536 - getF (HST_CMD_HEAD_IDX p.val) s) % 65536 →
      exec (.hstCmdTailWrite who p v) s = .next (hostError p.val 1 s)) ∧
    (∀ h, h = getF (HST_CPL_HEAD_IDX p.val) s →
      (v.toNat % 65536 + 65536 - h) % 65536 ≤ (getF (HST_CPL_TAIL_IDX p.val) s + 65536 - h) % 65536 →
      exec (.hstCplHeadWrite who p v) s = .next (setF (HST_CPL_HEAD_IDX p.val) v.toNat s)) ∧
    exec (.hstRingRun who p false) s = .next (setB (HST_RING_CTRL_RUN p.val) false s) ∧
    (getB (HST_RING_CTRL_RUN p.val) s = false → exec (.hstRingRun who p true) s =
      .next (s |> setB (HST_RING_STAT_STOPPED p.val) false |> setB (HST_RING_CTRL_RUN p.val) true))) ∧
  (∀ (p : Fin 8) s, ringRuns p.val s = true → getB (HST_RING_CTRL_RSPACE p.val) s = true → exec (.ringFetchFail p false) s =
    .next (s |> setB (HST_RING_STAT_STOPPED p.val) true |> hostError p.val 2)) ∧
  (∀ (p : Fin 8) s j old, getB (HST_RING_CTRL_RSPACE p.val) s = true → (s.prt p.val).lastCpl = some (j, old) →
    getF (HST_CPL_TAIL_IDX p.val) s = (j + 1) % 65536 → getF (HST_CPL_HEAD_IDX p.val) s ≠ (j + 1) % 65536 →
    exec (.ringFetchFail p true) s = .next (s |> State.setPrt p.val { s.prt p.val with lastCpl := none }
      |> setF (HST_CPL_TAIL_IDX p.val) j |> memWrite (ringSpace p.val s) (cplAddr p.val j s) old
      |> setB (HST_RING_STAT_STOPPED p.val) true |> hostError p.val 3)) ∧
  (∀ c s, Served 0x51 c s → exec (.nop c) s = .next (answer 0x51 c DONE (markStarted 0x51 c s))) ∧
  (∀ (p : Fin 4) s, FMap.get false s.pwr.perst p.val = true → portExists p.val s = true → mainOn s = true → portParts p.val s ≠ [] →
    exec (.pcieLinkChange p .up) s = .next (s.setLinkUp p.val true)) ∧
  (∀ (p : Fin 4) s, exec (.pcieLinkChange p .down) s = .next (portReset p.val s) ∧
    exec (.pcieLinkChange p .hotReset) s = .next (each (portParts p.val s) (fun p => State.setMsixT p {}) s)) ∧
  (∀ (p : Fin 8) s, transport p.val s = 1 → exec (.functionLevelReset p) s = .next (State.setMsixT p.val {} s))

/-- Semaphores, grants and event registers (R470 to R473, R484, R485, R490). -/
def Obligations.SemaphoresAndGrantsComplete : Prop :=
  (∀ (p : Fin 8) (n : Fin 64) s, answers 0x190 s = true →
    (getB (HST_SEM_HELD n.val) s = false → acquireSem n.val s (.part p) = (s |> setB (HST_SEM_HELD n.val) true
      |> setF (HST_SEM_HOLDER n.val) p.val |> setF (HST_SEMRES_STATUS p.val) DONE |> setF (HST_SEMRES_SEM p.val) n.val)) ∧
    (getB (HST_SEM_HELD n.val) s = true → holdsSem (.part p) n.val s = false →
      acquireSem n.val s (.part p) = (s |> setF (HST_SEMRES_STATUS p.val) BUSY |> setF (HST_SEMRES_SEM p.val) n.val)) ∧
    exec (.hstSemAcquire [(.part p, n)]) s = .next (acquireSem n.val s (.part p)) ∧
    (holdsSem (.part p) n.val s = true → exec (.hstSemRelease (.part p) n) s =
      .next ({ s with hst := { s.hst with fwSems := s.hst.fwSems.filter (fun k => decide (k ≠ n.val)) } } |> freeSem n.val
        |> setF (HST_SEMRES_STATUS p.val) DONE |> setF (HST_SEMRES_SEM p.val) n.val)) ∧
    (holdsSem (.part p) n.val s = false → exec (.hstSemRelease (.part p) n) s =
      .next (s |> setF (HST_SEMRES_STATUS p.val) NOT_OWNER |> setF (HST_SEMRES_SEM p.val) n.val))) ∧
  (∀ who (p k : Fin 8) (v : Word) s, answers (0x190 + p.val) s = true → isAdmin who s = true → blockState (0x190 + p.val) s = 0 →
    (regionOk p.val k.val v.toNat (getF (HST_REG_SIZE p.val k.val) s) s = true → exec (.hstRegWrite who p k false v) s =
      .next (s |> setF (HST_REG_BASE p.val k.val) v.toNat |> setF (HST_REG_SIZE p.val k.val) (getF (HST_REG_SIZE p.val k.val) s))) ∧
    (regionOk p.val k.val (getF (HST_REG_BASE p.val k.val) s) v.toNat s = true → exec (.hstRegWrite who p k true v) s =
      .next (s |> setF (HST_REG_BASE p.val k.val) (getF (HST_REG_BASE p.val k.val) s) |> setF (HST_REG_SIZE p.val k.val) v.toNat))) ∧
  (∀ who (v : Word) s, answers 0x190 s = true → isAdmin who s = true →
    exec (.hstAdminWrite who v) s = .next (setF HST_ADMIN_ADMIN v.toNat s)) ∧
  (∀ (p : Fin 8) (k w : Fin 4) (v : Word) s, answers (0x190 + p.val) s = true → exec (.hstHwinWrite (.part p) p k w v) s =
    .next (wr (hwinAddr p.val k.val w.val) (Word.ofNat (if w.val % 2 = 0 then v.toNat / 4096 * 4096 else v.toNat)) s)) ∧
  (∀ who (v : Word) s, Accepted who 0x198 s → exec (.evtSelWrite who v) s = .next (setF EVT_SEL_SEL v.toNat s)) ∧
  (∀ who (p : Fin 8) (w : Fin 64) (m : Word) s, answers (0x190 + p.val) s = true → mayRing who p.val s = true →
    exec (.hstEpendClear who p w m) s = .next (clearF (HST_EPEND p.val w.val) m.toNat s))

/-- The message protocol (R466, R468, R469, R486). -/
def Obligations.JmpRequestsComplete : Prop :=
  (∀ (m : JmpIn) (s v u : State), m.words ≠ [] → v = { s with hst := { s.hst with jmpIn := dropFirst (fun x => decide (x = m)) s.hst.jmpIn } } →
    s.fwu.pause = false → u = jmpStamp m v → jmpAccepted m u = true → ((u.prt (jmpPart m)).lastSet = false ∨
      0 < diff32 (wordAt m.words 1) (rd (HST_JMP_SEQ (jmpPart m)).addr u).toNat) →
    wordAt m.words 1 ≠ (rd (HST_JMP_SEQ (jmpPart m)).addr u).toNat →
    (∀ p, jmpType m = 1 → asleep u = false → (jmpBody m).length = 16 → p = jmpPart m →
      (getF (HST_CMD_TAIL_IDX p) u + 65536 - getF (HST_CMD_HEAD_IDX p) u) % 65536 < ringN p u →
      exec (.jmpCommand m) s = .next (u |> memWrite (ringSpace p u) (cmdBase p u + 64 * (getF (HST_CMD_TAIL_IDX p) u % ringN p u))
        (wordsBytes (jmpBody m)) |> addF (HST_CMD_TAIL_IDX p) 1 |> jmpAck m DONE)) ∧
    (∀ a n, jmpType m = 4 → asleep u = false → (jmpBody m).length = 2 → a = wordAt (jmpBody m) 0 → n = wordAt (jmpBody m) 1 →
      regSpan a n = true → exec (.jmpRegRead m) s = .next (jmpAnswer m 6 (Word.ofNat a :: Word.ofNat n ::
        (readRegs (jmpWho m) n a u).1) (readRegs (jmpWho m) n a u).2)) ∧
    (∀ a n, jmpType m = 5 → asleep u = false → a = wordAt (jmpBody m) 0 → n = wordAt (jmpBody m) 1 → regSpan a n = true →
      (jmpBody m).length = n + 2 →
      exec (.jmpRegWrite m) s = .next (u |> writeRegs (jmpWho m) ((jmpBody m).drop 2) a |> jmpAck m DONE)) ∧
    (jmpType m = 7 → asleep u = false → memSpan (jmpBody m) = true → (jmpBody m).length = memCount (jmpBody m) + 2 →
      inRegion (jmpPart m) (memAddr (jmpBody m)) (4 * memCount (jmpBody m)) u = true → exec (.jmpMemWrite m) s =
      .next (u |> memWrite .hbm (memAddr (jmpBody m)) (wordsBytes ((jmpBody m).drop 2)) |> jmpAck m DONE)) ∧
    (∀ a n, jmpType m = 8 → asleep u = false → memSpan (jmpBody m) = true → (jmpBody m).length = 2 → a = memAddr (jmpBody m) →
      n = memCount (jmpBody m) → inRegion (jmpPart m) a (4 * n) u = true →
      exec (.jmpMemRead m) s = .next (jmpAnswer m 9 (jmpBody m ++ bytesWords (memRead .hbm a (4 * n) u)) u)) ∧
    (∀ g, jmpType m = 0xA → (jmpBody m).length = 1 → m.port.val = 4 → isOwner (jmpWho m) 2 u = true → g = fieldAt (jmpBody m) 0 1 0 →
      (powerStatus g u = ACCEPTED → exec (.jmpPower m) s = .next (u |> jmpAck m ACCEPTED |> applyPower g)) ∧
      (powerStatus g u ≠ ACCEPTED → exec (.jmpPower m) s = .next (jmpAck m (powerStatus g u) u))) ∧
    (jmpType m = 0xB → jmpBody m = [] → (pwrState u = 5 → exec (.jmpWake m) s = .next (jmpAck m BUSY u)) ∧
      (pwrState u ≠ 5 → m.port.val = 4 → exec (.jmpWake m) s = .next (u |> jmpAck m DONE |> wake 2)))) ∧
  (∀ (p : Fin 8) s es, es = (s.prt p.val).events.take 64 → es ≠ [] → transport p.val s = 2 →
    exec (.jmpEventSend p true) s = .next (jmpDevice p.val 3
      (Word.ofNat (now s / 2 ^ 32) :: Word.ofNat (now s) :: Word.ofNat es.length :: es.map Word.ofNat)
      (s.setPrt p.val { s.prt p.val with events := (s.prt p.val).events.drop 64 })))

/-- Updates (R495, R496, R506 to R509). -/
def Obligations.UpdateCommandsComplete : Prop :=
  (∀ op c s t r0, t = markStarted op c s → Served op c s → isOwner c.who 0x1A0 t = true → r0 = bootRec t →
    (op = 0x58 → trialRuns t = false → r0.trial = false → t.fwu.pause = false → c.src.len = 64 → srcBad c t = false →
      (t.fwu.dl = none → exec (.fwuBegin c) s = .next (t |> setDl (some ⟨!(bootRec t).slot, srcBytes c t,
        ceilDiv (8192 + wordAt (bytesWords (srcBytes c t)) 4) 65536, [], false⟩) |> fwuDone 0x58 c DONE 0 0)) ∧
      (∀ d, t.fwu.dl = some d → d.manifest = srcBytes c t →
        exec (.fwuBegin c) s = .next (fwuDone 0x58 c DONE 0 d.have_.length t))) ∧
    (∀ d i, op = 0x59 → t.fwu.dl = some d → i = c.argF 0 8 0 → i < d.chunks → 0 < c.src.len → c.src.len ≤ 65536 →
      (c.src.len = 65536 ∨ i + 1 = d.chunks) → srcBad c t = false → (i = 0 → (srcBytes c t).take 64 = d.manifest) →
      exec (.fwuChunk c) s = .next (t |> eraseSlot d.slot (65536 * i) 65536 |> programSlot d.slot (65536 * i) (srcBytes c t)
        |> setDl (some { d with have_ := i :: d.have_.filter (fun k => decide (k ≠ i)), verified := false })
        |> fwuDone 0x59 c DONE 0 0)) ∧
    (∀ d r, op = 0x5A → t.fwu.dl = some d → d.chunks ≤ d.have_.length → r = verifyImage d.slot t →
      exec (.fwuVerify c) s = .next (if r = 0 then t |> setDl (some { d with verified := true }) |> fwuDone 0x5A c DONE 0 0
        else t |> setDl (some { d with verified := false }) |> setF FWU_REJ_REASON r |> fwuDone 0x5A c (verifyStatus r) r r)) ∧
    (∀ d u, op = 0x5B → t.fwu.pause = false → t.fwu.dl = some d → d.verified = true →
      u = (t |> complete false (refOf 0x5B c) ACCEPTED 0 0 0
        |> writeBoot { r0 with trial := true, tries := 1, tcfg := !r0.cfgHalf } |> setDl none |> beginPause) →
      exec (.fwuActivate c) s = .next { u with fwu := { u.fwu with activate := some (refOf 0x5B c) } }) ∧
    (∀ u, op = 0x5C → trialRuns t = true → u = (t |> writeBoot { r0 with
        slot := runSlot t, trial := false, cfgHalf := r0.tcfg, tcfg := r0.cfgHalf } |> blowFuses (runSlot t) |> setB FWU_BOOT_TRIAL false
        |> setF FWU_BOOT_TRIES 0) →
      exec (.fwuConfirm c) s = .next ({ u with fwu := { u.fwu with erase := true } } |> fwuDone 0x5C c DONE 0 0 |> raise 0x1A0 7)) ∧
    (op = 0x5D → trialRuns t = false → t.fwu.dl.isSome = true →
      exec (.fwuAbort c) s = .next (t |> setDl none |> fwuDone 0x5D c DONE 0 0)) ∧
    (op = 0x5D → trialRuns t = true → exec (.fwuAbort c) s = .next (t |> writeBoot { r0 with trial := false } |> raise 0x1A0 4
      |> fwuDone 0x5D c DONE 0 0 |> beginPause |> trySlot r0.slot r0.cfgHalf false 0)))

/-- Boot, configuration store and attestation (R498 to R511). -/
def Obligations.StoreBootAndReportComplete : Prop :=
  (∀ us s a t, s.fwu.pause = true → a = s.fwu.activate → t = (s |> ifS (decide (100000 ≤ us))
      (each (List.range 8) (abortOutstanding a)) |> fun u => { u with fwu := { u.fwu with pause := false, activate := none } }
      |> setF FWU_PAUSE_US (min us 0xFFFFF)) →
    (a = none → exec (.activationPauseEnd us) s = .next (migrate t)) ∧
    (∀ ref, a = some ref → exec (.activationPauseEnd us) s = .next (t |> runImage (!(bootRec t).slot) (bootRec t).tcfg true false 1
      |> migrate |> complete true ref DONE 0 0 0 |> raise 0x1A0 6))) ∧
  (∀ s t, mainOn s = true → (stage s = 1 ∨ stage s = 2) → s.fwu.pause = false → t = (s |> addF FWU_BOOT_WDOG 1 |> beginPause) →
    (trialRuns s = true → exec .fwWatchdogExpire s = .next (romSelect t)) ∧
    (trialRuns s = false → exec .fwWatchdogExpire s = .next t)) ∧
  (∀ c s t half items k, t = markStarted 0x5E c s → Served 0x5E c s → half = runHalf t → items = halfItems half t →
    k = c.argF 0 15 0 → keyKnown k = true →
    (c.argF 0 31 31 = 1 → isAdmin c.who t = true → c.src.len ≤ 65536 → srcBad c t = false →
      halfSize half t - (FMap.get [] items k).length + c.src.len ≤ 5242880 → exec (.cfgItem c) s =
      .next (t |> writeItem half (imageCfmt (runSlot t) t + 1) k (srcBytes c t) |> answer 0x5E c DONE)) ∧
    (c.argF 0 31 31 = 0 → dstBad c t = false → exec (.cfgItem c) s =
      .next (t |> memWrite (opSpace c c.dst t) c.dst.addr ((FMap.get [] items k).take c.dst.len)
        |> finish 0x5E c DONE 0 ((FMap.get [] items k).take c.dst.len).length 0))) ∧
  (∀ s, s.fwu.erase = true → exec .cfgHalfErase s =
    .next (setHalf (!(bootRec s).cfgHalf) [] 0 { s with fwu := { s.fwu with erase := false } })) ∧
  (∀ c s t body b, t = markStarted 0x5F c s → Served 0x5F c s → SrcReads c 32 s → c.argF 0 0 0 = 0 → 2580 ≤ c.dst.len →
    dstBad c t = false → body = wordsBytes (reportBody false (srcWords c s) t) →
    b = body ++ fitBytes 2420 (Config.mldsaSign t.free (sha3 body)) → exec (.attReport [c]) s =
    .next ({ t with free := t.free + 1 } |> memWrite (opSpace c c.dst t) c.dst.addr b |> addF ATT_STAT_COUNT 1 |> finish 0x5F c DONE 0 b.length 0 |> raise 0x1A1 2)) ∧
  (∀ s e t, mainOn s = true → pwrState s = 6 → stage s = 0 → s.fwu.recovery = false →
    e = slatePlane (s |> migrate |> loadStore) → t = (s |> migrate |> loadStore
      |> fun u => { u with fwu := { u.fwu with early := e.2, earlyW := e.1.1, earlyH := e.1.2 } }
      |> setF FWU_BOOT_STAGE 1 |> raise 0x1A0 2 |> (fun u => each (bootPages u) bootEnable u) |> fun u => ifS (earlyFull u) (fun u => u |> countF HBM_TFULL |> raise 0x170 6) u) →
    earlyMap t = none → exec .bootReduced s = .next (each (feedPort t) bootEnable t)) ∧
  (∀ s t, mainOn s = true → pwrState s = 6 → stage s = 1 → fullReady s = true → t = (s |> writeEarly |> closeFeed) →
    earlyMode s = false → exec .bootFull s = .next (t |> setF FWU_BOOT_STAGE 2 |> setPwr 0 |> raise 0x1A0 3)) ∧
  (∀ who (b : Bool) (v : Word) s t, Accepted who 0x1A0 s → inRecovery s = true → v = (if b then 0x80000000 else 0) →
    t = setB FWU_RCV_CTRL_SLOT b s → exec (.fwuRcvProgram who v) s = .next (rcvProgram t) ∧
      exec (.fwuRcvVerify who v) s = .next (rcvVerify t))

/-- Records of the flash (R492, R493, R503). -/
def Obligations.FlashRecordsReadBack : Prop :=
  (∀ (r : BootRec) (s t : State), r.tries < 4 → t = writeBoot r s →
    bootRec t = { r with seq := ((bootRec s).seq + 1) % 2 ^ 32 } ∧
    (t.fwu.bootA = s.fwu.bootA ∨ t.fwu.bootB = s.fwu.bootB)) ∧
  (∀ (half : Bool) (fmt key : Nat) (data : List Byte) (s t : State), t = writeItem half fmt key data s →
    FMap.get [] (halfItems half t) key = data ∧ halfFmt half t = fmt ∧
    (∀ k, k ≠ key → FMap.get [] (halfItems half t) k = FMap.get [] (halfItems half s) k) ∧
    halfLog (!half) t = halfLog (!half) s ∧ halfFmt (!half) t = halfFmt (!half) s)

/-- A step takes the front command and runs it whole (spec/95_what_each_step_holds.md); idling on an empty queue is log 1. -/
def Obligations.StepRunsFront : Prop :=
  (∀ (c : Instr) (s : State), step { s with pending := c :: s.pending } = exec c s) ∧
  (∀ (c : Instr) (rest : List Instr) (s : State), s.pending = c :: rest → step s = exec c { s with pending := rest }) ∧
  (∀ s : State, s.pending = [] → step s = .next s)

/-- The invariant of StepKeepsCanonical holds at reset (R526); memory that nothing has written is log 2. -/
def Obligations.CanonicalAtReset : Prop :=
  State.reset.Canonical ∧ State.reset.regs = [] ∧ State.reset.hbm = [] ∧ State.reset.hostMem = [] ∧
    State.reset.poison = [] ∧ State.reset.pending = []

/-- Reset values of the register tables (R526) and of tie pointers (R42). -/
def Obligations.ResetValues : Prop :=
  (∀ f ∈ [PMAP_TIE_PTR, STR_TIE_PTR, DEC_TIE_PTR, ASM_TIE_PTR, DRW_TIE_PTR, ENC_TIE_PTR, EGR_TIE_PTR, CUE_TIE_PTR, RIM_TIE_ALLOC,
      RIM_TIE_CUE, RIM_TIE_CMD, SLC_TIE_PTR, PWR_TIE_PTR, HST_WTIE_PTR, HST_SEM_TIE_PTR], getF f State.reset = 7) ∧
  (∀ b : Fin 8, getF (SYN_CAP_CAP1 b.val) State.reset = 256 ∧ getF (SYN_CAP_CAP0 b.val) State.reset = 256) ∧
  (∀ g : Fin 4, getF (RAS_RATE_NUM g.val) State.reset = 60 ∧ getF (RAS_RATE_DEN g.val) State.reset = 1 ∧
    getF (RAS_LEAD_LEAD g.val) State.reset = 250000 ∧ getF (RAS_WEIR_WEIR g.val) State.reset = 64) ∧
  (∀ p ∈ [0, 31, 63], ∀ k ∈ [0, 15], getF (LNK_CTRL_RATE p k) State.reset = 10) ∧
  getF RIM_STAT_INHIBIT State.reset = 1 ∧ getF THM_CFG_WARN State.reset = 105 ∧ getF THM_CFG_ON State.reset = 108 ∧
  getF THM_CFG_OFF State.reset = 100 ∧ getF HST_JMPPORT_PORT State.reset = 48620 ∧ getF SYS_DEV_ID State.reset = 2098988032 ∧
  ∀ page ∈ allPages, hasLifecycle page = true → getF (PG_STAT_STATE page) State.reset = 0

/-- Accesses that no register answers (R32, R515). -/
def Obligations.OffPagesReadZero : Prop :=
  (∀ who addr s, assigned (addr / 0x1000) = false →
    readReg who addr s = (0, badAccess false false who addr s) ∧ ∀ v, writeReg who addr v s = badAccess false false who addr s) ∧
  (∀ who addr s, assigned (addr / 0x1000) = true → answers (addr / 0x1000) s = false →
    readReg who addr s = (0, badAccess true false who addr s) ∧ ∀ v, writeReg who addr v s = badAccess true false who addr s) ∧
  (∀ off size who addr s, mainOn s = false → badAccess off size who addr s = s) ∧
  (evNum 0 5 = some 0x00D ∧ evNum 0 6 = some 0x00E)

/-- Reserved offsets (R515). -/
def Obligations.ReservedOffsetsReadZero : Prop :=
  (∀ addr s, regAt addr = none → readShown (addr / 0x1000) (addr % 0x1000) s = none → readNow addr s = 0) ∧
  (∀ addr v s, regAt addr = none → writePlain addr v s = s) ∧
  (∀ who addr (v : Word) s, regAt addr = none → addr / 0x1000 ∈ [0x01, 0x18, 0x68, 0x170, 0x171, 0x172, 0x173, 0x178] →
    0x100 ≤ addr % 0x1000 → Accepted who (addr / 0x1000) s → exec (.registerWrite [⟨who, addr, v⟩]) s = .next s)

/-- R104, with the frame of the write. -/
def Obligations.CapWriteJudged : Prop :=
  ∀ (who : Who) (b : Fin 8) (v : Word) (s : State), s.Canonical → Accepted who (0x80 + b.val) s →
    ∃ t, exec (.synCapWrite who b v) s = .next t ∧
      getF (SYN_CAP_CAP1 b.val) t = (if 1 ≤ bitsOf v.toNat 24 16 ∧ bitsOf v.toNat 24 16 ≤ 256 then bitsOf v.toNat 24 16
        else getF (SYN_CAP_CAP1 b.val) s) ∧
      getF (SYN_CAP_CAP0 b.val) t = (if 1 ≤ bitsOf v.toNat 8 0 ∧ bitsOf v.toNat 8 0 ≤ 256 then bitsOf v.toNat 8 0
        else getF (SYN_CAP_CAP0 b.val) s) ∧
      evNum (0x80 + b.val) 2 = some (0x2C8 + b.val) ∧
      (bitsOf v.toNat 24 16 = 0 ∨ 256 < bitsOf v.toNat 24 16 ∨ bitsOf v.toNat 8 0 = 0 ∨ 256 < bitsOf v.toNat 8 0 →
        bitOf (getF (EV_RAW (0x80 + b.val)) t) 2 = true ∧
        (bitOf (getF (EV_EN (0x80 + b.val)) s) 2 = true → bitOf (getF (EV_PEND (0x80 + b.val)) t) 2 = true)) ∧
      (1 ≤ bitsOf v.toNat 24 16 ∧ bitsOf v.toNat 24 16 ≤ 256 ∧ 1 ≤ bitsOf v.toNat 8 0 ∧ bitsOf v.toNat 8 0 ≤ 256 →
        ∀ a, a ≠ (SYN_CAP_CAP0 b.val).addr → rd a t = rd a s) ∧
      ∀ a, eventReg a = false → a ≠ (SYN_CAP_CAP0 b.val).addr → rd a t = rd a s

/-- The specification gives every row of the table an effect in every state; where a command does not apply it changes nothing (log 7 names how commands outside their conditions are read). -/
def Obligations.EveryCommandAnswersNext : Prop :=
  ∀ (c : Instr) (s : State), ∃ t, exec c s = .next t ∧ t.pending = s.pending

/-- An invariant of every step, over all commands (R410, R526). -/
def Obligations.StepKeepsCanonical : Prop :=
  ∀ s t : State, s.Canonical → step s = .next t → t.Canonical

/-- The reach of an event (R485, R519, R520). -/
def Obligations.RaisingTouchesEventsOnly : Prop :=
  (∀ (page b : Nat) (s : State), page < 0x1C0 → EventOnly s (raise page b s)) ∧
  (∀ (page b : Nat) (s : State), s.Canonical → page < 0x190 → 2 ≤ b → b < 32 →
    bitOf (getF (EV_RAW page) (raise page b s)) b = true ∧
    (bitOf (getF (EV_EN page) s) b = true → bitOf (getF (EV_PEND page) (raise page b s)) b = true))

/-- R469, for three requests that have an effect when they are new. -/
def Obligations.JmpRepeatAnsweredAgain : Prop :=
  ∀ (m : JmpIn) (s u : State), u = jmpStamp m { s with hst := { s.hst with jmpIn := dropFirst (fun x => decide (x = m)) s.hst.jmpIn } } → m.words ≠ [] → s.fwu.pause = false → jmpAccepted m u = true →
    (u.prt (jmpPart m)).lastSet = true →
    (∀ a, wordAt m.words 1 = (rd (HST_JMP_SEQ (jmpPart m)).addr s).toNat → (u.prt (jmpPart m)).answer = some a →
      (jmpType m = 5 → exec (.jmpRegWrite m) s = .next (jmpReply m a.typ a.seq a.body u)) ∧
      (jmpType m = 7 → exec (.jmpMemWrite m) s = .next (jmpReply m a.typ a.seq a.body u)) ∧
      (jmpType m = 0xA → exec (.jmpPower m) s = .next (jmpReply m a.typ a.seq a.body u))) ∧
    (wordAt m.words 1 ≠ (rd (HST_JMP_SEQ (jmpPart m)).addr s).toNat →
      diff32 (wordAt m.words 1) (rd (HST_JMP_SEQ (jmpPart m)).addr s).toNat < 0 → transport (jmpPart m) s = 2 → answers 0x190 s = true →
      ∀ c, (jmpType m = 5 ∧ c = .jmpRegWrite m) ∨ (jmpType m = 7 ∧ c = .jmpMemWrite m) ∨ (jmpType m = 0xA ∧ c = .jmpPower m) →
      ∃ t, exec c s = .next t ∧ t.hbm = s.hbm ∧ t.hostMem = s.hostMem ∧ t.out = s.out ∧
        ∀ a, a ≠ (HST_JMP_DROP (jmpPart m)).addr → rd a t = rd a s)

/-- Writes and their ownership (R471, R524). -/
def Obligations.UnacceptedWriteIsCounted : Prop :=
  (∀ (p : Fin 8) (addr : Nat) (v : Word) (s : State), s.Canonical → assigned (addr / 0x1000) = true → answers (addr / 0x1000) s = true →
    mainOn s = true → accepts (.part p) (addr / 0x1000) (addr % 0x1000) s = false →
    ∃ t, exec (.registerWrite [⟨.part p, addr, v⟩]) s = .next t ∧
      getF (HST_WREJ p.val) t = satInc 0xFFFFFFFF (getF (HST_WREJ p.val) s) ∧
      (∀ a, a ≠ (HST_WREJ p.val).addr → rd a t = rd a s) ∧ { t with regs := s.regs } = s) ∧
  (∀ page s, isAdmin .fw s = true ∧ isOwner .fw page s = true ∧ mayWrite .fw page s = true) ∧
  (∀ (p : Fin 8) page s, mayWrite (.part p) page s = true ↔ getF (PG_OWNER page) s = p.val ∨ actingAdmin s = some p.val)

/-- R426. Which stream the compressor chooses is open (log 26). -/
def Obligations.SluiceBoundHolds : Prop :=
  ∀ o : List Byte, 1 ≤ o.length → o.length ≤ 65536 →
    sluPayload o = (if (Config.sluiceStream o).length < o.length ∧
      sluBody false o.length (Config.sluiceStream o) = .ok o then (false, Config.sluiceStream o) else (true, o)) ∧
    (sluCompress o).length ≤ o.length + 15 ∧
    bytesWords ((sluCompress o).take 12) = [Word.ofNat (2 ^ 28 + bit (sluPayload o).1 * 2 ^ 27 + (o.length - 1)),
      Word.ofNat (sluPayload o).2.length, Word.ofNat (crcBytes o)] ∧
    ((sluCompress o).drop 12).take (sluPayload o).2.length = (sluPayload o).2

/-- The decoder undoes the compressor (R425 to R430). The choice of stream is open (log 26). -/
def Obligations.SluiceRoundTrip : Prop :=
  ∀ o rest : List Byte, 1 ≤ o.length → o.length ≤ 65536 → sluTake (sluCompress o ++ rest) = .ok (o, rest)

/-- The checks of R430, which nothing passes by. -/
def Obligations.SluiceAcceptsSoundBlocksOnly : Prop :=
  (∀ (b o rest : List Byte), sluTake b = .ok (o, rest) →
    bitsOf (wordAt (bytesWords (b.take 12)) 0) 31 28 = 1 ∧ bitsOf (wordAt (bytesWords (b.take 12)) 0) 26 16 = 0 ∧
    o.length = wordAt (bytesWords (b.take 12)) 0 % 65536 + 1 ∧ crcBytes o = wordAt (bytesWords (b.take 12)) 2 ∧
    (bitOf (wordAt (bytesWords (b.take 12)) 0) 27 = true → o = (b.drop 12).take (wordAt (bytesWords (b.take 12)) 1 % 2 ^ 17)) ∧
    rest = b.drop (12 + 4 * ceilDiv (wordAt (bytesWords (b.take 12)) 1 % 2 ^ 17) 4)) ∧
  (∀ (b : List Byte) (e : Nat), sluTake b = .error e → 1 ≤ e ∧ e ≤ 4)

/-- Memory keeps what is written to it and nothing else changes (R409, R410, R420, R422). -/
def Obligations.MemoryReadsBackWrites : Prop :=
  (∀ (a : Nat) (bs : List Byte) (s : State), s.Canonical → a + bs.length ≤ 0x1800000000 →
    (∀ i, i < bs.length → stackDead (a + i) s = false) → memRead .hbm a bs.length (memWrite .hbm a bs s) = bs) ∧
  (∀ (p a : Nat) (bs : List Byte) (s : State), s.Canonical → a + bs.length ≤ 2 ^ 64 →
    memRead (.host p) a bs.length (memWrite (.host p) a bs s) = bs) ∧
  (∀ (a b : Nat) (bs : List Byte) (s : State), ¬(a ≤ b ∧ b < a + bs.length) →
    memGet .hbm b (memWrite .hbm a bs s) = memGet .hbm b s) ∧
  (∀ (p a b : Nat) (bs : List Byte) (s : State), a + bs.length ≤ 2 ^ 64 → b < 2 ^ 64 → ¬(a ≤ b ∧ b < a + bs.length) →
    memGet (.host p) b (memWrite (.host p) a bs s) = memGet (.host p) b s) ∧
  (∀ (p q a b : Nat) (bs : List Byte) (s : State), p ≠ q →
    memGet (.host q) b (memWrite (.host p) a bs s) = memGet (.host q) b s ∧
    memGet (.host q) b (memWrite .hbm a bs s) = memGet (.host q) b s ∧
    memGet .hbm b (memWrite (.host p) a bs s) = memGet .hbm b s) ∧
  (∀ (a : Nat) (b : Byte) (s : State), 0x1800000000 ≤ a → memPut .hbm a b s = s ∧ memGet .hbm a s = 0) ∧
  (∀ (a : Nat) (b : Byte) (s : State), stackDead a s = true → memPut .hbm a b s = s) ∧
  (∀ (a : Nat) (b : Byte) (s : State), a < 0x1800000000 → stackDead a s = false → a ∉ (memPut .hbm a b s).poison)

/-- Access types (R521) and ranges (R523), for every register of every table. That the traffic counts go on before a write of HBM_CFG is the model's choice (log 3). -/
def Obligations.FieldsFollowTheirAccessType : Prop :=
  (∀ (addr : Nat) (v : Word) (s t : State) (d : RegDef), s.Canonical → regAt addr = some d → t = writePlain addr v.toNat s →
    (∀ f ∈ d.fields, ∀ new old after, new = bitsOf v.toNat f.hi f.lo → old = getF ⟨addr, f.hi, f.lo⟩ s →
      after = getF ⟨addr, f.hi, f.lo⟩ t →
      (f.acc ∈ [.rw, .rws, .sh] → f.rng = .any → after = new) ∧
      (f.acc ∈ [.rw, .rws, .sh] → ∀ lo hi, f.rng = .keep lo hi →
        after = if lo ≤ new ∧ new ≤ hi then new else old) ∧
      (f.acc = .cnt0 → after = if new = 0 then 0 else old) ∧
      (f.acc = .w1c → ∀ i, bitOf after i = (bitOf old i && !bitOf new i)) ∧
      (f.acc ∈ [.ro, .wo, .own, .win] → after = old)) ∧
    (∀ a, a ≠ addr → rd a t = rd a s) ∧ { t with regs := s.regs } = s) ∧
  (∀ (who : Who) (addr : Nat) (v : Word) (s : State),
    addr / 0x1000 ∈ [0x01, 0x18, 0x68, 0x170, 0x171, 0x172, 0x173, 0x178] → 0x100 ≤ addr % 0x1000 →
    (addr % 0x1000 = 0x100 → addr / 0x1000 ≤ 0x68 ∨ addr / 0x1000 = 0x178) →
    Accepted who (addr / 0x1000) s → exec (.registerWrite [⟨who, addr, v⟩]) s = .next (writePlain addr v.toNat s)) ∧
  (∀ (who : Who) (i : Fin 4) (v : Word) (s : State), Accepted who (0x170 + i.val) s →
    exec (.registerWrite [⟨who, 0x1000 * (0x170 + i.val) + 0x100, v⟩]) s =
      .next (s |> advanceTraffic i.val |> writePlain (0x1000 * (0x170 + i.val) + 0x100) v.toNat))

/-- The tie rule (R41) and its use as an order (R46). -/
def Obligations.RequestsAreServedInTieOrder : Prop :=
  ∀ (reqs : List Cmd) (n ptr : Nat), 0 < n → ptr < n → (∀ c ∈ reqs, c.idx < n) →
    (tieSort n ptr Cmd.idx reqs).Perm reqs ∧
    (tieSort n ptr Cmd.idx reqs).Pairwise (fun c d => ∀ j k, 1 ≤ j → j ≤ n → 1 ≤ k → k ≤ n →
      c.idx = (ptr + j) % n → d.idx = (ptr + k) % n → j ≤ k)

/-- A tie on a semaphore (R41, R484). -/
def Obligations.SemaphoreTieHasOneWinner : Prop :=
  ∀ (ps : List (Fin 8)) (n : Fin 64) (w : Fin 8) (k : Nat) (s : State), s.Canonical → answers 0x190 s = true →
    ps.Nodup → 2 ≤ ps.length → w ∈ ps → 1 ≤ k → k ≤ 8 → w.val = (getF HST_SEM_TIE_PTR s + k) % 8 →
    (∀ q ∈ ps, ∀ j, 1 ≤ j → j < k → q.val ≠ (getF HST_SEM_TIE_PTR s + j) % 8) → getB (HST_SEM_HELD n.val) s = false →
    ∃ t, exec (.hstSemAcquire (ps.map (fun p => (.part p, n)))) s = .next t ∧
      getF (HST_SEM_HELD n.val) t = 1 ∧ getF (HST_SEM_HOLDER n.val) t = w.val ∧ getF HST_SEM_TIE_PTR t = w.val ∧
      getF (HST_SEMRES_STATUS w.val) t = DONE ∧ getF (HST_SEMRES_SEM w.val) t = n.val ∧
      (∀ q ∈ ps, q ≠ w → getF (HST_SEMRES_STATUS q.val) t = LOST_TIE ∧ getF (HST_SEMRES_SEM q.val) t = n.val) ∧
      (∀ a, a ≠ (HST_SEM_HELD n.val).addr → a ≠ HST_SEM_TIE_PTR.addr → (∀ q ∈ ps, a ≠ (HST_SEMRES_STATUS q.val).addr) →
        rd a t = rd a s) ∧ { t with regs := s.regs } = s

/-- Completion records (R479), and a completion write that fails (R480). -/
def Obligations.CompletionRecordsAreWritten : Prop :=
  (∀ (p : Fin 8) (final : Bool) (r : CmdRef) (status reason r0 r1 j addr : Nat) (s t : State), s.Canonical →
    ringDown p.val addr 16 s = false → r.op < 256 → status < 256 → reason < 256 → j = getF (HST_CPL_TAIL_IDX p.val) s →
    addr = cplBase p.val s + 16 * (j % (2 * ringN p.val s)) →
    (getB (HST_RING_CTRL_RSPACE p.val) s = false → ∀ i, i < 16 → stackDead (addr + i) s = false) →
    (getB (HST_RING_CTRL_RSPACE p.val) s = true → addr + 16 ≤ 2 ^ 64) →
    t = writeCpl p.val final r status reason r0 r1 s →
    (∃ ws, bytesWords (memRead (ringSpace p.val s) addr 16 t) = ws ∧ ws.length = 4 ∧
      fieldAt ws 0 31 31 = (if j / (2 * ringN p.val s) % 2 = 0 then 1 else 0) ∧ fieldAt ws 0 30 30 = bit final ∧
      fieldAt ws 0 29 24 = 0 ∧ fieldAt ws 0 23 16 = status ∧ fieldAt ws 0 15 0 = r.tag % 65536 ∧
      fieldAt ws 1 31 24 = r.op ∧ fieldAt ws 1 23 16 = reason ∧ fieldAt ws 1 15 0 = 0 ∧
      wordAt ws 2 = r0 % 2 ^ 32 ∧ wordAt ws 3 = r1 % 2 ^ 32) ∧
    getF (HST_CPL_TAIL_IDX p.val) t = (j + 1) % 65536 ∧
    (getB (HST_RING_CTRL_RSPACE p.val) s = false → ∀ b, ¬(addr ≤ b ∧ b < addr + 16) → memGet .hbm b t = memGet .hbm b s) ∧
    (∀ a, eventReg a = false → a ≠ (HST_CPL_TAIL_IDX p.val).addr → a ≠ (HST_JMP_DSEQ p.val).addr → rd a t = rd a s)) ∧
  (∀ (p : Fin 8) (final : Bool) (r : CmdRef) (status reason r0 r1 : Nat) (s : State),
    ringDown p.val (cplAddr p.val (getF (HST_CPL_TAIL_IDX p.val) s) s) 16 s = true → writeCpl p.val final r status reason r0 r1 s = (s |> setB (HST_RING_STAT_STOPPED p.val) true |> hostError p.val 3))

/-- Partitions reach only their own regions (R465, R468, R472). -/
def Obligations.HostWritesStayInTheirRegions : Prop :=
  (∀ (m : JmpIn) (b : Nat) (s t : State), exec (.jmpMemWrite m) s = .next t →
    (∀ k, k < 8 → ¬(getF (HST_REG_BASE (jmpPart m) k) s * 2 ^ 20 ≤ b ∧
      b < (getF (HST_REG_BASE (jmpPart m) k) s + getF (HST_REG_SIZE (jmpPart m) k) s) * 2 ^ 20)) →
    memGet .hbm b t = memGet .hbm b s ∧ t.hostMem = s.hostMem) ∧
  (∀ (p : Fin 8) (off b : Nat) (bs : List Byte) (s t : State), exec (.bar2WindowAccess p off (.write bs)) s = .next t →
    (∀ k, k < 8 → ¬(getF (HST_REG_BASE p.val k) s * 2 ^ 20 ≤ b ∧
      b < (getF (HST_REG_BASE p.val k) s + getF (HST_REG_SIZE p.val k) s) * 2 ^ 20)) →
    memGet .hbm b t = memGet .hbm b s ∧ t.hostMem = s.hostMem) ∧
  (∀ (p : Fin 8) (off n : Nat) (s t : State), exec (.bar2WindowAccess p off (.read n)) s = .next t →
    t.hbm = s.hbm ∧ t.hostMem = s.hostMem)
end

