-- ==== Sys2Proof/Laws/FMap.lean ====
section
/-!
SUPPORT. Laws of the sparse tables: reading after writing, and that writing keeps the canonical form.
-/

namespace Sys2Proof

variable {α : Type}

/-- Keys rise strictly from above `b`. -/
theorem FMap.wfAbove_cons [DecidableEq α] (d : Nat → α) (b : Option Nat) (k : Nat) (v : α) (r : FMap α) :
    FMap.wfAbove d b ((k, v) :: r) = true ↔ (∀ x ∈ b, x < k) ∧ v ≠ d k ∧ FMap.wfAbove d (some k) r = true := by
  cases b <;> simp [FMap.wfAbove, and_assoc]

theorem FMap.wfAbove_mono [DecidableEq α] (d : Nat → α) (b c : Nat) (h : c ≤ b) (m : FMap α)
    (hm : FMap.wfAbove d (some b) m = true) : FMap.wfAbove d (some c) m = true := by
  cases m with
  | nil => rfl
  | cons e r =>
    rw [FMap.wfAbove_cons] at *
    exact ⟨fun x hx => by have := hm.1 b rfl; simp at hx; omega, hm.2⟩

theorem FMap.wfAbove_none [DecidableEq α] (d : Nat → α) (b : Option Nat) (m : FMap α)
    (hm : FMap.wfAbove d b m = true) : FMap.wfAbove d none m = true := by
  cases m with
  | nil => rfl
  | cons e r => rw [FMap.wfAbove_cons] at *; exact ⟨by simp, hm.2⟩

/-- Keys below the table's bound read the default. -/
theorem FMap.get_below [DecidableEq α] (d : Nat → α) (e : α) (b k : Nat) (m : FMap α)
    (hm : FMap.wfAbove d (some b) m = true) (h : k ≤ b) : FMap.get e m k = e := by
  induction m generalizing b with
  | nil => rfl
  | cons x r ih =>
    obtain ⟨k', v⟩ := x
    rw [FMap.wfAbove_cons] at hm
    have := hm.1 b rfl
    simp only [FMap.get]
    rw [if_neg (by omega)]
    exact ih k' hm.2.2 (by omega)

/-- Reading the key just written gives the value written. -/
theorem FMap.get_set_same [DecidableEq α] (d : Nat → α) (b : Option Nat) (m : FMap α) (k : Nat) (v : α)
    (hm : FMap.wfAbove d b m = true) : FMap.get (d k) (FMap.set (d k) m k v) k = v := by
  induction m generalizing b with
  | nil => simp only [FMap.set]; split <;> simp_all [FMap.get]
  | cons e r ih =>
    obtain ⟨k', v'⟩ := e
    rw [FMap.wfAbove_cons] at hm
    simp only [FMap.set]
    split
    · split
      · next h1 h2 =>
        simp only [FMap.get, if_neg (show ¬ k = k' by omega), h2]
        exact FMap.get_below d (d k) k' k r hm.2.2 (by omega)
      · simp [FMap.get]
    · split
      · next h1 h2 =>
        split
        · next h3 => subst h2; rw [h3]; exact FMap.get_below d (d k) k k r hm.2.2 (by omega)
        · simp [FMap.get]
      · next h1 h2 => simp only [FMap.get, if_neg h2]; exact ih (some k') hm.2.2

/-- Writing one key leaves every other key as it was. -/
theorem FMap.get_set_other [DecidableEq α] (d e : α) (m : FMap α) (k j : Nat) (v : α) (h : j ≠ k) :
    FMap.get e (FMap.set d m k v) j = FMap.get e m j := by
  induction m with
  | nil => simp only [FMap.set]; split <;> simp [FMap.get, h]
  | cons x r ih =>
    obtain ⟨k', v'⟩ := x
    simp only [FMap.set]
    split
    · split
      · rfl
      · simp [FMap.get, h]
    · split
      · next h2 =>
        subst h2
        split
        · simp [FMap.get, h]
        · simp [FMap.get, h]
      · simp only [FMap.get]; split
        · rfl
        · exact ih

/-- Writing keeps the canonical form, above any bound below the key. -/
theorem FMap.wfAbove_set [DecidableEq α] (d : Nat → α) (b : Option Nat) (m : FMap α) (k : Nat) (v : α)
    (hm : FMap.wfAbove d b m = true) (hb : ∀ x ∈ b, x < k) : FMap.wfAbove d b (FMap.set (d k) m k v) = true := by
  induction m generalizing b with
  | nil =>
    simp only [FMap.set]; split
    · rfl
    · next h => rw [FMap.wfAbove_cons]; exact ⟨hb, h, rfl⟩
  | cons e r ih =>
    obtain ⟨k', v'⟩ := e
    have hc := hm
    rw [FMap.wfAbove_cons] at hc
    simp only [FMap.set]
    split
    · split
      · exact hm
      · next h1 h2 =>
        rw [FMap.wfAbove_cons]
        refine ⟨hb, h2, ?_⟩
        rw [FMap.wfAbove_cons]
        exact ⟨by simpa using h1, hc.2⟩
    · split
      · next h1 h2 =>
        subst h2
        split
        · cases b with
          | none => exact FMap.wfAbove_none d _ r hc.2.2
          | some c => exact FMap.wfAbove_mono d k c (by have := hb c rfl; omega) r hc.2.2
        · next h3 => rw [FMap.wfAbove_cons]; exact ⟨hb, h3, hc.2.2⟩
      · next h1 h2 =>
        rw [FMap.wfAbove_cons]
        exact ⟨hc.1, hc.2.1, ih (some k') hc.2.2 (by intro x hx; simp at hx; omega)⟩

/-- Writing keeps the canonical form. -/
theorem FMap.wf_set [DecidableEq α] (d : Nat → α) (m : FMap α) (k : Nat) (v : α) (hm : FMap.wf d m = true) :
    FMap.wf d (FMap.set (d k) m k v) = true := FMap.wfAbove_set d none m k v hm (by simp)

/-- Keeping some keys keeps the canonical form. -/
theorem FMap.wfAbove_keep [DecidableEq α] (d : Nat → α) (b : Option Nat) (p : Nat → Bool) (m : FMap α)
    (hm : FMap.wfAbove d b m = true) : FMap.wfAbove d b (FMap.keep p m) = true := by
  induction m generalizing b with
  | nil => rfl
  | cons e r ih =>
    obtain ⟨k', v'⟩ := e
    rw [FMap.wfAbove_cons] at hm
    have h := ih (some k') hm.2.2
    by_cases hp : p k'
    · have e : FMap.keep p ((k', v') :: r) = (k', v') :: FMap.keep p r := by simp [FMap.keep, hp]
      rw [e, FMap.wfAbove_cons]
      exact ⟨hm.1, hm.2.1, h⟩
    · have e : FMap.keep p ((k', v') :: r) = FMap.keep p r := by simp [FMap.keep, hp]
      rw [e]
      cases b with
      | none => exact FMap.wfAbove_none d _ _ h
      | some c => exact FMap.wfAbove_mono d k' c (by have := hm.1 c rfl; omega) _ h

theorem FMap.wf_keep [DecidableEq α] (d : Nat → α) (p : Nat → Bool) (m : FMap α) (hm : FMap.wf d m = true) :
    FMap.wf d (FMap.keep p m) = true := FMap.wfAbove_keep d none p m hm

end Sys2Proof
end

