-- ==== Sys2Proof/Laws/Kept.lean ====
section
/-!
SUPPORT. The two things every operation of the device keeps: the queue of waiting commands, and the canonical form of
registers and memories. `Kept Q K s` says that the queue of `s` is `Q` and, where `K` holds, that `s` is canonical; each
operation has one lemma that it keeps this.
-/

namespace Sys2Proof.Machine

/-- What `Kept` says, over the four fields it reads. -/
structure KeptParts (Q : List Instr) (K : Prop) (p : List Instr) (r : FMap Word) (m h : FMap Byte) : Prop where
  queue : p = Q
  canon : K → Registers.wf r = true ∧ Memory.wf m = true ∧ Memory.inHbm m = true ∧ Memory.wf h = true

/-- The queue of `s` is `Q`, and where `K` holds `s` is canonical. -/
structure Kept (Q : List Instr) (K : Prop) (s : State) : Prop where
  parts : KeptParts Q K s.pending s.regs s.hbm s.hostMem

/-- A command's outcome is a next state of which `P` holds. -/
def Answers (P : State → Prop) (o : Host.Outcome State Fault Refusal) : Prop := ∃ t, o = .next t ∧ P t

variable {Q : List Instr} {K : Prop} {s : State}

/-- A record update that leaves the four fields alone keeps them. -/
theorem kept_mk {p : List Instr} {r : FMap Word} {m h : FMap Byte} {poison panel ras lnk cor str dec asm enc egr tim cue rim
    cam slc pwr hst evt fwu out free} (H : KeptParts Q K p r m h) :
    Kept Q K { regs := r, hbm := m, hostMem := h, poison := poison, panel := panel, ras := ras, lnk := lnk, cor := cor,
               str := str, dec := dec, asm := asm, enc := enc, egr := egr, tim := tim, cue := cue, rim := rim, cam := cam,
               slc := slc, pwr := pwr, hst := hst, evt := evt, fwu := fwu, out := out, free := free, pending := p } := ⟨H⟩

theorem kept_mk_iff {p : List Instr} {r : FMap Word} {m h : FMap Byte} {poison panel ras lnk cor str dec asm enc egr tim cue
    rim cam slc pwr hst evt fwu out free} :
    Kept Q K { regs := r, hbm := m, hostMem := h, poison := poison, panel := panel, ras := ras, lnk := lnk, cor := cor,
               str := str, dec := dec, asm := asm, enc := enc, egr := egr, tim := tim, cue := cue, rim := rim, cam := cam,
               slc := slc, pwr := pwr, hst := hst, evt := evt, fwu := fwu, out := out, free := free, pending := p } ↔
    KeptParts Q K p r m h := ⟨fun h => h.parts, kept_mk⟩

theorem answers_next {P : State → Prop} {t : State} (h : P t) : Answers P (.next t) := ⟨t, rfl, h⟩

theorem answers_ite {P : State → Prop} {c : Prop} [Decidable c] {a b : Host.Outcome State Fault Refusal}
    (ha : Answers P a) (hb : Answers P b) : Answers P (if c then a else b) := by split <;> assumption

theorem kept_ite {c : Prop} [Decidable c] {a b : State} (ha : Kept Q K a) (hb : Kept Q K b) :
    Kept Q K (if c then a else b) := by split <;> assumption

theorem kept_foldl {α : Type} {l : List α} {f : State → α → State} (h : Kept Q K s)
    (hf : ∀ t a, Kept Q K t → Kept Q K (f t a)) : Kept Q K (l.foldl f s) := by
  induction l generalizing s with
  | nil => exact h
  | cons a r ih => exact ih (hf s a h)

theorem foldl_keeps {α β : Type} {P : β → Prop} {l : List α} {f : β → α → β} {b : β} (h : P b)
    (hf : ∀ b a, P b → P (f b a)) : P (l.foldl f b) := by
  induction l generalizing b with
  | nil => exact h
  | cons a r ih => exact ih (hf b a h)

theorem each_kept {α : Type} {l : List α} {f : α → State → State} (h : Kept Q K s)
    (hf : ∀ a t, Kept Q K t → Kept Q K (f a t)) : Kept Q K (each l f s) := kept_foldl h (fun t a => hf a t)

theorem ifS_kept {b : Bool} {f : State → State} (h : Kept Q K s) (hf : ∀ t, Kept Q K t → Kept Q K (f t)) :
    Kept Q K (ifS b f s) := kept_ite (hf s h) h

theorem wr_kept {a : Nat} {w : Word} (h : Kept Q K s) : Kept Q K (wr a w s) :=
  ⟨h.1.1, fun k => ⟨FMap.wf_set resetWord s.regs a w (h.1.2 k).1, (h.1.2 k).2⟩⟩

theorem inHbm_cons {e : Nat × Byte} {r : FMap Byte} :
    Memory.inHbm (e :: r) = true ↔ e.1 < hbmTop ∧ Memory.inHbm r = true := by simp [Memory.inHbm]

/-- A byte written in range keeps HBM in range. -/
theorem inHbm_set {m : FMap Byte} {a : Nat} {b : Byte} (ha : a < hbmTop) (h : Memory.inHbm m = true) :
    Memory.inHbm (FMap.set 0 m a b) = true := by
  induction m with
  | nil =>
    simp only [FMap.set]
    split
    · rfl
    · simp [Memory.inHbm, ha]
  | cons e r ih =>
    obtain ⟨k, v⟩ := e
    rw [inHbm_cons] at h
    have hr := ih h.2
    simp only [FMap.set]
    split
    · split <;> simp [inHbm_cons, ha, h]
    · split
      · split <;> simp [inHbm_cons, ha, h]
      · exact inHbm_cons.2 ⟨h.1, hr⟩

theorem hbmPut_kept {a : Nat} {b : Byte} (h : Kept Q K s) : Kept Q K (hbmPut a b s) := by
  unfold hbmPut
  split
  · next c =>
    have ha : a < hbmTop := by simp at c; exact c.1
    exact ⟨h.1.1, fun k => ⟨(h.1.2 k).1, FMap.wf_set (fun _ => 0) s.hbm a b (h.1.2 k).2.1,
      inHbm_set ha (h.1.2 k).2.2.1, (h.1.2 k).2.2.2⟩⟩
  · exact h

theorem memPut_kept {sp : Space} {a : Nat} {b : Byte} (h : Kept Q K s) : Kept Q K (memPut sp a b s) := by
  cases sp with
  | hbm => exact hbmPut_kept h
  | host p =>
    exact ⟨h.1.1, fun k => ⟨(h.1.2 k).1, (h.1.2 k).2.1, (h.1.2 k).2.2.1,
      FMap.wf_set (fun _ => 0) s.hostMem (hostKey p a) b (h.1.2 k).2.2.2⟩⟩

theorem memWrite_kept {sp : Space} {a : Nat} {l : List Byte} (h : Kept Q K s) : Kept Q K (memWrite sp a l s) := by
  induction l generalizing a s with
  | nil => exact h
  | cons b r ih => exact ih (memPut_kept h)

theorem fresh_kept {w : Nat} (h : Kept Q K s) : Kept Q K (fresh w s).2 := kept_mk h.parts

theorem kept_ite_fst {α : Type} {c : Prop} [Decidable c] {a b : State × α} (ha : Kept Q K a.1) (hb : Kept Q K b.1) :
    Kept Q K (if c then a else b).1 := by split <;> assumption

theorem kept_ite_snd {α : Type} {c : Prop} [Decidable c] {a b : α × State} (ha : Kept Q K a.2) (hb : Kept Q K b.2) :
    Kept Q K (if c then a else b).2 := by split <;> assumption

end Sys2Proof.Machine
end

