-- ==== Sys2Proof/Laws/State.lean ====
section
/-!
SUPPORT. What each update of the state leaves alone, one lemma per field per update, true by rfl.
-/

namespace Sys2Proof.Machine

variable (s : State)

/-! ## A register write -/

@[simp] theorem wr_hbm (a : Nat) (w : Word) : (wr a w s).hbm = s.hbm := rfl
@[simp] theorem wr_hostMem (a : Nat) (w : Word) : (wr a w s).hostMem = s.hostMem := rfl
@[simp] theorem wr_poison (a : Nat) (w : Word) : (wr a w s).poison = s.poison := rfl
@[simp] theorem wr_panel (a : Nat) (w : Word) : (wr a w s).panel = s.panel := rfl
@[simp] theorem wr_ras (a : Nat) (w : Word) : (wr a w s).ras = s.ras := rfl
@[simp] theorem wr_lnk (a : Nat) (w : Word) : (wr a w s).lnk = s.lnk := rfl
@[simp] theorem wr_cor (a : Nat) (w : Word) : (wr a w s).cor = s.cor := rfl
@[simp] theorem wr_str (a : Nat) (w : Word) : (wr a w s).str = s.str := rfl
@[simp] theorem wr_dec (a : Nat) (w : Word) : (wr a w s).dec = s.dec := rfl
@[simp] theorem wr_asm (a : Nat) (w : Word) : (wr a w s).asm = s.asm := rfl
@[simp] theorem wr_enc (a : Nat) (w : Word) : (wr a w s).enc = s.enc := rfl
@[simp] theorem wr_egr (a : Nat) (w : Word) : (wr a w s).egr = s.egr := rfl
@[simp] theorem wr_tim (a : Nat) (w : Word) : (wr a w s).tim = s.tim := rfl
@[simp] theorem wr_cue (a : Nat) (w : Word) : (wr a w s).cue = s.cue := rfl
@[simp] theorem wr_rim (a : Nat) (w : Word) : (wr a w s).rim = s.rim := rfl
@[simp] theorem wr_cam (a : Nat) (w : Word) : (wr a w s).cam = s.cam := rfl
@[simp] theorem wr_slc (a : Nat) (w : Word) : (wr a w s).slc = s.slc := rfl
@[simp] theorem wr_pwr (a : Nat) (w : Word) : (wr a w s).pwr = s.pwr := rfl
@[simp] theorem wr_hst (a : Nat) (w : Word) : (wr a w s).hst = s.hst := rfl
@[simp] theorem wr_evt (a : Nat) (w : Word) : (wr a w s).evt = s.evt := rfl
@[simp] theorem wr_fwu (a : Nat) (w : Word) : (wr a w s).fwu = s.fwu := rfl
@[simp] theorem wr_out (a : Nat) (w : Word) : (wr a w s).out = s.out := rfl
@[simp] theorem wr_free (a : Nat) (w : Word) : (wr a w s).free = s.free := rfl
@[simp] theorem wr_pending (a : Nat) (w : Word) : (wr a w s).pending = s.pending := rfl

/-! ## A register field -/

@[simp] theorem setF_hbm (x : Fld) (v : Nat) : (setF x v s).hbm = s.hbm := rfl
@[simp] theorem setF_hostMem (x : Fld) (v : Nat) : (setF x v s).hostMem = s.hostMem := rfl
@[simp] theorem setF_poison (x : Fld) (v : Nat) : (setF x v s).poison = s.poison := rfl
@[simp] theorem setF_panel (x : Fld) (v : Nat) : (setF x v s).panel = s.panel := rfl
@[simp] theorem setF_ras (x : Fld) (v : Nat) : (setF x v s).ras = s.ras := rfl
@[simp] theorem setF_lnk (x : Fld) (v : Nat) : (setF x v s).lnk = s.lnk := rfl
@[simp] theorem setF_cor (x : Fld) (v : Nat) : (setF x v s).cor = s.cor := rfl
@[simp] theorem setF_str (x : Fld) (v : Nat) : (setF x v s).str = s.str := rfl
@[simp] theorem setF_dec (x : Fld) (v : Nat) : (setF x v s).dec = s.dec := rfl
@[simp] theorem setF_asm (x : Fld) (v : Nat) : (setF x v s).asm = s.asm := rfl
@[simp] theorem setF_enc (x : Fld) (v : Nat) : (setF x v s).enc = s.enc := rfl
@[simp] theorem setF_egr (x : Fld) (v : Nat) : (setF x v s).egr = s.egr := rfl
@[simp] theorem setF_tim (x : Fld) (v : Nat) : (setF x v s).tim = s.tim := rfl
@[simp] theorem setF_cue (x : Fld) (v : Nat) : (setF x v s).cue = s.cue := rfl
@[simp] theorem setF_rim (x : Fld) (v : Nat) : (setF x v s).rim = s.rim := rfl
@[simp] theorem setF_cam (x : Fld) (v : Nat) : (setF x v s).cam = s.cam := rfl
@[simp] theorem setF_slc (x : Fld) (v : Nat) : (setF x v s).slc = s.slc := rfl
@[simp] theorem setF_pwr (x : Fld) (v : Nat) : (setF x v s).pwr = s.pwr := rfl
@[simp] theorem setF_hst (x : Fld) (v : Nat) : (setF x v s).hst = s.hst := rfl
@[simp] theorem setF_evt (x : Fld) (v : Nat) : (setF x v s).evt = s.evt := rfl
@[simp] theorem setF_fwu (x : Fld) (v : Nat) : (setF x v s).fwu = s.fwu := rfl
@[simp] theorem setF_out (x : Fld) (v : Nat) : (setF x v s).out = s.out := rfl
@[simp] theorem setF_free (x : Fld) (v : Nat) : (setF x v s).free = s.free := rfl
@[simp] theorem setF_pending (x : Fld) (v : Nat) : (setF x v s).pending = s.pending := rfl

/-! ## What leaves the device -/

@[simp] theorem emit_out (x : Out) : (emit x s).out = x :: s.out := rfl
@[simp] theorem emit_regs (x : Out) : (emit x s).regs = s.regs := rfl
@[simp] theorem emit_hbm (x : Out) : (emit x s).hbm = s.hbm := rfl
@[simp] theorem emit_hostMem (x : Out) : (emit x s).hostMem = s.hostMem := rfl
@[simp] theorem emit_poison (x : Out) : (emit x s).poison = s.poison := rfl
@[simp] theorem emit_panel (x : Out) : (emit x s).panel = s.panel := rfl
@[simp] theorem emit_ras (x : Out) : (emit x s).ras = s.ras := rfl
@[simp] theorem emit_lnk (x : Out) : (emit x s).lnk = s.lnk := rfl
@[simp] theorem emit_cor (x : Out) : (emit x s).cor = s.cor := rfl
@[simp] theorem emit_str (x : Out) : (emit x s).str = s.str := rfl
@[simp] theorem emit_dec (x : Out) : (emit x s).dec = s.dec := rfl
@[simp] theorem emit_asm (x : Out) : (emit x s).asm = s.asm := rfl
@[simp] theorem emit_enc (x : Out) : (emit x s).enc = s.enc := rfl
@[simp] theorem emit_egr (x : Out) : (emit x s).egr = s.egr := rfl
@[simp] theorem emit_tim (x : Out) : (emit x s).tim = s.tim := rfl
@[simp] theorem emit_cue (x : Out) : (emit x s).cue = s.cue := rfl
@[simp] theorem emit_rim (x : Out) : (emit x s).rim = s.rim := rfl
@[simp] theorem emit_cam (x : Out) : (emit x s).cam = s.cam := rfl
@[simp] theorem emit_slc (x : Out) : (emit x s).slc = s.slc := rfl
@[simp] theorem emit_pwr (x : Out) : (emit x s).pwr = s.pwr := rfl
@[simp] theorem emit_hst (x : Out) : (emit x s).hst = s.hst := rfl
@[simp] theorem emit_evt (x : Out) : (emit x s).evt = s.evt := rfl
@[simp] theorem emit_fwu (x : Out) : (emit x s).fwu = s.fwu := rfl
@[simp] theorem emit_free (x : Out) : (emit x s).free = s.free := rfl
@[simp] theorem emit_pending (x : Out) : (emit x s).pending = s.pending := rfl

/-! ## A free value -/

@[simp] theorem fresh_free (w : Nat) : (fresh w s).2.free = s.free + 1 := rfl
@[simp] theorem fresh_regs (w : Nat) : (fresh w s).2.regs = s.regs := rfl
@[simp] theorem fresh_hbm (w : Nat) : (fresh w s).2.hbm = s.hbm := rfl
@[simp] theorem fresh_hostMem (w : Nat) : (fresh w s).2.hostMem = s.hostMem := rfl
@[simp] theorem fresh_poison (w : Nat) : (fresh w s).2.poison = s.poison := rfl
@[simp] theorem fresh_panel (w : Nat) : (fresh w s).2.panel = s.panel := rfl
@[simp] theorem fresh_ras (w : Nat) : (fresh w s).2.ras = s.ras := rfl
@[simp] theorem fresh_lnk (w : Nat) : (fresh w s).2.lnk = s.lnk := rfl
@[simp] theorem fresh_cor (w : Nat) : (fresh w s).2.cor = s.cor := rfl
@[simp] theorem fresh_str (w : Nat) : (fresh w s).2.str = s.str := rfl
@[simp] theorem fresh_dec (w : Nat) : (fresh w s).2.dec = s.dec := rfl
@[simp] theorem fresh_asm (w : Nat) : (fresh w s).2.asm = s.asm := rfl
@[simp] theorem fresh_enc (w : Nat) : (fresh w s).2.enc = s.enc := rfl
@[simp] theorem fresh_egr (w : Nat) : (fresh w s).2.egr = s.egr := rfl
@[simp] theorem fresh_tim (w : Nat) : (fresh w s).2.tim = s.tim := rfl
@[simp] theorem fresh_cue (w : Nat) : (fresh w s).2.cue = s.cue := rfl
@[simp] theorem fresh_rim (w : Nat) : (fresh w s).2.rim = s.rim := rfl
@[simp] theorem fresh_cam (w : Nat) : (fresh w s).2.cam = s.cam := rfl
@[simp] theorem fresh_slc (w : Nat) : (fresh w s).2.slc = s.slc := rfl
@[simp] theorem fresh_pwr (w : Nat) : (fresh w s).2.pwr = s.pwr := rfl
@[simp] theorem fresh_hst (w : Nat) : (fresh w s).2.hst = s.hst := rfl
@[simp] theorem fresh_evt (w : Nat) : (fresh w s).2.evt = s.evt := rfl
@[simp] theorem fresh_fwu (w : Nat) : (fresh w s).2.fwu = s.fwu := rfl
@[simp] theorem fresh_out (w : Nat) : (fresh w s).2.out = s.out := rfl
@[simp] theorem fresh_pending (w : Nat) : (fresh w s).2.pending = s.pending := rfl

/-! ## Raster group g -/

@[simp] theorem State.setGrp_regs (i : Nat) (v : GroupRun) : (s.setGrp i v).regs = s.regs := rfl
@[simp] theorem State.setGrp_hbm (i : Nat) (v : GroupRun) : (s.setGrp i v).hbm = s.hbm := rfl
@[simp] theorem State.setGrp_hostMem (i : Nat) (v : GroupRun) : (s.setGrp i v).hostMem = s.hostMem := rfl
@[simp] theorem State.setGrp_poison (i : Nat) (v : GroupRun) : (s.setGrp i v).poison = s.poison := rfl
@[simp] theorem State.setGrp_panel (i : Nat) (v : GroupRun) : (s.setGrp i v).panel = s.panel := rfl
@[simp] theorem State.setGrp_lnk (i : Nat) (v : GroupRun) : (s.setGrp i v).lnk = s.lnk := rfl
@[simp] theorem State.setGrp_cor (i : Nat) (v : GroupRun) : (s.setGrp i v).cor = s.cor := rfl
@[simp] theorem State.setGrp_str (i : Nat) (v : GroupRun) : (s.setGrp i v).str = s.str := rfl
@[simp] theorem State.setGrp_dec (i : Nat) (v : GroupRun) : (s.setGrp i v).dec = s.dec := rfl
@[simp] theorem State.setGrp_asm (i : Nat) (v : GroupRun) : (s.setGrp i v).asm = s.asm := rfl
@[simp] theorem State.setGrp_enc (i : Nat) (v : GroupRun) : (s.setGrp i v).enc = s.enc := rfl
@[simp] theorem State.setGrp_egr (i : Nat) (v : GroupRun) : (s.setGrp i v).egr = s.egr := rfl
@[simp] theorem State.setGrp_tim (i : Nat) (v : GroupRun) : (s.setGrp i v).tim = s.tim := rfl
@[simp] theorem State.setGrp_cue (i : Nat) (v : GroupRun) : (s.setGrp i v).cue = s.cue := rfl
@[simp] theorem State.setGrp_rim (i : Nat) (v : GroupRun) : (s.setGrp i v).rim = s.rim := rfl
@[simp] theorem State.setGrp_cam (i : Nat) (v : GroupRun) : (s.setGrp i v).cam = s.cam := rfl
@[simp] theorem State.setGrp_slc (i : Nat) (v : GroupRun) : (s.setGrp i v).slc = s.slc := rfl
@[simp] theorem State.setGrp_pwr (i : Nat) (v : GroupRun) : (s.setGrp i v).pwr = s.pwr := rfl
@[simp] theorem State.setGrp_hst (i : Nat) (v : GroupRun) : (s.setGrp i v).hst = s.hst := rfl
@[simp] theorem State.setGrp_evt (i : Nat) (v : GroupRun) : (s.setGrp i v).evt = s.evt := rfl
@[simp] theorem State.setGrp_fwu (i : Nat) (v : GroupRun) : (s.setGrp i v).fwu = s.fwu := rfl
@[simp] theorem State.setGrp_out (i : Nat) (v : GroupRun) : (s.setGrp i v).out = s.out := rfl
@[simp] theorem State.setGrp_free (i : Nat) (v : GroupRun) : (s.setGrp i v).free = s.free := rfl
@[simp] theorem State.setGrp_pending (i : Nat) (v : GroupRun) : (s.setGrp i v).pending = s.pending := rfl

/-! ## The pool portion of lane n -/

@[simp] theorem State.setPool_regs (i : Nat) (v : Portion) : (s.setPool i v).regs = s.regs := rfl
@[simp] theorem State.setPool_hbm (i : Nat) (v : Portion) : (s.setPool i v).hbm = s.hbm := rfl
@[simp] theorem State.setPool_hostMem (i : Nat) (v : Portion) : (s.setPool i v).hostMem = s.hostMem := rfl
@[simp] theorem State.setPool_poison (i : Nat) (v : Portion) : (s.setPool i v).poison = s.poison := rfl
@[simp] theorem State.setPool_panel (i : Nat) (v : Portion) : (s.setPool i v).panel = s.panel := rfl
@[simp] theorem State.setPool_lnk (i : Nat) (v : Portion) : (s.setPool i v).lnk = s.lnk := rfl
@[simp] theorem State.setPool_cor (i : Nat) (v : Portion) : (s.setPool i v).cor = s.cor := rfl
@[simp] theorem State.setPool_str (i : Nat) (v : Portion) : (s.setPool i v).str = s.str := rfl
@[simp] theorem State.setPool_dec (i : Nat) (v : Portion) : (s.setPool i v).dec = s.dec := rfl
@[simp] theorem State.setPool_asm (i : Nat) (v : Portion) : (s.setPool i v).asm = s.asm := rfl
@[simp] theorem State.setPool_enc (i : Nat) (v : Portion) : (s.setPool i v).enc = s.enc := rfl
@[simp] theorem State.setPool_egr (i : Nat) (v : Portion) : (s.setPool i v).egr = s.egr := rfl
@[simp] theorem State.setPool_tim (i : Nat) (v : Portion) : (s.setPool i v).tim = s.tim := rfl
@[simp] theorem State.setPool_cue (i : Nat) (v : Portion) : (s.setPool i v).cue = s.cue := rfl
@[simp] theorem State.setPool_rim (i : Nat) (v : Portion) : (s.setPool i v).rim = s.rim := rfl
@[simp] theorem State.setPool_cam (i : Nat) (v : Portion) : (s.setPool i v).cam = s.cam := rfl
@[simp] theorem State.setPool_slc (i : Nat) (v : Portion) : (s.setPool i v).slc = s.slc := rfl
@[simp] theorem State.setPool_pwr (i : Nat) (v : Portion) : (s.setPool i v).pwr = s.pwr := rfl
@[simp] theorem State.setPool_hst (i : Nat) (v : Portion) : (s.setPool i v).hst = s.hst := rfl
@[simp] theorem State.setPool_evt (i : Nat) (v : Portion) : (s.setPool i v).evt = s.evt := rfl
@[simp] theorem State.setPool_fwu (i : Nat) (v : Portion) : (s.setPool i v).fwu = s.fwu := rfl
@[simp] theorem State.setPool_out (i : Nat) (v : Portion) : (s.setPool i v).out = s.out := rfl
@[simp] theorem State.setPool_free (i : Nat) (v : Portion) : (s.setPool i v).free = s.free := rfl
@[simp] theorem State.setPool_pending (i : Nat) (v : Portion) : (s.setPool i v).pending = s.pending := rfl

/-! ## Fan f -/

@[simp] theorem State.setFan_regs (i : Nat) (v : Fan) : (s.setFan i v).regs = s.regs := rfl
@[simp] theorem State.setFan_hbm (i : Nat) (v : Fan) : (s.setFan i v).hbm = s.hbm := rfl
@[simp] theorem State.setFan_hostMem (i : Nat) (v : Fan) : (s.setFan i v).hostMem = s.hostMem := rfl
@[simp] theorem State.setFan_poison (i : Nat) (v : Fan) : (s.setFan i v).poison = s.poison := rfl
@[simp] theorem State.setFan_panel (i : Nat) (v : Fan) : (s.setFan i v).panel = s.panel := rfl
@[simp] theorem State.setFan_lnk (i : Nat) (v : Fan) : (s.setFan i v).lnk = s.lnk := rfl
@[simp] theorem State.setFan_cor (i : Nat) (v : Fan) : (s.setFan i v).cor = s.cor := rfl
@[simp] theorem State.setFan_str (i : Nat) (v : Fan) : (s.setFan i v).str = s.str := rfl
@[simp] theorem State.setFan_dec (i : Nat) (v : Fan) : (s.setFan i v).dec = s.dec := rfl
@[simp] theorem State.setFan_asm (i : Nat) (v : Fan) : (s.setFan i v).asm = s.asm := rfl
@[simp] theorem State.setFan_enc (i : Nat) (v : Fan) : (s.setFan i v).enc = s.enc := rfl
@[simp] theorem State.setFan_egr (i : Nat) (v : Fan) : (s.setFan i v).egr = s.egr := rfl
@[simp] theorem State.setFan_tim (i : Nat) (v : Fan) : (s.setFan i v).tim = s.tim := rfl
@[simp] theorem State.setFan_cue (i : Nat) (v : Fan) : (s.setFan i v).cue = s.cue := rfl
@[simp] theorem State.setFan_rim (i : Nat) (v : Fan) : (s.setFan i v).rim = s.rim := rfl
@[simp] theorem State.setFan_cam (i : Nat) (v : Fan) : (s.setFan i v).cam = s.cam := rfl
@[simp] theorem State.setFan_slc (i : Nat) (v : Fan) : (s.setFan i v).slc = s.slc := rfl
@[simp] theorem State.setFan_pwr (i : Nat) (v : Fan) : (s.setFan i v).pwr = s.pwr := rfl
@[simp] theorem State.setFan_hst (i : Nat) (v : Fan) : (s.setFan i v).hst = s.hst := rfl
@[simp] theorem State.setFan_evt (i : Nat) (v : Fan) : (s.setFan i v).evt = s.evt := rfl
@[simp] theorem State.setFan_fwu (i : Nat) (v : Fan) : (s.setFan i v).fwu = s.fwu := rfl
@[simp] theorem State.setFan_out (i : Nat) (v : Fan) : (s.setFan i v).out = s.out := rfl
@[simp] theorem State.setFan_free (i : Nat) (v : Fan) : (s.setFan i v).free = s.free := rfl
@[simp] theorem State.setFan_pending (i : Nat) (v : Fan) : (s.setFan i v).pending = s.pending := rfl

/-! ## Jet j -/

@[simp] theorem State.setJet_regs (i : Nat) (v : Jet) : (s.setJet i v).regs = s.regs := rfl
@[simp] theorem State.setJet_hbm (i : Nat) (v : Jet) : (s.setJet i v).hbm = s.hbm := rfl
@[simp] theorem State.setJet_hostMem (i : Nat) (v : Jet) : (s.setJet i v).hostMem = s.hostMem := rfl
@[simp] theorem State.setJet_poison (i : Nat) (v : Jet) : (s.setJet i v).poison = s.poison := rfl
@[simp] theorem State.setJet_panel (i : Nat) (v : Jet) : (s.setJet i v).panel = s.panel := rfl
@[simp] theorem State.setJet_lnk (i : Nat) (v : Jet) : (s.setJet i v).lnk = s.lnk := rfl
@[simp] theorem State.setJet_cor (i : Nat) (v : Jet) : (s.setJet i v).cor = s.cor := rfl
@[simp] theorem State.setJet_str (i : Nat) (v : Jet) : (s.setJet i v).str = s.str := rfl
@[simp] theorem State.setJet_dec (i : Nat) (v : Jet) : (s.setJet i v).dec = s.dec := rfl
@[simp] theorem State.setJet_asm (i : Nat) (v : Jet) : (s.setJet i v).asm = s.asm := rfl
@[simp] theorem State.setJet_enc (i : Nat) (v : Jet) : (s.setJet i v).enc = s.enc := rfl
@[simp] theorem State.setJet_egr (i : Nat) (v : Jet) : (s.setJet i v).egr = s.egr := rfl
@[simp] theorem State.setJet_tim (i : Nat) (v : Jet) : (s.setJet i v).tim = s.tim := rfl
@[simp] theorem State.setJet_cue (i : Nat) (v : Jet) : (s.setJet i v).cue = s.cue := rfl
@[simp] theorem State.setJet_rim (i : Nat) (v : Jet) : (s.setJet i v).rim = s.rim := rfl
@[simp] theorem State.setJet_cam (i : Nat) (v : Jet) : (s.setJet i v).cam = s.cam := rfl
@[simp] theorem State.setJet_slc (i : Nat) (v : Jet) : (s.setJet i v).slc = s.slc := rfl
@[simp] theorem State.setJet_pwr (i : Nat) (v : Jet) : (s.setJet i v).pwr = s.pwr := rfl
@[simp] theorem State.setJet_hst (i : Nat) (v : Jet) : (s.setJet i v).hst = s.hst := rfl
@[simp] theorem State.setJet_evt (i : Nat) (v : Jet) : (s.setJet i v).evt = s.evt := rfl
@[simp] theorem State.setJet_fwu (i : Nat) (v : Jet) : (s.setJet i v).fwu = s.fwu := rfl
@[simp] theorem State.setJet_out (i : Nat) (v : Jet) : (s.setJet i v).out = s.out := rfl
@[simp] theorem State.setJet_free (i : Nat) (v : Jet) : (s.setJet i v).free = s.free := rfl
@[simp] theorem State.setJet_pending (i : Nat) (v : Jet) : (s.setJet i v).pending = s.pending := rfl

/-! ## Probe p -/

@[simp] theorem State.setProbe_regs (i : Nat) (v : Probe) : (s.setProbe i v).regs = s.regs := rfl
@[simp] theorem State.setProbe_hbm (i : Nat) (v : Probe) : (s.setProbe i v).hbm = s.hbm := rfl
@[simp] theorem State.setProbe_hostMem (i : Nat) (v : Probe) : (s.setProbe i v).hostMem = s.hostMem := rfl
@[simp] theorem State.setProbe_poison (i : Nat) (v : Probe) : (s.setProbe i v).poison = s.poison := rfl
@[simp] theorem State.setProbe_panel (i : Nat) (v : Probe) : (s.setProbe i v).panel = s.panel := rfl
@[simp] theorem State.setProbe_lnk (i : Nat) (v : Probe) : (s.setProbe i v).lnk = s.lnk := rfl
@[simp] theorem State.setProbe_cor (i : Nat) (v : Probe) : (s.setProbe i v).cor = s.cor := rfl
@[simp] theorem State.setProbe_str (i : Nat) (v : Probe) : (s.setProbe i v).str = s.str := rfl
@[simp] theorem State.setProbe_dec (i : Nat) (v : Probe) : (s.setProbe i v).dec = s.dec := rfl
@[simp] theorem State.setProbe_asm (i : Nat) (v : Probe) : (s.setProbe i v).asm = s.asm := rfl
@[simp] theorem State.setProbe_enc (i : Nat) (v : Probe) : (s.setProbe i v).enc = s.enc := rfl
@[simp] theorem State.setProbe_egr (i : Nat) (v : Probe) : (s.setProbe i v).egr = s.egr := rfl
@[simp] theorem State.setProbe_tim (i : Nat) (v : Probe) : (s.setProbe i v).tim = s.tim := rfl
@[simp] theorem State.setProbe_cue (i : Nat) (v : Probe) : (s.setProbe i v).cue = s.cue := rfl
@[simp] theorem State.setProbe_rim (i : Nat) (v : Probe) : (s.setProbe i v).rim = s.rim := rfl
@[simp] theorem State.setProbe_cam (i : Nat) (v : Probe) : (s.setProbe i v).cam = s.cam := rfl
@[simp] theorem State.setProbe_slc (i : Nat) (v : Probe) : (s.setProbe i v).slc = s.slc := rfl
@[simp] theorem State.setProbe_pwr (i : Nat) (v : Probe) : (s.setProbe i v).pwr = s.pwr := rfl
@[simp] theorem State.setProbe_hst (i : Nat) (v : Probe) : (s.setProbe i v).hst = s.hst := rfl
@[simp] theorem State.setProbe_evt (i : Nat) (v : Probe) : (s.setProbe i v).evt = s.evt := rfl
@[simp] theorem State.setProbe_fwu (i : Nat) (v : Probe) : (s.setProbe i v).fwu = s.fwu := rfl
@[simp] theorem State.setProbe_out (i : Nat) (v : Probe) : (s.setProbe i v).out = s.out := rfl
@[simp] theorem State.setProbe_free (i : Nat) (v : Probe) : (s.setProbe i v).free = s.free := rfl
@[simp] theorem State.setProbe_pending (i : Nat) (v : Probe) : (s.setProbe i v).pending = s.pending := rfl

/-! ## Lane n -/

@[simp] theorem State.setLane_regs (i : Nat) (v : Lane) : (s.setLane i v).regs = s.regs := rfl
@[simp] theorem State.setLane_hbm (i : Nat) (v : Lane) : (s.setLane i v).hbm = s.hbm := rfl
@[simp] theorem State.setLane_hostMem (i : Nat) (v : Lane) : (s.setLane i v).hostMem = s.hostMem := rfl
@[simp] theorem State.setLane_poison (i : Nat) (v : Lane) : (s.setLane i v).poison = s.poison := rfl
@[simp] theorem State.setLane_panel (i : Nat) (v : Lane) : (s.setLane i v).panel = s.panel := rfl
@[simp] theorem State.setLane_ras (i : Nat) (v : Lane) : (s.setLane i v).ras = s.ras := rfl
@[simp] theorem State.setLane_cor (i : Nat) (v : Lane) : (s.setLane i v).cor = s.cor := rfl
@[simp] theorem State.setLane_str (i : Nat) (v : Lane) : (s.setLane i v).str = s.str := rfl
@[simp] theorem State.setLane_dec (i : Nat) (v : Lane) : (s.setLane i v).dec = s.dec := rfl
@[simp] theorem State.setLane_asm (i : Nat) (v : Lane) : (s.setLane i v).asm = s.asm := rfl
@[simp] theorem State.setLane_enc (i : Nat) (v : Lane) : (s.setLane i v).enc = s.enc := rfl
@[simp] theorem State.setLane_egr (i : Nat) (v : Lane) : (s.setLane i v).egr = s.egr := rfl
@[simp] theorem State.setLane_tim (i : Nat) (v : Lane) : (s.setLane i v).tim = s.tim := rfl
@[simp] theorem State.setLane_cue (i : Nat) (v : Lane) : (s.setLane i v).cue = s.cue := rfl
@[simp] theorem State.setLane_rim (i : Nat) (v : Lane) : (s.setLane i v).rim = s.rim := rfl
@[simp] theorem State.setLane_cam (i : Nat) (v : Lane) : (s.setLane i v).cam = s.cam := rfl
@[simp] theorem State.setLane_slc (i : Nat) (v : Lane) : (s.setLane i v).slc = s.slc := rfl
@[simp] theorem State.setLane_pwr (i : Nat) (v : Lane) : (s.setLane i v).pwr = s.pwr := rfl
@[simp] theorem State.setLane_hst (i : Nat) (v : Lane) : (s.setLane i v).hst = s.hst := rfl
@[simp] theorem State.setLane_evt (i : Nat) (v : Lane) : (s.setLane i v).evt = s.evt := rfl
@[simp] theorem State.setLane_fwu (i : Nat) (v : Lane) : (s.setLane i v).fwu = s.fwu := rfl
@[simp] theorem State.setLane_out (i : Nat) (v : Lane) : (s.setLane i v).out = s.out := rfl
@[simp] theorem State.setLane_free (i : Nat) (v : Lane) : (s.setLane i v).free = s.free := rfl
@[simp] theorem State.setLane_pending (i : Nat) (v : Lane) : (s.setLane i v).pending = s.pending := rfl

/-! ## The live injection of LNK page i -/

@[simp] theorem State.setInjLive_regs (i : Nat) (v : Bool) : (s.setInjLive i v).regs = s.regs := rfl
@[simp] theorem State.setInjLive_hbm (i : Nat) (v : Bool) : (s.setInjLive i v).hbm = s.hbm := rfl
@[simp] theorem State.setInjLive_hostMem (i : Nat) (v : Bool) : (s.setInjLive i v).hostMem = s.hostMem := rfl
@[simp] theorem State.setInjLive_poison (i : Nat) (v : Bool) : (s.setInjLive i v).poison = s.poison := rfl
@[simp] theorem State.setInjLive_panel (i : Nat) (v : Bool) : (s.setInjLive i v).panel = s.panel := rfl
@[simp] theorem State.setInjLive_ras (i : Nat) (v : Bool) : (s.setInjLive i v).ras = s.ras := rfl
@[simp] theorem State.setInjLive_cor (i : Nat) (v : Bool) : (s.setInjLive i v).cor = s.cor := rfl
@[simp] theorem State.setInjLive_str (i : Nat) (v : Bool) : (s.setInjLive i v).str = s.str := rfl
@[simp] theorem State.setInjLive_dec (i : Nat) (v : Bool) : (s.setInjLive i v).dec = s.dec := rfl
@[simp] theorem State.setInjLive_asm (i : Nat) (v : Bool) : (s.setInjLive i v).asm = s.asm := rfl
@[simp] theorem State.setInjLive_enc (i : Nat) (v : Bool) : (s.setInjLive i v).enc = s.enc := rfl
@[simp] theorem State.setInjLive_egr (i : Nat) (v : Bool) : (s.setInjLive i v).egr = s.egr := rfl
@[simp] theorem State.setInjLive_tim (i : Nat) (v : Bool) : (s.setInjLive i v).tim = s.tim := rfl
@[simp] theorem State.setInjLive_cue (i : Nat) (v : Bool) : (s.setInjLive i v).cue = s.cue := rfl
@[simp] theorem State.setInjLive_rim (i : Nat) (v : Bool) : (s.setInjLive i v).rim = s.rim := rfl
@[simp] theorem State.setInjLive_cam (i : Nat) (v : Bool) : (s.setInjLive i v).cam = s.cam := rfl
@[simp] theorem State.setInjLive_slc (i : Nat) (v : Bool) : (s.setInjLive i v).slc = s.slc := rfl
@[simp] theorem State.setInjLive_pwr (i : Nat) (v : Bool) : (s.setInjLive i v).pwr = s.pwr := rfl
@[simp] theorem State.setInjLive_hst (i : Nat) (v : Bool) : (s.setInjLive i v).hst = s.hst := rfl
@[simp] theorem State.setInjLive_evt (i : Nat) (v : Bool) : (s.setInjLive i v).evt = s.evt := rfl
@[simp] theorem State.setInjLive_fwu (i : Nat) (v : Bool) : (s.setInjLive i v).fwu = s.fwu := rfl
@[simp] theorem State.setInjLive_out (i : Nat) (v : Bool) : (s.setInjLive i v).out = s.out := rfl
@[simp] theorem State.setInjLive_free (i : Nat) (v : Bool) : (s.setInjLive i v).free = s.free := rfl
@[simp] theorem State.setInjLive_pending (i : Nat) (v : Bool) : (s.setInjLive i v).pending = s.pending := rfl

/-! ## The correction state of lane n -/

@[simp] theorem State.setTileCor_regs (i : Nat) (v : TileCor) : (s.setTileCor i v).regs = s.regs := rfl
@[simp] theorem State.setTileCor_hbm (i : Nat) (v : TileCor) : (s.setTileCor i v).hbm = s.hbm := rfl
@[simp] theorem State.setTileCor_hostMem (i : Nat) (v : TileCor) : (s.setTileCor i v).hostMem = s.hostMem := rfl
@[simp] theorem State.setTileCor_poison (i : Nat) (v : TileCor) : (s.setTileCor i v).poison = s.poison := rfl
@[simp] theorem State.setTileCor_panel (i : Nat) (v : TileCor) : (s.setTileCor i v).panel = s.panel := rfl
@[simp] theorem State.setTileCor_ras (i : Nat) (v : TileCor) : (s.setTileCor i v).ras = s.ras := rfl
@[simp] theorem State.setTileCor_lnk (i : Nat) (v : TileCor) : (s.setTileCor i v).lnk = s.lnk := rfl
@[simp] theorem State.setTileCor_str (i : Nat) (v : TileCor) : (s.setTileCor i v).str = s.str := rfl
@[simp] theorem State.setTileCor_dec (i : Nat) (v : TileCor) : (s.setTileCor i v).dec = s.dec := rfl
@[simp] theorem State.setTileCor_asm (i : Nat) (v : TileCor) : (s.setTileCor i v).asm = s.asm := rfl
@[simp] theorem State.setTileCor_enc (i : Nat) (v : TileCor) : (s.setTileCor i v).enc = s.enc := rfl
@[simp] theorem State.setTileCor_egr (i : Nat) (v : TileCor) : (s.setTileCor i v).egr = s.egr := rfl
@[simp] theorem State.setTileCor_tim (i : Nat) (v : TileCor) : (s.setTileCor i v).tim = s.tim := rfl
@[simp] theorem State.setTileCor_cue (i : Nat) (v : TileCor) : (s.setTileCor i v).cue = s.cue := rfl
@[simp] theorem State.setTileCor_rim (i : Nat) (v : TileCor) : (s.setTileCor i v).rim = s.rim := rfl
@[simp] theorem State.setTileCor_cam (i : Nat) (v : TileCor) : (s.setTileCor i v).cam = s.cam := rfl
@[simp] theorem State.setTileCor_slc (i : Nat) (v : TileCor) : (s.setTileCor i v).slc = s.slc := rfl
@[simp] theorem State.setTileCor_pwr (i : Nat) (v : TileCor) : (s.setTileCor i v).pwr = s.pwr := rfl
@[simp] theorem State.setTileCor_hst (i : Nat) (v : TileCor) : (s.setTileCor i v).hst = s.hst := rfl
@[simp] theorem State.setTileCor_evt (i : Nat) (v : TileCor) : (s.setTileCor i v).evt = s.evt := rfl
@[simp] theorem State.setTileCor_fwu (i : Nat) (v : TileCor) : (s.setTileCor i v).fwu = s.fwu := rfl
@[simp] theorem State.setTileCor_out (i : Nat) (v : TileCor) : (s.setTileCor i v).out = s.out := rfl
@[simp] theorem State.setTileCor_free (i : Nat) (v : TileCor) : (s.setTileCor i v).free = s.free := rfl
@[simp] theorem State.setTileCor_pending (i : Nat) (v : TileCor) : (s.setTileCor i v).pending = s.pending := rfl

/-! ## Stack slot k -/

@[simp] theorem State.setSlot_regs (i : Nat) (v : Slot) : (s.setSlot i v).regs = s.regs := rfl
@[simp] theorem State.setSlot_hbm (i : Nat) (v : Slot) : (s.setSlot i v).hbm = s.hbm := rfl
@[simp] theorem State.setSlot_hostMem (i : Nat) (v : Slot) : (s.setSlot i v).hostMem = s.hostMem := rfl
@[simp] theorem State.setSlot_poison (i : Nat) (v : Slot) : (s.setSlot i v).poison = s.poison := rfl
@[simp] theorem State.setSlot_ras (i : Nat) (v : Slot) : (s.setSlot i v).ras = s.ras := rfl
@[simp] theorem State.setSlot_lnk (i : Nat) (v : Slot) : (s.setSlot i v).lnk = s.lnk := rfl
@[simp] theorem State.setSlot_cor (i : Nat) (v : Slot) : (s.setSlot i v).cor = s.cor := rfl
@[simp] theorem State.setSlot_str (i : Nat) (v : Slot) : (s.setSlot i v).str = s.str := rfl
@[simp] theorem State.setSlot_dec (i : Nat) (v : Slot) : (s.setSlot i v).dec = s.dec := rfl
@[simp] theorem State.setSlot_asm (i : Nat) (v : Slot) : (s.setSlot i v).asm = s.asm := rfl
@[simp] theorem State.setSlot_enc (i : Nat) (v : Slot) : (s.setSlot i v).enc = s.enc := rfl
@[simp] theorem State.setSlot_egr (i : Nat) (v : Slot) : (s.setSlot i v).egr = s.egr := rfl
@[simp] theorem State.setSlot_tim (i : Nat) (v : Slot) : (s.setSlot i v).tim = s.tim := rfl
@[simp] theorem State.setSlot_cue (i : Nat) (v : Slot) : (s.setSlot i v).cue = s.cue := rfl
@[simp] theorem State.setSlot_rim (i : Nat) (v : Slot) : (s.setSlot i v).rim = s.rim := rfl
@[simp] theorem State.setSlot_cam (i : Nat) (v : Slot) : (s.setSlot i v).cam = s.cam := rfl
@[simp] theorem State.setSlot_slc (i : Nat) (v : Slot) : (s.setSlot i v).slc = s.slc := rfl
@[simp] theorem State.setSlot_pwr (i : Nat) (v : Slot) : (s.setSlot i v).pwr = s.pwr := rfl
@[simp] theorem State.setSlot_hst (i : Nat) (v : Slot) : (s.setSlot i v).hst = s.hst := rfl
@[simp] theorem State.setSlot_evt (i : Nat) (v : Slot) : (s.setSlot i v).evt = s.evt := rfl
@[simp] theorem State.setSlot_fwu (i : Nat) (v : Slot) : (s.setSlot i v).fwu = s.fwu := rfl
@[simp] theorem State.setSlot_out (i : Nat) (v : Slot) : (s.setSlot i v).out = s.out := rfl
@[simp] theorem State.setSlot_free (i : Nat) (v : Slot) : (s.setSlot i v).free = s.free := rfl
@[simp] theorem State.setSlot_pending (i : Nat) (v : Slot) : (s.setSlot i v).pending = s.pending := rfl

/-! ## Transfer LUT slot k, empty while unloaded -/

@[simp] theorem State.setLut_regs (i : Nat) (v : List Nat) : (s.setLut i v).regs = s.regs := rfl
@[simp] theorem State.setLut_hbm (i : Nat) (v : List Nat) : (s.setLut i v).hbm = s.hbm := rfl
@[simp] theorem State.setLut_hostMem (i : Nat) (v : List Nat) : (s.setLut i v).hostMem = s.hostMem := rfl
@[simp] theorem State.setLut_poison (i : Nat) (v : List Nat) : (s.setLut i v).poison = s.poison := rfl
@[simp] theorem State.setLut_ras (i : Nat) (v : List Nat) : (s.setLut i v).ras = s.ras := rfl
@[simp] theorem State.setLut_lnk (i : Nat) (v : List Nat) : (s.setLut i v).lnk = s.lnk := rfl
@[simp] theorem State.setLut_cor (i : Nat) (v : List Nat) : (s.setLut i v).cor = s.cor := rfl
@[simp] theorem State.setLut_str (i : Nat) (v : List Nat) : (s.setLut i v).str = s.str := rfl
@[simp] theorem State.setLut_dec (i : Nat) (v : List Nat) : (s.setLut i v).dec = s.dec := rfl
@[simp] theorem State.setLut_asm (i : Nat) (v : List Nat) : (s.setLut i v).asm = s.asm := rfl
@[simp] theorem State.setLut_enc (i : Nat) (v : List Nat) : (s.setLut i v).enc = s.enc := rfl
@[simp] theorem State.setLut_egr (i : Nat) (v : List Nat) : (s.setLut i v).egr = s.egr := rfl
@[simp] theorem State.setLut_tim (i : Nat) (v : List Nat) : (s.setLut i v).tim = s.tim := rfl
@[simp] theorem State.setLut_cue (i : Nat) (v : List Nat) : (s.setLut i v).cue = s.cue := rfl
@[simp] theorem State.setLut_rim (i : Nat) (v : List Nat) : (s.setLut i v).rim = s.rim := rfl
@[simp] theorem State.setLut_cam (i : Nat) (v : List Nat) : (s.setLut i v).cam = s.cam := rfl
@[simp] theorem State.setLut_slc (i : Nat) (v : List Nat) : (s.setLut i v).slc = s.slc := rfl
@[simp] theorem State.setLut_pwr (i : Nat) (v : List Nat) : (s.setLut i v).pwr = s.pwr := rfl
@[simp] theorem State.setLut_hst (i : Nat) (v : List Nat) : (s.setLut i v).hst = s.hst := rfl
@[simp] theorem State.setLut_evt (i : Nat) (v : List Nat) : (s.setLut i v).evt = s.evt := rfl
@[simp] theorem State.setLut_fwu (i : Nat) (v : List Nat) : (s.setLut i v).fwu = s.fwu := rfl
@[simp] theorem State.setLut_out (i : Nat) (v : List Nat) : (s.setLut i v).out = s.out := rfl
@[simp] theorem State.setLut_free (i : Nat) (v : List Nat) : (s.setLut i v).free = s.free := rfl
@[simp] theorem State.setLut_pending (i : Nat) (v : List Nat) : (s.setLut i v).pending = s.pending := rfl

/-! ## Blend slot k, empty while unloaded -/

@[simp] theorem State.setBlendSlot_regs (i : Nat) (v : List Blend) : (s.setBlendSlot i v).regs = s.regs := rfl
@[simp] theorem State.setBlendSlot_hbm (i : Nat) (v : List Blend) : (s.setBlendSlot i v).hbm = s.hbm := rfl
@[simp] theorem State.setBlendSlot_hostMem (i : Nat) (v : List Blend) : (s.setBlendSlot i v).hostMem = s.hostMem := rfl
@[simp] theorem State.setBlendSlot_poison (i : Nat) (v : List Blend) : (s.setBlendSlot i v).poison = s.poison := rfl
@[simp] theorem State.setBlendSlot_ras (i : Nat) (v : List Blend) : (s.setBlendSlot i v).ras = s.ras := rfl
@[simp] theorem State.setBlendSlot_lnk (i : Nat) (v : List Blend) : (s.setBlendSlot i v).lnk = s.lnk := rfl
@[simp] theorem State.setBlendSlot_cor (i : Nat) (v : List Blend) : (s.setBlendSlot i v).cor = s.cor := rfl
@[simp] theorem State.setBlendSlot_str (i : Nat) (v : List Blend) : (s.setBlendSlot i v).str = s.str := rfl
@[simp] theorem State.setBlendSlot_dec (i : Nat) (v : List Blend) : (s.setBlendSlot i v).dec = s.dec := rfl
@[simp] theorem State.setBlendSlot_asm (i : Nat) (v : List Blend) : (s.setBlendSlot i v).asm = s.asm := rfl
@[simp] theorem State.setBlendSlot_enc (i : Nat) (v : List Blend) : (s.setBlendSlot i v).enc = s.enc := rfl
@[simp] theorem State.setBlendSlot_egr (i : Nat) (v : List Blend) : (s.setBlendSlot i v).egr = s.egr := rfl
@[simp] theorem State.setBlendSlot_tim (i : Nat) (v : List Blend) : (s.setBlendSlot i v).tim = s.tim := rfl
@[simp] theorem State.setBlendSlot_cue (i : Nat) (v : List Blend) : (s.setBlendSlot i v).cue = s.cue := rfl
@[simp] theorem State.setBlendSlot_rim (i : Nat) (v : List Blend) : (s.setBlendSlot i v).rim = s.rim := rfl
@[simp] theorem State.setBlendSlot_cam (i : Nat) (v : List Blend) : (s.setBlendSlot i v).cam = s.cam := rfl
@[simp] theorem State.setBlendSlot_slc (i : Nat) (v : List Blend) : (s.setBlendSlot i v).slc = s.slc := rfl
@[simp] theorem State.setBlendSlot_pwr (i : Nat) (v : List Blend) : (s.setBlendSlot i v).pwr = s.pwr := rfl
@[simp] theorem State.setBlendSlot_hst (i : Nat) (v : List Blend) : (s.setBlendSlot i v).hst = s.hst := rfl
@[simp] theorem State.setBlendSlot_evt (i : Nat) (v : List Blend) : (s.setBlendSlot i v).evt = s.evt := rfl
@[simp] theorem State.setBlendSlot_fwu (i : Nat) (v : List Blend) : (s.setBlendSlot i v).fwu = s.fwu := rfl
@[simp] theorem State.setBlendSlot_out (i : Nat) (v : List Blend) : (s.setBlendSlot i v).out = s.out := rfl
@[simp] theorem State.setBlendSlot_free (i : Nat) (v : List Blend) : (s.setBlendSlot i v).free = s.free := rfl
@[simp] theorem State.setBlendSlot_pending (i : Nat) (v : List Blend) : (s.setBlendSlot i v).pending = s.pending := rfl

/-! ## A loaded output LUT, key 3·lane + channel; empty: reset contents -/

@[simp] theorem State.setOutLut_regs (i : Nat) (v : List Nat) : (s.setOutLut i v).regs = s.regs := rfl
@[simp] theorem State.setOutLut_hbm (i : Nat) (v : List Nat) : (s.setOutLut i v).hbm = s.hbm := rfl
@[simp] theorem State.setOutLut_hostMem (i : Nat) (v : List Nat) : (s.setOutLut i v).hostMem = s.hostMem := rfl
@[simp] theorem State.setOutLut_poison (i : Nat) (v : List Nat) : (s.setOutLut i v).poison = s.poison := rfl
@[simp] theorem State.setOutLut_ras (i : Nat) (v : List Nat) : (s.setOutLut i v).ras = s.ras := rfl
@[simp] theorem State.setOutLut_lnk (i : Nat) (v : List Nat) : (s.setOutLut i v).lnk = s.lnk := rfl
@[simp] theorem State.setOutLut_cor (i : Nat) (v : List Nat) : (s.setOutLut i v).cor = s.cor := rfl
@[simp] theorem State.setOutLut_str (i : Nat) (v : List Nat) : (s.setOutLut i v).str = s.str := rfl
@[simp] theorem State.setOutLut_dec (i : Nat) (v : List Nat) : (s.setOutLut i v).dec = s.dec := rfl
@[simp] theorem State.setOutLut_asm (i : Nat) (v : List Nat) : (s.setOutLut i v).asm = s.asm := rfl
@[simp] theorem State.setOutLut_enc (i : Nat) (v : List Nat) : (s.setOutLut i v).enc = s.enc := rfl
@[simp] theorem State.setOutLut_egr (i : Nat) (v : List Nat) : (s.setOutLut i v).egr = s.egr := rfl
@[simp] theorem State.setOutLut_tim (i : Nat) (v : List Nat) : (s.setOutLut i v).tim = s.tim := rfl
@[simp] theorem State.setOutLut_cue (i : Nat) (v : List Nat) : (s.setOutLut i v).cue = s.cue := rfl
@[simp] theorem State.setOutLut_rim (i : Nat) (v : List Nat) : (s.setOutLut i v).rim = s.rim := rfl
@[simp] theorem State.setOutLut_cam (i : Nat) (v : List Nat) : (s.setOutLut i v).cam = s.cam := rfl
@[simp] theorem State.setOutLut_slc (i : Nat) (v : List Nat) : (s.setOutLut i v).slc = s.slc := rfl
@[simp] theorem State.setOutLut_pwr (i : Nat) (v : List Nat) : (s.setOutLut i v).pwr = s.pwr := rfl
@[simp] theorem State.setOutLut_hst (i : Nat) (v : List Nat) : (s.setOutLut i v).hst = s.hst := rfl
@[simp] theorem State.setOutLut_evt (i : Nat) (v : List Nat) : (s.setOutLut i v).evt = s.evt := rfl
@[simp] theorem State.setOutLut_fwu (i : Nat) (v : List Nat) : (s.setOutLut i v).fwu = s.fwu := rfl
@[simp] theorem State.setOutLut_out (i : Nat) (v : List Nat) : (s.setOutLut i v).out = s.out := rfl
@[simp] theorem State.setOutLut_free (i : Nat) (v : List Nat) : (s.setOutLut i v).free = s.free := rfl
@[simp] theorem State.setOutLut_pending (i : Nat) (v : List Nat) : (s.setOutLut i v).pending = s.pending := rfl

/-! ## Stream context i -/

@[simp] theorem State.setCtx_regs (i : Nat) (v : Ctx) : (s.setCtx i v).regs = s.regs := rfl
@[simp] theorem State.setCtx_hbm (i : Nat) (v : Ctx) : (s.setCtx i v).hbm = s.hbm := rfl
@[simp] theorem State.setCtx_hostMem (i : Nat) (v : Ctx) : (s.setCtx i v).hostMem = s.hostMem := rfl
@[simp] theorem State.setCtx_poison (i : Nat) (v : Ctx) : (s.setCtx i v).poison = s.poison := rfl
@[simp] theorem State.setCtx_panel (i : Nat) (v : Ctx) : (s.setCtx i v).panel = s.panel := rfl
@[simp] theorem State.setCtx_ras (i : Nat) (v : Ctx) : (s.setCtx i v).ras = s.ras := rfl
@[simp] theorem State.setCtx_lnk (i : Nat) (v : Ctx) : (s.setCtx i v).lnk = s.lnk := rfl
@[simp] theorem State.setCtx_cor (i : Nat) (v : Ctx) : (s.setCtx i v).cor = s.cor := rfl
@[simp] theorem State.setCtx_dec (i : Nat) (v : Ctx) : (s.setCtx i v).dec = s.dec := rfl
@[simp] theorem State.setCtx_asm (i : Nat) (v : Ctx) : (s.setCtx i v).asm = s.asm := rfl
@[simp] theorem State.setCtx_enc (i : Nat) (v : Ctx) : (s.setCtx i v).enc = s.enc := rfl
@[simp] theorem State.setCtx_egr (i : Nat) (v : Ctx) : (s.setCtx i v).egr = s.egr := rfl
@[simp] theorem State.setCtx_tim (i : Nat) (v : Ctx) : (s.setCtx i v).tim = s.tim := rfl
@[simp] theorem State.setCtx_cue (i : Nat) (v : Ctx) : (s.setCtx i v).cue = s.cue := rfl
@[simp] theorem State.setCtx_rim (i : Nat) (v : Ctx) : (s.setCtx i v).rim = s.rim := rfl
@[simp] theorem State.setCtx_cam (i : Nat) (v : Ctx) : (s.setCtx i v).cam = s.cam := rfl
@[simp] theorem State.setCtx_slc (i : Nat) (v : Ctx) : (s.setCtx i v).slc = s.slc := rfl
@[simp] theorem State.setCtx_pwr (i : Nat) (v : Ctx) : (s.setCtx i v).pwr = s.pwr := rfl
@[simp] theorem State.setCtx_hst (i : Nat) (v : Ctx) : (s.setCtx i v).hst = s.hst := rfl
@[simp] theorem State.setCtx_evt (i : Nat) (v : Ctx) : (s.setCtx i v).evt = s.evt := rfl
@[simp] theorem State.setCtx_fwu (i : Nat) (v : Ctx) : (s.setCtx i v).fwu = s.fwu := rfl
@[simp] theorem State.setCtx_out (i : Nat) (v : Ctx) : (s.setCtx i v).out = s.out := rfl
@[simp] theorem State.setCtx_free (i : Nat) (v : Ctx) : (s.setCtx i v).free = s.free := rfl
@[simp] theorem State.setCtx_pending (i : Nat) (v : Ctx) : (s.setCtx i v).pending = s.pending := rfl

/-! ## The binding of context i -/

@[simp] theorem State.setBinding_regs (i : Nat) (v : Binding) : (s.setBinding i v).regs = s.regs := rfl
@[simp] theorem State.setBinding_hbm (i : Nat) (v : Binding) : (s.setBinding i v).hbm = s.hbm := rfl
@[simp] theorem State.setBinding_hostMem (i : Nat) (v : Binding) : (s.setBinding i v).hostMem = s.hostMem := rfl
@[simp] theorem State.setBinding_poison (i : Nat) (v : Binding) : (s.setBinding i v).poison = s.poison := rfl
@[simp] theorem State.setBinding_panel (i : Nat) (v : Binding) : (s.setBinding i v).panel = s.panel := rfl
@[simp] theorem State.setBinding_ras (i : Nat) (v : Binding) : (s.setBinding i v).ras = s.ras := rfl
@[simp] theorem State.setBinding_lnk (i : Nat) (v : Binding) : (s.setBinding i v).lnk = s.lnk := rfl
@[simp] theorem State.setBinding_cor (i : Nat) (v : Binding) : (s.setBinding i v).cor = s.cor := rfl
@[simp] theorem State.setBinding_str (i : Nat) (v : Binding) : (s.setBinding i v).str = s.str := rfl
@[simp] theorem State.setBinding_asm (i : Nat) (v : Binding) : (s.setBinding i v).asm = s.asm := rfl
@[simp] theorem State.setBinding_enc (i : Nat) (v : Binding) : (s.setBinding i v).enc = s.enc := rfl
@[simp] theorem State.setBinding_egr (i : Nat) (v : Binding) : (s.setBinding i v).egr = s.egr := rfl
@[simp] theorem State.setBinding_tim (i : Nat) (v : Binding) : (s.setBinding i v).tim = s.tim := rfl
@[simp] theorem State.setBinding_cue (i : Nat) (v : Binding) : (s.setBinding i v).cue = s.cue := rfl
@[simp] theorem State.setBinding_rim (i : Nat) (v : Binding) : (s.setBinding i v).rim = s.rim := rfl
@[simp] theorem State.setBinding_cam (i : Nat) (v : Binding) : (s.setBinding i v).cam = s.cam := rfl
@[simp] theorem State.setBinding_slc (i : Nat) (v : Binding) : (s.setBinding i v).slc = s.slc := rfl
@[simp] theorem State.setBinding_pwr (i : Nat) (v : Binding) : (s.setBinding i v).pwr = s.pwr := rfl
@[simp] theorem State.setBinding_hst (i : Nat) (v : Binding) : (s.setBinding i v).hst = s.hst := rfl
@[simp] theorem State.setBinding_evt (i : Nat) (v : Binding) : (s.setBinding i v).evt = s.evt := rfl
@[simp] theorem State.setBinding_fwu (i : Nat) (v : Binding) : (s.setBinding i v).fwu = s.fwu := rfl
@[simp] theorem State.setBinding_out (i : Nat) (v : Binding) : (s.setBinding i v).out = s.out := rfl
@[simp] theorem State.setBinding_free (i : Nat) (v : Binding) : (s.setBinding i v).free = s.free := rfl
@[simp] theorem State.setBinding_pending (i : Nat) (v : Binding) : (s.setBinding i v).pending = s.pending := rfl

/-! ## Plane i -/

@[simp] theorem State.setPlane_regs (i : Nat) (v : Plane) : (s.setPlane i v).regs = s.regs := rfl
@[simp] theorem State.setPlane_hbm (i : Nat) (v : Plane) : (s.setPlane i v).hbm = s.hbm := rfl
@[simp] theorem State.setPlane_hostMem (i : Nat) (v : Plane) : (s.setPlane i v).hostMem = s.hostMem := rfl
@[simp] theorem State.setPlane_poison (i : Nat) (v : Plane) : (s.setPlane i v).poison = s.poison := rfl
@[simp] theorem State.setPlane_panel (i : Nat) (v : Plane) : (s.setPlane i v).panel = s.panel := rfl
@[simp] theorem State.setPlane_ras (i : Nat) (v : Plane) : (s.setPlane i v).ras = s.ras := rfl
@[simp] theorem State.setPlane_lnk (i : Nat) (v : Plane) : (s.setPlane i v).lnk = s.lnk := rfl
@[simp] theorem State.setPlane_cor (i : Nat) (v : Plane) : (s.setPlane i v).cor = s.cor := rfl
@[simp] theorem State.setPlane_str (i : Nat) (v : Plane) : (s.setPlane i v).str = s.str := rfl
@[simp] theorem State.setPlane_dec (i : Nat) (v : Plane) : (s.setPlane i v).dec = s.dec := rfl
@[simp] theorem State.setPlane_enc (i : Nat) (v : Plane) : (s.setPlane i v).enc = s.enc := rfl
@[simp] theorem State.setPlane_egr (i : Nat) (v : Plane) : (s.setPlane i v).egr = s.egr := rfl
@[simp] theorem State.setPlane_tim (i : Nat) (v : Plane) : (s.setPlane i v).tim = s.tim := rfl
@[simp] theorem State.setPlane_cue (i : Nat) (v : Plane) : (s.setPlane i v).cue = s.cue := rfl
@[simp] theorem State.setPlane_rim (i : Nat) (v : Plane) : (s.setPlane i v).rim = s.rim := rfl
@[simp] theorem State.setPlane_cam (i : Nat) (v : Plane) : (s.setPlane i v).cam = s.cam := rfl
@[simp] theorem State.setPlane_slc (i : Nat) (v : Plane) : (s.setPlane i v).slc = s.slc := rfl
@[simp] theorem State.setPlane_pwr (i : Nat) (v : Plane) : (s.setPlane i v).pwr = s.pwr := rfl
@[simp] theorem State.setPlane_hst (i : Nat) (v : Plane) : (s.setPlane i v).hst = s.hst := rfl
@[simp] theorem State.setPlane_evt (i : Nat) (v : Plane) : (s.setPlane i v).evt = s.evt := rfl
@[simp] theorem State.setPlane_fwu (i : Nat) (v : Plane) : (s.setPlane i v).fwu = s.fwu := rfl
@[simp] theorem State.setPlane_out (i : Nat) (v : Plane) : (s.setPlane i v).out = s.out := rfl
@[simp] theorem State.setPlane_free (i : Nat) (v : Plane) : (s.setPlane i v).free = s.free := rfl
@[simp] theorem State.setPlane_pending (i : Nat) (v : Plane) : (s.setPlane i v).pending = s.pending := rfl

/-! ## Window i -/

@[simp] theorem State.setWin_regs (i : Nat) (v : Option Win) : (s.setWin i v).regs = s.regs := rfl
@[simp] theorem State.setWin_hbm (i : Nat) (v : Option Win) : (s.setWin i v).hbm = s.hbm := rfl
@[simp] theorem State.setWin_hostMem (i : Nat) (v : Option Win) : (s.setWin i v).hostMem = s.hostMem := rfl
@[simp] theorem State.setWin_poison (i : Nat) (v : Option Win) : (s.setWin i v).poison = s.poison := rfl
@[simp] theorem State.setWin_panel (i : Nat) (v : Option Win) : (s.setWin i v).panel = s.panel := rfl
@[simp] theorem State.setWin_ras (i : Nat) (v : Option Win) : (s.setWin i v).ras = s.ras := rfl
@[simp] theorem State.setWin_lnk (i : Nat) (v : Option Win) : (s.setWin i v).lnk = s.lnk := rfl
@[simp] theorem State.setWin_cor (i : Nat) (v : Option Win) : (s.setWin i v).cor = s.cor := rfl
@[simp] theorem State.setWin_str (i : Nat) (v : Option Win) : (s.setWin i v).str = s.str := rfl
@[simp] theorem State.setWin_dec (i : Nat) (v : Option Win) : (s.setWin i v).dec = s.dec := rfl
@[simp] theorem State.setWin_enc (i : Nat) (v : Option Win) : (s.setWin i v).enc = s.enc := rfl
@[simp] theorem State.setWin_egr (i : Nat) (v : Option Win) : (s.setWin i v).egr = s.egr := rfl
@[simp] theorem State.setWin_tim (i : Nat) (v : Option Win) : (s.setWin i v).tim = s.tim := rfl
@[simp] theorem State.setWin_cue (i : Nat) (v : Option Win) : (s.setWin i v).cue = s.cue := rfl
@[simp] theorem State.setWin_rim (i : Nat) (v : Option Win) : (s.setWin i v).rim = s.rim := rfl
@[simp] theorem State.setWin_cam (i : Nat) (v : Option Win) : (s.setWin i v).cam = s.cam := rfl
@[simp] theorem State.setWin_slc (i : Nat) (v : Option Win) : (s.setWin i v).slc = s.slc := rfl
@[simp] theorem State.setWin_pwr (i : Nat) (v : Option Win) : (s.setWin i v).pwr = s.pwr := rfl
@[simp] theorem State.setWin_hst (i : Nat) (v : Option Win) : (s.setWin i v).hst = s.hst := rfl
@[simp] theorem State.setWin_evt (i : Nat) (v : Option Win) : (s.setWin i v).evt = s.evt := rfl
@[simp] theorem State.setWin_fwu (i : Nat) (v : Option Win) : (s.setWin i v).fwu = s.fwu := rfl
@[simp] theorem State.setWin_out (i : Nat) (v : Option Win) : (s.setWin i v).out = s.out := rfl
@[simp] theorem State.setWin_free (i : Nat) (v : Option Win) : (s.setWin i v).free = s.free := rfl
@[simp] theorem State.setWin_pending (i : Nat) (v : Option Win) : (s.setWin i v).pending = s.pending := rfl

/-! ## Loaded coefficient set i -/

@[simp] theorem State.setCoef_regs (i : Nat) (v : Option CoefSet) : (s.setCoef i v).regs = s.regs := rfl
@[simp] theorem State.setCoef_hbm (i : Nat) (v : Option CoefSet) : (s.setCoef i v).hbm = s.hbm := rfl
@[simp] theorem State.setCoef_hostMem (i : Nat) (v : Option CoefSet) : (s.setCoef i v).hostMem = s.hostMem := rfl
@[simp] theorem State.setCoef_poison (i : Nat) (v : Option CoefSet) : (s.setCoef i v).poison = s.poison := rfl
@[simp] theorem State.setCoef_panel (i : Nat) (v : Option CoefSet) : (s.setCoef i v).panel = s.panel := rfl
@[simp] theorem State.setCoef_ras (i : Nat) (v : Option CoefSet) : (s.setCoef i v).ras = s.ras := rfl
@[simp] theorem State.setCoef_lnk (i : Nat) (v : Option CoefSet) : (s.setCoef i v).lnk = s.lnk := rfl
@[simp] theorem State.setCoef_cor (i : Nat) (v : Option CoefSet) : (s.setCoef i v).cor = s.cor := rfl
@[simp] theorem State.setCoef_str (i : Nat) (v : Option CoefSet) : (s.setCoef i v).str = s.str := rfl
@[simp] theorem State.setCoef_dec (i : Nat) (v : Option CoefSet) : (s.setCoef i v).dec = s.dec := rfl
@[simp] theorem State.setCoef_enc (i : Nat) (v : Option CoefSet) : (s.setCoef i v).enc = s.enc := rfl
@[simp] theorem State.setCoef_egr (i : Nat) (v : Option CoefSet) : (s.setCoef i v).egr = s.egr := rfl
@[simp] theorem State.setCoef_tim (i : Nat) (v : Option CoefSet) : (s.setCoef i v).tim = s.tim := rfl
@[simp] theorem State.setCoef_cue (i : Nat) (v : Option CoefSet) : (s.setCoef i v).cue = s.cue := rfl
@[simp] theorem State.setCoef_rim (i : Nat) (v : Option CoefSet) : (s.setCoef i v).rim = s.rim := rfl
@[simp] theorem State.setCoef_cam (i : Nat) (v : Option CoefSet) : (s.setCoef i v).cam = s.cam := rfl
@[simp] theorem State.setCoef_slc (i : Nat) (v : Option CoefSet) : (s.setCoef i v).slc = s.slc := rfl
@[simp] theorem State.setCoef_pwr (i : Nat) (v : Option CoefSet) : (s.setCoef i v).pwr = s.pwr := rfl
@[simp] theorem State.setCoef_hst (i : Nat) (v : Option CoefSet) : (s.setCoef i v).hst = s.hst := rfl
@[simp] theorem State.setCoef_evt (i : Nat) (v : Option CoefSet) : (s.setCoef i v).evt = s.evt := rfl
@[simp] theorem State.setCoef_fwu (i : Nat) (v : Option CoefSet) : (s.setCoef i v).fwu = s.fwu := rfl
@[simp] theorem State.setCoef_out (i : Nat) (v : Option CoefSet) : (s.setCoef i v).out = s.out := rfl
@[simp] theorem State.setCoef_free (i : Nat) (v : Option CoefSet) : (s.setCoef i v).free = s.free := rfl
@[simp] theorem State.setCoef_pending (i : Nat) (v : Option CoefSet) : (s.setCoef i v).pending = s.pending := rfl

/-! ## Encode session i -/

@[simp] theorem State.setSess_regs (i : Nat) (v : Session) : (s.setSess i v).regs = s.regs := rfl
@[simp] theorem State.setSess_hbm (i : Nat) (v : Session) : (s.setSess i v).hbm = s.hbm := rfl
@[simp] theorem State.setSess_hostMem (i : Nat) (v : Session) : (s.setSess i v).hostMem = s.hostMem := rfl
@[simp] theorem State.setSess_poison (i : Nat) (v : Session) : (s.setSess i v).poison = s.poison := rfl
@[simp] theorem State.setSess_panel (i : Nat) (v : Session) : (s.setSess i v).panel = s.panel := rfl
@[simp] theorem State.setSess_ras (i : Nat) (v : Session) : (s.setSess i v).ras = s.ras := rfl
@[simp] theorem State.setSess_lnk (i : Nat) (v : Session) : (s.setSess i v).lnk = s.lnk := rfl
@[simp] theorem State.setSess_cor (i : Nat) (v : Session) : (s.setSess i v).cor = s.cor := rfl
@[simp] theorem State.setSess_str (i : Nat) (v : Session) : (s.setSess i v).str = s.str := rfl
@[simp] theorem State.setSess_dec (i : Nat) (v : Session) : (s.setSess i v).dec = s.dec := rfl
@[simp] theorem State.setSess_asm (i : Nat) (v : Session) : (s.setSess i v).asm = s.asm := rfl
@[simp] theorem State.setSess_egr (i : Nat) (v : Session) : (s.setSess i v).egr = s.egr := rfl
@[simp] theorem State.setSess_tim (i : Nat) (v : Session) : (s.setSess i v).tim = s.tim := rfl
@[simp] theorem State.setSess_cue (i : Nat) (v : Session) : (s.setSess i v).cue = s.cue := rfl
@[simp] theorem State.setSess_rim (i : Nat) (v : Session) : (s.setSess i v).rim = s.rim := rfl
@[simp] theorem State.setSess_cam (i : Nat) (v : Session) : (s.setSess i v).cam = s.cam := rfl
@[simp] theorem State.setSess_slc (i : Nat) (v : Session) : (s.setSess i v).slc = s.slc := rfl
@[simp] theorem State.setSess_pwr (i : Nat) (v : Session) : (s.setSess i v).pwr = s.pwr := rfl
@[simp] theorem State.setSess_hst (i : Nat) (v : Session) : (s.setSess i v).hst = s.hst := rfl
@[simp] theorem State.setSess_evt (i : Nat) (v : Session) : (s.setSess i v).evt = s.evt := rfl
@[simp] theorem State.setSess_fwu (i : Nat) (v : Session) : (s.setSess i v).fwu = s.fwu := rfl
@[simp] theorem State.setSess_out (i : Nat) (v : Session) : (s.setSess i v).out = s.out := rfl
@[simp] theorem State.setSess_free (i : Nat) (v : Session) : (s.setSess i v).free = s.free := rfl
@[simp] theorem State.setSess_pending (i : Nat) (v : Session) : (s.setSess i v).pending = s.pending := rfl

/-! ## Egress subscriber i -/

@[simp] theorem State.setSub_regs (i : Nat) (v : Sub) : (s.setSub i v).regs = s.regs := rfl
@[simp] theorem State.setSub_hbm (i : Nat) (v : Sub) : (s.setSub i v).hbm = s.hbm := rfl
@[simp] theorem State.setSub_hostMem (i : Nat) (v : Sub) : (s.setSub i v).hostMem = s.hostMem := rfl
@[simp] theorem State.setSub_poison (i : Nat) (v : Sub) : (s.setSub i v).poison = s.poison := rfl
@[simp] theorem State.setSub_panel (i : Nat) (v : Sub) : (s.setSub i v).panel = s.panel := rfl
@[simp] theorem State.setSub_ras (i : Nat) (v : Sub) : (s.setSub i v).ras = s.ras := rfl
@[simp] theorem State.setSub_lnk (i : Nat) (v : Sub) : (s.setSub i v).lnk = s.lnk := rfl
@[simp] theorem State.setSub_cor (i : Nat) (v : Sub) : (s.setSub i v).cor = s.cor := rfl
@[simp] theorem State.setSub_str (i : Nat) (v : Sub) : (s.setSub i v).str = s.str := rfl
@[simp] theorem State.setSub_dec (i : Nat) (v : Sub) : (s.setSub i v).dec = s.dec := rfl
@[simp] theorem State.setSub_asm (i : Nat) (v : Sub) : (s.setSub i v).asm = s.asm := rfl
@[simp] theorem State.setSub_enc (i : Nat) (v : Sub) : (s.setSub i v).enc = s.enc := rfl
@[simp] theorem State.setSub_tim (i : Nat) (v : Sub) : (s.setSub i v).tim = s.tim := rfl
@[simp] theorem State.setSub_cue (i : Nat) (v : Sub) : (s.setSub i v).cue = s.cue := rfl
@[simp] theorem State.setSub_rim (i : Nat) (v : Sub) : (s.setSub i v).rim = s.rim := rfl
@[simp] theorem State.setSub_cam (i : Nat) (v : Sub) : (s.setSub i v).cam = s.cam := rfl
@[simp] theorem State.setSub_slc (i : Nat) (v : Sub) : (s.setSub i v).slc = s.slc := rfl
@[simp] theorem State.setSub_pwr (i : Nat) (v : Sub) : (s.setSub i v).pwr = s.pwr := rfl
@[simp] theorem State.setSub_hst (i : Nat) (v : Sub) : (s.setSub i v).hst = s.hst := rfl
@[simp] theorem State.setSub_evt (i : Nat) (v : Sub) : (s.setSub i v).evt = s.evt := rfl
@[simp] theorem State.setSub_fwu (i : Nat) (v : Sub) : (s.setSub i v).fwu = s.fwu := rfl
@[simp] theorem State.setSub_out (i : Nat) (v : Sub) : (s.setSub i v).out = s.out := rfl
@[simp] theorem State.setSub_free (i : Nat) (v : Sub) : (s.setSub i v).free = s.free := rfl
@[simp] theorem State.setSub_pending (i : Nat) (v : Sub) : (s.setSub i v).pending = s.pending := rfl

/-! ## Egress queue i -/

@[simp] theorem State.setQueue_regs (i : Nat) (v : Queue) : (s.setQueue i v).regs = s.regs := rfl
@[simp] theorem State.setQueue_hbm (i : Nat) (v : Queue) : (s.setQueue i v).hbm = s.hbm := rfl
@[simp] theorem State.setQueue_hostMem (i : Nat) (v : Queue) : (s.setQueue i v).hostMem = s.hostMem := rfl
@[simp] theorem State.setQueue_poison (i : Nat) (v : Queue) : (s.setQueue i v).poison = s.poison := rfl
@[simp] theorem State.setQueue_panel (i : Nat) (v : Queue) : (s.setQueue i v).panel = s.panel := rfl
@[simp] theorem State.setQueue_ras (i : Nat) (v : Queue) : (s.setQueue i v).ras = s.ras := rfl
@[simp] theorem State.setQueue_lnk (i : Nat) (v : Queue) : (s.setQueue i v).lnk = s.lnk := rfl
@[simp] theorem State.setQueue_cor (i : Nat) (v : Queue) : (s.setQueue i v).cor = s.cor := rfl
@[simp] theorem State.setQueue_str (i : Nat) (v : Queue) : (s.setQueue i v).str = s.str := rfl
@[simp] theorem State.setQueue_dec (i : Nat) (v : Queue) : (s.setQueue i v).dec = s.dec := rfl
@[simp] theorem State.setQueue_asm (i : Nat) (v : Queue) : (s.setQueue i v).asm = s.asm := rfl
@[simp] theorem State.setQueue_enc (i : Nat) (v : Queue) : (s.setQueue i v).enc = s.enc := rfl
@[simp] theorem State.setQueue_tim (i : Nat) (v : Queue) : (s.setQueue i v).tim = s.tim := rfl
@[simp] theorem State.setQueue_cue (i : Nat) (v : Queue) : (s.setQueue i v).cue = s.cue := rfl
@[simp] theorem State.setQueue_rim (i : Nat) (v : Queue) : (s.setQueue i v).rim = s.rim := rfl
@[simp] theorem State.setQueue_cam (i : Nat) (v : Queue) : (s.setQueue i v).cam = s.cam := rfl
@[simp] theorem State.setQueue_slc (i : Nat) (v : Queue) : (s.setQueue i v).slc = s.slc := rfl
@[simp] theorem State.setQueue_pwr (i : Nat) (v : Queue) : (s.setQueue i v).pwr = s.pwr := rfl
@[simp] theorem State.setQueue_hst (i : Nat) (v : Queue) : (s.setQueue i v).hst = s.hst := rfl
@[simp] theorem State.setQueue_evt (i : Nat) (v : Queue) : (s.setQueue i v).evt = s.evt := rfl
@[simp] theorem State.setQueue_fwu (i : Nat) (v : Queue) : (s.setQueue i v).fwu = s.fwu := rfl
@[simp] theorem State.setQueue_out (i : Nat) (v : Queue) : (s.setQueue i v).out = s.out := rfl
@[simp] theorem State.setQueue_free (i : Nat) (v : Queue) : (s.setQueue i v).free = s.free := rfl
@[simp] theorem State.setQueue_pending (i : Nat) (v : Queue) : (s.setQueue i v).pending = s.pending := rfl

/-! ## Egress port p -/

@[simp] theorem State.setEport_regs (i : Nat) (v : EgrPort) : (s.setEport i v).regs = s.regs := rfl
@[simp] theorem State.setEport_hbm (i : Nat) (v : EgrPort) : (s.setEport i v).hbm = s.hbm := rfl
@[simp] theorem State.setEport_hostMem (i : Nat) (v : EgrPort) : (s.setEport i v).hostMem = s.hostMem := rfl
@[simp] theorem State.setEport_poison (i : Nat) (v : EgrPort) : (s.setEport i v).poison = s.poison := rfl
@[simp] theorem State.setEport_panel (i : Nat) (v : EgrPort) : (s.setEport i v).panel = s.panel := rfl
@[simp] theorem State.setEport_ras (i : Nat) (v : EgrPort) : (s.setEport i v).ras = s.ras := rfl
@[simp] theorem State.setEport_lnk (i : Nat) (v : EgrPort) : (s.setEport i v).lnk = s.lnk := rfl
@[simp] theorem State.setEport_cor (i : Nat) (v : EgrPort) : (s.setEport i v).cor = s.cor := rfl
@[simp] theorem State.setEport_str (i : Nat) (v : EgrPort) : (s.setEport i v).str = s.str := rfl
@[simp] theorem State.setEport_dec (i : Nat) (v : EgrPort) : (s.setEport i v).dec = s.dec := rfl
@[simp] theorem State.setEport_asm (i : Nat) (v : EgrPort) : (s.setEport i v).asm = s.asm := rfl
@[simp] theorem State.setEport_enc (i : Nat) (v : EgrPort) : (s.setEport i v).enc = s.enc := rfl
@[simp] theorem State.setEport_tim (i : Nat) (v : EgrPort) : (s.setEport i v).tim = s.tim := rfl
@[simp] theorem State.setEport_cue (i : Nat) (v : EgrPort) : (s.setEport i v).cue = s.cue := rfl
@[simp] theorem State.setEport_rim (i : Nat) (v : EgrPort) : (s.setEport i v).rim = s.rim := rfl
@[simp] theorem State.setEport_cam (i : Nat) (v : EgrPort) : (s.setEport i v).cam = s.cam := rfl
@[simp] theorem State.setEport_slc (i : Nat) (v : EgrPort) : (s.setEport i v).slc = s.slc := rfl
@[simp] theorem State.setEport_pwr (i : Nat) (v : EgrPort) : (s.setEport i v).pwr = s.pwr := rfl
@[simp] theorem State.setEport_hst (i : Nat) (v : EgrPort) : (s.setEport i v).hst = s.hst := rfl
@[simp] theorem State.setEport_evt (i : Nat) (v : EgrPort) : (s.setEport i v).evt = s.evt := rfl
@[simp] theorem State.setEport_fwu (i : Nat) (v : EgrPort) : (s.setEport i v).fwu = s.fwu := rfl
@[simp] theorem State.setEport_out (i : Nat) (v : EgrPort) : (s.setEport i v).out = s.out := rfl
@[simp] theorem State.setEport_free (i : Nat) (v : EgrPort) : (s.setEport i v).free = s.free := rfl
@[simp] theorem State.setEport_pending (i : Nat) (v : EgrPort) : (s.setEport i v).pending = s.pending := rfl

/-! ## The transmit timestamp queue of port p -/

@[simp] theorem State.setTxq_regs (i : Nat) (v : List TxStamp) : (s.setTxq i v).regs = s.regs := rfl
@[simp] theorem State.setTxq_hbm (i : Nat) (v : List TxStamp) : (s.setTxq i v).hbm = s.hbm := rfl
@[simp] theorem State.setTxq_hostMem (i : Nat) (v : List TxStamp) : (s.setTxq i v).hostMem = s.hostMem := rfl
@[simp] theorem State.setTxq_poison (i : Nat) (v : List TxStamp) : (s.setTxq i v).poison = s.poison := rfl
@[simp] theorem State.setTxq_panel (i : Nat) (v : List TxStamp) : (s.setTxq i v).panel = s.panel := rfl
@[simp] theorem State.setTxq_ras (i : Nat) (v : List TxStamp) : (s.setTxq i v).ras = s.ras := rfl
@[simp] theorem State.setTxq_lnk (i : Nat) (v : List TxStamp) : (s.setTxq i v).lnk = s.lnk := rfl
@[simp] theorem State.setTxq_cor (i : Nat) (v : List TxStamp) : (s.setTxq i v).cor = s.cor := rfl
@[simp] theorem State.setTxq_str (i : Nat) (v : List TxStamp) : (s.setTxq i v).str = s.str := rfl
@[simp] theorem State.setTxq_dec (i : Nat) (v : List TxStamp) : (s.setTxq i v).dec = s.dec := rfl
@[simp] theorem State.setTxq_asm (i : Nat) (v : List TxStamp) : (s.setTxq i v).asm = s.asm := rfl
@[simp] theorem State.setTxq_enc (i : Nat) (v : List TxStamp) : (s.setTxq i v).enc = s.enc := rfl
@[simp] theorem State.setTxq_egr (i : Nat) (v : List TxStamp) : (s.setTxq i v).egr = s.egr := rfl
@[simp] theorem State.setTxq_cue (i : Nat) (v : List TxStamp) : (s.setTxq i v).cue = s.cue := rfl
@[simp] theorem State.setTxq_rim (i : Nat) (v : List TxStamp) : (s.setTxq i v).rim = s.rim := rfl
@[simp] theorem State.setTxq_cam (i : Nat) (v : List TxStamp) : (s.setTxq i v).cam = s.cam := rfl
@[simp] theorem State.setTxq_slc (i : Nat) (v : List TxStamp) : (s.setTxq i v).slc = s.slc := rfl
@[simp] theorem State.setTxq_pwr (i : Nat) (v : List TxStamp) : (s.setTxq i v).pwr = s.pwr := rfl
@[simp] theorem State.setTxq_hst (i : Nat) (v : List TxStamp) : (s.setTxq i v).hst = s.hst := rfl
@[simp] theorem State.setTxq_evt (i : Nat) (v : List TxStamp) : (s.setTxq i v).evt = s.evt := rfl
@[simp] theorem State.setTxq_fwu (i : Nat) (v : List TxStamp) : (s.setTxq i v).fwu = s.fwu := rfl
@[simp] theorem State.setTxq_out (i : Nat) (v : List TxStamp) : (s.setTxq i v).out = s.out := rfl
@[simp] theorem State.setTxq_free (i : Nat) (v : List TxStamp) : (s.setTxq i v).free = s.free := rfl
@[simp] theorem State.setTxq_pending (i : Nat) (v : List TxStamp) : (s.setTxq i v).pending = s.pending := rfl

/-! ## Timer channel c -/

@[simp] theorem State.setTimer_regs (i : Nat) (v : Timer) : (s.setTimer i v).regs = s.regs := rfl
@[simp] theorem State.setTimer_hbm (i : Nat) (v : Timer) : (s.setTimer i v).hbm = s.hbm := rfl
@[simp] theorem State.setTimer_hostMem (i : Nat) (v : Timer) : (s.setTimer i v).hostMem = s.hostMem := rfl
@[simp] theorem State.setTimer_poison (i : Nat) (v : Timer) : (s.setTimer i v).poison = s.poison := rfl
@[simp] theorem State.setTimer_panel (i : Nat) (v : Timer) : (s.setTimer i v).panel = s.panel := rfl
@[simp] theorem State.setTimer_ras (i : Nat) (v : Timer) : (s.setTimer i v).ras = s.ras := rfl
@[simp] theorem State.setTimer_lnk (i : Nat) (v : Timer) : (s.setTimer i v).lnk = s.lnk := rfl
@[simp] theorem State.setTimer_cor (i : Nat) (v : Timer) : (s.setTimer i v).cor = s.cor := rfl
@[simp] theorem State.setTimer_str (i : Nat) (v : Timer) : (s.setTimer i v).str = s.str := rfl
@[simp] theorem State.setTimer_dec (i : Nat) (v : Timer) : (s.setTimer i v).dec = s.dec := rfl
@[simp] theorem State.setTimer_asm (i : Nat) (v : Timer) : (s.setTimer i v).asm = s.asm := rfl
@[simp] theorem State.setTimer_enc (i : Nat) (v : Timer) : (s.setTimer i v).enc = s.enc := rfl
@[simp] theorem State.setTimer_egr (i : Nat) (v : Timer) : (s.setTimer i v).egr = s.egr := rfl
@[simp] theorem State.setTimer_cue (i : Nat) (v : Timer) : (s.setTimer i v).cue = s.cue := rfl
@[simp] theorem State.setTimer_rim (i : Nat) (v : Timer) : (s.setTimer i v).rim = s.rim := rfl
@[simp] theorem State.setTimer_cam (i : Nat) (v : Timer) : (s.setTimer i v).cam = s.cam := rfl
@[simp] theorem State.setTimer_slc (i : Nat) (v : Timer) : (s.setTimer i v).slc = s.slc := rfl
@[simp] theorem State.setTimer_pwr (i : Nat) (v : Timer) : (s.setTimer i v).pwr = s.pwr := rfl
@[simp] theorem State.setTimer_hst (i : Nat) (v : Timer) : (s.setTimer i v).hst = s.hst := rfl
@[simp] theorem State.setTimer_evt (i : Nat) (v : Timer) : (s.setTimer i v).evt = s.evt := rfl
@[simp] theorem State.setTimer_fwu (i : Nat) (v : Timer) : (s.setTimer i v).fwu = s.fwu := rfl
@[simp] theorem State.setTimer_out (i : Nat) (v : Timer) : (s.setTimer i v).out = s.out := rfl
@[simp] theorem State.setTimer_free (i : Nat) (v : Timer) : (s.setTimer i v).free = s.free := rfl
@[simp] theorem State.setTimer_pending (i : Nat) (v : Timer) : (s.setTimer i v).pending = s.pending := rfl

/-! ## Cue list l -/

@[simp] theorem State.setCueList_regs (i : Nat) (v : CueList) : (s.setCueList i v).regs = s.regs := rfl
@[simp] theorem State.setCueList_hbm (i : Nat) (v : CueList) : (s.setCueList i v).hbm = s.hbm := rfl
@[simp] theorem State.setCueList_hostMem (i : Nat) (v : CueList) : (s.setCueList i v).hostMem = s.hostMem := rfl
@[simp] theorem State.setCueList_poison (i : Nat) (v : CueList) : (s.setCueList i v).poison = s.poison := rfl
@[simp] theorem State.setCueList_panel (i : Nat) (v : CueList) : (s.setCueList i v).panel = s.panel := rfl
@[simp] theorem State.setCueList_ras (i : Nat) (v : CueList) : (s.setCueList i v).ras = s.ras := rfl
@[simp] theorem State.setCueList_lnk (i : Nat) (v : CueList) : (s.setCueList i v).lnk = s.lnk := rfl
@[simp] theorem State.setCueList_cor (i : Nat) (v : CueList) : (s.setCueList i v).cor = s.cor := rfl
@[simp] theorem State.setCueList_str (i : Nat) (v : CueList) : (s.setCueList i v).str = s.str := rfl
@[simp] theorem State.setCueList_dec (i : Nat) (v : CueList) : (s.setCueList i v).dec = s.dec := rfl
@[simp] theorem State.setCueList_asm (i : Nat) (v : CueList) : (s.setCueList i v).asm = s.asm := rfl
@[simp] theorem State.setCueList_enc (i : Nat) (v : CueList) : (s.setCueList i v).enc = s.enc := rfl
@[simp] theorem State.setCueList_egr (i : Nat) (v : CueList) : (s.setCueList i v).egr = s.egr := rfl
@[simp] theorem State.setCueList_tim (i : Nat) (v : CueList) : (s.setCueList i v).tim = s.tim := rfl
@[simp] theorem State.setCueList_rim (i : Nat) (v : CueList) : (s.setCueList i v).rim = s.rim := rfl
@[simp] theorem State.setCueList_cam (i : Nat) (v : CueList) : (s.setCueList i v).cam = s.cam := rfl
@[simp] theorem State.setCueList_slc (i : Nat) (v : CueList) : (s.setCueList i v).slc = s.slc := rfl
@[simp] theorem State.setCueList_pwr (i : Nat) (v : CueList) : (s.setCueList i v).pwr = s.pwr := rfl
@[simp] theorem State.setCueList_hst (i : Nat) (v : CueList) : (s.setCueList i v).hst = s.hst := rfl
@[simp] theorem State.setCueList_evt (i : Nat) (v : CueList) : (s.setCueList i v).evt = s.evt := rfl
@[simp] theorem State.setCueList_fwu (i : Nat) (v : CueList) : (s.setCueList i v).fwu = s.fwu := rfl
@[simp] theorem State.setCueList_out (i : Nat) (v : CueList) : (s.setCueList i v).out = s.out := rfl
@[simp] theorem State.setCueList_free (i : Nat) (v : CueList) : (s.setCueList i v).free = s.free := rfl
@[simp] theorem State.setCueList_pending (i : Nat) (v : CueList) : (s.setCueList i v).pending = s.pending := rfl

/-! ## An alpha override, 0 for none -/

@[simp] theorem State.setAlphaOv_regs (i : Nat) (v : Nat) : (s.setAlphaOv i v).regs = s.regs := rfl
@[simp] theorem State.setAlphaOv_hbm (i : Nat) (v : Nat) : (s.setAlphaOv i v).hbm = s.hbm := rfl
@[simp] theorem State.setAlphaOv_hostMem (i : Nat) (v : Nat) : (s.setAlphaOv i v).hostMem = s.hostMem := rfl
@[simp] theorem State.setAlphaOv_poison (i : Nat) (v : Nat) : (s.setAlphaOv i v).poison = s.poison := rfl
@[simp] theorem State.setAlphaOv_panel (i : Nat) (v : Nat) : (s.setAlphaOv i v).panel = s.panel := rfl
@[simp] theorem State.setAlphaOv_ras (i : Nat) (v : Nat) : (s.setAlphaOv i v).ras = s.ras := rfl
@[simp] theorem State.setAlphaOv_lnk (i : Nat) (v : Nat) : (s.setAlphaOv i v).lnk = s.lnk := rfl
@[simp] theorem State.setAlphaOv_cor (i : Nat) (v : Nat) : (s.setAlphaOv i v).cor = s.cor := rfl
@[simp] theorem State.setAlphaOv_str (i : Nat) (v : Nat) : (s.setAlphaOv i v).str = s.str := rfl
@[simp] theorem State.setAlphaOv_dec (i : Nat) (v : Nat) : (s.setAlphaOv i v).dec = s.dec := rfl
@[simp] theorem State.setAlphaOv_asm (i : Nat) (v : Nat) : (s.setAlphaOv i v).asm = s.asm := rfl
@[simp] theorem State.setAlphaOv_enc (i : Nat) (v : Nat) : (s.setAlphaOv i v).enc = s.enc := rfl
@[simp] theorem State.setAlphaOv_egr (i : Nat) (v : Nat) : (s.setAlphaOv i v).egr = s.egr := rfl
@[simp] theorem State.setAlphaOv_tim (i : Nat) (v : Nat) : (s.setAlphaOv i v).tim = s.tim := rfl
@[simp] theorem State.setAlphaOv_rim (i : Nat) (v : Nat) : (s.setAlphaOv i v).rim = s.rim := rfl
@[simp] theorem State.setAlphaOv_cam (i : Nat) (v : Nat) : (s.setAlphaOv i v).cam = s.cam := rfl
@[simp] theorem State.setAlphaOv_slc (i : Nat) (v : Nat) : (s.setAlphaOv i v).slc = s.slc := rfl
@[simp] theorem State.setAlphaOv_pwr (i : Nat) (v : Nat) : (s.setAlphaOv i v).pwr = s.pwr := rfl
@[simp] theorem State.setAlphaOv_hst (i : Nat) (v : Nat) : (s.setAlphaOv i v).hst = s.hst := rfl
@[simp] theorem State.setAlphaOv_evt (i : Nat) (v : Nat) : (s.setAlphaOv i v).evt = s.evt := rfl
@[simp] theorem State.setAlphaOv_fwu (i : Nat) (v : Nat) : (s.setAlphaOv i v).fwu = s.fwu := rfl
@[simp] theorem State.setAlphaOv_out (i : Nat) (v : Nat) : (s.setAlphaOv i v).out = s.out := rfl
@[simp] theorem State.setAlphaOv_free (i : Nat) (v : Nat) : (s.setAlphaOv i v).free = s.free := rfl
@[simp] theorem State.setAlphaOv_pending (i : Nat) (v : Nat) : (s.setAlphaOv i v).pending = s.pending := rfl

/-! ## Window preset i -/

@[simp] theorem State.setPreset_regs (i : Nat) (v : Option Preset) : (s.setPreset i v).regs = s.regs := rfl
@[simp] theorem State.setPreset_hbm (i : Nat) (v : Option Preset) : (s.setPreset i v).hbm = s.hbm := rfl
@[simp] theorem State.setPreset_hostMem (i : Nat) (v : Option Preset) : (s.setPreset i v).hostMem = s.hostMem := rfl
@[simp] theorem State.setPreset_poison (i : Nat) (v : Option Preset) : (s.setPreset i v).poison = s.poison := rfl
@[simp] theorem State.setPreset_panel (i : Nat) (v : Option Preset) : (s.setPreset i v).panel = s.panel := rfl
@[simp] theorem State.setPreset_ras (i : Nat) (v : Option Preset) : (s.setPreset i v).ras = s.ras := rfl
@[simp] theorem State.setPreset_lnk (i : Nat) (v : Option Preset) : (s.setPreset i v).lnk = s.lnk := rfl
@[simp] theorem State.setPreset_cor (i : Nat) (v : Option Preset) : (s.setPreset i v).cor = s.cor := rfl
@[simp] theorem State.setPreset_str (i : Nat) (v : Option Preset) : (s.setPreset i v).str = s.str := rfl
@[simp] theorem State.setPreset_dec (i : Nat) (v : Option Preset) : (s.setPreset i v).dec = s.dec := rfl
@[simp] theorem State.setPreset_asm (i : Nat) (v : Option Preset) : (s.setPreset i v).asm = s.asm := rfl
@[simp] theorem State.setPreset_enc (i : Nat) (v : Option Preset) : (s.setPreset i v).enc = s.enc := rfl
@[simp] theorem State.setPreset_egr (i : Nat) (v : Option Preset) : (s.setPreset i v).egr = s.egr := rfl
@[simp] theorem State.setPreset_tim (i : Nat) (v : Option Preset) : (s.setPreset i v).tim = s.tim := rfl
@[simp] theorem State.setPreset_rim (i : Nat) (v : Option Preset) : (s.setPreset i v).rim = s.rim := rfl
@[simp] theorem State.setPreset_cam (i : Nat) (v : Option Preset) : (s.setPreset i v).cam = s.cam := rfl
@[simp] theorem State.setPreset_slc (i : Nat) (v : Option Preset) : (s.setPreset i v).slc = s.slc := rfl
@[simp] theorem State.setPreset_pwr (i : Nat) (v : Option Preset) : (s.setPreset i v).pwr = s.pwr := rfl
@[simp] theorem State.setPreset_hst (i : Nat) (v : Option Preset) : (s.setPreset i v).hst = s.hst := rfl
@[simp] theorem State.setPreset_evt (i : Nat) (v : Option Preset) : (s.setPreset i v).evt = s.evt := rfl
@[simp] theorem State.setPreset_fwu (i : Nat) (v : Option Preset) : (s.setPreset i v).fwu = s.fwu := rfl
@[simp] theorem State.setPreset_out (i : Nat) (v : Option Preset) : (s.setPreset i v).out = s.out := rfl
@[simp] theorem State.setPreset_free (i : Nat) (v : Option Preset) : (s.setPreset i v).free = s.free := rfl
@[simp] theorem State.setPreset_pending (i : Nat) (v : Option Preset) : (s.setPreset i v).pending = s.pending := rfl

/-! ## Sensor i -/

@[simp] theorem State.setSensor_regs (i : Nat) (v : Sensor) : (s.setSensor i v).regs = s.regs := rfl
@[simp] theorem State.setSensor_hbm (i : Nat) (v : Sensor) : (s.setSensor i v).hbm = s.hbm := rfl
@[simp] theorem State.setSensor_hostMem (i : Nat) (v : Sensor) : (s.setSensor i v).hostMem = s.hostMem := rfl
@[simp] theorem State.setSensor_poison (i : Nat) (v : Sensor) : (s.setSensor i v).poison = s.poison := rfl
@[simp] theorem State.setSensor_panel (i : Nat) (v : Sensor) : (s.setSensor i v).panel = s.panel := rfl
@[simp] theorem State.setSensor_ras (i : Nat) (v : Sensor) : (s.setSensor i v).ras = s.ras := rfl
@[simp] theorem State.setSensor_lnk (i : Nat) (v : Sensor) : (s.setSensor i v).lnk = s.lnk := rfl
@[simp] theorem State.setSensor_cor (i : Nat) (v : Sensor) : (s.setSensor i v).cor = s.cor := rfl
@[simp] theorem State.setSensor_str (i : Nat) (v : Sensor) : (s.setSensor i v).str = s.str := rfl
@[simp] theorem State.setSensor_dec (i : Nat) (v : Sensor) : (s.setSensor i v).dec = s.dec := rfl
@[simp] theorem State.setSensor_asm (i : Nat) (v : Sensor) : (s.setSensor i v).asm = s.asm := rfl
@[simp] theorem State.setSensor_enc (i : Nat) (v : Sensor) : (s.setSensor i v).enc = s.enc := rfl
@[simp] theorem State.setSensor_egr (i : Nat) (v : Sensor) : (s.setSensor i v).egr = s.egr := rfl
@[simp] theorem State.setSensor_tim (i : Nat) (v : Sensor) : (s.setSensor i v).tim = s.tim := rfl
@[simp] theorem State.setSensor_cue (i : Nat) (v : Sensor) : (s.setSensor i v).cue = s.cue := rfl
@[simp] theorem State.setSensor_rim (i : Nat) (v : Sensor) : (s.setSensor i v).rim = s.rim := rfl
@[simp] theorem State.setSensor_slc (i : Nat) (v : Sensor) : (s.setSensor i v).slc = s.slc := rfl
@[simp] theorem State.setSensor_pwr (i : Nat) (v : Sensor) : (s.setSensor i v).pwr = s.pwr := rfl
@[simp] theorem State.setSensor_hst (i : Nat) (v : Sensor) : (s.setSensor i v).hst = s.hst := rfl
@[simp] theorem State.setSensor_evt (i : Nat) (v : Sensor) : (s.setSensor i v).evt = s.evt := rfl
@[simp] theorem State.setSensor_fwu (i : Nat) (v : Sensor) : (s.setSensor i v).fwu = s.fwu := rfl
@[simp] theorem State.setSensor_out (i : Nat) (v : Sensor) : (s.setSensor i v).out = s.out := rfl
@[simp] theorem State.setSensor_free (i : Nat) (v : Sensor) : (s.setSensor i v).free = s.free := rfl
@[simp] theorem State.setSensor_pending (i : Nat) (v : Sensor) : (s.setSensor i v).pending = s.pending := rfl

/-! ## The I3C queue of port p -/

@[simp] theorem State.setI3cq_regs (i : Nat) (v : List I3c) : (s.setI3cq i v).regs = s.regs := rfl
@[simp] theorem State.setI3cq_hbm (i : Nat) (v : List I3c) : (s.setI3cq i v).hbm = s.hbm := rfl
@[simp] theorem State.setI3cq_hostMem (i : Nat) (v : List I3c) : (s.setI3cq i v).hostMem = s.hostMem := rfl
@[simp] theorem State.setI3cq_poison (i : Nat) (v : List I3c) : (s.setI3cq i v).poison = s.poison := rfl
@[simp] theorem State.setI3cq_panel (i : Nat) (v : List I3c) : (s.setI3cq i v).panel = s.panel := rfl
@[simp] theorem State.setI3cq_ras (i : Nat) (v : List I3c) : (s.setI3cq i v).ras = s.ras := rfl
@[simp] theorem State.setI3cq_lnk (i : Nat) (v : List I3c) : (s.setI3cq i v).lnk = s.lnk := rfl
@[simp] theorem State.setI3cq_cor (i : Nat) (v : List I3c) : (s.setI3cq i v).cor = s.cor := rfl
@[simp] theorem State.setI3cq_str (i : Nat) (v : List I3c) : (s.setI3cq i v).str = s.str := rfl
@[simp] theorem State.setI3cq_dec (i : Nat) (v : List I3c) : (s.setI3cq i v).dec = s.dec := rfl
@[simp] theorem State.setI3cq_asm (i : Nat) (v : List I3c) : (s.setI3cq i v).asm = s.asm := rfl
@[simp] theorem State.setI3cq_enc (i : Nat) (v : List I3c) : (s.setI3cq i v).enc = s.enc := rfl
@[simp] theorem State.setI3cq_egr (i : Nat) (v : List I3c) : (s.setI3cq i v).egr = s.egr := rfl
@[simp] theorem State.setI3cq_tim (i : Nat) (v : List I3c) : (s.setI3cq i v).tim = s.tim := rfl
@[simp] theorem State.setI3cq_cue (i : Nat) (v : List I3c) : (s.setI3cq i v).cue = s.cue := rfl
@[simp] theorem State.setI3cq_rim (i : Nat) (v : List I3c) : (s.setI3cq i v).rim = s.rim := rfl
@[simp] theorem State.setI3cq_slc (i : Nat) (v : List I3c) : (s.setI3cq i v).slc = s.slc := rfl
@[simp] theorem State.setI3cq_pwr (i : Nat) (v : List I3c) : (s.setI3cq i v).pwr = s.pwr := rfl
@[simp] theorem State.setI3cq_hst (i : Nat) (v : List I3c) : (s.setI3cq i v).hst = s.hst := rfl
@[simp] theorem State.setI3cq_evt (i : Nat) (v : List I3c) : (s.setI3cq i v).evt = s.evt := rfl
@[simp] theorem State.setI3cq_fwu (i : Nat) (v : List I3c) : (s.setI3cq i v).fwu = s.fwu := rfl
@[simp] theorem State.setI3cq_out (i : Nat) (v : List I3c) : (s.setI3cq i v).out = s.out := rfl
@[simp] theorem State.setI3cq_free (i : Nat) (v : List I3c) : (s.setI3cq i v).free = s.free := rfl
@[simp] theorem State.setI3cq_pending (i : Nat) (v : List I3c) : (s.setI3cq i v).pending = s.pending := rfl

/-! ## Thermal sensor i -/

@[simp] theorem State.setThSensor_regs (i : Nat) (v : ThSensor) : (s.setThSensor i v).regs = s.regs := rfl
@[simp] theorem State.setThSensor_hbm (i : Nat) (v : ThSensor) : (s.setThSensor i v).hbm = s.hbm := rfl
@[simp] theorem State.setThSensor_hostMem (i : Nat) (v : ThSensor) : (s.setThSensor i v).hostMem = s.hostMem := rfl
@[simp] theorem State.setThSensor_poison (i : Nat) (v : ThSensor) : (s.setThSensor i v).poison = s.poison := rfl
@[simp] theorem State.setThSensor_panel (i : Nat) (v : ThSensor) : (s.setThSensor i v).panel = s.panel := rfl
@[simp] theorem State.setThSensor_ras (i : Nat) (v : ThSensor) : (s.setThSensor i v).ras = s.ras := rfl
@[simp] theorem State.setThSensor_lnk (i : Nat) (v : ThSensor) : (s.setThSensor i v).lnk = s.lnk := rfl
@[simp] theorem State.setThSensor_cor (i : Nat) (v : ThSensor) : (s.setThSensor i v).cor = s.cor := rfl
@[simp] theorem State.setThSensor_str (i : Nat) (v : ThSensor) : (s.setThSensor i v).str = s.str := rfl
@[simp] theorem State.setThSensor_dec (i : Nat) (v : ThSensor) : (s.setThSensor i v).dec = s.dec := rfl
@[simp] theorem State.setThSensor_asm (i : Nat) (v : ThSensor) : (s.setThSensor i v).asm = s.asm := rfl
@[simp] theorem State.setThSensor_enc (i : Nat) (v : ThSensor) : (s.setThSensor i v).enc = s.enc := rfl
@[simp] theorem State.setThSensor_egr (i : Nat) (v : ThSensor) : (s.setThSensor i v).egr = s.egr := rfl
@[simp] theorem State.setThSensor_tim (i : Nat) (v : ThSensor) : (s.setThSensor i v).tim = s.tim := rfl
@[simp] theorem State.setThSensor_cue (i : Nat) (v : ThSensor) : (s.setThSensor i v).cue = s.cue := rfl
@[simp] theorem State.setThSensor_rim (i : Nat) (v : ThSensor) : (s.setThSensor i v).rim = s.rim := rfl
@[simp] theorem State.setThSensor_cam (i : Nat) (v : ThSensor) : (s.setThSensor i v).cam = s.cam := rfl
@[simp] theorem State.setThSensor_slc (i : Nat) (v : ThSensor) : (s.setThSensor i v).slc = s.slc := rfl
@[simp] theorem State.setThSensor_hst (i : Nat) (v : ThSensor) : (s.setThSensor i v).hst = s.hst := rfl
@[simp] theorem State.setThSensor_evt (i : Nat) (v : ThSensor) : (s.setThSensor i v).evt = s.evt := rfl
@[simp] theorem State.setThSensor_fwu (i : Nat) (v : ThSensor) : (s.setThSensor i v).fwu = s.fwu := rfl
@[simp] theorem State.setThSensor_out (i : Nat) (v : ThSensor) : (s.setThSensor i v).out = s.out := rfl
@[simp] theorem State.setThSensor_free (i : Nat) (v : ThSensor) : (s.setThSensor i v).free = s.free := rfl
@[simp] theorem State.setThSensor_pending (i : Nat) (v : ThSensor) : (s.setThSensor i v).pending = s.pending := rfl

/-! ## Trim zone z -/

@[simp] theorem State.setZone_regs (i : Nat) (v : Zone) : (s.setZone i v).regs = s.regs := rfl
@[simp] theorem State.setZone_hbm (i : Nat) (v : Zone) : (s.setZone i v).hbm = s.hbm := rfl
@[simp] theorem State.setZone_hostMem (i : Nat) (v : Zone) : (s.setZone i v).hostMem = s.hostMem := rfl
@[simp] theorem State.setZone_poison (i : Nat) (v : Zone) : (s.setZone i v).poison = s.poison := rfl
@[simp] theorem State.setZone_panel (i : Nat) (v : Zone) : (s.setZone i v).panel = s.panel := rfl
@[simp] theorem State.setZone_ras (i : Nat) (v : Zone) : (s.setZone i v).ras = s.ras := rfl
@[simp] theorem State.setZone_lnk (i : Nat) (v : Zone) : (s.setZone i v).lnk = s.lnk := rfl
@[simp] theorem State.setZone_cor (i : Nat) (v : Zone) : (s.setZone i v).cor = s.cor := rfl
@[simp] theorem State.setZone_str (i : Nat) (v : Zone) : (s.setZone i v).str = s.str := rfl
@[simp] theorem State.setZone_dec (i : Nat) (v : Zone) : (s.setZone i v).dec = s.dec := rfl
@[simp] theorem State.setZone_asm (i : Nat) (v : Zone) : (s.setZone i v).asm = s.asm := rfl
@[simp] theorem State.setZone_enc (i : Nat) (v : Zone) : (s.setZone i v).enc = s.enc := rfl
@[simp] theorem State.setZone_egr (i : Nat) (v : Zone) : (s.setZone i v).egr = s.egr := rfl
@[simp] theorem State.setZone_tim (i : Nat) (v : Zone) : (s.setZone i v).tim = s.tim := rfl
@[simp] theorem State.setZone_cue (i : Nat) (v : Zone) : (s.setZone i v).cue = s.cue := rfl
@[simp] theorem State.setZone_rim (i : Nat) (v : Zone) : (s.setZone i v).rim = s.rim := rfl
@[simp] theorem State.setZone_cam (i : Nat) (v : Zone) : (s.setZone i v).cam = s.cam := rfl
@[simp] theorem State.setZone_slc (i : Nat) (v : Zone) : (s.setZone i v).slc = s.slc := rfl
@[simp] theorem State.setZone_hst (i : Nat) (v : Zone) : (s.setZone i v).hst = s.hst := rfl
@[simp] theorem State.setZone_evt (i : Nat) (v : Zone) : (s.setZone i v).evt = s.evt := rfl
@[simp] theorem State.setZone_fwu (i : Nat) (v : Zone) : (s.setZone i v).fwu = s.fwu := rfl
@[simp] theorem State.setZone_out (i : Nat) (v : Zone) : (s.setZone i v).out = s.out := rfl
@[simp] theorem State.setZone_free (i : Nat) (v : Zone) : (s.setZone i v).free = s.free := rfl
@[simp] theorem State.setZone_pending (i : Nat) (v : Zone) : (s.setZone i v).pending = s.pending := rfl

/-! ## Partition p -/

@[simp] theorem State.setPrt_regs (i : Nat) (v : Part) : (s.setPrt i v).regs = s.regs := rfl
@[simp] theorem State.setPrt_hbm (i : Nat) (v : Part) : (s.setPrt i v).hbm = s.hbm := rfl
@[simp] theorem State.setPrt_hostMem (i : Nat) (v : Part) : (s.setPrt i v).hostMem = s.hostMem := rfl
@[simp] theorem State.setPrt_poison (i : Nat) (v : Part) : (s.setPrt i v).poison = s.poison := rfl
@[simp] theorem State.setPrt_panel (i : Nat) (v : Part) : (s.setPrt i v).panel = s.panel := rfl
@[simp] theorem State.setPrt_ras (i : Nat) (v : Part) : (s.setPrt i v).ras = s.ras := rfl
@[simp] theorem State.setPrt_lnk (i : Nat) (v : Part) : (s.setPrt i v).lnk = s.lnk := rfl
@[simp] theorem State.setPrt_cor (i : Nat) (v : Part) : (s.setPrt i v).cor = s.cor := rfl
@[simp] theorem State.setPrt_str (i : Nat) (v : Part) : (s.setPrt i v).str = s.str := rfl
@[simp] theorem State.setPrt_dec (i : Nat) (v : Part) : (s.setPrt i v).dec = s.dec := rfl
@[simp] theorem State.setPrt_asm (i : Nat) (v : Part) : (s.setPrt i v).asm = s.asm := rfl
@[simp] theorem State.setPrt_enc (i : Nat) (v : Part) : (s.setPrt i v).enc = s.enc := rfl
@[simp] theorem State.setPrt_egr (i : Nat) (v : Part) : (s.setPrt i v).egr = s.egr := rfl
@[simp] theorem State.setPrt_tim (i : Nat) (v : Part) : (s.setPrt i v).tim = s.tim := rfl
@[simp] theorem State.setPrt_cue (i : Nat) (v : Part) : (s.setPrt i v).cue = s.cue := rfl
@[simp] theorem State.setPrt_rim (i : Nat) (v : Part) : (s.setPrt i v).rim = s.rim := rfl
@[simp] theorem State.setPrt_cam (i : Nat) (v : Part) : (s.setPrt i v).cam = s.cam := rfl
@[simp] theorem State.setPrt_slc (i : Nat) (v : Part) : (s.setPrt i v).slc = s.slc := rfl
@[simp] theorem State.setPrt_pwr (i : Nat) (v : Part) : (s.setPrt i v).pwr = s.pwr := rfl
@[simp] theorem State.setPrt_evt (i : Nat) (v : Part) : (s.setPrt i v).evt = s.evt := rfl
@[simp] theorem State.setPrt_fwu (i : Nat) (v : Part) : (s.setPrt i v).fwu = s.fwu := rfl
@[simp] theorem State.setPrt_out (i : Nat) (v : Part) : (s.setPrt i v).out = s.out := rfl
@[simp] theorem State.setPrt_free (i : Nat) (v : Part) : (s.setPrt i v).free = s.free := rfl
@[simp] theorem State.setPrt_pending (i : Nat) (v : Part) : (s.setPrt i v).pending = s.pending := rfl

/-! ## The MSI-X table of partition p -/

@[simp] theorem State.setMsixT_regs (i : Nat) (v : MsixTable) : (s.setMsixT i v).regs = s.regs := rfl
@[simp] theorem State.setMsixT_hbm (i : Nat) (v : MsixTable) : (s.setMsixT i v).hbm = s.hbm := rfl
@[simp] theorem State.setMsixT_hostMem (i : Nat) (v : MsixTable) : (s.setMsixT i v).hostMem = s.hostMem := rfl
@[simp] theorem State.setMsixT_poison (i : Nat) (v : MsixTable) : (s.setMsixT i v).poison = s.poison := rfl
@[simp] theorem State.setMsixT_panel (i : Nat) (v : MsixTable) : (s.setMsixT i v).panel = s.panel := rfl
@[simp] theorem State.setMsixT_ras (i : Nat) (v : MsixTable) : (s.setMsixT i v).ras = s.ras := rfl
@[simp] theorem State.setMsixT_lnk (i : Nat) (v : MsixTable) : (s.setMsixT i v).lnk = s.lnk := rfl
@[simp] theorem State.setMsixT_cor (i : Nat) (v : MsixTable) : (s.setMsixT i v).cor = s.cor := rfl
@[simp] theorem State.setMsixT_str (i : Nat) (v : MsixTable) : (s.setMsixT i v).str = s.str := rfl
@[simp] theorem State.setMsixT_dec (i : Nat) (v : MsixTable) : (s.setMsixT i v).dec = s.dec := rfl
@[simp] theorem State.setMsixT_asm (i : Nat) (v : MsixTable) : (s.setMsixT i v).asm = s.asm := rfl
@[simp] theorem State.setMsixT_enc (i : Nat) (v : MsixTable) : (s.setMsixT i v).enc = s.enc := rfl
@[simp] theorem State.setMsixT_egr (i : Nat) (v : MsixTable) : (s.setMsixT i v).egr = s.egr := rfl
@[simp] theorem State.setMsixT_tim (i : Nat) (v : MsixTable) : (s.setMsixT i v).tim = s.tim := rfl
@[simp] theorem State.setMsixT_cue (i : Nat) (v : MsixTable) : (s.setMsixT i v).cue = s.cue := rfl
@[simp] theorem State.setMsixT_rim (i : Nat) (v : MsixTable) : (s.setMsixT i v).rim = s.rim := rfl
@[simp] theorem State.setMsixT_cam (i : Nat) (v : MsixTable) : (s.setMsixT i v).cam = s.cam := rfl
@[simp] theorem State.setMsixT_slc (i : Nat) (v : MsixTable) : (s.setMsixT i v).slc = s.slc := rfl
@[simp] theorem State.setMsixT_pwr (i : Nat) (v : MsixTable) : (s.setMsixT i v).pwr = s.pwr := rfl
@[simp] theorem State.setMsixT_evt (i : Nat) (v : MsixTable) : (s.setMsixT i v).evt = s.evt := rfl
@[simp] theorem State.setMsixT_fwu (i : Nat) (v : MsixTable) : (s.setMsixT i v).fwu = s.fwu := rfl
@[simp] theorem State.setMsixT_out (i : Nat) (v : MsixTable) : (s.setMsixT i v).out = s.out := rfl
@[simp] theorem State.setMsixT_free (i : Nat) (v : MsixTable) : (s.setMsixT i v).free = s.free := rfl
@[simp] theorem State.setMsixT_pending (i : Nat) (v : MsixTable) : (s.setMsixT i v).pending = s.pending := rfl

/-! ## The link of PCIe port p -/

@[simp] theorem State.setLinkUp_regs (i : Nat) (v : Bool) : (s.setLinkUp i v).regs = s.regs := rfl
@[simp] theorem State.setLinkUp_hbm (i : Nat) (v : Bool) : (s.setLinkUp i v).hbm = s.hbm := rfl
@[simp] theorem State.setLinkUp_hostMem (i : Nat) (v : Bool) : (s.setLinkUp i v).hostMem = s.hostMem := rfl
@[simp] theorem State.setLinkUp_poison (i : Nat) (v : Bool) : (s.setLinkUp i v).poison = s.poison := rfl
@[simp] theorem State.setLinkUp_panel (i : Nat) (v : Bool) : (s.setLinkUp i v).panel = s.panel := rfl
@[simp] theorem State.setLinkUp_ras (i : Nat) (v : Bool) : (s.setLinkUp i v).ras = s.ras := rfl
@[simp] theorem State.setLinkUp_lnk (i : Nat) (v : Bool) : (s.setLinkUp i v).lnk = s.lnk := rfl
@[simp] theorem State.setLinkUp_cor (i : Nat) (v : Bool) : (s.setLinkUp i v).cor = s.cor := rfl
@[simp] theorem State.setLinkUp_str (i : Nat) (v : Bool) : (s.setLinkUp i v).str = s.str := rfl
@[simp] theorem State.setLinkUp_dec (i : Nat) (v : Bool) : (s.setLinkUp i v).dec = s.dec := rfl
@[simp] theorem State.setLinkUp_asm (i : Nat) (v : Bool) : (s.setLinkUp i v).asm = s.asm := rfl
@[simp] theorem State.setLinkUp_enc (i : Nat) (v : Bool) : (s.setLinkUp i v).enc = s.enc := rfl
@[simp] theorem State.setLinkUp_egr (i : Nat) (v : Bool) : (s.setLinkUp i v).egr = s.egr := rfl
@[simp] theorem State.setLinkUp_tim (i : Nat) (v : Bool) : (s.setLinkUp i v).tim = s.tim := rfl
@[simp] theorem State.setLinkUp_cue (i : Nat) (v : Bool) : (s.setLinkUp i v).cue = s.cue := rfl
@[simp] theorem State.setLinkUp_rim (i : Nat) (v : Bool) : (s.setLinkUp i v).rim = s.rim := rfl
@[simp] theorem State.setLinkUp_cam (i : Nat) (v : Bool) : (s.setLinkUp i v).cam = s.cam := rfl
@[simp] theorem State.setLinkUp_slc (i : Nat) (v : Bool) : (s.setLinkUp i v).slc = s.slc := rfl
@[simp] theorem State.setLinkUp_pwr (i : Nat) (v : Bool) : (s.setLinkUp i v).pwr = s.pwr := rfl
@[simp] theorem State.setLinkUp_evt (i : Nat) (v : Bool) : (s.setLinkUp i v).evt = s.evt := rfl
@[simp] theorem State.setLinkUp_fwu (i : Nat) (v : Bool) : (s.setLinkUp i v).fwu = s.fwu := rfl
@[simp] theorem State.setLinkUp_out (i : Nat) (v : Bool) : (s.setLinkUp i v).out = s.out := rfl
@[simp] theorem State.setLinkUp_free (i : Nat) (v : Bool) : (s.setLinkUp i v).free = s.free := rfl
@[simp] theorem State.setLinkUp_pending (i : Nat) (v : Bool) : (s.setLinkUp i v).pending = s.pending := rfl

/-! ## A changed event route -/

@[simp] theorem State.setRoute_regs (i : Nat) (v : Route) : (s.setRoute i v).regs = s.regs := rfl
@[simp] theorem State.setRoute_hbm (i : Nat) (v : Route) : (s.setRoute i v).hbm = s.hbm := rfl
@[simp] theorem State.setRoute_hostMem (i : Nat) (v : Route) : (s.setRoute i v).hostMem = s.hostMem := rfl
@[simp] theorem State.setRoute_poison (i : Nat) (v : Route) : (s.setRoute i v).poison = s.poison := rfl
@[simp] theorem State.setRoute_panel (i : Nat) (v : Route) : (s.setRoute i v).panel = s.panel := rfl
@[simp] theorem State.setRoute_ras (i : Nat) (v : Route) : (s.setRoute i v).ras = s.ras := rfl
@[simp] theorem State.setRoute_lnk (i : Nat) (v : Route) : (s.setRoute i v).lnk = s.lnk := rfl
@[simp] theorem State.setRoute_cor (i : Nat) (v : Route) : (s.setRoute i v).cor = s.cor := rfl
@[simp] theorem State.setRoute_str (i : Nat) (v : Route) : (s.setRoute i v).str = s.str := rfl
@[simp] theorem State.setRoute_dec (i : Nat) (v : Route) : (s.setRoute i v).dec = s.dec := rfl
@[simp] theorem State.setRoute_asm (i : Nat) (v : Route) : (s.setRoute i v).asm = s.asm := rfl
@[simp] theorem State.setRoute_enc (i : Nat) (v : Route) : (s.setRoute i v).enc = s.enc := rfl
@[simp] theorem State.setRoute_egr (i : Nat) (v : Route) : (s.setRoute i v).egr = s.egr := rfl
@[simp] theorem State.setRoute_tim (i : Nat) (v : Route) : (s.setRoute i v).tim = s.tim := rfl
@[simp] theorem State.setRoute_cue (i : Nat) (v : Route) : (s.setRoute i v).cue = s.cue := rfl
@[simp] theorem State.setRoute_rim (i : Nat) (v : Route) : (s.setRoute i v).rim = s.rim := rfl
@[simp] theorem State.setRoute_cam (i : Nat) (v : Route) : (s.setRoute i v).cam = s.cam := rfl
@[simp] theorem State.setRoute_slc (i : Nat) (v : Route) : (s.setRoute i v).slc = s.slc := rfl
@[simp] theorem State.setRoute_pwr (i : Nat) (v : Route) : (s.setRoute i v).pwr = s.pwr := rfl
@[simp] theorem State.setRoute_hst (i : Nat) (v : Route) : (s.setRoute i v).hst = s.hst := rfl
@[simp] theorem State.setRoute_fwu (i : Nat) (v : Route) : (s.setRoute i v).fwu = s.fwu := rfl
@[simp] theorem State.setRoute_out (i : Nat) (v : Route) : (s.setRoute i v).out = s.out := rfl
@[simp] theorem State.setRoute_free (i : Nat) (v : Route) : (s.setRoute i v).free = s.free := rfl
@[simp] theorem State.setRoute_pending (i : Nat) (v : Route) : (s.setRoute i v).pending = s.pending := rfl

/-! ## Raises of event n -/

@[simp] theorem State.setRaisedCnt_regs (i : Nat) (v : Nat) : (s.setRaisedCnt i v).regs = s.regs := rfl
@[simp] theorem State.setRaisedCnt_hbm (i : Nat) (v : Nat) : (s.setRaisedCnt i v).hbm = s.hbm := rfl
@[simp] theorem State.setRaisedCnt_hostMem (i : Nat) (v : Nat) : (s.setRaisedCnt i v).hostMem = s.hostMem := rfl
@[simp] theorem State.setRaisedCnt_poison (i : Nat) (v : Nat) : (s.setRaisedCnt i v).poison = s.poison := rfl
@[simp] theorem State.setRaisedCnt_panel (i : Nat) (v : Nat) : (s.setRaisedCnt i v).panel = s.panel := rfl
@[simp] theorem State.setRaisedCnt_ras (i : Nat) (v : Nat) : (s.setRaisedCnt i v).ras = s.ras := rfl
@[simp] theorem State.setRaisedCnt_lnk (i : Nat) (v : Nat) : (s.setRaisedCnt i v).lnk = s.lnk := rfl
@[simp] theorem State.setRaisedCnt_cor (i : Nat) (v : Nat) : (s.setRaisedCnt i v).cor = s.cor := rfl
@[simp] theorem State.setRaisedCnt_str (i : Nat) (v : Nat) : (s.setRaisedCnt i v).str = s.str := rfl
@[simp] theorem State.setRaisedCnt_dec (i : Nat) (v : Nat) : (s.setRaisedCnt i v).dec = s.dec := rfl
@[simp] theorem State.setRaisedCnt_asm (i : Nat) (v : Nat) : (s.setRaisedCnt i v).asm = s.asm := rfl
@[simp] theorem State.setRaisedCnt_enc (i : Nat) (v : Nat) : (s.setRaisedCnt i v).enc = s.enc := rfl
@[simp] theorem State.setRaisedCnt_egr (i : Nat) (v : Nat) : (s.setRaisedCnt i v).egr = s.egr := rfl
@[simp] theorem State.setRaisedCnt_tim (i : Nat) (v : Nat) : (s.setRaisedCnt i v).tim = s.tim := rfl
@[simp] theorem State.setRaisedCnt_cue (i : Nat) (v : Nat) : (s.setRaisedCnt i v).cue = s.cue := rfl
@[simp] theorem State.setRaisedCnt_rim (i : Nat) (v : Nat) : (s.setRaisedCnt i v).rim = s.rim := rfl
@[simp] theorem State.setRaisedCnt_cam (i : Nat) (v : Nat) : (s.setRaisedCnt i v).cam = s.cam := rfl
@[simp] theorem State.setRaisedCnt_slc (i : Nat) (v : Nat) : (s.setRaisedCnt i v).slc = s.slc := rfl
@[simp] theorem State.setRaisedCnt_pwr (i : Nat) (v : Nat) : (s.setRaisedCnt i v).pwr = s.pwr := rfl
@[simp] theorem State.setRaisedCnt_hst (i : Nat) (v : Nat) : (s.setRaisedCnt i v).hst = s.hst := rfl
@[simp] theorem State.setRaisedCnt_fwu (i : Nat) (v : Nat) : (s.setRaisedCnt i v).fwu = s.fwu := rfl
@[simp] theorem State.setRaisedCnt_out (i : Nat) (v : Nat) : (s.setRaisedCnt i v).out = s.out := rfl
@[simp] theorem State.setRaisedCnt_free (i : Nat) (v : Nat) : (s.setRaisedCnt i v).free = s.free := rfl
@[simp] theorem State.setRaisedCnt_pending (i : Nat) (v : Nat) : (s.setRaisedCnt i v).pending = s.pending := rfl

/-! ## The queue of rim region r -/

@[simp] theorem State.setRimQ_regs (i : Nat) (v : List RimUpdate) : (s.setRimQ i v).regs = s.regs := rfl
@[simp] theorem State.setRimQ_hbm (i : Nat) (v : List RimUpdate) : (s.setRimQ i v).hbm = s.hbm := rfl
@[simp] theorem State.setRimQ_hostMem (i : Nat) (v : List RimUpdate) : (s.setRimQ i v).hostMem = s.hostMem := rfl
@[simp] theorem State.setRimQ_poison (i : Nat) (v : List RimUpdate) : (s.setRimQ i v).poison = s.poison := rfl
@[simp] theorem State.setRimQ_panel (i : Nat) (v : List RimUpdate) : (s.setRimQ i v).panel = s.panel := rfl
@[simp] theorem State.setRimQ_ras (i : Nat) (v : List RimUpdate) : (s.setRimQ i v).ras = s.ras := rfl
@[simp] theorem State.setRimQ_lnk (i : Nat) (v : List RimUpdate) : (s.setRimQ i v).lnk = s.lnk := rfl
@[simp] theorem State.setRimQ_cor (i : Nat) (v : List RimUpdate) : (s.setRimQ i v).cor = s.cor := rfl
@[simp] theorem State.setRimQ_str (i : Nat) (v : List RimUpdate) : (s.setRimQ i v).str = s.str := rfl
@[simp] theorem State.setRimQ_dec (i : Nat) (v : List RimUpdate) : (s.setRimQ i v).dec = s.dec := rfl
@[simp] theorem State.setRimQ_asm (i : Nat) (v : List RimUpdate) : (s.setRimQ i v).asm = s.asm := rfl
@[simp] theorem State.setRimQ_enc (i : Nat) (v : List RimUpdate) : (s.setRimQ i v).enc = s.enc := rfl
@[simp] theorem State.setRimQ_egr (i : Nat) (v : List RimUpdate) : (s.setRimQ i v).egr = s.egr := rfl
@[simp] theorem State.setRimQ_tim (i : Nat) (v : List RimUpdate) : (s.setRimQ i v).tim = s.tim := rfl
@[simp] theorem State.setRimQ_cue (i : Nat) (v : List RimUpdate) : (s.setRimQ i v).cue = s.cue := rfl
@[simp] theorem State.setRimQ_cam (i : Nat) (v : List RimUpdate) : (s.setRimQ i v).cam = s.cam := rfl
@[simp] theorem State.setRimQ_slc (i : Nat) (v : List RimUpdate) : (s.setRimQ i v).slc = s.slc := rfl
@[simp] theorem State.setRimQ_pwr (i : Nat) (v : List RimUpdate) : (s.setRimQ i v).pwr = s.pwr := rfl
@[simp] theorem State.setRimQ_hst (i : Nat) (v : List RimUpdate) : (s.setRimQ i v).hst = s.hst := rfl
@[simp] theorem State.setRimQ_evt (i : Nat) (v : List RimUpdate) : (s.setRimQ i v).evt = s.evt := rfl
@[simp] theorem State.setRimQ_fwu (i : Nat) (v : List RimUpdate) : (s.setRimQ i v).fwu = s.fwu := rfl
@[simp] theorem State.setRimQ_out (i : Nat) (v : List RimUpdate) : (s.setRimQ i v).out = s.out := rfl
@[simp] theorem State.setRimQ_free (i : Nat) (v : List RimUpdate) : (s.setRimQ i v).free = s.free := rfl
@[simp] theorem State.setRimQ_pending (i : Nat) (v : List RimUpdate) : (s.setRimQ i v).pending = s.pending := rfl

end Sys2Proof.Machine
end

