-- ==== Sys2Proof/Laws/Registers.lean ====
section
/-!
SUPPORT. Laws of registers and their fields: a register or field just written reads back, and every other one is as it
was. Reading back rests on the canonical form of the register file, which every command keeps.
-/

namespace Sys2Proof.Machine

variable {s : State}

/-! ## Words -/

theorem rd_wr_same (a : Nat) (w : Word) (h : s.Canonical) : rd a (wr a w s) = w :=
  FMap.get_set_same resetWord none s.regs a w h.1

theorem rd_wr_other {a b : Nat} (w : Word) (h : b ≠ a) : rd b (wr a w s) = rd b s :=
  FMap.get_set_other (resetWord a) (resetWord b) s.regs a b w h

theorem wr_canonical (a : Nat) (w : Word) (h : s.Canonical) : (wr a w s).Canonical :=
  ⟨FMap.wf_set resetWord s.regs a w h.1, h.2⟩

theorem setF_canonical (f : Fld) (v : Nat) (h : s.Canonical) : (setF f v s).Canonical := wr_canonical _ _ h

theorem emit_canonical (o : Out) (h : s.Canonical) : (emit o s).Canonical := h

/-! ## Bits -/

theorem putBits_lt {n hi lo v : Nat} (hn : n < 2 ^ 32) (hh : hi ≤ 31) (hl : lo ≤ hi) : putBits n hi lo v < 2 ^ 32 := by
  obtain ⟨a, rfl⟩ := Nat.exists_eq_add_of_le hl
  obtain ⟨b, hb⟩ := Nat.exists_eq_add_of_le hh
  have e : (2 : Nat) ^ 32 = 2 ^ lo * 2 ^ (a + 1) * 2 ^ b := by rw [← pow_add, ← pow_add]; congr 1; omega
  have h1 : (2 : Nat) ^ (lo + a + 1) = 2 ^ lo * 2 ^ (a + 1) := by rw [← pow_add]; congr 1
  unfold putBits
  rw [e] at hn
  rw [show lo + a + 1 - lo = a + 1 by omega, h1, e]
  have p := Nat.mod_lt v (Nat.two_pow_pos (a + 1))
  have q := Nat.mod_lt n (Nat.two_pow_pos lo)
  have r : n / (2 ^ lo * 2 ^ (a + 1)) < 2 ^ b := Nat.div_lt_of_lt_mul hn
  generalize n / (2 ^ lo * 2 ^ (a + 1)) = x at *
  generalize v % 2 ^ (a + 1) = y at *
  generalize n % 2 ^ lo = z at *
  have A := Nat.two_pow_pos lo
  have B := Nat.two_pow_pos (a + 1)
  generalize (2 : Nat) ^ lo = L at *
  generalize (2 : Nat) ^ (a + 1) = M at *
  generalize (2 : Nat) ^ b = N at *
  nlinarith [Nat.mul_le_mul_left (L * M) (Nat.succ_le_of_lt r), Nat.mul_le_mul_right L (Nat.succ_le_of_lt p)]

theorem bitsOf_putBits_same {n hi lo v : Nat} (hl : lo ≤ hi) : bitsOf (putBits n hi lo v) hi lo = v % 2 ^ (hi + 1 - lo) := by
  obtain ⟨a, rfl⟩ := Nat.exists_eq_add_of_le hl
  have h1 : (2 : Nat) ^ (lo + a + 1) = 2 ^ (a + 1) * 2 ^ lo := by rw [← pow_add]; congr 1; omega
  unfold bitsOf putBits
  rw [show lo + a + 1 - lo = a + 1 by omega, h1]
  have q := Nat.mod_lt n (Nat.two_pow_pos lo)
  rw [show n / (2 ^ (a + 1) * 2 ^ lo) * (2 ^ (a + 1) * 2 ^ lo) + v % 2 ^ (a + 1) * 2 ^ lo + n % 2 ^ lo
    = n % 2 ^ lo + 2 ^ lo * (2 ^ (a + 1) * (n / (2 ^ (a + 1) * 2 ^ lo)) + v % 2 ^ (a + 1)) by ring]
  rw [Nat.add_mul_div_left _ _ (Nat.two_pow_pos lo), Nat.div_eq_of_lt q, Nat.zero_add, Nat.mul_add_mod, Nat.mod_mod]

/-- A field above the one written is as it was. -/
theorem bitsOf_putBits_above {n hi lo v h l : Nat} (hl : lo ≤ hi) (ha : hi < l) :
    bitsOf (putBits n hi lo v) h l = bitsOf n h l := by
  obtain ⟨a, rfl⟩ := Nat.exists_eq_add_of_le hl
  obtain ⟨b, rfl⟩ := Nat.exists_eq_add_of_lt ha
  unfold bitsOf putBits
  congr 1
  have h1 : (2 : Nat) ^ (lo + a + 1) = 2 ^ lo * 2 ^ (a + 1) := by rw [← pow_add]; congr 1
  rw [show lo + a + 1 - lo = a + 1 by omega, show lo + a + b + 1 = (lo + a + 1) + b by omega, pow_add 2 (lo + a + 1) b,
    ← Nat.div_div_eq_div_mul, ← Nat.div_div_eq_div_mul]
  congr 1
  have p := Nat.mod_lt v (Nat.two_pow_pos (a + 1))
  have q := Nat.mod_lt n (Nat.two_pow_pos lo)
  rw [show n / 2 ^ (lo + a + 1) * 2 ^ (lo + a + 1) + v % 2 ^ (a + 1) * 2 ^ lo + n % 2 ^ lo
    = (v % 2 ^ (a + 1) * 2 ^ lo + n % 2 ^ lo) + 2 ^ (lo + a + 1) * (n / 2 ^ (lo + a + 1)) by ring,
    Nat.add_mul_div_left _ _ (Nat.two_pow_pos _), Nat.div_eq_of_lt, Nat.zero_add]
  rw [h1]
  generalize v % 2 ^ (a + 1) = y at *
  generalize n % 2 ^ lo = z at *
  generalize (2 : Nat) ^ lo = L at *
  generalize (2 : Nat) ^ (a + 1) = M at *
  nlinarith [Nat.mul_le_mul_right L (Nat.succ_le_of_lt p)]

/-- A field below the one written is as it was. -/
theorem bitsOf_putBits_below {n hi lo v h l : Nat} (hl : lo ≤ hi) (hh : l ≤ h) (hb : h < lo) :
    bitsOf (putBits n hi lo v) h l = bitsOf n h l := by
  obtain ⟨a, rfl⟩ := Nat.exists_eq_add_of_le hl
  obtain ⟨c, rfl⟩ := Nat.exists_eq_add_of_le hh
  obtain ⟨b, rfl⟩ := Nat.exists_eq_add_of_lt hb
  unfold bitsOf putBits
  have e : (2 : Nat) ^ (l + c + b + 1) = 2 ^ l * (2 ^ (c + 1) * 2 ^ b) := by
    rw [← pow_add, ← pow_add]; congr 1; omega
  have e2 : ∀ x y : Nat, x * 2 ^ (l + c + b + 1 + a + 1) + y * 2 ^ (l + c + b + 1)
      = 2 ^ l * (2 ^ (c + 1) * (2 ^ b * (x * 2 ^ (a + 1) + y))) := by
    intro x y; rw [show l + c + b + 1 + a + 1 = (l + c + b + 1) + (a + 1) by omega, pow_add, e]; ring
  rw [e2, Nat.add_comm, Nat.add_mul_div_left _ _ (Nat.two_pow_pos l), show l + c + 1 - l = c + 1 by omega,
    Nat.add_mul_mod_self_left, e, Nat.mod_mul_right_div_self, Nat.mod_mul_right_mod]

/-! ## Fields -/

/-- The ends of a field lie in the right order within a word. -/
def Fld.sound (f : Fld) : Prop := f.lo ≤ f.hi ∧ f.hi ≤ 31

theorem toNat_put (f : Fld) (hf : f.sound) (v : Nat) :
    (Word.ofNat (putBits (rd f.addr s).toNat f.hi f.lo v)).toNat = putBits (rd f.addr s).toNat f.hi f.lo v := by
  have := putBits_lt (v := v) (rd f.addr s).isLt hf.2 hf.1
  simpa [Word.ofNat] using Nat.mod_eq_of_lt this

/-- A field just written reads what was written, cut to its width. -/
theorem getF_setF_same (f : Fld) (v : Nat) (hf : f.sound) (h : s.Canonical) :
    getF f (setF f v s) = v % 2 ^ (f.hi + 1 - f.lo) := by
  unfold getF setF
  rw [rd_wr_same _ _ h, toNat_put f hf, bitsOf_putBits_same hf.1]

/-- A field of another register is as it was. -/
theorem getF_setF_other (f g : Fld) (v : Nat) (hf : f.addr ≠ g.addr) : getF f (setF g v s) = getF f s := by
  unfold getF setF
  rw [rd_wr_other _ hf]

/-- Another field of the same register is as it was. -/
theorem getF_setF_apart (f g : Fld) (v : Nat) (ha : f.addr = g.addr) (hf : f.sound) (hg : g.sound)
    (hd : f.hi < g.lo ∨ g.hi < f.lo) (h : s.Canonical) : getF f (setF g v s) = getF f s := by
  unfold getF setF
  rw [ha, rd_wr_same _ _ h, toNat_put g hg]
  rcases hd with hd | hd
  · exact bitsOf_putBits_below hg.1 hf.1 hd
  · exact bitsOf_putBits_above hg.1 hd

theorem rd_setF_other (a : Nat) (g : Fld) (v : Nat) (ha : a ≠ g.addr) : rd a (setF g v s) = rd a s := rd_wr_other _ ha

end Sys2Proof.Machine
end

