-- ==== Sys2Proof/Laws/Commands.lean ====
section
/-!
SUPPORT. What the running of host commands and the guarding of register writes do, each said once: a served command is its
body on the state in which it is marked as begun, an accepted write is its effect, a single request of a table is served at
once; and marking a command as begun changes what its partition holds and nothing else.
-/

namespace Sys2Proof.Machine

variable {s : State} {op : Nat} {c : Cmd}

/-! ## Marking a command as begun -/

/-- Only what partitions hold can differ after a command is marked as begun. -/
theorem markStarted_eq (op : Nat) (c : Cmd) (s : State) :
    markStarted op c s = { s with hst := (markStarted op c s).hst } := by
  unfold markStarted; split <;> rfl

@[simp] theorem markStarted_regs : (markStarted op c s).regs = s.regs := by rw [markStarted_eq]

@[simp] theorem markStarted_hbm : (markStarted op c s).hbm = s.hbm := by rw [markStarted_eq]

@[simp] theorem markStarted_hostMem : (markStarted op c s).hostMem = s.hostMem := by rw [markStarted_eq]

@[simp] theorem markStarted_poison : (markStarted op c s).poison = s.poison := by rw [markStarted_eq]

@[simp] theorem markStarted_panel : (markStarted op c s).panel = s.panel := by rw [markStarted_eq]

@[simp] theorem markStarted_ras : (markStarted op c s).ras = s.ras := by rw [markStarted_eq]

@[simp] theorem markStarted_lnk : (markStarted op c s).lnk = s.lnk := by rw [markStarted_eq]

@[simp] theorem markStarted_cor : (markStarted op c s).cor = s.cor := by rw [markStarted_eq]

@[simp] theorem markStarted_str : (markStarted op c s).str = s.str := by rw [markStarted_eq]

@[simp] theorem markStarted_dec : (markStarted op c s).dec = s.dec := by rw [markStarted_eq]

@[simp] theorem markStarted_asm : (markStarted op c s).asm = s.asm := by rw [markStarted_eq]

@[simp] theorem markStarted_enc : (markStarted op c s).enc = s.enc := by rw [markStarted_eq]

@[simp] theorem markStarted_egr : (markStarted op c s).egr = s.egr := by rw [markStarted_eq]

@[simp] theorem markStarted_tim : (markStarted op c s).tim = s.tim := by rw [markStarted_eq]

@[simp] theorem markStarted_cue : (markStarted op c s).cue = s.cue := by rw [markStarted_eq]

@[simp] theorem markStarted_rim : (markStarted op c s).rim = s.rim := by rw [markStarted_eq]

@[simp] theorem markStarted_cam : (markStarted op c s).cam = s.cam := by rw [markStarted_eq]

@[simp] theorem markStarted_slc : (markStarted op c s).slc = s.slc := by rw [markStarted_eq]

@[simp] theorem markStarted_pwr : (markStarted op c s).pwr = s.pwr := by rw [markStarted_eq]

@[simp] theorem markStarted_evt : (markStarted op c s).evt = s.evt := by rw [markStarted_eq]

@[simp] theorem markStarted_fwu : (markStarted op c s).fwu = s.fwu := by rw [markStarted_eq]

@[simp] theorem markStarted_out : (markStarted op c s).out = s.out := by rw [markStarted_eq]

@[simp] theorem markStarted_free : (markStarted op c s).free = s.free := by rw [markStarted_eq]

@[simp] theorem markStarted_pending : (markStarted op c s).pending = s.pending := by rw [markStarted_eq]

@[simp] theorem markStarted_linkUps (p : Nat) : (markStarted op c s).linkUp p = s.linkUp p := by
  unfold markStarted; split <;> rfl

@[simp] theorem markStarted_rd (a : Nat) : rd a (markStarted op c s) = rd a s := by simp [rd]

@[simp] theorem markStarted_getF (f : Fld) : getF f (markStarted op c s) = getF f s := by simp [getF]

@[simp] theorem markStarted_getB (f : Fld) : getB f (markStarted op c s) = getB f s := by simp [getB]

@[simp] theorem markStarted_mainOn : mainOn (markStarted op c s) = mainOn s := by simp [mainOn]

@[simp] theorem markStarted_blockState (p : Nat) : blockState p (markStarted op c s) = blockState p s := by simp [blockState]

@[simp] theorem markStarted_isOn (p : Nat) : isOn p (markStarted op c s) = isOn p s := by simp [isOn]

@[simp] theorem markStarted_offOrParked (p : Nat) : offOrParked p (markStarted op c s) = offOrParked p s := by
  simp [offOrParked]

@[simp] theorem markStarted_stackDead (a : Nat) : stackDead a (markStarted op c s) = stackDead a s := by simp [stackDead]

@[simp] theorem markStarted_hbmGet (a : Nat) : hbmGet a (markStarted op c s) = hbmGet a s := by simp [hbmGet]

@[simp] theorem markStarted_memRead (sp : Space) (a n : Nat) : memRead sp a n (markStarted op c s) = memRead sp a n s := by
  unfold memRead
  refine List.map_congr_left fun i _ => ?_
  cases sp <;> simp [memGet]

@[simp] theorem markStarted_hbmPoisoned (a n : Nat) : hbmPoisoned a n (markStarted op c s) = hbmPoisoned a n s := by
  simp [hbmPoisoned]

@[simp] theorem markStarted_hostDown (p : Nat) : hostDown p (markStarted op c s) = hostDown p s := by simp [hostDown]

@[simp] theorem markStarted_opSpace (d : Cmd) (o : Operand) : opSpace d o (markStarted op c s) = opSpace d o s := by
  simp only [opSpace]; cases d.who <;> simp

@[simp] theorem markStarted_srcBytes (d : Cmd) : srcBytes d (markStarted op c s) = srcBytes d s := by simp [srcBytes]

@[simp] theorem markStarted_srcWords (d : Cmd) : srcWords d (markStarted op c s) = srcWords d s := by simp [srcWords]

@[simp] theorem markStarted_srcBad (d : Cmd) : srcBad d (markStarted op c s) = srcBad d s := by
  simp only [srcBad, giverDown]; cases d.who <;> simp

@[simp] theorem markStarted_dstBad (d : Cmd) : dstBad d (markStarted op c s) = dstBad d s := by
  simp only [dstBad, giverDown]; cases d.who <;> simp

@[simp] theorem markStarted_actingAdmin : actingAdmin (markStarted op c s) = actingAdmin s := by simp [actingAdmin]

@[simp] theorem markStarted_isOwner (w : Who) (p : Nat) : isOwner w p (markStarted op c s) = isOwner w p s := by
  cases w <;> simp [isOwner]

@[simp] theorem markStarted_isAdmin (w : Who) : isAdmin w (markStarted op c s) = isAdmin w s := by cases w <;> simp [isAdmin]

/-! ## Commands -/

/-- A served command runs its body. -/
theorem runCmd_served {body : State → State} (h : Served op c s) : runCmd op c body s = body (markStarted op c s) := by
  simp [runCmd, h.1, h.2]

/-- A command whose block reads OFF, STOPPING or FAULT completes with NOT_READY (R477). -/
theorem runCmd_notReady {body : State → State} (h : mayStart op c s = true) (g : gate (judgedPages op c) s = .notReady) :
    runCmd op c body s = answer op c NOT_READY (markStarted op c s) := by simp [runCmd, h, g]

/-- The words of an operand that reads go on. -/
theorem withSrc_reads {f : List Word → State → State} (h : srcBad c s = false) : withSrc op c f s = f (srcWords c s) s := by
  simp [withSrc, h]

theorem withLen_reads {n : Nat} {f : List Word → State → State} (h : SrcReads c n s) :
    withLen op c n f s = f (srcWords c s) s := by simp [withLen, h.1, withSrc_reads h.2]

@[simp] theorem srcReads_started {n : Nat} {d : Cmd} : SrcReads d n (markStarted op c s) ↔ SrcReads d n s := by simp [SrcReads]

/-- A single request of a cycle goes to the body alone. -/
theorem runReqs_one {α : Type} {o : α → Nat} {m : α → Cmd} {r : α} {body : List α → State → State} (h : Served (o r) (m r) s) :
    runReqs o m [r] body s = body [r] (markStarted (o r) (m r) s) := by simp [runReqs, h.1, h.2, each]

theorem runTies_one {body : List Cmd → State → State} (h : Served op c s) :
    runTies op [c] body s = body [c] (markStarted op c s) := runReqs_one h

/-- A single request of a table is served, and the tie pointer stays (R41). -/
theorem serveInOrder_one {α : Type} {ptr : Fld} {n : Nat} {fw : α → Bool} {idx : α → Nat} {r : α} {serve : α → State → State} :
    serveInOrder ptr n fw idx [r] serve s = serve r s := by
  cases h : fw r <;> simp [serveInOrder, h, tieSort, tieInsert, each, requesters, List.eraseDups, List.eraseDupsBy, List.eraseDupsBy.loop]

theorem serveTable_one {ptr : Fld} {n : Nat} {serve : Cmd → State → State} : serveTable ptr n [c] serve s = serve c s :=
  serveInOrder_one

/-! ## The state of a page after a field is set -/

theorem mainOn_setF {f : Fld} (v : Nat) (h : f.addr ≠ PWR_STAT_MAIN_EN.addr) : mainOn (setF f v s) = mainOn s := by
  unfold mainOn getB; rw [getF_setF_other _ _ _ h.symm]; rfl

/-- A page's state does not depend on a field that is neither in its PG_STAT nor in PWR_STAT. -/
theorem blockState_setF {f : Fld} (v p : Nat) (h : f.addr ≠ PWR_STAT_MAIN_EN.addr) (h8 : f.addr % 4096 ≠ 8) :
    blockState p (setF f v s) = blockState p s := by
  have e : ∀ q, getF (PG_STAT_STATE q) (setF f v s) = getF (PG_STAT_STATE q) s := fun q =>
    getF_setF_other _ _ _ (by intro he; apply h8; rw [← he]; show (4096 * q + 8) % 4096 = 8; omega)
  simp only [blockState, mainOn_setF v h, e]

theorem isOn_setF {f : Fld} (v p : Nat) (h : f.addr ≠ PWR_STAT_MAIN_EN.addr) (h8 : f.addr % 4096 ≠ 8) :
    isOn p (setF f v s) = isOn p s := by unfold isOn; rw [blockState_setF v p h h8]

/-! ## Writes -/

theorem guardWrite_ok {who : Who} {page addr : Nat} {ok : Bool} {f : State → State} (h1 : assigned page = true)
    (h2 : answers page s = true) (h3 : ok = true) : guardWrite who page addr ok f s = f s := by simp [guardWrite, h1, h2, h3]

/-- A write to a page that answers, by an accessor it does not accept, is counted in the writer's page and discarded
(R471). -/
theorem guardWrite_reject {who : Who} {page addr : Nat} {ok : Bool} {f : State → State} (h1 : assigned page = true)
    (h2 : answers page s = true) (h3 : ok = false) : guardWrite who page addr ok f s = rejectWrite who s := by
  simp [guardWrite, h1, h2, h3]

/-! ## Pages with a number -/

@[simp] theorem assigned_tim (i : Fin 2) : assigned (0x11 + i.val) = true := by revert i; decide

@[simp] theorem assigned_net (i : Fin 5) : assigned (0x20 + i.val) = true := by revert i; decide

@[simp] theorem assigned_str (i : Fin 8) : assigned (0x28 + i.val) = true := by revert i; decide

@[simp] theorem assigned_syn (i : Fin 8) : assigned (0x80 + i.val) = true := by revert i; decide

@[simp] theorem assigned_ras (i : Fin 4) : assigned (0x90 + i.val) = true := by revert i; decide

@[simp] theorem assigned_lnk (i : Fin 64) : assigned (0x100 + i.val) = true := by revert i; decide

@[simp] theorem assigned_enc (i : Fin 4) : assigned (0x150 + i.val) = true := by revert i; decide

@[simp] theorem assigned_cam (i : Fin 2) : assigned (0x160 + i.val) = true := by revert i; decide

@[simp] theorem assigned_hbm (i : Fin 4) : assigned (0x170 + i.val) = true := by revert i; decide

@[simp] theorem assigned_hst (i : Fin 8) : assigned (0x190 + i.val) = true := by revert i; decide

end Sys2Proof.Machine
end

