-- ==== Sys2Proof/Laws/Events.lean ====
section
/-!
SUPPORT. Everything that raising an event can do (R485, R519, R520): it sets event registers, and touches what partitions
hold of deliveries, the counts of raises and what leaves the device. Every other register and every block is as it was.
-/

namespace Sys2Proof.Machine

theorem EventOnly.refl (s : State) : EventOnly s s := by constructor <;> intros <;> rfl

theorem EventOnly.trans {s t u : State} (h : EventOnly s t) (k : EventOnly t u) : EventOnly s u where
  rd a ha := (k.rd a ha).trans (h.rd a ha)
  hbm := k.hbm.trans h.hbm
  hostMem := k.hostMem.trans h.hostMem
  poison := k.poison.trans h.poison
  panel := k.panel.trans h.panel
  ras := k.ras.trans h.ras
  lnk := k.lnk.trans h.lnk
  cor := k.cor.trans h.cor
  str := k.str.trans h.str
  dec := k.dec.trans h.dec
  asm := k.asm.trans h.asm
  enc := k.enc.trans h.enc
  egr := k.egr.trans h.egr
  tim := k.tim.trans h.tim
  cue := k.cue.trans h.cue
  rim := k.rim.trans h.rim
  cam := k.cam.trans h.cam
  slc := k.slc.trans h.slc
  pwr := k.pwr.trans h.pwr
  fwu := k.fwu.trans h.fwu
  free := k.free.trans h.free
  pending := k.pending.trans h.pending

theorem EventOnly.wr {s t : State} (h : EventOnly s t) {a : Nat} (w : Word) (ha : eventReg a = true) :
    EventOnly s (wr a w t) :=
  h.trans (by
    constructor <;> intros <;> try rfl
    rename_i b hb
    exact rd_wr_other w (by rintro rfl; simp_all))

theorem EventOnly.setF {s t : State} (h : EventOnly s t) {f : Fld} (v : Nat) (ha : eventReg f.addr = true) :
    EventOnly s (setF f v t) := h.wr _ ha

theorem EventOnly.setPrt {s t : State} (h : EventOnly s t) (i : Nat) (v : Part) : EventOnly s (t.setPrt i v) :=
  h.trans (by constructor <;> intros <;> rfl)

theorem EventOnly.setMsixT {s t : State} (h : EventOnly s t) (i : Nat) (v : MsixTable) : EventOnly s (t.setMsixT i v) :=
  h.trans (by constructor <;> intros <;> rfl)

theorem EventOnly.evt {s t : State} (h : EventOnly s t) (e : Evt) : EventOnly s { t with evt := e } :=
  h.trans (by constructor <;> intros <;> rfl)

theorem EventOnly.emit {s t : State} (h : EventOnly s t) (o : Out) : EventOnly s (emit o t) :=
  h.trans (by constructor <;> intros <;> rfl)

theorem EventOnly.ite {s t u : State} {c : Prop} [Decidable c] (ht : EventOnly s t) (hu : EventOnly s u) :
    EventOnly s (if c then t else u) := by split <;> assumption

theorem EventOnly.foldl {α : Type} {s t : State} {f : State → α → State} (l : List α) (h : EventOnly s t)
    (hf : ∀ u, ∀ a ∈ l, EventOnly s u → EventOnly s (f u a)) : EventOnly s (l.foldl f t) := by
  induction l generalizing t with
  | nil => exact h
  | cons a r ih => exact ih (hf t a (by simp) h) (fun u b hb => hf u b (by simp [hb]))

/-- Fields of registers that no event writes are as they were. -/
theorem EventOnly.getF {s t : State} (h : EventOnly s t) (f : Fld) (hf : eventReg f.addr = false) : getF f t = getF f s := by
  unfold Machine.getF; rw [h.rd _ hf]

/-! ## Events -/

/-- Every number an option holds lies below 0x800. -/
def NumLt (o : Option Nat) : Prop := ∀ n, o = some n → n < 0x800

theorem numLt_none : NumLt none := by intro n h; cases h

theorem numLt_or {a b : Option Nat} (ha : NumLt a) (hb : NumLt b) : NumLt (a.or b) := by
  cases a with
  | none => simpa using hb
  | some x => simpa using ha

theorem numLt_seg {b lo hi base : Nat} (h : base + (hi - lo) < 0x800) :
    NumLt (if lo ≤ b ∧ b ≤ hi then some (base + (b - lo)) else none) := by
  intro n hn
  split at hn
  · simp only [Option.some.injEq] at hn; omega
  · cases hn

theorem numLt_ite {c : Prop} [Decidable c] {a b : Option Nat} (ha : c → NumLt a) (hb : ¬c → NumLt b) :
    NumLt (if c then a else b) := by
  split
  · exact ha ‹_›
  · exact hb ‹_›

theorem numLt_some {n : Nat} (h : n < 0x800) : NumLt (some n) := by intro m hm; cases hm; exact h

/-- Event numbers lie below 0x800 (R485). -/
theorem evNum_numLt (page b : Nat) : NumLt (evNum page b) := by
  unfold evNum
  dsimp only
  repeat' first
    | with_reducible exact numLt_none
    | with_reducible apply numLt_or
    | (with_reducible apply numLt_seg; omega)
    | (with_reducible apply numLt_some; omega)
    | with_reducible refine numLt_ite (fun _ => ?_) (fun _ => ?_)

theorem evNum_lt {page b n : Nat} (h : evNum page b = some n) : n < 0x800 := evNum_numLt page b n h

theorem eventReg_raw (page : Nat) : eventReg (EV_RAW page).addr = true := by
  have : (EV_RAW page).addr % 4096 = 0x10 := by show (4096 * page + 0x10) % 4096 = 0x10; omega
  simp [eventReg, this]

theorem eventReg_pend (page : Nat) : eventReg (EV_PEND page).addr = true := by
  have : (EV_PEND page).addr % 4096 = 0x18 := by show (4096 * page + 0x18) % 4096 = 0x18; omega
  simp [eventReg, this]

theorem eventReg_epend {p w : Nat} (hp : p < 8) (hw : w < 64) : eventReg (HST_EPEND p w).addr = true := by
  have h1 : (HST_EPEND p w).addr / 4096 = 0x190 + p := by
    show (0x190400 + 4096 * p + 4 * w) / 4096 = _; omega
  have h2 : (HST_EPEND p w).addr % 4096 = 0x400 + 4 * w := by
    show (0x190400 + 4096 * p + 4 * w) % 4096 = _; omega
  simp only [eventReg, h1, h2, Bool.or_eq_true, Bool.and_eq_true, decide_eq_true_eq]; omega

theorem eventReg_schg {w : Nat} (hw : w < 14) : eventReg (SYS_SCHG w).addr = true := by
  have h : (SYS_SCHG w).addr = 0x200 + 4 * w := rfl
  simp only [eventReg, h, Bool.or_eq_true, Bool.and_eq_true, decide_eq_true_eq]; omega

theorem eventReg_flt {w : Nat} (hw : w < 14) : eventReg (SYS_FLT w).addr = true := by
  have h : (SYS_FLT w).addr = 0x240 + 4 * w := rfl
  simp only [eventReg, h, Bool.or_eq_true, Bool.and_eq_true, decide_eq_true_eq]; omega

variable {s t : State}

theorem notify_only (h : EventOnly s t) (p n vec : Nat) : EventOnly s (notify p n vec t) := by
  unfold notify msixSend
  dsimp only
  repeat' first
    | exact h
    | exact h.setPrt _ _
    | exact h.setMsixT _ _
    | exact h.emit _
    | apply EventOnly.ite

theorem deliverTo_only (h : EventOnly s t) {p n : Nat} (vec : Nat) (hp : p < 8) (hn : n < 0x800) :
    EventOnly s (deliverTo p n vec t) := by
  unfold deliverTo
  dsimp only
  split
  · exact h
  · exact notify_only (h.setF _ (eventReg_epend hp (by omega))) p n vec

theorem deliver_only (h : EventOnly s t) (page : Nat) {n : Nat} (hn : n < 0x800) : EventOnly s (deliver page n t) := by
  unfold deliver deliverAsleep
  split
  · split
    · exact h
    · refine EventOnly.foldl _ h fun u p hp hu => ?_
      have hp : p < 8 := by simpa using hp
      dsimp only
      split
      · exact hu
      · split
        · split
          · exact deliverTo_only hu _ hp hn
          · exact hu.setPrt _ _
        · split
          · exact hu.evt _
          · exact hu
  · split
    · exact h
    · refine EventOnly.foldl _ h fun u p hp hu => ?_
      have hp : p < 8 := by simpa using hp
      split
      · exact deliverTo_only hu _ hp hn
      · exact hu

theorem raiseCore_only (h : EventOnly s t) (page b : Nat) : EventOnly s (raiseCore page b t) := by
  have h1 : EventOnly s (orF (EV_RAW page) (2 ^ b) t) := h.setF _ (eventReg_raw page)
  unfold raiseCore
  cases e : evNum page b with
  | none =>
    dsimp only
    split
    · exact h1
    · exact h1.setF _ (eventReg_pend page)
  | some n =>
    have h2 := h1.evt { (orF (EV_RAW page) (2 ^ b) t).evt with
      raised := FMap.set 0 (orF (EV_RAW page) (2 ^ b) t).evt.raised n (((orF (EV_RAW page) (2 ^ b) t).raisedCnt n + 1) % 2 ^ 32) }
    dsimp only
    split
    · exact h2
    · exact deliver_only (EventOnly.setF h2 _ (eventReg_pend page)) page (evNum_lt e)

theorem summary_only (h : EventOnly s t) (page b : Nat) (c : Bool) : EventOnly s (summary page b c t) := by
  unfold summary
  split
  · split
    · exact h
    · exact raiseCore_only h page b
  · exact h.setF _ (eventReg_raw page)

/-- Raising an event of an assigned page changes event registers and deliveries alone. -/
theorem raise_only (h : EventOnly s t) {page : Nat} (b : Nat) (hp : page < 0x1C0) : EventOnly s (raise page b t) := by
  have h1 := raiseCore_only h page b
  unfold raise
  dsimp only
  split
  · refine summary_only (summary_only (EventOnly.setF h1 _ ?_) 0 2 _) 0 3 _
    split
    · exact eventReg_schg (by omega)
    · exact eventReg_flt (by omega)
  · exact h1

/-- A field that no event writes is as it was after a raise. -/
theorem getF_raise (f : Fld) {page : Nat} (b : Nat) (hp : page < 0x1C0) (hf : eventReg f.addr = false) :
    getF f (raise page b s) = getF f s := (raise_only (EventOnly.refl s) b hp).getF f hf

end Sys2Proof.Machine
end

