-- ==== Sys2Proof/Laws/Flash.lean ====
section
/-!
SUPPORT. What the logs and records of the flash hold: the data of a key, and that erasing sectors loses none of it (R503); a boot
record read back (R492).
-/

namespace Sys2Proof.Machine


/-- A record of a log sets its key, if it is good. -/
theorem liveItems_append (l : List CfgRec) (r : CfgRec) :
    liveItems (l ++ [r]) = if r.ok then FMap.set [] (liveItems l) r.key r.data else liveItems l := by
  simp [liveItems, List.foldl_append]
/-- The live items are in canonical form. -/
theorem liveItems_wf (l : List CfgRec) : FMap.wf (fun _ => []) (liveItems l) = true := by
  induction l using List.reverseRecOn with
  | nil => rfl
  | append_singleton l r ih => rw [liveItems_append]; split; exacts [FMap.wf_set _ _ _ _ ih, ih]

/-- The data of the newest good record of a key. -/
def lastOk (k : Nat) (l : List CfgRec) : Option CfgRec := (l.filter (fun x => x.ok && decide (x.key = k))).getLast?
/-- The newest good record of a log in two parts. -/
theorem lastOk_append (k : Nat) (l m : List CfgRec) : lastOk k (l ++ m) = (lastOk k m).or (lastOk k l) := by
  unfold lastOk; rw [List.filter_append, List.getLast?_append]
/-- What a log holds for a key. -/
theorem liveItems_get (k : Nat) (l : List CfgRec) : FMap.get [] (liveItems l) k = ((lastOk k l).map (fun r => r.data)).getD [] := by
  induction l using List.reverseRecOn with
  | nil => rfl
  | append_singleton l r ih =>
    rw [liveItems_append, lastOk_append]
    by_cases ho : r.ok = true
    · rw [if_pos ho]
      by_cases hk : k = r.key
      · subst hk
        rw [FMap.get_set_same (fun _ => []) none _ _ _ (liveItems_wf l)]
        simp [lastOk, ho]
      · rw [FMap.get_set_other [] [] _ _ _ _ hk, ih]
        have : lastOk k [r] = none := by simp [lastOk, ho]; exact fun e => hk e.symm
        rw [this]; rfl
    · rw [if_neg ho, ih]
      have : lastOk k [r] = none := by simp [lastOk, ho]
      rw [this]; rfl

/-- The newest good record is one. -/
theorem lastOk_some {k : Nat} {l : List CfgRec} {r : CfgRec} (h : lastOk k l = some r) : r ∈ l ∧ r.ok = true ∧ r.key = k := by
  have := List.mem_of_getLast? h
  simpa using this
/-- Without a newest good record there is none. -/
theorem lastOk_none {k : Nat} {l : List CfgRec} (h : lastOk k l = none) (r : CfgRec) (hr : r ∈ l) (ho : r.ok = true) : r.key ≠ k := by
  intro e
  have := List.getLast?_eq_none_iff.1 h
  have : r ∈ l.filter (fun x => x.ok && decide (x.key = k)) := by simp [hr, ho, e]
  simp_all
/-- The data of a key in a log. -/
def dataOf (k : Nat) (l : List CfgRec) : Option (List Byte) := (lastOk k l).map (fun r => r.data)
/-- The data of a key in a log in two parts. -/
theorem dataOf_append (k : Nat) (l m : List CfgRec) : dataOf k (l ++ m) = (dataOf k m).or (dataOf k l) := by
  unfold dataOf; rw [lastOk_append]; cases lastOk k m <;> rfl
/-- Records written again keep what they say of each key. -/
theorem rewritten (kept : List CfgRec) (hk : ∀ r ∈ kept, r.ok = true) (l : List CfgRec) :
    ∃ R, kept.foldl (fun l r => appendRec r.key r.data l) l = l ++ R ∧ ∀ k, dataOf k R = dataOf k kept := by
  induction kept generalizing l with
  | nil => exact ⟨[], by simp, fun _ => rfl⟩
  | cons r rest ih =>
    obtain ⟨R, h1, h2⟩ := ih (fun x hx => hk x (List.mem_cons_of_mem _ hx)) (appendRec r.key r.data l)
    refine ⟨[⟨r.key, nextCount l, true, r.data⟩] ++ R, ?_, fun k => ?_⟩
    · rw [List.foldl_cons, h1]; unfold appendRec; rw [List.append_assoc]
    · rw [dataOf_append, show r :: rest = [r] ++ rest from rfl, dataOf_append, h2]
      have : dataOf k [⟨r.key, nextCount l, true, r.data⟩] = dataOf k [r] := by
        by_cases e : r.key = k <;> simp [dataOf, lastOk, hk r (List.mem_cons_self ..), e]
      rw [this]
/-- The records of the oldest sector are a prefix. -/
theorem firstRecs_prefix (n : Nat) (l : List CfgRec) : l = firstRecs n l ++ l.drop (firstRecs n l).length := by
  induction l generalizing n with
  | nil => rfl
  | cons r rest ih =>
    unfold firstRecs; split
    · rfl
    · simp only [List.cons_append, List.length_cons, List.drop_succ_cons]; rw [← ih]
/-- Erasing sectors changes the data of no key. -/
theorem reclaim_data (n need : Nat) (l : List CfgRec) (k : Nat) : dataOf k (reclaim n need l) = dataOf k l := by
  induction n generalizing l with
  | zero => rfl
  | succ n ih =>
    unfold reclaim; split
    · rfl
    · dsimp only
      rw [ih]
      have hp := firstRecs_prefix 65536 l
      generalize firstRecs 65536 l = old at *
      obtain ⟨R, h1, h2⟩ := rewritten (old.filter (isLive l)) (fun r hr => by simp [isLive] at hr; exact hr.2.1) l
      rw [h1]
      have : (l ++ R).drop old.length = l.drop old.length ++ R := by
        rw [List.drop_append_of_le_length]; rw [hp]; simp
      rw [this, dataOf_append, h2]
      generalize l.drop old.length = rest at *
      rw [hp, dataOf_append, ← hp]
      unfold dataOf
      cases hkk : lastOk k (old.filter (isLive l)) with
      | some r =>
        obtain ⟨a, b, c⟩ := lastOk_some hkk
        have hl : lastOk k l = some r := by
          simp only [List.mem_filter, isLive, Bool.and_eq_true, beq_iff_eq] at a
          rw [← c]; exact a.2.2
        have hl' := hl
        rw [hp, lastOk_append] at hl'
        cases hr : lastOk k rest with
        | some x => rw [hr] at hl'; simp at hl'; subst hl'; rfl
        | none => rw [hr] at hl'; simp at hl'; rw [hl']; rfl
      | none =>
        cases hr : lastOk k rest with
        | some x => rfl
        | none =>
          cases ho : lastOk k old with
          | none => rfl
          | some x =>
            obtain ⟨a, b, c⟩ := lastOk_some ho
            have hl : lastOk k l = some x := by rw [hp, lastOk_append, hr, ho]; rfl
            refine absurd c (lastOk_none hkk x ?_ b)
            simp only [List.mem_filter, isLive, Bool.and_eq_true, beq_iff_eq]
            exact ⟨a, b, by rw [c]; exact hl⟩

/-- A stored boot record is read as it was written. -/
theorem parse_boot (r : BootRec) (h1 : r.seq < 2 ^ 32) (h2 : r.tries < 4) : parseBoot (bootWords r) = some r := by
  obtain ⟨seq, slot, trial, tries, cf, tc⟩ := r
  dsimp only at h1 h2
  unfold bootWords
  dsimp only
  generalize hw : bit slot * 2 ^ 31 + bit trial * 2 ^ 30 + tries % 4 * 2 ^ 28 + bit cf * 2 ^ 27 + bit tc * 2 ^ 26 = n
  have hn : n < 2 ^ 32 := by rw [← hw]; cases slot <;> cases trial <;> cases cf <;> cases tc <;> interval_cases tries <;> decide
  have e2 : (Word.ofNat n).toNat = n := by rw [Word.ofNat, BitVec.toNat_ofNat]; exact Nat.mod_eq_of_lt hn
  have e1 : (Word.ofNat seq).toNat = seq := by rw [Word.ofNat, BitVec.toNat_ofNat]; exact Nat.mod_eq_of_lt h1
  unfold parseBoot
  rw [if_neg]
  · have b : bitOf n 31 = slot ∧ bitOf n 30 = trial ∧ bitsOf n 29 28 = tries ∧ bitOf n 27 = cf ∧ bitOf n 26 = tc := by
      rw [← hw]; clear hw hn e2
      cases slot <;> cases trial <;> cases cf <;> cases tc <;> interval_cases tries <;> decide
    simp only [wordAt, fieldAt, List.cons_append, List.nil_append, List.getD_cons_succ, List.getD_cons_zero, e1, e2, b.1, b.2.1, b.2.2.1, b.2.2.2.1, b.2.2.2.2]
  · simp [fieldAt, wordAt, bitsOf]

/-- The next sequence number is the newer one. -/
theorem diff_succ (n : Nat) (h : n < 2 ^ 32) : diff32 ((n + 1) % 2 ^ 32) n = 1 ∧ diff32 n ((n + 1) % 2 ^ 32) = -1 := by
  unfold diff32 toSigned
  constructor <;> (dsimp only; split <;> omega)

end Sys2Proof.Machine
end

