-- ==== Sys2Proof/Laws/Kept/Access.lean ====
section
/-!
SUPPORT. Every operation of Machine/Access.lean keeps the queue and the canonical form.
-/

namespace Sys2Proof.Machine

set_option linter.unusedTactic false
set_option linter.unreachableTactic false
set_option linter.unusedSimpArgs false

variable {Q : List Instr} {K : Prop} {s : State}

theorem setF_kept {f : Fld} {v : Nat} (H0 : Kept Q K s) :
    Kept Q K (setF f v s) := by
  delta setF
  repeat' first
    | with_reducible assumption
    | intro _
    | with_reducible apply kept_ite
    | with_reducible apply wr_kept

theorem setB_kept {f : Fld} {b : Bool} (H0 : Kept Q K s) :
    Kept Q K (setB f b s) := by
  delta setB
  repeat' first
    | with_reducible assumption
    | intro _
    | with_reducible apply kept_ite
    | with_reducible apply setF_kept

theorem countF_kept {f : Fld} (H0 : Kept Q K s) :
    Kept Q K (countF f s) := by
  delta countF
  repeat' first
    | with_reducible assumption
    | intro _
    | with_reducible apply kept_ite
    | with_reducible apply setF_kept

theorem addF_kept {f : Fld} {n : Nat} (H0 : Kept Q K s) :
    Kept Q K (addF f n s) := by
  delta addF
  repeat' first
    | with_reducible assumption
    | intro _
    | with_reducible apply kept_ite
    | with_reducible apply setF_kept

theorem orF_kept {f : Fld} {m : Nat} (H0 : Kept Q K s) :
    Kept Q K (orF f m s) := by
  delta orF
  repeat' first
    | with_reducible assumption
    | intro _
    | with_reducible apply kept_ite
    | with_reducible apply setF_kept

theorem clearF_kept {f : Fld} {m : Nat} (H0 : Kept Q K s) :
    Kept Q K (clearF f m s) := by
  delta clearF
  repeat' first
    | with_reducible assumption
    | intro _
    | with_reducible apply kept_ite
    | with_reducible apply setF_kept

theorem poisonWord_kept {w : Nat} (H0 : Kept Q K s) :
    Kept Q K (poisonWord w s) := by
  delta poisonWord
  repeat' first
    | with_reducible assumption
    | intro _
    | with_reducible apply kept_ite
    | (simp only [kept_mk_iff]; with_reducible exact Kept.parts ‹_›)
    | (simp only [kept_mk_iff]; with_reducible refine Kept.parts ?_)

theorem State.setGrp_kept {i : Nat} {v : GroupRun} (H0 : Kept Q K s) :
    Kept Q K (State.setGrp i v s) := by
  delta State.setGrp
  repeat' first
    | with_reducible assumption
    | intro _
    | (extract_lets +onlyGivenNames t; refine (have ht : Kept Q K t := ?_; ?_); subst t; rotate_left; clear_value t)
    | (extract_lets +onlyGivenNames t; clear_value t)
    | with_reducible apply kept_ite
    | (simp only [kept_mk_iff]; with_reducible exact Kept.parts ‹_›)
    | (simp only [kept_mk_iff]; with_reducible refine Kept.parts ?_)

theorem State.setPool_kept {i : Nat} {v : Portion} (H0 : Kept Q K s) :
    Kept Q K (State.setPool i v s) := by
  delta State.setPool
  repeat' first
    | with_reducible assumption
    | intro _
    | (extract_lets +onlyGivenNames t; refine (have ht : Kept Q K t := ?_; ?_); subst t; rotate_left; clear_value t)
    | (extract_lets +onlyGivenNames t; clear_value t)
    | with_reducible apply kept_ite
    | (simp only [kept_mk_iff]; with_reducible exact Kept.parts ‹_›)
    | (simp only [kept_mk_iff]; with_reducible refine Kept.parts ?_)

theorem State.setFan_kept {i : Nat} {v : Fan} (H0 : Kept Q K s) :
    Kept Q K (State.setFan i v s) := by
  delta State.setFan
  repeat' first
    | with_reducible assumption
    | intro _
    | (extract_lets +onlyGivenNames t; refine (have ht : Kept Q K t := ?_; ?_); subst t; rotate_left; clear_value t)
    | (extract_lets +onlyGivenNames t; clear_value t)
    | with_reducible apply kept_ite
    | (simp only [kept_mk_iff]; with_reducible exact Kept.parts ‹_›)
    | (simp only [kept_mk_iff]; with_reducible refine Kept.parts ?_)

theorem State.setJet_kept {i : Nat} {v : Jet} (H0 : Kept Q K s) :
    Kept Q K (State.setJet i v s) := by
  delta State.setJet
  repeat' first
    | with_reducible assumption
    | intro _
    | (extract_lets +onlyGivenNames t; refine (have ht : Kept Q K t := ?_; ?_); subst t; rotate_left; clear_value t)
    | (extract_lets +onlyGivenNames t; clear_value t)
    | with_reducible apply kept_ite
    | (simp only [kept_mk_iff]; with_reducible exact Kept.parts ‹_›)
    | (simp only [kept_mk_iff]; with_reducible refine Kept.parts ?_)

theorem State.setProbe_kept {i : Nat} {v : Probe} (H0 : Kept Q K s) :
    Kept Q K (State.setProbe i v s) := by
  delta State.setProbe
  repeat' first
    | with_reducible assumption
    | intro _
    | (extract_lets +onlyGivenNames t; refine (have ht : Kept Q K t := ?_; ?_); subst t; rotate_left; clear_value t)
    | (extract_lets +onlyGivenNames t; clear_value t)
    | with_reducible apply kept_ite
    | (simp only [kept_mk_iff]; with_reducible exact Kept.parts ‹_›)
    | (simp only [kept_mk_iff]; with_reducible refine Kept.parts ?_)

theorem State.setLane_kept {i : Nat} {v : Lane} (H0 : Kept Q K s) :
    Kept Q K (State.setLane i v s) := by
  delta State.setLane
  repeat' first
    | with_reducible assumption
    | intro _
    | (extract_lets +onlyGivenNames t; refine (have ht : Kept Q K t := ?_; ?_); subst t; rotate_left; clear_value t)
    | (extract_lets +onlyGivenNames t; clear_value t)
    | with_reducible apply kept_ite
    | (simp only [kept_mk_iff]; with_reducible exact Kept.parts ‹_›)
    | (simp only [kept_mk_iff]; with_reducible refine Kept.parts ?_)

theorem State.setInjLive_kept {i : Nat} {v : Bool} (H0 : Kept Q K s) :
    Kept Q K (State.setInjLive i v s) := by
  delta State.setInjLive
  repeat' first
    | with_reducible assumption
    | intro _
    | (extract_lets +onlyGivenNames t; refine (have ht : Kept Q K t := ?_; ?_); subst t; rotate_left; clear_value t)
    | (extract_lets +onlyGivenNames t; clear_value t)
    | with_reducible apply kept_ite
    | (simp only [kept_mk_iff]; with_reducible exact Kept.parts ‹_›)
    | (simp only [kept_mk_iff]; with_reducible refine Kept.parts ?_)

theorem State.setTileCor_kept {i : Nat} {v : TileCor} (H0 : Kept Q K s) :
    Kept Q K (State.setTileCor i v s) := by
  delta State.setTileCor
  repeat' first
    | with_reducible assumption
    | intro _
    | (extract_lets +onlyGivenNames t; refine (have ht : Kept Q K t := ?_; ?_); subst t; rotate_left; clear_value t)
    | (extract_lets +onlyGivenNames t; clear_value t)
    | with_reducible apply kept_ite
    | (simp only [kept_mk_iff]; with_reducible exact Kept.parts ‹_›)
    | (simp only [kept_mk_iff]; with_reducible refine Kept.parts ?_)

theorem State.setSlot_kept {i : Nat} {v : Slot} (H0 : Kept Q K s) :
    Kept Q K (State.setSlot i v s) := by
  delta State.setSlot
  repeat' first
    | with_reducible assumption
    | intro _
    | (extract_lets +onlyGivenNames t; refine (have ht : Kept Q K t := ?_; ?_); subst t; rotate_left; clear_value t)
    | (extract_lets +onlyGivenNames t; clear_value t)
    | with_reducible apply kept_ite
    | (simp only [kept_mk_iff]; with_reducible exact Kept.parts ‹_›)
    | (simp only [kept_mk_iff]; with_reducible refine Kept.parts ?_)

theorem State.setLut_kept {i : Nat} {v : List Nat} (H0 : Kept Q K s) :
    Kept Q K (State.setLut i v s) := by
  delta State.setLut
  repeat' first
    | with_reducible assumption
    | intro _
    | (extract_lets +onlyGivenNames t; refine (have ht : Kept Q K t := ?_; ?_); subst t; rotate_left; clear_value t)
    | (extract_lets +onlyGivenNames t; clear_value t)
    | with_reducible apply kept_ite
    | (simp only [kept_mk_iff]; with_reducible exact Kept.parts ‹_›)
    | (simp only [kept_mk_iff]; with_reducible refine Kept.parts ?_)

theorem State.setBlendSlot_kept {i : Nat} {v : List Blend} (H0 : Kept Q K s) :
    Kept Q K (State.setBlendSlot i v s) := by
  delta State.setBlendSlot
  repeat' first
    | with_reducible assumption
    | intro _
    | (extract_lets +onlyGivenNames t; refine (have ht : Kept Q K t := ?_; ?_); subst t; rotate_left; clear_value t)
    | (extract_lets +onlyGivenNames t; clear_value t)
    | with_reducible apply kept_ite
    | (simp only [kept_mk_iff]; with_reducible exact Kept.parts ‹_›)
    | (simp only [kept_mk_iff]; with_reducible refine Kept.parts ?_)

theorem State.setOutLut_kept {i : Nat} {v : List Nat} (H0 : Kept Q K s) :
    Kept Q K (State.setOutLut i v s) := by
  delta State.setOutLut
  repeat' first
    | with_reducible assumption
    | intro _
    | (extract_lets +onlyGivenNames t; refine (have ht : Kept Q K t := ?_; ?_); subst t; rotate_left; clear_value t)
    | (extract_lets +onlyGivenNames t; clear_value t)
    | with_reducible apply kept_ite
    | (simp only [kept_mk_iff]; with_reducible exact Kept.parts ‹_›)
    | (simp only [kept_mk_iff]; with_reducible refine Kept.parts ?_)

theorem State.setCtx_kept {i : Nat} {v : Ctx} (H0 : Kept Q K s) :
    Kept Q K (State.setCtx i v s) := by
  delta State.setCtx
  repeat' first
    | with_reducible assumption
    | intro _
    | (extract_lets +onlyGivenNames t; refine (have ht : Kept Q K t := ?_; ?_); subst t; rotate_left; clear_value t)
    | (extract_lets +onlyGivenNames t; clear_value t)
    | with_reducible apply kept_ite
    | (simp only [kept_mk_iff]; with_reducible exact Kept.parts ‹_›)
    | (simp only [kept_mk_iff]; with_reducible refine Kept.parts ?_)

theorem State.setBinding_kept {i : Nat} {v : Binding} (H0 : Kept Q K s) :
    Kept Q K (State.setBinding i v s) := by
  delta State.setBinding
  repeat' first
    | with_reducible assumption
    | intro _
    | (extract_lets +onlyGivenNames t; refine (have ht : Kept Q K t := ?_; ?_); subst t; rotate_left; clear_value t)
    | (extract_lets +onlyGivenNames t; clear_value t)
    | with_reducible apply kept_ite
    | (simp only [kept_mk_iff]; with_reducible exact Kept.parts ‹_›)
    | (simp only [kept_mk_iff]; with_reducible refine Kept.parts ?_)

theorem State.setPlane_kept {i : Nat} {v : Plane} (H0 : Kept Q K s) :
    Kept Q K (State.setPlane i v s) := by
  delta State.setPlane
  repeat' first
    | with_reducible assumption
    | intro _
    | (extract_lets +onlyGivenNames t; refine (have ht : Kept Q K t := ?_; ?_); subst t; rotate_left; clear_value t)
    | (extract_lets +onlyGivenNames t; clear_value t)
    | with_reducible apply kept_ite
    | (simp only [kept_mk_iff]; with_reducible exact Kept.parts ‹_›)
    | (simp only [kept_mk_iff]; with_reducible refine Kept.parts ?_)

theorem State.setWin_kept {i : Nat} {v : Option Win} (H0 : Kept Q K s) :
    Kept Q K (State.setWin i v s) := by
  delta State.setWin
  repeat' first
    | with_reducible assumption
    | intro _
    | (extract_lets +onlyGivenNames t; refine (have ht : Kept Q K t := ?_; ?_); subst t; rotate_left; clear_value t)
    | (extract_lets +onlyGivenNames t; clear_value t)
    | with_reducible apply kept_ite
    | (simp only [kept_mk_iff]; with_reducible exact Kept.parts ‹_›)
    | (simp only [kept_mk_iff]; with_reducible refine Kept.parts ?_)

theorem State.setCoef_kept {i : Nat} {v : Option CoefSet} (H0 : Kept Q K s) :
    Kept Q K (State.setCoef i v s) := by
  delta State.setCoef
  repeat' first
    | with_reducible assumption
    | intro _
    | (extract_lets +onlyGivenNames t; refine (have ht : Kept Q K t := ?_; ?_); subst t; rotate_left; clear_value t)
    | (extract_lets +onlyGivenNames t; clear_value t)
    | with_reducible apply kept_ite
    | (simp only [kept_mk_iff]; with_reducible exact Kept.parts ‹_›)
    | (simp only [kept_mk_iff]; with_reducible refine Kept.parts ?_)

theorem State.setSess_kept {i : Nat} {v : Session} (H0 : Kept Q K s) :
    Kept Q K (State.setSess i v s) := by
  delta State.setSess
  repeat' first
    | with_reducible assumption
    | intro _
    | (extract_lets +onlyGivenNames t; refine (have ht : Kept Q K t := ?_; ?_); subst t; rotate_left; clear_value t)
    | (extract_lets +onlyGivenNames t; clear_value t)
    | with_reducible apply kept_ite
    | (simp only [kept_mk_iff]; with_reducible exact Kept.parts ‹_›)
    | (simp only [kept_mk_iff]; with_reducible refine Kept.parts ?_)

theorem State.setSub_kept {i : Nat} {v : Sub} (H0 : Kept Q K s) :
    Kept Q K (State.setSub i v s) := by
  delta State.setSub
  repeat' first
    | with_reducible assumption
    | intro _
    | (extract_lets +onlyGivenNames t; refine (have ht : Kept Q K t := ?_; ?_); subst t; rotate_left; clear_value t)
    | (extract_lets +onlyGivenNames t; clear_value t)
    | with_reducible apply kept_ite
    | (simp only [kept_mk_iff]; with_reducible exact Kept.parts ‹_›)
    | (simp only [kept_mk_iff]; with_reducible refine Kept.parts ?_)

theorem State.setQueue_kept {i : Nat} {v : Queue} (H0 : Kept Q K s) :
    Kept Q K (State.setQueue i v s) := by
  delta State.setQueue
  repeat' first
    | with_reducible assumption
    | intro _
    | (extract_lets +onlyGivenNames t; refine (have ht : Kept Q K t := ?_; ?_); subst t; rotate_left; clear_value t)
    | (extract_lets +onlyGivenNames t; clear_value t)
    | with_reducible apply kept_ite
    | (simp only [kept_mk_iff]; with_reducible exact Kept.parts ‹_›)
    | (simp only [kept_mk_iff]; with_reducible refine Kept.parts ?_)

theorem State.setEport_kept {i : Nat} {v : EgrPort} (H0 : Kept Q K s) :
    Kept Q K (State.setEport i v s) := by
  delta State.setEport
  repeat' first
    | with_reducible assumption
    | intro _
    | (extract_lets +onlyGivenNames t; refine (have ht : Kept Q K t := ?_; ?_); subst t; rotate_left; clear_value t)
    | (extract_lets +onlyGivenNames t; clear_value t)
    | with_reducible apply kept_ite
    | (simp only [kept_mk_iff]; with_reducible exact Kept.parts ‹_›)
    | (simp only [kept_mk_iff]; with_reducible refine Kept.parts ?_)

theorem State.setTxq_kept {i : Nat} {v : List TxStamp} (H0 : Kept Q K s) :
    Kept Q K (State.setTxq i v s) := by
  delta State.setTxq
  repeat' first
    | with_reducible assumption
    | intro _
    | (extract_lets +onlyGivenNames t; refine (have ht : Kept Q K t := ?_; ?_); subst t; rotate_left; clear_value t)
    | (extract_lets +onlyGivenNames t; clear_value t)
    | with_reducible apply kept_ite
    | (simp only [kept_mk_iff]; with_reducible exact Kept.parts ‹_›)
    | (simp only [kept_mk_iff]; with_reducible refine Kept.parts ?_)

theorem State.setTimer_kept {i : Nat} {v : Timer} (H0 : Kept Q K s) :
    Kept Q K (State.setTimer i v s) := by
  delta State.setTimer
  repeat' first
    | with_reducible assumption
    | intro _
    | (extract_lets +onlyGivenNames t; refine (have ht : Kept Q K t := ?_; ?_); subst t; rotate_left; clear_value t)
    | (extract_lets +onlyGivenNames t; clear_value t)
    | with_reducible apply kept_ite
    | (simp only [kept_mk_iff]; with_reducible exact Kept.parts ‹_›)
    | (simp only [kept_mk_iff]; with_reducible refine Kept.parts ?_)

theorem State.setCueList_kept {i : Nat} {v : CueList} (H0 : Kept Q K s) :
    Kept Q K (State.setCueList i v s) := by
  delta State.setCueList
  repeat' first
    | with_reducible assumption
    | intro _
    | (extract_lets +onlyGivenNames t; refine (have ht : Kept Q K t := ?_; ?_); subst t; rotate_left; clear_value t)
    | (extract_lets +onlyGivenNames t; clear_value t)
    | with_reducible apply kept_ite
    | (simp only [kept_mk_iff]; with_reducible exact Kept.parts ‹_›)
    | (simp only [kept_mk_iff]; with_reducible refine Kept.parts ?_)

theorem State.setAlphaOv_kept {i : Nat} {v : Nat} (H0 : Kept Q K s) :
    Kept Q K (State.setAlphaOv i v s) := by
  delta State.setAlphaOv
  repeat' first
    | with_reducible assumption
    | intro _
    | (extract_lets +onlyGivenNames t; refine (have ht : Kept Q K t := ?_; ?_); subst t; rotate_left; clear_value t)
    | (extract_lets +onlyGivenNames t; clear_value t)
    | with_reducible apply kept_ite
    | (simp only [kept_mk_iff]; with_reducible exact Kept.parts ‹_›)
    | (simp only [kept_mk_iff]; with_reducible refine Kept.parts ?_)

theorem State.setPreset_kept {i : Nat} {v : Option Preset} (H0 : Kept Q K s) :
    Kept Q K (State.setPreset i v s) := by
  delta State.setPreset
  repeat' first
    | with_reducible assumption
    | intro _
    | (extract_lets +onlyGivenNames t; refine (have ht : Kept Q K t := ?_; ?_); subst t; rotate_left; clear_value t)
    | (extract_lets +onlyGivenNames t; clear_value t)
    | with_reducible apply kept_ite
    | (simp only [kept_mk_iff]; with_reducible exact Kept.parts ‹_›)
    | (simp only [kept_mk_iff]; with_reducible refine Kept.parts ?_)

theorem State.setSensor_kept {i : Nat} {v : Sensor} (H0 : Kept Q K s) :
    Kept Q K (State.setSensor i v s) := by
  delta State.setSensor
  repeat' first
    | with_reducible assumption
    | intro _
    | (extract_lets +onlyGivenNames t; refine (have ht : Kept Q K t := ?_; ?_); subst t; rotate_left; clear_value t)
    | (extract_lets +onlyGivenNames t; clear_value t)
    | with_reducible apply kept_ite
    | (simp only [kept_mk_iff]; with_reducible exact Kept.parts ‹_›)
    | (simp only [kept_mk_iff]; with_reducible refine Kept.parts ?_)

theorem State.setI3cq_kept {i : Nat} {v : List I3c} (H0 : Kept Q K s) :
    Kept Q K (State.setI3cq i v s) := by
  delta State.setI3cq
  repeat' first
    | with_reducible assumption
    | intro _
    | (extract_lets +onlyGivenNames t; refine (have ht : Kept Q K t := ?_; ?_); subst t; rotate_left; clear_value t)
    | (extract_lets +onlyGivenNames t; clear_value t)
    | with_reducible apply kept_ite
    | (simp only [kept_mk_iff]; with_reducible exact Kept.parts ‹_›)
    | (simp only [kept_mk_iff]; with_reducible refine Kept.parts ?_)

theorem State.setThSensor_kept {i : Nat} {v : ThSensor} (H0 : Kept Q K s) :
    Kept Q K (State.setThSensor i v s) := by
  delta State.setThSensor
  repeat' first
    | with_reducible assumption
    | intro _
    | (extract_lets +onlyGivenNames t; refine (have ht : Kept Q K t := ?_; ?_); subst t; rotate_left; clear_value t)
    | (extract_lets +onlyGivenNames t; clear_value t)
    | with_reducible apply kept_ite
    | (simp only [kept_mk_iff]; with_reducible exact Kept.parts ‹_›)
    | (simp only [kept_mk_iff]; with_reducible refine Kept.parts ?_)

theorem State.setZone_kept {i : Nat} {v : Zone} (H0 : Kept Q K s) :
    Kept Q K (State.setZone i v s) := by
  delta State.setZone
  repeat' first
    | with_reducible assumption
    | intro _
    | (extract_lets +onlyGivenNames t; refine (have ht : Kept Q K t := ?_; ?_); subst t; rotate_left; clear_value t)
    | (extract_lets +onlyGivenNames t; clear_value t)
    | with_reducible apply kept_ite
    | (simp only [kept_mk_iff]; with_reducible exact Kept.parts ‹_›)
    | (simp only [kept_mk_iff]; with_reducible refine Kept.parts ?_)

theorem State.setPrt_kept {i : Nat} {v : Part} (H0 : Kept Q K s) :
    Kept Q K (State.setPrt i v s) := by
  delta State.setPrt
  repeat' first
    | with_reducible assumption
    | intro _
    | (extract_lets +onlyGivenNames t; refine (have ht : Kept Q K t := ?_; ?_); subst t; rotate_left; clear_value t)
    | (extract_lets +onlyGivenNames t; clear_value t)
    | with_reducible apply kept_ite
    | (simp only [kept_mk_iff]; with_reducible exact Kept.parts ‹_›)
    | (simp only [kept_mk_iff]; with_reducible refine Kept.parts ?_)

theorem State.setMsixT_kept {i : Nat} {v : MsixTable} (H0 : Kept Q K s) :
    Kept Q K (State.setMsixT i v s) := by
  delta State.setMsixT
  repeat' first
    | with_reducible assumption
    | intro _
    | (extract_lets +onlyGivenNames t; refine (have ht : Kept Q K t := ?_; ?_); subst t; rotate_left; clear_value t)
    | (extract_lets +onlyGivenNames t; clear_value t)
    | with_reducible apply kept_ite
    | (simp only [kept_mk_iff]; with_reducible exact Kept.parts ‹_›)
    | (simp only [kept_mk_iff]; with_reducible refine Kept.parts ?_)

theorem State.setLinkUp_kept {i : Nat} {v : Bool} (H0 : Kept Q K s) :
    Kept Q K (State.setLinkUp i v s) := by
  delta State.setLinkUp
  repeat' first
    | with_reducible assumption
    | intro _
    | (extract_lets +onlyGivenNames t; refine (have ht : Kept Q K t := ?_; ?_); subst t; rotate_left; clear_value t)
    | (extract_lets +onlyGivenNames t; clear_value t)
    | with_reducible apply kept_ite
    | (simp only [kept_mk_iff]; with_reducible exact Kept.parts ‹_›)
    | (simp only [kept_mk_iff]; with_reducible refine Kept.parts ?_)

theorem State.setRoute_kept {i : Nat} {v : Route} (H0 : Kept Q K s) :
    Kept Q K (State.setRoute i v s) := by
  delta State.setRoute
  repeat' first
    | with_reducible assumption
    | intro _
    | (extract_lets +onlyGivenNames t; refine (have ht : Kept Q K t := ?_; ?_); subst t; rotate_left; clear_value t)
    | (extract_lets +onlyGivenNames t; clear_value t)
    | with_reducible apply kept_ite
    | (simp only [kept_mk_iff]; with_reducible exact Kept.parts ‹_›)
    | (simp only [kept_mk_iff]; with_reducible refine Kept.parts ?_)

theorem State.setRaisedCnt_kept {i : Nat} {v : Nat} (H0 : Kept Q K s) :
    Kept Q K (State.setRaisedCnt i v s) := by
  delta State.setRaisedCnt
  repeat' first
    | with_reducible assumption
    | intro _
    | (extract_lets +onlyGivenNames t; refine (have ht : Kept Q K t := ?_; ?_); subst t; rotate_left; clear_value t)
    | (extract_lets +onlyGivenNames t; clear_value t)
    | with_reducible apply kept_ite
    | (simp only [kept_mk_iff]; with_reducible exact Kept.parts ‹_›)
    | (simp only [kept_mk_iff]; with_reducible refine Kept.parts ?_)

theorem State.setRimQ_kept {i : Nat} {v : List RimUpdate} (H0 : Kept Q K s) :
    Kept Q K (State.setRimQ i v s) := by
  delta State.setRimQ
  repeat' first
    | with_reducible assumption
    | intro _
    | (extract_lets +onlyGivenNames t; refine (have ht : Kept Q K t := ?_; ?_); subst t; rotate_left; clear_value t)
    | (extract_lets +onlyGivenNames t; clear_value t)
    | with_reducible apply kept_ite
    | (simp only [kept_mk_iff]; with_reducible exact Kept.parts ‹_›)
    | (simp only [kept_mk_iff]; with_reducible refine Kept.parts ?_)

theorem State.setDom_kept {d : Nat} {v : Domain} (H0 : Kept Q K s) :
    Kept Q K (State.setDom d v s) := by
  delta State.setDom
  repeat' first
    | with_reducible assumption
    | intro _
    | (extract_lets +onlyGivenNames t; refine (have ht : Kept Q K t := ?_; ?_); subst t; rotate_left; clear_value t)
    | (extract_lets +onlyGivenNames t; clear_value t)
    | with_reducible apply kept_ite
    | (simp only [kept_mk_iff]; with_reducible exact Kept.parts ‹_›)
    | split
    | (simp only [kept_mk_iff]; with_reducible refine Kept.parts ?_)

theorem emit_kept {o : Out} (H0 : Kept Q K s) :
    Kept Q K (emit o s) := by
  delta emit
  repeat' first
    | with_reducible assumption
    | intro _
    | with_reducible apply kept_ite
    | (simp only [kept_mk_iff]; with_reducible exact Kept.parts ‹_›)
    | (simp only [kept_mk_iff]; with_reducible refine Kept.parts ?_)

end Sys2Proof.Machine
end

