-- ==== Sys2Proof/Laws/Kept/Ops.lean ====
section
/-!
SUPPORT. Every operation of Machine/Ops.lean keeps the queue and the canonical form.
-/

namespace Sys2Proof.Machine

set_option linter.unusedTactic false
set_option linter.unreachableTactic false
set_option linter.unusedSimpArgs false

variable {Q : List Instr} {K : Prop} {s : State}

theorem sendSystem_kept {port : Nat} {bytes : List Byte} (H0 : Kept Q K s) :
    Kept Q K (sendSystem port bytes s) := by
  delta sendSystem
  repeat' first
    | with_reducible assumption
    | intro _
    | (extract_lets +onlyGivenNames t; refine (have ht : Kept Q K t := ?_; ?_); subst t; rotate_left; clear_value t)
    | (extract_lets +onlyGivenNames t; clear_value t)
    | with_reducible apply kept_ite
    | with_reducible apply State.setQueue_kept
    | (simp only [kept_mk_iff]; with_reducible exact Kept.parts ‹_›)
    | (simp only [kept_mk_iff]; with_reducible refine Kept.parts ?_)

theorem jmpPost_kept {p port : Nat} {ipv6 : Bool} {src : List Byte} {addr : List Word} {dport typ : Nat} {seq : Word} {body : List Word} (H0 : Kept Q K s) :
    Kept Q K (jmpPost p port ipv6 src addr dport typ seq body s) := by
  delta jmpPost
  repeat' first
    | with_reducible assumption
    | intro _
    | (extract_lets +onlyGivenNames t; refine (have ht : Kept Q K t := ?_; ?_); subst t; rotate_left; clear_value t)
    | (extract_lets +onlyGivenNames t; clear_value t)
    | with_reducible apply kept_ite
    | with_reducible apply State.setPrt_kept
    | with_reducible apply emit_kept
    | with_reducible apply sendSystem_kept
    | (simp only [kept_mk_iff]; with_reducible exact Kept.parts ‹_›)
    | split
    | (simp only [kept_mk_iff]; with_reducible refine Kept.parts ?_)

theorem jmpDevice_kept {p typ : Nat} {body : List Word} (H0 : Kept Q K s) :
    Kept Q K (jmpDevice p typ body s) := by
  delta jmpDevice
  repeat' first
    | with_reducible assumption
    | intro _
    | (extract_lets +onlyGivenNames t; refine (have ht : Kept Q K t := ?_; ?_); subst t; rotate_left; clear_value t)
    | (extract_lets +onlyGivenNames t; clear_value t)
    | with_reducible apply kept_ite
    | with_reducible apply addF_kept
    | with_reducible apply jmpPost_kept

theorem putMsix_kept {p w : Nat} {v : Word} (H0 : Kept Q K s) :
    Kept Q K (putMsix p w v s) := by
  delta putMsix
  repeat' first
    | with_reducible assumption
    | intro _
    | (extract_lets +onlyGivenNames t; refine (have ht : Kept Q K t := ?_; ?_); subst t; rotate_left; clear_value t)
    | (extract_lets +onlyGivenNames t; clear_value t)
    | with_reducible apply kept_ite
    | with_reducible apply State.setMsixT_kept
    | (simp only [kept_mk_iff]; with_reducible exact Kept.parts ‹_›)
    | split
    | (simp only [kept_mk_iff]; with_reducible refine Kept.parts ?_)

theorem msixSend_kept {p vec : Nat} (H0 : Kept Q K s) :
    Kept Q K (msixSend p vec s) := by
  delta msixSend
  repeat' first
    | with_reducible assumption
    | intro _
    | (extract_lets +onlyGivenNames t; refine (have ht : Kept Q K t := ?_; ?_); subst t; rotate_left; clear_value t)
    | (extract_lets +onlyGivenNames t; clear_value t)
    | with_reducible apply kept_ite
    | with_reducible apply State.setMsixT_kept
    | with_reducible apply emit_kept
    | (simp only [kept_mk_iff]; with_reducible exact Kept.parts ‹_›)
    | split
    | (simp only [kept_mk_iff]; with_reducible refine Kept.parts ?_)

theorem msixRelease_kept {p : Nat} (H0 : Kept Q K s) :
    Kept Q K (msixRelease p s) := by
  delta msixRelease
  repeat' first
    | with_reducible assumption
    | intro _
    | (extract_lets +onlyGivenNames t; refine (have ht : Kept Q K t := ?_; ?_); subst t; rotate_left; clear_value t)
    | (extract_lets +onlyGivenNames t; clear_value t)
    | with_reducible apply kept_ite
    | with_reducible apply State.setMsixT_kept
    | with_reducible apply each_kept
    | with_reducible apply msixSend_kept
    | (simp only [kept_mk_iff]; with_reducible exact Kept.parts ‹_›)
    | split
    | (simp only [kept_mk_iff]; with_reducible refine Kept.parts ?_)

theorem notify_kept {p n vec : Nat} (H0 : Kept Q K s) :
    Kept Q K (notify p n vec s) := by
  delta notify
  repeat' first
    | with_reducible assumption
    | intro _
    | (extract_lets +onlyGivenNames t; refine (have ht : Kept Q K t := ?_; ?_); subst t; rotate_left; clear_value t)
    | (extract_lets +onlyGivenNames t; clear_value t)
    | with_reducible apply kept_ite
    | with_reducible apply State.setPrt_kept
    | with_reducible apply msixSend_kept
    | (simp only [kept_mk_iff]; with_reducible exact Kept.parts ‹_›)
    | split
    | (simp only [kept_mk_iff]; with_reducible refine Kept.parts ?_)

theorem deliverTo_kept {p n vec : Nat} (H0 : Kept Q K s) :
    Kept Q K (deliverTo p n vec s) := by
  delta deliverTo
  repeat' first
    | with_reducible assumption
    | intro _
    | (extract_lets +onlyGivenNames t; refine (have ht : Kept Q K t := ?_; ?_); subst t; rotate_left; clear_value t)
    | (extract_lets +onlyGivenNames t; clear_value t)
    | with_reducible apply kept_ite
    | with_reducible apply notify_kept
    | with_reducible apply orF_kept
    | split

theorem deliverAsleep_kept {page n : Nat} (H0 : Kept Q K s) :
    Kept Q K (deliverAsleep page n s) := by
  delta deliverAsleep
  repeat' first
    | with_reducible assumption
    | intro _
    | (extract_lets +onlyGivenNames t; refine (have ht : Kept Q K t := ?_; ?_); subst t; rotate_left; clear_value t)
    | (extract_lets +onlyGivenNames t; clear_value t)
    | with_reducible apply kept_ite
    | with_reducible apply State.setPrt_kept
    | with_reducible apply deliverTo_kept
    | with_reducible apply kept_foldl
    | (simp only [kept_mk_iff]; with_reducible exact Kept.parts ‹_›)
    | split
    | (simp only [kept_mk_iff]; with_reducible refine Kept.parts ?_)

theorem deliver_kept {page n : Nat} (H0 : Kept Q K s) :
    Kept Q K (deliver page n s) := by
  delta deliver
  repeat' first
    | with_reducible assumption
    | intro _
    | (extract_lets +onlyGivenNames t; refine (have ht : Kept Q K t := ?_; ?_); subst t; rotate_left; clear_value t)
    | (extract_lets +onlyGivenNames t; clear_value t)
    | with_reducible apply kept_ite
    | with_reducible apply deliverAsleep_kept
    | with_reducible apply deliverTo_kept
    | with_reducible apply kept_foldl
    | split

theorem raiseCore_kept {page b : Nat} (H0 : Kept Q K s) :
    Kept Q K (raiseCore page b s) := by
  delta raiseCore
  repeat' first
    | with_reducible assumption
    | intro _
    | (extract_lets +onlyGivenNames t; refine (have ht : Kept Q K t := ?_; ?_); subst t; rotate_left; clear_value t)
    | (extract_lets +onlyGivenNames t; clear_value t)
    | with_reducible apply kept_ite
    | with_reducible apply State.setRaisedCnt_kept
    | with_reducible apply deliver_kept
    | with_reducible apply orF_kept
    | (simp only [kept_mk_iff]; with_reducible exact Kept.parts ‹_›)
    | split
    | (simp only [kept_mk_iff]; with_reducible refine Kept.parts ?_)

theorem summary_kept {page b : Nat} {cond : Bool} (H0 : Kept Q K s) :
    Kept Q K (summary page b cond s) := by
  delta summary
  repeat' first
    | with_reducible assumption
    | intro _
    | with_reducible apply kept_ite
    | with_reducible apply clearF_kept
    | with_reducible apply raiseCore_kept
    | split

theorem sysSummary_kept (H0 : Kept Q K s) :
    Kept Q K (sysSummary s) := by
  delta sysSummary
  repeat' first
    | with_reducible assumption
    | intro _
    | with_reducible apply kept_ite
    | with_reducible apply summary_kept

theorem raise_kept {page b : Nat} (H0 : Kept Q K s) :
    Kept Q K (raise page b s) := by
  delta raise
  repeat' first
    | with_reducible assumption
    | intro _
    | (extract_lets +onlyGivenNames t; refine (have ht : Kept Q K t := ?_; ?_); subst t; rotate_left; clear_value t)
    | (extract_lets +onlyGivenNames t; clear_value t)
    | with_reducible apply kept_ite
    | with_reducible apply orF_kept
    | with_reducible apply raiseCore_kept
    | with_reducible apply sysSummary_kept
    | split

theorem setState_kept {page st : Nat} (H0 : Kept Q K s) :
    Kept Q K (setState page st s) := by
  delta setState
  repeat' first
    | with_reducible assumption
    | intro _
    | with_reducible apply kept_ite
    | with_reducible apply raise_kept
    | with_reducible apply setF_kept
    | split

theorem enterFault_kept {page code : Nat} (H0 : Kept Q K s) :
    Kept Q K (enterFault page code s) := by
  delta enterFault
  repeat' first
    | with_reducible assumption
    | intro _
    | with_reducible apply kept_ite
    | with_reducible apply raise_kept
    | with_reducible apply setF_kept
    | with_reducible apply setState_kept

theorem rejectWrite_kept {who : Who} (H0 : Kept Q K s) :
    Kept Q K (rejectWrite who s) := by
  delta rejectWrite
  repeat' first
    | with_reducible assumption
    | intro _
    | with_reducible apply kept_ite
    | with_reducible apply countF_kept
    | with_reducible apply ifS_kept
    | (simp only [kept_mk_iff]; with_reducible exact Kept.parts ‹_›)
    | split
    | (simp only [kept_mk_iff]; with_reducible refine Kept.parts ?_)

theorem badAccess_kept {off size : Bool} {who : Who} {addr : Nat} (H0 : Kept Q K s) :
    Kept Q K (badAccess off size who addr s) := by
  delta badAccess
  repeat' first
    | with_reducible assumption
    | intro _
    | (extract_lets +onlyGivenNames t; refine (have ht : Kept Q K t := ?_; ?_); subst t; rotate_left; clear_value t)
    | (extract_lets +onlyGivenNames t; clear_value t)
    | with_reducible apply kept_ite
    | with_reducible apply countF_kept
    | with_reducible apply raise_kept
    | with_reducible apply wr_kept
    | (simp only [kept_mk_iff]; with_reducible exact Kept.parts ‹_›)
    | split
    | (simp only [kept_mk_iff]; with_reducible refine Kept.parts ?_)

theorem guardWrite_kept {who : Who} {page addr : Nat} {ok : Bool} {f : State → State} (H0 : Kept Q K s) (hf : ∀ (x0 : State), Kept Q K x0 → Kept Q K (f x0)) :
    Kept Q K (guardWrite who page addr ok f s) := by
  delta guardWrite
  repeat' first
    | with_reducible assumption
    | intro _
    | with_reducible apply kept_ite
    | with_reducible apply badAccess_kept
    | with_reducible apply rejectWrite_kept
    | with_reducible apply hf
    | split

theorem hostError_kept {p reason : Nat} (H0 : Kept Q K s) :
    Kept Q K (hostError p reason s) := by
  delta hostError
  repeat' first
    | with_reducible assumption
    | intro _
    | with_reducible apply kept_ite
    | with_reducible apply raise_kept
    | with_reducible apply setF_kept

theorem writeCpl_kept {p : Nat} {final : Bool} {r : CmdRef} {status reason r0 r1 : Nat} (H0 : Kept Q K s) :
    Kept Q K (writeCpl p final r status reason r0 r1 s) := by
  delta writeCpl
  repeat' first
    | with_reducible assumption
    | intro _
    | (extract_lets +onlyGivenNames t; refine (have ht : Kept Q K t := ?_; ?_); subst t; rotate_left; clear_value t)
    | (extract_lets +onlyGivenNames t; clear_value t)
    | with_reducible apply kept_ite
    | with_reducible apply State.setPrt_kept
    | with_reducible apply addF_kept
    | with_reducible apply hostError_kept
    | with_reducible apply ifS_kept
    | with_reducible apply jmpDevice_kept
    | with_reducible apply memWrite_kept
    | with_reducible apply raise_kept
    | with_reducible apply setB_kept
    | (simp only [kept_mk_iff]; with_reducible exact Kept.parts ‹_›)
    | split
    | (simp only [kept_mk_iff]; with_reducible refine Kept.parts ?_)

theorem complete_kept {final : Bool} {r : CmdRef} {status reason r0 r1 : Nat} (H0 : Kept Q K s) :
    Kept Q K (complete final r status reason r0 r1 s) := by
  delta complete
  repeat' first
    | with_reducible assumption
    | intro _
    | (extract_lets +onlyGivenNames t; refine (have ht : Kept Q K t := ?_; ?_); subst t; rotate_left; clear_value t)
    | (extract_lets +onlyGivenNames t; clear_value t)
    | with_reducible apply kept_ite
    | with_reducible apply State.setPrt_kept
    | with_reducible apply ifS_kept
    | with_reducible apply setF_kept
    | with_reducible apply writeCpl_kept
    | (simp only [kept_mk_iff]; with_reducible exact Kept.parts ‹_›)
    | split
    | (simp only [kept_mk_iff]; with_reducible refine Kept.parts ?_)

theorem finish_kept {op : Nat} {c : Cmd} {status reason r0 r1 : Nat} (H0 : Kept Q K s) :
    Kept Q K (finish op c status reason r0 r1 s) := by
  delta finish
  repeat' first
    | with_reducible assumption
    | intro _
    | with_reducible apply kept_ite
    | with_reducible apply complete_kept

theorem answer_kept {op : Nat} {c : Cmd} {status : Nat} (H0 : Kept Q K s) :
    Kept Q K (answer op c status s) := by
  delta answer
  repeat' first
    | with_reducible assumption
    | intro _
    | with_reducible apply kept_ite
    | with_reducible apply finish_kept

theorem refuse_kept {op : Nat} {c : Cmd} {status reason : Nat} (H0 : Kept Q K s) :
    Kept Q K (refuse op c status reason s) := by
  delta refuse
  repeat' first
    | with_reducible assumption
    | intro _
    | with_reducible apply kept_ite
    | with_reducible apply finish_kept

theorem markStarted_kept {op : Nat} {c : Cmd} (H0 : Kept Q K s) :
    Kept Q K (markStarted op c s) := by
  delta markStarted
  repeat' first
    | with_reducible assumption
    | intro _
    | (extract_lets +onlyGivenNames t; refine (have ht : Kept Q K t := ?_; ?_); subst t; rotate_left; clear_value t)
    | (extract_lets +onlyGivenNames t; clear_value t)
    | with_reducible apply kept_ite
    | with_reducible apply State.setPrt_kept
    | (simp only [kept_mk_iff]; with_reducible exact Kept.parts ‹_›)
    | split
    | (simp only [kept_mk_iff]; with_reducible refine Kept.parts ?_)

theorem runCmd_kept {op : Nat} {c : Cmd} {body : State → State} (H0 : Kept Q K s) (hbody : ∀ (x0 : State), Kept Q K x0 → Kept Q K (body x0)) :
    Kept Q K (runCmd op c body s) := by
  delta runCmd
  repeat' first
    | with_reducible assumption
    | intro _
    | with_reducible apply kept_ite
    | with_reducible apply answer_kept
    | with_reducible apply markStarted_kept
    | with_reducible apply hbody
    | (simp only [kept_mk_iff]; with_reducible exact Kept.parts ‹_›)
    | split
    | (simp only [kept_mk_iff]; with_reducible refine Kept.parts ?_)

theorem abortOperand_kept {op : Nat} {c : Cmd} (H0 : Kept Q K s) :
    Kept Q K (abortOperand op c s) := by
  delta abortOperand
  repeat' first
    | with_reducible assumption
    | intro _
    | with_reducible apply kept_ite
    | with_reducible apply answer_kept
    | with_reducible apply hostError_kept
    | (simp only [kept_mk_iff]; with_reducible exact Kept.parts ‹_›)
    | split
    | (simp only [kept_mk_iff]; with_reducible refine Kept.parts ?_)

theorem freshWords_kept {n : Nat} (H0 : Kept Q K s) : Kept Q K (freshWords n s).2 := by
  induction n generalizing s with
  | zero => exact H0
  | succ n ih => exact ih (fresh_kept H0)

theorem withSrc_kept {op : Nat} {c : Cmd} {f : List Word → State → State} (H0 : Kept Q K s) (hf : ∀ (x0 : List Word) (x1 : State), Kept Q K x1 → Kept Q K (f x0 x1)) :
    Kept Q K (withSrc op c f s) := by
  delta withSrc
  repeat' first
    | with_reducible assumption
    | intro _
    | with_reducible apply kept_ite
    | with_reducible apply abortOperand_kept
    | with_reducible apply hf
    | split

theorem withLen_kept {op : Nat} {c : Cmd} {n : Nat} {f : List Word → State → State} (H0 : Kept Q K s) (hf : ∀ (x0 : List Word) (x1 : State), Kept Q K x1 → Kept Q K (f x0 x1)) :
    Kept Q K (withLen op c n f s) := by
  delta withLen
  repeat' first
    | with_reducible assumption
    | intro _
    | with_reducible apply kept_ite
    | with_reducible apply answer_kept
    | with_reducible apply withSrc_kept
    | with_reducible apply hf
    | (simp only [kept_mk_iff]; with_reducible exact Kept.parts ‹_›)
    | split
    | (simp only [kept_mk_iff]; with_reducible refine Kept.parts ?_)

theorem runReqs_kept {α : Type} {op : α → Nat} {cmd : α → Cmd} {rs : List α} {body : List α → State → State} (H0 : Kept Q K s) (hbody : ∀ (x0 : List α) (x1 : State), Kept Q K x1 → Kept Q K (body x0 x1)) :
    Kept Q K (runReqs op cmd rs body s) := by
  delta runReqs
  repeat' first
    | with_reducible assumption
    | intro _
    | with_reducible apply hg
    | (extract_lets +onlyGivenNames t; refine (have ht : Kept Q K t := ?_; ?_); subst t; rotate_left; clear_value t)
    | (extract_lets +onlyGivenNames t; refine (have hg : ∀ x, Kept Q K x → Kept Q K (t x) := ?_; ?_); subst t; rotate_left; clear_value t)
    | (extract_lets +onlyGivenNames t; refine (have hg : ∀ a x, Kept Q K x → Kept Q K (t a x) := ?_; ?_); subst t; rotate_left; clear_value t)
    | (extract_lets +onlyGivenNames t; refine (have hg : ∀ a b x, Kept Q K x → Kept Q K (t a b x) := ?_; ?_); subst t; rotate_left; clear_value t)
    | (extract_lets +onlyGivenNames t; clear_value t)
    | with_reducible apply kept_ite
    | with_reducible apply answer_kept
    | with_reducible apply each_kept
    | with_reducible apply markStarted_kept
    | with_reducible apply hbody

theorem runTies_kept {op : Nat} {cs : List Cmd} {body : List Cmd → State → State} (H0 : Kept Q K s) (hbody : ∀ (x0 : List Cmd) (x1 : State), Kept Q K x1 → Kept Q K (body x0 x1)) :
    Kept Q K (runTies op cs body s) := by
  delta runTies
  repeat' first
    | with_reducible assumption
    | intro _
    | with_reducible apply kept_ite
    | with_reducible apply runReqs_kept
    | with_reducible apply hbody

theorem serveInOrder_kept {α : Type} {ptr : Fld} {n : Nat} {fw : α → Bool} {idx : α → Nat} {rs : List α} {serve : α → State → State} (H0 : Kept Q K s) (hserve : ∀ (x0 : α) (x1 : State), Kept Q K x1 → Kept Q K (serve x0 x1)) :
    Kept Q K (serveInOrder ptr n fw idx rs serve s) := by
  delta serveInOrder
  repeat' first
    | with_reducible assumption
    | intro _
    | (extract_lets +onlyGivenNames t; refine (have ht : Kept Q K t := ?_; ?_); subst t; rotate_left; clear_value t)
    | (extract_lets +onlyGivenNames t; clear_value t)
    | with_reducible apply kept_ite
    | with_reducible apply each_kept
    | with_reducible apply setF_kept
    | with_reducible apply hserve
    | (simp only [kept_mk_iff]; with_reducible exact Kept.parts ‹_›)
    | split
    | (simp only [kept_mk_iff]; with_reducible refine Kept.parts ?_)

theorem serveTable_kept {ptr : Fld} {n : Nat} {cs : List Cmd} {serve : Cmd → State → State} (H0 : Kept Q K s) (hserve : ∀ (x0 : Cmd) (x1 : State), Kept Q K x1 → Kept Q K (serve x0 x1)) :
    Kept Q K (serveTable ptr n cs serve s) := by
  delta serveTable
  repeat' first
    | with_reducible assumption
    | intro _
    | with_reducible apply kept_ite
    | with_reducible apply serveInOrder_kept
    | with_reducible apply hserve

end Sys2Proof.Machine
end

