-- ==== Sys2Proof/Laws/Kept/Flash.lean ====
section
/-!
SUPPORT. Every operation of Machine/Flash.lean keeps the queue and the canonical form.
-/

namespace Sys2Proof.Machine

set_option linter.unusedTactic false
set_option linter.unreachableTactic false
set_option linter.unusedSimpArgs false

variable {Q : List Instr} {K : Prop} {s : State}

theorem writeBoot_kept {r : BootRec} (H0 : Kept Q K s) :
    Kept Q K (writeBoot r s) := by
  delta writeBoot
  repeat' first
    | with_reducible assumption
    | intro _
    | (extract_lets +onlyGivenNames t; refine (have ht : Kept Q K t := ?_; ?_); subst t; rotate_left; clear_value t)
    | (extract_lets +onlyGivenNames t; clear_value t)
    | with_reducible apply kept_ite
    | with_reducible apply setF_kept
    | (simp only [kept_mk_iff]; with_reducible exact Kept.parts ‹_›)
    | split
    | (simp only [kept_mk_iff]; with_reducible refine Kept.parts ?_)

theorem showDl_kept (H0 : Kept Q K s) :
    Kept Q K (showDl s) := by
  delta showDl
  repeat' first
    | with_reducible assumption
    | intro _
    | with_reducible apply kept_ite
    | with_reducible apply setB_kept
    | with_reducible apply setF_kept
    | with_reducible apply wr_kept
    | (simp only [kept_mk_iff]; with_reducible exact Kept.parts ‹_›)
    | split
    | (simp only [kept_mk_iff]; with_reducible refine Kept.parts ?_)

theorem setDl_kept {d : Option Download} (H0 : Kept Q K s) :
    Kept Q K (setDl d s) := by
  delta setDl
  repeat' first
    | with_reducible assumption
    | intro _
    | (extract_lets +onlyGivenNames t; refine (have ht : Kept Q K t := ?_; ?_); subst t; rotate_left; clear_value t)
    | (extract_lets +onlyGivenNames t; clear_value t)
    | with_reducible apply kept_ite
    | with_reducible apply showDl_kept
    | (simp only [kept_mk_iff]; with_reducible exact Kept.parts ‹_›)
    | split
    | (simp only [kept_mk_iff]; with_reducible refine Kept.parts ?_)

theorem setHalf_kept {half : Bool} {log : List CfgRec} {fmt : Nat} (H0 : Kept Q K s) :
    Kept Q K (setHalf half log fmt s) := by
  delta setHalf
  repeat' first
    | with_reducible assumption
    | intro _
    | (extract_lets +onlyGivenNames t; refine (have ht : Kept Q K t := ?_; ?_); subst t; rotate_left; clear_value t)
    | (extract_lets +onlyGivenNames t; clear_value t)
    | with_reducible apply kept_ite
    | (simp only [kept_mk_iff]; with_reducible exact Kept.parts ‹_›)
    | split
    | (simp only [kept_mk_iff]; with_reducible refine Kept.parts ?_)

theorem writeItem_kept {half : Bool} {fmt key : Nat} {data : List Byte} (H0 : Kept Q K s) :
    Kept Q K (writeItem half fmt key data s) := by
  delta writeItem
  repeat' first
    | with_reducible assumption
    | intro _
    | (extract_lets +onlyGivenNames t; refine (have ht : Kept Q K t := ?_; ?_); subst t; rotate_left; clear_value t)
    | (extract_lets +onlyGivenNames t; clear_value t)
    | with_reducible apply kept_ite
    | with_reducible apply setHalf_kept

end Sys2Proof.Machine
end

