-- ==== Sys2Proof/Laws/Kept/Time.lean ====
section
/-!
SUPPORT. Every operation of Machine/Time.lean keeps the queue and the canonical form.
-/

namespace Sys2Proof.Machine

set_option linter.unusedTactic false
set_option linter.unreachableTactic false
set_option linter.unusedSimpArgs false

variable {Q : List Instr} {K : Prop} {s : State}

theorem switchRefused_kept {reason : Nat} (H0 : Kept Q K s) :
    Kept Q K (switchRefused reason s) := by
  delta switchRefused
  repeat' first
    | with_reducible assumption
    | intro _
    | with_reducible apply kept_ite
    | with_reducible apply raise_kept
    | with_reducible apply setF_kept

theorem switchDomain_kept {d : Nat} (H0 : Kept Q K s) :
    Kept Q K (switchDomain d s) := by
  delta switchDomain
  repeat' first
    | with_reducible assumption
    | intro _
    | with_reducible apply kept_ite
    | with_reducible apply ifS_kept
    | with_reducible apply raise_kept
    | with_reducible apply setB_kept
    | with_reducible apply setF_kept

theorem autoSwitch_kept {d : Nat} (H0 : Kept Q K s) :
    Kept Q K (autoSwitch d s) := by
  delta autoSwitch
  repeat' first
    | with_reducible assumption
    | intro _
    | (extract_lets +onlyGivenNames t; refine (have ht : Kept Q K t := ?_; ?_); subst t; rotate_left; clear_value t)
    | (extract_lets +onlyGivenNames t; clear_value t)
    | with_reducible apply kept_ite
    | with_reducible apply ifS_kept
    | with_reducible apply raise_kept
    | with_reducible apply setB_kept
    | with_reducible apply switchDomain_kept

theorem selectedFalls_kept (H0 : Kept Q K s) :
    Kept Q K (selectedFalls s) := by
  delta selectedFalls
  repeat' first
    | with_reducible assumption
    | intro _
    | (extract_lets +onlyGivenNames t; refine (have ht : Kept Q K t := ?_; ?_); subst t; rotate_left; clear_value t)
    | (extract_lets +onlyGivenNames t; clear_value t)
    | with_reducible apply kept_ite
    | with_reducible apply autoSwitch_kept
    | with_reducible apply ifS_kept
    | with_reducible apply raise_kept
    | with_reducible apply setB_kept
    | with_reducible apply switchRefused_kept
    | (simp only [kept_mk_iff]; with_reducible exact Kept.parts ‹_›)
    | split
    | (simp only [kept_mk_iff]; with_reducible refine Kept.parts ?_)

theorem setValid_kept {d : Nat} {v : Bool} (H0 : Kept Q K s) :
    Kept Q K (setValid d v s) := by
  delta setValid
  repeat' first
    | with_reducible assumption
    | intro _
    | (extract_lets +onlyGivenNames t; refine (have ht : Kept Q K t := ?_; ?_); subst t; rotate_left; clear_value t)
    | (extract_lets +onlyGivenNames t; clear_value t)
    | with_reducible apply kept_ite
    | with_reducible apply autoSwitch_kept
    | with_reducible apply raise_kept
    | with_reducible apply selectedFalls_kept
    | with_reducible apply setB_kept
    | (simp only [kept_mk_iff]; with_reducible exact Kept.parts ‹_›)
    | split
    | (simp only [kept_mk_iff]; with_reducible refine Kept.parts ?_)

theorem takeSnap_kept {e : Int} (H0 : Kept Q K s) :
    Kept Q K (takeSnap e s) := by
  delta takeSnap
  repeat' first
    | with_reducible assumption
    | intro _
    | (extract_lets +onlyGivenNames t; refine (have ht : Kept Q K t := ?_; ?_); subst t; rotate_left; clear_value t)
    | (extract_lets +onlyGivenNames t; clear_value t)
    | with_reducible apply kept_ite
    | with_reducible apply setF_kept
    | (simp only [kept_mk_iff]; with_reducible exact Kept.parts ‹_›)
    | split
    | (simp only [kept_mk_iff]; with_reducible refine Kept.parts ?_)

theorem placeTicks_kept (H0 : Kept Q K s) :
    Kept Q K (placeTicks s) := by
  delta placeTicks
  repeat' first
    | with_reducible assumption
    | intro _
    | (extract_lets +onlyGivenNames t; refine (have ht : Kept Q K t := ?_; ?_); subst t; rotate_left; clear_value t)
    | (extract_lets +onlyGivenNames t; clear_value t)
    | with_reducible apply kept_ite
    | (simp only [kept_mk_iff]; with_reducible exact Kept.parts ‹_›)
    | (simp only [kept_mk_iff]; with_reducible refine Kept.parts ?_)

theorem shiftWaits_kept {e : Int} (H0 : Kept Q K s) :
    Kept Q K (shiftWaits e s) := by
  delta shiftWaits
  repeat' first
    | with_reducible assumption
    | intro _
    | with_reducible apply hg
    | (extract_lets +onlyGivenNames t; refine (have ht : Kept Q K t := ?_; ?_); subst t; rotate_left; clear_value t)
    | (extract_lets +onlyGivenNames t; refine (have hg : ∀ x, Kept Q K x → Kept Q K (t x) := ?_; ?_); subst t; rotate_left; clear_value t)
    | (extract_lets +onlyGivenNames t; refine (have hg : ∀ a x, Kept Q K x → Kept Q K (t a x) := ?_; ?_); subst t; rotate_left; clear_value t)
    | (extract_lets +onlyGivenNames t; refine (have hg : ∀ a b x, Kept Q K x → Kept Q K (t a b x) := ?_; ?_); subst t; rotate_left; clear_value t)
    | (extract_lets +onlyGivenNames t; clear_value t)
    | with_reducible apply kept_ite
    | (simp only [kept_mk_iff]; with_reducible exact Kept.parts ‹_›)
    | (simp only [kept_mk_iff]; with_reducible refine Kept.parts ?_)

theorem jumpRefill_kept (H0 : Kept Q K s) :
    Kept Q K (jumpRefill s) := by
  delta jumpRefill
  repeat' first
    | with_reducible assumption
    | intro _
    | (extract_lets +onlyGivenNames t; refine (have ht : Kept Q K t := ?_; ?_); subst t; rotate_left; clear_value t)
    | (extract_lets +onlyGivenNames t; clear_value t)
    | with_reducible apply kept_ite
    | with_reducible apply State.setQueue_kept
    | with_reducible apply State.setSub_kept
    | with_reducible apply each_kept
    | with_reducible apply placeTicks_kept
    | (simp only [kept_mk_iff]; with_reducible exact Kept.parts ‹_›)
    | (simp only [kept_mk_iff]; with_reducible refine Kept.parts ?_)

theorem judgeWrite_kept {d : Nat} (H0 : Kept Q K s) :
    Kept Q K (judgeWrite d s) := by
  delta judgeWrite
  repeat' first
    | with_reducible assumption
    | intro _
    | with_reducible apply kept_ite
    | with_reducible apply autoSwitch_kept
    | with_reducible apply switchRefused_kept
    | split

theorem tickDomains_kept (H0 : Kept Q K s) :
    Kept Q K (tickDomains s) := by
  delta tickDomains
  repeat' first
    | with_reducible assumption
    | intro _
    | (extract_lets +onlyGivenNames t; refine (have ht : Kept Q K t := ?_; ?_); subst t; rotate_left; clear_value t)
    | (extract_lets +onlyGivenNames t; clear_value t)
    | with_reducible apply kept_ite
    | with_reducible apply judgeWrite_kept
    | (simp only [kept_mk_iff]; with_reducible exact Kept.parts ‹_›)
    | split
    | (simp only [kept_mk_iff]; with_reducible refine Kept.parts ?_)

theorem tickSelected_kept (H0 : Kept Q K s) :
    Kept Q K (tickSelected s) := by
  delta tickSelected
  repeat' first
    | with_reducible assumption
    | intro _
    | (extract_lets +onlyGivenNames t; refine (have ht : Kept Q K t := ?_; ?_); subst t; rotate_left; clear_value t)
    | (extract_lets +onlyGivenNames t; clear_value t)
    | with_reducible apply kept_ite
    | with_reducible apply ifS_kept
    | with_reducible apply jumpRefill_kept
    | with_reducible apply placeTicks_kept
    | with_reducible apply raise_kept
    | with_reducible apply setB_kept
    | with_reducible apply shiftWaits_kept
    | with_reducible apply takeSnap_kept
    | (simp only [kept_mk_iff]; with_reducible exact Kept.parts ‹_›)
    | split
    | (simp only [kept_mk_iff]; with_reducible refine Kept.parts ?_)

theorem writeDomain_kept {d : Nat} (H0 : Kept Q K s) :
    Kept Q K (writeDomain d s) := by
  delta writeDomain
  repeat' first
    | with_reducible assumption
    | intro _
    | (extract_lets +onlyGivenNames t; refine (have ht : Kept Q K t := ?_; ?_); subst t; rotate_left; clear_value t)
    | (extract_lets +onlyGivenNames t; clear_value t)
    | with_reducible apply kept_ite
    | (simp only [kept_mk_iff]; with_reducible exact Kept.parts ‹_›)
    | (simp only [kept_mk_iff]; with_reducible refine Kept.parts ?_)

theorem writeJump_kept (H0 : Kept Q K s) :
    Kept Q K (writeJump s) := by
  delta writeJump
  repeat' first
    | with_reducible assumption
    | intro _
    | (extract_lets +onlyGivenNames t; refine (have ht : Kept Q K t := ?_; ?_); subst t; rotate_left; clear_value t)
    | (extract_lets +onlyGivenNames t; clear_value t)
    | with_reducible apply kept_ite
    | with_reducible apply setB_kept
    | with_reducible apply switchRefused_kept
    | (simp only [kept_mk_iff]; with_reducible exact Kept.parts ‹_›)
    | split
    | (simp only [kept_mk_iff]; with_reducible refine Kept.parts ?_)

theorem execTimSelDomainWrite_kept {who : Who} {d : Fin 2} (H0 : Kept Q K s) :
    Answers (Kept Q K) (execTimSelDomainWrite who d s) := by
  delta execTimSelDomainWrite
  repeat' first
    | with_reducible assumption
    | intro _
    | with_reducible apply kept_ite
    | with_reducible apply guardWrite_kept
    | with_reducible apply writeDomain_kept
    | with_reducible apply answers_next
    | with_reducible apply answers_ite

theorem execTimSelJump_kept {who : Who} (H0 : Kept Q K s) :
    Answers (Kept Q K) (execTimSelJump who s) := by
  delta execTimSelJump
  repeat' first
    | with_reducible assumption
    | intro _
    | with_reducible apply kept_ite
    | with_reducible apply guardWrite_kept
    | with_reducible apply writeJump_kept
    | with_reducible apply answers_next
    | with_reducible apply answers_ite

theorem execTimSnap_kept {who : Who} (H0 : Kept Q K s) :
    Answers (Kept Q K) (execTimSnap who s) := by
  delta execTimSnap
  repeat' first
    | with_reducible assumption
    | intro _
    | (extract_lets +onlyGivenNames t; refine (have ht : Kept Q K t := ?_; ?_); subst t; rotate_left; clear_value t)
    | (extract_lets +onlyGivenNames t; clear_value t)
    | with_reducible apply kept_ite
    | with_reducible apply guardWrite_kept
    | with_reducible apply answers_next
    | with_reducible apply answers_ite
    | (simp only [kept_mk_iff]; with_reducible exact Kept.parts ‹_›)
    | (simp only [kept_mk_iff]; with_reducible refine Kept.parts ?_)

theorem capturePps_kept (H0 : Kept Q K s) :
    Kept Q K (capturePps s) := by
  delta capturePps
  repeat' first
    | with_reducible assumption
    | intro _
    | (extract_lets +onlyGivenNames t; refine (have ht : Kept Q K t := ?_; ?_); subst t; rotate_left; clear_value t)
    | (extract_lets +onlyGivenNames t; clear_value t)
    | with_reducible apply kept_ite
    | with_reducible apply addF_kept
    | with_reducible apply raise_kept
    | with_reducible apply setF_kept

theorem execPpsInEdge_kept (H0 : Kept Q K s) :
    Answers (Kept Q K) (execPpsInEdge s) := by
  delta execPpsInEdge
  repeat' first
    | with_reducible assumption
    | intro _
    | with_reducible apply kept_ite
    | with_reducible apply capturePps_kept
    | with_reducible apply ifS_kept
    | with_reducible apply answers_next
    | with_reducible apply answers_ite

theorem domainWrite_kept {who : Who} {d addr : Nat} {f : State → State} (H0 : Kept Q K s) (hf : ∀ (x0 : State), Kept Q K x0 → Kept Q K (f x0)) :
    Kept Q K (domainWrite who d addr f s) := by
  delta domainWrite
  repeat' first
    | with_reducible assumption
    | intro _
    | with_reducible apply kept_ite
    | with_reducible apply guardWrite_kept
    | with_reducible apply ifS_kept
    | with_reducible apply hf

theorem writeValid_kept {d : Nat} {v : Bool} (H0 : Kept Q K s) :
    Kept Q K (writeValid d v s) := by
  delta writeValid
  repeat' first
    | with_reducible assumption
    | intro _
    | with_reducible apply kept_ite
    | with_reducible apply setValid_kept
    | split

theorem writeIncHi_kept {d v : Nat} (H0 : Kept Q K s) :
    Kept Q K (writeIncHi d v s) := by
  delta writeIncHi
  repeat' first
    | with_reducible assumption
    | intro _
    | (extract_lets +onlyGivenNames t; refine (have ht : Kept Q K t := ?_; ?_); subst t; rotate_left; clear_value t)
    | (extract_lets +onlyGivenNames t; clear_value t)
    | with_reducible apply kept_ite
    | with_reducible apply State.setDom_kept
    | with_reducible apply setF_kept
    | (simp only [kept_mk_iff]; with_reducible exact Kept.parts ‹_›)
    | (simp only [kept_mk_iff]; with_reducible refine Kept.parts ?_)

theorem writeAdj_kept {d v : Nat} (H0 : Kept Q K s) :
    Kept Q K (writeAdj d v s) := by
  delta writeAdj
  repeat' first
    | with_reducible assumption
    | intro _
    | (extract_lets +onlyGivenNames t; refine (have ht : Kept Q K t := ?_; ?_); subst t; rotate_left; clear_value t)
    | (extract_lets +onlyGivenNames t; clear_value t)
    | with_reducible apply kept_ite
    | with_reducible apply State.setDom_kept
    | (simp only [kept_mk_iff]; with_reducible exact Kept.parts ‹_›)
    | (simp only [kept_mk_iff]; with_reducible refine Kept.parts ?_)

theorem writeSet_kept {d : Nat} (H0 : Kept Q K s) :
    Kept Q K (writeSet d s) := by
  delta writeSet
  repeat' first
    | with_reducible assumption
    | intro _
    | (extract_lets +onlyGivenNames t; refine (have ht : Kept Q K t := ?_; ?_); subst t; rotate_left; clear_value t)
    | (extract_lets +onlyGivenNames t; clear_value t)
    | with_reducible apply kept_ite
    | with_reducible apply State.setDom_kept
    | (simp only [kept_mk_iff]; with_reducible exact Kept.parts ‹_›)
    | (simp only [kept_mk_iff]; with_reducible refine Kept.parts ?_)

theorem execTimDValidWrite_kept {who : Who} {d : Fin 2} {v : Bool} (H0 : Kept Q K s) :
    Answers (Kept Q K) (execTimDValidWrite who d v s) := by
  delta execTimDValidWrite
  repeat' first
    | with_reducible assumption
    | intro _
    | with_reducible apply kept_ite
    | with_reducible apply domainWrite_kept
    | with_reducible apply writeValid_kept
    | with_reducible apply answers_next
    | with_reducible apply answers_ite

theorem execTimDIncWrite_kept {who : Who} {d : Fin 2} {v : Word} (H0 : Kept Q K s) :
    Answers (Kept Q K) (execTimDIncWrite who d v s) := by
  delta execTimDIncWrite
  repeat' first
    | with_reducible assumption
    | intro _
    | with_reducible apply kept_ite
    | with_reducible apply domainWrite_kept
    | with_reducible apply writeIncHi_kept
    | with_reducible apply answers_next
    | with_reducible apply answers_ite

theorem execTimDAdjWrite_kept {who : Who} {d : Fin 2} {v : Word} (H0 : Kept Q K s) :
    Answers (Kept Q K) (execTimDAdjWrite who d v s) := by
  delta execTimDAdjWrite
  repeat' first
    | with_reducible assumption
    | intro _
    | with_reducible apply kept_ite
    | with_reducible apply domainWrite_kept
    | with_reducible apply writeAdj_kept
    | with_reducible apply answers_next
    | with_reducible apply answers_ite

theorem execTimDSet_kept {who : Who} {d : Fin 2} (H0 : Kept Q K s) :
    Answers (Kept Q K) (execTimDSet who d s) := by
  delta execTimDSet
  repeat' first
    | with_reducible assumption
    | intro _
    | with_reducible apply kept_ite
    | with_reducible apply domainWrite_kept
    | with_reducible apply writeSet_kept
    | with_reducible apply answers_next
    | with_reducible apply answers_ite

theorem restServo_kept {d pstate : Nat} (H0 : Kept Q K s) :
    Kept Q K (restServo d pstate s) := by
  delta restServo
  repeat' first
    | with_reducible assumption
    | intro _
    | (extract_lets +onlyGivenNames t; refine (have ht : Kept Q K t := ?_; ?_); subst t; rotate_left; clear_value t)
    | (extract_lets +onlyGivenNames t; clear_value t)
    | with_reducible apply kept_ite
    | with_reducible apply State.setDom_kept
    | with_reducible apply setF_kept
    | (simp only [kept_mk_iff]; with_reducible exact Kept.parts ‹_›)
    | (simp only [kept_mk_iff]; with_reducible refine Kept.parts ?_)

theorem loseMaster_kept {d : Nat} (H0 : Kept Q K s) :
    Kept Q K (loseMaster d s) := by
  delta loseMaster
  repeat' first
    | with_reducible assumption
    | intro _
    | (extract_lets +onlyGivenNames t; refine (have ht : Kept Q K t := ?_; ?_); subst t; rotate_left; clear_value t)
    | (extract_lets +onlyGivenNames t; clear_value t)
    | with_reducible apply kept_ite
    | with_reducible apply State.setDom_kept
    | with_reducible apply ifS_kept
    | with_reducible apply restServo_kept
    | with_reducible apply setValid_kept
    | (simp only [kept_mk_iff]; with_reducible exact Kept.parts ‹_›)
    | split
    | (simp only [kept_mk_iff]; with_reducible refine Kept.parts ?_)

theorem execAnnounceTimeout_kept {d : Fin 2} (H0 : Kept Q K s) :
    Answers (Kept Q K) (execAnnounceTimeout d s) := by
  delta execAnnounceTimeout
  repeat' first
    | with_reducible assumption
    | intro _
    | with_reducible apply kept_ite
    | with_reducible apply loseMaster_kept
    | with_reducible apply answers_next
    | with_reducible apply answers_ite
    | split

theorem postRecord_kept {d : Nat} {t1 : Int} {t2 t3 : Nat} {t4 : Int} (H0 : Kept Q K s) :
    Kept Q K (postRecord d t1 t2 t3 t4 s) := by
  delta postRecord
  repeat' first
    | with_reducible assumption
    | intro _
    | with_reducible apply hg
    | (extract_lets +onlyGivenNames t; refine (have ht : Kept Q K t := ?_; ?_); subst t; rotate_left; clear_value t)
    | (extract_lets +onlyGivenNames t; refine (have hg : ∀ x, Kept Q K x → Kept Q K (t x) := ?_; ?_); subst t; rotate_left; clear_value t)
    | (extract_lets +onlyGivenNames t; refine (have hg : ∀ a x, Kept Q K x → Kept Q K (t a x) := ?_; ?_); subst t; rotate_left; clear_value t)
    | (extract_lets +onlyGivenNames t; refine (have hg : ∀ a b x, Kept Q K x → Kept Q K (t a b x) := ?_; ?_); subst t; rotate_left; clear_value t)
    | (extract_lets +onlyGivenNames t; clear_value t)
    | with_reducible apply kept_ite
    | with_reducible apply addF_kept
    | with_reducible apply raise_kept
    | with_reducible apply setF_kept

theorem judgeOffset_kept {d : Nat} {off : Int} (H0 : Kept Q K s) :
    Kept Q K (judgeOffset d off s) := by
  delta judgeOffset
  repeat' first
    | with_reducible assumption
    | intro _
    | (extract_lets +onlyGivenNames t; refine (have ht : Kept Q K t := ?_; ?_); subst t; rotate_left; clear_value t)
    | (extract_lets +onlyGivenNames t; clear_value t)
    | with_reducible apply kept_ite
    | with_reducible apply State.setDom_kept
    | with_reducible apply setValid_kept
    | (simp only [kept_mk_iff]; with_reducible exact Kept.parts ‹_›)
    | split
    | (simp only [kept_mk_iff]; with_reducible refine Kept.parts ?_)

theorem measured_kept {d : Nat} {t1 : Int} {t2 t3 : Nat} {t4 : Int} (H0 : Kept Q K s) :
    Kept Q K (measured d t1 t2 t3 t4 s) := by
  delta measured
  repeat' first
    | with_reducible assumption
    | intro _
    | (extract_lets +onlyGivenNames t; refine (have ht : Kept Q K t := ?_; ?_); subst t; rotate_left; clear_value t)
    | (extract_lets +onlyGivenNames t; clear_value t)
    | with_reducible apply kept_ite
    | with_reducible apply judgeOffset_kept
    | with_reducible apply postRecord_kept
    | with_reducible apply setF_kept
    | split

theorem followMaster_kept {d : Nat} {x : Foreign} (H0 : Kept Q K s) :
    Kept Q K (followMaster d x s) := by
  delta followMaster
  repeat' first
    | with_reducible assumption
    | intro _
    | (extract_lets +onlyGivenNames t; refine (have ht : Kept Q K t := ?_; ?_); subst t; rotate_left; clear_value t)
    | (extract_lets +onlyGivenNames t; clear_value t)
    | with_reducible apply kept_ite
    | with_reducible apply State.setDom_kept
    | with_reducible apply ifS_kept
    | with_reducible apply raise_kept
    | with_reducible apply setF_kept
    | with_reducible apply setValid_kept
    | (simp only [kept_mk_iff]; with_reducible exact Kept.parts ‹_›)
    | split
    | (simp only [kept_mk_iff]; with_reducible refine Kept.parts ?_)

theorem ptpAnnounce_kept {d port : Nat} {from_ : List Byte} {m : List Byte} (H0 : Kept Q K s) :
    Kept Q K (ptpAnnounce d port from_ m s) := by
  delta ptpAnnounce
  repeat' first
    | with_reducible assumption
    | intro _
    | with_reducible apply hg
    | (extract_lets +onlyGivenNames t; refine (have ht : Kept Q K t := ?_; ?_); subst t; rotate_left; clear_value t)
    | (extract_lets +onlyGivenNames t; refine (have hg : ∀ x, Kept Q K x → Kept Q K (t x) := ?_; ?_); subst t; rotate_left; clear_value t)
    | (extract_lets +onlyGivenNames t; refine (have hg : ∀ a x, Kept Q K x → Kept Q K (t a x) := ?_; ?_); subst t; rotate_left; clear_value t)
    | (extract_lets +onlyGivenNames t; refine (have hg : ∀ a b x, Kept Q K x → Kept Q K (t a b x) := ?_; ?_); subst t; rotate_left; clear_value t)
    | (extract_lets +onlyGivenNames t; clear_value t)
    | with_reducible apply kept_ite
    | with_reducible apply State.setDom_kept
    | with_reducible apply followMaster_kept
    | (simp only [kept_mk_iff]; with_reducible exact Kept.parts ‹_›)
    | split
    | (simp only [kept_mk_iff]; with_reducible refine Kept.parts ?_)

theorem ptpMeasure_kept {d : Nat} {m : List Byte} {stamp : Nat} (H0 : Kept Q K s) :
    Kept Q K (ptpMeasure d m stamp s) := by
  delta ptpMeasure
  repeat' first
    | with_reducible assumption
    | intro _
    | (extract_lets +onlyGivenNames t; refine (have ht : Kept Q K t := ?_; ?_); subst t; rotate_left; clear_value t)
    | (extract_lets +onlyGivenNames t; clear_value t)
    | with_reducible apply kept_ite
    | with_reducible apply State.setDom_kept
    | with_reducible apply measured_kept
    | (simp only [kept_mk_iff]; with_reducible exact Kept.parts ‹_›)
    | split
    | (simp only [kept_mk_iff]; with_reducible refine Kept.parts ?_)

theorem ptpReceive_kept {d port : Nat} {from_ : List Byte} {m : List Byte} {stamp : Nat} (H0 : Kept Q K s) :
    Kept Q K (ptpReceive d port from_ m stamp s) := by
  delta ptpReceive
  repeat' first
    | with_reducible assumption
    | intro _
    | (extract_lets +onlyGivenNames t; refine (have ht : Kept Q K t := ?_; ?_); subst t; rotate_left; clear_value t)
    | (extract_lets +onlyGivenNames t; clear_value t)
    | with_reducible apply kept_ite
    | with_reducible apply State.setDom_kept
    | with_reducible apply ptpAnnounce_kept
    | with_reducible apply ptpMeasure_kept
    | (simp only [kept_mk_iff]; with_reducible exact Kept.parts ‹_›)
    | split
    | (simp only [kept_mk_iff]; with_reducible refine Kept.parts ?_)

theorem ptpSent_kept {port transport : Nat} {m : List Byte} (H0 : Kept Q K s) :
    Kept Q K (ptpSent port transport m s) := by
  delta ptpSent
  repeat' first
    | with_reducible assumption
    | intro _
    | (extract_lets +onlyGivenNames t; refine (have ht : Kept Q K t := ?_; ?_); subst t; rotate_left; clear_value t)
    | (extract_lets +onlyGivenNames t; clear_value t)
    | with_reducible apply kept_ite
    | with_reducible apply State.setDom_kept
    | with_reducible apply each_kept
    | with_reducible apply ifS_kept
    | (simp only [kept_mk_iff]; with_reducible exact Kept.parts ‹_›)
    | split
    | (simp only [kept_mk_iff]; with_reducible refine Kept.parts ?_)

theorem execPtpDelayReqSend_kept {d : Fin 2} {port : Fin 5} {unicast : Bool} (H0 : Kept Q K s) :
    Answers (Kept Q K) (execPtpDelayReqSend d port unicast s) := by
  delta execPtpDelayReqSend
  repeat' first
    | with_reducible assumption
    | intro _
    | (extract_lets +onlyGivenNames t; refine (have ht : Kept Q K t := ?_; ?_); subst t; rotate_left; clear_value t)
    | (extract_lets +onlyGivenNames t; clear_value t)
    | with_reducible apply kept_ite
    | with_reducible apply State.setDom_kept
    | with_reducible apply sendSystem_kept
    | with_reducible apply answers_next
    | with_reducible apply answers_ite
    | (simp only [kept_mk_iff]; with_reducible exact Kept.parts ‹_›)
    | split
    | (simp only [kept_mk_iff]; with_reducible refine Kept.parts ?_)

theorem showTxq_kept {p : Nat} (H0 : Kept Q K s) :
    Kept Q K (showTxq p s) := by
  delta showTxq
  repeat' first
    | with_reducible assumption
    | intro _
    | with_reducible apply hg
    | (extract_lets +onlyGivenNames t; refine (have ht : Kept Q K t := ?_; ?_); subst t; rotate_left; clear_value t)
    | (extract_lets +onlyGivenNames t; refine (have hg : ∀ x, Kept Q K x → Kept Q K (t x) := ?_; ?_); subst t; rotate_left; clear_value t)
    | (extract_lets +onlyGivenNames t; refine (have hg : ∀ a x, Kept Q K x → Kept Q K (t a x) := ?_; ?_); subst t; rotate_left; clear_value t)
    | (extract_lets +onlyGivenNames t; refine (have hg : ∀ a b x, Kept Q K x → Kept Q K (t a b x) := ?_; ?_); subst t; rotate_left; clear_value t)
    | (extract_lets +onlyGivenNames t; clear_value t)
    | with_reducible apply kept_ite
    | with_reducible apply setF_kept
    | with_reducible apply wr_kept
    | (simp only [kept_mk_iff]; with_reducible exact Kept.parts ‹_›)
    | split
    | (simp only [kept_mk_iff]; with_reducible refine Kept.parts ?_)

theorem pushTxq_kept {p : Nat} {e : TxStamp} (H0 : Kept Q K s) :
    Kept Q K (pushTxq p e s) := by
  delta pushTxq
  repeat' first
    | with_reducible assumption
    | intro _
    | with_reducible apply kept_ite
    | with_reducible apply State.setTxq_kept
    | with_reducible apply countF_kept
    | with_reducible apply raise_kept
    | with_reducible apply setB_kept
    | with_reducible apply showTxq_kept
    | split

theorem popTxq_kept {p : Nat} (H0 : Kept Q K s) :
    Kept Q K (popTxq p s) := by
  delta popTxq
  repeat' first
    | with_reducible assumption
    | intro _
    | with_reducible apply kept_ite
    | with_reducible apply State.setTxq_kept
    | with_reducible apply showTxq_kept

theorem execTxqPop_kept {who : Who} {port : Fin 5} (H0 : Kept Q K s) :
    Answers (Kept Q K) (execTxqPop who port s) := by
  delta execTxqPop
  repeat' first
    | with_reducible assumption
    | intro _
    | with_reducible apply kept_ite
    | with_reducible apply guardWrite_kept
    | with_reducible apply popTxq_kept
    | with_reducible apply answers_next
    | with_reducible apply answers_ite

theorem placeFrameEdges_kept {g n fs : Nat} (H0 : Kept Q K s) :
    Kept Q K (placeFrameEdges g n fs s) := by
  delta placeFrameEdges
  repeat' first
    | with_reducible assumption
    | intro _
    | (extract_lets +onlyGivenNames t; refine (have ht : Kept Q K t := ?_; ?_); subst t; rotate_left; clear_value t)
    | (extract_lets +onlyGivenNames t; clear_value t)
    | with_reducible apply kept_ite
    | with_reducible apply State.setTimer_kept
    | with_reducible apply each_kept
    | (simp only [kept_mk_iff]; with_reducible exact Kept.parts ‹_›)
    | split
    | (simp only [kept_mk_iff]; with_reducible refine Kept.parts ?_)

theorem timerLate_kept {c : Nat} {late : Bool} (H0 : Kept Q K s) :
    Kept Q K (timerLate c late s) := by
  delta timerLate
  repeat' first
    | with_reducible assumption
    | intro _
    | with_reducible apply kept_ite
    | with_reducible apply ifS_kept
    | with_reducible apply raise_kept
    | with_reducible apply setB_kept

theorem latchSet_kept {c : Nat} {t : TimerSet} {next : Option (Nat × Nat)} {placed : List Nat} {armed : Bool} (H0 : Kept Q K s) :
    Kept Q K (latchSet c t next placed armed s) := by
  delta latchSet
  repeat' first
    | with_reducible assumption
    | intro _
    | (extract_lets +onlyGivenNames t; refine (have ht : Kept Q K t := ?_; ?_); subst t; rotate_left; clear_value t)
    | (extract_lets +onlyGivenNames t; clear_value t)
    | with_reducible apply kept_ite
    | with_reducible apply State.setTimer_kept
    | with_reducible apply emit_kept
    | with_reducible apply ifS_kept
    | with_reducible apply setB_kept
    | (simp only [kept_mk_iff]; with_reducible exact Kept.parts ‹_›)
    | (simp only [kept_mk_iff]; with_reducible refine Kept.parts ?_)

theorem armTimer_kept {c : Nat} (H0 : Kept Q K s) :
    Kept Q K (armTimer c s) := by
  delta armTimer
  repeat' first
    | with_reducible assumption
    | intro _
    | (extract_lets +onlyGivenNames t; refine (have ht : Kept Q K t := ?_; ?_); subst t; rotate_left; clear_value t)
    | (extract_lets +onlyGivenNames t; clear_value t)
    | with_reducible apply kept_ite
    | with_reducible apply latchSet_kept
    | with_reducible apply timerLate_kept
    | split

theorem disarmTimer_kept {c : Nat} (H0 : Kept Q K s) :
    Kept Q K (disarmTimer c s) := by
  delta disarmTimer
  repeat' first
    | with_reducible assumption
    | intro _
    | (extract_lets +onlyGivenNames t; refine (have ht : Kept Q K t := ?_; ?_); subst t; rotate_left; clear_value t)
    | (extract_lets +onlyGivenNames t; clear_value t)
    | with_reducible apply kept_ite
    | with_reducible apply State.setTimer_kept
    | with_reducible apply setB_kept
    | (simp only [kept_mk_iff]; with_reducible exact Kept.parts ‹_›)
    | (simp only [kept_mk_iff]; with_reducible refine Kept.parts ?_)

theorem execTimerArm_kept {who : Who} {ch : Fin 16} (H0 : Kept Q K s) :
    Answers (Kept Q K) (execTimerArm who ch s) := by
  delta execTimerArm
  repeat' first
    | with_reducible assumption
    | intro _
    | with_reducible apply kept_ite
    | with_reducible apply armTimer_kept
    | with_reducible apply guardWrite_kept
    | with_reducible apply answers_next
    | with_reducible apply answers_ite

theorem execTimerDisarm_kept {who : Who} {ch : Fin 16} (H0 : Kept Q K s) :
    Answers (Kept Q K) (execTimerDisarm who ch s) := by
  delta execTimerDisarm
  repeat' first
    | with_reducible assumption
    | intro _
    | with_reducible apply kept_ite
    | with_reducible apply disarmTimer_kept
    | with_reducible apply guardWrite_kept
    | with_reducible apply answers_next
    | with_reducible apply answers_ite

end Sys2Proof.Machine
end

