-- ==== Sys2Proof/Laws/Kept/Rim.lean ====
section
/-!
SUPPORT. Every operation of Machine/Rim.lean keeps the queue and the canonical form.
-/

namespace Sys2Proof.Machine

set_option linter.unusedTactic false
set_option linter.unreachableTactic false
set_option linter.unusedSimpArgs false

variable {Q : List Instr} {K : Prop} {s : State}

theorem rimImageStoreBody_kept {c : Cmd} {ws : List Word} (H0 : Kept Q K s) :
    Kept Q K (rimImageStoreBody c ws s) := by
  delta rimImageStoreBody
  repeat' first
    | with_reducible assumption
    | intro _
    | (extract_lets +onlyGivenNames t; refine (have ht : Kept Q K t := ?_; ?_); subst t; rotate_left; clear_value t)
    | (extract_lets +onlyGivenNames t; clear_value t)
    | with_reducible apply kept_ite
    | with_reducible apply answer_kept
    | (simp only [kept_mk_iff]; with_reducible exact Kept.parts ‹_›)
    | split
    | (simp only [kept_mk_iff]; with_reducible refine Kept.parts ?_)

theorem execRimImageStore_kept {c : Cmd} (H0 : Kept Q K s) :
    Answers (Kept Q K) (execRimImageStore c s) := by
  delta execRimImageStore
  repeat' first
    | with_reducible assumption
    | intro _
    | with_reducible apply kept_ite
    | with_reducible apply rimImageStoreBody_kept
    | with_reducible apply runCmd_kept
    | with_reducible apply withLen_kept
    | with_reducible apply answers_next
    | with_reducible apply answers_ite

theorem rimRegionOpenOne_kept {c : Cmd} (H0 : Kept Q K s) :
    Kept Q K (rimRegionOpenOne c s) := by
  delta rimRegionOpenOne
  repeat' first
    | with_reducible assumption
    | intro _
    | (extract_lets +onlyGivenNames t; refine (have ht : Kept Q K t := ?_; ?_); subst t; rotate_left; clear_value t)
    | (extract_lets +onlyGivenNames t; clear_value t)
    | with_reducible apply kept_ite
    | with_reducible apply answer_kept
    | with_reducible apply countF_kept
    | with_reducible apply finish_kept
    | with_reducible apply raise_kept
    | with_reducible apply setF_kept
    | with_reducible apply wr_kept
    | (simp only [kept_mk_iff]; with_reducible exact Kept.parts ‹_›)
    | split
    | (simp only [kept_mk_iff]; with_reducible refine Kept.parts ?_)

theorem execRimRegionOpen_kept {cs : List Cmd} (H0 : Kept Q K s) :
    Answers (Kept Q K) (execRimRegionOpen cs s) := by
  delta execRimRegionOpen
  repeat' first
    | with_reducible assumption
    | intro _
    | with_reducible apply kept_ite
    | with_reducible apply rimRegionOpenOne_kept
    | with_reducible apply runTies_kept
    | with_reducible apply serveTable_kept
    | with_reducible apply answers_next
    | with_reducible apply answers_ite

theorem rimOwnerCmd_kept {op : Nat} {c : Cmd} {f : Nat → State → State} (H0 : Kept Q K s) (hf : ∀ (x0 : Nat) (x1 : State), Kept Q K x1 → Kept Q K (f x0 x1)) :
    Kept Q K (rimOwnerCmd op c f s) := by
  delta rimOwnerCmd
  repeat' first
    | with_reducible assumption
    | intro _
    | (extract_lets +onlyGivenNames t; refine (have ht : Kept Q K t := ?_; ?_); subst t; rotate_left; clear_value t)
    | (extract_lets +onlyGivenNames t; clear_value t)
    | with_reducible apply kept_ite
    | with_reducible apply answer_kept
    | with_reducible apply hf
    | split

theorem execRimRegionSet_kept {c : Cmd} (H0 : Kept Q K s) :
    Answers (Kept Q K) (execRimRegionSet c s) := by
  delta execRimRegionSet
  repeat' first
    | with_reducible assumption
    | intro _
    | with_reducible apply kept_ite
    | with_reducible apply rimOwnerCmd_kept
    | with_reducible apply runCmd_kept
    | with_reducible apply setF_kept
    | with_reducible apply answers_next
    | with_reducible apply answers_ite

theorem execRimRegionClose_kept {c : Cmd} (H0 : Kept Q K s) :
    Answers (Kept Q K) (execRimRegionClose c s) := by
  delta execRimRegionClose
  repeat' first
    | with_reducible assumption
    | intro _
    | with_reducible apply kept_ite
    | with_reducible apply rimOwnerCmd_kept
    | with_reducible apply runCmd_kept
    | with_reducible apply wr_kept
    | with_reducible apply answers_next
    | with_reducible apply answers_ite

theorem showRimQ_kept {r : Nat} (H0 : Kept Q K s) :
    Kept Q K (showRimQ r s) := by
  delta showRimQ
  repeat' first
    | with_reducible assumption
    | intro _
    | (extract_lets +onlyGivenNames t; refine (have ht : Kept Q K t := ?_; ?_); subst t; rotate_left; clear_value t)
    | (extract_lets +onlyGivenNames t; clear_value t)
    | with_reducible apply kept_ite
    | with_reducible apply setB_kept
    | with_reducible apply setF_kept
    | split

theorem startLine_kept {r c : Nat} (H0 : Kept Q K s) :
    Kept Q K (startLine r c s) := by
  delta startLine
  repeat' first
    | with_reducible assumption
    | intro _
    | (extract_lets +onlyGivenNames t; refine (have ht : Kept Q K t := ?_; ?_); subst t; rotate_left; clear_value t)
    | (extract_lets +onlyGivenNames t; clear_value t)
    | with_reducible apply kept_ite
    | with_reducible apply emit_kept
    | with_reducible apply ifS_kept
    | with_reducible apply setF_kept
    | (simp only [kept_mk_iff]; with_reducible exact Kept.parts ‹_›)
    | (simp only [kept_mk_iff]; with_reducible refine Kept.parts ?_)

theorem beginUpdate_kept {r : Nat} (H0 : Kept Q K s) :
    Kept Q K (beginUpdate r s) := by
  delta beginUpdate
  repeat' first
    | with_reducible assumption
    | intro _
    | (extract_lets +onlyGivenNames t; refine (have ht : Kept Q K t := ?_; ?_); subst t; rotate_left; clear_value t)
    | (extract_lets +onlyGivenNames t; clear_value t)
    | with_reducible apply kept_ite
    | with_reducible apply State.setRimQ_kept
    | with_reducible apply setF_kept
    | with_reducible apply showRimQ_kept
    | (simp only [kept_mk_iff]; with_reducible exact Kept.parts ‹_›)
    | split
    | (simp only [kept_mk_iff]; with_reducible refine Kept.parts ?_)

theorem rimServe_kept (H0 : Kept Q K s) :
    Kept Q K (rimServe s) := by
  delta rimServe
  repeat' first
    | with_reducible assumption
    | intro _
    | (extract_lets +onlyGivenNames t; refine (have ht : Kept Q K t := ?_; ?_); subst t; rotate_left; clear_value t)
    | (extract_lets +onlyGivenNames t; clear_value t)
    | with_reducible apply kept_ite
    | with_reducible apply beginUpdate_kept
    | with_reducible apply setB_kept
    | with_reducible apply startLine_kept
    | (simp only [kept_mk_iff]; with_reducible exact Kept.parts ‹_›)
    | split
    | (simp only [kept_mk_iff]; with_reducible refine Kept.parts ?_)

theorem commitLine_kept {c : Nat} {ws : List Word} (H0 : Kept Q K s) :
    Kept Q K (commitLine c ws s) := by
  delta commitLine
  repeat' first
    | with_reducible assumption
    | intro _
    | (extract_lets +onlyGivenNames t; refine (have ht : Kept Q K t := ?_; ?_); subst t; rotate_left; clear_value t)
    | (extract_lets +onlyGivenNames t; clear_value t)
    | with_reducible apply kept_ite
    | with_reducible apply each_kept
    | (simp only [kept_mk_iff]; with_reducible exact Kept.parts ‹_›)
    | (simp only [kept_mk_iff]; with_reducible refine Kept.parts ?_)

theorem closeTorn_kept {r : Nat} (H0 : Kept Q K s) :
    Kept Q K (closeTorn r s) := by
  delta closeTorn
  repeat' first
    | with_reducible assumption
    | intro _
    | with_reducible apply kept_ite
    | with_reducible apply ifS_kept
    | with_reducible apply wr_kept

theorem updateDone_kept {r : Nat} (H0 : Kept Q K s) :
    Kept Q K (updateDone r s) := by
  delta updateDone
  repeat' first
    | with_reducible assumption
    | intro _
    | (extract_lets +onlyGivenNames t; refine (have ht : Kept Q K t := ?_; ?_); subst t; rotate_left; clear_value t)
    | (extract_lets +onlyGivenNames t; clear_value t)
    | with_reducible apply kept_ite
    | with_reducible apply State.setRimQ_kept
    | with_reducible apply addF_kept
    | with_reducible apply closeTorn_kept
    | with_reducible apply complete_kept
    | with_reducible apply raise_kept
    | with_reducible apply showRimQ_kept
    | (simp only [kept_mk_iff]; with_reducible exact Kept.parts ‹_›)
    | split
    | (simp only [kept_mk_iff]; with_reducible refine Kept.parts ?_)

theorem restoreLineDone_kept (H0 : Kept Q K s) :
    Kept Q K (restoreLineDone s) := by
  delta restoreLineDone
  repeat' first
    | with_reducible assumption
    | intro _
    | (extract_lets +onlyGivenNames t; refine (have ht : Kept Q K t := ?_; ?_); subst t; rotate_left; clear_value t)
    | (extract_lets +onlyGivenNames t; clear_value t)
    | with_reducible apply kept_ite
    | with_reducible apply raise_kept
    | with_reducible apply setB_kept
    | (simp only [kept_mk_iff]; with_reducible exact Kept.parts ‹_›)
    | split
    | (simp only [kept_mk_iff]; with_reducible refine Kept.parts ?_)

theorem finishLine_kept (H0 : Kept Q K s) :
    Kept Q K (finishLine s) := by
  delta finishLine
  repeat' first
    | with_reducible assumption
    | intro _
    | (extract_lets +onlyGivenNames t; refine (have ht : Kept Q K t := ?_; ?_); subst t; rotate_left; clear_value t)
    | (extract_lets +onlyGivenNames t; clear_value t)
    | with_reducible apply kept_ite
    | with_reducible apply commitLine_kept
    | with_reducible apply restoreLineDone_kept
    | with_reducible apply setF_kept
    | with_reducible apply showRimQ_kept
    | with_reducible apply updateDone_kept
    | (simp only [kept_mk_iff]; with_reducible exact Kept.parts ‹_›)
    | split
    | (simp only [kept_mk_iff]; with_reducible refine Kept.parts ?_)

theorem dropLine_kept (H0 : Kept Q K s) :
    Kept Q K (dropLine s) := by
  delta dropLine
  repeat' first
    | with_reducible assumption
    | intro _
    | (extract_lets +onlyGivenNames t; refine (have ht : Kept Q K t := ?_; ?_); subst t; rotate_left; clear_value t)
    | (extract_lets +onlyGivenNames t; clear_value t)
    | with_reducible apply kept_ite
    | with_reducible apply setF_kept
    | (simp only [kept_mk_iff]; with_reducible exact Kept.parts ‹_›)
    | split
    | (simp only [kept_mk_iff]; with_reducible refine Kept.parts ?_)

theorem execCommonLineComplete_kept (H0 : Kept Q K s) :
    Answers (Kept Q K) (execCommonLineComplete s) := by
  delta execCommonLineComplete
  repeat' first
    | with_reducible assumption
    | intro _
    | with_reducible apply kept_ite
    | with_reducible apply finishLine_kept
    | with_reducible apply rimServe_kept
    | with_reducible apply answers_next
    | with_reducible apply answers_ite
    | split

theorem execBoostReady_kept (H0 : Kept Q K s) :
    Answers (Kept Q K) (execBoostReady s) := by
  delta execBoostReady
  repeat' first
    | with_reducible assumption
    | intro _
    | (extract_lets +onlyGivenNames t; refine (have ht : Kept Q K t := ?_; ?_); subst t; rotate_left; clear_value t)
    | (extract_lets +onlyGivenNames t; clear_value t)
    | with_reducible apply kept_ite
    | with_reducible apply rimServe_kept
    | with_reducible apply answers_next
    | with_reducible apply answers_ite
    | (simp only [kept_mk_iff]; with_reducible exact Kept.parts ‹_›)
    | split
    | (simp only [kept_mk_iff]; with_reducible refine Kept.parts ?_)

theorem execBoostIdleTimeout_kept (H0 : Kept Q K s) :
    Answers (Kept Q K) (execBoostIdleTimeout s) := by
  delta execBoostIdleTimeout
  repeat' first
    | with_reducible assumption
    | intro _
    | (extract_lets +onlyGivenNames t; refine (have ht : Kept Q K t := ?_; ?_); subst t; rotate_left; clear_value t)
    | (extract_lets +onlyGivenNames t; clear_value t)
    | with_reducible apply kept_ite
    | with_reducible apply setB_kept
    | with_reducible apply answers_next
    | with_reducible apply answers_ite
    | (simp only [kept_mk_iff]; with_reducible exact Kept.parts ‹_›)
    | split
    | (simp only [kept_mk_iff]; with_reducible refine Kept.parts ?_)

theorem rimUpdateBody_kept {c : Cmd} (H0 : Kept Q K s) :
    Kept Q K (rimUpdateBody c s) := by
  delta rimUpdateBody
  repeat' first
    | with_reducible assumption
    | intro _
    | (extract_lets +onlyGivenNames t; refine (have ht : Kept Q K t := ?_; ?_); subst t; rotate_left; clear_value t)
    | (extract_lets +onlyGivenNames t; clear_value t)
    | with_reducible apply kept_ite
    | (simp only [kept_mk_iff]; with_reducible exact Kept.parts ‹_›)
    | (simp only [kept_mk_iff]; with_reducible refine Kept.parts ?_)

theorem execRimUpdate_kept {c : Cmd} (H0 : Kept Q K s) :
    Answers (Kept Q K) (execRimUpdate c s) := by
  delta execRimUpdate
  repeat' first
    | with_reducible assumption
    | intro _
    | with_reducible apply kept_ite
    | with_reducible apply markStarted_kept
    | with_reducible apply rimUpdateBody_kept
    | with_reducible apply answers_next
    | with_reducible apply answers_ite
    | split

theorem offerResult_kept {o : RimOffer} {status : Nat} (H0 : Kept Q K s) :
    Kept Q K (offerResult o status s) := by
  delta offerResult
  repeat' first
    | with_reducible assumption
    | intro _
    | with_reducible apply kept_ite
    | with_reducible apply complete_kept
    | with_reducible apply ifS_kept
    | with_reducible apply raise_kept
    | with_reducible apply setF_kept
    | (simp only [kept_mk_iff]; with_reducible exact Kept.parts ‹_›)
    | split
    | (simp only [kept_mk_iff]; with_reducible refine Kept.parts ?_)

theorem acceptOffer_kept {o : RimOffer} (H0 : Kept Q K s) :
    Kept Q K (acceptOffer o s) := by
  delta acceptOffer
  repeat' first
    | with_reducible assumption
    | intro _
    | (extract_lets +onlyGivenNames t; refine (have ht : Kept Q K t := ?_; ?_); subst t; rotate_left; clear_value t)
    | (extract_lets +onlyGivenNames t; clear_value t)
    | with_reducible apply kept_ite
    | with_reducible apply State.setRimQ_kept
    | with_reducible apply complete_kept
    | with_reducible apply countF_kept
    | with_reducible apply offerResult_kept
    | with_reducible apply raise_kept
    | with_reducible apply showRimQ_kept
    | (simp only [kept_mk_iff]; with_reducible exact Kept.parts ‹_›)
    | split
    | (simp only [kept_mk_iff]; with_reducible refine Kept.parts ?_)

theorem settleOffers_kept {ptr : Fld} {os : List RimOffer} (H0 : Kept Q K s) :
    Kept Q K (settleOffers ptr os s) := by
  delta settleOffers
  repeat' first
    | with_reducible assumption
    | intro _
    | (extract_lets +onlyGivenNames t; refine (have ht : Kept Q K t := ?_; ?_); subst t; rotate_left; clear_value t)
    | (extract_lets +onlyGivenNames t; clear_value t)
    | with_reducible apply kept_ite
    | with_reducible apply acceptOffer_kept
    | with_reducible apply each_kept
    | with_reducible apply ifS_kept
    | with_reducible apply offerResult_kept
    | with_reducible apply setF_kept
    | (simp only [kept_mk_iff]; with_reducible exact Kept.parts ‹_›)
    | split
    | (simp only [kept_mk_iff]; with_reducible refine Kept.parts ?_)

theorem arbitrateRegion_kept {os : List RimOffer} {r : Nat} (H0 : Kept Q K s) :
    Kept Q K (arbitrateRegion os r s) := by
  delta arbitrateRegion
  repeat' first
    | with_reducible assumption
    | intro _
    | (extract_lets +onlyGivenNames t; refine (have ht : Kept Q K t := ?_; ?_); subst t; rotate_left; clear_value t)
    | (extract_lets +onlyGivenNames t; clear_value t)
    | with_reducible apply kept_ite
    | with_reducible apply acceptOffer_kept
    | with_reducible apply each_kept
    | with_reducible apply offerResult_kept
    | with_reducible apply settleOffers_kept
    | (simp only [kept_mk_iff]; with_reducible exact Kept.parts ‹_›)
    | split
    | (simp only [kept_mk_iff]; with_reducible refine Kept.parts ?_)

theorem execRimArbiterTick_kept (H0 : Kept Q K s) :
    Answers (Kept Q K) (execRimArbiterTick s) := by
  delta execRimArbiterTick
  repeat' first
    | with_reducible assumption
    | intro _
    | (extract_lets +onlyGivenNames t; refine (have ht : Kept Q K t := ?_; ?_); subst t; rotate_left; clear_value t)
    | (extract_lets +onlyGivenNames t; clear_value t)
    | with_reducible apply kept_ite
    | with_reducible apply arbitrateRegion_kept
    | with_reducible apply each_kept
    | with_reducible apply rimServe_kept
    | with_reducible apply answers_next
    | with_reducible apply answers_ite
    | (simp only [kept_mk_iff]; with_reducible exact Kept.parts ‹_›)
    | (simp only [kept_mk_iff]; with_reducible refine Kept.parts ?_)

theorem showInhibit_kept (H0 : Kept Q K s) :
    Kept Q K (showInhibit s) := by
  delta showInhibit
  repeat' first
    | with_reducible assumption
    | intro _
    | (extract_lets +onlyGivenNames t; refine (have ht : Kept Q K t := ?_; ?_); subst t; rotate_left; clear_value t)
    | (extract_lets +onlyGivenNames t; clear_value t)
    | with_reducible apply kept_ite
    | with_reducible apply raise_kept
    | with_reducible apply setB_kept
    | split

theorem rimBandLoadBody_kept {c : Cmd} {ws : List Word} (H0 : Kept Q K s) :
    Kept Q K (rimBandLoadBody c ws s) := by
  delta rimBandLoadBody
  repeat' first
    | with_reducible assumption
    | intro _
    | (extract_lets +onlyGivenNames t; refine (have ht : Kept Q K t := ?_; ?_); subst t; rotate_left; clear_value t)
    | (extract_lets +onlyGivenNames t; clear_value t)
    | with_reducible apply kept_ite
    | with_reducible apply answer_kept
    | with_reducible apply ifS_kept
    | with_reducible apply rimServe_kept
    | with_reducible apply setB_kept
    | with_reducible apply showInhibit_kept
    | (simp only [kept_mk_iff]; with_reducible exact Kept.parts ‹_›)
    | split
    | (simp only [kept_mk_iff]; with_reducible refine Kept.parts ?_)

theorem execRimBandLoad_kept {c : Cmd} (H0 : Kept Q K s) :
    Answers (Kept Q K) (execRimBandLoad c s) := by
  delta execRimBandLoad
  repeat' first
    | with_reducible assumption
    | intro _
    | with_reducible apply kept_ite
    | with_reducible apply rimBandLoadBody_kept
    | with_reducible apply runCmd_kept
    | with_reducible apply withLen_kept
    | with_reducible apply answers_next
    | with_reducible apply answers_ite

theorem putStripTemp_kept {ntc : Nat} (H0 : Kept Q K s) :
    Kept Q K (putStripTemp ntc s) := by
  delta putStripTemp
  repeat' first
    | with_reducible assumption
    | intro _
    | with_reducible apply kept_ite
    | with_reducible apply fresh_kept
    | with_reducible apply setF_kept
    | (simp only [kept_mk_iff]; with_reducible exact Kept.parts ‹_›)
    | split
    | (simp only [kept_mk_iff]; with_reducible refine Kept.parts ?_)

theorem execConverterConversion_kept {r : Conversion} (H0 : Kept Q K s) :
    Answers (Kept Q K) (execConverterConversion r s) := by
  delta execConverterConversion
  repeat' first
    | with_reducible assumption
    | intro _
    | (extract_lets +onlyGivenNames t; refine (have ht : Kept Q K t := ?_; ?_); subst t; rotate_left; clear_value t)
    | (extract_lets +onlyGivenNames t; clear_value t)
    | with_reducible apply kept_ite
    | with_reducible apply ifS_kept
    | with_reducible apply putStripTemp_kept
    | with_reducible apply rimServe_kept
    | with_reducible apply setB_kept
    | with_reducible apply setF_kept
    | with_reducible apply showInhibit_kept
    | with_reducible apply answers_next
    | with_reducible apply answers_ite
    | (simp only [kept_mk_iff]; with_reducible exact Kept.parts ‹_›)
    | (simp only [kept_mk_iff]; with_reducible refine Kept.parts ?_)

theorem execRimPersist_kept {c : Cmd} (H0 : Kept Q K s) :
    Answers (Kept Q K) (execRimPersist c s) := by
  delta execRimPersist
  repeat' first
    | with_reducible assumption
    | intro _
    | (extract_lets +onlyGivenNames t; refine (have ht : Kept Q K t := ?_; ?_); subst t; rotate_left; clear_value t)
    | (extract_lets +onlyGivenNames t; clear_value t)
    | with_reducible apply kept_ite
    | with_reducible apply runCmd_kept
    | with_reducible apply answers_next
    | with_reducible apply answers_ite
    | (simp only [kept_mk_iff]; with_reducible exact Kept.parts ‹_›)
    | (simp only [kept_mk_iff]; with_reducible refine Kept.parts ?_)

theorem execRimPersistWrite_kept (H0 : Kept Q K s) :
    Answers (Kept Q K) (execRimPersistWrite s) := by
  delta execRimPersistWrite
  repeat' first
    | with_reducible assumption
    | intro _
    | (extract_lets +onlyGivenNames t; refine (have ht : Kept Q K t := ?_; ?_); subst t; rotate_left; clear_value t)
    | (extract_lets +onlyGivenNames t; clear_value t)
    | with_reducible apply kept_ite
    | with_reducible apply answers_next
    | with_reducible apply answers_ite
    | (simp only [kept_mk_iff]; with_reducible exact Kept.parts ‹_›)
    | split
    | (simp only [kept_mk_iff]; with_reducible refine Kept.parts ?_)

theorem execPersisted_kept {intact : Bool} (H0 : Kept Q K s) :
    Answers (Kept Q K) (execPersisted intact s) := by
  delta execPersisted
  repeat' first
    | with_reducible assumption
    | intro _
    | (extract_lets +onlyGivenNames t; refine (have ht : Kept Q K t := ?_; ?_); subst t; rotate_left; clear_value t)
    | (extract_lets +onlyGivenNames t; clear_value t)
    | with_reducible apply kept_ite
    | with_reducible apply complete_kept
    | with_reducible apply each_kept
    | with_reducible apply raise_kept
    | with_reducible apply setF_kept
    | with_reducible apply answers_next
    | with_reducible apply answers_ite
    | (simp only [kept_mk_iff]; with_reducible exact Kept.parts ‹_›)
    | split
    | (simp only [kept_mk_iff]; with_reducible refine Kept.parts ?_)

theorem execRimRestore_kept (H0 : Kept Q K s) :
    Answers (Kept Q K) (execRimRestore s) := by
  delta execRimRestore
  repeat' first
    | with_reducible assumption
    | intro _
    | (extract_lets +onlyGivenNames t; refine (have ht : Kept Q K t := ?_; ?_); subst t; rotate_left; clear_value t)
    | (extract_lets +onlyGivenNames t; clear_value t)
    | with_reducible apply kept_ite
    | with_reducible apply rimServe_kept
    | with_reducible apply setB_kept
    | with_reducible apply setF_kept
    | with_reducible apply answers_next
    | with_reducible apply answers_ite
    | (simp only [kept_mk_iff]; with_reducible exact Kept.parts ‹_›)
    | split
    | (simp only [kept_mk_iff]; with_reducible refine Kept.parts ?_)

theorem rimReset_kept (H0 : Kept Q K s) :
    Kept Q K (rimReset s) := by
  delta rimReset
  repeat' first
    | with_reducible assumption
    | intro _
    | (extract_lets +onlyGivenNames t; refine (have ht : Kept Q K t := ?_; ?_); subst t; rotate_left; clear_value t)
    | (extract_lets +onlyGivenNames t; clear_value t)
    | with_reducible apply kept_ite
    | with_reducible apply State.setRimQ_kept
    | with_reducible apply each_kept
    | with_reducible apply showRimQ_kept
    | with_reducible apply wr_kept
    | (simp only [kept_mk_iff]; with_reducible exact Kept.parts ‹_›)
    | (simp only [kept_mk_iff]; with_reducible refine Kept.parts ?_)

theorem rimFault_kept (H0 : Kept Q K s) :
    Kept Q K (rimFault s) := by
  delta rimFault
  repeat' first
    | with_reducible assumption
    | intro _
    | (extract_lets +onlyGivenNames t; refine (have ht : Kept Q K t := ?_; ?_); subst t; rotate_left; clear_value t)
    | (extract_lets +onlyGivenNames t; clear_value t)
    | with_reducible apply kept_ite
    | with_reducible apply State.setRimQ_kept
    | with_reducible apply closeTorn_kept
    | with_reducible apply complete_kept
    | with_reducible apply each_kept
    | with_reducible apply setF_kept
    | with_reducible apply showRimQ_kept
    | (simp only [kept_mk_iff]; with_reducible exact Kept.parts ‹_›)
    | (simp only [kept_mk_iff]; with_reducible refine Kept.parts ?_)

theorem writeRimCfg_kept {v : Nat} (H0 : Kept Q K s) :
    Kept Q K (writeRimCfg v s) := by
  delta writeRimCfg
  repeat' first
    | with_reducible assumption
    | intro _
    | with_reducible apply kept_ite
    | with_reducible apply setF_kept
    | split

end Sys2Proof.Machine
end

