-- ==== Sys2Proof/Laws/Kept/Capture.lean ====
section
/-!
SUPPORT. Every operation of Machine/Capture.lean keeps the queue and the canonical form.
-/

namespace Sys2Proof.Machine

set_option linter.unusedTactic false
set_option linter.unreachableTactic false
set_option linter.unusedSimpArgs false

variable {Q : List Instr} {K : Prop} {s : State}

theorem refreshSession_kept {i : Nat} (H0 : Kept Q K s) :
    Kept Q K (refreshSession i s) := by
  delta refreshSession
  repeat' first
    | with_reducible assumption
    | intro _
    | with_reducible apply kept_ite
    | with_reducible apply summary_kept

theorem sessCause_kept {i b : Nat} (H0 : Kept Q K s) :
    Kept Q K (sessCause i b s) := by
  delta sessCause
  repeat' first
    | with_reducible assumption
    | intro _
    | with_reducible apply kept_ite
    | with_reducible apply orF_kept
    | with_reducible apply refreshSession_kept

theorem showSession_kept {i : Nat} (H0 : Kept Q K s) :
    Kept Q K (showSession i s) := by
  delta showSession
  repeat' first
    | with_reducible assumption
    | intro _
    | (extract_lets +onlyGivenNames t; refine (have ht : Kept Q K t := ?_; ?_); subst t; rotate_left; clear_value t)
    | (extract_lets +onlyGivenNames t; clear_value t)
    | with_reducible apply kept_ite
    | with_reducible apply setF_kept

theorem takePicture_kept {kind id : Nat} {index : Option Nat} {c : Capture} (H0 : Kept Q K s) :
    Kept Q K (takePicture kind id index c s) := by
  delta takePicture
  repeat' first
    | with_reducible assumption
    | intro _
    | (extract_lets +onlyGivenNames t; refine (have ht : Kept Q K t := ?_; ?_); subst t; rotate_left; clear_value t)
    | (extract_lets +onlyGivenNames t; clear_value t)
    | with_reducible apply kept_ite
    | with_reducible apply State.setSess_kept
    | with_reducible apply each_kept
    | (simp only [kept_mk_iff]; with_reducible exact Kept.parts ‹_›)
    | split
    | (simp only [kept_mk_iff]; with_reducible refine Kept.parts ?_)

theorem sourceGone_kept {plane : Nat} (H0 : Kept Q K s) :
    Kept Q K (sourceGone plane s) := by
  delta sourceGone
  repeat' first
    | with_reducible assumption
    | intro _
    | (extract_lets +onlyGivenNames t; refine (have ht : Kept Q K t := ?_; ?_); subst t; rotate_left; clear_value t)
    | (extract_lets +onlyGivenNames t; clear_value t)
    | with_reducible apply kept_ite
    | with_reducible apply State.setSess_kept
    | with_reducible apply each_kept
    | with_reducible apply sessCause_kept
    | (simp only [kept_mk_iff]; with_reducible exact Kept.parts ‹_›)
    | split
    | (simp only [kept_mk_iff]; with_reducible refine Kept.parts ?_)

theorem wrongFormat_kept {output : Nat} (H0 : Kept Q K s) :
    Kept Q K (wrongFormat output s) := by
  delta wrongFormat
  repeat' first
    | with_reducible assumption
    | intro _
    | (extract_lets +onlyGivenNames t; refine (have ht : Kept Q K t := ?_; ?_); subst t; rotate_left; clear_value t)
    | (extract_lets +onlyGivenNames t; clear_value t)
    | with_reducible apply kept_ite
    | with_reducible apply each_kept
    | with_reducible apply sessCause_kept
    | split

theorem probeOverwrites_kept {probe a : Nat} (H0 : Kept Q K s) :
    Kept Q K (probeOverwrites probe a s) := by
  delta probeOverwrites
  repeat' first
    | with_reducible assumption
    | intro _
    | with_reducible apply hg
    | (extract_lets +onlyGivenNames t; refine (have ht : Kept Q K t := ?_; ?_); subst t; rotate_left; clear_value t)
    | (extract_lets +onlyGivenNames t; refine (have hg : ∀ x, Kept Q K x → Kept Q K (t x) := ?_; ?_); subst t; rotate_left; clear_value t)
    | (extract_lets +onlyGivenNames t; refine (have hg : ∀ a x, Kept Q K x → Kept Q K (t a x) := ?_; ?_); subst t; rotate_left; clear_value t)
    | (extract_lets +onlyGivenNames t; refine (have hg : ∀ a b x, Kept Q K x → Kept Q K (t a b x) := ?_; ?_); subst t; rotate_left; clear_value t)
    | (extract_lets +onlyGivenNames t; clear_value t)
    | with_reducible apply kept_ite
    | with_reducible apply State.setSess_kept
    | with_reducible apply countF_kept
    | with_reducible apply each_kept
    | with_reducible apply sessCause_kept
    | with_reducible apply showSession_kept
    | (simp only [kept_mk_iff]; with_reducible exact Kept.parts ‹_›)
    | split
    | (simp only [kept_mk_iff]; with_reducible refine Kept.parts ?_)

end Sys2Proof.Machine
end

