-- ==== Sys2Proof/Laws/Kept/Planes.lean ====
section
/-!
SUPPORT. Every operation of Machine/Planes.lean keeps the queue and the canonical form.
-/

namespace Sys2Proof.Machine

set_option linter.unusedTactic false
set_option linter.unreachableTactic false
set_option linter.unusedSimpArgs false

variable {Q : List Instr} {K : Prop} {s : State}

theorem putHalf_kept {a v : Nat} (H0 : Kept Q K s) :
    Kept Q K (putHalf a v s) := by
  delta putHalf
  repeat' first
    | with_reducible assumption
    | intro _
    | with_reducible apply kept_ite
    | with_reducible apply memWrite_kept

theorem putWord_kept {a v : Nat} (H0 : Kept Q K s) :
    Kept Q K (putWord a v s) := by
  delta putWord
  repeat' first
    | with_reducible assumption
    | intro _
    | with_reducible apply kept_ite
    | with_reducible apply memWrite_kept

theorem writeLevel_kept {a w h l : Nat} (H0 : Kept Q K s) :
    Kept Q K (writeLevel a w h l s) := by
  delta writeLevel
  repeat' first
    | with_reducible assumption
    | intro _
    | with_reducible apply kept_ite
    | with_reducible apply each_kept
    | with_reducible apply putHalf_kept
    | with_reducible apply putWord_kept

theorem writeOcc_kept {a w h : Nat} (H0 : Kept Q K s) :
    Kept Q K (writeOcc a w h s) := by
  delta writeOcc
  repeat' first
    | with_reducible assumption
    | intro _
    | (extract_lets +onlyGivenNames t; refine (have ht : Kept Q K t := ?_; ?_); subst t; rotate_left; clear_value t)
    | (extract_lets +onlyGivenNames t; clear_value t)
    | with_reducible apply kept_ite
    | with_reducible apply each_kept
    | with_reducible apply putWord_kept
    | with_reducible apply kept_foldl
    | split

theorem writeReduced_kept {a w h : Nat} (H0 : Kept Q K s) :
    Kept Q K (writeReduced a w h s) := by
  delta writeReduced
  repeat' first
    | with_reducible assumption
    | intro _
    | with_reducible apply kept_ite
    | with_reducible apply writeLevel_kept
    | with_reducible apply writeOcc_kept

theorem showAsm_kept (H0 : Kept Q K s) :
    Kept Q K (showAsm s) := by
  delta showAsm
  repeat' first
    | with_reducible assumption
    | intro _
    | with_reducible apply kept_ite
    | with_reducible apply setF_kept

theorem noteLeases_kept (H0 : Kept Q K s) :
    Kept Q K (noteLeases s) := by
  delta noteLeases
  repeat' first
    | with_reducible assumption
    | intro _
    | (extract_lets +onlyGivenNames t; refine (have ht : Kept Q K t := ?_; ?_); subst t; rotate_left; clear_value t)
    | (extract_lets +onlyGivenNames t; clear_value t)
    | with_reducible apply kept_ite
    | (simp only [kept_mk_iff]; with_reducible exact Kept.parts ‹_›)
    | (simp only [kept_mk_iff]; with_reducible refine Kept.parts ?_)

theorem addLease_kept {l : Lease} (H0 : Kept Q K s) :
    Kept Q K (addLease l s) := by
  delta addLease
  repeat' first
    | with_reducible assumption
    | intro _
    | (extract_lets +onlyGivenNames t; refine (have ht : Kept Q K t := ?_; ?_); subst t; rotate_left; clear_value t)
    | (extract_lets +onlyGivenNames t; clear_value t)
    | with_reducible apply kept_ite
    | with_reducible apply noteLeases_kept
    | (simp only [kept_mk_iff]; with_reducible exact Kept.parts ‹_›)
    | (simp only [kept_mk_iff]; with_reducible refine Kept.parts ?_)

theorem leaseViolation_kept {path part : Nat} {l : Nat × Nat} (H0 : Kept Q K s) :
    Kept Q K (leaseViolation path part l s) := by
  delta leaseViolation
  repeat' first
    | with_reducible assumption
    | intro _
    | with_reducible apply kept_ite
    | with_reducible apply countF_kept
    | with_reducible apply raise_kept
    | with_reducible apply setF_kept

theorem markRead_kept {ctx a : Nat} {up : Bool} (H0 : Kept Q K s) :
    Kept Q K (markRead ctx a up s) := by
  delta markRead
  repeat' first
    | with_reducible assumption
    | intro _
    | (extract_lets +onlyGivenNames t; refine (have ht : Kept Q K t := ?_; ?_); subst t; rotate_left; clear_value t)
    | (extract_lets +onlyGivenNames t; clear_value t)
    | with_reducible apply kept_ite
    | with_reducible apply State.setBinding_kept
    | (simp only [kept_mk_iff]; with_reducible exact Kept.parts ‹_›)
    | split
    | (simp only [kept_mk_iff]; with_reducible refine Kept.parts ?_)

theorem markSources_kept {srcs : List BuildSrc} {up : Bool} (H0 : Kept Q K s) :
    Kept Q K (markSources srcs up s) := by
  delta markSources
  repeat' first
    | with_reducible assumption
    | intro _
    | with_reducible apply kept_ite
    | with_reducible apply each_kept
    | with_reducible apply markRead_kept
    | (simp only [kept_mk_iff]; with_reducible exact Kept.parts ‹_›)
    | split
    | (simp only [kept_mk_iff]; with_reducible refine Kept.parts ?_)

theorem abandonBuild_kept (H0 : Kept Q K s) :
    Kept Q K (abandonBuild s) := by
  delta abandonBuild
  repeat' first
    | with_reducible assumption
    | intro _
    | (extract_lets +onlyGivenNames t; refine (have ht : Kept Q K t := ?_; ?_); subst t; rotate_left; clear_value t)
    | (extract_lets +onlyGivenNames t; clear_value t)
    | with_reducible apply kept_ite
    | with_reducible apply complete_kept
    | with_reducible apply markSources_kept
    | (simp only [kept_mk_iff]; with_reducible exact Kept.parts ‹_›)
    | split
    | (simp only [kept_mk_iff]; with_reducible refine Kept.parts ?_)

theorem freePlane_kept {i : Nat} (H0 : Kept Q K s) :
    Kept Q K (freePlane i s) := by
  delta freePlane
  repeat' first
    | with_reducible assumption
    | intro _
    | (extract_lets +onlyGivenNames t; refine (have ht : Kept Q K t := ?_; ?_); subst t; rotate_left; clear_value t)
    | (extract_lets +onlyGivenNames t; clear_value t)
    | with_reducible apply kept_ite
    | with_reducible apply State.setPlane_kept
    | with_reducible apply abandonBuild_kept
    | with_reducible apply complete_kept
    | with_reducible apply ifS_kept
    | with_reducible apply raise_kept
    | with_reducible apply showAsm_kept
    | (simp only [kept_mk_iff]; with_reducible exact Kept.parts ‹_›)
    | split
    | (simp only [kept_mk_iff]; with_reducible refine Kept.parts ?_)

theorem leaseDone_kept {i b : Nat} (H0 : Kept Q K s) :
    Kept Q K (leaseDone i b s) := by
  delta leaseDone
  repeat' first
    | with_reducible assumption
    | intro _
    | with_reducible apply kept_ite
    | with_reducible apply raise_kept
    | with_reducible apply setF_kept

theorem releaseEnds_kept {i b : Nat} (H0 : Kept Q K s) :
    Kept Q K (releaseEnds i b s) := by
  delta releaseEnds
  repeat' first
    | with_reducible assumption
    | intro _
    | (extract_lets +onlyGivenNames t; refine (have ht : Kept Q K t := ?_; ?_); subst t; rotate_left; clear_value t)
    | (extract_lets +onlyGivenNames t; clear_value t)
    | with_reducible apply kept_ite
    | with_reducible apply State.setPlane_kept
    | with_reducible apply complete_kept
    | with_reducible apply each_kept
    | with_reducible apply freePlane_kept
    | with_reducible apply ifS_kept
    | with_reducible apply leaseDone_kept
    | (simp only [kept_mk_iff]; with_reducible exact Kept.parts ‹_›)
    | split
    | (simp only [kept_mk_iff]; with_reducible refine Kept.parts ?_)

theorem endLeases_kept {p : Lease → Bool} (H0 : Kept Q K s) :
    Kept Q K (endLeases p s) := by
  delta endLeases
  repeat' first
    | with_reducible assumption
    | intro _
    | (extract_lets +onlyGivenNames t; refine (have ht : Kept Q K t := ?_; ?_); subst t; rotate_left; clear_value t)
    | (extract_lets +onlyGivenNames t; clear_value t)
    | with_reducible apply kept_ite
    | with_reducible apply each_kept
    | with_reducible apply noteLeases_kept
    | with_reducible apply releaseEnds_kept
    | (simp only [kept_mk_iff]; with_reducible exact Kept.parts ‹_›)
    | split
    | (simp only [kept_mk_iff]; with_reducible refine Kept.parts ?_)

theorem asmRefuse_kept {op : Nat} {c : Cmd} {kind r : Nat} (H0 : Kept Q K s) :
    Kept Q K (asmRefuse op c kind r s) := by
  delta asmRefuse
  repeat' first
    | with_reducible assumption
    | intro _
    | with_reducible apply kept_ite
    | with_reducible apply countF_kept
    | with_reducible apply ifS_kept
    | with_reducible apply raise_kept
    | with_reducible apply refuse_kept
    | with_reducible apply setF_kept

theorem supersede_kept {i : Nat} (H0 : Kept Q K s) :
    Kept Q K (supersede i s) := by
  delta supersede
  repeat' first
    | with_reducible assumption
    | intro _
    | (extract_lets +onlyGivenNames t; refine (have ht : Kept Q K t := ?_; ?_); subst t; rotate_left; clear_value t)
    | (extract_lets +onlyGivenNames t; clear_value t)
    | with_reducible apply kept_ite
    | with_reducible apply State.setPlane_kept
    | with_reducible apply complete_kept
    | with_reducible apply countF_kept
    | with_reducible apply each_kept
    | with_reducible apply raise_kept
    | (simp only [kept_mk_iff]; with_reducible exact Kept.parts ‹_›)
    | split
    | (simp only [kept_mk_iff]; with_reducible refine Kept.parts ?_)

theorem enqueueBuild_kept {b : QBuild} (H0 : Kept Q K s) :
    Kept Q K (enqueueBuild b s) := by
  delta enqueueBuild
  repeat' first
    | with_reducible assumption
    | intro _
    | (extract_lets +onlyGivenNames t; refine (have ht : Kept Q K t := ?_; ?_); subst t; rotate_left; clear_value t)
    | (extract_lets +onlyGivenNames t; clear_value t)
    | with_reducible apply kept_ite
    | with_reducible apply supersede_kept
    | (simp only [kept_mk_iff]; with_reducible exact Kept.parts ‹_›)
    | (simp only [kept_mk_iff]; with_reducible refine Kept.parts ?_)

theorem queueGroupBuild_kept {i n fs lead : Nat} (H0 : Kept Q K s) :
    Kept Q K (queueGroupBuild i n fs lead s) := by
  delta queueGroupBuild
  repeat' first
    | with_reducible assumption
    | intro _
    | (extract_lets +onlyGivenNames t; refine (have ht : Kept Q K t := ?_; ?_); subst t; rotate_left; clear_value t)
    | (extract_lets +onlyGivenNames t; clear_value t)
    | with_reducible apply kept_ite
    | with_reducible apply enqueueBuild_kept
    | split

theorem queueKnown_kept {i : Nat} (H0 : Kept Q K s) :
    Kept Q K (queueKnown i s) := by
  delta queueKnown
  repeat' first
    | with_reducible assumption
    | intro _
    | (extract_lets +onlyGivenNames t; refine (have ht : Kept Q K t := ?_; ?_); subst t; rotate_left; clear_value t)
    | (extract_lets +onlyGivenNames t; clear_value t)
    | with_reducible apply kept_ite
    | with_reducible apply queueGroupBuild_kept
    | split

theorem beginPicture_kept {i b : Nat} {pt : Int} {complete_ : Bool} (H0 : Kept Q K s) :
    Kept Q K (beginPicture i b pt complete_ s) := by
  delta beginPicture
  repeat' first
    | with_reducible assumption
    | intro _
    | (extract_lets +onlyGivenNames t; refine (have ht : Kept Q K t := ?_; ?_); subst t; rotate_left; clear_value t)
    | (extract_lets +onlyGivenNames t; clear_value t)
    | with_reducible apply kept_ite
    | with_reducible apply State.setPlane_kept
    | (simp only [kept_mk_iff]; with_reducible exact Kept.parts ‹_›)
    | (simp only [kept_mk_iff]; with_reducible refine Kept.parts ?_)

theorem planeAllocAt_kept {c : Cmd} {i : Nat} {t : PlaneSet} (H0 : Kept Q K s) :
    Kept Q K (planeAllocAt c i t s) := by
  delta planeAllocAt
  repeat' first
    | with_reducible assumption
    | intro _
    | with_reducible apply kept_ite
    | with_reducible apply State.setPlane_kept
    | with_reducible apply asmRefuse_kept
    | with_reducible apply finish_kept
    | with_reducible apply queueKnown_kept
    | with_reducible apply showAsm_kept
    | (simp only [kept_mk_iff]; with_reducible exact Kept.parts ‹_›)
    | split
    | (simp only [kept_mk_iff]; with_reducible refine Kept.parts ?_)

theorem planeAllocOne_kept {s0 : State} {c : Cmd} (H0 : Kept Q K s) :
    Kept Q K (planeAllocOne s0 c s) := by
  delta planeAllocOne
  repeat' first
    | with_reducible assumption
    | intro _
    | with_reducible apply kept_ite
    | with_reducible apply asmRefuse_kept
    | with_reducible apply planeAllocAt_kept
    | with_reducible apply withLen_kept
    | (simp only [kept_mk_iff]; with_reducible exact Kept.parts ‹_›)
    | split
    | (simp only [kept_mk_iff]; with_reducible refine Kept.parts ?_)

theorem planeSetOne_kept {c : Cmd} (H0 : Kept Q K s) :
    Kept Q K (planeSetOne c s) := by
  delta planeSetOne
  repeat' first
    | with_reducible assumption
    | intro _
    | (extract_lets +onlyGivenNames t; refine (have ht : Kept Q K t := ?_; ?_); subst t; rotate_left; clear_value t)
    | (extract_lets +onlyGivenNames t; clear_value t)
    | with_reducible apply kept_ite
    | with_reducible apply State.setPlane_kept
    | with_reducible apply answer_kept
    | with_reducible apply asmRefuse_kept
    | with_reducible apply withLen_kept
    | (simp only [kept_mk_iff]; with_reducible exact Kept.parts ‹_›)
    | split
    | (simp only [kept_mk_iff]; with_reducible refine Kept.parts ?_)

theorem announcePicture_kept {i b : Nat} (H0 : Kept Q K s) :
    Kept Q K (announcePicture i b s) := by
  delta announcePicture
  repeat' first
    | with_reducible assumption
    | intro _
    | (extract_lets +onlyGivenNames t; refine (have ht : Kept Q K t := ?_; ?_); subst t; rotate_left; clear_value t)
    | (extract_lets +onlyGivenNames t; clear_value t)
    | with_reducible apply kept_ite
    | with_reducible apply takePicture_kept
    | (simp only [kept_mk_iff]; with_reducible exact Kept.parts ‹_›)
    | split
    | (simp only [kept_mk_iff]; with_reducible refine Kept.parts ?_)

theorem presentBody_kept {c : Cmd} (H0 : Kept Q K s) :
    Kept Q K (presentBody c s) := by
  delta presentBody
  repeat' first
    | with_reducible assumption
    | intro _
    | (extract_lets +onlyGivenNames t; refine (have ht : Kept Q K t := ?_; ?_); subst t; rotate_left; clear_value t)
    | (extract_lets +onlyGivenNames t; clear_value t)
    | with_reducible apply kept_ite
    | with_reducible apply announcePicture_kept
    | with_reducible apply answer_kept
    | with_reducible apply asmRefuse_kept
    | with_reducible apply beginPicture_kept
    | with_reducible apply enqueueBuild_kept
    | with_reducible apply supersede_kept
    | split

theorem execPlanePresent_kept {c : Cmd} (H0 : Kept Q K s) :
    Answers (Kept Q K) (execPlanePresent c s) := by
  delta execPlanePresent
  repeat' first
    | with_reducible assumption
    | intro _
    | with_reducible apply kept_ite
    | with_reducible apply presentBody_kept
    | with_reducible apply runCmd_kept
    | with_reducible apply answers_next
    | with_reducible apply answers_ite

theorem dropPlaneWork_kept {i : Nat} (H0 : Kept Q K s) :
    Kept Q K (dropPlaneWork i s) := by
  delta dropPlaneWork
  repeat' first
    | with_reducible assumption
    | intro _
    | (extract_lets +onlyGivenNames t; refine (have ht : Kept Q K t := ?_; ?_); subst t; rotate_left; clear_value t)
    | (extract_lets +onlyGivenNames t; clear_value t)
    | with_reducible apply kept_ite
    | with_reducible apply complete_kept
    | with_reducible apply each_kept
    | with_reducible apply showAsm_kept
    | (simp only [kept_mk_iff]; with_reducible exact Kept.parts ‹_›)
    | split
    | (simp only [kept_mk_iff]; with_reducible refine Kept.parts ?_)

theorem startFree_kept {i : Nat} {ref : Option CmdRef} (H0 : Kept Q K s) :
    Kept Q K (startFree i ref s) := by
  delta startFree
  repeat' first
    | with_reducible assumption
    | intro _
    | (extract_lets +onlyGivenNames t; refine (have ht : Kept Q K t := ?_; ?_); subst t; rotate_left; clear_value t)
    | (extract_lets +onlyGivenNames t; clear_value t)
    | with_reducible apply kept_ite
    | with_reducible apply State.setPlane_kept
    | with_reducible apply complete_kept
    | with_reducible apply dropPlaneWork_kept
    | with_reducible apply freePlane_kept
    | with_reducible apply sourceGone_kept
    | (simp only [kept_mk_iff]; with_reducible exact Kept.parts ‹_›)
    | split
    | (simp only [kept_mk_iff]; with_reducible refine Kept.parts ?_)

theorem planeFreeOne_kept {c : Cmd} (H0 : Kept Q K s) :
    Kept Q K (planeFreeOne c s) := by
  delta planeFreeOne
  repeat' first
    | with_reducible assumption
    | intro _
    | (extract_lets +onlyGivenNames t; refine (have ht : Kept Q K t := ?_; ?_); subst t; rotate_left; clear_value t)
    | (extract_lets +onlyGivenNames t; clear_value t)
    | with_reducible apply kept_ite
    | with_reducible apply asmRefuse_kept
    | with_reducible apply startFree_kept
    | split

theorem execPlaneFreed_kept {plane : Fin 256} (H0 : Kept Q K s) :
    Answers (Kept Q K) (execPlaneFreed plane s) := by
  delta execPlaneFreed
  repeat' first
    | with_reducible assumption
    | intro _
    | with_reducible apply kept_ite
    | with_reducible apply freePlane_kept
    | with_reducible apply answers_next
    | with_reducible apply answers_ite
    | split

theorem bufReleaseBody_kept {c : Cmd} (H0 : Kept Q K s) :
    Kept Q K (bufReleaseBody c s) := by
  delta bufReleaseBody
  repeat' first
    | with_reducible assumption
    | intro _
    | (extract_lets +onlyGivenNames t; refine (have ht : Kept Q K t := ?_; ?_); subst t; rotate_left; clear_value t)
    | (extract_lets +onlyGivenNames t; clear_value t)
    | with_reducible apply kept_ite
    | with_reducible apply State.setPlane_kept
    | with_reducible apply answer_kept
    | with_reducible apply asmRefuse_kept
    | with_reducible apply complete_kept
    | (simp only [kept_mk_iff]; with_reducible exact Kept.parts ‹_›)
    | split
    | (simp only [kept_mk_iff]; with_reducible refine Kept.parts ?_)

theorem execBufRelease_kept {c : Cmd} (H0 : Kept Q K s) :
    Answers (Kept Q K) (execBufRelease c s) := by
  delta execBufRelease
  repeat' first
    | with_reducible assumption
    | intro _
    | with_reducible apply kept_ite
    | with_reducible apply bufReleaseBody_kept
    | with_reducible apply runCmd_kept
    | with_reducible apply answers_next
    | with_reducible apply answers_ite

theorem setWindow_kept {p n : Nat} {t : WinRec} (H0 : Kept Q K s) :
    Kept Q K (setWindow p n t s) := by
  delta setWindow
  repeat' first
    | with_reducible assumption
    | intro _
    | with_reducible apply kept_ite
    | with_reducible apply State.setWin_kept
    | with_reducible apply showAsm_kept

theorem winSetOne_kept {s0 : State} {c : Cmd} (H0 : Kept Q K s) :
    Kept Q K (winSetOne s0 c s) := by
  delta winSetOne
  repeat' first
    | with_reducible assumption
    | intro _
    | (extract_lets +onlyGivenNames t; refine (have ht : Kept Q K t := ?_; ?_); subst t; rotate_left; clear_value t)
    | (extract_lets +onlyGivenNames t; clear_value t)
    | with_reducible apply kept_ite
    | with_reducible apply answer_kept
    | with_reducible apply asmRefuse_kept
    | with_reducible apply setWindow_kept
    | with_reducible apply withLen_kept
    | (simp only [kept_mk_iff]; with_reducible exact Kept.parts ‹_›)
    | split
    | (simp only [kept_mk_iff]; with_reducible refine Kept.parts ?_)

theorem winClearOne_kept {c : Cmd} (H0 : Kept Q K s) :
    Kept Q K (winClearOne c s) := by
  delta winClearOne
  repeat' first
    | with_reducible assumption
    | intro _
    | (extract_lets +onlyGivenNames t; refine (have ht : Kept Q K t := ?_; ?_); subst t; rotate_left; clear_value t)
    | (extract_lets +onlyGivenNames t; clear_value t)
    | with_reducible apply kept_ite
    | with_reducible apply State.setWin_kept
    | with_reducible apply answer_kept
    | with_reducible apply asmRefuse_kept
    | with_reducible apply showAsm_kept
    | (simp only [kept_mk_iff]; with_reducible exact Kept.parts ‹_›)
    | split
    | (simp only [kept_mk_iff]; with_reducible refine Kept.parts ?_)

theorem asmServe_kept {s0 : State} {r : AsmReq} (H0 : Kept Q K s) :
    Kept Q K (asmServe s0 r s) := by
  delta asmServe
  repeat' first
    | with_reducible assumption
    | intro _
    | with_reducible apply kept_ite
    | with_reducible apply planeAllocOne_kept
    | with_reducible apply planeFreeOne_kept
    | with_reducible apply planeSetOne_kept
    | with_reducible apply winClearOne_kept
    | with_reducible apply winSetOne_kept
    | (simp only [kept_mk_iff]; with_reducible exact Kept.parts ‹_›)
    | split
    | (simp only [kept_mk_iff]; with_reducible refine Kept.parts ?_)

theorem asmCycle_kept {rs : List AsmReq} (H0 : Kept Q K s) :
    Kept Q K (asmCycle rs s) := by
  delta asmCycle
  repeat' first
    | with_reducible assumption
    | intro _
    | with_reducible apply kept_ite
    | with_reducible apply asmServe_kept
    | with_reducible apply runReqs_kept
    | with_reducible apply serveInOrder_kept

theorem execPlaneAlloc_kept {c : Cmd} {also : List AsmReq} (H0 : Kept Q K s) :
    Answers (Kept Q K) (execPlaneAlloc c also s) := by
  delta execPlaneAlloc
  repeat' first
    | with_reducible assumption
    | intro _
    | with_reducible apply kept_ite
    | with_reducible apply asmCycle_kept
    | with_reducible apply answers_next
    | with_reducible apply answers_ite

theorem execPlaneSet_kept {c : Cmd} {also : List AsmReq} (H0 : Kept Q K s) :
    Answers (Kept Q K) (execPlaneSet c also s) := by
  delta execPlaneSet
  repeat' first
    | with_reducible assumption
    | intro _
    | with_reducible apply kept_ite
    | with_reducible apply asmCycle_kept
    | with_reducible apply answers_next
    | with_reducible apply answers_ite

theorem execPlaneFree_kept {c : Cmd} {also : List AsmReq} (H0 : Kept Q K s) :
    Answers (Kept Q K) (execPlaneFree c also s) := by
  delta execPlaneFree
  repeat' first
    | with_reducible assumption
    | intro _
    | with_reducible apply kept_ite
    | with_reducible apply asmCycle_kept
    | with_reducible apply answers_next
    | with_reducible apply answers_ite

theorem execWinSet_kept {c : Cmd} {also : List AsmReq} (H0 : Kept Q K s) :
    Answers (Kept Q K) (execWinSet c also s) := by
  delta execWinSet
  repeat' first
    | with_reducible assumption
    | intro _
    | with_reducible apply kept_ite
    | with_reducible apply asmCycle_kept
    | with_reducible apply answers_next
    | with_reducible apply answers_ite

theorem execWinClear_kept {c : Cmd} {also : List AsmReq} (H0 : Kept Q K s) :
    Answers (Kept Q K) (execWinClear c also s) := by
  delta execWinClear
  repeat' first
    | with_reducible assumption
    | intro _
    | with_reducible apply kept_ite
    | with_reducible apply asmCycle_kept
    | with_reducible apply answers_next
    | with_reducible apply answers_ite

theorem execCoefLoad_kept {c : Cmd} (H0 : Kept Q K s) :
    Answers (Kept Q K) (execCoefLoad c s) := by
  delta execCoefLoad
  repeat' first
    | with_reducible assumption
    | intro _
    | (extract_lets +onlyGivenNames t; refine (have ht : Kept Q K t := ?_; ?_); subst t; rotate_left; clear_value t)
    | (extract_lets +onlyGivenNames t; clear_value t)
    | with_reducible apply kept_ite
    | with_reducible apply State.setCoef_kept
    | with_reducible apply answer_kept
    | with_reducible apply asmRefuse_kept
    | with_reducible apply runCmd_kept
    | with_reducible apply withLen_kept
    | with_reducible apply answers_next
    | with_reducible apply answers_ite
    | split

theorem raiseMark_kept {k : Nat} (H0 : Kept Q K s) :
    Kept Q K (raiseMark k s) := by
  delta raiseMark
  repeat' first
    | with_reducible assumption
    | intro _
    | (extract_lets +onlyGivenNames t; refine (have ht : Kept Q K t := ?_; ?_); subst t; rotate_left; clear_value t)
    | (extract_lets +onlyGivenNames t; clear_value t)
    | with_reducible apply kept_ite
    | with_reducible apply addF_kept
    | with_reducible apply raise_kept
    | with_reducible apply setF_kept
    | (simp only [kept_mk_iff]; with_reducible exact Kept.parts ‹_›)
    | split
    | (simp only [kept_mk_iff]; with_reducible refine Kept.parts ?_)

theorem runBuild_kept {r : RunBuild} (H0 : Kept Q K s) :
    Kept Q K (runBuild r s) := by
  delta runBuild
  repeat' first
    | with_reducible assumption
    | intro _
    | (extract_lets +onlyGivenNames t; refine (have ht : Kept Q K t := ?_; ?_); subst t; rotate_left; clear_value t)
    | (extract_lets +onlyGivenNames t; clear_value t)
    | with_reducible apply kept_ite
    | with_reducible apply State.setPlane_kept
    | with_reducible apply each_kept
    | with_reducible apply ifS_kept
    | with_reducible apply markSources_kept
    | with_reducible apply queueKnown_kept
    | with_reducible apply raise_kept
    | with_reducible apply raiseMark_kept
    | (simp only [kept_mk_iff]; with_reducible exact Kept.parts ‹_›)
    | (simp only [kept_mk_iff]; with_reducible refine Kept.parts ?_)

theorem startBuild_kept {q : QBuild} (H0 : Kept Q K s) :
    Kept Q K (startBuild q s) := by
  delta startBuild
  repeat' first
    | with_reducible assumption
    | intro _
    | (extract_lets +onlyGivenNames t; refine (have ht : Kept Q K t := ?_; ?_); subst t; rotate_left; clear_value t)
    | (extract_lets +onlyGivenNames t; clear_value t)
    | with_reducible apply kept_ite
    | with_reducible apply beginPicture_kept
    | with_reducible apply countF_kept
    | with_reducible apply raise_kept
    | with_reducible apply runBuild_kept
    | (simp only [kept_mk_iff]; with_reducible exact Kept.parts ‹_›)
    | split
    | (simp only [kept_mk_iff]; with_reducible refine Kept.parts ?_)

theorem passLines_kept {k : Nat} (H0 : Kept Q K s) :
    Kept Q K (passLines k s) := by
  delta passLines
  repeat' first
    | with_reducible assumption
    | intro _
    | with_reducible apply hg
    | (extract_lets +onlyGivenNames t; refine (have ht : Kept Q K t := ?_; ?_); subst t; rotate_left; clear_value t)
    | (extract_lets +onlyGivenNames t; refine (have hg : ∀ x, Kept Q K x → Kept Q K (t x) := ?_; ?_); subst t; rotate_left; clear_value t)
    | (extract_lets +onlyGivenNames t; refine (have hg : ∀ a x, Kept Q K x → Kept Q K (t a x) := ?_; ?_); subst t; rotate_left; clear_value t)
    | (extract_lets +onlyGivenNames t; refine (have hg : ∀ a b x, Kept Q K x → Kept Q K (t a b x) := ?_; ?_); subst t; rotate_left; clear_value t)
    | (extract_lets +onlyGivenNames t; clear_value t)
    | with_reducible apply kept_ite
    | (simp only [kept_mk_iff]; with_reducible exact Kept.parts ‹_›)
    | split
    | (simp only [kept_mk_iff]; with_reducible refine Kept.parts ?_)

theorem execWatermark_kept {k : Fin 4} (H0 : Kept Q K s) :
    Answers (Kept Q K) (execWatermark k s) := by
  delta execWatermark
  repeat' first
    | with_reducible assumption
    | intro _
    | with_reducible apply kept_ite
    | with_reducible apply ifS_kept
    | with_reducible apply passLines_kept
    | with_reducible apply raiseMark_kept
    | with_reducible apply answers_next
    | with_reducible apply answers_ite

theorem writeBuild_kept {r : RunBuild} (H0 : Kept Q K s) :
    Kept Q K (writeBuild r s) := by
  delta writeBuild
  repeat' first
    | with_reducible assumption
    | intro _
    | (extract_lets +onlyGivenNames t; refine (have ht : Kept Q K t := ?_; ?_); subst t; rotate_left; clear_value t)
    | (extract_lets +onlyGivenNames t; clear_value t)
    | with_reducible apply kept_ite
    | with_reducible apply each_kept
    | with_reducible apply putHalf_kept
    | with_reducible apply putWord_kept

theorem completeBuild_kept {r : RunBuild} (H0 : Kept Q K s) :
    Kept Q K (completeBuild r s) := by
  delta completeBuild
  repeat' first
    | with_reducible assumption
    | intro _
    | (extract_lets +onlyGivenNames t; refine (have ht : Kept Q K t := ?_; ?_); subst t; rotate_left; clear_value t)
    | (extract_lets +onlyGivenNames t; refine (have ht : Kept Q K t.2 := ?_; ?_); subst t; rotate_left; clear_value t)
    | (extract_lets +onlyGivenNames t; refine (have ht : Kept Q K t.1 := ?_; ?_); subst t; rotate_left; clear_value t)
    | (extract_lets +onlyGivenNames t; refine (have ht : Kept Q K t.1.1 := ?_; ?_); subst t; rotate_left; clear_value t)
    | (extract_lets +onlyGivenNames t; clear_value t)
    | with_reducible apply kept_ite
    | with_reducible apply State.setPlane_kept
    | with_reducible apply addF_kept
    | with_reducible apply announcePicture_kept
    | with_reducible apply complete_kept
    | with_reducible apply each_kept
    | with_reducible apply fresh_kept
    | with_reducible apply ifS_kept
    | with_reducible apply markSources_kept
    | with_reducible apply raiseMark_kept
    | with_reducible apply writeBuild_kept
    | with_reducible apply writeReduced_kept
    | (simp only [kept_mk_iff]; with_reducible exact Kept.parts ‹_›)
    | split
    | (simp only [kept_mk_iff]; with_reducible refine Kept.parts ?_)

theorem execBuildComplete_kept (H0 : Kept Q K s) :
    Answers (Kept Q K) (execBuildComplete s) := by
  delta execBuildComplete
  repeat' first
    | with_reducible assumption
    | intro _
    | with_reducible apply kept_ite
    | with_reducible apply completeBuild_kept
    | with_reducible apply answers_next
    | with_reducible apply answers_ite
    | (simp only [kept_mk_iff]; with_reducible exact Kept.parts ‹_›)
    | split
    | (simp only [kept_mk_iff]; with_reducible refine Kept.parts ?_)

theorem queueGroupBuilds_kept {g n fs lead : Nat} (H0 : Kept Q K s) :
    Kept Q K (queueGroupBuilds g n fs lead s) := by
  delta queueGroupBuilds
  repeat' first
    | with_reducible assumption
    | intro _
    | with_reducible apply kept_ite
    | with_reducible apply each_kept
    | with_reducible apply ifS_kept
    | with_reducible apply queueGroupBuild_kept

theorem queueAllKnown_kept (H0 : Kept Q K s) :
    Kept Q K (queueAllKnown s) := by
  delta queueAllKnown
  repeat' first
    | with_reducible assumption
    | intro _
    | with_reducible apply kept_ite
    | with_reducible apply each_kept
    | with_reducible apply queueKnown_kept

theorem queueContextBuilds_kept {c : Nat} {media : Int} (H0 : Kept Q K s) :
    Kept Q K (queueContextBuilds c media s) := by
  delta queueContextBuilds
  repeat' first
    | with_reducible assumption
    | intro _
    | (extract_lets +onlyGivenNames t; refine (have ht : Kept Q K t := ?_; ?_); subst t; rotate_left; clear_value t)
    | (extract_lets +onlyGivenNames t; clear_value t)
    | with_reducible apply kept_ite
    | with_reducible apply each_kept
    | with_reducible apply enqueueBuild_kept
    | split

theorem writePsel_kept {v : Nat} (H0 : Kept Q K s) :
    Kept Q K (writePsel v s) := by
  delta writePsel
  repeat' first
    | with_reducible assumption
    | intro _
    | (extract_lets +onlyGivenNames t; refine (have ht : Kept Q K t := ?_; ?_); subst t; rotate_left; clear_value t)
    | (extract_lets +onlyGivenNames t; clear_value t)
    | with_reducible apply kept_ite
    | with_reducible apply each_kept
    | with_reducible apply setB_kept
    | with_reducible apply setF_kept
    | with_reducible apply kept_foldl
    | split

theorem execAsmPselWrite_kept {who : Who} {v : Word} (H0 : Kept Q K s) :
    Answers (Kept Q K) (execAsmPselWrite who v s) := by
  delta execAsmPselWrite
  repeat' first
    | with_reducible assumption
    | intro _
    | with_reducible apply kept_ite
    | with_reducible apply guardWrite_kept
    | with_reducible apply writePsel_kept
    | with_reducible apply answers_next
    | with_reducible apply answers_ite

theorem asmReset_kept (H0 : Kept Q K s) :
    Kept Q K (asmReset s) := by
  delta asmReset
  repeat' first
    | with_reducible assumption
    | intro _
    | (extract_lets +onlyGivenNames t; refine (have ht : Kept Q K t := ?_; ?_); subst t; rotate_left; clear_value t)
    | (extract_lets +onlyGivenNames t; clear_value t)
    | with_reducible apply kept_ite
    | with_reducible apply abandonBuild_kept
    | with_reducible apply complete_kept
    | with_reducible apply each_kept
    | with_reducible apply showAsm_kept
    | with_reducible apply startFree_kept
    | (simp only [kept_mk_iff]; with_reducible exact Kept.parts ‹_›)
    | split
    | (simp only [kept_mk_iff]; with_reducible refine Kept.parts ?_)

end Sys2Proof.Machine
end

