-- ==== Sys2Proof/Laws/Kept/Draw.lean ====
section
/-!
SUPPORT. Every operation of Machine/Draw.lean keeps the queue and the canonical form.
-/

namespace Sys2Proof.Machine

set_option linter.unusedTactic false
set_option linter.unreachableTactic false
set_option linter.unusedSimpArgs false

variable {Q : List Instr} {K : Prop} {s : State}

theorem showDrw_kept (H0 : Kept Q K s) :
    Kept Q K (showDrw s) := by
  delta showDrw
  repeat' first
    | with_reducible assumption
    | intro _
    | with_reducible apply kept_ite
    | with_reducible apply setB_kept
    | with_reducible apply setF_kept

theorem drawRecord_kept {c : Cmd} {ws : List Word} (H0 : Kept Q K s) :
    Kept Q K (drawRecord c ws s) := by
  delta drawRecord
  repeat' first
    | with_reducible assumption
    | intro _
    | (extract_lets +onlyGivenNames t; refine (have ht : Kept Q K t := ?_; ?_); subst t; rotate_left; clear_value t)
    | (extract_lets +onlyGivenNames t; clear_value t)
    | with_reducible apply kept_ite
    | with_reducible apply countF_kept
    | with_reducible apply raise_kept
    | with_reducible apply refuse_kept
    | with_reducible apply setF_kept
    | with_reducible apply showDrw_kept
    | (simp only [kept_mk_iff]; with_reducible exact Kept.parts ‹_›)
    | split
    | (simp only [kept_mk_iff]; with_reducible refine Kept.parts ?_)

theorem drawOne_kept {c : Cmd} (H0 : Kept Q K s) :
    Kept Q K (drawOne c s) := by
  delta drawOne
  repeat' first
    | with_reducible assumption
    | intro _
    | with_reducible apply kept_ite
    | with_reducible apply drawRecord_kept
    | with_reducible apply withLen_kept
    | (simp only [kept_mk_iff]; with_reducible exact Kept.parts ‹_›)
    | (simp only [kept_mk_iff]; with_reducible refine Kept.parts ?_)

theorem execDraw_kept {cs : List Cmd} (H0 : Kept Q K s) :
    Answers (Kept Q K) (execDraw cs s) := by
  delta execDraw
  repeat' first
    | with_reducible assumption
    | intro _
    | with_reducible apply kept_ite
    | with_reducible apply drawOne_kept
    | with_reducible apply runTies_kept
    | with_reducible apply serveTable_kept
    | with_reducible apply answers_next
    | with_reducible apply answers_ite

theorem leasedWrite_kept {l : List SeenLease} {spans : List (Nat × Nat)} {k : Nat} {x : Nat × List Byte}
    {t : State × Option (Nat × Nat)} (H0 : Kept Q K t.1) : Kept Q K (leasedWrite l spans k x t).1 := by
  unfold leasedWrite
  split
  · exact H0
  · exact memWrite_kept H0

theorem drawAll_kept {d : DrawRec} {l : List SeenLease} {spans : List (Nat × Nat)} (H0 : Kept Q K s) :
    Kept Q K (drawAll d l spans s).1.1 := by
  unfold drawAll
  exact foldl_keeps (P := fun (a : (State × Option (Nat × Nat)) × Nat) => Kept Q K a.1.1) H0
    (fun a ij h => foldl_keeps (P := fun (t : State × Option (Nat × Nat)) => Kept Q K t.1) h (fun t x h => leasedWrite_kept h))

theorem execDrawComplete_kept {spans : List (Nat × Nat)} (H0 : Kept Q K s) :
    Answers (Kept Q K) (execDrawComplete spans s) := by
  delta execDrawComplete
  repeat' first
    | with_reducible assumption
    | intro _
    | (extract_lets +onlyGivenNames t; refine (have ht : Kept Q K t := ?_; ?_); subst t; rotate_left; clear_value t)
    | (extract_lets +onlyGivenNames t; refine (have ht : Kept Q K t.2 := ?_; ?_); subst t; rotate_left; clear_value t)
    | (extract_lets +onlyGivenNames t; refine (have ht : Kept Q K t.1 := ?_; ?_); subst t; rotate_left; clear_value t)
    | (extract_lets +onlyGivenNames t; refine (have ht : Kept Q K t.1.1 := ?_; ?_); subst t; rotate_left; clear_value t)
    | (extract_lets +onlyGivenNames t; clear_value t)
    | with_reducible apply kept_ite
    | with_reducible apply addF_kept
    | with_reducible apply complete_kept
    | with_reducible apply countF_kept
    | with_reducible apply drawAll_kept
    | with_reducible apply fresh_kept
    | with_reducible apply leaseViolation_kept
    | with_reducible apply raise_kept
    | with_reducible apply showDrw_kept
    | with_reducible apply answers_next
    | with_reducible apply answers_ite
    | (simp only [kept_mk_iff]; with_reducible exact Kept.parts ‹_›)
    | split
    | (simp only [kept_mk_iff]; with_reducible refine Kept.parts ?_)

theorem dmaBody_kept {c : Cmd} (H0 : Kept Q K s) :
    Kept Q K (dmaBody c s) := by
  delta dmaBody
  repeat' first
    | with_reducible assumption
    | intro _
    | (extract_lets +onlyGivenNames t; refine (have ht : Kept Q K t := ?_; ?_); subst t; rotate_left; clear_value t)
    | (extract_lets +onlyGivenNames t; clear_value t)
    | with_reducible apply kept_ite
    | with_reducible apply abortOperand_kept
    | with_reducible apply answer_kept
    | (simp only [kept_mk_iff]; with_reducible exact Kept.parts ‹_›)
    | split
    | (simp only [kept_mk_iff]; with_reducible refine Kept.parts ?_)

theorem execDmaCopy_kept {c : Cmd} (H0 : Kept Q K s) :
    Answers (Kept Q K) (execDmaCopy c s) := by
  delta execDmaCopy
  repeat' first
    | with_reducible assumption
    | intro _
    | with_reducible apply kept_ite
    | with_reducible apply dmaBody_kept
    | with_reducible apply runCmd_kept
    | with_reducible apply answers_next
    | with_reducible apply answers_ite

theorem dmaWrite_kept {sp : Space} {l : List SeenLease} {spans : List (Nat × Nat)} {a k : Nat} {bs : List Byte}
    {t : State × Option (Nat × Nat)} (H0 : Kept Q K t.1) : Kept Q K (dmaWrite sp l spans a k bs t).1 := by
  induction bs generalizing a k t with
  | nil => exact H0
  | cons b r ih =>
    unfold dmaWrite
    cases sp with
    | hbm => exact ih (t := leasedWrite l spans k (a, [b]) t) (leasedWrite_kept H0)
    | host p => exact ih (t := (memPut (.host p) a b t.1, t.2)) (by dsimp only; exact memPut_kept H0)

theorem execDmaCopyDone_kept {c : Cmd} {spans : List (Nat × Nat)} {before : Nat} {ok : Bool} (H0 : Kept Q K s) :
    Answers (Kept Q K) (execDmaCopyDone c spans before ok s) := by
  delta execDmaCopyDone
  repeat' first
    | with_reducible assumption
    | intro _
    | (extract_lets +onlyGivenNames t; refine (have ht : Kept Q K t := ?_; ?_); subst t; rotate_left; clear_value t)
    | (extract_lets +onlyGivenNames t; refine (have ht : Kept Q K t.2 := ?_; ?_); subst t; rotate_left; clear_value t)
    | (extract_lets +onlyGivenNames t; refine (have ht : Kept Q K t.1 := ?_; ?_); subst t; rotate_left; clear_value t)
    | (extract_lets +onlyGivenNames t; refine (have ht : Kept Q K t.1.1 := ?_; ?_); subst t; rotate_left; clear_value t)
    | (extract_lets +onlyGivenNames t; clear_value t)
    | with_reducible apply kept_ite
    | with_reducible apply abortOperand_kept
    | with_reducible apply answer_kept
    | with_reducible apply dmaWrite_kept
    | with_reducible apply leaseViolation_kept
    | with_reducible apply answers_next
    | with_reducible apply answers_ite
    | (simp only [kept_mk_iff]; with_reducible exact Kept.parts ‹_›)
    | split
    | (simp only [kept_mk_iff]; with_reducible refine Kept.parts ?_)

end Sys2Proof.Machine
end

