-- ==== Sys2Proof/Laws/Kept/Decode.lean ====
section
/-!
SUPPORT. Every operation of Machine/Decode.lean keeps the queue and the canonical form.
-/

namespace Sys2Proof.Machine

set_option linter.unusedTactic false
set_option linter.unreachableTactic false
set_option linter.unusedSimpArgs false

variable {Q : List Instr} {K : Prop} {s : State}

theorem showDec_kept (H0 : Kept Q K s) :
    Kept Q K (showDec s) := by
  delta showDec
  repeat' first
    | with_reducible assumption
    | intro _
    | (extract_lets +onlyGivenNames t; refine (have ht : Kept Q K t := ?_; ?_); subst t; rotate_left; clear_value t)
    | (extract_lets +onlyGivenNames t; clear_value t)
    | with_reducible apply kept_ite
    | with_reducible apply each_kept
    | with_reducible apply setF_kept
    | (simp only [kept_mk_iff]; with_reducible exact Kept.parts ‹_›)
    | split
    | (simp only [kept_mk_iff]; with_reducible refine Kept.parts ?_)

theorem decBindOne_kept {c : Cmd} (H0 : Kept Q K s) :
    Kept Q K (decBindOne c s) := by
  delta decBindOne
  repeat' first
    | with_reducible assumption
    | intro _
    | (extract_lets +onlyGivenNames t; refine (have ht : Kept Q K t := ?_; ?_); subst t; rotate_left; clear_value t)
    | (extract_lets +onlyGivenNames t; clear_value t)
    | with_reducible apply kept_ite
    | with_reducible apply State.setBinding_kept
    | with_reducible apply answer_kept
    | with_reducible apply countF_kept
    | with_reducible apply ifS_kept
    | with_reducible apply raise_kept
    | with_reducible apply refuse_kept
    | with_reducible apply setF_kept
    | with_reducible apply showDec_kept
    | with_reducible apply withLen_kept
    | (simp only [kept_mk_iff]; with_reducible exact Kept.parts ‹_›)
    | split
    | (simp only [kept_mk_iff]; with_reducible refine Kept.parts ?_)

theorem execDecBind_kept {cs : List Cmd} (H0 : Kept Q K s) :
    Answers (Kept Q K) (execDecBind cs s) := by
  delta execDecBind
  repeat' first
    | with_reducible assumption
    | intro _
    | with_reducible apply kept_ite
    | with_reducible apply decBindOne_kept
    | with_reducible apply runTies_kept
    | with_reducible apply serveTable_kept
    | with_reducible apply answers_next
    | with_reducible apply answers_ite

theorem startRelease_kept {c : Nat} {ref : Option CmdRef} (H0 : Kept Q K s) :
    Kept Q K (startRelease c ref s) := by
  delta startRelease
  repeat' first
    | with_reducible assumption
    | intro _
    | (extract_lets +onlyGivenNames t; refine (have ht : Kept Q K t := ?_; ?_); subst t; rotate_left; clear_value t)
    | (extract_lets +onlyGivenNames t; clear_value t)
    | with_reducible apply kept_ite
    | with_reducible apply State.setBinding_kept
    | with_reducible apply State.setCtx_kept
    | (simp only [kept_mk_iff]; with_reducible exact Kept.parts ‹_›)
    | split
    | (simp only [kept_mk_iff]; with_reducible refine Kept.parts ?_)

theorem execDecUnbind_kept {c : Cmd} (H0 : Kept Q K s) :
    Answers (Kept Q K) (execDecUnbind c s) := by
  delta execDecUnbind
  repeat' first
    | with_reducible assumption
    | intro _
    | (extract_lets +onlyGivenNames t; refine (have ht : Kept Q K t := ?_; ?_); subst t; rotate_left; clear_value t)
    | (extract_lets +onlyGivenNames t; clear_value t)
    | with_reducible apply kept_ite
    | with_reducible apply answer_kept
    | with_reducible apply runCmd_kept
    | with_reducible apply startRelease_kept
    | with_reducible apply answers_next
    | with_reducible apply answers_ite
    | split

theorem execUnbindDone_kept {ctx : Fin 1024} (H0 : Kept Q K s) :
    Answers (Kept Q K) (execUnbindDone ctx s) := by
  delta execUnbindDone
  repeat' first
    | with_reducible assumption
    | intro _
    | (extract_lets +onlyGivenNames t; refine (have ht : Kept Q K t := ?_; ?_); subst t; rotate_left; clear_value t)
    | (extract_lets +onlyGivenNames t; clear_value t)
    | with_reducible apply kept_ite
    | with_reducible apply State.setBinding_kept
    | with_reducible apply complete_kept
    | with_reducible apply raise_kept
    | with_reducible apply showDec_kept
    | with_reducible apply answers_next
    | with_reducible apply answers_ite
    | (simp only [kept_mk_iff]; with_reducible exact Kept.parts ‹_›)
    | split
    | (simp only [kept_mk_iff]; with_reducible refine Kept.parts ?_)

theorem popUnit_kept {c : Nat} (H0 : Kept Q K s) :
    Kept Q K (popUnit c s) := by
  delta popUnit
  repeat' first
    | with_reducible assumption
    | intro _
    | (extract_lets +onlyGivenNames t; refine (have ht : Kept Q K t := ?_; ?_); subst t; rotate_left; clear_value t)
    | (extract_lets +onlyGivenNames t; clear_value t)
    | with_reducible apply kept_ite
    | with_reducible apply State.setCtx_kept
    | (simp only [kept_mk_iff]; with_reducible exact Kept.parts ‹_›)
    | (simp only [kept_mk_iff]; with_reducible refine Kept.parts ?_)

theorem beginUnit_kept {c : Nat} {au : AccessUnit} {info : AuInfo} (H0 : Kept Q K s) :
    Kept Q K (beginUnit c au info s) := by
  delta beginUnit
  repeat' first
    | with_reducible assumption
    | intro _
    | (extract_lets +onlyGivenNames t; refine (have ht : Kept Q K t := ?_; ?_); subst t; rotate_left; clear_value t)
    | (extract_lets +onlyGivenNames t; clear_value t)
    | with_reducible apply kept_ite
    | with_reducible apply State.setBinding_kept
    | with_reducible apply each_kept
    | with_reducible apply popUnit_kept
    | with_reducible apply setB_kept
    | with_reducible apply setF_kept
    | (simp only [kept_mk_iff]; with_reducible exact Kept.parts ‹_›)
    | split
    | (simp only [kept_mk_iff]; with_reducible refine Kept.parts ?_)

theorem unsupportedUnit_kept {c r : Nat} (H0 : Kept Q K s) :
    Kept Q K (unsupportedUnit c r s) := by
  delta unsupportedUnit
  repeat' first
    | with_reducible assumption
    | intro _
    | (extract_lets +onlyGivenNames t; refine (have ht : Kept Q K t := ?_; ?_); subst t; rotate_left; clear_value t)
    | (extract_lets +onlyGivenNames t; clear_value t)
    | with_reducible apply kept_ite
    | with_reducible apply State.setBinding_kept
    | with_reducible apply popUnit_kept
    | with_reducible apply raise_kept
    | with_reducible apply setF_kept
    | (simp only [kept_mk_iff]; with_reducible exact Kept.parts ‹_›)
    | (simp only [kept_mk_iff]; with_reducible refine Kept.parts ?_)

theorem feedStart_kept {info : AuInfo} (H0 : Kept Q K s) :
    Kept Q K (feedStart info s) := by
  delta feedStart
  repeat' first
    | with_reducible assumption
    | intro _
    | (extract_lets +onlyGivenNames t; refine (have ht : Kept Q K t := ?_; ?_); subst t; rotate_left; clear_value t)
    | (extract_lets +onlyGivenNames t; clear_value t)
    | with_reducible apply kept_ite
    | with_reducible apply ifS_kept
    | (simp only [kept_mk_iff]; with_reducible exact Kept.parts ‹_›)
    | (simp only [kept_mk_iff]; with_reducible refine Kept.parts ?_)

theorem execDecodeStart_kept {ctx : Fin 1024} {info : AuInfo} (H0 : Kept Q K s) :
    Answers (Kept Q K) (execDecodeStart ctx info s) := by
  delta execDecodeStart
  repeat' first
    | with_reducible assumption
    | intro _
    | (extract_lets +onlyGivenNames t; refine (have ht : Kept Q K t := ?_; ?_); subst t; rotate_left; clear_value t)
    | (extract_lets +onlyGivenNames t; clear_value t)
    | with_reducible apply kept_ite
    | with_reducible apply State.setBinding_kept
    | with_reducible apply beginUnit_kept
    | with_reducible apply feedStart_kept
    | with_reducible apply ifS_kept
    | with_reducible apply popUnit_kept
    | with_reducible apply raise_kept
    | with_reducible apply unsupportedUnit_kept
    | with_reducible apply answers_next
    | with_reducible apply answers_ite
    | (simp only [kept_mk_iff]; with_reducible exact Kept.parts ‹_›)
    | split
    | (simp only [kept_mk_iff]; with_reducible refine Kept.parts ?_)

theorem writeLines_kept {a pitch n h : Nat} {xs : List Nat} (H0 : Kept Q K s) :
    Kept Q K (writeLines a pitch n h xs s) := by
  delta writeLines
  repeat' first
    | with_reducible assumption
    | intro _
    | with_reducible apply kept_ite
    | with_reducible apply each_kept
    | with_reducible apply memWrite_kept

theorem writePicture_kept {a p maxH : Nat} {w h chroma : Nat} {luma cb cr : List Nat} (H0 : Kept Q K s) :
    Kept Q K (writePicture a p maxH w h chroma luma cb cr s) := by
  delta writePicture
  repeat' first
    | with_reducible assumption
    | intro _
    | (extract_lets +onlyGivenNames t; refine (have ht : Kept Q K t := ?_; ?_); subst t; rotate_left; clear_value t)
    | (extract_lets +onlyGivenNames t; clear_value t)
    | with_reducible apply kept_ite
    | with_reducible apply writeLines_kept
    | split

theorem standIn_kept {c : Nat} {r : LayerResult} {e : RefEntry} (H0 : Kept Q K s) :
    Kept Q K (standIn c r e s) := by
  delta standIn
  repeat' first
    | with_reducible assumption
    | intro _
    | with_reducible apply hg
    | (extract_lets +onlyGivenNames t; refine (have ht : Kept Q K t := ?_; ?_); subst t; rotate_left; clear_value t)
    | (extract_lets +onlyGivenNames t; refine (have hg : ∀ x, Kept Q K x → Kept Q K (t x) := ?_; ?_); subst t; rotate_left; clear_value t)
    | (extract_lets +onlyGivenNames t; refine (have hg : ∀ a x, Kept Q K x → Kept Q K (t a x) := ?_; ?_); subst t; rotate_left; clear_value t)
    | (extract_lets +onlyGivenNames t; refine (have hg : ∀ a b x, Kept Q K x → Kept Q K (t a b x) := ?_; ?_); subst t; rotate_left; clear_value t)
    | (extract_lets +onlyGivenNames t; clear_value t)
    | with_reducible apply kept_ite
    | with_reducible apply State.setBinding_kept
    | with_reducible apply writePicture_kept
    | (simp only [kept_mk_iff]; with_reducible exact Kept.parts ‹_›)
    | split
    | (simp only [kept_mk_iff]; with_reducible refine Kept.parts ?_)

theorem storeLayer_kept {c : Nat} {au : AccessUnit} {r : LayerResult} {l : LayerInfo} {bad : List Nat} {tainted : Bool} {i : Nat} (H0 : Kept Q K s) :
    Kept Q K (storeLayer c au r l bad tainted i s) := by
  delta storeLayer
  repeat' first
    | with_reducible assumption
    | intro _
    | with_reducible apply hg
    | (extract_lets +onlyGivenNames t; refine (have ht : Kept Q K t := ?_; ?_); subst t; rotate_left; clear_value t)
    | (extract_lets +onlyGivenNames t; refine (have hg : ∀ x, Kept Q K x → Kept Q K (t x) := ?_; ?_); subst t; rotate_left; clear_value t)
    | (extract_lets +onlyGivenNames t; refine (have hg : ∀ a x, Kept Q K x → Kept Q K (t a x) := ?_; ?_); subst t; rotate_left; clear_value t)
    | (extract_lets +onlyGivenNames t; refine (have hg : ∀ a b x, Kept Q K x → Kept Q K (t a b x) := ?_; ?_); subst t; rotate_left; clear_value t)
    | (extract_lets +onlyGivenNames t; clear_value t)
    | with_reducible apply kept_ite
    | with_reducible apply State.setBinding_kept
    | with_reducible apply each_kept
    | with_reducible apply ifS_kept
    | with_reducible apply raise_kept
    | with_reducible apply setF_kept
    | with_reducible apply writePicture_kept
    | (simp only [kept_mk_iff]; with_reducible exact Kept.parts ‹_›)
    | split
    | (simp only [kept_mk_iff]; with_reducible refine Kept.parts ?_)

theorem streamError_kept {c first cls : Nat} {poc : Int} (H0 : Kept Q K s) :
    Kept Q K (streamError c first cls poc s) := by
  delta streamError
  repeat' first
    | with_reducible assumption
    | intro _
    | with_reducible apply kept_ite
    | with_reducible apply raise_kept
    | with_reducible apply setF_kept

theorem finishLayer_kept {c : Nat} {au : AccessUnit} {r : LayerResult} (H0 : Kept Q K s) :
    Kept Q K (finishLayer c au r s) := by
  delta finishLayer
  repeat' first
    | with_reducible assumption
    | intro _
    | with_reducible apply hg
    | (extract_lets +onlyGivenNames t; refine (have ht : Kept Q K t := ?_; ?_); subst t; rotate_left; clear_value t)
    | (extract_lets +onlyGivenNames t; refine (have hg : ∀ x, Kept Q K x → Kept Q K (t x) := ?_; ?_); subst t; rotate_left; clear_value t)
    | (extract_lets +onlyGivenNames t; refine (have hg : ∀ a x, Kept Q K x → Kept Q K (t a x) := ?_; ?_); subst t; rotate_left; clear_value t)
    | (extract_lets +onlyGivenNames t; refine (have hg : ∀ a b x, Kept Q K x → Kept Q K (t a b x) := ?_; ?_); subst t; rotate_left; clear_value t)
    | (extract_lets +onlyGivenNames t; clear_value t)
    | with_reducible apply kept_ite
    | with_reducible apply State.setBinding_kept
    | with_reducible apply each_kept
    | with_reducible apply ifS_kept
    | with_reducible apply standIn_kept
    | with_reducible apply storeLayer_kept
    | with_reducible apply streamError_kept
    | (simp only [kept_mk_iff]; with_reducible exact Kept.parts ‹_›)
    | split
    | (simp only [kept_mk_iff]; with_reducible refine Kept.parts ?_)

theorem decFault_kept {k : Nat} (H0 : Kept Q K s) :
    Kept Q K (decFault k s) := by
  delta decFault
  repeat' first
    | with_reducible assumption
    | intro _
    | (extract_lets +onlyGivenNames t; refine (have ht : Kept Q K t := ?_; ?_); subst t; rotate_left; clear_value t)
    | (extract_lets +onlyGivenNames t; clear_value t)
    | with_reducible apply kept_ite
    | with_reducible apply State.setBinding_kept
    | with_reducible apply each_kept
    | with_reducible apply ifS_kept
    | (simp only [kept_mk_iff]; with_reducible exact Kept.parts ‹_›)
    | (simp only [kept_mk_iff]; with_reducible refine Kept.parts ?_)

theorem completeUnit_kept {c : Nat} {res : DecodeResult} (H0 : Kept Q K s) :
    Kept Q K (completeUnit c res s).1 := by
  delta completeUnit
  repeat' first
    | with_reducible assumption
    | intro _
    | (extract_lets +onlyGivenNames t; refine (have ht : Kept Q K t := ?_; ?_); subst t; rotate_left; clear_value t)
    | (extract_lets +onlyGivenNames t; refine (have ht : Kept Q K t.2 := ?_; ?_); subst t; rotate_left; clear_value t)
    | (extract_lets +onlyGivenNames t; refine (have ht : Kept Q K t.1 := ?_; ?_); subst t; rotate_left; clear_value t)
    | (extract_lets +onlyGivenNames t; refine (have ht : Kept Q K t.1.1 := ?_; ?_); subst t; rotate_left; clear_value t)
    | (extract_lets +onlyGivenNames t; clear_value t)
    | with_reducible apply kept_ite_fst
    | with_reducible apply kept_ite
    | with_reducible apply State.setBinding_kept
    | with_reducible apply addF_kept
    | with_reducible apply each_kept
    | with_reducible apply finishLayer_kept
    | with_reducible apply fresh_kept
    | with_reducible apply ifS_kept
    | with_reducible apply setB_kept
    | (simp only [kept_mk_iff]; with_reducible exact Kept.parts ‹_›)
    | split
    | (simp only [kept_mk_iff]; with_reducible refine Kept.parts ?_)

theorem writeDecSel_kept {v : Nat} (H0 : Kept Q K s) :
    Kept Q K (writeDecSel v s) := by
  delta writeDecSel
  repeat' first
    | with_reducible assumption
    | intro _
    | (extract_lets +onlyGivenNames t; refine (have ht : Kept Q K t := ?_; ?_); subst t; rotate_left; clear_value t)
    | (extract_lets +onlyGivenNames t; clear_value t)
    | with_reducible apply kept_ite
    | with_reducible apply setF_kept

theorem execDecSelWrite_kept {who : Who} {v : Word} (H0 : Kept Q K s) :
    Answers (Kept Q K) (execDecSelWrite who v s) := by
  delta execDecSelWrite
  repeat' first
    | with_reducible assumption
    | intro _
    | with_reducible apply kept_ite
    | with_reducible apply guardWrite_kept
    | with_reducible apply writeDecSel_kept
    | with_reducible apply answers_next
    | with_reducible apply answers_ite

end Sys2Proof.Machine
end

