-- ==== Sys2Proof/Laws/Kept/Slowpath.lean ====
section
/-!
SUPPORT. Every operation of Machine/Slowpath.lean keeps the queue and the canonical form.
-/

namespace Sys2Proof.Machine

set_option linter.unusedTactic false
set_option linter.unreachableTactic false
set_option linter.unusedSimpArgs false

variable {Q : List Instr} {K : Prop} {s : State}

theorem joinReports_kept {x : Ctx} (H0 : Kept Q K s) :
    Kept Q K (joinReports x s) := by
  delta joinReports
  repeat' first
    | with_reducible assumption
    | intro _
    | with_reducible apply kept_ite
    | with_reducible apply each_kept
    | with_reducible apply sendSystem_kept

theorem standingReports_kept {p : Nat} (H0 : Kept Q K s) :
    Kept Q K (standingReports p s) := by
  delta standingReports
  repeat' first
    | with_reducible assumption
    | intro _
    | with_reducible apply kept_ite
    | with_reducible apply each_kept
    | with_reducible apply sendSystem_kept

theorem answerQuery_kept {p : Nat} {ipv6 new : Bool} {g : List Byte} (H0 : Kept Q K s) :
    Kept Q K (answerQuery p ipv6 new g s) := by
  delta answerQuery
  repeat' first
    | with_reducible assumption
    | intro _
    | (extract_lets +onlyGivenNames t; refine (have ht : Kept Q K t := ?_; ?_); subst t; rotate_left; clear_value t)
    | (extract_lets +onlyGivenNames t; clear_value t)
    | with_reducible apply kept_ite
    | with_reducible apply each_kept
    | with_reducible apply sendSystem_kept
    | split

theorem arpReply_kept {p : Nat} {f : List Byte} (H0 : Kept Q K s) :
    Kept Q K (arpReply p f s) := by
  delta arpReply
  repeat' first
    | with_reducible assumption
    | intro _
    | (extract_lets +onlyGivenNames t; refine (have ht : Kept Q K t := ?_; ?_); subst t; rotate_left; clear_value t)
    | (extract_lets +onlyGivenNames t; clear_value t)
    | with_reducible apply kept_ite
    | with_reducible apply sendSystem_kept
    | split

theorem neighbourReply_kept {p : Nat} {f : List Byte} (H0 : Kept Q K s) :
    Kept Q K (neighbourReply p f s) := by
  delta neighbourReply
  repeat' first
    | with_reducible assumption
    | intro _
    | (extract_lets +onlyGivenNames t; refine (have ht : Kept Q K t := ?_; ?_); subst t; rotate_left; clear_value t)
    | (extract_lets +onlyGivenNames t; clear_value t)
    | with_reducible apply kept_ite
    | with_reducible apply sendSystem_kept
    | split

theorem firmwareAnswers_kept {p : Nat} {f : List Byte} (H0 : Kept Q K s) :
    Kept Q K (firmwareAnswers p f s) := by
  delta firmwareAnswers
  repeat' first
    | with_reducible assumption
    | intro _
    | (extract_lets +onlyGivenNames t; refine (have ht : Kept Q K t := ?_; ?_); subst t; rotate_left; clear_value t)
    | (extract_lets +onlyGivenNames t; clear_value t)
    | with_reducible apply kept_ite
    | with_reducible apply answerQuery_kept
    | with_reducible apply arpReply_kept
    | with_reducible apply neighbourReply_kept
    | (simp only [kept_mk_iff]; with_reducible exact Kept.parts ‹_›)
    | split
    | (simp only [kept_mk_iff]; with_reducible refine Kept.parts ?_)

end Sys2Proof.Machine
end

