-- ==== Sys2Proof/Laws/Kept/Intake.lean ====
section
/-!
SUPPORT. Every operation of Machine/Intake.lean keeps the queue and the canonical form.
-/

namespace Sys2Proof.Machine

set_option linter.unusedTactic false
set_option linter.unreachableTactic false
set_option linter.unusedSimpArgs false

variable {Q : List Instr} {K : Prop} {s : State}

theorem refreshCauses_kept {w : Nat} (H0 : Kept Q K s) :
    Kept Q K (refreshCauses w s) := by
  delta refreshCauses
  repeat' first
    | with_reducible assumption
    | intro _
    | with_reducible apply hg
    | (extract_lets +onlyGivenNames t; refine (have ht : Kept Q K t := ?_; ?_); subst t; rotate_left; clear_value t)
    | (extract_lets +onlyGivenNames t; refine (have hg : ∀ x, Kept Q K x → Kept Q K (t x) := ?_; ?_); subst t; rotate_left; clear_value t)
    | (extract_lets +onlyGivenNames t; refine (have hg : ∀ a x, Kept Q K x → Kept Q K (t a x) := ?_; ?_); subst t; rotate_left; clear_value t)
    | (extract_lets +onlyGivenNames t; refine (have hg : ∀ a b x, Kept Q K x → Kept Q K (t a b x) := ?_; ?_); subst t; rotate_left; clear_value t)
    | (extract_lets +onlyGivenNames t; clear_value t)
    | with_reducible apply kept_ite
    | with_reducible apply each_kept
    | with_reducible apply setF_kept
    | with_reducible apply summary_kept
    | with_reducible apply kept_foldl

theorem ctxCause_kept {c b : Nat} (H0 : Kept Q K s) :
    Kept Q K (ctxCause c b s) := by
  delta ctxCause
  repeat' first
    | with_reducible assumption
    | intro _
    | with_reducible apply kept_ite
    | with_reducible apply orF_kept
    | with_reducible apply refreshCauses_kept

theorem showCtx_kept {c : Nat} (H0 : Kept Q K s) :
    Kept Q K (showCtx c s) := by
  delta showCtx
  repeat' first
    | with_reducible assumption
    | intro _
    | (extract_lets +onlyGivenNames t; refine (have ht : Kept Q K t := ?_; ?_); subst t; rotate_left; clear_value t)
    | (extract_lets +onlyGivenNames t; clear_value t)
    | with_reducible apply kept_ite
    | with_reducible apply setB_kept
    | with_reducible apply setF_kept

theorem showStr_kept (H0 : Kept Q K s) :
    Kept Q K (showStr s) := by
  delta showStr
  repeat' first
    | with_reducible assumption
    | intro _
    | (extract_lets +onlyGivenNames t; refine (have ht : Kept Q K t := ?_; ?_); subst t; rotate_left; clear_value t)
    | (extract_lets +onlyGivenNames t; clear_value t)
    | with_reducible apply kept_ite
    | with_reducible apply setF_kept

theorem ctxOpenOne_kept {c : Cmd} (H0 : Kept Q K s) :
    Kept Q K (ctxOpenOne c s) := by
  delta ctxOpenOne
  repeat' first
    | with_reducible assumption
    | intro _
    | (extract_lets +onlyGivenNames t; refine (have ht : Kept Q K t := ?_; ?_); subst t; rotate_left; clear_value t)
    | (extract_lets +onlyGivenNames t; clear_value t)
    | with_reducible apply kept_ite
    | with_reducible apply State.setCtx_kept
    | with_reducible apply countF_kept
    | with_reducible apply finish_kept
    | with_reducible apply ifS_kept
    | with_reducible apply joinReports_kept
    | with_reducible apply raise_kept
    | with_reducible apply refuse_kept
    | with_reducible apply setF_kept
    | with_reducible apply showCtx_kept
    | with_reducible apply showStr_kept
    | with_reducible apply withLen_kept
    | (simp only [kept_mk_iff]; with_reducible exact Kept.parts ‹_›)
    | split
    | (simp only [kept_mk_iff]; with_reducible refine Kept.parts ?_)

theorem execCtxOpen_kept {cs : List Cmd} (H0 : Kept Q K s) :
    Answers (Kept Q K) (execCtxOpen cs s) := by
  delta execCtxOpen
  repeat' first
    | with_reducible assumption
    | intro _
    | with_reducible apply kept_ite
    | with_reducible apply ctxOpenOne_kept
    | with_reducible apply runTies_kept
    | with_reducible apply serveTable_kept
    | with_reducible apply answers_next
    | with_reducible apply answers_ite

theorem closeCtx_kept {i : Nat} {ref : Option CmdRef} (H0 : Kept Q K s) :
    Kept Q K (closeCtx i ref s) := by
  delta closeCtx
  repeat' first
    | with_reducible assumption
    | intro _
    | (extract_lets +onlyGivenNames t; refine (have ht : Kept Q K t := ?_; ?_); subst t; rotate_left; clear_value t)
    | (extract_lets +onlyGivenNames t; clear_value t)
    | with_reducible apply kept_ite
    | with_reducible apply State.setCtx_kept
    | with_reducible apply showCtx_kept
    | with_reducible apply startRelease_kept
    | (simp only [kept_mk_iff]; with_reducible exact Kept.parts ‹_›)
    | split
    | (simp only [kept_mk_iff]; with_reducible refine Kept.parts ?_)

theorem execCtxClose_kept {c : Cmd} (H0 : Kept Q K s) :
    Answers (Kept Q K) (execCtxClose c s) := by
  delta execCtxClose
  repeat' first
    | with_reducible assumption
    | intro _
    | (extract_lets +onlyGivenNames t; refine (have ht : Kept Q K t := ?_; ?_); subst t; rotate_left; clear_value t)
    | (extract_lets +onlyGivenNames t; clear_value t)
    | with_reducible apply kept_ite
    | with_reducible apply answer_kept
    | with_reducible apply closeCtx_kept
    | with_reducible apply runCmd_kept
    | with_reducible apply answers_next
    | with_reducible apply answers_ite
    | split

theorem releaseCtx_kept {i : Nat} (H0 : Kept Q K s) :
    Kept Q K (releaseCtx i s) := by
  delta releaseCtx
  repeat' first
    | with_reducible assumption
    | intro _
    | (extract_lets +onlyGivenNames t; refine (have ht : Kept Q K t := ?_; ?_); subst t; rotate_left; clear_value t)
    | (extract_lets +onlyGivenNames t; clear_value t)
    | with_reducible apply kept_ite
    | with_reducible apply State.setCtx_kept
    | with_reducible apply complete_kept
    | with_reducible apply raise_kept
    | with_reducible apply showCtx_kept
    | with_reducible apply showStr_kept
    | (simp only [kept_mk_iff]; with_reducible exact Kept.parts ‹_›)
    | split
    | (simp only [kept_mk_iff]; with_reducible refine Kept.parts ?_)

theorem execCtxReleaseDone_kept {ctx : Fin 1024} (H0 : Kept Q K s) :
    Answers (Kept Q K) (execCtxReleaseDone ctx s) := by
  delta execCtxReleaseDone
  repeat' first
    | with_reducible assumption
    | intro _
    | with_reducible apply kept_ite
    | with_reducible apply releaseCtx_kept
    | with_reducible apply answers_next
    | with_reducible apply answers_ite
    | split

theorem dropFragment_kept {c : Nat} (H0 : Kept Q K s) :
    Kept Q K (dropFragment c s) := by
  delta dropFragment
  repeat' first
    | with_reducible assumption
    | intro _
    | (extract_lets +onlyGivenNames t; refine (have ht : Kept Q K t := ?_; ?_); subst t; rotate_left; clear_value t)
    | (extract_lets +onlyGivenNames t; clear_value t)
    | with_reducible apply kept_ite
    | with_reducible apply State.setCtx_kept
    | with_reducible apply ctxCause_kept
    | (simp only [kept_mk_iff]; with_reducible exact Kept.parts ‹_›)
    | split
    | (simp only [kept_mk_iff]; with_reducible refine Kept.parts ?_)

theorem endUnit_kept {c : Nat} (H0 : Kept Q K s) :
    Kept Q K (endUnit c s) := by
  delta endUnit
  repeat' first
    | with_reducible assumption
    | intro _
    | (extract_lets +onlyGivenNames t; refine (have ht : Kept Q K t := ?_; ?_); subst t; rotate_left; clear_value t)
    | (extract_lets +onlyGivenNames t; clear_value t)
    | with_reducible apply kept_ite
    | with_reducible apply State.setCtx_kept
    | with_reducible apply countF_kept
    | with_reducible apply dropFragment_kept
    | with_reducible apply ifS_kept
    | (simp only [kept_mk_iff]; with_reducible exact Kept.parts ‹_›)
    | split
    | (simp only [kept_mk_iff]; with_reducible refine Kept.parts ?_)

theorem unsupportedNal_kept {c : Nat} (H0 : Kept Q K s) :
    Kept Q K (unsupportedNal c s) := by
  delta unsupportedNal
  repeat' first
    | with_reducible assumption
    | intro _
    | (extract_lets +onlyGivenNames t; refine (have ht : Kept Q K t := ?_; ?_); subst t; rotate_left; clear_value t)
    | (extract_lets +onlyGivenNames t; clear_value t)
    | with_reducible apply kept_ite
    | with_reducible apply State.setCtx_kept
    | with_reducible apply ctxCause_kept
    | (simp only [kept_mk_iff]; with_reducible exact Kept.parts ‹_›)
    | (simp only [kept_mk_iff]; with_reducible refine Kept.parts ?_)

theorem takeNal_kept {c : Nat} {n : List Byte} (H0 : Kept Q K s) :
    Kept Q K (takeNal c n s) := by
  delta takeNal
  repeat' first
    | with_reducible assumption
    | intro _
    | (extract_lets +onlyGivenNames t; refine (have ht : Kept Q K t := ?_; ?_); subst t; rotate_left; clear_value t)
    | (extract_lets +onlyGivenNames t; clear_value t)
    | with_reducible apply kept_ite
    | with_reducible apply State.setCtx_kept
    | with_reducible apply unsupportedNal_kept
    | (simp only [kept_mk_iff]; with_reducible exact Kept.parts ‹_›)
    | split
    | (simp only [kept_mk_iff]; with_reducible refine Kept.parts ?_)

theorem takeAggregate_kept {c n : Nat} {p : List Byte} (H0 : Kept Q K s) : Kept Q K (takeAggregate c n p s) := by
  induction n generalizing p s with
  | zero => exact H0
  | succ n ih =>
    unfold takeAggregate
    exact kept_ite H0 (kept_ite (unsupportedNal_kept H0) (ih (takeNal_kept H0)))

theorem takeFragment_kept {c : Nat} {p : List Byte} (H0 : Kept Q K s) :
    Kept Q K (takeFragment c p s) := by
  delta takeFragment
  repeat' first
    | with_reducible assumption
    | intro _
    | (extract_lets +onlyGivenNames t; refine (have ht : Kept Q K t := ?_; ?_); subst t; rotate_left; clear_value t)
    | (extract_lets +onlyGivenNames t; clear_value t)
    | with_reducible apply kept_ite
    | with_reducible apply State.setCtx_kept
    | with_reducible apply ctxCause_kept
    | with_reducible apply dropFragment_kept
    | with_reducible apply ifS_kept
    | with_reducible apply takeNal_kept
    | (simp only [kept_mk_iff]; with_reducible exact Kept.parts ‹_›)
    | split
    | (simp only [kept_mk_iff]; with_reducible refine Kept.parts ?_)

theorem deliverPacket_kept {c : Nat} {h : Held} (H0 : Kept Q K s) :
    Kept Q K (deliverPacket c h s) := by
  delta deliverPacket
  repeat' first
    | with_reducible assumption
    | intro _
    | (extract_lets +onlyGivenNames t; refine (have ht : Kept Q K t := ?_; ?_); subst t; rotate_left; clear_value t)
    | (extract_lets +onlyGivenNames t; clear_value t)
    | with_reducible apply kept_ite
    | with_reducible apply State.setCtx_kept
    | with_reducible apply dropFragment_kept
    | with_reducible apply endUnit_kept
    | with_reducible apply ifS_kept
    | with_reducible apply takeAggregate_kept
    | with_reducible apply takeFragment_kept
    | with_reducible apply takeNal_kept
    | with_reducible apply unsupportedNal_kept
    | (simp only [kept_mk_iff]; with_reducible exact Kept.parts ‹_›)
    | split
    | (simp only [kept_mk_iff]; with_reducible refine Kept.parts ?_)

theorem deliverRun_kept {c n : Nat} (H0 : Kept Q K s) : Kept Q K (deliverRun c n s) := by
  induction n generalizing s with
  | zero => exact H0
  | succ n ih =>
    unfold deliverRun
    dsimp only
    split
    · exact H0
    · split
      · exact H0
      · exact ih (deliverPacket_kept (State.setCtx_kept H0))

theorem gapTimeout_kept {c : Nat} (H0 : Kept Q K s) :
    Kept Q K (gapTimeout c s) := by
  delta gapTimeout
  repeat' first
    | with_reducible assumption
    | intro _
    | (extract_lets +onlyGivenNames t; refine (have ht : Kept Q K t := ?_; ?_); subst t; rotate_left; clear_value t)
    | (extract_lets +onlyGivenNames t; clear_value t)
    | with_reducible apply kept_ite
    | with_reducible apply State.setCtx_kept
    | with_reducible apply countF_kept
    | with_reducible apply ctxCause_kept
    | with_reducible apply deliverRun_kept
    | with_reducible apply dropFragment_kept
    | with_reducible apply each_kept
    | with_reducible apply ifS_kept
    | with_reducible apply showCtx_kept
    | (simp only [kept_mk_iff]; with_reducible exact Kept.parts ‹_›)
    | split
    | (simp only [kept_mk_iff]; with_reducible refine Kept.parts ?_)

theorem execMergeGapTimeout_kept {ctx : Fin 1024} (H0 : Kept Q K s) :
    Answers (Kept Q K) (execMergeGapTimeout ctx s) := by
  delta execMergeGapTimeout
  repeat' first
    | with_reducible assumption
    | intro _
    | with_reducible apply kept_ite
    | with_reducible apply gapTimeout_kept
    | with_reducible apply answers_next
    | with_reducible apply answers_ite
    | (simp only [kept_mk_iff]; with_reducible exact Kept.parts ‹_›)
    | split
    | (simp only [kept_mk_iff]; with_reducible refine Kept.parts ?_)

theorem execPathTimeout_kept {ctx : Fin 1024} {pathB : Bool} (H0 : Kept Q K s) :
    Answers (Kept Q K) (execPathTimeout ctx pathB s) := by
  delta execPathTimeout
  repeat' first
    | with_reducible assumption
    | intro _
    | (extract_lets +onlyGivenNames t; refine (have ht : Kept Q K t := ?_; ?_); subst t; rotate_left; clear_value t)
    | (extract_lets +onlyGivenNames t; clear_value t)
    | with_reducible apply kept_ite
    | with_reducible apply State.setCtx_kept
    | with_reducible apply ctxCause_kept
    | with_reducible apply showCtx_kept
    | with_reducible apply answers_next
    | with_reducible apply answers_ite
    | (simp only [kept_mk_iff]; with_reducible exact Kept.parts ‹_›)
    | split
    | (simp only [kept_mk_iff]; with_reducible refine Kept.parts ?_)

theorem resync_kept {c q : Nat} (H0 : Kept Q K s) :
    Kept Q K (resync c q s) := by
  delta resync
  repeat' first
    | with_reducible assumption
    | intro _
    | (extract_lets +onlyGivenNames t; refine (have ht : Kept Q K t := ?_; ?_); subst t; rotate_left; clear_value t)
    | (extract_lets +onlyGivenNames t; clear_value t)
    | with_reducible apply kept_ite
    | with_reducible apply State.setCtx_kept
    | with_reducible apply ctxCause_kept
    | with_reducible apply endUnit_kept
    | (simp only [kept_mk_iff]; with_reducible exact Kept.parts ‹_›)
    | (simp only [kept_mk_iff]; with_reducible refine Kept.parts ?_)

theorem stray_kept {c : Nat} (H0 : Kept Q K s) :
    Kept Q K (stray c s) := by
  delta stray
  repeat' first
    | with_reducible assumption
    | intro _
    | (extract_lets +onlyGivenNames t; refine (have ht : Kept Q K t := ?_; ?_); subst t; rotate_left; clear_value t)
    | (extract_lets +onlyGivenNames t; clear_value t)
    | with_reducible apply kept_ite
    | with_reducible apply State.setCtx_kept
    | (simp only [kept_mk_iff]; with_reducible exact Kept.parts ‹_›)
    | (simp only [kept_mk_iff]; with_reducible refine Kept.parts ?_)

theorem noteSkew_kept {c : Nat} {b : Bool} {e stamp : Nat} (H0 : Kept Q K s) :
    Kept Q K (noteSkew c b e stamp s) := by
  delta noteSkew
  repeat' first
    | with_reducible assumption
    | intro _
    | (extract_lets +onlyGivenNames t; refine (have ht : Kept Q K t := ?_; ?_); subst t; rotate_left; clear_value t)
    | (extract_lets +onlyGivenNames t; clear_value t)
    | with_reducible apply kept_ite
    | with_reducible apply State.setCtx_kept
    | with_reducible apply ctxCause_kept
    | with_reducible apply ifS_kept
    | (simp only [kept_mk_iff]; with_reducible exact Kept.parts ‹_›)
    | split
    | (simp only [kept_mk_iff]; with_reducible refine Kept.parts ?_)

theorem mergePacket_kept {c e : Nat} {h : Held} (H0 : Kept Q K s) :
    Kept Q K (mergePacket c e h s) := by
  delta mergePacket
  repeat' first
    | with_reducible assumption
    | intro _
    | (extract_lets +onlyGivenNames t; refine (have ht : Kept Q K t := ?_; ?_); subst t; rotate_left; clear_value t)
    | (extract_lets +onlyGivenNames t; clear_value t)
    | with_reducible apply kept_ite
    | with_reducible apply State.setCtx_kept
    | with_reducible apply ctxCause_kept
    | with_reducible apply deliverRun_kept
    | with_reducible apply showCtx_kept
    | (simp only [kept_mk_iff]; with_reducible exact Kept.parts ‹_›)
    | split
    | (simp only [kept_mk_iff]; with_reducible refine Kept.parts ?_)

theorem acceptPacket_kept {c : Nat} {b : Bool} {p : List Byte} {stamp : Nat} (H0 : Kept Q K s) :
    Kept Q K (acceptPacket c b p stamp s) := by
  delta acceptPacket
  repeat' first
    | with_reducible assumption
    | intro _
    | (extract_lets +onlyGivenNames t; refine (have ht : Kept Q K t := ?_; ?_); subst t; rotate_left; clear_value t)
    | (extract_lets +onlyGivenNames t; clear_value t)
    | with_reducible apply kept_ite
    | with_reducible apply State.setCtx_kept
    | with_reducible apply ctxCause_kept
    | with_reducible apply ifS_kept
    | with_reducible apply mergePacket_kept
    | with_reducible apply noteSkew_kept
    | with_reducible apply resync_kept
    | with_reducible apply showCtx_kept
    | with_reducible apply stray_kept
    | (simp only [kept_mk_iff]; with_reducible exact Kept.parts ‹_›)
    | split
    | (simp only [kept_mk_iff]; with_reducible refine Kept.parts ?_)

theorem rtpPacket_kept {c : Nat} {b : Bool} {p : List Byte} {stamp : Nat} (H0 : Kept Q K s) :
    Kept Q K (rtpPacket c b p stamp s) := by
  delta rtpPacket
  repeat' first
    | with_reducible assumption
    | intro _
    | (extract_lets +onlyGivenNames t; refine (have ht : Kept Q K t := ?_; ?_); subst t; rotate_left; clear_value t)
    | (extract_lets +onlyGivenNames t; clear_value t)
    | with_reducible apply kept_ite
    | with_reducible apply State.setCtx_kept
    | with_reducible apply acceptPacket_kept
    | with_reducible apply ctxCause_kept
    | with_reducible apply resync_kept
    | with_reducible apply stray_kept
    | (simp only [kept_mk_iff]; with_reducible exact Kept.parts ‹_›)
    | split
    | (simp only [kept_mk_iff]; with_reducible refine Kept.parts ?_)

theorem writeStrSel_kept {w v : Nat} (H0 : Kept Q K s) :
    Kept Q K (writeStrSel w v s) := by
  delta writeStrSel
  repeat' first
    | with_reducible assumption
    | intro _
    | (extract_lets +onlyGivenNames t; refine (have ht : Kept Q K t := ?_; ?_); subst t; rotate_left; clear_value t)
    | (extract_lets +onlyGivenNames t; clear_value t)
    | with_reducible apply kept_ite
    | with_reducible apply setF_kept

theorem execStrSelWrite_kept {who : Who} {w : Fin 8} {v : Word} (H0 : Kept Q K s) :
    Answers (Kept Q K) (execStrSelWrite who w v s) := by
  delta execStrSelWrite
  repeat' first
    | with_reducible assumption
    | intro _
    | with_reducible apply kept_ite
    | with_reducible apply guardWrite_kept
    | with_reducible apply writeStrSel_kept
    | with_reducible apply answers_next
    | with_reducible apply answers_ite

theorem writeNetInj_kept {p v : Nat} (H0 : Kept Q K s) :
    Kept Q K (writeNetInj p v s) := by
  delta writeNetInj
  repeat' first
    | with_reducible assumption
    | intro _
    | (extract_lets +onlyGivenNames t; refine (have ht : Kept Q K t := ?_; ?_); subst t; rotate_left; clear_value t)
    | (extract_lets +onlyGivenNames t; clear_value t)
    | with_reducible apply kept_ite
    | with_reducible apply ifS_kept
    | with_reducible apply setF_kept
    | (simp only [kept_mk_iff]; with_reducible exact Kept.parts ‹_›)
    | split
    | (simp only [kept_mk_iff]; with_reducible refine Kept.parts ?_)

theorem execNetInjArm_kept {who : Who} {port : Fin 5} {v : Word} (H0 : Kept Q K s) :
    Answers (Kept Q K) (execNetInjArm who port v s) := by
  delta execNetInjArm
  repeat' first
    | with_reducible assumption
    | intro _
    | with_reducible apply kept_ite
    | with_reducible apply guardWrite_kept
    | with_reducible apply writeNetInj_kept
    | with_reducible apply answers_next
    | with_reducible apply answers_ite

theorem execPortLinkChange_kept {port : Fin 5} {up : Bool} {status : Nat} (H0 : Kept Q K s) :
    Answers (Kept Q K) (execPortLinkChange port up status s) := by
  delta execPortLinkChange
  repeat' first
    | with_reducible assumption
    | intro _
    | (extract_lets +onlyGivenNames t; refine (have ht : Kept Q K t := ?_; ?_); subst t; rotate_left; clear_value t)
    | (extract_lets +onlyGivenNames t; clear_value t)
    | with_reducible apply kept_ite
    | with_reducible apply ifS_kept
    | with_reducible apply raise_kept
    | with_reducible apply setB_kept
    | with_reducible apply standingReports_kept
    | with_reducible apply answers_next
    | with_reducible apply answers_ite
    | split

theorem strReset_kept (H0 : Kept Q K s) :
    Kept Q K (strReset s) := by
  delta strReset
  repeat' first
    | with_reducible assumption
    | intro _
    | with_reducible apply kept_ite
    | with_reducible apply each_kept
    | with_reducible apply ifS_kept
    | with_reducible apply releaseCtx_kept
    | with_reducible apply showStr_kept
    | with_reducible apply startRelease_kept

end Sys2Proof.Machine
end

