-- ==== Sys2Proof/Laws/Kept/Encode.lean ====
section
/-!
SUPPORT. Every operation of Machine/Encode.lean keeps the queue and the canonical form.
-/

namespace Sys2Proof.Machine

set_option linter.unusedTactic false
set_option linter.unreachableTactic false
set_option linter.unusedSimpArgs false

variable {Q : List Instr} {K : Prop} {s : State}

theorem showEnc_kept (H0 : Kept Q K s) :
    Kept Q K (showEnc s) := by
  delta showEnc
  repeat' first
    | with_reducible assumption
    | intro _
    | with_reducible apply kept_ite
    | with_reducible apply setF_kept

theorem encOpenOne_kept {c : Cmd} (H0 : Kept Q K s) :
    Kept Q K (encOpenOne c s) := by
  delta encOpenOne
  repeat' first
    | with_reducible assumption
    | intro _
    | (extract_lets +onlyGivenNames t; refine (have ht : Kept Q K t := ?_; ?_); subst t; rotate_left; clear_value t)
    | (extract_lets +onlyGivenNames t; clear_value t)
    | with_reducible apply kept_ite
    | with_reducible apply State.setSess_kept
    | with_reducible apply countF_kept
    | with_reducible apply finish_kept
    | with_reducible apply ifS_kept
    | with_reducible apply raise_kept
    | with_reducible apply refuse_kept
    | with_reducible apply setF_kept
    | with_reducible apply showEnc_kept
    | with_reducible apply showSession_kept
    | with_reducible apply withLen_kept
    | (simp only [kept_mk_iff]; with_reducible exact Kept.parts ‹_›)
    | split
    | (simp only [kept_mk_iff]; with_reducible refine Kept.parts ?_)

theorem execEncOpen_kept {cs : List Cmd} (H0 : Kept Q K s) :
    Answers (Kept Q K) (execEncOpen cs s) := by
  delta execEncOpen
  repeat' first
    | with_reducible assumption
    | intro _
    | with_reducible apply kept_ite
    | with_reducible apply encOpenOne_kept
    | with_reducible apply runTies_kept
    | with_reducible apply serveTable_kept
    | with_reducible apply answers_next
    | with_reducible apply answers_ite

theorem endCapture_kept {i : Nat} {c : Capture} (H0 : Kept Q K s) :
    Kept Q K (endCapture i c s) := by
  delta endCapture
  repeat' first
    | with_reducible assumption
    | intro _
    | with_reducible apply hg
    | (extract_lets +onlyGivenNames t; refine (have ht : Kept Q K t := ?_; ?_); subst t; rotate_left; clear_value t)
    | (extract_lets +onlyGivenNames t; refine (have hg : ∀ x, Kept Q K x → Kept Q K (t x) := ?_; ?_); subst t; rotate_left; clear_value t)
    | (extract_lets +onlyGivenNames t; refine (have hg : ∀ a x, Kept Q K x → Kept Q K (t a x) := ?_; ?_); subst t; rotate_left; clear_value t)
    | (extract_lets +onlyGivenNames t; refine (have hg : ∀ a b x, Kept Q K x → Kept Q K (t a b x) := ?_; ?_); subst t; rotate_left; clear_value t)
    | (extract_lets +onlyGivenNames t; clear_value t)
    | with_reducible apply kept_ite
    | with_reducible apply endLeases_kept
    | with_reducible apply ifS_kept
    | (simp only [kept_mk_iff]; with_reducible exact Kept.parts ‹_›)
    | split
    | (simp only [kept_mk_iff]; with_reducible refine Kept.parts ?_)

theorem endCaptures_kept {i : Nat} (H0 : Kept Q K s) :
    Kept Q K (endCaptures i s) := by
  delta endCaptures
  repeat' first
    | with_reducible assumption
    | intro _
    | (extract_lets +onlyGivenNames t; refine (have ht : Kept Q K t := ?_; ?_); subst t; rotate_left; clear_value t)
    | (extract_lets +onlyGivenNames t; clear_value t)
    | with_reducible apply kept_ite
    | with_reducible apply State.setSess_kept
    | with_reducible apply each_kept
    | with_reducible apply endCapture_kept
    | (simp only [kept_mk_iff]; with_reducible exact Kept.parts ‹_›)
    | (simp only [kept_mk_iff]; with_reducible refine Kept.parts ?_)

theorem freeSession_kept {i : Nat} (H0 : Kept Q K s) :
    Kept Q K (freeSession i s) := by
  delta freeSession
  repeat' first
    | with_reducible assumption
    | intro _
    | (extract_lets +onlyGivenNames t; refine (have ht : Kept Q K t := ?_; ?_); subst t; rotate_left; clear_value t)
    | (extract_lets +onlyGivenNames t; clear_value t)
    | with_reducible apply kept_ite
    | with_reducible apply State.setSess_kept
    | with_reducible apply complete_kept
    | with_reducible apply raise_kept
    | with_reducible apply showEnc_kept
    | with_reducible apply showSession_kept
    | (simp only [kept_mk_iff]; with_reducible exact Kept.parts ‹_›)
    | split
    | (simp only [kept_mk_iff]; with_reducible refine Kept.parts ?_)

theorem closeSession_kept {i : Nat} {ref : Option CmdRef} (H0 : Kept Q K s) :
    Kept Q K (closeSession i ref s) := by
  delta closeSession
  repeat' first
    | with_reducible assumption
    | intro _
    | (extract_lets +onlyGivenNames t; refine (have ht : Kept Q K t := ?_; ?_); subst t; rotate_left; clear_value t)
    | (extract_lets +onlyGivenNames t; clear_value t)
    | with_reducible apply kept_ite
    | with_reducible apply State.setSess_kept
    | with_reducible apply endCaptures_kept
    | with_reducible apply freeSession_kept
    | with_reducible apply showSession_kept
    | (simp only [kept_mk_iff]; with_reducible exact Kept.parts ‹_›)
    | split
    | (simp only [kept_mk_iff]; with_reducible refine Kept.parts ?_)

theorem execEncClose_kept {c : Cmd} (H0 : Kept Q K s) :
    Answers (Kept Q K) (execEncClose c s) := by
  delta execEncClose
  repeat' first
    | with_reducible assumption
    | intro _
    | (extract_lets +onlyGivenNames t; refine (have ht : Kept Q K t := ?_; ?_); subst t; rotate_left; clear_value t)
    | (extract_lets +onlyGivenNames t; clear_value t)
    | with_reducible apply kept_ite
    | with_reducible apply answer_kept
    | with_reducible apply closeSession_kept
    | with_reducible apply runCmd_kept
    | with_reducible apply answers_next
    | with_reducible apply answers_ite
    | split

theorem startCapture_kept {i : Nat} (H0 : Kept Q K s) :
    Kept Q K (startCapture i s) := by
  delta startCapture
  repeat' first
    | with_reducible assumption
    | intro _
    | (extract_lets +onlyGivenNames t; refine (have ht : Kept Q K t := ?_; ?_); subst t; rotate_left; clear_value t)
    | (extract_lets +onlyGivenNames t; clear_value t)
    | with_reducible apply kept_ite
    | with_reducible apply State.setSess_kept
    | with_reducible apply addLease_kept
    | with_reducible apply countF_kept
    | with_reducible apply each_kept
    | with_reducible apply endCapture_kept
    | with_reducible apply ifS_kept
    | with_reducible apply sessCause_kept
    | with_reducible apply showSession_kept
    | (simp only [kept_mk_iff]; with_reducible exact Kept.parts ‹_›)
    | split
    | (simp only [kept_mk_iff]; with_reducible refine Kept.parts ?_)

theorem execEncCapture_kept {sess : Fin 16} (H0 : Kept Q K s) :
    Answers (Kept Q K) (execEncCapture sess s) := by
  delta execEncCapture
  repeat' first
    | with_reducible assumption
    | intro _
    | with_reducible apply kept_ite
    | with_reducible apply startCapture_kept
    | with_reducible apply answers_next
    | with_reducible apply answers_ite
    | split

theorem execEncCaptureDone_kept {sess : Fin 16} (H0 : Kept Q K s) :
    Answers (Kept Q K) (execEncCaptureDone sess s) := by
  delta execEncCaptureDone
  repeat' first
    | with_reducible assumption
    | intro _
    | (extract_lets +onlyGivenNames t; refine (have ht : Kept Q K t := ?_; ?_); subst t; rotate_left; clear_value t)
    | (extract_lets +onlyGivenNames t; clear_value t)
    | with_reducible apply kept_ite
    | with_reducible apply State.setSess_kept
    | with_reducible apply endCapture_kept
    | with_reducible apply showSession_kept
    | with_reducible apply answers_next
    | with_reducible apply answers_ite
    | (simp only [kept_mk_iff]; with_reducible exact Kept.parts ‹_›)
    | split
    | (simp only [kept_mk_iff]; with_reducible refine Kept.parts ?_)

theorem execEncPictureStart_kept {core : Fin 4} (H0 : Kept Q K s) :
    Answers (Kept Q K) (execEncPictureStart core s) := by
  delta execEncPictureStart
  repeat' first
    | with_reducible assumption
    | intro _
    | (extract_lets +onlyGivenNames t; refine (have ht : Kept Q K t := ?_; ?_); subst t; rotate_left; clear_value t)
    | (extract_lets +onlyGivenNames t; clear_value t)
    | with_reducible apply kept_ite
    | with_reducible apply State.setSess_kept
    | with_reducible apply setB_kept
    | with_reducible apply setF_kept
    | with_reducible apply showSession_kept
    | with_reducible apply answers_next
    | with_reducible apply answers_ite
    | (simp only [kept_mk_iff]; with_reducible exact Kept.parts ‹_›)
    | split
    | (simp only [kept_mk_iff]; with_reducible refine Kept.parts ?_)

theorem ringWrite_kept {r : EncRec} {off : Nat} {bs : List Byte} (H0 : Kept Q K s) :
    Kept Q K (ringWrite r off bs s) := by
  delta ringWrite
  repeat' first
    | with_reducible assumption
    | intro _
    | with_reducible apply kept_ite
    | with_reducible apply memWrite_kept

theorem writeRecord_kept {i typ flags : Nat} {pt : Int} {bs : List Byte} (H0 : Kept Q K s) :
    Kept Q K (writeRecord i typ flags pt bs s).1 := by
  unfold writeRecord
  exact kept_ite_fst H0 (addF_kept (setF_kept (ringWrite_kept (ifS_kept H0 (fun t h => ringWrite_kept h)))))

theorem pictureDone_kept {core i : Nat} {e : Encoding} {cut : Option Nat} {au : List Byte} {res : EncodeResult} (H0 : Kept Q K s) :
    Kept Q K (pictureDone core i e cut au res s) := by
  delta pictureDone
  repeat' first
    | with_reducible assumption
    | intro _
    | (extract_lets +onlyGivenNames t; refine (have ht : Kept Q K t := ?_; ?_); subst t; rotate_left; clear_value t)
    | (extract_lets +onlyGivenNames t; refine (have ht : Kept Q K t.2 := ?_; ?_); subst t; rotate_left; clear_value t)
    | (extract_lets +onlyGivenNames t; refine (have ht : Kept Q K t.1 := ?_; ?_); subst t; rotate_left; clear_value t)
    | (extract_lets +onlyGivenNames t; refine (have ht : Kept Q K t.1.1 := ?_; ?_); subst t; rotate_left; clear_value t)
    | (extract_lets +onlyGivenNames t; clear_value t)
    | with_reducible apply kept_ite
    | with_reducible apply State.setSess_kept
    | with_reducible apply addF_kept
    | with_reducible apply countF_kept
    | with_reducible apply fresh_kept
    | with_reducible apply ifS_kept
    | with_reducible apply sessCause_kept
    | with_reducible apply setB_kept
    | with_reducible apply setF_kept
    | with_reducible apply writeRecord_kept
    | (simp only [kept_mk_iff]; with_reducible exact Kept.parts ‹_›)
    | split
    | (simp only [kept_mk_iff]; with_reducible refine Kept.parts ?_)

theorem execEncPictureDone_kept {core : Fin 4} {res : EncodeResult} (H0 : Kept Q K s) :
    Answers (Kept Q K) (execEncPictureDone core res s) := by
  delta execEncPictureDone
  repeat' first
    | with_reducible assumption
    | intro _
    | (extract_lets +onlyGivenNames t; refine (have ht : Kept Q K t := ?_; ?_); subst t; rotate_left; clear_value t)
    | (extract_lets +onlyGivenNames t; clear_value t)
    | with_reducible apply kept_ite
    | with_reducible apply freeSession_kept
    | with_reducible apply pictureDone_kept
    | with_reducible apply answers_next
    | with_reducible apply answers_ite
    | (simp only [kept_mk_iff]; with_reducible exact Kept.parts ‹_›)
    | split
    | (simp only [kept_mk_iff]; with_reducible refine Kept.parts ?_)

theorem encFault_kept {core : Nat} (H0 : Kept Q K s) :
    Kept Q K (encFault core s) := by
  delta encFault
  repeat' first
    | with_reducible assumption
    | intro _
    | (extract_lets +onlyGivenNames t; refine (have ht : Kept Q K t := ?_; ?_); subst t; rotate_left; clear_value t)
    | (extract_lets +onlyGivenNames t; clear_value t)
    | with_reducible apply kept_ite
    | with_reducible apply State.setSess_kept
    | with_reducible apply freeSession_kept
    | with_reducible apply setB_kept
    | (simp only [kept_mk_iff]; with_reducible exact Kept.parts ‹_›)
    | split
    | (simp only [kept_mk_iff]; with_reducible refine Kept.parts ?_)

theorem sessWrite_kept {who : Who} {i addr : Nat} {f : State → State} (H0 : Kept Q K s) (hf : ∀ (x0 : State), Kept Q K x0 → Kept Q K (f x0)) :
    Kept Q K (sessWrite who i addr f s) := by
  delta sessWrite
  repeat' first
    | with_reducible assumption
    | intro _
    | with_reducible apply kept_ite
    | with_reducible apply guardWrite_kept
    | with_reducible apply hf

theorem writeForceIdr_kept {i : Nat} (H0 : Kept Q K s) :
    Kept Q K (writeForceIdr i s) := by
  delta writeForceIdr
  repeat' first
    | with_reducible assumption
    | intro _
    | (extract_lets +onlyGivenNames t; refine (have ht : Kept Q K t := ?_; ?_); subst t; rotate_left; clear_value t)
    | (extract_lets +onlyGivenNames t; clear_value t)
    | with_reducible apply kept_ite
    | with_reducible apply State.setSess_kept
    | (simp only [kept_mk_iff]; with_reducible exact Kept.parts ‹_›)
    | (simp only [kept_mk_iff]; with_reducible refine Kept.parts ?_)

theorem writeRoiApply_kept {i : Nat} (H0 : Kept Q K s) :
    Kept Q K (writeRoiApply i s) := by
  delta writeRoiApply
  repeat' first
    | with_reducible assumption
    | intro _
    | (extract_lets +onlyGivenNames t; refine (have ht : Kept Q K t := ?_; ?_); subst t; rotate_left; clear_value t)
    | (extract_lets +onlyGivenNames t; clear_value t)
    | with_reducible apply kept_ite
    | with_reducible apply State.setSess_kept
    | (simp only [kept_mk_iff]; with_reducible exact Kept.parts ‹_›)
    | (simp only [kept_mk_iff]; with_reducible refine Kept.parts ?_)

theorem writeSRd_kept {i v : Nat} (H0 : Kept Q K s) :
    Kept Q K (writeSRd i v s) := by
  delta writeSRd
  repeat' first
    | with_reducible assumption
    | intro _
    | (extract_lets +onlyGivenNames t; refine (have ht : Kept Q K t := ?_; ?_); subst t; rotate_left; clear_value t)
    | (extract_lets +onlyGivenNames t; clear_value t)
    | with_reducible apply kept_ite
    | with_reducible apply setF_kept
    | with_reducible apply wr_kept
    | split

theorem execForceIdr_kept {who : Who} {sess : Fin 16} (H0 : Kept Q K s) :
    Answers (Kept Q K) (execForceIdr who sess s) := by
  delta execForceIdr
  repeat' first
    | with_reducible assumption
    | intro _
    | with_reducible apply kept_ite
    | with_reducible apply sessWrite_kept
    | with_reducible apply writeForceIdr_kept
    | with_reducible apply answers_next
    | with_reducible apply answers_ite

theorem execRoiApply_kept {who : Who} {sess : Fin 16} (H0 : Kept Q K s) :
    Answers (Kept Q K) (execRoiApply who sess s) := by
  delta execRoiApply
  repeat' first
    | with_reducible assumption
    | intro _
    | with_reducible apply kept_ite
    | with_reducible apply sessWrite_kept
    | with_reducible apply writeRoiApply_kept
    | with_reducible apply answers_next
    | with_reducible apply answers_ite

theorem execEncSRdWrite_kept {who : Who} {sess : Fin 16} {v : Word} (H0 : Kept Q K s) :
    Answers (Kept Q K) (execEncSRdWrite who sess v s) := by
  delta execEncSRdWrite
  repeat' first
    | with_reducible assumption
    | intro _
    | with_reducible apply kept_ite
    | with_reducible apply sessWrite_kept
    | with_reducible apply writeSRd_kept
    | with_reducible apply answers_next
    | with_reducible apply answers_ite

end Sys2Proof.Machine
end

