-- ==== Sys2Proof/Laws/Kept/Egress.lean ====
section
/-!
SUPPORT. Every operation of Machine/Egress.lean keeps the queue and the canonical form.
-/

namespace Sys2Proof.Machine

set_option linter.unusedTactic false
set_option linter.unreachableTactic false
set_option linter.unusedSimpArgs false

variable {Q : List Instr} {K : Prop} {s : State}

theorem showEgr_kept (H0 : Kept Q K s) :
    Kept Q K (showEgr s) := by
  delta showEgr
  repeat' first
    | with_reducible assumption
    | intro _
    | with_reducible apply kept_ite
    | with_reducible apply setF_kept

theorem subOpenOne_kept {c : Cmd} (H0 : Kept Q K s) :
    Kept Q K (subOpenOne c s) := by
  delta subOpenOne
  repeat' first
    | with_reducible assumption
    | intro _
    | (extract_lets +onlyGivenNames t; refine (have ht : Kept Q K t := ?_; ?_); subst t; rotate_left; clear_value t)
    | (extract_lets +onlyGivenNames t; clear_value t)
    | with_reducible apply kept_ite
    | with_reducible apply State.setQueue_kept
    | with_reducible apply State.setSub_kept
    | with_reducible apply answer_kept
    | with_reducible apply countF_kept
    | with_reducible apply each_kept
    | with_reducible apply finish_kept
    | with_reducible apply raise_kept
    | with_reducible apply showEgr_kept
    | (simp only [kept_mk_iff]; with_reducible exact Kept.parts ‹_›)
    | split
    | (simp only [kept_mk_iff]; with_reducible refine Kept.parts ?_)

theorem execEgrSubOpen_kept {cs : List Cmd} (H0 : Kept Q K s) :
    Answers (Kept Q K) (execEgrSubOpen cs s) := by
  delta execEgrSubOpen
  repeat' first
    | with_reducible assumption
    | intro _
    | with_reducible apply kept_ite
    | with_reducible apply runTies_kept
    | with_reducible apply serveTable_kept
    | with_reducible apply subOpenOne_kept
    | with_reducible apply answers_next
    | with_reducible apply answers_ite

theorem abortSend_kept {f : EgrFrame} (H0 : Kept Q K s) :
    Kept Q K (abortSend f s) := by
  delta abortSend
  repeat' first
    | with_reducible assumption
    | intro _
    | with_reducible apply kept_ite
    | with_reducible apply complete_kept
    | (simp only [kept_mk_iff]; with_reducible exact Kept.parts ‹_›)
    | split
    | (simp only [kept_mk_iff]; with_reducible refine Kept.parts ?_)

theorem freeSub_kept {i : Nat} (H0 : Kept Q K s) :
    Kept Q K (freeSub i s) := by
  delta freeSub
  repeat' first
    | with_reducible assumption
    | intro _
    | (extract_lets +onlyGivenNames t; refine (have ht : Kept Q K t := ?_; ?_); subst t; rotate_left; clear_value t)
    | (extract_lets +onlyGivenNames t; clear_value t)
    | with_reducible apply kept_ite
    | with_reducible apply State.setQueue_kept
    | with_reducible apply State.setSub_kept
    | with_reducible apply complete_kept
    | with_reducible apply each_kept
    | with_reducible apply showEgr_kept
    | (simp only [kept_mk_iff]; with_reducible exact Kept.parts ‹_›)
    | split
    | (simp only [kept_mk_iff]; with_reducible refine Kept.parts ?_)

theorem closeSub_kept {i : Nat} {ref : Option CmdRef} (H0 : Kept Q K s) :
    Kept Q K (closeSub i ref s) := by
  delta closeSub
  repeat' first
    | with_reducible assumption
    | intro _
    | (extract_lets +onlyGivenNames t; refine (have ht : Kept Q K t := ?_; ?_); subst t; rotate_left; clear_value t)
    | (extract_lets +onlyGivenNames t; clear_value t)
    | with_reducible apply kept_ite
    | with_reducible apply State.setQueue_kept
    | with_reducible apply State.setSub_kept
    | with_reducible apply abortSend_kept
    | with_reducible apply each_kept
    | with_reducible apply freeSub_kept
    | (simp only [kept_mk_iff]; with_reducible exact Kept.parts ‹_›)
    | split
    | (simp only [kept_mk_iff]; with_reducible refine Kept.parts ?_)

theorem execEgrSubClose_kept {c : Cmd} (H0 : Kept Q K s) :
    Answers (Kept Q K) (execEgrSubClose c s) := by
  delta execEgrSubClose
  repeat' first
    | with_reducible assumption
    | intro _
    | (extract_lets +onlyGivenNames t; refine (have ht : Kept Q K t := ?_; ?_); subst t; rotate_left; clear_value t)
    | (extract_lets +onlyGivenNames t; clear_value t)
    | with_reducible apply kept_ite
    | with_reducible apply answer_kept
    | with_reducible apply closeSub_kept
    | with_reducible apply runCmd_kept
    | with_reducible apply answers_next
    | with_reducible apply answers_ite
    | split

theorem enqueueFrame_kept {q : Nat} {f : EgrFrame} (H0 : Kept Q K s) :
    Kept Q K (enqueueFrame q f s) := by
  delta enqueueFrame
  repeat' first
    | with_reducible assumption
    | intro _
    | (extract_lets +onlyGivenNames t; refine (have ht : Kept Q K t := ?_; ?_); subst t; rotate_left; clear_value t)
    | (extract_lets +onlyGivenNames t; clear_value t)
    | with_reducible apply kept_ite
    | with_reducible apply State.setQueue_kept
    | (simp only [kept_mk_iff]; with_reducible exact Kept.parts ‹_›)
    | (simp only [kept_mk_iff]; with_reducible refine Kept.parts ?_)

theorem countDrop_kept {q : Nat} (H0 : Kept Q K s) :
    Kept Q K (countDrop q s) := by
  delta countDrop
  repeat' first
    | with_reducible assumption
    | intro _
    | (extract_lets +onlyGivenNames t; refine (have ht : Kept Q K t := ?_; ?_); subst t; rotate_left; clear_value t)
    | (extract_lets +onlyGivenNames t; clear_value t)
    | with_reducible apply kept_ite
    | with_reducible apply State.setQueue_kept
    | with_reducible apply ifS_kept
    | with_reducible apply raise_kept
    | (simp only [kept_mk_iff]; with_reducible exact Kept.parts ‹_›)
    | (simp only [kept_mk_iff]; with_reducible refine Kept.parts ?_)

theorem execEgrSend_kept {c : Cmd} (H0 : Kept Q K s) :
    Answers (Kept Q K) (execEgrSend c s) := by
  delta execEgrSend
  repeat' first
    | with_reducible assumption
    | intro _
    | (extract_lets +onlyGivenNames t; refine (have ht : Kept Q K t := ?_; ?_); subst t; rotate_left; clear_value t)
    | (extract_lets +onlyGivenNames t; clear_value t)
    | with_reducible apply kept_ite
    | with_reducible apply countDrop_kept
    | with_reducible apply enqueueFrame_kept
    | with_reducible apply ifS_kept
    | with_reducible apply raise_kept
    | with_reducible apply refuse_kept
    | with_reducible apply runCmd_kept
    | with_reducible apply setF_kept
    | with_reducible apply withLen_kept
    | with_reducible apply answers_next
    | with_reducible apply answers_ite
    | split

theorem popFrame_kept {q : Nat} (H0 : Kept Q K s) :
    Kept Q K (popFrame q s) := by
  delta popFrame
  repeat' first
    | with_reducible assumption
    | intro _
    | (extract_lets +onlyGivenNames t; refine (have ht : Kept Q K t := ?_; ?_); subst t; rotate_left; clear_value t)
    | (extract_lets +onlyGivenNames t; clear_value t)
    | with_reducible apply kept_ite
    | with_reducible apply State.setQueue_kept
    | (simp only [kept_mk_iff]; with_reducible exact Kept.parts ‹_›)
    | split
    | (simp only [kept_mk_iff]; with_reducible refine Kept.parts ?_)

theorem dropTooBig_kept {p q : Nat} (H0 : Kept Q K s) :
    Kept Q K (dropTooBig p q s) := by
  delta dropTooBig
  repeat' first
    | with_reducible assumption
    | intro _
    | (extract_lets +onlyGivenNames t; refine (have ht : Kept Q K t := ?_; ?_); subst t; rotate_left; clear_value t)
    | (extract_lets +onlyGivenNames t; clear_value t)
    | with_reducible apply kept_ite
    | with_reducible apply abortSend_kept
    | with_reducible apply countF_kept
    | with_reducible apply popFrame_kept
    | with_reducible apply raise_kept
    | (simp only [kept_mk_iff]; with_reducible exact Kept.parts ‹_›)
    | split
    | (simp only [kept_mk_iff]; with_reducible refine Kept.parts ?_)

theorem dropAllTooBig_kept {p mask : Nat} (H0 : Kept Q K s) :
    Kept Q K (dropAllTooBig p mask s) := by
  delta dropAllTooBig
  repeat' first
    | with_reducible assumption
    | intro _
    | with_reducible apply kept_ite
    | with_reducible apply dropTooBig_kept
    | with_reducible apply each_kept
    | with_reducible apply ifS_kept

theorem settlePort_kept {p : Nat} (H0 : Kept Q K s) :
    Kept Q K (settlePort p s) := by
  delta settlePort
  repeat' first
    | with_reducible assumption
    | intro _
    | with_reducible apply kept_ite
    | with_reducible apply State.setEport_kept
    | with_reducible apply kept_foldl

theorem applyTicks_kept (H0 : Kept Q K s) :
    Kept Q K (applyTicks s) := by
  delta applyTicks
  repeat' first
    | with_reducible assumption
    | intro _
    | (extract_lets +onlyGivenNames t; refine (have ht : Kept Q K t := ?_; ?_); subst t; rotate_left; clear_value t)
    | (extract_lets +onlyGivenNames t; clear_value t)
    | with_reducible apply kept_ite
    | with_reducible apply State.setQueue_kept
    | with_reducible apply State.setSub_kept
    | with_reducible apply each_kept
    | (simp only [kept_mk_iff]; with_reducible exact Kept.parts ‹_›)
    | split
    | (simp only [kept_mk_iff]; with_reducible refine Kept.parts ?_)

theorem startFrame_kept {p q : Nat} {f : EgrFrame} (H0 : Kept Q K s) :
    Kept Q K (startFrame p q f s) := by
  delta startFrame
  repeat' first
    | with_reducible assumption
    | intro _
    | (extract_lets +onlyGivenNames t; refine (have ht : Kept Q K t := ?_; ?_); subst t; rotate_left; clear_value t)
    | (extract_lets +onlyGivenNames t; clear_value t)
    | with_reducible apply kept_ite
    | with_reducible apply State.setEport_kept
    | with_reducible apply State.setQueue_kept
    | with_reducible apply State.setSub_kept
    | with_reducible apply ifS_kept
    | with_reducible apply popFrame_kept
    | with_reducible apply ptpSent_kept
    | with_reducible apply pushTxq_kept
    | (simp only [kept_mk_iff]; with_reducible exact Kept.parts ‹_›)
    | split
    | (simp only [kept_mk_iff]; with_reducible refine Kept.parts ?_)

theorem execEgrFrameTxStart_kept {port : Fin 5} (H0 : Kept Q K s) :
    Answers (Kept Q K) (execEgrFrameTxStart port s) := by
  delta execEgrFrameTxStart
  repeat' first
    | with_reducible assumption
    | intro _
    | (extract_lets +onlyGivenNames t; refine (have ht : Kept Q K t := ?_; ?_); subst t; rotate_left; clear_value t)
    | (extract_lets +onlyGivenNames t; clear_value t)
    | with_reducible apply kept_ite
    | with_reducible apply State.setEport_kept
    | with_reducible apply applyTicks_kept
    | with_reducible apply startFrame_kept
    | with_reducible apply answers_next
    | with_reducible apply answers_ite
    | (simp only [kept_mk_iff]; with_reducible exact Kept.parts ‹_›)
    | split
    | (simp only [kept_mk_iff]; with_reducible refine Kept.parts ?_)

theorem frameLeft_kept {p : Nat} {x : EgrTx} (H0 : Kept Q K s) :
    Kept Q K (frameLeft p x s) := by
  delta frameLeft
  repeat' first
    | with_reducible assumption
    | intro _
    | (extract_lets +onlyGivenNames t; refine (have ht : Kept Q K t := ?_; ?_); subst t; rotate_left; clear_value t)
    | (extract_lets +onlyGivenNames t; clear_value t)
    | with_reducible apply kept_ite
    | with_reducible apply State.setEport_kept
    | with_reducible apply State.setQueue_kept
    | with_reducible apply addF_kept
    | with_reducible apply emit_kept
    | with_reducible apply settlePort_kept
    | (simp only [kept_mk_iff]; with_reducible exact Kept.parts ‹_›)
    | (simp only [kept_mk_iff]; with_reducible refine Kept.parts ?_)

theorem sendDone_kept {ref : Option CmdRef} (H0 : Kept Q K s) :
    Kept Q K (sendDone ref s) := by
  delta sendDone
  repeat' first
    | with_reducible assumption
    | intro _
    | with_reducible apply kept_ite
    | with_reducible apply complete_kept
    | (simp only [kept_mk_iff]; with_reducible exact Kept.parts ‹_›)
    | split
    | (simp only [kept_mk_iff]; with_reducible refine Kept.parts ?_)

theorem execEgrFrameTxEnd_kept {port : Fin 5} (H0 : Kept Q K s) :
    Answers (Kept Q K) (execEgrFrameTxEnd port s) := by
  delta execEgrFrameTxEnd
  repeat' first
    | with_reducible assumption
    | intro _
    | (extract_lets +onlyGivenNames t; refine (have ht : Kept Q K t := ?_; ?_); subst t; rotate_left; clear_value t)
    | (extract_lets +onlyGivenNames t; clear_value t)
    | with_reducible apply kept_ite
    | with_reducible apply frameLeft_kept
    | with_reducible apply freeSub_kept
    | with_reducible apply sendDone_kept
    | with_reducible apply answers_next
    | with_reducible apply answers_ite
    | (simp only [kept_mk_iff]; with_reducible exact Kept.parts ‹_›)
    | split
    | (simp only [kept_mk_iff]; with_reducible refine Kept.parts ?_)

theorem execTokenTick_kept (H0 : Kept Q K s) :
    Answers (Kept Q K) (execTokenTick s) := by
  delta execTokenTick
  repeat' first
    | with_reducible assumption
    | intro _
    | with_reducible apply kept_ite
    | with_reducible apply applyTicks_kept
    | with_reducible apply answers_next
    | with_reducible apply answers_ite

theorem windowWrite_kept {who : Who} {queue : Bool} {addr : Nat} {f : State → State} (H0 : Kept Q K s) (hf : ∀ (x0 : State), Kept Q K x0 → Kept Q K (f x0)) :
    Kept Q K (windowWrite who queue addr f s) := by
  delta windowWrite
  repeat' first
    | with_reducible assumption
    | intro _
    | with_reducible apply kept_ite
    | with_reducible apply countF_kept
    | with_reducible apply guardWrite_kept
    | with_reducible apply rejectWrite_kept
    | with_reducible apply hf
    | split

theorem writeRateBurst_kept {queue burst : Bool} {v : Nat} (H0 : Kept Q K s) :
    Kept Q K (writeRateBurst queue burst v s) := by
  delta writeRateBurst
  repeat' first
    | with_reducible assumption
    | intro _
    | (extract_lets +onlyGivenNames t; refine (have ht : Kept Q K t := ?_; ?_); subst t; rotate_left; clear_value t)
    | (extract_lets +onlyGivenNames t; clear_value t)
    | with_reducible apply kept_ite
    | with_reducible apply State.setQueue_kept
    | with_reducible apply State.setSub_kept
    | with_reducible apply applyTicks_kept
    | (simp only [kept_mk_iff]; with_reducible exact Kept.parts ‹_›)
    | split
    | (simp only [kept_mk_iff]; with_reducible refine Kept.parts ?_)

theorem execEgrBucketWrite_kept {who : Who} {queue burst : Bool} {v : Word} (H0 : Kept Q K s) :
    Answers (Kept Q K) (execEgrBucketWrite who queue burst v s) := by
  delta execEgrBucketWrite
  repeat' first
    | with_reducible assumption
    | intro _
    | with_reducible apply kept_ite
    | with_reducible apply windowWrite_kept
    | with_reducible apply writeRateBurst_kept
    | with_reducible apply answers_next
    | with_reducible apply answers_ite
    | split

theorem writeSubCfg_kept {v : Nat} (H0 : Kept Q K s) :
    Kept Q K (writeSubCfg v s) := by
  delta writeSubCfg
  repeat' first
    | with_reducible assumption
    | intro _
    | (extract_lets +onlyGivenNames t; refine (have ht : Kept Q K t := ?_; ?_); subst t; rotate_left; clear_value t)
    | (extract_lets +onlyGivenNames t; clear_value t)
    | with_reducible apply kept_ite
    | with_reducible apply State.setSub_kept
    | (simp only [kept_mk_iff]; with_reducible exact Kept.parts ‹_›)
    | (simp only [kept_mk_iff]; with_reducible refine Kept.parts ?_)

theorem writeQueueCfg_kept {v : Nat} (H0 : Kept Q K s) :
    Kept Q K (writeQueueCfg v s) := by
  delta writeQueueCfg
  repeat' first
    | with_reducible assumption
    | intro _
    | (extract_lets +onlyGivenNames t; refine (have ht : Kept Q K t := ?_; ?_); subst t; rotate_left; clear_value t)
    | (extract_lets +onlyGivenNames t; clear_value t)
    | with_reducible apply kept_ite
    | with_reducible apply State.setQueue_kept
    | (simp only [kept_mk_iff]; with_reducible exact Kept.parts ‹_›)
    | split
    | (simp only [kept_mk_iff]; with_reducible refine Kept.parts ?_)

theorem writeQueueLimit_kept {v : Nat} (H0 : Kept Q K s) :
    Kept Q K (writeQueueLimit v s) := by
  delta writeQueueLimit
  repeat' first
    | with_reducible assumption
    | intro _
    | (extract_lets +onlyGivenNames t; refine (have ht : Kept Q K t := ?_; ?_); subst t; rotate_left; clear_value t)
    | (extract_lets +onlyGivenNames t; clear_value t)
    | with_reducible apply kept_ite
    | with_reducible apply State.setQueue_kept
    | (simp only [kept_mk_iff]; with_reducible exact Kept.parts ‹_›)
    | (simp only [kept_mk_iff]; with_reducible refine Kept.parts ?_)

theorem writeQueueDrop_kept {v : Nat} (H0 : Kept Q K s) :
    Kept Q K (writeQueueDrop v s) := by
  delta writeQueueDrop
  repeat' first
    | with_reducible assumption
    | intro _
    | (extract_lets +onlyGivenNames t; refine (have ht : Kept Q K t := ?_; ?_); subst t; rotate_left; clear_value t)
    | (extract_lets +onlyGivenNames t; clear_value t)
    | with_reducible apply kept_ite
    | with_reducible apply State.setQueue_kept
    | (simp only [kept_mk_iff]; with_reducible exact Kept.parts ‹_›)
    | split
    | (simp only [kept_mk_iff]; with_reducible refine Kept.parts ?_)

theorem clearQueue_kept (H0 : Kept Q K s) :
    Kept Q K (clearQueue s) := by
  delta clearQueue
  repeat' first
    | with_reducible assumption
    | intro _
    | (extract_lets +onlyGivenNames t; refine (have ht : Kept Q K t := ?_; ?_); subst t; rotate_left; clear_value t)
    | (extract_lets +onlyGivenNames t; clear_value t)
    | with_reducible apply kept_ite
    | with_reducible apply State.setQueue_kept
    | (simp only [kept_mk_iff]; with_reducible exact Kept.parts ‹_›)
    | (simp only [kept_mk_iff]; with_reducible refine Kept.parts ?_)

theorem execEgrQClear_kept {who : Who} (H0 : Kept Q K s) :
    Answers (Kept Q K) (execEgrQClear who s) := by
  delta execEgrQClear
  repeat' first
    | with_reducible assumption
    | intro _
    | with_reducible apply kept_ite
    | with_reducible apply clearQueue_kept
    | with_reducible apply windowWrite_kept
    | with_reducible apply answers_next
    | with_reducible apply answers_ite

theorem writeEgrSel_kept {queue : Bool} {v : Nat} (H0 : Kept Q K s) :
    Kept Q K (writeEgrSel queue v s) := by
  delta writeEgrSel
  repeat' first
    | with_reducible assumption
    | intro _
    | with_reducible apply kept_ite
    | with_reducible apply setF_kept
    | split

theorem execEgrSselWrite_kept {who : Who} {queue : Bool} {v : Word} (H0 : Kept Q K s) :
    Answers (Kept Q K) (execEgrSselWrite who queue v s) := by
  delta execEgrSselWrite
  repeat' first
    | with_reducible assumption
    | intro _
    | with_reducible apply kept_ite
    | with_reducible apply guardWrite_kept
    | with_reducible apply writeEgrSel_kept
    | with_reducible apply answers_next
    | with_reducible apply answers_ite
    | split

theorem execGclLoad_kept {c : Cmd} (H0 : Kept Q K s) :
    Answers (Kept Q K) (execGclLoad c s) := by
  delta execGclLoad
  repeat' first
    | with_reducible assumption
    | intro _
    | (extract_lets +onlyGivenNames t; refine (have ht : Kept Q K t := ?_; ?_); subst t; rotate_left; clear_value t)
    | (extract_lets +onlyGivenNames t; clear_value t)
    | with_reducible apply kept_ite
    | with_reducible apply State.setEport_kept
    | with_reducible apply answer_kept
    | with_reducible apply countF_kept
    | with_reducible apply raise_kept
    | with_reducible apply runCmd_kept
    | with_reducible apply setF_kept
    | with_reducible apply withSrc_kept
    | with_reducible apply answers_next
    | with_reducible apply answers_ite
    | (simp only [kept_mk_iff]; with_reducible exact Kept.parts ‹_›)
    | split
    | (simp only [kept_mk_iff]; with_reducible refine Kept.parts ?_)

theorem configChange_kept {p : Nat} (H0 : Kept Q K s) :
    Kept Q K (configChange p s) := by
  delta configChange
  repeat' first
    | with_reducible assumption
    | intro _
    | (extract_lets +onlyGivenNames t; refine (have ht : Kept Q K t := ?_; ?_); subst t; rotate_left; clear_value t)
    | (extract_lets +onlyGivenNames t; clear_value t)
    | with_reducible apply kept_ite
    | with_reducible apply raise_kept
    | with_reducible apply setB_kept
    | with_reducible apply setF_kept
    | split

theorem execConfigChange_kept {who : Who} {port : Fin 5} (H0 : Kept Q K s) :
    Answers (Kept Q K) (execConfigChange who port s) := by
  delta execConfigChange
  repeat' first
    | with_reducible assumption
    | intro _
    | with_reducible apply kept_ite
    | with_reducible apply configChange_kept
    | with_reducible apply guardWrite_kept
    | with_reducible apply answers_next
    | with_reducible apply answers_ite

theorem showGates_kept {p : Nat} (H0 : Kept Q K s) :
    Kept Q K (showGates p s) := by
  delta showGates
  repeat' first
    | with_reducible assumption
    | intro _
    | (extract_lets +onlyGivenNames t; refine (have ht : Kept Q K t := ?_; ?_); subst t; rotate_left; clear_value t)
    | (extract_lets +onlyGivenNames t; clear_value t)
    | with_reducible apply kept_ite
    | with_reducible apply dropAllTooBig_kept
    | with_reducible apply setF_kept
    | split

theorem changeGates_kept {p : Nat} (H0 : Kept Q K s) :
    Kept Q K (changeGates p s) := by
  delta changeGates
  repeat' first
    | with_reducible assumption
    | intro _
    | (extract_lets +onlyGivenNames t; refine (have ht : Kept Q K t := ?_; ?_); subst t; rotate_left; clear_value t)
    | (extract_lets +onlyGivenNames t; clear_value t)
    | with_reducible apply kept_ite
    | with_reducible apply State.setEport_kept
    | with_reducible apply raise_kept
    | with_reducible apply setB_kept
    | with_reducible apply setF_kept
    | with_reducible apply showGates_kept
    | (simp only [kept_mk_iff]; with_reducible exact Kept.parts ‹_›)
    | (simp only [kept_mk_iff]; with_reducible refine Kept.parts ?_)

theorem cancelChange_kept {p : Nat} (H0 : Kept Q K s) :
    Kept Q K (cancelChange p s) := by
  delta cancelChange
  repeat' first
    | with_reducible assumption
    | intro _
    | with_reducible apply kept_ite
    | with_reducible apply changeGates_kept
    | with_reducible apply ifS_kept
    | with_reducible apply setB_kept

theorem execGclCancel_kept {who : Who} {port : Fin 5} (H0 : Kept Q K s) :
    Answers (Kept Q K) (execGclCancel who port s) := by
  delta execGclCancel
  repeat' first
    | with_reducible assumption
    | intro _
    | with_reducible apply kept_ite
    | with_reducible apply cancelChange_kept
    | with_reducible apply guardWrite_kept
    | with_reducible apply answers_next
    | with_reducible apply answers_ite

theorem execGclChangeTime_kept {port : Fin 5} (H0 : Kept Q K s) :
    Answers (Kept Q K) (execGclChangeTime port s) := by
  delta execGclChangeTime
  repeat' first
    | with_reducible assumption
    | intro _
    | with_reducible apply kept_ite
    | with_reducible apply changeGates_kept
    | with_reducible apply ifS_kept
    | with_reducible apply answers_next
    | with_reducible apply answers_ite

theorem execGateEntryEnd_kept {port : Fin 5} (H0 : Kept Q K s) :
    Answers (Kept Q K) (execGateEntryEnd port s) := by
  delta execGateEntryEnd
  repeat' first
    | with_reducible assumption
    | intro _
    | (extract_lets +onlyGivenNames t; refine (have ht : Kept Q K t := ?_; ?_); subst t; rotate_left; clear_value t)
    | (extract_lets +onlyGivenNames t; clear_value t)
    | with_reducible apply kept_ite
    | with_reducible apply State.setEport_kept
    | with_reducible apply showGates_kept
    | with_reducible apply answers_next
    | with_reducible apply answers_ite
    | (simp only [kept_mk_iff]; with_reducible exact Kept.parts ‹_›)
    | split
    | (simp only [kept_mk_iff]; with_reducible refine Kept.parts ?_)

theorem pauseClass_kept {p c t : Nat} (H0 : Kept Q K s) :
    Kept Q K (pauseClass p c t s) := by
  delta pauseClass
  repeat' first
    | with_reducible assumption
    | intro _
    | (extract_lets +onlyGivenNames t; refine (have ht : Kept Q K t := ?_; ?_); subst t; rotate_left; clear_value t)
    | (extract_lets +onlyGivenNames t; clear_value t)
    | with_reducible apply kept_ite
    | with_reducible apply State.setEport_kept
    | with_reducible apply clearF_kept
    | with_reducible apply orF_kept
    | (simp only [kept_mk_iff]; with_reducible exact Kept.parts ‹_›)
    | split
    | (simp only [kept_mk_iff]; with_reducible refine Kept.parts ?_)

theorem pfcFrame_kept {p : Nat} {f : List Byte} (H0 : Kept Q K s) :
    Kept Q K (pfcFrame p f s) := by
  delta pfcFrame
  repeat' first
    | with_reducible assumption
    | intro _
    | (extract_lets +onlyGivenNames t; refine (have ht : Kept Q K t := ?_; ?_); subst t; rotate_left; clear_value t)
    | (extract_lets +onlyGivenNames t; clear_value t)
    | with_reducible apply kept_ite
    | with_reducible apply countF_kept
    | with_reducible apply each_kept
    | with_reducible apply ifS_kept
    | with_reducible apply pauseClass_kept
    | split

theorem execPfcPauseExpire_kept {port : Fin 5} {cls : Fin 8} (H0 : Kept Q K s) :
    Answers (Kept Q K) (execPfcPauseExpire port cls s) := by
  delta execPfcPauseExpire
  repeat' first
    | with_reducible assumption
    | intro _
    | (extract_lets +onlyGivenNames t; refine (have ht : Kept Q K t := ?_; ?_); subst t; rotate_left; clear_value t)
    | (extract_lets +onlyGivenNames t; clear_value t)
    | with_reducible apply kept_ite
    | with_reducible apply pauseClass_kept
    | with_reducible apply answers_next
    | with_reducible apply answers_ite
    | split

theorem execEgrSampleTick_kept (H0 : Kept Q K s) :
    Answers (Kept Q K) (execEgrSampleTick s) := by
  delta execEgrSampleTick
  repeat' first
    | with_reducible assumption
    | intro _
    | (extract_lets +onlyGivenNames t; refine (have ht : Kept Q K t := ?_; ?_); subst t; rotate_left; clear_value t)
    | (extract_lets +onlyGivenNames t; clear_value t)
    | with_reducible apply kept_ite
    | with_reducible apply State.setQueue_kept
    | with_reducible apply each_kept
    | with_reducible apply answers_next
    | with_reducible apply answers_ite
    | (simp only [kept_mk_iff]; with_reducible exact Kept.parts ‹_›)
    | split
    | (simp only [kept_mk_iff]; with_reducible refine Kept.parts ?_)

theorem writeSample_kept {v : Nat} (H0 : Kept Q K s) :
    Kept Q K (writeSample v s) := by
  delta writeSample
  repeat' first
    | with_reducible assumption
    | intro _
    | (extract_lets +onlyGivenNames t; refine (have ht : Kept Q K t := ?_; ?_); subst t; rotate_left; clear_value t)
    | (extract_lets +onlyGivenNames t; clear_value t)
    | with_reducible apply kept_ite
    | with_reducible apply setF_kept
    | (simp only [kept_mk_iff]; with_reducible exact Kept.parts ‹_›)
    | (simp only [kept_mk_iff]; with_reducible refine Kept.parts ?_)

theorem egrReset_kept (H0 : Kept Q K s) :
    Kept Q K (egrReset s) := by
  delta egrReset
  repeat' first
    | with_reducible assumption
    | intro _
    | with_reducible apply hg
    | (extract_lets +onlyGivenNames t; refine (have ht : Kept Q K t := ?_; ?_); subst t; rotate_left; clear_value t)
    | (extract_lets +onlyGivenNames t; refine (have hg : ∀ x, Kept Q K x → Kept Q K (t x) := ?_; ?_); subst t; rotate_left; clear_value t)
    | (extract_lets +onlyGivenNames t; refine (have hg : ∀ a x, Kept Q K x → Kept Q K (t a x) := ?_; ?_); subst t; rotate_left; clear_value t)
    | (extract_lets +onlyGivenNames t; refine (have hg : ∀ a b x, Kept Q K x → Kept Q K (t a b x) := ?_; ?_); subst t; rotate_left; clear_value t)
    | (extract_lets +onlyGivenNames t; clear_value t)
    | with_reducible apply kept_ite
    | (simp only [kept_mk_iff]; with_reducible exact Kept.parts ‹_›)
    | (simp only [kept_mk_iff]; with_reducible refine Kept.parts ?_)

end Sys2Proof.Machine
end

