-- ==== Sys2Proof/Laws/Kept/Camera.lean ====
section
/-!
SUPPORT. Every operation of Machine/Camera.lean keeps the queue and the canonical form.
-/

namespace Sys2Proof.Machine

set_option linter.unusedTactic false
set_option linter.unreachableTactic false
set_option linter.unusedSimpArgs false

variable {Q : List Instr} {K : Prop} {s : State}

theorem refreshCam_kept (H0 : Kept Q K s) :
    Kept Q K (refreshCam s) := by
  delta refreshCam
  repeat' first
    | with_reducible assumption
    | intro _
    | (extract_lets +onlyGivenNames t; refine (have ht : Kept Q K t := ?_; ?_); subst t; rotate_left; clear_value t)
    | (extract_lets +onlyGivenNames t; clear_value t)
    | with_reducible apply kept_ite
    | with_reducible apply each_kept
    | with_reducible apply summary_kept

theorem portCause_kept {p b : Nat} (H0 : Kept Q K s) :
    Kept Q K (portCause p b s) := by
  delta portCause
  repeat' first
    | with_reducible assumption
    | intro _
    | with_reducible apply kept_ite
    | with_reducible apply orF_kept
    | with_reducible apply refreshCam_kept

theorem sensorCause_kept {k b : Nat} (H0 : Kept Q K s) :
    Kept Q K (sensorCause k b s) := by
  delta sensorCause
  repeat' first
    | with_reducible assumption
    | intro _
    | with_reducible apply kept_ite
    | with_reducible apply orF_kept
    | with_reducible apply refreshCam_kept

theorem showSensor_kept {k : Nat} (H0 : Kept Q K s) :
    Kept Q K (showSensor k s) := by
  delta showSensor
  repeat' first
    | with_reducible assumption
    | intro _
    | with_reducible apply kept_ite
    | with_reducible apply setF_kept

theorem setTrig_kept {p : Nat} {until_ : Option Nat} (H0 : Kept Q K s) :
    Kept Q K (setTrig p until_ s) := by
  delta setTrig
  repeat' first
    | with_reducible assumption
    | intro _
    | (extract_lets +onlyGivenNames t; refine (have ht : Kept Q K t := ?_; ?_); subst t; rotate_left; clear_value t)
    | (extract_lets +onlyGivenNames t; clear_value t)
    | with_reducible apply kept_ite
    | with_reducible apply emit_kept
    | (simp only [kept_mk_iff]; with_reducible exact Kept.parts ‹_›)
    | (simp only [kept_mk_iff]; with_reducible refine Kept.parts ?_)

theorem camTrigger_kept {p : Nat} (H0 : Kept Q K s) :
    Kept Q K (camTrigger p s) := by
  delta camTrigger
  repeat' first
    | with_reducible assumption
    | intro _
    | with_reducible apply kept_ite
    | with_reducible apply portCause_kept
    | with_reducible apply setTrig_kept
    | split

theorem execCamTrigPulseEnd_kept {port : Fin 2} (H0 : Kept Q K s) :
    Answers (Kept Q K) (execCamTrigPulseEnd port s) := by
  delta execCamTrigPulseEnd
  repeat' first
    | with_reducible assumption
    | intro _
    | with_reducible apply kept_ite
    | with_reducible apply ifS_kept
    | with_reducible apply setTrig_kept
    | with_reducible apply answers_next
    | with_reducible apply answers_ite
    | (simp only [kept_mk_iff]; with_reducible exact Kept.parts ‹_›)
    | split
    | (simp only [kept_mk_iff]; with_reducible refine Kept.parts ?_)

theorem missSlot_kept {k : Nat} (H0 : Kept Q K s) :
    Kept Q K (missSlot k s) := by
  delta missSlot
  repeat' first
    | with_reducible assumption
    | intro _
    | with_reducible apply kept_ite
    | with_reducible apply countF_kept
    | with_reducible apply sensorCause_kept

theorem closeSlot_kept {k : Nat} (H0 : Kept Q K s) :
    Kept Q K (closeSlot k s) := by
  delta closeSlot
  repeat' first
    | with_reducible assumption
    | intro _
    | with_reducible apply hg
    | (extract_lets +onlyGivenNames t; refine (have ht : Kept Q K t := ?_; ?_); subst t; rotate_left; clear_value t)
    | (extract_lets +onlyGivenNames t; refine (have hg : ∀ x, Kept Q K x → Kept Q K (t x) := ?_; ?_); subst t; rotate_left; clear_value t)
    | (extract_lets +onlyGivenNames t; refine (have hg : ∀ a x, Kept Q K x → Kept Q K (t a x) := ?_; ?_); subst t; rotate_left; clear_value t)
    | (extract_lets +onlyGivenNames t; refine (have hg : ∀ a b x, Kept Q K x → Kept Q K (t a b x) := ?_; ?_); subst t; rotate_left; clear_value t)
    | (extract_lets +onlyGivenNames t; clear_value t)
    | with_reducible apply kept_ite
    | with_reducible apply State.setSensor_kept
    | with_reducible apply ifS_kept
    | with_reducible apply missSlot_kept
    | (simp only [kept_mk_iff]; with_reducible exact Kept.parts ‹_›)
    | split
    | (simp only [kept_mk_iff]; with_reducible refine Kept.parts ?_)

theorem busNext_kept {p : Nat} (H0 : Kept Q K s) :
    Kept Q K (busNext p s) := by
  delta busNext
  repeat' first
    | with_reducible assumption
    | intro _
    | (extract_lets +onlyGivenNames t; refine (have ht : Kept Q K t := ?_; ?_); subst t; rotate_left; clear_value t)
    | (extract_lets +onlyGivenNames t; clear_value t)
    | with_reducible apply kept_ite
    | with_reducible apply State.setI3cq_kept
    | with_reducible apply State.setSensor_kept
    | (simp only [kept_mk_iff]; with_reducible exact Kept.parts ‹_›)
    | split
    | (simp only [kept_mk_iff]; with_reducible refine Kept.parts ?_)

theorem endFrame_kept {k : Nat} {f : CamFrame} (H0 : Kept Q K s) :
    Kept Q K (endFrame k f s) := by
  delta endFrame
  repeat' first
    | with_reducible assumption
    | intro _
    | (extract_lets +onlyGivenNames t; refine (have ht : Kept Q K t := ?_; ?_); subst t; rotate_left; clear_value t)
    | (extract_lets +onlyGivenNames t; clear_value t)
    | with_reducible apply kept_ite
    | with_reducible apply State.setSensor_kept
    | with_reducible apply busNext_kept
    | with_reducible apply each_kept
    | with_reducible apply ifS_kept
    | with_reducible apply memWrite_kept
    | with_reducible apply sensorCause_kept
    | (simp only [kept_mk_iff]; with_reducible exact Kept.parts ‹_›)
    | split
    | (simp only [kept_mk_iff]; with_reducible refine Kept.parts ?_)

theorem startCamFrame_kept {k num : Nat} (H0 : Kept Q K s) :
    Kept Q K (startCamFrame k num s) := by
  delta startCamFrame
  repeat' first
    | with_reducible assumption
    | intro _
    | (extract_lets +onlyGivenNames t; refine (have ht : Kept Q K t := ?_; ?_); subst t; rotate_left; clear_value t)
    | (extract_lets +onlyGivenNames t; clear_value t)
    | with_reducible apply kept_ite
    | with_reducible apply State.setSensor_kept
    | with_reducible apply closeSlot_kept
    | with_reducible apply endFrame_kept
    | with_reducible apply ifS_kept
    | with_reducible apply sensorCause_kept
    | with_reducible apply setF_kept
    | with_reducible apply showSensor_kept
    | (simp only [kept_mk_iff]; with_reducible exact Kept.parts ‹_›)
    | split
    | (simp only [kept_mk_iff]; with_reducible refine Kept.parts ?_)

theorem execCsiFrameStart_kept {port : Fin 2} {vc num : Nat} (H0 : Kept Q K s) :
    Answers (Kept Q K) (execCsiFrameStart port vc num s) := by
  delta execCsiFrameStart
  repeat' first
    | with_reducible assumption
    | intro _
    | with_reducible apply kept_ite
    | with_reducible apply countF_kept
    | with_reducible apply startCamFrame_kept
    | with_reducible apply answers_next
    | with_reducible apply answers_ite
    | (simp only [kept_mk_iff]; with_reducible exact Kept.parts ‹_›)
    | split
    | (simp only [kept_mk_iff]; with_reducible refine Kept.parts ?_)

theorem takeLine_kept {k : Nat} {l : CsiLineIn} {f : CamFrame} (H0 : Kept Q K s) :
    Kept Q K (takeLine k l f s) := by
  delta takeLine
  repeat' first
    | with_reducible assumption
    | intro _
    | with_reducible apply hg
    | (extract_lets +onlyGivenNames t; refine (have ht : Kept Q K t := ?_; ?_); subst t; rotate_left; clear_value t)
    | (extract_lets +onlyGivenNames t; refine (have hg : ∀ x, Kept Q K x → Kept Q K (t x) := ?_; ?_); subst t; rotate_left; clear_value t)
    | (extract_lets +onlyGivenNames t; refine (have hg : ∀ a x, Kept Q K x → Kept Q K (t a x) := ?_; ?_); subst t; rotate_left; clear_value t)
    | (extract_lets +onlyGivenNames t; refine (have hg : ∀ a b x, Kept Q K x → Kept Q K (t a b x) := ?_; ?_); subst t; rotate_left; clear_value t)
    | (extract_lets +onlyGivenNames t; clear_value t)
    | with_reducible apply kept_ite
    | with_reducible apply State.setSensor_kept
    | with_reducible apply sensorCause_kept
    | (simp only [kept_mk_iff]; with_reducible exact Kept.parts ‹_›)
    | split
    | (simp only [kept_mk_iff]; with_reducible refine Kept.parts ?_)

theorem execCsiLine_kept {port : Fin 2} {line : CsiLineIn} (H0 : Kept Q K s) :
    Answers (Kept Q K) (execCsiLine port line s) := by
  delta execCsiLine
  repeat' first
    | with_reducible assumption
    | intro _
    | (extract_lets +onlyGivenNames t; refine (have ht : Kept Q K t := ?_; ?_); subst t; rotate_left; clear_value t)
    | (extract_lets +onlyGivenNames t; clear_value t)
    | with_reducible apply kept_ite
    | with_reducible apply countF_kept
    | with_reducible apply ifS_kept
    | with_reducible apply portCause_kept
    | with_reducible apply takeLine_kept
    | with_reducible apply answers_next
    | with_reducible apply answers_ite
    | (simp only [kept_mk_iff]; with_reducible exact Kept.parts ‹_›)
    | split
    | (simp only [kept_mk_iff]; with_reducible refine Kept.parts ?_)

theorem execCsiFrameEnd_kept {port : Fin 2} {vc : Nat} (H0 : Kept Q K s) :
    Answers (Kept Q K) (execCsiFrameEnd port vc s) := by
  delta execCsiFrameEnd
  repeat' first
    | with_reducible assumption
    | intro _
    | (extract_lets +onlyGivenNames t; refine (have ht : Kept Q K t := ?_; ?_); subst t; rotate_left; clear_value t)
    | (extract_lets +onlyGivenNames t; clear_value t)
    | with_reducible apply kept_ite
    | with_reducible apply countF_kept
    | with_reducible apply endFrame_kept
    | with_reducible apply answers_next
    | with_reducible apply answers_ite
    | (simp only [kept_mk_iff]; with_reducible exact Kept.parts ‹_›)
    | split
    | (simp only [kept_mk_iff]; with_reducible refine Kept.parts ?_)

theorem writeOutput_kept {o a : Nat} {img : List (List (Nat × Nat × Nat))} (H0 : Kept Q K s) :
    Kept Q K (writeOutput o a img s) := by
  delta writeOutput
  repeat' first
    | with_reducible assumption
    | intro _
    | with_reducible apply hg
    | (extract_lets +onlyGivenNames t; refine (have ht : Kept Q K t := ?_; ?_); subst t; rotate_left; clear_value t)
    | (extract_lets +onlyGivenNames t; refine (have hg : ∀ x, Kept Q K x → Kept Q K (t x) := ?_; ?_); subst t; rotate_left; clear_value t)
    | (extract_lets +onlyGivenNames t; refine (have hg : ∀ a x, Kept Q K x → Kept Q K (t a x) := ?_; ?_); subst t; rotate_left; clear_value t)
    | (extract_lets +onlyGivenNames t; refine (have hg : ∀ a b x, Kept Q K x → Kept Q K (t a b x) := ?_; ?_); subst t; rotate_left; clear_value t)
    | (extract_lets +onlyGivenNames t; clear_value t)
    | with_reducible apply kept_ite
    | with_reducible apply each_kept
    | with_reducible apply memWrite_kept
    | with_reducible apply writeLines_kept
    | split

theorem execCamOutputComplete_kept {o : Fin 8} (H0 : Kept Q K s) :
    Answers (Kept Q K) (execCamOutputComplete o s) := by
  delta execCamOutputComplete
  repeat' first
    | with_reducible assumption
    | intro _
    | (extract_lets +onlyGivenNames t; refine (have ht : Kept Q K t := ?_; ?_); subst t; rotate_left; clear_value t)
    | (extract_lets +onlyGivenNames t; clear_value t)
    | with_reducible apply kept_ite
    | with_reducible apply orF_kept
    | with_reducible apply refreshCam_kept
    | with_reducible apply setF_kept
    | with_reducible apply takePicture_kept
    | with_reducible apply writeOutput_kept
    | with_reducible apply wrongFormat_kept
    | with_reducible apply answers_next
    | with_reducible apply answers_ite
    | (simp only [kept_mk_iff]; with_reducible exact Kept.parts ‹_›)
    | split
    | (simp only [kept_mk_iff]; with_reducible refine Kept.parts ?_)

theorem camOwned_kept {op : Nat} {c : Cmd} {f : State → State} (H0 : Kept Q K s) (hf : ∀ (x0 : State), Kept Q K x0 → Kept Q K (f x0)) :
    Kept Q K (camOwned op c f s) := by
  delta camOwned
  repeat' first
    | with_reducible assumption
    | intro _
    | with_reducible apply kept_ite
    | with_reducible apply answer_kept
    | with_reducible apply hf
    | split

theorem execCamI3c_kept {c : Cmd} (H0 : Kept Q K s) :
    Answers (Kept Q K) (execCamI3c c s) := by
  delta execCamI3c
  repeat' first
    | with_reducible assumption
    | intro _
    | (extract_lets +onlyGivenNames t; refine (have ht : Kept Q K t := ?_; ?_); subst t; rotate_left; clear_value t)
    | (extract_lets +onlyGivenNames t; clear_value t)
    | with_reducible apply kept_ite
    | with_reducible apply State.setI3cq_kept
    | with_reducible apply abortOperand_kept
    | with_reducible apply answer_kept
    | with_reducible apply busNext_kept
    | with_reducible apply camOwned_kept
    | with_reducible apply runCmd_kept
    | with_reducible apply answers_next
    | with_reducible apply answers_ite
    | split

theorem execI3cTransferDone_kept {port : Fin 2} {ack : Bool} {data : List Byte} (H0 : Kept Q K s) :
    Answers (Kept Q K) (execI3cTransferDone port ack data s) := by
  delta execI3cTransferDone
  repeat' first
    | with_reducible assumption
    | intro _
    | (extract_lets +onlyGivenNames t; refine (have ht : Kept Q K t := ?_; ?_); subst t; rotate_left; clear_value t)
    | (extract_lets +onlyGivenNames t; clear_value t)
    | with_reducible apply kept_ite
    | with_reducible apply State.setI3cq_kept
    | with_reducible apply abortOperand_kept
    | with_reducible apply answer_kept
    | with_reducible apply busNext_kept
    | with_reducible apply emit_kept
    | with_reducible apply finish_kept
    | with_reducible apply memWrite_kept
    | with_reducible apply portCause_kept
    | with_reducible apply answers_next
    | with_reducible apply answers_ite
    | (simp only [kept_mk_iff]; with_reducible exact Kept.parts ‹_›)
    | split
    | (simp only [kept_mk_iff]; with_reducible refine Kept.parts ?_)

theorem execI3cIbi_kept {port : Fin 2} {addr : Nat} {payload : List Byte} (H0 : Kept Q K s) :
    Answers (Kept Q K) (execI3cIbi port addr payload s) := by
  delta execI3cIbi
  repeat' first
    | with_reducible assumption
    | intro _
    | (extract_lets +onlyGivenNames t; refine (have ht : Kept Q K t := ?_; ?_); subst t; rotate_left; clear_value t)
    | (extract_lets +onlyGivenNames t; clear_value t)
    | with_reducible apply kept_ite
    | with_reducible apply portCause_kept
    | with_reducible apply setF_kept
    | with_reducible apply answers_next
    | with_reducible apply answers_ite
    | split

theorem execCamExpset_kept {c : Cmd} (H0 : Kept Q K s) :
    Answers (Kept Q K) (execCamExpset c s) := by
  delta execCamExpset
  repeat' first
    | with_reducible assumption
    | intro _
    | (extract_lets +onlyGivenNames t; refine (have ht : Kept Q K t := ?_; ?_); subst t; rotate_left; clear_value t)
    | (extract_lets +onlyGivenNames t; clear_value t)
    | with_reducible apply kept_ite
    | with_reducible apply State.setSensor_kept
    | with_reducible apply answer_kept
    | with_reducible apply busNext_kept
    | with_reducible apply camOwned_kept
    | with_reducible apply complete_kept
    | with_reducible apply countF_kept
    | with_reducible apply each_kept
    | with_reducible apply ifS_kept
    | with_reducible apply missSlot_kept
    | with_reducible apply raise_kept
    | with_reducible apply runCmd_kept
    | with_reducible apply showSensor_kept
    | with_reducible apply withSrc_kept
    | with_reducible apply answers_next
    | with_reducible apply answers_ite
    | (simp only [kept_mk_iff]; with_reducible exact Kept.parts ‹_›)
    | split
    | (simp only [kept_mk_iff]; with_reducible refine Kept.parts ?_)

theorem sendSet_kept {p k : Nat} {e : ExpSet} {ack : Bool} (H0 : Kept Q K s) :
    Kept Q K (sendSet p k e ack s) := by
  delta sendSet
  repeat' first
    | with_reducible assumption
    | intro _
    | (extract_lets +onlyGivenNames t; refine (have ht : Kept Q K t := ?_; ?_); subst t; rotate_left; clear_value t)
    | (extract_lets +onlyGivenNames t; refine (have ht : Kept Q K t.2 := ?_; ?_); subst t; rotate_left; clear_value t)
    | (extract_lets +onlyGivenNames t; refine (have ht : Kept Q K t.1 := ?_; ?_); subst t; rotate_left; clear_value t)
    | (extract_lets +onlyGivenNames t; refine (have ht : Kept Q K t.1.1 := ?_; ?_); subst t; rotate_left; clear_value t)
    | (extract_lets +onlyGivenNames t; clear_value t)
    | with_reducible apply kept_ite
    | with_reducible apply each_kept
    | with_reducible apply emit_kept
    | with_reducible apply fresh_kept
    | split

theorem execExpsetWritten_kept {k : Fin 8} {ack : Bool} (H0 : Kept Q K s) :
    Answers (Kept Q K) (execExpsetWritten k ack s) := by
  delta execExpsetWritten
  repeat' first
    | with_reducible assumption
    | intro _
    | (extract_lets +onlyGivenNames t; refine (have ht : Kept Q K t := ?_; ?_); subst t; rotate_left; clear_value t)
    | (extract_lets +onlyGivenNames t; clear_value t)
    | with_reducible apply kept_ite
    | with_reducible apply State.setSensor_kept
    | with_reducible apply busNext_kept
    | with_reducible apply complete_kept
    | with_reducible apply sendSet_kept
    | with_reducible apply sensorCause_kept
    | with_reducible apply showSensor_kept
    | with_reducible apply answers_next
    | with_reducible apply answers_ite
    | (simp only [kept_mk_iff]; with_reducible exact Kept.parts ‹_›)
    | split
    | (simp only [kept_mk_iff]; with_reducible refine Kept.parts ?_)

theorem execExpsetSlotClose_kept {k : Fin 8} (H0 : Kept Q K s) :
    Answers (Kept Q K) (execExpsetSlotClose k s) := by
  delta execExpsetSlotClose
  repeat' first
    | with_reducible assumption
    | intro _
    | (extract_lets +onlyGivenNames t; refine (have ht : Kept Q K t := ?_; ?_); subst t; rotate_left; clear_value t)
    | (extract_lets +onlyGivenNames t; clear_value t)
    | with_reducible apply kept_ite
    | with_reducible apply closeSlot_kept
    | with_reducible apply answers_next
    | with_reducible apply answers_ite
    | (simp only [kept_mk_iff]; with_reducible exact Kept.parts ‹_›)
    | split
    | (simp only [kept_mk_iff]; with_reducible refine Kept.parts ?_)

theorem execCamDefectLoad_kept {c : Cmd} (H0 : Kept Q K s) :
    Answers (Kept Q K) (execCamDefectLoad c s) := by
  delta execCamDefectLoad
  repeat' first
    | with_reducible assumption
    | intro _
    | (extract_lets +onlyGivenNames t; refine (have ht : Kept Q K t := ?_; ?_); subst t; rotate_left; clear_value t)
    | (extract_lets +onlyGivenNames t; clear_value t)
    | with_reducible apply kept_ite
    | with_reducible apply State.setSensor_kept
    | with_reducible apply answer_kept
    | with_reducible apply camOwned_kept
    | with_reducible apply runCmd_kept
    | with_reducible apply withSrc_kept
    | with_reducible apply answers_next
    | with_reducible apply answers_ite
    | (simp only [kept_mk_iff]; with_reducible exact Kept.parts ‹_›)
    | split
    | (simp only [kept_mk_iff]; with_reducible refine Kept.parts ?_)

theorem execCamToneLoad_kept {c : Cmd} (H0 : Kept Q K s) :
    Answers (Kept Q K) (execCamToneLoad c s) := by
  delta execCamToneLoad
  repeat' first
    | with_reducible assumption
    | intro _
    | (extract_lets +onlyGivenNames t; refine (have ht : Kept Q K t := ?_; ?_); subst t; rotate_left; clear_value t)
    | (extract_lets +onlyGivenNames t; clear_value t)
    | with_reducible apply kept_ite
    | with_reducible apply State.setSensor_kept
    | with_reducible apply answer_kept
    | with_reducible apply camOwned_kept
    | with_reducible apply runCmd_kept
    | with_reducible apply withLen_kept
    | with_reducible apply answers_next
    | with_reducible apply answers_ite
    | (simp only [kept_mk_iff]; with_reducible exact Kept.parts ‹_›)
    | split
    | (simp only [kept_mk_iff]; with_reducible refine Kept.parts ?_)

theorem execCamWinLoad_kept {c : Cmd} (H0 : Kept Q K s) :
    Answers (Kept Q K) (execCamWinLoad c s) := by
  delta execCamWinLoad
  repeat' first
    | with_reducible assumption
    | intro _
    | (extract_lets +onlyGivenNames t; refine (have ht : Kept Q K t := ?_; ?_); subst t; rotate_left; clear_value t)
    | (extract_lets +onlyGivenNames t; clear_value t)
    | with_reducible apply kept_ite
    | with_reducible apply State.setSensor_kept
    | with_reducible apply answer_kept
    | with_reducible apply camOwned_kept
    | with_reducible apply runCmd_kept
    | with_reducible apply withSrc_kept
    | with_reducible apply answers_next
    | with_reducible apply answers_ite
    | (simp only [kept_mk_iff]; with_reducible exact Kept.parts ‹_›)
    | split
    | (simp only [kept_mk_iff]; with_reducible refine Kept.parts ?_)

theorem abortSets_kept {k : Nat} (H0 : Kept Q K s) :
    Kept Q K (abortSets k s) := by
  delta abortSets
  repeat' first
    | with_reducible assumption
    | intro _
    | (extract_lets +onlyGivenNames t; refine (have ht : Kept Q K t := ?_; ?_); subst t; rotate_left; clear_value t)
    | (extract_lets +onlyGivenNames t; clear_value t)
    | with_reducible apply kept_ite
    | with_reducible apply State.setSensor_kept
    | with_reducible apply complete_kept
    | with_reducible apply each_kept
    | with_reducible apply showSensor_kept
    | (simp only [kept_mk_iff]; with_reducible exact Kept.parts ‹_›)
    | (simp only [kept_mk_iff]; with_reducible refine Kept.parts ?_)

theorem writeSensorCfg_kept {k v : Nat} (H0 : Kept Q K s) :
    Kept Q K (writeSensorCfg k v s) := by
  delta writeSensorCfg
  repeat' first
    | with_reducible assumption
    | intro _
    | (extract_lets +onlyGivenNames t; refine (have ht : Kept Q K t := ?_; ?_); subst t; rotate_left; clear_value t)
    | (extract_lets +onlyGivenNames t; clear_value t)
    | with_reducible apply kept_ite
    | with_reducible apply State.setSensor_kept
    | with_reducible apply abortSets_kept
    | with_reducible apply busNext_kept
    | with_reducible apply portCause_kept
    | with_reducible apply setF_kept
    | with_reducible apply wr_kept
    | with_reducible apply kept_foldl
    | (simp only [kept_mk_iff]; with_reducible exact Kept.parts ‹_›)
    | split
    | (simp only [kept_mk_iff]; with_reducible refine Kept.parts ?_)

theorem execCamSensorEnable_kept {who : Who} {k : Fin 8} {v : Word} (H0 : Kept Q K s) :
    Answers (Kept Q K) (execCamSensorEnable who k v s) := by
  delta execCamSensorEnable
  repeat' first
    | with_reducible assumption
    | intro _
    | with_reducible apply kept_ite
    | with_reducible apply guardWrite_kept
    | with_reducible apply writeSensorCfg_kept
    | with_reducible apply answers_next
    | with_reducible apply answers_ite

theorem writeOutputCfg_kept {o v : Nat} (H0 : Kept Q K s) :
    Kept Q K (writeOutputCfg o v s) := by
  delta writeOutputCfg
  repeat' first
    | with_reducible assumption
    | intro _
    | (extract_lets +onlyGivenNames t; refine (have ht : Kept Q K t := ?_; ?_); subst t; rotate_left; clear_value t)
    | (extract_lets +onlyGivenNames t; clear_value t)
    | with_reducible apply kept_ite
    | with_reducible apply portCause_kept
    | with_reducible apply setF_kept
    | (simp only [kept_mk_iff]; with_reducible exact Kept.parts ‹_›)
    | split
    | (simp only [kept_mk_iff]; with_reducible refine Kept.parts ?_)

theorem execCamOutputEnable_kept {who : Who} {o : Fin 8} {v : Word} (H0 : Kept Q K s) :
    Answers (Kept Q K) (execCamOutputEnable who o v s) := by
  delta execCamOutputEnable
  repeat' first
    | with_reducible assumption
    | intro _
    | with_reducible apply kept_ite
    | with_reducible apply guardWrite_kept
    | with_reducible apply writeOutputCfg_kept
    | with_reducible apply answers_next
    | with_reducible apply answers_ite

theorem camDown_kept {p : Nat} (H0 : Kept Q K s) :
    Kept Q K (camDown p s) := by
  delta camDown
  repeat' first
    | with_reducible assumption
    | intro _
    | (extract_lets +onlyGivenNames t; refine (have ht : Kept Q K t := ?_; ?_); subst t; rotate_left; clear_value t)
    | (extract_lets +onlyGivenNames t; clear_value t)
    | with_reducible apply kept_ite
    | with_reducible apply State.setSensor_kept
    | with_reducible apply abortSets_kept
    | with_reducible apply each_kept
    | (simp only [kept_mk_iff]; with_reducible exact Kept.parts ‹_›)
    | split
    | (simp only [kept_mk_iff]; with_reducible refine Kept.parts ?_)

theorem abortPort_kept {p : Nat} (H0 : Kept Q K s) :
    Kept Q K (abortPort p s) := by
  delta abortPort
  repeat' first
    | with_reducible assumption
    | intro _
    | (extract_lets +onlyGivenNames t; refine (have ht : Kept Q K t := ?_; ?_); subst t; rotate_left; clear_value t)
    | (extract_lets +onlyGivenNames t; clear_value t)
    | with_reducible apply kept_ite
    | with_reducible apply State.setI3cq_kept
    | with_reducible apply answer_kept
    | with_reducible apply each_kept
    | with_reducible apply ifS_kept
    | with_reducible apply setTrig_kept

theorem camReset_kept (H0 : Kept Q K s) :
    Kept Q K (camReset s) := by
  delta camReset
  repeat' first
    | with_reducible assumption
    | intro _
    | (extract_lets +onlyGivenNames t; refine (have ht : Kept Q K t := ?_; ?_); subst t; rotate_left; clear_value t)
    | (extract_lets +onlyGivenNames t; clear_value t)
    | with_reducible apply kept_ite
    | with_reducible apply abortPort_kept
    | with_reducible apply abortSets_kept
    | with_reducible apply each_kept
    | (simp only [kept_mk_iff]; with_reducible exact Kept.parts ‹_›)
    | (simp only [kept_mk_iff]; with_reducible refine Kept.parts ?_)

end Sys2Proof.Machine
end

