-- ==== Sys2Proof/Laws/Kept/Sluice.lean ====
section
/-!
SUPPORT. Every operation of Machine/Sluice.lean keeps the queue and the canonical form.
-/

namespace Sys2Proof.Machine

set_option linter.unusedTactic false
set_option linter.unreachableTactic false
set_option linter.unusedSimpArgs false

variable {Q : List Instr} {K : Prop} {s : State}

theorem countCompressed_kept {orig stored raws : Nat} (H0 : Kept Q K s) :
    Kept Q K (countCompressed orig stored raws s) := by
  delta countCompressed
  repeat' first
    | with_reducible assumption
    | intro _
    | (extract_lets +onlyGivenNames t; refine (have ht : Kept Q K t := ?_; ?_); subst t; rotate_left; clear_value t)
    | (extract_lets +onlyGivenNames t; clear_value t)
    | with_reducible apply kept_ite
    | with_reducible apply addF_kept
    | with_reducible apply setF_kept
    | (simp only [kept_mk_iff]; with_reducible exact Kept.parts ‹_›)
    | (simp only [kept_mk_iff]; with_reducible refine Kept.parts ?_)

theorem countDecoded_kept {orig : Nat} (H0 : Kept Q K s) :
    Kept Q K (countDecoded orig s) := by
  delta countDecoded
  repeat' first
    | with_reducible assumption
    | intro _
    | (extract_lets +onlyGivenNames t; refine (have ht : Kept Q K t := ?_; ?_); subst t; rotate_left; clear_value t)
    | (extract_lets +onlyGivenNames t; clear_value t)
    | with_reducible apply kept_ite
    | with_reducible apply setF_kept
    | (simp only [kept_mk_iff]; with_reducible exact Kept.parts ‹_›)
    | (simp only [kept_mk_iff]; with_reducible refine Kept.parts ?_)

theorem decodeFailed_kept {code index : Nat} {engine : Bool} {p : Nat} (H0 : Kept Q K s) :
    Kept Q K (decodeFailed code index engine p s) := by
  delta decodeFailed
  repeat' first
    | with_reducible assumption
    | intro _
    | with_reducible apply kept_ite
    | with_reducible apply countF_kept
    | with_reducible apply raise_kept
    | with_reducible apply setB_kept
    | with_reducible apply setF_kept

theorem showSlc_kept {p : Nat} (H0 : Kept Q K s) :
    Kept Q K (showSlc p s) := by
  delta showSlc
  repeat' first
    | with_reducible assumption
    | intro _
    | with_reducible apply hg
    | (extract_lets +onlyGivenNames t; refine (have ht : Kept Q K t := ?_; ?_); subst t; rotate_left; clear_value t)
    | (extract_lets +onlyGivenNames t; refine (have hg : ∀ x, Kept Q K x → Kept Q K (t x) := ?_; ?_); subst t; rotate_left; clear_value t)
    | (extract_lets +onlyGivenNames t; refine (have hg : ∀ a x, Kept Q K x → Kept Q K (t a x) := ?_; ?_); subst t; rotate_left; clear_value t)
    | (extract_lets +onlyGivenNames t; refine (have hg : ∀ a b x, Kept Q K x → Kept Q K (t a b x) := ?_; ?_); subst t; rotate_left; clear_value t)
    | (extract_lets +onlyGivenNames t; clear_value t)
    | with_reducible apply kept_ite
    | with_reducible apply setB_kept
    | with_reducible apply setF_kept

theorem slcEnd_kept {op : Nat} {c : Cmd} {status reason : Nat} (H0 : Kept Q K s) :
    Kept Q K (slcEnd op c status reason s) := by
  delta slcEnd
  repeat' first
    | with_reducible assumption
    | intro _
    | with_reducible apply kept_ite
    | with_reducible apply finish_kept

theorem slcRefuse_kept {op : Nat} {c : Cmd} {reason : Nat} (H0 : Kept Q K s) :
    Kept Q K (slcRefuse op c reason s) := by
  delta slcRefuse
  repeat' first
    | with_reducible assumption
    | intro _
    | with_reducible apply kept_ite
    | with_reducible apply raise_kept
    | with_reducible apply setF_kept
    | with_reducible apply slcEnd_kept

theorem slcAbort_kept {op : Nat} {c : Cmd} (H0 : Kept Q K s) :
    Kept Q K (slcAbort op c s) := by
  delta slcAbort
  repeat' first
    | with_reducible assumption
    | intro _
    | with_reducible apply kept_ite
    | with_reducible apply hostError_kept
    | with_reducible apply slcEnd_kept
    | (simp only [kept_mk_iff]; with_reducible exact Kept.parts ‹_›)
    | split
    | (simp only [kept_mk_iff]; with_reducible refine Kept.parts ?_)

theorem queueCompress_kept {op : Nat} {c : Cmd} {blk : Nat} {ended : List (List Byte)} {left : List Byte} (H0 : Kept Q K s) :
    Kept Q K (queueCompress op c blk ended left s) := by
  delta queueCompress
  repeat' first
    | with_reducible assumption
    | intro _
    | (extract_lets +onlyGivenNames t; refine (have ht : Kept Q K t := ?_; ?_); subst t; rotate_left; clear_value t)
    | (extract_lets +onlyGivenNames t; clear_value t)
    | with_reducible apply kept_ite
    | with_reducible apply showSlc_kept
    | (simp only [kept_mk_iff]; with_reducible exact Kept.parts ‹_›)
    | split
    | (simp only [kept_mk_iff]; with_reducible refine Kept.parts ?_)

theorem slcCompressOne_kept {c : Cmd} (H0 : Kept Q K s) :
    Kept Q K (slcCompressOne c s) := by
  delta slcCompressOne
  repeat' first
    | with_reducible assumption
    | intro _
    | (extract_lets +onlyGivenNames t; refine (have ht : Kept Q K t := ?_; ?_); subst t; rotate_left; clear_value t)
    | (extract_lets +onlyGivenNames t; clear_value t)
    | with_reducible apply kept_ite
    | with_reducible apply queueCompress_kept
    | with_reducible apply slcAbort_kept
    | with_reducible apply slcEnd_kept
    | with_reducible apply slcRefuse_kept
    | split

theorem slcFlushOne_kept {c : Cmd} (H0 : Kept Q K s) :
    Kept Q K (slcFlushOne c s) := by
  delta slcFlushOne
  repeat' first
    | with_reducible assumption
    | intro _
    | (extract_lets +onlyGivenNames t; refine (have ht : Kept Q K t := ?_; ?_); subst t; rotate_left; clear_value t)
    | (extract_lets +onlyGivenNames t; clear_value t)
    | with_reducible apply kept_ite
    | with_reducible apply queueCompress_kept
    | with_reducible apply slcEnd_kept
    | with_reducible apply slcRefuse_kept
    | split

theorem slcDecompressOne_kept {c : Cmd} (H0 : Kept Q K s) :
    Kept Q K (slcDecompressOne c s) := by
  delta slcDecompressOne
  repeat' first
    | with_reducible assumption
    | intro _
    | (extract_lets +onlyGivenNames t; refine (have ht : Kept Q K t := ?_; ?_); subst t; rotate_left; clear_value t)
    | (extract_lets +onlyGivenNames t; refine (have ht : Kept Q K t.2 := ?_; ?_); subst t; rotate_left; clear_value t)
    | (extract_lets +onlyGivenNames t; refine (have ht : Kept Q K t.1 := ?_; ?_); subst t; rotate_left; clear_value t)
    | (extract_lets +onlyGivenNames t; refine (have ht : Kept Q K t.1.1 := ?_; ?_); subst t; rotate_left; clear_value t)
    | (extract_lets +onlyGivenNames t; clear_value t)
    | with_reducible apply kept_ite
    | with_reducible apply abortOperand_kept
    | with_reducible apply answer_kept
    | with_reducible apply fresh_kept
    | with_reducible apply showSlc_kept
    | (simp only [kept_mk_iff]; with_reducible exact Kept.parts ‹_›)
    | split
    | (simp only [kept_mk_iff]; with_reducible refine Kept.parts ?_)

theorem writeJob_kept {j : SlcJob} {blocks : List (List Byte)} (H0 : Kept Q K s) :
    Kept Q K (writeJob j blocks s) := by
  delta writeJob
  repeat' first
    | with_reducible assumption
    | intro _
    | with_reducible apply kept_ite
    | with_reducible apply memWrite_kept

theorem execSlcCommandDone_kept {decode : Bool} (H0 : Kept Q K s) :
    Answers (Kept Q K) (execSlcCommandDone decode s) := by
  delta execSlcCommandDone
  repeat' first
    | with_reducible assumption
    | intro _
    | (extract_lets +onlyGivenNames t; refine (have ht : Kept Q K t := ?_; ?_); subst t; rotate_left; clear_value t)
    | (extract_lets +onlyGivenNames t; clear_value t)
    | with_reducible apply kept_ite
    | with_reducible apply abortOperand_kept
    | with_reducible apply countCompressed_kept
    | with_reducible apply countDecoded_kept
    | with_reducible apply decodeFailed_kept
    | with_reducible apply finish_kept
    | with_reducible apply ifS_kept
    | with_reducible apply setF_kept
    | with_reducible apply showSlc_kept
    | with_reducible apply slcAbort_kept
    | with_reducible apply writeJob_kept
    | with_reducible apply answers_next
    | with_reducible apply answers_ite
    | (simp only [kept_mk_iff]; with_reducible exact Kept.parts ‹_›)
    | split
    | (simp only [kept_mk_iff]; with_reducible refine Kept.parts ?_)

theorem abortWaiting_kept {p : Nat} (H0 : Kept Q K s) :
    Kept Q K (abortWaiting p s) := by
  delta abortWaiting
  repeat' first
    | with_reducible assumption
    | intro _
    | with_reducible apply kept_ite
    | with_reducible apply answer_kept
    | with_reducible apply each_kept

theorem slcDown_kept (H0 : Kept Q K s) :
    Kept Q K (slcDown s) := by
  delta slcDown
  repeat' first
    | with_reducible assumption
    | intro _
    | (extract_lets +onlyGivenNames t; refine (have ht : Kept Q K t := ?_; ?_); subst t; rotate_left; clear_value t)
    | (extract_lets +onlyGivenNames t; refine (have ht : Kept Q K t.2 := ?_; ?_); subst t; rotate_left; clear_value t)
    | (extract_lets +onlyGivenNames t; refine (have ht : Kept Q K t.1 := ?_; ?_); subst t; rotate_left; clear_value t)
    | (extract_lets +onlyGivenNames t; refine (have ht : Kept Q K t.1.1 := ?_; ?_); subst t; rotate_left; clear_value t)
    | (extract_lets +onlyGivenNames t; clear_value t)
    | with_reducible apply kept_ite
    | with_reducible apply abortWaiting_kept
    | with_reducible apply each_kept
    | with_reducible apply finish_kept
    | with_reducible apply fresh_kept
    | with_reducible apply showSlc_kept
    | with_reducible apply writeJob_kept
    | (simp only [kept_mk_iff]; with_reducible exact Kept.parts ‹_›)
    | split
    | (simp only [kept_mk_iff]; with_reducible refine Kept.parts ?_)

end Sys2Proof.Machine
end

