-- ==== Sys2Proof/Laws/Kept/Correction.lean ====
section
/-!
SUPPORT. Every operation of Machine/Correction.lean keeps the queue and the canonical form.
-/

namespace Sys2Proof.Machine

set_option linter.unusedTactic false
set_option linter.unreachableTactic false
set_option linter.unusedSimpArgs false

variable {Q : List Instr} {K : Prop} {s : State}

theorem setLaneBit_kept {f : Nat → Fld} {lane : Nat} {v : Bool} (H0 : Kept Q K s) :
    Kept Q K (setLaneBit f lane v s) := by
  delta setLaneBit
  repeat' first
    | with_reducible assumption
    | intro _
    | with_reducible apply kept_ite
    | with_reducible apply clearF_kept
    | with_reducible apply orF_kept
    | split

theorem corOwned_kept {op : Nat} {c : Cmd} {f : State → State} (H0 : Kept Q K s) (hf : ∀ (x0 : State), Kept Q K x0 → Kept Q K (f x0)) :
    Kept Q K (corOwned op c f s) := by
  delta corOwned
  repeat' first
    | with_reducible assumption
    | intro _
    | with_reducible apply kept_ite
    | with_reducible apply answer_kept
    | with_reducible apply hf
    | split

theorem takeRayMap_kept {lane : Nat} (H0 : Kept Q K s) :
    Kept Q K (takeRayMap lane s) := by
  delta takeRayMap
  repeat' first
    | with_reducible assumption
    | intro _
    | (extract_lets +onlyGivenNames t; refine (have ht : Kept Q K t := ?_; ?_); subst t; rotate_left; clear_value t)
    | (extract_lets +onlyGivenNames t; clear_value t)
    | with_reducible apply kept_ite
    | with_reducible apply State.setTileCor_kept
    | with_reducible apply raise_kept
    | with_reducible apply setLaneBit_kept
    | (simp only [kept_mk_iff]; with_reducible exact Kept.parts ‹_›)
    | split
    | (simp only [kept_mk_iff]; with_reducible refine Kept.parts ?_)

theorem takeGain_kept {lane : Nat} (H0 : Kept Q K s) :
    Kept Q K (takeGain lane s) := by
  delta takeGain
  repeat' first
    | with_reducible assumption
    | intro _
    | (extract_lets +onlyGivenNames t; refine (have ht : Kept Q K t := ?_; ?_); subst t; rotate_left; clear_value t)
    | (extract_lets +onlyGivenNames t; clear_value t)
    | with_reducible apply kept_ite
    | with_reducible apply State.setTileCor_kept
    | with_reducible apply raise_kept
    | with_reducible apply setLaneBit_kept
    | (simp only [kept_mk_iff]; with_reducible exact Kept.parts ‹_›)
    | split
    | (simp only [kept_mk_iff]; with_reducible refine Kept.parts ?_)

theorem latchBanks_kept {lane : Nat} (H0 : Kept Q K s) :
    Kept Q K (latchBanks lane s) := by
  delta latchBanks
  repeat' first
    | with_reducible assumption
    | intro _
    | (extract_lets +onlyGivenNames t; refine (have ht : Kept Q K t := ?_; ?_); subst t; rotate_left; clear_value t)
    | (extract_lets +onlyGivenNames t; clear_value t)
    | with_reducible apply kept_ite
    | with_reducible apply State.setTileCor_kept
    | with_reducible apply takeGain_kept
    | with_reducible apply takeRayMap_kept
    | (simp only [kept_mk_iff]; with_reducible exact Kept.parts ‹_›)
    | split
    | (simp only [kept_mk_iff]; with_reducible refine Kept.parts ?_)

theorem takeBanks_kept {g : Nat} (H0 : Kept Q K s) :
    Kept Q K (takeBanks g s) := by
  delta takeBanks
  repeat' first
    | with_reducible assumption
    | intro _
    | with_reducible apply hg
    | (extract_lets +onlyGivenNames t; refine (have ht : Kept Q K t := ?_; ?_); subst t; rotate_left; clear_value t)
    | (extract_lets +onlyGivenNames t; refine (have hg : ∀ x, Kept Q K x → Kept Q K (t x) := ?_; ?_); subst t; rotate_left; clear_value t)
    | (extract_lets +onlyGivenNames t; refine (have hg : ∀ a x, Kept Q K x → Kept Q K (t a x) := ?_; ?_); subst t; rotate_left; clear_value t)
    | (extract_lets +onlyGivenNames t; refine (have hg : ∀ a b x, Kept Q K x → Kept Q K (t a b x) := ?_; ?_); subst t; rotate_left; clear_value t)
    | (extract_lets +onlyGivenNames t; clear_value t)
    | with_reducible apply kept_ite
    | with_reducible apply each_kept
    | with_reducible apply ifS_kept
    | with_reducible apply latchBanks_kept

theorem takeIfIdle_kept {lane : Nat} (H0 : Kept Q K s) :
    Kept Q K (takeIfIdle lane s) := by
  delta takeIfIdle
  repeat' first
    | with_reducible assumption
    | intro _
    | with_reducible apply kept_ite
    | with_reducible apply ifS_kept
    | with_reducible apply takeGain_kept
    | with_reducible apply takeRayMap_kept

theorem execRaymapLoad_kept {c : Cmd} (H0 : Kept Q K s) :
    Answers (Kept Q K) (execRaymapLoad c s) := by
  delta execRaymapLoad
  repeat' first
    | with_reducible assumption
    | intro _
    | (extract_lets +onlyGivenNames t; refine (have ht : Kept Q K t := ?_; ?_); subst t; rotate_left; clear_value t)
    | (extract_lets +onlyGivenNames t; clear_value t)
    | with_reducible apply kept_ite
    | with_reducible apply State.setTileCor_kept
    | with_reducible apply answer_kept
    | with_reducible apply corOwned_kept
    | with_reducible apply runCmd_kept
    | with_reducible apply withSrc_kept
    | with_reducible apply answers_next
    | with_reducible apply answers_ite
    | (simp only [kept_mk_iff]; with_reducible exact Kept.parts ‹_›)
    | split
    | (simp only [kept_mk_iff]; with_reducible refine Kept.parts ?_)

theorem execRaymapCheckDone_kept {lane : Fin 1024} (H0 : Kept Q K s) :
    Answers (Kept Q K) (execRaymapCheckDone lane s) := by
  delta execRaymapCheckDone
  repeat' first
    | with_reducible assumption
    | intro _
    | (extract_lets +onlyGivenNames t; refine (have ht : Kept Q K t := ?_; ?_); subst t; rotate_left; clear_value t)
    | (extract_lets +onlyGivenNames t; clear_value t)
    | with_reducible apply kept_ite
    | with_reducible apply State.setTileCor_kept
    | with_reducible apply complete_kept
    | with_reducible apply countF_kept
    | with_reducible apply raise_kept
    | with_reducible apply setF_kept
    | with_reducible apply takeIfIdle_kept
    | with_reducible apply answers_next
    | with_reducible apply answers_ite
    | (simp only [kept_mk_iff]; with_reducible exact Kept.parts ‹_›)
    | split
    | (simp only [kept_mk_iff]; with_reducible refine Kept.parts ?_)

theorem corRemap_kept {old : PanelMap} (H0 : Kept Q K s) :
    Kept Q K (corRemap old s) := by
  delta corRemap
  repeat' first
    | with_reducible assumption
    | intro _
    | (extract_lets +onlyGivenNames t; refine (have ht : Kept Q K t := ?_; ?_); subst t; rotate_left; clear_value t)
    | (extract_lets +onlyGivenNames t; clear_value t)
    | with_reducible apply kept_ite
    | with_reducible apply State.setTileCor_kept
    | with_reducible apply each_kept
    | with_reducible apply ifS_kept
    | with_reducible apply raise_kept
    | with_reducible apply setLaneBit_kept
    | (simp only [kept_mk_iff]; with_reducible exact Kept.parts ‹_›)
    | split
    | (simp only [kept_mk_iff]; with_reducible refine Kept.parts ?_)

theorem stageGain_kept {lane : Nat} {g : List Word} (H0 : Kept Q K s) :
    Kept Q K (stageGain lane g s) := by
  delta stageGain
  repeat' first
    | with_reducible assumption
    | intro _
    | (extract_lets +onlyGivenNames t; refine (have ht : Kept Q K t := ?_; ?_); subst t; rotate_left; clear_value t)
    | (extract_lets +onlyGivenNames t; clear_value t)
    | with_reducible apply kept_ite
    | with_reducible apply State.setTileCor_kept
    | with_reducible apply takeIfIdle_kept
    | (simp only [kept_mk_iff]; with_reducible exact Kept.parts ‹_›)
    | (simp only [kept_mk_iff]; with_reducible refine Kept.parts ?_)

theorem execGainLoad_kept {c : Cmd} (H0 : Kept Q K s) :
    Answers (Kept Q K) (execGainLoad c s) := by
  delta execGainLoad
  repeat' first
    | with_reducible assumption
    | intro _
    | (extract_lets +onlyGivenNames t; refine (have ht : Kept Q K t := ?_; ?_); subst t; rotate_left; clear_value t)
    | (extract_lets +onlyGivenNames t; clear_value t)
    | with_reducible apply kept_ite
    | with_reducible apply answer_kept
    | with_reducible apply corOwned_kept
    | with_reducible apply runCmd_kept
    | with_reducible apply stageGain_kept
    | with_reducible apply withSrc_kept
    | with_reducible apply answers_next
    | with_reducible apply answers_ite
    | (simp only [kept_mk_iff]; with_reducible exact Kept.parts ‹_›)
    | split
    | (simp only [kept_mk_iff]; with_reducible refine Kept.parts ?_)

theorem setCounterRow_kept {lane r : Nat} {v : CounterRow} (H0 : Kept Q K s) :
    Kept Q K (setCounterRow lane r v s) := by
  delta setCounterRow
  repeat' first
    | with_reducible assumption
    | intro _
    | (extract_lets +onlyGivenNames t; refine (have ht : Kept Q K t := ?_; ?_); subst t; rotate_left; clear_value t)
    | (extract_lets +onlyGivenNames t; clear_value t)
    | with_reducible apply kept_ite
    | with_reducible apply State.setTileCor_kept
    | (simp only [kept_mk_iff]; with_reducible exact Kept.parts ‹_›)
    | (simp only [kept_mk_iff]; with_reducible refine Kept.parts ?_)

theorem execGainDerive_kept {c : Cmd} (H0 : Kept Q K s) :
    Answers (Kept Q K) (execGainDerive c s) := by
  delta execGainDerive
  repeat' first
    | with_reducible assumption
    | intro _
    | (extract_lets +onlyGivenNames t; refine (have ht : Kept Q K t := ?_; ?_); subst t; rotate_left; clear_value t)
    | (extract_lets +onlyGivenNames t; clear_value t)
    | with_reducible apply kept_ite
    | with_reducible apply answer_kept
    | with_reducible apply corOwned_kept
    | with_reducible apply runCmd_kept
    | with_reducible apply setB_kept
    | with_reducible apply withSrc_kept
    | with_reducible apply answers_next
    | with_reducible apply answers_ite
    | (simp only [kept_mk_iff]; with_reducible exact Kept.parts ‹_›)
    | split
    | (simp only [kept_mk_iff]; with_reducible refine Kept.parts ?_)

theorem execGainDeriveDone_kept (H0 : Kept Q K s) :
    Answers (Kept Q K) (execGainDeriveDone s) := by
  delta execGainDeriveDone
  repeat' first
    | with_reducible assumption
    | intro _
    | (extract_lets +onlyGivenNames t; refine (have ht : Kept Q K t := ?_; ?_); subst t; rotate_left; clear_value t)
    | (extract_lets +onlyGivenNames t; clear_value t)
    | with_reducible apply kept_ite
    | with_reducible apply complete_kept
    | with_reducible apply each_kept
    | with_reducible apply ifS_kept
    | with_reducible apply raise_kept
    | with_reducible apply setB_kept
    | with_reducible apply setF_kept
    | with_reducible apply stageGain_kept
    | with_reducible apply answers_next
    | with_reducible apply answers_ite
    | (simp only [kept_mk_iff]; with_reducible exact Kept.parts ‹_›)
    | split
    | (simp only [kept_mk_iff]; with_reducible refine Kept.parts ?_)

theorem execAgeingCurveLoad_kept {c : Cmd} (H0 : Kept Q K s) :
    Answers (Kept Q K) (execAgeingCurveLoad c s) := by
  delta execAgeingCurveLoad
  repeat' first
    | with_reducible assumption
    | intro _
    | (extract_lets +onlyGivenNames t; refine (have ht : Kept Q K t := ?_; ?_); subst t; rotate_left; clear_value t)
    | (extract_lets +onlyGivenNames t; clear_value t)
    | with_reducible apply kept_ite
    | with_reducible apply answer_kept
    | with_reducible apply corOwned_kept
    | with_reducible apply runCmd_kept
    | with_reducible apply withLen_kept
    | with_reducible apply answers_next
    | with_reducible apply answers_ite
    | (simp only [kept_mk_iff]; with_reducible exact Kept.parts ‹_›)
    | split
    | (simp only [kept_mk_iff]; with_reducible refine Kept.parts ?_)

theorem settleRows_kept {lane : Nat} {committed : Bool} (H0 : Kept Q K s) :
    Kept Q K (settleRows lane committed s) := by
  delta settleRows
  repeat' first
    | with_reducible assumption
    | intro _
    | (extract_lets +onlyGivenNames t; refine (have ht : Kept Q K t := ?_; ?_); subst t; rotate_left; clear_value t)
    | (extract_lets +onlyGivenNames t; clear_value t)
    | with_reducible apply kept_ite
    | with_reducible apply State.setTileCor_kept
    | with_reducible apply countF_kept
    | with_reducible apply each_kept
    | (simp only [kept_mk_iff]; with_reducible exact Kept.parts ‹_›)
    | split
    | (simp only [kept_mk_iff]; with_reducible refine Kept.parts ?_)

theorem writeStrExp_kept {v : Nat} (H0 : Kept Q K s) :
    Kept Q K (writeStrExp v s) := by
  delta writeStrExp
  repeat' first
    | with_reducible assumption
    | intro _
    | (extract_lets +onlyGivenNames t; refine (have ht : Kept Q K t := ?_; ?_); subst t; rotate_left; clear_value t)
    | (extract_lets +onlyGivenNames t; clear_value t)
    | with_reducible apply kept_ite
    | with_reducible apply setF_kept
    | (simp only [kept_mk_iff]; with_reducible exact Kept.parts ‹_›)
    | (simp only [kept_mk_iff]; with_reducible refine Kept.parts ?_)

theorem execCorStrExpWrite_kept {who : Who} {v : Word} (H0 : Kept Q K s) :
    Answers (Kept Q K) (execCorStrExpWrite who v s) := by
  delta execCorStrExpWrite
  repeat' first
    | with_reducible assumption
    | intro _
    | with_reducible apply kept_ite
    | with_reducible apply guardWrite_kept
    | with_reducible apply writeStrExp_kept
    | with_reducible apply answers_next
    | with_reducible apply answers_ite

theorem execStressTableRegenDone_kept (H0 : Kept Q K s) :
    Answers (Kept Q K) (execStressTableRegenDone s) := by
  delta execStressTableRegenDone
  repeat' first
    | with_reducible assumption
    | intro _
    | (extract_lets +onlyGivenNames t; refine (have ht : Kept Q K t := ?_; ?_); subst t; rotate_left; clear_value t)
    | (extract_lets +onlyGivenNames t; clear_value t)
    | with_reducible apply kept_ite
    | with_reducible apply answers_next
    | with_reducible apply answers_ite
    | (simp only [kept_mk_iff]; with_reducible exact Kept.parts ‹_›)
    | split
    | (simp only [kept_mk_iff]; with_reducible refine Kept.parts ?_)

theorem exportWrite_kept {c : Cmd} {pos : Nat} {b : List Byte} (H0 : Kept Q K s) :
    Kept Q K (exportWrite c pos b s) := by
  delta exportWrite
  repeat' first
    | with_reducible assumption
    | intro _
    | with_reducible apply kept_ite
    | with_reducible apply memWrite_kept
    | split

theorem showExports_kept (H0 : Kept Q K s) :
    Kept Q K (showExports s) := by
  delta showExports
  repeat' first
    | with_reducible assumption
    | intro _
    | with_reducible apply kept_ite
    | with_reducible apply setB_kept

theorem advanceExport_kept {n : Nat} {x : Export} (H0 : Kept Q K s) : Kept Q K (advanceExport n x s).2 := by
  induction n generalizing x s with
  | zero => exact H0
  | succ n ih =>
    unfold advanceExport
    split
    · exact kept_ite (abortOperand_kept H0) (finish_kept (raise_kept H0))
    · exact kept_ite_snd H0 (kept_ite_snd (ih H0) (ih (exportWrite_kept (countCompressed_kept (countDecoded_kept H0)))))

theorem advanceExports_kept (H0 : Kept Q K s) :
    Kept Q K (advanceExports s) := by
  delta advanceExports
  repeat' first
    | with_reducible assumption
    | intro _
    | (extract_lets +onlyGivenNames t; refine (have ht : Kept Q K t := ?_; ?_); subst t; rotate_left; clear_value t)
    | (extract_lets +onlyGivenNames t; refine (have ht : Kept Q K t.2 := ?_; ?_); subst t; rotate_left; clear_value t)
    | (extract_lets +onlyGivenNames t; refine (have ht : Kept Q K t.1 := ?_; ?_); subst t; rotate_left; clear_value t)
    | (extract_lets +onlyGivenNames t; refine (have ht : Kept Q K t.1.1 := ?_; ?_); subst t; rotate_left; clear_value t)
    | (extract_lets +onlyGivenNames t; clear_value t)
    | with_reducible apply kept_ite
    | with_reducible apply advanceExport_kept
    | with_reducible apply showExports_kept
    | with_reducible apply kept_foldl
    | (simp only [kept_mk_iff]; with_reducible exact Kept.parts ‹_›)
    | split
    | (simp only [kept_mk_iff]; with_reducible refine Kept.parts ?_)

theorem exportRow_kept {lane r : Nat} (H0 : Kept Q K s) :
    Kept Q K (exportRow lane r s) := by
  delta exportRow
  repeat' first
    | with_reducible assumption
    | intro _
    | with_reducible apply hg
    | (extract_lets +onlyGivenNames t; refine (have ht : Kept Q K t := ?_; ?_); subst t; rotate_left; clear_value t)
    | (extract_lets +onlyGivenNames t; refine (have hg : ∀ x, Kept Q K x → Kept Q K (t x) := ?_; ?_); subst t; rotate_left; clear_value t)
    | (extract_lets +onlyGivenNames t; refine (have hg : ∀ a x, Kept Q K x → Kept Q K (t a x) := ?_; ?_); subst t; rotate_left; clear_value t)
    | (extract_lets +onlyGivenNames t; refine (have hg : ∀ a b x, Kept Q K x → Kept Q K (t a b x) := ?_; ?_); subst t; rotate_left; clear_value t)
    | (extract_lets +onlyGivenNames t; clear_value t)
    | with_reducible apply kept_ite
    | with_reducible apply ifS_kept
    | with_reducible apply setCounterRow_kept
    | (simp only [kept_mk_iff]; with_reducible exact Kept.parts ‹_›)
    | split
    | (simp only [kept_mk_iff]; with_reducible refine Kept.parts ?_)

theorem zeroRow_kept {lane row : Nat} {upd : Word} (H0 : Kept Q K s) :
    Kept Q K (zeroRow lane row upd s) := by
  delta zeroRow
  repeat' first
    | with_reducible assumption
    | intro _
    | with_reducible apply kept_ite
    | with_reducible apply raise_kept
    | with_reducible apply setCounterRow_kept
    | with_reducible apply setF_kept

theorem loseRow_kept {lane row : Nat} {upd : Word} (H0 : Kept Q K s) :
    Kept Q K (loseRow lane row upd s) := by
  delta loseRow
  repeat' first
    | with_reducible assumption
    | intro _
    | (extract_lets +onlyGivenNames t; refine (have ht : Kept Q K t := ?_; ?_); subst t; rotate_left; clear_value t)
    | (extract_lets +onlyGivenNames t; refine (have ht : Kept Q K t.2 := ?_; ?_); subst t; rotate_left; clear_value t)
    | (extract_lets +onlyGivenNames t; refine (have ht : Kept Q K t.1 := ?_; ?_); subst t; rotate_left; clear_value t)
    | (extract_lets +onlyGivenNames t; refine (have ht : Kept Q K t.1.1 := ?_; ?_); subst t; rotate_left; clear_value t)
    | (extract_lets +onlyGivenNames t; clear_value t)
    | with_reducible apply kept_ite
    | with_reducible apply decodeFailed_kept
    | with_reducible apply fresh_kept
    | with_reducible apply zeroRow_kept

theorem exportNow_kept {lost : Bool} {lane row : Nat} (H0 : Kept Q K s) :
    Kept Q K (exportNow lost lane row s) := by
  delta exportNow
  repeat' first
    | with_reducible assumption
    | intro _
    | (extract_lets +onlyGivenNames t; refine (have ht : Kept Q K t := ?_; ?_); subst t; rotate_left; clear_value t)
    | (extract_lets +onlyGivenNames t; refine (have ht : Kept Q K t.2 := ?_; ?_); subst t; rotate_left; clear_value t)
    | (extract_lets +onlyGivenNames t; refine (have ht : Kept Q K t.1 := ?_; ?_); subst t; rotate_left; clear_value t)
    | (extract_lets +onlyGivenNames t; refine (have ht : Kept Q K t.1.1 := ?_; ?_); subst t; rotate_left; clear_value t)
    | (extract_lets +onlyGivenNames t; clear_value t)
    | with_reducible apply kept_ite
    | with_reducible apply exportRow_kept
    | with_reducible apply fresh_kept
    | with_reducible apply loseRow_kept
    | split

theorem exportStill_kept (H0 : Kept Q K s) :
    Kept Q K (exportStill s) := by
  delta exportStill
  repeat' first
    | with_reducible assumption
    | intro _
    | (extract_lets +onlyGivenNames t; refine (have ht : Kept Q K t := ?_; ?_); subst t; rotate_left; clear_value t)
    | (extract_lets +onlyGivenNames t; refine (have ht : Kept Q K t.2 := ?_; ?_); subst t; rotate_left; clear_value t)
    | (extract_lets +onlyGivenNames t; refine (have ht : Kept Q K t.1 := ?_; ?_); subst t; rotate_left; clear_value t)
    | (extract_lets +onlyGivenNames t; refine (have ht : Kept Q K t.1.1 := ?_; ?_); subst t; rotate_left; clear_value t)
    | (extract_lets +onlyGivenNames t; clear_value t)
    | with_reducible apply kept_ite
    | with_reducible apply advanceExports_kept
    | with_reducible apply each_kept
    | with_reducible apply exportNow_kept
    | with_reducible apply fresh_kept
    | with_reducible apply ifS_kept

theorem counterExportBody_kept {c : Cmd} {lost : List (Nat × Nat)} (H0 : Kept Q K s) :
    Kept Q K (counterExportBody c lost s) := by
  delta counterExportBody
  repeat' first
    | with_reducible assumption
    | intro _
    | (extract_lets +onlyGivenNames t; refine (have ht : Kept Q K t := ?_; ?_); subst t; rotate_left; clear_value t)
    | (extract_lets +onlyGivenNames t; clear_value t)
    | with_reducible apply kept_ite
    | with_reducible apply advanceExports_kept
    | with_reducible apply answer_kept
    | with_reducible apply corOwned_kept
    | with_reducible apply each_kept
    | with_reducible apply exportNow_kept
    | with_reducible apply withLen_kept
    | (simp only [kept_mk_iff]; with_reducible exact Kept.parts ‹_›)
    | split
    | (simp only [kept_mk_iff]; with_reducible refine Kept.parts ?_)

theorem execCounterExport_kept {c : Cmd} {lost : List (Nat × Nat)} (H0 : Kept Q K s) :
    Answers (Kept Q K) (execCounterExport c lost s) := by
  delta execCounterExport
  repeat' first
    | with_reducible assumption
    | intro _
    | with_reducible apply kept_ite
    | with_reducible apply counterExportBody_kept
    | with_reducible apply runCmd_kept
    | with_reducible apply answers_next
    | with_reducible apply answers_ite

theorem execStressRowUpdate_kept {lane : Fin 1024} {row : Nat} {intact : Bool} (H0 : Kept Q K s) :
    Answers (Kept Q K) (execStressRowUpdate lane row intact s) := by
  delta execStressRowUpdate
  repeat' first
    | with_reducible assumption
    | intro _
    | (extract_lets +onlyGivenNames t; refine (have ht : Kept Q K t := ?_; ?_); subst t; rotate_left; clear_value t)
    | (extract_lets +onlyGivenNames t; clear_value t)
    | with_reducible apply kept_ite
    | with_reducible apply State.setTileCor_kept
    | with_reducible apply advanceExports_kept
    | with_reducible apply countCompressed_kept
    | with_reducible apply countDecoded_kept
    | with_reducible apply countF_kept
    | with_reducible apply each_kept
    | with_reducible apply exportRow_kept
    | with_reducible apply loseRow_kept
    | with_reducible apply raise_kept
    | with_reducible apply setCounterRow_kept
    | with_reducible apply answers_next
    | with_reducible apply answers_ite
    | (simp only [kept_mk_iff]; with_reducible exact Kept.parts ‹_›)
    | split
    | (simp only [kept_mk_iff]; with_reducible refine Kept.parts ?_)

theorem gainExportBody_kept {c : Cmd} (H0 : Kept Q K s) :
    Kept Q K (gainExportBody c s) := by
  delta gainExportBody
  repeat' first
    | with_reducible assumption
    | intro _
    | (extract_lets +onlyGivenNames t; refine (have ht : Kept Q K t := ?_; ?_); subst t; rotate_left; clear_value t)
    | (extract_lets +onlyGivenNames t; clear_value t)
    | with_reducible apply kept_ite
    | with_reducible apply abortOperand_kept
    | with_reducible apply answer_kept
    | with_reducible apply corOwned_kept
    | with_reducible apply countCompressed_kept
    | with_reducible apply exportWrite_kept
    | with_reducible apply finish_kept
    | with_reducible apply withLen_kept
    | split

theorem execGainExport_kept {c : Cmd} (H0 : Kept Q K s) :
    Answers (Kept Q K) (execGainExport c s) := by
  delta execGainExport
  repeat' first
    | with_reducible assumption
    | intro _
    | with_reducible apply kept_ite
    | with_reducible apply gainExportBody_kept
    | with_reducible apply runCmd_kept
    | with_reducible apply answers_next
    | with_reducible apply answers_ite

theorem rejectSection_kept {x : SectionIn} (H0 : Kept Q K s) :
    Kept Q K (rejectSection x s) := by
  delta rejectSection
  repeat' first
    | with_reducible assumption
    | intro _
    | with_reducible apply kept_ite
    | with_reducible apply decodeFailed_kept
    | with_reducible apply ifS_kept
    | with_reducible apply raise_kept
    | with_reducible apply setF_kept

theorem applyCounters_kept {add : Bool} {lane : Nat} {d : List Byte} (H0 : Kept Q K s) :
    Kept Q K (applyCounters add lane d s) := by
  delta applyCounters
  repeat' first
    | with_reducible assumption
    | intro _
    | (extract_lets +onlyGivenNames t; refine (have ht : Kept Q K t := ?_; ?_); subst t; rotate_left; clear_value t)
    | (extract_lets +onlyGivenNames t; clear_value t)
    | with_reducible apply kept_ite
    | with_reducible apply each_kept
    | with_reducible apply setCounterRow_kept
    | split

theorem importSections_kept {op kind : Nat} {c : Cmd} {apply : SectionIn → State → State} (H0 : Kept Q K s) (happly : ∀ (x0 : SectionIn) (x1 : State), Kept Q K x1 → Kept Q K (apply x0 x1)) :
    Kept Q K (importSections op kind c apply s) := by
  delta importSections
  repeat' first
    | with_reducible assumption
    | intro _
    | with_reducible apply hg
    | (extract_lets +onlyGivenNames t; refine (have ht : Kept Q K t := ?_; ?_); subst t; rotate_left; clear_value t)
    | (extract_lets +onlyGivenNames t; refine (have hg : ∀ x, Kept Q K x → Kept Q K (t x) := ?_; ?_); subst t; rotate_left; clear_value t)
    | (extract_lets +onlyGivenNames t; refine (have hg : ∀ a x, Kept Q K x → Kept Q K (t a x) := ?_; ?_); subst t; rotate_left; clear_value t)
    | (extract_lets +onlyGivenNames t; refine (have hg : ∀ a b x, Kept Q K x → Kept Q K (t a b x) := ?_; ?_); subst t; rotate_left; clear_value t)
    | (extract_lets +onlyGivenNames t; clear_value t)
    | with_reducible apply kept_ite
    | with_reducible apply abortOperand_kept
    | with_reducible apply answer_kept
    | with_reducible apply countDecoded_kept
    | with_reducible apply each_kept
    | with_reducible apply finish_kept
    | with_reducible apply raise_kept
    | with_reducible apply rejectSection_kept
    | with_reducible apply happly
    | split

theorem counterImportBody_kept {c : Cmd} (H0 : Kept Q K s) :
    Kept Q K (counterImportBody c s) := by
  delta counterImportBody
  repeat' first
    | with_reducible assumption
    | intro _
    | with_reducible apply kept_ite
    | with_reducible apply applyCounters_kept
    | with_reducible apply corOwned_kept
    | with_reducible apply importSections_kept

theorem execCounterImport_kept {c : Cmd} (H0 : Kept Q K s) :
    Answers (Kept Q K) (execCounterImport c s) := by
  delta execCounterImport
  repeat' first
    | with_reducible assumption
    | intro _
    | with_reducible apply kept_ite
    | with_reducible apply counterImportBody_kept
    | with_reducible apply runCmd_kept
    | with_reducible apply answers_next
    | with_reducible apply answers_ite

theorem gainImportBody_kept {c : Cmd} (H0 : Kept Q K s) :
    Kept Q K (gainImportBody c s) := by
  delta gainImportBody
  repeat' first
    | with_reducible assumption
    | intro _
    | with_reducible apply kept_ite
    | with_reducible apply corOwned_kept
    | with_reducible apply importSections_kept
    | with_reducible apply stageGain_kept

theorem execGainImport_kept {c : Cmd} (H0 : Kept Q K s) :
    Answers (Kept Q K) (execGainImport c s) := by
  delta execGainImport
  repeat' first
    | with_reducible assumption
    | intro _
    | with_reducible apply kept_ite
    | with_reducible apply gainImportBody_kept
    | with_reducible apply runCmd_kept
    | with_reducible apply answers_next
    | with_reducible apply answers_ite

theorem slcServe_kept {r : SlcReq} (H0 : Kept Q K s) :
    Kept Q K (slcServe r s) := by
  delta slcServe
  repeat' first
    | with_reducible assumption
    | intro _
    | with_reducible apply kept_ite
    | with_reducible apply counterExportBody_kept
    | with_reducible apply counterImportBody_kept
    | with_reducible apply gainExportBody_kept
    | with_reducible apply gainImportBody_kept
    | with_reducible apply slcCompressOne_kept
    | with_reducible apply slcDecompressOne_kept
    | with_reducible apply slcFlushOne_kept
    | (simp only [kept_mk_iff]; with_reducible exact Kept.parts ‹_›)
    | split
    | (simp only [kept_mk_iff]; with_reducible refine Kept.parts ?_)

theorem slcCycle_kept {rs : List SlcReq} (H0 : Kept Q K s) :
    Kept Q K (slcCycle rs s) := by
  delta slcCycle
  repeat' first
    | with_reducible assumption
    | intro _
    | with_reducible apply kept_ite
    | with_reducible apply runReqs_kept
    | with_reducible apply serveInOrder_kept
    | with_reducible apply slcServe_kept

theorem execSlcCompress_kept {c : Cmd} {also : List SlcReq} (H0 : Kept Q K s) :
    Answers (Kept Q K) (execSlcCompress c also s) := by
  delta execSlcCompress
  repeat' first
    | with_reducible assumption
    | intro _
    | with_reducible apply kept_ite
    | with_reducible apply slcCycle_kept
    | with_reducible apply answers_next
    | with_reducible apply answers_ite

theorem execSlcFlush_kept {c : Cmd} {also : List SlcReq} (H0 : Kept Q K s) :
    Answers (Kept Q K) (execSlcFlush c also s) := by
  delta execSlcFlush
  repeat' first
    | with_reducible assumption
    | intro _
    | with_reducible apply kept_ite
    | with_reducible apply slcCycle_kept
    | with_reducible apply answers_next
    | with_reducible apply answers_ite

theorem execSlcDecompress_kept {c : Cmd} {also : List SlcReq} (H0 : Kept Q K s) :
    Answers (Kept Q K) (execSlcDecompress c also s) := by
  delta execSlcDecompress
  repeat' first
    | with_reducible assumption
    | intro _
    | with_reducible apply kept_ite
    | with_reducible apply slcCycle_kept
    | with_reducible apply answers_next
    | with_reducible apply answers_ite

theorem corAbort_kept (H0 : Kept Q K s) :
    Kept Q K (corAbort s) := by
  delta corAbort
  repeat' first
    | with_reducible assumption
    | intro _
    | (extract_lets +onlyGivenNames t; refine (have ht : Kept Q K t := ?_; ?_); subst t; rotate_left; clear_value t)
    | (extract_lets +onlyGivenNames t; clear_value t)
    | with_reducible apply kept_ite
    | with_reducible apply State.setTileCor_kept
    | with_reducible apply answer_kept
    | with_reducible apply complete_kept
    | with_reducible apply each_kept
    | with_reducible apply setB_kept
    | with_reducible apply showExports_kept
    | (simp only [kept_mk_iff]; with_reducible exact Kept.parts ‹_›)
    | split
    | (simp only [kept_mk_iff]; with_reducible refine Kept.parts ?_)

theorem corLose_kept (H0 : Kept Q K s) :
    Kept Q K (corLose s) := by
  delta corLose
  repeat' first
    | with_reducible assumption
    | intro _
    | (extract_lets +onlyGivenNames t; refine (have ht : Kept Q K t := ?_; ?_); subst t; rotate_left; clear_value t)
    | (extract_lets +onlyGivenNames t; clear_value t)
    | with_reducible apply kept_ite
    | with_reducible apply each_kept
    | with_reducible apply setF_kept
    | (simp only [kept_mk_iff]; with_reducible exact Kept.parts ‹_›)
    | (simp only [kept_mk_iff]; with_reducible refine Kept.parts ?_)

end Sys2Proof.Machine
end

