-- ==== Sys2Proof/Laws/Kept/Lane.lean ====
section
/-!
SUPPORT. Every operation of Machine/Lane.lean keeps the queue and the canonical form.
-/

namespace Sys2Proof.Machine

set_option linter.unusedTactic false
set_option linter.unreachableTactic false
set_option linter.unusedSimpArgs false

variable {Q : List Instr} {K : Prop} {s : State}

theorem refreshLane_kept {lane : Nat} (H0 : Kept Q K s) :
    Kept Q K (refreshLane lane s) := by
  delta refreshLane
  repeat' first
    | with_reducible assumption
    | intro _
    | with_reducible apply kept_ite
    | with_reducible apply summary_kept

theorem laneCause_kept {lane b : Nat} (H0 : Kept Q K s) :
    Kept Q K (laneCause lane b s) := by
  delta laneCause
  repeat' first
    | with_reducible assumption
    | intro _
    | with_reducible apply kept_ite
    | with_reducible apply orF_kept
    | with_reducible apply refreshLane_kept

theorem modLane_kept {lane : Nat} {f : Lane → Lane} (H0 : Kept Q K s) :
    Kept Q K (modLane lane f s) := by
  delta modLane
  repeat' first
    | with_reducible assumption
    | intro _
    | with_reducible apply kept_ite
    | with_reducible apply State.setLane_kept

theorem sendWords_kept {lane : Nat} {xs : List (Bool × Word)} (H0 : Kept Q K s) :
    Kept Q K (sendWords lane xs s) := by
  delta sendWords
  repeat' first
    | with_reducible assumption
    | intro _
    | (extract_lets +onlyGivenNames t; refine (have ht : Kept Q K t := ?_; ?_); subst t; rotate_left; clear_value t)
    | (extract_lets +onlyGivenNames t; refine (have ht : Kept Q K t.2 := ?_; ?_); subst t; rotate_left; clear_value t)
    | (extract_lets +onlyGivenNames t; refine (have ht : Kept Q K t.1 := ?_; ?_); subst t; rotate_left; clear_value t)
    | (extract_lets +onlyGivenNames t; refine (have ht : Kept Q K t.1.1 := ?_; ?_); subst t; rotate_left; clear_value t)
    | (extract_lets +onlyGivenNames t; clear_value t)
    | with_reducible apply kept_ite
    | with_reducible apply emit_kept
    | with_reducible apply fresh_kept
    | split

theorem sendClosed_kept {lane : Nat} {xs : List (Bool × Word)} (H0 : Kept Q K s) :
    Kept Q K (sendClosed lane xs s) := by
  delta sendClosed
  repeat' first
    | with_reducible assumption
    | intro _
    | with_reducible apply kept_ite
    | with_reducible apply sendWords_kept

theorem cutPackets_kept {lane t : Nat} {x : List (Bool × Word)} (H0 : Kept Q K s) :
    Kept Q K (cutPackets lane t x s) := by
  delta cutPackets
  repeat' first
    | with_reducible assumption
    | intro _
    | (extract_lets +onlyGivenNames t; refine (have ht : Kept Q K t := ?_; ?_); subst t; rotate_left; clear_value t)
    | (extract_lets +onlyGivenNames t; clear_value t)
    | with_reducible apply kept_ite
    | with_reducible apply modLane_kept
    | with_reducible apply kept_foldl
    | (simp only [kept_mk_iff]; with_reducible exact Kept.parts ‹_›)
    | split
    | (simp only [kept_mk_iff]; with_reducible refine Kept.parts ?_)

theorem sendCutting_kept {lane t : Nat} {x : Bool × Word} (H0 : Kept Q K s) :
    Kept Q K (sendCutting lane t x s) := by
  delta sendCutting
  repeat' first
    | with_reducible assumption
    | intro _
    | with_reducible apply kept_ite
    | with_reducible apply cutPackets_kept
    | with_reducible apply sendWords_kept
    | split

theorem showFill_kept {lane : Nat} (H0 : Kept Q K s) :
    Kept Q K (showFill lane s) := by
  delta showFill
  repeat' first
    | with_reducible assumption
    | intro _
    | with_reducible apply hg
    | (extract_lets +onlyGivenNames t; refine (have ht : Kept Q K t := ?_; ?_); subst t; rotate_left; clear_value t)
    | (extract_lets +onlyGivenNames t; refine (have hg : ∀ x, Kept Q K x → Kept Q K (t x) := ?_; ?_); subst t; rotate_left; clear_value t)
    | (extract_lets +onlyGivenNames t; refine (have hg : ∀ a x, Kept Q K x → Kept Q K (t a x) := ?_; ?_); subst t; rotate_left; clear_value t)
    | (extract_lets +onlyGivenNames t; refine (have hg : ∀ a b x, Kept Q K x → Kept Q K (t a b x) := ?_; ?_); subst t; rotate_left; clear_value t)
    | (extract_lets +onlyGivenNames t; refine (have ht : Kept Q K t.2 := ?_; ?_); subst t; rotate_left; clear_value t)
    | (extract_lets +onlyGivenNames t; refine (have ht : Kept Q K t.1 := ?_; ?_); subst t; rotate_left; clear_value t)
    | (extract_lets +onlyGivenNames t; refine (have ht : Kept Q K t.1.1 := ?_; ?_); subst t; rotate_left; clear_value t)
    | (extract_lets +onlyGivenNames t; clear_value t)
    | with_reducible apply kept_ite
    | with_reducible apply emit_kept
    | with_reducible apply fresh_kept
    | with_reducible apply modLane_kept
    | (simp only [kept_mk_iff]; with_reducible exact Kept.parts ‹_›)
    | split
    | (simp only [kept_mk_iff]; with_reducible refine Kept.parts ?_)

theorem recheckInj_kept (H0 : Kept Q K s) :
    Kept Q K (recheckInj s) := by
  delta recheckInj
  repeat' first
    | with_reducible assumption
    | intro _
    | with_reducible apply kept_ite
    | with_reducible apply State.setInjLive_kept
    | with_reducible apply each_kept
    | with_reducible apply laneCause_kept
    | with_reducible apply setB_kept
    | split

end Sys2Proof.Machine
end

