-- ==== Sys2Proof/Laws/Kept/Light.lean ====
section
/-!
SUPPORT. Every operation of Machine/Light.lean keeps the queue and the canonical form.
-/

namespace Sys2Proof.Machine

set_option linter.unusedTactic false
set_option linter.unreachableTactic false
set_option linter.unusedSimpArgs false

variable {Q : List Instr} {K : Prop} {s : State}

theorem emptySlot_kept {k origin : Nat} (H0 : Kept Q K s) :
    Kept Q K (emptySlot k origin s) := by
  delta emptySlot
  repeat' first
    | with_reducible assumption
    | intro _
    | with_reducible apply kept_ite
    | with_reducible apply State.setSlot_kept
    | with_reducible apply countF_kept
    | with_reducible apply raise_kept
    | with_reducible apply setF_kept

theorem acceptMap_kept {m : PanelMap} {origin : Nat} (H0 : Kept Q K s) :
    Kept Q K (acceptMap m origin s) := by
  delta acceptMap
  repeat' first
    | with_reducible assumption
    | intro _
    | with_reducible apply hg
    | (extract_lets +onlyGivenNames t; refine (have ht : Kept Q K t := ?_; ?_); subst t; rotate_left; clear_value t)
    | (extract_lets +onlyGivenNames t; refine (have hg : ∀ x, Kept Q K x → Kept Q K (t x) := ?_; ?_); subst t; rotate_left; clear_value t)
    | (extract_lets +onlyGivenNames t; refine (have hg : ∀ a x, Kept Q K x → Kept Q K (t a x) := ?_; ?_); subst t; rotate_left; clear_value t)
    | (extract_lets +onlyGivenNames t; refine (have hg : ∀ a b x, Kept Q K x → Kept Q K (t a b x) := ?_; ?_); subst t; rotate_left; clear_value t)
    | (extract_lets +onlyGivenNames t; clear_value t)
    | with_reducible apply kept_ite
    | with_reducible apply corRemap_kept
    | with_reducible apply each_kept
    | with_reducible apply emptySlot_kept
    | with_reducible apply recheckInj_kept
    | (simp only [kept_mk_iff]; with_reducible exact Kept.parts ‹_›)
    | split
    | (simp only [kept_mk_iff]; with_reducible refine Kept.parts ?_)

theorem loseMoved_kept {l : MovedLoss} (H0 : Kept Q K s) :
    Kept Q K (loseMoved l s) := by
  delta loseMoved
  repeat' first
    | with_reducible assumption
    | intro _
    | (extract_lets +onlyGivenNames t; refine (have ht : Kept Q K t := ?_; ?_); subst t; rotate_left; clear_value t)
    | (extract_lets +onlyGivenNames t; refine (have ht : Kept Q K t.2 := ?_; ?_); subst t; rotate_left; clear_value t)
    | (extract_lets +onlyGivenNames t; refine (have ht : Kept Q K t.1 := ?_; ?_); subst t; rotate_left; clear_value t)
    | (extract_lets +onlyGivenNames t; refine (have ht : Kept Q K t.1.1 := ?_; ?_); subst t; rotate_left; clear_value t)
    | (extract_lets +onlyGivenNames t; clear_value t)
    | with_reducible apply kept_ite
    | with_reducible apply State.setTileCor_kept
    | with_reducible apply fresh_kept
    | with_reducible apply ifS_kept
    | with_reducible apply raise_kept
    | with_reducible apply setLaneBit_kept
    | with_reducible apply zeroRow_kept
    | (simp only [kept_mk_iff]; with_reducible exact Kept.parts ‹_›)
    | split
    | (simp only [kept_mk_iff]; with_reducible refine Kept.parts ?_)

theorem moveCorrection_kept {old : State} {lost : List MovedLoss} (H0 : Kept Q K s) :
    Kept Q K (moveCorrection old lost s) := by
  delta moveCorrection
  repeat' first
    | with_reducible assumption
    | intro _
    | with_reducible apply kept_ite
    | with_reducible apply each_kept
    | with_reducible apply loseMoved_kept
    | split

theorem mapLoadOne_kept {lost : List MovedLoss} {c : Cmd} (H0 : Kept Q K s) :
    Kept Q K (mapLoadOne lost c s) := by
  delta mapLoadOne
  repeat' first
    | with_reducible assumption
    | intro _
    | (extract_lets +onlyGivenNames t; refine (have ht : Kept Q K t := ?_; ?_); subst t; rotate_left; clear_value t)
    | (extract_lets +onlyGivenNames t; clear_value t)
    | with_reducible apply kept_ite
    | with_reducible apply acceptMap_kept
    | with_reducible apply answer_kept
    | with_reducible apply countF_kept
    | with_reducible apply moveCorrection_kept
    | with_reducible apply raise_kept
    | with_reducible apply withLen_kept
    | (simp only [kept_mk_iff]; with_reducible exact Kept.parts ‹_›)
    | split
    | (simp only [kept_mk_iff]; with_reducible refine Kept.parts ?_)

theorem execPanelMapLoad_kept {cs : List Cmd} {lost : List MovedLoss} (H0 : Kept Q K s) :
    Answers (Kept Q K) (execPanelMapLoad cs lost s) := by
  delta execPanelMapLoad
  repeat' first
    | with_reducible assumption
    | intro _
    | with_reducible apply kept_ite
    | with_reducible apply mapLoadOne_kept
    | with_reducible apply runTies_kept
    | with_reducible apply serveTable_kept
    | with_reducible apply answers_next
    | with_reducible apply answers_ite

theorem psdRefuse_kept {src : PsdFrom} {k reason : Nat} (H0 : Kept Q K s) :
    Kept Q K (psdRefuse src k reason s) := by
  delta psdRefuse
  repeat' first
    | with_reducible assumption
    | intro _
    | (extract_lets +onlyGivenNames t; refine (have ht : Kept Q K t := ?_; ?_); subst t; rotate_left; clear_value t)
    | (extract_lets +onlyGivenNames t; clear_value t)
    | with_reducible apply kept_ite
    | with_reducible apply countF_kept
    | with_reducible apply raise_kept
    | with_reducible apply setF_kept
    | (simp only [kept_mk_iff]; with_reducible exact Kept.parts ‹_›)
    | split
    | (simp only [kept_mk_iff]; with_reducible refine Kept.parts ?_)

theorem psdAccept_kept {k : Nat} {ws : List Word} (H0 : Kept Q K s) :
    Kept Q K (psdAccept k ws s) := by
  delta psdAccept
  repeat' first
    | with_reducible assumption
    | intro _
    | (extract_lets +onlyGivenNames t; refine (have ht : Kept Q K t := ?_; ?_); subst t; rotate_left; clear_value t)
    | (extract_lets +onlyGivenNames t; clear_value t)
    | with_reducible apply kept_ite
    | with_reducible apply State.setSlot_kept
    | with_reducible apply countF_kept
    | with_reducible apply ifS_kept
    | with_reducible apply raise_kept
    | with_reducible apply setF_kept
    | split

theorem psdLoadOne_kept {c : Cmd} (H0 : Kept Q K s) :
    Kept Q K (psdLoadOne c s) := by
  delta psdLoadOne
  repeat' first
    | with_reducible assumption
    | intro _
    | (extract_lets +onlyGivenNames t; refine (have ht : Kept Q K t := ?_; ?_); subst t; rotate_left; clear_value t)
    | (extract_lets +onlyGivenNames t; clear_value t)
    | with_reducible apply kept_ite
    | with_reducible apply answer_kept
    | with_reducible apply psdAccept_kept
    | with_reducible apply psdRefuse_kept
    | with_reducible apply refuse_kept
    | with_reducible apply withSrc_kept
    | (simp only [kept_mk_iff]; with_reducible exact Kept.parts ‹_›)
    | split
    | (simp only [kept_mk_iff]; with_reducible refine Kept.parts ?_)

theorem psdSeiOne_kept {ctx : Nat} {e : Nat × List Word} (H0 : Kept Q K s) :
    Kept Q K (psdSeiOne ctx e s) := by
  delta psdSeiOne
  repeat' first
    | with_reducible assumption
    | intro _
    | (extract_lets +onlyGivenNames t; refine (have ht : Kept Q K t := ?_; ?_); subst t; rotate_left; clear_value t)
    | (extract_lets +onlyGivenNames t; clear_value t)
    | with_reducible apply kept_ite
    | with_reducible apply psdAccept_kept
    | with_reducible apply psdRefuse_kept
    | split

theorem psdServe_kept {r : PsdReq} (H0 : Kept Q K s) :
    Kept Q K (psdServe r s) := by
  delta psdServe
  repeat' first
    | with_reducible assumption
    | intro _
    | with_reducible apply kept_ite
    | with_reducible apply psdLoadOne_kept
    | with_reducible apply psdSeiOne_kept
    | (simp only [kept_mk_iff]; with_reducible exact Kept.parts ‹_›)
    | split
    | (simp only [kept_mk_iff]; with_reducible refine Kept.parts ?_)

theorem movePsdPtr_kept {k : Nat} {rs : List PsdReq} (H0 : Kept Q K s) :
    Kept Q K (movePsdPtr k rs s) := by
  delta movePsdPtr
  repeat' first
    | with_reducible assumption
    | intro _
    | (extract_lets +onlyGivenNames t; refine (have ht : Kept Q K t := ?_; ?_); subst t; rotate_left; clear_value t)
    | (extract_lets +onlyGivenNames t; clear_value t)
    | with_reducible apply kept_ite
    | with_reducible apply ifS_kept
    | with_reducible apply setF_kept
    | (simp only [kept_mk_iff]; with_reducible exact Kept.parts ‹_›)
    | split
    | (simp only [kept_mk_iff]; with_reducible refine Kept.parts ?_)

theorem settleSlots_kept {rs : List PsdReq} (H0 : Kept Q K s) :
    Kept Q K (settleSlots rs s) := by
  delta settleSlots
  repeat' first
    | with_reducible assumption
    | intro _
    | with_reducible apply hg
    | (extract_lets +onlyGivenNames t; refine (have ht : Kept Q K t := ?_; ?_); subst t; rotate_left; clear_value t)
    | (extract_lets +onlyGivenNames t; refine (have hg : ∀ x, Kept Q K x → Kept Q K (t x) := ?_; ?_); subst t; rotate_left; clear_value t)
    | (extract_lets +onlyGivenNames t; refine (have hg : ∀ a x, Kept Q K x → Kept Q K (t a x) := ?_; ?_); subst t; rotate_left; clear_value t)
    | (extract_lets +onlyGivenNames t; refine (have hg : ∀ a b x, Kept Q K x → Kept Q K (t a b x) := ?_; ?_); subst t; rotate_left; clear_value t)
    | (extract_lets +onlyGivenNames t; clear_value t)
    | with_reducible apply kept_ite
    | with_reducible apply each_kept
    | with_reducible apply movePsdPtr_kept
    | with_reducible apply psdServe_kept

theorem execPsdLoad_kept {cs : List Cmd} (H0 : Kept Q K s) :
    Answers (Kept Q K) (execPsdLoad cs s) := by
  delta execPsdLoad
  repeat' first
    | with_reducible assumption
    | intro _
    | with_reducible apply kept_ite
    | with_reducible apply runTies_kept
    | with_reducible apply settleSlots_kept
    | with_reducible apply answers_next
    | with_reducible apply answers_ite

theorem acceptSeis_kept {ctx : Nat} {nals : List (List Byte)} {loads : List Cmd} (H0 : Kept Q K s) :
    Kept Q K (acceptSeis ctx nals loads s) := by
  delta acceptSeis
  repeat' first
    | with_reducible assumption
    | intro _
    | with_reducible apply kept_ite
    | with_reducible apply runTies_kept
    | with_reducible apply settleSlots_kept

theorem execLutLoad_kept {c : Cmd} (H0 : Kept Q K s) :
    Answers (Kept Q K) (execLutLoad c s) := by
  delta execLutLoad
  repeat' first
    | with_reducible assumption
    | intro _
    | (extract_lets +onlyGivenNames t; refine (have ht : Kept Q K t := ?_; ?_); subst t; rotate_left; clear_value t)
    | (extract_lets +onlyGivenNames t; clear_value t)
    | with_reducible apply kept_ite
    | with_reducible apply State.setLut_kept
    | with_reducible apply answer_kept
    | with_reducible apply runCmd_kept
    | with_reducible apply withLen_kept
    | with_reducible apply answers_next
    | with_reducible apply answers_ite
    | split

theorem execBlendLoad_kept {c : Cmd} (H0 : Kept Q K s) :
    Answers (Kept Q K) (execBlendLoad c s) := by
  delta execBlendLoad
  repeat' first
    | with_reducible assumption
    | intro _
    | with_reducible apply kept_ite
    | with_reducible apply State.setBlendSlot_kept
    | with_reducible apply answer_kept
    | with_reducible apply runCmd_kept
    | with_reducible apply withLen_kept
    | with_reducible apply answers_next
    | with_reducible apply answers_ite
    | (simp only [kept_mk_iff]; with_reducible exact Kept.parts ‹_›)
    | split
    | (simp only [kept_mk_iff]; with_reducible refine Kept.parts ?_)

theorem execOutlutLoad_kept {c : Cmd} (H0 : Kept Q K s) :
    Answers (Kept Q K) (execOutlutLoad c s) := by
  delta execOutlutLoad
  repeat' first
    | with_reducible assumption
    | intro _
    | (extract_lets +onlyGivenNames t; refine (have ht : Kept Q K t := ?_; ?_); subst t; rotate_left; clear_value t)
    | (extract_lets +onlyGivenNames t; clear_value t)
    | with_reducible apply kept_ite
    | with_reducible apply State.setOutLut_kept
    | with_reducible apply answer_kept
    | with_reducible apply runCmd_kept
    | with_reducible apply withLen_kept
    | with_reducible apply answers_next
    | with_reducible apply answers_ite
    | split

end Sys2Proof.Machine
end

