-- ==== Sys2Proof/Laws/Kept/Jet.lean ====
section
/-!
SUPPORT. Every operation of Machine/Jet.lean keeps the queue and the canonical form.
-/

namespace Sys2Proof.Machine

set_option linter.unusedTactic false
set_option linter.unreachableTactic false
set_option linter.unusedSimpArgs false

variable {Q : List Instr} {K : Prop} {s : State}

theorem showPool_kept {lane : Nat} (H0 : Kept Q K s) :
    Kept Q K (showPool lane s) := by
  delta showPool
  repeat' first
    | with_reducible assumption
    | intro _
    | with_reducible apply kept_ite
    | with_reducible apply setF_kept

theorem execFanRowStart_kept {fan : Fin 16} (H0 : Kept Q K s) :
    Answers (Kept Q K) (execFanRowStart fan s) := by
  delta execFanRowStart
  repeat' first
    | with_reducible assumption
    | intro _
    | (extract_lets +onlyGivenNames t; refine (have ht : Kept Q K t := ?_; ?_); subst t; rotate_left; clear_value t)
    | (extract_lets +onlyGivenNames t; clear_value t)
    | with_reducible apply kept_ite
    | with_reducible apply State.setFan_kept
    | with_reducible apply State.setPool_kept
    | with_reducible apply answers_next
    | with_reducible apply answers_ite
    | (simp only [kept_mk_iff]; with_reducible exact Kept.parts ‹_›)
    | split
    | (simp only [kept_mk_iff]; with_reducible refine Kept.parts ?_)

theorem occupy_kept {j n : Nat} (H0 : Kept Q K s) :
    Kept Q K (occupy j n s) := by
  delta occupy
  repeat' first
    | with_reducible assumption
    | intro _
    | (extract_lets +onlyGivenNames t; refine (have ht : Kept Q K t := ?_; ?_); subst t; rotate_left; clear_value t)
    | (extract_lets +onlyGivenNames t; clear_value t)
    | with_reducible apply kept_ite
    | with_reducible apply State.setJet_kept
    | (simp only [kept_mk_iff]; with_reducible exact Kept.parts ‹_›)
    | (simp only [kept_mk_iff]; with_reducible refine Kept.parts ?_)

theorem countRay_kept {fan : Nat} {o : RayOut} (H0 : Kept Q K s) :
    Kept Q K (countRay fan o s) := by
  delta countRay
  repeat' first
    | with_reducible assumption
    | intro _
    | (extract_lets +onlyGivenNames t; refine (have ht : Kept Q K t := ?_; ?_); subst t; rotate_left; clear_value t)
    | (extract_lets +onlyGivenNames t; clear_value t)
    | with_reducible apply kept_ite
    | with_reducible apply addF_kept
    | with_reducible apply setF_kept

theorem writeProbe_kept {p : Nat} {r : ProbeRun} {h : Nat × Nat} {w : Nat} (H0 : Kept Q K s) :
    Kept Q K (writeProbe p r h w s) := by
  delta writeProbe
  repeat' first
    | with_reducible assumption
    | intro _
    | (extract_lets +onlyGivenNames t; refine (have ht : Kept Q K t := ?_; ?_); subst t; rotate_left; clear_value t)
    | (extract_lets +onlyGivenNames t; clear_value t)
    | with_reducible apply kept_ite
    | with_reducible apply State.setProbe_kept
    | with_reducible apply putWord_kept
    | (simp only [kept_mk_iff]; with_reducible exact Kept.parts ‹_›)
    | (simp only [kept_mk_iff]; with_reducible refine Kept.parts ?_)

theorem copyToProbes_kept {lane col row : Nat} {codes : Nat × Nat × Nat} (H0 : Kept Q K s) :
    Kept Q K (copyToProbes lane col row codes s) := by
  delta copyToProbes
  repeat' first
    | with_reducible assumption
    | intro _
    | with_reducible apply hg
    | (extract_lets +onlyGivenNames t; refine (have ht : Kept Q K t := ?_; ?_); subst t; rotate_left; clear_value t)
    | (extract_lets +onlyGivenNames t; refine (have hg : ∀ x, Kept Q K x → Kept Q K (t x) := ?_; ?_); subst t; rotate_left; clear_value t)
    | (extract_lets +onlyGivenNames t; refine (have hg : ∀ a x, Kept Q K x → Kept Q K (t a x) := ?_; ?_); subst t; rotate_left; clear_value t)
    | (extract_lets +onlyGivenNames t; refine (have hg : ∀ a b x, Kept Q K x → Kept Q K (t a b x) := ?_; ?_); subst t; rotate_left; clear_value t)
    | (extract_lets +onlyGivenNames t; clear_value t)
    | with_reducible apply kept_ite
    | with_reducible apply State.setProbe_kept
    | with_reducible apply each_kept
    | with_reducible apply ifS_kept
    | with_reducible apply putWord_kept
    | with_reducible apply writeProbe_kept
    | (simp only [kept_mk_iff]; with_reducible exact Kept.parts ‹_›)
    | split
    | (simp only [kept_mk_iff]; with_reducible refine Kept.parts ?_)

theorem probeIncomplete_kept {p : Nat} (H0 : Kept Q K s) :
    Kept Q K (probeIncomplete p s) := by
  delta probeIncomplete
  repeat' first
    | with_reducible assumption
    | intro _
    | (extract_lets +onlyGivenNames t; refine (have ht : Kept Q K t := ?_; ?_); subst t; rotate_left; clear_value t)
    | (extract_lets +onlyGivenNames t; clear_value t)
    | with_reducible apply kept_ite
    | with_reducible apply State.setProbe_kept
    | with_reducible apply countF_kept
    | with_reducible apply raise_kept
    | (simp only [kept_mk_iff]; with_reducible exact Kept.parts ‹_›)
    | (simp only [kept_mk_iff]; with_reducible refine Kept.parts ?_)

theorem probeEnds_kept {marked : Bool} {p : Nat} {r : ProbeRun} (H0 : Kept Q K s) :
    Kept Q K (probeEnds marked p r s) := by
  delta probeEnds
  repeat' first
    | with_reducible assumption
    | intro _
    | (extract_lets +onlyGivenNames t; refine (have ht : Kept Q K t := ?_; ?_); subst t; rotate_left; clear_value t)
    | (extract_lets +onlyGivenNames t; clear_value t)
    | with_reducible apply kept_ite
    | with_reducible apply State.setProbe_kept
    | with_reducible apply addF_kept
    | with_reducible apply countF_kept
    | with_reducible apply ifS_kept
    | with_reducible apply raise_kept
    | with_reducible apply setF_kept
    | with_reducible apply takePicture_kept
    | (simp only [kept_mk_iff]; with_reducible exact Kept.parts ‹_›)
    | (simp only [kept_mk_iff]; with_reducible refine Kept.parts ?_)

theorem probeComplete_kept {p : Nat} {r : ProbeRun} (H0 : Kept Q K s) :
    Kept Q K (probeComplete p r s) := by
  delta probeComplete
  repeat' first
    | with_reducible assumption
    | intro _
    | with_reducible apply kept_ite
    | with_reducible apply probeEnds_kept

theorem execProbeDone_kept {probe : Fin 4} (H0 : Kept Q K s) :
    Answers (Kept Q K) (execProbeDone probe s) := by
  delta execProbeDone
  repeat' first
    | with_reducible assumption
    | intro _
    | with_reducible apply kept_ite
    | with_reducible apply probeComplete_kept
    | with_reducible apply answers_next
    | with_reducible apply answers_ite
    | (simp only [kept_mk_iff]; with_reducible exact Kept.parts ‹_›)
    | split
    | (simp only [kept_mk_iff]; with_reducible refine Kept.parts ?_)

theorem beginProbe_kept {p : Nat} {r : ProbeRun} (H0 : Kept Q K s) :
    Kept Q K (beginProbe p r s) := by
  delta beginProbe
  repeat' first
    | with_reducible assumption
    | intro _
    | (extract_lets +onlyGivenNames t; refine (have ht : Kept Q K t := ?_; ?_); subst t; rotate_left; clear_value t)
    | (extract_lets +onlyGivenNames t; clear_value t)
    | with_reducible apply kept_ite
    | with_reducible apply State.setProbe_kept
    | with_reducible apply each_kept
    | with_reducible apply probeOverwrites_kept
    | with_reducible apply putWord_kept
    | (simp only [kept_mk_iff]; with_reducible exact Kept.parts ‹_›)
    | split
    | (simp only [kept_mk_iff]; with_reducible refine Kept.parts ?_)

theorem latchProbe_kept {g : Nat} {p : Nat} (H0 : Kept Q K s) :
    Kept Q K (latchProbe g p s) := by
  delta latchProbe
  repeat' first
    | with_reducible assumption
    | intro _
    | with_reducible apply hg
    | (extract_lets +onlyGivenNames t; refine (have ht : Kept Q K t := ?_; ?_); subst t; rotate_left; clear_value t)
    | (extract_lets +onlyGivenNames t; refine (have hg : ∀ x, Kept Q K x → Kept Q K (t x) := ?_; ?_); subst t; rotate_left; clear_value t)
    | (extract_lets +onlyGivenNames t; refine (have hg : ∀ a x, Kept Q K x → Kept Q K (t a x) := ?_; ?_); subst t; rotate_left; clear_value t)
    | (extract_lets +onlyGivenNames t; refine (have hg : ∀ a b x, Kept Q K x → Kept Q K (t a b x) := ?_; ?_); subst t; rotate_left; clear_value t)
    | (extract_lets +onlyGivenNames t; clear_value t)
    | with_reducible apply kept_ite
    | with_reducible apply State.setProbe_kept
    | with_reducible apply beginProbe_kept
    | with_reducible apply countF_kept
    | with_reducible apply probeComplete_kept
    | with_reducible apply probeIncomplete_kept
    | with_reducible apply raise_kept
    | with_reducible apply setB_kept
    | (simp only [kept_mk_iff]; with_reducible exact Kept.parts ‹_›)
    | split
    | (simp only [kept_mk_iff]; with_reducible refine Kept.parts ?_)

theorem probeAtFs_kept {g : Nat} {p : Nat} (H0 : Kept Q K s) :
    Kept Q K (probeAtFs g p s) := by
  delta probeAtFs
  repeat' first
    | with_reducible assumption
    | intro _
    | (extract_lets +onlyGivenNames t; refine (have ht : Kept Q K t := ?_; ?_); subst t; rotate_left; clear_value t)
    | (extract_lets +onlyGivenNames t; clear_value t)
    | with_reducible apply kept_ite
    | with_reducible apply State.setProbe_kept
    | with_reducible apply beginProbe_kept
    | with_reducible apply probeComplete_kept
    | with_reducible apply probeEnds_kept
    | with_reducible apply probeIncomplete_kept
    | (simp only [kept_mk_iff]; with_reducible exact Kept.parts ‹_›)
    | split
    | (simp only [kept_mk_iff]; with_reducible refine Kept.parts ?_)

theorem probesAbort_kept {g : Nat} (H0 : Kept Q K s) :
    Kept Q K (probesAbort g s) := by
  delta probesAbort
  repeat' first
    | with_reducible assumption
    | intro _
    | with_reducible apply hg
    | (extract_lets +onlyGivenNames t; refine (have ht : Kept Q K t := ?_; ?_); subst t; rotate_left; clear_value t)
    | (extract_lets +onlyGivenNames t; refine (have hg : ∀ x, Kept Q K x → Kept Q K (t x) := ?_; ?_); subst t; rotate_left; clear_value t)
    | (extract_lets +onlyGivenNames t; refine (have hg : ∀ a x, Kept Q K x → Kept Q K (t a x) := ?_; ?_); subst t; rotate_left; clear_value t)
    | (extract_lets +onlyGivenNames t; refine (have hg : ∀ a b x, Kept Q K x → Kept Q K (t a b x) := ?_; ?_); subst t; rotate_left; clear_value t)
    | (extract_lets +onlyGivenNames t; clear_value t)
    | with_reducible apply kept_ite
    | with_reducible apply State.setProbe_kept
    | with_reducible apply countF_kept
    | with_reducible apply each_kept
    | with_reducible apply ifS_kept
    | with_reducible apply probeIncomplete_kept
    | with_reducible apply raise_kept
    | (simp only [kept_mk_iff]; with_reducible exact Kept.parts ‹_›)
    | split
    | (simp only [kept_mk_iff]; with_reducible refine Kept.parts ?_)

theorem execVirtualProbeRay_kept {probe : Fin 4} {jet : Fin 128} {idle : List Nat} (H0 : Kept Q K s) :
    Answers (Kept Q K) (execVirtualProbeRay probe jet idle s) := by
  delta execVirtualProbeRay
  repeat' first
    | with_reducible assumption
    | intro _
    | (extract_lets +onlyGivenNames t; refine (have ht : Kept Q K t := ?_; ?_); subst t; rotate_left; clear_value t)
    | (extract_lets +onlyGivenNames t; clear_value t)
    | with_reducible apply kept_ite
    | with_reducible apply State.setJet_kept
    | with_reducible apply countRay_kept
    | with_reducible apply occupy_kept
    | with_reducible apply writeProbe_kept
    | with_reducible apply answers_next
    | with_reducible apply answers_ite
    | (simp only [kept_mk_iff]; with_reducible exact Kept.parts ‹_›)
    | split
    | (simp only [kept_mk_iff]; with_reducible refine Kept.parts ?_)

theorem execRayEntersJet_kept {jet : Fin 128} {idle : List Nat} (H0 : Kept Q K s) :
    Answers (Kept Q K) (execRayEntersJet jet idle s) := by
  delta execRayEntersJet
  repeat' first
    | with_reducible assumption
    | intro _
    | (extract_lets +onlyGivenNames t; refine (have ht : Kept Q K t := ?_; ?_); subst t; rotate_left; clear_value t)
    | (extract_lets +onlyGivenNames t; clear_value t)
    | with_reducible apply kept_ite
    | with_reducible apply State.setFan_kept
    | with_reducible apply State.setJet_kept
    | with_reducible apply State.setPool_kept
    | with_reducible apply copyToProbes_kept
    | with_reducible apply countRay_kept
    | with_reducible apply occupy_kept
    | with_reducible apply setF_kept
    | with_reducible apply showPool_kept
    | with_reducible apply answers_next
    | with_reducible apply answers_ite
    | (simp only [kept_mk_iff]; with_reducible exact Kept.parts ‹_›)
    | split
    | (simp only [kept_mk_iff]; with_reducible refine Kept.parts ?_)

theorem execAnchorCacheFill_kept {fan : Fin 16} {cycles : Nat} (H0 : Kept Q K s) :
    Answers (Kept Q K) (execAnchorCacheFill fan cycles s) := by
  delta execAnchorCacheFill
  repeat' first
    | with_reducible assumption
    | intro _
    | with_reducible apply kept_ite
    | with_reducible apply addF_kept
    | with_reducible apply ifS_kept
    | with_reducible apply answers_next
    | with_reducible apply answers_ite

theorem writeCap_kept {b : Nat} {v : Word} (H0 : Kept Q K s) :
    Kept Q K (writeCap b v s) := by
  delta writeCap
  repeat' first
    | with_reducible assumption
    | intro _
    | with_reducible apply hg
    | (extract_lets +onlyGivenNames t; refine (have ht : Kept Q K t := ?_; ?_); subst t; rotate_left; clear_value t)
    | (extract_lets +onlyGivenNames t; refine (have hg : ∀ x, Kept Q K x → Kept Q K (t x) := ?_; ?_); subst t; rotate_left; clear_value t)
    | (extract_lets +onlyGivenNames t; refine (have hg : ∀ a x, Kept Q K x → Kept Q K (t a x) := ?_; ?_); subst t; rotate_left; clear_value t)
    | (extract_lets +onlyGivenNames t; refine (have hg : ∀ a b x, Kept Q K x → Kept Q K (t a b x) := ?_; ?_); subst t; rotate_left; clear_value t)
    | (extract_lets +onlyGivenNames t; clear_value t)
    | with_reducible apply kept_ite
    | with_reducible apply ifS_kept
    | with_reducible apply raise_kept
    | with_reducible apply setF_kept

theorem execSynCapWrite_kept {who : Who} {b : Fin 8} {v : Word} (H0 : Kept Q K s) :
    Answers (Kept Q K) (execSynCapWrite who b v s) := by
  delta execSynCapWrite
  repeat' first
    | with_reducible assumption
    | intro _
    | with_reducible apply kept_ite
    | with_reducible apply guardWrite_kept
    | with_reducible apply writeCap_kept
    | with_reducible apply answers_next
    | with_reducible apply answers_ite

theorem execSynPoolWrite_kept {who : Who} {lane : Fin 1024} {_v : Word} (H0 : Kept Q K s) :
    Answers (Kept Q K) (execSynPoolWrite who lane _v s) := by
  delta execSynPoolWrite
  repeat' first
    | with_reducible assumption
    | intro _
    | (extract_lets +onlyGivenNames t; refine (have ht : Kept Q K t := ?_; ?_); subst t; rotate_left; clear_value t)
    | (extract_lets +onlyGivenNames t; clear_value t)
    | with_reducible apply kept_ite
    | with_reducible apply guardWrite_kept
    | with_reducible apply setF_kept
    | with_reducible apply answers_next
    | with_reducible apply answers_ite

end Sys2Proof.Machine
end

