-- ==== Sys2Proof/Laws/Kept/Link.lean ====
section
/-!
SUPPORT. Every operation of Machine/Link.lean keeps the queue and the canonical form.
-/

namespace Sys2Proof.Machine

set_option linter.unusedTactic false
set_option linter.unreachableTactic false
set_option linter.unusedSimpArgs false

variable {Q : List Instr} {K : Prop} {s : State}

theorem dropRays_kept {base : Nat} (H0 : Kept Q K s) :
    Kept Q K (dropRays base s) := by
  delta dropRays
  repeat' first
    | with_reducible assumption
    | intro _
    | (extract_lets +onlyGivenNames t; refine (have ht : Kept Q K t := ?_; ?_); subst t; rotate_left; clear_value t)
    | (extract_lets +onlyGivenNames t; clear_value t)
    | with_reducible apply kept_ite
    | with_reducible apply State.setFan_kept
    | with_reducible apply State.setPool_kept
    | with_reducible apply showPool_kept
    | (simp only [kept_mk_iff]; with_reducible exact Kept.parts ‹_›)
    | split
    | (simp only [kept_mk_iff]; with_reducible refine Kept.parts ?_)

theorem cutTile_kept {base : Nat} (H0 : Kept Q K s) :
    Kept Q K (cutTile base s) := by
  delta cutTile
  repeat' first
    | with_reducible assumption
    | intro _
    | (extract_lets +onlyGivenNames t; refine (have ht : Kept Q K t := ?_; ?_); subst t; rotate_left; clear_value t)
    | (extract_lets +onlyGivenNames t; clear_value t)
    | with_reducible apply kept_ite
    | with_reducible apply dropRays_kept
    | with_reducible apply modLane_kept
    | with_reducible apply settleRows_kept
    | (simp only [kept_mk_iff]; with_reducible exact Kept.parts ‹_›)
    | split
    | (simp only [kept_mk_iff]; with_reducible refine Kept.parts ?_)

theorem sendMode_kept {lane mtype : Nat} {body : List Word} (H0 : Kept Q K s) :
    Kept Q K (sendMode lane mtype body s) := by
  delta sendMode
  repeat' first
    | with_reducible assumption
    | intro _
    | (extract_lets +onlyGivenNames t; refine (have ht : Kept Q K t := ?_; ?_); subst t; rotate_left; clear_value t)
    | (extract_lets +onlyGivenNames t; clear_value t)
    | with_reducible apply kept_ite
    | with_reducible apply modLane_kept
    | with_reducible apply sendClosed_kept
    | (simp only [kept_mk_iff]; with_reducible exact Kept.parts ‹_›)
    | (simp only [kept_mk_iff]; with_reducible refine Kept.parts ?_)

theorem sendModeTile_kept {base mtype : Nat} {body : List Word} (H0 : Kept Q K s) :
    Kept Q K (sendModeTile base mtype body s) := by
  delta sendModeTile
  repeat' first
    | with_reducible assumption
    | intro _
    | with_reducible apply kept_ite
    | with_reducible apply each_kept
    | with_reducible apply sendMode_kept

theorem setLstate_kept {lane st : Nat} (H0 : Kept Q K s) :
    Kept Q K (setLstate lane st s) := by
  delta setLstate
  repeat' first
    | with_reducible assumption
    | intro _
    | (extract_lets +onlyGivenNames t; refine (have ht : Kept Q K t := ?_; ?_); subst t; rotate_left; clear_value t)
    | (extract_lets +onlyGivenNames t; clear_value t)
    | with_reducible apply kept_ite
    | with_reducible apply laneCause_kept
    | with_reducible apply setF_kept
    | with_reducible apply showFill_kept
    | split

theorem endPacket_kept {lane : Nat} (H0 : Kept Q K s) :
    Kept Q K (endPacket lane s) := by
  delta endPacket
  repeat' first
    | with_reducible assumption
    | intro _
    | (extract_lets +onlyGivenNames t; refine (have ht : Kept Q K t := ?_; ?_); subst t; rotate_left; clear_value t)
    | (extract_lets +onlyGivenNames t; clear_value t)
    | with_reducible apply kept_ite
    | with_reducible apply cutPackets_kept
    | with_reducible apply modLane_kept
    | (simp only [kept_mk_iff]; with_reducible exact Kept.parts ‹_›)
    | (simp only [kept_mk_iff]; with_reducible refine Kept.parts ?_)

theorem leaveReady_kept {lane st : Nat} (H0 : Kept Q K s) :
    Kept Q K (leaveReady lane st s) := by
  delta leaveReady
  repeat' first
    | with_reducible assumption
    | intro _
    | (extract_lets +onlyGivenNames t; refine (have ht : Kept Q K t := ?_; ?_); subst t; rotate_left; clear_value t)
    | (extract_lets +onlyGivenNames t; clear_value t)
    | with_reducible apply kept_ite
    | with_reducible apply cutTile_kept
    | with_reducible apply endPacket_kept
    | with_reducible apply ifS_kept
    | with_reducible apply laneCause_kept
    | with_reducible apply modLane_kept
    | with_reducible apply setLstate_kept
    | (simp only [kept_mk_iff]; with_reducible exact Kept.parts ‹_›)
    | split
    | (simp only [kept_mk_iff]; with_reducible refine Kept.parts ?_)

theorem huntAt_kept {lane rate : Nat} (H0 : Kept Q K s) :
    Kept Q K (huntAt lane rate s) := by
  delta huntAt
  repeat' first
    | with_reducible assumption
    | intro _
    | (extract_lets +onlyGivenNames t; refine (have ht : Kept Q K t := ?_; ?_); subst t; rotate_left; clear_value t)
    | (extract_lets +onlyGivenNames t; clear_value t)
    | with_reducible apply kept_ite
    | with_reducible apply leaveReady_kept
    | with_reducible apply modLane_kept
    | with_reducible apply setF_kept
    | with_reducible apply showFill_kept
    | (simp only [kept_mk_iff]; with_reducible exact Kept.parts ‹_›)
    | (simp only [kept_mk_iff]; with_reducible refine Kept.parts ?_)

theorem hunt_kept {lane : Nat} (H0 : Kept Q K s) :
    Kept Q K (hunt lane s) := by
  delta hunt
  repeat' first
    | with_reducible assumption
    | intro _
    | with_reducible apply kept_ite
    | with_reducible apply huntAt_kept

theorem startLane_kept {lane : Nat} (H0 : Kept Q K s) :
    Kept Q K (startLane lane s) := by
  delta startLane
  repeat' first
    | with_reducible assumption
    | intro _
    | (extract_lets +onlyGivenNames t; refine (have ht : Kept Q K t := ?_; ?_); subst t; rotate_left; clear_value t)
    | (extract_lets +onlyGivenNames t; clear_value t)
    | with_reducible apply kept_ite
    | with_reducible apply State.setLane_kept
    | with_reducible apply huntAt_kept
    | with_reducible apply ifS_kept
    | with_reducible apply sendModeTile_kept
    | with_reducible apply setLstate_kept
    | split

theorem disableLane_kept {lane : Nat} (H0 : Kept Q K s) :
    Kept Q K (disableLane lane s) := by
  delta disableLane
  repeat' first
    | with_reducible assumption
    | intro _
    | with_reducible apply kept_ite
    | with_reducible apply leaveReady_kept
    | with_reducible apply modLane_kept
    | with_reducible apply setB_kept
    | with_reducible apply setF_kept

theorem checkRate_kept {lane : Nat} (H0 : Kept Q K s) :
    Kept Q K (checkRate lane s) := by
  delta checkRate
  repeat' first
    | with_reducible assumption
    | intro _
    | with_reducible apply hg
    | (extract_lets +onlyGivenNames t; refine (have ht : Kept Q K t := ?_; ?_); subst t; rotate_left; clear_value t)
    | (extract_lets +onlyGivenNames t; refine (have hg : ∀ x, Kept Q K x → Kept Q K (t x) := ?_; ?_); subst t; rotate_left; clear_value t)
    | (extract_lets +onlyGivenNames t; refine (have hg : ∀ a x, Kept Q K x → Kept Q K (t a x) := ?_; ?_); subst t; rotate_left; clear_value t)
    | (extract_lets +onlyGivenNames t; refine (have hg : ∀ a b x, Kept Q K x → Kept Q K (t a b x) := ?_; ?_); subst t; rotate_left; clear_value t)
    | (extract_lets +onlyGivenNames t; clear_value t)
    | with_reducible apply kept_ite
    | with_reducible apply each_kept
    | with_reducible apply ifS_kept
    | with_reducible apply laneCause_kept
    | with_reducible apply leaveReady_kept
    | with_reducible apply modLane_kept
    | with_reducible apply sendModeTile_kept
    | (simp only [kept_mk_iff]; with_reducible exact Kept.parts ‹_›)
    | split
    | (simp only [kept_mk_iff]; with_reducible refine Kept.parts ?_)

theorem reachReady_kept {lane : Nat} (H0 : Kept Q K s) :
    Kept Q K (reachReady lane s) := by
  delta reachReady
  repeat' first
    | with_reducible assumption
    | intro _
    | (extract_lets +onlyGivenNames t; refine (have ht : Kept Q K t := ?_; ?_); subst t; rotate_left; clear_value t)
    | (extract_lets +onlyGivenNames t; clear_value t)
    | with_reducible apply kept_ite
    | with_reducible apply checkRate_kept
    | with_reducible apply modLane_kept
    | with_reducible apply setLstate_kept
    | (simp only [kept_mk_iff]; with_reducible exact Kept.parts ‹_›)
    | (simp only [kept_mk_iff]; with_reducible refine Kept.parts ?_)

theorem sendBlankAt_kept {t cause lane : Nat} (H0 : Kept Q K s) :
    Kept Q K (sendBlankAt t cause lane s) := by
  delta sendBlankAt
  repeat' first
    | with_reducible assumption
    | intro _
    | with_reducible apply kept_ite
    | with_reducible apply ifS_kept
    | with_reducible apply sendCutting_kept

theorem sendBlank_kept {cause lane : Nat} (H0 : Kept Q K s) :
    Kept Q K (sendBlank cause lane s) := by
  delta sendBlank
  repeat' first
    | with_reducible assumption
    | intro _
    | with_reducible apply kept_ite
    | with_reducible apply sendBlankAt_kept

theorem refreshBlank_kept {base : Nat} (H0 : Kept Q K s) :
    Kept Q K (refreshBlank base s) := by
  delta refreshBlank
  repeat' first
    | with_reducible assumption
    | intro _
    | (extract_lets +onlyGivenNames t; refine (have ht : Kept Q K t := ?_; ?_); subst t; rotate_left; clear_value t)
    | (extract_lets +onlyGivenNames t; clear_value t)
    | with_reducible apply kept_ite
    | with_reducible apply cutTile_kept
    | with_reducible apply each_kept
    | with_reducible apply modLane_kept
    | with_reducible apply setB_kept
    | (simp only [kept_mk_iff]; with_reducible exact Kept.parts ‹_›)
    | split
    | (simp only [kept_mk_iff]; with_reducible refine Kept.parts ?_)

theorem tileFault_kept {lane latency : Nat} (H0 : Kept Q K s) :
    Kept Q K (tileFault lane latency s) := by
  delta tileFault
  repeat' first
    | with_reducible assumption
    | intro _
    | (extract_lets +onlyGivenNames t; refine (have ht : Kept Q K t := ?_; ?_); subst t; rotate_left; clear_value t)
    | (extract_lets +onlyGivenNames t; clear_value t)
    | with_reducible apply kept_ite
    | with_reducible apply each_kept
    | with_reducible apply laneCause_kept
    | with_reducible apply modLane_kept
    | with_reducible apply refreshBlank_kept
    | with_reducible apply sendBlankAt_kept
    | with_reducible apply setB_kept
    | with_reducible apply setF_kept
    | (simp only [kept_mk_iff]; with_reducible exact Kept.parts ‹_›)
    | split
    | (simp only [kept_mk_iff]; with_reducible refine Kept.parts ?_)

theorem execBlankRepeat_kept {lane : Fin 1024} (H0 : Kept Q K s) :
    Answers (Kept Q K) (execBlankRepeat lane s) := by
  delta execBlankRepeat
  repeat' first
    | with_reducible assumption
    | intro _
    | with_reducible apply kept_ite
    | with_reducible apply ifS_kept
    | with_reducible apply sendBlank_kept
    | with_reducible apply answers_next
    | with_reducible apply answers_ite
    | split

theorem writeBlank_kept {lane : Nat} {on : Bool} (H0 : Kept Q K s) :
    Kept Q K (writeBlank lane on s) := by
  delta writeBlank
  repeat' first
    | with_reducible assumption
    | intro _
    | (extract_lets +onlyGivenNames t; refine (have ht : Kept Q K t := ?_; ?_); subst t; rotate_left; clear_value t)
    | (extract_lets +onlyGivenNames t; clear_value t)
    | with_reducible apply kept_ite
    | with_reducible apply each_kept
    | with_reducible apply ifS_kept
    | with_reducible apply refreshBlank_kept
    | with_reducible apply sendBlank_kept
    | with_reducible apply setB_kept
    | split

theorem writeUnblank_kept {lane : Nat} (H0 : Kept Q K s) :
    Kept Q K (writeUnblank lane s) := by
  delta writeUnblank
  repeat' first
    | with_reducible assumption
    | intro _
    | (extract_lets +onlyGivenNames t; refine (have ht : Kept Q K t := ?_; ?_); subst t; rotate_left; clear_value t)
    | (extract_lets +onlyGivenNames t; clear_value t)
    | with_reducible apply kept_ite
    | with_reducible apply each_kept
    | with_reducible apply refreshBlank_kept
    | with_reducible apply setB_kept
    | split

theorem writeEn_kept {lane : Nat} {en : Bool} (H0 : Kept Q K s) :
    Kept Q K (writeEn lane en s) := by
  delta writeEn
  repeat' first
    | with_reducible assumption
    | intro _
    | (extract_lets +onlyGivenNames t; refine (have ht : Kept Q K t := ?_; ?_); subst t; rotate_left; clear_value t)
    | (extract_lets +onlyGivenNames t; clear_value t)
    | with_reducible apply kept_ite
    | with_reducible apply disableLane_kept
    | with_reducible apply setB_kept
    | with_reducible apply startLane_kept
    | split

theorem writeRate_kept {lane rate : Nat} (H0 : Kept Q K s) :
    Kept Q K (writeRate lane rate s) := by
  delta writeRate
  repeat' first
    | with_reducible assumption
    | intro _
    | (extract_lets +onlyGivenNames t; refine (have ht : Kept Q K t := ?_; ?_); subst t; rotate_left; clear_value t)
    | (extract_lets +onlyGivenNames t; clear_value t)
    | with_reducible apply kept_ite
    | with_reducible apply checkRate_kept
    | with_reducible apply each_kept
    | with_reducible apply laneCause_kept
    | with_reducible apply modLane_kept
    | with_reducible apply setF_kept
    | (simp only [kept_mk_iff]; with_reducible exact Kept.parts ‹_›)
    | split
    | (simp only [kept_mk_iff]; with_reducible refine Kept.parts ?_)

theorem writeLoop_kept {lane loop : Nat} (H0 : Kept Q K s) :
    Kept Q K (writeLoop lane loop s) := by
  delta writeLoop
  repeat' first
    | with_reducible assumption
    | intro _
    | (extract_lets +onlyGivenNames t; refine (have ht : Kept Q K t := ?_; ?_); subst t; rotate_left; clear_value t)
    | (extract_lets +onlyGivenNames t; clear_value t)
    | with_reducible apply kept_ite
    | with_reducible apply huntAt_kept
    | with_reducible apply ifS_kept
    | with_reducible apply laneCause_kept
    | with_reducible apply leaveReady_kept
    | with_reducible apply modLane_kept
    | with_reducible apply sendModeTile_kept
    | with_reducible apply setB_kept
    | with_reducible apply setF_kept
    | with_reducible apply showFill_kept
    | (simp only [kept_mk_iff]; with_reducible exact Kept.parts ‹_›)
    | split
    | (simp only [kept_mk_iff]; with_reducible refine Kept.parts ?_)

theorem writeInj_kept {p : Nat} {v : Word} (H0 : Kept Q K s) :
    Kept Q K (writeInj p v s) := by
  delta writeInj
  repeat' first
    | with_reducible assumption
    | intro _
    | (extract_lets +onlyGivenNames t; refine (have ht : Kept Q K t := ?_; ?_); subst t; rotate_left; clear_value t)
    | (extract_lets +onlyGivenNames t; clear_value t)
    | with_reducible apply kept_ite
    | with_reducible apply State.setInjLive_kept
    | with_reducible apply laneCause_kept
    | with_reducible apply setB_kept
    | with_reducible apply setF_kept
    | split

theorem writeInjPos_kept {p : Nat} {v : Word} (H0 : Kept Q K s) :
    Kept Q K (writeInjPos p v s) := by
  delta writeInjPos
  repeat' first
    | with_reducible assumption
    | intro _
    | with_reducible apply kept_ite
    | with_reducible apply setF_kept
    | split

theorem laneWrite_kept {who : Who} {lane : Nat} {f : Nat → Nat → Fld} {g : State → State} (H0 : Kept Q K s) (hg : ∀ (x0 : State), Kept Q K x0 → Kept Q K (g x0)) :
    Kept Q K (laneWrite who lane f g s) := by
  delta laneWrite
  repeat' first
    | with_reducible assumption
    | intro _
    | with_reducible apply kept_ite
    | with_reducible apply guardWrite_kept
    | with_reducible apply hg

theorem execLnkEnWrite_kept {who : Who} {lane : Fin 1024} {en : Bool} (H0 : Kept Q K s) :
    Answers (Kept Q K) (execLnkEnWrite who lane en s) := by
  delta execLnkEnWrite
  repeat' first
    | with_reducible assumption
    | intro _
    | with_reducible apply kept_ite
    | with_reducible apply laneWrite_kept
    | with_reducible apply writeEn_kept
    | with_reducible apply answers_next
    | with_reducible apply answers_ite

theorem execLnkRateWrite_kept {who : Who} {lane : Fin 1024} {rate : Nat} (H0 : Kept Q K s) :
    Answers (Kept Q K) (execLnkRateWrite who lane rate s) := by
  delta execLnkRateWrite
  repeat' first
    | with_reducible assumption
    | intro _
    | with_reducible apply kept_ite
    | with_reducible apply laneWrite_kept
    | with_reducible apply writeRate_kept
    | with_reducible apply answers_next
    | with_reducible apply answers_ite

theorem execLnkLoopWrite_kept {who : Who} {lane : Fin 1024} {loop : Nat} (H0 : Kept Q K s) :
    Answers (Kept Q K) (execLnkLoopWrite who lane loop s) := by
  delta execLnkLoopWrite
  repeat' first
    | with_reducible assumption
    | intro _
    | with_reducible apply kept_ite
    | with_reducible apply laneWrite_kept
    | with_reducible apply writeLoop_kept
    | with_reducible apply answers_next
    | with_reducible apply answers_ite

theorem execLnkBlankWrite_kept {who : Who} {lane : Fin 1024} {blank : Bool} (H0 : Kept Q K s) :
    Answers (Kept Q K) (execLnkBlankWrite who lane blank s) := by
  delta execLnkBlankWrite
  repeat' first
    | with_reducible assumption
    | intro _
    | with_reducible apply kept_ite
    | with_reducible apply laneWrite_kept
    | with_reducible apply writeBlank_kept
    | with_reducible apply answers_next
    | with_reducible apply answers_ite

theorem execUnblank_kept {who : Who} {lane : Fin 1024} {fault : Bool} (H0 : Kept Q K s) :
    Answers (Kept Q K) (execUnblank who lane fault s) := by
  delta execUnblank
  repeat' first
    | with_reducible assumption
    | intro _
    | with_reducible apply kept_ite
    | with_reducible apply ifS_kept
    | with_reducible apply laneWrite_kept
    | with_reducible apply writeUnblank_kept
    | with_reducible apply answers_next
    | with_reducible apply answers_ite

theorem execLnkInjArm_kept {who : Who} {page : Fin 64} {v : Word} (H0 : Kept Q K s) :
    Answers (Kept Q K) (execLnkInjArm who page v s) := by
  delta execLnkInjArm
  repeat' first
    | with_reducible assumption
    | intro _
    | with_reducible apply kept_ite
    | with_reducible apply guardWrite_kept
    | with_reducible apply writeInj_kept
    | with_reducible apply answers_next
    | with_reducible apply answers_ite

theorem loseLock_kept {lane : Nat} (H0 : Kept Q K s) :
    Kept Q K (loseLock lane s) := by
  delta loseLock
  repeat' first
    | with_reducible assumption
    | intro _
    | (extract_lets +onlyGivenNames t; refine (have ht : Kept Q K t := ?_; ?_); subst t; rotate_left; clear_value t)
    | (extract_lets +onlyGivenNames t; clear_value t)
    | with_reducible apply kept_ite
    | with_reducible apply hunt_kept
    | with_reducible apply modLane_kept
    | with_reducible apply showFill_kept
    | (simp only [kept_mk_iff]; with_reducible exact Kept.parts ‹_›)
    | split
    | (simp only [kept_mk_iff]; with_reducible refine Kept.parts ?_)

theorem codeError_kept {lane : Nat} (H0 : Kept Q K s) :
    Kept Q K (codeError lane s) := by
  delta codeError
  repeat' first
    | with_reducible assumption
    | intro _
    | (extract_lets +onlyGivenNames t; refine (have ht : Kept Q K t := ?_; ?_); subst t; rotate_left; clear_value t)
    | (extract_lets +onlyGivenNames t; clear_value t)
    | with_reducible apply kept_ite
    | with_reducible apply State.setLane_kept
    | with_reducible apply countF_kept
    | with_reducible apply loseLock_kept
    | (simp only [kept_mk_iff]; with_reducible exact Kept.parts ‹_›)
    | split
    | (simp only [kept_mk_iff]; with_reducible refine Kept.parts ?_)

theorem rxGroup_kept {lane : Nat} {t : State × List (Option (Bool × Nat))} {g : Nat} (H0 : Kept Q K t.1) :
    Kept Q K (rxGroup lane t g).1 := by
  unfold rxGroup
  exact kept_ite_fst H0 (ifS_kept (modLane_kept H0) (fun t h => codeError_kept h))

theorem breakRuns_kept {lane : Nat} (H0 : Kept Q K s) :
    Kept Q K (breakRuns lane s) := by
  delta breakRuns
  repeat' first
    | with_reducible assumption
    | intro _
    | (extract_lets +onlyGivenNames t; refine (have ht : Kept Q K t := ?_; ?_); subst t; rotate_left; clear_value t)
    | (extract_lets +onlyGivenNames t; clear_value t)
    | with_reducible apply kept_ite
    | with_reducible apply modLane_kept
    | (simp only [kept_mk_iff]; with_reducible exact Kept.parts ‹_›)
    | split
    | (simp only [kept_mk_iff]; with_reducible refine Kept.parts ?_)

theorem rxWord_kept {lane : Nat} {gs : List Nat} (H0 : Kept Q K s) : Kept Q K (rxWord lane gs s).1 := by
  have h : Kept Q K (gs.foldl (rxGroup lane) (s, [])).1 :=
    foldl_keeps (P := fun (t : State × List (Option (Bool × Nat))) => Kept Q K t.1) H0 (fun t g h => rxGroup_kept h)
  unfold rxWord
  dsimp only
  split
  · exact h
  · split
    · exact h
    · split
      · exact h
      · exact codeError_kept h
      · exact breakRuns_kept h

theorem execRxCommaDetect_kept {lane : Fin 1024} {group : Nat} (H0 : Kept Q K s) :
    Answers (Kept Q K) (execRxCommaDetect lane group s) := by
  delta execRxCommaDetect
  repeat' first
    | with_reducible assumption
    | intro _
    | (extract_lets +onlyGivenNames t; refine (have ht : Kept Q K t := ?_; ?_); subst t; rotate_left; clear_value t)
    | (extract_lets +onlyGivenNames t; clear_value t)
    | with_reducible apply kept_ite
    | with_reducible apply ifS_kept
    | with_reducible apply modLane_kept
    | with_reducible apply setLstate_kept
    | with_reducible apply answers_next
    | with_reducible apply answers_ite
    | (simp only [kept_mk_iff]; with_reducible exact Kept.parts ‹_›)
    | split
    | (simp only [kept_mk_iff]; with_reducible refine Kept.parts ?_)

theorem takeIdle_kept {lane flags : Nat} (H0 : Kept Q K s) :
    Kept Q K (takeIdle lane flags s) := by
  delta takeIdle
  repeat' first
    | with_reducible assumption
    | intro _
    | (extract_lets +onlyGivenNames t; refine (have ht : Kept Q K t := ?_; ?_); subst t; rotate_left; clear_value t)
    | (extract_lets +onlyGivenNames t; clear_value t)
    | with_reducible apply kept_ite
    | with_reducible apply State.setLane_kept
    | with_reducible apply ifS_kept
    | with_reducible apply setLstate_kept
    | with_reducible apply showFill_kept
    | (simp only [kept_mk_iff]; with_reducible exact Kept.parts ‹_›)
    | split
    | (simp only [kept_mk_iff]; with_reducible refine Kept.parts ?_)

theorem execRxIdleReceived_kept {lane : Fin 1024} {groups : List Nat} (H0 : Kept Q K s) :
    Answers (Kept Q K) (execRxIdleReceived lane groups s) := by
  delta execRxIdleReceived
  repeat' first
    | with_reducible assumption
    | intro _
    | (extract_lets +onlyGivenNames t; refine (have ht : Kept Q K t := ?_; ?_); subst t; rotate_left; clear_value t)
    | (extract_lets +onlyGivenNames t; refine (have ht : Kept Q K t.2 := ?_; ?_); subst t; rotate_left; clear_value t)
    | (extract_lets +onlyGivenNames t; refine (have ht : Kept Q K t.1 := ?_; ?_); subst t; rotate_left; clear_value t)
    | (extract_lets +onlyGivenNames t; refine (have ht : Kept Q K t.1.1 := ?_; ?_); subst t; rotate_left; clear_value t)
    | (extract_lets +onlyGivenNames t; clear_value t)
    | with_reducible apply kept_ite
    | with_reducible apply rxWord_kept
    | with_reducible apply takeIdle_kept
    | with_reducible apply answers_next
    | with_reducible apply answers_ite
    | (simp only [kept_mk_iff]; with_reducible exact Kept.parts ‹_›)
    | split
    | (simp only [kept_mk_iff]; with_reducible refine Kept.parts ?_)

theorem execRxCodeError_kept {lane : Fin 1024} {groups : List Nat} (H0 : Kept Q K s) :
    Answers (Kept Q K) (execRxCodeError lane groups s) := by
  delta execRxCodeError
  repeat' first
    | with_reducible assumption
    | intro _
    | with_reducible apply kept_ite
    | with_reducible apply rxWord_kept
    | with_reducible apply answers_next
    | with_reducible apply answers_ite
    | split

theorem execFaultSetRx_kept {lane : Fin 1024} {groups : List Nat} {latency : Nat} (H0 : Kept Q K s) :
    Answers (Kept Q K) (execFaultSetRx lane groups latency s) := by
  delta execFaultSetRx
  repeat' first
    | with_reducible assumption
    | intro _
    | (extract_lets +onlyGivenNames t; refine (have ht : Kept Q K t := ?_; ?_); subst t; rotate_left; clear_value t)
    | (extract_lets +onlyGivenNames t; refine (have ht : Kept Q K t.2 := ?_; ?_); subst t; rotate_left; clear_value t)
    | (extract_lets +onlyGivenNames t; refine (have ht : Kept Q K t.1 := ?_; ?_); subst t; rotate_left; clear_value t)
    | (extract_lets +onlyGivenNames t; refine (have ht : Kept Q K t.1.1 := ?_; ?_); subst t; rotate_left; clear_value t)
    | (extract_lets +onlyGivenNames t; clear_value t)
    | with_reducible apply kept_ite
    | with_reducible apply ifS_kept
    | with_reducible apply rxWord_kept
    | with_reducible apply tileFault_kept
    | with_reducible apply answers_next
    | with_reducible apply answers_ite
    | (simp only [kept_mk_iff]; with_reducible exact Kept.parts ‹_›)
    | split
    | (simp only [kept_mk_iff]; with_reducible refine Kept.parts ?_)

theorem takeStatus_kept {lane : Nat} {ws : List Word} (H0 : Kept Q K s) :
    Kept Q K (takeStatus lane ws s) := by
  delta takeStatus
  repeat' first
    | with_reducible assumption
    | intro _
    | (extract_lets +onlyGivenNames t; refine (have ht : Kept Q K t := ?_; ?_); subst t; rotate_left; clear_value t)
    | (extract_lets +onlyGivenNames t; refine (have ht : Kept Q K t.2 := ?_; ?_); subst t; rotate_left; clear_value t)
    | (extract_lets +onlyGivenNames t; refine (have ht : Kept Q K t.1 := ?_; ?_); subst t; rotate_left; clear_value t)
    | (extract_lets +onlyGivenNames t; refine (have ht : Kept Q K t.1.1 := ?_; ?_); subst t; rotate_left; clear_value t)
    | (extract_lets +onlyGivenNames t; clear_value t)
    | with_reducible apply kept_ite
    | with_reducible apply checkRate_kept
    | with_reducible apply fresh_kept
    | with_reducible apply ifS_kept
    | with_reducible apply laneCause_kept
    | with_reducible apply modLane_kept
    | with_reducible apply reachReady_kept
    | with_reducible apply setF_kept
    | with_reducible apply tileFault_kept
    | (simp only [kept_mk_iff]; with_reducible exact Kept.parts ‹_›)
    | split
    | (simp only [kept_mk_iff]; with_reducible refine Kept.parts ?_)

theorem rxWords_kept {lane n : Nat} {gs : List Nat} (H0 : Kept Q K s) : Kept Q K (rxWords lane gs n s).1 := by
  induction n generalizing gs s with
  | zero => exact H0
  | succ n ih => exact ih (rxWord_kept H0)

theorem execStatusPacketRx_kept {lane : Fin 1024} {groups : List Nat} (H0 : Kept Q K s) :
    Answers (Kept Q K) (execStatusPacketRx lane groups s) := by
  delta execStatusPacketRx
  repeat' first
    | with_reducible assumption
    | intro _
    | (extract_lets +onlyGivenNames t; refine (have ht : Kept Q K t := ?_; ?_); subst t; rotate_left; clear_value t)
    | (extract_lets +onlyGivenNames t; refine (have ht : Kept Q K t.2 := ?_; ?_); subst t; rotate_left; clear_value t)
    | (extract_lets +onlyGivenNames t; refine (have ht : Kept Q K t.1 := ?_; ?_); subst t; rotate_left; clear_value t)
    | (extract_lets +onlyGivenNames t; refine (have ht : Kept Q K t.1.1 := ?_; ?_); subst t; rotate_left; clear_value t)
    | (extract_lets +onlyGivenNames t; clear_value t)
    | with_reducible apply kept_ite
    | with_reducible apply laneCause_kept
    | with_reducible apply rxWords_kept
    | with_reducible apply takeStatus_kept
    | with_reducible apply answers_next
    | with_reducible apply answers_ite
    | (simp only [kept_mk_iff]; with_reducible exact Kept.parts ‹_›)
    | split
    | (simp only [kept_mk_iff]; with_reducible refine Kept.parts ?_)

theorem execStatusTimeout_kept {lane : Fin 1024} (H0 : Kept Q K s) :
    Answers (Kept Q K) (execStatusTimeout lane s) := by
  delta execStatusTimeout
  repeat' first
    | with_reducible assumption
    | intro _
    | (extract_lets +onlyGivenNames t; refine (have ht : Kept Q K t := ?_; ?_); subst t; rotate_left; clear_value t)
    | (extract_lets +onlyGivenNames t; clear_value t)
    | with_reducible apply kept_ite
    | with_reducible apply huntAt_kept
    | with_reducible apply laneCause_kept
    | with_reducible apply answers_next
    | with_reducible apply answers_ite
    | split

theorem resendRate_kept {lane t : Nat} (H0 : Kept Q K s) :
    Kept Q K (resendRate lane t s) := by
  delta resendRate
  repeat' first
    | with_reducible assumption
    | intro _
    | with_reducible apply kept_ite
    | with_reducible apply each_kept
    | with_reducible apply sendMode_kept

theorem execRateAckTimeout_kept {lane : Fin 1024} (H0 : Kept Q K s) :
    Answers (Kept Q K) (execRateAckTimeout lane s) := by
  delta execRateAckTimeout
  repeat' first
    | with_reducible assumption
    | intro _
    | (extract_lets +onlyGivenNames t; refine (have ht : Kept Q K t := ?_; ?_); subst t; rotate_left; clear_value t)
    | (extract_lets +onlyGivenNames t; clear_value t)
    | with_reducible apply kept_ite
    | with_reducible apply laneCause_kept
    | with_reducible apply modLane_kept
    | with_reducible apply resendRate_kept
    | with_reducible apply setLstate_kept
    | with_reducible apply answers_next
    | with_reducible apply answers_ite
    | (simp only [kept_mk_iff]; with_reducible exact Kept.parts ‹_›)
    | split
    | (simp only [kept_mk_iff]; with_reducible refine Kept.parts ?_)

theorem execRateSwitchDelay_kept {lane : Fin 1024} (H0 : Kept Q K s) :
    Answers (Kept Q K) (execRateSwitchDelay lane s) := by
  delta execRateSwitchDelay
  repeat' first
    | with_reducible assumption
    | intro _
    | (extract_lets +onlyGivenNames t; refine (have ht : Kept Q K t := ?_; ?_); subst t; rotate_left; clear_value t)
    | (extract_lets +onlyGivenNames t; clear_value t)
    | with_reducible apply kept_ite
    | with_reducible apply huntAt_kept
    | with_reducible apply modLane_kept
    | with_reducible apply answers_next
    | with_reducible apply answers_ite
    | (simp only [kept_mk_iff]; with_reducible exact Kept.parts ‹_›)
    | split
    | (simp only [kept_mk_iff]; with_reducible refine Kept.parts ?_)

theorem execRateReadyTimeout_kept {lane : Fin 1024} (H0 : Kept Q K s) :
    Answers (Kept Q K) (execRateReadyTimeout lane s) := by
  delta execRateReadyTimeout
  repeat' first
    | with_reducible assumption
    | intro _
    | (extract_lets +onlyGivenNames t; refine (have ht : Kept Q K t := ?_; ?_); subst t; rotate_left; clear_value t)
    | (extract_lets +onlyGivenNames t; clear_value t)
    | with_reducible apply kept_ite
    | with_reducible apply huntAt_kept
    | with_reducible apply laneCause_kept
    | with_reducible apply modLane_kept
    | with_reducible apply answers_next
    | with_reducible apply answers_ite
    | (simp only [kept_mk_iff]; with_reducible exact Kept.parts ‹_›)
    | split
    | (simp only [kept_mk_iff]; with_reducible refine Kept.parts ?_)

theorem injDone_kept {p carrier frame : Nat} (H0 : Kept Q K s) :
    Kept Q K (injDone p carrier frame s) := by
  delta injDone
  repeat' first
    | with_reducible assumption
    | intro _
    | (extract_lets +onlyGivenNames t; refine (have ht : Kept Q K t := ?_; ?_); subst t; rotate_left; clear_value t)
    | (extract_lets +onlyGivenNames t; clear_value t)
    | with_reducible apply kept_ite
    | with_reducible apply State.setInjLive_kept
    | with_reducible apply laneCause_kept
    | with_reducible apply modLane_kept
    | with_reducible apply setB_kept
    | with_reducible apply setF_kept
    | (simp only [kept_mk_iff]; with_reducible exact Kept.parts ‹_›)
    | (simp only [kept_mk_iff]; with_reducible refine Kept.parts ?_)

theorem sendPacket_kept {base frame row t : Nat} {rays : List (Nat × Nat × Nat)} {flip : Option (Nat × Nat × Nat)} (H0 : Kept Q K s) :
    Kept Q K (sendPacket base frame row t rays flip s) := by
  delta sendPacket
  repeat' first
    | with_reducible assumption
    | intro _
    | (extract_lets +onlyGivenNames t; refine (have ht : Kept Q K t := ?_; ?_); subst t; rotate_left; clear_value t)
    | (extract_lets +onlyGivenNames t; refine (have ht : Kept Q K t.2 := ?_; ?_); subst t; rotate_left; clear_value t)
    | (extract_lets +onlyGivenNames t; refine (have ht : Kept Q K t.1 := ?_; ?_); subst t; rotate_left; clear_value t)
    | (extract_lets +onlyGivenNames t; refine (have ht : Kept Q K t.1.1 := ?_; ?_); subst t; rotate_left; clear_value t)
    | (extract_lets +onlyGivenNames t; clear_value t)
    | with_reducible apply kept_ite
    | with_reducible apply emit_kept
    | with_reducible apply fresh_kept
    | with_reducible apply modLane_kept
    | (simp only [kept_mk_iff]; with_reducible exact Kept.parts ‹_›)
    | split
    | (simp only [kept_mk_iff]; with_reducible refine Kept.parts ?_)

theorem departRow_kept {base frame row : Nat} {rays : List (Nat × Nat × Nat)} {gone : Bool} {later : Nat → Option (List (Nat × Nat × Nat))} (H0 : Kept Q K s) :
    Kept Q K (departRow base frame row rays gone later s) := by
  delta departRow
  repeat' first
    | with_reducible assumption
    | intro _
    | with_reducible apply hg
    | (extract_lets +onlyGivenNames t; refine (have ht : Kept Q K t := ?_; ?_); subst t; rotate_left; clear_value t)
    | (extract_lets +onlyGivenNames t; refine (have hg : ∀ x, Kept Q K x → Kept Q K (t x) := ?_; ?_); subst t; rotate_left; clear_value t)
    | (extract_lets +onlyGivenNames t; refine (have hg : ∀ a x, Kept Q K x → Kept Q K (t a x) := ?_; ?_); subst t; rotate_left; clear_value t)
    | (extract_lets +onlyGivenNames t; refine (have hg : ∀ a b x, Kept Q K x → Kept Q K (t a b x) := ?_; ?_); subst t; rotate_left; clear_value t)
    | (extract_lets +onlyGivenNames t; clear_value t)
    | with_reducible apply kept_ite
    | with_reducible apply State.setPool_kept
    | with_reducible apply injDone_kept
    | with_reducible apply modLane_kept
    | with_reducible apply sendPacket_kept
    | (simp only [kept_mk_iff]; with_reducible exact Kept.parts ‹_›)
    | split
    | (simp only [kept_mk_iff]; with_reducible refine Kept.parts ?_)

theorem sendAbort_kept {frame cause lane : Nat} (H0 : Kept Q K s) :
    Kept Q K (sendAbort frame cause lane s) := by
  delta sendAbort
  repeat' first
    | with_reducible assumption
    | intro _
    | with_reducible apply kept_ite
    | with_reducible apply sendCutting_kept

theorem sendCommit_kept {frame : Nat} {sig : Word} {lane : Nat} (H0 : Kept Q K s) :
    Kept Q K (sendCommit frame sig lane s) := by
  delta sendCommit
  repeat' first
    | with_reducible assumption
    | intro _
    | with_reducible apply kept_ite
    | with_reducible apply addF_kept
    | with_reducible apply sendClosed_kept
    | with_reducible apply setF_kept

theorem execEchoCompare_kept {lane : Fin 1024} {seen : Option Word} {codeErrors : Bool} (H0 : Kept Q K s) :
    Answers (Kept Q K) (execEchoCompare lane seen codeErrors s) := by
  delta execEchoCompare
  repeat' first
    | with_reducible assumption
    | intro _
    | (extract_lets +onlyGivenNames t; refine (have ht : Kept Q K t := ?_; ?_); subst t; rotate_left; clear_value t)
    | (extract_lets +onlyGivenNames t; clear_value t)
    | with_reducible apply kept_ite
    | with_reducible apply countF_kept
    | with_reducible apply each_kept
    | with_reducible apply ifS_kept
    | with_reducible apply laneCause_kept
    | with_reducible apply modLane_kept
    | with_reducible apply sendAbort_kept
    | with_reducible apply sendCommit_kept
    | with_reducible apply settleRows_kept
    | with_reducible apply answers_next
    | with_reducible apply answers_ite
    | (simp only [kept_mk_iff]; with_reducible exact Kept.parts ‹_›)
    | split
    | (simp only [kept_mk_iff]; with_reducible refine Kept.parts ?_)

theorem execPatternWordRx_kept {lane : Fin 1024} {groups : List Nat} (H0 : Kept Q K s) :
    Answers (Kept Q K) (execPatternWordRx lane groups s) := by
  delta execPatternWordRx
  repeat' first
    | with_reducible assumption
    | intro _
    | (extract_lets +onlyGivenNames t; refine (have ht : Kept Q K t := ?_; ?_); subst t; rotate_left; clear_value t)
    | (extract_lets +onlyGivenNames t; refine (have ht : Kept Q K t.2 := ?_; ?_); subst t; rotate_left; clear_value t)
    | (extract_lets +onlyGivenNames t; refine (have ht : Kept Q K t.1 := ?_; ?_); subst t; rotate_left; clear_value t)
    | (extract_lets +onlyGivenNames t; refine (have ht : Kept Q K t.1.1 := ?_; ?_); subst t; rotate_left; clear_value t)
    | (extract_lets +onlyGivenNames t; clear_value t)
    | with_reducible apply kept_ite
    | with_reducible apply State.setLane_kept
    | with_reducible apply countF_kept
    | with_reducible apply each_kept
    | with_reducible apply ifS_kept
    | with_reducible apply rxWord_kept
    | with_reducible apply setB_kept
    | with_reducible apply answers_next
    | with_reducible apply answers_ite
    | (simp only [kept_mk_iff]; with_reducible exact Kept.parts ‹_›)
    | split
    | (simp only [kept_mk_iff]; with_reducible refine Kept.parts ?_)

theorem lnkUp_kept {p : Nat} (H0 : Kept Q K s) :
    Kept Q K (lnkUp p s) := by
  delta lnkUp
  repeat' first
    | with_reducible assumption
    | intro _
    | with_reducible apply kept_ite
    | with_reducible apply each_kept
    | with_reducible apply startLane_kept

theorem lnkDown_kept {p : Nat} (H0 : Kept Q K s) :
    Kept Q K (lnkDown p s) := by
  delta lnkDown
  repeat' first
    | with_reducible assumption
    | intro _
    | with_reducible apply kept_ite
    | with_reducible apply disableLane_kept
    | with_reducible apply each_kept

theorem lnkFault_kept {p code : Nat} (H0 : Kept Q K s) :
    Kept Q K (lnkFault p code s) := by
  delta lnkFault
  repeat' first
    | with_reducible assumption
    | intro _
    | with_reducible apply kept_ite
    | with_reducible apply enterFault_kept
    | with_reducible apply lnkDown_kept

theorem unlocked_kept (H0 : Kept Q K s) :
    Kept Q K (unlocked s) := by
  delta unlocked
  repeat' first
    | with_reducible assumption
    | intro _
    | with_reducible apply kept_ite
    | with_reducible apply countF_kept
    | with_reducible apply raise_kept

theorem unlockLanes_kept {p : Nat} (H0 : Kept Q K s) :
    Kept Q K (unlockLanes p s) := by
  delta unlockLanes
  repeat' first
    | with_reducible assumption
    | intro _
    | with_reducible apply kept_ite
    | with_reducible apply ifS_kept
    | with_reducible apply lnkFault_kept
    | with_reducible apply unlocked_kept

theorem execLanePllUnlock_kept {lane : Fin 1024} (H0 : Kept Q K s) :
    Answers (Kept Q K) (execLanePllUnlock lane s) := by
  delta execLanePllUnlock
  repeat' first
    | with_reducible assumption
    | intro _
    | with_reducible apply kept_ite
    | with_reducible apply unlockLanes_kept
    | with_reducible apply answers_next
    | with_reducible apply answers_ite

end Sys2Proof.Machine
end

