-- ==== Sys2Proof/Laws/Kept/Cue.lean ====
section
/-!
SUPPORT. Every operation of Machine/Cue.lean keeps the queue and the canonical form.
-/

namespace Sys2Proof.Machine

set_option linter.unusedTactic false
set_option linter.unreachableTactic false
set_option linter.unusedSimpArgs false

variable {Q : List Instr} {K : Prop} {s : State}

theorem showList_kept {l : Nat} (H0 : Kept Q K s) :
    Kept Q K (showList l s) := by
  delta showList
  repeat' first
    | with_reducible assumption
    | intro _
    | (extract_lets +onlyGivenNames t; refine (have ht : Kept Q K t := ?_; ?_); subst t; rotate_left; clear_value t)
    | (extract_lets +onlyGivenNames t; clear_value t)
    | with_reducible apply kept_ite
    | with_reducible apply setB_kept
    | with_reducible apply setF_kept

theorem acceptList_kept {c : Cmd} {ws : List Word} (H0 : Kept Q K s) :
    Kept Q K (acceptList c ws s) := by
  delta acceptList
  repeat' first
    | with_reducible assumption
    | intro _
    | (extract_lets +onlyGivenNames t; refine (have ht : Kept Q K t := ?_; ?_); subst t; rotate_left; clear_value t)
    | (extract_lets +onlyGivenNames t; clear_value t)
    | with_reducible apply kept_ite
    | with_reducible apply State.setCueList_kept
    | with_reducible apply answer_kept
    | with_reducible apply setF_kept
    | with_reducible apply showList_kept
    | split

theorem refuseList_kept {c : Cmd} {ws : List Word} {r : Nat} (H0 : Kept Q K s) :
    Kept Q K (refuseList c ws r s) := by
  delta refuseList
  repeat' first
    | with_reducible assumption
    | intro _
    | with_reducible apply kept_ite
    | with_reducible apply countF_kept
    | with_reducible apply ifS_kept
    | with_reducible apply raise_kept
    | with_reducible apply refuse_kept
    | with_reducible apply setF_kept

theorem judgeLoad_kept {s0 : State} {c : Cmd} (H0 : Kept Q K s) :
    Kept Q K (judgeLoad s0 c s) := by
  delta judgeLoad
  repeat' first
    | with_reducible assumption
    | intro _
    | (extract_lets +onlyGivenNames t; refine (have ht : Kept Q K t := ?_; ?_); subst t; rotate_left; clear_value t)
    | (extract_lets +onlyGivenNames t; clear_value t)
    | with_reducible apply kept_ite
    | with_reducible apply abortOperand_kept
    | with_reducible apply answer_kept
    | with_reducible apply refuseList_kept
    | split

theorem loadOne_kept {c : Cmd} (H0 : Kept Q K s) :
    Kept Q K (loadOne c s) := by
  delta loadOne
  repeat' first
    | with_reducible assumption
    | intro _
    | with_reducible apply kept_ite
    | with_reducible apply acceptList_kept
    | with_reducible apply judgeLoad_kept
    | split

theorem settleLoads_kept {l : Nat} {cs : List Cmd} (H0 : Kept Q K s) :
    Kept Q K (settleLoads l cs s) := by
  delta settleLoads
  repeat' first
    | with_reducible assumption
    | intro _
    | (extract_lets +onlyGivenNames t; refine (have ht : Kept Q K t := ?_; ?_); subst t; rotate_left; clear_value t)
    | (extract_lets +onlyGivenNames t; clear_value t)
    | with_reducible apply kept_ite
    | with_reducible apply acceptList_kept
    | with_reducible apply answer_kept
    | with_reducible apply each_kept
    | with_reducible apply ifS_kept
    | with_reducible apply setF_kept
    | (simp only [kept_mk_iff]; with_reducible exact Kept.parts ‹_›)
    | split
    | (simp only [kept_mk_iff]; with_reducible refine Kept.parts ?_)

theorem loadCycle_kept {cs : List Cmd} (H0 : Kept Q K s) :
    Kept Q K (loadCycle cs s) := by
  delta loadCycle
  repeat' first
    | with_reducible assumption
    | intro _
    | (extract_lets +onlyGivenNames t; refine (have ht : Kept Q K t := ?_; ?_); subst t; rotate_left; clear_value t)
    | (extract_lets +onlyGivenNames t; clear_value t)
    | with_reducible apply kept_ite
    | with_reducible apply each_kept
    | with_reducible apply judgeLoad_kept
    | with_reducible apply loadOne_kept
    | with_reducible apply settleLoads_kept

theorem execCueLoad_kept {cs : List Cmd} (H0 : Kept Q K s) :
    Answers (Kept Q K) (execCueLoad cs s) := by
  delta execCueLoad
  repeat' first
    | with_reducible assumption
    | intro _
    | with_reducible apply kept_ite
    | with_reducible apply loadCycle_kept
    | with_reducible apply runTies_kept
    | with_reducible apply answers_next
    | with_reducible apply answers_ite
    | split

theorem freeList_kept {l : Nat} (H0 : Kept Q K s) :
    Kept Q K (freeList l s) := by
  delta freeList
  repeat' first
    | with_reducible assumption
    | intro _
    | with_reducible apply kept_ite
    | with_reducible apply State.setCueList_kept
    | with_reducible apply showList_kept

theorem execCueStop_kept {c : Cmd} (H0 : Kept Q K s) :
    Answers (Kept Q K) (execCueStop c s) := by
  delta execCueStop
  repeat' first
    | with_reducible assumption
    | intro _
    | (extract_lets +onlyGivenNames t; refine (have ht : Kept Q K t := ?_; ?_); subst t; rotate_left; clear_value t)
    | (extract_lets +onlyGivenNames t; clear_value t)
    | with_reducible apply kept_ite
    | with_reducible apply answer_kept
    | with_reducible apply freeList_kept
    | with_reducible apply runCmd_kept
    | with_reducible apply answers_next
    | with_reducible apply answers_ite
    | split

theorem execCuePreset_kept {c : Cmd} (H0 : Kept Q K s) :
    Answers (Kept Q K) (execCuePreset c s) := by
  delta execCuePreset
  repeat' first
    | with_reducible assumption
    | intro _
    | (extract_lets +onlyGivenNames t; refine (have ht : Kept Q K t := ?_; ?_); subst t; rotate_left; clear_value t)
    | (extract_lets +onlyGivenNames t; clear_value t)
    | with_reducible apply kept_ite
    | with_reducible apply answer_kept
    | with_reducible apply asmRefuse_kept
    | with_reducible apply runCmd_kept
    | with_reducible apply withLen_kept
    | with_reducible apply answers_next
    | with_reducible apply answers_ite
    | (simp only [kept_mk_iff]; with_reducible exact Kept.parts ‹_›)
    | split
    | (simp only [kept_mk_iff]; with_reducible refine Kept.parts ?_)

theorem advanceList_kept {l n : Nat} (H0 : Kept Q K s) : Kept Q K (advanceList l n s) := by
  induction n generalizing s with
  | zero => exact H0
  | succ n ih =>
    unfold advanceList
    exact kept_ite (kept_ite (ih (State.setCueList_kept H0)) (kept_ite (ih (addF_kept (State.setCueList_kept H0)))
      (raise_kept (State.setCueList_kept H0)))) H0

theorem markDone_kept {l : Nat} {e : Nat × Nat} (H0 : Kept Q K s) :
    Kept Q K (markDone l e s) := by
  delta markDone
  repeat' first
    | with_reducible assumption
    | intro _
    | (extract_lets +onlyGivenNames t; refine (have ht : Kept Q K t := ?_; ?_); subst t; rotate_left; clear_value t)
    | (extract_lets +onlyGivenNames t; clear_value t)
    | with_reducible apply kept_ite
    | with_reducible apply State.setCueList_kept
    | with_reducible apply advanceList_kept
    | with_reducible apply showList_kept
    | (simp only [kept_mk_iff]; with_reducible exact Kept.parts ‹_›)
    | (simp only [kept_mk_iff]; with_reducible refine Kept.parts ?_)

theorem skipEntry_kept {l : Nat} {e : Nat × Nat} (H0 : Kept Q K s) :
    Kept Q K (skipEntry l e s) := by
  delta skipEntry
  repeat' first
    | with_reducible assumption
    | intro _
    | with_reducible apply kept_ite
    | with_reducible apply countF_kept
    | with_reducible apply markDone_kept
    | with_reducible apply setF_kept

theorem cueAction_kept {l : Nat} {e : CueEntry} {i g fs fl : Nat} (H0 : Kept Q K s) :
    Kept Q K (cueAction l e i g fs fl s) := by
  delta cueAction
  repeat' first
    | with_reducible assumption
    | intro _
    | (extract_lets +onlyGivenNames t; refine (have ht : Kept Q K t := ?_; ?_); subst t; rotate_left; clear_value t)
    | (extract_lets +onlyGivenNames t; clear_value t)
    | with_reducible apply kept_ite
    | with_reducible apply State.setAlphaOv_kept
    | with_reducible apply State.setTimer_kept
    | with_reducible apply raise_kept
    | with_reducible apply setF_kept
    | with_reducible apply setWindow_kept
    | (simp only [kept_mk_iff]; with_reducible exact Kept.parts ‹_›)
    | split
    | (simp only [kept_mk_iff]; with_reducible refine Kept.parts ?_)

theorem applyEntry_kept {l : Nat} {e : Nat × Nat} {g fs fl late : Nat} (H0 : Kept Q K s) :
    Kept Q K (applyEntry l e g fs fl late s) := by
  delta applyEntry
  repeat' first
    | with_reducible assumption
    | intro _
    | (extract_lets +onlyGivenNames t; refine (have ht : Kept Q K t := ?_; ?_); subst t; rotate_left; clear_value t)
    | (extract_lets +onlyGivenNames t; clear_value t)
    | with_reducible apply kept_ite
    | with_reducible apply State.setCueList_kept
    | with_reducible apply addF_kept
    | with_reducible apply countF_kept
    | with_reducible apply cueAction_kept
    | with_reducible apply ifS_kept
    | with_reducible apply markDone_kept
    | with_reducible apply setF_kept
    | (simp only [kept_mk_iff]; with_reducible exact Kept.parts ‹_›)
    | (simp only [kept_mk_iff]; with_reducible refine Kept.parts ?_)

theorem runLate_kept {l g fs fl : Nat} {es : List (Nat × Nat)} (H0 : Kept Q K s) :
    Kept Q K (runLate l g fs fl es s) := by
  delta runLate
  repeat' first
    | with_reducible assumption
    | intro _
    | (extract_lets +onlyGivenNames t; refine (have ht : Kept Q K t := ?_; ?_); subst t; rotate_left; clear_value t)
    | (extract_lets +onlyGivenNames t; clear_value t)
    | with_reducible apply kept_ite
    | with_reducible apply State.setCueList_kept
    | with_reducible apply applyEntry_kept
    | with_reducible apply each_kept
    | with_reducible apply ifS_kept
    | with_reducible apply raise_kept
    | (simp only [kept_mk_iff]; with_reducible exact Kept.parts ‹_›)
    | split
    | (simp only [kept_mk_iff]; with_reducible refine Kept.parts ?_)

theorem runEntries_kept {sel : CueList → Nat × Nat → Bool} {g fs fl : Nat} {prev : Option Nat} (H0 : Kept Q K s) :
    Kept Q K (runEntries sel g fs fl prev s) := by
  delta runEntries
  repeat' first
    | with_reducible assumption
    | intro _
    | with_reducible apply hg
    | (extract_lets +onlyGivenNames t; refine (have ht : Kept Q K t := ?_; ?_); subst t; rotate_left; clear_value t)
    | (extract_lets +onlyGivenNames t; refine (have hg : ∀ x, Kept Q K x → Kept Q K (t x) := ?_; ?_); subst t; rotate_left; clear_value t)
    | (extract_lets +onlyGivenNames t; refine (have hg : ∀ a x, Kept Q K x → Kept Q K (t a x) := ?_; ?_); subst t; rotate_left; clear_value t)
    | (extract_lets +onlyGivenNames t; refine (have hg : ∀ a b x, Kept Q K x → Kept Q K (t a b x) := ?_; ?_); subst t; rotate_left; clear_value t)
    | (extract_lets +onlyGivenNames t; clear_value t)
    | with_reducible apply kept_ite
    | with_reducible apply State.setCueList_kept
    | with_reducible apply applyEntry_kept
    | with_reducible apply each_kept
    | with_reducible apply runLate_kept
    | with_reducible apply skipEntry_kept
    | (simp only [kept_mk_iff]; with_reducible exact Kept.parts ‹_›)
    | split
    | (simp only [kept_mk_iff]; with_reducible refine Kept.parts ?_)

theorem cuesAtFl_kept {g fs fl : Nat} {prev : Option Nat} (H0 : Kept Q K s) :
    Kept Q K (cuesAtFl g fs fl prev s) := by
  delta cuesAtFl
  repeat' first
    | with_reducible assumption
    | intro _
    | with_reducible apply kept_ite
    | with_reducible apply runEntries_kept

theorem cuesPaced_kept {g : Nat} (H0 : Kept Q K s) :
    Kept Q K (cuesPaced g s) := by
  delta cuesPaced
  repeat' first
    | with_reducible assumption
    | intro _
    | (extract_lets +onlyGivenNames t; refine (have ht : Kept Q K t := ?_; ?_); subst t; rotate_left; clear_value t)
    | (extract_lets +onlyGivenNames t; clear_value t)
    | with_reducible apply kept_ite
    | with_reducible apply runEntries_kept
    | split

theorem execCueSkip_kept {l : Fin 8} (H0 : Kept Q K s) :
    Answers (Kept Q K) (execCueSkip l s) := by
  delta execCueSkip
  repeat' first
    | with_reducible assumption
    | intro _
    | with_reducible apply kept_ite
    | with_reducible apply skipEntry_kept
    | with_reducible apply answers_next
    | with_reducible apply answers_ite
    | (simp only [kept_mk_iff]; with_reducible exact Kept.parts ‹_›)
    | split
    | (simp only [kept_mk_iff]; with_reducible refine Kept.parts ?_)

theorem skipReached_kept {g : Nat} (H0 : Kept Q K s) :
    Kept Q K (skipReached g s) := by
  delta skipReached
  repeat' first
    | with_reducible assumption
    | intro _
    | with_reducible apply kept_ite
    | with_reducible apply each_kept
    | with_reducible apply skipEntry_kept
    | split

theorem execBuildStart_kept {plane : Fin 256} (H0 : Kept Q K s) :
    Answers (Kept Q K) (execBuildStart plane s) := by
  delta execBuildStart
  repeat' first
    | with_reducible assumption
    | intro _
    | (extract_lets +onlyGivenNames t; refine (have ht : Kept Q K t := ?_; ?_); subst t; rotate_left; clear_value t)
    | (extract_lets +onlyGivenNames t; clear_value t)
    | with_reducible apply kept_ite
    | with_reducible apply cuesPaced_kept
    | with_reducible apply startBuild_kept
    | with_reducible apply answers_next
    | with_reducible apply answers_ite
    | (simp only [kept_mk_iff]; with_reducible exact Kept.parts ‹_›)
    | split
    | (simp only [kept_mk_iff]; with_reducible refine Kept.parts ?_)

theorem cueReset_kept (H0 : Kept Q K s) :
    Kept Q K (cueReset s) := by
  delta cueReset
  repeat' first
    | with_reducible assumption
    | intro _
    | with_reducible apply kept_ite
    | with_reducible apply each_kept
    | with_reducible apply showList_kept
    | (simp only [kept_mk_iff]; with_reducible exact Kept.parts ‹_›)
    | (simp only [kept_mk_iff]; with_reducible refine Kept.parts ?_)

end Sys2Proof.Machine
end

