-- ==== Sys2Proof/Laws/Kept/Raster.lean ====
section
/-!
SUPPORT. Every operation of Machine/Raster.lean keeps the queue and the canonical form.
-/

namespace Sys2Proof.Machine

set_option linter.unusedTactic false
set_option linter.unreachableTactic false
set_option linter.unusedSimpArgs false

variable {Q : List Instr} {K : Prop} {s : State}

theorem fixNext_kept {g n fs : Nat} {lead : Nat} (H0 : Kept Q K s) :
    Kept Q K (fixNext g n fs lead s) := by
  delta fixNext
  repeat' first
    | with_reducible assumption
    | intro _
    | (extract_lets +onlyGivenNames t; refine (have ht : Kept Q K t := ?_; ?_); subst t; rotate_left; clear_value t)
    | (extract_lets +onlyGivenNames t; clear_value t)
    | with_reducible apply kept_ite
    | with_reducible apply State.setGrp_kept
    | with_reducible apply placeFrameEdges_kept
    | with_reducible apply queueGroupBuilds_kept
    | (simp only [kept_mk_iff]; with_reducible exact Kept.parts ‹_›)
    | (simp only [kept_mk_iff]; with_reducible refine Kept.parts ?_)

theorem chooseFirst_kept {g : Nat} (H0 : Kept Q K s) :
    Kept Q K (chooseFirst g s) := by
  delta chooseFirst
  repeat' first
    | with_reducible assumption
    | intro _
    | (extract_lets +onlyGivenNames t; refine (have ht : Kept Q K t := ?_; ?_); subst t; rotate_left; clear_value t)
    | (extract_lets +onlyGivenNames t; clear_value t)
    | with_reducible apply kept_ite
    | with_reducible apply State.setGrp_kept
    | with_reducible apply fixNext_kept
    | with_reducible apply resync_kept
    | with_reducible apply setF_kept
    | with_reducible apply skipReached_kept
    | (simp only [kept_mk_iff]; with_reducible exact Kept.parts ‹_›)
    | (simp only [kept_mk_iff]; with_reducible refine Kept.parts ?_)

theorem leaveShed_kept {fan : Nat} (H0 : Kept Q K s) :
    Kept Q K (leaveShed fan s) := by
  delta leaveShed
  repeat' first
    | with_reducible assumption
    | intro _
    | (extract_lets +onlyGivenNames t; refine (have ht : Kept Q K t := ?_; ?_); subst t; rotate_left; clear_value t)
    | (extract_lets +onlyGivenNames t; clear_value t)
    | with_reducible apply kept_ite
    | with_reducible apply clearF_kept
    | with_reducible apply raise_kept
    | with_reducible apply setF_kept

theorem leaveShedOf_kept {g : Nat} (H0 : Kept Q K s) :
    Kept Q K (leaveShedOf g s) := by
  delta leaveShedOf
  repeat' first
    | with_reducible assumption
    | intro _
    | with_reducible apply kept_ite
    | with_reducible apply each_kept
    | with_reducible apply leaveShed_kept

theorem groupDown_kept {g : Nat} (H0 : Kept Q K s) :
    Kept Q K (groupDown g s) := by
  delta groupDown
  repeat' first
    | with_reducible assumption
    | intro _
    | (extract_lets +onlyGivenNames t; refine (have ht : Kept Q K t := ?_; ?_); subst t; rotate_left; clear_value t)
    | (extract_lets +onlyGivenNames t; clear_value t)
    | with_reducible apply kept_ite
    | with_reducible apply State.setGrp_kept
    | with_reducible apply dropRays_kept
    | with_reducible apply each_kept
    | with_reducible apply endLeases_kept
    | with_reducible apply exportStill_kept
    | with_reducible apply leaveShedOf_kept
    | with_reducible apply modLane_kept
    | with_reducible apply resync_kept
    | with_reducible apply setF_kept
    | with_reducible apply settleRows_kept
    | (simp only [kept_mk_iff]; with_reducible exact Kept.parts ‹_›)
    | split
    | (simp only [kept_mk_iff]; with_reducible refine Kept.parts ?_)

theorem sendAborts_kept {g cause : Nat} (H0 : Kept Q K s) :
    Kept Q K (sendAborts g cause s) := by
  delta sendAborts
  repeat' first
    | with_reducible assumption
    | intro _
    | with_reducible apply kept_ite
    | with_reducible apply each_kept
    | with_reducible apply ifS_kept
    | with_reducible apply sendAbort_kept

theorem endAborted_kept {g cause lane row : Nat} (H0 : Kept Q K s) :
    Kept Q K (endAborted g cause lane row s) := by
  delta endAborted
  repeat' first
    | with_reducible assumption
    | intro _
    | (extract_lets +onlyGivenNames t; refine (have ht : Kept Q K t := ?_; ?_); subst t; rotate_left; clear_value t)
    | (extract_lets +onlyGivenNames t; clear_value t)
    | with_reducible apply kept_ite
    | with_reducible apply State.setGrp_kept
    | with_reducible apply countF_kept
    | with_reducible apply dropRays_kept
    | with_reducible apply each_kept
    | with_reducible apply endLeases_kept
    | with_reducible apply probesAbort_kept
    | with_reducible apply raise_kept
    | with_reducible apply setF_kept
    | with_reducible apply settleRows_kept
    | (simp only [kept_mk_iff]; with_reducible exact Kept.parts ‹_›)
    | (simp only [kept_mk_iff]; with_reducible refine Kept.parts ?_)

theorem abortFrame_kept {g cause lane row : Nat} (H0 : Kept Q K s) :
    Kept Q K (abortFrame g cause lane row s) := by
  delta abortFrame
  repeat' first
    | with_reducible assumption
    | intro _
    | with_reducible apply kept_ite
    | with_reducible apply endAborted_kept
    | with_reducible apply sendAborts_kept

theorem latchPlane_kept {g fs : Nat} {i : Nat} (H0 : Kept Q K s) :
    Kept Q K (latchPlane g fs i s) := by
  delta latchPlane
  repeat' first
    | with_reducible assumption
    | intro _
    | with_reducible apply hg
    | (extract_lets +onlyGivenNames t; refine (have ht : Kept Q K t := ?_; ?_); subst t; rotate_left; clear_value t)
    | (extract_lets +onlyGivenNames t; refine (have hg : ∀ x, Kept Q K x → Kept Q K (t x) := ?_; ?_); subst t; rotate_left; clear_value t)
    | (extract_lets +onlyGivenNames t; refine (have hg : ∀ a x, Kept Q K x → Kept Q K (t a x) := ?_; ?_); subst t; rotate_left; clear_value t)
    | (extract_lets +onlyGivenNames t; refine (have hg : ∀ a b x, Kept Q K x → Kept Q K (t a b x) := ?_; ?_); subst t; rotate_left; clear_value t)
    | (extract_lets +onlyGivenNames t; clear_value t)
    | with_reducible apply kept_ite
    | with_reducible apply State.setGrp_kept
    | with_reducible apply addLease_kept
    | with_reducible apply countF_kept
    | with_reducible apply raise_kept
    | with_reducible apply setB_kept
    | with_reducible apply setF_kept
    | (simp only [kept_mk_iff]; with_reducible exact Kept.parts ‹_›)
    | split
    | (simp only [kept_mk_iff]; with_reducible refine Kept.parts ?_)
    | with_reducible apply_assumption

theorem latchConfig_kept {g : Nat} (H0 : Kept Q K s) :
    Kept Q K (latchConfig g s) := by
  delta latchConfig
  repeat' first
    | with_reducible assumption
    | intro _
    | (extract_lets +onlyGivenNames t; refine (have ht : Kept Q K t := ?_; ?_); subst t; rotate_left; clear_value t)
    | (extract_lets +onlyGivenNames t; clear_value t)
    | with_reducible apply kept_ite
    | with_reducible apply State.setGrp_kept
    | with_reducible apply State.setSlot_kept
    | with_reducible apply setF_kept
    | (simp only [kept_mk_iff]; with_reducible exact Kept.parts ‹_›)
    | split
    | (simp only [kept_mk_iff]; with_reducible refine Kept.parts ?_)

theorem takeEarly_kept (H0 : Kept Q K s) :
    Kept Q K (takeEarly s) := by
  delta takeEarly
  repeat' first
    | with_reducible assumption
    | intro _
    | (extract_lets +onlyGivenNames t; refine (have ht : Kept Q K t := ?_; ?_); subst t; rotate_left; clear_value t)
    | (extract_lets +onlyGivenNames t; clear_value t)
    | with_reducible apply kept_ite
    | (simp only [kept_mk_iff]; with_reducible exact Kept.parts ‹_›)
    | split
    | (simp only [kept_mk_iff]; with_reducible refine Kept.parts ?_)

theorem latchPictures_kept {g fs : Nat} (H0 : Kept Q K s) :
    Kept Q K (latchPictures g fs s) := by
  delta latchPictures
  repeat' first
    | with_reducible assumption
    | intro _
    | (extract_lets +onlyGivenNames t; refine (have ht : Kept Q K t := ?_; ?_); subst t; rotate_left; clear_value t)
    | (extract_lets +onlyGivenNames t; clear_value t)
    | with_reducible apply kept_ite
    | with_reducible apply State.setGrp_kept
    | with_reducible apply each_kept
    | with_reducible apply latchPlane_kept
    | with_reducible apply takeEarly_kept
    | (simp only [kept_mk_iff]; with_reducible exact Kept.parts ‹_›)
    | split
    | (simp only [kept_mk_iff]; with_reducible refine Kept.parts ?_)

theorem latchTile_kept {g base : Nat} (H0 : Kept Q K s) :
    Kept Q K (latchTile g base s) := by
  delta latchTile
  repeat' first
    | with_reducible assumption
    | intro _
    | with_reducible apply hg
    | (extract_lets +onlyGivenNames t; refine (have ht : Kept Q K t := ?_; ?_); subst t; rotate_left; clear_value t)
    | (extract_lets +onlyGivenNames t; refine (have hg : ∀ x, Kept Q K x → Kept Q K (t x) := ?_; ?_); subst t; rotate_left; clear_value t)
    | (extract_lets +onlyGivenNames t; refine (have hg : ∀ a x, Kept Q K x → Kept Q K (t a x) := ?_; ?_); subst t; rotate_left; clear_value t)
    | (extract_lets +onlyGivenNames t; refine (have hg : ∀ a b x, Kept Q K x → Kept Q K (t a b x) := ?_; ?_); subst t; rotate_left; clear_value t)
    | (extract_lets +onlyGivenNames t; clear_value t)
    | with_reducible apply kept_ite
    | with_reducible apply State.setGrp_kept
    | with_reducible apply State.setPool_kept
    | with_reducible apply each_kept
    | with_reducible apply ifS_kept
    | with_reducible apply modLane_kept
    | with_reducible apply sendMode_kept
    | with_reducible apply showPool_kept
    | (simp only [kept_mk_iff]; with_reducible exact Kept.parts ‹_›)
    | split
    | (simp only [kept_mk_iff]; with_reducible refine Kept.parts ?_)

theorem endEarly_kept (H0 : Kept Q K s) :
    Kept Q K (endEarly s) := by
  delta endEarly
  repeat' first
    | with_reducible assumption
    | intro _
    | (extract_lets +onlyGivenNames t; refine (have ht : Kept Q K t := ?_; ?_); subst t; rotate_left; clear_value t)
    | (extract_lets +onlyGivenNames t; clear_value t)
    | with_reducible apply kept_ite
    | with_reducible apply State.setGrp_kept
    | (simp only [kept_mk_iff]; with_reducible exact Kept.parts ‹_›)
    | (simp only [kept_mk_iff]; with_reducible refine Kept.parts ?_)

theorem frameLatch_kept {g : Nat} (H0 : Kept Q K s) :
    Kept Q K (frameLatch g s) := by
  delta frameLatch
  repeat' first
    | with_reducible assumption
    | intro _
    | (extract_lets +onlyGivenNames t; refine (have ht : Kept Q K t := ?_; ?_); subst t; rotate_left; clear_value t)
    | (extract_lets +onlyGivenNames t; clear_value t)
    | with_reducible apply kept_ite
    | with_reducible apply State.setGrp_kept
    | with_reducible apply State.setInjLive_kept
    | with_reducible apply cuesAtFl_kept
    | with_reducible apply each_kept
    | with_reducible apply endAborted_kept
    | with_reducible apply endEarly_kept
    | with_reducible apply exportStill_kept
    | with_reducible apply fixNext_kept
    | with_reducible apply ifS_kept
    | with_reducible apply latchConfig_kept
    | with_reducible apply latchPictures_kept
    | with_reducible apply latchProbe_kept
    | with_reducible apply latchTile_kept
    | with_reducible apply leaveShedOf_kept
    | with_reducible apply raise_kept
    | with_reducible apply resync_kept
    | with_reducible apply sendAborts_kept
    | with_reducible apply setF_kept
    | with_reducible apply setState_kept
    | with_reducible apply settleRows_kept
    | with_reducible apply takeBanks_kept
    | (simp only [kept_mk_iff]; with_reducible exact Kept.parts ‹_›)
    | split
    | (simp only [kept_mk_iff]; with_reducible refine Kept.parts ?_)

theorem execFrameLatch_kept {g : Fin 4} (H0 : Kept Q K s) :
    Answers (Kept Q K) (execFrameLatch g s) := by
  delta execFrameLatch
  repeat' first
    | with_reducible assumption
    | intro _
    | with_reducible apply kept_ite
    | with_reducible apply frameLatch_kept
    | with_reducible apply ifS_kept
    | with_reducible apply answers_next
    | with_reducible apply answers_ite

theorem beginLeases_kept {g : Nat} (H0 : Kept Q K s) :
    Kept Q K (beginLeases g s) := by
  delta beginLeases
  repeat' first
    | with_reducible assumption
    | intro _
    | (extract_lets +onlyGivenNames t; refine (have ht : Kept Q K t := ?_; ?_); subst t; rotate_left; clear_value t)
    | (extract_lets +onlyGivenNames t; clear_value t)
    | with_reducible apply kept_ite
    | (simp only [kept_mk_iff]; with_reducible exact Kept.parts ‹_›)
    | split
    | (simp only [kept_mk_iff]; with_reducible refine Kept.parts ?_)

theorem frameStarts_kept {g : Nat} (H0 : Kept Q K s) :
    Kept Q K (frameStarts g s) := by
  delta frameStarts
  repeat' first
    | with_reducible assumption
    | intro _
    | (extract_lets +onlyGivenNames t; refine (have ht : Kept Q K t := ?_; ?_); subst t; rotate_left; clear_value t)
    | (extract_lets +onlyGivenNames t; clear_value t)
    | with_reducible apply kept_ite
    | with_reducible apply State.setGrp_kept
    | with_reducible apply beginLeases_kept
    | with_reducible apply each_kept
    | with_reducible apply endLeases_kept
    | with_reducible apply ifS_kept
    | with_reducible apply probeAtFs_kept
    | with_reducible apply raise_kept
    | with_reducible apply resync_kept
    | with_reducible apply setB_kept
    | with_reducible apply setF_kept
    | (simp only [kept_mk_iff]; with_reducible exact Kept.parts ‹_›)
    | (simp only [kept_mk_iff]; with_reducible refine Kept.parts ?_)

theorem execFrameStart_kept {g : Fin 4} (H0 : Kept Q K s) :
    Answers (Kept Q K) (execFrameStart g s) := by
  delta execFrameStart
  repeat' first
    | with_reducible assumption
    | intro _
    | (extract_lets +onlyGivenNames t; refine (have ht : Kept Q K t := ?_; ?_); subst t; rotate_left; clear_value t)
    | (extract_lets +onlyGivenNames t; clear_value t)
    | with_reducible apply kept_ite
    | with_reducible apply frameStarts_kept
    | with_reducible apply ifS_kept
    | with_reducible apply answers_next
    | with_reducible apply answers_ite

theorem shedStep_kept {fan g : Nat} (H0 : Kept Q K s) :
    Kept Q K (shedStep fan g s) := by
  delta shedStep
  repeat' first
    | with_reducible assumption
    | intro _
    | (extract_lets +onlyGivenNames t; refine (have ht : Kept Q K t := ?_; ?_); subst t; rotate_left; clear_value t)
    | (extract_lets +onlyGivenNames t; clear_value t)
    | with_reducible apply kept_ite
    | with_reducible apply State.setFan_kept
    | with_reducible apply State.setPool_kept
    | with_reducible apply countF_kept
    | with_reducible apply each_kept
    | with_reducible apply setF_kept
    | (simp only [kept_mk_iff]; with_reducible exact Kept.parts ‹_›)
    | (simp only [kept_mk_iff]; with_reducible refine Kept.parts ?_)

theorem weirCheck_kept {lane : Nat} (H0 : Kept Q K s) :
    Kept Q K (weirCheck lane s) := by
  delta weirCheck
  repeat' first
    | with_reducible assumption
    | intro _
    | (extract_lets +onlyGivenNames t; refine (have ht : Kept Q K t := ?_; ?_); subst t; rotate_left; clear_value t)
    | (extract_lets +onlyGivenNames t; clear_value t)
    | with_reducible apply kept_ite
    | with_reducible apply countF_kept
    | with_reducible apply orF_kept
    | with_reducible apply raise_kept
    | with_reducible apply shedStep_kept
    | split

theorem keepDue_kept {lane r : Nat} {rays : List (Nat × Nat × Nat)} (H0 : Kept Q K s) :
    Kept Q K (keepDue lane r rays s) := by
  delta keepDue
  repeat' first
    | with_reducible assumption
    | intro _
    | (extract_lets +onlyGivenNames t; refine (have ht : Kept Q K t := ?_; ?_); subst t; rotate_left; clear_value t)
    | (extract_lets +onlyGivenNames t; clear_value t)
    | with_reducible apply kept_ite
    | with_reducible apply State.setTileCor_kept
    | (simp only [kept_mk_iff]; with_reducible exact Kept.parts ‹_›)
    | split
    | (simp only [kept_mk_iff]; with_reducible refine Kept.parts ?_)

theorem rowLeaves_kept {lane r : Nat} {rays : List (Nat × Nat × Nat)} (H0 : Kept Q K s) :
    Kept Q K (rowLeaves lane r rays s) := by
  delta rowLeaves
  repeat' first
    | with_reducible assumption
    | intro _
    | with_reducible apply hg
    | (extract_lets +onlyGivenNames t; refine (have ht : Kept Q K t := ?_; ?_); subst t; rotate_left; clear_value t)
    | (extract_lets +onlyGivenNames t; refine (have hg : ∀ x, Kept Q K x → Kept Q K (t x) := ?_; ?_); subst t; rotate_left; clear_value t)
    | (extract_lets +onlyGivenNames t; refine (have hg : ∀ a x, Kept Q K x → Kept Q K (t a x) := ?_; ?_); subst t; rotate_left; clear_value t)
    | (extract_lets +onlyGivenNames t; refine (have hg : ∀ a b x, Kept Q K x → Kept Q K (t a b x) := ?_; ?_); subst t; rotate_left; clear_value t)
    | (extract_lets +onlyGivenNames t; clear_value t)
    | with_reducible apply kept_ite
    | with_reducible apply State.setPool_kept
    | with_reducible apply copyToProbes_kept
    | with_reducible apply departRow_kept
    | with_reducible apply each_kept
    | with_reducible apply keepDue_kept
    | with_reducible apply setF_kept
    | with_reducible apply showPool_kept
    | with_reducible apply weirCheck_kept
    | (simp only [kept_mk_iff]; with_reducible exact Kept.parts ‹_›)
    | split
    | (simp only [kept_mk_iff]; with_reducible refine Kept.parts ?_)

theorem execRowDeparture_kept {lane : Fin 1024} (H0 : Kept Q K s) :
    Answers (Kept Q K) (execRowDeparture lane s) := by
  delta execRowDeparture
  repeat' first
    | with_reducible assumption
    | intro _
    | (extract_lets +onlyGivenNames t; refine (have ht : Kept Q K t := ?_; ?_); subst t; rotate_left; clear_value t)
    | (extract_lets +onlyGivenNames t; clear_value t)
    | with_reducible apply kept_ite
    | with_reducible apply State.setPool_kept
    | with_reducible apply abortFrame_kept
    | with_reducible apply rowLeaves_kept
    | with_reducible apply answers_next
    | with_reducible apply answers_ite
    | (simp only [kept_mk_iff]; with_reducible exact Kept.parts ‹_›)
    | split
    | (simp only [kept_mk_iff]; with_reducible refine Kept.parts ?_)

theorem writeApply_kept {g : Nat} (H0 : Kept Q K s) :
    Kept Q K (writeApply g s) := by
  delta writeApply
  repeat' first
    | with_reducible assumption
    | intro _
    | (extract_lets +onlyGivenNames t; refine (have ht : Kept Q K t := ?_; ?_); subst t; rotate_left; clear_value t)
    | (extract_lets +onlyGivenNames t; clear_value t)
    | with_reducible apply kept_ite
    | with_reducible apply State.setGrp_kept
    | with_reducible apply raise_kept
    | with_reducible apply setF_kept
    | (simp only [kept_mk_iff]; with_reducible exact Kept.parts ‹_›)
    | split
    | (simp only [kept_mk_iff]; with_reducible refine Kept.parts ?_)

theorem execRasModeApply_kept {who : Who} {g : Fin 4} (H0 : Kept Q K s) :
    Answers (Kept Q K) (execRasModeApply who g s) := by
  delta execRasModeApply
  repeat' first
    | with_reducible assumption
    | intro _
    | with_reducible apply kept_ite
    | with_reducible apply guardWrite_kept
    | with_reducible apply writeApply_kept
    | with_reducible apply answers_next
    | with_reducible apply answers_ite

theorem groupFault_kept {g code : Nat} (H0 : Kept Q K s) :
    Kept Q K (groupFault g code s) := by
  delta groupFault
  repeat' first
    | with_reducible assumption
    | intro _
    | with_reducible apply kept_ite
    | with_reducible apply enterFault_kept
    | with_reducible apply groupDown_kept

theorem groupStart_kept {g : Nat} (H0 : Kept Q K s) :
    Kept Q K (groupStart g s) := by
  delta groupStart
  repeat' first
    | with_reducible assumption
    | intro _
    | (extract_lets +onlyGivenNames t; refine (have ht : Kept Q K t := ?_; ?_); subst t; rotate_left; clear_value t)
    | (extract_lets +onlyGivenNames t; clear_value t)
    | with_reducible apply kept_ite
    | with_reducible apply State.setGrp_kept
    | with_reducible apply groupFault_kept
    | with_reducible apply setF_kept
    | (simp only [kept_mk_iff]; with_reducible exact Kept.parts ‹_›)
    | split
    | (simp only [kept_mk_iff]; with_reducible refine Kept.parts ?_)

theorem groupResumes_kept {g : Nat} (H0 : Kept Q K s) :
    Kept Q K (groupResumes g s) := by
  delta groupResumes
  repeat' first
    | with_reducible assumption
    | intro _
    | (extract_lets +onlyGivenNames t; refine (have ht : Kept Q K t := ?_; ?_); subst t; rotate_left; clear_value t)
    | (extract_lets +onlyGivenNames t; clear_value t)
    | with_reducible apply kept_ite
    | with_reducible apply State.setGrp_kept
    | with_reducible apply groupStart_kept
    | (simp only [kept_mk_iff]; with_reducible exact Kept.parts ‹_›)
    | (simp only [kept_mk_iff]; with_reducible refine Kept.parts ?_)

theorem groupStays_kept {g : Nat} (H0 : Kept Q K s) :
    Kept Q K (groupStays g s) := by
  delta groupStays
  repeat' first
    | with_reducible assumption
    | intro _
    | (extract_lets +onlyGivenNames t; refine (have ht : Kept Q K t := ?_; ?_); subst t; rotate_left; clear_value t)
    | (extract_lets +onlyGivenNames t; clear_value t)
    | with_reducible apply kept_ite
    | with_reducible apply State.setGrp_kept
    | (simp only [kept_mk_iff]; with_reducible exact Kept.parts ‹_›)
    | (simp only [kept_mk_iff]; with_reducible refine Kept.parts ?_)

end Sys2Proof.Machine
end

