-- ==== Sys2Proof/Laws/Kept/Hbm.lean ====
section
/-!
SUPPORT. Every operation of Machine/Hbm.lean keeps the queue and the canonical form.
-/

namespace Sys2Proof.Machine

set_option linter.unusedTactic false
set_option linter.unreachableTactic false
set_option linter.unusedSimpArgs false

variable {Q : List Instr} {K : Prop} {s : State}

theorem writeTraining_kept {i : Nat} (H0 : Kept Q K s) :
    Kept Q K (writeTraining i s) := by
  delta writeTraining
  repeat' first
    | with_reducible assumption
    | intro _
    | with_reducible apply hg
    | (extract_lets +onlyGivenNames t; refine (have ht : Kept Q K t := ?_; ?_); subst t; rotate_left; clear_value t)
    | (extract_lets +onlyGivenNames t; refine (have hg : ∀ x, Kept Q K x → Kept Q K (t x) := ?_; ?_); subst t; rotate_left; clear_value t)
    | (extract_lets +onlyGivenNames t; refine (have hg : ∀ a x, Kept Q K x → Kept Q K (t a x) := ?_; ?_); subst t; rotate_left; clear_value t)
    | (extract_lets +onlyGivenNames t; refine (have hg : ∀ a b x, Kept Q K x → Kept Q K (t a b x) := ?_; ?_); subst t; rotate_left; clear_value t)
    | (extract_lets +onlyGivenNames t; clear_value t)
    | with_reducible apply kept_ite
    | (simp only [kept_mk_iff]; with_reducible exact Kept.parts ‹_›)
    | split
    | (simp only [kept_mk_iff]; with_reducible refine Kept.parts ?_)

theorem trainedFull_kept {i reason : Nat} {start : Bool} (H0 : Kept Q K s) :
    Kept Q K (trainedFull i reason start s) := by
  delta trainedFull
  repeat' first
    | with_reducible assumption
    | intro _
    | (extract_lets +onlyGivenNames t; refine (have ht : Kept Q K t := ?_; ?_); subst t; rotate_left; clear_value t)
    | (extract_lets +onlyGivenNames t; clear_value t)
    | with_reducible apply kept_ite
    | with_reducible apply ifS_kept
    | with_reducible apply orF_kept
    | with_reducible apply raise_kept
    | with_reducible apply setB_kept
    | with_reducible apply setF_kept
    | with_reducible apply writeTraining_kept
    | (simp only [kept_mk_iff]; with_reducible exact Kept.parts ‹_›)
    | split
    | (simp only [kept_mk_iff]; with_reducible refine Kept.parts ?_)

theorem advanceTraffic_kept {i : Nat} (H0 : Kept Q K s) :
    Kept Q K (advanceTraffic i s) := by
  delta advanceTraffic
  repeat' first
    | with_reducible assumption
    | intro _
    | with_reducible apply hg
    | (extract_lets +onlyGivenNames t; refine (have ht : Kept Q K t := ?_; ?_); subst t; rotate_left; clear_value t)
    | (extract_lets +onlyGivenNames t; refine (have hg : ∀ x, Kept Q K x → Kept Q K (t x) := ?_; ?_); subst t; rotate_left; clear_value t)
    | (extract_lets +onlyGivenNames t; refine (have hg : ∀ a x, Kept Q K x → Kept Q K (t a x) := ?_; ?_); subst t; rotate_left; clear_value t)
    | (extract_lets +onlyGivenNames t; refine (have hg : ∀ a b x, Kept Q K x → Kept Q K (t a b x) := ?_; ?_); subst t; rotate_left; clear_value t)
    | (extract_lets +onlyGivenNames t; refine (have ht : Kept Q K t.2 := ?_; ?_); subst t; rotate_left; clear_value t)
    | (extract_lets +onlyGivenNames t; refine (have ht : Kept Q K t.1 := ?_; ?_); subst t; rotate_left; clear_value t)
    | (extract_lets +onlyGivenNames t; refine (have ht : Kept Q K t.1.1 := ?_; ?_); subst t; rotate_left; clear_value t)
    | (extract_lets +onlyGivenNames t; clear_value t)
    | with_reducible apply kept_ite
    | with_reducible apply each_kept
    | with_reducible apply fresh_kept
    | with_reducible apply ifS_kept
    | with_reducible apply setF_kept
    | split

theorem execHbmTrainingDone_kept {i : Fin 4} {res : TrainResult} (H0 : Kept Q K s) :
    Answers (Kept Q K) (execHbmTrainingDone i res s) := by
  delta execHbmTrainingDone
  repeat' first
    | with_reducible assumption
    | intro _
    | (extract_lets +onlyGivenNames t; refine (have ht : Kept Q K t := ?_; ?_); subst t; rotate_left; clear_value t)
    | (extract_lets +onlyGivenNames t; clear_value t)
    | with_reducible apply kept_ite
    | with_reducible apply advanceTraffic_kept
    | with_reducible apply enterFault_kept
    | with_reducible apply ifS_kept
    | with_reducible apply setB_kept
    | with_reducible apply trainedFull_kept
    | with_reducible apply answers_next
    | with_reducible apply answers_ite
    | (simp only [kept_mk_iff]; with_reducible exact Kept.parts ‹_›)
    | split
    | (simp only [kept_mk_iff]; with_reducible refine Kept.parts ?_)

theorem execHbmTempPoll_kept {i : Fin 4} {temp : Int} {drift : Bool} (H0 : Kept Q K s) :
    Answers (Kept Q K) (execHbmTempPoll i temp drift s) := by
  delta execHbmTempPoll
  repeat' first
    | with_reducible assumption
    | intro _
    | (extract_lets +onlyGivenNames t; refine (have ht : Kept Q K t := ?_; ?_); subst t; rotate_left; clear_value t)
    | (extract_lets +onlyGivenNames t; clear_value t)
    | with_reducible apply kept_ite
    | with_reducible apply advanceTraffic_kept
    | with_reducible apply enterFault_kept
    | with_reducible apply ifS_kept
    | with_reducible apply raise_kept
    | with_reducible apply setB_kept
    | with_reducible apply setF_kept
    | with_reducible apply answers_next
    | with_reducible apply answers_ite
    | split

theorem correctedError_kept {i : Nat} (H0 : Kept Q K s) :
    Kept Q K (correctedError i s) := by
  delta correctedError
  repeat' first
    | with_reducible assumption
    | intro _
    | (extract_lets +onlyGivenNames t; refine (have ht : Kept Q K t := ?_; ?_); subst t; rotate_left; clear_value t)
    | (extract_lets +onlyGivenNames t; clear_value t)
    | with_reducible apply kept_ite
    | with_reducible apply countF_kept
    | with_reducible apply ifS_kept
    | with_reducible apply raise_kept

theorem uncorrectedError_kept {i addr port : Nat} (H0 : Kept Q K s) :
    Kept Q K (uncorrectedError i addr port s) := by
  delta uncorrectedError
  repeat' first
    | with_reducible assumption
    | intro _
    | with_reducible apply kept_ite
    | with_reducible apply countF_kept
    | with_reducible apply raise_kept
    | with_reducible apply setF_kept

theorem execHbmEccError_kept {i : Fin 4} {addr port : Nat} {kind : EccKind} (H0 : Kept Q K s) :
    Answers (Kept Q K) (execHbmEccError i addr port kind s) := by
  delta execHbmEccError
  repeat' first
    | with_reducible assumption
    | intro _
    | with_reducible apply kept_ite
    | with_reducible apply correctedError_kept
    | with_reducible apply countF_kept
    | with_reducible apply poisonWord_kept
    | with_reducible apply uncorrectedError_kept
    | with_reducible apply answers_next
    | with_reducible apply answers_ite
    | (simp only [kept_mk_iff]; with_reducible exact Kept.parts ‹_›)
    | split
    | (simp only [kept_mk_iff]; with_reducible refine Kept.parts ?_)

theorem execHbmScrubPass_kept {i : Fin 4} {found : List Nat} (H0 : Kept Q K s) :
    Answers (Kept Q K) (execHbmScrubPass i found s) := by
  delta execHbmScrubPass
  repeat' first
    | with_reducible assumption
    | intro _
    | (extract_lets +onlyGivenNames t; refine (have ht : Kept Q K t := ?_; ?_); subst t; rotate_left; clear_value t)
    | (extract_lets +onlyGivenNames t; refine (have ht : Kept Q K t.2 := ?_; ?_); subst t; rotate_left; clear_value t)
    | (extract_lets +onlyGivenNames t; refine (have ht : Kept Q K t.1 := ?_; ?_); subst t; rotate_left; clear_value t)
    | (extract_lets +onlyGivenNames t; refine (have ht : Kept Q K t.1.1 := ?_; ?_); subst t; rotate_left; clear_value t)
    | (extract_lets +onlyGivenNames t; clear_value t)
    | with_reducible apply kept_ite
    | with_reducible apply correctedError_kept
    | with_reducible apply each_kept
    | with_reducible apply fresh_kept
    | with_reducible apply uncorrectedError_kept
    | with_reducible apply answers_next
    | with_reducible apply answers_ite
    | split

theorem selfRefresh_kept {i : Nat} (H0 : Kept Q K s) :
    Kept Q K (selfRefresh i s) := by
  delta selfRefresh
  repeat' first
    | with_reducible assumption
    | intro _
    | with_reducible apply kept_ite
    | with_reducible apply setB_kept

theorem hbmStart_kept {i : Nat} (H0 : Kept Q K s) :
    Kept Q K (hbmStart i s) := by
  delta hbmStart
  repeat' first
    | with_reducible assumption
    | intro _
    | (extract_lets +onlyGivenNames t; refine (have ht : Kept Q K t := ?_; ?_); subst t; rotate_left; clear_value t)
    | (extract_lets +onlyGivenNames t; clear_value t)
    | with_reducible apply kept_ite
    | with_reducible apply clearF_kept
    | with_reducible apply setB_kept
    | (simp only [kept_mk_iff]; with_reducible exact Kept.parts ‹_›)
    | (simp only [kept_mk_iff]; with_reducible refine Kept.parts ?_)

theorem storeAt_kept {a : Option Nat} {b : Byte} (H0 : Kept Q K s) :
    Kept Q K (storeAt a b s) := by
  delta storeAt
  repeat' first
    | with_reducible assumption
    | intro _
    | with_reducible apply kept_ite
    | with_reducible apply hbmPut_kept
    | with_reducible apply ifS_kept
    | (simp only [kept_mk_iff]; with_reducible exact Kept.parts ‹_›)
    | split
    | (simp only [kept_mk_iff]; with_reducible refine Kept.parts ?_)

theorem windowStore_kept {p off : Nat} {b : Byte} (H0 : Kept Q K s) :
    Kept Q K (windowStore p off b s) := by
  delta windowStore
  repeat' first
    | with_reducible assumption
    | intro _
    | with_reducible apply kept_ite
    | with_reducible apply storeAt_kept

theorem serveWindow_kept {p off : Nat} {acc : WindowAccess} (H0 : Kept Q K s) :
    Kept Q K (serveWindow p off acc s) := by
  delta serveWindow
  repeat' first
    | with_reducible assumption
    | intro _
    | (extract_lets +onlyGivenNames t; refine (have ht : Kept Q K t := ?_; ?_); subst t; rotate_left; clear_value t)
    | (extract_lets +onlyGivenNames t; clear_value t)
    | with_reducible apply kept_ite
    | with_reducible apply State.setMsixT_kept
    | with_reducible apply each_kept
    | with_reducible apply emit_kept
    | with_reducible apply hostError_kept
    | with_reducible apply ifS_kept
    | with_reducible apply leaseViolation_kept
    | with_reducible apply msixRelease_kept
    | with_reducible apply putMsix_kept
    | with_reducible apply windowStore_kept
    | (simp only [kept_mk_iff]; with_reducible exact Kept.parts ‹_›)
    | split
    | (simp only [kept_mk_iff]; with_reducible refine Kept.parts ?_)

theorem serveBars_kept (H0 : Kept Q K s) :
    Kept Q K (serveBars s) := by
  delta serveBars
  repeat' first
    | with_reducible assumption
    | intro _
    | (extract_lets +onlyGivenNames t; refine (have ht : Kept Q K t := ?_; ?_); subst t; rotate_left; clear_value t)
    | (extract_lets +onlyGivenNames t; clear_value t)
    | with_reducible apply kept_ite
    | with_reducible apply each_kept
    | with_reducible apply serveWindow_kept
    | (simp only [kept_mk_iff]; with_reducible exact Kept.parts ‹_›)
    | split
    | (simp only [kept_mk_iff]; with_reducible refine Kept.parts ?_)

theorem hbmWakes_kept {i : Nat} (H0 : Kept Q K s) :
    Kept Q K (hbmWakes i s) := by
  delta hbmWakes
  repeat' first
    | with_reducible assumption
    | intro _
    | with_reducible apply kept_ite
    | with_reducible apply serveBars_kept
    | with_reducible apply setB_kept

end Sys2Proof.Machine
end

