-- ==== Sys2Proof/Laws/Kept/Thermal.lean ====
section
/-!
SUPPORT. Every operation of Machine/Thermal.lean keeps the queue and the canonical form.
-/

namespace Sys2Proof.Machine

set_option linter.unusedTactic false
set_option linter.unreachableTactic false
set_option linter.unusedSimpArgs false

variable {Q : List Instr} {K : Prop} {s : State}

theorem takeReading_kept {n : Nat} {r : Int} (H0 : Kept Q K s) :
    Kept Q K (takeReading n r s) := by
  delta takeReading
  repeat' first
    | with_reducible assumption
    | intro _
    | (extract_lets +onlyGivenNames t; refine (have ht : Kept Q K t := ?_; ?_); subst t; rotate_left; clear_value t)
    | (extract_lets +onlyGivenNames t; clear_value t)
    | with_reducible apply kept_ite
    | with_reducible apply State.setThSensor_kept
    | with_reducible apply ifS_kept
    | with_reducible apply setB_kept
    | with_reducible apply setF_kept
    | (simp only [kept_mk_iff]; with_reducible exact Kept.parts ‹_›)
    | split
    | (simp only [kept_mk_iff]; with_reducible refine Kept.parts ?_)

theorem judgeStuck_kept {n : Nat} (H0 : Kept Q K s) :
    Kept Q K (judgeStuck n s) := by
  delta judgeStuck
  repeat' first
    | with_reducible assumption
    | intro _
    | (extract_lets +onlyGivenNames t; refine (have ht : Kept Q K t := ?_; ?_); subst t; rotate_left; clear_value t)
    | (extract_lets +onlyGivenNames t; clear_value t)
    | with_reducible apply kept_ite
    | with_reducible apply State.setThSensor_kept
    | with_reducible apply setB_kept
    | (simp only [kept_mk_iff]; with_reducible exact Kept.parts ‹_›)
    | split
    | (simp only [kept_mk_iff]; with_reducible refine Kept.parts ?_)

theorem judgeValid_kept {n : Nat} {was : Bool} (H0 : Kept Q K s) :
    Kept Q K (judgeValid n was s) := by
  delta judgeValid
  repeat' first
    | with_reducible assumption
    | intro _
    | (extract_lets +onlyGivenNames t; refine (have ht : Kept Q K t := ?_; ?_); subst t; rotate_left; clear_value t)
    | (extract_lets +onlyGivenNames t; clear_value t)
    | with_reducible apply kept_ite
    | with_reducible apply State.setThSensor_kept
    | with_reducible apply ifS_kept
    | with_reducible apply raise_kept
    | with_reducible apply setB_kept
    | (simp only [kept_mk_iff]; with_reducible exact Kept.parts ‹_›)
    | split
    | (simp only [kept_mk_iff]; with_reducible refine Kept.parts ?_)

theorem setTherm_kept {v : Nat} (H0 : Kept Q K s) :
    Kept Q K (setTherm v s) := by
  delta setTherm
  repeat' first
    | with_reducible assumption
    | intro _
    | with_reducible apply kept_ite
    | with_reducible apply each_kept
    | with_reducible apply setF_kept

theorem keepD_kept (H0 : Kept Q K s) :
    Kept Q K (keepD s) := by
  delta keepD
  repeat' first
    | with_reducible assumption
    | intro _
    | (extract_lets +onlyGivenNames t; refine (have ht : Kept Q K t := ?_; ?_); subst t; rotate_left; clear_value t)
    | (extract_lets +onlyGivenNames t; clear_value t)
    | with_reducible apply kept_ite
    | with_reducible apply State.setJet_kept
    | with_reducible apply each_kept
    | (simp only [kept_mk_iff]; with_reducible exact Kept.parts ‹_›)
    | (simp only [kept_mk_iff]; with_reducible refine Kept.parts ?_)

theorem setD_kept {v : Nat} (H0 : Kept Q K s) :
    Kept Q K (setD v s) := by
  delta setD
  repeat' first
    | with_reducible assumption
    | intro _
    | with_reducible apply kept_ite
    | with_reducible apply ifS_kept
    | with_reducible apply keepD_kept
    | with_reducible apply setF_kept

theorem throttleRelease_kept (H0 : Kept Q K s) :
    Kept Q K (throttleRelease s) := by
  delta throttleRelease
  repeat' first
    | with_reducible assumption
    | intro _
    | with_reducible apply kept_ite
    | with_reducible apply raise_kept
    | with_reducible apply setB_kept
    | with_reducible apply setD_kept
    | with_reducible apply setTherm_kept
    | split

theorem throttleEnforce_kept (H0 : Kept Q K s) :
    Kept Q K (throttleEnforce s) := by
  delta throttleEnforce
  repeat' first
    | with_reducible assumption
    | intro _
    | (extract_lets +onlyGivenNames t; refine (have ht : Kept Q K t := ?_; ?_); subst t; rotate_left; clear_value t)
    | (extract_lets +onlyGivenNames t; clear_value t)
    | with_reducible apply kept_ite
    | with_reducible apply countF_kept
    | with_reducible apply raise_kept
    | with_reducible apply setB_kept
    | (simp only [kept_mk_iff]; with_reducible exact Kept.parts ‹_›)
    | (simp only [kept_mk_iff]; with_reducible refine Kept.parts ?_)

theorem throttleBegin_kept (H0 : Kept Q K s) :
    Kept Q K (throttleBegin s) := by
  delta throttleBegin
  repeat' first
    | with_reducible assumption
    | intro _
    | (extract_lets +onlyGivenNames t; refine (have ht : Kept Q K t := ?_; ?_); subst t; rotate_left; clear_value t)
    | (extract_lets +onlyGivenNames t; clear_value t)
    | with_reducible apply kept_ite
    | with_reducible apply raise_kept
    | with_reducible apply setB_kept
    | with_reducible apply setD_kept
    | with_reducible apply throttleEnforce_kept
    | (simp only [kept_mk_iff]; with_reducible exact Kept.parts ‹_›)
    | split
    | (simp only [kept_mk_iff]; with_reducible refine Kept.parts ?_)

theorem evalThrottle_kept {t : Int} (H0 : Kept Q K s) :
    Kept Q K (evalThrottle t s) := by
  delta evalThrottle
  repeat' first
    | with_reducible assumption
    | intro _
    | (extract_lets +onlyGivenNames t; refine (have ht : Kept Q K t := ?_; ?_); subst t; rotate_left; clear_value t)
    | (extract_lets +onlyGivenNames t; clear_value t)
    | with_reducible apply kept_ite
    | with_reducible apply ifS_kept
    | with_reducible apply throttleBegin_kept
    | with_reducible apply throttleRelease_kept
    | (simp only [kept_mk_iff]; with_reducible exact Kept.parts ‹_›)
    | split
    | (simp only [kept_mk_iff]; with_reducible refine Kept.parts ?_)

theorem evalMax_kept {ns : List Nat} (H0 : Kept Q K s) :
    Kept Q K (evalMax ns s) := by
  delta evalMax
  repeat' first
    | with_reducible assumption
    | intro _
    | (extract_lets +onlyGivenNames t; refine (have ht : Kept Q K t := ?_; ?_); subst t; rotate_left; clear_value t)
    | (extract_lets +onlyGivenNames t; clear_value t)
    | with_reducible apply kept_ite
    | with_reducible apply evalThrottle_kept
    | with_reducible apply ifS_kept
    | with_reducible apply raise_kept
    | with_reducible apply setB_kept
    | with_reducible apply setF_kept
    | (simp only [kept_mk_iff]; with_reducible exact Kept.parts ‹_›)
    | split
    | (simp only [kept_mk_iff]; with_reducible refine Kept.parts ?_)

theorem requestRun_kept {z : Nat} (H0 : Kept Q K s) :
    Kept Q K (requestRun z s) := by
  delta requestRun
  repeat' first
    | with_reducible assumption
    | intro _
    | (extract_lets +onlyGivenNames t; refine (have ht : Kept Q K t := ?_; ?_); subst t; rotate_left; clear_value t)
    | (extract_lets +onlyGivenNames t; clear_value t)
    | with_reducible apply kept_ite
    | with_reducible apply State.setZone_kept
    | with_reducible apply setB_kept
    | (simp only [kept_mk_iff]; with_reducible exact Kept.parts ‹_›)
    | split
    | (simp only [kept_mk_iff]; with_reducible refine Kept.parts ?_)

theorem zoneDrift_kept (H0 : Kept Q K s) :
    Kept Q K (zoneDrift s) := by
  delta zoneDrift
  repeat' first
    | with_reducible assumption
    | intro _
    | (extract_lets +onlyGivenNames t; refine (have ht : Kept Q K t := ?_; ?_); subst t; rotate_left; clear_value t)
    | (extract_lets +onlyGivenNames t; clear_value t)
    | with_reducible apply kept_ite
    | with_reducible apply each_kept
    | with_reducible apply requestRun_kept
    | (simp only [kept_mk_iff]; with_reducible exact Kept.parts ‹_›)
    | split
    | (simp only [kept_mk_iff]; with_reducible refine Kept.parts ?_)

theorem uncalibrate_kept {page : Nat} (H0 : Kept Q K s) :
    Kept Q K (uncalibrate page s) := by
  delta uncalibrate
  repeat' first
    | with_reducible assumption
    | intro _
    | (extract_lets +onlyGivenNames t; refine (have ht : Kept Q K t := ?_; ?_); subst t; rotate_left; clear_value t)
    | (extract_lets +onlyGivenNames t; clear_value t)
    | with_reducible apply kept_ite
    | with_reducible apply State.setZone_kept
    | with_reducible apply each_kept
    | (simp only [kept_mk_iff]; with_reducible exact Kept.parts ‹_›)
    | (simp only [kept_mk_iff]; with_reducible refine Kept.parts ?_)

theorem calibrate_kept {page : Nat} (H0 : Kept Q K s) :
    Kept Q K (calibrate page s) := by
  delta calibrate
  repeat' first
    | with_reducible assumption
    | intro _
    | (extract_lets +onlyGivenNames t; refine (have ht : Kept Q K t := ?_; ?_); subst t; rotate_left; clear_value t)
    | (extract_lets +onlyGivenNames t; clear_value t)
    | with_reducible apply kept_ite
    | with_reducible apply State.setZone_kept
    | with_reducible apply each_kept
    | (simp only [kept_mk_iff]; with_reducible exact Kept.parts ‹_›)
    | (simp only [kept_mk_iff]; with_reducible refine Kept.parts ?_)

theorem resetZones_kept (H0 : Kept Q K s) :
    Kept Q K (resetZones s) := by
  delta resetZones
  repeat' first
    | with_reducible assumption
    | intro _
    | with_reducible apply kept_ite
    | with_reducible apply State.setZone_kept
    | with_reducible apply each_kept

theorem beginRun_kept {z : Nat} (H0 : Kept Q K s) :
    Kept Q K (beginRun z s) := by
  delta beginRun
  repeat' first
    | with_reducible assumption
    | intro _
    | (extract_lets +onlyGivenNames t; refine (have ht : Kept Q K t := ?_; ?_); subst t; rotate_left; clear_value t)
    | (extract_lets +onlyGivenNames t; clear_value t)
    | with_reducible apply kept_ite
    | with_reducible apply State.setZone_kept
    | with_reducible apply setB_kept
    | (simp only [kept_mk_iff]; with_reducible exact Kept.parts ‹_›)
    | split
    | (simp only [kept_mk_iff]; with_reducible refine Kept.parts ?_)

theorem sensorsServed_kept {ns : List Nat} (H0 : Kept Q K s) :
    Kept Q K (sensorsServed ns s) := by
  delta sensorsServed
  repeat' first
    | with_reducible assumption
    | intro _
    | (extract_lets +onlyGivenNames t; refine (have ht : Kept Q K t := ?_; ?_); subst t; rotate_left; clear_value t)
    | (extract_lets +onlyGivenNames t; clear_value t)
    | with_reducible apply kept_ite
    | with_reducible apply State.setZone_kept
    | with_reducible apply each_kept
    | (simp only [kept_mk_iff]; with_reducible exact Kept.parts ‹_›)
    | (simp only [kept_mk_iff]; with_reducible refine Kept.parts ?_)

theorem writeTrim_kept (H0 : Kept Q K s) :
    Kept Q K (writeTrim s) := by
  delta writeTrim
  repeat' first
    | with_reducible assumption
    | intro _
    | (extract_lets +onlyGivenNames t; refine (have ht : Kept Q K t := ?_; ?_); subst t; rotate_left; clear_value t)
    | (extract_lets +onlyGivenNames t; clear_value t)
    | with_reducible apply kept_ite
    | with_reducible apply countF_kept
    | with_reducible apply writeItem_kept
    | (simp only [kept_mk_iff]; with_reducible exact Kept.parts ‹_›)
    | split
    | (simp only [kept_mk_iff]; with_reducible refine Kept.parts ?_)

theorem execThermalConversion_kept {readings : List Int} (H0 : Kept Q K s) :
    Answers (Kept Q K) (execThermalConversion readings s) := by
  delta execThermalConversion
  repeat' first
    | with_reducible assumption
    | intro _
    | (extract_lets +onlyGivenNames t; refine (have ht : Kept Q K t := ?_; ?_); subst t; rotate_left; clear_value t)
    | (extract_lets +onlyGivenNames t; clear_value t)
    | with_reducible apply kept_ite
    | with_reducible apply each_kept
    | with_reducible apply evalMax_kept
    | with_reducible apply judgeStuck_kept
    | with_reducible apply judgeValid_kept
    | with_reducible apply sensorsServed_kept
    | with_reducible apply takeReading_kept
    | with_reducible apply writeTrim_kept
    | with_reducible apply zoneDrift_kept
    | with_reducible apply answers_next
    | with_reducible apply answers_ite
    | (simp only [kept_mk_iff]; with_reducible exact Kept.parts ‹_›)
    | split
    | (simp only [kept_mk_iff]; with_reducible refine Kept.parts ?_)

theorem execThrottleGraceExpire_kept (H0 : Kept Q K s) :
    Answers (Kept Q K) (execThrottleGraceExpire s) := by
  delta execThrottleGraceExpire
  repeat' first
    | with_reducible assumption
    | intro _
    | with_reducible apply kept_ite
    | with_reducible apply setTherm_kept
    | with_reducible apply throttleEnforce_kept
    | with_reducible apply answers_next
    | with_reducible apply answers_ite
    | split

theorem execThrottleStep_kept (H0 : Kept Q K s) :
    Answers (Kept Q K) (execThrottleStep s) := by
  delta execThrottleStep
  repeat' first
    | with_reducible assumption
    | intro _
    | (extract_lets +onlyGivenNames t; refine (have ht : Kept Q K t := ?_; ?_); subst t; rotate_left; clear_value t)
    | (extract_lets +onlyGivenNames t; clear_value t)
    | with_reducible apply kept_ite
    | with_reducible apply setD_kept
    | with_reducible apply setTherm_kept
    | with_reducible apply answers_next
    | with_reducible apply answers_ite
    | (simp only [kept_mk_iff]; with_reducible exact Kept.parts ‹_›)
    | split
    | (simp only [kept_mk_iff]; with_reducible refine Kept.parts ?_)

theorem writeThmCfg_kept {v : Nat} (H0 : Kept Q K s) :
    Kept Q K (writeThmCfg v s) := by
  delta writeThmCfg
  repeat' first
    | with_reducible assumption
    | intro _
    | (extract_lets +onlyGivenNames t; refine (have ht : Kept Q K t := ?_; ?_); subst t; rotate_left; clear_value t)
    | (extract_lets +onlyGivenNames t; clear_value t)
    | with_reducible apply kept_ite
    | with_reducible apply setF_kept
    | with_reducible apply throttleRelease_kept
    | split

theorem execThmCfgWrite_kept {who : Who} {v : Word} (H0 : Kept Q K s) :
    Answers (Kept Q K) (execThmCfgWrite who v s) := by
  delta execThmCfgWrite
  repeat' first
    | with_reducible assumption
    | intro _
    | with_reducible apply kept_ite
    | with_reducible apply guardWrite_kept
    | with_reducible apply writeThmCfg_kept
    | with_reducible apply answers_next
    | with_reducible apply answers_ite

theorem execTrmReq_kept {who : Who} {v : Word} (H0 : Kept Q K s) :
    Answers (Kept Q K) (execTrmReq who v s) := by
  delta execTrmReq
  repeat' first
    | with_reducible assumption
    | intro _
    | with_reducible apply kept_ite
    | with_reducible apply guardWrite_kept
    | with_reducible apply requestRun_kept
    | with_reducible apply answers_next
    | with_reducible apply answers_ite

theorem laneRuns_kept {z : Nat} {ks : List Nat} {wait : Nat} (H0 : Kept Q K s) :
    Kept Q K (laneRuns z ks wait s) := by
  delta laneRuns
  repeat' first
    | with_reducible assumption
    | intro _
    | (extract_lets +onlyGivenNames t; refine (have ht : Kept Q K t := ?_; ?_); subst t; rotate_left; clear_value t)
    | (extract_lets +onlyGivenNames t; clear_value t)
    | with_reducible apply kept_ite
    | with_reducible apply State.setZone_kept
    | with_reducible apply beginRun_kept
    | with_reducible apply each_kept
    | with_reducible apply emit_kept
    | (simp only [kept_mk_iff]; with_reducible exact Kept.parts ‹_›)
    | (simp only [kept_mk_iff]; with_reducible refine Kept.parts ?_)

theorem deferLane_kept {z g : Nat} (H0 : Kept Q K s) :
    Kept Q K (deferLane z g s) := by
  delta deferLane
  repeat' first
    | with_reducible assumption
    | intro _
    | (extract_lets +onlyGivenNames t; refine (have ht : Kept Q K t := ?_; ?_); subst t; rotate_left; clear_value t)
    | (extract_lets +onlyGivenNames t; clear_value t)
    | with_reducible apply kept_ite
    | with_reducible apply State.setZone_kept
    | with_reducible apply countF_kept
    | with_reducible apply raise_kept
    | (simp only [kept_mk_iff]; with_reducible exact Kept.parts ‹_›)
    | split
    | (simp only [kept_mk_iff]; with_reducible refine Kept.parts ?_)

theorem forceLane_kept {z g lane : Nat} (H0 : Kept Q K s) :
    Kept Q K (forceLane z g lane s) := by
  delta forceLane
  repeat' first
    | with_reducible assumption
    | intro _
    | (extract_lets +onlyGivenNames t; refine (have ht : Kept Q K t := ?_; ?_); subst t; rotate_left; clear_value t)
    | (extract_lets +onlyGivenNames t; clear_value t)
    | with_reducible apply kept_ite
    | with_reducible apply State.setGrp_kept
    | with_reducible apply State.setZone_kept
    | with_reducible apply abortFrame_kept
    | with_reducible apply raise_kept
    | with_reducible apply setF_kept
    | (simp only [kept_mk_iff]; with_reducible exact Kept.parts ‹_›)
    | split
    | (simp only [kept_mk_iff]; with_reducible refine Kept.parts ?_)

theorem execLaneRecalWindow_kept {lane : Fin 1024} {width : Nat} (H0 : Kept Q K s) :
    Answers (Kept Q K) (execLaneRecalWindow lane width s) := by
  delta execLaneRecalWindow
  repeat' first
    | with_reducible assumption
    | intro _
    | (extract_lets +onlyGivenNames t; refine (have ht : Kept Q K t := ?_; ?_); subst t; rotate_left; clear_value t)
    | (extract_lets +onlyGivenNames t; clear_value t)
    | with_reducible apply kept_ite
    | with_reducible apply deferLane_kept
    | with_reducible apply forceLane_kept
    | with_reducible apply ifS_kept
    | with_reducible apply laneRuns_kept
    | with_reducible apply answers_next
    | with_reducible apply answers_ite
    | (simp only [kept_mk_iff]; with_reducible exact Kept.parts ‹_›)
    | split
    | (simp only [kept_mk_iff]; with_reducible refine Kept.parts ?_)

theorem execPortRecal_kept {zone : Fin 30} (H0 : Kept Q K s) :
    Answers (Kept Q K) (execPortRecal zone s) := by
  delta execPortRecal
  repeat' first
    | with_reducible assumption
    | intro _
    | (extract_lets +onlyGivenNames t; refine (have ht : Kept Q K t := ?_; ?_); subst t; rotate_left; clear_value t)
    | (extract_lets +onlyGivenNames t; clear_value t)
    | with_reducible apply kept_ite
    | with_reducible apply beginRun_kept
    | with_reducible apply answers_next
    | with_reducible apply answers_ite
    | split

theorem execRecalDone_kept {zone : Fin 30} {limit : Bool} (H0 : Kept Q K s) :
    Answers (Kept Q K) (execRecalDone zone limit s) := by
  delta execRecalDone
  repeat' first
    | with_reducible assumption
    | intro _
    | (extract_lets +onlyGivenNames t; refine (have ht : Kept Q K t := ?_; ?_); subst t; rotate_left; clear_value t)
    | (extract_lets +onlyGivenNames t; clear_value t)
    | with_reducible apply kept_ite
    | with_reducible apply State.setZone_kept
    | with_reducible apply addF_kept
    | with_reducible apply ifS_kept
    | with_reducible apply raise_kept
    | with_reducible apply rimServe_kept
    | with_reducible apply setB_kept
    | with_reducible apply setF_kept
    | with_reducible apply writeTrim_kept
    | with_reducible apply answers_next
    | with_reducible apply answers_ite
    | (simp only [kept_mk_iff]; with_reducible exact Kept.parts ‹_›)
    | split
    | (simp only [kept_mk_iff]; with_reducible refine Kept.parts ?_)

end Sys2Proof.Machine
end

