-- ==== Sys2Proof/Laws/Kept/Lifecycle.lean ====
section
/-!
SUPPORT. Every operation of Machine/Lifecycle.lean keeps the queue and the canonical form.
-/

namespace Sys2Proof.Machine

set_option linter.unusedTactic false
set_option linter.unreachableTactic false
set_option linter.unusedSimpArgs false

variable {Q : List Instr} {K : Prop} {s : State}

theorem freeSem_kept {n : Nat} (H0 : Kept Q K s) :
    Kept Q K (freeSem n s) := by
  delta freeSem
  repeat' first
    | with_reducible assumption
    | intro _
    | with_reducible apply kept_ite
    | with_reducible apply setB_kept
    | with_reducible apply setF_kept

theorem closeRegions_kept {p : Nat} (H0 : Kept Q K s) :
    Kept Q K (closeRegions p s) := by
  delta closeRegions
  repeat' first
    | with_reducible assumption
    | intro _
    | with_reducible apply kept_ite
    | with_reducible apply each_kept
    | with_reducible apply ifS_kept
    | with_reducible apply wr_kept

theorem teardown_kept {p : Nat} (H0 : Kept Q K s) :
    Kept Q K (teardown p s) := by
  delta teardown
  repeat' first
    | with_reducible assumption
    | intro _
    | (extract_lets +onlyGivenNames t; refine (have ht : Kept Q K t := ?_; ?_); subst t; rotate_left; clear_value t)
    | (extract_lets +onlyGivenNames t; clear_value t)
    | with_reducible apply kept_ite
    | with_reducible apply State.setPreset_kept
    | with_reducible apply State.setWin_kept
    | with_reducible apply closeCtx_kept
    | with_reducible apply closeRegions_kept
    | with_reducible apply closeSession_kept
    | with_reducible apply closeSub_kept
    | with_reducible apply each_kept
    | with_reducible apply freeList_kept
    | with_reducible apply freeSem_kept
    | with_reducible apply ifS_kept
    | with_reducible apply showAsm_kept
    | with_reducible apply showSlc_kept
    | with_reducible apply startFree_kept
    | (simp only [kept_mk_iff]; with_reducible exact Kept.parts ‹_›)
    | split
    | (simp only [kept_mk_iff]; with_reducible refine Kept.parts ?_)

theorem beginTeardown_kept {p : Nat} (H0 : Kept Q K s) :
    Kept Q K (beginTeardown p s) := by
  delta beginTeardown
  repeat' first
    | with_reducible assumption
    | intro _
    | (extract_lets +onlyGivenNames t; refine (have ht : Kept Q K t := ?_; ?_); subst t; rotate_left; clear_value t)
    | (extract_lets +onlyGivenNames t; clear_value t)
    | with_reducible apply kept_ite
    | with_reducible apply State.setPrt_kept
    | with_reducible apply teardown_kept
    | (simp only [kept_mk_iff]; with_reducible exact Kept.parts ‹_›)
    | split
    | (simp only [kept_mk_iff]; with_reducible refine Kept.parts ?_)

theorem endTeardown_kept {p : Nat} (H0 : Kept Q K s) :
    Kept Q K (endTeardown p s) := by
  delta endTeardown
  repeat' first
    | with_reducible assumption
    | intro _
    | (extract_lets +onlyGivenNames t; refine (have ht : Kept Q K t := ?_; ?_); subst t; rotate_left; clear_value t)
    | (extract_lets +onlyGivenNames t; clear_value t)
    | with_reducible apply kept_ite
    | with_reducible apply State.setPrt_kept
    | with_reducible apply each_kept
    | with_reducible apply setF_kept
    | (simp only [kept_mk_iff]; with_reducible exact Kept.parts ‹_›)
    | (simp only [kept_mk_iff]; with_reducible refine Kept.parts ?_)

theorem showPlls_kept (H0 : Kept Q K s) :
    Kept Q K (showPlls s) := by
  delta showPlls
  repeat' first
    | with_reducible assumption
    | intro _
    | (extract_lets +onlyGivenNames t; refine (have ht : Kept Q K t := ?_; ?_); subst t; rotate_left; clear_value t)
    | (extract_lets +onlyGivenNames t; clear_value t)
    | with_reducible apply kept_ite
    | with_reducible apply setB_kept
    | with_reducible apply setF_kept

theorem linkDrops_kept {p : Nat} (H0 : Kept Q K s) :
    Kept Q K (linkDrops p s) := by
  delta linkDrops
  repeat' first
    | with_reducible assumption
    | intro _
    | with_reducible apply kept_ite
    | with_reducible apply raise_kept
    | with_reducible apply setB_kept
    | split

theorem stopsDriving_kept {page : Nat} (H0 : Kept Q K s) :
    Kept Q K (stopsDriving page s) := by
  delta stopsDriving
  repeat' first
    | with_reducible assumption
    | intro _
    | with_reducible apply kept_ite
    | with_reducible apply advanceTraffic_kept
    | with_reducible apply groupDown_kept
    | with_reducible apply linkDrops_kept
    | with_reducible apply lnkDown_kept
    | split

theorem goesOff_kept {page : Nat} (H0 : Kept Q K s) :
    Kept Q K (goesOff page s) := by
  delta goesOff
  repeat' first
    | with_reducible assumption
    | intro _
    | (extract_lets +onlyGivenNames t; refine (have ht : Kept Q K t := ?_; ?_); subst t; rotate_left; clear_value t)
    | (extract_lets +onlyGivenNames t; clear_value t)
    | with_reducible apply kept_ite
    | with_reducible apply camDown_kept
    | with_reducible apply corAbort_kept
    | with_reducible apply restServo_kept
    | with_reducible apply setValid_kept
    | with_reducible apply slcDown_kept
    | with_reducible apply stopsDriving_kept
    | with_reducible apply takeBanks_kept
    | split

theorem goesParked_kept {page : Nat} (H0 : Kept Q K s) :
    Kept Q K (goesParked page s) := by
  delta goesParked
  repeat' first
    | with_reducible assumption
    | intro _
    | (extract_lets +onlyGivenNames t; refine (have ht : Kept Q K t := ?_; ?_); subst t; rotate_left; clear_value t)
    | (extract_lets +onlyGivenNames t; clear_value t)
    | with_reducible apply kept_ite
    | with_reducible apply selfRefresh_kept
    | with_reducible apply setF_kept
    | with_reducible apply stopsDriving_kept
    | with_reducible apply takeBanks_kept
    | split

theorem goesOn_kept {page : Nat} (H0 : Kept Q K s) :
    Kept Q K (goesOn page s) := by
  delta goesOn
  repeat' first
    | with_reducible assumption
    | intro _
    | with_reducible apply kept_ite
    | with_reducible apply busNext_kept
    | with_reducible apply hbmWakes_kept
    | with_reducible apply lnkUp_kept
    | with_reducible apply queueAllKnown_kept
    | with_reducible apply restServo_kept
    | with_reducible apply rimServe_kept
    | split

theorem unpark_kept {page : Nat} (H0 : Kept Q K s) :
    Kept Q K (unpark page s) := by
  delta unpark
  repeat' first
    | with_reducible assumption
    | intro _
    | with_reducible apply kept_ite
    | with_reducible apply goesOn_kept
    | with_reducible apply groupResumes_kept
    | with_reducible apply ifS_kept
    | with_reducible apply setState_kept
    | split

theorem starts_kept {page : Nat} (H0 : Kept Q K s) :
    Kept Q K (starts page s) := by
  delta starts
  repeat' first
    | with_reducible assumption
    | intro _
    | (extract_lets +onlyGivenNames t; refine (have ht : Kept Q K t := ?_; ?_); subst t; rotate_left; clear_value t)
    | (extract_lets +onlyGivenNames t; clear_value t)
    | with_reducible apply kept_ite
    | with_reducible apply State.setPrt_kept
    | with_reducible apply answer_kept
    | with_reducible apply emit_kept
    | with_reducible apply groupStart_kept
    | with_reducible apply hbmStart_kept
    | with_reducible apply setState_kept
    | with_reducible apply uncalibrate_kept
    | (simp only [kept_mk_iff]; with_reducible exact Kept.parts ‹_›)
    | split
    | (simp only [kept_mk_iff]; with_reducible refine Kept.parts ?_)

theorem blockFaults_kept {page code : Nat} (H0 : Kept Q K s) :
    Kept Q K (blockFaults page code s) := by
  delta blockFaults
  repeat' first
    | with_reducible assumption
    | intro _
    | (extract_lets +onlyGivenNames t; refine (have ht : Kept Q K t := ?_; ?_); subst t; rotate_left; clear_value t)
    | (extract_lets +onlyGivenNames t; clear_value t)
    | with_reducible apply kept_ite
    | with_reducible apply camDown_kept
    | with_reducible apply corAbort_kept
    | with_reducible apply decFault_kept
    | with_reducible apply encFault_kept
    | with_reducible apply enterFault_kept
    | with_reducible apply rimFault_kept
    | with_reducible apply setF_kept
    | with_reducible apply showPlls_kept
    | with_reducible apply slcDown_kept
    | with_reducible apply stopsDriving_kept
    | split

theorem applyCtrl_kept {page : Nat} {en park : Bool} (H0 : Kept Q K s) :
    Kept Q K (applyCtrl page en park s) := by
  delta applyCtrl
  repeat' first
    | with_reducible assumption
    | intro _
    | (extract_lets +onlyGivenNames t; refine (have ht : Kept Q K t := ?_; ?_); subst t; rotate_left; clear_value t)
    | (extract_lets +onlyGivenNames t; clear_value t)
    | with_reducible apply kept_ite
    | with_reducible apply beginTeardown_kept
    | with_reducible apply goesOff_kept
    | with_reducible apply groupStays_kept
    | with_reducible apply ifS_kept
    | with_reducible apply rimServe_kept
    | with_reducible apply setB_kept
    | with_reducible apply setState_kept
    | with_reducible apply showPlls_kept
    | with_reducible apply starts_kept
    | with_reducible apply unpark_kept
    | split

theorem emptyTables_kept {page : Nat} (H0 : Kept Q K s) :
    Kept Q K (emptyTables page s) := by
  delta emptyTables
  repeat' first
    | with_reducible assumption
    | intro _
    | (extract_lets +onlyGivenNames t; refine (have ht : Kept Q K t := ?_; ?_); subst t; rotate_left; clear_value t)
    | (extract_lets +onlyGivenNames t; clear_value t)
    | with_reducible apply kept_ite
    | with_reducible apply State.setDom_kept
    | with_reducible apply State.setInjLive_kept
    | with_reducible apply State.setLane_kept
    | with_reducible apply State.setPrt_kept
    | with_reducible apply abortPort_kept
    | with_reducible apply asmReset_kept
    | with_reducible apply camReset_kept
    | with_reducible apply closeSession_kept
    | with_reducible apply complete_kept
    | with_reducible apply corAbort_kept
    | with_reducible apply corLose_kept
    | with_reducible apply cueReset_kept
    | with_reducible apply each_kept
    | with_reducible apply egrReset_kept
    | with_reducible apply emit_kept
    | with_reducible apply ifS_kept
    | with_reducible apply resetZones_kept
    | with_reducible apply rimReset_kept
    | with_reducible apply setD_kept
    | with_reducible apply setF_kept
    | with_reducible apply setTherm_kept
    | with_reducible apply showDrw_kept
    | with_reducible apply slcDown_kept
    | with_reducible apply startRelease_kept
    | with_reducible apply strReset_kept
    | (simp only [kept_mk_iff]; with_reducible exact Kept.parts ‹_›)
    | split
    | (simp only [kept_mk_iff]; with_reducible refine Kept.parts ?_)

theorem refreshSummaries_kept {page : Nat} (H0 : Kept Q K s) :
    Kept Q K (refreshSummaries page s) := by
  delta refreshSummaries
  repeat' first
    | with_reducible assumption
    | intro _
    | with_reducible apply kept_ite
    | with_reducible apply each_kept
    | with_reducible apply refreshCam_kept
    | with_reducible apply refreshCauses_kept
    | with_reducible apply refreshLane_kept
    | with_reducible apply refreshSession_kept
    | split

theorem resetPage_kept {page : Nat} (H0 : Kept Q K s) : Kept Q K (resetPage page s) := by
  unfold resetPage
  dsimp only
  have h0 : Kept Q K (ifS (decide (page = 0x11) || decide (page = 0x12)) (setValid (page - 0x11) false) s) :=
    ifS_kept H0 (fun t h => setValid_kept h)
  generalize ifS (decide (page = 0x11) || decide (page = 0x12)) (setValid (page - 0x11) false) s = u at h0
  have h1 : Kept Q K (emptyTables page u) := emptyTables_kept h0
  generalize emptyTables page u = t at h1
  have h2 : Kept Q K { t with regs := FMap.keep (fun a => !resets page (a / 4096) || resetKeeps a) t.regs } :=
    kept_mk ⟨h1.1.1, fun k => ⟨FMap.wf_keep resetWord _ t.regs (h1.1.2 k).1, (h1.1.2 k).2⟩⟩
  refine refreshSummaries_kept (showPlls_kept (ifS_kept ?_ (fun t h => goesOff_kept (setState_kept h))))
  refine ifS_kept ?_ (fun t h => each_kept h (fun k t h => setF_kept h))
  refine ifS_kept ?_ (fun t h => showEnc_kept (each_kept h (fun k t h => showSession_kept h)))
  refine ifS_kept ?_ (fun t h => setF_kept (showDl_kept h))
  exact ifS_kept (ifS_kept (setF_kept (setB_kept (setB_kept h2))) (fun t h => showDec_kept h)) (fun t h => setB_kept h)

theorem applyReset_kept {page : Nat} {en park : Bool} (H0 : Kept Q K s) :
    Kept Q K (applyReset page en park s) := by
  delta applyReset
  repeat' first
    | with_reducible assumption
    | intro _
    | with_reducible apply kept_ite
    | with_reducible apply applyCtrl_kept
    | with_reducible apply raise_kept
    | with_reducible apply resetPage_kept
    | split

theorem ctrlWrite_kept {who : Who} {page : Nat} {f : State → State} (H0 : Kept Q K s) (hf : ∀ (x0 : State), Kept Q K x0 → Kept Q K (f x0)) :
    Kept Q K (ctrlWrite who page f s) := by
  delta ctrlWrite
  repeat' first
    | with_reducible assumption
    | intro _
    | with_reducible apply kept_ite
    | with_reducible apply guardWrite_kept
    | with_reducible apply ifS_kept
    | with_reducible apply hf

theorem execPgEnable_kept {who : Who} {page : Nat} {v : Bool} (H0 : Kept Q K s) :
    Answers (Kept Q K) (execPgEnable who page v s) := by
  delta execPgEnable
  repeat' first
    | with_reducible assumption
    | intro _
    | with_reducible apply kept_ite
    | with_reducible apply applyCtrl_kept
    | with_reducible apply ctrlWrite_kept
    | with_reducible apply answers_next
    | with_reducible apply answers_ite

theorem execPgPark_kept {who : Who} {page : Nat} {v : Bool} (H0 : Kept Q K s) :
    Answers (Kept Q K) (execPgPark who page v s) := by
  delta execPgPark
  repeat' first
    | with_reducible assumption
    | intro _
    | with_reducible apply kept_ite
    | with_reducible apply applyCtrl_kept
    | with_reducible apply ctrlWrite_kept
    | with_reducible apply answers_next
    | with_reducible apply answers_ite

theorem execPgReset_kept {who : Who} {page : Nat} {enable park : Bool} (H0 : Kept Q K s) :
    Answers (Kept Q K) (execPgReset who page enable park s) := by
  delta execPgReset
  repeat' first
    | with_reducible assumption
    | intro _
    | with_reducible apply kept_ite
    | with_reducible apply applyReset_kept
    | with_reducible apply ctrlWrite_kept
    | with_reducible apply answers_next
    | with_reducible apply answers_ite

theorem writeEarly_kept (H0 : Kept Q K s) :
    Kept Q K (writeEarly s) := by
  delta writeEarly
  repeat' first
    | with_reducible assumption
    | intro _
    | with_reducible apply kept_ite
    | with_reducible apply hbmPut_kept
    | with_reducible apply kept_foldl

theorem copyEarly_kept (H0 : Kept Q K s) :
    Kept Q K (copyEarly s) := by
  delta copyEarly
  repeat' first
    | with_reducible assumption
    | intro _
    | (extract_lets +onlyGivenNames t; refine (have ht : Kept Q K t := ?_; ?_); subst t; rotate_left; clear_value t)
    | (extract_lets +onlyGivenNames t; clear_value t)
    | with_reducible apply kept_ite
    | with_reducible apply State.setPlane_kept
    | with_reducible apply complete_kept
    | with_reducible apply showAsm_kept
    | with_reducible apply writeEarly_kept
    | (simp only [kept_mk_iff]; with_reducible exact Kept.parts ‹_›)
    | split
    | (simp only [kept_mk_iff]; with_reducible refine Kept.parts ?_)

theorem bootHbmOn_kept {page : Nat} (H0 : Kept Q K s) :
    Kept Q K (bootHbmOn page s) := by
  delta bootHbmOn
  repeat' first
    | with_reducible assumption
    | intro _
    | with_reducible apply kept_ite
    | with_reducible apply applyCtrl_kept
    | with_reducible apply copyEarly_kept
    | with_reducible apply ifS_kept
    | split

theorem execBlockReady_kept {page : Nat} (H0 : Kept Q K s) :
    Answers (Kept Q K) (execBlockReady page s) := by
  delta execBlockReady
  repeat' first
    | with_reducible assumption
    | intro _
    | (extract_lets +onlyGivenNames t; refine (have ht : Kept Q K t := ?_; ?_); subst t; rotate_left; clear_value t)
    | (extract_lets +onlyGivenNames t; clear_value t)
    | with_reducible apply kept_ite
    | with_reducible apply bootHbmOn_kept
    | with_reducible apply calibrate_kept
    | with_reducible apply chooseFirst_kept
    | with_reducible apply goesOn_kept
    | with_reducible apply goesParked_kept
    | with_reducible apply setState_kept
    | with_reducible apply showPlls_kept
    | with_reducible apply answers_next
    | with_reducible apply answers_ite
    | split

theorem parkBlock_kept {page : Nat} (H0 : Kept Q K s) :
    Kept Q K (parkBlock page s) := by
  delta parkBlock
  repeat' first
    | with_reducible assumption
    | intro _
    | with_reducible apply kept_ite
    | with_reducible apply advanceTraffic_kept
    | with_reducible apply goesParked_kept
    | with_reducible apply ifS_kept
    | with_reducible apply setState_kept
    | with_reducible apply showPlls_kept

theorem execBlockIdlePoint_kept {page : Nat} (H0 : Kept Q K s) :
    Answers (Kept Q K) (execBlockIdlePoint page s) := by
  delta execBlockIdlePoint
  repeat' first
    | with_reducible assumption
    | intro _
    | (extract_lets +onlyGivenNames t; refine (have ht : Kept Q K t := ?_; ?_); subst t; rotate_left; clear_value t)
    | (extract_lets +onlyGivenNames t; clear_value t)
    | with_reducible apply kept_ite
    | with_reducible apply parkBlock_kept
    | with_reducible apply answers_next
    | with_reducible apply answers_ite
    | (simp only [kept_mk_iff]; with_reducible exact Kept.parts ‹_›)
    | split
    | (simp only [kept_mk_iff]; with_reducible refine Kept.parts ?_)

theorem execStopComplete_kept {page : Nat} (H0 : Kept Q K s) :
    Answers (Kept Q K) (execStopComplete page s) := by
  delta execStopComplete
  repeat' first
    | with_reducible assumption
    | intro _
    | (extract_lets +onlyGivenNames t; refine (have ht : Kept Q K t := ?_; ?_); subst t; rotate_left; clear_value t)
    | (extract_lets +onlyGivenNames t; clear_value t)
    | with_reducible apply kept_ite
    | with_reducible apply advanceTraffic_kept
    | with_reducible apply beginTeardown_kept
    | with_reducible apply closeRegions_kept
    | with_reducible apply endTeardown_kept
    | with_reducible apply goesOff_kept
    | with_reducible apply ifS_kept
    | with_reducible apply setState_kept
    | with_reducible apply showPlls_kept
    | with_reducible apply starts_kept
    | with_reducible apply answers_next
    | with_reducible apply answers_ite
    | split

theorem aoclkGone_kept (H0 : Kept Q K s) :
    Kept Q K (aoclkGone s) := by
  delta aoclkGone
  repeat' first
    | with_reducible assumption
    | intro _
    | (extract_lets +onlyGivenNames t; refine (have ht : Kept Q K t := ?_; ?_); subst t; rotate_left; clear_value t)
    | (extract_lets +onlyGivenNames t; clear_value t)
    | with_reducible apply kept_ite
    | with_reducible apply each_kept
    | with_reducible apply groupFault_kept
    | with_reducible apply ifS_kept
    | with_reducible apply raise_kept
    | with_reducible apply setB_kept

theorem execBlockInternalFault_kept {page code : Nat} (H0 : Kept Q K s) :
    Answers (Kept Q K) (execBlockInternalFault page code s) := by
  delta execBlockInternalFault
  repeat' first
    | with_reducible assumption
    | intro _
    | with_reducible apply kept_ite
    | with_reducible apply aoclkGone_kept
    | with_reducible apply blockFaults_kept
    | with_reducible apply ifS_kept
    | with_reducible apply unlocked_kept
    | with_reducible apply answers_next
    | with_reducible apply answers_ite
    | split

theorem execAoclkLoss_kept (H0 : Kept Q K s) :
    Answers (Kept Q K) (execAoclkLoss s) := by
  delta execAoclkLoss
  repeat' first
    | with_reducible assumption
    | intro _
    | with_reducible apply kept_ite
    | with_reducible apply aoclkGone_kept
    | with_reducible apply blockFaults_kept
    | with_reducible apply ifS_kept
    | with_reducible apply answers_next
    | with_reducible apply answers_ite

theorem execAoclkTick_kept (H0 : Kept Q K s) :
    Answers (Kept Q K) (execAoclkTick s) := by
  delta execAoclkTick
  repeat' first
    | with_reducible assumption
    | intro _
    | (extract_lets +onlyGivenNames t; refine (have ht : Kept Q K t := ?_; ?_); subst t; rotate_left; clear_value t)
    | (extract_lets +onlyGivenNames t; clear_value t)
    | with_reducible apply kept_ite
    | with_reducible apply chooseFirst_kept
    | with_reducible apply cuesPaced_kept
    | with_reducible apply each_kept
    | with_reducible apply groupDown_kept
    | with_reducible apply ifS_kept
    | with_reducible apply tickDomains_kept
    | with_reducible apply tickSelected_kept
    | with_reducible apply answers_next
    | with_reducible apply answers_ite
    | split

theorem clearPend_kept {page mask : Nat} (H0 : Kept Q K s) :
    Kept Q K (clearPend page mask s) := by
  delta clearPend
  repeat' first
    | with_reducible assumption
    | intro _
    | (extract_lets +onlyGivenNames t; refine (have ht : Kept Q K t := ?_; ?_); subst t; rotate_left; clear_value t)
    | (extract_lets +onlyGivenNames t; clear_value t)
    | with_reducible apply kept_ite
    | with_reducible apply clearF_kept

theorem execEvPendClear_kept {who : Who} {page : Nat} {mask : Word} (H0 : Kept Q K s) :
    Answers (Kept Q K) (execEvPendClear who page mask s) := by
  delta execEvPendClear
  repeat' first
    | with_reducible assumption
    | intro _
    | with_reducible apply kept_ite
    | with_reducible apply clearPend_kept
    | with_reducible apply guardWrite_kept
    | with_reducible apply answers_next
    | with_reducible apply answers_ite

theorem raiseForTest_kept {page b : Nat} (H0 : Kept Q K s) :
    Kept Q K (raiseForTest page b s) := by
  delta raiseForTest
  repeat' first
    | with_reducible assumption
    | intro _
    | (extract_lets +onlyGivenNames t; refine (have ht : Kept Q K t := ?_; ?_); subst t; rotate_left; clear_value t)
    | (extract_lets +onlyGivenNames t; clear_value t)
    | with_reducible apply kept_ite
    | with_reducible apply ifS_kept
    | with_reducible apply raise_kept
    | with_reducible apply setF_kept
    | split

theorem writeEvSet_kept {page mask : Nat} (H0 : Kept Q K s) :
    Kept Q K (writeEvSet page mask s) := by
  delta writeEvSet
  repeat' first
    | with_reducible assumption
    | intro _
    | with_reducible apply kept_ite
    | with_reducible apply each_kept
    | with_reducible apply raiseForTest_kept

theorem execEvSetWrite_kept {who : Who} {page : Nat} {mask : Word} (H0 : Kept Q K s) :
    Answers (Kept Q K) (execEvSetWrite who page mask s) := by
  delta execEvSetWrite
  repeat' first
    | with_reducible assumption
    | intro _
    | with_reducible apply kept_ite
    | with_reducible apply guardWrite_kept
    | with_reducible apply writeEvSet_kept
    | with_reducible apply answers_next
    | with_reducible apply answers_ite

end Sys2Proof.Machine
end

