-- ==== Sys2Proof/Laws/Kept/Firmware.lean ====
section
/-!
SUPPORT. Every operation of Machine/Firmware.lean keeps the queue and the canonical form.
-/

namespace Sys2Proof.Machine

set_option linter.unusedTactic false
set_option linter.unreachableTactic false
set_option linter.unusedSimpArgs false

variable {Q : List Instr} {K : Prop} {s : State}

theorem setSlotMem_kept {slot : Bool} {m : FMap Byte} (H0 : Kept Q K s) :
    Kept Q K (setSlotMem slot m s) := by
  delta setSlotMem
  repeat' first
    | with_reducible assumption
    | intro _
    | (extract_lets +onlyGivenNames t; refine (have ht : Kept Q K t := ?_; ?_); subst t; rotate_left; clear_value t)
    | (extract_lets +onlyGivenNames t; clear_value t)
    | with_reducible apply kept_ite
    | (simp only [kept_mk_iff]; with_reducible exact Kept.parts ‹_›)
    | split
    | (simp only [kept_mk_iff]; with_reducible refine Kept.parts ?_)

theorem eraseSlot_kept {slot : Bool} {a n : Nat} (H0 : Kept Q K s) :
    Kept Q K (eraseSlot slot a n s) := by
  delta eraseSlot
  repeat' first
    | with_reducible assumption
    | intro _
    | with_reducible apply kept_ite
    | with_reducible apply setSlotMem_kept
    | split

theorem programSlot_kept {slot : Bool} {a : Nat} {bs : List Byte} (H0 : Kept Q K s) :
    Kept Q K (programSlot slot a bs s) := by
  delta programSlot
  repeat' first
    | with_reducible assumption
    | intro _
    | with_reducible apply kept_ite
    | with_reducible apply setSlotMem_kept
    | with_reducible apply kept_foldl
    | split

theorem blowFuses_kept {slot : Bool} (H0 : Kept Q K s) :
    Kept Q K (blowFuses slot s) := by
  delta blowFuses
  repeat' first
    | with_reducible assumption
    | intro _
    | (extract_lets +onlyGivenNames t; refine (have ht : Kept Q K t := ?_; ?_); subst t; rotate_left; clear_value t)
    | (extract_lets +onlyGivenNames t; clear_value t)
    | with_reducible apply kept_ite
    | with_reducible apply setF_kept
    | (simp only [kept_mk_iff]; with_reducible exact Kept.parts ‹_›)
    | (simp only [kept_mk_iff]; with_reducible refine Kept.parts ?_)

theorem runImage_kept {slot half trial alt : Bool} {tries : Nat} (H0 : Kept Q K s) :
    Kept Q K (runImage slot half trial alt tries s) := by
  delta runImage
  repeat' first
    | with_reducible assumption
    | intro _
    | (extract_lets +onlyGivenNames t; refine (have ht : Kept Q K t := ?_; ?_); subst t; rotate_left; clear_value t)
    | (extract_lets +onlyGivenNames t; clear_value t)
    | with_reducible apply kept_ite
    | with_reducible apply blowFuses_kept
    | with_reducible apply ifS_kept
    | with_reducible apply setB_kept
    | with_reducible apply setF_kept

theorem enterRecovery_kept (H0 : Kept Q K s) :
    Kept Q K (enterRecovery s) := by
  delta enterRecovery
  repeat' first
    | with_reducible assumption
    | intro _
    | (extract_lets +onlyGivenNames t; refine (have ht : Kept Q K t := ?_; ?_); subst t; rotate_left; clear_value t)
    | (extract_lets +onlyGivenNames t; clear_value t)
    | with_reducible apply kept_ite
    | with_reducible apply setF_kept
    | (simp only [kept_mk_iff]; with_reducible exact Kept.parts ‹_›)
    | (simp only [kept_mk_iff]; with_reducible refine Kept.parts ?_)

theorem trySlot_kept {slot half trial : Bool} {tries : Nat} (H0 : Kept Q K s) :
    Kept Q K (trySlot slot half trial tries s) := by
  delta trySlot
  repeat' first
    | with_reducible assumption
    | intro _
    | with_reducible apply kept_ite
    | with_reducible apply enterRecovery_kept
    | with_reducible apply raise_kept
    | with_reducible apply runImage_kept
    | with_reducible apply setF_kept
    | split

theorem romSelect_kept (H0 : Kept Q K s) :
    Kept Q K (romSelect s) := by
  delta romSelect
  repeat' first
    | with_reducible assumption
    | intro _
    | (extract_lets +onlyGivenNames t; refine (have ht : Kept Q K t := ?_; ?_); subst t; rotate_left; clear_value t)
    | (extract_lets +onlyGivenNames t; clear_value t)
    | with_reducible apply kept_ite
    | with_reducible apply raise_kept
    | with_reducible apply trySlot_kept
    | with_reducible apply writeBoot_kept
    | (simp only [kept_mk_iff]; with_reducible exact Kept.parts ‹_›)
    | split
    | (simp only [kept_mk_iff]; with_reducible refine Kept.parts ?_)

theorem migrate_kept (H0 : Kept Q K s) :
    Kept Q K (migrate s) := by
  delta migrate
  repeat' first
    | with_reducible assumption
    | intro _
    | (extract_lets +onlyGivenNames t; refine (have ht : Kept Q K t := ?_; ?_); subst t; rotate_left; clear_value t)
    | (extract_lets +onlyGivenNames t; clear_value t)
    | with_reducible apply kept_ite
    | with_reducible apply raise_kept
    | with_reducible apply setB_kept
    | with_reducible apply setHalf_kept
    | with_reducible apply kept_foldl
    | split

theorem fwuDone_kept {op : Nat} {c : Cmd} {status reason r0 : Nat} (H0 : Kept Q K s) :
    Kept Q K (fwuDone op c status reason r0 s) := by
  delta fwuDone
  repeat' first
    | with_reducible assumption
    | intro _
    | with_reducible apply kept_ite
    | with_reducible apply finish_kept
    | with_reducible apply ifS_kept
    | with_reducible apply raise_kept

theorem updateCmd_kept {op : Nat} {c : Cmd} {body : State → State} (H0 : Kept Q K s) (hbody : ∀ (x0 : State), Kept Q K x0 → Kept Q K (body x0)) :
    Kept Q K (updateCmd op c body s) := by
  delta updateCmd
  repeat' first
    | with_reducible assumption
    | intro _
    | with_reducible apply kept_ite
    | with_reducible apply fwuDone_kept
    | with_reducible apply ifS_kept
    | with_reducible apply raise_kept
    | with_reducible apply runCmd_kept
    | with_reducible apply hbody
    | split

theorem updateSrc_kept {op : Nat} {c : Cmd} {f : List Byte → State → State} (H0 : Kept Q K s) (hf : ∀ (x0 : List Byte) (x1 : State), Kept Q K x1 → Kept Q K (f x0 x1)) :
    Kept Q K (updateSrc op c f s) := by
  delta updateSrc
  repeat' first
    | with_reducible assumption
    | intro _
    | with_reducible apply kept_ite
    | with_reducible apply abortOperand_kept
    | with_reducible apply raise_kept
    | with_reducible apply hf
    | split

theorem execFwuBegin_kept {c : Cmd} (H0 : Kept Q K s) :
    Answers (Kept Q K) (execFwuBegin c s) := by
  delta execFwuBegin
  repeat' first
    | with_reducible assumption
    | intro _
    | with_reducible apply kept_ite
    | with_reducible apply fwuDone_kept
    | with_reducible apply setDl_kept
    | with_reducible apply updateCmd_kept
    | with_reducible apply updateSrc_kept
    | with_reducible apply answers_next
    | with_reducible apply answers_ite
    | (simp only [kept_mk_iff]; with_reducible exact Kept.parts ‹_›)
    | split
    | (simp only [kept_mk_iff]; with_reducible refine Kept.parts ?_)

theorem execFwuChunk_kept {c : Cmd} (H0 : Kept Q K s) :
    Answers (Kept Q K) (execFwuChunk c s) := by
  delta execFwuChunk
  repeat' first
    | with_reducible assumption
    | intro _
    | (extract_lets +onlyGivenNames t; refine (have ht : Kept Q K t := ?_; ?_); subst t; rotate_left; clear_value t)
    | (extract_lets +onlyGivenNames t; clear_value t)
    | with_reducible apply kept_ite
    | with_reducible apply eraseSlot_kept
    | with_reducible apply fwuDone_kept
    | with_reducible apply programSlot_kept
    | with_reducible apply setDl_kept
    | with_reducible apply updateCmd_kept
    | with_reducible apply updateSrc_kept
    | with_reducible apply answers_next
    | with_reducible apply answers_ite
    | (simp only [kept_mk_iff]; with_reducible exact Kept.parts ‹_›)
    | split
    | (simp only [kept_mk_iff]; with_reducible refine Kept.parts ?_)

theorem execFwuVerify_kept {c : Cmd} (H0 : Kept Q K s) :
    Answers (Kept Q K) (execFwuVerify c s) := by
  delta execFwuVerify
  repeat' first
    | with_reducible assumption
    | intro _
    | (extract_lets +onlyGivenNames t; refine (have ht : Kept Q K t := ?_; ?_); subst t; rotate_left; clear_value t)
    | (extract_lets +onlyGivenNames t; clear_value t)
    | with_reducible apply kept_ite
    | with_reducible apply fwuDone_kept
    | with_reducible apply ifS_kept
    | with_reducible apply setDl_kept
    | with_reducible apply setF_kept
    | with_reducible apply updateCmd_kept
    | with_reducible apply answers_next
    | with_reducible apply answers_ite
    | (simp only [kept_mk_iff]; with_reducible exact Kept.parts ‹_›)
    | split
    | (simp only [kept_mk_iff]; with_reducible refine Kept.parts ?_)

theorem beginPause_kept (H0 : Kept Q K s) :
    Kept Q K (beginPause s) := by
  delta beginPause
  repeat' first
    | with_reducible assumption
    | intro _
    | (extract_lets +onlyGivenNames t; refine (have ht : Kept Q K t := ?_; ?_); subst t; rotate_left; clear_value t)
    | (extract_lets +onlyGivenNames t; clear_value t)
    | with_reducible apply kept_ite
    | (simp only [kept_mk_iff]; with_reducible exact Kept.parts ‹_›)
    | (simp only [kept_mk_iff]; with_reducible refine Kept.parts ?_)

theorem execFwuActivate_kept {c : Cmd} (H0 : Kept Q K s) :
    Answers (Kept Q K) (execFwuActivate c s) := by
  delta execFwuActivate
  repeat' first
    | with_reducible assumption
    | intro _
    | (extract_lets +onlyGivenNames t; refine (have ht : Kept Q K t := ?_; ?_); subst t; rotate_left; clear_value t)
    | (extract_lets +onlyGivenNames t; clear_value t)
    | with_reducible apply kept_ite
    | with_reducible apply beginPause_kept
    | with_reducible apply complete_kept
    | with_reducible apply fwuDone_kept
    | with_reducible apply setDl_kept
    | with_reducible apply updateCmd_kept
    | with_reducible apply writeBoot_kept
    | with_reducible apply answers_next
    | with_reducible apply answers_ite
    | (simp only [kept_mk_iff]; with_reducible exact Kept.parts ‹_›)
    | split
    | (simp only [kept_mk_iff]; with_reducible refine Kept.parts ?_)

theorem execFwuConfirm_kept {c : Cmd} (H0 : Kept Q K s) :
    Answers (Kept Q K) (execFwuConfirm c s) := by
  delta execFwuConfirm
  repeat' first
    | with_reducible assumption
    | intro _
    | (extract_lets +onlyGivenNames t; refine (have ht : Kept Q K t := ?_; ?_); subst t; rotate_left; clear_value t)
    | (extract_lets +onlyGivenNames t; clear_value t)
    | with_reducible apply kept_ite
    | with_reducible apply blowFuses_kept
    | with_reducible apply fwuDone_kept
    | with_reducible apply raise_kept
    | with_reducible apply setB_kept
    | with_reducible apply setF_kept
    | with_reducible apply updateCmd_kept
    | with_reducible apply writeBoot_kept
    | with_reducible apply answers_next
    | with_reducible apply answers_ite
    | (simp only [kept_mk_iff]; with_reducible exact Kept.parts ‹_›)
    | split
    | (simp only [kept_mk_iff]; with_reducible refine Kept.parts ?_)

theorem execFwuAbort_kept {c : Cmd} (H0 : Kept Q K s) :
    Answers (Kept Q K) (execFwuAbort c s) := by
  delta execFwuAbort
  repeat' first
    | with_reducible assumption
    | intro _
    | (extract_lets +onlyGivenNames t; refine (have ht : Kept Q K t := ?_; ?_); subst t; rotate_left; clear_value t)
    | (extract_lets +onlyGivenNames t; clear_value t)
    | with_reducible apply kept_ite
    | with_reducible apply beginPause_kept
    | with_reducible apply fwuDone_kept
    | with_reducible apply raise_kept
    | with_reducible apply setDl_kept
    | with_reducible apply trySlot_kept
    | with_reducible apply updateCmd_kept
    | with_reducible apply writeBoot_kept
    | with_reducible apply answers_next
    | with_reducible apply answers_ite
    | (simp only [kept_mk_iff]; with_reducible exact Kept.parts ‹_›)
    | split
    | (simp only [kept_mk_iff]; with_reducible refine Kept.parts ?_)

theorem abortOutstanding_kept {keep : Option CmdRef} {p : Nat} (H0 : Kept Q K s) :
    Kept Q K (abortOutstanding keep p s) := by
  delta abortOutstanding
  repeat' first
    | with_reducible assumption
    | intro _
    | (extract_lets +onlyGivenNames t; refine (have ht : Kept Q K t := ?_; ?_); subst t; rotate_left; clear_value t)
    | (extract_lets +onlyGivenNames t; clear_value t)
    | with_reducible apply kept_ite
    | with_reducible apply State.setPrt_kept
    | with_reducible apply complete_kept
    | with_reducible apply each_kept
    | with_reducible apply ifS_kept
    | with_reducible apply raise_kept
    | (simp only [kept_mk_iff]; with_reducible exact Kept.parts ‹_›)
    | (simp only [kept_mk_iff]; with_reducible refine Kept.parts ?_)

theorem execActivationPauseEnd_kept {us : Nat} (H0 : Kept Q K s) :
    Answers (Kept Q K) (execActivationPauseEnd us s) := by
  delta execActivationPauseEnd
  repeat' first
    | with_reducible assumption
    | intro _
    | (extract_lets +onlyGivenNames t; refine (have ht : Kept Q K t := ?_; ?_); subst t; rotate_left; clear_value t)
    | (extract_lets +onlyGivenNames t; clear_value t)
    | with_reducible apply kept_ite
    | with_reducible apply abortOutstanding_kept
    | with_reducible apply complete_kept
    | with_reducible apply each_kept
    | with_reducible apply ifS_kept
    | with_reducible apply migrate_kept
    | with_reducible apply raise_kept
    | with_reducible apply runImage_kept
    | with_reducible apply setF_kept
    | with_reducible apply answers_next
    | with_reducible apply answers_ite
    | (simp only [kept_mk_iff]; with_reducible exact Kept.parts ‹_›)
    | split
    | (simp only [kept_mk_iff]; with_reducible refine Kept.parts ?_)

theorem execFwWatchdogExpire_kept (H0 : Kept Q K s) :
    Answers (Kept Q K) (execFwWatchdogExpire s) := by
  delta execFwWatchdogExpire
  repeat' first
    | with_reducible assumption
    | intro _
    | with_reducible apply kept_ite
    | with_reducible apply addF_kept
    | with_reducible apply beginPause_kept
    | with_reducible apply ifS_kept
    | with_reducible apply romSelect_kept
    | with_reducible apply answers_next
    | with_reducible apply answers_ite
    | split

theorem execCfgItem_kept {c : Cmd} (H0 : Kept Q K s) :
    Answers (Kept Q K) (execCfgItem c s) := by
  delta execCfgItem
  repeat' first
    | with_reducible assumption
    | intro _
    | (extract_lets +onlyGivenNames t; refine (have ht : Kept Q K t := ?_; ?_); subst t; rotate_left; clear_value t)
    | (extract_lets +onlyGivenNames t; clear_value t)
    | with_reducible apply kept_ite
    | with_reducible apply abortOperand_kept
    | with_reducible apply answer_kept
    | with_reducible apply countF_kept
    | with_reducible apply finish_kept
    | with_reducible apply memWrite_kept
    | with_reducible apply runCmd_kept
    | with_reducible apply writeItem_kept
    | with_reducible apply answers_next
    | with_reducible apply answers_ite
    | split

theorem execCfgHalfErase_kept (H0 : Kept Q K s) :
    Answers (Kept Q K) (execCfgHalfErase s) := by
  delta execCfgHalfErase
  repeat' first
    | with_reducible assumption
    | intro _
    | (extract_lets +onlyGivenNames t; refine (have ht : Kept Q K t := ?_; ?_); subst t; rotate_left; clear_value t)
    | (extract_lets +onlyGivenNames t; clear_value t)
    | with_reducible apply kept_ite
    | with_reducible apply setHalf_kept
    | with_reducible apply answers_next
    | with_reducible apply answers_ite
    | (simp only [kept_mk_iff]; with_reducible exact Kept.parts ‹_›)
    | split
    | (simp only [kept_mk_iff]; with_reducible refine Kept.parts ?_)

theorem rcvProgram_kept (H0 : Kept Q K s) :
    Kept Q K (rcvProgram s) := by
  delta rcvProgram
  repeat' first
    | with_reducible assumption
    | intro _
    | (extract_lets +onlyGivenNames t; refine (have ht : Kept Q K t := ?_; ?_); subst t; rotate_left; clear_value t)
    | (extract_lets +onlyGivenNames t; clear_value t)
    | with_reducible apply kept_ite
    | with_reducible apply eraseSlot_kept
    | with_reducible apply ifS_kept
    | with_reducible apply programSlot_kept
    | with_reducible apply setF_kept
    | (simp only [kept_mk_iff]; with_reducible exact Kept.parts ‹_›)
    | split
    | (simp only [kept_mk_iff]; with_reducible refine Kept.parts ?_)

theorem rcvVerify_kept (H0 : Kept Q K s) :
    Kept Q K (rcvVerify s) := by
  delta rcvVerify
  repeat' first
    | with_reducible assumption
    | intro _
    | (extract_lets +onlyGivenNames t; refine (have ht : Kept Q K t := ?_; ?_); subst t; rotate_left; clear_value t)
    | (extract_lets +onlyGivenNames t; clear_value t)
    | with_reducible apply kept_ite
    | with_reducible apply runImage_kept
    | with_reducible apply setF_kept
    | with_reducible apply writeBoot_kept
    | (simp only [kept_mk_iff]; with_reducible exact Kept.parts ‹_›)
    | split
    | (simp only [kept_mk_iff]; with_reducible refine Kept.parts ?_)

theorem writeRcvCtrl_kept {v : Nat} (H0 : Kept Q K s) :
    Kept Q K (writeRcvCtrl v s) := by
  delta writeRcvCtrl
  repeat' first
    | with_reducible assumption
    | intro _
    | with_reducible apply kept_ite
    | with_reducible apply ifS_kept
    | with_reducible apply rcvProgram_kept
    | with_reducible apply rcvVerify_kept
    | with_reducible apply setB_kept
    | split

theorem execFwuRcvProgram_kept {who : Who} {v : Word} (H0 : Kept Q K s) :
    Answers (Kept Q K) (execFwuRcvProgram who v s) := by
  delta execFwuRcvProgram
  repeat' first
    | with_reducible assumption
    | intro _
    | with_reducible apply kept_ite
    | with_reducible apply guardWrite_kept
    | with_reducible apply writeRcvCtrl_kept
    | with_reducible apply answers_next
    | with_reducible apply answers_ite

theorem execFwuRcvVerify_kept {who : Who} {v : Word} (H0 : Kept Q K s) :
    Answers (Kept Q K) (execFwuRcvVerify who v s) := by
  delta execFwuRcvVerify
  repeat' first
    | with_reducible assumption
    | intro _
    | with_reducible apply kept_ite
    | with_reducible apply guardWrite_kept
    | with_reducible apply writeRcvCtrl_kept
    | with_reducible apply answers_next
    | with_reducible apply answers_ite

theorem reportOne_kept {c : Cmd} (H0 : Kept Q K s) :
    Kept Q K (reportOne c s) := by
  delta reportOne
  repeat' first
    | with_reducible assumption
    | intro _
    | (extract_lets +onlyGivenNames t; refine (have ht : Kept Q K t := ?_; ?_); subst t; rotate_left; clear_value t)
    | (extract_lets +onlyGivenNames t; clear_value t)
    | with_reducible apply kept_ite
    | with_reducible apply abortOperand_kept
    | with_reducible apply addF_kept
    | with_reducible apply answer_kept
    | with_reducible apply finish_kept
    | with_reducible apply memWrite_kept
    | with_reducible apply raise_kept
    | with_reducible apply withLen_kept
    | (simp only [kept_mk_iff]; with_reducible exact Kept.parts ‹_›)
    | split
    | (simp only [kept_mk_iff]; with_reducible refine Kept.parts ?_)

theorem serveReports_kept {cs : List Cmd} (H0 : Kept Q K s) :
    Kept Q K (serveReports cs s) := by
  delta serveReports
  repeat' first
    | with_reducible assumption
    | intro _
    | (extract_lets +onlyGivenNames t; refine (have ht : Kept Q K t := ?_; ?_); subst t; rotate_left; clear_value t)
    | (extract_lets +onlyGivenNames t; clear_value t)
    | with_reducible apply kept_ite
    | with_reducible apply each_kept
    | with_reducible apply reportOne_kept
    | (simp only [kept_mk_iff]; with_reducible exact Kept.parts ‹_›)
    | split
    | (simp only [kept_mk_iff]; with_reducible refine Kept.parts ?_)

theorem execAttReport_kept {cs : List Cmd} (H0 : Kept Q K s) :
    Answers (Kept Q K) (execAttReport cs s) := by
  delta execAttReport
  repeat' first
    | with_reducible assumption
    | intro _
    | with_reducible apply kept_ite
    | with_reducible apply runTies_kept
    | with_reducible apply serveReports_kept
    | with_reducible apply answers_next
    | with_reducible apply answers_ite

end Sys2Proof.Machine
end

