-- ==== Sys2Proof/Laws/Kept/Power.lean ====
section
/-!
SUPPORT. Every operation of Machine/Power.lean keeps the queue and the canonical form.
-/

namespace Sys2Proof.Machine

set_option linter.unusedTactic false
set_option linter.unreachableTactic false
set_option linter.unusedSimpArgs false

variable {Q : List Instr} {K : Prop} {s : State}

theorem mainLost_kept {keep : Nat → Bool} (H0 : Kept Q K s) : Kept Q K (mainLost keep s) := by
  unfold mainLost
  exact setB_kept (kept_mk ⟨H0.1.1, fun k => ⟨FMap.wf_keep resetWord _ s.regs (H0.1.2 k).1, rfl, rfl, (H0.1.2 k).2.2.2⟩⟩)

theorem coldReset_kept {cause : Nat} {vhv : Bool} (H0 : Kept Q K s) : Kept Q K (coldReset cause vhv s) := by
  unfold coldReset
  exact showDl_kept (setF_kept (kept_mk ⟨H0.1.1, fun k => ⟨rfl, rfl, rfl, (H0.1.2 k).2.2.2⟩⟩))

theorem driveMainEn_kept {v : Bool} (H0 : Kept Q K s) :
    Kept Q K (driveMainEn v s) := by
  delta driveMainEn
  repeat' first
    | with_reducible assumption
    | intro _
    | (extract_lets +onlyGivenNames t; refine (have ht : Kept Q K t := ?_; ?_); subst t; rotate_left; clear_value t)
    | (extract_lets +onlyGivenNames t; clear_value t)
    | with_reducible apply kept_ite
    | with_reducible apply emit_kept
    | with_reducible apply setB_kept
    | (simp only [kept_mk_iff]; with_reducible exact Kept.parts ‹_›)
    | split
    | (simp only [kept_mk_iff]; with_reducible refine Kept.parts ?_)

theorem setPwr_kept {st : Nat} (H0 : Kept Q K s) :
    Kept Q K (setPwr st s) := by
  delta setPwr
  repeat' first
    | with_reducible assumption
    | intro _
    | with_reducible apply kept_ite
    | with_reducible apply setF_kept
    | with_reducible apply showPlls_kept

theorem copyRoutes_kept (H0 : Kept Q K s) :
    Kept Q K (copyRoutes s) := by
  delta copyRoutes
  repeat' first
    | with_reducible assumption
    | intro _
    | (extract_lets +onlyGivenNames t; refine (have ht : Kept Q K t := ?_; ?_); subst t; rotate_left; clear_value t)
    | (extract_lets +onlyGivenNames t; clear_value t)
    | with_reducible apply kept_ite
    | with_reducible apply State.setPrt_kept
    | with_reducible apply each_kept
    | (simp only [kept_mk_iff]; with_reducible exact Kept.parts ‹_›)
    | (simp only [kept_mk_iff]; with_reducible refine Kept.parts ?_)

theorem raiseMain_kept (H0 : Kept Q K s) :
    Kept Q K (raiseMain s) := by
  delta raiseMain
  repeat' first
    | with_reducible assumption
    | intro _
    | with_reducible apply kept_ite
    | with_reducible apply driveMainEn_kept
    | with_reducible apply setPwr_kept

theorem wake_kept {mask : Nat} (H0 : Kept Q K s) :
    Kept Q K (wake mask s) := by
  delta wake
  repeat' first
    | with_reducible assumption
    | intro _
    | (extract_lets +onlyGivenNames t; refine (have ht : Kept Q K t := ?_; ?_); subst t; rotate_left; clear_value t)
    | (extract_lets +onlyGivenNames t; clear_value t)
    | with_reducible apply kept_ite
    | with_reducible apply raise_kept
    | with_reducible apply raiseMain_kept
    | with_reducible apply setB_kept
    | with_reducible apply setF_kept
    | with_reducible apply setPwr_kept
    | (simp only [kept_mk_iff]; with_reducible exact Kept.parts ‹_›)
    | split
    | (simp only [kept_mk_iff]; with_reducible refine Kept.parts ?_)

theorem enterStandby_kept (H0 : Kept Q K s) :
    Kept Q K (enterStandby s) := by
  delta enterStandby
  repeat' first
    | with_reducible assumption
    | intro _
    | (extract_lets +onlyGivenNames t; refine (have ht : Kept Q K t := ?_; ?_); subst t; rotate_left; clear_value t)
    | (extract_lets +onlyGivenNames t; clear_value t)
    | with_reducible apply kept_ite
    | with_reducible apply setF_kept
    | with_reducible apply setPwr_kept
    | (simp only [kept_mk_iff]; with_reducible exact Kept.parts ‹_›)
    | (simp only [kept_mk_iff]; with_reducible refine Kept.parts ?_)

theorem enterSleep_kept (H0 : Kept Q K s) :
    Kept Q K (enterSleep s) := by
  delta enterSleep
  repeat' first
    | with_reducible assumption
    | intro _
    | (extract_lets +onlyGivenNames t; refine (have ht : Kept Q K t := ?_; ?_); subst t; rotate_left; clear_value t)
    | (extract_lets +onlyGivenNames t; clear_value t)
    | with_reducible apply kept_ite
    | with_reducible apply abortOutstanding_kept
    | with_reducible apply copyRoutes_kept
    | with_reducible apply corAbort_kept
    | with_reducible apply driveMainEn_kept
    | with_reducible apply each_kept
    | with_reducible apply mainLost_kept
    | with_reducible apply raise_kept
    | with_reducible apply setF_kept
    | with_reducible apply setPwr_kept
    | with_reducible apply slcDown_kept
    | (simp only [kept_mk_iff]; with_reducible exact Kept.parts ‹_›)
    | (simp only [kept_mk_iff]; with_reducible refine Kept.parts ?_)

theorem applyPower_kept {target : Nat} (H0 : Kept Q K s) :
    Kept Q K (applyPower target s) := by
  delta applyPower
  repeat' first
    | with_reducible assumption
    | intro _
    | with_reducible apply kept_ite
    | with_reducible apply enterSleep_kept
    | with_reducible apply enterStandby_kept
    | with_reducible apply wake_kept
    | split

theorem powerOne_kept {c : Cmd} (H0 : Kept Q K s) :
    Kept Q K (powerOne c s) := by
  delta powerOne
  repeat' first
    | with_reducible assumption
    | intro _
    | (extract_lets +onlyGivenNames t; refine (have ht : Kept Q K t := ?_; ?_); subst t; rotate_left; clear_value t)
    | (extract_lets +onlyGivenNames t; clear_value t)
    | with_reducible apply kept_ite
    | with_reducible apply answer_kept
    | with_reducible apply applyPower_kept
    | with_reducible apply ifS_kept

theorem settlePower_kept {cs : List Cmd} (H0 : Kept Q K s) :
    Kept Q K (settlePower cs s) := by
  delta settlePower
  repeat' first
    | with_reducible assumption
    | intro _
    | (extract_lets +onlyGivenNames t; refine (have ht : Kept Q K t := ?_; ?_); subst t; rotate_left; clear_value t)
    | (extract_lets +onlyGivenNames t; clear_value t)
    | with_reducible apply kept_ite
    | with_reducible apply answer_kept
    | with_reducible apply each_kept
    | with_reducible apply powerOne_kept
    | with_reducible apply setF_kept
    | (simp only [kept_mk_iff]; with_reducible exact Kept.parts ‹_›)
    | split
    | (simp only [kept_mk_iff]; with_reducible refine Kept.parts ?_)

theorem execPwrSet_kept {cs : List Cmd} (H0 : Kept Q K s) :
    Answers (Kept Q K) (execPwrSet cs s) := by
  delta execPwrSet
  repeat' first
    | with_reducible assumption
    | intro _
    | with_reducible apply kept_ite
    | with_reducible apply each_kept
    | with_reducible apply powerOne_kept
    | with_reducible apply runTies_kept
    | with_reducible apply settlePower_kept
    | with_reducible apply answers_next
    | with_reducible apply answers_ite
    | split

theorem execStandbyEntered_kept (H0 : Kept Q K s) :
    Answers (Kept Q K) (execStandbyEntered s) := by
  delta execStandbyEntered
  repeat' first
    | with_reducible assumption
    | intro _
    | (extract_lets +onlyGivenNames t; refine (have ht : Kept Q K t := ?_; ?_); subst t; rotate_left; clear_value t)
    | (extract_lets +onlyGivenNames t; clear_value t)
    | with_reducible apply kept_ite
    | with_reducible apply copyRoutes_kept
    | with_reducible apply each_kept
    | with_reducible apply ifS_kept
    | with_reducible apply parkBlock_kept
    | with_reducible apply raise_kept
    | with_reducible apply selfRefresh_kept
    | with_reducible apply setB_kept
    | with_reducible apply setPwr_kept
    | with_reducible apply wake_kept
    | with_reducible apply answers_next
    | with_reducible apply answers_ite
    | (simp only [kept_mk_iff]; with_reducible exact Kept.parts ‹_›)
    | split
    | (simp only [kept_mk_iff]; with_reducible refine Kept.parts ?_)

theorem execWakeNLow_kept (H0 : Kept Q K s) :
    Answers (Kept Q K) (execWakeNLow s) := by
  delta execWakeNLow
  repeat' first
    | with_reducible assumption
    | intro _
    | with_reducible apply kept_ite
    | with_reducible apply wake_kept
    | with_reducible apply answers_next
    | with_reducible apply answers_ite

theorem execTimedWake_kept (H0 : Kept Q K s) :
    Answers (Kept Q K) (execTimedWake s) := by
  delta execTimedWake
  repeat' first
    | with_reducible assumption
    | intro _
    | (extract_lets +onlyGivenNames t; refine (have ht : Kept Q K t := ?_; ?_); subst t; rotate_left; clear_value t)
    | (extract_lets +onlyGivenNames t; clear_value t)
    | with_reducible apply kept_ite
    | with_reducible apply wake_kept
    | with_reducible apply answers_next
    | with_reducible apply answers_ite
    | (simp only [kept_mk_iff]; with_reducible exact Kept.parts ‹_›)
    | split
    | (simp only [kept_mk_iff]; with_reducible refine Kept.parts ?_)

theorem releaseHeld_kept (H0 : Kept Q K s) :
    Kept Q K (releaseHeld s) := by
  delta releaseHeld
  repeat' first
    | with_reducible assumption
    | intro _
    | (extract_lets +onlyGivenNames t; refine (have ht : Kept Q K t := ?_; ?_); subst t; rotate_left; clear_value t)
    | (extract_lets +onlyGivenNames t; clear_value t)
    | with_reducible apply kept_ite
    | with_reducible apply deliverTo_kept
    | with_reducible apply each_kept
    | (simp only [kept_mk_iff]; with_reducible exact Kept.parts ‹_›)
    | (simp only [kept_mk_iff]; with_reducible refine Kept.parts ?_)

theorem execStandbyWakeDone_kept (H0 : Kept Q K s) :
    Answers (Kept Q K) (execStandbyWakeDone s) := by
  delta execStandbyWakeDone
  repeat' first
    | with_reducible assumption
    | intro _
    | (extract_lets +onlyGivenNames t; refine (have ht : Kept Q K t := ?_; ?_); subst t; rotate_left; clear_value t)
    | (extract_lets +onlyGivenNames t; clear_value t)
    | with_reducible apply kept_ite
    | with_reducible apply each_kept
    | with_reducible apply ifS_kept
    | with_reducible apply releaseHeld_kept
    | with_reducible apply setF_kept
    | with_reducible apply showPlls_kept
    | with_reducible apply unpark_kept
    | with_reducible apply answers_next
    | with_reducible apply answers_ite
    | (simp only [kept_mk_iff]; with_reducible exact Kept.parts ‹_›)
    | split
    | (simp only [kept_mk_iff]; with_reducible refine Kept.parts ?_)

theorem boot_kept (H0 : Kept Q K s) :
    Kept Q K (boot s) := by
  delta boot
  repeat' first
    | with_reducible assumption
    | intro _
    | (extract_lets +onlyGivenNames t; refine (have ht : Kept Q K t := ?_; ?_); subst t; rotate_left; clear_value t)
    | (extract_lets +onlyGivenNames t; clear_value t)
    | with_reducible apply kept_ite
    | with_reducible apply addF_kept
    | with_reducible apply ifS_kept
    | with_reducible apply mainLost_kept
    | with_reducible apply setF_kept
    | with_reducible apply setPwr_kept
    | with_reducible apply showDl_kept
    | (simp only [kept_mk_iff]; with_reducible exact Kept.parts ‹_›)
    | (simp only [kept_mk_iff]; with_reducible refine Kept.parts ?_)

theorem romStarts_kept (H0 : Kept Q K s) :
    Kept Q K (romStarts s) := by
  delta romStarts
  repeat' first
    | with_reducible assumption
    | intro _
    | (extract_lets +onlyGivenNames t; refine (have ht : Kept Q K t := ?_; ?_); subst t; rotate_left; clear_value t)
    | (extract_lets +onlyGivenNames t; clear_value t)
    | with_reducible apply kept_ite
    | with_reducible apply enterRecovery_kept
    | with_reducible apply romSelect_kept
    | (simp only [kept_mk_iff]; with_reducible exact Kept.parts ‹_›)
    | split
    | (simp only [kept_mk_iff]; with_reducible refine Kept.parts ?_)

theorem execMainPgRise_kept (H0 : Kept Q K s) :
    Answers (Kept Q K) (execMainPgRise s) := by
  delta execMainPgRise
  repeat' first
    | with_reducible assumption
    | intro _
    | (extract_lets +onlyGivenNames t; refine (have ht : Kept Q K t := ?_; ?_); subst t; rotate_left; clear_value t)
    | (extract_lets +onlyGivenNames t; clear_value t)
    | with_reducible apply kept_ite
    | with_reducible apply boot_kept
    | with_reducible apply enterFault_kept
    | with_reducible apply ifS_kept
    | with_reducible apply romStarts_kept
    | with_reducible apply setB_kept
    | with_reducible apply answers_next
    | with_reducible apply answers_ite
    | (simp only [kept_mk_iff]; with_reducible exact Kept.parts ‹_›)
    | split
    | (simp only [kept_mk_iff]; with_reducible refine Kept.parts ?_)

theorem mainFails_kept {warm : Nat} (H0 : Kept Q K s) :
    Kept Q K (mainFails warm s) := by
  delta mainFails
  repeat' first
    | with_reducible assumption
    | intro _
    | (extract_lets +onlyGivenNames t; refine (have ht : Kept Q K t := ?_; ?_); subst t; rotate_left; clear_value t)
    | (extract_lets +onlyGivenNames t; clear_value t)
    | with_reducible apply kept_ite
    | with_reducible apply driveMainEn_kept
    | with_reducible apply mainLost_kept
    | with_reducible apply raise_kept
    | with_reducible apply setF_kept
    | with_reducible apply setPwr_kept
    | (simp only [kept_mk_iff]; with_reducible exact Kept.parts ‹_›)
    | (simp only [kept_mk_iff]; with_reducible refine Kept.parts ?_)

theorem execMainPgFall_kept (H0 : Kept Q K s) :
    Answers (Kept Q K) (execMainPgFall s) := by
  delta execMainPgFall
  repeat' first
    | with_reducible assumption
    | intro _
    | with_reducible apply kept_ite
    | with_reducible apply copyRoutes_kept
    | with_reducible apply ifS_kept
    | with_reducible apply mainFails_kept
    | with_reducible apply answers_next
    | with_reducible apply answers_ite

theorem execMainPgTimeout_kept (H0 : Kept Q K s) :
    Answers (Kept Q K) (execMainPgTimeout s) := by
  delta execMainPgTimeout
  repeat' first
    | with_reducible assumption
    | intro _
    | with_reducible apply kept_ite
    | with_reducible apply ifS_kept
    | with_reducible apply mainFails_kept
    | with_reducible apply answers_next
    | with_reducible apply answers_ite
    | split

theorem execResetNLow_kept (H0 : Kept Q K s) :
    Answers (Kept Q K) (execResetNLow s) := by
  delta execResetNLow
  repeat' first
    | with_reducible assumption
    | intro _
    | with_reducible apply kept_ite
    | with_reducible apply coldReset_kept
    | with_reducible apply driveMainEn_kept
    | with_reducible apply ifS_kept
    | with_reducible apply answers_next
    | with_reducible apply answers_ite

theorem execResetNRelease_kept {pcieBif : Fin 4} {wakeLow : Bool} (H0 : Kept Q K s) :
    Answers (Kept Q K) (execResetNRelease pcieBif wakeLow s) := by
  delta execResetNRelease
  repeat' first
    | with_reducible assumption
    | intro _
    | (extract_lets +onlyGivenNames t; refine (have ht : Kept Q K t := ?_; ?_); subst t; rotate_left; clear_value t)
    | (extract_lets +onlyGivenNames t; clear_value t)
    | with_reducible apply kept_ite
    | with_reducible apply raiseMain_kept
    | with_reducible apply setPwr_kept
    | with_reducible apply answers_next
    | with_reducible apply answers_ite
    | (simp only [kept_mk_iff]; with_reducible exact Kept.parts ‹_›)
    | split
    | (simp only [kept_mk_iff]; with_reducible refine Kept.parts ?_)

theorem execVhvLoss_kept {v : VhvFall} (H0 : Kept Q K s) :
    Answers (Kept Q K) (execVhvLoss v s) := by
  delta execVhvLoss
  repeat' first
    | with_reducible assumption
    | intro _
    | (extract_lets +onlyGivenNames t; refine (have ht : Kept Q K t := ?_; ?_); subst t; rotate_left; clear_value t)
    | (extract_lets +onlyGivenNames t; clear_value t)
    | with_reducible apply kept_ite
    | with_reducible apply coldReset_kept
    | with_reducible apply corAbort_kept
    | with_reducible apply countF_kept
    | with_reducible apply driveMainEn_kept
    | with_reducible apply dropLine_kept
    | with_reducible apply finishLine_kept
    | with_reducible apply raise_kept
    | with_reducible apply setB_kept
    | with_reducible apply showInhibit_kept
    | with_reducible apply slcDown_kept
    | with_reducible apply answers_next
    | with_reducible apply answers_ite
    | split

theorem execVhvRise_kept (H0 : Kept Q K s) :
    Answers (Kept Q K) (execVhvRise s) := by
  delta execVhvRise
  repeat' first
    | with_reducible assumption
    | intro _
    | with_reducible apply kept_ite
    | with_reducible apply coldReset_kept
    | with_reducible apply rimServe_kept
    | with_reducible apply setB_kept
    | with_reducible apply showInhibit_kept
    | with_reducible apply answers_next
    | with_reducible apply answers_ite
    | split

theorem portReset_kept {port : Nat} (H0 : Kept Q K s) :
    Kept Q K (portReset port s) := by
  delta portReset
  repeat' first
    | with_reducible assumption
    | intro _
    | with_reducible apply kept_ite
    | with_reducible apply State.setLinkUp_kept
    | with_reducible apply State.setMsixT_kept
    | with_reducible apply each_kept
    | with_reducible apply ifS_kept

theorem execPerstNChange_kept {port : Fin 4} {high : Bool} (H0 : Kept Q K s) :
    Answers (Kept Q K) (execPerstNChange port high s) := by
  delta execPerstNChange
  repeat' first
    | with_reducible assumption
    | intro _
    | (extract_lets +onlyGivenNames t; refine (have ht : Kept Q K t := ?_; ?_); subst t; rotate_left; clear_value t)
    | (extract_lets +onlyGivenNames t; clear_value t)
    | with_reducible apply kept_ite
    | with_reducible apply portReset_kept
    | with_reducible apply answers_next
    | with_reducible apply answers_ite
    | (simp only [kept_mk_iff]; with_reducible exact Kept.parts ‹_›)
    | split
    | (simp only [kept_mk_iff]; with_reducible refine Kept.parts ?_)

theorem shutDown_kept {cause : Nat} {trip : Option (Nat × Int)} (H0 : Kept Q K s) :
    Kept Q K (shutDown cause trip s) := by
  delta shutDown
  repeat' first
    | with_reducible assumption
    | intro _
    | (extract_lets +onlyGivenNames t; refine (have ht : Kept Q K t := ?_; ?_); subst t; rotate_left; clear_value t)
    | (extract_lets +onlyGivenNames t; clear_value t)
    | with_reducible apply kept_ite
    | with_reducible apply copyRoutes_kept
    | with_reducible apply countF_kept
    | with_reducible apply each_kept
    | with_reducible apply mainLost_kept
    | with_reducible apply sendBlank_kept
    | with_reducible apply setF_kept
    | with_reducible apply setPwr_kept
    | (simp only [kept_mk_iff]; with_reducible exact Kept.parts ‹_›)
    | split
    | (simp only [kept_mk_iff]; with_reducible refine Kept.parts ?_)

theorem execThermalTrip_kept {src : TripSource} (H0 : Kept Q K s) :
    Answers (Kept Q K) (execThermalTrip src s) := by
  delta execThermalTrip
  repeat' first
    | with_reducible assumption
    | intro _
    | with_reducible apply kept_ite
    | with_reducible apply ifS_kept
    | with_reducible apply shutDown_kept
    | with_reducible apply answers_next
    | with_reducible apply answers_ite
    | (simp only [kept_mk_iff]; with_reducible exact Kept.parts ‹_›)
    | split
    | (simp only [kept_mk_iff]; with_reducible refine Kept.parts ?_)

theorem execThermalRestart_kept (H0 : Kept Q K s) :
    Answers (Kept Q K) (execThermalRestart s) := by
  delta execThermalRestart
  repeat' first
    | with_reducible assumption
    | intro _
    | with_reducible apply kept_ite
    | with_reducible apply boot_kept
    | with_reducible apply raise_kept
    | with_reducible apply romStarts_kept
    | with_reducible apply answers_next
    | with_reducible apply answers_ite
    | split

theorem execPllUnlock_kept {pll : Fin 70} (H0 : Kept Q K s) :
    Answers (Kept Q K) (execPllUnlock pll s) := by
  delta execPllUnlock
  repeat' first
    | with_reducible assumption
    | intro _
    | (extract_lets +onlyGivenNames t; refine (have ht : Kept Q K t := ?_; ?_); subst t; rotate_left; clear_value t)
    | (extract_lets +onlyGivenNames t; clear_value t)
    | with_reducible apply kept_ite
    | with_reducible apply blockFaults_kept
    | with_reducible apply each_kept
    | with_reducible apply ifS_kept
    | with_reducible apply shutDown_kept
    | with_reducible apply unlockLanes_kept
    | with_reducible apply unlocked_kept
    | with_reducible apply answers_next
    | with_reducible apply answers_ite
    | split

theorem execRefLost_kept {ref : Fin 4} (H0 : Kept Q K s) :
    Answers (Kept Q K) (execRefLost ref s) := by
  delta execRefLost
  repeat' first
    | with_reducible assumption
    | intro _
    | (extract_lets +onlyGivenNames t; refine (have ht : Kept Q K t := ?_; ?_); subst t; rotate_left; clear_value t)
    | (extract_lets +onlyGivenNames t; clear_value t)
    | with_reducible apply kept_ite
    | with_reducible apply State.setLinkUp_kept
    | with_reducible apply blockFaults_kept
    | with_reducible apply each_kept
    | with_reducible apply raise_kept
    | with_reducible apply setB_kept
    | with_reducible apply unlockLanes_kept
    | with_reducible apply unlocked_kept
    | with_reducible apply answers_next
    | with_reducible apply answers_ite
    | split

theorem execRefClockReturn_kept {ref : Fin 4} (H0 : Kept Q K s) :
    Answers (Kept Q K) (execRefClockReturn ref s) := by
  delta execRefClockReturn
  repeat' first
    | with_reducible assumption
    | intro _
    | with_reducible apply kept_ite
    | with_reducible apply ifS_kept
    | with_reducible apply setB_kept
    | with_reducible apply answers_next
    | with_reducible apply answers_ite

end Sys2Proof.Machine
end

