-- ==== Sys2Proof/Laws/Kept/Host.lean ====
section
/-!
SUPPORT. Every operation of Machine/Host.lean keeps the queue and the canonical form.
-/

namespace Sys2Proof.Machine

set_option linter.unusedTactic false
set_option linter.unreachableTactic false
set_option linter.unusedSimpArgs false

variable {Q : List Instr} {K : Prop} {s : State}

theorem dispatch_kept {p : Fin 8} {ws : List Word} (H0 : Kept Q K s) :
    Kept Q K (dispatch p ws s) := by
  delta dispatch
  repeat' first
    | with_reducible assumption
    | intro _
    | (extract_lets +onlyGivenNames t; refine (have ht : Kept Q K t := ?_; ?_); subst t; rotate_left; clear_value t)
    | (extract_lets +onlyGivenNames t; clear_value t)
    | with_reducible apply kept_ite
    | with_reducible apply State.setPrt_kept
    | with_reducible apply addF_kept
    | with_reducible apply ifS_kept
    | with_reducible apply raise_kept
    | with_reducible apply setF_kept
    | with_reducible apply writeCpl_kept
    | (simp only [kept_mk_iff]; with_reducible exact Kept.parts ‹_›)
    | split
    | (simp only [kept_mk_iff]; with_reducible refine Kept.parts ?_)

theorem stopRing_kept {p : Nat} {completion : Bool} (H0 : Kept Q K s) :
    Kept Q K (stopRing p completion s) := by
  delta stopRing
  repeat' first
    | with_reducible assumption
    | intro _
    | with_reducible apply kept_ite
    | with_reducible apply hostError_kept
    | with_reducible apply setB_kept
    | split

theorem execDescriptorFetch_kept {p : Fin 8} (H0 : Kept Q K s) :
    Answers (Kept Q K) (execDescriptorFetch p s) := by
  delta execDescriptorFetch
  repeat' first
    | with_reducible assumption
    | intro _
    | (extract_lets +onlyGivenNames t; refine (have ht : Kept Q K t := ?_; ?_); subst t; rotate_left; clear_value t)
    | (extract_lets +onlyGivenNames t; clear_value t)
    | with_reducible apply kept_ite
    | with_reducible apply dispatch_kept
    | with_reducible apply stopRing_kept
    | with_reducible apply answers_next
    | with_reducible apply answers_ite
    | split

theorem execNop_kept {c : Cmd} (H0 : Kept Q K s) :
    Answers (Kept Q K) (execNop c s) := by
  delta execNop
  repeat' first
    | with_reducible assumption
    | intro _
    | with_reducible apply kept_ite
    | with_reducible apply answer_kept
    | with_reducible apply runCmd_kept
    | with_reducible apply answers_next
    | with_reducible apply answers_ite

theorem undoCpl_kept {p : Nat} (H0 : Kept Q K s) :
    Kept Q K (undoCpl p s) := by
  delta undoCpl
  repeat' first
    | with_reducible assumption
    | intro _
    | (extract_lets +onlyGivenNames t; refine (have ht : Kept Q K t := ?_; ?_); subst t; rotate_left; clear_value t)
    | (extract_lets +onlyGivenNames t; clear_value t)
    | with_reducible apply kept_ite
    | with_reducible apply State.setPrt_kept
    | with_reducible apply memWrite_kept
    | with_reducible apply setF_kept
    | with_reducible apply stopRing_kept
    | (simp only [kept_mk_iff]; with_reducible exact Kept.parts ‹_›)
    | split
    | (simp only [kept_mk_iff]; with_reducible refine Kept.parts ?_)

theorem execRingFetchFail_kept {p : Fin 8} {completion : Bool} (H0 : Kept Q K s) :
    Answers (Kept Q K) (execRingFetchFail p completion s) := by
  delta execRingFetchFail
  repeat' first
    | with_reducible assumption
    | intro _
    | (extract_lets +onlyGivenNames t; refine (have ht : Kept Q K t := ?_; ?_); subst t; rotate_left; clear_value t)
    | (extract_lets +onlyGivenNames t; clear_value t)
    | with_reducible apply kept_ite
    | with_reducible apply ifS_kept
    | with_reducible apply stopRing_kept
    | with_reducible apply undoCpl_kept
    | with_reducible apply answers_next
    | with_reducible apply answers_ite
    | split

theorem writeTail_kept {p v : Nat} (H0 : Kept Q K s) :
    Kept Q K (writeTail p v s) := by
  delta writeTail
  repeat' first
    | with_reducible assumption
    | intro _
    | with_reducible apply kept_ite
    | with_reducible apply hostError_kept
    | with_reducible apply setF_kept
    | split

theorem writeHead_kept {p v : Nat} (H0 : Kept Q K s) :
    Kept Q K (writeHead p v s) := by
  delta writeHead
  repeat' first
    | with_reducible assumption
    | intro _
    | (extract_lets +onlyGivenNames t; refine (have ht : Kept Q K t := ?_; ?_); subst t; rotate_left; clear_value t)
    | (extract_lets +onlyGivenNames t; clear_value t)
    | with_reducible apply kept_ite
    | with_reducible apply hostError_kept
    | with_reducible apply setF_kept
    | split

theorem writeRun_kept {p : Nat} {run : Bool} (H0 : Kept Q K s) :
    Kept Q K (writeRun p run s) := by
  delta writeRun
  repeat' first
    | with_reducible assumption
    | intro _
    | with_reducible apply kept_ite
    | with_reducible apply ifS_kept
    | with_reducible apply setB_kept

theorem writeRingCtrl_kept {p v : Nat} (H0 : Kept Q K s) :
    Kept Q K (writeRingCtrl p v s) := by
  delta writeRingCtrl
  repeat' first
    | with_reducible assumption
    | intro _
    | with_reducible apply kept_ite
    | with_reducible apply ifS_kept
    | with_reducible apply setB_kept
    | with_reducible apply setF_kept
    | with_reducible apply writeRun_kept

theorem execHstCmdTailWrite_kept {who : Who} {p : Fin 8} {v : Word} (H0 : Kept Q K s) :
    Answers (Kept Q K) (execHstCmdTailWrite who p v s) := by
  delta execHstCmdTailWrite
  repeat' first
    | with_reducible assumption
    | intro _
    | with_reducible apply kept_ite
    | with_reducible apply guardWrite_kept
    | with_reducible apply writeTail_kept
    | with_reducible apply answers_next
    | with_reducible apply answers_ite

theorem execHstCplHeadWrite_kept {who : Who} {p : Fin 8} {v : Word} (H0 : Kept Q K s) :
    Answers (Kept Q K) (execHstCplHeadWrite who p v s) := by
  delta execHstCplHeadWrite
  repeat' first
    | with_reducible assumption
    | intro _
    | with_reducible apply kept_ite
    | with_reducible apply guardWrite_kept
    | with_reducible apply writeHead_kept
    | with_reducible apply answers_next
    | with_reducible apply answers_ite

theorem execHstRingRun_kept {who : Who} {p : Fin 8} {run : Bool} (H0 : Kept Q K s) :
    Answers (Kept Q K) (execHstRingRun who p run s) := by
  delta execHstRingRun
  repeat' first
    | with_reducible assumption
    | intro _
    | with_reducible apply kept_ite
    | with_reducible apply guardWrite_kept
    | with_reducible apply writeRun_kept
    | with_reducible apply answers_next
    | with_reducible apply answers_ite

theorem semResult_kept {who : Who} {n status : Nat} (H0 : Kept Q K s) :
    Kept Q K (semResult who n status s) := by
  delta semResult
  repeat' first
    | with_reducible assumption
    | intro _
    | with_reducible apply kept_ite
    | with_reducible apply setF_kept
    | (simp only [kept_mk_iff]; with_reducible exact Kept.parts ‹_›)
    | split
    | (simp only [kept_mk_iff]; with_reducible refine Kept.parts ?_)

theorem takeSem_kept {who : Who} {n : Nat} (H0 : Kept Q K s) :
    Kept Q K (takeSem who n s) := by
  delta takeSem
  repeat' first
    | with_reducible assumption
    | intro _
    | (extract_lets +onlyGivenNames t; refine (have ht : Kept Q K t := ?_; ?_); subst t; rotate_left; clear_value t)
    | (extract_lets +onlyGivenNames t; clear_value t)
    | with_reducible apply kept_ite
    | with_reducible apply setB_kept
    | with_reducible apply setF_kept
    | (simp only [kept_mk_iff]; with_reducible exact Kept.parts ‹_›)
    | split
    | (simp only [kept_mk_iff]; with_reducible refine Kept.parts ?_)

theorem acquireSem_kept {n : Nat} {who : Who} (H0 : Kept Q K s) :
    Kept Q K (acquireSem n s who) := by
  delta acquireSem
  repeat' first
    | with_reducible assumption
    | intro _
    | with_reducible apply kept_ite
    | with_reducible apply semResult_kept
    | with_reducible apply takeSem_kept
    | split

theorem settleSem_kept {reqs : List (Who × Fin 64)} {n : Nat} (H0 : Kept Q K s) :
    Kept Q K (settleSem reqs s n) := by
  delta settleSem
  repeat' first
    | with_reducible assumption
    | intro _
    | (extract_lets +onlyGivenNames t; refine (have ht : Kept Q K t := ?_; ?_); subst t; rotate_left; clear_value t)
    | (extract_lets +onlyGivenNames t; clear_value t)
    | with_reducible apply kept_ite
    | with_reducible apply acquireSem_kept
    | with_reducible apply semResult_kept
    | with_reducible apply setF_kept
    | with_reducible apply kept_foldl
    | (simp only [kept_mk_iff]; with_reducible exact Kept.parts ‹_›)
    | split
    | (simp only [kept_mk_iff]; with_reducible refine Kept.parts ?_)

theorem execHstSemAcquire_kept {reqs : List (Who × Fin 64)} (H0 : Kept Q K s) :
    Answers (Kept Q K) (execHstSemAcquire reqs s) := by
  delta execHstSemAcquire
  repeat' first
    | with_reducible assumption
    | intro _
    | with_reducible apply kept_ite
    | with_reducible apply badAccess_kept
    | with_reducible apply each_kept
    | with_reducible apply settleSem_kept
    | with_reducible apply kept_foldl
    | with_reducible apply answers_next
    | with_reducible apply answers_ite
    | split

theorem releaseSem_kept {who : Who} {n : Nat} (H0 : Kept Q K s) :
    Kept Q K (releaseSem who n s) := by
  delta releaseSem
  repeat' first
    | with_reducible assumption
    | intro _
    | (extract_lets +onlyGivenNames t; refine (have ht : Kept Q K t := ?_; ?_); subst t; rotate_left; clear_value t)
    | (extract_lets +onlyGivenNames t; clear_value t)
    | with_reducible apply kept_ite
    | with_reducible apply freeSem_kept
    | with_reducible apply semResult_kept
    | (simp only [kept_mk_iff]; with_reducible exact Kept.parts ‹_›)
    | split
    | (simp only [kept_mk_iff]; with_reducible refine Kept.parts ?_)

theorem execHstSemRelease_kept {who : Who} {n : Fin 64} (H0 : Kept Q K s) :
    Answers (Kept Q K) (execHstSemRelease who n s) := by
  delta execHstSemRelease
  repeat' first
    | with_reducible assumption
    | intro _
    | with_reducible apply kept_ite
    | with_reducible apply guardWrite_kept
    | with_reducible apply releaseSem_kept
    | with_reducible apply answers_next
    | with_reducible apply answers_ite

theorem writeRegion_kept {who : Who} {p k : Nat} {size : Bool} {v : Nat} (H0 : Kept Q K s) :
    Kept Q K (writeRegion who p k size v s) := by
  delta writeRegion
  repeat' first
    | with_reducible assumption
    | intro _
    | (extract_lets +onlyGivenNames t; refine (have ht : Kept Q K t := ?_; ?_); subst t; rotate_left; clear_value t)
    | (extract_lets +onlyGivenNames t; clear_value t)
    | with_reducible apply kept_ite
    | with_reducible apply rejectWrite_kept
    | with_reducible apply setF_kept
    | split

theorem execHstRegWrite_kept {who : Who} {p k : Fin 8} {size : Bool} {v : Word} (H0 : Kept Q K s) :
    Answers (Kept Q K) (execHstRegWrite who p k size v s) := by
  delta execHstRegWrite
  repeat' first
    | with_reducible assumption
    | intro _
    | with_reducible apply kept_ite
    | with_reducible apply guardWrite_kept
    | with_reducible apply writeRegion_kept
    | with_reducible apply answers_next
    | with_reducible apply answers_ite
    | split

theorem writeHwin_kept {p k w v : Nat} (H0 : Kept Q K s) :
    Kept Q K (writeHwin p k w v s) := by
  delta writeHwin
  repeat' first
    | with_reducible assumption
    | intro _
    | with_reducible apply kept_ite
    | with_reducible apply wr_kept
    | split

theorem execHstHwinWrite_kept {who : Who} {p : Fin 8} {k w : Fin 4} {v : Word} (H0 : Kept Q K s) :
    Answers (Kept Q K) (execHstHwinWrite who p k w v s) := by
  delta execHstHwinWrite
  repeat' first
    | with_reducible assumption
    | intro _
    | with_reducible apply kept_ite
    | with_reducible apply guardWrite_kept
    | with_reducible apply writeHwin_kept
    | with_reducible apply answers_next
    | with_reducible apply answers_ite

theorem execHstAdminWrite_kept {who : Who} {v : Word} (H0 : Kept Q K s) :
    Answers (Kept Q K) (execHstAdminWrite who v s) := by
  delta execHstAdminWrite
  repeat' first
    | with_reducible assumption
    | intro _
    | with_reducible apply kept_ite
    | with_reducible apply guardWrite_kept
    | with_reducible apply setF_kept
    | with_reducible apply answers_next
    | with_reducible apply answers_ite

theorem execEvtSelWrite_kept {who : Who} {v : Word} (H0 : Kept Q K s) :
    Answers (Kept Q K) (execEvtSelWrite who v s) := by
  delta execEvtSelWrite
  repeat' first
    | with_reducible assumption
    | intro _
    | with_reducible apply kept_ite
    | with_reducible apply guardWrite_kept
    | with_reducible apply setF_kept
    | with_reducible apply answers_next
    | with_reducible apply answers_ite

theorem writeRoute_kept {v : Nat} (H0 : Kept Q K s) :
    Kept Q K (writeRoute v s) := by
  delta writeRoute
  repeat' first
    | with_reducible assumption
    | intro _
    | with_reducible apply kept_ite
    | with_reducible apply State.setRoute_kept

theorem execHstEpendClear_kept {who : Who} {p : Fin 8} {w : Fin 64} {mask : Word} (H0 : Kept Q K s) :
    Answers (Kept Q K) (execHstEpendClear who p w mask s) := by
  delta execHstEpendClear
  repeat' first
    | with_reducible assumption
    | intro _
    | with_reducible apply kept_ite
    | with_reducible apply clearF_kept
    | with_reducible apply guardWrite_kept
    | with_reducible apply answers_next
    | with_reducible apply answers_ite

theorem execPcieLinkChange_kept {port : Fin 4} {what : LinkChange} (H0 : Kept Q K s) :
    Answers (Kept Q K) (execPcieLinkChange port what s) := by
  delta execPcieLinkChange
  repeat' first
    | with_reducible assumption
    | intro _
    | with_reducible apply kept_ite
    | with_reducible apply State.setLinkUp_kept
    | with_reducible apply State.setMsixT_kept
    | with_reducible apply each_kept
    | with_reducible apply ifS_kept
    | with_reducible apply portReset_kept
    | with_reducible apply answers_next
    | with_reducible apply answers_ite
    | (simp only [kept_mk_iff]; with_reducible exact Kept.parts ‹_›)
    | split
    | (simp only [kept_mk_iff]; with_reducible refine Kept.parts ?_)

theorem execFunctionLevelReset_kept {p : Fin 8} (H0 : Kept Q K s) :
    Answers (Kept Q K) (execFunctionLevelReset p s) := by
  delta execFunctionLevelReset
  repeat' first
    | with_reducible assumption
    | intro _
    | with_reducible apply kept_ite
    | with_reducible apply State.setMsixT_kept
    | with_reducible apply ifS_kept
    | with_reducible apply answers_next
    | with_reducible apply answers_ite

end Sys2Proof.Machine
end

