-- ==== Sys2Proof/Laws/Kept/RegWrite.lean ====
section
/-!
SUPPORT. Every operation of Machine/RegWrite.lean keeps the queue and the canonical form.
-/

namespace Sys2Proof.Machine

set_option linter.unusedTactic false
set_option linter.unreachableTactic false
set_option linter.unusedSimpArgs false

variable {Q : List Instr} {K : Prop} {s : State}

theorem writeField_kept {a v : Nat} {d : FieldDef} (H0 : Kept Q K s) :
    Kept Q K (writeField a v d s) := by
  delta writeField
  repeat' first
    | with_reducible assumption
    | intro _
    | (extract_lets +onlyGivenNames t; refine (have ht : Kept Q K t := ?_; ?_); subst t; rotate_left; clear_value t)
    | (extract_lets +onlyGivenNames t; clear_value t)
    | with_reducible apply kept_ite
    | with_reducible apply clearF_kept
    | with_reducible apply ifS_kept
    | with_reducible apply setF_kept
    | (simp only [kept_mk_iff]; with_reducible exact Kept.parts ‹_›)
    | split
    | (simp only [kept_mk_iff]; with_reducible refine Kept.parts ?_)

theorem writePlain_kept {a v : Nat} (H0 : Kept Q K s) :
    Kept Q K (writePlain a v s) := by
  delta writePlain
  repeat' first
    | with_reducible assumption
    | intro _
    | with_reducible apply kept_ite
    | with_reducible apply each_kept
    | with_reducible apply writeField_kept
    | (simp only [kept_mk_iff]; with_reducible exact Kept.parts ‹_›)
    | split
    | (simp only [kept_mk_iff]; with_reducible refine Kept.parts ?_)

theorem writeCtrl_kept {page v : Nat} (H0 : Kept Q K s) :
    Kept Q K (writeCtrl page v s) := by
  delta writeCtrl
  repeat' first
    | with_reducible assumption
    | intro _
    | with_reducible apply kept_ite
    | with_reducible apply applyCtrl_kept
    | with_reducible apply applyReset_kept
    | split

theorem writeNetCfg_kept {p v : Nat} (H0 : Kept Q K s) :
    Kept Q K (writeNetCfg p v s) := by
  delta writeNetCfg
  repeat' first
    | with_reducible assumption
    | intro _
    | with_reducible apply kept_ite
    | with_reducible apply ifS_kept
    | with_reducible apply setF_kept
    | with_reducible apply writePlain_kept

theorem writeDomainCfg_kept {d v : Nat} (H0 : Kept Q K s) :
    Kept Q K (writeDomainCfg d v s) := by
  delta writeDomainCfg
  repeat' first
    | with_reducible assumption
    | intro _
    | (extract_lets +onlyGivenNames t; refine (have ht : Kept Q K t := ?_; ?_); subst t; rotate_left; clear_value t)
    | (extract_lets +onlyGivenNames t; clear_value t)
    | with_reducible apply kept_ite
    | with_reducible apply setF_kept
    | split

theorem writeTimSel_kept {v : Nat} (H0 : Kept Q K s) :
    Kept Q K (writeTimSel v s) := by
  delta writeTimSel
  repeat' first
    | with_reducible assumption
    | intro _
    | with_reducible apply kept_ite
    | with_reducible apply ifS_kept
    | with_reducible apply writeDomain_kept
    | with_reducible apply writeJump_kept
    | with_reducible apply writePlain_kept

theorem writeCamPort_kept {p v : Nat} (H0 : Kept Q K s) :
    Kept Q K (writeCamPort p v s) := by
  delta writeCamPort
  repeat' first
    | with_reducible assumption
    | intro _
    | with_reducible apply kept_ite
    | with_reducible apply ifS_kept
    | with_reducible apply setF_kept
    | split

theorem writeCamSize_kept {k v : Nat} (H0 : Kept Q K s) :
    Kept Q K (writeCamSize k v s) := by
  delta writeCamSize
  repeat' first
    | with_reducible assumption
    | intro _
    | (extract_lets +onlyGivenNames t; refine (have ht : Kept Q K t := ?_; ?_); subst t; rotate_left; clear_value t)
    | (extract_lets +onlyGivenNames t; clear_value t)
    | with_reducible apply kept_ite
    | with_reducible apply ifS_kept
    | with_reducible apply setF_kept
    | split

theorem writeCamStats_kept {k v : Nat} (H0 : Kept Q K s) :
    Kept Q K (writeCamStats k v s) := by
  delta writeCamStats
  repeat' first
    | with_reducible assumption
    | intro _
    | with_reducible apply kept_ite
    | with_reducible apply setF_kept
    | split

theorem writeCam_kept {p o v : Nat} (H0 : Kept Q K s) :
    Kept Q K (writeCam p o v s) := by
  delta writeCam
  repeat' first
    | with_reducible assumption
    | intro _
    | (extract_lets +onlyGivenNames t; refine (have ht : Kept Q K t := ?_; ?_); subst t; rotate_left; clear_value t)
    | (extract_lets +onlyGivenNames t; clear_value t)
    | with_reducible apply kept_ite
    | with_reducible apply refreshCam_kept
    | with_reducible apply writeCamPort_kept
    | with_reducible apply writeCamSize_kept
    | with_reducible apply writeCamStats_kept
    | with_reducible apply writeOutputCfg_kept
    | with_reducible apply writePlain_kept
    | with_reducible apply writeSensorCfg_kept
    | split

theorem writeLnk_kept {p o v : Nat} (H0 : Kept Q K s) :
    Kept Q K (writeLnk p o v s) := by
  delta writeLnk
  repeat' first
    | with_reducible assumption
    | intro _
    | (extract_lets +onlyGivenNames t; refine (have ht : Kept Q K t := ?_; ?_); subst t; rotate_left; clear_value t)
    | (extract_lets +onlyGivenNames t; clear_value t)
    | with_reducible apply kept_ite
    | with_reducible apply ifS_kept
    | with_reducible apply refreshLane_kept
    | with_reducible apply showFill_kept
    | with_reducible apply writeBlank_kept
    | with_reducible apply writeEn_kept
    | with_reducible apply writeInj_kept
    | with_reducible apply writeInjPos_kept
    | with_reducible apply writeLoop_kept
    | with_reducible apply writePlain_kept
    | with_reducible apply writeRate_kept
    | with_reducible apply writeUnblank_kept
    | split

theorem writeEnc_kept {p o v : Nat} (H0 : Kept Q K s) :
    Kept Q K (writeEnc p o v s) := by
  delta writeEnc
  repeat' first
    | with_reducible assumption
    | intro _
    | (extract_lets +onlyGivenNames t; refine (have ht : Kept Q K t := ?_; ?_); subst t; rotate_left; clear_value t)
    | (extract_lets +onlyGivenNames t; clear_value t)
    | with_reducible apply kept_ite
    | with_reducible apply ifS_kept
    | with_reducible apply refreshSession_kept
    | with_reducible apply writeForceIdr_kept
    | with_reducible apply writePlain_kept
    | with_reducible apply writeRoiApply_kept
    | with_reducible apply writeSRd_kept
    | split

theorem writeEgrWindow_kept {o v : Nat} (H0 : Kept Q K s) :
    Kept Q K (writeEgrWindow o v s) := by
  delta writeEgrWindow
  repeat' first
    | with_reducible assumption
    | intro _
    | with_reducible apply kept_ite
    | with_reducible apply clearQueue_kept
    | with_reducible apply ifS_kept
    | with_reducible apply writeQueueCfg_kept
    | with_reducible apply writeQueueDrop_kept
    | with_reducible apply writeQueueLimit_kept
    | with_reducible apply writeRateBurst_kept
    | with_reducible apply writeSubCfg_kept
    | (simp only [kept_mk_iff]; with_reducible exact Kept.parts ‹_›)
    | split
    | (simp only [kept_mk_iff]; with_reducible refine Kept.parts ?_)

theorem writeEgrPort_kept {p o v : Nat} (H0 : Kept Q K s) :
    Kept Q K (writeEgrPort p o v s) := by
  delta writeEgrPort
  repeat' first
    | with_reducible assumption
    | intro _
    | (extract_lets +onlyGivenNames t; refine (have ht : Kept Q K t := ?_; ?_); subst t; rotate_left; clear_value t)
    | (extract_lets +onlyGivenNames t; clear_value t)
    | with_reducible apply kept_ite
    | with_reducible apply cancelChange_kept
    | with_reducible apply configChange_kept
    | with_reducible apply ifS_kept
    | with_reducible apply writePlain_kept
    | split

theorem writeEgrReg_kept {who : Who} {o v : Nat} (H0 : Kept Q K s) :
    Kept Q K (writeEgrReg who o v s) := by
  delta writeEgrReg
  repeat' first
    | with_reducible assumption
    | intro _
    | with_reducible apply kept_ite
    | with_reducible apply windowWrite_kept
    | with_reducible apply writeEgrPort_kept
    | with_reducible apply writeEgrSel_kept
    | with_reducible apply writeEgrWindow_kept
    | with_reducible apply writePlain_kept
    | with_reducible apply writeSample_kept
    | split

theorem writeTim_kept {o v : Nat} (H0 : Kept Q K s) :
    Kept Q K (writeTim o v s) := by
  delta writeTim
  repeat' first
    | with_reducible assumption
    | intro _
    | (extract_lets +onlyGivenNames t; refine (have ht : Kept Q K t := ?_; ?_); subst t; rotate_left; clear_value t)
    | (extract_lets +onlyGivenNames t; clear_value t)
    | with_reducible apply kept_ite
    | with_reducible apply armTimer_kept
    | with_reducible apply disarmTimer_kept
    | with_reducible apply ifS_kept
    | with_reducible apply popTxq_kept
    | with_reducible apply writePlain_kept
    | with_reducible apply writeTimSel_kept
    | (simp only [kept_mk_iff]; with_reducible exact Kept.parts ‹_›)
    | split
    | (simp only [kept_mk_iff]; with_reducible refine Kept.parts ?_)

theorem writeDom_kept {who : Who} {d o v : Nat} (H0 : Kept Q K s) :
    Kept Q K (writeDom who d o v s) := by
  delta writeDom
  repeat' first
    | with_reducible assumption
    | intro _
    | with_reducible apply kept_ite
    | with_reducible apply ifS_kept
    | with_reducible apply writeAdj_kept
    | with_reducible apply writeDomainCfg_kept
    | with_reducible apply writeIncHi_kept
    | with_reducible apply writePlain_kept
    | with_reducible apply writeSet_kept
    | with_reducible apply writeValid_kept
    | split

theorem writeJmpReg_kept {who : Who} {p a v : Nat} (H0 : Kept Q K s) :
    Kept Q K (writeJmpReg who p a v s) := by
  delta writeJmpReg
  repeat' first
    | with_reducible assumption
    | intro _
    | with_reducible apply kept_ite
    | with_reducible apply rejectWrite_kept
    | with_reducible apply wr_kept
    | split

theorem writeHst_kept {who : Who} {p o v : Nat} (H0 : Kept Q K s) :
    Kept Q K (writeHst who p o v s) := by
  delta writeHst
  repeat' first
    | with_reducible assumption
    | intro _
    | (extract_lets +onlyGivenNames t; refine (have ht : Kept Q K t := ?_; ?_); subst t; rotate_left; clear_value t)
    | (extract_lets +onlyGivenNames t; clear_value t)
    | with_reducible apply kept_ite
    | with_reducible apply acquireSem_kept
    | with_reducible apply clearF_kept
    | with_reducible apply ifS_kept
    | with_reducible apply releaseSem_kept
    | with_reducible apply semResult_kept
    | with_reducible apply setF_kept
    | with_reducible apply wr_kept
    | with_reducible apply writeHead_kept
    | with_reducible apply writeHwin_kept
    | with_reducible apply writeJmpReg_kept
    | with_reducible apply writePlain_kept
    | with_reducible apply writeRegion_kept
    | with_reducible apply writeRingCtrl_kept
    | with_reducible apply writeTail_kept
    | split

theorem writeFwu_kept {o v : Nat} (H0 : Kept Q K s) :
    Kept Q K (writeFwu o v s) := by
  delta writeFwu
  repeat' first
    | with_reducible assumption
    | intro _
    | with_reducible apply kept_ite
    | with_reducible apply ifS_kept
    | with_reducible apply setF_kept
    | with_reducible apply wr_kept
    | with_reducible apply writePlain_kept
    | with_reducible apply writeRcvCtrl_kept
    | split

theorem writeAt_kept {who : Who} {page o v : Nat} (H0 : Kept Q K s) :
    Kept Q K (writeAt who page o v s) := by
  delta writeAt
  repeat' first
    | with_reducible assumption
    | intro _
    | (extract_lets +onlyGivenNames t; refine (have ht : Kept Q K t := ?_; ?_); subst t; rotate_left; clear_value t)
    | (extract_lets +onlyGivenNames t; clear_value t)
    | with_reducible apply kept_ite
    | with_reducible apply advanceTraffic_kept
    | with_reducible apply clearPend_kept
    | with_reducible apply ifS_kept
    | with_reducible apply refreshCauses_kept
    | with_reducible apply requestRun_kept
    | with_reducible apply setF_kept
    | with_reducible apply sysSummary_kept
    | with_reducible apply writeApply_kept
    | with_reducible apply writeCam_kept
    | with_reducible apply writeCap_kept
    | with_reducible apply writeCtrl_kept
    | with_reducible apply writeDecSel_kept
    | with_reducible apply writeDom_kept
    | with_reducible apply writeEgrReg_kept
    | with_reducible apply writeEnc_kept
    | with_reducible apply writeEvSet_kept
    | with_reducible apply writeFwu_kept
    | with_reducible apply writeHst_kept
    | with_reducible apply writeLnk_kept
    | with_reducible apply writeNetCfg_kept
    | with_reducible apply writeNetInj_kept
    | with_reducible apply writePlain_kept
    | with_reducible apply writePsel_kept
    | with_reducible apply writeRimCfg_kept
    | with_reducible apply writeRoute_kept
    | with_reducible apply writeStrExp_kept
    | with_reducible apply writeStrSel_kept
    | with_reducible apply writeThmCfg_kept
    | with_reducible apply writeTim_kept
    | (simp only [kept_mk_iff]; with_reducible exact Kept.parts ‹_›)
    | split
    | (simp only [kept_mk_iff]; with_reducible refine Kept.parts ?_)

theorem writeReg_kept {who : Who} {addr v : Nat} (H0 : Kept Q K s) :
    Kept Q K (writeReg who addr v s) := by
  delta writeReg
  repeat' first
    | with_reducible assumption
    | intro _
    | (extract_lets +onlyGivenNames t; refine (have ht : Kept Q K t := ?_; ?_); subst t; rotate_left; clear_value t)
    | (extract_lets +onlyGivenNames t; clear_value t)
    | with_reducible apply kept_ite
    | with_reducible apply guardWrite_kept
    | with_reducible apply writeAt_kept

theorem settleSemWrites_kept {reqs : List WriteReq} {addr : Nat} (H0 : Kept Q K s) :
    Kept Q K (settleSemWrites reqs addr s) := by
  delta settleSemWrites
  repeat' first
    | with_reducible assumption
    | intro _
    | with_reducible apply hg
    | (extract_lets +onlyGivenNames t; refine (have ht : Kept Q K t := ?_; ?_); subst t; rotate_left; clear_value t)
    | (extract_lets +onlyGivenNames t; refine (have hg : ∀ x, Kept Q K x → Kept Q K (t x) := ?_; ?_); subst t; rotate_left; clear_value t)
    | (extract_lets +onlyGivenNames t; refine (have hg : ∀ a x, Kept Q K x → Kept Q K (t a x) := ?_; ?_); subst t; rotate_left; clear_value t)
    | (extract_lets +onlyGivenNames t; refine (have hg : ∀ a b x, Kept Q K x → Kept Q K (t a b x) := ?_; ?_); subst t; rotate_left; clear_value t)
    | (extract_lets +onlyGivenNames t; clear_value t)
    | with_reducible apply kept_ite
    | with_reducible apply each_kept
    | with_reducible apply releaseSem_kept
    | with_reducible apply semResult_kept
    | with_reducible apply settleSem_kept

theorem settleWrites_kept {reqs : List WriteReq} {addr : Nat} (H0 : Kept Q K s) :
    Kept Q K (settleWrites reqs s addr) := by
  delta settleWrites
  repeat' first
    | with_reducible assumption
    | intro _
    | (extract_lets +onlyGivenNames t; refine (have ht : Kept Q K t := ?_; ?_); subst t; rotate_left; clear_value t)
    | (extract_lets +onlyGivenNames t; clear_value t)
    | with_reducible apply kept_ite
    | with_reducible apply each_kept
    | with_reducible apply ifS_kept
    | with_reducible apply setF_kept
    | with_reducible apply settleSemWrites_kept
    | with_reducible apply writeReg_kept
    | (simp only [kept_mk_iff]; with_reducible exact Kept.parts ‹_›)
    | split
    | (simp only [kept_mk_iff]; with_reducible refine Kept.parts ?_)

theorem execRegisterWrite_kept {reqs : List WriteReq} (H0 : Kept Q K s) :
    Answers (Kept Q K) (execRegisterWrite reqs s) := by
  delta execRegisterWrite
  repeat' first
    | with_reducible assumption
    | intro _
    | with_reducible apply kept_ite
    | with_reducible apply settleWrites_kept
    | with_reducible apply kept_foldl
    | with_reducible apply answers_next
    | with_reducible apply answers_ite

theorem readReg_kept {who : Who} {addr : Nat} (H0 : Kept Q K s) : Kept Q K (readReg who addr s).2 := by
  unfold readReg
  exact kept_ite_snd (badAccess_kept H0) (kept_ite_snd (badAccess_kept H0)
    (each_kept (ifS_kept H0 (fun t h => advanceTraffic_kept h)) (fun b t h => kept_mk h.parts)))

theorem execBar0BadAccess_kept {p : Fin 8} {addr : Nat} (H0 : Kept Q K s) :
    Answers (Kept Q K) (execBar0BadAccess p addr s) := by
  delta execBar0BadAccess
  repeat' first
    | with_reducible assumption
    | intro _
    | with_reducible apply kept_ite
    | with_reducible apply badAccess_kept
    | with_reducible apply emit_kept
    | with_reducible apply answers_next
    | with_reducible apply answers_ite
    | split

theorem execBar2WindowAccess_kept {p : Fin 8} {off : Nat} {acc : WindowAccess} (H0 : Kept Q K s) :
    Answers (Kept Q K) (execBar2WindowAccess p off acc s) := by
  delta execBar2WindowAccess
  repeat' first
    | with_reducible assumption
    | intro _
    | (extract_lets +onlyGivenNames t; refine (have ht : Kept Q K t := ?_; ?_); subst t; rotate_left; clear_value t)
    | (extract_lets +onlyGivenNames t; clear_value t)
    | with_reducible apply kept_ite
    | with_reducible apply serveWindow_kept
    | with_reducible apply answers_next
    | with_reducible apply answers_ite
    | (simp only [kept_mk_iff]; with_reducible exact Kept.parts ‹_›)
    | split
    | (simp only [kept_mk_iff]; with_reducible refine Kept.parts ?_)

end Sys2Proof.Machine
end

