-- ==== Sys2Proof/Laws/Kept/Jmp.lean ====
section
/-!
SUPPORT. Every operation of Machine/Jmp.lean keeps the queue and the canonical form.
-/

namespace Sys2Proof.Machine

set_option linter.unusedTactic false
set_option linter.unreachableTactic false
set_option linter.unusedSimpArgs false

variable {Q : List Instr} {K : Prop} {s : State}

theorem jmpDrop_kept {m : JmpIn} (H0 : Kept Q K s) :
    Kept Q K (jmpDrop m s) := by
  delta jmpDrop
  repeat' first
    | with_reducible assumption
    | intro _
    | with_reducible apply kept_ite
    | with_reducible apply countF_kept
    | with_reducible apply ifS_kept
    | split

theorem jmpReply_kept {m : JmpIn} {typ : Nat} {seq : Word} {body : List Word} (H0 : Kept Q K s) :
    Kept Q K (jmpReply m typ seq body s) := by
  delta jmpReply
  repeat' first
    | with_reducible assumption
    | intro _
    | with_reducible apply kept_ite
    | with_reducible apply jmpPost_kept

theorem jmpAnswer_kept {m : JmpIn} {typ : Nat} {body : List Word} (H0 : Kept Q K s) :
    Kept Q K (jmpAnswer m typ body s) := by
  delta jmpAnswer
  repeat' first
    | with_reducible assumption
    | intro _
    | (extract_lets +onlyGivenNames t; refine (have ht : Kept Q K t := ?_; ?_); subst t; rotate_left; clear_value t)
    | (extract_lets +onlyGivenNames t; clear_value t)
    | with_reducible apply kept_ite
    | with_reducible apply State.setPrt_kept
    | with_reducible apply answer_kept
    | with_reducible apply jmpReply_kept
    | with_reducible apply wr_kept
    | (simp only [kept_mk_iff]; with_reducible exact Kept.parts ‹_›)
    | (simp only [kept_mk_iff]; with_reducible refine Kept.parts ?_)

theorem jmpAck_kept {m : JmpIn} {status : Nat} (H0 : Kept Q K s) :
    Kept Q K (jmpAck m status s) := by
  delta jmpAck
  repeat' first
    | with_reducible assumption
    | intro _
    | with_reducible apply kept_ite
    | with_reducible apply jmpAnswer_kept

theorem jmpStamp_kept {m : JmpIn} (H0 : Kept Q K s) :
    Kept Q K (jmpStamp m s) := by
  delta jmpStamp
  repeat' first
    | with_reducible assumption
    | intro _
    | (extract_lets +onlyGivenNames t; refine (have ht : Kept Q K t := ?_; ?_); subst t; rotate_left; clear_value t)
    | (extract_lets +onlyGivenNames t; clear_value t)
    | with_reducible apply kept_ite
    | with_reducible apply State.setPrt_kept
    | (simp only [kept_mk_iff]; with_reducible exact Kept.parts ‹_›)
    | (simp only [kept_mk_iff]; with_reducible refine Kept.parts ?_)

theorem jmpRun_kept {typ : Nat} {m : JmpIn} {body : State → State} (H0 : Kept Q K s) (hbody : ∀ (x0 : State), Kept Q K x0 → Kept Q K (body x0)) :
    Kept Q K (jmpRun typ m body s) := by
  delta jmpRun
  repeat' first
    | with_reducible assumption
    | intro _
    | (extract_lets +onlyGivenNames t; refine (have ht : Kept Q K t := ?_; ?_); subst t; rotate_left; clear_value t)
    | (extract_lets +onlyGivenNames t; clear_value t)
    | with_reducible apply kept_ite
    | with_reducible apply jmpDrop_kept
    | with_reducible apply jmpReply_kept
    | with_reducible apply jmpStamp_kept
    | with_reducible apply hbody
    | (simp only [kept_mk_iff]; with_reducible exact Kept.parts ‹_›)
    | split
    | (simp only [kept_mk_iff]; with_reducible refine Kept.parts ?_)

theorem jmpAwake_kept {m : JmpIn} {body : State → State} (H0 : Kept Q K s) (hbody : ∀ (x0 : State), Kept Q K x0 → Kept Q K (body x0)) :
    Kept Q K (jmpAwake m body s) := by
  delta jmpAwake
  repeat' first
    | with_reducible assumption
    | intro _
    | with_reducible apply kept_ite
    | with_reducible apply jmpAck_kept
    | with_reducible apply hbody
    | split

theorem execJmpCommand_kept {m : JmpIn} (H0 : Kept Q K s) :
    Answers (Kept Q K) (execJmpCommand m s) := by
  delta execJmpCommand
  repeat' first
    | with_reducible assumption
    | intro _
    | (extract_lets +onlyGivenNames t; refine (have ht : Kept Q K t := ?_; ?_); subst t; rotate_left; clear_value t)
    | (extract_lets +onlyGivenNames t; clear_value t)
    | with_reducible apply kept_ite
    | with_reducible apply addF_kept
    | with_reducible apply jmpAck_kept
    | with_reducible apply jmpAwake_kept
    | with_reducible apply jmpRun_kept
    | with_reducible apply memWrite_kept
    | with_reducible apply answers_next
    | with_reducible apply answers_ite
    | split

theorem readRegs_kept {who : Who} {n a : Nat} (H0 : Kept Q K s) : Kept Q K (readRegs who n a s).2 := by
  induction n generalizing a s with
  | zero => exact H0
  | succ n ih => exact ih (readReg_kept H0)

theorem writeRegs_kept {who : Who} {ws : List Word} {a : Nat} (H0 : Kept Q K s) : Kept Q K (writeRegs who ws a s) := by
  induction ws generalizing a s with
  | nil => exact H0
  | cons w r ih => exact ih (writeReg_kept H0)

theorem execJmpRegRead_kept {m : JmpIn} (H0 : Kept Q K s) :
    Answers (Kept Q K) (execJmpRegRead m s) := by
  delta execJmpRegRead
  repeat' first
    | with_reducible assumption
    | intro _
    | (extract_lets +onlyGivenNames t; refine (have ht : Kept Q K t := ?_; ?_); subst t; rotate_left; clear_value t)
    | (extract_lets +onlyGivenNames t; refine (have ht : Kept Q K t.2 := ?_; ?_); subst t; rotate_left; clear_value t)
    | (extract_lets +onlyGivenNames t; refine (have ht : Kept Q K t.1 := ?_; ?_); subst t; rotate_left; clear_value t)
    | (extract_lets +onlyGivenNames t; refine (have ht : Kept Q K t.1.1 := ?_; ?_); subst t; rotate_left; clear_value t)
    | (extract_lets +onlyGivenNames t; clear_value t)
    | with_reducible apply kept_ite
    | with_reducible apply jmpAck_kept
    | with_reducible apply jmpAnswer_kept
    | with_reducible apply jmpRun_kept
    | with_reducible apply readRegs_kept
    | with_reducible apply answers_next
    | with_reducible apply answers_ite
    | split

theorem execJmpRegWrite_kept {m : JmpIn} (H0 : Kept Q K s) :
    Answers (Kept Q K) (execJmpRegWrite m s) := by
  delta execJmpRegWrite
  repeat' first
    | with_reducible assumption
    | intro _
    | (extract_lets +onlyGivenNames t; refine (have ht : Kept Q K t := ?_; ?_); subst t; rotate_left; clear_value t)
    | (extract_lets +onlyGivenNames t; clear_value t)
    | with_reducible apply kept_ite
    | with_reducible apply jmpAck_kept
    | with_reducible apply jmpRun_kept
    | with_reducible apply writeRegs_kept
    | with_reducible apply answers_next
    | with_reducible apply answers_ite
    | split

theorem execJmpMemWrite_kept {m : JmpIn} (H0 : Kept Q K s) :
    Answers (Kept Q K) (execJmpMemWrite m s) := by
  delta execJmpMemWrite
  repeat' first
    | with_reducible assumption
    | intro _
    | (extract_lets +onlyGivenNames t; refine (have ht : Kept Q K t := ?_; ?_); subst t; rotate_left; clear_value t)
    | (extract_lets +onlyGivenNames t; clear_value t)
    | with_reducible apply kept_ite
    | with_reducible apply jmpAck_kept
    | with_reducible apply jmpAwake_kept
    | with_reducible apply jmpRun_kept
    | with_reducible apply memWrite_kept
    | with_reducible apply answers_next
    | with_reducible apply answers_ite
    | split

theorem execJmpMemRead_kept {m : JmpIn} (H0 : Kept Q K s) :
    Answers (Kept Q K) (execJmpMemRead m s) := by
  delta execJmpMemRead
  repeat' first
    | with_reducible assumption
    | intro _
    | (extract_lets +onlyGivenNames t; refine (have ht : Kept Q K t := ?_; ?_); subst t; rotate_left; clear_value t)
    | (extract_lets +onlyGivenNames t; clear_value t)
    | with_reducible apply kept_ite
    | with_reducible apply jmpAck_kept
    | with_reducible apply jmpAnswer_kept
    | with_reducible apply jmpAwake_kept
    | with_reducible apply jmpRun_kept
    | with_reducible apply answers_next
    | with_reducible apply answers_ite
    | split

theorem execJmpPower_kept {m : JmpIn} (H0 : Kept Q K s) :
    Answers (Kept Q K) (execJmpPower m s) := by
  delta execJmpPower
  repeat' first
    | with_reducible assumption
    | intro _
    | (extract_lets +onlyGivenNames t; refine (have ht : Kept Q K t := ?_; ?_); subst t; rotate_left; clear_value t)
    | (extract_lets +onlyGivenNames t; clear_value t)
    | with_reducible apply kept_ite
    | with_reducible apply applyPower_kept
    | with_reducible apply ifS_kept
    | with_reducible apply jmpAck_kept
    | with_reducible apply jmpRun_kept
    | with_reducible apply answers_next
    | with_reducible apply answers_ite
    | split

theorem execJmpWake_kept {m : JmpIn} (H0 : Kept Q K s) :
    Answers (Kept Q K) (execJmpWake m s) := by
  delta execJmpWake
  repeat' first
    | with_reducible assumption
    | intro _
    | with_reducible apply kept_ite
    | with_reducible apply ifS_kept
    | with_reducible apply jmpAck_kept
    | with_reducible apply jmpRun_kept
    | with_reducible apply wake_kept
    | with_reducible apply answers_next
    | with_reducible apply answers_ite
    | split

theorem execJmpEventSend_kept {p : Fin 8} {sent : Bool} (H0 : Kept Q K s) :
    Answers (Kept Q K) (execJmpEventSend p sent s) := by
  delta execJmpEventSend
  repeat' first
    | with_reducible assumption
    | intro _
    | (extract_lets +onlyGivenNames t; refine (have ht : Kept Q K t := ?_; ?_); subst t; rotate_left; clear_value t)
    | (extract_lets +onlyGivenNames t; clear_value t)
    | with_reducible apply kept_ite
    | with_reducible apply State.setPrt_kept
    | with_reducible apply addF_kept
    | with_reducible apply countF_kept
    | with_reducible apply ifS_kept
    | with_reducible apply jmpDevice_kept
    | with_reducible apply answers_next
    | with_reducible apply answers_ite
    | (simp only [kept_mk_iff]; with_reducible exact Kept.parts ‹_›)
    | split
    | (simp only [kept_mk_iff]; with_reducible refine Kept.parts ?_)

end Sys2Proof.Machine
end

