-- ==== Sys2Proof/Laws/Kept/Boot.lean ====
section
/-!
SUPPORT. Every operation of Machine/Boot.lean keeps the queue and the canonical form.
-/

namespace Sys2Proof.Machine

set_option linter.unusedTactic false
set_option linter.unreachableTactic false
set_option linter.unusedSimpArgs false

variable {Q : List Instr} {K : Prop} {s : State}

theorem loadBinding_kept {p : Nat} (H0 : Kept Q K s) :
    Kept Q K (loadBinding p s) := by
  delta loadBinding
  repeat' first
    | with_reducible assumption
    | intro _
    | (extract_lets +onlyGivenNames t; refine (have ht : Kept Q K t := ?_; ?_); subst t; rotate_left; clear_value t)
    | (extract_lets +onlyGivenNames t; clear_value t)
    | with_reducible apply kept_ite
    | with_reducible apply each_kept
    | with_reducible apply setF_kept
    | with_reducible apply wr_kept
    | (simp only [kept_mk_iff]; with_reducible exact Kept.parts ‹_›)
    | split
    | (simp only [kept_mk_iff]; with_reducible refine Kept.parts ?_)

theorem loadPort_kept {p : Nat} (H0 : Kept Q K s) :
    Kept Q K (loadPort p s) := by
  delta loadPort
  repeat' first
    | with_reducible assumption
    | intro _
    | (extract_lets +onlyGivenNames t; refine (have ht : Kept Q K t := ?_; ?_); subst t; rotate_left; clear_value t)
    | (extract_lets +onlyGivenNames t; clear_value t)
    | with_reducible apply kept_ite
    | with_reducible apply setF_kept
    | split

theorem loadWins_kept (H0 : Kept Q K s) :
    Kept Q K (loadWins s) := by
  delta loadWins
  repeat' first
    | with_reducible assumption
    | intro _
    | (extract_lets +onlyGivenNames t; refine (have ht : Kept Q K t := ?_; ?_); subst t; rotate_left; clear_value t)
    | (extract_lets +onlyGivenNames t; clear_value t)
    | with_reducible apply kept_ite
    | with_reducible apply kept_foldl
    | (simp only [kept_mk_iff]; with_reducible exact Kept.parts ‹_›)
    | (simp only [kept_mk_iff]; with_reducible refine Kept.parts ?_)

theorem loadStore_kept (H0 : Kept Q K s) :
    Kept Q K (loadStore s) := by
  delta loadStore
  repeat' first
    | with_reducible assumption
    | intro _
    | (extract_lets +onlyGivenNames t; refine (have ht : Kept Q K t := ?_; ?_); subst t; rotate_left; clear_value t)
    | (extract_lets +onlyGivenNames t; clear_value t)
    | with_reducible apply kept_ite
    | with_reducible apply each_kept
    | with_reducible apply loadBinding_kept
    | with_reducible apply loadPort_kept
    | with_reducible apply loadWins_kept
    | with_reducible apply setF_kept
    | (simp only [kept_mk_iff]; with_reducible exact Kept.parts ‹_›)
    | (simp only [kept_mk_iff]; with_reducible refine Kept.parts ?_)

theorem scratch_kept (H0 : Kept Q K s) : Kept Q K (scratch s) :=
  kept_mk ⟨H0.1.1, fun k => ⟨rfl, rfl, rfl, (H0.1.2 k).2.2.2⟩⟩

theorem openFeed_kept (H0 : Kept Q K s) :
    Kept Q K (openFeed s) := by
  delta openFeed
  repeat' first
    | with_reducible assumption
    | intro _
    | (extract_lets +onlyGivenNames t; refine (have ht : Kept Q K t := ?_; ?_); subst t; rotate_left; clear_value t)
    | (extract_lets +onlyGivenNames t; clear_value t)
    | with_reducible apply kept_ite
    | with_reducible apply State.setCtx_kept
    | with_reducible apply joinReports_kept
    | with_reducible apply showCtx_kept
    | with_reducible apply showStr_kept
    | (simp only [kept_mk_iff]; with_reducible exact Kept.parts ‹_›)
    | split
    | (simp only [kept_mk_iff]; with_reducible refine Kept.parts ?_)

theorem bootEnable_kept {page : Nat} (H0 : Kept Q K s) :
    Kept Q K (bootEnable page s) := by
  delta bootEnable
  repeat' first
    | with_reducible assumption
    | intro _
    | with_reducible apply kept_ite
    | with_reducible apply applyCtrl_kept

theorem loadTiming_kept (H0 : Kept Q K s) :
    Kept Q K (loadTiming s) := by
  delta loadTiming
  repeat' first
    | with_reducible assumption
    | intro _
    | (extract_lets +onlyGivenNames t; refine (have ht : Kept Q K t := ?_; ?_); subst t; rotate_left; clear_value t)
    | (extract_lets +onlyGivenNames t; clear_value t)
    | with_reducible apply kept_ite
    | with_reducible apply setF_kept
    | with_reducible apply wr_kept
    | split

theorem startEarly_kept {m : PanelMap} (H0 : Kept Q K s) :
    Kept Q K (startEarly m s) := by
  delta startEarly
  repeat' first
    | with_reducible assumption
    | intro _
    | (extract_lets +onlyGivenNames t; refine (have ht : Kept Q K t := ?_; ?_); subst t; rotate_left; clear_value t)
    | (extract_lets +onlyGivenNames t; clear_value t)
    | with_reducible apply kept_ite
    | with_reducible apply State.setGrp_kept
    | with_reducible apply State.setSlot_kept
    | with_reducible apply acceptMap_kept
    | with_reducible apply bootEnable_kept
    | with_reducible apply each_kept
    | with_reducible apply loadTiming_kept
    | with_reducible apply openFeed_kept
    | with_reducible apply setB_kept
    | with_reducible apply setF_kept
    | (simp only [kept_mk_iff]; with_reducible exact Kept.parts ‹_›)
    | (simp only [kept_mk_iff]; with_reducible refine Kept.parts ?_)

theorem execBootReduced_kept (H0 : Kept Q K s) :
    Answers (Kept Q K) (execBootReduced s) := by
  delta execBootReduced
  repeat' first
    | with_reducible assumption
    | intro _
    | (extract_lets +onlyGivenNames t; refine (have ht : Kept Q K t := ?_; ?_); subst t; rotate_left; clear_value t)
    | (extract_lets +onlyGivenNames t; clear_value t)
    | with_reducible apply kept_ite
    | with_reducible apply bootEnable_kept
    | with_reducible apply countF_kept
    | with_reducible apply each_kept
    | with_reducible apply ifS_kept
    | with_reducible apply loadStore_kept
    | with_reducible apply migrate_kept
    | with_reducible apply raise_kept
    | with_reducible apply setF_kept
    | with_reducible apply startEarly_kept
    | with_reducible apply answers_next
    | with_reducible apply answers_ite
    | (simp only [kept_mk_iff]; with_reducible exact Kept.parts ‹_›)
    | split
    | (simp only [kept_mk_iff]; with_reducible refine Kept.parts ?_)

theorem feedPicture_kept {r : LayerResult} (H0 : Kept Q K s) :
    Kept Q K (feedPicture r s) := by
  delta feedPicture
  repeat' first
    | with_reducible assumption
    | intro _
    | (extract_lets +onlyGivenNames t; refine (have ht : Kept Q K t := ?_; ?_); subst t; rotate_left; clear_value t)
    | (extract_lets +onlyGivenNames t; clear_value t)
    | with_reducible apply kept_ite
    | with_reducible apply scratch_kept
    | with_reducible apply writePicture_kept
    | (simp only [kept_mk_iff]; with_reducible exact Kept.parts ‹_›)
    | (simp only [kept_mk_iff]; with_reducible refine Kept.parts ?_)

theorem feedUnit_kept {c : Nat} {res : DecodeResult} (H0 : Kept Q K s) :
    Kept Q K (feedUnit c res s) := by
  delta feedUnit
  repeat' first
    | with_reducible assumption
    | intro _
    | (extract_lets +onlyGivenNames t; refine (have ht : Kept Q K t := ?_; ?_); subst t; rotate_left; clear_value t)
    | (extract_lets +onlyGivenNames t; clear_value t)
    | with_reducible apply kept_ite
    | with_reducible apply State.setCtx_kept
    | with_reducible apply feedPicture_kept
    | with_reducible apply ifS_kept
    | (simp only [kept_mk_iff]; with_reducible exact Kept.parts ‹_›)
    | split
    | (simp only [kept_mk_iff]; with_reducible refine Kept.parts ?_)

theorem execAccessUnitComplete_kept {ctx : Fin 1024} {res : DecodeResult} {loads : List Cmd} (H0 : Kept Q K s) :
    Answers (Kept Q K) (execAccessUnitComplete ctx res loads s) := by
  delta execAccessUnitComplete
  repeat' first
    | with_reducible assumption
    | intro _
    | (extract_lets +onlyGivenNames t; refine (have ht : Kept Q K t := ?_; ?_); subst t; rotate_left; clear_value t)
    | (extract_lets +onlyGivenNames t; refine (have ht : Kept Q K t.2 := ?_; ?_); subst t; rotate_left; clear_value t)
    | (extract_lets +onlyGivenNames t; refine (have ht : Kept Q K t.1 := ?_; ?_); subst t; rotate_left; clear_value t)
    | (extract_lets +onlyGivenNames t; refine (have ht : Kept Q K t.1.1 := ?_; ?_); subst t; rotate_left; clear_value t)
    | (extract_lets +onlyGivenNames t; clear_value t)
    | with_reducible apply kept_ite
    | with_reducible apply acceptSeis_kept
    | with_reducible apply completeUnit_kept
    | with_reducible apply feedUnit_kept
    | with_reducible apply queueContextBuilds_kept
    | with_reducible apply answers_next
    | with_reducible apply answers_ite
    | (simp only [kept_mk_iff]; with_reducible exact Kept.parts ‹_›)
    | split
    | (simp only [kept_mk_iff]; with_reducible refine Kept.parts ?_)

theorem closeFeed_kept (H0 : Kept Q K s) :
    Kept Q K (closeFeed s) := by
  delta closeFeed
  repeat' first
    | with_reducible assumption
    | intro _
    | (extract_lets +onlyGivenNames t; refine (have ht : Kept Q K t := ?_; ?_); subst t; rotate_left; clear_value t)
    | (extract_lets +onlyGivenNames t; clear_value t)
    | with_reducible apply kept_ite
    | with_reducible apply State.setCtx_kept
    | with_reducible apply showCtx_kept
    | with_reducible apply showStr_kept
    | (simp only [kept_mk_iff]; with_reducible exact Kept.parts ‹_›)
    | split
    | (simp only [kept_mk_iff]; with_reducible refine Kept.parts ?_)

theorem switchEarly_kept (H0 : Kept Q K s) :
    Kept Q K (switchEarly s) := by
  delta switchEarly
  repeat' first
    | with_reducible assumption
    | intro _
    | (extract_lets +onlyGivenNames t; refine (have ht : Kept Q K t := ?_; ?_); subst t; rotate_left; clear_value t)
    | (extract_lets +onlyGivenNames t; clear_value t)
    | with_reducible apply kept_ite
    | with_reducible apply endEarly_kept
    | with_reducible apply setF_kept
    | (simp only [kept_mk_iff]; with_reducible exact Kept.parts ‹_›)
    | split
    | (simp only [kept_mk_iff]; with_reducible refine Kept.parts ?_)

theorem execBootFull_kept (H0 : Kept Q K s) :
    Answers (Kept Q K) (execBootFull s) := by
  delta execBootFull
  repeat' first
    | with_reducible assumption
    | intro _
    | with_reducible apply kept_ite
    | with_reducible apply closeFeed_kept
    | with_reducible apply ifS_kept
    | with_reducible apply raise_kept
    | with_reducible apply setF_kept
    | with_reducible apply setPwr_kept
    | with_reducible apply switchEarly_kept
    | with_reducible apply writeEarly_kept
    | with_reducible apply answers_next
    | with_reducible apply answers_ite
    | split

end Sys2Proof.Machine
end

