-- ==== Sys2Proof/Laws/Kept/Receive.lean ====
section
/-!
SUPPORT. Every operation of Machine/Receive.lean keeps the queue and the canonical form.
-/

namespace Sys2Proof.Machine

set_option linter.unusedTactic false
set_option linter.unreachableTactic false
set_option linter.unusedSimpArgs false

variable {Q : List Instr} {K : Prop} {s : State}

theorem rxDrop_kept {p : Nat} {f : Fld} (H0 : Kept Q K s) :
    Kept Q K (rxDrop p f s) := by
  delta rxDrop
  repeat' first
    | with_reducible assumption
    | intro _
    | with_reducible apply kept_ite
    | with_reducible apply countF_kept
    | with_reducible apply ifS_kept
    | with_reducible apply raise_kept

theorem slowPath_kept {p : Nat} {f : List Byte} (H0 : Kept Q K s) :
    Kept Q K (slowPath p f s) := by
  delta slowPath
  repeat' first
    | with_reducible assumption
    | intro _
    | (extract_lets +onlyGivenNames t; refine (have ht : Kept Q K t := ?_; ?_); subst t; rotate_left; clear_value t)
    | (extract_lets +onlyGivenNames t; clear_value t)
    | with_reducible apply kept_ite
    | with_reducible apply emit_kept
    | with_reducible apply firmwareAnswers_kept
    | with_reducible apply rxDrop_kept
    | (simp only [kept_mk_iff]; with_reducible exact Kept.parts ‹_›)
    | split
    | (simp only [kept_mk_iff]; with_reducible refine Kept.parts ?_)

theorem jmpArrives_kept {m : JmpIn} (H0 : Kept Q K s) :
    Kept Q K (jmpArrives m s) := by
  delta jmpArrives
  repeat' first
    | with_reducible assumption
    | intro _
    | (extract_lets +onlyGivenNames t; refine (have ht : Kept Q K t := ?_; ?_); subst t; rotate_left; clear_value t)
    | (extract_lets +onlyGivenNames t; clear_value t)
    | with_reducible apply kept_ite
    | with_reducible apply jmpDrop_kept
    | with_reducible apply jmpStamp_kept
    | (simp only [kept_mk_iff]; with_reducible exact Kept.parts ‹_›)
    | split
    | (simp only [kept_mk_iff]; with_reducible refine Kept.parts ?_)

theorem classifyUdp_kept {p : Fin 5} {f : List Byte} (H0 : Kept Q K s) :
    Kept Q K (classifyUdp p f s) := by
  delta classifyUdp
  repeat' first
    | with_reducible assumption
    | intro _
    | (extract_lets +onlyGivenNames t; refine (have ht : Kept Q K t := ?_; ?_); subst t; rotate_left; clear_value t)
    | (extract_lets +onlyGivenNames t; clear_value t)
    | with_reducible apply kept_ite
    | with_reducible apply jmpArrives_kept
    | with_reducible apply rtpPacket_kept
    | with_reducible apply slowPath_kept
    | (simp only [kept_mk_iff]; with_reducible exact Kept.parts ‹_›)
    | split
    | (simp only [kept_mk_iff]; with_reducible refine Kept.parts ?_)

theorem receive_kept {p : Fin 5} {f : List Byte} {fcsOk : Bool} (H0 : Kept Q K s) :
    Kept Q K (receive p f fcsOk s) := by
  delta receive
  repeat' first
    | with_reducible assumption
    | intro _
    | (extract_lets +onlyGivenNames t; refine (have ht : Kept Q K t := ?_; ?_); subst t; rotate_left; clear_value t)
    | (extract_lets +onlyGivenNames t; clear_value t)
    | with_reducible apply kept_ite
    | with_reducible apply classifyUdp_kept
    | with_reducible apply countF_kept
    | with_reducible apply each_kept
    | with_reducible apply ifS_kept
    | with_reducible apply pfcFrame_kept
    | with_reducible apply ptpReceive_kept
    | with_reducible apply rxDrop_kept
    | (simp only [kept_mk_iff]; with_reducible exact Kept.parts ‹_›)
    | split
    | (simp only [kept_mk_iff]; with_reducible refine Kept.parts ?_)

theorem injEnds_kept {p : Nat} (H0 : Kept Q K s) :
    Kept Q K (injEnds p s) := by
  delta injEnds
  repeat' first
    | with_reducible assumption
    | intro _
    | with_reducible apply kept_ite
    | with_reducible apply raise_kept
    | with_reducible apply setF_kept

theorem injApplied_kept {p : Nat} (H0 : Kept Q K s) :
    Kept Q K (injApplied p s) := by
  delta injApplied
  repeat' first
    | with_reducible assumption
    | intro _
    | with_reducible apply kept_ite
    | with_reducible apply addF_kept

theorem inject_kept {p : Fin 5} {f : List Byte} {fcsOk : Bool} (H0 : Kept Q K s) :
    Kept Q K (inject p f fcsOk s) := by
  delta inject
  repeat' first
    | with_reducible assumption
    | intro _
    | (extract_lets +onlyGivenNames t; refine (have ht : Kept Q K t := ?_; ?_); subst t; rotate_left; clear_value t)
    | (extract_lets +onlyGivenNames t; clear_value t)
    | with_reducible apply kept_ite
    | with_reducible apply ifS_kept
    | with_reducible apply injApplied_kept
    | with_reducible apply injEnds_kept
    | with_reducible apply receive_kept
    | with_reducible apply setB_kept
    | (simp only [kept_mk_iff]; with_reducible exact Kept.parts ‹_›)
    | split
    | (simp only [kept_mk_iff]; with_reducible refine Kept.parts ?_)

theorem execFrameReceived_kept {port : Fin 5} {frame : List Byte} {fcsOk : Bool} {fecUnc : Nat} (H0 : Kept Q K s) :
    Answers (Kept Q K) (execFrameReceived port frame fcsOk fecUnc s) := by
  delta execFrameReceived
  repeat' first
    | with_reducible assumption
    | intro _
    | (extract_lets +onlyGivenNames t; refine (have ht : Kept Q K t := ?_; ?_); subst t; rotate_left; clear_value t)
    | (extract_lets +onlyGivenNames t; clear_value t)
    | with_reducible apply kept_ite
    | with_reducible apply inject_kept
    | with_reducible apply receive_kept
    | with_reducible apply setF_kept
    | with_reducible apply answers_next
    | with_reducible apply answers_ite
    | split

theorem execNetInjDelayExpire_kept {port : Fin 5} (H0 : Kept Q K s) :
    Answers (Kept Q K) (execNetInjDelayExpire port s) := by
  delta execNetInjDelayExpire
  repeat' first
    | with_reducible assumption
    | intro _
    | (extract_lets +onlyGivenNames t; refine (have ht : Kept Q K t := ?_; ?_); subst t; rotate_left; clear_value t)
    | (extract_lets +onlyGivenNames t; clear_value t)
    | with_reducible apply kept_ite
    | with_reducible apply ifS_kept
    | with_reducible apply receive_kept
    | with_reducible apply answers_next
    | with_reducible apply answers_ite
    | (simp only [kept_mk_iff]; with_reducible exact Kept.parts ‹_›)
    | split
    | (simp only [kept_mk_iff]; with_reducible refine Kept.parts ?_)

end Sys2Proof.Machine
end

