-- ==== Sys2Proof/Laws/Kept/Exec.lean ====
section
/-!
SUPPORT. Every command answers with a next state, leaves the queue as it is, and keeps the canonical form.
-/

namespace Sys2Proof.Machine

variable {Q : List Instr} {K : Prop} {s : State}

theorem exec_kept (c : Instr) (H : Kept Q K s) : Answers (Kept Q K) (exec c s) := by
  cases c with
  | pgEnable _ _ _ => exact execPgEnable_kept H
  | pgPark _ _ _ => exact execPgPark_kept H
  | pgReset _ _ _ _ => exact execPgReset_kept H
  | blockReady _ => exact execBlockReady_kept H
  | blockIdlePoint _ => exact execBlockIdlePoint_kept H
  | stopComplete _ => exact execStopComplete_kept H
  | blockInternalFault _ _ => exact execBlockInternalFault_kept H
  | registerWrite _ => exact execRegisterWrite_kept H
  | bar0BadAccess _ _ => exact execBar0BadAccess_kept H
  | bar2WindowAccess _ _ _ => exact execBar2WindowAccess_kept H
  | evPendClear _ _ _ => exact execEvPendClear_kept H
  | evSetWrite _ _ _ => exact execEvSetWrite_kept H
  | hstEpendClear _ _ _ _ => exact execHstEpendClear_kept H
  | panelMapLoad _ _ => exact execPanelMapLoad_kept H
  | psdLoad _ => exact execPsdLoad_kept H
  | lutLoad _ => exact execLutLoad_kept H
  | blendLoad _ => exact execBlendLoad_kept H
  | outlutLoad _ => exact execOutlutLoad_kept H
  | frameLatch _ => exact execFrameLatch_kept H
  | frameStart _ => exact execFrameStart_kept H
  | rasModeApply _ _ => exact execRasModeApply_kept H
  | fanRowStart _ => exact execFanRowStart_kept H
  | rayEntersJet _ _ => exact execRayEntersJet_kept H
  | anchorCacheFill _ _ => exact execAnchorCacheFill_kept H
  | virtualProbeRay _ _ _ => exact execVirtualProbeRay_kept H
  | probeDone _ => exact execProbeDone_kept H
  | synCapWrite _ _ _ => exact execSynCapWrite_kept H
  | rowDeparture _ => exact execRowDeparture_kept H
  | synPoolWrite _ _ v => exact execSynPoolWrite_kept (_v := v) H
  | echoCompare _ _ _ => exact execEchoCompare_kept H
  | lnkEnWrite _ _ _ => exact execLnkEnWrite_kept H
  | lnkRateWrite _ _ _ => exact execLnkRateWrite_kept H
  | lnkLoopWrite _ _ _ => exact execLnkLoopWrite_kept H
  | lnkBlankWrite _ _ _ => exact execLnkBlankWrite_kept H
  | unblank _ _ _ => exact execUnblank_kept H
  | lnkInjArm _ _ _ => exact execLnkInjArm_kept H
  | rxCommaDetect _ _ => exact execRxCommaDetect_kept H
  | rxIdleReceived _ _ => exact execRxIdleReceived_kept H
  | rxCodeError _ _ => exact execRxCodeError_kept H
  | statusPacketRx _ _ => exact execStatusPacketRx_kept H
  | faultSetRx _ _ _ => exact execFaultSetRx_kept H
  | statusTimeout _ => exact execStatusTimeout_kept H
  | rateAckTimeout _ => exact execRateAckTimeout_kept H
  | rateSwitchDelay _ => exact execRateSwitchDelay_kept H
  | rateReadyTimeout _ => exact execRateReadyTimeout_kept H
  | blankRepeat _ => exact execBlankRepeat_kept H
  | lanePllUnlock _ => exact execLanePllUnlock_kept H
  | raymapLoad _ => exact execRaymapLoad_kept H
  | raymapCheckDone _ => exact execRaymapCheckDone_kept H
  | gainLoad _ => exact execGainLoad_kept H
  | gainDerive _ => exact execGainDerive_kept H
  | gainDeriveDone => exact execGainDeriveDone_kept H
  | ageingCurveLoad _ => exact execAgeingCurveLoad_kept H
  | counterExport _ _ => exact execCounterExport_kept H
  | gainExport _ => exact execGainExport_kept H
  | counterImport _ => exact execCounterImport_kept H
  | gainImport _ => exact execGainImport_kept H
  | stressRowUpdate _ _ _ => exact execStressRowUpdate_kept H
  | corStrExpWrite _ _ => exact execCorStrExpWrite_kept H
  | stressTableRegenDone => exact execStressTableRegenDone_kept H
  | frameReceived _ _ _ _ => exact execFrameReceived_kept H
  | portLinkChange _ _ _ => exact execPortLinkChange_kept H
  | mergeGapTimeout _ => exact execMergeGapTimeout_kept H
  | pathTimeout _ _ => exact execPathTimeout_kept H
  | ctxOpen _ => exact execCtxOpen_kept H
  | ctxClose _ => exact execCtxClose_kept H
  | ctxReleaseDone _ => exact execCtxReleaseDone_kept H
  | strSelWrite _ _ _ => exact execStrSelWrite_kept H
  | netInjArm _ _ _ => exact execNetInjArm_kept H
  | netInjDelayExpire _ => exact execNetInjDelayExpire_kept H
  | decBind _ => exact execDecBind_kept H
  | decUnbind _ => exact execDecUnbind_kept H
  | unbindDone _ => exact execUnbindDone_kept H
  | decodeStart _ _ => exact execDecodeStart_kept H
  | accessUnitComplete _ _ _ => exact execAccessUnitComplete_kept H
  | decSelWrite _ _ => exact execDecSelWrite_kept H
  | planeAlloc _ _ => exact execPlaneAlloc_kept H
  | planeSet _ _ => exact execPlaneSet_kept H
  | planePresent _ => exact execPlanePresent_kept H
  | planeFree _ _ => exact execPlaneFree_kept H
  | planeFreed _ => exact execPlaneFreed_kept H
  | bufRelease _ => exact execBufRelease_kept H
  | winSet _ _ => exact execWinSet_kept H
  | winClear _ _ => exact execWinClear_kept H
  | coefLoad _ => exact execCoefLoad_kept H
  | buildStart _ => exact execBuildStart_kept H
  | watermark _ => exact execWatermark_kept H
  | buildComplete => exact execBuildComplete_kept H
  | draw _ => exact execDraw_kept H
  | drawComplete _ => exact execDrawComplete_kept H
  | dmaCopy _ => exact execDmaCopy_kept H
  | dmaCopyDone _ _ _ _ => exact execDmaCopyDone_kept H
  | asmPselWrite _ _ => exact execAsmPselWrite_kept H
  | encOpen _ => exact execEncOpen_kept H
  | encClose _ => exact execEncClose_kept H
  | encCapture _ => exact execEncCapture_kept H
  | encCaptureDone _ => exact execEncCaptureDone_kept H
  | encPictureStart _ => exact execEncPictureStart_kept H
  | encPictureDone _ _ => exact execEncPictureDone_kept H
  | forceIdr _ _ => exact execForceIdr_kept H
  | roiApply _ _ => exact execRoiApply_kept H
  | encSRdWrite _ _ _ => exact execEncSRdWrite_kept H
  | egrSubOpen _ => exact execEgrSubOpen_kept H
  | egrSubClose _ => exact execEgrSubClose_kept H
  | egrSend _ => exact execEgrSend_kept H
  | egrFrameTxStart _ => exact execEgrFrameTxStart_kept H
  | egrFrameTxEnd _ => exact execEgrFrameTxEnd_kept H
  | tokenTick => exact execTokenTick_kept H
  | egrBucketWrite _ _ _ _ => exact execEgrBucketWrite_kept H
  | gclLoad _ => exact execGclLoad_kept H
  | configChange _ _ => exact execConfigChange_kept H
  | gclCancel _ _ => exact execGclCancel_kept H
  | gclChangeTime _ => exact execGclChangeTime_kept H
  | gateEntryEnd _ => exact execGateEntryEnd_kept H
  | pfcPauseExpire _ _ => exact execPfcPauseExpire_kept H
  | egrSampleTick => exact execEgrSampleTick_kept H
  | egrQClear _ => exact execEgrQClear_kept H
  | aoclkTick => exact execAoclkTick_kept H
  | timSelDomainWrite _ _ => exact execTimSelDomainWrite_kept H
  | timSelJump _ => exact execTimSelJump_kept H
  | timDValidWrite _ _ _ => exact execTimDValidWrite_kept H
  | timDIncWrite _ _ _ => exact execTimDIncWrite_kept H
  | timDAdjWrite _ _ _ => exact execTimDAdjWrite_kept H
  | timDSet _ _ => exact execTimDSet_kept H
  | timSnap _ => exact execTimSnap_kept H
  | announceTimeout _ => exact execAnnounceTimeout_kept H
  | ptpDelayReqSend _ _ _ => exact execPtpDelayReqSend_kept H
  | ppsInEdge => exact execPpsInEdge_kept H
  | txqPop _ _ => exact execTxqPop_kept H
  | timerArm _ _ => exact execTimerArm_kept H
  | timerDisarm _ _ => exact execTimerDisarm_kept H
  | timerEdge _ => exact execTimerEdge_kept H
  | timerPulseEnd _ => exact execTimerPulseEnd_kept H
  | aoclkLoss => exact execAoclkLoss_kept H
  | cueLoad _ => exact execCueLoad_kept H
  | cueStop _ => exact execCueStop_kept H
  | cuePreset _ => exact execCuePreset_kept H
  | cueSkip _ => exact execCueSkip_kept H
  | rimImageStore _ => exact execRimImageStore_kept H
  | rimRegionOpen _ => exact execRimRegionOpen_kept H
  | rimRegionSet _ => exact execRimRegionSet_kept H
  | rimRegionClose _ => exact execRimRegionClose_kept H
  | rimUpdate _ => exact execRimUpdate_kept H
  | rimArbiterTick => exact execRimArbiterTick_kept H
  | commonLineComplete => exact execCommonLineComplete_kept H
  | rimBandLoad _ => exact execRimBandLoad_kept H
  | rimPersist _ => exact execRimPersist_kept H
  | rimPersistWrite => exact execRimPersistWrite_kept H
  | persisted _ => exact execPersisted_kept H
  | rimRestore => exact execRimRestore_kept H
  | converterConversion _ => exact execConverterConversion_kept H
  | boostReady => exact execBoostReady_kept H
  | boostIdleTimeout => exact execBoostIdleTimeout_kept H
  | vhvLoss _ => exact execVhvLoss_kept H
  | vhvRise => exact execVhvRise_kept H
  | csiFrameStart _ _ _ => exact execCsiFrameStart_kept H
  | csiLine _ _ => exact execCsiLine_kept H
  | csiFrameEnd _ _ => exact execCsiFrameEnd_kept H
  | camOutputComplete _ => exact execCamOutputComplete_kept H
  | camI3c _ => exact execCamI3c_kept H
  | i3cTransferDone _ _ _ => exact execI3cTransferDone_kept H
  | i3cIbi _ _ _ => exact execI3cIbi_kept H
  | camExpset _ => exact execCamExpset_kept H
  | expsetWritten _ _ => exact execExpsetWritten_kept H
  | expsetSlotClose _ => exact execExpsetSlotClose_kept H
  | camDefectLoad _ => exact execCamDefectLoad_kept H
  | camToneLoad _ => exact execCamToneLoad_kept H
  | camWinLoad _ => exact execCamWinLoad_kept H
  | camSensorEnable _ _ _ => exact execCamSensorEnable_kept H
  | camOutputEnable _ _ _ => exact execCamOutputEnable_kept H
  | hbmTrainingDone _ _ => exact execHbmTrainingDone_kept H
  | hbmTempPoll _ _ _ => exact execHbmTempPoll_kept H
  | hbmEccError _ _ _ _ => exact execHbmEccError_kept H
  | hbmScrubPass _ _ => exact execHbmScrubPass_kept H
  | slcCompress _ _ => exact execSlcCompress_kept H
  | slcFlush _ _ => exact execSlcFlush_kept H
  | slcDecompress _ _ => exact execSlcDecompress_kept H
  | pwrSet _ => exact execPwrSet_kept H
  | standbyEntered => exact execStandbyEntered_kept H
  | wakeNLow => exact execWakeNLow_kept H
  | timedWake => exact execTimedWake_kept H
  | standbyWakeDone => exact execStandbyWakeDone_kept H
  | mainPgRise => exact execMainPgRise_kept H
  | mainPgFall => exact execMainPgFall_kept H
  | mainPgTimeout => exact execMainPgTimeout_kept H
  | resetNLow => exact execResetNLow_kept H
  | resetNRelease _ _ => exact execResetNRelease_kept H
  | perstNChange _ _ => exact execPerstNChange_kept H
  | pllUnlock _ => exact execPllUnlock_kept H
  | refLost _ => exact execRefLost_kept H
  | thermalConversion _ => exact execThermalConversion_kept H
  | throttleGraceExpire => exact execThrottleGraceExpire_kept H
  | throttleStep => exact execThrottleStep_kept H
  | thmCfgWrite _ _ => exact execThmCfgWrite_kept H
  | thermalTrip _ => exact execThermalTrip_kept H
  | thermalRestart => exact execThermalRestart_kept H
  | trmReq _ _ => exact execTrmReq_kept H
  | laneRecalWindow _ _ => exact execLaneRecalWindow_kept H
  | portRecal _ => exact execPortRecal_kept H
  | recalDone _ _ => exact execRecalDone_kept H
  | descriptorFetch _ => exact execDescriptorFetch_kept H
  | hstCmdTailWrite _ _ _ => exact execHstCmdTailWrite_kept H
  | hstCplHeadWrite _ _ _ => exact execHstCplHeadWrite_kept H
  | hstRingRun _ _ _ => exact execHstRingRun_kept H
  | ringFetchFail _ _ => exact execRingFetchFail_kept H
  | nop _ => exact execNop_kept H
  | hstSemAcquire _ => exact execHstSemAcquire_kept H
  | hstSemRelease _ _ => exact execHstSemRelease_kept H
  | hstRegWrite _ _ _ _ _ => exact execHstRegWrite_kept H
  | hstHwinWrite _ _ _ _ _ => exact execHstHwinWrite_kept H
  | hstAdminWrite _ _ => exact execHstAdminWrite_kept H
  | jmpCommand _ => exact execJmpCommand_kept H
  | jmpRegRead _ => exact execJmpRegRead_kept H
  | jmpRegWrite _ => exact execJmpRegWrite_kept H
  | jmpMemWrite _ => exact execJmpMemWrite_kept H
  | jmpMemRead _ => exact execJmpMemRead_kept H
  | jmpPower _ => exact execJmpPower_kept H
  | jmpWake _ => exact execJmpWake_kept H
  | jmpEventSend _ _ => exact execJmpEventSend_kept H
  | fwuBegin _ => exact execFwuBegin_kept H
  | fwuChunk _ => exact execFwuChunk_kept H
  | fwuVerify _ => exact execFwuVerify_kept H
  | fwuActivate _ => exact execFwuActivate_kept H
  | activationPauseEnd _ => exact execActivationPauseEnd_kept H
  | fwuConfirm _ => exact execFwuConfirm_kept H
  | fwuAbort _ => exact execFwuAbort_kept H
  | fwWatchdogExpire => exact execFwWatchdogExpire_kept H
  | cfgItem _ => exact execCfgItem_kept H
  | cfgHalfErase => exact execCfgHalfErase_kept H
  | attReport _ => exact execAttReport_kept H
  | bootReduced => exact execBootReduced_kept H
  | bootFull => exact execBootFull_kept H
  | fwuRcvProgram _ _ => exact execFwuRcvProgram_kept H
  | fwuRcvVerify _ _ => exact execFwuRcvVerify_kept H
  | evtSelWrite _ _ => exact execEvtSelWrite_kept H
  | egrSselWrite _ _ _ => exact execEgrSselWrite_kept H
  | patternWordRx _ _ => exact execPatternWordRx_kept H
  | camTrigPulseEnd _ => exact execCamTrigPulseEnd_kept H
  | slcCommandDone _ => exact execSlcCommandDone_kept H
  | pcieLinkChange _ _ => exact execPcieLinkChange_kept H
  | functionLevelReset _ => exact execFunctionLevelReset_kept H
  | refClockReturn _ => exact execRefClockReturn_kept H

end Sys2Proof.Machine
end

