-- ==== Sys2Proof/WellFormed.lean ====
section
/-!
DEFINITION. Which commands are well formed: every operand within the width or the range that its encoding gives it. The
meanings are total and take any command; a command outside these ranges cannot be sent.
-/

namespace Sys2Proof

/-- A page of the register space (R514). -/
def pageWf (page : Nat) : Bool := decide (page < 4096)

/-- An operand of a descriptor (R476, R477): a space that exists, 64-bit address, 32-bit length, nothing with NONE. -/
def Operand.wf (o : Operand) : Bool :=
  decide (o.space ≤ 2) && decide (o.addr < 2 ^ 64) && decide (o.len < 2 ^ 32) &&
  (decide (o.space ≠ 0) || (decide (o.addr = 0) && decide (o.len = 0)))

/-- A dispatched command (R476): a 16-bit TAG, its operands, and the seven ARG words. -/
def Cmd.wf (c : Cmd) : Bool := decide (c.tag < 2 ^ 16) && c.src.wf && c.dst.wf && decide (c.args.length = 7)

/-- `n` code groups of ten bits (R150). -/
def groupsWf (n : Nat) (l : List Nat) : Bool := decide (l.length = n) && l.all (fun g => decide (g < 1024))

/-- A command of the plane and window tables is well formed as a command. -/
def AsmReq.wf (r : AsmReq) : Bool := r.cmd.wf

/-- A well-formed command of the Sluice engine. -/
def SlcReq.wf (r : SlcReq) : Bool := r.cmd.wf

/-- A register write goes to an aligned address of the register space (R514). -/
def WriteReq.wf (r : WriteReq) : Bool := decide (r.addr < 2 ^ 24) && decide (r.addr % 4 = 0)

/-- A PCIe read fetches at most 4,096 bytes, and a write carries at most 512 (R463). -/
def WindowAccess.wf (a : WindowAccess) : Bool :=
  match a with
  | .read n => decide (n ≤ 4096)
  | .write b => decide (b.length ≤ 512)
  | .msixRead n => decide (n ≤ 1024)
  | .msixWrite ws => decide (ws.length ≤ 128)
  | .msixMask _ => true

/-- A JMP datagram (R466–R468): an address of one word or four, a 16-bit port, and the words its bytes hold. -/
def JmpIn.wf (m : JmpIn) : Bool :=
  decide (m.srcAddr.length = if m.ipv6 then 4 else 1) && decide (m.dstAddr.length = if m.ipv6 then 4 else 1) && decide (m.srcPort < 2 ^ 16) && decide (m.words.length = m.bytes / 4)

/-- The converter's codes have 12 bits (R381). -/
def Conversion.wf (r : Conversion) : Bool := decide (r.ntc < 4096)

/-- A CSI-2 line (R391): a virtual channel, a data type and 12-bit samples. -/
def CsiLineIn.wf (l : CsiLineIn) : Bool :=
  decide (l.vc < 16) && decide (l.dt < 64) && l.samples.all (fun x => decide (x < 4096))

/-- Layers of an access unit name slots of a binding (R238). -/
def LayerInfo.wf (l : LayerInfo) : Bool :=
  decide (l.slot < 8) && decide (l.chroma < 4) && [16, 32, 64].contains l.ctb &&
  decide (l.tiles.flatten.length = (l.w + l.ctb - 1) / l.ctb * ((l.h + l.ctb - 1) / l.ctb)) &&
  l.tiles.flatten.all (fun k => decide (k < l.tiles.flatten.length))

/-- TemporalId is below 7, and the layers are well formed. -/
def AuInfo.wf (i : AuInfo) : Bool := decide (i.tid < 7) && i.layers.all LayerInfo.wf

/-- A decoded picture's samples fill its planes (R249). -/
def LayerResult.wf (r : LayerResult) : Bool :=
  decide (r.slot < 8) && decide (r.chroma < 4) && decide (r.luma.length = r.w * r.h) && decide (r.cb.length = r.cr.length) &&
  r.luma.all (fun x => decide (x < 2 ^ r.depthY)) && (r.cb ++ r.cr).all (fun x => decide (x < 2 ^ r.depthC))

/-- Every layer of a decode result is well formed. -/
def DecodeResult.wf (r : DecodeResult) : Bool := r.layers.all LayerResult.wf

/-- A coded picture's QPs lie in the range of H.265 and its samples are 10-bit codes (R302, R304). -/
def EncodeResult.wf (r : EncodeResult) : Bool :=
  decide (r.qp ≤ 51) && r.qps.all (fun q => decide (q ≤ 51)) && (r.recon.y ++ r.recon.cb ++ r.recon.cr).all (fun x => decide (x < 1024))

/-- A trip names a sensor, a stack or a die that exists (R448, R453). -/
def TripSource.wf (t : TripSource) : Bool :=
  match t with
  | .comparator n _ => decide (n < 72)
  | .stack i => decide (i < 4)
  | .dieBlind d => decide (d < 8)

/-- A well-formed command. -/
def Instr.wf (i : Instr) : Bool :=
  match i with
  | .pgEnable _ page _ => pageWf page
  | .pgPark _ page _ => pageWf page
  | .pgReset _ page _ _ => pageWf page
  | .blockReady page => pageWf page
  | .blockIdlePoint page => pageWf page
  | .stopComplete page => pageWf page
  | .blockInternalFault page code => pageWf page && decide (1 ≤ code) && decide (code < 256)
  | .registerWrite reqs => reqs.all WriteReq.wf
  | .bar0BadAccess _ addr => decide (addr < 2 ^ 24)
  | .bar2WindowAccess _ off acc => decide (off < 2 ^ 36) && acc.wf
  | .evPendClear _ page _ => pageWf page
  | .evSetWrite _ page _ => pageWf page
  | .hstEpendClear _ _ _ _ => true
  | .panelMapLoad cs lost => cs.all Cmd.wf && lost.all (fun l => decide (l.lane < 1024))
  | .psdLoad cs => cs.all Cmd.wf
  | .lutLoad c => c.wf
  | .blendLoad c => c.wf
  | .outlutLoad c => c.wf
  | .frameLatch _ => true
  | .frameStart _ => true
  | .rasModeApply _ _ => true
  | .fanRowStart _ => true
  | .rayEntersJet _ _ => true
  | .anchorCacheFill _ _ => true
  | .virtualProbeRay _ _ _ => true
  | .probeDone _ => true
  | .synCapWrite _ _ _ => true
  | .rowDeparture _ => true
  | .synPoolWrite _ _ _ => true
  | .echoCompare _ _ _ => true
  | .lnkEnWrite _ _ _ => true
  | .lnkRateWrite _ _ rate => decide (rate < 32)
  | .lnkLoopWrite _ _ loop => decide (loop < 4)
  | .lnkBlankWrite _ _ _ => true
  | .unblank _ _ _ => true
  | .lnkInjArm _ _ _ => true
  | .rxCommaDetect _ group => decide (group < 1024)
  | .rxIdleReceived _ groups => groupsWf 4 groups
  | .rxCodeError _ groups => groupsWf 4 groups
  | .statusPacketRx _ groups => groupsWf 32 groups
  | .faultSetRx _ groups _ => groupsWf 4 groups
  | .statusTimeout _ => true
  | .rateAckTimeout _ => true
  | .rateSwitchDelay _ => true
  | .rateReadyTimeout _ => true
  | .blankRepeat _ => true
  | .lanePllUnlock _ => true
  | .raymapLoad c => c.wf
  | .raymapCheckDone _ => true
  | .gainLoad c => c.wf
  | .gainDerive c => c.wf
  | .gainDeriveDone => true
  | .ageingCurveLoad c => c.wf
  | .counterExport c lost => c.wf && lost.all (fun t => decide (t.1 < 1024) && decide (t.2 < 16384))
  | .gainExport c => c.wf
  | .counterImport c => c.wf
  | .gainImport c => c.wf
  | .stressRowUpdate _ row _ => decide (row < 16384)
  | .corStrExpWrite _ _ => true
  | .stressTableRegenDone => true
  | .frameReceived port _ fcsOk fecUnc => decide (fecUnc < 65536) && (decide (fecUnc = 0) || (decide (port.val < 4) && !fcsOk))
  | .portLinkChange _ _ _ => true
  | .mergeGapTimeout _ => true
  | .pathTimeout _ _ => true
  | .ctxOpen cs => cs.all Cmd.wf
  | .ctxClose c => c.wf
  | .ctxReleaseDone _ => true
  | .strSelWrite _ _ _ => true
  | .netInjArm _ _ _ => true
  | .netInjDelayExpire _ => true
  | .decBind cs => cs.all Cmd.wf
  | .decUnbind c => c.wf
  | .unbindDone _ => true
  | .decodeStart _ info => info.wf
  | .accessUnitComplete _ res loads => res.wf && loads.all Cmd.wf
  | .decSelWrite _ _ => true
  | .planeAlloc c also => c.wf && also.all AsmReq.wf
  | .planeSet c also => c.wf && also.all AsmReq.wf
  | .planePresent c => c.wf
  | .planeFree c also => c.wf && also.all AsmReq.wf
  | .planeFreed _ => true
  | .bufRelease c => c.wf
  | .winSet c also => c.wf && also.all AsmReq.wf
  | .winClear c also => c.wf && also.all AsmReq.wf
  | .coefLoad c => c.wf
  | .buildStart _ => true
  | .watermark _ => true
  | .buildComplete => true
  | .draw cs => cs.all Cmd.wf
  | .drawComplete _ => true
  | .dmaCopy c => c.wf
  | .dmaCopyDone c _ _ _ => c.wf
  | .asmPselWrite _ _ => true
  | .encOpen cs => cs.all Cmd.wf
  | .encClose c => c.wf
  | .encCapture _ => true
  | .encCaptureDone _ => true
  | .encPictureStart _ => true
  | .encPictureDone _ res => res.wf
  | .forceIdr _ _ => true
  | .roiApply _ _ => true
  | .encSRdWrite _ _ _ => true
  | .egrSubOpen cs => cs.all Cmd.wf
  | .egrSubClose c => c.wf
  | .egrSend c => c.wf
  | .egrFrameTxStart _ => true
  | .egrFrameTxEnd _ => true
  | .tokenTick => true
  | .egrBucketWrite _ _ _ _ => true
  | .gclLoad c => c.wf
  | .configChange _ _ => true
  | .gclCancel _ _ => true
  | .gclChangeTime _ => true
  | .gateEntryEnd _ => true
  | .pfcPauseExpire _ _ => true
  | .egrSampleTick => true
  | .egrQClear _ => true
  | .aoclkTick => true
  | .timSelDomainWrite _ _ => true
  | .timSelJump _ => true
  | .timDValidWrite _ _ _ => true
  | .timDIncWrite _ _ _ => true
  | .timDAdjWrite _ _ _ => true
  | .timDSet _ _ => true
  | .timSnap _ => true
  | .announceTimeout _ => true
  | .ptpDelayReqSend _ _ _ => true
  | .ppsInEdge => true
  | .txqPop _ _ => true
  | .timerArm _ _ => true
  | .timerDisarm _ _ => true
  | .timerEdge _ => true
  | .timerPulseEnd _ => true
  | .aoclkLoss => true
  | .cueLoad cs => cs.all Cmd.wf
  | .cueStop c => c.wf
  | .cuePreset c => c.wf
  | .cueSkip _ => true
  | .rimImageStore c => c.wf
  | .rimRegionOpen cs => cs.all Cmd.wf
  | .rimRegionSet c => c.wf
  | .rimRegionClose c => c.wf
  | .rimUpdate c => c.wf
  | .rimArbiterTick => true
  | .commonLineComplete => true
  | .rimBandLoad c => c.wf
  | .rimPersist c => c.wf
  | .rimPersistWrite => true
  | .persisted _ => true
  | .rimRestore => true
  | .converterConversion r => r.wf
  | .boostReady => true
  | .boostIdleTimeout => true
  | .vhvLoss _ => true
  | .vhvRise => true
  | .csiFrameStart _ vc num => decide (vc < 16) && decide (num < 65536)
  | .csiLine _ line => line.wf
  | .csiFrameEnd _ vc => decide (vc < 16)
  | .camOutputComplete _ => true
  | .camI3c c => c.wf
  | .i3cTransferDone _ _ data => decide (data.length ≤ 256)
  | .i3cIbi _ addr _ => decide (addr < 128)
  | .camExpset c => c.wf
  | .expsetWritten _ _ => true
  | .expsetSlotClose _ => true
  | .camDefectLoad c => c.wf
  | .camToneLoad c => c.wf
  | .camWinLoad c => c.wf
  | .camSensorEnable _ _ _ => true
  | .camOutputEnable _ _ _ => true
  | .hbmTrainingDone _ _ => true
  | .hbmTempPoll _ temp _ => decide (-128 ≤ temp) && decide (temp ≤ 127)
  | .hbmEccError _ addr port _ => decide (addr < 2 ^ 40) && decide (port < 64)
  | .hbmScrubPass _ found => found.all (fun a => decide (a < 2 ^ 40))
  | .slcCompress c also => c.wf && also.all SlcReq.wf
  | .slcFlush c also => c.wf && also.all SlcReq.wf
  | .slcDecompress c also => c.wf && also.all SlcReq.wf
  | .pwrSet cs => cs.all Cmd.wf
  | .standbyEntered => true
  | .wakeNLow => true
  | .timedWake => true
  | .standbyWakeDone => true
  | .mainPgRise => true
  | .mainPgFall => true
  | .mainPgTimeout => true
  | .resetNLow => true
  | .resetNRelease _ _ => true
  | .perstNChange _ _ => true
  | .pllUnlock _ => true
  | .refLost _ => true
  | .thermalConversion readings => decide (readings.length = 72)
  | .throttleGraceExpire => true
  | .throttleStep => true
  | .thmCfgWrite _ _ => true
  | .thermalTrip src => src.wf
  | .thermalRestart => true
  | .trmReq _ _ => true
  | .laneRecalWindow _ _ => true
  | .portRecal _ => true
  | .recalDone _ _ => true
  | .descriptorFetch _ => true
  | .hstCmdTailWrite _ _ _ => true
  | .hstCplHeadWrite _ _ _ => true
  | .hstRingRun _ _ _ => true
  | .ringFetchFail _ _ => true
  | .nop c => c.wf
  | .hstSemAcquire _ => true
  | .hstSemRelease _ _ => true
  | .hstRegWrite _ _ _ _ _ => true
  | .hstHwinWrite _ _ _ _ _ => true
  | .hstAdminWrite _ _ => true
  | .jmpCommand m => m.wf
  | .jmpRegRead m => m.wf
  | .jmpRegWrite m => m.wf
  | .jmpMemWrite m => m.wf
  | .jmpMemRead m => m.wf
  | .jmpPower m => m.wf
  | .jmpWake m => m.wf
  | .jmpEventSend _ _ => true
  | .fwuBegin c => c.wf
  | .fwuChunk c => c.wf
  | .fwuVerify c => c.wf
  | .fwuActivate c => c.wf
  | .activationPauseEnd _ => true
  | .fwuConfirm c => c.wf
  | .fwuAbort c => c.wf
  | .fwWatchdogExpire => true
  | .cfgItem c => c.wf
  | .cfgHalfErase => true
  | .attReport cs => cs.all Cmd.wf
  | .bootReduced => true
  | .bootFull => true
  | .fwuRcvProgram _ _ => true
  | .fwuRcvVerify _ _ => true
  | .evtSelWrite _ _ => true
  | .egrSselWrite _ _ _ => true
  | .patternWordRx _ groups => groupsWf 4 groups
  | .camTrigPulseEnd _ => true
  | .slcCommandDone _ => true
  | .pcieLinkChange _ _ => true
  | .functionLevelReset _ => true
  | .refClockReturn _ => true

end Sys2Proof
end

