-- ==== Sys2Proof/Tests/Slice0.lean ====
section
/-!
SUPPORT. The model's own tests: an ill-formed term for each check of WellFormed, values that the specification works out,
and for the statements of Certificates/Slice0 concrete states and operands that meet their hypotheses. A theorem
`witness_X` belongs to the statement X and has one part for each of X's clauses that has hypotheses of its own. Three
clauses have no part in it: PANEL_MAP_LOAD of a complete map and COEF_LOAD (a record too long to evaluate here; the same
hypotheses but the record's contents are met by the neighbouring parts), and ENC_OPEN accepted, which has a theorem of its
own because AU_MIN contains an open value (log 13). The two ends of ENC_PICTURE_DONE differ by the state of the session
alone; their parts leave that last hypothesis out, so that together they show that one of the two is met.
-/

namespace Sys2Proof.Tests

open Sys2Proof Sys2Proof.Machine

set_option maxRecDepth 4000
set_option Elab.async false

/-! ## Small states -/

/-- A state in SERVICE with its supplies up, the pages of `l` in the states given and the registers of `more`. -/
def tAt (l : List (Nat × Nat)) (more : FMap Word) : State :=
  { regs := (0x2100, 0x10000000#32) :: l.map (fun e => (4096 * e.1 + 8, BitVec.ofNat 32 e.2)) ++ more
    pwr := { vhv := true, mainPg := true } }

/-- `tAt` with the HBM pages and those of `l` ON. -/
def tOn (l : List Nat) (more : FMap Word) : State := tAt ((l ++ hbmPages).map (fun p => (p, 2))) more

/-- HBM that holds the words of `ws` from address `a`. -/
def tMem (a : Nat) (ws : List Word) (s : State) : State :=
  { s with hbm := (wordsBytes ws).zipIdx.map (fun e => (a + e.2, e.1)) }

/-- A command of the firmware with `n` bytes of HBM from address 0 as its SRC. -/
def tCmd (n : Nat) (args : List Word) : Cmd :=
  { who := .fw, tag := 0, notify := false, src := ⟨1, 0, n⟩, dst := ⟨0, 0, 0⟩, args := args }

/-- Words with their CRC-32C after them. -/
def tCrc (ws : List Word) : List Word := ws ++ [crcWords ws]

/-- One tile of one hogel on lane 0, whose group's frame is in phase `ph`; the lanes of `parts` take part, and `rays` are its
rays of row 0. -/
def tTile (ph : Phase) (parts : List Nat) (rays : List (Nat × Nat × Nat)) (s : State) : State :=
  { s with
    panel := { map := { tiles := [(0, { valid := true })] } }
    ras := { groups := [(0, { phase := ph, parts := parts })], pools := [(0, { rows := [⟨0, rays, false⟩] })] } }

/-- `s` with ray 0 of row 0 of lane 0 next in fan 0. -/
def tRow (s : State) : State := { s with ras := { s.ras with fans := [(0, { row := some (0, 0, 0) })] } }

/-- A VIRTUAL picture of group 0 in which the hogels of `todo` are still to be written. -/
def tPicture (todo : List (Nat × Nat)) : ProbeRun where
  group := 0
  frame := 0
  fs := 0
  virtual := true
  sx := 0
  sy := 0
  u := 0
  v := 0
  buf := 0
  addr := 0
  pitch := 64
  x0 := 0
  y0 := 0
  w := 1
  h := 1
  todo := todo
  latch := {}

/-- `s` with that picture at probe 0. -/
def tProbe (todo : List (Nat × Nat)) (s : State) : State :=
  { s with ras := { s.ras with probes := [(0, { cur := some (tPicture todo) })] } }

/-- A command of the firmware, as it is kept until it completes. -/
def tRef : CmdRef := ⟨.fw, 0, false, 0⟩

/-- A frame with a UDP datagram over IPv4, all of whose addresses and ports are 0. -/
def tFrame : List Byte :=
  List.replicate 12 0 ++ [8, 0, 0x45, 0, 0, 28, 0, 0, 0, 0, 64, 17, 0, 0] ++ List.replicate 12 0 ++ [0, 0, 0, 8, 0, 0] ++ List.replicate 4 0

/-- An access unit of context 0 without NAL units. -/
def tUnit : AccessUnit := ⟨0, 0, 0, false, []⟩

/-- A layer of Main profile of 16 by 16 samples. -/
def tLayer : LayerInfo where
  slot := 0
  poc := 0
  profile := 1
  compat1 := false
  compat2 := false
  main422 := false
  level := 30
  auxId := 0
  alphaOf := none
  chroma := 1
  depthY := 8
  depthC := 8
  deps := []
  dpb := 0
  w := 16
  h := 16
  ctb := 16
  tiles := [[0]]
  slices := [1]
  wpp := false

/-- A binding in force on core 0 with `n` free buffers. -/
def tBinding (n : Nat) : Binding :=
  { state := 1, maxW := 16, maxH := 16, nBuf := n, layers := [0], bufs := List.replicate n {} }

/-- `s` with binding `b` of context 0, whose unit waits. -/
def tDecode (b : Binding) (s : State) : State :=
  { s with
    dec := { binds := [(0, b)] }
    str := { ctxs := [(0, { state := 1, queue := [tUnit] })] } }

/-- A JMP datagram of type `typ` on port M0 from address 0, for partition 0, with sequence number 1. -/
def tJmp (typ : Nat) (body : List Word) : JmpIn where
  port := 4
  ipv6 := false
  srcAddr := [0]
  srcPort := 0
  dstAddr := [0]
  bytes := 4 * (body.length + 3)
  words := tCrc ([BitVec.ofNat 32 (0x01000000 + typ * 2 ^ 20 + body.length + 3), 1] ++ body)

/-! ## Ill-formed terms: one for each check of WellFormed -/

theorem test_wf_page : (Instr.blockReady 4096).wf = false := by decide
theorem test_wf_fault_code : (Instr.blockInternalFault 0x60 0).wf = false := by decide
theorem test_wf_operand_space : (Instr.nop { who := .fw, tag := 0, notify := false, src := ⟨3, 0, 0⟩, dst := ⟨0, 0, 0⟩, args := List.replicate 7 0 }).wf = false := by decide
theorem test_wf_operand_none : (Instr.nop { who := .fw, tag := 0, notify := false, src := ⟨0, 4, 0⟩, dst := ⟨0, 0, 0⟩, args := List.replicate 7 0 }).wf = false := by decide
theorem test_wf_tag : (Instr.nop { who := .fw, tag := 65536, notify := false, src := ⟨0, 0, 0⟩, dst := ⟨0, 0, 0⟩, args := List.replicate 7 0 }).wf = false := by decide
theorem test_wf_args : (Instr.nop { who := .fw, tag := 0, notify := false, src := ⟨0, 0, 0⟩, dst := ⟨0, 0, 0⟩, args := [] }).wf = false := by decide
theorem test_wf_nop : (Instr.nop { who := .fw, tag := 65535, notify := true, src := ⟨0, 0, 0⟩, dst := ⟨0, 0, 0⟩, args := List.replicate 7 0 }).wf = true := by decide
theorem test_wf_also : (Instr.planeFree { tCmd 0 [] with args := List.replicate 7 0 } [⟨.planeFree, tCmd 0 []⟩]).wf = false := by decide
theorem test_wf_slc_also : (Instr.slcFlush { tCmd 0 [] with args := List.replicate 7 0 } [⟨.flush, tCmd 0 []⟩]).wf = false := by decide
theorem test_wf_register_align : (Instr.registerWrite [⟨.fw, 0x102, 0⟩]).wf = false := by decide
theorem test_wf_register_range : (Instr.registerWrite [⟨.fw, 0x1000000, 0⟩]).wf = false := by decide
theorem test_wf_bar0 : (Instr.bar0BadAccess 0 0x1000000).wf = false := by decide
theorem test_wf_bar2_offset : (Instr.bar2WindowAccess 0 0x1000000000 (.read 1)).wf = false := by decide
theorem test_wf_bar2_read : (Instr.bar2WindowAccess 0 0 (.read 4097)).wf = false := by decide
theorem test_wf_bar2_write : (Instr.bar2WindowAccess 0 0 (.write (List.replicate 513 0))).wf = false := by decide +kernel
theorem test_wf_msix_read : (Instr.bar2WindowAccess 0 0 (.msixRead 1025)).wf = false := by decide +kernel
theorem test_wf_msix_write : (Instr.bar2WindowAccess 0 0 (.msixWrite (List.replicate 129 0))).wf = false := by decide +kernel
theorem test_wf_map_loss : (Instr.panelMapLoad [] [⟨1024, .gain⟩]).wf = false := by decide
theorem test_wf_rate : (Instr.lnkRateWrite .fw 0 32).wf = false := by decide
theorem test_wf_loop : (Instr.lnkLoopWrite .fw 0 4).wf = false := by decide
theorem test_wf_group : (Instr.rxCommaDetect 0 1024).wf = false := by decide
theorem test_wf_groups : (Instr.rxIdleReceived 0 [0, 0, 0]).wf = false := by decide
theorem test_wf_status_groups : (Instr.statusPacketRx 0 [0, 0, 0, 0]).wf = false := by decide
theorem test_wf_export_loss : (Instr.counterExport { tCmd 0 [] with args := List.replicate 7 0 } [(0, 16384)]).wf = false := by decide
theorem test_wf_stress_row : (Instr.stressRowUpdate 0 16384 true).wf = false := by decide
theorem test_wf_fec : (Instr.frameReceived 4 [] false 1).wf = false := by decide
theorem test_wf_layer : (Instr.decodeStart 0 { (default : AuInfo) with layers := [{ tLayer with slot := 8 }] }).wf = false := by decide
theorem test_wf_tid : (Instr.decodeStart 0 { (default : AuInfo) with tid := 7 }).wf = false := by decide
theorem test_wf_picture : (Instr.accessUnitComplete 0 ⟨[{ (default : LayerResult) with w := 1, h := 1 }]⟩ []).wf = false := by decide
theorem test_wf_qp : (Instr.encPictureDone 0 { (default : EncodeResult) with qp := 52 }).wf = false := by decide
theorem test_wf_conversion : (Instr.converterConversion ⟨4096, 0, 0, 0⟩).wf = false := by decide
theorem test_wf_csi_line : (Instr.csiLine 0 { (default : CsiLineIn) with vc := 16 }).wf = false := by decide
theorem test_wf_csi_sample : (Instr.csiLine 0 { (default : CsiLineIn) with samples := [4096] }).wf = false := by decide
theorem test_wf_csi_start : (Instr.csiFrameStart 0 0 65536).wf = false := by decide
theorem test_wf_csi_end : (Instr.csiFrameEnd 0 16).wf = false := by decide
theorem test_wf_i3c : (Instr.i3cTransferDone 0 true (List.replicate 257 0)).wf = false := by decide +kernel
theorem test_wf_ibi : (Instr.i3cIbi 0 128 []).wf = false := by decide
theorem test_wf_poll : (Instr.hbmTempPoll 0 128 false).wf = false := by decide
theorem test_wf_ecc : (Instr.hbmEccError 0 0 64 .onDie).wf = false := by decide
theorem test_wf_scrub : (Instr.hbmScrubPass 0 [0x10000000000]).wf = false := by decide
theorem test_wf_readings : (Instr.thermalConversion []).wf = false := by decide
theorem test_wf_trip : (Instr.thermalTrip (.comparator 72 0)).wf = false := by decide
theorem test_wf_jmp : (Instr.jmpCommand { tJmp 1 [] with bytes := 16 }).wf = false := by decide +kernel

/-! ## Values that the specification works out -/

/-- R78: the check value of CRC-32C over the ASCII bytes 123456789. -/
theorem test_crc : crcBytes ((List.range 9).map (fun i => BitVec.ofNat 8 (0x31 + i))) = 0xE3069283 := by decide +kernel

/-- R7: the S1.12 codes of 1.0 and of -0.5. -/
theorem test_fixed_point : toSigned 14 0x1000 = 4096 ∧ toSigned 14 0x3800 = -2048 := by decide

/-- R41: the worked tie of partitions 2 and 5 with the pointer at 3, and the next one with the pointer at 5. -/
theorem test_tie : tieSort 8 3 id [2, 5] = [5, 2] ∧ tieSort 8 5 id [2, 5] = [2, 5] := by decide

/-- R71: the depth of plane 7 at +12.5 and of the plane at -3.25 (S12.12). -/
theorem test_entry_depth :
    (parseEntry [0x0700C800#32, 0x01000000, 0] 0).plane = 7 ∧ (parseEntry [0x0700C800#32, 0x01000000, 0] 0).depth = 51200 ∧
    (parseEntry [0x0700C800#32, 0x01000000, 0] 0).lut = 1 ∧ (parseEntry [0x07FFCC00#32, 0, 0] 0).depth = -13312 := by decide

/-- The worked trace of spec/03: the gain of ray A's red channel, and its three output codes. -/
theorem test_trace : rnd (47172 * 496) 9 = 45698 ∧
    outlut (List.replicate 2149 0 ++ [7424, 7432] ++ List.replicate 9 0 ++ [7552, 7560]) 1023 45698 = 464 ∧
    outlut (List.replicate 2149 0 ++ [7424, 7432] ++ List.replicate 9 0 ++ [7552, 7560]) 1023 47172 = 472 := by decide +kernel

/-- R158: words of the reference tile's line packet with 10-bit and 12-bit codes. -/
theorem test_packet : packetLen 1920 false = 1805 ∧ packetLen 1920 true = 2165 := by decide

/-- R159: the bit string of ray A of the worked row. -/
theorem test_ray_string : rayString false (464, 472, 472) = 0b011101000001110110000111011000 := by decide

/-- R331: the worked conversion of TNS to a PTP timestamp, and back. -/
theorem test_ptp_stamp : ptpStamp 1700000000123456789 = natBe 6 1700000000 ++ natBe 4 123456789 ∧
    ptpTime (ptpStamp 1700000000123456789) 0 = 1700000000123456789 := by decide +kernel

/-- R520, R526: the worked lane 700: LNK_STAT12 of page 0x12B, and the event number of its bit. -/
theorem test_lane_700 : (laneF LNK_STAT_LSTATE 700).addr = 0x12BE04 ∧ lanePage 700 = 0x12B ∧ evNum 0x12B 14 = some 0x63C := by
  decide +kernel

/-- R430: the damaged distance fields of the worked counter row. -/
theorem test_damage :
    sluSeqs 12288 10 [0x1F, 0, 0, 0, 0x28, 0x4F, 1, 2, 3, 4, 0x3F, 0xC0] [] = .error 1 ∧
    sluSeqs 12288 10 [0x1F, 0, 0, 0, 0x28, 0x4F, 1, 2, 3, 4, 0xFF, 0x00] [] = .error 2 ∧
    sluSeqs 12288 10 [0x1F, 0, 0, 0, 0x28, 0x4F, 1, 2, 3, 4, 0x7F, 0x00] [] = .error 2 := by decide +kernel

/-- R150: K28.5 and D21.5 in the 8b/10b code, both running disparities (IEEE 802.3, table 36). -/
theorem test_code_groups : codeK 0xBC false = 0b0011111010 ∧ codeK 0xBC true = 0b1100000101 ∧
    codeD 0xB5 false = 0b1010101010 ∧ codeD 0xB5 true = 0b1010101010 := by decide +kernel

/-- R152: an IDLE set is read back from its code groups, and one with a wrong check byte is ignored. -/
theorem test_idle : setOf [(true, 0xBC), (false, 1), (false, 0xFE), (false, 0xB5)] = .idle 1 ∧
    setOf [(true, 0xBC), (false, 1), (false, 0xFF), (false, 0xB5)] = .ignored := by decide

/-- R332: the nominal increment of the 25 MHz AOCLK, 40 ns. -/
theorem test_increment : State.reset.tim.domA.inc = 0x2800000000 := by decide

/-- R511: SHA3-256 of the empty message (FIPS 202). -/
theorem test_sha3 : beNat (sha3 []) = 0xA7FFC6F8BF1ED76651C14756A061D662F580FF4DE43B49FA82D80A4B80F8434A := by decide +kernel

/-- The table gives no row any bits, so that no word is put into the queue. -/
theorem test_no_words : decodeTableWord 32 0 = none ∧ (State.reset.withFetchWord 32 0).pending = [] := by decide

/-! ## Hypotheses that are met -/

/-- Words of zero bytes are zero. -/
theorem bytesWords_zero : ∀ bs : List Byte, (∀ b ∈ bs, b = 0) → ∀ w ∈ bytesWords bs, w = 0
  | [], _ => by simp [bytesWords]
  | [a], h => by simp_all [bytesWords, Word.ofNat]
  | [a, b], h => by simp_all [bytesWords, Word.ofNat]
  | [a, b, c], h => by simp_all [bytesWords, Word.ofNat]
  | a :: b :: c :: d :: r, h => by
    have := bytesWords_zero r (fun x hx => h x (by simp [hx]))
    simp_all [bytesWords, Word.ofNat]
    exact this

/-- A SRC in HBM that lists nothing, is nowhere poisoned and has no stack in FAULT reads as zeros (log 2). -/
theorem srcWords_zero (n : Nat) (args : List Word) (s : State) (h : s.hbm = []) (hp : s.poison = [])
    (hd : (List.range 4).all (fun i => decide (getF (PG_STAT_STATE (0x170 + i)) s ≠ 7)) = true) :
    ∀ w ∈ srcWords (tCmd n args) s, w = 0 := by
  refine bytesWords_zero _ ?_
  intro b hb
  simp only [srcBytes, memRead, List.mem_map] at hb
  obtain ⟨i, -, rfl⟩ := hb
  have hx : ∀ a, stackDead a s = false := by
    intro a
    have := List.all_eq_true.1 hd (a / 256 % 4) (List.mem_range.2 (Nat.mod_lt _ (by decide)))
    simpa [stackDead] using this
  simp [opSpace, tCmd, memGet, hbmGet, h, hp, hx, FMap.get]

/-- Every field of such a SRC is zero. -/
theorem fieldAt_zero (n : Nat) (args : List Word) (s : State) (h : s.hbm = []) (hp : s.poison = [])
    (hd : (List.range 4).all (fun i => decide (getF (PG_STAT_STATE (0x170 + i)) s ≠ 7)) = true) (i hi lo : Nat) :
    fieldAt (srcWords (tCmd n args) s) i hi lo = 0 := by
  have : (srcWords (tCmd n args) s).getD i 0 = 0 := by
    by_cases hi : i < (srcWords (tCmd n args) s).length
    · rw [List.getD_eq_getElem?_getD, List.getElem?_eq_getElem hi]
      exact srcWords_zero n args s h hp hd _ (List.getElem_mem hi)
    · simp [List.getD_eq_getElem?_getD, List.getElem?_eq_none (Nat.le_of_not_lt hi)]
  rw [fieldAt, wordAt, this]; simp [bitsOf]

/-- One buffer fits an empty pool that is large enough. -/
theorem placeMany_one (pool total need : Nat) (h : need ≤ total) : (placeMany pool total need 1 []).isNone = false := by
  have : (findPlace pool total [] need).isSome = true := by
    simp [findPlace, usedKib, placeOk, Nat.not_lt.mpr h]
    split <;> simp_all
  obtain ⟨x, hx⟩ := Option.isSome_iff_exists.mp this
  simp [placeMany, hx]

/-- A buffer has a place beside at most three of its size in a pool of seven times that size. -/
theorem findPlace_small (pool total need : Nat) (used : List (Nat × Nat)) (hs : ∀ u ∈ used, u.2 = need) (hl : used.length ≤ 3)
    (ht : 7 * need ≤ total) : (findPlace pool total used need).isSome = true := by
  have hu : usedKib used = used.length * need := by
    clear hl ht
    induction used with
    | nil => simp [usedKib]
    | cons u r ih =>
      have := ih (fun x hx => hs x (List.mem_cons_of_mem _ hx))
      simp only [usedKib, List.map_cons, List.sum_cons, List.length_cons] at this ⊢
      rw [this, hs u (List.mem_cons_self ..), Nat.add_mul, Nat.one_mul, Nat.add_comm]
  have hlt : ¬ total < usedKib used + need := by
    rw [hu]; have := Nat.mul_le_mul_right need hl; omega
  unfold findPlace
  rw [if_neg hlt]
  dsimp only
  split
  · rfl
  · rw [List.find?_isSome]
    match used, hl with
    | [], _ => exact ⟨0, by simp, by simp [placeOk]; omega⟩
    | [(a, m)], _ =>
      have h1 := hs (a, m) (by simp)
      dsimp only at h1; subst h1
      simp only [List.map_cons, List.map_nil, List.mem_cons, List.not_mem_nil, or_false, exists_eq_or_imp, exists_eq_left, placeOk, List.all_cons, List.all_nil,
        Bool.and_true, Bool.and_eq_true, Bool.or_eq_true, decide_eq_true_eq]
      omega
    | [(a, m), (b, k)], _ =>
      have h1 := hs (a, m) (by simp)
      have h2 := hs (b, k) (by simp)
      dsimp only at h1 h2; subst h1 h2
      simp only [List.map_cons, List.map_nil, List.mem_cons, List.not_mem_nil, or_false, exists_eq_or_imp, exists_eq_left, placeOk, List.all_cons, List.all_nil,
        Bool.and_true, Bool.and_eq_true, Bool.or_eq_true, decide_eq_true_eq]
      omega
    | [(a, m), (b, k), (c, l)], _ =>
      have h1 := hs (a, m) (by simp)
      have h2 := hs (b, k) (by simp)
      have h3 := hs (c, l) (by simp)
      dsimp only at h1 h2 h3; subst h1 h2 h3
      simp only [List.map_cons, List.map_nil, List.mem_cons, List.not_mem_nil, or_false, exists_eq_or_imp, exists_eq_left, placeOk, List.all_cons, List.all_nil,
        Bool.and_true, Bool.and_eq_true, Bool.or_eq_true, decide_eq_true_eq]
      omega

/-- Four buffers of one size fit an empty pool of seven times that size. -/
theorem placeMany_four (pool total need : Nat) (h : 7 * need ≤ total) : (placeMany pool total need 4 []).isNone = false := by
  have one : ∀ used : List (Nat × Nat), (∀ u ∈ used, u.2 = need) → used.length ≤ 3 →
      ∃ x, findPlace pool total used need = some x := fun used hs hl =>
    Option.isSome_iff_exists.mp (findPlace_small pool total need used hs hl h)
  obtain ⟨x, hx⟩ := one [] (by simp) (by simp)
  obtain ⟨y, hy⟩ := one [(x, need)] (by simp) (by simp)
  obtain ⟨z, hz⟩ := one [(y, need), (x, need)] (by simp) (by simp)
  obtain ⟨w, hw⟩ := one [(z, need), (y, need), (x, need)] (by simp) (by simp)
  simp [placeMany, hx, hy, hz, hw]

/-- The hypotheses of `Obligations.LifecycleWritesComplete` are met. -/
theorem witness_LifecycleWritesComplete :
    (∃ (who : Who) (page : Nat) (s : State), assigned page = true ∧ hasLifecycle page = true ∧ answers page s = true ∧ mayControl who page s = false) ∧
    (∃ (who : Who) (page : Nat) (s : State), assigned page = true ∧ hasLifecycle page = true ∧ answers page s = true ∧ mayControl who page s = true ∧ getF (PG_STAT_STATE page) s = 0) ∧
    (∃ (who : Who) (page : Nat) (s : State), assigned page = true ∧ hasLifecycle page = true ∧ answers page s = true ∧ mayControl who page s = true ∧ getF (PG_STAT_STATE page) s = 3) ∧
    (∃ (who : Who) (page : Nat) (s : State), assigned page = true ∧ hasLifecycle page = true ∧ answers page s = true ∧ mayControl who page s = true ∧ (getF (PG_STAT_STATE page) s = 1 ∨ getF (PG_STAT_STATE page) s = 4)) ∧
    (∃ (who : Who) (page : Nat) (s : State), assigned page = true ∧ hasLifecycle page = true ∧ answers page s = true ∧ mayControl who page s = true ∧ getF (PG_STAT_STATE page) s = 2 ∧ (¬(0x190 ≤ page ∧ page ≤ 0x197))) ∧
    (∃ (who : Who) (page : Nat) (s : State), assigned page = true ∧ hasLifecycle page = true ∧ answers page s = true ∧ mayControl who page s = true ∧ getF (PG_STAT_STATE page) s = 2 ∧ (0x190 ≤ page ∧ page ≤ 0x197)) ∧
    (∃ (who : Who) (page : Nat) (s : State), assigned page = true ∧ hasLifecycle page = true ∧ answers page s = true ∧ mayControl who page s = true ∧ getF (PG_STAT_STATE page) s = 2 ∧ getB (PG_CTRL_ENABLE page) s = true) ∧
    (∃ (who : Who) (page : Nat) (s : State), assigned page = true ∧ hasLifecycle page = true ∧ answers page s = true ∧ mayControl who page s = true ∧ getF (PG_STAT_STATE page) s = 5 ∧ getB (PG_CTRL_ENABLE page) s = true) ∧
    (∃ (who : Who) (page : Nat) (s : State), assigned page = true ∧ hasLifecycle page = true ∧ answers page s = true ∧ mayControl who page s = true ∧ getF (PG_STAT_STATE page) s ∈ [0, 5, 7]) ∧
    (∃ (who : Who) (page : Nat) (s : State), assigned page = true ∧ hasLifecycle page = true ∧ answers page s = true ∧ mayControl who page s = true ∧ getF (PG_STAT_STATE page) s ∉ [0, 5, 7]) :=
  ⟨⟨.part 1, 0x60, tAt [(0x60, 2)] [], by decide +kernel⟩,
    ⟨.fw, 1, tAt [(0x1, 0)] [], by decide +kernel⟩,
    ⟨.fw, 0x60, tAt [(0x60, 3)] [], by decide +kernel⟩,
    ⟨.fw, 0x60, tAt [(0x60, 4)] [], by decide +kernel⟩,
    ⟨.fw, 0x60, tAt [(0x60, 2)] [], by decide +kernel⟩,
    ⟨.fw, 0x197, tAt [(0x197, 2)] [], by decide +kernel⟩,
    ⟨.fw, 0x60, tAt [(0x60, 2)] [(0x60004, 1)], by decide +kernel⟩,
    ⟨.fw, 0x60, tAt [(0x60, 5)] [(0x60004, 3)], by decide +kernel⟩,
    ⟨.fw, 0x1A1, tAt [(0x1A1, 7)] [], by decide +kernel⟩,
    ⟨.fw, 0x60, tAt [(0x60, 4)] [], by decide +kernel⟩⟩

/-- The hypotheses of `Obligations.LifecycleProgressCompletes` are met. -/
theorem witness_LifecycleProgressCompletes :
    (∃ (page : Nat) (s : State) (traffic : State → State), lives page s = true ∧ traffic = ifS (hbmPages.contains page) (advanceTraffic (page - 0x170)) ∧ getF (PG_STAT_STATE page) s = 1 ∧ selfReady page s = true ∧ ((deps page s).all (fun q => isOn q s) = true) ∧ getB (PG_CTRL_PARK page) s = true ∧ page ≠ 0x10 ∧ page ≠ 2) ∧
    (∃ (page : Nat) (s : State) (traffic : State → State), lives page s = true ∧ traffic = ifS (hbmPages.contains page) (advanceTraffic (page - 0x170)) ∧ getF (PG_STAT_STATE page) s = 1 ∧ selfReady page s = true ∧ ((deps page s).all (fun q => isOn q s) = true) ∧ (page = 0x10 ∨ page = 2)) ∧
    (∃ (page : Nat) (s : State) (traffic : State → State), lives page s = true ∧ traffic = ifS (hbmPages.contains page) (advanceTraffic (page - 0x170)) ∧ getF (PG_STAT_STATE page) s = 1 ∧ selfReady page s = true ∧ ((deps page s).all (fun q => isOn q s) = true) ∧ getB (PG_CTRL_PARK page) s = false ∧ (0x90 ≤ page ∧ page ≤ 0x93)) ∧
    (∃ (page : Nat) (s : State) (traffic : State → State), lives page s = true ∧ traffic = ifS (hbmPages.contains page) (advanceTraffic (page - 0x170)) ∧ getF (PG_STAT_STATE page) s = 1 ∧ selfReady page s = true ∧ ((deps page s).all (fun q => isOn q s) = true) ∧ getB (PG_CTRL_PARK page) s = false ∧ (¬(0x90 ≤ page ∧ page ≤ 0x93))) ∧
    (∃ (page : Nat) (s : State) (traffic : State → State), lives page s = true ∧ traffic = ifS (hbmPages.contains page) (advanceTraffic (page - 0x170)) ∧ getF (PG_STAT_STATE page) s = 5 ∧ (0x90 ≤ page ∧ page ≤ 0x93) ∧ (s.grp (page - 0x90)).resuming = true ∧ selfReady page s = true ∧ ((deps page s).all (fun q => isOn q s) = true)) ∧
    (∃ (page : Nat) (s : State) (traffic : State → State), lives page s = true ∧ traffic = ifS (hbmPages.contains page) (advanceTraffic (page - 0x170)) ∧ getF (PG_STAT_STATE page) s = 2 ∧ getB (PG_CTRL_PARK page) s = true ∧ atIdlePoint page s = true) ∧
    (∃ (page : Nat) (s : State) (traffic : State → State), lives page s = true ∧ traffic = ifS (hbmPages.contains page) (advanceTraffic (page - 0x170)) ∧ workDone page s = true ∧ dependentsIn [0, 7] page s = true ∧ (¬(0x190 ≤ page ∧ page ≤ 0x197)) ∧ getF (PG_STAT_STATE page) s = 3) ∧
    (∃ (page : Nat) (s : State) (traffic : State → State), lives page s = true ∧ traffic = ifS (hbmPages.contains page) (advanceTraffic (page - 0x170)) ∧ workDone page s = true ∧ dependentsIn [0, 7] page s = true ∧ (¬(0x190 ≤ page ∧ page ≤ 0x197)) ∧ getF (PG_STAT_STATE page) s = 4) ∧
    (∃ (page : Nat) (s : State) (traffic : State → State) (t : _), lives page s = true ∧ traffic = ifS (hbmPages.contains page) (advanceTraffic (page - 0x170)) ∧ workDone page s = true ∧ dependentsIn [0, 7] page s = true ∧ (0x190 ≤ page ∧ page ≤ 0x197) ∧ t = closeRegions (page - 0x190) (beginTeardown (page - 0x190) s) ∧ tornDown (page - 0x190) t = true ∧ getF (PG_STAT_STATE page) s = 3) ∧
    (∃ (page : Nat) (s : State) (traffic : State → State) (t : _), lives page s = true ∧ traffic = ifS (hbmPages.contains page) (advanceTraffic (page - 0x170)) ∧ workDone page s = true ∧ dependentsIn [0, 7] page s = true ∧ (0x190 ≤ page ∧ page ≤ 0x197) ∧ t = closeRegions (page - 0x190) (beginTeardown (page - 0x190) s) ∧ tornDown (page - 0x190) t = true ∧ getF (PG_STAT_STATE page) s = 4) ∧
    (∃ (page : Nat) (s : State) (traffic : State → State) (code : _), lives page s = true ∧ traffic = ifS (hbmPages.contains page) (advanceTraffic (page - 0x170)) ∧ getF (PG_STAT_STATE page) s ≠ 7 ∧ (¬(page = 0x10 ∧ code % 256 = 1))) ∧
    (∃ (page : Nat) (s : State) (traffic : State → State) (code : _), lives page s = true ∧ traffic = ifS (hbmPages.contains page) (advanceTraffic (page - 0x170)) ∧ getF (PG_STAT_STATE page) s ≠ 7 ∧ (page = 0x10 ∧ code % 256 = 1)) :=
  ⟨⟨0x68, tAt [(0x68, 1), (0x170, 2), (0x171, 2), (0x172, 2), (0x173, 2)] [(0x68004, 3)], _, by decide +kernel, rfl, by decide +kernel⟩,
    ⟨0x10, tAt [(0x10, 1)] [(0x1100, 0xFFFFFFFF#32)], _, by decide +kernel, rfl, by decide +kernel⟩,
    ⟨0x93, tAt [(0x93, 1), (0x10, 2), (0x148, 2), (0x80, 2), (0x81, 2), (0x82, 2), (0x83, 2), (0x84, 2), (0x85, 2), (0x86, 2), (0x87, 2), (0x170, 2), (0x171, 2), (0x172, 2), (0x173, 2)] [], _, by decide +kernel, rfl, by decide +kernel⟩,
    ⟨0x68, tAt [(0x68, 1), (0x170, 2), (0x171, 2), (0x172, 2), (0x173, 2)] [], _, by decide +kernel, rfl, by decide +kernel⟩,
    ⟨0x90, { tAt [(0x90, 5), (0x10, 2), (0x148, 2), (0x80, 2), (0x81, 2), (0x82, 2), (0x83, 2), (0x84, 2), (0x85, 2), (0x86, 2), (0x87, 2), (0x170, 2), (0x171, 2), (0x172, 2), (0x173, 2)] [] with ras := { groups := [(0, { resuming := true })] } }, _, by decide +kernel, rfl, by decide +kernel⟩,
    ⟨0x68, tAt [(0x68, 2)] [(0x68004, 3)], _, by decide +kernel, rfl, by decide +kernel⟩,
    ⟨0x68, tAt [(0x68, 3)] [], _, by decide +kernel, rfl, by decide +kernel⟩,
    ⟨0x68, tAt [(0x68, 4)] [], _, by decide +kernel, rfl, by decide +kernel⟩,
    ⟨0x190, tAt [(0x190, 3)] [], _, _, by decide +kernel, rfl, by decide +kernel, by decide +kernel, by decide +kernel, rfl, by decide +kernel⟩,
    ⟨0x197, tAt [(0x197, 4)] [], _, _, by decide +kernel, rfl, by decide +kernel, by decide +kernel, by decide +kernel, rfl, by decide +kernel⟩,
    ⟨0x60, tAt [(0x60, 2)] [], _, 0, by decide +kernel, rfl, by decide +kernel⟩,
    ⟨0x10, tAt [(0x10, 2)] [], _, 257, by decide +kernel, rfl, by decide +kernel⟩⟩

/-- The hypotheses of `Obligations.RegisterWriteReachesItsRegister` are met. -/
theorem witness_RegisterWriteReachesItsRegister :
    (∃ (addr : Nat), assigned (addr / 0x1000) = false) ∧
    (∃ (addr : Nat) (s : State), assigned (addr / 0x1000) = true ∧ answers (addr / 0x1000) s = false) ∧
    (∃ (who : Who) (addr : Nat) (s : State), assigned (addr / 0x1000) = true ∧ answers (addr / 0x1000) s = true ∧ accepts who (addr / 0x1000) (addr % 0x1000) s = false) ∧
    (∃ (who : Who) (addr : Nat) (s : State), assigned (addr / 0x1000) = true ∧ answers (addr / 0x1000) s = true ∧ accepts who (addr / 0x1000) (addr % 0x1000) s = true) :=
  ⟨⟨0x3000, by decide +kernel⟩,
    ⟨0x60000, State.reset, by decide +kernel⟩,
    ⟨.part 7, 0x60104, tAt [(0x60, 2)] [], by decide +kernel⟩,
    ⟨.fw, 0x60104, tAt [(0x60, 2)] [], by decide +kernel⟩⟩

/-- The hypotheses of `Obligations.EventRegistersAndWindowComplete` are met. -/
theorem witness_EventRegistersAndWindowComplete :
    (∃ (who : Who) (page : Nat) (s : State), Accepted who page s) ∧
    (∃ (who : Who) (p : Fin 8) (s : State), answers (0x190 + p.val) s = true ∧ mayRing who p.val s = true) ∧
    (∃ (p : Fin 8) (s : State), (functionUp p.val s = true)) ∧
    (∃ (p : Fin 8) (off : Nat) (acc : WindowAccess) (s : State), inRecovery s = false ∧ (functionUp p.val s = true) ∧ inBar p.val off acc s = true ∧ hbmAccess acc = true ∧ hbmAsleep s = true) ∧
    (∃ (p : Fin 8) (off : Nat) (acc : WindowAccess) (s : State) (n : _), inRecovery s = false ∧ (functionUp p.val s = true) ∧ inBar p.val off acc s = true ∧ hbmAccess acc = true ∧ hbmAsleep s = false ∧ acc = .read n) ∧
    (∃ (p : Fin 8) (off : Nat) (acc : WindowAccess) (s : State) (bs : _), inRecovery s = false ∧ (functionUp p.val s = true) ∧ inBar p.val off acc s = true ∧ hbmAccess acc = true ∧ hbmAsleep s = false ∧ acc = .write bs) ∧
    (∃ (p : Fin 8) (off : Nat) (acc : WindowAccess) (s : State) (n : _), inRecovery s = false ∧ (functionUp p.val s = true) ∧ inBar p.val off acc s = true ∧ acc = .msixRead n) ∧
    (∃ (p : Fin 8) (off : Nat) (acc : WindowAccess) (s : State) (ws : _), inRecovery s = false ∧ (functionUp p.val s = true) ∧ inBar p.val off acc s = true ∧ acc = .msixWrite ws) ∧
    (∃ (p : Fin 8) (off : Nat) (acc : WindowAccess) (s : State) (m : _), inRecovery s = false ∧ (functionUp p.val s = true) ∧ inBar p.val off acc s = true ∧ acc = .msixMask m) :=
  ⟨⟨.fw, 0x60, tAt [(0x60, 2)] [], by decide +kernel⟩,
    ⟨.fw, 0, tAt [(0x190, 2)] [], by decide +kernel⟩,
    ⟨0, { tAt [] [(0x190100, 0x40000000#32), (0x1901C4, 2#32)] with hst := { links := [(0, true)] } }, by decide +kernel⟩,
    ⟨0, 0x200000, .read 2, { tAt [] [(0x190100, 0x40000000#32), (0x1901C4, 2#32), (0x173108, 0x20000000#32)] with hst := { links := [(0, true)] } }, by decide +kernel⟩,
    ⟨0, 0x200000, .read 2, { tAt [] [(0x190100, 0x40000000#32), (0x1901C4, 2#32)] with hst := { links := [(0, true)] } }, 2, by decide +kernel⟩,
    ⟨0, 0x1FFFFE, .write [1, 2], { tAt [] [(0x190100, 0x40000000#32), (0x1901C4, 2#32)] with hst := { links := [(0, true)] } }, [1, 2], by decide +kernel⟩,
    ⟨0, 0xFFFC, .msixRead 1, { tAt [] [(0x190100, 0x40000000#32), (0x1901C4, 2#32)] with hst := { links := [(0, true)] } }, 1, by decide +kernel⟩,
    ⟨0, 0x8000, .msixWrite [1, 2], { tAt [] [(0x190100, 0x40000000#32), (0x1901C4, 2#32)] with hst := { links := [(0, true)] } }, [1, 2], by decide +kernel⟩,
    ⟨0, 0, .msixMask false, { tAt [] [(0x190100, 0x40000000#32), (0x1901C4, 2#32)] with hst := { links := [(0, true)] } }, false, by decide +kernel⟩⟩

/-- The hypotheses of `Obligations.PanelAndTableLoadsComplete` are met. -/
theorem witness_PanelAndTableLoadsComplete :
    (∃ (c : Cmd) (s : State), Served 0x02 c s ∧ srcBad c s = false ∧ fieldAt (srcWords c s) 0 18 16 < 8 ∧ psdReason (.cmd c.who) (decide (c.src.len % 4 = 0)) (srcWords c s) (markStarted 0x02 c s) = 0) ∧
    (∃ (c : Cmd) (s : State), Served 0x03 c s ∧ SrcReads c 4096 s ∧ 4 ≤ c.argF 0 5 0 ∧ (∀ w ∈ srcWords c s, w.toNat / 2 ^ 20 = 0)) ∧
    (∃ (c : Cmd) (s : State) (l : _), Served 0x04 c s ∧ SrcReads c (8 * (dirA s * dirB s)) s ∧ parseBlends (srcWords c s) = some l ∧ (∀ b ∈ l, b.w0 + b.w1 + b.w2 + b.w3 = 0x800)) ∧
    (∃ (c : Cmd) (s : State), Served 0x05 c s ∧ SrcReads c 6660 s ∧ c.argF 0 17 16 ≠ 3 ∧ fieldAt (srcWords c s) 1664 31 16 = 0) :=
  ⟨⟨tCmd 52 [], { tMem 0 (tCrc [0x0100000D#32, 1, 0, 0, 0, 0, 0, 0, 0, 0, 0x10001000, 0x100000]) (tOn [] []) with asm := { planes := [(0, { state := 1 })] } }, by decide +kernel⟩,
    ⟨tCmd 4096 [4], tOn [] [], by decide +kernel, by decide +kernel, by decide +kernel, fun w hw => by rw [srcWords_zero _ _ _ rfl rfl (by decide +kernel) w hw]; rfl⟩,
    ⟨tCmd 8 [], tMem 0 [0x800#32, 0] (tOn [] []), [⟨0x800, 0, 0, 0⟩], by decide +kernel⟩,
    ⟨tCmd 6660 [], tOn [] [], by decide +kernel, by decide +kernel, by decide +kernel, fieldAt_zero _ _ _ rfl rfl (by decide +kernel) _ _ _⟩⟩

/-- The hypotheses of `Obligations.FrameTimingCompletes` are met. -/
theorem witness_FrameTimingCompletes :
    (∃ (g : Fin 4) (s : State), latchDue g.val s = true) ∧
    (∃ (g : Fin 4) (s : State) (x : _), x = s.grp g.val ∧ x.phase = .latched ∧ reached x.fs s = true) ∧
    (∃ (who : Who) (g : Fin 4) (s : State), Accepted who (0x90 + g.val) s ∧ groupState g.val s = 2 ∧ timingReason g.val (writtenTiming g.val s) s = 0) ∧
    (∃ (who : Who) (g : Fin 4) (s : State), Accepted who (0x90 + g.val) s ∧ groupState g.val s = 2 ∧ timingReason g.val (writtenTiming g.val s) s ≠ 0) ∧
    (∃ (lane : Fin 1024) (s : State) (b : _) (g : _), b = tileLane lane.val s ∧ g = (tileRec b s).group ∧ tileValid b s = true ∧ (s.grp g).phase = .active ∧ (s.grp g).aborted = false ∧ (s.pool b).sent < tileRH b s ∧ rowLane b (s.pool b).sent s = lane.val ∧ reached (departTime b (s.pool b).sent s) s = true ∧ takesPart b s = false) ∧
    (∃ (lane : Fin 1024) (s : State) (b : _) (g : _), b = tileLane lane.val s ∧ g = (tileRec b s).group ∧ tileValid b s = true ∧ (s.grp g).phase = .active ∧ (s.grp g).aborted = false ∧ (s.pool b).sent < tileRH b s ∧ rowLane b (s.pool b).sent s = lane.val ∧ reached (departTime b (s.pool b).sent s) s = true ∧ takesPart b s = true ∧ patterned b s = true) ∧
    (∃ (lane : Fin 1024) (s : State) (b : _) (g : _) (rays : _), b = tileLane lane.val s ∧ g = (tileRec b s).group ∧ tileValid b s = true ∧ (s.grp g).phase = .active ∧ (s.grp g).aborted = false ∧ (s.pool b).sent < tileRH b s ∧ rowLane b (s.pool b).sent s = lane.val ∧ reached (departTime b (s.pool b).sent s) s = true ∧ takesPart b s = true ∧ patterned b s = false ∧ rowRays b (s.pool b).sent s = some rays) ∧
    (∃ (lane : Fin 1024) (s : State) (b : _) (g : _) (k : _), b = tileLane lane.val s ∧ g = (tileRec b s).group ∧ tileValid b s = true ∧ (s.grp g).phase = .active ∧ (s.grp g).aborted = false ∧ (s.pool b).sent < tileRH b s ∧ rowLane b (s.pool b).sent s = lane.val ∧ reached (departTime b (s.pool b).sent s) s = true ∧ k = lowestUnderrun b s ∧ takesPart b s = true ∧ patterned b s = false ∧ rowRays b (s.pool b).sent s = none) ∧
    (∃ (who : Who) (lane : Fin 1024) (s : State), Accepted who (0x80 + lane.val / 128) s) :=
  ⟨⟨1, { tAt [(0x91, 2)] [] with ras := { groups := [(1, { hasNext := true })] } }, by decide +kernel⟩,
    ⟨3, { tAt [(0x93, 2)] [] with ras := { groups := [(3, { phase := .latched })] } }, _, rfl, by decide +kernel⟩,
    ⟨.fw, 0, tAt [(0x90, 2)] [], by decide +kernel⟩,
    ⟨.fw, 0, tAt [(0x90, 2)] [(0x90100, 0#32)], by decide +kernel⟩,
    ⟨0, tTile .active [] [] (tAt [(0x90, 2)] []), _, _, rfl, rfl, by decide +kernel⟩,
    ⟨0, { tTile .active [0] [] (tAt [(0x90, 2)] []) with ras := { groups := [(0, { phase := .active, parts := [0], latch := { regs := [(0x148280, 1#32)] } })] } }, _, _, rfl, rfl, by decide +kernel⟩,
    ⟨0, tTile .active [0] [(0, 0, 0)] (tAt [(0x90, 2)] []), _, _, [(0, 0, 0)], rfl, rfl, by decide +kernel⟩,
    by refine ⟨0, tTile .active [0] [] (tAt [(0x90, 2)] []), _, _, _, rfl, rfl, ?_, ?_, ?_, ?_, ?_, ?_, rfl, by decide +kernel⟩ <;> decide +kernel,
    ⟨.fw, 0, tAt [(0x80, 2)] [], by decide +kernel⟩⟩

/-- The hypotheses of `Obligations.RaySynthesisCompletes` are met. -/
theorem witness_RaySynthesisCompletes :
    (∃ (fan : Fin 16) (s : State) (lane : _), (s.fan fan.val).row = none ∧ synRuns fan.val s = true ∧ pickLane fan.val s = some lane) ∧
    (∃ (jet : Fin 128) (idle : _) (u : State) (fan : _), fan = jet.val / 8 ∧ synRuns fan u = true ∧ ((u.fan fan).row = none ∨ (jetCycle idle (getF THM_STAT_D u) (u.jet jet.val)).1 = false)) ∧
    (∃ (jet : Fin 128) (idle : _) (u : State) (s : State) (fan : _) (lane : _) (row : _) (col : _) (t : _) (l : _) (gain : _) (o : _), fan = jet.val / 8 ∧ synRuns fan u = true ∧ (u.fan fan).row = some (lane, row, col) ∧ (jetCycle idle (getF THM_STAT_D u) (u.jet jet.val)).1 = true ∧ s = u.setJet jet.val (jetCycle idle (getF THM_STAT_D u) (u.jet jet.val)).2 ∧ t = tileRec lane s ∧ l = (s.grp t.group).latch ∧ gain = (if l.early then (0x200, 0x200, 0x200) else tileGain (latched l COR_CFG_GAIN_EN ≠ 0) lane col row s) ∧ o = castRay l t.group (basinOf fan) lane (tileRayIn lane col row s) (row % dirB s * dirA s + col % dirA s) gain (budgetOf l fan s) s) ∧
    (∃ (probe : Fin 4) (jet : Fin 128) (idle : _) (u : State) (s : State) (fan : _) (r : _) (h : _) (lane : _) (i : _) (o : _), fan = jet.val / 8 ∧ synRuns fan u = true ∧ (jetCycle idle (getF THM_STAT_D u) (u.jet jet.val)).1 = true ∧ s = u.setJet jet.val (jetCycle idle (getF THM_STAT_D u) (u.jet jet.val)).2 ∧ (s.probe probe.val).cur = some r ∧ r.virtual = true ∧ spare fan s = true ∧ (r.todo.find? (fun h => fanServes fan r.group h s) = some h) ∧ lane = (laneOfHogel r.group h s).getD 0 ∧ i = mapRayIn (r.rayMap lane s) lane ((h.1 - (tileRec lane s).hx0) * dirA s) ((h.2 - (tileRec lane s).hy0) * dirB s) s ∧ o = castRay r.latch r.group (basinOf fan) lane { i with sx := r.sx, sy := r.sy } 0 (0x200, 0x200, 0x200) (budgetOf r.latch fan s) s) ∧
    (∃ (probe : Fin 4) (s : State) (r : _), (s.probe probe.val).cur = some r ∧ r.todo = []) ∧
    (∃ (who : Who) (b : Fin 8) (s : State), Accepted who (0x80 + b.val) s) :=
  ⟨⟨0, tTile .active [0] [] (tAt [(0x80, 2)] []), 0, by decide +kernel⟩,
    ⟨0, [], tTile .active [0] [] (tAt [(0x80, 2)] []), _, rfl, by decide +kernel⟩,
    ⟨0, [], tRow (tTile .active [0] [] (tAt [(0x80, 2)] [])), _, _, 0, 0, 0, _, _, _, _, rfl, by decide +kernel, by decide +kernel, by decide +kernel, rfl, rfl, rfl, rfl, rfl⟩,
    ⟨0, 0, [], State.setPool 0 { rows := [⟨0, List.replicate 5 (0, 0, 0), false⟩], next := 1 } (tProbe [(0, 0)] (tTile .active [0] [] (tAt [(0x80, 2)] []))), _, _, tPicture [(0, 0)], (0, 0), _, _, _, rfl, by decide +kernel, by decide +kernel, rfl, by decide +kernel, by decide +kernel, by decide +kernel, by decide +kernel, rfl, rfl, rfl⟩,
    ⟨0, tProbe [] (tAt [(0x80, 2)] []), tPicture [], by decide +kernel⟩,
    ⟨.fw, 7, tAt [(0x87, 2)] [], by decide +kernel⟩⟩

/-- The hypotheses of `Obligations.IdleCyclesOfAJetAddUp` are met. -/
theorem witness_IdleCyclesOfAJetAddUp :
    (∃ (x : Jet) (d : Nat), x.acc < 256 ∧ d ≤ 255 ∧ 256 ≤ x.acc + d) ∧
    (∃ (x : Jet) (d : Nat), x.acc < 256 ∧ d ≤ 255 ∧ x.acc + d < 256) :=
  ⟨⟨⟨255, 1, []⟩, 1, by decide +kernel⟩,
    ⟨⟨255, 1, []⟩, 0, by decide +kernel⟩⟩

/-- The hypotheses of `Obligations.LinkWritesComplete` are met. -/
theorem witness_LinkWritesComplete :
    (∃ (who : Who) (lane : Fin 1024) (s : State), Accepted who (lanePage lane.val) s ∧ getB (laneF LNK_CTRL_EN lane.val) s = false ∧ isOn (lanePage lane.val) s = true) ∧
    (∃ (who : Who) (lane : Fin 1024) (s : State), Accepted who (lanePage lane.val) s ∧ getB (laneF LNK_CTRL_EN lane.val) s = true) ∧
    (∃ (who : Who) (lane : Fin 1024) (s : State) (r : _) (t : _), Accepted who (lanePage lane.val) s ∧ 2 ≤ r ∧ r ≤ 16 ∧ getF (laneF LNK_CTRL_RATE lane.val) s ≠ r ∧ laneIdle lane.val s = true ∧ t = setF (laneF LNK_CTRL_RATE lane.val) r s) ∧
    (∃ (who : Who) (lane : Fin 1024) (s : State) (r : _), Accepted who (lanePage lane.val) s ∧ getF (laneF LNK_CTRL_RATE lane.val) s ≠ r % 32 ∧ (r % 32 < 2 ∨ 16 < r % 32 ∨ laneIdle lane.val s = false)) ∧
    (∃ (who : Who) (lane : Fin 1024) (s : State) (n : _), Accepted who (lanePage lane.val) s ∧ 0 < n ∧ n < 4 ∧ getF (laneF LNK_CTRL_LOOP lane.val) s ≠ n ∧ laneIdle lane.val s = false) ∧
    (∃ (who : Who) (lane : Fin 1024) (s : State) (n : _), Accepted who (lanePage lane.val) s ∧ n < 4 ∧ laneIdle lane.val s = true) ∧
    (∃ (who : Who) (lane : Fin 1024) (s : State), Accepted who (lanePage lane.val) s ∧ getB (laneF LNK_CTRL_BLANK lane.val) s = false) ∧
    (∃ (who : Who) (lane : Fin 1024) (s : State), Accepted who (lanePage lane.val) s ∧ getB (laneF LNK_CTRL_BLANK lane.val) s = true) ∧
    (∃ (who : Who) (lane : Fin 1024) (s : State), Accepted who (lanePage lane.val) s ∧ (∀ k ∈ tileLanes (tileLane lane.val s) s, (s.lane k).sinceFault = some 0)) ∧
    (∃ (who : Who) (lane : Fin 1024) (s : State) (page : Fin 64) (v : Word) (t : _), Accepted who (lanePage lane.val) s ∧ Accepted who (0x100 + page.val) s ∧ getB (LNK_INJ_ARM page.val) s = false ∧ bitOf v.toNat 31 = true ∧ bitsOf v.toNat 29 28 ≠ 0 ∧ t = (s |> setF (LNK_INJ_COMMIT page.val) (bitsOf v.toNat 30 30) |> setF (LNK_INJ_KIND page.val) (bitsOf v.toNat 29 28) |> setF (LNK_INJ_LANE page.val) (bitsOf v.toNat 27 24) |> setF (LNK_INJ_ROW page.val) (bitsOf v.toNat 15 0)) ∧ injOk page.val (bitsOf v.toNat 29 28) (bitsOf v.toNat 27 24) (bitsOf v.toNat 15 0) (getF (LNK_INJ_POS_WORD page.val) t) t = true) ∧
    (∃ (who : Who) (lane : Fin 1024) (s : State) (page : Fin 64) (v : Word) (t : _), Accepted who (lanePage lane.val) s ∧ Accepted who (0x100 + page.val) s ∧ getB (LNK_INJ_ARM page.val) s = false ∧ bitOf v.toNat 31 = true ∧ bitsOf v.toNat 29 28 ≠ 0 ∧ t = (s |> setF (LNK_INJ_COMMIT page.val) (bitsOf v.toNat 30 30) |> setF (LNK_INJ_KIND page.val) (bitsOf v.toNat 29 28) |> setF (LNK_INJ_LANE page.val) (bitsOf v.toNat 27 24) |> setF (LNK_INJ_ROW page.val) (bitsOf v.toNat 15 0)) ∧ injOk page.val (bitsOf v.toNat 29 28) (bitsOf v.toNat 27 24) (bitsOf v.toNat 15 0) (getF (LNK_INJ_POS_WORD page.val) t) t = false) :=
  ⟨⟨.fw, 0, tAt [(0x100, 2)] [], by decide +kernel⟩,
    ⟨.fw, 0, tAt [(0x100, 2)] [(0x100800, 1#32)], by decide +kernel⟩,
    by refine ⟨.fw, 0, tAt [(0x100, 2)] [], 16, _, ?_, ?_, ?_, ?_, ?_, rfl⟩ <;> decide +kernel,
    ⟨.fw, 0, tAt [(0x100, 2)] [], 17, by decide +kernel⟩,
    ⟨.fw, 0, tTile .active [0] [] (tAt [(0x90, 2), (0x100, 2)] []), 3, by decide +kernel⟩,
    ⟨.fw, 0, tAt [(0x100, 2)] [], 3, by decide +kernel⟩,
    ⟨.fw, 0, tAt [(0x100, 2)] [], by decide +kernel⟩,
    ⟨.fw, 0, tAt [(0x100, 2)] [(0x100800, 2#32)], by decide +kernel⟩,
    ⟨.fw, 0, { tAt [(0x100, 2)] [] with lnk := { lanes := [(0, { sinceFault := some 0 })] } }, by decide +kernel⟩,
    by refine ⟨.fw, 0, tTile .active [0] [] (tAt [(0x100, 2)] []), 0, 0x90000000, _, ?_, ?_, ?_, ?_, ?_, rfl, by decide +kernel⟩ <;> decide +kernel,
    by refine ⟨.fw, 0, tTile .active [0] [] (tAt [(0x100, 2)] []), 0, 0x90000001, _, ?_, ?_, ?_, ?_, ?_, rfl, by decide +kernel⟩ <;> decide +kernel⟩

/-- The hypotheses of `Obligations.BackChannelCompletes` are met. -/
theorem witness_BackChannelCompletes :
    (∃ (lane : Fin 1024) (s : State) (g : _), listens lane.val s = true ∧ (s.lane lane.val).sync = 0 ∧ (g = codeK 0xBC false ∨ g = codeK 0xBC true)) ∧
    (∃ (lane : Fin 1024) (s : State) (gs : _) (u : State) (cs : _) (f : _), listens lane.val s = true ∧ rxWord lane.val gs s = (u, cs, .idle f) ∧ (u.lane lane.val).sync = 1 ∧ (u.lane lane.val).idles < 7) ∧
    (∃ (lane : Fin 1024) (s : State) (gs : _) (u : State) (cs : _) (f : _), listens lane.val s = true ∧ rxWord lane.val gs s = (u, cs, .idle f) ∧ (u.lane lane.val).sync = 1 ∧ 7 ≤ (u.lane lane.val).idles) ∧
    (∃ (lane : Fin 1024) (s : State) (gs : _) (u : State) (cs : _) (f : _), listens lane.val s = true ∧ rxWord lane.val gs s = (u, cs, .idle f) ∧ (u.lane lane.val).sync = 2) ∧
    (∃ (lane : Fin 1024) (s : State) (g : _) (u : State), listens lane.val s = true ∧ (s.lane lane.val).sync ≠ 0 ∧ charOf g (s.lane lane.val).rdPlus = none ∧ (u = modLane lane.val (fun x => { x with groups := x.groups + 1, rdPlus := rdNext g x.rdPlus }) s) ∧ (u.lane lane.val).sync = 1) ∧
    (∃ (lane : Fin 1024) (s : State) (gs : _) (u : State) (l : _) (ws : _), listens lane.val s = true ∧ rxWords lane.val gs 8 s = (u, l) ∧ 3 ≤ lstate lane.val s ∧ (s.lane lane.val).sync = 2 ∧ (u.lane lane.val).sync = 2 ∧ (s.lane lane.val).farEnd = false ∧ l.head? = some (.sof 0x81) ∧ statusData l = some ws ∧ crcWords (ws.take 5) = ws.getD 5 0 ∧ l.getLast? = some .eop) ∧
    (∃ (lane : Fin 1024) (s : State) (gs : _) (u : State) (l : _) (ws : _), listens lane.val s = true ∧ rxWords lane.val gs 8 s = (u, l) ∧ 3 ≤ lstate lane.val s ∧ (s.lane lane.val).sync = 2 ∧ (u.lane lane.val).sync = 2 ∧ (s.lane lane.val).farEnd = false ∧ l.head? = some (.sof 0x81) ∧ statusData l = some ws ∧ crcWords (ws.take 5) ≠ ws.getD 5 0) ∧
    (∃ (lane : Fin 1024) (s : State) (gs : _) (u : State) (l : _), listens lane.val s = true ∧ rxWords lane.val gs 8 s = (u, l) ∧ 3 ≤ lstate lane.val s ∧ (s.lane lane.val).sync = 2 ∧ (u.lane lane.val).sync = 2 ∧ (s.lane lane.val).farEnd = false ∧ l.head? = some (.sof 0x81) ∧ statusData l = none) ∧
    (∃ (lane : Fin 1024) (s : State) (gs : _) (u : State) (cs : _) (code : _), listens lane.val s = true ∧ rxWord lane.val gs s = (u, cs, .fault code) ∧ 3 ≤ lstate lane.val u) ∧
    (∃ (lane : Fin 1024) (s : State) (gs : _) (u : State) (cs : _) (x : _) (e : _), listens lane.val s = true ∧ sendsPattern lane.val s = true ∧ rxWord lane.val gs s = (u, cs, x) ∧ getB (laneF LNK_STAT_PSYNC lane.val) u = true ∧ e = prbsNext 32 (u.lane lane.val).prbs % 2 ^ 32) :=
  ⟨⟨0, { tAt [(0x100, 2)] [(0x100804, 0x20000000#32)] with lnk := { lanes := [(0, {  })] } }, codeK 0xBC false, by decide +kernel, by decide +kernel, Or.inl rfl⟩,
    ⟨0, { tAt [(0x100, 2)] [(0x100804, 0x40000000#32)] with lnk := { lanes := [(0, { sync := 1, idles := 6 })] } }, codeWords false [idleSet 1], (rxWord 0 (codeWords false [idleSet 1]) ({ tAt [(0x100, 2)] [(0x100804, 0x40000000#32)] with lnk := { lanes := [(0, { sync := 1, idles := 6 })] } })).1, (rxWord 0 (codeWords false [idleSet 1]) ({ tAt [(0x100, 2)] [(0x100804, 0x40000000#32)] with lnk := { lanes := [(0, { sync := 1, idles := 6 })] } })).2.1, 1, by decide +kernel⟩,
    ⟨0, { tAt [(0x100, 2)] [(0x100804, 0x40000000#32)] with lnk := { lanes := [(0, { sync := 1, idles := 7 })] } }, codeWords false [idleSet 1], (rxWord 0 (codeWords false [idleSet 1]) ({ tAt [(0x100, 2)] [(0x100804, 0x40000000#32)] with lnk := { lanes := [(0, { sync := 1, idles := 7 })] } })).1, (rxWord 0 (codeWords false [idleSet 1]) ({ tAt [(0x100, 2)] [(0x100804, 0x40000000#32)] with lnk := { lanes := [(0, { sync := 1, idles := 7 })] } })).2.1, 1, by decide +kernel⟩,
    ⟨0, { tAt [(0x100, 2)] [(0x100804, 0x60000000#32)] with lnk := { lanes := [(0, { sync := 2 })] } }, codeWords false [idleSet 1], (rxWord 0 (codeWords false [idleSet 1]) ({ tAt [(0x100, 2)] [(0x100804, 0x60000000#32)] with lnk := { lanes := [(0, { sync := 2 })] } })).1, (rxWord 0 (codeWords false [idleSet 1]) ({ tAt [(0x100, 2)] [(0x100804, 0x60000000#32)] with lnk := { lanes := [(0, { sync := 2 })] } })).2.1, 1, by decide +kernel⟩,
    ⟨0, { tAt [(0x100, 2)] [(0x100804, 0x40000000#32)] with lnk := { lanes := [(0, { sync := 1 })] } }, 1023, _, by decide +kernel, by decide +kernel, by decide +kernel, rfl, by decide +kernel⟩,
    ⟨0, { tAt [(0x100, 2)] [(0x100804, 0x60000000#32)] with lnk := { lanes := [(0, { sync := 2 })] } }, codeWords false [sofSet 0x81, (false, 1), (false, 2), (false, 3), (false, 4), (false, 5), (false, crcWords [1, 2, 3, 4, 5]), eopSet], (rxWords 0 (codeWords false [sofSet 0x81, (false, 1), (false, 2), (false, 3), (false, 4), (false, 5), (false, crcWords [1, 2, 3, 4, 5]), eopSet]) 8 ({ tAt [(0x100, 2)] [(0x100804, 0x60000000#32)] with lnk := { lanes := [(0, { sync := 2 })] } })).1, (rxWords 0 (codeWords false [sofSet 0x81, (false, 1), (false, 2), (false, 3), (false, 4), (false, 5), (false, crcWords [1, 2, 3, 4, 5]), eopSet]) 8 ({ tAt [(0x100, 2)] [(0x100804, 0x60000000#32)] with lnk := { lanes := [(0, { sync := 2 })] } })).2, [1, 2, 3, 4, 5, crcWords [1, 2, 3, 4, 5]], by decide +kernel⟩,
    ⟨0, { tAt [(0x100, 2)] [(0x100804, 0x60000000#32)] with lnk := { lanes := [(0, { sync := 2 })] } }, codeWords false [sofSet 0x81, (false, 1), (false, 2), (false, 3), (false, 4), (false, 5), (false, crcWords [1, 2, 3, 4, 5] + 1), eopSet], (rxWords 0 (codeWords false [sofSet 0x81, (false, 1), (false, 2), (false, 3), (false, 4), (false, 5), (false, crcWords [1, 2, 3, 4, 5] + 1), eopSet]) 8 ({ tAt [(0x100, 2)] [(0x100804, 0x60000000#32)] with lnk := { lanes := [(0, { sync := 2 })] } })).1, (rxWords 0 (codeWords false [sofSet 0x81, (false, 1), (false, 2), (false, 3), (false, 4), (false, 5), (false, crcWords [1, 2, 3, 4, 5] + 1), eopSet]) 8 ({ tAt [(0x100, 2)] [(0x100804, 0x60000000#32)] with lnk := { lanes := [(0, { sync := 2 })] } })).2, [1, 2, 3, 4, 5, crcWords [1, 2, 3, 4, 5] + 1], by decide +kernel⟩,
    ⟨0, { tAt [(0x100, 2)] [(0x100804, 0x60000000#32)] with lnk := { lanes := [(0, { sync := 2 })] } }, codeWords false [sofSet 0x81, (false, 1), (false, 2), (false, 3), (false, 4), (false, 5), eopSet, eopSet], (rxWords 0 (codeWords false [sofSet 0x81, (false, 1), (false, 2), (false, 3), (false, 4), (false, 5), eopSet, eopSet]) 8 ({ tAt [(0x100, 2)] [(0x100804, 0x60000000#32)] with lnk := { lanes := [(0, { sync := 2 })] } })).1, (rxWords 0 (codeWords false [sofSet 0x81, (false, 1), (false, 2), (false, 3), (false, 4), (false, 5), eopSet, eopSet]) 8 ({ tAt [(0x100, 2)] [(0x100804, 0x60000000#32)] with lnk := { lanes := [(0, { sync := 2 })] } })).2, by decide +kernel⟩,
    ⟨0, { tAt [(0x100, 2)] [(0x100804, 0x60000000#32)] with lnk := { lanes := [(0, { sync := 2 })] } }, codeWords false [(true, wordOf4 0xDC 3 252 0)], (rxWord 0 (codeWords false [(true, wordOf4 0xDC 3 252 0)]) ({ tAt [(0x100, 2)] [(0x100804, 0x60000000#32)] with lnk := { lanes := [(0, { sync := 2 })] } })).1, (rxWord 0 (codeWords false [(true, wordOf4 0xDC 3 252 0)]) ({ tAt [(0x100, 2)] [(0x100804, 0x60000000#32)] with lnk := { lanes := [(0, { sync := 2 })] } })).2.1, 3, by decide +kernel⟩,
    ⟨0, { tAt [(0x100, 2)] [(0x100804, 0xC0010000#32), (0x100800, 0x800#32)] with lnk := { lanes := [(0, { sync := 2 })] } }, codeWords false [(false, 5)], (rxWord 0 (codeWords false [(false, 5)]) ({ tAt [(0x100, 2)] [(0x100804, 0xC0010000#32), (0x100800, 0x800#32)] with lnk := { lanes := [(0, { sync := 2 })] } })).1, (rxWord 0 (codeWords false [(false, 5)]) ({ tAt [(0x100, 2)] [(0x100804, 0xC0010000#32), (0x100800, 0x800#32)] with lnk := { lanes := [(0, { sync := 2 })] } })).2.1, .data 5, _, by decide +kernel, by decide +kernel, by decide +kernel, by decide +kernel, rfl⟩⟩

/-- The hypotheses of `Obligations.LinkTimersAndEchoComplete` are met. -/
theorem witness_LinkTimersAndEchoComplete :
    (∃ (lane : Fin 1024) (s : State), lnkRuns lane.val s = true ∧ lstate lane.val s = 4) ∧
    (∃ (lane : Fin 1024) (s : State) (t : _) (n : _), lnkRuns lane.val s = true ∧ lstate lane.val s = 5 ∧ (s.lane lane.val).rateAcked = false ∧ (s.lane lane.val).ratePending = some (t, n) ∧ n < 3) ∧
    (∃ (lane : Fin 1024) (s : State) (t : _) (n : _), lnkRuns lane.val s = true ∧ lstate lane.val s = 5 ∧ (s.lane lane.val).rateAcked = false ∧ (s.lane lane.val).ratePending = some (t, n) ∧ 3 ≤ n) ∧
    (∃ (lane : Fin 1024) (s : State) (t : _) (n : _), lnkRuns lane.val s = true ∧ lstate lane.val s = 5 ∧ (s.lane lane.val).rateAcked = true ∧ (s.lane lane.val).ratePending = some (t, n)) ∧
    (∃ (lane : Fin 1024) (s : State), lnkRuns lane.val s = true ∧ (s.lane lane.val).switching = true) ∧
    (∃ (lane : Fin 1024) (s : State), lnkRuns lane.val s = true ∧ getB (laneF LNK_STAT_BLANKED lane.val) s = true) ∧
    (∃ (lane : Fin 1024) (s : State), blockState (lanePage lane.val) s ∈ [1, 2, 3, 4]) ∧
    (∃ (lane : Fin 1024) (s : State) (b : _) (g : _) (x : _) (u : State), b = tileLane lane.val s ∧ g = s.grp (tileRec b s).group ∧ x = s.lane lane.val ∧ echoOpen b s = true ∧ x.echoDone = none ∧ (s.lane b).echoCut = false ∧ x.echoBad = false ∧ (u = modLane lane.val (fun x => { x with echoDone := some true }) s) ∧ (u.lane b).echoCut = false ∧ ((tileLanes b s).all (fun j => decide ((u.lane j).echoDone = some true)) = true) ∧ sigValue x.echoSig = sigValue x.laneSig) ∧
    (∃ (lane : Fin 1024) (s : State) (b : _) (g : _) (x : _) (u : State), b = tileLane lane.val s ∧ g = s.grp (tileRec b s).group ∧ x = s.lane lane.val ∧ echoOpen b s = true ∧ x.echoDone = none ∧ (s.lane b).echoCut = false ∧ x.echoBad = false ∧ (u = modLane lane.val (fun x => { x with echoDone := some true }) s) ∧ (u.lane b).echoCut = false ∧ ((tileLanes b s).all (fun j => decide ((u.lane j).echoDone = some true)) = false) ∧ sigValue x.echoSig = sigValue x.laneSig) ∧
    (∃ (lane : Fin 1024) (s : State) (b : _) (g : _) (x : _) (u : State) (v : _), b = tileLane lane.val s ∧ g = s.grp (tileRec b s).group ∧ x = s.lane lane.val ∧ echoOpen b s = true ∧ x.echoDone = none ∧ (s.lane b).echoCut = false ∧ v ≠ sigValue x.laneSig ∧ (u = (s |> countF (laneF LNK_ECHO_ERR lane.val) |> laneCause lane.val 5 |> modLane lane.val (fun x => { x with echoDone := some false }))) ∧ (u.lane b).echoCut = false) :=
  ⟨⟨0, { tAt [(0x100, 2)] [(0x100804, 0x80000000#32)] with lnk := { lanes := [(0, {  })] } }, by decide +kernel⟩,
    ⟨0, { tAt [(0x100, 2)] [(0x100804, 0xA0000000#32)] with lnk := { lanes := [(0, { ratePending := some (4, 2) })] } }, 4, 2, by decide +kernel⟩,
    ⟨0, { tAt [(0x100, 2)] [(0x100804, 0xA0000000#32)] with lnk := { lanes := [(0, { ratePending := some (4, 3) })] } }, 4, 3, by decide +kernel⟩,
    ⟨0, { tAt [(0x100, 2)] [(0x100804, 0xA0000000#32)] with lnk := { lanes := [(0, { ratePending := some (4, 3), rateAcked := true })] } }, 4, 3, by decide +kernel⟩,
    ⟨0, { tAt [(0x100, 2)] [(0x100804, 0x20000000#32)] with lnk := { lanes := [(0, { switching := true })] } }, by decide +kernel⟩,
    ⟨0, { tAt [(0x100, 2)] [(0x100804, 0x80040000#32)] with lnk := { lanes := [(0, {  })] } }, by decide +kernel⟩,
    ⟨0, tAt [(0x100, 2)] [], by decide +kernel⟩,
    ⟨0, State.setPool 0 { rows := [⟨0, [], false⟩], sent := 1 } (tTile .active [0] [] (tAt [(0x100, 2)] [])), _, _, _, _, rfl, rfl, rfl, by decide +kernel, by decide +kernel, by decide +kernel, by decide +kernel, rfl, by decide +kernel⟩,
    ⟨0, { State.setPool 0 { rows := [⟨0, [], false⟩], sent := 1 } (tTile .active [0] [] (tAt [(0x100, 2)] [])) with panel := { map := { tiles := [(0, { valid := true, bonded := true })] } } }, _, _, _, _, rfl, rfl, rfl, by decide +kernel, by decide +kernel, by decide +kernel, by decide +kernel, rfl, by decide +kernel⟩,
    ⟨0, State.setPool 0 { rows := [⟨0, [], false⟩], sent := 1 } (tTile .active [0] [] (tAt [(0x100, 2)] [])), _, _, _, _, 1, rfl, rfl, rfl, by decide +kernel, by decide +kernel, by decide +kernel, by decide +kernel, rfl, by decide +kernel⟩⟩

/-- The hypotheses of `Obligations.CorrectionLoadsComplete` are met. -/
theorem witness_CorrectionLoadsComplete :
    (∃ (c : Cmd) (s : State) (t : _), t = markStarted 0x08 c s ∧ Served 0x08 c s ∧ isOwner c.who 0x148 s = true ∧ srcBad c s = false ∧ (t.tileCor (c.argF 0 9 0)).rayCopy = none) ∧
    (∃ (lane : Fin 1024) (s : State) (ref : _) (ws : _) (len : _) (x : _) (r : _), runs 0x148 s = true ∧ (s.tileCor lane.val).rayCopy = some (ref, ws, len) ∧ x = { s.tileCor lane.val with rayCopy := none } ∧ r = rmReason lane.val len ws s ∧ r ≠ 0) ∧
    (∃ (lane : Fin 1024) (s : State) (ref : _) (ws : _) (len : _) (x : _), runs 0x148 s = true ∧ (s.tileCor lane.val).rayCopy = some (ref, ws, len) ∧ x = { s.tileCor lane.val with rayCopy := none } ∧ rmReason lane.val len ws s = 0) ∧
    (∃ (c : Cmd) (s : State) (t : _), t = markStarted 0x09 c s ∧ Served 0x09 c s ∧ isOwner c.who 0x148 s = true ∧ srcBad c s = false ∧ tileValid (c.argF 0 9 0) t = true ∧ c.src.len = 4 * tileRays (c.argF 0 9 0) t ∧ deriving_ (c.argF 0 9 0) t = false ∧ ((srcWords c s).any (fun w => decide (w.toNat / 2 ^ 30 ≠ 0)) = false)) ∧
    (∃ (c : Cmd) (s : State) (t : _) (lanes : _) (l : _), t = markStarted 0x0A c s ∧ Served 0x0A c s ∧ isOwner c.who 0x148 s = true ∧ srcBad c s = false ∧ s.cor.derive = none ∧ lanes = laneWords (c.arg 0) (srcWords c s) ∧ (lanes.any (fun k => !tileValid k t) = false) ∧ (c.src.len = 4 * (c.arg 0 + (lanes.map (fun k => tileRays k t)).sum)) ∧ (l = (splitMaps t lanes ((srcWords c s).drop (c.arg 0))).map (fun m => (m.1, deriveTile m.1 m.2 t)))) ∧
    (∃ (s : State) (d : _) (u : State), runs 0x148 s = true ∧ s.cor.derive = some d ∧ u = ({ s with cor := { s.cor with derive := none } } |> setB COR_XSTAT_DERIVE_BUSY false |> setF COR_GAIN_HR d.limited |> setF COR_GAIN_DEAD d.dead)) ∧
    (∃ (c : Cmd) (s : State) (t : _) (l : _), t = markStarted 0x0B c s ∧ Served 0x0B c s ∧ isOwner c.who 0x148 s = true ∧ SrcReads c 512 s ∧ (l = (srcWords c s).flatMap (fun w => [w.toNat % 65536, w.toNat / 65536])) ∧ nth l 0 = 0x8000 ∧ nonIncreasing l = true ∧ s.cor.derive = none) :=
  ⟨⟨tCmd 64 [], tOn [0x148] [], _, rfl, by decide +kernel⟩,
    ⟨0, { tOn [0x148] [] with cor := { tiles := [(0, { rayCopy := some (tRef, [], 0) })] } }, tRef, [], 0, _, _, by decide +kernel, by decide +kernel, rfl, rfl, by decide +kernel⟩,
    ⟨0, { tTile .none [] [] (tOn [0x148] []) with cor := { tiles := [(0, { rayCopy := some (tRef, tCrc ([0x01000000#32] ++ List.replicate 13 0 ++ [crcWords [0, 0, 0, 0]]), 4104) })] } }, tRef, tCrc ([0x01000000#32] ++ List.replicate 13 0 ++ [crcWords [0, 0, 0, 0]]), 4104, _, by decide +kernel, by decide +kernel, rfl, by decide +kernel⟩,
    ⟨tCmd 4 [], tTile .none [] [] (tOn [0x148] []), _, rfl, by decide +kernel⟩,
    ⟨tCmd 8 [1], tTile .none [] [] (tOn [0x148] []), _, _, _, rfl, by decide +kernel, by decide +kernel, by decide +kernel, by decide +kernel, rfl, by decide +kernel, by decide +kernel, rfl⟩,
    ⟨{ tOn [0x148] [] with cor := { derive := some ⟨tRef, [], 0, 0⟩ } }, ⟨tRef, [], 0, 0⟩, _, by decide +kernel, by decide +kernel, rfl⟩,
    ⟨tCmd 512 [], tMem 0 [0x8000#32] (tOn [0x148] []), _, _, rfl, by decide +kernel, by decide +kernel, by decide +kernel, rfl, by decide +kernel⟩⟩

/-- The hypotheses of `Obligations.CorrectionDataCompletes` are met. -/
theorem witness_CorrectionDataCompletes :
    (∃ (c : Cmd) (s : State) (t : _) (lanes : _) (todo : _) (x : State), t = markStarted 0x0C c s ∧ Served 0x0C c s ∧ isOwner c.who 0x148 s = true ∧ SrcReads c (4 * c.arg 0) s ∧ lanes = (laneWords (c.arg 0) (srcWords c s)).eraseDups ∧ (lanes.any (fun k => !tileValid k t) = false) ∧ (todo = lanes.flatMap (fun k => (List.range (tileRH k t)).map (fun r => (k, r)))) ∧ (x = { t with cor := { t.cor with exports := t.cor.exports ++ [{ cmd := c, clear := decide (c.argF 1 0 0 = 1), covers := lanes, lanes := lanes.map (fun k => (k, (t.grp (tileRec k t).group).idx % 2 ^ 32)), todo := todo, pos := 0 }] } })) ∧
    (∃ (c : Cmd) (s : State) (t : _) (lanes : _) (out : _) (b : _) (bytes : _), t = markStarted 0x0D c s ∧ Served 0x0D c s ∧ isOwner c.who 0x148 s = true ∧ SrcReads c (4 * c.arg 0) s ∧ dstBad c s = false ∧ lanes = laneWords (c.arg 0) (srcWords c s) ∧ (lanes.any (fun k => !tileValid k t) = false) ∧ (out = lanes.map (fun k => let b := (chunks (tileRW k t) (tileRays k t + 1) (gainWords k t)).flatMap (blocksOf 16384); (b, sectionBytes 2 k (tileRW k t) (tileRH k t) 0 0 (b.map (fun e => e.2))))) ∧ (b = out.flatMap (fun e => e.1)) ∧ (bytes = out.flatMap (fun e => e.2))) ∧
    (∃ (c : Cmd) (s : State) (t : _) (l : _) (u : State) (n : _), t = markStarted 0x0E c s ∧ Served 0x0E c s ∧ isOwner c.who 0x148 s = true ∧ srcBad c s = false ∧ l = judgeAll 1 t (c.src.len + 1) (srcBytes c s) ∧ (l.any (fun x => t.cor.exports.any (fun e => e.covers.contains x.lane)) = false) ∧ (u = each l (fun x => if x.reason = 0 then applyCounters (decide (c.argF 0 0 0 = 1)) x.lane x.data else rejectSection x) t) ∧ (n = (l.filter (fun x => decide (x.reason ≠ 0))).length) ∧ n = 0) ∧
    (∃ (c : Cmd) (s : State) (t : _) (l : _) (u : State) (n : _), t = markStarted 0x0E c s ∧ Served 0x0E c s ∧ isOwner c.who 0x148 s = true ∧ srcBad c s = false ∧ l = judgeAll 1 t (c.src.len + 1) (srcBytes c s) ∧ (l.any (fun x => t.cor.exports.any (fun e => e.covers.contains x.lane)) = false) ∧ (u = each l (fun x => if x.reason = 0 then applyCounters (decide (c.argF 0 0 0 = 1)) x.lane x.data else rejectSection x) t) ∧ (n = (l.filter (fun x => decide (x.reason ≠ 0))).length) ∧ n ≠ 0) ∧
    (∃ (c : Cmd) (s : State) (t : _) (l : _) (u : State) (n : _), t = markStarted 0x0F c s ∧ Served 0x0F c s ∧ isOwner c.who 0x148 s = true ∧ srcBad c s = false ∧ l = judgeAll 2 t (c.src.len + 1) (srcBytes c s) ∧ (l.any (fun x => t.cor.exports.any (fun e => e.covers.contains x.lane) || deriving_ x.lane t) = false) ∧ (u = each l (fun x => if x.reason = 0 then stageGain x.lane (bytesWords x.data) else rejectSection x) t) ∧ (n = (l.filter (fun x => decide (x.reason ≠ 0))).length) ∧ n = 0) ∧
    (∃ (c : Cmd) (s : State) (t : _) (l : _) (u : State) (n : _), t = markStarted 0x0F c s ∧ Served 0x0F c s ∧ isOwner c.who 0x148 s = true ∧ srcBad c s = false ∧ l = judgeAll 2 t (c.src.len + 1) (srcBytes c s) ∧ (l.any (fun x => t.cor.exports.any (fun e => e.covers.contains x.lane) || deriving_ x.lane t) = false) ∧ (u = each l (fun x => if x.reason = 0 then stageGain x.lane (bytesWords x.data) else rejectSection x) t) ∧ (n = (l.filter (fun x => decide (x.reason ≠ 0))).length) ∧ n ≠ 0) ∧
    (∃ (lane : Fin 1024) (row : _) (s : State) (d : _) (u : State) (r : _) (b : _), runs 0x148 s = true ∧ ((s.tileCor lane.val).ready.find? (fun d => decide (d.row = row)) = some d) ∧ (u = s.setTileCor lane.val { s.tileCor lane.val with ready := dropFirst (fun e => decide (e = d)) (s.tileCor lane.val).ready }) ∧ r = stressRow lane.val d u ∧ b = blocksOf (16 * 1024) (counterLines (tileRW lane.val u) r.1)) ∧
    (∃ (who : Who) (s : State), Accepted who 0x148 s) ∧
    (∃ (s : State) (e : _), s.cor.strPending = some e) :=
  ⟨⟨tCmd 4 [1], tTile .none [] [] (tOn [0x148] []), _, _, _, _, rfl, by decide +kernel, by decide +kernel, by decide +kernel, rfl, by decide +kernel, rfl, rfl⟩,
    ⟨tCmd 4 [1], tTile .none [] [] (tOn [0x148] []), _, _, _, _, _, rfl, by decide +kernel, by decide +kernel, by decide +kernel, by decide +kernel, rfl, by decide +kernel, rfl, rfl, rfl⟩,
    ⟨tCmd 0 [], tTile .none [] [] (tOn [0x148] []), _, _, _, _, rfl, by decide +kernel, by decide +kernel, by decide +kernel, rfl, by decide +kernel, rfl, rfl, rfl⟩,
    ⟨tCmd 1 [], tTile .none [] [] (tOn [0x148] []), _, _, _, _, rfl, by decide +kernel, by decide +kernel, by decide +kernel, rfl, by decide +kernel, rfl, rfl, by decide +kernel⟩,
    ⟨tCmd 0 [], tTile .none [] [] (tOn [0x148] []), _, _, _, _, rfl, by decide +kernel, by decide +kernel, by decide +kernel, rfl, by decide +kernel, rfl, rfl, rfl⟩,
    ⟨tCmd 1 [], tTile .none [] [] (tOn [0x148] []), _, _, _, _, rfl, by decide +kernel, by decide +kernel, by decide +kernel, rfl, by decide +kernel, rfl, rfl, by decide +kernel⟩,
    ⟨0, 0, { tTile .none [] [] (tOn [0x148] []) with cor := { tiles := [(0, { ready := [⟨0, 0, []⟩] })] } }, ⟨0, 0, []⟩, _, _, _, by decide +kernel, by decide +kernel, rfl, rfl, rfl⟩,
    ⟨.fw, tAt [(0x148, 2)] [], by decide +kernel⟩,
    ⟨{ State.reset with cor := { strPending := some 5 } }, 5, by decide +kernel⟩⟩

/-- The hypotheses of `Obligations.FrameReceptionCompletes` are met. -/
theorem witness_FrameReceptionCompletes :
    (∃ (port : Fin 5) (f : _) (n : _) (u : State) (s : State), portTakes port.val u = true ∧ s = setF (NET_RX_FEC_UNC port.val) (min 0xFFFFFFFF (getF (NET_RX_FEC_UNC port.val) u + n)) u ∧ ((decide (port.val < 4) && getB (NET_INJ_ARM port.val) s && decide ((ctxOf port.val f s).map (fun c => c.1) = some (getF (NET_INJ_CTX port.val) s))) = true)) ∧
    (∃ (port : Fin 5) (f : _) (n : _) (u : State) (s : State), portTakes port.val u = true ∧ s = setF (NET_RX_FEC_UNC port.val) (min 0xFFFFFFFF (getF (NET_RX_FEC_UNC port.val) u + n)) u ∧ ((decide (port.val < 4) && getB (NET_INJ_ARM port.val) s && decide ((ctxOf port.val f s).map (fun c => c.1) = some (getF (NET_INJ_CTX port.val) s))) = false)) ∧
    (∃ (port : Fin 5) (s : State), isOn (0x20 + port.val) s = true ∧ getB (TRM_STAT_RUNNING (16 + port.val)) s = false) ∧
    (∃ (port : Fin 5) (s : State), getB (TRM_STAT_RUNNING (16 + port.val)) s = true) ∧
    (∃ (ctx : Fin 1024) (g : _) (s : State), oldestHeld (s.ctx ctx.val) = some g ∧ (s.ctx ctx.val).state = 1 ∧ reached (g + 1000 * (s.ctx ctx.val).skewUs) s = true) ∧
    (∃ (ctx : Fin 1024) (b : _) (p : _) (s : State), p = pathOf b (s.ctx ctx.val) ∧ p.up = true ∧ reached (p.last + 1000000 * (s.ctx ctx.val).timeoutMs) s = true) ∧
    (∃ (who : Who) (port : Fin 5) (v : Word) (s : State) (t : _), Accepted who (0x20 + port.val) s ∧ port.val < 4 ∧ getB (NET_INJ_ARM port.val) s = false ∧ t = (s |> setF (NET_INJ_KIND port.val) (bitsOf v.toNat 30 28) |> setF (NET_INJ_CTX port.val) (bitsOf v.toNat 25 16) |> setF (NET_INJ_COUNT port.val) (bitsOf v.toNat 15 0) |> setF (NET_INJ_ARM port.val) (bitsOf v.toNat 31 31))) ∧
    (∃ (port : Fin 5) (s : State) (d : _), (s.str.delayed.find? (fun d => decide (d.port = port.val)) = some d) ∧ reached d.due s = true ∧ portTakes port.val s = true) :=
  ⟨⟨0, tFrame, 0, { tAt [(0x20, 2)] [(0x2010C, 0xFFFFFFFF#32), (0x20180, 0x80000000#32)] with str := { ctxs := [(0, { state := 1, dstA := [0] })] } }, _, by decide +kernel, rfl, by decide +kernel⟩,
    ⟨0, tFrame, 1, tAt [(0x20, 2)] [(0x2010C, 0xFFFFFFFF#32)], _, by decide +kernel, rfl, by decide +kernel⟩,
    ⟨4, tAt [(0x24, 2)] [], by decide +kernel⟩,
    ⟨0, setB (TRM_STAT_RUNNING 16) true State.reset, by decide +kernel⟩,
    ⟨0, 0, { State.reset with str := { ctxs := [(0, { state := 1, held := [⟨0, 0, 0, 0, false, []⟩] })] } }, by decide +kernel⟩,
    ⟨0, true, _, { State.reset with str := { ctxs := [(0, { pathB := { up := true } })] } }, rfl, by decide +kernel⟩,
    ⟨.fw, 0, 0x9FFFFFFF#32, tAt [(0x20, 2)] [], _, by decide +kernel, by decide +kernel, by decide +kernel, rfl⟩,
    ⟨0, { tAt [(0x20, 2)] [(0x2010C, 0xFFFFFFFF#32)] with str := { delayed := [⟨0, 0, [], true⟩] } }, ⟨0, 0, [], true⟩, by decide +kernel⟩⟩

/-- The hypotheses of `Obligations.ContextsComplete` are met. -/
theorem witness_ContextsComplete :
    (∃ (c : Cmd) (s : State) (t : _) (i : _), t = markStarted 0x10 c s ∧ Served 0x10 c s ∧ SrcReads c 96 s ∧ ctxReason (srcWords c s) t = 0 ∧ (i = (firstBelow 1024 (fun i => decide ((t.ctx i).state = 0))).getD 0)) ∧
    (∃ (c : Cmd) (s : State) (t : _) (r : _), t = markStarted 0x10 c s ∧ Served 0x10 c s ∧ SrcReads c 96 s ∧ r = ctxReason (srcWords c s) t ∧ r ≠ 0) ∧
    (∃ (c : Cmd) (s : State) (t : _) (i : _), t = markStarted 0x11 c s ∧ Served 0x11 c s ∧ i = c.argF 0 9 0 ∧ (t.ctx i).state = 1 ∧ (t.ctx i).owner = c.idx) ∧
    (∃ (ctx : Fin 1024) (s : State) (r : _), (s.ctx ctx.val).state = 2 ∧ (s.ctx ctx.val).queue = [] ∧ (s.binding ctx.val).decoding = none ∧ (s.ctx ctx.val).closing = some r) ∧
    (∃ (ctx : Fin 1024) (s : State), (s.ctx ctx.val).state = 2 ∧ (s.ctx ctx.val).queue = [] ∧ (s.binding ctx.val).decoding = none ∧ (s.ctx ctx.val).closing = none) ∧
    (∃ (who : Who) (w : Fin 8) (s : State), Accepted who (0x28 + w.val) s) :=
  ⟨⟨tCmd 96 [], tMem 0 (tCrc ([0x01000000#32] ++ List.replicate 17 0 ++ [0x01000000, 0, 0, 64, 0])) (tOn [0x28] []), _, _, rfl, by decide +kernel, by decide +kernel, by decide +kernel, rfl⟩,
    ⟨tCmd 96 [], tOn [0x28] [], _, _, rfl, by decide +kernel, by decide +kernel, rfl, by decide +kernel⟩,
    ⟨tCmd 0 [], { tOn [0x28] [] with str := { ctxs := [(0, { state := 1, owner := 8 })] } }, _, _, rfl, by decide +kernel, rfl, by decide +kernel⟩,
    ⟨0, { State.reset with str := { ctxs := [(0, { state := 2, closing := some tRef })] } }, tRef, by decide +kernel⟩,
    ⟨0, { State.reset with str := { ctxs := [(0, { state := 2 })] } }, by decide +kernel⟩,
    ⟨.fw, 7, tAt [(0x2F, 2), (0x28, 2)] [], by decide +kernel⟩⟩

/-- The hypotheses of `Obligations.DecodingCompletes` are met. -/
theorem witness_DecodingCompletes :
    (∃ (c : Cmd) (s : State) (t : _), t = markStarted 0x12 c s ∧ Served 0x12 c s ∧ SrcReads c 32 s ∧ bindReason c.idx (srcWords c s) t = 0) ∧
    (∃ (c : Cmd) (s : State) (t : _) (r : _), t = markStarted 0x12 c s ∧ Served 0x12 c s ∧ SrcReads c 32 s ∧ r = bindReason c.idx (srcWords c s) t ∧ r ≠ 0) ∧
    (∃ (c : Cmd) (s : State) (t : _) (i : _), t = markStarted 0x13 c s ∧ Served 0x13 c s ∧ i = c.argF 0 9 0 ∧ (t.ctx i).owner = c.idx ∧ (t.binding i).state = 1) ∧
    (∃ (ctx : Fin 1024) (s : State) (b : _) (r : _), b = s.binding ctx.val ∧ b.state = 2 ∧ b.decoding = none ∧ (∀ x ∈ b.bufs, x.reads = 0) ∧ b.unbind = some r) ∧
    (∃ (ctx : Fin 1024) (s : State) (b : _), b = s.binding ctx.val ∧ b.state = 2 ∧ b.decoding = none ∧ (∀ x ∈ b.bufs, x.reads = 0) ∧ b.unbind = none) ∧
    (∃ (ctx : Fin 1024) (info : _) (s : State) (b : _) (au : _) (q : _) (f : _), s.fwu.feed ≠ some ctx.val ∧ b = s.binding ctx.val ∧ (s.ctx ctx.val).queue = au :: q ∧ b.state = 1 ∧ groupOn b s = true ∧ groupBusy b s = false ∧ takesNext ctx.val s = true ∧ f = unitFate b au info s ∧ f = .dropped) ∧
    (∃ (ctx : Fin 1024) (info : _) (s : State) (b : _) (au : _) (q : _) (f : _) (r : _), s.fwu.feed ≠ some ctx.val ∧ b = s.binding ctx.val ∧ (s.ctx ctx.val).queue = au :: q ∧ b.state = 1 ∧ groupOn b s = true ∧ groupBusy b s = false ∧ takesNext ctx.val s = true ∧ f = unitFate b au info s ∧ f = .unsupported r) ∧
    (∃ (ctx : Fin 1024) (info : _) (s : State) (b : _) (au : _) (q : _) (f : _), s.fwu.feed ≠ some ctx.val ∧ b = s.binding ctx.val ∧ (s.ctx ctx.val).queue = au :: q ∧ b.state = 1 ∧ groupOn b s = true ∧ groupBusy b s = false ∧ takesNext ctx.val s = true ∧ f = unitFate b au info s ∧ f = .refused) ∧
    (∃ (ctx : Fin 1024) (info : _) (s : State) (b : _) (au : _) (q : _) (f : _), s.fwu.feed ≠ some ctx.val ∧ b = s.binding ctx.val ∧ (s.ctx ctx.val).queue = au :: q ∧ b.state = 1 ∧ groupOn b s = true ∧ groupBusy b s = false ∧ takesNext ctx.val s = true ∧ f = unitFate b au info s ∧ f = .late) ∧
    (∃ (ctx : Fin 1024) (info : _) (s : State) (b : _) (au : _) (q : _) (f : _), s.fwu.feed ≠ some ctx.val ∧ b = s.binding ctx.val ∧ (s.ctx ctx.val).queue = au :: q ∧ b.state = 1 ∧ groupOn b s = true ∧ groupBusy b s = false ∧ takesNext ctx.val s = true ∧ f = unitFate b au info s ∧ f = .decode ∧ hasRoom b (decodedLayers info).length = true) ∧
    (∃ (ctx : Fin 1024) (info : _) (s : State) (b : _) (au : _) (q : _) (f : _), s.fwu.feed ≠ some ctx.val ∧ b = s.binding ctx.val ∧ (s.ctx ctx.val).queue = au :: q ∧ b.state = 1 ∧ groupOn b s = true ∧ groupBusy b s = false ∧ takesNext ctx.val s = true ∧ f = unitFate b au info s ∧ f = .decode ∧ hasRoom b (decodedLayers info).length = false) ∧
    (∃ (ctx : Fin 1024) (res : _) (s : State) (r : _) (au : _), s.fwu.feed ≠ some ctx.val ∧ (s.binding ctx.val).decoding = some au ∧ r = completeUnit ctx.val res s ∧ r.2 = none) ∧
    (∃ (ctx : Fin 1024) (res : _) (s : State) (r : _) (au : _) (m : _), s.fwu.feed ≠ some ctx.val ∧ (s.binding ctx.val).decoding = some au ∧ r = completeUnit ctx.val res s ∧ r.2 = some m) ∧
    (∃ (who : Who) (s : State), Accepted who 0x40 s) :=
  ⟨⟨tCmd 32 [], { tMem 0 (tCrc [0x01000000#32, 0x10, 0x01000000, 0x80000000, 0, 0, 0]) (tOn [0x40] []) with str := { ctxs := [(0, { state := 1, owner := 8 })] } }, _, rfl, by decide +kernel, by decide +kernel, by
      have h : fieldAt (srcWords (tCmd 32 []) { tMem 0 (tCrc [0x01000000#32, 0x10, 0x01000000, 0x80000000, 0, 0, 0]) (tOn [0x40] []) with str := { ctxs := [(0, { state := 1, owner := 8 })] } }) 2 31 24 = 1 := by decide +kernel
      have r : (bindRoom (srcWords (tCmd 32 []) { tMem 0 (tCrc [0x01000000#32, 0x10, 0x01000000, 0x80000000, 0, 0, 0]) (tOn [0x40] []) with str := { ctxs := [(0, { state := 1, owner := 8 })] } })
          (markStarted 0x12 (tCmd 32 []) { tMem 0 (tCrc [0x01000000#32, 0x10, 0x01000000, 0x80000000, 0, 0, 0]) (tOn [0x40] []) with str := { ctxs := [(0, { state := 1, owner := 8 })] } })).isNone = false := by
        rw [bindRoom, h]; exact placeMany_one _ _ _ (by decide +kernel)
      simp only [bindReason, r]; decide +kernel⟩,
    ⟨tCmd 32 [], tOn [0x40] [], _, _, rfl, by decide +kernel, by decide +kernel, rfl, by decide +kernel⟩,
    ⟨tCmd 0 [], { tDecode (tBinding 1) (tOn [0x40] []) with str := { ctxs := [(0, { owner := 8 })] } }, _, _, rfl, by decide +kernel, rfl, by decide +kernel⟩,
    ⟨0, tDecode ({ tBinding 1 with state := 2, unbind := some tRef }) (tOn [0x40] []), _, tRef, rfl, by decide +kernel⟩,
    ⟨0, tDecode ({ tBinding 1 with state := 2 }) (tOn [0x40] []), _, rfl, by decide +kernel⟩,
    by refine ⟨0, { irap := false, rasl := true, tid := 0, nonRef := false, layers := [] }, tDecode (tBinding 3) (tOn [0x40] []), _, tUnit, [], _, by decide +kernel, rfl, ?_, ?_, ?_, ?_, ?_, rfl, rfl⟩ <;> decide +kernel,
    by refine ⟨0, { irap := true, rasl := false, tid := 0, nonRef := false, layers := [{ tLayer with profile := 9 }] }, tDecode (tBinding 3) (tOn [0x40] []), _, tUnit, [], _, 1, by decide +kernel, rfl, ?_, ?_, ?_, ?_, ?_, rfl, rfl⟩ <;> decide +kernel,
    by refine ⟨0, { irap := false, rasl := false, tid := 0, nonRef := false, layers := [] }, tDecode ({ tBinding 3 with uns := 1 }) (tOn [0x40] []), _, tUnit, [], _, by decide +kernel, rfl, ?_, ?_, ?_, ?_, ?_, rfl, rfl⟩ <;> decide +kernel,
    by refine ⟨0, { irap := false, rasl := false, tid := 0, nonRef := true, layers := [] }, tDecode ({ tBinding 3 with lateSkip := true }) (tOn [0x40] []), _, tUnit, [], _, by decide +kernel, rfl, ?_, ?_, ?_, ?_, ?_, rfl, rfl⟩ <;> decide +kernel,
    by refine ⟨0, { irap := true, rasl := false, tid := 0, nonRef := false, layers := [tLayer] }, tDecode (tBinding 3) (tOn [0x40] []), _, tUnit, [], _, by decide +kernel, rfl, ?_, ?_, ?_, ?_, ?_, rfl, rfl, by decide +kernel⟩ <;> decide +kernel,
    by refine ⟨0, { irap := false, rasl := false, tid := 0, nonRef := false, layers := [tLayer] }, tDecode ({ tBinding 1 with bufs := [] }) (tOn [0x40] []), _, tUnit, [], _, by decide +kernel, rfl, ?_, ?_, ?_, ?_, ?_, rfl, rfl, by decide +kernel⟩ <;> decide +kernel,
    ⟨0, ⟨[]⟩, tDecode ({ tBinding 1 with decoding := some tUnit }) (tOn [0x40] []), _, tUnit, by decide +kernel, by decide +kernel, rfl, by decide +kernel⟩,
    ⟨0, ⟨[{ (default : LayerResult) with output := true, w := 16, h := 16, segs := [⟨0, 1, false, true, true⟩] }]⟩, tDecode ({ tBinding 1 with decoding := some tUnit, work := [tLayer] }) (tOn [0x40] []), _, tUnit, 0, by decide +kernel, by decide +kernel, rfl, by decide +kernel⟩,
    ⟨.fw, tAt [(0x40, 2)] [], by decide +kernel⟩⟩

/-- The hypotheses of `Obligations.PlaneCommandsComplete` are met. -/
theorem witness_PlaneCommandsComplete :
    (∃ (c : Cmd) (s : State) (t : _) (i : _) (x : _), t = markStarted 0x18 c s ∧ Served 0x18 c s ∧ SrcReads c 32 s ∧ planeReason (srcWords c s) = 0 ∧ (firstBelow 256 (fun i => decide ((t.plane i).state = 0)) = some i) ∧ planeRoom (parsePlane (srcWords c s)) t = some x) ∧
    (∃ (c : Cmd) (s : State) (t : _), t = markStarted 0x18 c s ∧ Served 0x18 c s ∧ SrcReads c 32 s ∧ planeReason (srcWords c s) ≠ 0) ∧
    (∃ (c : Cmd) (s : State) (t : _), t = markStarted 0x19 c s ∧ Served 0x19 c s ∧ SrcReads c 32 s ∧ planeSetReason c (c.argF 0 7 0) (srcWords c s) t = 0) ∧
    (∃ (c : Cmd) (s : State) (t : _) (i : _) (b : _) (pt : _), t = markStarted 0x1A c s ∧ Served 0x1A c s ∧ i = c.argF 0 7 0 ∧ b = c.argF 0 11 8 ∧ hostBufReason c.idx i b t = 0 ∧ c.argF 0 16 16 ≠ 1 ∧ pt = presentTime c t) ∧
    (∃ (c : Cmd) (s : State) (t : _) (i : _) (b : _) (pt : _) (u : State), t = markStarted 0x1A c s ∧ Served 0x1A c s ∧ i = c.argF 0 7 0 ∧ b = c.argF 0 11 8 ∧ hostBufReason c.idx i b t = 0 ∧ c.argF 0 16 16 = 1 ∧ pt = presentTime c t ∧ leased i b t = false ∧ u = supersede i t) ∧
    (∃ (c : Cmd) (s : State) (t : _) (i : _), t = markStarted 0x1B c s ∧ Served 0x1B c s ∧ i = c.argF 0 7 0 ∧ (t.plane i).state = 1 ∧ (t.plane i).owner = c.idx) ∧
    (∃ (p : Fin 256) (s : State), (s.plane p.val).state = 2 ∧ (s.ras.leases.any (fun l => decide (l.plane = p.val)) = false)) ∧
    (∃ (c : Cmd) (s : State) (t : _) (i : _) (b : _) (p : _), t = markStarted 0x1C c s ∧ Served 0x1C c s ∧ i = c.argF 0 7 0 ∧ b = c.argF 0 11 8 ∧ hostBufReason c.idx i b t = 0 ∧ p = t.plane i ∧ leased i b t = false) ∧
    (∃ (c : Cmd) (s : State) (t : _) (i : _) (b : _) (p : _), t = markStarted 0x1C c s ∧ Served 0x1C c s ∧ i = c.argF 0 7 0 ∧ b = c.argF 0 11 8 ∧ hostBufReason c.idx i b t = 0 ∧ p = t.plane i ∧ leased i b t = true) ∧
    (∃ (c : Cmd) (s : State) (t : _), t = markStarted 0x1D c s ∧ Served 0x1D c s ∧ SrcReads c 48 s ∧ winReason (srcWords c s) = 0 ∧ winPlaceReason c.idx (c.argF 0 9 0) (parseWin (srcWords c s)) t = 0) ∧
    (∃ (c : Cmd) (s : State) (t : _) (w : _), t = markStarted 0x1E c s ∧ Served 0x1E c s ∧ t.win (c.argF 0 9 0) = some w ∧ w.owner = c.idx) :=
  ⟨by
      have h : (planeRoom (parsePlane (srcWords (tCmd 32 []) (tMem 0 (tCrc [0x01830000#32, 0, 0, 0, 0, 0, 0]) (tOn [0x60, 0x80, 0x40] [])))) (markStarted 0x18 (tCmd 32 []) (tMem 0 (tCrc [0x01830000#32, 0, 0, 0, 0, 0, 0]) (tOn [0x60, 0x80, 0x40] [])))).isNone = false := by
        have e : (parsePlane (srcWords (tCmd 32 []) (tMem 0 (tCrc [0x01830000#32, 0, 0, 0, 0, 0, 0]) (tOn [0x60, 0x80, 0x40] [])))).nbuf = 1 := by decide +kernel
        rw [planeRoom, e]; exact placeMany_one _ _ _ (by decide +kernel)
      obtain ⟨x, hx⟩ := Option.isSome_iff_exists.mp (by simpa using h)
      exact ⟨tCmd 32 [], tMem 0 (tCrc [0x01830000#32, 0, 0, 0, 0, 0, 0]) (tOn [0x60, 0x80, 0x40] []), _, 0, x, rfl, by decide +kernel, by decide +kernel, by decide +kernel, by decide +kernel, hx⟩,
    ⟨tCmd 32 [], tOn [0x60, 0x80, 0x40] [], _, rfl, by decide +kernel⟩,
    ⟨tCmd 32 [], { tMem 0 (tCrc [0x01830000#32, 0, 0, 0, 0, 0, 0]) (tOn [0x60, 0x80, 0x40] []) with asm := { planes := [(0, { state := 1, owner := 8, set := { host := true, nbuf := 1, w := 1, h := 1, pace := 2 }, force := { host := true, nbuf := 1, w := 1, h := 1, pace := 2 } })], wins := []  } }, _, rfl, by decide +kernel⟩,
    ⟨tCmd 0 [], { tOn [0x60, 0x80, 0x40] [] with asm := { planes := [(0, { state := 1, owner := 8, set := { host := true, nbuf := 1, w := 1, h := 1, pace := 2 }, force := { host := true, nbuf := 1, w := 1, h := 1, pace := 2 } })], wins := []  } }, _, _, _, _, rfl, by decide +kernel, rfl, rfl, by decide +kernel, by decide +kernel, rfl⟩,
    ⟨tCmd 0 [0x10000#32], { tOn [0x60, 0x80, 0x40] [] with asm := { planes := [(0, { state := 1, owner := 8, set := { host := true, nbuf := 1, w := 1, h := 1, pace := 2 }, force := { host := true, nbuf := 1, w := 1, h := 1, pace := 2 } })], wins := []  } }, _, _, _, _, _, rfl, by decide +kernel, rfl, rfl, by decide +kernel, by decide +kernel, rfl, by decide +kernel, rfl⟩,
    ⟨tCmd 0 [], { tOn [0x60, 0x80, 0x40] [] with asm := { planes := [(0, { state := 1, owner := 8, set := { host := true, nbuf := 1, w := 1, h := 1, pace := 2 }, force := { host := true, nbuf := 1, w := 1, h := 1, pace := 2 } })], wins := []  } }, _, _, rfl, by decide +kernel, rfl, by decide +kernel⟩,
    ⟨0, { tOn [0x60, 0x80, 0x40] [] with asm := { planes := [(0, { state := 2 })], wins := []  } }, by decide +kernel⟩,
    ⟨tCmd 0 [], { tOn [0x60, 0x80, 0x40] [] with asm := { planes := [(0, { state := 1, owner := 8, set := { host := true, nbuf := 1, w := 1, h := 1, pace := 2 }, force := { host := true, nbuf := 1, w := 1, h := 1, pace := 2 } })], wins := []  } }, _, _, _, _, rfl, by decide +kernel, rfl, rfl, by decide +kernel, rfl, by decide +kernel⟩,
    ⟨tCmd 0 [], { { tOn [0x60, 0x80, 0x40] [] with asm := { planes := [(0, { state := 1, owner := 8, set := { host := true, nbuf := 1, w := 1, h := 1, pace := 2 }, force := { host := true, nbuf := 1, w := 1, h := 1, pace := 2 } })], wins := []  } } with ras := { leases := [⟨0, 0, 0, 0, true, false⟩] } }, _, _, _, _, rfl, by decide +kernel, rfl, rfl, by decide +kernel, rfl, by decide +kernel⟩,
    ⟨tCmd 48 [], { tMem 0 (tCrc [0x01000000#32, 0, 0, 0, 0, 0, 0, 0, 0, 0, 0]) (tOn [0x60, 0x80, 0x40] []) with asm := { planes := [(0, { state := 1, owner := 8, set := { w := 1, h := 1 } })], wins := []  } }, _, rfl, by decide +kernel⟩,
    ⟨tCmd 0 [], { tOn [0x60, 0x80, 0x40] [] with asm := { planes := [], wins := [(0, some ⟨8, {}⟩)]  } }, _, ⟨8, {}⟩, rfl, by decide +kernel⟩⟩

/-- The hypotheses of `Obligations.BuildsAndDrawsComplete` are met. -/
theorem witness_BuildsAndDrawsComplete :
    (∃ (p : Fin 256) (s : State) (q : _), s.asm.run = none ∧ runs 0x60 s = true ∧ nextBuild s.asm.queue = some q ∧ q.plane = p.val ∧ reached (ofSigned 64 q.start) s = true ∧ (∀ n, q.kind ≠ .group n)) ∧
    (∃ (p : Fin 256) (s : State) (q : _) (n : _) (w : _) (g : _), s.asm.run = none ∧ runs 0x60 s = true ∧ nextBuild s.asm.queue = some q ∧ q.plane = p.val ∧ reached (ofSigned 64 q.start) s = true ∧ q.kind = .group n ∧ w = (s.plane q.plane).force ∧ g = s.grp w.pgroup ∧ (groupState w.pgroup s = 2 ∨ (g.hasNext && [1, 5].contains (groupState w.pgroup s)) = true)) ∧
    (∃ (p : Fin 256) (s : State) (q : _) (n : _) (w : _) (g : _), s.asm.run = none ∧ runs 0x60 s = true ∧ nextBuild s.asm.queue = some q ∧ q.plane = p.val ∧ reached (ofSigned 64 q.start) s = true ∧ q.kind = .group n ∧ w = (s.plane q.plane).force ∧ g = s.grp w.pgroup ∧ groupState w.pgroup s ≠ 2 ∧ (g.hasNext && [1, 5].contains (groupState w.pgroup s)) = false) ∧
    (∃ (k : Fin 4) (u : State) (s : State) (r : _), markArmed k.val u = true ∧ s = passLines k.val u ∧ s.asm.run = some r ∧ r.marks.contains k.val = false) ∧
    (∃ (s : State) (r : _), s.asm.run = some r) ∧
    (∃ (c : Cmd) (s : State) (t : _), t = markStarted 0x20 c s ∧ Served 0x20 c s ∧ SrcReads c 48 s ∧ drawReason c.idx (srcWords c s) t = 0) ∧
    (∃ (c : Cmd) (s : State) (t : _) (r : _), t = markStarted 0x20 c s ∧ Served 0x20 c s ∧ SrcReads c 48 s ∧ r = drawReason c.idx (srcWords c s) t ∧ r ≠ 0) ∧
    (∃ (spans : _) (s : State) (j : _) (rest : _) (r : _) (f : _) (u : State), s.asm.draws = j :: rest ∧ runs 0x68 s = true ∧ r = drawAll (parseDraw j.words) j.leases spans s ∧ f = fresh 32 r.1.1 ∧ u = ({ f.2 with asm := { f.2.asm with draws := rest } } |> showDrw |> addF DRW_PX r.2 |> addF DRW_BURSTS f.1) ∧ r.1.2 = none) ∧
    (∃ (spans : _) (s : State) (j : _) (rest : _) (r : _) (f : _) (u : State) (l : _), s.asm.draws = j :: rest ∧ runs 0x68 s = true ∧ r = drawAll (parseDraw j.words) j.leases spans s ∧ f = fresh 32 r.1.1 ∧ u = ({ f.2 with asm := { f.2.asm with draws := rest } } |> showDrw |> addF DRW_PX r.2 |> addF DRW_BURSTS f.1) ∧ r.1.2 = some l) ∧
    (∃ (c : Cmd) (s : State) (t : _), t = markStarted 0x21 c s ∧ Served 0x21 c s ∧ c.src.len = c.dst.len ∧ srcBad c s = false) ∧
    (∃ (c : Cmd) (spans : _) (s : State) (j : _) (r : _) (u : State), (s.asm.dmas.find? (fun j => decide (j.cmd.who = c.who)) = some j) ∧ j.cmd = c ∧ srcBad c s = false ∧ dstBad c s = false ∧ r = dmaWrite (opSpace c c.dst s) j.leases spans c.dst.addr 0 (srcBytes c s) (s, none) ∧ (u = { r.1 with asm := { r.1.asm with dmas := dropFirst (fun x => decide (x = j)) r.1.asm.dmas } }) ∧ r.2 = none) ∧
    (∃ (c : Cmd) (spans : _) (s : State) (j : _) (r : _) (u : State) (l : _), (s.asm.dmas.find? (fun j => decide (j.cmd.who = c.who)) = some j) ∧ j.cmd = c ∧ srcBad c s = false ∧ dstBad c s = false ∧ r = dmaWrite (opSpace c c.dst s) j.leases spans c.dst.addr 0 (srcBytes c s) (s, none) ∧ (u = { r.1 with asm := { r.1.asm with dmas := dropFirst (fun x => decide (x = j)) r.1.asm.dmas } }) ∧ r.2 = some l) ∧
    (∃ (c : Cmd) (spans : _) (before : _) (ok : _) (s : State) (j : _) (r : _) (u : State), (s.asm.dmas.find? (fun j => decide (j.cmd.who = c.who)) = some j) ∧ j.cmd = c ∧ (ok && !srcBad c s && !dstBad c s) = false ∧ r = dmaWrite (opSpace c c.dst s) j.leases spans c.dst.addr 0 ((srcBytes c s).take before) (s, none) ∧ (u = { r.1 with asm := { r.1.asm with dmas := dropFirst (fun x => decide (x = j)) r.1.asm.dmas } }) ∧ r.2 = none) ∧
    (∃ (c : Cmd) (spans : _) (before : _) (ok : _) (s : State) (j : _) (r : _) (u : State) (l : _), (s.asm.dmas.find? (fun j => decide (j.cmd.who = c.who)) = some j) ∧ j.cmd = c ∧ (ok && !srcBad c s && !dstBad c s) = false ∧ r = dmaWrite (opSpace c c.dst s) j.leases spans c.dst.addr 0 ((srcBytes c s).take before) (s, none) ∧ (u = { r.1 with asm := { r.1.asm with dmas := dropFirst (fun x => decide (x = j)) r.1.asm.dmas } }) ∧ r.2 = some l) ∧
    (∃ (who : Who) (s : State), Accepted who 0x60 s) :=
  ⟨by refine ⟨0, { tOn [0x60, 0x68, 0x90] [] with asm := { planes := [(0, { state := 1, force := { pgroup := 0 } })], wins := [] , queue := [{ plane := 0, kind := .present 0, start := 0, pt := 0, cmd := none }] } }, { plane := 0, kind := .present 0, start := 0, pt := 0, cmd := none }, ?_, ?_, ?_, ?_, ?_, by simp⟩ <;> decide +kernel,
    by refine ⟨0, { tOn [0x60, 0x68, 0x90] [] with asm := { planes := [(0, { state := 1, force := { pgroup := 0 } })], wins := [] , queue := [{ plane := 0, kind := .group 1, start := 0, pt := 0, cmd := none }] } }, { plane := 0, kind := .group 1, start := 0, pt := 0, cmd := none }, 1, _, _, ?_, ?_, ?_, ?_, ?_, ?_, rfl, rfl, by decide +kernel⟩ <;> decide +kernel,
    by refine ⟨0, { tOn [0x60] [] with asm := { planes := [(0, { state := 1, force := { pgroup := 0 } })], wins := [] , queue := [{ plane := 0, kind := .group 1, start := 0, pt := 0, cmd := none }] } }, { plane := 0, kind := .group 1, start := 0, pt := 0, cmd := none }, 1, _, _, ?_, ?_, ?_, ?_, ?_, ?_, rfl, rfl, by decide +kernel⟩ <;> decide +kernel,
    ⟨0, { tOn [0x60] [(0x60140, 0x80000000#32)] with asm := { planes := [], wins := [] , run := some { (default : RunBuild) with srcs := [{ win := 0, cfg := {}, pic := none, alpha := none, missing := false }] } } }, _, { (default : RunBuild) with srcs := [{ win := 0, cfg := {}, pic := none, alpha := none, missing := false }] }, by decide +kernel, rfl, by decide +kernel⟩,
    ⟨{ tOn [0x60, 0x80, 0x40] [] with asm := { planes := [], wins := [] , run := some (default : RunBuild) } }, default, by decide +kernel⟩,
    ⟨tCmd 48 [], { tMem 0 [0#32, 0, 0x1000, 0, 0, 0, 0, 0, 0, 0, 0, 0] (tOn [0x60, 0x68, 0x90] []) with asm := { planes := [(0, { state := 1, owner := 8, set := { host := true, nbuf := 1, w := 1, h := 1, pace := 2 }, addrs := [0] })] } }, _, rfl, by decide +kernel⟩,
    ⟨tCmd 48 [], { tMem 0 [0xF0000000#32] (tOn [0x60, 0x68, 0x90] []) with asm := { planes := [(0, { state := 1, owner := 8, set := { host := true, nbuf := 1, w := 1, h := 1, pace := 2 }, addrs := [0] })] } }, _, _, rfl, by decide +kernel, by decide +kernel, rfl, by decide +kernel⟩,
    ⟨[], { tOn [0x60, 0x68, 0x90] [] with asm := { planes := [], wins := [] , draws := [⟨tRef, List.replicate 12 0#32, []⟩] } }, ⟨tRef, List.replicate 12 0#32, []⟩, [], _, _, _, by decide +kernel, by decide +kernel, rfl, rfl, rfl, by decide +kernel⟩,
    ⟨[], { tOn [0x60, 0x68, 0x90] [] with asm := { planes := [], wins := [] , draws := [⟨tRef, List.replicate 12 0#32, [⟨0, 0, 0, 64, true, false⟩]⟩] } }, ⟨tRef, List.replicate 12 0#32, [⟨0, 0, 0, 64, true, false⟩]⟩, [], _, _, _, (0, 0), by decide +kernel, by decide +kernel, rfl, rfl, rfl, by decide +kernel⟩,
    ⟨{ tCmd 1 [] with dst := ⟨1, 0, 1⟩ }, tOn [0x60, 0x68, 0x90] [], _, rfl, by decide +kernel⟩,
    ⟨{ tCmd 1 [] with dst := ⟨1, 0, 1⟩ }, [], { tOn [0x60, 0x68, 0x90] [] with asm := { planes := [], wins := [] , dmas := [⟨{ tCmd 1 [] with dst := ⟨1, 0, 1⟩ }, []⟩] } }, ⟨{ tCmd 1 [] with dst := ⟨1, 0, 1⟩ }, []⟩, _, _, by decide +kernel, by decide +kernel, by decide +kernel, by decide +kernel, rfl, rfl, by decide +kernel⟩,
    ⟨{ tCmd 1 [] with dst := ⟨1, 0, 1⟩ }, [], { tOn [0x60, 0x68, 0x90] [] with asm := { planes := [], wins := [] , dmas := [⟨{ tCmd 1 [] with dst := ⟨1, 0, 1⟩ }, [⟨0, 0, 0, 64, true, false⟩]⟩] } }, ⟨{ tCmd 1 [] with dst := ⟨1, 0, 1⟩ }, [⟨0, 0, 0, 64, true, false⟩]⟩, _, _, (0, 0), by decide +kernel, by decide +kernel, by decide +kernel, by decide +kernel, rfl, rfl, by decide +kernel⟩,
    ⟨{ tCmd 1 [] with dst := ⟨1, 0, 1⟩ }, [], 0, false, { tOn [0x60, 0x68, 0x90] [] with asm := { planes := [], wins := [] , dmas := [⟨{ tCmd 1 [] with dst := ⟨1, 0, 1⟩ }, []⟩] } }, ⟨{ tCmd 1 [] with dst := ⟨1, 0, 1⟩ }, []⟩, _, _, by decide +kernel, by decide +kernel, by decide +kernel, rfl, rfl, by decide +kernel⟩,
    ⟨{ tCmd 1 [] with dst := ⟨1, 0, 1⟩ }, [], 1, false, { tOn [0x60, 0x68, 0x90] [] with asm := { planes := [], wins := [] , dmas := [⟨{ tCmd 1 [] with dst := ⟨1, 0, 1⟩ }, [⟨0, 0, 0, 64, true, false⟩]⟩] } }, ⟨{ tCmd 1 [] with dst := ⟨1, 0, 1⟩ }, [⟨0, 0, 0, 64, true, false⟩]⟩, _, _, (0, 0), by decide +kernel, by decide +kernel, by decide +kernel, rfl, rfl, by decide +kernel⟩,
    ⟨.fw, tOn [0x60, 0x80, 0x40] [], by decide +kernel⟩⟩

/-- The hypotheses of `Obligations.EncodingCompletes` are met. -/
theorem witness_EncodingCompletes :
    (∃ (c : Cmd) (s : State) (t : _) (r : _), t = markStarted 0x28 c s ∧ Served 0x28 c s ∧ SrcReads c 48 s ∧ r = encReason c.idx (srcWords c s) t ∧ r ≠ 0) ∧
    (∃ (c : Cmd) (s : State) (t : _) (i : _), t = markStarted 0x29 c s ∧ Served 0x29 c s ∧ i = c.argF 0 3 0 ∧ (t.sess i).state = 1 ∧ (t.sess i).owner = c.idx) ∧
    (∃ (i : Fin 16) (s : State), (s.sess i.val).state = 1) ∧
    (∃ (i : Fin 16) (s : State) (c : Capture) (k : _) (u : State), ((s.sess i.val).queued.find? (fun c => !c.done) = some c) ∧ k = captureCodes (s.sess i.val).cfg c s ∧ (u = s.setSess i.val { s.sess i.val with queued := finishCapture (fun c => { c with done := true, y := k.1, cb := k.2.1, cr := k.2.2 }) (s.sess i.val).queued })) ∧
    (∃ (core : Fin 4) (s : State) (i : _) (c : Capture) (x : _) (b : _), isOn (0x150 + core.val) s = true ∧ getB (ENC_CORE_BUSY core.val) s = false ∧ nextPicture core.val s = some (i, c) ∧ b = startBudget (s.sess i) c ∧ x = { s.sess i with queued := (s.sess i).queued.erase c, encoding := some b.1, carry := b.2.toNat }) ∧
    (∃ (core : Fin 4) (res : _) (s : State) (i : _) (x : _) (e : _) (cut : _) (au : _) (u : State), i = getF (ENC_CORE_SESSION core.val) s ∧ getB (ENC_CORE_BUSY core.val) s = true ∧ x = s.sess i ∧ x.encoding = some e ∧ cut = cutRow x.cfg e res.rows ∧ au = accessUnit i x e cut res ∧ keepsBounds x e cut au.length res = true ∧ u = pictureDone core.val i e cut au res s) ∧
    (∃ (core : Fin 4) (res : _) (s : State) (i : _) (x : _) (e : _) (cut : _) (au : _) (u : State), i = getF (ENC_CORE_SESSION core.val) s ∧ getB (ENC_CORE_BUSY core.val) s = true ∧ x = s.sess i ∧ x.encoding = some e ∧ cut = cutRow x.cfg e res.rows ∧ au = accessUnit i x e cut res ∧ keepsBounds x e cut au.length res = true ∧ u = pictureDone core.val i e cut au res s) ∧
    (∃ (core : Fin 4) (res : _) (s : State) (i : _) (x : _) (e : _) (cut : _) (au : _), i = getF (ENC_CORE_SESSION core.val) s ∧ getB (ENC_CORE_BUSY core.val) s = true ∧ x = s.sess i ∧ x.encoding = some e ∧ cut = cutRow x.cfg e res.rows ∧ au = accessUnit i x e cut res ∧ keepsBounds x e cut au.length res = false) ∧
    (∃ (who : Who) (i : Fin 16) (s : State), answers (0x150 + sessPage i.val) s = true ∧ (isFw who || (decide ((s.sess i.val).state ≠ 0) && isPart who (s.sess i.val).owner)) = true) :=
  ⟨⟨tCmd 48 [], tOn [0x150, 0x60] [], _, 1, rfl, by decide +kernel⟩,
    ⟨tCmd 0 [], { tOn [0x150, 0x60] [] with enc := { sessions := [(0, { state := 1, owner := 8 })] } }, _, _, rfl, by decide +kernel, rfl, by decide +kernel⟩,
    ⟨0, { tOn [0x150, 0x60] [] with enc := { sessions := [(0, { state := 1 })] } }, by decide +kernel⟩,
    ⟨0, { tOn [0x150, 0x60] [] with enc := { sessions := [(0, { state := 1, queued := [{ (default : Capture) with done := false }] })] } }, { (default : Capture) with done := false }, _, _, by decide +kernel, rfl, rfl⟩,
    ⟨0, { tOn [0x150, 0x60] [] with enc := { sessions := [(0, { state := 1, queued := [{ (default : Capture) with done := true }] })] } }, 0, { (default : Capture) with done := true }, _, _, by decide +kernel, by decide +kernel, by decide +kernel, rfl, rfl⟩,
    ⟨0, ⟨[], [0, 0, 1, 0x02, 0x01, 0xD0], 0, [], ⟨[], [], []⟩⟩, { tOn [0x150, 0x60] [(0x150100, 0x80000000#32)] with enc := { sessions := [(0, { state := 2, auMin := 1000000, encoding := some ⟨{ (default : Capture) with done := true }, false, 0, 0, 0, true⟩ })] } }, _, _, ⟨{ (default : Capture) with done := true }, false, 0, 0, 0, true⟩, _, _, _, rfl, by decide +kernel, rfl, by decide +kernel, rfl, rfl, by decide +kernel, rfl⟩,
    ⟨0, ⟨[], [0, 0, 1, 0x02, 0x01, 0xD0], 0, [], ⟨[], [], []⟩⟩, { tOn [0x150, 0x60] [(0x150100, 0x80000000#32)] with enc := { sessions := [(0, { state := 1, auMin := 1000000, encoding := some ⟨{ (default : Capture) with done := true }, false, 0, 0, 0, true⟩ })] } }, _, _, ⟨{ (default : Capture) with done := true }, false, 0, 0, 0, true⟩, _, _, _, rfl, by decide +kernel, rfl, by decide +kernel, rfl, rfl, by decide +kernel, rfl⟩,
    ⟨0, ⟨[], [], 0, [], ⟨[], [], []⟩⟩, { tOn [0x150, 0x60] [(0x150100, 0x80000000#32)] with enc := { sessions := [(0, { state := 1, encoding := some ⟨{ (default : Capture) with done := true }, false, 0, 0, 0, true⟩ })] } }, _, _, ⟨{ (default : Capture) with done := true }, false, 0, 0, 0, true⟩, _, _, rfl, by decide +kernel, rfl, by decide +kernel, rfl, rfl, by decide +kernel⟩,
    ⟨.fw, 0, tOn [0x150, 0x60] [], by decide +kernel⟩⟩

abbrev tEnc : List Word := [0x01000000#32, 0x17410001, 0x00FC07E0, 0x00FC07E0, 0xF4240, 0xFFFFFFFF, 0, 0x03368000, 0, 0, 64]
/-- The size of a slice header is open (log 13); where AU_MIN fits the CPB, ENC_OPEN of this record is accepted. -/
theorem witness_EncodingCompletes_open (h : auMin (parseEnc (tCrc tEnc)) ≤ 0xFFFFFFFF) :
    ∃ (c : Cmd) (s t : State), t = markStarted 0x28 c s ∧ Served 0x28 c s ∧ SrcReads c 48 s ∧ encReason c.idx (srcWords c s) t = 0 := by
  refine ⟨tCmd 48 [], tMem 0 (tCrc tEnc) (tOn [0x150, 0x60] []), _, rfl, by decide +kernel, by decide +kernel, ?_⟩
  have w : srcWords (tCmd 48 []) (tMem 0 (tCrc tEnc) (tOn [0x150, 0x60] [])) = tCrc tEnc := by decide +kernel
  have u : encUsed (markStarted 0x28 (tCmd 48 []) (tMem 0 (tCrc tEnc) (tOn [0x150, 0x60] []))) = [] := by decide +kernel
  have r : (sessRoom (parseEnc (tCrc tEnc)) (markStarted 0x28 (tCmd 48 []) (tMem 0 (tCrc tEnc) (tOn [0x150, 0x60] [])))).isNone = false := by
    rw [sessRoom, u]; exact placeMany_four _ _ _ (by decide +kernel)
  have a : ¬(((parseEnc (tCrc tEnc)).picCap ≠ 0 ∧ (parseEnc (tCrc tEnc)).picCap < auMin (parseEnc (tCrc tEnc))) ∨
      (parseEnc (tCrc tEnc)).cpb < auMin (parseEnc (tCrc tEnc))) := by
    have p : (parseEnc (tCrc tEnc)).picCap = 0 := by decide +kernel
    have q : (parseEnc (tCrc tEnc)).cpb = 0xFFFFFFFF := by decide +kernel
    rw [p, q]; omega
  rw [w]; unfold encReason; extract_lets; rw [r, if_neg a]; decide +kernel

/-- The hypotheses of `Obligations.EgressFramesComplete` are met. -/
theorem witness_EgressFramesComplete :
    (∃ (c : Cmd) (s : State) (t : _) (i : _), t = markStarted 0x2A c s ∧ Served 0x2A c s ∧ c.argF 0 2 0 ≤ 4 ∧ (firstBelow 64 (fun i => decide ((t.sub i).open_ = false)) = some i)) ∧
    (∃ (c : Cmd) (s : State) (t : _), t = markStarted 0x2A c s ∧ Served 0x2A c s ∧ c.argF 0 2 0 ≤ 4 ∧ (firstBelow 64 (fun i => decide ((t.sub i).open_ = false)) = none)) ∧
    (∃ (c : Cmd) (s : State) (t : _) (i : _), t = markStarted 0x2B c s ∧ Served 0x2B c s ∧ i = c.argF 0 5 0 ∧ subOpen i t = true ∧ (t.sub i).owner = c.idx) ∧
    (∃ (c : Cmd) (s : State) (t : _) (q : _) (f : _), t = markStarted 0x2C c s ∧ Served 0x2C c s ∧ SrcReads c 24 s ∧ sendReason c (srcWords c s) t = 0 ∧ q = fieldAt (srcWords c s) 0 7 0 ∧ f = parseFrame c (srcWords c s) t) ∧
    (∃ (c : Cmd) (s : State) (t : _) (r : _), t = markStarted 0x2C c s ∧ Served 0x2C c s ∧ SrcReads c 24 s ∧ r = sendReason c (srcWords c s) t ∧ r ≠ 0) ∧
    (∃ (port : Fin 5) (u : State) (s : State) (q : _) (f : _) (x : _), isOn 0x158 u = true ∧ (u.eport port.val).sending = none ∧ portClaimed port.val u = false ∧ s = applyTicks u ∧ chooseFrame port.val s = (some (q, f), x)) ∧
    (∃ (port : Fin 5) (s : State) (x : _) (u : State), (s.eport port.val).sending = some x ∧ u = (s |> frameLeft port.val x |> sendDone x.frame.cmd) ∧ x.queue < 256 ∧ (u.sub (subOf x.queue)).close.isSome = true) ∧
    (∃ (port : Fin 5) (s : State) (x : _) (u : State), (s.eport port.val).sending = some x ∧ u = (s |> frameLeft port.val x |> sendDone x.frame.cmd) ∧ (256 ≤ x.queue ∨ (u.sub (subOf x.queue)).close = none)) ∧
    (∃ (who : Who) (s : State) (q : _), answers 0x158 s = true ∧ ownsWindow who q s = true) ∧
    (∃ (who : Who) (s : State) (q : _), answers 0x158 s = true ∧ ownsWindow who q s = false) ∧
    (∃ (who : Who) (s : State) (q : _), answers 0x158 s = true ∧ ownsWindow who true s = true ∧ q = getF EGR_QSEL_SEL s) ∧
    (∃ (s : State) (v : Word), answers 0x158 s = true ∧ v.toNat % 512 ≤ 0x104) :=
  ⟨⟨tCmd 0 [], tOn [0x158, 0x20] [], _, 0, rfl, by decide +kernel⟩,
    ⟨tCmd 0 [], { tOn [0x158, 0x20] [] with egr := { subs := (List.range 64).map (fun i => (i, { open_ := true })) } }, _, rfl, by decide +kernel⟩,
    ⟨tCmd 0 [], { tOn [0x158, 0x20] [] with egr := { subs := [(0, { open_ := true, owner := 8 })] } }, _, _, rfl, by decide +kernel, rfl, by decide +kernel⟩,
    ⟨tCmd 24 [], tMem 0 [0x01000000#32, 0, 14, 0, 0, 0] ({ tOn [0x158, 0x20] [(0x20100, 1600#32)] with egr := { subs := [(0, { open_ := true, owner := 8 })] } }), _, _, _, rfl, by decide +kernel, by decide +kernel, by decide +kernel, rfl, rfl⟩,
    ⟨tCmd 24 [], tOn [0x158, 0x20] [], _, 1, rfl, by decide +kernel⟩,
    ⟨0, { tOn [0x158, 0x20] [(0x158218, 0x3FC00000#32)] with egr := { subs := [(0, { open_ := true, owner := 8 })], queues := [(0, { cls := 0, frames := [⟨none, false, false, 8, 0, 14, 0, 0, 0, false, false, [], 0⟩] })] } }, applyTicks ({ tOn [0x158, 0x20] [(0x158218, 0x3FC00000#32)] with egr := { subs := [(0, { open_ := true, owner := 8 })], queues := [(0, { cls := 0, frames := [⟨none, false, false, 8, 0, 14, 0, 0, 0, false, false, [], 0⟩] })] } }), 0, ⟨none, false, false, 8, 0, 14, 0, 0, 0, false, false, [], 0⟩, (chooseFrame 0 (applyTicks ({ tOn [0x158, 0x20] [(0x158218, 0x3FC00000#32)] with egr := { subs := [(0, { open_ := true, owner := 8 })], queues := [(0, { cls := 0, frames := [⟨none, false, false, 8, 0, 14, 0, 0, 0, false, false, [], 0⟩] })] } }))).2, by decide +kernel⟩,
    ⟨0, { tOn [0x158, 0x20] [] with egr := { subs := [(0, { open_ := true, owner := 8, close := some tRef })], ports := [(0, { sending := some ⟨⟨none, false, false, 8, 0, 14, 0, 0, 0, false, false, [], 0⟩, 0, []⟩ })] } }, ⟨⟨none, false, false, 8, 0, 14, 0, 0, 0, false, false, [], 0⟩, 0, []⟩, _, by decide +kernel, rfl, by decide +kernel⟩,
    ⟨0, { tOn [0x158, 0x20] [] with egr := { subs := [(0, { open_ := true, owner := 8 })], ports := [(0, { sending := some ⟨⟨none, false, false, 8, 0, 14, 0, 0, 0, false, false, [], 0⟩, 0, []⟩ })] } }, ⟨⟨none, false, false, 8, 0, 14, 0, 0, 0, false, false, [], 0⟩, 0, []⟩, _, by decide +kernel, rfl, by decide +kernel⟩,
    ⟨.fw, tOn [0x158, 0x20] [], true, by decide +kernel⟩,
    ⟨.part 1, { tOn [0x158, 0x20] [] with egr := { subs := [(0, { open_ := true, owner := 8 })] } }, true, by decide +kernel⟩,
    ⟨.fw, tOn [0x158, 0x20] [], _, by decide +kernel, by decide +kernel, rfl⟩,
    ⟨tOn [0x158, 0x20] [], 0x104, by decide +kernel⟩⟩

/-- The hypotheses of `Obligations.EgressGatesComplete` are met. -/
theorem witness_EgressGatesComplete :
    (∃ (s : State), ticksDue s = 0) ∧
    (∃ (s : State) (n : _) (u : State), n = ticksDue s ∧ n ≠ 0 ∧ (u = each (List.range 256) (fun i t => t.setQueue i { t.queue i with bucket := tickBucket n (t.queue i).bucket }) (each (List.range 64) (fun i t => t.setSub i { t.sub i with bucket := tickBucket n (t.sub i).bucket }) s))) ∧
    (∃ (c : Cmd) (s : State) (t : _) (p : _), t = markStarted 0x2D c s ∧ Served 0x2D c s ∧ isOwner c.who 0x158 s = true ∧ p = c.argF 0 2 0 ∧ p ≤ 4 ∧ c.src.len % 4 = 0 ∧ c.src.len ≤ 4096 ∧ srcBad c s = false ∧ srcWords c s ≠ [] ∧ ((srcWords c s).any (fun w => decide (intervalOf w < 64)) = false) ∧ gatePending p s = false) ∧
    (∃ (who : Who) (port : Fin 5) (s : State), OwnerAccepted who 0x158 s ∧ gateReason port.val s ≠ 0) ∧
    (∃ (who : Who) (port : Fin 5) (s : State) (b : _) (cycle : _) (x : _), OwnerAccepted who 0x158 s ∧ gateReason port.val s = 0 ∧ b = getF (EGR_P_ABASE_LO port.val) s + getF (EGR_P_ABASE_HI port.val) s * 2 ^ 32 ∧ cycle = getF (EGR_P_ACYCLE_NS port.val) s ∧ x = (if tnsLe (soon s) b then b else (b + ceilDiv (diff64 (soon s) b).toNat cycle * cycle) % 2 ^ 64)) ∧
    (∃ (who : Who) (port : Fin 5) (s : State), OwnerAccepted who 0x158 s ∧ (gatePending port.val s && reached (changeTime port.val s) s) = false) ∧
    (∃ (who : Who) (port : Fin 5) (s : State), OwnerAccepted who 0x158 s ∧ (gatePending port.val s && reached (changeTime port.val s) s) = true) ∧
    (∃ (port : Fin 5) (s : State) (x : _), gatePending port.val s = true ∧ reached (changeTime port.val s) s = true ∧ x = s.eport port.val) ∧
    (∃ (port : Fin 5) (s : State) (x : _), x = s.eport port.val ∧ x.oper ≠ [] ∧ reached (entryEnd port.val s) s = true ∧ gatePending port.val s = false ∧ (cycleSegs x.operCycle 0 x.oper).length ≤ x.entry + 1) ∧
    (∃ (port : Fin 5) (s : State) (x : _), x = s.eport port.val ∧ x.oper ≠ [] ∧ reached (entryEnd port.val s) s = true ∧ gatePending port.val s = false ∧ x.entry + 1 < (cycleSegs x.operCycle 0 x.oper).length) ∧
    (∃ (port : Fin 5) (cls : Fin 8) (s : State), bitOf (getF (EGR_P_PAUSED_CLASSES port.val) s) cls.val = true ∧ reached (FMap.get 0 (s.eport port.val).pauseUntil cls.val) s = true) ∧
    (∃ (s : State) (u : State), reached s.egr.nextSample s = true ∧ (u = each (List.range 261) (fun i t => t.setQueue i (sampleQueue (now t) (t.queue i))) s)) :=
  ⟨⟨tOn [0x158, 0x20] [], by decide +kernel⟩,
    ⟨{ tOn [0x158, 0x20] [] with egr := { nextTick := 0 } }, _, _, rfl, by decide +kernel, rfl⟩,
    ⟨tCmd 4 [], tMem 0 [0xFF000040#32] (tOn [0x158, 0x20] []), _, _, rfl, by decide +kernel, by decide +kernel, rfl, by decide +kernel⟩,
    ⟨.fw, 0, tOn [0x158, 0x20] [], by decide +kernel⟩,
    ⟨.fw, 0, { tOn [0x158, 0x20] [(0x158210, 1000#32)] with egr := { ports := [(0, { admin := [0xFF000040#32] })] } }, _, _, _, by decide +kernel, by decide +kernel, rfl, rfl, rfl⟩,
    ⟨.fw, 0, tOn [0x158, 0x20] [], by decide +kernel⟩,
    ⟨.fw, 0, tOn [0x158, 0x20] [(0x158218, 0x40000000#32)], by decide +kernel⟩,
    ⟨0, tOn [0x158, 0x20] [(0x158218, 0x40000000#32)], _, by decide +kernel, by decide +kernel, rfl⟩,
    ⟨0, { tOn [0x158, 0x20] [] with egr := { ports := [(0, { oper := [0xFF000040#32], operCycle := 0 })] } }, _, rfl, by decide +kernel⟩,
    ⟨0, { tOn [0x158, 0x20] [] with egr := { ports := [(0, { oper := [0xFF000040#32, 0xFF000040#32], operCycle := 1000 })] }, tim := { s := 64 * 2 ^ 32 } }, _, rfl, by decide +kernel⟩,
    ⟨0, 7, tOn [0x158, 0x20] [(0x15822C, 0x80#32)], by decide +kernel⟩,
    ⟨{ tOn [0x158, 0x20] [] with egr := { nextSample := 0 } }, _, by decide +kernel, rfl⟩⟩

/-- The hypotheses of `Obligations.TimeWritesComplete` are met. -/
theorem witness_TimeWritesComplete :
    (∃ (who : Who) (s : State), OwnerAccepted who 0x10 s ∧ jumpAllowed s = true) ∧
    (∃ (who : Who) (s : State), OwnerAccepted who 0x10 s ∧ jumpAllowed s = false) ∧
    (∃ (who : Who) (s : State), OwnerAccepted who 0x10 s ∧ getB TIM_STAT_SEL_VALID s = false) ∧
    (∃ (who : Who) (s : State) (c : Fin 16) (x : _), OwnerAccepted who 0x10 s ∧ x = stagedSet c.val s ∧ getB TIM_STAT_SEL_VALID s = true ∧ x.mode = 1 ∧ tnsLe (soon s) x.start = true) ∧
    (∃ (who : Who) (s : State) (c : Fin 16) (x : _), OwnerAccepted who 0x10 s ∧ x = stagedSet c.val s ∧ getB TIM_STAT_SEL_VALID s = true ∧ x.mode = 1 ∧ tnsLe (soon s) x.start = false) ∧
    (∃ (who : Who) (s : State) (c : Fin 16) (x : _), OwnerAccepted who 0x10 s ∧ x = stagedSet c.val s ∧ getB TIM_STAT_SEL_VALID s = true ∧ x.mode = 2 ∧ 1000 ≤ x.periodNs.toNat) ∧
    (∃ (who : Who) (s : State) (c : Fin 16) (x : _) (e : _), OwnerAccepted who 0x10 s ∧ x = stagedSet c.val s ∧ getB TIM_STAT_SEL_VALID s = true ∧ x.mode = 3 ∧ (e = (((fixedFrames x.group s).filter (fun f => decide (f.1 % x.div = 0))).map (fun f => ofSigned 64 ((f.2 : Int) + toSigned 32 x.startLo.toNat))).filter (fun t => tnsLe (soon s) t))) ∧
    (∃ (d : Fin 2) (s : State), d.val ≠ domain s ∧ dValid d.val s = false) ∧
    (∃ (d : Fin 2) (s : State), d.val ≠ domain s ∧ dValid d.val s = true ∧ withinMax d.val s = false) ∧
    (∃ (d : Fin 2) (s : State), d.val ≠ domain s ∧ dValid d.val s = true ∧ withinMax d.val s = true) ∧
    (∃ (who : Who) (s : State), Accepted who 0x10 s) ∧
    (∃ (who : Who) (d : Fin 2) (s : State), Accepted who (0x11 + d.val) s ∧ servoWrites who d.val s = true ∧ blockState (0x11 + d.val) s ≠ 0) ∧
    (∃ (who : Who) (d : Fin 2) (s : State), Accepted who (0x11 + d.val) s ∧ servoWrites who d.val s = true ∧ blockState (0x11 + d.val) s = 0) ∧
    (∃ (who : Who) (d : Fin 2) (s : State), Accepted who (0x11 + d.val) s ∧ servoWrites who d.val s = false) :=
  ⟨⟨.fw, { tAt [(0x10, 2), (0x11, 2), (0x12, 2)] [] with tim := {  } }, by decide +kernel⟩,
    ⟨.fw, { tAt [(0x10, 2), (0x11, 2), (0x12, 2)] [(0x1041C, 0x80000000#32)] with tim := {  } }, by decide +kernel⟩,
    ⟨.fw, { tAt [(0x10, 2), (0x11, 2), (0x12, 2)] [] with tim := {  } }, by decide +kernel⟩,
    ⟨.fw, { tAt [(0x10, 2), (0x11, 2), (0x12, 2)] [(0x10104, 0x80000000#32), (0x10400, 0x40000000#32), (0x10404, 2000#32)] with tim := {  } }, 0, _, by decide +kernel, rfl, by decide +kernel⟩,
    ⟨.fw, { tAt [(0x10, 2), (0x11, 2), (0x12, 2)] [(0x10104, 0x80000000#32), (0x10400, 0x40000000#32), (0x10404, 1999#32)] with tim := {  } }, 0, _, by decide +kernel, rfl, by decide +kernel⟩,
    ⟨.fw, { tAt [(0x10, 2), (0x11, 2), (0x12, 2)] [(0x10104, 0x80000000#32), (0x10400, 0x80000000#32), (0x1040C, 1000#32)] with tim := {  } }, 0, _, by decide +kernel, rfl, by decide +kernel⟩,
    ⟨.fw, { tAt [(0x10, 2), (0x11, 2), (0x12, 2)] [(0x10104, 0x80000000#32), (0x10400, 0xC0000000#32), ] with tim := {  } }, 0, _, _, by decide +kernel, rfl, by decide +kernel, by decide +kernel, rfl⟩,
    ⟨1, { tAt [(0x10, 2), (0x11, 2), (0x12, 2)] [] with tim := {  } }, by decide +kernel⟩,
    ⟨1, { tAt [(0x10, 2), (0x11, 2), (0x12, 2)] [(0x12118, 1#32)] with tim := { domB := { count := 2 ^ 64 } } }, by decide +kernel⟩,
    ⟨1, { tAt [(0x10, 2), (0x11, 2), (0x12, 2)] [(0x12118, 1#32)] with tim := {  } }, by decide +kernel⟩,
    ⟨.fw, { tAt [(0x10, 2), (0x11, 2), (0x12, 2)] [] with tim := {  } }, by decide +kernel⟩,
    ⟨.fw, 0, { tAt [(0x10, 2), (0x11, 2), (0x12, 2)] [] with tim := {  } }, by decide +kernel⟩,
    ⟨.fw, 0, { tAt [(0x10, 2), (0x11, 0), (0x12, 0)] [] with tim := {  } }, by decide +kernel⟩,
    ⟨.fw, 0, { tAt [(0x10, 2), (0x11, 2), (0x12, 2)] [(0x11100, 0x80000#32)] with tim := {  } }, by decide +kernel⟩⟩

/-- The hypotheses of `Obligations.TimeEventsComplete` are met. -/
theorem witness_TimeEventsComplete :
    (∃ (s : State), (¬(blockState 0x10 s = 7 ∧ getF (PG_STAT_FAULT_CODE 0x10) s = 1)) ∧ earlyMode (tickSelected (tickDomains s)) = false) ∧
    (∃ (d : Fin 2) (s : State), runs (0x11 + d.val) s = true ∧ blockState 0x10 s ≠ 7) ∧
    (∃ (d : Fin 2) (p : Fin 5) (uni : Bool) (s : State) (u : State) (f : _), isOn (0x11 + d.val) s = true ∧ bitOf (getF (TIM_D_CFG_PORTS d.val) s) p.val = true ∧ (s.dom d.val).gm.isSome = true ∧ u = s.setDom d.val { s.dom d.val with seq := ((s.dom d.val).seq + 1) % 65536 } ∧ f = delayReqFrame d.val p.val (if uni then masterAddr d.val u else none) u) ∧
    (∃ (c : Fin 16) (s : State) (t : Nat), (earliest ((scheduled (s.timer c.val) ++ (s.timer c.val).cued).filter (fun t => reached t s)) = some t) ∧ runs 0x10 s = true) ∧
    (∃ (c : Fin 16) (s : State) (u : Nat), (s.timer c.val).activeUntil = some u ∧ reached u s = true) ∧
    (∃ (s : State), s.pwr.vhv = true ∧ getF (PG_STAT_STATE 0x10) s ≠ 7) ∧
    (∃ (s : State), s.pwr.vhv = true ∧ getF (PG_STAT_STATE 0x10) s = 7) :=
  ⟨⟨{ tAt [(0x10, 2), (0x11, 2), (0x12, 2)] [] with tim := {  } }, by decide +kernel⟩,
    ⟨1, { tAt [(0x10, 2), (0x11, 2), (0x12, 2)] [] with tim := {  } }, by decide +kernel⟩,
    ⟨0, 0, false, { tAt [(0x10, 2), (0x11, 2), (0x12, 2)] [(0x11100, 1#32)] with tim := { domA := { gm := some 0 } } }, _, _, by decide +kernel, by decide +kernel, by decide +kernel, rfl, rfl⟩,
    ⟨15, { tAt [(0x10, 2), (0x11, 2), (0x12, 2)] [] with tim := { timers := [(15, { cued := [0] })] } }, 0, by decide +kernel⟩,
    ⟨15, { tAt [(0x10, 2), (0x11, 2), (0x12, 2)] [] with tim := { timers := [(15, { activeUntil := some 0 })] } }, 0, by decide +kernel⟩,
    ⟨{ tAt [(0x10, 2), (0x11, 2), (0x12, 2)] [] with tim := {  } }, by decide +kernel⟩,
    ⟨{ tAt [(0x10, 7), (0x11, 2), (0x12, 2)] [] with tim := {  } }, by decide +kernel⟩⟩

/-- The hypotheses of `Obligations.CueCommandsComplete` are met. -/
theorem witness_CueCommandsComplete :
    (∃ (c : Cmd) (s : State) (t : _), s.fwu.pause = false ∧ t = markStarted 0x30 c s ∧ Served 0x30 c s ∧ srcBad c s = false ∧ c.src.len = 32 + 16 * fieldAt (srcWords c s) 0 12 0 ∧ cueTarget (srcWords c s) < 8 ∧ cueReason (c.idx % 8) (srcWords c s) t = 0) ∧
    (∃ (c : Cmd) (s : State) (t : _) (r : _), s.fwu.pause = false ∧ t = markStarted 0x30 c s ∧ Served 0x30 c s ∧ srcBad c s = false ∧ c.src.len = 32 + 16 * fieldAt (srcWords c s) 0 12 0 ∧ r = cueReason (c.idx % 8) (srcWords c s) t ∧ r ≠ 0) ∧
    (∃ (c : Cmd) (s : State) (t : _) (l : _), s.fwu.pause = false ∧ t = markStarted 0x31 c s ∧ Served 0x31 c s ∧ l = c.argF 0 2 0 ∧ (t.cueList l).state = 0) ∧
    (∃ (c : Cmd) (s : State) (t : _) (l : _), s.fwu.pause = false ∧ t = markStarted 0x31 c s ∧ Served 0x31 c s ∧ l = c.argF 0 2 0 ∧ (t.cueList l).state ≠ 0 ∧ (t.cueList l).owner = c.idx % 8) ∧
    (∃ (c : Cmd) (s : State) (t : _) (l : _), s.fwu.pause = false ∧ t = markStarted 0x31 c s ∧ Served 0x31 c s ∧ l = c.argF 0 2 0 ∧ (t.cueList l).state ≠ 0 ∧ (t.cueList l).owner ≠ c.idx % 8) ∧
    (∃ (c : Cmd) (s : State) (t : _) (i : _), t = markStarted 0x32 c s ∧ Served 0x32 c s ∧ SrcReads c 48 s ∧ winReason (srcWords c s) = 0 ∧ i = c.argF 0 7 0 ∧ ((FMap.get none t.cue.presets i).any (fun x => decide (x.owner ≠ c.idx % 8)) = false)) ∧
    (∃ (c : Cmd) (s : State) (t : _), t = markStarted 0x32 c s ∧ Served 0x32 c s ∧ SrcReads c 48 s ∧ winReason (srcWords c s) ≠ 0) ∧
    (∃ (l : Fin 8) (s : State) (e : _), s.fwu.pause = false ∧ skippable l.val s = some e) :=
  ⟨⟨tCmd 48 [], tMem 0 [0x01400001#32, 0, 0, 0, 0, 0, 0, crcWords [0x01400001#32, 0, 0, 0, 0, 0, 0, 0, 0, 0, 0], 0, 0, 0, 0] (tOn [0x18] [(0x10104, 0x80000000#32)]), _, by decide +kernel, rfl, by decide +kernel⟩,
    ⟨tCmd 32 [], tOn [0x18] [], _, 1, by decide +kernel, rfl, by decide +kernel⟩,
    ⟨tCmd 0 [], tOn [0x18] [], _, _, by decide +kernel, rfl, by decide +kernel, rfl, by decide +kernel⟩,
    ⟨tCmd 0 [], { tOn [0x18] [] with cue := { lists := [(0, { state := 1 })] } }, _, _, by decide +kernel, rfl, by decide +kernel, rfl, by decide +kernel⟩,
    ⟨tCmd 0 [], { tOn [0x18] [] with cue := { lists := [(0, { state := 1, owner := 7 })] } }, _, _, by decide +kernel, rfl, by decide +kernel, rfl, by decide +kernel⟩,
    ⟨tCmd 48 [], tMem 0 (tCrc [0x01000000#32, 0, 0, 0, 0, 0, 0, 0, 0, 0, 0]) (tOn [0x18] []), _, _, rfl, by decide +kernel, by decide +kernel, by decide +kernel, rfl, by decide +kernel⟩,
    ⟨tCmd 48 [], tOn [0x18] [], _, rfl, by decide +kernel⟩,
    ⟨7, { tOn [0x18] [] with cue := { lists := [(7, { state := 1, entries := [⟨0, 0, 0, 0⟩] })] } }, (0, 0), by decide +kernel⟩⟩

/-- The hypotheses of `Obligations.RimCommandsComplete` are met. -/
theorem witness_RimCommandsComplete :
    (∃ (c : Cmd) (s : State) (t : _) (i : _), t = markStarted 0x38 c s ∧ Served 0x38 c s ∧ SrcReads c 1156 s ∧ i = c.argF 0 7 0 ∧ crcWords ((srcWords c s).take 288) = (srcWords c s).getD 288 0 ∧ (FMap.get 0 t.rim.storeOwner i = 0 ∨ FMap.get 0 t.rim.storeOwner i = c.idx + 1)) ∧
    (∃ (c : Cmd) (s : State) (t : _) (c0 : _) (c1 : _) (s0 : _) (s1 : _) (r : _), t = markStarted 0x39 c s ∧ Served 0x39 c s ∧ c0 = c.argF 0 28 24 ∧ c1 = c.argF 0 20 16 ∧ s0 = c.argF 0 15 8 ∧ s1 = c.argF 0 7 0 ∧ c0 ≤ c1 ∧ c1 ≤ 23 ∧ s0 ≤ s1 ∧ s1 ≤ 191 ∧ ((List.range 16).any (fun r => rimOpen r t && rimOverlap (c0, c1, s0, s1) (rimRect r t)) = false) ∧ (firstBelow 16 (fun r => !rimOpen r t) = some r)) ∧
    (∃ (c : Cmd) (s : State) (t : _) (r : _), t = markStarted 0x3A c s ∧ Served 0x3A c s ∧ r = c.argF 0 3 0 ∧ rimOpen r t = true ∧ (c.idx = 8 ∨ getF (RIM_RGN_STAT_OWNER r) t = c.idx) ∧ t.rimQ r = []) ∧
    (∃ (c : Cmd) (s : State) (t : _) (r : _), t = markStarted 0x3A c s ∧ Served 0x3A c s ∧ r = c.argF 0 3 0 ∧ rimOpen r t = true ∧ (c.idx = 8 ∨ getF (RIM_RGN_STAT_OWNER r) t = c.idx) ∧ t.rimQ r ≠ []) ∧
    (∃ (c : Cmd) (s : State) (t : _) (r : _), t = markStarted 0x3B c s ∧ Served 0x3B c s ∧ r = c.argF 0 3 0 ∧ rimOpen r t = true ∧ (c.idx = 8 ∨ getF (RIM_RGN_STAT_OWNER r) t = c.idx) ∧ t.rimQ r = []) ∧
    (∃ (c : Cmd) (s : State) (t : _) (r : _), t = markStarted 0x3B c s ∧ Served 0x3B c s ∧ r = c.argF 0 3 0 ∧ rimOpen r t = true ∧ (c.idx = 8 ∨ getF (RIM_RGN_STAT_OWNER r) t = c.idx) ∧ t.rimQ r ≠ []) ∧
    (∃ (c : Cmd) (s : State) (t : _), t = markStarted 0x3C c s ∧ mayStart 0x3C c s = true) ∧
    (∃ (c : Cmd) (s : State) (t : _), t = markStarted 0x3D c s ∧ Served 0x3D c s ∧ SrcReads c 132 s ∧ isOwner c.who 0x180 t = true ∧ bandTableOk (decide (getF RIM_CFG_INVERT t = 2)) (srcWords c s) = true) ∧
    (∃ (c : Cmd) (s : State) (t : _), t = markStarted 0x3E c s ∧ Served 0x3E c s) :=
  ⟨⟨tCmd 1156 [], { tOn [0x180] [] with hbm := (wordsBytes [crcWords (List.replicate 288 0#32)]).zipIdx.map (fun e => (1152 + e.2, e.1)) }, _, _, rfl, by decide +kernel, by decide +kernel, rfl, by decide +kernel⟩,
    ⟨tCmd 0 [], tOn [0x180] [], _, _, _, _, _, 0, rfl, by decide +kernel, rfl, rfl, rfl, rfl, by decide +kernel⟩,
    ⟨{ tCmd 0 [] with who := .part 7 }, tOn [0x180] [(0x180400, 0x78000000#32)], _, _, rfl, by decide +kernel, rfl, by decide +kernel⟩,
    ⟨{ tCmd 0 [] with who := .part 7 }, { tOn [0x180] [(0x180400, 0x78000000#32)] with rim := { queues := [(0, [⟨none, [], false⟩])] } }, _, _, rfl, by decide +kernel, rfl, by decide +kernel⟩,
    ⟨{ tCmd 0 [] with who := .part 7 }, tOn [0x180] [(0x180400, 0x78000000#32)], _, _, rfl, by decide +kernel, rfl, by decide +kernel⟩,
    ⟨{ tCmd 0 [] with who := .part 7 }, { tOn [0x180] [(0x180400, 0x78000000#32)] with rim := { queues := [(0, [⟨none, [], false⟩])] } }, _, _, rfl, by decide +kernel, rfl, by decide +kernel⟩,
    ⟨tCmd 0 [], tOn [0x180] [], _, rfl, by decide +kernel⟩,
    ⟨tCmd 132 [], tMem 0 (tCrc ([0xEC460001#32, 0, 0, 0x00200401] ++ List.replicate 28 0)) (tOn [0x180] []), _, rfl, by decide +kernel⟩,
    ⟨tCmd 0 [], tOn [0x180] [], _, rfl, by decide +kernel⟩⟩

/-- The hypotheses of `Obligations.RimEventsComplete` are met. -/
theorem witness_RimEventsComplete :
    (∃ (s : State) (r : _) (c : Nat) (ws : _) (u : State), s.rim.line = some (r, c) ∧ r < 16 ∧ ws = lineWords r c s ∧ u = (commitLine c ws { s with rim := { s.rim with line := none } } |> setF RIM_STAT_LINE 31) ∧ (rimRect r { u with rim := { u.rim with served := r } }).2.1 ≤ c) ∧
    (∃ (s : State) (r : _) (c : Nat) (ws : _) (u : State), s.rim.line = some (r, c) ∧ r < 16 ∧ ws = lineWords r c s ∧ u = (commitLine c ws { s with rim := { s.rim with line := none } } |> setF RIM_STAT_LINE 31) ∧ c < (rimRect r { u with rim := { u.rim with served := r } }).2.1) ∧
    (∃ (s : State) (c : Nat) (ws : _) (u : State), s.rim.line = some (16, c) ∧ ws = lineWords 16 c s ∧ u = (commitLine c ws { s with rim := { s.rim with line := none } } |> setF RIM_STAT_LINE 31)) ∧
    (∃ (s : State), getB RIM_STAT_BOOST_ON s = true) ∧
    (∃ (s : State), rimBusy s = false ∧ s.rim.line = none ∧ s.rim.restore = none) ∧
    (∃ (r : Conversion) (s : State) (u : State), u = ({ s with rim := { s.rim with convAsked := false } } |> setF RIM_VSUP_VHV r.vhv |> setF RIM_VSUP_VHOLD r.vhold |> setF RIM_VRIM_VRIM r.vrim) ∧ 41 ≤ r.ntc ∧ r.ntc ≤ 4055) ∧
    (∃ (r : Conversion) (s : State) (u : State), u = ({ s with rim := { s.rim with convAsked := false } } |> setF RIM_VSUP_VHV r.vhv |> setF RIM_VSUP_VHOLD r.vhold |> setF RIM_VRIM_VRIM r.vrim) ∧ (r.ntc < 41 ∨ 4055 < r.ntc)) ∧
    (∃ (s : State), mayPersist s = true ∧ newestCopy s = none) ∧
    (∃ (s : State) (b : _) (k : _), mayPersist s = true ∧ newestCopy s = some (b, k)) ∧
    (∃ (s : State) (c : RimCopy) (cmds : _) (b : _), s.rim.writing = some (b, c, cmds)) ∧
    (∃ (s : State), s.rim.restoreDone = false ∧ isOn 0x180 s = true ∧ getB RIM_STAT_INHIBIT s = false ∧ newestCopy s = none) ∧
    (∃ (s : State) (b : _) (k : _) (u : State), s.rim.restoreDone = false ∧ isOn 0x180 s = true ∧ getB RIM_STAT_INHIBIT s = false ∧ newestCopy s = some (b, k) ∧ u = (s |> setB RIM_CFG_LEVELS k.levels |> setF RIM_PSEQ k.seq.toNat)) :=
  ⟨⟨{ tOn [0x180] [] with rim := { line := some (0, 0) } }, 0, 0, _, _, by decide +kernel, by decide +kernel, rfl, rfl, by decide +kernel⟩,
    ⟨{ tOn [0x180] [(0x180404, 0x00010000#32)] with rim := { line := some (0, 0) } }, 0, 0, _, _, by decide +kernel, by decide +kernel, rfl, rfl, by decide +kernel⟩,
    ⟨{ tOn [0x180] [] with rim := { line := some (16, 0) } }, 0, _, _, by decide +kernel, rfl, rfl⟩,
    ⟨tOn [0x180] [(0x180104, 0x80000000#32)], by decide +kernel⟩,
    ⟨tOn [0x180] [], by decide +kernel⟩,
    ⟨⟨4055, 0, 0, 0⟩, tOn [0x180] [], _, rfl, by decide +kernel⟩,
    ⟨⟨40, 0, 0, 0⟩, tOn [0x180] [], _, rfl, Or.inl (by decide)⟩,
    ⟨{ tOn [0x180] [] with rim := { restoreDone := true } }, by decide +kernel⟩,
    ⟨{ tOn [0x180] [] with rim := { restoreDone := true, copyA := some ⟨[], 0, false, true⟩ } }, false, ⟨[], 0, false, true⟩, by decide +kernel⟩,
    ⟨{ tOn [0x180] [] with rim := { writing := some (false, ⟨[], 0, false, true⟩, []) } }, ⟨[], 0, false, true⟩, [], false, by decide +kernel⟩,
    ⟨tOn [0x180] [(0x180104, 0#32)], by decide +kernel⟩,
    ⟨{ tOn [0x180] [(0x180104, 0#32)] with rim := { copyA := some ⟨[], 0, false, true⟩ } }, false, ⟨[], 0, false, true⟩, _, by decide +kernel, by decide +kernel, by decide +kernel, by decide +kernel, rfl⟩⟩

/-- The hypotheses of `Obligations.CameraFramesComplete` are met. -/
theorem witness_CameraFramesComplete :
    (∃ (p : Fin 2) (vc : _) (s : State) (k : _), isOn (0x160 + p.val) s = true ∧ sensorOf p.val vc s = some k) ∧
    (∃ (p : Fin 2) (l : CsiLineIn) (s : State) (k : _) (f : _), runs (0x160 + p.val) s = true ∧ l.phyError = false ∧ l.crcOk = true ∧ l.eccBad = false ∧ l.overrun = false ∧ sensorOf p.val l.vc s = some k ∧ l.dt = (if getB (CAM_S_CFG_RAW12 k) s then 0x2C else 0x2B) ∧ (s.sensor k).frame = some f ∧ f.lines.length < getF (CAM_S_SIZE_H k) s ∧ l.samples.length = getF (CAM_S_SIZE_W k) s) ∧
    (∃ (p : Fin 2) (vc : _) (s : State) (k : _) (f : _), runs (0x160 + p.val) s = true ∧ sensorOf p.val vc s = some k ∧ (s.sensor k).frame = some f) ∧
    (∃ (o : Fin 8) (s : State) (f : _) (t : _) (b : _) (u : State), FMap.get none s.cam.due o.val = some f ∧ t = { s with cam := { s.cam with due := FMap.set none s.cam.due o.val none } } ∧ nextOutBuf o.val t = some b ∧ u = (t |> writeOutput o.val (outAddr o.val b t) (pipeline f) |> setF (CAM_O_STAT_LAST_BUF o.val) b |> setF (CAM_O_STAT_FLAGS o.val) f.flags |> setF (CAM_O_STAT_VALID o.val) 1 |> setF (CAM_O_FCOUNT o.val) f.fcount |> orF CAM_O_CAUSE_DONE (2 ^ o.val) |> refreshCam) ∧ outYc o.val t = true) ∧
    (∃ (o : Fin 8) (s : State) (f : _) (t : _) (b : _) (u : State), FMap.get none s.cam.due o.val = some f ∧ t = { s with cam := { s.cam with due := FMap.set none s.cam.due o.val none } } ∧ nextOutBuf o.val t = some b ∧ u = (t |> writeOutput o.val (outAddr o.val b t) (pipeline f) |> setF (CAM_O_STAT_LAST_BUF o.val) b |> setF (CAM_O_STAT_FLAGS o.val) f.flags |> setF (CAM_O_STAT_VALID o.val) 1 |> setF (CAM_O_FCOUNT o.val) f.fcount |> orF CAM_O_CAUSE_DONE (2 ^ o.val) |> refreshCam) ∧ outYc o.val t = false) ∧
    (∃ (o : Fin 8) (s : State) (f : _) (t : _), FMap.get none s.cam.due o.val = some f ∧ t = { s with cam := { s.cam with due := FMap.set none s.cam.due o.val none } } ∧ nextOutBuf o.val t = none) ∧
    (∃ (p : Fin 2) (s : State) (u : Nat), FMap.get none s.cam.trig p.val = some u ∧ reached u s = true) ∧
    (∃ (who : Who) (k : Fin 8) (v : Word) (s : State), OwnerAccepted who 0x160 s ∧ getB (CAM_S_CFG_EN k.val) s = false ∧ bitOf v.toNat 31 = true ∧ sensorOf (bitsOf v.toNat 30 30) (bitsOf v.toNat 29 26) s = none) ∧
    (∃ (who : Who) (k : Fin 8) (v : Word) (s : State) (k' : _), OwnerAccepted who 0x160 s ∧ getB (CAM_S_CFG_EN k.val) s = false ∧ bitOf v.toNat 31 = true ∧ sensorOf (bitsOf v.toNat 30 30) (bitsOf v.toNat 29 26) s = some k') ∧
    (∃ (who : Who) (o : Fin 8) (v : Word) (s : State), OwnerAccepted who 0x160 s ∧ getB (CAM_O_CFG_EN o.val) s = true ∧ bitOf v.toNat 31 = false) ∧
    (∃ (who : Who) (o : Fin 8) (v : Word) (s : State), OwnerAccepted who 0x160 s ∧ getB (CAM_O_CFG_EN o.val) s = false ∧ bitOf v.toNat 31 = true ∧ badOutput o.val (bitsOf v.toNat 30 28) s = false) :=
  ⟨⟨0, 0, { tAt [(0x160, 2), (0x161, 2), (0x170, 2), (0x171, 2), (0x172, 2), (0x173, 2)] [(0x160400, 0x80000000#32)] with cam := {  } }, 0, by decide +kernel⟩,
    ⟨0, { vc := 0, dt := 0x2B, samples := [0], crcOk := true, eccBad := false, overrun := false, phyError := false }, { tAt [(0x160, 2), (0x161, 2), (0x170, 2), (0x171, 2), (0x172, 2), (0x173, 2)] [(0x160400, 0x80000000#32), (0x160404, 0x00010001#32)] with cam := { sensors := [(0, { frame := some (default : CamFrame) })] } }, 0, (default : CamFrame), by decide +kernel⟩,
    ⟨0, 0, { tAt [(0x160, 2), (0x161, 2), (0x170, 2), (0x171, 2), (0x172, 2), (0x173, 2)] [(0x160400, 0x80000000#32)] with cam := { sensors := [(0, { frame := some (default : CamFrame) })] } }, 0, (default : CamFrame), by decide +kernel⟩,
    ⟨0, { tAt [(0x160, 2), (0x161, 2), (0x170, 2), (0x171, 2), (0x172, 2), (0x173, 2)] [] with cam := { due := [(0, some (default : CamFrame))] } }, (default : CamFrame), _, 0, _, by decide +kernel, rfl, by decide +kernel, rfl, by decide +kernel⟩,
    ⟨0, { tAt [(0x160, 2), (0x161, 2), (0x170, 2), (0x171, 2), (0x172, 2), (0x173, 2)] [(0x160800, 0x08000000#32)] with cam := { due := [(0, some (default : CamFrame))] } }, (default : CamFrame), _, 0, _, by decide +kernel, rfl, by decide +kernel, rfl, by decide +kernel⟩,
    ⟨0, { tAt [(0x160, 2), (0x161, 2), (0x170, 2), (0x171, 2), (0x172, 2), (0x173, 2)] [] with cam := { due := [(0, some (default : CamFrame))], reading := [(0, true), (1, true), (2, true), (3, true), (4, true), (5, true), (6, true), (7, true), (8, true)] } }, (default : CamFrame), _, by decide +kernel, rfl, by decide +kernel⟩,
    ⟨1, { tAt [(0x160, 2), (0x161, 2), (0x170, 2), (0x171, 2), (0x172, 2), (0x173, 2)] [] with cam := { trig := [(1, some 0)] } }, 0, by decide +kernel⟩,
    ⟨.fw, 7, 0x80000000, { tAt [(0x160, 2), (0x161, 2), (0x170, 2), (0x171, 2), (0x172, 2), (0x173, 2)] [] with cam := {  } }, by decide +kernel⟩,
    ⟨.fw, 1, 0x80000000, { tAt [(0x160, 2), (0x161, 2), (0x170, 2), (0x171, 2), (0x172, 2), (0x173, 2)] [(0x160400, 0x80000000#32)] with cam := {  } }, 0, by decide +kernel⟩,
    ⟨.fw, 0, 0, { tAt [(0x160, 2), (0x161, 2), (0x170, 2), (0x171, 2), (0x172, 2), (0x173, 2)] [(0x160800, 0x80000000#32)] with cam := {  } }, by decide +kernel⟩,
    ⟨.fw, 0, 0x80000000, { tAt [(0x160, 2), (0x161, 2), (0x170, 2), (0x171, 2), (0x172, 2), (0x173, 2)] [(0x160404, 0x00400040#32), (0x160808, 0x003F003F#32), (0x16080C, 0x003F003F#32)] with cam := {  } }, by decide +kernel⟩⟩

/-- The hypotheses of `Obligations.CameraCommandsComplete` are met. -/
theorem witness_CameraCommandsComplete :
    (∃ (c : Cmd) (s : State) (t : _) (p : _), t = markStarted 0x40 c s ∧ Served 0x40 c s ∧ isOwner c.who 0x160 t = true ∧ p = c.argF 0 16 16 ∧ (c.argF 0 31 31 = 0 ∨ cccSupported.contains (c.argF 0 7 0) = true) ∧ c.argF 0 30 30 = 1 ∧ c.dst.len ≤ 256) ∧
    (∃ (c : Cmd) (s : State) (t : _) (p : _), t = markStarted 0x40 c s ∧ Served 0x40 c s ∧ isOwner c.who 0x160 t = true ∧ p = c.argF 0 16 16 ∧ (c.argF 0 31 31 = 0 ∨ cccSupported.contains (c.argF 0 7 0) = true) ∧ c.argF 0 30 30 = 0 ∧ c.src.len ≤ 256 ∧ srcBad c t = false) ∧
    (∃ (p : Fin 2) (s : State) (h : _) (r : _) (t : _), runs (0x160 + p.val) s = true ∧ s.i3cq p.val = h :: r ∧ h.running = true ∧ t = emit (.i3c p.val [Word.ofNat (h.cmd.arg 0)] h.bytes) s ∧ h.cmd.argF 0 30 30 = 0) ∧
    (∃ (p : Fin 2) (s : State) (h : _) (r : _) (t : _), runs (0x160 + p.val) s = true ∧ s.i3cq p.val = h :: r ∧ h.running = true ∧ t = emit (.i3c p.val [Word.ofNat (h.cmd.arg 0)] h.bytes) s ∧ h.cmd.argF 0 30 30 = 1 ∧ dstBad h.cmd t = false) ∧
    (∃ (p : Fin 2) (s : State) (h : _) (r : _) (t : _), runs (0x160 + p.val) s = true ∧ s.i3cq p.val = h :: r ∧ h.running = true ∧ t = emit (.i3c p.val [Word.ofNat (h.cmd.arg 0)] h.bytes) s ∧ h.retried = false) ∧
    (∃ (p : Fin 2) (s : State) (h : _) (r : _) (t : _), runs (0x160 + p.val) s = true ∧ s.i3cq p.val = h :: r ∧ h.running = true ∧ t = emit (.i3c p.val [Word.ofNat (h.cmd.arg 0)] h.bytes) s ∧ h.retried = true) ∧
    (∃ (p : Fin 2) (s : State), isOn (0x160 + p.val) s = true) ∧
    (∃ (c : Cmd) (s : State) (t : _) (ws : _) (k : _) (n : _) (tg : _) (u : _) (e : ExpSet), t = markStarted 0x41 c s ∧ Served 0x41 c s ∧ isOwner c.who 0x160 t = true ∧ srcBad c t = false ∧ ws = srcWords c t ∧ k = fieldAt ws 0 23 21 ∧ n = fieldAt ws 0 4 0 ∧ tg = wordAt ws 2 ∧ badSet ws = false ∧ getB (CAM_S_CFG_EN k) t = true ∧ (u = each ((t.sensor k).sets.filter (fun e => decide (e.target = tg) && !e.started)) (fun e => complete true e.cmd COALESCED 0 0 0) (t.setSensor k { t.sensor k with sets := (t.sensor k).sets.filter (fun e => decide (e.target ≠ tg) || e.started) })) ∧ (u.sensor k).sets.length < 16 ∧ (e = { cmd := refOf 0x41 c, id := fieldAt ws 1 31 16, w16 := decide (fieldAt ws 1 0 0 = 1), target := tg, writes := (List.range n).map (fun i => (fieldAt ws (3 + i) 31 16, fieldAt ws (3 + i) 15 0)), slot := (slotFor k tg u).1, missed := (slotFor k tg u).2, started := false })) ∧
    (∃ (k : Fin 8) (s : State) (e : _) (v : Bool → State), ((s.sensor k.val).sets.find? (fun e => e.started) = some e) ∧ (∀ ack, v ack = (sendSet (getF (CAM_S_CFG_PORT k.val) s) k.val e ack s |> State.setSensor k.val { s.sensor k.val with sets := dropFirst (fun y => y.started) (s.sensor k.val).sets, applied := (s.sensor k.val).applied ++ [((e.slot + getF (CAM_S_CFG_LATENCY k.val) s) % 2 ^ 32, e.id, !ack)] } |> showSensor k.val))) ∧
    (∃ (k : Fin 8) (s : State) (z : _), slotEnd k.val s = some z ∧ slotOpen k.val s = true ∧ reached z s = true) ∧
    (∃ (c : Cmd) (s : State) (t : _) (k : _), t = markStarted 0x42 c s ∧ Served 0x42 c s ∧ isOwner c.who 0x160 t = true ∧ srcBad c t = false ∧ c.src.len ≤ 16384 ∧ c.src.len % 4 = 0 ∧ k = c.argF 0 2 0) ∧
    (∃ (c : Cmd) (s : State) (t : _) (k : _) (l : _), t = markStarted 0x43 c s ∧ Served 0x43 c s ∧ isOwner c.who 0x160 t = true ∧ SrcReads c 2048 s ∧ k = c.argF 0 2 0 ∧ (l = (srcWords c s).flatMap (fun w => [w.toNat % 65536, w.toNat / 65536])) ∧ c.argF 0 5 4 ≠ 3 ∧ (l.any (fun x => decide (1023 < x)) = false)) ∧
    (∃ (c : Cmd) (s : State) (t : _) (ws : _) (k : _) (n : _), t = markStarted 0x44 c s ∧ Served 0x44 c s ∧ isOwner c.who 0x160 t = true ∧ srcBad c t = false ∧ ws = srcWords c t ∧ k = fieldAt ws 0 23 21 ∧ n = fieldAt ws 0 6 0 ∧ n ≤ 64 ∧ c.src.len = 4 * (2 + 2 * n) ∧ crcWords (ws.take (1 + 2 * n)) = ws.getD (1 + 2 * n) 0 ∧ fieldAt ws 0 31 24 = 1) :=
  ⟨⟨{ tCmd 0 [0x40000000] with dst := ⟨1, 0, 256⟩ }, { tAt [(0x160, 2), (0x161, 2), (0x170, 2), (0x171, 2), (0x172, 2), (0x173, 2)] [] with cam := {  } }, _, _, rfl, by decide +kernel, by decide +kernel, rfl, by decide +kernel⟩,
    ⟨tCmd 256 [0], { tAt [(0x160, 2), (0x161, 2), (0x170, 2), (0x171, 2), (0x172, 2), (0x173, 2)] [] with cam := {  } }, _, _, rfl, by decide +kernel, by decide +kernel, rfl, by decide +kernel⟩,
    ⟨0, { tAt [(0x160, 2), (0x161, 2), (0x170, 2), (0x171, 2), (0x172, 2), (0x173, 2)] [] with cam := { i3c := [(0, [⟨tCmd 0 [], [], false, true⟩])] } }, ⟨tCmd 0 [], [], false, true⟩, [], _, by decide +kernel, by decide +kernel, by decide +kernel, rfl, by decide +kernel⟩,
    ⟨0, { tAt [(0x160, 2), (0x161, 2), (0x170, 2), (0x171, 2), (0x172, 2), (0x173, 2)] [] with cam := { i3c := [(0, [⟨tCmd 0 [0x40000000], [], false, true⟩])] } }, ⟨tCmd 0 [0x40000000], [], false, true⟩, [], _, by decide +kernel, by decide +kernel, by decide +kernel, rfl, by decide +kernel⟩,
    ⟨0, { tAt [(0x160, 2), (0x161, 2), (0x170, 2), (0x171, 2), (0x172, 2), (0x173, 2)] [] with cam := { i3c := [(0, [⟨tCmd 0 [], [], false, true⟩])] } }, ⟨tCmd 0 [], [], false, true⟩, [], _, by decide +kernel, by decide +kernel, by decide +kernel, rfl, by decide +kernel⟩,
    ⟨0, { tAt [(0x160, 2), (0x161, 2), (0x170, 2), (0x171, 2), (0x172, 2), (0x173, 2)] [] with cam := { i3c := [(0, [⟨tCmd 0 [], [], true, true⟩])] } }, ⟨tCmd 0 [], [], true, true⟩, [], _, by decide +kernel, by decide +kernel, by decide +kernel, rfl, by decide +kernel⟩,
    ⟨1, { tAt [(0x160, 2), (0x161, 2), (0x170, 2), (0x171, 2), (0x172, 2), (0x173, 2)] [] with cam := {  } }, by decide +kernel⟩,
    ⟨tCmd 20 [], tMem 0 (tCrc [0x01000001#32, 0, 0, 0]) ({ tAt [(0x160, 2), (0x161, 2), (0x170, 2), (0x171, 2), (0x172, 2), (0x173, 2)] [(0x160400, 0x80000000#32)] with cam := {  } }), _, _, _, _, _, _, _, rfl, by decide +kernel, by decide +kernel, by decide +kernel, rfl, rfl, rfl, rfl, by decide +kernel, by decide +kernel, rfl, by decide +kernel, rfl⟩,
    ⟨0, { tAt [(0x160, 2), (0x161, 2), (0x170, 2), (0x171, 2), (0x172, 2), (0x173, 2)] [] with cam := { sensors := [(0, { sets := [⟨tRef, 0, false, 0, [], 0, false, true⟩] })] } }, ⟨tRef, 0, false, 0, [], 0, false, true⟩, _, by decide +kernel, fun _ => rfl⟩,
    ⟨0, { tAt [(0x160, 2), (0x161, 2), (0x170, 2), (0x171, 2), (0x172, 2), (0x173, 2)] [(0x160400, 0x80000000#32)] with cam := { sensors := [(0, { seen := 2 })] } }, 0, by decide +kernel⟩,
    by refine ⟨tCmd 16384 [], { tAt [(0x160, 2), (0x161, 2), (0x170, 2), (0x171, 2), (0x172, 2), (0x173, 2)] [] with cam := {  } }, _, _, rfl, ?_, ?_, ?_, ?_, ?_, rfl⟩ <;> decide +kernel,
    ⟨tCmd 2048 [], { tAt [(0x160, 2), (0x161, 2), (0x170, 2), (0x171, 2), (0x172, 2), (0x173, 2)] [] with cam := {  } }, _, _, _, rfl, by decide +kernel, by decide +kernel, by decide +kernel, rfl, rfl, by decide +kernel, by
      refine List.any_eq_false.2 ?_
      intro x hx
      obtain ⟨w, hw, hx⟩ := List.mem_flatMap.1 hx
      rw [srcWords_zero _ _ _ rfl rfl (by decide +kernel) w hw] at hx
      simp_all⟩,
    ⟨tCmd 8 [], tMem 0 (tCrc [0x01000000#32]) ({ tAt [(0x160, 2), (0x161, 2), (0x170, 2), (0x171, 2), (0x172, 2), (0x173, 2)] [] with cam := {  } }), _, _, _, _, rfl, by decide +kernel, by decide +kernel, by decide +kernel, rfl, rfl, rfl, by decide +kernel⟩⟩

/-- The hypotheses of `Obligations.MemoryEventsComplete` are met. -/
theorem witness_MemoryEventsComplete :
    (∃ (i : Fin 4) (s : State) (start : _) (why : _), trains i.val s = true ∧ start = decide (getF (PG_STAT_STATE (0x170 + i.val)) s = 1) ∧ why = (if start then trainReason i.val s else 0) ∧ why = 0) ∧
    (∃ (i : Fin 4) (s : State) (start : _) (why : _), trains i.val s = true ∧ start = decide (getF (PG_STAT_STATE (0x170 + i.val)) s = 1) ∧ why = (if start then trainReason i.val s else 0) ∧ why ≠ 0) ∧
    (∃ (i : Fin 4) (temp : _) (s : State) (t : _), stackRuns i.val s = true ∧ t = (s |> setF (HBM_STAT_TEMP i.val) (ofSigned 8 (clampI temp (-128) 127)) |> setB (HBM_STAT_REF2X i.val) (decide (85 < temp))) ∧ 85 < temp ∧ getB (HBM_STAT_REF2X i.val) s = false) ∧
    (∃ (i : Fin 4) (temp : Int) (s : State) (t : _), stackRuns i.val s = true ∧ t = (s |> setF (HBM_STAT_TEMP i.val) (ofSigned 8 (clampI temp (-128) 127)) |> setB (HBM_STAT_REF2X i.val) (decide (85 < temp))) ∧ (temp ≤ 85 ∨ getB (HBM_STAT_REF2X i.val) s = true)) ∧
    (∃ (i : Fin 4) (addr : _) (s : State), stackRuns i.val s = true ∧ addr < hbmTop ∧ addr / 256 % 4 = i.val) ∧
    (∃ (i : Fin 4) (found : _) (s : State) (t : _), stackRuns i.val s = true ∧ getB (HBM_CFG_SCRUB_EN i.val) s = true ∧ (∀ a ∈ found, a < hbmTop ∧ a / 256 % 4 = i.val ∧ a ∉ s.poison) ∧ (t = each found (fun _ => correctedError i.val) s)) :=
  ⟨⟨0, { tAt [] [] with regs := [(0x2100, 0x90000000#32), (0x170008, 5)], pwr := { vhv := true, mainPg := true } }, _, _, by decide +kernel, rfl, rfl, rfl⟩,
    ⟨0, tAt [(0x170, 1)] [], _, _, by decide +kernel, rfl, rfl, by decide +kernel⟩,
    ⟨0, 86, tAt [(0x170, 2), (0x171, 2), (0x172, 2), (0x173, 2)] [], _, by decide +kernel, rfl, by decide +kernel⟩,
    ⟨0, 85, tAt [(0x170, 2), (0x171, 2), (0x172, 2), (0x173, 2)] [], _, by decide +kernel, rfl, Or.inl (by decide)⟩,
    ⟨3, 0x300, tAt [(0x170, 2), (0x171, 2), (0x172, 2), (0x173, 2)] [], by decide +kernel⟩,
    ⟨0, [0, 8], tAt [(0x170, 2), (0x171, 2), (0x172, 2), (0x173, 2)] [(0x170100, 0x80000000#32)], _, by decide +kernel, by decide +kernel, by decide +kernel, rfl⟩⟩

/-- The hypotheses of `Obligations.SluiceCommandsComplete` are met. -/
theorem witness_SluiceCommandsComplete :
    (∃ (c : Cmd) (s : State) (t : _) (p : _) (total : _) (cur : _) (r : _) (ended : _), t = markStarted 0x48 c s ∧ Served 0x48 c s ∧ p = FMap.get (0, []) t.slc.pend c.idx ∧ total = p.2.length + c.src.len ∧ granted c c.src t = true ∧ granted c c.dst t = true ∧ 64 ≤ c.arg 0 ∧ c.arg 0 ≤ 65536 ∧ c.src.len ≠ 0 ∧ c.src.addr % 4 = 0 ∧ c.dst.addr % 4 = 0 ∧ total + 16 * ceilDiv total (c.arg 0) ≤ c.dst.len ∧ srcBad c t = false ∧ cur = (if p.2.isEmpty then c.arg 0 else p.1) ∧ r = cutBlocks (c.arg 0) (total + 1) cur (p.2 ++ srcBytes c t) ∧ ended = (if r.2.isEmpty then r.1 else r.1 ++ [r.2]) ∧ c.argF 1 0 0 = 1) ∧
    (∃ (c : Cmd) (s : State) (t : _) (p : _) (total : _) (cur : _) (r : _) (ended : _), t = markStarted 0x48 c s ∧ Served 0x48 c s ∧ p = FMap.get (0, []) t.slc.pend c.idx ∧ total = p.2.length + c.src.len ∧ granted c c.src t = true ∧ granted c c.dst t = true ∧ 64 ≤ c.arg 0 ∧ c.arg 0 ≤ 65536 ∧ c.src.len ≠ 0 ∧ c.src.addr % 4 = 0 ∧ c.dst.addr % 4 = 0 ∧ total + 16 * ceilDiv total (c.arg 0) ≤ c.dst.len ∧ srcBad c t = false ∧ cur = (if p.2.isEmpty then c.arg 0 else p.1) ∧ r = cutBlocks (c.arg 0) (total + 1) cur (p.2 ++ srcBytes c t) ∧ ended = (if r.2.isEmpty then r.1 else r.1 ++ [r.2]) ∧ c.argF 1 0 0 = 0) ∧
    (∃ (c : Cmd) (s : State) (t : _) (p : _), t = markStarted 0x49 c s ∧ Served 0x49 c s ∧ p = FMap.get (0, []) t.slc.pend c.idx ∧ granted c c.dst t = true ∧ c.dst.addr % 4 = 0 ∧ p.2.length + 16 ≤ c.dst.len) ∧
    (∃ (c : Cmd) (s : State) (t : _) (l : _), t = markStarted 0x4A c s ∧ Served 0x4A c s ∧ granted c c.src t = true ∧ granted c c.dst t = true ∧ srcBad c t = false ∧ decodeBlocks (c.src.len + 1) (srcBytes c t) c.dst.len = (l, none)) ∧
    (∃ (s : State) (j : _) (r : _) (t : _), runs 0x178 s = true ∧ j.short = false ∧ j.err = none ∧ s.slc.comp = j :: r ∧ t = showSlc j.cmd.idx { s with slc := { s.slc with comp := r } } ∧ dstBad j.cmd t = false) ∧
    (∃ (s : State) (j : _) (r : _) (t : _), runs 0x178 s = true ∧ j.short = false ∧ j.err = none ∧ s.slc.dec = j :: r ∧ t = showSlc j.cmd.idx { s with slc := { s.slc with dec := r } } ∧ dstBad j.cmd t = false) :=
  ⟨by refine ⟨{ tCmd 1 [64, 1] with dst := ⟨1, 0x1000, 17⟩ }, tOn [0x178] [], _, _, _, _, _, _, rfl, by decide +kernel, rfl, rfl, ?_, ?_, ?_, ?_, ?_, ?_, ?_, ?_, ?_, rfl, rfl, rfl, by decide +kernel⟩ <;> decide +kernel,
    by refine ⟨{ tCmd 1 [65536, 0] with dst := ⟨1, 0x1000, 17⟩ }, tOn [0x178] [], _, _, _, _, _, _, rfl, by decide +kernel, rfl, rfl, ?_, ?_, ?_, ?_, ?_, ?_, ?_, ?_, ?_, rfl, rfl, rfl, by decide +kernel⟩ <;> decide +kernel,
    ⟨{ tCmd 0 [] with dst := ⟨1, 0x1000, 16⟩ }, tOn [0x178] [], _, _, rfl, by decide +kernel, rfl, by decide +kernel⟩,
    ⟨tCmd 0 [], tOn [0x178] [], _, [], rfl, by decide +kernel⟩,
    ⟨{ tOn [0x178] [] with slc := { comp := [{ (default : SlcJob) with cmd := tCmd 0 [] }] } }, { (default : SlcJob) with cmd := tCmd 0 [] }, [], _, by decide +kernel, by decide +kernel, by decide +kernel, by decide +kernel, rfl, by decide +kernel⟩,
    ⟨{ tOn [0x178] [] with slc := { dec := [{ (default : SlcJob) with cmd := tCmd 0 [] }] } }, { (default : SlcJob) with cmd := tCmd 0 [] }, [], _, by decide +kernel, by decide +kernel, by decide +kernel, by decide +kernel, rfl, by decide +kernel⟩⟩

/-- The hypotheses of `Obligations.PowerRequestsComplete` are met. -/
theorem witness_PowerRequestsComplete :
    (∃ (c : Cmd) (s : State) (t : _) (g : _), t = markStarted 0x50 c s ∧ Served 0x50 c s ∧ isOwner c.who 2 t = true ∧ g = c.argF 0 1 0 ∧ s.fwu.pause = false ∧ powerStatus g t = ACCEPTED ∧ g = 1) ∧
    (∃ (c : Cmd) (s : State) (t : _) (g : _), t = markStarted 0x50 c s ∧ Served 0x50 c s ∧ isOwner c.who 2 t = true ∧ g = c.argF 0 1 0 ∧ s.fwu.pause = false ∧ powerStatus g t = ACCEPTED ∧ g = 2) ∧
    (∃ (c : Cmd) (s : State) (t : _) (g : _), t = markStarted 0x50 c s ∧ Served 0x50 c s ∧ isOwner c.who 2 t = true ∧ g = c.argF 0 1 0 ∧ s.fwu.pause = false ∧ powerStatus g t = ACCEPTED ∧ g = 0) ∧
    (∃ (c : Cmd) (s : State) (t : _) (g : _), t = markStarted 0x50 c s ∧ Served 0x50 c s ∧ isOwner c.who 2 t = true ∧ g = c.argF 0 1 0 ∧ s.fwu.pause = false ∧ powerStatus g t ≠ ACCEPTED) ∧
    (∃ (s : State), s.fwu.pause = true) ∧
    (∃ (s : State) (late : _) (t : _), pwrState s = 3 ∧ allParked s = true ∧ (late = [0x1A0, 0x198].filter (fun q => isOn q s)) ∧ (t = each (List.range 4) (fun i t => ifS (decide (blockState (0x170 + i) t = 5)) (selfRefresh i) t) (copyRoutes (each late parkBlock s)))) ∧
    (∃ (s : State), getB TIM_STAT_SEL_VALID s = true ∧ reached (getF PWR_WAKE_AT_HI s * 2 ^ 32 + getF PWR_WAKE_AT_LO s) s = true ∧ s.pwr.timedDone = false) ∧
    (∃ (s : State) (m : _), m = Nat.land 1 (rd PWR_WAKE_EN_WAKE_N.addr s).toNat ∧ m ≠ 0 ∧ pwrState s = 1) ∧
    (∃ (s : State) (m : _), m = Nat.land 1 (rd PWR_WAKE_EN_WAKE_N.addr s).toNat ∧ m ≠ 0 ∧ pwrState s = 2) ∧
    (∃ (s : State) (t : _), pwrState s = 4 ∧ mainOn s = true ∧ (hbmPages.any (fun q => s.pwr.parked.contains q && decide (blockState q s = 5) && getB (HBM_STAT_SELF_REFRESH (q - 0x170)) s) = false) ∧ (t = each s.pwr.parked (fun q t => ifS (decide (blockState q t = 5)) (unpark q) t) (setF PWR_STAT_STATE (if s.pwr.fromBoot then 6 else 0) s))) :=
  ⟨⟨tCmd 0 [1], tAt [] [], _, _, rfl, by decide +kernel, by decide +kernel, rfl, by decide +kernel, by decide +kernel, rfl⟩,
    ⟨tCmd 0 [2], tAt [] [], _, _, rfl, by decide +kernel, by decide +kernel, rfl, by decide +kernel, by decide +kernel, rfl⟩,
    ⟨tCmd 0 [0], { tAt [] [] with regs := [(0x2100, 0x30000000#32)], pwr := { vhv := true, mainPg := true } }, _, _, rfl, by decide +kernel, by decide +kernel, rfl, by decide +kernel, by decide +kernel, rfl⟩,
    ⟨tCmd 0 [3], tAt [] [], _, _, rfl, by decide +kernel, by decide +kernel, rfl, by decide +kernel⟩,
    ⟨{ State.reset with fwu := { pause := true } }, by decide +kernel⟩,
    ⟨{ tAt [] [] with regs := [(0x2100, 0x70000000#32)], pwr := { vhv := true, mainPg := true } }, _, _, by decide +kernel, by decide +kernel, rfl, rfl⟩,
    ⟨{ tAt [(0x10, 2), (0x11, 2), (0x12, 2)] [(0x10104, 0x80000000#32)] with tim := {  } }, by decide +kernel⟩,
    ⟨{ tAt [] [] with regs := [(0x2100, 0x30000000#32), (0x2104, 1#32)], pwr := { vhv := true, mainPg := true } }, _, rfl, by decide +kernel⟩,
    ⟨{ tAt [] [] with regs := [(0x2100, 0x50000000#32), (0x2104, 1#32)], pwr := { vhv := true, mainPg := true } }, _, rfl, by decide +kernel⟩,
    ⟨{ tAt [] [] with regs := [(0x2100, 0x90000000#32)], pwr := { vhv := true, mainPg := true } }, _, by decide +kernel, by decide +kernel, by decide +kernel, rfl⟩⟩

/-- The hypotheses of `Obligations.SuppliesResetsAndClocksComplete` are met. -/
theorem witness_SuppliesResetsAndClocksComplete :
    (∃ (s : State), s.pwr.vhv = true ∧ s.pwr.resetLow = false ∧ getB PWR_STAT_MAIN_EN s = true ∧ s.pwr.mainPg = false) ∧
    (∃ (s : State), mainOn s = true) ∧
    (∃ (s : State), getB PWR_STAT_MAIN_EN s = true ∧ s.pwr.mainPg = false ∧ s.pwr.warmCause = 0) ∧
    (∃ (b : Fin 4) (w : _) (s : State) (t : _), s.pwr.vhv = true ∧ s.pwr.resetLow = true ∧ t = { s with pwr := { s.pwr with resetLow := false, pcieBif := b.val, wakeAtRelease := w } } ∧ powerUpSleeps t = true) ∧
    (∃ (b : Fin 4) (w : _) (s : State) (t : _), s.pwr.vhv = true ∧ s.pwr.resetLow = true ∧ t = { s with pwr := { s.pwr with resetLow := false, pcieBif := b.val, wakeAtRelease := w } } ∧ powerUpSleeps t = false) ∧
    (∃ (v : VhvFall) (s : State) (t : _), s.pwr.vhv = true ∧ (t = (s |> raise 0x180 7 |> countF RIM_LOSS |> setB RIM_STAT_VHV_LOW true |> showInhibit |> fun u => if v.held then finishLine u else dropLine u)) ∧ v.only = false) ∧
    (∃ (v : VhvFall) (s : State) (t : _), s.pwr.vhv = true ∧ (t = (s |> raise 0x180 7 |> countF RIM_LOSS |> setB RIM_STAT_VHV_LOW true |> showInhibit |> fun u => if v.held then finishLine u else dropLine u)) ∧ v.only = true) ∧
    (∃ (s : State), s.pwr.vhv = false) ∧
    (∃ (s : State), s.pwr.vhv = true ∧ getB RIM_STAT_VHV_LOW s = true) ∧
    (∃ (k : Fin 70) (s : State), k.val < 4 ∧ bitOf (getF CLK_STAT_RCLK s) k.val = true) ∧
    (∃ (k : Fin 70) (s : State), k.val = 4 ∧ getB CLK_STAT_DEC s = true) ∧
    (∃ (k : Fin 70) (s : State), k.val = 5 ∧ getB CLK_STAT_HUB s = true) ∧
    (∃ (k : Fin 70) (s : State), 6 ≤ k.val ∧ [1, 2, 3, 4].contains (blockState (0x100 + (k.val - 6)) s) = true) ∧
    (∃ (r : Fin 4) (s : State) (t : _), getB (refField r.val) s = true ∧ t = (s |> setB (refField r.val) false |> raise 1 3) ∧ r.val = 0) ∧
    (∃ (r : Fin 4) (s : State) (t : _), getB (refField r.val) s = true ∧ t = (s |> setB (refField r.val) false |> raise 1 3) ∧ r.val = 1) ∧
    (∃ (r : Fin 4) (s : State) (t : _), getB (refField r.val) s = true ∧ t = (s |> setB (refField r.val) false |> raise 1 3) ∧ r.val = 2) ∧
    (∃ (r : Fin 4) (s : State) (t : _), getB (refField r.val) s = true ∧ t = (s |> setB (refField r.val) false |> raise 1 3) ∧ r.val = 3) :=
  ⟨⟨{ tAt [] [] with regs := [(0x2100, 0x10000000#32)], pwr := { vhv := true } }, by decide +kernel⟩,
    ⟨tAt [] [], by decide +kernel⟩,
    ⟨{ tAt [] [] with regs := [(0x2100, 0x10000000#32)], pwr := { vhv := true } }, by decide +kernel⟩,
    ⟨0, true, { State.reset with fwu := { cfgA := [⟨1, 0, true, [1, 0, 0, 0]⟩] } }, _, by decide +kernel, by decide +kernel, rfl, by decide +kernel⟩,
    ⟨3, false, State.reset, _, by decide +kernel, by decide +kernel, rfl, by decide +kernel⟩,
    ⟨⟨true, false⟩, tAt [(0x180, 2)] [], _, by decide +kernel, rfl, by decide +kernel⟩,
    ⟨⟨false, true⟩, tAt [(0x180, 2)] [], _, by decide +kernel, rfl, by decide +kernel⟩,
    ⟨{ tAt [] [] with regs := [(0x2100, 0x10000000#32)], pwr := { vhv := false } }, by decide +kernel⟩,
    ⟨tAt [(0x180, 2)] [(0x180104, 0x10000000#32)], by decide +kernel⟩,
    ⟨3, tAt [] [(0x1100, 0x8#32)], by decide +kernel⟩,
    ⟨4, tAt [] [(0x1100, 0x10#32)], by decide +kernel⟩,
    ⟨5, tAt [] [(0x1100, 0x20#32)], by decide +kernel⟩,
    ⟨69, tAt [(0x13F, 2)] [], by decide +kernel⟩,
    ⟨0, tAt [] [(0x1100, 0x10000#32)], _, by decide +kernel, rfl, by decide +kernel⟩,
    ⟨1, tAt [] [(0x1100, 0x20000#32)], _, by decide +kernel, rfl, by decide +kernel⟩,
    ⟨2, tAt [] [(0x1100, 0x40000#32)], _, by decide +kernel, rfl, by decide +kernel⟩,
    ⟨3, tAt [] [(0x1100, 0x80000#32)], _, by decide +kernel, rfl, by decide +kernel⟩⟩

/-- The hypotheses of `Obligations.ThermalAndTrimComplete` are met. -/
theorem witness_ThermalAndTrimComplete :
    (∃ (readings : List Int) (s : State) (off : _) (rs : _) (was : _) (t : _) (cold : _), sensorsRun s = true ∧ off = inTrim s ∧ (rs = ((List.range (min 72 readings.length)).filter (fun n => !off.contains n)).map (fun n => (n, clampI (readings.getD n 0) (-32768) 32767))) ∧ (was = rs.map (fun e => (e.1, sensorExcluded e.1 s))) ∧ (t = (each rs (fun e => takeReading e.1 e.2) s |> each rs (fun e => judgeStuck e.1) |> each was (fun e => judgeValid e.1 e.2) |> evalMax (rs.map (fun e => e.1)))) ∧ cold = (getB THM_MAX_VALID t && decide (toSigned 16 (getF THM_MAX_TEMP t) < 1520))) ∧
    (∃ (s : State), getB THM_STAT_THROTTLING s = true ∧ getF THM_CFG_MODE s = 1 ∧ getB THM_STAT_ENFORCED s = false ∧ 10 * getF THM_THROT_GRACE s ≤ s.pwr.thrAge) ∧
    (∃ (s : State) (t : _), getB THM_STAT_THROTTLING s = true ∧ getB THM_STAT_ENFORCED s = true ∧ 1000 ≤ s.pwr.thrHigh ∧ t = { s with pwr := { s.pwr with thrHigh := 0 } } ∧ getF THM_CFG_MODE t = 1) ∧
    (∃ (s : State) (t : _), getB THM_STAT_THROTTLING s = true ∧ getB THM_STAT_ENFORCED s = true ∧ 1000 ≤ s.pwr.thrHigh ∧ t = { s with pwr := { s.pwr with thrHigh := 0 } } ∧ getF THM_CFG_MODE t ≠ 1) ∧
    (∃ (who : _) (v : Word) (s : State), Accepted who 4 s ∧ bitsOf v.toNat 31 30 ≠ 3 ∧ bitsOf v.toNat 21 14 < bitsOf v.toNat 29 22) ∧
    (∃ (who : _) (v : Word) (s : State), Accepted who 4 s ∧ bitsOf v.toNat 31 30 ≠ 3 ∧ bitsOf v.toNat 29 22 ≤ bitsOf v.toNat 21 14) ∧
    (∃ (n : _) (s : State), mainOn s = true ∧ pwrState s ≠ 5 ∧ n < 72 ∧ 2 ≤ (s.thSensor n).hot) ∧
    (∃ (i : _) (s : State), mainOn s = true ∧ pwrState s ≠ 5 ∧ i < 4) ∧
    (∃ (s : State), pwrState s = 5 ∧ 10000 ≤ s.pwr.cool ∧ 100000 ≤ s.pwr.sinceTrip) ∧
    (∃ (who : _) (v : Word) (s : State) (z : _), Accepted who 8 s ∧ z = bitsOf v.toNat 4 0 ∧ z ≤ 29 ∧ isOn 8 s = true ∧ getB (TRM_STAT_PENDING z) s = false ∧ getB (TRM_STAT_RUNNING z) s = false) ∧
    (∃ (lane : Fin 1024) (s : State) (z : _) (g : _) (waits : _) (e : _), z = lane.val / 64 ∧ g = (tileRec (tileLane lane.val s) s).group ∧ trimMayRun z s = true ∧ lane.val ∈ (s.zone z).lanes ∧ (getB (TRM_STAT_PENDING z) s = true ∨ getB (TRM_STAT_RUNNING z) s = true) ∧ (waits = ((s.zone z).forced.find? (fun e => decide (e.1 = lane.val))).filter (fun e => awaitsFrame g e.2 s)) ∧ waits = some e ∧ abortedFrameOpen g e.2 s = true) ∧
    (∃ (lane : Fin 1024) (told : _) (s : State) (z : _) (g : _) (waits : _) (width : _), z = lane.val / 64 ∧ g = (tileRec (tileLane lane.val s) s).group ∧ trimMayRun z s = true ∧ lane.val ∈ (s.zone z).lanes ∧ (getB (TRM_STAT_PENDING z) s = true ∨ getB (TRM_STAT_RUNNING z) s = true) ∧ (waits = ((s.zone z).forced.find? (fun e => decide (e.1 = lane.val))).filter (fun e => awaitsFrame g e.2 s)) ∧ waits = none ∧ recalWidth lane.val told s = some width ∧ 60000 ≤ width) ∧
    (∃ (lane : Fin 1024) (told : _) (s : State) (z : _) (g : _) (waits : _) (width : _), z = lane.val / 64 ∧ g = (tileRec (tileLane lane.val s) s).group ∧ trimMayRun z s = true ∧ lane.val ∈ (s.zone z).lanes ∧ (getB (TRM_STAT_PENDING z) s = true ∨ getB (TRM_STAT_RUNNING z) s = true) ∧ (waits = ((s.zone z).forced.find? (fun e => decide (e.1 = lane.val))).filter (fun e => awaitsFrame g e.2 s)) ∧ waits = none ∧ recalWidth lane.val told s = some width ∧ width < 60000 ∧ getB TRM_CFG_FORCE s = true ∧ hasTile lane.val s = true ∧ (s.grp g).phase ≠ .none) ∧
    (∃ (lane : Fin 1024) (told : _) (s : State) (z : _) (g : _) (waits : _) (width : _), z = lane.val / 64 ∧ g = (tileRec (tileLane lane.val s) s).group ∧ trimMayRun z s = true ∧ lane.val ∈ (s.zone z).lanes ∧ (getB (TRM_STAT_PENDING z) s = true ∨ getB (TRM_STAT_RUNNING z) s = true) ∧ (waits = ((s.zone z).forced.find? (fun e => decide (e.1 = lane.val))).filter (fun e => awaitsFrame g e.2 s)) ∧ waits = none ∧ recalWidth lane.val told s = some width ∧ width < 60000 ∧ (getB TRM_CFG_FORCE s = false ∨ hasTile lane.val s = false ∨ (s.grp g).phase = .none)) ∧
    (∃ (z : Fin 30) (s : State), 16 ≤ z.val ∧ trimMayRun z.val s = true ∧ getB (TRM_STAT_PENDING z.val) s = true ∧ (z.val < 21 → partnerHolds (z.val - 16) s = false ∧ (s.eport (z.val - 16)).sending = none) ∧ (z.val = 21 → s.rim.line = none)) ∧
    (∃ (z : Fin 30) (s : State), getB (TRM_STAT_RUNNING z.val) s = true ∧ (s.zone z.val).lanes = []) :=
  ⟨⟨[1600], tAt [] [], _, _, _, _, _, by decide +kernel, rfl, rfl, rfl, rfl, rfl⟩,
    ⟨tAt [] [(0x4110, 0x80000000#32), (0x4100, 0x40000000#32), (0x4104, 0#32)], by decide +kernel⟩,
    ⟨{ tAt [] [(0x4110, 0xC0000000#32), (0x4100, 0x40000000#32), (0x4104, 0#32)] with pwr := { vhv := true, mainPg := true, thrHigh := 1000 } }, _, by decide +kernel, by decide +kernel, by decide +kernel, rfl, by decide +kernel⟩,
    ⟨{ tAt [] [(0x4110, 0xC0000000#32), (0x4100, 0x0#32), (0x4104, 0#32)] with pwr := { vhv := true, mainPg := true, thrHigh := 1000 } }, _, by decide +kernel, by decide +kernel, by decide +kernel, rfl, by decide +kernel⟩,
    ⟨.fw, 0x00400000, tAt [(0x4, 2)] [], by decide +kernel⟩,
    ⟨.fw, 0, tAt [(0x4, 2)] [], by decide +kernel⟩,
    ⟨71, { tAt [] [] with pwr := { vhv := true, mainPg := true, sensors := [(71, { hot := 2 })] } }, by decide +kernel⟩,
    ⟨3, tAt [] [], by decide +kernel⟩,
    ⟨{ tAt [] [] with regs := [(0x2100, 0xB0000000#32)], pwr := { cool := 10000, sinceTrip := 100000 } }, by decide +kernel⟩,
    ⟨.fw, 29, tAt [(0x8, 2)] [], _, by decide +kernel, rfl, by decide +kernel⟩,
    ⟨0, { { tAt [(0x8, 2)] [(0x8400, 0x80000000#32)] with pwr := { vhv := true, mainPg := true, zones := [(0, { lanes := [0], forced := [(0, 5)] })] } } with ras := { groups := [(0, { phase := .active, idx := 5, curIdx := 5, fs := 2 ^ 64 - 10000 })] } }, _, _, some (0, 5), (0, 5), rfl, rfl, by decide +kernel⟩,
    ⟨0, 60000, { tAt [(0x8, 2)] [(0x8400, 0x80000000#32)] with pwr := { vhv := true, mainPg := true, zones := [(0, { lanes := [0] })] } }, _, _, none, 60000, rfl, rfl, by decide +kernel⟩,
    ⟨0, 0, { { tAt [(0x8, 2)] [(0x8400, 0x80000000#32), (0x8100, 0x80000000#32)] with pwr := { vhv := true, mainPg := true, zones := [(0, { lanes := [0] })] } } with ras := { groups := [(0, { phase := .active })] }, panel := { map := { tiles := [(0, { valid := true })] } } }, _, _, none, 0, rfl, rfl, by decide +kernel⟩,
    ⟨0, 0, { tAt [(0x8, 2)] [(0x8400, 0x80000000#32)] with pwr := { vhv := true, mainPg := true, zones := [(0, { lanes := [0] })] } }, _, _, none, 0, rfl, rfl, by decide +kernel⟩,
    ⟨29, tAt [(0x8, 2)] [(0x85D0, 0x80000000#32)], by decide +kernel⟩,
    ⟨0, tAt [(0x8, 2)] [(0x8400, 0x40000000#32)], by decide +kernel⟩⟩

/-- The hypotheses of `Obligations.RingsComplete` are met. -/
theorem witness_RingsComplete :
    (∃ (p : Fin 8) (s : State) (ws : _) (t : _) (r : _) (u : State), ringRuns p.val s = true ∧ getF (HST_CMD_HEAD_IDX p.val) s ≠ getF (HST_CMD_TAIL_IDX p.val) s ∧ ringRoom p.val s = true ∧ ringDown p.val (descAddr p.val s) 64 s = false ∧ fenceWaits p.val s = false ∧ ws = fetchWords p.val s ∧ t = addF (HST_CMD_HEAD_IDX p.val) 1 s ∧ r = descReason p.val (fieldAt ws 0 31 24) (parseCmd p ws) ws t ∧ r = 0 ∧ u = addF (HST_RING_STAT_OUTSTANDING p.val) 1 t) ∧
    (∃ (p : Fin 8) (s : State) (ws : _) (t : _) (r : _), ringRuns p.val s = true ∧ getF (HST_CMD_HEAD_IDX p.val) s ≠ getF (HST_CMD_TAIL_IDX p.val) s ∧ ringRoom p.val s = true ∧ ringDown p.val (descAddr p.val s) 64 s = false ∧ fenceWaits p.val s = false ∧ ws = fetchWords p.val s ∧ t = addF (HST_CMD_HEAD_IDX p.val) 1 s ∧ r = descReason p.val (fieldAt ws 0 31 24) (parseCmd p ws) ws t ∧ r ≠ 0) ∧
    (∃ (p : Fin 8) (s : State), ringRuns p.val s = true ∧ getF (HST_CMD_HEAD_IDX p.val) s ≠ getF (HST_CMD_TAIL_IDX p.val) s ∧ ringRoom p.val s = true ∧ ringDown p.val (descAddr p.val s) 64 s = true) ∧
    (∃ (who : _) (p : Fin 8) (v : Word) (s : State), assigned (0x190 + p.val) = true ∧ answers (0x190 + p.val) s = true ∧ mayRing who p.val s = true ∧ (v.toNat % 65536 + 65536 - getF (HST_CMD_HEAD_IDX p.val) s) % 65536 ≤ ringN p.val s) ∧
    (∃ (who : _) (p : Fin 8) (v : Word) (s : State), assigned (0x190 + p.val) = true ∧ answers (0x190 + p.val) s = true ∧ mayRing who p.val s = true ∧ ringN p.val s < (v.toNat % 65536 + 65536 - getF (HST_CMD_HEAD_IDX p.val) s) % 65536) ∧
    (∃ (who : _) (p : Fin 8) (v : Word) (s : State) (h : _), assigned (0x190 + p.val) = true ∧ answers (0x190 + p.val) s = true ∧ mayRing who p.val s = true ∧ h = getF (HST_CPL_HEAD_IDX p.val) s ∧ (v.toNat % 65536 + 65536 - h) % 65536 ≤ (getF (HST_CPL_TAIL_IDX p.val) s + 65536 - h) % 65536) ∧
    (∃ (who : _) (p : Fin 8) (s : State), assigned (0x190 + p.val) = true ∧ answers (0x190 + p.val) s = true ∧ mayRing who p.val s = true ∧ getB (HST_RING_CTRL_RUN p.val) s = false) ∧
    (∃ (p : Fin 8) (s : State), ringRuns p.val s = true ∧ getB (HST_RING_CTRL_RSPACE p.val) s = true) ∧
    (∃ (p : Fin 8) (s : State) (j : _) (old : _), getB (HST_RING_CTRL_RSPACE p.val) s = true ∧ (s.prt p.val).lastCpl = some (j, old) ∧ getF (HST_CPL_TAIL_IDX p.val) s = (j + 1) % 65536 ∧ getF (HST_CPL_HEAD_IDX p.val) s ≠ (j + 1) % 65536) ∧
    (∃ (c : Cmd) (s : State), Served 0x51 c s) ∧
    (∃ (p : Fin 4) (s : State), FMap.get false s.pwr.perst p.val = true ∧ portExists p.val s = true ∧ mainOn s = true ∧ portParts p.val s ≠ []) ∧
    (∃ (p : Fin 8) (s : State), transport p.val s = 1) :=
  ⟨by refine ⟨0, tMem 0 [0x51000000#32] (tOn [0x190] [(0x190104, 0x80000000#32), (0x190118, 1#32)]), _, _, _, _, ?_, ?_, ?_, ?_, ?_, rfl, rfl, rfl, by decide +kernel, rfl⟩ <;> decide +kernel,
    by refine ⟨0, tOn [0x190] [(0x190104, 0x80000000#32), (0x190118, 1#32)], _, _, _, ?_, ?_, ?_, ?_, ?_, rfl, rfl, rfl, by decide +kernel⟩ <;> decide +kernel,
    ⟨0, tOn [0x190] [(0x190104, 0xC0000000#32), (0x190118, 1#32), (0x190100, 0x40000000#32)], by decide +kernel⟩,
    ⟨.fw, 0, 16, tOn [0x190] [], by decide +kernel⟩,
    ⟨.fw, 0, 17, tOn [0x190] [], by decide +kernel⟩,
    ⟨.fw, 0, 0, tOn [0x190] [], _, by decide +kernel, by decide +kernel, by decide +kernel, rfl, by decide +kernel⟩,
    ⟨.fw, 0, tOn [0x190] [], by decide +kernel⟩,
    ⟨0, tOn [0x190] [(0x190104, 0xC0000000#32)], by decide +kernel⟩,
    ⟨0, { tOn [0x190] [(0x190104, 0x40000000#32), (0x190120, 1#32)] with hst := { parts := [(0, { lastCpl := some (0, []) })] } }, 0, [], by decide +kernel⟩,
    ⟨tCmd 0 [], tAt [] [], by decide +kernel⟩,
    ⟨0, { tAt [] [(0x190100, 0x40000000#32)] with pwr := { vhv := true, mainPg := true, perst := [(0, true)] } }, by decide +kernel⟩,
    ⟨0, tAt [] [(0x190100, 0x40000000#32)], by decide +kernel⟩⟩

/-- The hypotheses of `Obligations.SemaphoresAndGrantsComplete` are met. -/
theorem witness_SemaphoresAndGrantsComplete :
    (∃ (n : Fin 64) (s : State), answers 0x190 s = true ∧ getB (HST_SEM_HELD n.val) s = false) ∧
    (∃ (p : Fin 8) (n : Fin 64) (s : State), answers 0x190 s = true ∧ getB (HST_SEM_HELD n.val) s = true ∧ holdsSem (.part p) n.val s = false) ∧
    (∃ (s : State), answers 0x190 s = true) ∧
    (∃ (p : Fin 8) (n : Fin 64) (s : State), answers 0x190 s = true ∧ holdsSem (.part p) n.val s = true) ∧
    (∃ (who : _) (p : Fin 8) (k : Fin 8) (v : Word) (s : State), answers (0x190 + p.val) s = true ∧ isAdmin who s = true ∧ blockState (0x190 + p.val) s = 0 ∧ regionOk p.val k.val v.toNat (getF (HST_REG_SIZE p.val k.val) s) s = true) ∧
    (∃ (who : _) (p : Fin 8) (k : Fin 8) (v : Word) (s : State), answers (0x190 + p.val) s = true ∧ isAdmin who s = true ∧ blockState (0x190 + p.val) s = 0 ∧ regionOk p.val k.val (getF (HST_REG_BASE p.val k.val) s) v.toNat s = true) ∧
    (∃ (who : _) (s : State), answers 0x190 s = true ∧ isAdmin who s = true) ∧
    (∃ (p : Fin 8) (s : State), answers (0x190 + p.val) s = true) ∧
    (∃ (who : _) (s : State), Accepted who 0x198 s) ∧
    (∃ (who : _) (p : Fin 8) (s : State), answers (0x190 + p.val) s = true ∧ mayRing who p.val s = true) :=
  ⟨⟨63, tOn [0x190] [], by decide +kernel⟩,
    ⟨1, 0, tOn [0x190] [(0x190D00, 0x80000000#32)], by decide +kernel⟩,
    ⟨tOn [0x190] [], by decide +kernel⟩,
    ⟨0, 0, tOn [0x190] [(0x190D00, 0x80000000#32)], by decide +kernel⟩,
    ⟨.fw, 7, 7, 0, tAt [] [], by decide +kernel⟩,
    ⟨.fw, 7, 7, 0, tAt [] [], by decide +kernel⟩,
    ⟨.fw, tOn [0x190] [], by decide +kernel⟩,
    ⟨7, tOn [0x197] [], by decide +kernel⟩,
    ⟨.fw, tAt [(0x198, 2)] [], by decide +kernel⟩,
    ⟨.fw, 7, tOn [0x197] [], by decide +kernel⟩⟩

/-- The hypotheses of `Obligations.JmpRequestsComplete` are met. -/
theorem witness_JmpRequestsComplete :
    (∃ (m : JmpIn) (s : State) (v : State) (u : State) (p : _), m.words ≠ [] ∧ (v = { s with hst := { s.hst with jmpIn := dropFirst (fun x => decide (x = m)) s.hst.jmpIn } }) ∧ s.fwu.pause = false ∧ u = jmpStamp m v ∧ jmpAccepted m u = true ∧ ((u.prt (jmpPart m)).lastSet = false ∨ 0 < diff32 (wordAt m.words 1) (rd (HST_JMP_SEQ (jmpPart m)).addr u).toNat) ∧ wordAt m.words 1 ≠ (rd (HST_JMP_SEQ (jmpPart m)).addr u).toNat ∧ jmpType m = 1 ∧ asleep u = false ∧ (jmpBody m).length = 16 ∧ p = jmpPart m ∧ (getF (HST_CMD_TAIL_IDX p) u + 65536 - getF (HST_CMD_HEAD_IDX p) u) % 65536 < ringN p u) ∧
    (∃ (m : JmpIn) (s : State) (v : State) (u : State) (a : _) (n : _), m.words ≠ [] ∧ (v = { s with hst := { s.hst with jmpIn := dropFirst (fun x => decide (x = m)) s.hst.jmpIn } }) ∧ s.fwu.pause = false ∧ u = jmpStamp m v ∧ jmpAccepted m u = true ∧ ((u.prt (jmpPart m)).lastSet = false ∨ 0 < diff32 (wordAt m.words 1) (rd (HST_JMP_SEQ (jmpPart m)).addr u).toNat) ∧ wordAt m.words 1 ≠ (rd (HST_JMP_SEQ (jmpPart m)).addr u).toNat ∧ jmpType m = 4 ∧ asleep u = false ∧ (jmpBody m).length = 2 ∧ a = wordAt (jmpBody m) 0 ∧ n = wordAt (jmpBody m) 1 ∧ regSpan a n = true) ∧
    (∃ (m : JmpIn) (s : State) (v : State) (u : State) (a : _) (n : _), m.words ≠ [] ∧ (v = { s with hst := { s.hst with jmpIn := dropFirst (fun x => decide (x = m)) s.hst.jmpIn } }) ∧ s.fwu.pause = false ∧ u = jmpStamp m v ∧ jmpAccepted m u = true ∧ ((u.prt (jmpPart m)).lastSet = false ∨ 0 < diff32 (wordAt m.words 1) (rd (HST_JMP_SEQ (jmpPart m)).addr u).toNat) ∧ wordAt m.words 1 ≠ (rd (HST_JMP_SEQ (jmpPart m)).addr u).toNat ∧ jmpType m = 5 ∧ asleep u = false ∧ a = wordAt (jmpBody m) 0 ∧ n = wordAt (jmpBody m) 1 ∧ regSpan a n = true ∧ (jmpBody m).length = n + 2) ∧
    (∃ (m : JmpIn) (s : State) (v : State) (u : State), m.words ≠ [] ∧ (v = { s with hst := { s.hst with jmpIn := dropFirst (fun x => decide (x = m)) s.hst.jmpIn } }) ∧ s.fwu.pause = false ∧ u = jmpStamp m v ∧ jmpAccepted m u = true ∧ ((u.prt (jmpPart m)).lastSet = false ∨ 0 < diff32 (wordAt m.words 1) (rd (HST_JMP_SEQ (jmpPart m)).addr u).toNat) ∧ wordAt m.words 1 ≠ (rd (HST_JMP_SEQ (jmpPart m)).addr u).toNat ∧ jmpType m = 7 ∧ asleep u = false ∧ memSpan (jmpBody m) = true ∧ (jmpBody m).length = memCount (jmpBody m) + 2 ∧ inRegion (jmpPart m) (memAddr (jmpBody m)) (4 * memCount (jmpBody m)) u = true) ∧
    (∃ (m : JmpIn) (s : State) (v : State) (u : State) (a : _) (n : _), m.words ≠ [] ∧ (v = { s with hst := { s.hst with jmpIn := dropFirst (fun x => decide (x = m)) s.hst.jmpIn } }) ∧ s.fwu.pause = false ∧ u = jmpStamp m v ∧ jmpAccepted m u = true ∧ ((u.prt (jmpPart m)).lastSet = false ∨ 0 < diff32 (wordAt m.words 1) (rd (HST_JMP_SEQ (jmpPart m)).addr u).toNat) ∧ wordAt m.words 1 ≠ (rd (HST_JMP_SEQ (jmpPart m)).addr u).toNat ∧ jmpType m = 8 ∧ asleep u = false ∧ memSpan (jmpBody m) = true ∧ (jmpBody m).length = 2 ∧ a = memAddr (jmpBody m) ∧ n = memCount (jmpBody m) ∧ inRegion (jmpPart m) a (4 * n) u = true) ∧
    (∃ (m : JmpIn) (s : State) (v : State) (u : State) (g : _), m.words ≠ [] ∧ (v = { s with hst := { s.hst with jmpIn := dropFirst (fun x => decide (x = m)) s.hst.jmpIn } }) ∧ s.fwu.pause = false ∧ u = jmpStamp m v ∧ jmpAccepted m u = true ∧ ((u.prt (jmpPart m)).lastSet = false ∨ 0 < diff32 (wordAt m.words 1) (rd (HST_JMP_SEQ (jmpPart m)).addr u).toNat) ∧ wordAt m.words 1 ≠ (rd (HST_JMP_SEQ (jmpPart m)).addr u).toNat ∧ jmpType m = 0xA ∧ (jmpBody m).length = 1 ∧ m.port.val = 4 ∧ isOwner (jmpWho m) 2 u = true ∧ g = fieldAt (jmpBody m) 0 1 0 ∧ powerStatus g u = ACCEPTED) ∧
    (∃ (m : JmpIn) (s : State) (v : State) (u : State) (g : _), m.words ≠ [] ∧ (v = { s with hst := { s.hst with jmpIn := dropFirst (fun x => decide (x = m)) s.hst.jmpIn } }) ∧ s.fwu.pause = false ∧ u = jmpStamp m v ∧ jmpAccepted m u = true ∧ ((u.prt (jmpPart m)).lastSet = false ∨ 0 < diff32 (wordAt m.words 1) (rd (HST_JMP_SEQ (jmpPart m)).addr u).toNat) ∧ wordAt m.words 1 ≠ (rd (HST_JMP_SEQ (jmpPart m)).addr u).toNat ∧ jmpType m = 0xA ∧ (jmpBody m).length = 1 ∧ m.port.val = 4 ∧ isOwner (jmpWho m) 2 u = true ∧ g = fieldAt (jmpBody m) 0 1 0 ∧ powerStatus g u ≠ ACCEPTED) ∧
    (∃ (m : JmpIn) (s : State) (v : State) (u : State), m.words ≠ [] ∧ (v = { s with hst := { s.hst with jmpIn := dropFirst (fun x => decide (x = m)) s.hst.jmpIn } }) ∧ s.fwu.pause = false ∧ u = jmpStamp m v ∧ jmpAccepted m u = true ∧ ((u.prt (jmpPart m)).lastSet = false ∨ 0 < diff32 (wordAt m.words 1) (rd (HST_JMP_SEQ (jmpPart m)).addr u).toNat) ∧ wordAt m.words 1 ≠ (rd (HST_JMP_SEQ (jmpPart m)).addr u).toNat ∧ jmpType m = 0xB ∧ jmpBody m = [] ∧ pwrState u = 5) ∧
    (∃ (m : JmpIn) (s : State) (v : State) (u : State), m.words ≠ [] ∧ (v = { s with hst := { s.hst with jmpIn := dropFirst (fun x => decide (x = m)) s.hst.jmpIn } }) ∧ s.fwu.pause = false ∧ u = jmpStamp m v ∧ jmpAccepted m u = true ∧ ((u.prt (jmpPart m)).lastSet = false ∨ 0 < diff32 (wordAt m.words 1) (rd (HST_JMP_SEQ (jmpPart m)).addr u).toNat) ∧ wordAt m.words 1 ≠ (rd (HST_JMP_SEQ (jmpPart m)).addr u).toNat ∧ jmpType m = 0xB ∧ jmpBody m = [] ∧ pwrState u ≠ 5 ∧ m.port.val = 4) ∧
    (∃ (p : Fin 8) (s : State) (es : _), es = (s.prt p.val).events.take 64 ∧ es ≠ [] ∧ transport p.val s = 2) :=
  ⟨by refine ⟨tJmp 1 [0, 0, 0, 0, 0, 0, 0, 0, 0, 0, 0, 0, 0, 0, 0, 0], tOn [0x190] [(0x190100, 0x80000000#32), (0x190140, 0x04000000#32), (0x1901C4, 1#32)], _, _, _, by decide +kernel, rfl, by decide +kernel, rfl, ?_, ?_, ?_, ?_, ?_, ?_, rfl, by decide +kernel⟩ <;> decide +kernel,
    by refine ⟨tJmp 4 [0x100, 1], tOn [0x190] [(0x190100, 0x80000000#32), (0x190140, 0x04000000#32), (0x1901C4, 1#32)], _, _, _, _, by decide +kernel, rfl, by decide +kernel, rfl, ?_, ?_, ?_, ?_, ?_, ?_, rfl, rfl, by decide +kernel⟩ <;> decide +kernel,
    by refine ⟨tJmp 5 [0x140, 1, 0], tOn [0x190] [(0x190100, 0x80000000#32), (0x190140, 0x04000000#32), (0x1901C4, 1#32)], _, _, _, _, by decide +kernel, rfl, by decide +kernel, rfl, ?_, ?_, ?_, ?_, ?_, rfl, rfl, by decide +kernel⟩ <;> decide +kernel,
    ⟨tJmp 7 [0, 0x10000, 5], tOn [0x190] [(0x190100, 0x80000000#32), (0x190140, 0x04000000#32), (0x1901C4, 1#32)], _, _, by decide +kernel, rfl, by decide +kernel, rfl, by decide +kernel⟩,
    by refine ⟨tJmp 8 [0, 0x10000], tOn [0x190] [(0x190100, 0x80000000#32), (0x190140, 0x04000000#32), (0x1901C4, 1#32)], _, _, _, _, by decide +kernel, rfl, by decide +kernel, rfl, ?_, ?_, ?_, ?_, ?_, ?_, ?_, rfl, rfl, by decide +kernel⟩ <;> decide +kernel,
    by refine ⟨tJmp 0xA [1], tOn [0x190] [(0x190100, 0x80000000#32), (0x190140, 0x04000000#32), (0x1901C4, 1#32)], _, _, _, by decide +kernel, rfl, by decide +kernel, rfl, ?_, ?_, ?_, ?_, ?_, ?_, ?_, rfl, by decide +kernel⟩ <;> decide +kernel,
    by refine ⟨tJmp 0xA [3], tOn [0x190] [(0x190100, 0x80000000#32), (0x190140, 0x04000000#32), (0x1901C4, 1#32)], _, _, _, by decide +kernel, rfl, by decide +kernel, rfl, ?_, ?_, ?_, ?_, ?_, ?_, ?_, rfl, by decide +kernel⟩ <;> decide +kernel,
    ⟨tJmp 0xB [], { tOn [0x190] [(0x190100, 0x80000000#32), (0x190140, 0x04000000#32), (0x1901C4, 1#32)] with regs := (0x2100, 0xB0000000#32) :: (tOn [0x190] [(0x190100, 0x80000000#32), (0x190140, 0x04000000#32), (0x1901C4, 1#32)]).regs, hst := { parts := [(0, { m0 := true })] } }, _, _, by decide +kernel, rfl, by decide +kernel, rfl, by decide +kernel⟩,
    ⟨tJmp 0xB [], tOn [0x190] [(0x190100, 0x80000000#32), (0x190140, 0x04000000#32), (0x1901C4, 1#32)], _, _, by decide +kernel, rfl, by decide +kernel, rfl, by decide +kernel⟩,
    ⟨0, { tOn [0x190] [(0x190100, 0x80000000#32), (0x190140, 0x04000000#32), (0x1901C4, 1#32)] with hst := { parts := [(0, { events := [1] })] } }, _, rfl, by decide +kernel⟩⟩

/-- The hypotheses of `Obligations.UpdateCommandsComplete` are met. -/
theorem witness_UpdateCommandsComplete :
    (∃ (op : _) (c : Cmd) (s : State) (t : _) (r0 : _), t = markStarted op c s ∧ Served op c s ∧ isOwner c.who 0x1A0 t = true ∧ r0 = bootRec t ∧ op = 0x58 ∧ trialRuns t = false ∧ r0.trial = false ∧ t.fwu.pause = false ∧ c.src.len = 64 ∧ srcBad c t = false ∧ t.fwu.dl = none) ∧
    (∃ (op : _) (c : Cmd) (s : State) (t : _) (r0 : _) (d : _), t = markStarted op c s ∧ Served op c s ∧ isOwner c.who 0x1A0 t = true ∧ r0 = bootRec t ∧ op = 0x58 ∧ trialRuns t = false ∧ r0.trial = false ∧ t.fwu.pause = false ∧ c.src.len = 64 ∧ srcBad c t = false ∧ t.fwu.dl = some d ∧ d.manifest = srcBytes c t) ∧
    (∃ (op : _) (c : Cmd) (s : State) (t : _) (r0 : _) (d : _) (i : _), t = markStarted op c s ∧ Served op c s ∧ isOwner c.who 0x1A0 t = true ∧ r0 = bootRec t ∧ op = 0x59 ∧ t.fwu.dl = some d ∧ i = c.argF 0 8 0 ∧ i < d.chunks ∧ 0 < c.src.len ∧ c.src.len ≤ 65536 ∧ (c.src.len = 65536 ∨ i + 1 = d.chunks) ∧ srcBad c t = false ∧ (i = 0 → (srcBytes c t).take 64 = d.manifest)) ∧
    (∃ (op : _) (c : Cmd) (s : State) (t : _) (r0 : _) (d : _) (r : _), t = markStarted op c s ∧ Served op c s ∧ isOwner c.who 0x1A0 t = true ∧ r0 = bootRec t ∧ op = 0x5A ∧ t.fwu.dl = some d ∧ d.chunks ≤ d.have_.length ∧ r = verifyImage d.slot t) ∧
    (∃ (op : _) (c : Cmd) (s : State) (t : _) (r0 : _) (d : _) (u : State), t = markStarted op c s ∧ Served op c s ∧ isOwner c.who 0x1A0 t = true ∧ r0 = bootRec t ∧ op = 0x5B ∧ t.fwu.pause = false ∧ t.fwu.dl = some d ∧ d.verified = true ∧ u = (t |> complete false (refOf 0x5B c) ACCEPTED 0 0 0 |> writeBoot { r0 with trial := true, tries := 1, tcfg := !r0.cfgHalf } |> setDl none |> beginPause)) ∧
    (∃ (op : _) (c : Cmd) (s : State) (t : _) (r0 : _) (u : State), t = markStarted op c s ∧ Served op c s ∧ isOwner c.who 0x1A0 t = true ∧ r0 = bootRec t ∧ op = 0x5C ∧ trialRuns t = true ∧ u = (t |> writeBoot { r0 with slot := runSlot t, trial := false, cfgHalf := r0.tcfg, tcfg := r0.cfgHalf } |> blowFuses (runSlot t) |> setB FWU_BOOT_TRIAL false |> setF FWU_BOOT_TRIES 0)) ∧
    (∃ (op : _) (c : Cmd) (s : State) (t : _) (r0 : _), t = markStarted op c s ∧ Served op c s ∧ isOwner c.who 0x1A0 t = true ∧ r0 = bootRec t ∧ op = 0x5D ∧ trialRuns t = false ∧ t.fwu.dl.isSome = true) ∧
    (∃ (op : _) (c : Cmd) (s : State) (t : _) (r0 : _), t = markStarted op c s ∧ Served op c s ∧ isOwner c.who 0x1A0 t = true ∧ r0 = bootRec t ∧ op = 0x5D ∧ trialRuns t = true) :=
  ⟨⟨0x58, tCmd 64 [], { tOn [0x1A0, 0x1A1] [] with fwu := {  } }, _, _, rfl, by decide +kernel, by decide +kernel, rfl, by decide +kernel⟩,
    ⟨0x58, tCmd 64 [], { tOn [0x1A0, 0x1A1] [] with fwu := { dl := some ⟨false, List.replicate 64 0, 1, [0], false⟩ } }, _, _, ⟨false, List.replicate 64 0, 1, [0], false⟩, rfl, by decide +kernel, by decide +kernel, rfl, by decide +kernel⟩,
    by refine ⟨0x59, tCmd 64 [], { tOn [0x1A0, 0x1A1] [] with fwu := { dl := some ⟨false, List.replicate 64 0, 1, [], false⟩ } }, _, _, ⟨false, List.replicate 64 0, 1, [], false⟩, _, rfl, by decide +kernel, by decide +kernel, rfl, by decide +kernel, by decide +kernel, rfl, ?_, ?_, ?_, ?_, ?_, fun _ => by decide +kernel⟩ <;> decide +kernel,
    ⟨0x5A, tCmd 0 [], { tOn [0x1A0, 0x1A1] [] with fwu := { dl := some ⟨false, List.replicate 64 0, 1, [0], false⟩ } }, _, _, ⟨false, List.replicate 64 0, 1, [0], false⟩, _, rfl, by decide +kernel, by decide +kernel, rfl, by decide +kernel, by decide +kernel, by decide +kernel, rfl⟩,
    ⟨0x5B, tCmd 0 [], { tOn [0x1A0, 0x1A1] [] with fwu := { dl := some ⟨false, List.replicate 64 0, 1, [0], true⟩ } }, _, _, ⟨false, List.replicate 64 0, 1, [0], true⟩, _, rfl, by decide +kernel, by decide +kernel, rfl, by decide +kernel, by decide +kernel, by decide +kernel, by decide +kernel, rfl⟩,
    ⟨0x5C, tCmd 0 [], { tOn [0x1A0, 0x1A1] [(0x1A0100, 0x10000000#32)] with fwu := {  } }, _, _, _, rfl, by decide +kernel, by decide +kernel, rfl, by decide +kernel, by decide +kernel, rfl⟩,
    ⟨0x5D, tCmd 0 [], { tOn [0x1A0, 0x1A1] [] with fwu := { dl := some ⟨false, List.replicate 64 0, 1, [0], false⟩ } }, _, _, rfl, by decide +kernel, by decide +kernel, rfl, by decide +kernel⟩,
    ⟨0x5D, tCmd 0 [], { tOn [0x1A0, 0x1A1] [(0x1A0100, 0x10000000#32)] with fwu := {  } }, _, _, rfl, by decide +kernel, by decide +kernel, rfl, by decide +kernel⟩⟩

/-- The hypotheses of `Obligations.StoreBootAndReportComplete` are met. -/
theorem witness_StoreBootAndReportComplete :
    (∃ (us : _) (s : State) (a : _) (t : _), s.fwu.pause = true ∧ a = s.fwu.activate ∧ (t = (s |> ifS (decide (100000 ≤ us)) (each (List.range 8) (abortOutstanding a)) |> fun u => { u with fwu := { u.fwu with pause := false, activate := none } } |> setF FWU_PAUSE_US (min us 0xFFFFF))) ∧ a = none) ∧
    (∃ (us : _) (s : State) (a : _) (t : _) (ref : _), s.fwu.pause = true ∧ a = s.fwu.activate ∧ (t = (s |> ifS (decide (100000 ≤ us)) (each (List.range 8) (abortOutstanding a)) |> fun u => { u with fwu := { u.fwu with pause := false, activate := none } } |> setF FWU_PAUSE_US (min us 0xFFFFF))) ∧ a = some ref) ∧
    (∃ (s : State) (t : _), mainOn s = true ∧ (stage s = 1 ∨ stage s = 2) ∧ s.fwu.pause = false ∧ t = (s |> addF FWU_BOOT_WDOG 1 |> beginPause) ∧ trialRuns s = true) ∧
    (∃ (s : State) (t : _), mainOn s = true ∧ (stage s = 1 ∨ stage s = 2) ∧ s.fwu.pause = false ∧ t = (s |> addF FWU_BOOT_WDOG 1 |> beginPause) ∧ trialRuns s = false) ∧
    (∃ (c : Cmd) (s : State) (t : _) (half : _) (items : _) (k : _), t = markStarted 0x5E c s ∧ Served 0x5E c s ∧ half = runHalf t ∧ items = halfItems half t ∧ k = c.argF 0 15 0 ∧ keyKnown k = true ∧ c.argF 0 31 31 = 1 ∧ isAdmin c.who t = true ∧ c.src.len ≤ 65536 ∧ srcBad c t = false ∧ halfSize half t - (FMap.get [] items k).length + c.src.len ≤ 5242880) ∧
    (∃ (c : Cmd) (s : State) (t : _) (half : _) (items : _) (k : _), t = markStarted 0x5E c s ∧ Served 0x5E c s ∧ half = runHalf t ∧ items = halfItems half t ∧ k = c.argF 0 15 0 ∧ keyKnown k = true ∧ c.argF 0 31 31 = 0 ∧ dstBad c t = false) ∧
    (∃ (s : State), s.fwu.erase = true) ∧
    (∃ (c : Cmd) (s : State) (t : _) (body : _) (b : _), t = markStarted 0x5F c s ∧ Served 0x5F c s ∧ SrcReads c 32 s ∧ c.argF 0 0 0 = 0 ∧ 2580 ≤ c.dst.len ∧ dstBad c t = false ∧ body = wordsBytes (reportBody false (srcWords c s) t) ∧ b = body ++ fitBytes 2420 (Config.mldsaSign t.free (sha3 body))) ∧
    (∃ (s : State) (e : _) (t : _), mainOn s = true ∧ pwrState s = 6 ∧ stage s = 0 ∧ s.fwu.recovery = false ∧ e = slatePlane (s |> migrate |> loadStore) ∧ (t = (s |> migrate |> loadStore |> fun u => { u with fwu := { u.fwu with early := e.2, earlyW := e.1.1, earlyH := e.1.2 } } |> setF FWU_BOOT_STAGE 1 |> raise 0x1A0 2 |> (fun u => each (bootPages u) bootEnable u) |> fun u => ifS (earlyFull u) (fun u => u |> countF HBM_TFULL |> raise 0x170 6) u)) ∧ earlyMap t = none) ∧
    (∃ (s : State) (t : _), mainOn s = true ∧ pwrState s = 6 ∧ stage s = 1 ∧ fullReady s = true ∧ t = (s |> writeEarly |> closeFeed) ∧ earlyMode s = false) ∧
    (∃ (who : _) (b : Bool) (v : Word) (s : State) (t : _), Accepted who 0x1A0 s ∧ inRecovery s = true ∧ v = (if b then 0x80000000 else 0) ∧ t = setB FWU_RCV_CTRL_SLOT b s) :=
  ⟨⟨99999, { tOn [0x1A0, 0x1A1] [] with fwu := { pause := true } }, _, _, by decide +kernel, rfl, rfl, rfl⟩,
    ⟨100000, { tOn [0x1A0, 0x1A1] [] with fwu := { pause := true, activate := some tRef } }, _, _, tRef, by decide +kernel, rfl, rfl, rfl⟩,
    ⟨tAt [] [(0x1A0100, 0x50000000#32)], _, by decide +kernel, by decide +kernel, by decide +kernel, rfl, by decide +kernel⟩,
    ⟨tAt [] [(0x1A0100, 0x80000000#32)], _, by decide +kernel, by decide +kernel, by decide +kernel, rfl, by decide +kernel⟩,
    ⟨tCmd 4 [0x80001000], { tOn [0x1A0, 0x1A1] [] with fwu := {  } }, _, _, _, _, rfl, by decide +kernel, rfl, rfl, rfl, by decide +kernel⟩,
    ⟨tCmd 4 [0x1000], { tOn [0x1A0, 0x1A1] [] with fwu := {  } }, _, _, _, _, rfl, by decide +kernel, rfl, rfl, rfl, by decide +kernel⟩,
    ⟨{ tOn [0x1A0, 0x1A1] [] with fwu := { erase := true } }, by decide +kernel⟩,
    by refine ⟨{ tCmd 32 [0] with dst := ⟨1, 0x1000, 2580⟩ }, { tOn [0x1A0, 0x1A1] [] with fwu := {  } }, _, _, _, rfl, ?_, ?_, ?_, ?_, ?_, rfl, rfl⟩ <;> decide +kernel,
    ⟨{ tAt [] [] with regs := [(0x2100, 0xD0000000#32), (0x1A0100, 0x0#32)] }, _, _, by decide +kernel, by decide +kernel, by decide +kernel, by decide +kernel, rfl, rfl, by decide +kernel⟩,
    ⟨{ tAt [] [] with regs := [(0x2100, 0xD0000000#32), (0x1A0100, 0x40000000#32)] ++ [0x148, 0x170, 0x171, 0x172, 0x173].map (fun p => (4096 * p + 8, 2#32)), pwr := { vhv := true, mainPg := true, zones := (List.range 16).map (fun z => (z, { ran := true })) }, fwu := { copied := true } }, _, by decide +kernel, by decide +kernel, by decide +kernel, by decide +kernel, rfl, by decide +kernel⟩,
    ⟨.fw, true, _, tAt [(0x1A0, 2)] [(0x1A0100, 0xC0000000#32)], _, by decide +kernel, by decide +kernel, rfl, rfl⟩⟩

/-- The hypotheses of `Obligations.FlashRecordsReadBack` are met. -/
theorem witness_FlashRecordsReadBack :
    (∃ (r : BootRec) (s : State) (t : State), r.tries < 4 ∧ t = writeBoot r s) ∧
    (∃ (half : Bool) (fmt : Nat) (key : Nat) (data : List Byte) (s : State) (t : State) (k : _), t = writeItem half fmt key data s ∧ k ≠ key) :=
  ⟨⟨⟨0, false, true, 3, false, true⟩, State.reset, _, by decide +kernel, rfl⟩,
    ⟨true, 1, 1, [1], State.reset, _, 2, rfl, by decide +kernel⟩⟩

/-- The hypotheses of `Obligations.StepRunsFront` are met. -/
theorem witness_StepRunsFront :
    (∃ (c : Instr) (rest : List Instr) (s : State), s.pending = c :: rest) ∧
    (∃ (s : State), s.pending = []) :=
  ⟨⟨.aoclkTick, [.nop (tCmd 0 [])], { State.reset with pending := [.aoclkTick, .nop (tCmd 0 [])] }, by decide +kernel⟩,
    ⟨State.reset, by decide +kernel⟩⟩

/-- The hypotheses of `Obligations.ResetValues` are met. -/
theorem witness_ResetValues :
    (∃ (p : Nat) (k : Nat), p ∈ [0, 31, 63] ∧ k ∈ [0, 15]) ∧
    (∃ (page : Nat), page ∈ allPages ∧ hasLifecycle page = true) :=
  ⟨⟨63, 15, by decide +kernel⟩,
    ⟨0x60, by decide +kernel⟩⟩

/-- The hypotheses of `Obligations.OffPagesReadZero` are met. -/
theorem witness_OffPagesReadZero :
    (∃ (addr : Nat), assigned (addr / 0x1000) = false) ∧
    (∃ (addr : Nat) (s : State), assigned (addr / 0x1000) = true ∧ answers (addr / 0x1000) s = false) ∧
    (∃ (s : State), mainOn s = false) :=
  ⟨⟨0x3000, by decide +kernel⟩,
    ⟨0x60000, State.reset, by decide +kernel⟩,
    ⟨State.reset, by decide +kernel⟩⟩

/-- The hypotheses of `Obligations.ReservedOffsetsReadZero` are met. -/
theorem witness_ReservedOffsetsReadZero :
    (∃ (addr : Nat) (s : State), regAt addr = none ∧ readShown (addr / 0x1000) (addr % 0x1000) s = none) ∧
    (∃ (who : _) (addr : Nat) (s : State), regAt addr = none ∧ addr / 0x1000 ∈ [0x01, 0x18, 0x68, 0x170, 0x171, 0x172, 0x173, 0x178] ∧ 0x100 ≤ addr % 0x1000 ∧ Accepted who (addr / 0x1000) s) :=
  ⟨⟨0x1FFC, State.reset, by decide +kernel⟩,
    ⟨.fw, 0x1FFC, tAt [(0x1, 2)] [], by decide +kernel⟩⟩

/-- The hypotheses of `Obligations.CapWriteJudged` are met. -/
theorem witness_CapWriteJudged :
    (∃ (who : Who) (b : Fin 8) (s : State), s.Canonical ∧ Accepted who (0x80 + b.val) s) :=
  ⟨.fw, 7, tAt [(0x87, 2)] [], ⟨by decide +kernel, by decide +kernel, by decide +kernel, by decide +kernel⟩, by decide +kernel⟩

/-- The hypotheses of `Obligations.StepKeepsCanonical` are met. -/
theorem witness_StepKeepsCanonical :
    (∃ (s : State) (t : State), s.Canonical ∧ step s = .next t) :=
  ⟨State.reset, State.reset, ⟨by decide +kernel, by decide +kernel, by decide +kernel, by decide +kernel⟩, rfl⟩

/-- The hypotheses of `Obligations.RaisingTouchesEventsOnly` are met. -/
theorem witness_RaisingTouchesEventsOnly :
    (∃ (page : Nat), page < 0x1C0) ∧
    (∃ (page : Nat) (b : Nat) (s : State), s.Canonical ∧ page < 0x190 ∧ 2 ≤ b ∧ b < 32 ∧ bitOf (getF (EV_EN page) s) b = true) :=
  ⟨⟨0x1BF, by decide +kernel⟩,
    ⟨0x60, 31, tAt [(0x60, 2)] [(0x60014, 0x80000000#32)], ⟨by decide +kernel, by decide +kernel, by decide +kernel, by decide +kernel⟩, by decide +kernel⟩⟩

/-- The hypotheses of `Obligations.JmpRepeatAnsweredAgain` are met. -/
theorem witness_JmpRepeatAnsweredAgain :
    (∃ (m : JmpIn) (s : State) (u : State) (a : _), (u = jmpStamp m { s with hst := { s.hst with jmpIn := dropFirst (fun x => decide (x = m)) s.hst.jmpIn } }) ∧ m.words ≠ [] ∧ s.fwu.pause = false ∧ jmpAccepted m u = true ∧ (u.prt (jmpPart m)).lastSet = true ∧ wordAt m.words 1 = (rd (HST_JMP_SEQ (jmpPart m)).addr s).toNat ∧ (u.prt (jmpPart m)).answer = some a ∧ jmpType m = 5) ∧
    (∃ (m : JmpIn) (s : State) (u : State) (a : _), (u = jmpStamp m { s with hst := { s.hst with jmpIn := dropFirst (fun x => decide (x = m)) s.hst.jmpIn } }) ∧ m.words ≠ [] ∧ s.fwu.pause = false ∧ jmpAccepted m u = true ∧ (u.prt (jmpPart m)).lastSet = true ∧ wordAt m.words 1 = (rd (HST_JMP_SEQ (jmpPart m)).addr s).toNat ∧ (u.prt (jmpPart m)).answer = some a ∧ jmpType m = 7) ∧
    (∃ (m : JmpIn) (s : State) (u : State) (a : _), (u = jmpStamp m { s with hst := { s.hst with jmpIn := dropFirst (fun x => decide (x = m)) s.hst.jmpIn } }) ∧ m.words ≠ [] ∧ s.fwu.pause = false ∧ jmpAccepted m u = true ∧ (u.prt (jmpPart m)).lastSet = true ∧ wordAt m.words 1 = (rd (HST_JMP_SEQ (jmpPart m)).addr s).toNat ∧ (u.prt (jmpPart m)).answer = some a ∧ jmpType m = 0xA) ∧
    (∃ (m : JmpIn) (s : State) (u : State) (c : Instr), (u = jmpStamp m { s with hst := { s.hst with jmpIn := dropFirst (fun x => decide (x = m)) s.hst.jmpIn } }) ∧ m.words ≠ [] ∧ s.fwu.pause = false ∧ jmpAccepted m u = true ∧ (u.prt (jmpPart m)).lastSet = true ∧ wordAt m.words 1 ≠ (rd (HST_JMP_SEQ (jmpPart m)).addr s).toNat ∧ diff32 (wordAt m.words 1) (rd (HST_JMP_SEQ (jmpPart m)).addr s).toNat < 0 ∧ transport (jmpPart m) s = 2 ∧ answers 0x190 s = true ∧ ((jmpType m = 5 ∧ c = .jmpRegWrite m) ∨ (jmpType m = 7 ∧ c = .jmpMemWrite m) ∨ (jmpType m = 0xA ∧ c = .jmpPower m))) :=
  ⟨⟨tJmp 5 [0x140, 1, 0], { tOn [0x190] [(0x190100, 0x80000000#32), (0x190140, 0x04000000#32), (0x1901C4, 1#32), (0x190158, 1#32)] with hst := { parts := [(0, { lastSet := true, answer := some ⟨6, 1, []⟩ })] } }, _, ⟨6, 1, []⟩, rfl, by decide +kernel⟩,
    ⟨tJmp 7 [0, 0x10000, 5], { tOn [0x190] [(0x190100, 0x80000000#32), (0x190140, 0x04000000#32), (0x1901C4, 1#32), (0x190158, 1#32)] with hst := { parts := [(0, { lastSet := true, answer := some ⟨6, 1, []⟩ })] } }, _, ⟨6, 1, []⟩, rfl, by decide +kernel⟩,
    ⟨tJmp 0xA [1], { tOn [0x190] [(0x190100, 0x80000000#32), (0x190140, 0x04000000#32), (0x1901C4, 1#32), (0x190158, 1#32)] with hst := { parts := [(0, { lastSet := true, answer := some ⟨6, 1, []⟩ })] } }, _, ⟨6, 1, []⟩, rfl, by decide +kernel⟩,
    by refine ⟨tJmp 5 [0x140, 1, 0], { tOn [0x190] [(0x190100, 0x80000000#32), (0x190140, 0x04000000#32), (0x1901C4, 1#32), (0x190158, 2#32)] with hst := { parts := [(0, { lastSet := true, answer := some ⟨6, 1, []⟩ })] } }, _, .jmpRegWrite (tJmp 5 [0x140, 1, 0]), rfl, ?_, ?_, ?_, ?_, ?_, ?_, ?_, ?_, Or.inl ⟨by decide +kernel, rfl⟩⟩ <;> decide +kernel⟩

/-- The hypotheses of `Obligations.UnacceptedWriteIsCounted` are met. -/
theorem witness_UnacceptedWriteIsCounted :
    (∃ (p : Fin 8) (addr : Nat) (s : State), s.Canonical ∧ assigned (addr / 0x1000) = true ∧ answers (addr / 0x1000) s = true ∧ mainOn s = true ∧ accepts (.part p) (addr / 0x1000) (addr % 0x1000) s = false) :=
  ⟨7, 0x60104, tAt [(0x60, 2)] [], ⟨by decide +kernel, by decide +kernel, by decide +kernel, by decide +kernel⟩, by decide +kernel⟩

/-- The hypotheses of `Obligations.SluiceBoundHolds` are met. -/
theorem witness_SluiceBoundHolds :
    (∃ (o : List Byte), 1 ≤ o.length ∧ o.length ≤ 65536) :=
  ⟨[0], by decide +kernel⟩

/-- The hypotheses of `Obligations.SluiceRoundTrip` are met. -/
theorem witness_SluiceRoundTrip :
    (∃ (o : List Byte), 1 ≤ o.length ∧ o.length ≤ 65536) :=
  ⟨[0], by decide +kernel⟩

/-- The hypotheses of `Obligations.SluiceAcceptsSoundBlocksOnly` are met. -/
theorem witness_SluiceAcceptsSoundBlocksOnly :
    (∃ (b : List Byte) (o : List Byte) (rest : List Byte), sluTake b = .ok (o, rest) ∧ bitOf (wordAt (bytesWords (b.take 12)) 0) 27 = true) ∧
    (∃ (b : List Byte) (e : Nat), sluTake b = .error e) :=
  ⟨⟨wordsBytes [0x18000000, 1, BitVec.ofNat 32 (crcBytes [0])] ++ [0, 0, 0, 0], [0], [], by decide +kernel⟩,
    ⟨[], 3, by decide +kernel⟩⟩

/-- The hypotheses of `Obligations.MemoryReadsBackWrites` are met. -/
theorem witness_MemoryReadsBackWrites :
    (∃ (a : Nat) (bs : List Byte) (s : State), s.Canonical ∧ a + bs.length ≤ 0x1800000000 ∧ (∀ i, i < bs.length → stackDead (a + i) s = false)) ∧
    (∃ (a : Nat) (bs : List Byte) (s : State), s.Canonical ∧ a + bs.length ≤ 2 ^ 64) ∧
    (∃ (a : Nat) (b : Nat) (bs : List Byte), a + bs.length ≤ 2 ^ 64 ∧ b < 2 ^ 64 ∧ (¬(a ≤ b ∧ b < a + bs.length))) ∧
    (∃ (p : Nat) (q : Nat), p ≠ q) ∧
    (∃ (a : Nat), 0x1800000000 ≤ a) ∧
    (∃ (a : Nat) (s : State), stackDead a s = true) ∧
    (∃ (a : Nat) (s : State), a < 0x1800000000 ∧ stackDead a s = false) :=
  ⟨⟨0x17FFFFFFFF, [1], tOn [] [], ⟨by decide +kernel, by decide +kernel, by decide +kernel, by decide +kernel⟩, by decide +kernel⟩,
    ⟨0xFFFFFFFFFFFFFFFF, [1], tOn [] [], ⟨by decide +kernel, by decide +kernel, by decide +kernel, by decide +kernel⟩, by decide +kernel⟩,
    ⟨0, 1, [1], by decide +kernel⟩,
    ⟨0, 1, by decide +kernel⟩,
    ⟨0x1800000000, by decide +kernel⟩,
    ⟨0x100, tAt [(0x171, 7)] [], by decide +kernel⟩,
    ⟨0x17FFFFFFFF, tOn [] [], by decide +kernel⟩⟩

/-- The hypotheses of `Obligations.FieldsFollowTheirAccessType` are met. -/
theorem witness_FieldsFollowTheirAccessType :
    (∃ (addr : Nat) (v : Word) (s : State) (t : State) (d : RegDef) (f : _) (new : _) (old : _) (after : _), s.Canonical ∧ regAt addr = some d ∧ t = writePlain addr v.toNat s ∧ f ∈ d.fields ∧ new = bitsOf v.toNat f.hi f.lo ∧ old = getF ⟨addr, f.hi, f.lo⟩ s ∧ after = getF ⟨addr, f.hi, f.lo⟩ t ∧ f.acc ∈ [.rw, .rws, .sh] ∧ f.rng = .any) ∧
    (∃ (addr : Nat) (v : Word) (s : State) (t : State) (d : RegDef) (f : _) (new : _) (old : _) (after : _) (lo : _) (hi : _), s.Canonical ∧ regAt addr = some d ∧ t = writePlain addr v.toNat s ∧ f ∈ d.fields ∧ new = bitsOf v.toNat f.hi f.lo ∧ old = getF ⟨addr, f.hi, f.lo⟩ s ∧ after = getF ⟨addr, f.hi, f.lo⟩ t ∧ f.acc ∈ [.rw, .rws, .sh] ∧ f.rng = .keep lo hi) ∧
    (∃ (addr : Nat) (v : Word) (s : State) (t : State) (d : RegDef) (f : _) (new : _) (old : _) (after : _), s.Canonical ∧ regAt addr = some d ∧ t = writePlain addr v.toNat s ∧ f ∈ d.fields ∧ new = bitsOf v.toNat f.hi f.lo ∧ old = getF ⟨addr, f.hi, f.lo⟩ s ∧ after = getF ⟨addr, f.hi, f.lo⟩ t ∧ f.acc = .cnt0) ∧
    (∃ (addr : Nat) (v : Word) (s : State) (t : State) (d : RegDef) (f : _) (new : _) (old : _) (after : _), s.Canonical ∧ regAt addr = some d ∧ t = writePlain addr v.toNat s ∧ f ∈ d.fields ∧ new = bitsOf v.toNat f.hi f.lo ∧ old = getF ⟨addr, f.hi, f.lo⟩ s ∧ after = getF ⟨addr, f.hi, f.lo⟩ t ∧ f.acc = .w1c) ∧
    (∃ (addr : Nat) (v : Word) (s : State) (t : State) (d : RegDef) (f : _) (new : _) (old : _) (after : _), s.Canonical ∧ regAt addr = some d ∧ t = writePlain addr v.toNat s ∧ f ∈ d.fields ∧ new = bitsOf v.toNat f.hi f.lo ∧ old = getF ⟨addr, f.hi, f.lo⟩ s ∧ after = getF ⟨addr, f.hi, f.lo⟩ t ∧ f.acc ∈ [.ro, .wo, .own, .win]) ∧
    (∃ (addr : Nat) (v : Word) (s : State) (t : State) (d : RegDef) (a : _), s.Canonical ∧ regAt addr = some d ∧ t = writePlain addr v.toNat s ∧ a ≠ addr) ∧
    (∃ (who : Who) (addr : Nat) (s : State), addr / 0x1000 ∈ [0x01, 0x18, 0x68, 0x170, 0x171, 0x172, 0x173, 0x178] ∧ 0x100 ≤ addr % 0x1000 ∧ (addr % 0x1000 = 0x100 → addr / 0x1000 ≤ 0x68 ∨ addr / 0x1000 = 0x178) ∧ Accepted who (addr / 0x1000) s) ∧
    (∃ (who : Who) (i : Fin 4) (s : State), Accepted who (0x170 + i.val) s) :=
  ⟨⟨0x140, 5, State.reset, _, ⟨0, 1, 320, 4, 4, [⟨31, 0, .rws, .any, 0⟩]⟩, ⟨31, 0, .rws, .any, 0⟩, _, _, _, ⟨by decide +kernel, by decide +kernel, by decide +kernel, by decide +kernel⟩, by decide +kernel, rfl, by decide +kernel, rfl, rfl, rfl, by decide +kernel⟩,
    ⟨0x10414, 7, State.reset, _, ⟨16, 1, 1044, 32, 16, [⟨23, 0, .rw, .keep 8 16777215, 0x64⟩]⟩, ⟨23, 0, .rw, .keep 8 16777215, 0x64⟩, _, _, _, 8, 16777215, ⟨by decide +kernel, by decide +kernel, by decide +kernel, by decide +kernel⟩, by decide +kernel, rfl, by decide +kernel, rfl, rfl, rfl, by decide +kernel⟩,
    ⟨0x1104, 0, State.reset, _, ⟨1, 1, 260, 4, 1, [⟨31, 0, .cnt0, .any, 0⟩]⟩, ⟨31, 0, .cnt0, .any, 0⟩, _, _, _, ⟨by decide +kernel, by decide +kernel, by decide +kernel, by decide +kernel⟩, by decide +kernel, rfl, by decide +kernel, rfl, rfl, rfl, by decide +kernel⟩,
    ⟨0x100808, 1, State.reset, _, ⟨256, 64, 2056, 128, 16, [⟨14, 0, .w1c, .any, 0⟩]⟩, ⟨14, 0, .w1c, .any, 0⟩, _, _, _, ⟨by decide +kernel, by decide +kernel, by decide +kernel, by decide +kernel⟩, by decide +kernel, rfl, by decide +kernel, rfl, rfl, rfl, by decide +kernel⟩,
    ⟨0x18108, 0, State.reset, _, ⟨24, 1, 264, 4, 1, [⟨2, 0, .ro, .any, 7⟩]⟩, ⟨2, 0, .ro, .any, 7⟩, _, _, _, ⟨by decide +kernel, by decide +kernel, by decide +kernel, by decide +kernel⟩, by decide +kernel, rfl, by decide +kernel, rfl, rfl, rfl, by decide +kernel⟩,
    ⟨0x140, 5, State.reset, _, ⟨0, 1, 320, 4, 4, [⟨31, 0, .rws, .any, 0⟩]⟩, 0x144, ⟨by decide +kernel, by decide +kernel, by decide +kernel, by decide +kernel⟩, by decide +kernel, rfl, by decide +kernel⟩,
    ⟨.fw, 0x1FFC, tAt [(0x1, 2)] [], by decide +kernel⟩,
    ⟨.fw, 3, tAt [(0x170, 2), (0x171, 2), (0x172, 2), (0x173, 2)] [], by decide +kernel⟩⟩

/-- The hypotheses of `Obligations.RequestsAreServedInTieOrder` are met. -/
theorem witness_RequestsAreServedInTieOrder :
    (∃ (reqs : List Cmd) (n : Nat) (ptr : Nat), 0 < n ∧ ptr < n ∧ (∀ c ∈ reqs, c.idx < n)) :=
  ⟨[tCmd 0 []], 9, 8, by decide +kernel⟩

/-- The hypotheses of `Obligations.SemaphoreTieHasOneWinner` are met. -/
theorem witness_SemaphoreTieHasOneWinner :
    (∃ (ps : List (Fin 8)) (n : Fin 64) (w : Fin 8) (k : Nat) (s : State), s.Canonical ∧ answers 0x190 s = true ∧ ps.Nodup ∧ 2 ≤ ps.length ∧ w ∈ ps ∧ 1 ≤ k ∧ k ≤ 8 ∧ w.val = (getF HST_SEM_TIE_PTR s + k) % 8 ∧ (∀ q ∈ ps, ∀ j, 1 ≤ j → j < k → q.val ≠ (getF HST_SEM_TIE_PTR s + j) % 8) ∧ getB (HST_SEM_HELD n.val) s = false) :=
  ⟨[0, 7], 63, 0, 1, tAt [(0x170, 2), (0x171, 2), (0x172, 2), (0x173, 2), (0x190, 2)] [], ⟨by decide +kernel, by decide +kernel, by decide +kernel, by decide +kernel⟩, by decide +kernel⟩

/-- The hypotheses of `Obligations.CompletionRecordsAreWritten` are met. -/
theorem witness_CompletionRecordsAreWritten :
    (∃ (p : Fin 8) (final : Bool) (r : CmdRef) (status : Nat) (reason : Nat) (r0 : Nat) (r1 : Nat) (j : Nat) (addr : Nat) (s : State) (t : State) (b : _), s.Canonical ∧ ringDown p.val addr 16 s = false ∧ r.op < 256 ∧ status < 256 ∧ reason < 256 ∧ j = getF (HST_CPL_TAIL_IDX p.val) s ∧ addr = cplBase p.val s + 16 * (j % (2 * ringN p.val s)) ∧ (getB (HST_RING_CTRL_RSPACE p.val) s = false → ∀ i, i < 16 → stackDead (addr + i) s = false) ∧ (getB (HST_RING_CTRL_RSPACE p.val) s = true → addr + 16 ≤ 2 ^ 64) ∧ t = writeCpl p.val final r status reason r0 r1 s ∧ getB (HST_RING_CTRL_RSPACE p.val) s = false ∧ (¬(addr ≤ b ∧ b < addr + 16))) ∧
    (∃ (p : Fin 8) (final : Bool) (r : CmdRef) (status : Nat) (reason : Nat) (r0 : Nat) (r1 : Nat) (j : Nat) (addr : Nat) (s : State) (t : State) (a : _), s.Canonical ∧ ringDown p.val addr 16 s = false ∧ r.op < 256 ∧ status < 256 ∧ reason < 256 ∧ j = getF (HST_CPL_TAIL_IDX p.val) s ∧ addr = cplBase p.val s + 16 * (j % (2 * ringN p.val s)) ∧ (getB (HST_RING_CTRL_RSPACE p.val) s = false → ∀ i, i < 16 → stackDead (addr + i) s = false) ∧ (getB (HST_RING_CTRL_RSPACE p.val) s = true → addr + 16 ≤ 2 ^ 64) ∧ t = writeCpl p.val final r status reason r0 r1 s ∧ eventReg a = false ∧ a ≠ (HST_CPL_TAIL_IDX p.val).addr ∧ a ≠ (HST_JMP_DSEQ p.val).addr) ∧
    (∃ (p : Fin 8) (s : State), ringDown p.val (cplAddr p.val (getF (HST_CPL_TAIL_IDX p.val) s) s) 16 s = true) :=
  ⟨⟨0, true, tRef, 255, 255, 0, 0, _, _, tAt [(0x170, 2), (0x171, 2), (0x172, 2), (0x173, 2), (0x190, 2)] [], _, 16, ⟨by decide +kernel, by decide +kernel, by decide +kernel, by decide +kernel⟩, by decide +kernel, by decide +kernel, by decide +kernel, by decide +kernel, rfl, rfl, by decide +kernel, by decide +kernel, rfl, by decide +kernel⟩,
    ⟨0, true, tRef, 255, 255, 0, 0, _, _, tAt [(0x170, 2), (0x171, 2), (0x172, 2), (0x173, 2), (0x190, 2)] [], _, 0x100, ⟨by decide +kernel, by decide +kernel, by decide +kernel, by decide +kernel⟩, by decide +kernel, by decide +kernel, by decide +kernel, by decide +kernel, rfl, rfl, by decide +kernel, by decide +kernel, rfl, by decide +kernel⟩,
    ⟨0, tOn [0x190] [(0x190104, 0x40000000#32)], by decide +kernel⟩⟩

/-- The hypotheses of `Obligations.HostWritesStayInTheirRegions` are met. -/
theorem witness_HostWritesStayInTheirRegions :
    (∃ (m : JmpIn) (b : Nat) (s : State) (t : State), exec (.jmpMemWrite m) s = .next t ∧ (∀ k, k < 8 → ¬(getF (HST_REG_BASE (jmpPart m) k) s * 2 ^ 20 ≤ b ∧ b < (getF (HST_REG_BASE (jmpPart m) k) s + getF (HST_REG_SIZE (jmpPart m) k) s) * 2 ^ 20))) ∧
    (∃ (p : Fin 8) (off : Nat) (b : Nat) (bs : List Byte) (s : State) (t : State), exec (.bar2WindowAccess p off (.write bs)) s = .next t ∧ (∀ k, k < 8 → ¬(getF (HST_REG_BASE p.val k) s * 2 ^ 20 ≤ b ∧ b < (getF (HST_REG_BASE p.val k) s + getF (HST_REG_SIZE p.val k) s) * 2 ^ 20))) ∧
    (∃ (p : Fin 8) (off : Nat) (n : Nat) (s : State) (t : State), exec (.bar2WindowAccess p off (.read n)) s = .next t) :=
  ⟨⟨tJmp 7 [0, 0x10000, 5], 0x100000, tOn [0x190] [(0x190100, 0x80000000#32), (0x190140, 0x04000000#32), (0x1901C4, 1#32)], _, rfl, by decide +kernel⟩,
    ⟨0, 0, 0x200000, [1], { tAt [] [(0x190100, 0x40000000#32), (0x1901C4, 2#32)] with hst := { links := [(0, true)] } }, _, rfl, by decide +kernel⟩,
    ⟨0, 0, 4, { tAt [] [(0x190100, 0x40000000#32), (0x1901C4, 2#32)] with hst := { links := [(0, true)] } }, _, rfl⟩⟩

end Sys2Proof.Tests
end

section
/-!
PROOFS. Laws of memory (R409, R410, R420, R422): what a byte reads after a write to the same and to another place, and what
a run of bytes reads after it is written.
-/

namespace Sys2Proof.Machine

variable {s : State}

/-! ## One byte of HBM -/

/-- Above HBM's range, or on a stack in FAULT, a write is discarded (R410, R422). -/
theorem hbmPut_eq_self {a : Nat} (v : Byte) (h : hbmTop ≤ a ∨ stackDead a s = true) : hbmPut a v s = s := by
  refine if_neg fun hp => ?_
  obtain ⟨hlt, hlive⟩ : a < hbmTop ∧ stackDead a s = false := by simpa using hp
  rcases h with htop | hdead
  · omega
  · simp [hlive] at hdead

theorem hbmPut_of_live {a : Nat} (v : Byte) (ha : a < hbmTop) (hl : stackDead a s = false) :
    hbmPut a v s = { s with hbm := FMap.set 0 s.hbm a v, poison := s.poison.filter (fun w => decide (w ≠ a)) } :=
  if_pos (by simp [ha, hl])

theorem hbmGet_of_le {a : Nat} (h : hbmTop ≤ a) : hbmGet a s = 0 := if_pos h

theorem hbmGet_of_good {a : Nat} (ha : a < hbmTop) (hp : a ∉ s.poison) (hl : stackDead a s = false) :
    hbmGet a s = FMap.get 0 s.hbm a := by
  simp [hbmGet, hp, hl, Nat.not_le.2 ha]

theorem stackDead_congr {t : State} (a : Nat) (h : t.regs = s.regs) : stackDead a t = stackDead a s := by
  have hf : getF (PG_STAT_STATE (0x170 + a / 256 % 4)) t = getF (PG_STAT_STATE (0x170 + a / 256 % 4)) s := by
    simp only [getF, rd, h]
  unfold stackDead
  rw [hf]

/-- What a byte of HBM reads depends on the contents and the mark of that byte alone, besides the state of its stack and the
counter of free values. -/
theorem hbmGet_congr {b : Nat} {t : State} (hregs : t.regs = s.regs) (hfree : t.free = s.free)
    (hp : b ∈ t.poison ↔ b ∈ s.poison) (hm : FMap.get 0 t.hbm b = FMap.get 0 s.hbm b) : hbmGet b t = hbmGet b s := by
  simp only [hbmGet, stackDead_congr b hregs, hfree, hm, List.contains_eq_mem, hp]

@[simp] theorem hbmPut_regs (a : Nat) (v : Byte) : (hbmPut a v s).regs = s.regs := by unfold hbmPut; split <;> rfl

@[simp] theorem hbmPut_hostMem (a : Nat) (v : Byte) : (hbmPut a v s).hostMem = s.hostMem := by unfold hbmPut; split <;> rfl

/-- A byte written is no longer marked bad (R420; log 61). -/
theorem notMem_poison_hbmPut {a : Nat} (v : Byte) (ha : a < hbmTop) (hl : stackDead a s = false) :
    a ∉ (hbmPut a v s).poison := by
  simp [hbmPut_of_live v ha hl]

/-! ## One byte of either memory -/

@[simp] theorem memPut_regs (sp : Space) (a : Nat) (v : Byte) : (memPut sp a v s).regs = s.regs := by
  cases sp with
  | hbm => exact hbmPut_regs a v
  | host p => rfl

/-- A write of a byte reaches no register, so a stack is in FAULT after it where it was before. -/
@[simp] theorem stackDead_memPut (sp : Space) (a b : Nat) (v : Byte) : stackDead b (memPut sp a v s) = stackDead b s :=
  stackDead_congr b (memPut_regs sp a v)

theorem memPut_canonical (sp : Space) (a : Nat) (v : Byte) (h : s.Canonical) : (memPut sp a v s).Canonical :=
  (memPut_kept (Q := s.pending) (K := True) ⟨⟨rfl, fun _ => h⟩⟩).parts.canon trivial

/-- A byte written at `a` is stored: in HBM the address lies in range (R410) on a stack that is not in FAULT (R422). -/
def Space.Stores : Space → Nat → State → Prop
  | .hbm, a, s => a < hbmTop ∧ stackDead a s = false
  | .host _, _, _ => True

theorem Space.Stores.memPut {sp sq : Space} {a b : Nat} (v : Byte) (h : sp.Stores b s) : sp.Stores b (memPut sq a v s) := by
  cases sp with
  | hbm => exact ⟨h.1, (stackDead_memPut sq a b v).trans h.2⟩
  | host p => trivial

/-- The byte at `a` of the first space is not the byte at `b` of the second. -/
def Space.Apart : Space → Nat → Space → Nat → Prop
  | .hbm, a, .hbm, b => b ≠ a
  | .host p, a, .host q, b => hostKey q b ≠ hostKey p a
  | .hbm, _, .host _, _ => True
  | .host _, _, .hbm, _ => True

/-- Host memories behind different ports share no byte. -/
theorem hostKey_ne_of_port {p q : Nat} (a b : Nat) (h : p ≠ q) : hostKey q b ≠ hostKey p a := by
  unfold hostKey; omega

/-- Different 64-bit addresses behind one port are different bytes. -/
theorem hostKey_ne_of_addr (p : Nat) {a b : Nat} (ha : a < 2 ^ 64) (hb : b < 2 ^ 64) (h : b ≠ a) :
    hostKey p b ≠ hostKey p a := by
  unfold hostKey; omega

theorem memGet_memPut_same {sp : Space} {a : Nat} (v : Byte) (hs : s.Canonical) (h : sp.Stores a s) :
    memGet sp a (memPut sp a v s) = v := by
  obtain ⟨-, hhbm, -, hhost⟩ := hs
  cases sp with
  | hbm =>
    obtain ⟨ha, hl⟩ := h
    have hread : hbmGet a (hbmPut a v s) = FMap.get 0 (hbmPut a v s).hbm a :=
      hbmGet_of_good ha (notMem_poison_hbmPut v ha hl) ((stackDead_memPut .hbm a a v).trans hl)
    have hset : (hbmPut a v s).hbm = FMap.set 0 s.hbm a v := by rw [hbmPut_of_live v ha hl]
    exact hread.trans (hset ▸ FMap.get_set_same (fun _ => 0) none s.hbm a v hhbm)
  | host p => exact FMap.get_set_same (fun _ => 0) none s.hostMem (hostKey p a) v hhost

theorem hbmGet_hbmPut_of_ne {a b : Nat} (v : Byte) (h : b ≠ a) : hbmGet b (hbmPut a v s) = hbmGet b s := by
  unfold hbmPut
  split
  · exact hbmGet_congr rfl rfl (by simp [h]) (FMap.get_set_other 0 0 s.hbm a b v h)
  · rfl

theorem memGet_memPut_apart {sp sq : Space} {a b : Nat} (v : Byte) (h : sp.Apart a sq b) :
    memGet sq b (memPut sp a v s) = memGet sq b s := by
  match sp, sq with
  | .hbm, .hbm => exact hbmGet_hbmPut_of_ne v h
  | .hbm, .host q => exact congrArg (FMap.get 0 · (hostKey q b)) (hbmPut_hostMem a v)
  | .host p, .hbm => rfl
  | .host p, .host q => exact FMap.get_set_other 0 0 s.hostMem (hostKey p a) (hostKey q b) v h

/-! ## A run of bytes -/

@[simp] theorem memWrite_cons (sp : Space) (a : Nat) (v : Byte) (r : List Byte) :
    memWrite sp a (v :: r) s = memWrite sp (a + 1) r (memPut sp a v s) := rfl

theorem memRead_succ (sp : Space) (a n : Nat) : memRead sp a (n + 1) s = memGet sp a s :: memRead sp (a + 1) n s := by
  simp [memRead, List.range_succ_eq_map, Nat.add_assoc, Nat.add_comm 1]

/-- Writing a run of bytes leaves every byte apart from all of them as it was. -/
theorem memGet_memWrite_apart {sp sq : Space} {a b : Nat} {bs : List Byte}
    (h : ∀ i, i < bs.length → sp.Apart (a + i) sq b) : memGet sq b (memWrite sp a bs s) = memGet sq b s := by
  induction bs generalizing a s with
  | nil => rfl
  | cons v r ih =>
    have hhead : sp.Apart a sq b := h 0 (by simp)
    have htail : ∀ i, i < r.length → sp.Apart (a + 1 + i) sq b := fun i hi => by
      simpa [Nat.add_assoc, Nat.add_comm 1] using h (i + 1) (by simpa using hi)
    rw [memWrite_cons, ih htail, memGet_memPut_apart v hhead]

/-- A run of bytes reads back as written, where each is stored and none is overwritten by a later one. -/
theorem memRead_memWrite {sp : Space} {a : Nat} {bs : List Byte} (hs : s.Canonical)
    (hstore : ∀ i, i < bs.length → sp.Stores (a + i) s)
    (hapart : ∀ i j, i < j → j < bs.length → sp.Apart (a + j) sp (a + i)) :
    memRead sp a bs.length (memWrite sp a bs s) = bs := by
  induction bs generalizing a s with
  | nil => rfl
  | cons v r ih =>
    have hshift : ∀ i, a + 1 + i = a + (i + 1) := fun i => by omega
    have hhead : memGet sp a (memWrite sp (a + 1) r (memPut sp a v s)) = v := by
      rw [memGet_memWrite_apart fun i hi => hshift i ▸ hapart 0 (i + 1) (by omega) (by simpa using hi)]
      exact memGet_memPut_same v hs (hstore 0 (by simp))
    have htail : memRead sp (a + 1) r.length (memWrite sp (a + 1) r (memPut sp a v s)) = r :=
      ih (memPut_canonical sp a v hs)
        (fun i hi => hshift i ▸ (hstore (i + 1) (by simpa using hi)).memPut v)
        (fun i j hij hj => hshift i ▸ hshift j ▸ hapart (i + 1) (j + 1) (by omega) (by simpa using hj))
    rw [List.length_cons, memRead_succ, memWrite_cons, hhead, htail]

end Sys2Proof.Machine
end

section
/-!
PROOFS. The statement about memory.
-/

namespace Sys2Proof.Machine

/-- Settles O54: reading back and the frame are one induction each over the bytes written, for both memories together; the
address arithmetic says which bytes are apart. That a byte above the range reads 0 is log 5, that a byte written alone is
good again is log 61. -/
theorem memoryReadsBackWrites : Obligations.MemoryReadsBackWrites := by
  unfold Obligations.MemoryReadsBackWrites
  refine ⟨?hbmBack, ?hostBack, ?hbmFrame, ?hostFrame, ?otherSpace, ?aboveRange, ?deadStack, ?goodAgain⟩
  case hbmBack =>
    intro a bs s hs hlen hlive
    refine memRead_memWrite hs (fun i hi => ⟨?_, hlive i hi⟩) (fun i j hij _ => ?_)
    · unfold hbmTop; omega
    · show a + i ≠ a + j
      omega
  case hostBack =>
    intro p a bs s hs hlen
    exact memRead_memWrite hs (fun _ _ => trivial)
      (fun i j hij hj => hostKey_ne_of_addr p (by omega) (by omega) (by omega))
  case hbmFrame =>
    intro a b bs s hout
    refine memGet_memWrite_apart fun i hi => ?_
    show b ≠ a + i
    omega
  case hostFrame =>
    intro p a b bs s hlen hb hout
    exact memGet_memWrite_apart fun i hi => hostKey_ne_of_addr p (by omega) hb (by omega)
  case otherSpace =>
    intro p q a b bs s hpq
    exact ⟨memGet_memWrite_apart fun i _ => hostKey_ne_of_port (a + i) b hpq,
      memGet_memWrite_apart fun _ _ => trivial, memGet_memWrite_apart fun _ _ => trivial⟩
  case aboveRange => exact fun a v s ha => ⟨hbmPut_eq_self v (.inl ha), hbmGet_of_le ha⟩
  case deadStack => exact fun a v s hd => hbmPut_eq_self v (.inr hd)
  case goodAgain => exact fun a v s ha hl => notMem_poison_hbmPut v ha hl

end Sys2Proof.Machine
end

section
/-!
PROOFS. What a raise sets (R485, R519): the event's bit in EV_RAW, and in EV_PEND where EV_EN enables it; a delivery writes
no register of a page's common area.
-/

namespace Sys2Proof.Machine

variable {s : State}

/-! ## One bit of a word -/

theorem bitOf_eq_testBit (n i : Nat) : bitOf n i = n.testBit i := by
  rw [Nat.testBit_eq_decide_div_mod_eq]; rfl

/-- A bit of a whole register just set reads 1. -/
theorem bitOf_getF_orF {f : Fld} {b : Nat} (hs : s.Canonical) (hf : f.lo = 0 ∧ f.hi = 31) (hb : b < 32) :
    bitOf (getF f (orF f (2 ^ b) s)) b = true := by
  have hsound : f.sound := by unfold Fld.sound; omega
  have hread : getF f (orF f (2 ^ b) s) = (getF f s ||| 2 ^ b) % 2 ^ 32 := by
    have := getF_setF_same f (Nat.lor (getF f s) (2 ^ b)) hsound hs
    rwa [hf.1, hf.2] at this
  rw [hread, bitOf_eq_testBit, Nat.testBit_mod_two_pow, Nat.testBit_or, Nat.testBit_two_pow_self]
  simp [hb]

/-! ## What a delivery leaves alone -/

theorem rd_msixSend (a p vec : Nat) : rd a (msixSend p vec s) = rd a s := by
  unfold msixSend
  dsimp only
  generalize (if getF (HST_BIND_VECTORS p) s = 0 then 0 else vec % getF (HST_BIND_VECTORS p) s) = v
  split
  · rfl
  · split <;> rfl

theorem rd_notify (a p n vec : Nat) : rd a (notify p n vec s) = rd a s := by
  unfold notify
  split
  · exact rd_msixSend a p vec
  · split <;> rfl

/-- A delivery writes one word of HST_EPEND, which lies beyond the common registers of its page. -/
theorem rd_deliverTo {a n : Nat} (p vec : Nat) (ha : a % 4096 < 0x400) (hn : n < 0x800) :
    rd a (deliverTo p n vec s) = rd a s := by
  have hne : a ≠ (HST_EPEND p (n / 32)).addr := by
    show a ≠ 0x190400 + 0x1000 * p + 0x4 * (n / 32)
    omega
  unfold deliverTo
  dsimp only
  split
  · rfl
  · exact (rd_notify a p n vec).trans (rd_setF_other a _ _ hne)

theorem rd_deliver {a n : Nat} (page : Nat) (ha : a % 4096 < 0x400) (hn : n < 0x800) :
    rd a (deliver page n s) = rd a s := by
  unfold deliver deliverAsleep
  split
  next =>
    split
    · rfl
    · refine foldl_keeps (P := fun t => rd a t = rd a s) rfl fun t p ht => ?_
      dsimp only
      split
      · exact ht
      · split
        · split
          · exact (rd_deliverTo p _ ha hn).trans ht
          · exact ht
        · split <;> exact ht
  next =>
    split
    · rfl
    · refine foldl_keeps (P := fun t => rd a t = rd a s) rfl fun t p ht => ?_
      split
      · exact (rd_deliverTo p _ ha hn).trans ht
      · exact ht

/-! ## The steps of a raise -/

/-- The count of the raises of the event that the bit stands for (R490). -/
def countRaise (page b : Nat) (s : State) : State :=
  match evNum page b with
  | some n => s.setRaisedCnt n ((s.raisedCnt n + 1) % 2 ^ 32)
  | none => s

/-- The delivery of the event that the bit stands for (R485). -/
def deliverRaise (page b : Nat) (s : State) : State :=
  match evNum page b with
  | some n => deliver page n s
  | none => s

theorem raiseCore_eq (page b : Nat) (s : State) : raiseCore page b s =
    if bitOf (getF (EV_EN page) (countRaise page b (orF (EV_RAW page) (2 ^ b) s))) b = true then
      deliverRaise page b (orF (EV_PEND page) (2 ^ b) (countRaise page b (orF (EV_RAW page) (2 ^ b) s)))
    else countRaise page b (orF (EV_RAW page) (2 ^ b) s) := by
  unfold raiseCore countRaise deliverRaise
  cases evNum page b <;> simp only [Bool.not_eq_true', ← Bool.not_eq_true, ite_not]

/-- Bits above the two of R520 reach no bitmap of the SYS page. -/
theorem raise_of_two_le {page b : Nat} (hb : 2 ≤ b) : raise page b s = raiseCore page b s := by
  unfold raise
  exact if_neg fun h => by omega

@[simp] theorem countRaise_regs (page b : Nat) : (countRaise page b s).regs = s.regs := by
  unfold countRaise; split <;> rfl

@[simp] theorem rd_countRaise (a page b : Nat) : rd a (countRaise page b s) = rd a s := by simp [rd]

theorem countRaise_canonical (page b : Nat) (h : s.Canonical) : (countRaise page b s).Canonical := by
  unfold countRaise; split <;> exact h

theorem rd_deliverRaise {a : Nat} (page b : Nat) (ha : a % 4096 < 0x400) : rd a (deliverRaise page b s) = rd a s := by
  unfold deliverRaise
  split
  next n hn => exact rd_deliver page ha (evNum_lt hn)
  next => rfl

/-- A raise sets the bit in EV_RAW. -/
theorem bitOf_raiseCore_raw {page b : Nat} (hs : s.Canonical) (hb : b < 32) :
    bitOf (getF (EV_RAW page) (raiseCore page b s)) b = true := by
  have hraw := bitOf_getF_orF (f := EV_RAW page) hs ⟨rfl, rfl⟩ hb
  have hne : (EV_RAW page).addr ≠ (EV_PEND page).addr := by
    show 0x1000 * page + 0x10 ≠ 0x1000 * page + 0x18
    omega
  have hlow : (EV_RAW page).addr % 4096 < 0x400 := by
    show (0x1000 * page + 0x10) % 4096 < 0x400
    omega
  rw [raiseCore_eq]
  split
  · unfold getF
    rw [rd_deliverRaise page b hlow]
    rw [orF, rd_setF_other _ _ _ hne, rd_countRaise]
    exact hraw
  · unfold getF
    rw [rd_countRaise]
    exact hraw

/-- A raise of an enabled bit sets it in EV_PEND. -/
theorem bitOf_raiseCore_pend {page b : Nat} (hs : s.Canonical) (hb : b < 32)
    (hen : bitOf (getF (EV_EN page) s) b = true) : bitOf (getF (EV_PEND page) (raiseCore page b s)) b = true := by
  have hne : (EV_EN page).addr ≠ (EV_RAW page).addr := by
    show 0x1000 * page + 0x14 ≠ 0x1000 * page + 0x10
    omega
  have hlow : (EV_PEND page).addr % 4096 < 0x400 := by
    show (0x1000 * page + 0x18) % 4096 < 0x400
    omega
  have hen' : getF (EV_EN page) (countRaise page b (orF (EV_RAW page) (2 ^ b) s)) = getF (EV_EN page) s := by
    unfold getF
    rw [rd_countRaise, orF, rd_setF_other _ _ _ hne]
  rw [raiseCore_eq, if_pos (hen' ▸ hen), getF, rd_deliverRaise page b hlow]
  exact bitOf_getF_orF (countRaise_canonical page b (setF_canonical _ _ hs)) ⟨rfl, rfl⟩ hb

/-- Settles O48. -/
theorem raisingTouchesEventsOnly : Obligations.RaisingTouchesEventsOnly := by
  unfold Obligations.RaisingTouchesEventsOnly
  refine ⟨fun page b s hpage => raise_only (EventOnly.refl s) b hpage, fun page b s hs _ h2 hb => ?_⟩
  rw [raise_of_two_le h2]
  exact ⟨bitOf_raiseCore_raw hs hb, bitOf_raiseCore_pend hs hb⟩

end Sys2Proof.Machine
end

section
/-!
PROOFS. Laws of ties (R41, R46): the tie order rearranges the requests, sorted by how far after the pointer each comes.
-/

namespace Sys2Proof.Machine

variable {α : Type} {n ptr : Nat} {idx : α → Nat}

/-! ## How far after the pointer a requester comes -/

/-- The requester `j` places after the pointer has key `j - 1`. -/
theorem tieKey_add {j : Nat} (h1 : 1 ≤ j) (hn : j ≤ n) : tieKey n ptr ((ptr + j) % n) = j - 1 := by
  have hlt : (ptr + 1) % n < n := Nat.mod_lt _ (by omega)
  have hcong : (ptr + j) % n + n - (ptr + 1) % n ≡ j - 1 [MOD n] := by
    refine Nat.ModEq.add_right_cancel' ((ptr + 1) % n) ?_
    calc (ptr + j) % n + n - (ptr + 1) % n + (ptr + 1) % n
        = (ptr + j) % n + n := by omega
      _ ≡ ptr + j [MOD n] := (Nat.add_modEq_right).trans (Nat.mod_modEq _ _)
      _ = j - 1 + (ptr + 1) := by omega
      _ ≡ j - 1 + (ptr + 1) % n [MOD n] := (Nat.mod_modEq (ptr + 1) n).symm.add_left _
  exact Eq.trans hcong (Nat.mod_eq_of_lt (by omega))

/-- A requester comes one place further after the pointer than its key says. -/
theorem ptr_add_tieKey {i : Nat} (hi : i < n) : (ptr + (tieKey n ptr i + 1)) % n = i := by
  have hlt : (ptr + 1) % n < n := Nat.mod_lt _ (by omega)
  have hcong : ptr + (tieKey n ptr i + 1) ≡ i [MOD n] := by
    calc ptr + (tieKey n ptr i + 1)
        = ptr + 1 + (i + n - (ptr + 1) % n) % n := by unfold tieKey; omega
      _ ≡ (ptr + 1) % n + (i + n - (ptr + 1) % n) [MOD n] :=
        (Nat.mod_modEq (ptr + 1) n).symm.add (Nat.mod_modEq _ n)
      _ = i + n := by omega
      _ ≡ i [MOD n] := Nat.add_modEq_right
  exact Eq.trans hcong (Nat.mod_eq_of_lt hi)

/-! ## One request put in its place -/

theorem tieInsert_cons (x y : α) (r : List α) : tieInsert n ptr idx x (y :: r) =
    if tieKey n ptr (idx x) < tieKey n ptr (idx y) then x :: y :: r else y :: tieInsert n ptr idx x r := rfl

theorem tieInsert_perm (x : α) (l : List α) : (tieInsert n ptr idx x l).Perm (x :: l) := by
  induction l with
  | nil => exact .refl _
  | cons y r ih =>
    rw [tieInsert_cons]
    split
    · exact .refl _
    · exact (ih.cons y).trans (.swap x y r)

/-- By the tie rule, `x` is served no later than `y`. -/
def TieLe (n ptr : Nat) (idx : α → Nat) (x y : α) : Prop := tieKey n ptr (idx x) ≤ tieKey n ptr (idx y)

theorem tieInsert_pairwise (x : α) {l : List α} (h : l.Pairwise (TieLe n ptr idx)) :
    (tieInsert n ptr idx x l).Pairwise (TieLe n ptr idx) := by
  induction l with
  | nil => exact List.pairwise_singleton _ x
  | cons y r ih =>
    obtain ⟨hy, hr⟩ := List.pairwise_cons.1 h
    rw [tieInsert_cons]
    split
    next hlt =>
      have hle : TieLe n ptr idx x y := Nat.le_of_lt hlt
      exact .cons (List.forall_mem_cons.2 ⟨hle, fun z hz => Nat.le_trans hle (hy z hz)⟩) h
    next hge =>
      refine .cons (fun z hz => ?_) (ih hr)
      rcases List.mem_cons.1 ((tieInsert_perm x r).mem_iff.1 hz) with rfl | hz
      · exact Nat.le_of_not_lt hge
      · exact hy z hz

theorem tieInsert_map {β : Type} (f : β → α) (x : β) (l : List β) :
    tieInsert n ptr idx (f x) (l.map f) = (tieInsert n ptr (fun y => idx (f y)) x l).map f := by
  induction l with
  | nil => rfl
  | cons y r ih =>
    rw [List.map_cons, tieInsert_cons, tieInsert_cons, ih]
    split <;> rfl

/-! ## The requests of one cycle -/

theorem tieSort_concat (l : List α) (x : α) :
    tieSort n ptr idx (l ++ [x]) = tieInsert n ptr idx x (tieSort n ptr idx l) := by
  simp [tieSort]

theorem tieSort_map {β : Type} (f : β → α) (l : List β) :
    tieSort n ptr idx (l.map f) = (tieSort n ptr (fun y => idx (f y)) l).map f := by
  induction l using List.reverseRecOn with
  | nil => rfl
  | append_singleton l x ih =>
    rw [List.map_append, List.map_singleton, tieSort_concat, tieSort_concat, ih, tieInsert_map]

/-- The tie order loses no request and adds none. -/
theorem tieSort_perm (l : List α) : (tieSort n ptr idx l).Perm l := by
  induction l using List.reverseRecOn with
  | nil => exact .refl _
  | append_singleton l x ih =>
    rw [tieSort_concat]
    exact (tieInsert_perm x _).trans ((ih.cons x).trans (List.perm_append_singleton x l).symm)

theorem tieSort_pairwise (l : List α) : (tieSort n ptr idx l).Pairwise (TieLe n ptr idx) := by
  induction l using List.reverseRecOn with
  | nil => exact .nil
  | append_singleton l x ih => exact tieSort_concat l x ▸ tieInsert_pairwise x ih

/-- A request with the least key of all comes first. -/
theorem tieSort_eq_cons {x : α} {l : List α} (hx : x ∈ l)
    (hleast : ∀ y ∈ l, y ≠ x → tieKey n ptr (idx x) < tieKey n ptr (idx y)) : ∃ r, tieSort n ptr idx l = x :: r := by
  have hperm := tieSort_perm (n := n) (ptr := ptr) (idx := idx) l
  have hsorted := tieSort_pairwise (n := n) (ptr := ptr) (idx := idx) l
  cases h : tieSort n ptr idx l with
  | nil => exact absurd (hperm.mem_iff.2 hx) (by simp [h])
  | cons y r =>
    rw [h] at hperm hsorted
    refine ⟨r, ?_⟩
    by_contra hne
    have hyx : y ≠ x := fun e => hne (by rw [e])
    have hle : TieLe n ptr idx y x :=
      (List.pairwise_cons.1 hsorted).1 x ((List.mem_cons.1 (hperm.mem_iff.2 hx)).resolve_left hyx.symm)
    exact absurd hle (Nat.not_le.2 (hleast y (hperm.mem_iff.1 (by simp)) hyx))

/-- Settles O56: the tie order sorts by the key, and the key of the request `j` places after the pointer is `j - 1`. -/
theorem requestsAreServedInTieOrder : Obligations.RequestsAreServedInTieOrder := by
  unfold Obligations.RequestsAreServedInTieOrder
  intro reqs n ptr _ _ _
  refine ⟨tieSort_perm reqs, (tieSort_pairwise reqs).imp fun {c d} hle j k hj1 hjn hk1 hkn hc hd => ?_⟩
  unfold TieLe at hle
  rw [hc, hd, tieKey_add hj1 hjn, tieKey_add hk1 hkn] at hle
  omega

end Sys2Proof.Machine
end

section
/-!
PROOFS. The ACQUIREs of one cycle on a semaphore (R41, R484): who wins a tie on a free one, what each partition reads of its
outcome, and what nothing of it reaches.
-/

namespace Sys2Proof.Machine

variable {s : State}

/-! ## Folds that stand still -/

theorem foldl_eq_self {α β : Type} {f : β → α → β} {l : List α} {b : β} (h : ∀ a ∈ l, f b a = b) : l.foldl f b = b := by
  induction l with
  | nil => rfl
  | cons a r ih => rw [List.foldl_cons, h a (by simp), ih fun x hx => h x (by simp [hx])]

/-- A fold whose steps change nothing, except at one element, is the step at that element. -/
theorem foldl_eq_of_others_fixed {α β : Type} {f : β → α → β} {l : List α} {x : α} {b : β} (hl : l.Nodup) (hx : x ∈ l)
    (h : ∀ a ∈ l, a ≠ x → ∀ c, f c a = c) : l.foldl f b = f b x := by
  induction l with
  | nil => simp at hx
  | cons a r ih =>
    obtain ⟨har, hr⟩ := List.nodup_cons.1 hl
    rw [List.foldl_cons]
    by_cases hax : a = x
    · subst hax
      exact foldl_eq_self fun y hy => h y (by simp [hy]) (fun e => har (e ▸ hy)) _
    · rw [h a (by simp) hax]
      exact ih hr ((List.mem_cons.1 hx).resolve_left (Ne.symm hax)) fun y hy => h y (by simp [hy])

/-- A list without repeats has none to erase. -/
theorem eraseDups_of_nodup {α : Type} [BEq α] [LawfulBEq α] {l : List α} (h : l.Nodup) : l.eraseDups = l := by
  induction l with
  | nil => rfl
  | cons a r ih =>
    obtain ⟨har, hr⟩ := List.nodup_cons.1 h
    have hfilter : r.filter (fun b => !b == a) = r :=
      List.filter_eq_self.2 fun b hb => by simpa using fun e : b = a => har (e ▸ hb)
    rw [List.eraseDups_cons, hfilter, ih hr]

/-! ## The outcome that a partition reads -/

theorem semres_addr (p : Nat) : (HST_SEMRES_SEM p).addr = (HST_SEMRES_STATUS p).addr := rfl

/-- Everything but registers is as it was. -/
def RegsOnly (s t : State) : Prop := { t with regs := s.regs } = s

theorem RegsOnly.refl (s : State) : RegsOnly s s := rfl

theorem RegsOnly.setF {t : State} (h : RegsOnly s t) (f : Fld) (v : Nat) : RegsOnly s (setF f v t) := h

theorem semResult_regsOnly {t : State} (h : RegsOnly s t) (w : Who) (n status : Nat) : RegsOnly s (semResult w n status t) := by
  cases w <;> exact h

theorem semResult_canonical (w : Who) (n status : Nat) (h : s.Canonical) : (semResult w n status s).Canonical := by
  cases w with
  | fw => exact h
  | part p => exact setF_canonical _ _ (setF_canonical _ _ h)

theorem semResult_part (p : Fin 8) (n status : Nat) (s : State) : semResult (.part p) n status s =
    setF (HST_SEMRES_SEM p.val) n (setF (HST_SEMRES_STATUS p.val) status s) := rfl

theorem semres_status_sound (p : Nat) : (HST_SEMRES_STATUS p).sound := ⟨show 24 ≤ 31 by decide, Nat.le_refl 31⟩

theorem semres_sem_sound (p : Nat) : (HST_SEMRES_SEM p).sound := ⟨Nat.zero_le 5, show 5 ≤ 31 by decide⟩

theorem rd_semResult_other {a : Nat} {p : Fin 8} (n status : Nat) (h : a ≠ (HST_SEMRES_STATUS p.val).addr) :
    rd a (semResult (.part p) n status s) = rd a s := by
  rw [semResult_part, rd_setF_other a _ _ (semres_addr p.val ▸ h), rd_setF_other a _ _ h]

theorem getF_status_semResult {p : Fin 8} {n status : Nat} (hs : s.Canonical) (hst : status < 256) :
    getF (HST_SEMRES_STATUS p.val) (semResult (.part p) n status s) = status := by
  rw [semResult_part, getF_setF_apart _ (HST_SEMRES_SEM p.val) n (semres_addr p.val).symm (semres_status_sound p.val)
      (semres_sem_sound p.val) (.inr (show 5 < 24 by decide)) (setF_canonical _ _ hs),
    getF_setF_same _ status (semres_status_sound p.val) hs]
  exact Nat.mod_eq_of_lt hst

theorem getF_sem_semResult {p : Fin 8} {n status : Nat} (hs : s.Canonical) (hn : n < 64) :
    getF (HST_SEMRES_SEM p.val) (semResult (.part p) n status s) = n := by
  rw [semResult_part, getF_setF_same _ n (semres_sem_sound p.val) (setF_canonical _ _ hs)]
  exact Nat.mod_eq_of_lt hn

/-! ## The losers of a tie -/

/-- Each of the partitions is told that it lost the tie on semaphore `n`. -/
def tellLost (n : Nat) (ps : List (Fin 8)) (s : State) : State :=
  ps.foldl (fun t p => semResult (.part p) n LOST_TIE t) s

theorem tellLost_cons (n : Nat) (p : Fin 8) (r : List (Fin 8)) (s : State) :
    tellLost n (p :: r) s = tellLost n r (semResult (.part p) n LOST_TIE s) := rfl

theorem tellLost_regsOnly (n : Nat) (ps : List (Fin 8)) {t : State} (h : RegsOnly s t) : RegsOnly s (tellLost n ps t) :=
  foldl_keeps h fun _ p hu => semResult_regsOnly hu (.part p) n LOST_TIE

theorem rd_tellLost_other {a : Nat} {ps : List (Fin 8)} (n : Nat) (h : ∀ p ∈ ps, a ≠ (HST_SEMRES_STATUS p.val).addr) :
    rd a (tellLost n ps s) = rd a s := by
  induction ps generalizing s with
  | nil => rfl
  | cons p r ih =>
    obtain ⟨hp, hr⟩ := List.forall_mem_cons.1 h
    rw [tellLost_cons, ih hr, rd_semResult_other n LOST_TIE hp]

theorem getF_tellLost_other {f : Fld} {ps : List (Fin 8)} (n : Nat) (h : ∀ p ∈ ps, f.addr ≠ (HST_SEMRES_STATUS p.val).addr) :
    getF f (tellLost n ps s) = getF f s := by
  unfold getF
  rw [rd_tellLost_other n h]

/-- Registers of different partitions' pages lie apart. -/
theorem semres_addr_ne {p q : Fin 8} (h : p ≠ q) : (HST_SEMRES_STATUS p.val).addr ≠ (HST_SEMRES_STATUS q.val).addr := by
  have hval : p.val ≠ q.val := fun e => h (Fin.ext e)
  show 0x190134 + 0x1000 * p.val ≠ 0x190134 + 0x1000 * q.val
  omega

theorem getF_tellLost {n : Nat} {p : Fin 8} {ps : List (Fin 8)} (hs : s.Canonical) (hn : n < 64) (hnd : ps.Nodup) (hp : p ∈ ps) :
    getF (HST_SEMRES_STATUS p.val) (tellLost n ps s) = LOST_TIE ∧ getF (HST_SEMRES_SEM p.val) (tellLost n ps s) = n := by
  induction ps generalizing s with
  | nil => simp at hp
  | cons q r ih =>
    obtain ⟨hq, hr⟩ := List.nodup_cons.1 hnd
    rw [tellLost_cons]
    rcases List.mem_cons.1 hp with rfl | hp
    · have hapart : ∀ x ∈ r, (HST_SEMRES_STATUS p.val).addr ≠ (HST_SEMRES_STATUS x.val).addr :=
        fun x hx => semres_addr_ne fun e => hq (e ▸ hx)
      rw [getF_tellLost_other n hapart, getF_tellLost_other n (semres_addr p.val ▸ hapart)]
      exact ⟨getF_status_semResult hs (by decide), getF_sem_semResult hs hn⟩
    · exact ih (semResult_canonical _ _ _ hs) hr hp

theorem setB_canonical (f : Fld) (b : Bool) (h : s.Canonical) : (setB f b s).Canonical := setF_canonical f (bit b) h

/-! ## The winner of a tie -/

/-- Partition `w` has taken semaphore `n`, is told so, and is where the tie pointer stands. -/
def wonTie (n : Nat) (w : Fin 8) (s : State) : State :=
  s |> setB (HST_SEM_HELD n) true |> setF (HST_SEM_HOLDER n) w.val |> semResult (.part w) n DONE
    |> setF HST_SEM_TIE_PTR w.val

theorem acquireSem_free {n : Nat} (w : Fin 8) (h : getB (HST_SEM_HELD n) s = false) :
    setF HST_SEM_TIE_PTR w.val (acquireSem n s (.part w)) = wonTie n w s := by
  have hnot : holdsSem (.part w) n s = false := by simp [holdsSem, h]
  simp [acquireSem, hnot, h, wonTie, takeSem]

theorem sem_addr (n : Nat) : (HST_SEM_HOLDER n).addr = (HST_SEM_HELD n).addr := rfl

theorem sem_addr_ne_ptr (n : Nat) : (HST_SEM_HELD n).addr ≠ HST_SEM_TIE_PTR.addr := by
  show 0x190D00 + 0x4 * n ≠ 0x190C0C
  omega

theorem sem_addr_ne_semres {n : Nat} (hn : n < 64) (p : Fin 8) : (HST_SEM_HELD n).addr ≠ (HST_SEMRES_STATUS p.val).addr := by
  show 0x190D00 + 0x4 * n ≠ 0x190134 + 0x1000 * p.val
  omega

theorem ptr_ne_semres (p : Fin 8) : HST_SEM_TIE_PTR.addr ≠ (HST_SEMRES_STATUS p.val).addr := by
  show 0x190C0C ≠ 0x190134 + 0x1000 * p.val
  omega

theorem sem_held_sound (n : Nat) : (HST_SEM_HELD n).sound := ⟨Nat.le_refl 31, Nat.le_refl 31⟩

theorem sem_holder_sound (n : Nat) : (HST_SEM_HOLDER n).sound := ⟨show 4 ≤ 6 by decide, show 6 ≤ 31 by decide⟩

theorem wonTie_canonical (n : Nat) (w : Fin 8) (h : s.Canonical) : (wonTie n w s).Canonical :=
  setF_canonical _ _ (semResult_canonical _ _ _ (setF_canonical _ _ (setB_canonical _ _ h)))

theorem wonTie_regsOnly (n : Nat) (w : Fin 8) : RegsOnly s (wonTie n w s) := rfl

theorem rd_wonTie_other {a n : Nat} {w : Fin 8} (hheld : a ≠ (HST_SEM_HELD n).addr) (hptr : a ≠ HST_SEM_TIE_PTR.addr)
    (hres : a ≠ (HST_SEMRES_STATUS w.val).addr) : rd a (wonTie n w s) = rd a s := by
  unfold wonTie setB
  rw [rd_setF_other _ _ _ hptr, rd_semResult_other _ _ hres, rd_setF_other _ _ _ (sem_addr n ▸ hheld), rd_setF_other _ _ _ hheld]

/-- What the semaphore's register reads is what it was given before the outcome and the pointer were written. -/
theorem getF_wonTie_sem {f : Fld} {n : Nat} (hn : n < 64) (w : Fin 8) (hf : f.addr = (HST_SEM_HELD n).addr) :
    getF f (wonTie n w s) = getF f (setF (HST_SEM_HOLDER n) w.val (setB (HST_SEM_HELD n) true s)) := by
  unfold wonTie
  rw [getF_setF_other _ _ _ (hf ▸ sem_addr_ne_ptr n), getF, rd_semResult_other _ _ (hf ▸ sem_addr_ne_semres hn w)]
  rfl

theorem getF_wonTie_held {n : Nat} (hn : n < 64) (w : Fin 8) (hs : s.Canonical) :
    getF (HST_SEM_HELD n) (wonTie n w s) = 1 := by
  rw [getF_wonTie_sem hn w rfl, getF_setF_apart _ _ _ (sem_addr n).symm (sem_held_sound n) (sem_holder_sound n)
    (.inr (show 6 < 31 by decide)) (setB_canonical _ _ hs), setB, getF_setF_same _ _ (sem_held_sound n) hs]
  rfl

theorem getF_wonTie_holder {n : Nat} (hn : n < 64) (w : Fin 8) (hs : s.Canonical) :
    getF (HST_SEM_HOLDER n) (wonTie n w s) = w.val := by
  rw [getF_wonTie_sem hn w (sem_addr n), getF_setF_same _ _ (sem_holder_sound n) (setB_canonical _ _ hs)]
  exact Nat.mod_eq_of_lt w.isLt

theorem getF_wonTie_ptr (n : Nat) (w : Fin 8) (hs : s.Canonical) : getF HST_SEM_TIE_PTR (wonTie n w s) = w.val := by
  unfold wonTie
  rw [getF_setF_same _ _ ⟨Nat.zero_le 2, show 2 ≤ 31 by decide⟩ (semResult_canonical _ _ _ (setF_canonical _ _ (setB_canonical _ _ hs)))]
  exact Nat.mod_eq_of_lt w.isLt

theorem getF_wonTie_semres {n : Nat} (hn : n < 64) (w : Fin 8) (hs : s.Canonical) :
    getF (HST_SEMRES_STATUS w.val) (wonTie n w s) = DONE ∧ getF (HST_SEMRES_SEM w.val) (wonTie n w s) = n := by
  have hc : (setF (HST_SEM_HOLDER n) w.val (setB (HST_SEM_HELD n) true s)).Canonical :=
    setF_canonical _ _ (setB_canonical _ _ hs)
  unfold wonTie
  rw [getF_setF_other _ _ _ (ptr_ne_semres w).symm, getF_setF_other _ _ _ (semres_addr w.val ▸ (ptr_ne_semres w).symm)]
  exact ⟨getF_status_semResult hc (by decide), getF_sem_semResult hc hn⟩

/-! ## A tie settled -/

/-- A semaphore that no request names stays as it is. -/
theorem settleSem_of_unnamed {reqs : List (Who × Fin 64)} {m : Nat} (h : ∀ r ∈ reqs, r.2.val ≠ m) : settleSem reqs s m = s := by
  have hnone : reqs.filter (fun r => decide (r.2.val = m)) = [] := List.filter_eq_nil_iff.2 fun r hr => by simpa using h r hr
  simp [settleSem, hnone, tieSort]

/-- Different partitions acquire a free semaphore at once: the first of the tie order wins, the others have lost. -/
theorem settleSem_tie {ps : List (Fin 8)} {n : Fin 64} {w a : Fin 8} {r : List (Fin 8)} (hnd : ps.Nodup)
    (hsort : tieSort 8 (getF HST_SEM_TIE_PTR s) Fin.val ps = w :: a :: r) (hfree : getB (HST_SEM_HELD n.val) s = false) :
    settleSem (ps.map fun p => (.part p, n)) s n.val = tellLost n.val (a :: r) (wonTie n.val w s) := by
  have hmine : ((ps.map fun p => (Who.part p, n)).filter (fun r => decide (r.2.val = n.val))).map (fun r => r.1)
      = ps.map Who.part := by simp [List.filter_map, Function.comp_def]
  have hfw : (ps.map Who.part).filter (fun w => isFw w) = [] := by simp [List.filter_map, Function.comp_def, isFw]
  have hparts : (ps.map Who.part).filter (fun w => !isFw w) = ps.map Who.part := by
    simp [List.filter_map, Function.comp_def, isFw]
  have hdups : (ps.map Who.part).eraseDups = ps.map Who.part :=
    eraseDups_of_nodup (hnd.map fun p q e => by injection e)
  have horder : tieSort 8 (getF HST_SEM_TIE_PTR s) whoIdx (ps.map Who.part) = (w :: a :: r).map Who.part := by
    rw [tieSort_map, ← hsort]; rfl
  unfold settleSem
  simp only [hmine, hfw, hparts, hdups, List.foldl_nil, horder, List.map_cons, hfree]
  rw [if_neg (by decide), ← acquireSem_free w hfree, tellLost, ← List.map_cons, List.foldl_map]
  rfl

/-- The requests of one cycle name one semaphore, and that alone is settled. -/
theorem execHstSemAcquire_of_one_sem {ps : List (Fin 8)} {n : Fin 64} (hans : answers 0x190 s = true) :
    execHstSemAcquire (ps.map fun p => (.part p, n)) s = .next (settleSem (ps.map fun p => (.part p, n)) s n.val) := by
  unfold execHstSemAcquire
  rw [hans]
  refine congrArg Host.Outcome.next (foldl_eq_of_others_fixed List.nodup_range (List.mem_range.2 n.isLt) fun m _ hm t => ?_)
  refine settleSem_of_unnamed fun q hq => ?_
  obtain ⟨p, -, rfl⟩ := List.mem_map.1 hq
  exact hm.symm

/-- Of the requesters, the first that the pointer meets has the least key. -/
theorem tieKey_lt_of_first {ps : List (Fin 8)} {w : Fin 8} {ptr k : Nat} (h1 : 1 ≤ k) (h8 : k ≤ 8) (hw : w.val = (ptr + k) % 8)
    (hfirst : ∀ q ∈ ps, ∀ j, 1 ≤ j → j < k → q.val ≠ (ptr + j) % 8) :
    ∀ q ∈ ps, q ≠ w → tieKey 8 ptr w.val < tieKey 8 ptr q.val := by
  intro q hq hne
  have hkey : tieKey 8 ptr w.val = k - 1 := hw ▸ tieKey_add h1 h8
  have hplace : (ptr + (tieKey 8 ptr q.val + 1)) % 8 = q.val := ptr_add_tieKey q.isLt
  rw [hkey]
  by_contra hle
  rcases Nat.lt_or_ge (tieKey 8 ptr q.val + 1) k with hlt | hge
  · exact hfirst q hq _ (by omega) hlt hplace.symm
  · have hk : tieKey 8 ptr q.val + 1 = k := by omega
    exact hne (Fin.ext (by rw [← hplace, hk, hw]))

/-- Settles O57: the winner has the least key of the tie order, so it stands at its head. -/
theorem semaphoreTieHasOneWinner : Obligations.SemaphoreTieHasOneWinner := by
  unfold Obligations.SemaphoreTieHasOneWinner
  intro ps n w k s hs hans hnd hlen hwin h1 h8 hw hfirst hfree
  have hperm := tieSort_perm (n := 8) (ptr := getF HST_SEM_TIE_PTR s) (idx := Fin.val) ps
  obtain ⟨losers, hsort⟩ := tieSort_eq_cons hwin (tieKey_lt_of_first h1 h8 hw hfirst)
  rw [hsort] at hperm
  obtain ⟨hwl, hnl⟩ := List.nodup_cons.1 (hperm.nodup_iff.2 hnd)
  have hloser : ∀ q ∈ ps, q ≠ w → q ∈ losers := fun q hq hne => (List.mem_cons.1 (hperm.mem_iff.2 hq)).resolve_left hne
  have hlosing : ∀ q ∈ losers, q ∈ ps := fun q hq => hperm.mem_iff.1 (List.mem_cons_of_mem w hq)
  have hend : settleSem (ps.map fun p => (.part p, n)) s n.val = tellLost n.val losers (wonTie n.val w s) := by
    match losers, hsort with
    | [], _ => exact absurd hperm.length_eq (by simp; omega)
    | a :: r, hsort => exact settleSem_tie hnd hsort hfree
  have hc := wonTie_canonical n.val w hs
  have hsem : ∀ q ∈ losers, (HST_SEM_HELD n.val).addr ≠ (HST_SEMRES_STATUS q.val).addr := fun q _ => sem_addr_ne_semres n.isLt q
  have hres : ∀ q ∈ losers, (HST_SEMRES_STATUS w.val).addr ≠ (HST_SEMRES_STATUS q.val).addr :=
    fun q hq => semres_addr_ne fun e => hwl (e ▸ hq)
  obtain ⟨hstatus, hnumber⟩ := getF_wonTie_semres n.isLt w hs
  refine ⟨_, (execHstSemAcquire_of_one_sem hans).trans (by rw [hend]), ?held, ?holder, ?ptr, ?status, ?number, ?lost, ?regs, ?rest⟩
  case held => rw [getF_tellLost_other _ hsem, getF_wonTie_held n.isLt w hs]
  case holder => rw [getF_tellLost_other _ (sem_addr n.val ▸ hsem), getF_wonTie_holder n.isLt w hs]
  case ptr => rw [getF_tellLost_other _ (fun q _ => ptr_ne_semres q), getF_wonTie_ptr n.val w hs]
  case status => rw [getF_tellLost_other _ hres, hstatus]
  case number => rw [getF_tellLost_other _ (semres_addr w.val ▸ hres), hnumber]
  case lost => exact fun q hq hne => getF_tellLost hc n.isLt hnl (hloser q hq hne)
  case regs =>
    intro a hheld hptr hothers
    rw [rd_tellLost_other _ fun q hq => hothers q (hlosing q hq), rd_wonTie_other hheld hptr (hothers w hwin)]
  case rest => exact tellLost_regsOnly _ _ (wonTie_regsOnly n.val w)

end Sys2Proof.Machine
end

section
/-!
PROOFS. Register accesses (R32, R471, R514, R515): a single write of a cycle is that write, whatever register it names, and
an access that no page answers is recorded alone.
-/

namespace Sys2Proof.Machine

variable {s : State}

/-! ## Pages that do not answer -/

/-- An access of an unassigned page is recorded (R515). -/
theorem guardWrite_unassigned {who : Who} {page addr : Nat} {ok : Bool} {f : State → State} (h : assigned page = false) :
    guardWrite who page addr ok f s = badAccess false false who addr s := by simp [guardWrite, h]

/-- An access of a page that does not answer is recorded (R32, R515). -/
theorem guardWrite_unanswered {who : Who} {page addr : Nat} {ok : Bool} {f : State → State} (h1 : assigned page = true)
    (h2 : answers page s = false) : guardWrite who page addr ok f s = badAccess true false who addr s := by
  simp [guardWrite, h1, h2]

theorem readReg_unassigned {who : Who} {addr : Nat} (h : assigned (addr / 0x1000) = false) :
    readReg who addr s = (0, badAccess false false who addr s) := by simp [readReg, h]

theorem readReg_unanswered {who : Who} {addr : Nat} (h1 : assigned (addr / 0x1000) = true)
    (h2 : answers (addr / 0x1000) s = false) : readReg who addr s = (0, badAccess true false who addr s) := by
  simp [readReg, h1, h2]

/-- While the main supplies are down nothing is recorded. -/
theorem badAccess_mainOff {off size : Bool} {who : Who} {addr : Nat} (h : mainOn s = false) :
    badAccess off size who addr s = s := by simp [badAccess, h]

/-- Settles O43. -/
theorem offPagesReadZero : Obligations.OffPagesReadZero := by
  unfold Obligations.OffPagesReadZero
  refine ⟨?unassigned, ?unanswered, ?mainOff, ?events⟩
  case unassigned => exact fun who addr s h => ⟨readReg_unassigned h, fun v => guardWrite_unassigned h⟩
  case unanswered => exact fun who addr s h1 h2 => ⟨readReg_unanswered h1 h2, fun v => guardWrite_unanswered h1 h2⟩
  case mainOff => exact fun off size who addr s h => badAccess_mainOff h
  case events => exact ⟨by decide, by decide⟩

/-! ## A single write to a semaphore (R484) -/

theorem settleSem_nil (n : Nat) : settleSem [] s n = s := rfl

/-- A single ACQUIRE is judged against the state as it stands. -/
theorem settleSem_one {n : Fin 64} {m : Nat} (who : Who) (h : n.val = m) : settleSem [(who, n)] s m = acquireSem m s who := by
  subst h
  cases who <;> simp [settleSem, isFw, tieSort, tieInsert, eraseDups_of_nodup]

/-- A write to a semaphore register of page 0x190 releases, then acquires, unless it asks for both. -/
theorem writeHst_sem (who : Who) {o : Nat} (v : Nat) (hlo : 0xD00 ≤ o) (hhi : o < 0xE00) :
    writeHst who 0 o v s =
      if bitOf v 0 && bitOf v 1 then semResult who ((o - 0xD00) / 4) BAD_ARGUMENT s
      else s |> ifS (bitOf v 1) (releaseSem who ((o - 0xD00) / 4))
        |> ifS (bitOf v 0) (fun t => acquireSem ((o - 0xD00) / 4) t who) := by
  unfold writeHst
  simp (disch := omega) only [if_neg]
  exact if_pos ⟨trivial, hlo, hhi⟩

/-- A word written alone to a semaphore does what `writeHst` says of it. -/
theorem settleSemWrites_one (who : Who) {addr : Nat} (v : Word) (h : isSem addr = true) :
    settleSemWrites [⟨who, addr, v⟩] addr s = writeHst who 0 (addr % 0x1000) v.toNat s := by
  obtain ⟨⟨hlo, hhi⟩, -⟩ : (0x190D00 ≤ addr ∧ addr < 0x190E00) ∧ addr % 4 = 0 := by simpa [isSem] using h
  have hnum : (addr % 0x1000 - 0xD00) / 4 = (addr - 0x190D00) / 4 := by omega
  have hfin : (Fin.ofNat 64 ((addr - 0x190D00) / 4)).val = (addr - 0x190D00) / 4 := Nat.mod_eq_of_lt (by omega)
  rw [writeHst_sem who v.toNat (by omega) (by omega), hnum]
  unfold settleSemWrites
  dsimp only
  generalize Fin.ofNat 64 ((addr - 0x190D00) / 4) = n at hfin ⊢
  generalize (addr - 0x190D00) / 4 = m at hfin ⊢
  cases hacq : bitOf v.toNat 0 <;> cases hrel : bitOf v.toNat 1 <;>
    simp [hacq, hrel, each, ifS, settleSem_nil, settleSem_one who hfin]

/-! ## A single write of a cycle (R471) -/

theorem accepts_sem (who : Who) {o : Nat} (hlo : 0xD00 ≤ o) (hhi : o < 0xE00) : accepts who 0x190 o s = true := by
  unfold accepts
  simp (disch := omega) only [if_neg]
  exact (if_pos (by decide)).trans (if_pos ⟨trivial, hlo, hhi⟩)

theorem writeAt_sem (who : Who) {o : Nat} (v : Nat) (hlo : 0xD00 ≤ o) (hhi : o < 0xE00) :
    writeAt who 0x190 o v s = writeHst who 0 o v s := by
  unfold writeAt
  simp (disch := omega) only [if_neg]
  exact if_pos (by decide)

theorem writeReg_sem (who : Who) {addr : Nat} (v : Nat) (h : isSem addr = true) (hans : answers 0x190 s = true) :
    writeReg who addr v s = writeHst who 0 (addr % 0x1000) v s := by
  obtain ⟨⟨hlo, hhi⟩, -⟩ : (0x190D00 ≤ addr ∧ addr < 0x190E00) ∧ addr % 4 = 0 := by simpa [isSem] using h
  have hpage : addr / 0x1000 = 0x190 := by omega
  unfold writeReg
  dsimp only
  rw [hpage, guardWrite_ok (by decide) hans (accepts_sem who (by omega) (by omega)), writeAt_sem who v (by omega) (by omega)]

/-- A register written once in a cycle takes that write, with no tie. -/
theorem settleWrites_one (who : Who) (addr : Nat) (v : Word) :
    settleWrites [⟨who, addr, v⟩] s addr = writeReg who addr v.toNat s := by
  unfold settleWrites
  by_cases hsem : (isSem addr && answers 0x190 s) = true
  · obtain ⟨h, hans⟩ : isSem addr = true ∧ answers 0x190 s = true := by simpa using hsem
    simp [hsem, settleSemWrites_one who v h, writeReg_sem who v.toNat h hans]
  · cases who <;>
      simp [hsem, each, isFw, tieSort, tieInsert, requesters, eraseDups_of_nodup]

theorem execRegisterWrite_one (who : Who) (addr : Nat) (v : Word) :
    execRegisterWrite [⟨who, addr, v⟩] s = .next (writeReg who addr v.toNat s) :=
  congrArg Host.Outcome.next (settleWrites_one who addr v)

/-- Settles O3: a write alone in its cycle is `writeReg`, whose four cases are those of `guardWrite`. -/
theorem registerWriteReachesItsRegister : Obligations.RegisterWriteReachesItsRegister := by
  unfold Obligations.RegisterWriteReachesItsRegister
  intro who addr v s
  have hexec : exec (.registerWrite [⟨who, addr, v⟩]) s = .next (writeReg who addr v.toNat s) :=
    execRegisterWrite_one who addr v
  rw [hexec]
  refine ⟨fun h1 => congrArg _ ?unassigned, fun h1 h2 => congrArg _ ?unanswered, fun h1 h2 h3 => congrArg _ ?rejected,
    fun h1 h2 h3 => congrArg _ ?accepted⟩
  case unassigned => exact guardWrite_unassigned h1
  case unanswered => exact guardWrite_unanswered h1 h2
  case rejected => exact guardWrite_reject h1 h2 h3
  case accepted => exact guardWrite_ok h1 h2 h3

end Sys2Proof.Machine
end

section
/-!
PROOFS. The block lifecycle (R33–R39): what a PG_CTRL write does in each state, and what a block does by itself.
-/

namespace Sys2Proof.Machine

variable {s : State} {who : Who} {page : Nat}

/-! ## The guard of PG_CTRL -/

/-- A writer that may not control the page is counted (R471, R474). -/
theorem ctrlWrite_reject {f : State → State} (h1 : assigned page = true) (h2 : answers page s = true)
    (h3 : mayControl who page s = false) : ctrlWrite who page f s = rejectWrite who s := guardWrite_reject h1 h2 h3

/-- A writer that may has its effect on a page with a lifecycle. -/
theorem ctrlWrite_ok {f : State → State} (h1 : assigned page = true) (hl : hasLifecycle page = true)
    (h2 : answers page s = true) (h3 : mayControl who page s = true) : ctrlWrite who page f s = f s := by
  rw [ctrlWrite, guardWrite_ok h1 h2 h3, hl]; rfl

/-! ## PG_CTRL without RESET, state by state (R35) -/

theorem applyCtrl_off (park : Bool) (h : getF (PG_STAT_STATE page) s = 0) :
    applyCtrl page true park s = (s |> setB (PG_CTRL_ENABLE page) true |> setB (PG_CTRL_PARK page) park
      |> starts page |> showPlls) := by
  simp [applyCtrl, h, ifS]

theorem applyCtrl_stopping (park : Bool) (h : getF (PG_STAT_STATE page) s = 3) :
    applyCtrl page true park s = (s |> setB (PG_CTRL_ENABLE page) true |> setB (PG_CTRL_PARK page) park
      |> setState page 4 |> showPlls) := by
  simp [applyCtrl, h, ifS]

/-- A block that is not ON yet stops. -/
theorem applyCtrl_stop_early (park : Bool) (h : getF (PG_STAT_STATE page) s = 1 ∨ getF (PG_STAT_STATE page) s = 4) :
    applyCtrl page false park s = (s |> setB (PG_CTRL_ENABLE page) false |> setB (PG_CTRL_PARK page) park
      |> setState page 3 |> showPlls) := by
  rcases h with h | h <;> simp [applyCtrl, h, ifS]

theorem applyCtrl_stop (park : Bool) (h : getF (PG_STAT_STATE page) s = 2) (hp : ¬(0x190 ≤ page ∧ page ≤ 0x197)) :
    applyCtrl page false park s = (s |> setB (PG_CTRL_ENABLE page) false |> setB (PG_CTRL_PARK page) park
      |> setState page 3 |> showPlls) := by
  simp [applyCtrl, h, ifS, hp]

/-- A partition's page that stops begins its teardown (R474). -/
theorem applyCtrl_stop_partition (park : Bool) (h : getF (PG_STAT_STATE page) s = 2) (hp : 0x190 ≤ page ∧ page ≤ 0x197) :
    applyCtrl page false park s = (s |> setB (PG_CTRL_ENABLE page) false |> setB (PG_CTRL_PARK page) park
      |> setState page 3 |> beginTeardown (page - 0x190) |> showPlls) := by
  simp [applyCtrl, h, ifS, hp]

/-- A block that is ON stays ON until its idle point; a rim line that waited for PARK = 0 leaves. -/
theorem applyCtrl_on (park : Bool) (h : getF (PG_STAT_STATE page) s = 2) :
    applyCtrl page true park s = (s |> setB (PG_CTRL_ENABLE page) true |> setB (PG_CTRL_PARK page) park
      |> ifS (decide (page = 0x180)) rimServe |> showPlls) := by
  simp [applyCtrl, h]

theorem applyCtrl_unpark (h : getF (PG_STAT_STATE page) s = 5) :
    applyCtrl page true false s = (s |> setB (PG_CTRL_ENABLE page) true |> setB (PG_CTRL_PARK page) false
      |> unpark page |> showPlls) := by
  simp [applyCtrl, h]

/-! ## PG_CTRL with RESET (R37) -/

theorem applyReset_taken (en park : Bool) (h : getF (PG_STAT_STATE page) s ∈ [0, 5, 7]) :
    applyReset page en park s = resetPage page s := if_pos (List.contains_iff_mem.2 h)

theorem applyReset_refused (en park : Bool) (h : getF (PG_STAT_STATE page) s ∉ [0, 5, 7]) :
    applyReset page en park s = raise 0 4 (applyCtrl page en park s) := if_neg fun hc => h (List.contains_iff_mem.1 hc)

/-! ## The three commands -/

theorem exec_pgEnable (v : Bool) : exec (.pgEnable who page v) s =
    .next (ctrlWrite who page (fun s => applyCtrl page v (getB (PG_CTRL_PARK page) s) s) s) := rfl

theorem exec_pgPark (v : Bool) : exec (.pgPark who page v) s =
    .next (ctrlWrite who page (fun s => applyCtrl page (getB (PG_CTRL_ENABLE page) s) v s) s) := rfl

theorem exec_pgReset (en park : Bool) : exec (.pgReset who page en park) s =
    .next (ctrlWrite who page (applyReset page en park) s) := rfl

/-- Settles O1: the guard lets the write through or counts it, and the state of the block decides the rest. -/
theorem lifecycleWritesComplete : Obligations.LifecycleWritesComplete := by
  unfold Obligations.LifecycleWritesComplete
  intro who page s hassigned hlife hans
  simp only [exec_pgEnable, exec_pgPark, exec_pgReset]
  refine ⟨fun hno => ?rejected, fun hok => ?accepted⟩
  case rejected => simp only [ctrlWrite_reject hassigned hans hno, implies_true, and_self]
  case accepted =>
    simp only [ctrlWrite_ok hassigned hlife hans hok]
    refine ⟨?off, ?stopping, ?early, ?stop, ?stopPart, ?park, ?unpark, ?reset, ?noReset⟩
    case off => exact fun h => by rw [applyCtrl_off _ h]
    case stopping => exact fun h => by rw [applyCtrl_stopping _ h]
    case early => exact fun h => by rw [applyCtrl_stop_early _ h]
    case stop => exact fun h hp => by rw [applyCtrl_stop _ h hp]
    case stopPart => exact fun h hp => by rw [applyCtrl_stop_partition _ h hp]
    case park => exact fun h hen v => by rw [hen, applyCtrl_on v h]
    case unpark => exact fun h hen => by rw [hen, applyCtrl_unpark h]
    case reset => exact fun en park h => by rw [applyReset_taken en park h]
    case noReset => exact fun en park h => by rw [applyReset_refused en park h]

end Sys2Proof.Machine
end

section
/-!
PROOFS. What a block does by itself (R35, R38, R39): it becomes ready, parks at its idle point, finishes stopping, faults.
-/

namespace Sys2Proof.Machine

variable {s : State} {page : Nat}

/-! ## Becoming ready (R35, R39, R139, R140) -/

/-- Nothing keeps the block from going on: its page's lifecycle runs, it is ready itself, and what it depends on reads ON. -/
def goesOnNow (page : Nat) (s : State) : Prop :=
  lives page s = true ∧ selfReady page s = true ∧ (deps page s).all (fun q => isOn q s) = true

/-- A STARTING block that is to park reads PARKED at once. -/
theorem execBlockReady_parks (h : goesOnNow page s) (hst : getF (PG_STAT_STATE page) s = 1)
    (hpark : getB (PG_CTRL_PARK page) s = true) (h10 : page ≠ 0x10) (h2 : page ≠ 2) :
    execBlockReady page s = .next (s |> calibrate page |> setState page 5 |> goesParked page) := by
  obtain ⟨hlives, hself, hdeps⟩ := h
  simp [execBlockReady, hst, hlives, hself, hdeps, hpark, h10, h2]

/-- PARK has no effect on pages 0x010 and 0x002, so these and the blocks without PARK read ON, but for the raster groups. -/
theorem execBlockReady_on (h : goesOnNow page s) (hst : getF (PG_STAT_STATE page) s = 1)
    (hpark : getB (PG_CTRL_PARK page) s = false ∨ page = 0x10 ∨ page = 2) (hg : ¬(0x90 ≤ page ∧ page ≤ 0x93)) :
    execBlockReady page s =
      .next (s |> calibrate page |> setState page 2 |> goesOn page |> showPlls |> bootHbmOn page) := by
  obtain ⟨hlives, hself, hdeps⟩ := h
  have hstays : (getB (PG_CTRL_PARK page) s && decide (page ≠ 0x10) && decide (page ≠ 2)) = false := by
    rcases hpark with h | h | h <;> simp [h]
  simp only [execBlockReady, hst, hlives, hself, hdeps, hstays, hg]
  simp

/-- A raster group that is not to park chooses its first frame. -/
theorem execBlockReady_group (h : goesOnNow page s) (hst : getF (PG_STAT_STATE page) s = 1)
    (hpark : getB (PG_CTRL_PARK page) s = false) (hg : 0x90 ≤ page ∧ page ≤ 0x93) :
    execBlockReady page s = .next (chooseFirst (page - 0x90) s) := by
  obtain ⟨hlives, hself, hdeps⟩ := h
  simp [execBlockReady, hst, hlives, hself, hdeps, hpark, hg]

/-- A raster group that resumes from PARKED chooses its first frame. -/
theorem execBlockReady_resumes (h : goesOnNow page s) (hst : getF (PG_STAT_STATE page) s = 5)
    (hg : 0x90 ≤ page ∧ page ≤ 0x93) (hres : (s.grp (page - 0x90)).resuming = true) :
    execBlockReady page s = .next (chooseFirst (page - 0x90) s) := by
  obtain ⟨hlives, hself, hdeps⟩ := h
  simp [execBlockReady, hst, hlives, hself, hdeps, hg, hres]

/-! ## Parking (R35, R36) -/

theorem execBlockIdlePoint_parks (hlives : lives page s = true) (hst : getF (PG_STAT_STATE page) s = 2)
    (hpark : getB (PG_CTRL_PARK page) s = true) (hidle : atIdlePoint page s = true) :
    execBlockIdlePoint page s = .next (parkBlock page s) := by
  simp [execBlockIdlePoint, parkAsked, hlives, hst, hpark, hidle]

/-! ## Finishing a stop (R35, R39, R474) -/

/-- What is left of a stop once all work is done and nothing is held: OFF, or STARTING where ENABLE was set again. -/
def stopEnds (page st : Nat) (s : State) : State :=
  if st = 3 then s |> setState page 0 |> goesOff page |> showPlls else s |> goesOff page |> starts page |> showPlls

/-- A block that is to stop and has no more to do. -/
def stopsNow (page : Nat) (s : State) : Prop :=
  lives page s = true ∧ (getF (PG_STAT_STATE page) s = 3 ∨ getF (PG_STAT_STATE page) s = 4) ∧ workDone page s = true ∧
    dependentsIn [0, 7] page s = true

theorem execStopComplete_block (h : stopsNow page s) (hp : ¬(0x190 ≤ page ∧ page ≤ 0x197)) :
    execStopComplete page s = .next (s |> ifS (hbmPages.contains page) (advanceTraffic (page - 0x170))
      |> stopEnds page (getF (PG_STAT_STATE page) s)) := by
  obtain ⟨hlives, hst, hwork, hdeps⟩ := h
  have hpart : (decide (0x190 ≤ page) && decide (page ≤ 0x197)) = false := by simpa using hp
  rcases hst with hst | hst <;>
    simp [execStopComplete, stopEnds, hst, hlives, hwork, hdeps, hpart, ifS]

/-- A partition's page ends its stop after its teardown. -/
theorem execStopComplete_partition {t : State} (h : stopsNow page s) (hp : 0x190 ≤ page ∧ page ≤ 0x197)
    (ht : t = closeRegions (page - 0x190) (beginTeardown (page - 0x190) s)) (htorn : tornDown (page - 0x190) t = true) :
    execStopComplete page s =
      .next (t |> endTeardown (page - 0x190) |> stopEnds page (getF (PG_STAT_STATE page) s)) := by
  obtain ⟨hlives, hst, hwork, hdeps⟩ := h
  have hhbm : page ∉ hbmPages := by simp [hbmPages]; omega
  subst ht
  rcases hst with hst | hst <;>
    simp [execStopComplete, stopEnds, hst, hlives, hwork, hdeps, hp, hhbm, htorn, ifS]

/-! ## Faults (R35, R38, R347) -/

theorem execBlockInternalFault_other {code : Nat} (hlives : lives page s = true) (hst : getF (PG_STAT_STATE page) s ≠ 7)
    (h : ¬(page = 0x10 ∧ code % 256 = 1)) : execBlockInternalFault page code s =
      .next (s |> ifS (decide (code % 256 = 1) && hasPll page) unlocked |> blockFaults page code) := by
  have hno : (decide (page = 0x10) && decide (code % 256 = 1)) = false := by simpa using h
  simp [execBlockInternalFault, hlives, hst, hno, ifS]

/-- A loss of AOCLK on the time page, which has no PLL of its own, holds the counters. -/
theorem execBlockInternalFault_aoclk {code : Nat} (hlives : lives 0x10 s = true) (hst : getF (PG_STAT_STATE 0x10) s ≠ 7)
    (hcode : code % 256 = 1) : execBlockInternalFault 0x10 code s = .next (s |> blockFaults 0x10 code |> aoclkGone) := by
  have hpll : hasPll 0x10 = false := by decide
  simp [execBlockInternalFault, hlives, hst, hcode, hpll, ifS]

/-! ## The commands -/

theorem exec_blockReady : exec (.blockReady page) s = execBlockReady page s := rfl

theorem exec_blockIdlePoint : exec (.blockIdlePoint page) s = execBlockIdlePoint page s := rfl

theorem exec_stopComplete : exec (.stopComplete page) s = execStopComplete page s := rfl

theorem exec_blockInternalFault (code : Nat) :
    exec (.blockInternalFault page code) s = execBlockInternalFault page code s := rfl

/-- Settles O2. -/
theorem lifecycleProgressCompletes : Obligations.LifecycleProgressCompletes := by
  unfold Obligations.LifecycleProgressCompletes
  intro page s traffic hlives htraffic
  subst htraffic
  simp only [exec_blockReady, exec_blockIdlePoint, exec_stopComplete, exec_blockInternalFault]
  refine ⟨fun hst hself hdeps => ?ready, fun hst hg hres hself hdeps => ?resumes, fun hst hpark hidle => ?idle,
    fun hwork hnone hp => ?stop, fun t hwork hnone hp ht htorn => ?stopPart, fun code hst => ?fault⟩
  case ready =>
    have hgo : goesOnNow page s := ⟨hlives, hself, hdeps⟩
    exact ⟨fun hpark h10 h2 => execBlockReady_parks hgo hst hpark h10 h2,
      fun hpage => execBlockReady_on hgo hst (.inr hpage) (by omega),
      fun hpark hg => execBlockReady_group hgo hst hpark hg,
      fun hpark hg => execBlockReady_on hgo hst (.inl hpark) hg⟩
  case resumes => exact execBlockReady_resumes ⟨hlives, hself, hdeps⟩ hst hg hres
  case idle => exact execBlockIdlePoint_parks hlives hst hpark hidle
  case stop =>
    have hend (hst) := execStopComplete_block ⟨hlives, hst, hwork, hnone⟩ hp
    exact ⟨fun h3 => by rw [hend (.inl h3), h3]; rfl, fun h4 => by rw [hend (.inr h4), h4]; rfl⟩
  case stopPart =>
    have hend (hst) := execStopComplete_partition ⟨hlives, hst, hwork, hnone⟩ hp ht htorn
    exact ⟨fun h3 => by rw [hend (.inl h3), h3]; rfl, fun h4 => by rw [hend (.inr h4), h4]; rfl⟩
  case fault =>
    refine ⟨execBlockInternalFault_other hlives hst, fun ⟨hpage, hcode⟩ => ?_⟩
    subst hpage
    exact execBlockInternalFault_aoclk hlives hst hcode

end Sys2Proof.Machine
end

section
/-!
PROOFS. Reset values (R526): a field reads what its register's table row gives.
-/

namespace Sys2Proof.Machine

/-- With no register written, a field reads its part of the reset word. -/
theorem getF_reset (f : Fld) : getF f State.reset = bitsOf (resetNat f.addr % 2 ^ 32) f.hi f.lo := by
  simp [getF, rd, State.reset, FMap.get, resetWord, Word.ofNat]

/-- The common registers lie at the same offsets of every page up to 0x1BF (R518). -/
theorem regAt_common {addr : Nat} {d : RegDef}
    (h : commonRegs.find? (fun d => d.covers (addr / 0x1000) (addr % 0x1000)) = some d) : regAt addr = some d := by
  unfold regAt regTable
  simp only [List.append_assoc]
  rw [List.find?_append, h]
  rfl

theorem resetNat_pgStat {page : Nat} (h : page < 0x1C0) : resetNat (PG_STAT_STATE page).addr = 0 := by
  have hpage : (PG_STAT_STATE page).addr / 0x1000 = page := by
    show (0x1000 * page + 8) / 0x1000 = page
    omega
  have hoff : (PG_STAT_STATE page).addr % 0x1000 = 8 := by
    show (0x1000 * page + 8) % 0x1000 = 8
    omega
  have hreg : regAt (PG_STAT_STATE page).addr = some ⟨0, 0x1C0, 8, 4, 1, [⟨15, 8, .ro, .any, 0⟩, ⟨2, 0, .ro, .any, 0⟩]⟩ := by
    refine regAt_common ?_
    rw [hpage, hoff]
    simp [commonRegs, RegDef.covers, h]
  unfold resetNat
  rw [hreg]
  rfl

/-- Every assigned page lies among those that have the common registers (R516, R518). -/
theorem allPages_lt : ∀ page ∈ allPages, page < 0x1C0 := by decide +kernel

/-- Settles O42. -/
theorem resetValues : Obligations.ResetValues := by
  unfold Obligations.ResetValues
  simp only [getF_reset]
  refine ⟨?ties, ?caps, ?groups, ?lanes, ?inhibit, ?warn, ?on, ?off, ?port, ?device, ?states⟩
  case states =>
    intro page hpage _
    rw [resetNat_pgStat (allPages_lt page hpage)]
    simp [bitsOf]
  case ties => decide +kernel
  case caps => decide +kernel
  case groups => decide +kernel
  case lanes => decide +kernel
  case inhibit => decide +kernel
  case warn => decide +kernel
  case on => decide +kernel
  case off => decide +kernel
  case port => decide +kernel
  case device => decide +kernel

end Sys2Proof.Machine
end

section
/-!
PROOFS. Loading the light-field configuration: panel maps (R53, R54, R412), PSDs (R80–R84) and the tables of R69–R73 and R107.
-/

namespace Sys2Proof.Machine

variable {s : State} {c : Cmd}

/-! ## Panel maps (R53, R54, R412) -/

@[simp] theorem markStarted_groupIdle (op : Nat) (g : Nat) : groupIdle g (markStarted op c s) = groupIdle g s := by
  simp [groupIdle]

theorem exec_panelMapLoad_one (lost : List MovedLoss) (h : Served 0x01 c s) :
    exec (.panelMapLoad [c] lost) s = .next (mapLoadOne lost c (markStarted 0x01 c s)) := by
  show Host.Outcome.next (runTies 0x01 [c] _ s) = _
  rw [runTies_one h, serveTable_one]

/-- A map that passes R53 is taken while every raster group is idle and CORRECTION fits. -/
theorem mapLoadOne_accepted (lost : List MovedLoss) (hsrc : SrcReads c 16400 s) (hmap : mapOk (srcWords c s) = true)
    (hidle : ∀ g, g < 4 → groupIdle g s = true) (hfits : correctionFull (parseMap (srcWords c s)) s = false) :
    mapLoadOne lost c s = (s |> acceptMap (parseMap (srcWords c s)) (c.idx % 8) |> moveCorrection s lost
      |> answer 0x01 c DONE) := by
  have hbusy : (List.range 4).any (fun g => !groupIdle g s) = false :=
    List.any_eq_false.2 fun g hg => by simp [hidle g (List.mem_range.1 hg)]
  rw [mapLoadOne, withLen_reads hsrc]
  simp [hmap, hbusy, hfits]

/-! ## PSDs (R80–R84) -/

/-- Of the first `n` numbers, `i` alone is given the list. -/
theorem flatMap_range_single {α : Type} (l : List α) {i n : Nat} (h : i < n) :
    (List.range n).flatMap (fun k => if i = k then l else []) = l := by
  induction n with
  | zero => omega
  | succ n ih =>
    rw [List.range_succ, List.flatMap_append]
    rcases Nat.lt_succ_iff_lt_or_eq.1 h with hlt | rfl
    · simp [ih hlt, Nat.ne_of_lt hlt]
    · have hbelow : (List.range i).flatMap (fun k => if i = k then l else []) = [] :=
        List.flatMap_eq_nil_iff.2 fun k hk => if_neg (Nat.ne_of_gt (List.mem_range.1 hk))
      simp [hbelow]

/-- A PSD alone in its cycle is met at the slot it names, and at no other. -/
theorem slotOrder_one (k : Nat) (r : PsdReq) (s : State) : slotOrder k [r] s = if r.slot s = k then [r] else [] := by
  by_cases hk : r.slot s = k <;> cases hfw : r.fw <;> simp [slotOrder, hk, hfw, tieSort, tieInsert]

/-- Without a tie the pointer of a slot stays (R41). -/
theorem movePsdPtr_one (k : Nat) (r : PsdReq) (s : State) : movePsdPtr k [r] s = s := by
  by_cases hk : r.slot s = k <;> cases hfw : r.fw <;>
    simp [movePsdPtr, slotOrder_one, hk, hfw, requesters, eraseDups_of_nodup, ifS]

theorem movePsdPtr_nil (k : Nat) (s : State) : movePsdPtr k [] s = s := rfl

/-- A PSD alone in its cycle is judged, and no pointer moves (R83). -/
theorem settleSlots_one {r : PsdReq} (h : r.slot s < 8) : settleSlots [r] s = psdServe r s := by
  have hmoved : each (List.range 8) (fun k t => movePsdPtr k ([r].filter (fun q => decide (q.slot s = k))) t) s = s :=
    foldl_eq_self fun k _ => by by_cases hk : r.slot s = k <;> simp [hk, movePsdPtr_one, movePsdPtr_nil]
  have hafter : (List.range 8).flatMap
      (fun k => ((slotOrder k [r] s).dropWhile (fun q => !q.isSei)).filter (fun q => !q.isSei)) = [] :=
    List.flatMap_eq_nil_iff.2 fun k _ => by rw [slotOrder_one]; split <;> cases hr : r.isSei <;> simp [hr]
  have hbefore : (List.range 8).flatMap (fun k => (slotOrder k [r] s).takeWhile (fun q => !q.isSei)) =
      [r].takeWhile (fun q => !q.isSei) := by
    simp only [slotOrder_one, apply_ite (List.takeWhile _), List.takeWhile_nil, flatMap_range_single _ h]
  simp only [settleSlots, hmoved, hafter, hbefore]
  cases hr : r.isSei <;> simp [hr, each]

theorem exec_psdLoad_one (h : Served 0x02 c s) (hslot : fieldAt (srcWords c s) 0 18 16 < 8) :
    exec (.psdLoad [c]) s = .next (psdLoadOne c (markStarted 0x02 c s)) := by
  have hslot' : (PsdReq.cmd c).slot (markStarted 0x02 c s) < 8 := by simpa [PsdReq.slot, psdSlot] using hslot
  show Host.Outcome.next (runTies 0x02 [c] _ s) = _
  rw [runTies_one h]
  exact congrArg _ (settleSlots_one hslot')

/-- A PSD against which R81 has no reason is taken. -/
theorem psdLoadOne_accepted (hsrc : srcBad c s = false)
    (hok : psdReason (.cmd c.who) (decide (c.src.len % 4 = 0)) (srcWords c s) s = 0) :
    psdLoadOne c s = (s |> psdAccept (fieldAt (srcWords c s) 0 18 16) (srcWords c s) |> answer 0x02 c DONE) := by
  rw [psdLoadOne, withSrc_reads hsrc]
  simp [hok]

/-! ## Tables (R69–R73, R107) -/

theorem execLutLoad_accepted (h : Served 0x03 c s) (hsrc : SrcReads c 4096 s) (hslot : 4 ≤ c.argF 0 5 0)
    (hres : ∀ w ∈ srcWords c s, w.toNat / 2 ^ 20 = 0) :
    execLutLoad c s = .next (markStarted 0x03 c s
      |> State.setLut (c.argF 0 5 0) ((srcWords c s).map BitVec.toNat) |> answer 0x03 c DONE) := by
  have hany : (srcWords c s).any (fun w => decide (w.toNat / 2 ^ 20 ≠ 0)) = false :=
    List.any_eq_false.2 fun w hw => by simpa using hres w hw
  rw [execLutLoad, runCmd_served h, withLen_reads (srcReads_started.2 hsrc), markStarted_srcWords]
  simp only [hany, Nat.not_lt.2 hslot, Bool.false_eq_true, or_self, if_false]

theorem execBlendLoad_accepted {l : List Blend} (h : Served 0x04 c s) (hsrc : SrcReads c (8 * (dirA s * dirB s)) s)
    (hparse : parseBlends (srcWords c s) = some l) (hsum : ∀ b ∈ l, b.w0 + b.w1 + b.w2 + b.w3 = 0x800) :
    execBlendLoad c s =
      .next (markStarted 0x04 c s |> State.setBlendSlot (c.argF 0 3 0) l |> answer 0x04 c DONE) := by
  have hany : l.any (fun b => decide (b.w0 + b.w1 + b.w2 + b.w3 ≠ 0x800)) = false :=
    List.any_eq_false.2 fun b hb => by simp [hsum b hb]
  have hreads : SrcReads c (8 * (dirA (markStarted 0x04 c s) * dirB (markStarted 0x04 c s))) (markStarted 0x04 c s) := by
    simpa [dirA, dirB] using hsrc
  rw [execBlendLoad, runCmd_served h, withLen_reads hreads, markStarted_srcWords]
  simp only [hparse, hany, Bool.false_eq_true, if_false]

theorem execOutlutLoad_accepted (h : Served 0x05 c s) (hsrc : SrcReads c 6660 s) (hch : c.argF 0 17 16 ≠ 3)
    (hres : fieldAt (srcWords c s) 1664 31 16 = 0) :
    execOutlutLoad c s = .next (markStarted 0x05 c s
      |> State.setOutLut (3 * c.argF 0 9 0 + c.argF 0 17 16)
        (((srcWords c s).flatMap (fun w => [w.toNat % 65536, w.toNat / 65536])).take 3329)
      |> answer 0x05 c DONE) := by
  rw [execOutlutLoad, runCmd_served h, withLen_reads (srcReads_started.2 hsrc), markStarted_srcWords]
  simp only [hch, hres, ne_eq, not_true_eq_false, or_self, if_false]

/-- Settles O5: a served load is its body on the state in which it is marked as begun, which reads the same source. The slots
that a map empties are taken in ascending order by log 43; firmware's map shows origin 0 by log 7, and which blocks the move of
CORRECTION loses the command tells by log 62. -/
theorem panelAndTableLoadsComplete : Obligations.PanelAndTableLoadsComplete := by
  unfold Obligations.PanelAndTableLoadsComplete
  refine ⟨?map, ?psd, ?lut, ?blend, ?outLut⟩
  case map =>
    intro c s lost hserved hsrc hmap hidle hfits
    rw [exec_panelMapLoad_one lost hserved, mapLoadOne_accepted lost (srcReads_started.2 hsrc) (by simpa using hmap)
      (by simpa using hidle) (by simpa using hfits), markStarted_srcWords]
  case psd =>
    intro c s hserved hsrc hslot hok
    rw [exec_psdLoad_one hserved hslot, psdLoadOne_accepted (by simpa using hsrc) (by simpa using hok),
      markStarted_srcWords]
  case lut => exact fun c s => execLutLoad_accepted
  case blend => exact fun c s l => execBlendLoad_accepted
  case outLut => exact fun c s => execOutlutLoad_accepted

end Sys2Proof.Machine
end

section
/-!
PROOFS. The caps of a basin (R104): what a write stores, and when CAP_REFUSED is raised.
-/

namespace Sys2Proof.Machine

variable {s : State} {b : Nat} {v : Word}

/-! ## One field of SYN_CAP -/

/-- A value that R104 lets into a CAP field. -/
def capFits (n : Nat) : Bool := decide (1 ≤ n) && decide (n ≤ 256)

theorem capFits_iff {n : Nat} : capFits n = true ↔ 1 ≤ n ∧ n ≤ 256 := by simp [capFits]

/-- A value is written to a CAP field, which discards it where it does not fit. -/
def storeCap (f : Fld) (n : Nat) (s : State) : State := ifS (capFits n) (setF f n) s

theorem storeCap_fits {f : Fld} {n : Nat} (h : capFits n = true) : storeCap f n s = setF f n s := by simp [storeCap, h, ifS]

theorem storeCap_discards {f : Fld} {n : Nat} (h : capFits n = false) : storeCap f n s = s := by simp [storeCap, h, ifS]

theorem storeCap_canonical (f : Fld) (n : Nat) (hs : s.Canonical) : (storeCap f n s).Canonical := by
  cases h : capFits n with
  | true => exact storeCap_fits h ▸ setF_canonical f n hs
  | false => rwa [storeCap_discards h]

theorem rd_storeCap_other {a : Nat} {f : Fld} (n : Nat) (ha : a ≠ f.addr) : rd a (storeCap f n s) = rd a s := by
  cases h : capFits n with
  | true => rw [storeCap_fits h, rd_setF_other a f n ha]
  | false => rw [storeCap_discards h]

/-- A field of nine bits takes a value that fits, and keeps what it held otherwise. -/
theorem getF_storeCap_same {f : Fld} (n : Nat) (hf : f.sound) (hwidth : f.hi + 1 - f.lo = 9) (hs : s.Canonical) :
    getF f (storeCap f n s) = if 1 ≤ n ∧ n ≤ 256 then n else getF f s := by
  cases h : capFits n with
  | true =>
    have hrange := capFits_iff.1 h
    rw [storeCap_fits h, getF_setF_same f n hf hs, hwidth, if_pos hrange]
    exact Nat.mod_eq_of_lt (by omega)
  | false =>
    have hrange : ¬(1 ≤ n ∧ n ≤ 256) := fun hr => by simp [capFits_iff.2 hr] at h
    rw [storeCap_discards h, if_neg hrange]

theorem getF_storeCap_apart {f g : Fld} (n : Nat) (ha : f.addr = g.addr) (hf : f.sound) (hg : g.sound)
    (hd : f.hi < g.lo ∨ g.hi < f.lo) (hs : s.Canonical) : getF f (storeCap g n s) = getF f s := by
  cases h : capFits n with
  | true => rw [storeCap_fits h, getF_setF_apart f g n ha hf hg hd hs]
  | false => rw [storeCap_discards h]

/-! ## Both fields -/

/-- The two CAP fields take a write, before anything is raised. -/
def storeCaps (b : Nat) (v : Word) (s : State) : State :=
  s |> storeCap (SYN_CAP_CAP1 b) (bitsOf v.toNat 24 16) |> storeCap (SYN_CAP_CAP0 b) (bitsOf v.toNat 8 0)

theorem cap1_addr (b : Nat) : (SYN_CAP_CAP1 b).addr = (SYN_CAP_CAP0 b).addr := rfl

theorem cap1_sound (b : Nat) : (SYN_CAP_CAP1 b).sound := ⟨show 16 ≤ 24 by decide, show 24 ≤ 31 by decide⟩

theorem cap0_sound (b : Nat) : (SYN_CAP_CAP0 b).sound := ⟨Nat.zero_le 8, show 8 ≤ 31 by decide⟩

theorem storeCaps_canonical (v : Word) (hs : s.Canonical) : (storeCaps b v s).Canonical :=
  storeCap_canonical _ _ (storeCap_canonical _ _ hs)

theorem rd_storeCaps_other {a : Nat} (v : Word) (ha : a ≠ (SYN_CAP_CAP0 b).addr) : rd a (storeCaps b v s) = rd a s :=
  (rd_storeCap_other _ ha).trans (rd_storeCap_other _ ha)

theorem getF_cap1_storeCaps (b : Nat) (v : Word) (hs : s.Canonical) : getF (SYN_CAP_CAP1 b) (storeCaps b v s) =
    if 1 ≤ bitsOf v.toNat 24 16 ∧ bitsOf v.toNat 24 16 ≤ 256 then bitsOf v.toNat 24 16 else getF (SYN_CAP_CAP1 b) s :=
  (getF_storeCap_apart _ (cap1_addr b) (cap1_sound b) (cap0_sound b) (.inr (show 8 < 16 by decide))
    (storeCap_canonical _ _ hs)).trans (getF_storeCap_same _ (cap1_sound b) rfl hs)

theorem getF_cap0_storeCaps (b : Nat) (v : Word) (hs : s.Canonical) : getF (SYN_CAP_CAP0 b) (storeCaps b v s) =
    if 1 ≤ bitsOf v.toNat 8 0 ∧ bitsOf v.toNat 8 0 ≤ 256 then bitsOf v.toNat 8 0 else getF (SYN_CAP_CAP0 b) s := by
  rw [storeCaps, getF_storeCap_same _ (cap0_sound b) rfl (storeCap_canonical _ _ hs),
    getF_storeCap_apart _ (cap1_addr b).symm (cap0_sound b) (cap1_sound b) (.inl (show 8 < 16 by decide)) hs]

/-! ## CAP_REFUSED -/

/-- Both fields of a write fit. -/
def capsFit (v : Word) : Bool := capFits (bitsOf v.toNat 24 16) && capFits (bitsOf v.toNat 8 0)

theorem capsFit_iff : capsFit v = true ↔ (1 ≤ bitsOf v.toNat 24 16 ∧ bitsOf v.toNat 24 16 ≤ 256) ∧
    (1 ≤ bitsOf v.toNat 8 0 ∧ bitsOf v.toNat 8 0 ≤ 256) := by
  rw [capsFit, Bool.and_eq_true, capFits_iff, capFits_iff]

/-- A write raises bit 2 of the basin's page unless both fields fit. -/
theorem writeCap_eq (b : Nat) (v : Word) (s : State) :
    writeCap b v s = ifS (!capsFit v) (raise (0x80 + b) 2) (storeCaps b v s) := rfl

theorem writeCap_fits (h : capsFit v = true) : writeCap b v s = storeCaps b v s := by simp [writeCap_eq, h, ifS]

theorem writeCap_refused (h : ¬capsFit v = true) : writeCap b v s = raise (0x80 + b) 2 (storeCaps b v s) := by
  simp [writeCap_eq, h, ifS]

/-- Beside the two fields a write touches event registers alone. -/
theorem writeCap_eventOnly (hb : b < 8) (v : Word) (s : State) : EventOnly (storeCaps b v s) (writeCap b v s) :=
  EventOnly.ite (raise_only (.refl _) 2 (by omega)) (.refl _)

theorem eventReg_cap (hb : b < 8) : eventReg (SYN_CAP_CAP0 b).addr = false := by
  have hmod : (SYN_CAP_CAP0 b).addr % 4096 = 0x110 := by
    show (0x80110 + 0x1000 * b) % 4096 = 0x110
    omega
  have hpage : (SYN_CAP_CAP0 b).addr / 4096 = 0x80 + b := by
    show (0x80110 + 0x1000 * b) / 4096 = 0x80 + b
    omega
  have hlow : ¬(SYN_CAP_CAP0 b).addr < 0x280 := by
    show ¬(0x80110 + 0x1000 * b < 0x280)
    omega
  simp [eventReg, hmod, hpage, hlow]

theorem getF_evEn_storeCaps (b : Nat) (v : Word) (s : State) :
    getF (EV_EN (0x80 + b)) (storeCaps b v s) = getF (EV_EN (0x80 + b)) s := by
  have hne : (EV_EN (0x80 + b)).addr ≠ (SYN_CAP_CAP0 b).addr := by
    show 0x1000 * (0x80 + b) + 0x14 ≠ 0x80110 + 0x1000 * b
    omega
  rw [getF, rd_storeCaps_other v hne]
  rfl

/-- A refused value sets bit 2 in EV_RAW, and in EV_PEND where it is enabled. -/
theorem writeCap_refused_bits (hs : s.Canonical) (h : ¬capsFit v = true) :
    bitOf (getF (EV_RAW (0x80 + b)) (writeCap b v s)) 2 = true ∧
      (bitOf (getF (EV_EN (0x80 + b)) s) 2 = true → bitOf (getF (EV_PEND (0x80 + b)) (writeCap b v s)) 2 = true) := by
  have hc : (storeCaps b v s).Canonical := storeCaps_canonical v hs
  rw [writeCap_refused h, raise_of_two_le (Nat.le_refl 2), ← getF_evEn_storeCaps b v s]
  exact ⟨bitOf_raiseCore_raw hc (by decide), bitOf_raiseCore_pend hc (by decide)⟩

/-- Event 0x2C8 + b is CAP_REFUSED of basin b. -/
theorem evNum_capRefused (b : Fin 8) : evNum (0x80 + b.val) 2 = some (0x2C8 + b.val) := by revert b; decide

theorem exec_synCapWrite_accepted {who : Who} {b : Fin 8} (h : Accepted who (0x80 + b.val) s) :
    exec (.synCapWrite who b v) s = .next (writeCap b.val v s) := by
  obtain ⟨hassigned, hanswers, hmay⟩ := h
  exact congrArg Host.Outcome.next (guardWrite_ok hassigned hanswers hmay)

/-- Settles O45: each field is judged alone, and whatever is raised after it leaves SYN_CAP as it is. -/
theorem capWriteJudged : Obligations.CapWriteJudged := by
  unfold Obligations.CapWriteJudged
  intro who b v s hs haccepted
  have hevents := writeCap_eventOnly b.isLt v s
  have hcap := eventReg_cap b.isLt
  refine ⟨writeCap b.val v s, exec_synCapWrite_accepted haccepted, ?cap1, ?cap0, evNum_capRefused b, ?refused, ?fits, ?frame⟩
  case cap1 => rw [hevents.getF (SYN_CAP_CAP1 b.val) hcap, getF_cap1_storeCaps b.val v hs]
  case cap0 => rw [hevents.getF (SYN_CAP_CAP0 b.val) hcap, getF_cap0_storeCaps b.val v hs]
  case refused => exact fun hout => writeCap_refused_bits hs (capsFit_iff.not.2 (by omega))
  case fits =>
    intro ⟨h1lo, h1hi, h0lo, h0hi⟩ a ha
    rw [writeCap_fits (capsFit_iff.2 ⟨⟨h1lo, h1hi⟩, h0lo, h0hi⟩), rd_storeCaps_other v ha]
  case frame => exact fun a hevent ha => (hevents.rd a hevent).trans (rd_storeCaps_other v ha)

end Sys2Proof.Machine
end

section
/-!
PROOFS. The ray jets (R87, R89, R102, R110–R112, R123, R452): rows that fans take, rays that enter jets, probe pictures.
-/

namespace Sys2Proof.Machine

variable {s : State}

/-! ## Fans (R89, R123) -/

theorem execFanRowStart_takes {fan : Fin 16} {lane : Nat} (hrow : (s.fan fan.val).row = none)
    (hruns : synRuns fan.val s = true) (hpick : pickLane fan.val s = some lane) : execFanRowStart fan s = .next (s
      |> State.setPool lane { s.pool lane with
          next := (s.pool lane).next + 1, rows := (s.pool lane).rows ++ [{ row := (s.pool lane).next, rays := [] }] }
      |> State.setFan fan.val { s.fan fan.val with row := some (lane, (s.pool lane).next, 0) }) := by
  simp [execFanRowStart, hrow, hruns, hpick]

theorem execAnchorCacheFill_counts {fan : Fin 16} (n : Nat) (hruns : synRuns fan.val s = true) :
    execAnchorCacheFill fan n s = .next (addF (SYN_STALLS (basinOf fan.val) (fan.val % 2)) n s) := by
  simp [execAnchorCacheFill, hruns, ifS]

/-! ## Rays that enter a jet (R15, R87, R102, R452) -/

section Jet

variable {jet : Fin 128} {idle : List Nat}

@[simp] theorem State.setJet_fan (i : Nat) (x : Jet) (fan : Nat) : (s.setJet i x).fan fan = s.fan fan := rfl

/-- How the jet stands after `idle` cycles and the one that follows, and whether a ray may enter it in that one (R452). -/
def jetNow (jet : Nat) (idle : List Nat) (s : State) : Bool × Jet := jetCycle idle (getF THM_STAT_D s) (s.jet jet)

/-- The cycles of the jet have passed, and nothing has entered it. -/
def jetPasses (jet : Nat) (idle : List Nat) (s : State) : State := s.setJet jet (jetNow jet idle s).2

/-- Ray (col, row) of a lane's tile enters the jet: it is traced, occupies the jet, joins its row and is counted. -/
def rayEnters (jet lane row col : Nat) (s : State) : State :=
  let fan := jet / 8
  let o := handedRay fan lane row col s
  s |> occupy jet o.samples
    |> State.setPool lane { s.pool lane with
        rows := (s.pool lane).rows.map (fun r => if r.row = row then { r with rays := r.rays ++ [o.codes] } else r) }
    |> State.setFan fan { s.fan fan with row := if col + 1 < tileRW lane s then some (lane, row, col + 1) else none }
    |> countRay fan o
    |> setF (SYN_GOV_MAXS (basinOf fan) (fan % 2)) (max (getF (SYN_GOV_MAXS (basinOf fan) (fan % 2)) s) o.samples)
    |> showPool lane |> copyToProbes lane col row o.codes

/-- Without a row, in a pause and while its last ray occupies the jet, nothing enters it. -/
theorem execRayEntersJet_passes (hruns : synRuns (jet.val / 8) s = true)
    (h : (s.fan (jet.val / 8)).row = none ∨ (jetNow jet.val idle s).1 = false) :
    execRayEntersJet jet idle s = .next (jetPasses jet.val idle s) := by
  unfold execRayEntersJet
  simp only [hruns, State.setJet_fan, Bool.true_eq_false, if_false]
  rcases h with hrow | hbusy
  · rw [hrow]
    rfl
  · cases (s.fan (jet.val / 8)).row with
    | none => rfl
    | some place => exact congrArg Host.Outcome.next (if_pos hbusy)

theorem execRayEntersJet_enters {lane row col : Nat} (hruns : synRuns (jet.val / 8) s = true)
    (hrow : (s.fan (jet.val / 8)).row = some (lane, row, col)) (hfree : (jetNow jet.val idle s).1 = true) :
    execRayEntersJet jet idle s = .next (rayEnters jet.val lane row col (jetPasses jet.val idle s)) := by
  unfold jetNow at hfree
  unfold execRayEntersJet
  simp only [hruns, State.setJet_fan, hrow, hfree, Bool.true_eq_false, if_false]
  rfl

/-! ## Probe pictures (R110–R112) -/

/-- The ray through hogel `h` of a VIRTUAL picture enters the jet, is counted and writes its pixel. -/
def probeRayEnters (probe jet : Nat) (r : ProbeRun) (h : Nat × Nat) (s : State) : State :=
  let o := probeRay (jet / 8) r h s
  s |> occupy jet o.samples |> countRay (jet / 8) o
    |> writeProbe probe r h (probeWord (tileRec ((laneOfHogel r.group h s).getD 0) s).code12 o.codes)

/-- A spare fan casts the ray of the first hogel that it serves and the picture still lacks. -/
theorem execVirtualProbeRay_casts {probe : Fin 4} {r : ProbeRun} {h : Nat × Nat} {t : State}
    (hruns : synRuns (jet.val / 8) s = true) (hfree : (jetNow jet.val idle s).1 = true) (ht : t = jetPasses jet.val idle s)
    (hcur : (t.probe probe.val).cur = some r) (hvirtual : r.virtual = true) (hspare : spare (jet.val / 8) t = true)
    (hfind : r.todo.find? (fun h => fanServes (jet.val / 8) r.group h t) = some h) :
    execVirtualProbeRay probe jet idle s = .next (probeRayEnters probe.val jet.val r h t) := by
  subst ht
  unfold jetNow at hfree
  unfold jetPasses jetNow at hcur hspare hfind
  unfold execVirtualProbeRay
  simp only [hruns, hfree, hcur, hfind, hvirtual, hspare, Bool.true_eq_false, or_self, if_false]
  rfl

end Jet

/-- A picture whose last pixel is written ends whole. -/
theorem execProbeDone_ends {probe : Fin 4} {r : ProbeRun} (hcur : (s.probe probe.val).cur = some r) (hdone : r.todo = []) :
    execProbeDone probe s = .next (probeEnds false probe.val r s) := by
  simp [execProbeDone, hcur, hdone, probeComplete]

/-! ## The commands -/

theorem exec_fanRowStart (fan : Fin 16) : exec (.fanRowStart fan) s = execFanRowStart fan s := rfl

theorem exec_rayEntersJet (jet : Fin 128) (idle : List Nat) :
    exec (.rayEntersJet jet idle) s = execRayEntersJet jet idle s := rfl

theorem exec_anchorCacheFill (fan : Fin 16) (n : Nat) : exec (.anchorCacheFill fan n) s = execAnchorCacheFill fan n s := rfl

theorem exec_virtualProbeRay (probe : Fin 4) (jet : Fin 128) (idle : List Nat) :
    exec (.virtualProbeRay probe jet idle) s = execVirtualProbeRay probe jet idle s := rfl

theorem exec_probeDone (probe : Fin 4) : exec (.probeDone probe) s = execProbeDone probe s := rfl

/-- Settles O7: each command of a working basin is its one step; the cap write is that of R104. A cache fill counts stalls by
R89, spare cycles serve VIRTUAL pictures by R111, and what a command of a jet says of the cycles passed is log 50. -/
theorem raySynthesisCompletes : Obligations.RaySynthesisCompletes := by
  unfold Obligations.RaySynthesisCompletes
  simp only [exec_fanRowStart, exec_rayEntersJet, exec_anchorCacheFill, exec_virtualProbeRay, exec_probeDone]
  refine ⟨?row, ?passes, ?enters, ?stall, ?probeRay, ?probeDone, ?cap⟩
  case row => exact fun fan s lane => execFanRowStart_takes
  case passes =>
    rintro jet idle u _ rfl hruns h
    exact execRayEntersJet_passes hruns h
  case enters =>
    rintro jet idle u _ _ lane row col _ _ _ _ rfl hruns hrow hfree rfl rfl rfl rfl rfl
    exact execRayEntersJet_enters hruns hrow hfree
  case stall => exact fun fan n s => execAnchorCacheFill_counts n
  case probeRay =>
    rintro probe jet idle u s _ r h _ _ _ rfl hruns hfree hs hcur hvirtual hspare hfind rfl rfl rfl
    exact execVirtualProbeRay_casts hruns hfree hs hcur hvirtual hspare hfind
  case probeDone => exact fun probe s r => execProbeDone_ends
  case cap => exact fun who b v s => exec_synCapWrite_accepted

end Sys2Proof.Machine
end

section
/-!
PROOFS. What the reading of memory rests on (R410, R420, R422): contents, marks, free values and the states of the stacks.
Messages, answers, counters and events reach none of it.
-/

namespace Sys2Proof.Machine

/-- From `s` to `t` nothing changes that the reading of a byte of HBM or host memory rests on. -/
structure MemoryKept (s t : State) : Prop where
  hbm : t.hbm = s.hbm
  hostMem : t.hostMem = s.hostMem
  poison : t.poison = s.poison
  free : t.free = s.free
  dead : ∀ a, stackDead a t = stackDead a s

variable {s t u : State}

theorem MemoryKept.refl (s : State) : MemoryKept s s := ⟨rfl, rfl, rfl, rfl, fun _ => rfl⟩

theorem MemoryKept.trans (h : MemoryKept s t) (k : MemoryKept t u) : MemoryKept s u where
  hbm := k.hbm.trans h.hbm
  hostMem := k.hostMem.trans h.hostMem
  poison := k.poison.trans h.poison
  free := k.free.trans h.free
  dead a := (k.dead a).trans (h.dead a)

theorem MemoryKept.hbmGet (h : MemoryKept s t) (b : Nat) : hbmGet b t = hbmGet b s := by
  simp only [Machine.hbmGet, h.hbm, h.poison, h.free, h.dead b]

/-! ## Updates that keep memory -/

/-- A word of any register but a PG_STAT reaches no stack's state. -/
theorem MemoryKept.wr (h : MemoryKept s t) {a : Nat} (w : Word) (ha : a % 4096 ≠ 8) : MemoryKept s (wr a w t) :=
  h.trans ⟨rfl, rfl, rfl, rfl, fun b => by
    have hne : (PG_STAT_STATE (0x170 + b / 256 % 4)).addr ≠ a := by
      show 0x1000 * (0x170 + b / 256 % 4) + 8 ≠ a
      omega
    unfold stackDead getF
    rw [rd_wr_other w hne]⟩

theorem MemoryKept.setF (h : MemoryKept s t) {f : Fld} (v : Nat) (ha : f.addr % 4096 ≠ 8) : MemoryKept s (setF f v t) :=
  h.wr _ ha

theorem MemoryKept.emit (h : MemoryKept s t) (o : Out) : MemoryKept s (emit o t) :=
  h.trans ⟨rfl, rfl, rfl, rfl, fun _ => rfl⟩

theorem MemoryKept.hst (h : MemoryKept s t) (x : Hst) : MemoryKept s { t with hst := x } :=
  h.trans ⟨rfl, rfl, rfl, rfl, fun _ => rfl⟩

theorem MemoryKept.setPrt (h : MemoryKept s t) (p : Nat) (x : Part) : MemoryKept s (t.setPrt p x) := h.hst _

theorem MemoryKept.sendSystem (h : MemoryKept s t) (port : Nat) (bytes : List Byte) : MemoryKept s (sendSystem port bytes t) :=
  h.trans ⟨rfl, rfl, rfl, rfl, fun _ => rfl⟩

theorem MemoryKept.ifS (h : MemoryKept s t) (c : Bool) {f : State → State} (hf : MemoryKept s (f t)) :
    MemoryKept s (ifS c f t) := by
  cases c
  · exact h
  · exact hf

theorem MemoryKept.each {α : Type} (h : MemoryKept s t) (l : List α) {f : α → State → State}
    (hf : ∀ a u, MemoryKept s u → MemoryKept s (f a u)) : MemoryKept s (each l f t) :=
  foldl_keeps h fun u a => hf a u

/-- PG_STAT is no event register. -/
theorem eventReg_stackState (i : Nat) (hi : i < 4) : eventReg (PG_STAT_STATE (0x170 + i)).addr = false := by
  revert i; decide

theorem EventOnly.memoryKept (h : EventOnly s t) : MemoryKept s t where
  hbm := h.hbm
  hostMem := h.hostMem
  poison := h.poison
  free := h.free
  dead a := by
    unfold stackDead
    rw [h.getF _ (eventReg_stackState _ (Nat.mod_lt _ (by decide)))]

theorem MemoryKept.raise (h : MemoryKept s t) {page : Nat} (b : Nat) (hpage : page < 0x1C0) :
    MemoryKept s (raise page b t) := h.trans (raise_only (.refl t) b hpage).memoryKept

theorem MemoryKept.hostError (h : MemoryKept s t) {p : Nat} (reason : Nat) (hp : p < 8) :
    MemoryKept s (hostError p reason t) := by
  have haddr : (HST_RING_STAT_REASON p).addr % 4096 ≠ 8 := by
    show (0x190128 + 0x1000 * p) % 4096 ≠ 8
    omega
  exact (h.setF reason haddr).raise 3 (by omega)

/-- A lease violation is recorded and raised (R138). -/
theorem MemoryKept.leaseViolation (h : MemoryKept s t) (path part : Nat) (l : Nat × Nat) :
    MemoryKept s (leaseViolation path part l t) :=
  (((((h.setF _ (by decide)).setF _ (by decide)).setF _ (by decide)).setF _ (by decide)).setF _ (by decide)).raise 9 (by decide)

/-! ## One byte of HBM, and host memory -/

/-- Byte `b` of HBM reads in `t` as in `s`, and host memory is not touched. -/
structure ByteKept (b : Nat) (s t : State) : Prop where
  byte : memGet .hbm b t = memGet .hbm b s
  hostMem : t.hostMem = s.hostMem

theorem ByteKept.refl (b : Nat) (s : State) : ByteKept b s s := ⟨rfl, rfl⟩

theorem ByteKept.trans {b : Nat} (h : ByteKept b s t) (k : ByteKept b t u) : ByteKept b s u :=
  ⟨k.byte.trans h.byte, k.hostMem.trans h.hostMem⟩

theorem MemoryKept.byteKept (h : MemoryKept s t) (b : Nat) : ByteKept b s t := ⟨h.hbmGet b, h.hostMem⟩

theorem byteKept_hbmPut {a b : Nat} (v : Byte) (h : b ≠ a) : ByteKept b s (hbmPut a v s) :=
  ⟨hbmGet_hbmPut_of_ne v h, hbmPut_hostMem a v⟩

theorem byteKept_memWrite_hbm {a b : Nat} {bs : List Byte} (h : ∀ i, i < bs.length → b ≠ a + i) :
    ByteKept b s (memWrite .hbm a bs s) := by
  induction bs generalizing a s with
  | nil => exact .refl b s
  | cons v r ih =>
    have htail : ∀ i, i < r.length → b ≠ a + 1 + i := fun i hi => by
      have := h (i + 1) (by simpa using hi)
      omega
    exact (byteKept_hbmPut v (h 0 (by simp))).trans (ih htail)

end Sys2Proof.Machine
end

section
/-!
PROOFS. JMP_MEM_WRITE and BAR2 writes stay in the regions granted to their partition (R465, R468, R472).
-/

namespace Sys2Proof.Machine

variable {s t : State} {p b : Nat}

/-! ## Regions -/

/-- Byte `b` lies in region `k` of partition `p` (R472). -/
def InGrant (p k b : Nat) (s : State) : Prop :=
  getF (HST_REG_BASE p k) s * 2 ^ 20 ≤ b ∧ b < (getF (HST_REG_BASE p k) s + getF (HST_REG_SIZE p k) s) * 2 ^ 20

/-- A run of bytes that the regions of a partition hold lies in one of them. -/
theorem exists_inGrant_of_inRegion {a n : Nat} (hp : p < 8) (h : inRegion p a n s = true) :
    ∃ k, k < 8 ∧ ∀ i, i < n → InGrant p k (a + i) s := by
  have hnot : ¬8 ≤ p := by omega
  simp only [inRegion, hnot, decide_false, Bool.false_or, List.any_eq_true, List.mem_range, Bool.and_eq_true,
    decide_eq_true_eq] at h
  obtain ⟨k, hk, ⟨-, hlo⟩, hhi⟩ := h
  exact ⟨k, hk, fun i hi => ⟨by omega, by omega⟩⟩

/-- Whatever a window offset leads to lies in one of the regions that are concatenated. -/
theorem exists_inGrant_of_regionsAddr {ks : List Nat} {off a : Nat} (h : regionsAddr p s ks off = some a) :
    ∃ k ∈ ks, InGrant p k a s := by
  induction ks generalizing off with
  | nil => cases h
  | cons k r ih =>
    simp only [regionsAddr] at h
    split at h
    next hlt =>
      obtain rfl := Option.some.inj h
      refine ⟨k, by simp, ?_, ?_⟩ <;> unfold InGrant at * <;> omega
    next =>
      obtain ⟨j, hj, hin⟩ := ih h
      exact ⟨j, by simp [hj], hin⟩

theorem getF_congr (h : t.regs = s.regs) (f : Fld) : getF f t = getF f s := by simp only [getF, rd, h]

theorem inGrant_congr (h : t.regs = s.regs) (k b : Nat) : InGrant p k b t ↔ InGrant p k b s := by
  simp only [InGrant, getF_congr h]

theorem regionsAddr_congr (h : t.regs = s.regs) (ks : List Nat) (off : Nat) :
    regionsAddr p t ks off = regionsAddr p s ks off := by
  induction ks generalizing off with
  | nil => rfl
  | cons k r ih => rw [regionsAddr, regionsAddr, getF_congr h, getF_congr h, ih]

/-- Where a window offset leads depends on registers alone. -/
theorem windowAddr_congr (h : t.regs = s.regs) (off : Nat) : windowAddr p off t = windowAddr p off s :=
  regionsAddr_congr h _ off

theorem exists_inGrant_of_windowAddr {off a : Nat} (h : windowAddr p off s = some a) : ∃ k, k < 8 ∧ InGrant p k a s := by
  obtain ⟨k, hk, hin⟩ := exists_inGrant_of_regionsAddr h
  exact ⟨k, by simpa using hk, hin⟩

/-! ## Messages (R466–R469) -/

theorem MemoryKept.jmpPost (h : MemoryKept s t) (port : Nat) (ipv6 : Bool) (src : List Byte) (addr : List Word)
    (dport typ : Nat) (seq : Word) (body : List Word) :
    MemoryKept s (jmpPost p port ipv6 src addr dport typ seq body t) := by
  unfold Machine.jmpPost
  dsimp only
  split
  · exact (h.setPrt _ _).sendSystem _ _
  · exact (h.setPrt _ _).emit _

variable {m : JmpIn}

theorem jmpPart_lt (m : JmpIn) : jmpPart m < 8 := Nat.mod_lt _ (by decide)

theorem MemoryKept.jmpReply (h : MemoryKept s t) (typ : Nat) (seq : Word) (body : List Word) :
    MemoryKept s (jmpReply m typ seq body t) := h.jmpPost _ _ _ _ _ _ _ _

theorem MemoryKept.jmpAck (h : MemoryKept s t) (status : Nat) : MemoryKept s (jmpAck m status t) := by
  have haddr : (HST_JMP_SEQ (jmpPart m)).addr % 4096 ≠ 8 := by
    show (0x190158 + 0x1000 * jmpPart m) % 4096 ≠ 8
    omega
  exact ((h.setPrt _ _).wr _ haddr).jmpReply _ _ _

theorem MemoryKept.jmpDrop (h : MemoryKept s t) : MemoryKept s (jmpDrop m t) := by
  have haddr : (HST_JMP_DROP (jmpPart m)).addr % 4096 ≠ 8 := by
    show (0x190154 + 0x1000 * jmpPart m) % 4096 ≠ 8
    omega
  refine h.ifS _ ?_
  split
  · exact h.setF _ haddr
  · exact h.setF _ (by decide)

/-- A datagram reaches its meaning in a state with the registers and memory of before, or memory is kept. -/
theorem jmpRun_cases (typ : Nat) (m : JmpIn) (body : State → State) (s : State) :
    MemoryKept s (jmpRun typ m body s) ∨ ∃ u, u.regs = s.regs ∧ MemoryKept s u ∧ jmpRun typ m body s = body u := by
  unfold jmpRun
  dsimp only
  have hread : ∀ x, MemoryKept s { s with hst := x } := (MemoryKept.refl s).hst
  have hstamp : ∀ x, MemoryKept s (jmpStamp m { s with hst := x }) := fun x => (hread x).setPrt _ _
  split
  · exact .inl (.refl s)
  split
  · exact .inl (hread _)
  split
  · exact .inl (hstamp _).jmpDrop
  split
  · split
    · exact .inl ((hstamp _).jmpReply _ _ _)
    · exact .inl (hstamp _)
  split
  · exact .inl (hstamp _).jmpDrop
  · refine .inr ⟨_, ?_, hstamp _, rfl⟩
    rfl

/-! ## JMP_MEM_WRITE (R468) -/

theorem length_wordsBytes (ws : List Word) : (wordsBytes ws).length = 4 * ws.length := by
  induction ws with
  | nil => rfl
  | cons w r ih =>
    have hcons : wordsBytes (w :: r) = wordBytes w ++ wordsBytes r := rfl
    have hword : (wordBytes w).length = 4 := rfl
    rw [hcons, List.length_append, hword, ih, List.length_cons]
    omega

/-- The data of a well-formed request, stored within the sender's regions, miss every byte outside them. -/
theorem byteKept_storeRequest (hout : ∀ k, k < 8 → ¬InGrant (jmpPart m) k b s)
    (hlen : (jmpBody m).length = memCount (jmpBody m) + 2)
    (hin : inRegion (jmpPart m) (memAddr (jmpBody m)) (4 * memCount (jmpBody m)) s = true) :
    ByteKept b s (memWrite .hbm (memAddr (jmpBody m)) (wordsBytes ((jmpBody m).drop 2)) s) := by
  obtain ⟨k, hk, hgrant⟩ := exists_inGrant_of_inRegion (jmpPart_lt m) hin
  have hcount : (wordsBytes ((jmpBody m).drop 2)).length = 4 * memCount (jmpBody m) := by
    rw [length_wordsBytes, List.length_drop, hlen, Nat.add_sub_cancel]
  refine byteKept_memWrite_hbm fun i hi e => hout k hk ?_
  exact e ▸ hgrant i (hcount ▸ hi)

/-- A byte outside the sender's regions survives JMP_MEM_WRITE. -/
theorem byteKept_execJmpMemWrite (hout : ∀ k, k < 8 → ¬InGrant (jmpPart m) k b s)
    (h : execJmpMemWrite m s = .next t) : ByteKept b s t := by
  obtain rfl := Host.Outcome.next.inj h
  rcases jmpRun_cases 7 m _ s with hkept | ⟨u, hregs, hu, heq⟩
  · exact hkept.byteKept b
  rw [heq, jmpAwake]
  dsimp only
  split
  case isTrue => exact (hu.jmpAck NOT_READY).byteKept b
  case isFalse =>
    split
    case isTrue => exact (hu.jmpAck BAD_ARGUMENT).byteKept b
    case isFalse hformed =>
      have hlen := Classical.not_not.1 (not_or.1 hformed).2
      have hout' : ∀ k, k < 8 → ¬InGrant (jmpPart m) k b u := fun k hk => (inGrant_congr hregs k b).not.2 (hout k hk)
      split
      case isTrue hin =>
        have hstored := (hu.byteKept b).trans (byteKept_storeRequest hout' hlen hin)
        exact hstored.trans (((MemoryKept.refl _).jmpAck DONE).byteKept b)
      case isFalse => exact (hu.jmpAck NOT_OWNER).byteKept b

/-! ## The PCIe window (R138, R465) -/

theorem storeAt_some (a : Nat) (v : Byte) (s : State) :
    storeAt (some a) v s = if (leasedAt a s).isNone then hbmPut a v s else s := rfl

/-- A byte written elsewhere, or nowhere, leaves byte `b` alone. -/
theorem byteKept_storeAt {a : Option Nat} (v : Byte) (h : a ≠ some b) : ByteKept b s (storeAt a v s) := by
  cases a with
  | none => exact .refl b s
  | some a =>
    have hne : b ≠ a := fun e => h (congrArg some e.symm)
    rw [storeAt_some]
    split
    · exact byteKept_hbmPut v hne
    · exact .refl b s

theorem storeAt_regs (a : Option Nat) (v : Byte) : (storeAt a v s).regs = s.regs := by
  cases a with
  | none => rfl
  | some a =>
    rw [storeAt_some]
    split
    · exact hbmPut_regs a v
    · rfl

/-- A byte outside the partition's regions survives a byte written through its window. -/
theorem byteKept_windowStore (hout : ∀ k, k < 8 → ¬InGrant p k b s) (off : Nat) (v : Byte) :
    ByteKept b s (windowStore p off v s) := by
  have hmiss : windowAddr p off s ≠ some b := fun ha => by
    obtain ⟨k, hk, hin⟩ := exists_inGrant_of_windowAddr ha
    exact hout k hk hin
  rw [windowStore]
  exact byteKept_storeAt v hmiss

theorem windowStore_regs (off : Nat) (v : Byte) : (windowStore p off v s).regs = s.regs := by
  rw [windowStore, storeAt_regs]

/-- It survives any number of bytes written through the window. -/
theorem byteKept_windowStores (hout : ∀ k, k < 8 → ¬InGrant p k b s) (off : Nat) (l : List (Byte × Nat)) :
    ByteKept b s (each l (fun e => windowStore p (off + e.2) e.1) s) := by
  have hboth : ByteKept b s (each l (fun e => windowStore p (off + e.2) e.1) s) ∧
      (each l (fun e => windowStore p (off + e.2) e.1) s).regs = s.regs := by
    refine foldl_keeps (P := fun t => ByteKept b s t ∧ t.regs = s.regs) ⟨.refl b s, rfl⟩ fun t e ⟨hkept, hregs⟩ => ?_
    have hout' : ∀ k, k < 8 → ¬InGrant p k b t := fun k hk => (inGrant_congr hregs k b).not.2 (hout k hk)
    exact ⟨hkept.trans (byteKept_windowStore hout' _ _), (windowStore_regs _ _).trans hregs⟩
  exact hboth.1

/-- Whatever an access of BAR2 comes to, it is held, served, or none. -/
theorem execBar2WindowAccess_cases {q : Fin 8} {off : Nat} {acc : WindowAccess}
    (h : execBar2WindowAccess q off acc s = .next t) : MemoryKept s t ∨ t = serveWindow q.val off acc s := by
  obtain rfl := Host.Outcome.next.inj h
  split
  · exact .inl (.refl s)
  split
  · exact .inl ((MemoryKept.refl s).hst _)
  · exact .inr rfl

theorem byteKept_serveWindow_write (hp : p < 8) (hout : ∀ k, k < 8 → ¬InGrant p k b s) (off : Nat) (bs : List Byte) :
    ByteKept b s (serveWindow p off (.write bs) s) := by
  refine (byteKept_windowStores hout off bs.zipIdx).trans (MemoryKept.byteKept ?_ b)
  have hleases := fun l => (MemoryKept.refl (each bs.zipIdx (fun e => windowStore p (off + e.2) e.1) s)).each l
    (fun a u hu => hu.leaseViolation 2 p a)
  exact (hleases _).ifS _ ((hleases _).hostError 4 hp)

theorem memoryKept_serveWindow_read (hp : p < 8) (off n : Nat) : MemoryKept s (serveWindow p off (.read n) s) := by
  have hread := (MemoryKept.refl s).emit (.readData p (windowRead p off n s))
  exact hread.ifS _ (hread.hostError 4 hp)

/-- Settles O59: every write of HBM goes to a byte of a region of its partition, and nothing else that a step does reaches
memory. -/
theorem hostWritesStayInTheirRegions : Obligations.HostWritesStayInTheirRegions := by
  unfold Obligations.HostWritesStayInTheirRegions
  refine ⟨?jmp, ?write, ?read⟩
  case jmp =>
    intro m b s t h hout
    have hkept : ByteKept b s t := byteKept_execJmpMemWrite hout h
    exact ⟨hkept.byte, hkept.hostMem⟩
  case write =>
    intro p off b bs s t h hout
    have hkept : ByteKept b s t := by
      rcases execBar2WindowAccess_cases h with hmem | rfl
      · exact hmem.byteKept b
      · exact byteKept_serveWindow_write p.isLt hout off bs
    exact ⟨hkept.byte, hkept.hostMem⟩
  case read =>
    intro p off n s t h
    have hmem : MemoryKept s t := by
      rcases execBar2WindowAccess_cases h with hmem | rfl
      · exact hmem
      · exact memoryKept_serveWindow_read p.isLt off n
    exact ⟨hmem.hbm, hmem.hostMem⟩

end Sys2Proof.Machine
end

section
/-!
PROOFS. Event registers and the PCIe apertures (R465, R485, R486, R519): an accepted write has its effect, and an access of a
function that is there is answered, held or served.
-/

namespace Sys2Proof.Machine

variable {s : State} {who : Who} {page addr : Nat}

/-- An accepted write of an ordinary register has its effect. -/
theorem guardWrite_accepted {f : State → State} (h : Accepted who page s) :
    guardWrite who page addr (mayWrite who page s) f s = f s := by
  obtain ⟨hassigned, hanswers, hmay⟩ := h
  exact guardWrite_ok hassigned hanswers hmay

/-! ## Clearing and setting events (R485, R519) -/

theorem execEvPendClear_accepted (mask : Word) (h : Accepted who page s) :
    execEvPendClear who page mask s = .next (clearPend page mask.toNat s) :=
  congrArg Host.Outcome.next (guardWrite_accepted h)

theorem execEvSetWrite_accepted (mask : Word) (h : Accepted who page s) :
    execEvSetWrite who page mask s = .next (writeEvSet page mask.toNat s) :=
  congrArg Host.Outcome.next (guardWrite_accepted h)

theorem execHstEpendClear_accepted {p : Fin 8} (w : Fin 64) (mask : Word) (hanswers : answers (0x190 + p.val) s = true)
    (hmay : mayRing who p.val s = true) :
    execHstEpendClear who p w mask s = .next (clearF (HST_EPEND p.val w.val) mask.toNat s) :=
  congrArg Host.Outcome.next (guardWrite_ok (assigned_hst p) hanswers hmay)

/-! ## Accesses of a PCIe function (R418, R465) -/

variable {p : Fin 8} {off : Nat} {acc : WindowAccess}

theorem execBar0BadAccess_up (addr : Nat) (h : functionUp p.val s = true) :
    execBar0BadAccess p addr s = .next (s |> emit (.unsupported p.val) |> badAccess false true (.part p) addr) := by
  simp [execBar0BadAccess, h]

/-- An access reaches its BAR: the function is there, the device is not in RECOVERY, and the bytes lie in the BAR. -/
structure ReachesBar (p off : Nat) (acc : WindowAccess) (s : State) : Prop where
  booted : inRecovery s = false
  up : functionUp p s = true
  inside : inBar p off acc s = true

theorem execBar2WindowAccess_reached (h : ReachesBar p.val off acc s) : execBar2WindowAccess p off acc s =
    .next (if hbmAccess acc && hbmAsleep s then
      { s with hst := { s.hst with barHeld := s.hst.barHeld ++ [(p.val, off, acc)] } } else serveWindow p.val off acc s) := by
  simp [execBar2WindowAccess, h.booted, h.up, h.inside]

/-- The fabric holds an access of HBM while a stack is in self-refresh. -/
theorem execBar2WindowAccess_held (h : ReachesBar p.val off acc s) (hacc : hbmAccess acc = true)
    (hasleep : hbmAsleep s = true) : execBar2WindowAccess p off acc s =
    .next { s with hst := { s.hst with barHeld := s.hst.barHeld ++ [(p.val, off, acc)] } } := by
  simp [execBar2WindowAccess_reached h, hacc, hasleep]

/-- While every stack is awake an access is served, and one of BAR4 always is. -/
theorem execBar2WindowAccess_served (h : ReachesBar p.val off acc s) (hawake : hbmAccess acc = false ∨ hbmAsleep s = false) :
    execBar2WindowAccess p off acc s = .next (serveWindow p.val off acc s) := by
  rw [execBar2WindowAccess_reached h, if_neg]
  rcases hawake with hacc | hawake
  · simp [hacc]
  · simp [hawake]

/-! ## The commands -/

theorem exec_evPendClear (mask : Word) : exec (.evPendClear who page mask) s = execEvPendClear who page mask s := rfl

theorem exec_evSetWrite (mask : Word) : exec (.evSetWrite who page mask) s = execEvSetWrite who page mask s := rfl

theorem exec_hstEpendClear (w : Fin 64) (mask : Word) :
    exec (.hstEpendClear who p w mask) s = execHstEpendClear who p w mask s := rfl

theorem exec_bar0BadAccess : exec (.bar0BadAccess p addr) s = execBar0BadAccess p addr s := rfl

theorem exec_bar2WindowAccess : exec (.bar2WindowAccess p off acc) s = execBar2WindowAccess p off acc s := rfl

/-- Settles O4: what an access served does is `serveWindow`, kind by kind; that BAR4 and the masks come by the same command is
log 38. -/
theorem eventRegistersAndWindowComplete : Obligations.EventRegistersAndWindowComplete := by
  unfold Obligations.EventRegistersAndWindowComplete
  simp only [exec_evPendClear, exec_evSetWrite, exec_hstEpendClear, exec_bar0BadAccess, exec_bar2WindowAccess]
  refine ⟨?events, ?deliveries, ?bar0, ?window⟩
  case events => exact fun who page m s h => ⟨execEvPendClear_accepted m h, execEvSetWrite_accepted m h⟩
  case deliveries => exact fun who p w m s => execHstEpendClear_accepted w m
  case bar0 => exact fun p addr s => execBar0BadAccess_up addr
  case window =>
    intro p off acc s hbooted hup hinside
    have hreach : ReachesBar p.val off acc s := ⟨hbooted, hup, hinside⟩
    refine ⟨execBar2WindowAccess_held hreach, fun _ hawake => ⟨?read, ?write⟩, ?msixRead, ?msixWrite, ?msixMask⟩
    case read => rintro n rfl; exact execBar2WindowAccess_served hreach (.inr hawake)
    case write => rintro bs rfl; exact execBar2WindowAccess_served hreach (.inr hawake)
    case msixRead => rintro n rfl; exact execBar2WindowAccess_served hreach (.inl rfl)
    case msixWrite => rintro ws rfl; exact execBar2WindowAccess_served hreach (.inl rfl)
    case msixMask => rintro b rfl; exact execBar2WindowAccess_served hreach (.inl rfl)

end Sys2Proof.Machine
end

section
/-!
PROOFS. Raster groups (R118, R119, R121, R124, R129, R141, R147): frames are latched and started, rows leave, timing sets are
taken or refused.
-/

namespace Sys2Proof.Machine

variable {s : State} {who : Who} {g : Fin 4} {lane : Fin 1024}

/-! ## Frames (R118, R121) -/

theorem execFrameLatch_due (h : latchDue g.val s = true) : execFrameLatch g s = .next (frameLatch g.val s) := by
  simp [execFrameLatch, h, ifS]

theorem execFrameStart_due (hphase : (s.grp g.val).phase = .latched) (hfs : reached (s.grp g.val).fs s = true) :
    execFrameStart g s = .next (frameStarts g.val s) := by
  simp [execFrameStart, hphase, hfs, ifS]

/-! ## Timing sets (R141) -/

theorem execRasModeApply_accepted (h : Accepted who (0x90 + g.val) s) :
    execRasModeApply who g s = .next (writeApply g.val s) :=
  congrArg Host.Outcome.next (guardWrite_accepted h)

theorem writeApply_valid {g : Nat} (hon : groupState g s = 2) (h : timingReason g (writtenTiming g s) s = 0) :
    writeApply g s = (s |> State.setGrp g { s.grp g with pendingSet := some (writtenTiming g s) }
      |> setF (RAS_MODE_STAT_PENDING g) 1) := by
  simp [writeApply, hon, h]

theorem writeApply_invalid {g : Nat} (hon : groupState g s = 2) (h : timingReason g (writtenTiming g s) s ≠ 0) :
    writeApply g s = (s |> setF (RAS_MODE_STAT_REASON g) (timingReason g (writtenTiming g s) s) |> raise (0x90 + g) 6) := by
  simp [writeApply, hon, h]

/-! ## Row departures (R119, R124, R129) -/

/-- The next row of the tile of base lane `b` is due on a lane: its group runs a frame that is not aborted, and the row's
departure time has come (R119). -/
structure RowDue (b lane : Nat) (s : State) : Prop where
  valid : tileValid b s = true
  active : (s.grp (tileRec b s).group).phase = .active
  runs : (s.grp (tileRec b s).group).aborted = false
  unsent : (s.pool b).sent < tileRH b s
  onLane : rowLane b (s.pool b).sent s = lane
  come : reached (departTime b (s.pool b).sent s) s = true

/-- What becomes of a row that is due. -/
def dueRow (b : Nat) (s : State) : State :=
  let r := (s.pool b).sent
  if !takesPart b s then s.setPool b { s.pool b with sent := r + 1 }
  else if patterned b s then rowLeaves b r (patternRays b r s) s
  else match rowRays b r s with
    | some rays => rowLeaves b r rays s
    | none =>
      let k := lowestUnderrun b s
      abortFrame (tileRec b s).group 0 (rowLane k (s.pool k).sent s) (s.pool k).sent s

theorem execRowDeparture_due (h : RowDue (tileLane lane.val s) lane.val s) :
    execRowDeparture lane s = .next (dueRow (tileLane lane.val s) s) := by
  unfold execRowDeparture
  dsimp only
  rw [if_neg]
  · rfl
  · simp [h.valid, h.active, h.runs, h.onLane, h.come, Nat.not_le.2 h.unsent]

variable {b : Nat}

/-- A tile that takes no part in the frame counts its row as sent. -/
theorem dueRow_apart (h : takesPart b s = false) : dueRow b s = s.setPool b { s.pool b with sent := (s.pool b).sent + 1 } := by
  simp [dueRow, h]

theorem dueRow_pattern (h : takesPart b s = true) (hp : patterned b s = true) :
    dueRow b s = rowLeaves b (s.pool b).sent (patternRays b (s.pool b).sent s) s := by
  simp [dueRow, h, hp]

theorem dueRow_computed {rays : List (Nat × Nat × Nat)} (h : takesPart b s = true) (hp : patterned b s = false)
    (hrays : rowRays b (s.pool b).sent s = some rays) : dueRow b s = rowLeaves b (s.pool b).sent rays s := by
  simp [dueRow, h, hp, hrays]

/-- A row that is not computed aborts the frame with cause 0, naming the lowest underrunning lane and its row. -/
theorem dueRow_underrun (h : takesPart b s = true) (hp : patterned b s = false) (hrays : rowRays b (s.pool b).sent s = none) :
    dueRow b s = abortFrame (tileRec b s).group 0 (rowLane (lowestUnderrun b s) (s.pool (lowestUnderrun b s)).sent s)
      (s.pool (lowestUnderrun b s)).sent s := by
  simp [dueRow, h, hp, hrays]

/-! ## The low-water mark (R147) -/

theorem execSynPoolWrite_accepted (v : Word) (h : Accepted who (0x80 + lane.val / 128) s) :
    execSynPoolWrite who lane v s = .next (setF (SYN_POOL_LOW (lane.val / 128) (lane.val % 128)) 0xFFFF s) :=
  congrArg Host.Outcome.next (guardWrite_accepted h)

/-! ## The commands -/

theorem exec_frameLatch (g : Fin 4) : exec (.frameLatch g) s = execFrameLatch g s := rfl

theorem exec_frameStart (g : Fin 4) : exec (.frameStart g) s = execFrameStart g s := rfl

theorem exec_rasModeApply (g : Fin 4) : exec (.rasModeApply who g) s = execRasModeApply who g s := rfl

theorem exec_rowDeparture (lane : Fin 1024) : exec (.rowDeparture lane) s = execRowDeparture lane s := rfl

theorem exec_synPoolWrite (lane : Fin 1024) (v : Word) : exec (.synPoolWrite who lane v) s = execSynPoolWrite who lane v s := rfl

/-- Settles O6: a frame that is due is latched and started, and a row that is due has one of four ends. That the leases end and
begin at FS is R135, the RESYNC of a first frame is R142, and the write of SYN_POOL is R147. -/
theorem frameTimingCompletes : Obligations.FrameTimingCompletes := by
  unfold Obligations.FrameTimingCompletes
  simp only [exec_frameLatch, exec_frameStart, exec_rasModeApply, exec_rowDeparture, exec_synPoolWrite]
  refine ⟨?latch, ?start, ?apply, ?row, ?pool⟩
  case latch => exact fun g s => execFrameLatch_due
  case start =>
    rintro g s _ rfl hphase hfs
    exact execFrameStart_due hphase hfs
  case apply =>
    intro who g s haccepted hon
    rw [execRasModeApply_accepted haccepted]
    exact ⟨fun h => congrArg _ (writeApply_valid hon h), fun h => congrArg _ (writeApply_invalid hon h)⟩
  case row =>
    rintro lane s _ _ rfl rfl hvalid hactive hruns hunsent hlane hcome
    rw [execRowDeparture_due ⟨hvalid, hactive, hruns, hunsent, hlane, hcome⟩]
    refine ⟨fun h => congrArg _ ?apart, fun h hp => congrArg _ ?pattern, fun rays h hp hrays => congrArg _ ?computed, ?underrun⟩
    case apart => exact dueRow_apart h
    case pattern => exact dueRow_pattern h hp
    case computed => exact dueRow_computed h hp hrays
    case underrun =>
      rintro _ rfl h hp hrays
      exact congrArg _ (dueRow_underrun h hp hrays)
  case pool => exact fun who lane v s => execSynPoolWrite_accepted v

end Sys2Proof.Machine
end

section
/-!
PROOFS. Writes of a lane's registers (R155, R156, R169, R171, R181, R183, R185): enabling, rate, loop, blanking and injection.
-/

namespace Sys2Proof.Machine

variable {s : State} {who : Who} {lane : Nat}

theorem laneWrite_accepted {f : Nat → Nat → Fld} {g : State → State} (h : Accepted who (lanePage lane) s) :
    laneWrite who lane f g s = g s := guardWrite_accepted h

/-! ## EN (R155) -/

theorem isOn_setEn (page lane : Nat) (b : Bool) (s : State) : isOn page (setB (laneF LNK_CTRL_EN lane) b s) = isOn page s := by
  refine isOn_setF _ _ ?main ?stat
  case main =>
    show 0x100800 + 0x1000 * (lane / 16) + 0x80 * (lane % 16) ≠ 0x2100
    omega
  case stat =>
    show (0x100800 + 0x1000 * (lane / 16) + 0x80 * (lane % 16)) % 4096 ≠ 8
    omega

/-- A lane that is enabled leaves DISABLED at once on a page that is ON. -/
theorem writeEn_starts (hen : getB (laneF LNK_CTRL_EN lane) s = false) (hon : isOn (lanePage lane) s = true) :
    writeEn lane true s = (s |> setB (laneF LNK_CTRL_EN lane) true |> startLane lane) := by
  simp [writeEn, hen, isOn_setEn, hon]

theorem writeEn_disables (hen : getB (laneF LNK_CTRL_EN lane) s = true) :
    writeEn lane false s = (s |> setB (laneF LNK_CTRL_EN lane) false |> disableLane lane) := by
  simp [writeEn, hen]

/-! ## RATE (R156, R185) -/

/-- A new rate of an idle lane is stored; every lane of the tile may ask for its target again. -/
theorem writeRate_takes {r : Nat} {t : State} (hmin : 2 ≤ r) (hmax : r ≤ 16) (hne : getF (laneF LNK_CTRL_RATE lane) s ≠ r)
    (hidle : laneIdle lane s = true) (ht : t = setF (laneF LNK_CTRL_RATE lane) r s) : writeRate lane r s =
    (each (tileLanes (tileLane lane t) t) (fun k => modLane k (fun x => { x with rateGaveUp := false })) t |> checkRate lane) := by
  have hok : ¬(r < 2 ∨ 16 < r ∨ laneIdle lane s = false) := by simp [hidle]; omega
  rw [writeRate, if_neg hne, if_neg hok, ht]

theorem writeRate_refuses {r : Nat} (hne : getF (laneF LNK_CTRL_RATE lane) s ≠ r)
    (hbad : r < 2 ∨ 16 < r ∨ laneIdle lane s = false) : writeRate lane r s = laneCause lane 7 s := by
  rw [writeRate, if_neg hne, if_pos hbad]

/-! ## LOOP (R181) -/

theorem writeLoop_busy {n : Nat} (hn : 0 < n) (hbusy : laneIdle lane s = false) : writeLoop lane n s = laneCause lane 8 s :=
  if_pos ⟨Nat.ne_of_gt hn, hbusy⟩

/-! ## BLANK and UNBLANK (R169, R171) -/

theorem writeBlank_set (h : getB (laneF LNK_CTRL_BLANK lane) s = false) : writeBlank lane true s =
    (s |> setB (laneF LNK_CTRL_BLANK lane) true |> each (tileLanes (tileLane lane s) s) (sendBlank 2)
      |> refreshBlank (tileLane lane s)) := by
  simp [writeBlank, h, ifS]

theorem writeBlank_clear (h : getB (laneF LNK_CTRL_BLANK lane) s = true) : writeBlank lane false s =
    (s |> setB (laneF LNK_CTRL_BLANK lane) false |> refreshBlank (tileLane lane s)) := by
  simp [writeBlank, h, ifS]

theorem writeUnblank_clears (h : ∀ k ∈ tileLanes (tileLane lane s) s, (s.lane k).sinceFault = some 0) : writeUnblank lane s =
    (s |> each (tileLanes (tileLane lane s) s) (fun k => setB (laneF LNK_STAT_FBLANK k) false)
      |> refreshBlank (tileLane lane s)) :=
  if_pos (List.all_eq_true.2 fun k hk => decide_eq_true (h k hk))

/-! ## LNK_INJ (R183) -/

variable {p : Nat} {v : Word}

/-- The fields of LNK_INJ but ARM take a write. -/
def injFields (p : Nat) (v : Word) (s : State) : State :=
  s |> setF (LNK_INJ_COMMIT p) (bitsOf v.toNat 30 30) |> setF (LNK_INJ_KIND p) (bitsOf v.toNat 29 28)
    |> setF (LNK_INJ_LANE p) (bitsOf v.toNat 27 24) |> setF (LNK_INJ_ROW p) (bitsOf v.toNat 15 0)

/-- The injection that a write asks for has a valid target (R183). -/
def injTargetOk (p : Nat) (v : Word) (s : State) : Bool :=
  injOk p (bitsOf v.toNat 29 28) (bitsOf v.toNat 27 24) (bitsOf v.toNat 15 0) (getF (LNK_INJ_POS_WORD p) (injFields p v s))
    (injFields p v s)

/-- A write asks an injection that is not armed to be armed. -/
structure AsksToArm (p : Nat) (v : Word) (s : State) : Prop where
  unarmed : getB (LNK_INJ_ARM p) s = false
  arm : bitOf v.toNat 31 = true
  kind : bitsOf v.toNat 29 28 ≠ 0

theorem writeInj_arms (h : AsksToArm p v s) (hok : injTargetOk p v s = true) :
    writeInj p v s = (injFields p v s |> setB (LNK_INJ_ARM p) true |> State.setInjLive p false) := by
  unfold injTargetOk injFields at hok
  simp [writeInj, injFields, h.unarmed, h.arm, h.kind, hok]

theorem writeInj_refuses (h : AsksToArm p v s) (hbad : injTargetOk p v s = false) :
    writeInj p v s = laneCause (16 * p + bitsOf v.toNat 27 24) 13 (injFields p v s) := by
  unfold injTargetOk injFields at hbad
  simp [writeInj, injFields, h.unarmed, h.arm, h.kind, hbad]

/-! ## The commands -/

section Commands

variable {lane : Fin 1024}

theorem exec_lnkEnWrite_accepted (en : Bool) (h : Accepted who (lanePage lane.val) s) :
    exec (.lnkEnWrite who lane en) s = .next (writeEn lane.val en s) :=
  congrArg Host.Outcome.next (laneWrite_accepted h)

theorem exec_lnkRateWrite_accepted (r : Nat) (h : Accepted who (lanePage lane.val) s) :
    exec (.lnkRateWrite who lane r) s = .next (writeRate lane.val (r % 32) s) :=
  congrArg Host.Outcome.next (laneWrite_accepted h)

theorem exec_lnkLoopWrite_accepted {n : Nat} (hn : n < 4) (h : Accepted who (lanePage lane.val) s) :
    exec (.lnkLoopWrite who lane n) s = .next (writeLoop lane.val n s) := by
  have hfield : n % 4 = n := Nat.mod_eq_of_lt hn
  exact (congrArg Host.Outcome.next (laneWrite_accepted h)).trans (by rw [hfield])

theorem exec_lnkBlankWrite_accepted (on : Bool) (h : Accepted who (lanePage lane.val) s) :
    exec (.lnkBlankWrite who lane on) s = .next (writeBlank lane.val on s) :=
  congrArg Host.Outcome.next (laneWrite_accepted h)

theorem exec_unblank_accepted (h : Accepted who (lanePage lane.val) s) :
    exec (.unblank who lane false) s = .next (writeUnblank lane.val s) :=
  congrArg Host.Outcome.next (laneWrite_accepted h)

/-- In the cycle of a fault indication UNBLANK has no effect (R171). -/
theorem exec_unblank_inFault (h : Accepted who (lanePage lane.val) s) : exec (.unblank who lane true) s = .next s :=
  congrArg Host.Outcome.next (laneWrite_accepted h)

theorem exec_lnkInjArm_accepted {page : Fin 64} (v : Word) (h : Accepted who (0x100 + page.val) s) :
    exec (.lnkInjArm who page v) s = .next (writeInj page.val v s) :=
  congrArg Host.Outcome.next (guardWrite_accepted h)

end Commands

/-- Settles O9: an accepted write is the effect of its field, case by case. -/
theorem linkWritesComplete : Obligations.LinkWritesComplete := by
  unfold Obligations.LinkWritesComplete
  intro who lane s haccepted
  simp only [exec_lnkEnWrite_accepted _ haccepted, exec_lnkRateWrite_accepted _ haccepted,
    exec_lnkBlankWrite_accepted _ haccepted, exec_unblank_accepted haccepted, exec_unblank_inFault haccepted]
  refine ⟨fun hen hon => ?enable, fun hen => ?disable, fun r hmin hmax hne hidle t ht => ?rate, fun r hne hbad => ?rateRefused,
    fun n hpos hlt _ hbusy => ?loopBusy, fun n hlt _ => ?loop, fun h => ?blank, fun h => ?blankEnds, fun h => ?unblank, trivial,
    fun page v t hpage harm hbit hkind ht => ?inject⟩
  case enable => rw [writeEn_starts hen hon]
  case disable => rw [writeEn_disables hen]
  case rate =>
    have hfield : r % 32 = r := Nat.mod_eq_of_lt (by omega)
    rw [hfield, writeRate_takes hmin hmax hne hidle ht]
  case rateRefused => rw [writeRate_refuses hne hbad]
  case loopBusy => rw [exec_lnkLoopWrite_accepted hlt haccepted, writeLoop_busy hpos hbusy]
  case loop => exact exec_lnkLoopWrite_accepted hlt haccepted
  case blank => rw [writeBlank_set h]
  case blankEnds => rw [writeBlank_clear h]
  case unblank => rw [writeUnblank_clears h]
  case inject =>
    have hasks : AsksToArm page.val v s := ⟨harm, hbit, hkind⟩
    subst ht
    rw [exec_lnkInjArm_accepted v hpage]
    exact ⟨fun hok => congrArg _ (writeInj_arms hasks hok), fun hbad => congrArg _ (writeInj_refuses hasks hbad)⟩

end Sys2Proof.Machine
end

section
/-!
PROOFS. The back channel of a lane (R150, R152, R154, R155, R166–R168, R181): commas, IDLEs, code errors, status packets, faults
and the bytes of a test pattern.
-/

namespace Sys2Proof.Machine

variable {s u : State} {lane : Nat} {cs : List (Option (Bool × Nat))}

/-! ## The receiver finds its words (R150, R154) -/

/-- Either form of K28.5 ends HUNT; the lane's state follows from HUNT to CHECK. -/
theorem execRxCommaDetect_comma {lane : Fin 1024} {g : Nat} (hlistens : listens lane.val s = true)
    (hhunt : (s.lane lane.val).sync = 0) (hcomma : g = codeK 0xBC false ∨ g = codeK 0xBC true) :
    execRxCommaDetect lane g s = .next (s
      |> modLane lane.val (fun x =>
          { x with sync := 1, idles := 0, groups := 0, errs := [], rdPlus := decide (g = codeK 0xBC true) })
      |> ifS (decide (lstate lane.val s = 1)) (setLstate lane.val 2)) := by
  have htakes : ¬(listens lane.val s = false ∨ (s.lane lane.val).sync ≠ 0 ∨ (g ≠ codeK 0xBC false ∧ g ≠ codeK 0xBC true)) := by
    simp only [hlistens, hhunt]
    tauto
  exact congrArg Host.Outcome.next (if_neg htakes)

/-- The receiver has taken code group `g`, whatever it is. -/
def groupArrives (lane g : Nat) (s : State) : State :=
  modLane lane (fun x => { x with groups := x.groups + 1, rdPlus := rdNext g x.rdPlus }) s

/-- A code group that is no character is a code error and ends no word. -/
theorem rxWord_noCharacter {g : Nat} (hsync : (s.lane lane).sync ≠ 0) (hbad : charOf g (s.lane lane).rdPlus = none) :
    rxWord lane [g] s = (codeError lane (groupArrives lane g s), [none], .ignored) := by
  simp [rxWord, rxGroup, groupArrives, hsync, hbad, ifS]

/-- A code error in CHECK ends the lock. -/
theorem codeError_inCheck (h : (s.lane lane).sync = 1) :
    codeError lane s = (s |> countF (laneF LNK_CODE_ERR lane) |> loseLock lane) := if_pos (.inl h)

/-! ## IDLE (R154, R155) -/

theorem takeIdle_counts (f : Nat) (hcheck : (s.lane lane).sync = 1) (hfew : (s.lane lane).idles < 7) :
    takeIdle lane f s = s.setLane lane { s.lane lane with idles := (s.lane lane).idles + 1 } := by
  have hlt : (s.lane lane).idles + 1 < 8 := by omega
  simp [takeIdle, hcheck, hlt]

/-- The eighth IDLE in a row makes the receiver LOCKED. -/
theorem takeIdle_locks (f : Nat) (hcheck : (s.lane lane).sync = 1) (hmany : 7 ≤ (s.lane lane).idles) : takeIdle lane f s =
    (s.setLane lane { s.lane lane with sync := 2, idles := 0, lockedIdles := 0, groups := 0, errs := [] }
      |> ifS (decide (lstate lane s = 2)) (setLstate lane 3) |> showFill lane) := by
  have hge : ¬(s.lane lane).idles + 1 < 8 := by omega
  simp [takeIdle, hcheck, hge]

theorem takeIdle_locked (f : Nat) (hlocked : (s.lane lane).sync = 2) : takeIdle lane f s =
    s.setLane lane { s.lane lane with lockedIdles := if bitOf f 0 then min 16 ((s.lane lane).lockedIdles + 1) else 0 } := by
  simp [takeIdle, hlocked]

/-! ## Status packets (R166, R167) -/

/-- A status packet whose SOF is sound has passed a receiver that stayed LOCKED: its words are `l`, and `u` is the state after
them. -/
structure StatusArrives (lane : Nat) (gs : List Nat) (l : List RxSet) (s u : State) : Prop where
  listens : listens lane s = true
  words : rxWords lane gs 8 s = (u, l)
  lockedOn : 3 ≤ lstate lane s
  locked : (s.lane lane).sync = 2
  stays : (u.lane lane).sync = 2
  near : (s.lane lane).farEnd = false
  sof : l.head? = some (.sof 0x81)

/-- What becomes of a status packet of words `l`. -/
def judgeStatus (lane : Nat) (l : List RxSet) (s : State) : State :=
  match statusData l with
  | none => laneCause lane 11 s
  | some ws =>
    if crcWords (ws.take 5) ≠ ws.getD 5 0 then laneCause lane 11 s
    else if l.getLast? = some .eop then takeStatus lane (0 :: ws) s else s

theorem execStatusPacketRx_arrives {lane : Fin 1024} {gs : List Nat} {l : List RxSet} (h : StatusArrives lane.val gs l s u) :
    execStatusPacketRx lane gs s = .next (judgeStatus lane.val l u) := by
  obtain ⟨hlistens, hwords, hlocked, hsync, hstays, hnear, hsof⟩ := h
  unfold execStatusPacketRx
  simp only [hlistens, hwords, hsync, hstays, hnear, hsof, Nat.not_lt.2 hlocked, Bool.not_true, Bool.false_eq_true, ne_eq,
    not_true_eq_false, or_self, if_false]
  rfl

theorem judgeStatus_takes {l : List RxSet} {ws : List Word} (hdata : statusData l = some ws)
    (hcrc : crcWords (ws.take 5) = ws.getD 5 0) (heop : l.getLast? = some .eop) :
    judgeStatus lane l s = takeStatus lane (0 :: ws) s := by
  simp only [judgeStatus, hdata, hcrc, heop, ne_eq, not_true_eq_false, if_false, if_true]

theorem judgeStatus_badCrc {l : List RxSet} {ws : List Word} (hdata : statusData l = some ws)
    (hcrc : crcWords (ws.take 5) ≠ ws.getD 5 0) : judgeStatus lane l s = laneCause lane 11 s := by
  simp only [judgeStatus, hdata, if_pos hcrc]

theorem judgeStatus_damaged {l : List RxSet} (hdata : statusData l = none) : judgeStatus lane l s = laneCause lane 11 s := by
  simp only [judgeStatus, hdata]

/-! ## The commands of a receiver that listens -/

section Listening

variable {lane : Fin 1024} {gs : List Nat}

theorem execRxIdleReceived_idle {f : Nat} (hlistens : listens lane.val s = true) (hword : rxWord lane.val gs s = (u, cs, .idle f)) :
    execRxIdleReceived lane gs s = .next (takeIdle lane.val f u) := by
  simp [execRxIdleReceived, hlistens, hword]

theorem execRxCodeError_word (gs : List Nat) (hlistens : listens lane.val s = true) :
    execRxCodeError lane gs s = .next (rxWord lane.val gs s).1 := by
  simp [execRxCodeError, hlistens]

/-- A valid FAULT blanks the tile of a lane from LOCKED onwards, within 5 µs (R168). -/
theorem execFaultSetRx_fault {code : Nat} (d : Nat) (hlistens : listens lane.val s = true)
    (hword : rxWord lane.val gs s = (u, cs, .fault code)) (hlocked : 3 ≤ lstate lane.val u) :
    execFaultSetRx lane gs d s = .next (tileFault lane.val (min d 5000) u) := by
  simp [execFaultSetRx, hlistens, hword, hlocked, ifS]

theorem lnkRuns_of_listens {lane : Nat} (h : listens lane s = true) : lnkRuns lane s = true :=
  (Bool.and_eq_true_iff.1 (Bool.and_eq_true_iff.1 h).1).1

/-- A checker that is in step counts the bytes in error and goes on with its own pattern (R181). -/
theorem execPatternWordRx_inStep {x : RxSet} {e : Nat} (hlistens : listens lane.val s = true)
    (hpattern : sendsPattern lane.val s = true) (hword : rxWord lane.val gs s = (u, cs, x))
    (hstep : getB (laneF LNK_STAT_PSYNC lane.val) u = true) (he : e = prbsNext 32 (u.lane lane.val).prbs % 2 ^ 32) :
    execPatternWordRx lane gs s = .next (each (List.range (byteErrors e cs)) (fun _ => countF (laneF LNK_PRBS_ERR lane.val))
      (u.setLane lane.val { u.lane lane.val with prbs := e % 2 ^ 31 })) := by
  have hruns : lnkRuns lane.val s = true := lnkRuns_of_listens hlistens
  unfold execPatternWordRx
  simp only [hruns, hpattern, hword, hstep, he, Bool.true_eq_false, or_self, if_false, if_true]

theorem exec_rxCommaDetect (g : Nat) : exec (.rxCommaDetect lane g) s = execRxCommaDetect lane g s := rfl

theorem exec_rxIdleReceived : exec (.rxIdleReceived lane gs) s = execRxIdleReceived lane gs s := rfl

theorem exec_rxCodeError : exec (.rxCodeError lane gs) s = execRxCodeError lane gs s := rfl

theorem exec_statusPacketRx : exec (.statusPacketRx lane gs) s = execStatusPacketRx lane gs s := rfl

theorem exec_faultSetRx (d : Nat) : exec (.faultSetRx lane gs d) s = execFaultSetRx lane gs d s := rfl

theorem exec_patternWordRx : exec (.patternWordRx lane gs) s = execPatternWordRx lane gs s := rfl

end Listening

/-- Settles O10: what a word received does is settled once its characters are known. The forms of the comma are those of the code
tables of log 31, and the checker of a test pattern is that of R181. -/
theorem backChannelCompletes : Obligations.BackChannelCompletes := by
  unfold Obligations.BackChannelCompletes
  simp only [exec_rxCommaDetect, exec_rxIdleReceived, exec_rxCodeError, exec_statusPacketRx, exec_faultSetRx, exec_patternWordRx]
  intro lane s hlistens
  refine ⟨fun g => execRxCommaDetect_comma hlistens, fun gs u cs f hword => ?idle, ?codeError, ?status,
    fun gs u cs code d => execFaultSetRx_fault d hlistens, fun gs u cs x e => execPatternWordRx_inStep hlistens⟩
  case idle =>
    rw [execRxIdleReceived_idle hlistens hword]
    exact ⟨fun hcheck hfew => congrArg _ (takeIdle_counts f hcheck hfew),
      fun hcheck hmany => congrArg _ (takeIdle_locks f hcheck hmany), fun hlocked => congrArg _ (takeIdle_locked f hlocked)⟩
  case codeError =>
    rintro g _ hsync hbad rfl
    rw [execRxCodeError_word [g] hlistens, rxWord_noCharacter hsync hbad]
    exact ⟨rfl, fun hcheck => congrArg _ (codeError_inCheck hcheck)⟩
  case status =>
    intro gs u l hwords hlocked hsync hstays hnear hsof
    rw [execStatusPacketRx_arrives ⟨hlistens, hwords, hlocked, hsync, hstays, hnear, hsof⟩]
    exact ⟨fun ws hdata hcrc heop => congrArg _ (judgeStatus_takes hdata hcrc heop),
      fun ws hdata hcrc => congrArg _ (judgeStatus_badCrc hdata hcrc), fun hdata => congrArg _ (judgeStatus_damaged hdata)⟩

end Sys2Proof.Machine
end

section
/-!
PROOFS. Timers of a lane and the echo check of its tile (R155, R156, R162, R169, R184, R447).
-/

namespace Sys2Proof.Machine

variable {s : State} {lane : Fin 1024}

/-! ## Time-outs and rate switching (R155, R156) -/

theorem execStatusTimeout_ready (hruns : lnkRuns lane.val s = true) (hready : lstate lane.val s = 4) :
    execStatusTimeout lane s = .next (s |> laneCause lane.val 4 |> huntAt lane.val 2) := by
  simp [execStatusTimeout, hruns, hready]

/-- A lane in RATE_SWITCH has sent MODE RATE for rate `t`, `n` times so far; `acked`: it was acknowledged. -/
structure RateAsked (lane t n : Nat) (acked : Bool) (s : State) : Prop where
  runs : lnkRuns lane s = true
  switches : lstate lane s = 5
  acked : (s.lane lane).rateAcked = acked
  pending : (s.lane lane).ratePending = some (t, n)

variable {t n : Nat}

theorem execRateAckTimeout_resends (h : RateAsked lane.val t n false s) (hn : n < 3) : execRateAckTimeout lane s =
    .next (s |> resendRate lane.val t |> modLane lane.val (fun x => { x with ratePending := some (t, n + 1) })) := by
  simp [execRateAckTimeout, h.runs, h.switches, h.acked, h.pending, hn]

/-- After the third MODE the lane stays READY at its rate. -/
theorem execRateAckTimeout_givesUp (h : RateAsked lane.val t n false s) (hn : 3 ≤ n) : execRateAckTimeout lane s =
    .next (s |> modLane lane.val (fun x => { x with ratePending := none, rateGaveUp := true }) |> setLstate lane.val 4
      |> laneCause lane.val 9) := by
  simp [execRateAckTimeout, h.runs, h.switches, h.acked, h.pending, Nat.not_lt.2 hn]

theorem execRateSwitchDelay_switches (h : RateAsked lane.val t n true s) : execRateSwitchDelay lane s =
    .next (s |> huntAt lane.val t |> modLane lane.val (fun x => { x with switching := true })) := by
  simp [execRateSwitchDelay, h.runs, h.switches, h.acked, h.pending]

theorem execRateReadyTimeout_returns (hruns : lnkRuns lane.val s = true) (hswitching : (s.lane lane.val).switching = true) :
    execRateReadyTimeout lane s = .next (s |> huntAt lane.val 2
      |> modLane lane.val (fun x => { x with switching := false, rateGaveUp := true }) |> laneCause lane.val 9) := by
  simp [execRateReadyTimeout, hruns, hswitching]

/-! ## BLANK repeated, the lane PLL lost (R169, R184, R447) -/

theorem execBlankRepeat_blanked (hruns : lnkRuns lane.val s = true)
    (hblanked : getB (laneF LNK_STAT_BLANKED lane.val) s = true) : execBlankRepeat lane s =
    .next (sendBlank (if getB (laneF LNK_STAT_FBLANK lane.val) s then 1 else 2) lane.val s) := by
  simp [execBlankRepeat, hruns, hblanked, ifS]

theorem execLanePllUnlock_faults (h : blockState (lanePage lane.val) s ∈ [1, 2, 3, 4]) :
    execLanePllUnlock lane s = .next (s |> unlocked |> lnkFault (lane.val / 16) 1) :=
  congrArg Host.Outcome.next (if_pos (List.contains_iff_mem.2 h))

/-! ## The echo check (R162) -/

/-- A lane's echo is to be compared: its tile's frame is in progress, and the lane has no result yet. -/
structure EchoAwaited (lane : Nat) (s : State) : Prop where
  inProgress : echoOpen (tileLane lane s) s = true
  unsettled : (s.lane lane).echoDone = none

/-- The lane's echo is intact. -/
def echoIntact (lane : Nat) (s : State) : State := modLane lane (fun x => { x with echoDone := some true }) s

/-- The lane's echo is damaged: counted and raised. -/
def echoDamaged (lane : Nat) (s : State) : State :=
  s |> countF (laneF LNK_ECHO_ERR lane) |> laneCause lane 5 |> modLane lane (fun x => { x with echoDone := some false })

/-- The frame that a lane's tile shows. -/
def tileFrame (lane : Nat) (s : State) : Nat := (s.grp (tileRec (tileLane lane s) s).group).idx

/-- What follows the result of a lane's echo, `good` or not: `u` is the state with the result, `s` the one before it. -/
def echoSettles (lane : Nat) (good : Bool) (s u : State) : State :=
  let base := tileLane lane s
  let pair := tileLanes base s
  if (u.lane base).echoCut then u
  else if !good then
    u |> each pair (sendAbort (tileFrame lane s) 2) |> modLane base (fun x => { x with cut := true, echoCut := true })
      |> settleRows base false
  else if pair.all (fun j => decide ((u.lane j).echoDone = some true)) then
    u |> each pair (sendCommit (tileFrame lane s) (sigValue (u.lane base).sig)) |> settleRows base true
  else u

theorem execEchoCompare_intact (h : EchoAwaited lane.val s) (hclean : (s.lane lane.val).echoBad = false)
    (hsig : sigValue (s.lane lane.val).echoSig = sigValue (s.lane lane.val).laneSig) :
    execEchoCompare lane none false s = .next (echoSettles lane.val true s (echoIntact lane.val s)) := by
  simp only [execEchoCompare, h.inProgress, h.unsettled, hclean, hsig, Option.isSome_none, Option.getD_none, Bool.false_eq_true,
    Bool.true_eq_false, ne_eq, not_true_eq_false, decide_false, Bool.or_self, Bool.not_false, Bool.true_or, ifS, or_self,
    if_false]
  rfl

theorem execEchoCompare_damaged {v : Word} (h : EchoAwaited lane.val s) (hsig : v ≠ sigValue (s.lane lane.val).laneSig) :
    execEchoCompare lane (some v) false s = .next (echoSettles lane.val false s (echoDamaged lane.val s)) := by
  simp [execEchoCompare, h.inProgress, h.unsettled, hsig, ifS, echoSettles, tileFrame, echoDamaged]

variable {k : Nat} {u : State}

/-- COMMIT goes out on each lane once all have an intact echo. -/
theorem echoSettles_commits (hopen : (u.lane (tileLane k s)).echoCut = false)
    (hall : (tileLanes (tileLane k s) s).all (fun j => decide ((u.lane j).echoDone = some true)) = true) :
    echoSettles k true s u = (u
      |> each (tileLanes (tileLane k s) s) (sendCommit (tileFrame k s) (sigValue (u.lane (tileLane k s)).sig))
      |> settleRows (tileLane k s) true) := by
  simp only [echoSettles, hopen, hall, Bool.not_true, Bool.false_eq_true, if_false, if_true]

theorem echoSettles_waits (hopen : (u.lane (tileLane k s)).echoCut = false)
    (hall : (tileLanes (tileLane k s) s).all (fun j => decide ((u.lane j).echoDone = some true)) = false) :
    echoSettles k true s u = u := by
  simp only [echoSettles, hopen, hall, Bool.not_true, Bool.false_eq_true, if_false]

/-- A damaged echo ends the frame on every lane of the tile with ABORT, cause 2. -/
theorem echoSettles_aborts (hopen : (u.lane (tileLane k s)).echoCut = false) : echoSettles k false s u = (u
    |> each (tileLanes (tileLane k s) s) (sendAbort (tileFrame k s) 2)
    |> modLane (tileLane k s) (fun x => { x with cut := true, echoCut := true }) |> settleRows (tileLane k s) false) := by
  simp only [echoSettles, hopen, Bool.not_false, Bool.false_eq_true, if_false, if_true]

/-! ## The commands -/

theorem exec_statusTimeout : exec (.statusTimeout lane) s = execStatusTimeout lane s := rfl

theorem exec_rateAckTimeout : exec (.rateAckTimeout lane) s = execRateAckTimeout lane s := rfl

theorem exec_rateSwitchDelay : exec (.rateSwitchDelay lane) s = execRateSwitchDelay lane s := rfl

theorem exec_rateReadyTimeout : exec (.rateReadyTimeout lane) s = execRateReadyTimeout lane s := rfl

theorem exec_blankRepeat : exec (.blankRepeat lane) s = execBlankRepeat lane s := rfl

theorem exec_lanePllUnlock : exec (.lanePllUnlock lane) s = execLanePllUnlock lane s := rfl

theorem exec_echoCompare (seen : Option Word) (errors : Bool) :
    exec (.echoCompare lane seen errors) s = execEchoCompare lane seen errors s := rfl

/-- Settles O11: each timer has its effect in the state in which it runs. The lane PLL's loss is R184 with R447, in the states of
log 19. -/
theorem linkTimersAndEchoComplete : Obligations.LinkTimersAndEchoComplete := by
  unfold Obligations.LinkTimersAndEchoComplete
  simp only [exec_statusTimeout, exec_rateAckTimeout, exec_rateSwitchDelay, exec_rateReadyTimeout, exec_blankRepeat,
    exec_lanePllUnlock, exec_echoCompare]
  intro lane s
  refine ⟨execStatusTimeout_ready, fun t n hruns hst hacked hpending => ?unacknowledged,
    fun t n hruns hst hacked hpending => execRateSwitchDelay_switches ⟨hruns, hst, hacked, hpending⟩,
    execRateReadyTimeout_returns, execBlankRepeat_blanked, execLanePllUnlock_faults, ?echo⟩
  case unacknowledged =>
    have hasked : RateAsked lane.val t n false s := ⟨hruns, hst, hacked, hpending⟩
    exact ⟨execRateAckTimeout_resends hasked, execRateAckTimeout_givesUp hasked⟩
  case echo =>
    rintro _ _ _ rfl rfl rfl hopen hdone _
    have hawaited : EchoAwaited lane.val s := ⟨hopen, hdone⟩
    refine ⟨?intact, ?damaged⟩
    case intact =>
      rintro _ hclean rfl hcut
      exact ⟨fun hall hsig => (execEchoCompare_intact hawaited hclean hsig).trans (congrArg _ (echoSettles_commits hcut hall)),
        fun hall hsig => (execEchoCompare_intact hawaited hclean hsig).trans (congrArg _ (echoSettles_waits hcut hall))⟩
    case damaged =>
      rintro _ v hsig rfl hcut
      exact (execEchoCompare_damaged hawaited hsig).trans (congrArg _ (echoSettles_aborts hcut))

end Sys2Proof.Machine
end

section
/-!
PROOFS. Loading the correction tables (spec/06): ray maps (R186, R192, R193), gain maps (R195, R196), derivation (R202) and the
ageing curve (R203).
-/

namespace Sys2Proof.Machine

variable {op : Nat} {c : Cmd} {s t u : State}

/-! ## Commands of the correction engine (R209) -/

/-- The owner of COR gives a command that is served, and `t` is the state in which it is marked as begun. -/
structure CorBegun (op : Nat) (c : Cmd) (s t : State) : Prop where
  started : t = markStarted op c s
  served : Served op c s
  owned : isOwner c.who 0x148 s = true

/-- A command of the owner runs its body on the state in which it is marked as begun. -/
theorem CorBegun.run (h : CorBegun op c s t) (body : State → State) : runCmd op c (corOwned op c body) s = body t := by
  have howned : isOwner c.who 0x148 (markStarted op c s) = true := by simpa using h.owned
  rw [runCmd_served h.served, h.started, corOwned, if_pos howned]

theorem CorBegun.srcBad_eq (h : CorBegun op c s t) : srcBad c t = srcBad c s := by rw [h.started, markStarted_srcBad]

theorem CorBegun.dstBad_eq (h : CorBegun op c s t) : dstBad c t = dstBad c s := by rw [h.started, markStarted_dstBad]

theorem CorBegun.srcBytes_eq (h : CorBegun op c s t) : srcBytes c t = srcBytes c s := by rw [h.started, markStarted_srcBytes]

theorem CorBegun.srcWords_eq (h : CorBegun op c s t) : srcWords c t = srcWords c s := by rw [h.started, markStarted_srcWords]

theorem CorBegun.derive_eq (h : CorBegun op c s t) : t.cor.derive = s.cor.derive := by rw [h.started, markStarted_cor]

/-- A source that reads gives its words to what follows. -/
theorem CorBegun.withSrc_eq (h : CorBegun op c s t) (hsrc : srcBad c s = false) (f : List Word → State → State) :
    withSrc op c f t = f (srcWords c s) t := by
  rw [withSrc_reads (h.srcBad_eq.trans hsrc), h.srcWords_eq]

/-- A source of the length R482 fixes gives its words to what follows. -/
theorem CorBegun.withLen_eq {n : Nat} (h : CorBegun op c s t) (hsrc : SrcReads c n s) (f : List Word → State → State) :
    withLen op c n f t = f (srcWords c s) t := by
  rw [withLen_reads ⟨hsrc.1, h.srcBad_eq.trans hsrc.2⟩, h.srcWords_eq]

/-! ## Ray maps (R192, R193) -/

theorem execRaymapLoad_copies (h : CorBegun 0x08 c s t) (hsrc : srcBad c s = false)
    (hfree : (t.tileCor (c.argF 0 9 0)).rayCopy = none) :
    execRaymapLoad c s = .next (t.setTileCor (c.argF 0 9 0)
      { t.tileCor (c.argF 0 9 0) with rayCopy := some (refOf 0x08 c, srcWords c s, c.src.len) }) := by
  rw [execRaymapLoad, h.run]
  simp [hfree, h.withSrc_eq hsrc]

/-- The block of `len` bytes that a RAYMAP_LOAD has copied for a lane is to be checked. -/
structure RayCopied (lane : Nat) (ref : CmdRef) (ws : List Word) (len : Nat) (s : State) : Prop where
  runs : runs 0x148 s = true
  copied : (s.tileCor lane).rayCopy = some (ref, ws, len)

section RayCheck

variable {lane : Fin 1024} {ref : CmdRef} {ws : List Word} {len : Nat}

theorem execRaymapCheckDone_refuses (h : RayCopied lane.val ref ws len s) (hreason : rmReason lane.val len ws s ≠ 0) :
    execRaymapCheckDone lane s = .next (s.setTileCor lane.val { s.tileCor lane.val with rayCopy := none }
      |> setF COR_RMREJ_REASON (rmReason lane.val len ws s) |> setF COR_RMREJ_LANE lane.val |> countF COR_RMREJ_CNT
      |> raise 0x148 2 |> complete true ref BAD_ARGUMENT (rmReason lane.val len ws s) 0 0) := by
  simp [execRaymapCheckDone, h.runs, h.copied, hreason]

theorem execRaymapCheckDone_stages (h : RayCopied lane.val ref ws len s) (hreason : rmReason lane.val len ws s = 0) :
    execRaymapCheckDone lane s = .next (s.setTileCor lane.val
        { s.tileCor lane.val with rayCopy := none, rayStaged := some (parseRayMap ws) }
      |> complete true ref DONE 0 0 0 |> takeIfIdle lane.val) := by
  simp [execRaymapCheckDone, h.runs, h.copied, hreason]

end RayCheck

/-! ## Gain maps (R196, R202) -/

theorem execGainLoad_stages (h : CorBegun 0x09 c s t) (hsrc : srcBad c s = false)
    (hvalid : tileValid (c.argF 0 9 0) t = true) (hlen : c.src.len = 4 * tileRays (c.argF 0 9 0) t)
    (hidle : deriving_ (c.argF 0 9 0) t = false)
    (hreserved : (srcWords c s).any (fun w => decide (w.toNat / 2 ^ 30 ≠ 0)) = false) :
    execGainLoad c s = .next (t |> stageGain (c.argF 0 9 0) (srcWords c s) |> answer 0x09 c DONE) := by
  have hfits : ¬((!tileValid (c.argF 0 9 0) t) = true ∨ c.src.len ≠ 4 * tileRays (c.argF 0 9 0) t) := by simp [hvalid, hlen]
  rw [execGainLoad, h.run, if_neg hfits, if_neg (ne_true_of_eq_false hidle), h.withSrc_eq hsrc,
    if_neg (ne_true_of_eq_false hreserved)]

/-- The derivation of the maps of some lanes from their efficiency maps begins (R202). -/
theorem execGainDerive_begins {lanes : List Nat} {l : List (Nat × List Word × Nat × Nat)} (h : CorBegun 0x0A c s t)
    (hsrc : srcBad c s = false) (hnone : s.cor.derive = none) (hlanes : lanes = laneWords (c.arg 0) (srcWords c s))
    (hvalid : lanes.any (fun k => !tileValid k t) = false)
    (hlen : c.src.len = 4 * (c.arg 0 + (lanes.map (fun k => tileRays k t)).sum))
    (hl : l = (splitMaps t lanes ((srcWords c s).drop (c.arg 0))).map (fun m => (m.1, deriveTile m.1 m.2 t))) :
    execGainDerive c s = .next ({ t with cor := { t.cor with derive := some {
        cmd := refOf 0x0A c, maps := l.map (fun m => (m.1, m.2.1)), limited := (l.map (fun m => m.2.2.1)).sum,
        dead := (l.map (fun m => m.2.2.2)).sum } } } |> setB COR_XSTAT_DERIVE_BUSY true) := by
  have hfree : t.cor.derive.isSome = false := by rw [h.derive_eq, hnone]; rfl
  have hlong : ¬c.src.len < 4 * c.arg 0 := by omega
  rw [execGainDerive, h.run, if_neg (ne_true_of_eq_false hfree), if_neg hlong, h.withSrc_eq hsrc]
  subst hlanes hl
  simp only [hvalid, hlen, Bool.false_eq_true, ne_eq, not_true_eq_false, or_self, if_false]

theorem execGainDeriveDone_stages {d : Derive} (hruns : runs 0x148 s = true) (hderive : s.cor.derive = some d)
    (hu : u = ({ s with cor := { s.cor with derive := none } } |> setB COR_XSTAT_DERIVE_BUSY false
      |> setF COR_GAIN_HR d.limited |> setF COR_GAIN_DEAD d.dead)) :
    execGainDeriveDone s = .next (u
      |> each (d.maps.filter (fun m => tileValid m.1 u && decide (m.2.length = tileRays m.1 u))) (fun m => stageGain m.1 m.2)
      |> ifS (decide (d.limited ≠ 0)) (raise 0x148 10) |> complete true d.cmd DONE 0 0 0) := by
  subst hu
  simp [execGainDeriveDone, hruns, hderive]

/-! ## The ageing curve (R203) -/

theorem execAgeingCurveLoad_takes {l : List Nat} (h : CorBegun 0x0B c s t) (hsrc : SrcReads c 512 s)
    (hl : l = (srcWords c s).flatMap (fun w => [w.toNat % 65536, w.toNat / 65536])) (hfirst : nth l 0 = 0x8000)
    (hfalls : nonIncreasing l = true) (hnone : s.cor.derive = none) :
    execAgeingCurveLoad c s = .next ({ t with cor := { t.cor with curve := l } } |> answer 0x0B c DONE) := by
  have hfree : t.cor.derive.isSome = false := by rw [h.derive_eq, hnone]; rfl
  rw [execAgeingCurveLoad, h.run, h.withLen_eq hsrc]
  subst hl
  simp [hfirst, hfalls, hfree]

/-- Settles O12: from the owner a load or a derivation is its body on the state in which it is marked as begun, and its checks
pass. GAIN_DERIVE is R202 and reads counters, curve and headroom as it starts by log 17; the ageing curve is R203. -/
theorem correctionLoadsComplete : Obligations.CorrectionLoadsComplete := by
  unfold Obligations.CorrectionLoadsComplete
  refine ⟨fun c s t ht hserved howned => execRaymapLoad_copies ⟨ht, hserved, howned⟩, ?rayCheck,
    fun c s t ht hserved howned => execGainLoad_stages ⟨ht, hserved, howned⟩,
    fun c s t lanes l ht hserved howned => execGainDerive_begins ⟨ht, hserved, howned⟩,
    fun s d u => execGainDeriveDone_stages,
    fun c s t l ht hserved howned => execAgeingCurveLoad_takes ⟨ht, hserved, howned⟩⟩
  case rayCheck =>
    rintro lane s ref ws len _ hruns hcopied rfl
    exact ⟨fun r hr hreason => hr ▸ execRaymapCheckDone_refuses ⟨hruns, hcopied⟩ (hr ▸ hreason),
      execRaymapCheckDone_stages ⟨hruns, hcopied⟩⟩

end Sys2Proof.Machine
end

section
/-!
PROOFS. Stress counters and gain maps as data (spec/06): exports and imports of sections (R205–R207), row updates (R198, R199,
R208) and the increment table (R200).
-/

namespace Sys2Proof.Machine

variable {op : Nat} {c : Cmd} {s t u : State}

/-! ## Export (R205, R206) -/

/-- A COUNTER_EXPORT is noted, and the rows of tiles that do not run are taken before it goes as far as its rows allow. -/
theorem execCounterExport_begins {lost : List (Nat × Nat)} {lanes : List Nat} {todo : List (Nat × Nat)} {x : State}
    (h : CorBegun 0x0C c s t) (hsrc : SrcReads c (4 * c.arg 0) s)
    (hlanes : lanes = (laneWords (c.arg 0) (srcWords c s)).eraseDups)
    (hvalid : lanes.any (fun k => !tileValid k t) = false)
    (htodo : todo = lanes.flatMap (fun k => (List.range (tileRH k t)).map (fun r => (k, r))))
    (hx : x = { t with cor := { t.cor with exports := t.cor.exports ++ [{
      cmd := c, clear := decide (c.argF 1 0 0 = 1), covers := lanes
      lanes := lanes.map (fun k => (k, (t.grp (tileRec k t).group).idx % 2 ^ 32)), todo := todo, pos := 0 }] } }) :
    execCounterExport c lost s = .next (each (todo.filter (fun e => !tileRuns e.1 x))
      (fun e => exportNow (lost.contains e) e.1 e.2) x |> advanceExports) := by
  refine congrArg Host.Outcome.next ((h.run _).trans ((h.withLen_eq hsrc _).trans ?_))
  subst hlanes htodo hx
  exact if_neg (ne_true_of_eq_false hvalid)

theorem execGainExport_writes {lanes : List Nat} {out : List (List (List Byte × List Byte) × List Byte)}
    {b : List (List Byte × List Byte)} {bytes : List Byte} (h : CorBegun 0x0D c s t) (hsrc : SrcReads c (4 * c.arg 0) s)
    (hdst : dstBad c s = false) (hlanes : lanes = laneWords (c.arg 0) (srcWords c s))
    (hvalid : lanes.any (fun k => !tileValid k t) = false)
    (hout : out = lanes.map (fun k =>
      let b := (chunks (tileRW k t) (tileRays k t + 1) (gainWords k t)).flatMap (blocksOf 16384)
      (b, sectionBytes 2 k (tileRW k t) (tileRH k t) 0 0 (b.map (fun e => e.2)))))
    (hb : b = out.flatMap (fun e => e.1)) (hbytes : bytes = out.flatMap (fun e => e.2)) :
    execGainExport c s = .next (t
      |> countCompressed (b.map (fun e => e.1.length)).sum (b.map (fun e => e.2.length)).sum
        (b.filter (fun e => (sluPayload e.1).1)).length
      |> exportWrite c 0 bytes |> finish 0x0D c DONE 0 (min bytes.length c.dst.len) 0) := by
  refine congrArg Host.Outcome.next ((h.run _).trans ((h.withLen_eq hsrc _).trans ?_))
  subst hlanes hout hb hbytes
  exact (if_neg (ne_true_of_eq_false hvalid)).trans (if_neg (ne_true_of_eq_false (h.dstBad_eq.trans hdst)))

/-! ## Import (R207) -/

/-- An import from the owner of COR is to begin on `t`: its source holds the sections `l`, of which `n` are refused, and `u` is
the state in which each has been applied or refused. -/
structure ImportBegun (op kind : Nat) (c : Cmd) (apply : SectionIn → State → State) (l : List SectionIn) (n : Nat)
    (s t u : State) : Prop where
  begun : CorBegun op c s t
  reads : srcBad c s = false
  judged : l = judgeAll kind t (c.src.len + 1) (srcBytes c s)
  free : l.any (fun x => t.cor.exports.any (fun e => e.covers.contains x.lane) ||
    (decide (kind = 2) && deriving_ x.lane t)) = false
  taken : u = each l (fun x => if x.reason = 0 then apply x else rejectSection x) t
  refused : n = (l.filter (fun x => decide (x.reason ≠ 0))).length

section Imports

variable {kind n : Nat} {apply : SectionIn → State → State} {l : List SectionIn}

/-- Each section is applied or refused on its own, and the command is done within the step. -/
theorem ImportBegun.run (h : ImportBegun op kind c apply l n s t u) :
    runCmd op c (corOwned op c (importSections op kind c apply)) s =
      (u |> countDecoded (l.map (fun x => x.data.length)).sum |> raise 0x148 7
        |> finish op c (if n = 0 then DONE else BAD_ARGUMENT) (if n = 0 then 0 else getF COR_XREJ_REASON u) n 0) := by
  have hreads : ¬srcBad c t = true := ne_true_of_eq_false (h.begun.srcBad_eq.trans h.reads)
  rw [h.begun.run, importSections, if_neg hreads, h.begun.srcBytes_eq, ← h.judged]
  simp only [h.free, ← h.taken, ← h.refused, Bool.false_eq_true, if_false]

theorem ImportBegun.run_allPass (h : ImportBegun op kind c apply l n s t u) (hn : n = 0) :
    runCmd op c (corOwned op c (importSections op kind c apply)) s =
      (u |> countDecoded (l.map (fun x => x.data.length)).sum |> raise 0x148 7 |> finish op c DONE 0 0 0) := by
  rw [h.run, if_pos hn, if_pos hn, hn]

theorem ImportBegun.run_someRefused (h : ImportBegun op kind c apply l n s t u) (hn : n ≠ 0) :
    runCmd op c (corOwned op c (importSections op kind c apply)) s =
      (u |> countDecoded (l.map (fun x => x.data.length)).sum |> raise 0x148 7
        |> finish op c BAD_ARGUMENT (getF COR_XREJ_REASON u) n 0) := by
  rw [h.run, if_neg hn, if_neg hn]

end Imports

/-! ## Row updates (R198, R199, R208) -/

/-- A committed row of a lane waits for its increments, and `u` is the state in which it waits no more. -/
structure RowReady (lane row : Nat) (d : DueRow) (s u : State) : Prop where
  runs : runs 0x148 s = true
  waits : (s.tileCor lane).ready.find? (fun d => decide (d.row = row)) = some d
  taken : u = s.setTileCor lane { s.tileCor lane with ready := dropFirst (fun e => decide (e = d)) (s.tileCor lane).ready }

section RowUpdate

variable {lane : Fin 1024} {row : Nat} {d : DueRow}

theorem execStressRowUpdate_loses (h : RowReady lane.val row d s u) : execStressRowUpdate lane row false s =
    .next (u |> loseRow lane.val row (Word.ofNat d.frame) |> exportRow lane.val row |> advanceExports) := by
  simp [execStressRowUpdate, h.runs, h.waits, ← h.taken]

theorem execStressRowUpdate_adds {r : CounterRow × Nat} {b : List (List Byte × List Byte)} (h : RowReady lane.val row d s u)
    (hr : r = stressRow lane.val d u) (hb : b = blocksOf (16 * 1024) (counterLines (tileRW lane.val u) r.1)) :
    execStressRowUpdate lane row true s = .next (u
      |> setCounterRow lane.val row r.1 |> countDecoded (64 * ceilDiv (tileRW lane.val u) 10)
      |> countCompressed (64 * ceilDiv (tileRW lane.val u) 10) (b.map (fun e => e.2.length)).sum
        (b.filter (fun e => (sluPayload e.1).1)).length
      |> each (List.range r.2) (fun _ t => t |> countF COR_STR_SAT |> raise 0x148 5)
      |> exportRow lane.val row |> advanceExports) := by
  subst hb hr
  simp [execStressRowUpdate, h.runs, h.waits, ← h.taken]

end RowUpdate

/-! ## The increment table (R200) -/

theorem execCorStrExpWrite_accepted {who : Who} (v : Word) (h : Accepted who 0x148 s) : execCorStrExpWrite who v s =
    .next ({ s with cor := { s.cor with strPending := some (max 1 (v.toNat % 2048)) } }
      |> setF COR_STR_EXP_EXP (max 1 (v.toNat % 2048))) :=
  congrArg Host.Outcome.next (guardWrite_accepted h)

theorem execStressTableRegenDone_pending {e : Nat} (h : s.cor.strPending = some e) : execStressTableRegenDone s =
    .next { s with cor := { s.cor with strReady := e, strPending := none } } := by
  rw [execStressTableRegenDone, h]

/-- Settles O13: exports and imports from the owner are their bodies on the state in which they are marked as begun; a row update
adds its increments or loses the row. Bytes beyond DST_LEN are dropped by log 27, GAIN_EXPORT raises no EXPORT_DONE by log 17, and
a lost row is that of R208 with log 55. -/
theorem correctionDataCompletes : Obligations.CorrectionDataCompletes := by
  unfold Obligations.CorrectionDataCompletes
  refine ⟨fun c s t lost lanes todo x ht hserved howned => execCounterExport_begins ⟨ht, hserved, howned⟩,
    fun c s t lanes out b bytes ht hserved howned => execGainExport_writes ⟨ht, hserved, howned⟩,
    ?counterImport, ?gainImport, ?rowUpdate, fun who v s => execCorStrExpWrite_accepted v,
    fun s e => execStressTableRegenDone_pending⟩
  case counterImport =>
    intro c s t l u n ht hserved howned hsrc hl hfree hu hn
    have himport : ImportBegun 0x0E 1 c (fun x => applyCounters (decide (c.argF 0 0 0 = 1)) x.lane x.data) l n s t u :=
      ⟨⟨ht, hserved, howned⟩, hsrc, hl, by simpa using hfree, hu, hn⟩
    exact ⟨fun h => congrArg _ (himport.run_allPass h), fun h => congrArg _ (himport.run_someRefused h)⟩
  case gainImport =>
    intro c s t l u n ht hserved howned hsrc hl hfree hu hn
    have himport : ImportBegun 0x0F 2 c (fun x => stageGain x.lane (bytesWords x.data)) l n s t u :=
      ⟨⟨ht, hserved, howned⟩, hsrc, hl, by simpa using hfree, hu, hn⟩
    exact ⟨fun h => congrArg _ (himport.run_allPass h), fun h => congrArg _ (himport.run_someRefused h)⟩
  case rowUpdate =>
    intro lane row s d u hruns hwaits hu
    have hready : RowReady lane.val row d s u := ⟨hruns, hwaits, hu⟩
    exact ⟨execStressRowUpdate_loses hready, fun r hr b hb => execStressRowUpdate_adds hready hr hb⟩

end Sys2Proof.Machine
end

section
/-!
PROOFS. Frames at the network ports (spec/07): reception and the fault injector (R214, R229, R231), link changes (R230), and the
time-outs of the merge and of the paths (R225, R227).
-/

namespace Sys2Proof.Machine

variable {s u : State} {port : Fin 5} {ctx : Fin 1024} {who : Who}

/-! ## Reception (R214, R231) -/

/-- The uncorrectable codewords met with a frame are counted, up to the counter's limit (R231). -/
def countFecUnc (p n : Nat) (s : State) : State :=
  setF (NET_RX_FEC_UNC p) (min 0xFFFFFFFF (getF (NET_RX_FEC_UNC p) s + n)) s

/-- The injector of a port is armed and the frame belongs to its target context (R229). -/
def injectorTakes (p : Nat) (f : List Byte) (s : State) : Bool :=
  decide (p < 4) && getB (NET_INJ_ARM p) s && decide ((ctxOf p f s).map (fun c => c.1) = some (getF (NET_INJ_CTX p) s))

/-- A port that takes frames counts the codewords, and the frame goes to the injector or is received. -/
theorem execFrameReceived_taken {f : List Byte} {ok : Bool} {n : Nat} (h : portTakes port.val s = true) :
    execFrameReceived port f ok n s = .next (if injectorTakes port.val f (countFecUnc port.val n s)
      then inject port f ok (countFecUnc port.val n s) else receive port f ok (countFecUnc port.val n s)) := by
  rw [execFrameReceived, h]
  rfl

/-- A frame with a bad FCS is counted as dropped, and nothing else happens to it. -/
theorem receive_badFcs (f : List Byte) : receive port f false s = rxDrop port.val (NET_RX_FCS port.val) s := rfl

/-! ## Links (R230, R458) -/

/-- NET_STAT of a port takes its link and the bits of the status word (R230). -/
def showLink (p : Nat) (up : Bool) (status : Nat) (s : State) : State :=
  s |> setB (NET_STAT_LINK p) up |> setB (NET_STAT_AN_DONE p) (bitOf status 30)
    |> setB (NET_STAT_FEC_LOCK p) (decide (p < 4) && bitOf status 29) |> setB (NET_STAT_ALIGNED p) (bitOf status 28)

theorem execPortLinkChange_up (st : Nat) (hon : isOn (0x20 + port.val) s = true)
    (htrim : getB (TRM_STAT_RUNNING (16 + port.val)) s = false) : execPortLinkChange port true st s =
    .next (s |> showLink port.val true st |> raise (0x20 + port.val) 2 |> standingReports port.val) := by
  simp [execPortLinkChange, hon, htrim, ifS, showLink]

theorem execPortLinkChange_down (st : Nat) (htrim : getB (TRM_STAT_RUNNING (16 + port.val)) s = false) :
    execPortLinkChange port false st s = .next (s |> showLink port.val false st |> raise (0x20 + port.val) 3) := by
  simp [execPortLinkChange, htrim, ifS, showLink]

/-- The link state is held while the port is trimmed (R458). -/
theorem execPortLinkChange_trimmed (up : Bool) (st : Nat) (htrim : getB (TRM_STAT_RUNNING (16 + port.val)) s = true) :
    execPortLinkChange port up st s = .next s := by
  simp [execPortLinkChange, htrim]

/-! ## Time-outs (R225, R227) -/

theorem execMergeGapTimeout_due {g : Nat} (hheld : oldestHeld (s.ctx ctx.val) = some g) (hopen : (s.ctx ctx.val).state = 1)
    (hdue : reached (g + 1000 * (s.ctx ctx.val).skewUs) s = true) :
    execMergeGapTimeout ctx s = .next (gapTimeout ctx.val s) := by
  simp [execMergeGapTimeout, hheld, hopen, hdue]

theorem execPathTimeout_due {b : Bool} (hup : (pathOf b (s.ctx ctx.val)).up = true)
    (hdue : reached ((pathOf b (s.ctx ctx.val)).last + 1000000 * (s.ctx ctx.val).timeoutMs) s = true) :
    execPathTimeout ctx b s = .next (s.setCtx ctx.val
      (setPath b { pathOf b (s.ctx ctx.val) with up := false } (s.ctx ctx.val)) |> ctxCause ctx.val 3 |> showCtx ctx.val) := by
  simp [execPathTimeout, hup, hdue]

/-! ## The injector (R229) -/

/-- While the injector is disarmed a write sets it anew, its counter starting at zero. -/
theorem writeNetInj_disarmed {p : Nat} (v : Nat) (hp : p < 4) (hidle : getB (NET_INJ_ARM p) s = false)
    (hu : u = (s |> setF (NET_INJ_KIND p) (bitsOf v 30 28) |> setF (NET_INJ_CTX p) (bitsOf v 25 16)
      |> setF (NET_INJ_COUNT p) (bitsOf v 15 0) |> setF (NET_INJ_ARM p) (bitsOf v 31 31))) :
    writeNetInj p v s = { u with str := { u.str with injSeen := FMap.set 0 u.str.injSeen p 0 } } := by
  rw [writeNetInj, if_neg (Nat.not_le.2 hp), if_neg (ne_true_of_eq_false hidle), hu]

theorem execNetInjArm_accepted (v : Word) (h : Accepted who (0x20 + port.val) s) :
    execNetInjArm who port v s = .next (writeNetInj port.val v.toNat s) :=
  congrArg Host.Outcome.next (guardWrite_accepted h)

/-- Which packets are held back does not say whether a port takes frames. -/
theorem portTakes_delayed (p : Nat) (l : List Delayed) :
    portTakes p { s with str := { s.str with delayed := l } } = portTakes p s := rfl

theorem execNetInjDelayExpire_due {d : Delayed} (hheld : s.str.delayed.find? (fun d => decide (d.port = port.val)) = some d)
    (hdue : reached d.due s = true) (htakes : portTakes port.val s = true) :
    execNetInjDelayExpire port s =
      .next (receive port d.frame d.fcsOk { s with str := { s.str with delayed := s.str.delayed.erase d } }) := by
  simp [execNetInjDelayExpire, hheld, hdue, ifS, portTakes_delayed, htakes]

/-! ## The commands -/

theorem exec_frameReceived (f : List Byte) (ok : Bool) (n : Nat) :
    exec (.frameReceived port f ok n) s = execFrameReceived port f ok n s := rfl

theorem exec_portLinkChange (up : Bool) (st : Nat) : exec (.portLinkChange port up st) s = execPortLinkChange port up st s := rfl

theorem exec_mergeGapTimeout : exec (.mergeGapTimeout ctx) s = execMergeGapTimeout ctx s := rfl

theorem exec_pathTimeout (b : Bool) : exec (.pathTimeout ctx b) s = execPathTimeout ctx b s := rfl

theorem exec_netInjArm (v : Word) : exec (.netInjArm who port v) s = execNetInjArm who port v s := rfl

theorem exec_netInjDelayExpire : exec (.netInjDelayExpire port) s = execNetInjDelayExpire port s := rfl

/-- Settles O14: each happening at a port has its effect in the state in which it is due. That the port itself reports the
standing groups as its link comes up is log 37. -/
theorem frameReceptionCompletes : Obligations.FrameReceptionCompletes := by
  unfold Obligations.FrameReceptionCompletes
  simp only [exec_frameReceived, exec_portLinkChange, exec_mergeGapTimeout, exec_pathTimeout, exec_netInjArm,
    exec_netInjDelayExpire]
  refine ⟨?frame, fun port st s => execPortLinkChange_up st, fun port up st s => execPortLinkChange_trimmed up st,
    fun port st s => execPortLinkChange_down st, fun ctx g s => execMergeGapTimeout_due, ?path, ?arm,
    fun port s d => execNetInjDelayExpire_due⟩
  case frame =>
    rintro port f ok n u _ htakes rfl
    refine ⟨fun hinject => ?injected, fun hreceive => ⟨?good, ?bad⟩⟩
    case injected => exact (execFrameReceived_taken htakes).trans (congrArg _ (if_pos hinject))
    case good => exact (execFrameReceived_taken htakes).trans (congrArg _ (if_neg (ne_true_of_eq_false hreceive)))
    case bad =>
      rw [← receive_badFcs f]
      exact (execFrameReceived_taken htakes).trans (congrArg _ (if_neg (ne_true_of_eq_false hreceive)))
  case path =>
    rintro ctx b _ s rfl hup hdue
    exact execPathTimeout_due hup hdue
  case arm =>
    intro who port v s haccepted hport hidle t ht
    exact (execNetInjArm_accepted v haccepted).trans (congrArg _ (writeNetInj_disarmed v.toNat hport hidle ht))

end Sys2Proof.Machine
end

section
/-!
PROOFS. Stream contexts (spec/07): they are opened (R218), closed and released (R219), and their counters are shown (R234).
-/

namespace Sys2Proof.Machine

variable {s : State} {c : Cmd} {ctx : Fin 1024} {who : Who}

/-! ## CTX_OPEN (R218) -/

/-- A single CTX_OPEN of a cycle is met alone, on the state in which it is marked as begun. -/
theorem execCtxOpen_one (h : Served 0x10 c s) : execCtxOpen [c] s = .next (ctxOpenOne c (markStarted 0x10 c s)) := by
  rw [execCtxOpen, runTies_one h, serveTable_one]

/-- A record with nothing against it takes the lowest free context `i`. -/
theorem ctxOpenOne_accepts {i : Nat} (hsrc : SrcReads c 96 s) (hok : ctxReason (srcWords c s) s = 0)
    (hi : i = (firstBelow 1024 (fun i => decide ((s.ctx i).state = 0))).getD 0) :
    ctxOpenOne c s = (s.setCtx i (parseCtx (c.idx % 8) (srcWords c s)) |> showCtx i |> showStr
      |> joinReports (parseCtx (c.idx % 8) (srcWords c s)) |> finish 0x10 c DONE 0 i 0) := by
  rw [ctxOpenOne, withLen_reads hsrc]
  simp only [hok, ne_eq, not_true_eq_false, if_false, hi]

theorem ctxOpenOne_refuses {r : Nat} (hsrc : SrcReads c 96 s) (hr : r = ctxReason (srcWords c s) s) (hbad : r ≠ 0) :
    ctxOpenOne c s = (s |> setF STR_OPEN_REJ_REASON r |> setF STR_OPEN_REJ_PARTITION c.idx |> raise 0x28 5
      |> ifS (decide (r = 8) || decide (r = 9)) (fun s => s |> countF STR_TFULL |> raise 0x28 3)
      |> refuse 0x10 c (if r = 8 ∨ r = 9 then TABLE_FULL else BAD_ARGUMENT) r) := by
  subst hr
  rw [ctxOpenOne, withLen_reads hsrc]
  exact if_pos hbad

/-! ## CTX_CLOSE and the release (R219) -/

theorem execCtxClose_owner {i : Nat} (h : Served 0x11 c s) (hi : i = c.argF 0 9 0)
    (hopen : ((markStarted 0x11 c s).ctx i).state = 1) (howner : ((markStarted 0x11 c s).ctx i).owner = c.idx) :
    execCtxClose c s = .next (closeCtx i (some (refOf 0x11 c)) (markStarted 0x11 c s)) := by
  subst hi
  rw [execCtxClose, runCmd_served h]
  simp [hopen, howner]

/-- Decode has nothing left of a context that closes (R219). -/
structure ReadyToRelease (i : Nat) (s : State) : Prop where
  closing : (s.ctx i).state = 2
  drained : (s.ctx i).queue = []
  idle : (s.binding i).decoding = none

theorem execCtxReleaseDone_ready (h : ReadyToRelease ctx.val s) : execCtxReleaseDone ctx s = .next (releaseCtx ctx.val s) := by
  simp [execCtxReleaseDone, h.closing, h.drained, h.idle]

variable {i : Nat}

/-- A release ends the CTX_CLOSE that asked for it. -/
theorem releaseCtx_asked {r : CmdRef} (h : (s.ctx i).closing = some r) : releaseCtx i s =
    (s.setCtx i {} |> showCtx i |> showStr |> raise 0x28 4 |> complete true r DONE 0 0 0) := by
  simp only [releaseCtx, h]

theorem releaseCtx_unasked (h : (s.ctx i).closing = none) : releaseCtx i s =
    (s.setCtx i {} |> showCtx i |> showStr |> raise 0x28 4) := by
  simp only [releaseCtx, h]

/-! ## The windows (R234) -/

theorem execStrSelWrite_accepted {w : Fin 8} (v : Word) (h : Accepted who (0x28 + w.val) s) :
    execStrSelWrite who w v s = .next (writeStrSel w.val v.toNat s) :=
  congrArg Host.Outcome.next (guardWrite_accepted h)

/-! ## The commands -/

theorem exec_ctxOpen (cs : List Cmd) : exec (.ctxOpen cs) s = execCtxOpen cs s := rfl

theorem exec_ctxClose : exec (.ctxClose c) s = execCtxClose c s := rfl

theorem exec_ctxReleaseDone : exec (.ctxReleaseDone ctx) s = execCtxReleaseDone ctx s := rfl

theorem exec_strSelWrite (w : Fin 8) (v : Word) : exec (.strSelWrite who w v) s = execStrSelWrite who w v s := rfl

/-- Settles O15: an open alone in its cycle is judged and served on the state in which it is marked as begun, a close by the
owner is its body there, and a context that decode has done with is released. -/
theorem contextsComplete : Obligations.ContextsComplete := by
  unfold Obligations.ContextsComplete
  simp only [exec_ctxOpen, exec_ctxClose, exec_ctxReleaseDone, exec_strSelWrite]
  refine ⟨?accepted, ?refused, ?close, ?releaseAsked, ?releaseUnasked, fun who w v s => execStrSelWrite_accepted v⟩
  case accepted =>
    rintro c s _ i rfl hserved hsrc hok hi
    rw [execCtxOpen_one hserved, ctxOpenOne_accepts (srcReads_started.2 hsrc) (by simpa using hok) hi, markStarted_srcWords]
  case refused =>
    rintro c s _ r rfl hserved hsrc hr hbad
    rw [execCtxOpen_one hserved, ctxOpenOne_refuses (srcReads_started.2 hsrc) (by simpa using hr) hbad]
  case close =>
    rintro c s _ i rfl hserved hi hopen howner
    exact execCtxClose_owner hserved hi hopen howner
  case releaseAsked =>
    intro ctx s r hclosing hdrained hidle hasked
    exact (execCtxReleaseDone_ready ⟨hclosing, hdrained, hidle⟩).trans (congrArg _ (releaseCtx_asked hasked))
  case releaseUnasked =>
    intro ctx s hclosing hdrained hidle hunasked
    exact (execCtxReleaseDone_ready ⟨hclosing, hdrained, hidle⟩).trans (congrArg _ (releaseCtx_unasked hunasked))

end Sys2Proof.Machine
end

section
/-!
PROOFS. Video decode (spec/08): contexts are bound (R240, R241) and released (R242), access units start (R243–R248) and complete
(R256), and the counters of a binding are shown (R261).
-/

namespace Sys2Proof.Machine

variable {s : State} {c : Cmd} {ctx : Fin 1024} {info : AuInfo} {au : AccessUnit} {res : DecodeResult} {loads : List Cmd}
  {who : Who}

/-! ## DEC_BIND (R240, R241) -/

/-- A single DEC_BIND of a cycle is met alone, on the state in which it is marked as begun. -/
theorem execDecBind_one (h : Served 0x12 c s) : execDecBind [c] s = .next (decBindOne c (markStarted 0x12 c s)) := by
  rw [execDecBind, runTies_one h, serveTable_one]

/-- A record with nothing against it binds the context it names, with its buffers at the places found for them. -/
theorem decBindOne_accepts (hsrc : SrcReads c 32 s) (hok : bindReason c.idx (srcWords c s) s = 0) :
    decBindOne c s = (s.setBinding (fieldAt (srcWords c s) 0 9 0)
      (parseBind (srcWords c s) ((bindRoom (srcWords c s) s).getD [])) |> showDec |> answer 0x12 c DONE) := by
  rw [decBindOne, withLen_reads hsrc]
  exact if_neg (not_not_intro hok)

theorem decBindOne_refuses {r : Nat} (hsrc : SrcReads c 32 s) (hr : r = bindReason c.idx (srcWords c s) s) (hbad : r ≠ 0) :
    decBindOne c s = (s |> setF DEC_BIND_REJ_REASON r |> setF DEC_BIND_REJ_CTX (fieldAt (srcWords c s) 0 9 0) |> raise 0x40 7
      |> ifS (decide (r = 11)) (fun s => s |> countF DEC_TFULL |> raise 0x40 8)
      |> refuse 0x12 c (if r = 5 then NOT_OWNER else if r = 11 then TABLE_FULL else BAD_ARGUMENT) r) := by
  subst hr
  rw [decBindOne, withLen_reads hsrc]
  exact if_pos hbad

/-! ## DEC_UNBIND and the release (R242) -/

theorem execDecUnbind_owner {i : Nat} (h : Served 0x13 c s) (hi : i = c.argF 0 9 0)
    (howner : ((markStarted 0x13 c s).ctx i).owner = c.idx) (hbound : ((markStarted 0x13 c s).binding i).state = 1) :
    execDecUnbind c s = .next (startRelease i (some (refOf 0x13 c)) (markStarted 0x13 c s)) := by
  subst hi
  rw [execDecUnbind, runCmd_served h]
  simp only [howner, hbound, ne_eq, not_true_eq_false, and_false, if_false]

/-- A binding is being released, nothing of it decodes and no buffer of it is read (R242). -/
structure ReadyToUnbind (b : Binding) : Prop where
  releasing : b.state = 2
  idle : b.decoding = none
  unread : ∀ x ∈ b.bufs, x.reads = 0

/-- The last buffer of a binding that is ready is freed, and the DEC_UNBIND that asked for it, if any, completes. -/
theorem execUnbindDone_ready (h : ReadyToUnbind (s.binding ctx.val)) : execUnbindDone ctx s =
    .next (match (s.binding ctx.val).unbind with
      | some r => s.setBinding ctx.val {} |> showDec |> raise 0x40 9 |> complete true r DONE 0 0 0
      | none => s.setBinding ctx.val {} |> showDec |> raise 0x40 9) := by
  refine congrArg Host.Outcome.next (if_neg ?_)
  simpa [h.releasing, h.idle] using h.unread

/-! ## Taking an access unit (R239, R243–R248) -/

/-- `au` heads the queue of bound context `i`, whose group is on, decodes nothing and takes this context next (R243–R246). -/
structure HeadIsNext (i : Nat) (au : AccessUnit) (s : State) : Prop where
  bound : (s.binding i).state = 1
  head : (s.ctx i).queue.head? = some au
  on : groupOn (s.binding i) s = true
  free : groupBusy (s.binding i) s = false
  next : takesNext i s = true

/-- The head unit `au` of context `i` meets its fate. -/
def settleFate (i : Nat) (au : AccessUnit) (info : AuInfo) (s : State) : UnitFate → State
  | .refused => s.setBinding i { s.binding i with discarded := (s.binding i).discarded + 1 } |> popUnit i
  | .dropped => popUnit i s
  | .unsupported r => unsupportedUnit i r s
  | .late => s.setBinding i { s.binding i with skipped := (s.binding i).skipped + 1, skipping := true } |> popUnit i
      |> ifS (!(s.binding i).skipping) (raise (0x40 + (s.binding i).first) 5)
  | .decode => beginUnit i au info s

/-- Outside the early FEED the next unit waits where its pictures have no room, and otherwise meets its fate. -/
theorem execDecodeStart_next (hfeed : s.fwu.feed ≠ some ctx.val) (h : HeadIsNext ctx.val au s) :
    execDecodeStart ctx info s =
      .next (if unitFate (s.binding ctx.val) au info s = .decode ∧
          hasRoom (s.binding ctx.val) (decodedLayers info).length = false then s
        else settleFate ctx.val au info s (unitFate (s.binding ctx.val) au info s)) := by
  obtain ⟨q, hq⟩ : ∃ q, (s.ctx ctx.val).queue = au :: q := List.head?_eq_some_iff.1 h.head
  simp only [execDecodeStart, if_neg hfeed, hq]
  exact congrArg Host.Outcome.next (if_congr (by simp [h.bound, h.on, h.free, h.next]) rfl rfl)

/-- A unit that need not wait for room meets its fate. -/
theorem execDecodeStart_settles {f : UnitFate} (hfeed : s.fwu.feed ≠ some ctx.val) (h : HeadIsNext ctx.val au s)
    (hf : unitFate (s.binding ctx.val) au info s = f)
    (hroom : f = .decode → hasRoom (s.binding ctx.val) (decodedLayers info).length = true) :
    execDecodeStart ctx info s = .next (settleFate ctx.val au info s f) := by
  subst hf
  rw [execDecodeStart_next hfeed h, if_neg]
  exact fun hwaits => Bool.false_ne_true (hwaits.2.symm.trans (hroom hwaits.1))

theorem execDecodeStart_waits (hfeed : s.fwu.feed ≠ some ctx.val) (h : HeadIsNext ctx.val au s)
    (hf : unitFate (s.binding ctx.val) au info s = .decode)
    (hroom : hasRoom (s.binding ctx.val) (decodedLayers info).length = false) : execDecodeStart ctx info s = .next s := by
  rw [execDecodeStart_next hfeed h, if_pos ⟨hf, hroom⟩]

/-! ## Completing an access unit (R249–R257, R273) -/

/-- The unit that decodes is stored and its PSDs are judged. -/
theorem execAccessUnitComplete_stored (hfeed : s.fwu.feed ≠ some ctx.val) (hau : (s.binding ctx.val).decoding = some au)
    (hnone : (completeUnit ctx.val res s).2 = none) : execAccessUnitComplete ctx res loads s =
      .next (acceptSeis ctx.val (unitNals ctx.val au res s) loads (completeUnit ctx.val res s).1) := by
  simp only [execAccessUnitComplete, if_neg hfeed, hau, hnone]

/-- Builds are queued where it also hands out a layer-0 picture (R273). -/
theorem execAccessUnitComplete_handedOut {m : Int} (hfeed : s.fwu.feed ≠ some ctx.val)
    (hau : (s.binding ctx.val).decoding = some au) (hsome : (completeUnit ctx.val res s).2 = some m) :
    execAccessUnitComplete ctx res loads s = .next ((completeUnit ctx.val res s).1
      |> acceptSeis ctx.val (unitNals ctx.val au res s) loads |> queueContextBuilds ctx.val m) := by
  simp only [execAccessUnitComplete, if_neg hfeed, hau, hsome]

/-! ## The binding window (R261) -/

theorem execDecSelWrite_accepted (v : Word) (h : Accepted who 0x40 s) :
    execDecSelWrite who v s = .next (writeDecSel v.toNat s) :=
  congrArg Host.Outcome.next (guardWrite_accepted h)

/-! ## The commands -/

theorem exec_decBind (cs : List Cmd) : exec (.decBind cs) s = execDecBind cs s := rfl

theorem exec_decUnbind : exec (.decUnbind c) s = execDecUnbind c s := rfl

theorem exec_unbindDone : exec (.unbindDone ctx) s = execUnbindDone ctx s := rfl

theorem exec_decodeStart : exec (.decodeStart ctx info) s = execDecodeStart ctx info s := rfl

theorem exec_accessUnitComplete : exec (.accessUnitComplete ctx res loads) s = execAccessUnitComplete ctx res loads s := rfl

theorem exec_decSelWrite (v : Word) : exec (.decSelWrite who v) s = execDecSelWrite who v s := rfl

/-- Settles O16: a bind alone in its cycle is judged and served on the state in which it is marked as begun, the next unit of a
group meets its fate unless its pictures want room, and a unit that completes is stored. The order of the starts is that of R245,
the wait for room R246's; what a unit's headers say comes with the command by log 41. -/
theorem decodingCompletes : Obligations.DecodingCompletes := by
  unfold Obligations.DecodingCompletes
  simp only [exec_decBind, exec_decUnbind, exec_unbindDone, exec_decodeStart, exec_accessUnitComplete, exec_decSelWrite]
  refine ⟨?accepted, ?refused, ?unbind, ?released, ?start, ?complete, fun who v s => execDecSelWrite_accepted v⟩
  case accepted =>
    rintro c s _ rfl hserved hsrc hok
    rw [execDecBind_one hserved, decBindOne_accepts (srcReads_started.2 hsrc) (by simpa using hok), markStarted_srcWords]
  case refused =>
    rintro c s _ r rfl hserved hsrc hr hbad
    rw [execDecBind_one hserved, decBindOne_refuses (srcReads_started.2 hsrc) (by simpa using hr) hbad, markStarted_srcWords]
  case unbind =>
    rintro c s _ i rfl hserved hi howner hbound
    exact execDecUnbind_owner hserved hi howner hbound
  case released =>
    rintro ctx s _ rfl hreleasing hidle hunread
    rw [execUnbindDone_ready ⟨hreleasing, hidle, hunread⟩]
    exact ⟨fun r hasked => by rw [hasked], fun hunasked => by rw [hunasked]⟩
  case start =>
    rintro ctx info s _ au q _ hfeed rfl hqueue hbound hon hfree hnext rfl
    have h : HeadIsNext ctx.val au s := ⟨hbound, by rw [hqueue, List.head?_cons], hon, hfree, hnext⟩
    refine ⟨fun hf => ?dropped, fun r hf => ?unsupported, fun hf => ?discarded, fun hf => ?late, fun hf hroom => ?begins,
      execDecodeStart_waits hfeed h⟩
    case dropped | unsupported | discarded | late => exact execDecodeStart_settles hfeed h hf nofun
    case begins => exact execDecodeStart_settles hfeed h hf fun _ => hroom
  case complete =>
    rintro ctx res loads s _ au hfeed hau rfl
    exact ⟨execAccessUnitComplete_stored hfeed hau, fun m => execAccessUnitComplete_handedOut hfeed hau⟩

end Sys2Proof.Machine
end

section
/-!
PROOFS. Assembly, drawing and copying (spec/09): builds start (R272–R274), raise their watermarks (R283) and complete (R281),
draws are taken (R286) and complete (R288–R290), DMA copies are taken and end (R483), and the plane window is shown (R293).
-/

namespace Sys2Proof.Machine

variable {s : State} {c : Cmd}

/-! ## Starting a build (R272–R274, R359) -/

/-- `q`, a build of plane `i`, is the one that an idle assembler takes, and its time has come (R273). -/
structure BuildDue (i : Nat) (q : QBuild) (s : State) : Prop where
  idle : s.asm.run = none
  on : runs 0x60 s = true
  next : nextBuild s.asm.queue = some q
  plane : q.plane = i
  due : reached (ofSigned 64 q.start) s = true

/-- Group `g` is ON, or on the way to its first frame. -/
def groupComes (g : Nat) (s : State) : Bool :=
  decide (groupState g s = 2) || ((s.grp g).hasNext && [1, 5].contains (groupState g s))

theorem groupComes_eq_true {g : Nat} : groupComes g s = true ↔
    groupState g s = 2 ∨ ((s.grp g).hasNext && [1, 5].contains (groupState g s)) = true := by
  rw [groupComes, Bool.or_eq_true, decide_eq_true_eq]

theorem groupComes_eq_false {g : Nat} : groupComes g s = false ↔
    groupState g s ≠ 2 ∧ ((s.grp g).hasNext && [1, 5].contains (groupState g s)) = false := by
  rw [groupComes, Bool.or_eq_false_iff, decide_eq_false_iff_not]

variable {plane : Fin 256} {q : QBuild}

theorem execBuildStart_ungrouped (h : BuildDue plane.val q s) (hkind : ∀ n, q.kind ≠ .group n) :
    execBuildStart plane s = .next (startBuild q s) := by
  cases hk : q.kind with
  | group n => exact absurd hk (hkind n)
  | context | present _ => simp [execBuildStart, h.idle, h.on, h.next, h.plane, h.due, hk]

/-- A build of a group's frame starts after the cue entries due at it (R359), and is dropped where the group does not come. -/
theorem execBuildStart_grouped {n g : Nat} (h : BuildDue plane.val q s) (hkind : q.kind = .group n)
    (hg : (s.plane q.plane).force.pgroup = g) : execBuildStart plane s =
      .next (if groupComes g s then s |> cuesPaced g |> startBuild q
        else { s with asm := { s.asm with queue := s.asm.queue.filter (fun x => decide (x ≠ q)) } }) := by
  have hfree : ¬(s.asm.run.isSome = true ∨ runs 0x60 s = false) := by simp [h.idle, h.on]
  have htakes : ¬(q.plane ≠ plane.val ∨ reached (ofSigned 64 q.start) s = false) := by simp [h.plane, h.due]
  simp only [execBuildStart, if_neg hfree, h.next, if_neg htakes, hkind, hg, Bool.not_eq_true', ← groupComes_eq_false]
  cases groupComes g s <;> rfl

/-! ## Watermarks (R283) and the end of a build (R281) -/

theorem raiseMark_unmarked {k : Nat} {r : RunBuild} (hrun : s.asm.run = some r) (hk : r.marks.contains k = false) :
    raiseMark k s = ({ s with asm := { s.asm with run := some { r with marks := k :: r.marks } } }
      |> setF (ASM_WMSTAT_PLANE k) r.plane |> addF (ASM_WMSTAT_COUNT k) 1 |> raise 0x60 (2 + k)) := by
  simp only [raiseMark, hrun, hk, Bool.false_eq_true, if_false]

theorem execWatermark_armed {k : Fin 4} (h : markArmed k.val s = true) :
    execWatermark k s = .next (s |> passLines k.val |> raiseMark k.val) := by
  simp only [execWatermark, ifS, h, if_true]

theorem execBuildComplete_running {r : RunBuild} (h : s.asm.run = some r) :
    execBuildComplete s = .next (completeBuild r s) := by
  simp only [execBuildComplete, h]

/-! ## Taking a draw (R284–R286, R289) -/

/-- A single DRAW of a cycle is met alone, on the state in which it is marked as begun. -/
theorem execDraw_one (h : Served 0x20 c s) : execDraw [c] s = .next (drawOne c (markStarted 0x20 c s)) := by
  rw [execDraw, runTies_one h, serveTable_one]

/-- A record with nothing against it joins the queue, with the leases in force. -/
theorem drawOne_accepts (hsrc : SrcReads c 48 s) (hok : drawReason c.idx (srcWords c s) s = 0) : drawOne c s =
    ({ s with asm := { s.asm with draws := s.asm.draws ++ [⟨refOf 0x20 c, srcWords c s, leasesNow s⟩] } } |> showDrw) := by
  rw [drawOne, withLen_reads hsrc]
  exact if_neg (not_not_intro hok)

theorem drawOne_refuses {r : Nat} (hsrc : SrcReads c 48 s) (hr : r = drawReason c.idx (srcWords c s) s) (hbad : r ≠ 0) :
    drawOne c s = (s |> setF DRW_REJ_REASON r |> setF DRW_REJ_PARTITION c.idx |> countF DRW_REJ_CNT |> raise 0x68 2
      |> refuse 0x20 c (if r = 6 then NOT_OWNER else BAD_ARGUMENT) r) := by
  subst hr
  rw [drawOne, withLen_reads hsrc]
  exact if_pos hbad

/-! ## Completing a draw (R287–R290) -/

/-- The completion of draw `j`, which met the leased buffer `met` first, if any (R138, R290). -/
def endDraw (j : DrawJob) (met : Option (Nat × Nat)) (s : State) : State :=
  match met with
  | none => complete true j.cmd DONE 0 0 0 s
  | some l => s |> leaseViolation 1 (whoIdx j.cmd.who) l |> countF DRW_CUT |> raise 0x68 3 |> complete true j.cmd LEASED 0 0 0

/-- The head of the queue is drawn, leaves the queue, is counted and completes. -/
theorem execDrawComplete_head {spans : List (Nat × Nat)} {j : DrawJob} {rest : List DrawJob}
    {r : (State × Option (Nat × Nat)) × Nat} {f : Nat × State} (hhead : s.asm.draws = j :: rest) (hruns : runs 0x68 s = true)
    (hr : r = drawAll (parseDraw j.words) j.leases spans s) (hf : f = fresh 32 r.1.1) : execDrawComplete spans s =
      .next ({ f.2 with asm := { f.2.asm with draws := rest } } |> showDrw |> addF DRW_PX r.2 |> addF DRW_BURSTS f.1
        |> endDraw j r.1.2) := by
  simp only [execDrawComplete, hhead, hruns, ← hr, ← hf, Bool.not_true, Bool.false_eq_true, if_false]
  rfl

/-! ## DMA copies (R483) -/

theorem execDmaCopy_takes (h : Served 0x21 c s) (hlen : c.src.len = c.dst.len) (hsrc : srcBad c s = false) :
    execDmaCopy c s = .next { markStarted 0x21 c s with asm := { (markStarted 0x21 c s).asm with
      dmas := (markStarted 0x21 c s).asm.dmas ++ [⟨c, leasesNow (markStarted 0x21 c s)⟩] } } := by
  rw [execDmaCopy, runCmd_served h, dmaBody, if_neg (not_not_intro hlen), if_neg (by simp [hsrc])]

/-- The violation of a copy of partition `part` that met the leased buffer `met` first, if any (R138). -/
def tellLease (part : Nat) (met : Option (Nat × Nat)) (s : State) : State :=
  match met with
  | none => s
  | some l => leaseViolation 0 part l s

/-- The copy in hand ends with its bytes written, all of them where neither operand failed and else the first `before`. -/
theorem execDmaCopyDone_held {spans : List (Nat × Nat)} {before : Nat} {ok whole : Bool} {j : DmaJob}
    {r : State × Option (Nat × Nat)} (hheld : s.asm.dmas.find? (fun j => decide (j.cmd.who = c.who)) = some j) (hj : j.cmd = c)
    (hwhole : (ok && !srcBad c s && !dstBad c s) = whole)
    (hr : r = dmaWrite (opSpace c c.dst s) j.leases spans c.dst.addr 0
      (if whole then srcBytes c s else (srcBytes c s).take before) (s, none)) :
    execDmaCopyDone c spans before ok s =
      .next ({ r.1 with asm := { r.1.asm with dmas := dropFirst (fun x => decide (x = j)) r.1.asm.dmas } } |> tellLease c.idx r.2
        |> if whole then answer 0x21 c (if r.2.isSome then LEASED else DONE) else abortOperand 0x21 c) := by
  simp only [execDmaCopyDone, hheld, hj, hwhole, ← hr, ne_eq, not_true_eq_false, if_false]
  cases whole <;> rfl

/-! ## The plane window (R293) -/

theorem execAsmPselWrite_accepted {who : Who} (v : Word) (h : Accepted who 0x60 s) :
    execAsmPselWrite who v s = .next (writePsel v.toNat s) :=
  congrArg Host.Outcome.next (guardWrite_accepted h)

/-! ## The commands -/

theorem exec_buildStart : exec (.buildStart plane) s = execBuildStart plane s := rfl

theorem exec_watermark (k : Fin 4) : exec (.watermark k) s = execWatermark k s := rfl

theorem exec_buildComplete : exec .buildComplete s = execBuildComplete s := rfl

theorem exec_draw (cs : List Cmd) : exec (.draw cs) s = execDraw cs s := rfl

theorem exec_drawComplete (spans : List (Nat × Nat)) : exec (.drawComplete spans) s = execDrawComplete spans s := rfl

theorem exec_dmaCopy : exec (.dmaCopy c) s = execDmaCopy c s := rfl

theorem exec_dmaCopyDone (spans : List (Nat × Nat)) (before : Nat) (ok : Bool) :
    exec (.dmaCopyDone c spans before ok) s = execDmaCopyDone c spans before ok s := rfl

theorem exec_asmPselWrite (who : Who) (v : Word) : exec (.asmPselWrite who v) s = execAsmPselWrite who v s := rfl

/-- Settles O18: the build that is due starts, after the cue entries due at it where a group paces it, or is dropped where that
group does not come; a DRAW alone in its cycle is judged on the state in which it is marked as begun; a draw or copy that ends
tells the first lease that refused it, once for the command by log 49. What is added to DRW_BURSTS is open (log 3); that
BUILD_COMPLETE ends with the picture complete is R281. -/
theorem buildsAndDrawsComplete : Obligations.BuildsAndDrawsComplete := by
  unfold Obligations.BuildsAndDrawsComplete
  simp only [exec_buildStart, exec_watermark, exec_buildComplete, exec_draw, exec_drawComplete, exec_dmaCopy, exec_dmaCopyDone,
    exec_asmPselWrite]
  refine ⟨?start, ?watermark, fun s r => execBuildComplete_running, ?accepted, ?refused, ?drawn, ?copy, ?copied, ?aborted,
    fun who v s => execAsmPselWrite_accepted v⟩
  case start =>
    intro p s q hidle hon hnext hplane hdue
    have h : BuildDue p.val q s := ⟨hidle, hon, hnext, hplane, hdue⟩
    refine ⟨execBuildStart_ungrouped h, fun n w g hkind hw hg => ?_⟩
    subst hw hg
    rw [execBuildStart_grouped h hkind rfl]
    exact ⟨fun hcomes => by rw [if_pos (groupComes_eq_true.2 hcomes)],
      fun hoff hgone => by rw [groupComes_eq_false.2 ⟨hoff, hgone⟩]; rfl⟩
  case watermark =>
    rintro k u _ r harmed rfl hrun hmark
    rw [execWatermark_armed harmed, raiseMark_unmarked hrun hmark]
  case accepted =>
    rintro c s _ rfl hserved hsrc hok
    rw [execDraw_one hserved, drawOne_accepts (srcReads_started.2 hsrc) (by simpa using hok), markStarted_srcWords]
  case refused =>
    rintro c s _ r rfl hserved hsrc hr hbad
    rw [execDraw_one hserved, drawOne_refuses (srcReads_started.2 hsrc) (by simpa using hr) hbad]
  case drawn =>
    rintro spans s j rest r f _ hhead hruns hr hf rfl
    rw [execDrawComplete_head hhead hruns hr hf]
    exact ⟨fun hmet => by rw [hmet]; rfl, fun l hmet => by rw [hmet]; rfl⟩
  case copy =>
    rintro c s _ rfl hserved hlen hsrc
    exact execDmaCopy_takes hserved hlen hsrc
  case copied =>
    rintro c spans before s j r _ hheld hj hsrc hdst hr rfl
    rw [execDmaCopyDone_held hheld hj (whole := true) (by simp [hsrc, hdst]) hr]
    exact ⟨fun hmet => by rw [hmet]; rfl, fun l hmet => by rw [hmet]; rfl⟩
  case aborted =>
    rintro c spans before ok s j r _ hheld hj hfails hr rfl
    rw [execDmaCopyDone_held hheld hj hfails hr]
    exact ⟨fun hmet => by rw [hmet]; rfl, fun l hmet => by rw [hmet]; rfl⟩

end Sys2Proof.Machine
end

section
/-!
PROOFS. Proxy encoding (spec/10): sessions open (R295–R297) and close (R298), source pictures are captured (R300, R301), encoding
starts (R302, R304–R306) and completes (R303, R304, R307), and the registers of a session are written (R302, R305, R310).
-/

namespace Sys2Proof.Machine

variable {s : State} {c : Cmd} {sess : Fin 16} {core : Fin 4} {res : EncodeResult} {who : Who}

/-! ## ENC_OPEN (R295–R297) -/

/-- A single ENC_OPEN of a cycle is met alone, on the state in which it is marked as begun. -/
theorem execEncOpen_one (h : Served 0x28 c s) : execEncOpen [c] s = .next (encOpenOne c (markStarted 0x28 c s)) := by
  rw [execEncOpen, runTies_one h, serveTable_one]

/-- The session that partition `p` opens with record `e`: its bucket full, its buffers at the places found for them. -/
def openedSession (p : Nat) (e : EncRec) (s : State) : Session where
  state := 1
  owner := p
  cfg := e
  auMin := auMin e
  bufs := ((sessRoom e s).getD []).map (fun x => encodeClass + 1024 * x)
  bucket := (e.cpb : Int)

/-- A record with nothing against it takes the lowest free session `i` and shows its registers. -/
theorem encOpenOne_accepts {i : Nat} {e : EncRec} (hsrc : SrcReads c 48 s) (hok : encReason c.idx (srcWords c s) s = 0)
    (hi : i = (firstBelow 16 (fun i => decide ((s.sess i).state = 0))).getD 0) (he : e = parseEnc (srcWords c s)) :
    encOpenOne c s = (s.setSess i (openedSession (c.idx % 8) e s) |> showSession i |> showEnc
      |> setF (ENC_S_AUMIN (sessPage i) (sessLocal i)) (auMin e) |> setF (ENC_S_BUCKET (sessPage i) (sessLocal i)) e.cpb
      |> setF (ENC_S_WR_OFFSET (sessPage i) (sessLocal i)) 0 |> setF (ENC_S_RD_OFFSET (sessPage i) (sessLocal i)) 0
      |> setF (ENC_S_PICS (sessPage i) (sessLocal i)) 0 |> finish 0x28 c DONE 0 i 0) := by
  subst hi he
  rw [encOpenOne, withLen_reads hsrc]
  exact if_neg (not_not_intro hok)

theorem encOpenOne_refuses {r : Nat} (hsrc : SrcReads c 48 s) (hr : r = encReason c.idx (srcWords c s) s) (hbad : r ≠ 0) :
    encOpenOne c s = (s |> setF ENC_OPEN_REJ_REASON r |> setF ENC_OPEN_REJ_PARTITION c.idx |> raise 0x150 6
      |> ifS (decide (r = 8) || decide (r = 9)) (fun s => s |> countF ENC_TFULL |> raise 0x150 7)
      |> refuse 0x28 c (if r = 6 then NOT_OWNER else if r = 8 ∨ r = 9 then TABLE_FULL else BAD_ARGUMENT) r) := by
  subst hr
  rw [encOpenOne, withLen_reads hsrc]
  exact if_pos hbad

/-! ## ENC_CLOSE (R298) -/

theorem execEncClose_owner {i : Nat} (h : Served 0x29 c s) (hi : i = c.argF 0 3 0)
    (hopen : ((markStarted 0x29 c s).sess i).state = 1) (howner : ((markStarted 0x29 c s).sess i).owner = c.idx) :
    execEncClose c s = .next (closeSession i (some (refOf 0x29 c)) (markStarted 0x29 c s)) := by
  subst hi
  rw [execEncClose, runCmd_served h]
  simp only [hopen, howner, ne_eq, not_true_eq_false, and_false, if_false]

/-! ## Captures (R300, R301) -/

theorem execEncCapture_open (h : (s.sess sess.val).state = 1) : execEncCapture sess s = .next (startCapture sess.val s) :=
  congrArg Host.Outcome.next (if_pos h)

/-- Session `i` with its first unfinished capture done, holding the codes `k`. -/
def storeCodes (i : Nat) (k : List Nat × List Nat × List Nat) (s : State) : State :=
  s.setSess i { s.sess i with
    queued := finishCapture (fun c => { c with done := true, y := k.1, cb := k.2.1, cr := k.2.2 }) (s.sess i).queued }

/-- The capture under way stores its codes, and its hold on the source ends. -/
theorem execEncCaptureDone_copying {p : Capture} (h : (s.sess sess.val).queued.find? (fun c => !c.done) = some p) :
    execEncCaptureDone sess s = .next (storeCodes sess.val (captureCodes (s.sess sess.val).cfg p s) s
      |> endCapture sess.val p |> showSession sess.val) := by
  simp only [execEncCaptureDone, h, storeCodes]

/-! ## Encoding (R302–R307) -/

/-- A free core that is ON takes the next captured picture `p`, one of session `i`, with its budget fixed. -/
theorem execEncPictureStart_free {i : Nat} {p : Capture} {b : Encoding × Int} {x : Session}
    (hon : isOn (0x150 + core.val) s = true) (hfree : getB (ENC_CORE_BUSY core.val) s = false)
    (hnext : nextPicture core.val s = some (i, p)) (hb : b = startBudget (s.sess i) p)
    (hx : x = { s.sess i with queued := (s.sess i).queued.erase p, encoding := some b.1, carry := b.2.toNat }) :
    execEncPictureStart core s =
      .next (s.setSess i { x with lastPt := some p.pt, forceIdr := false, rois := x.roiApply.getD x.rois, roiApply := none }
        |> setB (ENC_CORE_BUSY core.val) true |> setF (ENC_CORE_SESSION core.val) i |> showSession i) := by
  subst hb hx
  simp only [execEncPictureStart, hon, hfree, hnext, Bool.not_true, Bool.or_self, Bool.false_eq_true, if_false]

/-- Busy core `core` encodes picture `e` of session `i`. -/
structure Encodes (core i : Nat) (e : Encoding) (s : State) : Prop where
  busy : getB (ENC_CORE_BUSY core) s = true
  session : i = getF (ENC_CORE_SESSION core) s
  encoding : (s.sess i).encoding = some e

/-- The core has coded its picture as `res`, and its session is freed if that is what its close waited for (R298). -/
def settlePicture (core i : Nat) (e : Encoding) (cut : Option Nat) (au : List Byte) (res : EncodeResult) (s : State) : State :=
  let u := pictureDone core i e cut au res s
  if (u.sess i).state = 2 then freeSession i u else u

/-- The result of a core is taken where it keeps the bounds of R304; any other is none (log 13). -/
theorem execEncPictureDone_encodes {i : Nat} {e : Encoding} {cut : Option Nat} {au : List Byte} (h : Encodes core.val i e s)
    (hcut : cut = cutRow (s.sess i).cfg e res.rows) (hau : au = accessUnit i (s.sess i) e cut res) :
    execEncPictureDone core res s = .next
      (if keepsBounds (s.sess i) e cut au.length res = true then settlePicture core.val i e cut au res s else s) := by
  obtain ⟨hbusy, rfl, he⟩ := h
  subst hau hcut
  simp only [execEncPictureDone, hbusy, he, Bool.not_true, Bool.false_eq_true, if_false]
  cases keepsBounds (s.sess (getF (ENC_CORE_SESSION core.val) s)) e _ _ res <;> rfl

/-! ## Session registers (R302, R305, R310) -/

theorem assigned_sessPage : ∀ i : Fin 16, assigned (0x150 + sessPage i.val) = true := by decide

/-- The writer controls session `i`: the firmware, or the owner of a session that is not free (R295). -/
def controls (who : Who) (i : Nat) (s : State) : Bool :=
  isFw who || (decide ((s.sess i).state ≠ 0) && isPart who (s.sess i).owner)

theorem sessWrite_controls {addr : Nat} {f : State → State} (hans : answers (0x150 + sessPage sess.val) s = true)
    (hwho : controls who sess.val s = true) : sessWrite who sess.val addr f s = f s :=
  guardWrite_ok (assigned_sessPage sess) hans hwho

/-! ## The commands -/

theorem exec_encOpen (cs : List Cmd) : exec (.encOpen cs) s = execEncOpen cs s := rfl

theorem exec_encClose : exec (.encClose c) s = execEncClose c s := rfl

theorem exec_encCapture : exec (.encCapture sess) s = execEncCapture sess s := rfl

theorem exec_encCaptureDone : exec (.encCaptureDone sess) s = execEncCaptureDone sess s := rfl

theorem exec_encPictureStart : exec (.encPictureStart core) s = execEncPictureStart core s := rfl

theorem exec_encPictureDone : exec (.encPictureDone core res) s = execEncPictureDone core res s := rfl

theorem exec_forceIdr : exec (.forceIdr who sess) s = execForceIdr who sess s := rfl

theorem exec_roiApply : exec (.roiApply who sess) s = execRoiApply who sess s := rfl

theorem exec_encSRdWrite (v : Word) : exec (.encSRdWrite who sess v) s = execEncSRdWrite who sess v s := rfl

/-- Settles O19: an open alone in its cycle is judged and served on the state in which it is marked as begun, a close by the
owner is its body there; captures and pictures are taken and settled in the states in which they are due, and a register write of
one who controls the session has its effect. That a coded picture outside the bounds of R304 is no result of a core, and changes
nothing, is log 13; what a coded picture that is taken does is R307. -/
theorem encodingCompletes : Obligations.EncodingCompletes := by
  unfold Obligations.EncodingCompletes
  simp only [exec_encOpen, exec_encClose, exec_encCapture, exec_encCaptureDone, exec_encPictureStart, exec_encPictureDone,
    exec_forceIdr, exec_roiApply, exec_encSRdWrite]
  refine ⟨?accepted, ?refused, ?close, fun i s => execEncCapture_open, ?captured,
    fun core s i p x b => execEncPictureStart_free, ?coded, ?written⟩
  case accepted =>
    rintro c s _ i e _ _ _ _ rfl hserved hsrc hok hi he rfl rfl rfl rfl
    rw [execEncOpen_one hserved, encOpenOne_accepts (srcReads_started.2 hsrc) (by simpa using hok) hi (by simpa using he)]
    rfl
  case refused =>
    rintro c s _ r rfl hserved hsrc hr hbad
    rw [execEncOpen_one hserved, encOpenOne_refuses (srcReads_started.2 hsrc) (by simpa using hr) hbad]
  case close =>
    rintro c s _ i rfl hserved hi hopen howner
    exact execEncClose_owner hserved hi hopen howner
  case captured =>
    rintro i s p _ _ hcopying rfl rfl
    exact execEncCaptureDone_copying hcopying
  case coded =>
    rintro core res s i _ e cut au _ hi hbusy rfl he hcut hau
    rw [execEncPictureDone_encodes ⟨hbusy, hi, he⟩ hcut hau]
    refine ⟨?kept, fun hunkept => by rw [if_neg (ne_true_of_eq_false hunkept)]⟩
    rintro hkept rfl
    rw [if_pos hkept]
    exact ⟨fun hclosing => congrArg _ (if_pos hclosing), fun hopen => congrArg _ (if_neg hopen)⟩
  case written =>
    intro who i s hans hwho
    exact ⟨congrArg _ (sessWrite_controls hans hwho), congrArg _ (sessWrite_controls hans hwho),
      fun v => congrArg _ (sessWrite_controls hans hwho)⟩

end Sys2Proof.Machine
end

section
/-!
PROOFS. What every step does whatever the command: it runs the front of the queue, answers a next state, leaves the queue's rest
as it is and keeps the canonical form, which the state after reset has (R410, R526).
-/

namespace Sys2Proof.Machine

variable {s : State}

theorem step_of_cons {c : Instr} {rest : List Instr} (h : s.pending = c :: rest) :
    step s = exec c { s with pending := rest } := by
  rw [step, h]

theorem step_of_nil (h : s.pending = []) : step s = .next s := by
  rw [step, h]

/-- `exec_kept` over the state itself: the queue stays, and a canonical state goes to a canonical one. -/
theorem exec_next (c : Instr) (s : State) :
    ∃ t, exec c s = .next t ∧ t.pending = s.pending ∧ (s.Canonical → t.Canonical) := by
  obtain ⟨t, hexec, ⟨hqueue, hcanonical⟩⟩ := exec_kept (Q := s.pending) (K := s.Canonical) c ⟨⟨rfl, id⟩⟩
  exact ⟨t, hexec, hqueue, hcanonical⟩

theorem exec_canonical {c : Instr} {t : State} (hs : s.Canonical) (h : exec c s = .next t) : t.Canonical := by
  obtain ⟨u, hexec, -, hcanonical⟩ := exec_next c s
  obtain rfl : u = t := Host.Outcome.next.inj (hexec.symm.trans h)
  exact hcanonical hs

/-- Settles O40; that a step on an empty queue idles is log 1. -/
theorem stepRunsFront : Obligations.StepRunsFront := by
  unfold Obligations.StepRunsFront
  exact ⟨fun c s => step_of_cons rfl, fun c rest s => step_of_cons, fun s => step_of_nil⟩

/-- Settles O41; that memory is unlisted is log 2. -/
theorem canonicalAtReset : Obligations.CanonicalAtReset := by
  unfold Obligations.CanonicalAtReset
  have hcanonical : State.reset.Canonical := ⟨rfl, rfl, rfl, rfl⟩
  exact ⟨hcanonical, rfl, rfl, rfl, rfl, rfl⟩

/-- Settles O46; that a command whose conditions do not hold changes nothing and completes is log 10. -/
theorem everyCommandAnswersNext : Obligations.EveryCommandAnswersNext := by
  unfold Obligations.EveryCommandAnswersNext
  intro c s
  obtain ⟨t, hexec, hqueue, -⟩ := exec_next c s
  exact ⟨t, hexec, hqueue⟩

/-- Settles O47: taking the front command off the queue touches no memory, and every command keeps the form. -/
theorem stepKeepsCanonical : Obligations.StepKeepsCanonical := by
  unfold Obligations.StepKeepsCanonical
  intro s t hs hstep
  cases hqueue : s.pending with
  | nil =>
    obtain rfl : s = t := Host.Outcome.next.inj ((step_of_nil hqueue).symm.trans hstep)
    exact hs
  | cons c rest =>
    have htaken : ({ s with pending := rest } : State).Canonical := hs
    exact exec_canonical htaken ((step_of_cons hqueue).symm.trans hstep)

end Sys2Proof.Machine
end

section
/-!
PROOFS. The Sluice format (spec/17): bytes and words read back, a stored block is what R425 says and bounded (R426), and the
decoder undoes the compressor (R425–R430).
-/

namespace Sys2Proof.Machine

/-! ## Words and bytes (R9) -/

theorem bytesWords_wordBytes_append (w : Word) (r : List Byte) : bytesWords (wordBytes w ++ r) = w :: bytesWords r := by
  have hword : Word.ofNat ((BitVec.ofNat 8 w.toNat).toNat + 256 * (BitVec.ofNat 8 (w.toNat / 256)).toNat
      + 65536 * (BitVec.ofNat 8 (w.toNat / 65536)).toNat + 16777216 * (BitVec.ofNat 8 (w.toNat / 16777216)).toNat) = w := by
    apply BitVec.eq_of_toNat_eq
    have := w.isLt
    simp only [Word.ofNat, BitVec.toNat_ofNat]
    omega
  exact congrArg (· :: bytesWords r) hword

/-- Words written as bytes read back (R9). -/
theorem bytesWords_wordsBytes (ws : List Word) : bytesWords (wordsBytes ws) = ws := by
  induction ws with
  | nil => rfl
  | cons w r ih =>
    show bytesWords (wordBytes w ++ wordsBytes r) = w :: r
    rw [bytesWords_wordBytes_append, ih]

theorem toNat_wordOfNat {n : Nat} (h : n < 2 ^ 32) : (Word.ofNat n).toNat = n := by
  rw [Word.ofNat, BitVec.toNat_ofNat]
  exact Nat.mod_eq_of_lt h

/-! ## CRC-32C (R78) -/

theorem crcBit_lt {c : Nat} (h : c < 2 ^ 32) : crcBit c < 2 ^ 32 := by
  unfold crcBit
  split
  · exact Nat.xor_lt_two_pow (by omega) (by decide)
  · omega

theorem crcByte_lt {c b : Nat} (hc : c < 2 ^ 32) (hb : b < 2 ^ 32) : crcByte c b < 2 ^ 32 := by
  unfold crcByte
  repeat apply crcBit_lt
  exact Nat.xor_lt_two_pow hc hb

theorem crcFeed_lt (bs : List Byte) {c : Nat} (h : c < 2 ^ 32) : crcFeed c bs < 2 ^ 32 :=
  foldl_keeps (P := (· < 2 ^ 32)) h fun _ b hc => crcByte_lt hc (by have := b.isLt; omega)

theorem crcBytes_lt (bs : List Byte) : crcBytes bs < 2 ^ 32 := Nat.xor_lt_two_pow (crcFeed_lt bs (by decide)) (by decide)

/-! ## The payload (R426) -/

theorem sluPayload_eq (o : List Byte) : sluPayload o = (if (Config.sluiceStream o).length < o.length ∧
    sluBody false o.length (Config.sluiceStream o) = .ok o then (false, Config.sluiceStream o) else (true, o)) := by
  unfold sluPayload
  dsimp only
  by_cases hshort : (Config.sluiceStream o).length < o.length
  · rw [if_pos hshort]
    cases hbody : sluBody false o.length (Config.sluiceStream o) with
    | error e => simp
    | ok x => simp [hshort]
  · simp [hshort]

/-- A payload is never longer than its original. -/
theorem length_sluPayload_le (o : List Byte) : (sluPayload o).2.length ≤ o.length := by
  rw [sluPayload_eq]
  split
  case isTrue h => exact Nat.le_of_lt h.1
  case isFalse => exact Nat.le_refl _

/-- Raw or not, a payload gives its original back (R425). -/
theorem sluBody_sluPayload (o : List Byte) : sluBody (sluPayload o).1 o.length (sluPayload o).2 = .ok o := by
  rw [sluPayload_eq]
  split
  case isTrue h => exact h.2
  case isFalse => simp [sluBody]

/-! ## The block (R425) -/

/-- W0 of the block of `o`: VERSION 1, RAW, and OLEN less one. -/
def sluHead (o : List Byte) : Nat := 2 ^ 28 + bit (sluPayload o).1 * 2 ^ 27 + (o.length - 1)

/-- The header of the block of `o`. -/
def sluHeader (o : List Byte) : List Word :=
  [Word.ofNat (sluHead o), Word.ofNat (sluPayload o).2.length, Word.ofNat (crcBytes o)]

/-- The payload's padding to whole words. -/
def sluPadding (o : List Byte) : List Byte :=
  List.replicate (4 * ceilDiv (sluPayload o).2.length 4 - (sluPayload o).2.length) 0

theorem sluCompress_eq (o : List Byte) :
    sluCompress o = wordsBytes (sluHeader o) ++ ((sluPayload o).2 ++ sluPadding o) := by
  rw [← List.append_assoc]; rfl

theorem length_sluHeader (o : List Byte) : (wordsBytes (sluHeader o)).length = 12 := length_wordsBytes _

theorem le_mul_ceilDiv_four (n : Nat) : n ≤ 4 * ceilDiv n 4 ∧ 4 * ceilDiv n 4 ≤ n + 3 := by
  unfold ceilDiv; omega

/-- Payload and padding are whole words. -/
theorem length_payload_padding (o : List Byte) :
    ((sluPayload o).2 ++ sluPadding o).length = 4 * ceilDiv (sluPayload o).2.length 4 := by
  have := le_mul_ceilDiv_four (sluPayload o).2.length
  simp only [List.length_append, sluPadding, List.length_replicate]
  omega

theorem length_sluCompress (o : List Byte) : (sluCompress o).length = 12 + 4 * ceilDiv (sluPayload o).2.length 4 := by
  rw [sluCompress_eq, List.length_append, length_sluHeader, length_payload_padding]

/-- The first 12 bytes of a block are its header. -/
theorem take_sluCompress (o rest : List Byte) : bytesWords ((sluCompress o ++ rest).take 12) = sluHeader o := by
  rw [sluCompress_eq, List.append_assoc, List.take_left' (length_sluHeader o), bytesWords_wordsBytes]

/-- The payload follows the header. -/
theorem drop_sluCompress (o rest : List Byte) :
    ((sluCompress o ++ rest).drop 12).take (sluPayload o).2.length = (sluPayload o).2 := by
  rw [sluCompress_eq, List.append_assoc, List.drop_left' (length_sluHeader o), List.append_assoc, List.take_left' rfl]

/-- Settles O51; a stream that would not decode, which R425 rules out, is stored raw too by log 26. -/
theorem sluiceBoundHolds : Obligations.SluiceBoundHolds := by
  unfold Obligations.SluiceBoundHolds
  intro o _ _
  refine ⟨sluPayload_eq o, ?bound, ?header, ?payload⟩
  case bound =>
    have hpayload := length_sluPayload_le o
    have hpadding := le_mul_ceilDiv_four (sluPayload o).2.length
    rw [length_sluCompress]
    omega
  case header =>
    have hhead := take_sluCompress o []
    rw [List.append_nil] at hhead
    exact hhead
  case payload => simpa using drop_sluCompress o []

/-! ## The decoder on a stored block (R425, R429) -/

/-- The fields of W0 of a stored block. -/
theorem sluHead_fields {o : List Byte} (hmin : 1 ≤ o.length) (hmax : o.length ≤ 65536) :
    bitsOf (sluHead o) 31 28 = 1 ∧ bitsOf (sluHead o) 26 16 = 0 ∧ bitOf (sluHead o) 27 = (sluPayload o).1 ∧
      sluHead o % 65536 + 1 = o.length := by
  unfold sluHead bitsOf bitOf
  cases (sluPayload o).1
  · simp only [bit, Bool.false_eq_true, if_false, decide_eq_false_iff_not]
    omega
  · simp only [bit, if_true, decide_eq_true_eq]
    omega

theorem sluHead_lt {o : List Byte} (hmax : o.length ≤ 65536) : sluHead o < 2 ^ 32 := by
  unfold sluHead
  cases (sluPayload o).1
  · simp only [bit, Bool.false_eq_true, if_false]; omega
  · simp only [bit, if_true]; omega

/-- The header and the payload of a stored block decode to its original. -/
theorem sluBlock_stored {o : List Byte} (hmin : 1 ≤ o.length) (hmax : o.length ≤ 65536) :
    sluBlock (Word.ofNat (sluHead o)) (Word.ofNat (sluPayload o).2.length) (Word.ofNat (crcBytes o)) (sluPayload o).2 = .ok o := by
  obtain ⟨hversion, hreserved, hraw, holen⟩ := sluHead_fields hmin hmax
  have hplen : (sluPayload o).2.length < 2 ^ 17 := by have := length_sluPayload_le o; omega
  have hreserved1 : bitsOf (sluPayload o).2.length 31 17 = 0 := by
    rw [bitsOf, Nat.div_eq_of_lt hplen, Nat.zero_mod]
  rw [sluBlock, toNat_wordOfNat (sluHead_lt hmax), toNat_wordOfNat (by omega), toNat_wordOfNat (crcBytes_lt o),
    if_neg (by simp [hversion, hreserved, hreserved1]), hraw, holen, sluBody_sluPayload]
  exact if_neg (not_not_intro rfl)

/-- Settles O52: the header reads back as it was written, the payload gives the original, and what follows the padding is left. -/
theorem sluiceRoundTrip : Obligations.SluiceRoundTrip := by
  unfold Obligations.SluiceRoundTrip
  intro o rest hmin hmax
  have hplen : wordAt (sluHeader o) 1 % 2 ^ 17 = (sluPayload o).2.length := by
    have := length_sluPayload_le o
    show (Word.ofNat (sluPayload o).2.length).toNat % 2 ^ 17 = _
    rw [toNat_wordOfNat (by omega)]
    exact Nat.mod_eq_of_lt (by omega)
  have hwhole : ¬(sluCompress o ++ rest).length < 12 + 4 * ceilDiv (sluPayload o).2.length 4 := by
    rw [List.length_append, length_sluCompress]; omega
  have hblock : sluBlock ((sluHeader o).getD 0 0) ((sluHeader o).getD 1 0) ((sluHeader o).getD 2 0) (sluPayload o).2 = .ok o :=
    sluBlock_stored hmin hmax
  have hrest : (sluCompress o ++ rest).drop (12 + 4 * ceilDiv (sluPayload o).2.length 4) = rest :=
    List.drop_left' (length_sluCompress o)
  simp only [sluTake, take_sluCompress, hplen, if_neg hwhole, drop_sluCompress, hblock, hrest]

end Sys2Proof.Machine
end

section
/-!
PROOFS. Idle cycles of a jet (R452): they add up, pauses being the carries of the accumulator.
-/

namespace Sys2Proof.Machine

/-- In `n` cycles there are at most `n` carries. -/
theorem carries_le {a d : Nat} (n : Nat) (ha : a < 256) (hd : d ≤ 255) : (a + n * d) / 256 ≤ n := by
  have hsum : n * d ≤ n * 255 := Nat.mul_le_mul_left n hd
  omega

/-- The carries of `m + n` cycles are those of the first `m` and those of the rest. -/
theorem carries_add (a m n d : Nat) :
    (a + (m + n) * d) / 256 = (a + m * d) / 256 + ((a + m * d) % 256 + n * d) / 256 := by
  rw [Nat.add_mul]
  omega

theorem jetIdle_add {x : Jet} (m n : Nat) {d : Nat} (hx : x.acc < 256) (hd : d ≤ 255) :
    jetIdle x (m + n) d = jetIdle (jetIdle x m d) n d := by
  have hfirst := carries_le m hx hd
  have hrest := carries_le n (Nat.mod_lt (x.acc + m * d) (by decide)) hd
  have hacc : (x.acc + (m + n) * d) % 256 = ((x.acc + m * d) % 256 + n * d) % 256 := by
    rw [Nat.mod_add_mod, Nat.add_mul, Nat.add_assoc]
  simp only [jetIdle, hacc, carries_add]
  congr 1
  omega

theorem jetIdle_zero {x : Jet} (d : Nat) (hx : x.acc < 256) : jetIdle x 0 d = x := by
  simp [jetIdle, Nat.mod_eq_of_lt hx, Nat.div_eq_of_lt hx]

/-- One cycle shortens what occupies the jet, unless it carries. -/
theorem jetIdle_one (x : Jet) (d : Nat) :
    jetIdle x 1 d = { x with acc := (x.acc + d) % 256, left := x.left - (1 - (x.acc + d) / 256) } := by
  simp [jetIdle]

/-- Settles O8; that a pause cycle leaves what occupies the jet as long is R451 with R452 as log 50 reads them. -/
theorem idleCyclesOfAJetAddUp : Obligations.IdleCyclesOfAJetAddUp := by
  unfold Obligations.IdleCyclesOfAJetAddUp
  intro x m n d hx hd
  rw [jetIdle_one]
  refine ⟨jetIdle_add m n hx hd, jetIdle_zero d hx, rfl, Nat.mod_lt _ (by decide), rfl, fun hcarry => ?_, fun hnone => ?_⟩
  · have hone : 1 - (x.acc + d) / 256 = 0 := by omega
    simp only [hone, Nat.sub_zero]
  · simp only [Nat.div_eq_of_lt hnone, Nat.sub_zero]

end Sys2Proof.Machine
end

section
/-!
PROOFS. Egress queues (spec/11): subscribers open and close (R312), frames join their queues (R314, R315), leave and complete
(R314, R318), and the windows are written (R313, R321, R326, R328).
-/

namespace Sys2Proof.Machine

variable {s : State} {c : Cmd} {port : Fin 5} {who : Who}

/-! ## Subscribers (R312) -/

/-- A single EGR_SUB_OPEN of a cycle is met alone, on the state in which it is marked as begun. -/
theorem execEgrSubOpen_one (h : Served 0x2A c s) : execEgrSubOpen [c] s = .next (subOpenOne c (markStarted 0x2A c s)) := by
  rw [execEgrSubOpen, runTies_one h, serveTable_one]

/-- The lowest subscriber that is free. -/
def lowestFreeSub (s : State) : Option Nat := firstBelow 64 (fun i => decide ((s.sub i).open_ = false))

theorem subOpenOne_opens {i : Nat} (hport : c.argF 0 2 0 ≤ 4) (hfree : lowestFreeSub s = some i) :
    subOpenOne c s = (each [0, 1, 2, 3] (fun v => State.setQueue (4 * i + v) {}) s
      |> State.setSub i { open_ := true, owner := c.idx, port := c.argF 0 2 0 } |> showEgr |> finish 0x2A c DONE 0 i 0) := by
  unfold lowestFreeSub at hfree
  simp only [subOpenOne, if_neg (Nat.not_lt.2 hport), hfree]

theorem subOpenOne_full (hport : c.argF 0 2 0 ≤ 4) (hfull : lowestFreeSub s = none) :
    subOpenOne c s = (s |> countF EGR_TFULL |> raise 0x158 2 |> answer 0x2A c TABLE_FULL) := by
  unfold lowestFreeSub at hfull
  simp only [subOpenOne, if_neg (Nat.not_lt.2 hport), hfull]

theorem execEgrSubClose_owner {i : Nat} (h : Served 0x2B c s) (hi : i = c.argF 0 5 0)
    (hopen : subOpen i (markStarted 0x2B c s) = true) (howner : ((markStarted 0x2B c s).sub i).owner = c.idx) :
    execEgrSubClose c s = .next (closeSub i (some (refOf 0x2B c)) (markStarted 0x2B c s)) := by
  subst hi
  rw [execEgrSubClose, runCmd_served h]
  simp only [howner, hopen, ne_eq, not_true_eq_false, and_false, Bool.not_true, Bool.false_eq_true, if_false]

/-! ## Frames (R314, R315, R318) -/

/-- A frame record that reads is judged on the state in which its command is marked as begun. -/
theorem execEgrSend_reads (h : Served 0x2C c s) (hsrc : SrcReads c 24 s) {t : State} (ht : t = markStarted 0x2C c s) :
    execEgrSend c s = .next (if sendReason c (srcWords c s) t = 0
      then enqueueFrame (fieldAt (srcWords c s) 0 7 0) (parseFrame c (srcWords c s) t) t
      else t |> setF EGR_SEND_REJ_REASON (sendReason c (srcWords c s) t) |> setF EGR_SEND_REJ_PARTITION c.idx |> raise 0x158 3
        |> ifS (decide (sendReason c (srcWords c s) t = 7)) (countDrop (fieldAt (srcWords c s) 0 7 0))
        |> refuse 0x2C c (if sendReason c (srcWords c s) t = 4 then NOT_OWNER
            else if sendReason c (srcWords c s) t = 7 then TABLE_FULL else BAD_ARGUMENT) (sendReason c (srcWords c s) t)) := by
  subst ht
  rw [execEgrSend, runCmd_served h, withLen_reads (srcReads_started.2 hsrc), markStarted_srcWords]

/-- A free port of a page that is ON, not claimed by a trim run, starts the frame that it chooses after the ticks due. -/
theorem execEgrFrameTxStart_starts {q : Nat} {f : EgrFrame} {x : EgrPort} (hon : isOn 0x158 s = true)
    (hfree : (s.eport port.val).sending = none) (hclaim : portClaimed port.val s = false)
    (hchoice : chooseFrame port.val (applyTicks s) = (some (q, f), x)) :
    execEgrFrameTxStart port s = .next ((applyTicks s).setEport port.val x |> startFrame port.val q f) := by
  simp only [execEgrFrameTxStart, hon, hfree, hclaim, hchoice, Bool.not_true, Option.isSome_none, Bool.or_self,
    Bool.false_eq_true, if_false]

/-- The frame in transmission has left and completed, and a subscriber that closes is freed (R312, R314). -/
theorem execEgrFrameTxEnd_sending {x : EgrTx} {u : State} (hx : (s.eport port.val).sending = some x)
    (hu : u = (s |> frameLeft port.val x |> sendDone x.frame.cmd)) : execEgrFrameTxEnd port s =
      .next (if x.queue < 256 ∧ (u.sub (subOf x.queue)).close.isSome = true then freeSub (subOf x.queue) u else u) := by
  subst hu
  simp only [execEgrFrameTxEnd, hx]

/-! ## The windows (R313, R321, R326, R328) -/

theorem windowWrite_owner {queue : Bool} {addr : Nat} {f : State → State} (hans : answers 0x158 s = true)
    (hown : ownsWindow who queue s = true) : windowWrite who queue addr f s = f s := by
  rw [windowWrite, guardWrite_ok (by decide) hans rfl]
  exact if_pos hown

/-- A window write from anyone but the owner is counted and discarded (R313, R471). -/
theorem windowWrite_other {queue : Bool} {addr : Nat} {f : State → State} (hans : answers 0x158 s = true)
    (hown : ownsWindow who queue s = false) :
    windowWrite who queue addr f s = (s |> countF EGR_WREJ |> rejectWrite who) := by
  rw [windowWrite, guardWrite_ok (by decide) hans rfl]
  exact if_neg (ne_true_of_eq_false hown)

/-- Anyone may select a subscriber or a queue (R328). -/
theorem execEgrSselWrite_answered {queue : Bool} (v : Word) (hans : answers 0x158 s = true) :
    execEgrSselWrite who queue v s = .next (writeEgrSel queue v.toNat s) :=
  congrArg Host.Outcome.next (guardWrite_ok (by decide) hans rfl)

/-! ## The commands -/

theorem exec_egrSubOpen (cs : List Cmd) : exec (.egrSubOpen cs) s = execEgrSubOpen cs s := rfl

theorem exec_egrSubClose : exec (.egrSubClose c) s = execEgrSubClose c s := rfl

theorem exec_egrSend : exec (.egrSend c) s = execEgrSend c s := rfl

theorem exec_egrFrameTxStart : exec (.egrFrameTxStart port) s = execEgrFrameTxStart port s := rfl

theorem exec_egrFrameTxEnd : exec (.egrFrameTxEnd port) s = execEgrFrameTxEnd port s := rfl

theorem exec_egrBucketWrite (queue burst : Bool) (v : Word) :
    exec (.egrBucketWrite who queue burst v) s = execEgrBucketWrite who queue burst v s := rfl

theorem exec_egrQClear : exec (.egrQClear who) s = execEgrQClear who s := rfl

theorem exec_egrSselWrite (queue : Bool) (v : Word) : exec (.egrSselWrite who queue v) s = execEgrSselWrite who queue v s := rfl

/-- Settles O20: an open alone in its cycle, a close by the owner and a frame record are their bodies on the state in which they
are marked as begun; a port starts and ends frames as it is free or not, and a window write reaches the owner's window alone. -/
theorem egressFramesComplete : Obligations.EgressFramesComplete := by
  unfold Obligations.EgressFramesComplete
  simp only [exec_egrSubOpen, exec_egrSubClose, exec_egrSend, exec_egrFrameTxStart, exec_egrFrameTxEnd, exec_egrBucketWrite,
    exec_egrQClear, exec_egrSselWrite]
  refine ⟨?opened, ?full, ?closed, ?joins, ?refused, ?starts, ?ends, ?windows⟩
  case opened =>
    rintro c s _ i rfl hserved hport hfree
    rw [execEgrSubOpen_one hserved, subOpenOne_opens hport hfree]
  case full =>
    rintro c s _ rfl hserved hport hfull
    rw [execEgrSubOpen_one hserved, subOpenOne_full hport hfull]
  case closed =>
    rintro c s _ i rfl hserved hi hopen howner
    exact execEgrSubClose_owner hserved hi hopen howner
  case joins =>
    rintro c s t _ _ ht hserved hsrc hok rfl rfl
    rw [execEgrSend_reads hserved hsrc ht, if_pos hok]
    rfl
  case refused =>
    rintro c s t _ ht hserved hsrc rfl hbad
    rw [execEgrSend_reads hserved hsrc ht, if_neg hbad]
  case starts =>
    rintro port u _ q f x hon hfree hclaim rfl hchoice
    exact execEgrFrameTxStart_starts hon hfree hclaim hchoice
  case ends =>
    intro port s x u hx hu
    rw [execEgrFrameTxEnd_sending hx hu]
    refine ⟨fun hq hclosing => by rw [if_pos ⟨hq, hclosing⟩], fun hkeeps => ?_⟩
    rw [if_neg]
    rintro ⟨hq, hclosing⟩
    rcases hkeeps with hsystem | hopen
    · omega
    · simp [hopen] at hclosing
  case windows =>
    intro who s hans
    refine ⟨fun q b v hown => congrArg _ (windowWrite_owner hans hown), fun q b v hown => congrArg _ (windowWrite_other hans hown),
      ?clear, fun v => execEgrSselWrite_answered v hans, fun v hv => ?queue⟩
    case clear =>
      rintro q hown rfl
      exact congrArg _ (windowWrite_owner hans hown)
    case queue =>
      rw [execEgrSselWrite_answered v hans]
      exact congrArg _ (if_pos hv)

end Sys2Proof.Machine
end

section
/-!
PROOFS. Gates and shapers (spec/11): token ticks (R320), gate lists and their changes (R322, R324), pauses (R325) and samples
(R326).
-/

namespace Sys2Proof.Machine

variable {s : State} {c : Cmd} {port : Fin 5} {who : Who}

/-! ## Token ticks (R320) -/

theorem applyTicks_none (h : ticksDue s = 0) : applyTicks s = s := if_pos h

/-- `n` ticks reach every bucket, subscribers' first. -/
def bucketsGain (n : Nat) (s : State) : State :=
  each (List.range 256) (fun i t => t.setQueue i { t.queue i with bucket := tickBucket n (t.queue i).bucket })
    (each (List.range 64) (fun i t => t.setSub i { t.sub i with bucket := tickBucket n (t.sub i).bucket }) s)

theorem applyTicks_due {n : Nat} {u : State} (hn : n = ticksDue s) (hdue : n ≠ 0) (hu : u = bucketsGain n s) :
    applyTicks s = { u with egr := { u.egr with nextTick := (u.egr.nextTick + 1000 * n) % 2 ^ 64 } } := by
  subst hn hu
  simp only [applyTicks, if_neg hdue, bucketsGain]

/-! ## Gate lists (R322, R324) -/

/-- A good gate list from the owner becomes the port's admin copy while no change is pending. -/
theorem execGclLoad_takes {p : Nat} {t : State} (h : Served 0x2D c s) (ht : t = markStarted 0x2D c s)
    (howner : isOwner c.who 0x158 s = true) (hp : p = c.argF 0 2 0) (hport : p ≤ 4) (hwords : c.src.len % 4 = 0)
    (hroom : c.src.len ≤ 4096) (hsrc : srcBad c s = false) (hlist : srcWords c s ≠ [])
    (hlong : (srcWords c s).any (fun w => decide (intervalOf w < 64)) = false) (hidle : gatePending p s = false) :
    execGclLoad c s = .next (t.setEport p { t.eport p with admin := srcWords c s }
      |> setF (EGR_P_GSTAT_ADMIN_LEN p) (srcWords c s).length |> answer 0x2D c DONE) := by
  subst ht hp
  have hidle' : gatePending (c.argF 0 2 0) (markStarted 0x2D c s) = false := by
    rw [gatePending, markStarted_getB]; exact hidle
  have hgood : ((srcWords c s).isEmpty || (srcWords c s).any (fun w => decide (intervalOf w < 64))) = false := by
    rw [hlong, Bool.or_false]; simpa using hlist
  have hargs : ¬(4 < c.argF 0 2 0 ∨ c.src.len % 4 ≠ 0) := by omega
  rw [execGclLoad, runCmd_served h]
  simp only [markStarted_isOwner, howner, Bool.not_true, Bool.false_eq_true, if_false, if_neg hargs, if_neg (Nat.not_lt.2 hroom)]
  rw [withSrc_reads (by simpa using hsrc)]
  simp only [markStarted_srcWords, hgood, hidle', Bool.false_eq_true, if_false]

/-- A write that its page takes from its owner and the firmware alone has its effect. -/
theorem guardWrite_owner {page addr : Nat} {f : State → State} (h : OwnerAccepted who page s) :
    guardWrite who page addr (isOwner who page s) f s = f s := by
  obtain ⟨hassigned, hans, howner⟩ := h
  exact guardWrite_ok hassigned hans howner

/-- Gate lists belong to the page's owner (R313). -/
theorem execConfigChange_owner (h : OwnerAccepted who 0x158 s) :
    execConfigChange who port s = .next (configChange port.val s) := congrArg _ (guardWrite_owner h)

theorem execGclCancel_owner (h : OwnerAccepted who 0x158 s) : execGclCancel who port s = .next (cancelChange port.val s) :=
  congrArg _ (guardWrite_owner h)

variable {p : Nat}

theorem configChange_refused (h : gateReason p s ≠ 0) :
    configChange p s = (s |> setF (EGR_P_GREJ_REASON p) (gateReason p s) |> raise 0x158 6) := if_pos h

/-- A good admin set is pending from then on, for its base time or the first cycle start that can still be met. -/
theorem configChange_takes {b cycle x : Nat} (h : gateReason p s = 0)
    (hb : b = getF (EGR_P_ABASE_LO p) s + getF (EGR_P_ABASE_HI p) s * 2 ^ 32) (hcycle : cycle = getF (EGR_P_ACYCLE_NS p) s)
    (hx : x = (if tnsLe (soon s) b then b else (b + ceilDiv (diff64 (soon s) b).toNat cycle * cycle) % 2 ^ 64)) :
    configChange p s = (s |> setF (EGR_P_CHG_LO p) x |> setF (EGR_P_CHG_HI p) (x / 2 ^ 32)
      |> setB (EGR_P_GSTAT_PENDING p) true) := by
  simp only [configChange, h, ← hb, ← hcycle, ← hx, ne_eq, not_true_eq_false, if_false]

theorem cancelChange_early (h : changeDue p s = false) : cancelChange p s = setB (EGR_P_GSTAT_PENDING p) false s := by
  simp only [cancelChange, ifS, h, Bool.false_eq_true, if_false]

theorem cancelChange_due (h : changeDue p s = true) :
    cancelChange p s = (s |> changeGates p |> setB (EGR_P_GSTAT_PENDING p) false) := by
  simp only [cancelChange, ifS, h, if_true]

theorem execGclChangeTime_due (h : changeDue port.val s = true) : execGclChangeTime port s = .next (changeGates port.val s) := by
  simp only [execGclChangeTime, ifS, h, if_true]

/-- The next entry's gates take effect, or the first one's of a new cycle (R322). -/
theorem execGateEntryEnd_reached {x : EgrPort} (hx : x = s.eport port.val) (hlist : x.oper ≠ [])
    (hend : reached (entryEnd port.val s) s = true) (hidle : gatePending port.val s = false) : execGateEntryEnd port s =
      .next (if (cycleSegs x.operCycle 0 x.oper).length ≤ x.entry + 1
        then s.setEport port.val { x with cycleStart := (x.cycleStart + x.operCycle) % 2 ^ 64, entry := 0 } |> showGates port.val
        else s.setEport port.val { x with entry := x.entry + 1 } |> showGates port.val) := by
  subst hx
  have hlist' : (s.eport port.val).oper.isEmpty = false := by simpa using hlist
  simp only [execGateEntryEnd, hlist', hend, hidle, Bool.not_true, Bool.or_self, Bool.false_and, Bool.false_eq_true, if_false]

/-! ## Pauses (R325) and samples (R326) -/

theorem execPfcPauseExpire_runsOut {cls : Fin 8} (hpaused : bitOf (getF (EGR_P_PAUSED_CLASSES port.val) s) cls.val = true)
    (hend : reached (FMap.get 0 (s.eport port.val).pauseUntil cls.val) s = true) :
    execPfcPauseExpire port cls s = .next (pauseClass port.val cls.val 0 s) := by
  simp only [execPfcPauseExpire, hpaused, hend, Bool.and_self, if_true]

theorem execEgrSampleTick_due {u : State} (hdue : reached s.egr.nextSample s = true)
    (hu : u = each (List.range 261) (fun i t => t.setQueue i (sampleQueue (now t) (t.queue i))) s) :
    execEgrSampleTick s = .next { u with egr := { u.egr with nextSample := u.egr.nextSample + getF EGR_SAMPLE_PERIOD u * 1000 } } := by
  subst hu
  simp only [execEgrSampleTick, hdue, Bool.not_true, Bool.false_eq_true, if_false]

/-! ## The commands -/

theorem exec_tokenTick : exec .tokenTick s = .next (applyTicks s) := rfl

theorem exec_gclLoad : exec (.gclLoad c) s = execGclLoad c s := rfl

theorem exec_configChange : exec (.configChange who port) s = execConfigChange who port s := rfl

theorem exec_gclCancel : exec (.gclCancel who port) s = execGclCancel who port s := rfl

theorem exec_gclChangeTime : exec (.gclChangeTime port) s = execGclChangeTime port s := rfl

theorem exec_gateEntryEnd : exec (.gateEntryEnd port) s = execGateEntryEnd port s := rfl

theorem exec_pfcPauseExpire (cls : Fin 8) : exec (.pfcPauseExpire port cls) s = execPfcPauseExpire port cls s := rfl

theorem exec_egrSampleTick : exec .egrSampleTick s = execEgrSampleTick s := rfl

/-- Settles O21: each instant that the selected time has reached has its effect, and the owner's loads and changes theirs. -/
theorem egressGatesComplete : Obligations.EgressGatesComplete := by
  unfold Obligations.EgressGatesComplete
  simp only [exec_tokenTick, exec_gclLoad, exec_configChange, exec_gclCancel, exec_gclChangeTime, exec_gateEntryEnd,
    exec_pfcPauseExpire, exec_egrSampleTick]
  refine ⟨fun s hnone => congrArg _ (applyTicks_none hnone), fun s n u hn hdue hu => congrArg _ (applyTicks_due hn hdue hu), ?load,
    ?changes, ?changeTime, ?entryEnd, fun port cls s => execPfcPauseExpire_runsOut, fun s u => execEgrSampleTick_due⟩
  case load =>
    intro c s t p ht hserved howner hp hport hwords hroom hsrc hlist hlong hidle
    exact execGclLoad_takes hserved ht howner hp hport hwords hroom hsrc hlist hlong hidle
  case changes =>
    intro who port s howner
    rw [execConfigChange_owner howner, execGclCancel_owner howner]
    exact ⟨fun hbad => congrArg _ (configChange_refused hbad), fun b cycle x hok hb hcycle hx => congrArg _ (configChange_takes hok hb hcycle hx),
      fun hearly => congrArg _ (cancelChange_early hearly), fun hdue => congrArg _ (cancelChange_due hdue)⟩
  case changeTime =>
    rintro port s _ hpending hreached rfl
    have hdue : changeDue port.val s = true := by rw [changeDue, hpending, hreached]; rfl
    rw [execGclChangeTime_due hdue]
    rfl
  case entryEnd =>
    intro port s x hx hlist hend hidle
    rw [execGateEntryEnd_reached hx hlist hend hidle]
    exact ⟨fun hlast => by rw [if_pos hlast], fun hnext => by rw [if_neg (Nat.not_le.2 hnext)]⟩

end Sys2Proof.Machine
end

section
/-!
PROOFS. Writes of the time base (spec/12): domains are switched (R335), jumps (R334), snapshots (R348), timestamp queues (R341), timer
channels are armed and disarmed (R344, R345), and the servo's registers are written (R333, R339, R351).
-/

namespace Sys2Proof.Machine

variable {s : State} {who : Who}

/-! ## The choice of domain (R334, R335) -/

theorem writeJump_allowed (h : jumpAllowed s = true) : writeJump s = ({ s with tim := { s.tim with jumped := true } }
    |> setB TIM_STAT_SEL_VALID false |> setB TIM_STAT_SLEWING false) := if_pos h

theorem writeJump_refused (h : jumpAllowed s = false) : writeJump s = switchRefused 3 s := by
  simp only [writeJump, h, Bool.false_eq_true, if_false]

variable {d : Nat}

theorem judgeWrite_invalid (hd : d ≠ domain s) (hv : dValid d s = false) : judgeWrite d s = switchRefused 1 s := by
  simp only [judgeWrite, hd, hv, if_false, Bool.not_false, if_true]

theorem judgeWrite_far (hd : d ≠ domain s) (hv : dValid d s = true) (hfar : withinMax d s = false) :
    judgeWrite d s = switchRefused 2 s := by
  simp only [judgeWrite, hd, hv, hfar, if_false, Bool.not_true, Bool.not_false, Bool.false_eq_true, if_true]

theorem judgeWrite_near (hd : d ≠ domain s) (hv : dValid d s = true) (hnear : withinMax d s = true) :
    judgeWrite d s = autoSwitch d s := by
  simp only [judgeWrite, hd, hv, hnear, if_false, Bool.not_true, Bool.false_eq_true]

/-! ## Arming timer channels (R344, R345) -/

variable {c : Nat} {x : TimerSet}

theorem armTimer_unselected (h : getB TIM_STAT_SEL_VALID s = false) : armTimer c s = timerLate c false s := by
  rw [armTimer, h]; rfl

/-- The staged set `x` of channel `c` is judged while time is selected. -/
structure Staged (c : Nat) (x : TimerSet) (s : State) : Prop where
  set : x = stagedSet c s
  selected : getB TIM_STAT_SEL_VALID s = true

theorem Staged.armTimer_eq (h : Staged c x s) : armTimer c s =
    if x.mode = 2 ∧ x.periodNs.toNat < 1000 then timerLate c false s
    else if x.mode = 1 then if tnsLe (soon s) x.start then latchSet c x (some (x.start, 0)) [] true s else timerLate c true s
    else if x.mode = 2 then latchSet c x (some (x.edge (x.firstK s), x.firstK s)) [] true s
    else if x.mode = 3 then
      latchSet c x none (((fixedFrames x.group s).filter (fun f => decide (f.1 % x.div = 0))).filterMap (fun f =>
        if tnsLe (soon s) (ofSigned 64 ((f.2 : Int) + toSigned 32 x.startLo.toNat)) then
          some (ofSigned 64 ((f.2 : Int) + toSigned 32 x.startLo.toNat)) else none)) true s
    else latchSet c x none [] false s := by
  obtain ⟨rfl, hselected⟩ := h
  rw [armTimer, hselected]
  rfl

/-- ONESHOT: an edge at least 2 µs ahead is placed, a nearer one is late. -/
theorem armTimer_oneshot (h : Staged c x s) (hmode : x.mode = 1) : armTimer c s =
    if tnsLe (soon s) x.start then latchSet c x (some (x.start, 0)) [] true s else timerLate c true s := by
  rw [h.armTimer_eq, if_neg (by omega), if_pos hmode]

/-- PERIODIC: the first edge at least 2 µs ahead is placed. -/
theorem armTimer_periodic (h : Staged c x s) (hmode : x.mode = 2) (hperiod : 1000 ≤ x.periodNs.toNat) :
    armTimer c s = latchSet c x (some (x.edge (x.firstK s), x.firstK s)) [] true s := by
  rw [h.armTimer_eq, if_neg (by omega), if_neg (by omega), if_pos hmode]

theorem filterMap_guard {α β : Type} (g : α → β) (p : β → Bool) (l : List α) :
    l.filterMap (fun a => if p (g a) then some (g a) else none) = (l.map g).filter p := by
  induction l with
  | nil => rfl
  | cons a r ih => cases h : p (g a) <;> simp [h, ih]

/-- FRAME: the edges of the frames that are fixed are placed, but those nearer than 2 µs (log 64). -/
theorem armTimer_frame (h : Staged c x s) (hmode : x.mode = 3) : armTimer c s =
    latchSet c x none ((((fixedFrames x.group s).filter (fun f => decide (f.1 % x.div = 0))).map (fun f =>
      ofSigned 64 ((f.2 : Int) + toSigned 32 x.startLo.toNat))).filter (fun t => tnsLe (soon s) t)) true s := by
  rw [h.armTimer_eq, if_neg (by omega), if_neg (by omega), if_neg (by omega), if_pos hmode, filterMap_guard (fun f : Nat × Nat =>
    ofSigned 64 ((f.2 : Int) + toSigned 32 x.startLo.toNat)) (fun t => tnsLe (soon s) t)]

/-! ## The servo's registers (R333, R339, R351) -/

theorem domainWrite_writer {d : Fin 2} {addr : Nat} {f : State → State} (h : Accepted who (0x11 + d.val) s)
    (hwriter : servoWrites who d.val s = true) : domainWrite who d.val addr f s = f s := by
  rw [domainWrite, guardWrite_accepted h, ifS, if_pos hwriter]

/-- A write from the one whom HOST does not name is discarded. -/
theorem domainWrite_other {d : Fin 2} {addr : Nat} {f : State → State} (h : Accepted who (0x11 + d.val) s)
    (hother : servoWrites who d.val s = false) : domainWrite who d.val addr f s = s := by
  rw [domainWrite, guardWrite_accepted h, ifS, if_neg (ne_true_of_eq_false hother)]

theorem execTimDValidWrite_writer {d : Fin 2} {v : Bool} (h : Accepted who (0x11 + d.val) s) (hwriter : servoWrites who d.val s = true) :
    execTimDValidWrite who d v s = .next (writeValid d.val v s) := congrArg Host.Outcome.next (domainWrite_writer h hwriter)

theorem writeValid_powered {d : Nat} {v : Bool} (h : blockState (0x11 + d) s ≠ 0) : writeValid d v s = setValid d v s := if_neg h

theorem writeValid_off {d : Nat} {v : Bool} (h : blockState (0x11 + d) s = 0) : writeValid d v s = s := if_pos h

/-! ## The commands -/

theorem exec_timSelDomainWrite (d : Fin 2) : exec (.timSelDomainWrite who d) s = execTimSelDomainWrite who d s := rfl

theorem exec_timSelJump : exec (.timSelJump who) s = execTimSelJump who s := rfl

theorem exec_txqPop (p : Fin 5) : exec (.txqPop who p) s = execTxqPop who p s := rfl

theorem exec_timerDisarm (c : Fin 16) : exec (.timerDisarm who c) s = execTimerDisarm who c s := rfl

theorem exec_timerArm (c : Fin 16) : exec (.timerArm who c) s = execTimerArm who c s := rfl

theorem exec_timSnap : exec (.timSnap who) s = execTimSnap who s := rfl

theorem exec_timDValidWrite (d : Fin 2) (v : Bool) : exec (.timDValidWrite who d v) s = execTimDValidWrite who d v s := rfl

theorem exec_timDIncWrite (d : Fin 2) (v : Word) : exec (.timDIncWrite who d v) s = execTimDIncWrite who d v s := rfl

theorem exec_timDAdjWrite (d : Fin 2) (v : Word) : exec (.timDAdjWrite who d v) s = execTimDAdjWrite who d v s := rfl

theorem exec_timDSet (d : Fin 2) : exec (.timDSet who d) s = execTimDSet who d s := rfl

theorem execTimerArm_owner {ch : Fin 16} (h : OwnerAccepted who 0x10 s) : execTimerArm who ch s = .next (armTimer ch.val s) :=
  congrArg Host.Outcome.next (guardWrite_owner h)

/-- Settles O22: an accepted write is its effect, case by case. That FRAME mode leaves out edges nearer than 2 µs, R344 with
R345, is log 64. -/
theorem timeWritesComplete : Obligations.TimeWritesComplete := by
  unfold Obligations.TimeWritesComplete
  simp only [exec_timSelDomainWrite, exec_timSelJump, exec_txqPop, exec_timerDisarm, exec_timerArm, exec_timSnap,
    exec_timDValidWrite, exec_timDIncWrite, exec_timDAdjWrite, exec_timDSet]
  refine ⟨?common, ?judged, fun who s h => congrArg _ (guardWrite_accepted h), ?servo⟩
  case common =>
    intro who s h
    refine ⟨fun d => congrArg _ (guardWrite_owner h), fun hallowed => ?jump, fun hrefused => ?noJump,
      fun p => congrArg _ (guardWrite_owner h), fun c => congrArg _ (guardWrite_owner h), fun c hunselected => ?unselected,
      ?oneshot, ?periodic, ?frame⟩
    case jump => exact congrArg _ ((guardWrite_owner h).trans (writeJump_allowed hallowed))
    case noJump => exact congrArg _ ((guardWrite_owner h).trans (writeJump_refused hrefused))
    case unselected => rw [execTimerArm_owner h, armTimer_unselected hunselected]
    case oneshot =>
      intro c x hx hselected hmode
      rw [execTimerArm_owner h, armTimer_oneshot ⟨hx, hselected⟩ hmode]
      exact ⟨fun hahead => by rw [if_pos hahead], fun hnear => by rw [if_neg (ne_true_of_eq_false hnear)]⟩
    case periodic =>
      intro c x hx hselected hmode hperiod
      rw [execTimerArm_owner h, armTimer_periodic ⟨hx, hselected⟩ hmode hperiod]
    case frame =>
      rintro c x _ hx hselected hmode rfl
      rw [execTimerArm_owner h, armTimer_frame ⟨hx, hselected⟩ hmode]
  case judged => exact fun d s hd => ⟨judgeWrite_invalid hd, judgeWrite_far hd, judgeWrite_near hd⟩
  case servo =>
    intro who d s h
    refine ⟨fun hwriter => ⟨fun v hpowered => ?valid, fun v hoff => ?off, fun v => congrArg _ (domainWrite_writer h hwriter),
      fun v => congrArg _ (domainWrite_writer h hwriter), congrArg _ (domainWrite_writer h hwriter)⟩,
      fun hother => ⟨congrArg _ (domainWrite_other h hother), fun v => ⟨congrArg _ (domainWrite_other h hother),
        congrArg _ (domainWrite_other h hother), fun b => congrArg _ (domainWrite_other h hother)⟩⟩⟩
    case valid => rw [execTimDValidWrite_writer h hwriter, writeValid_powered hpowered]
    case off => rw [execTimDValidWrite_writer h hwriter, writeValid_off hoff]

end Sys2Proof.Machine
end

section
/-!
PROOFS. What time does by itself (spec/12): ticks (R332, R334), PPS edges (R340), the servo's messages and time-outs (R337, R339),
the edges of timer channels (R344) and the loss of AOCLK (R347).
-/

namespace Sys2Proof.Machine

variable {s : State}

/-- Outside early mode a tick moves the counters and applies the cue entries whose instant has come. -/
theorem execAoclkTick_ticks (hclock : ¬(blockState 0x10 s = 7 ∧ getF (PG_STAT_FAULT_CODE 0x10) s = 1))
    (hearly : earlyMode (tickSelected (tickDomains s)) = false) :
    execAoclkTick s = .next (each (List.range 4) cuesPaced (tickSelected (tickDomains s))) := by
  simp only [execAoclkTick, if_neg hclock, ifS, hearly, Bool.and_false, Bool.false_and, Bool.false_eq_true, if_false]

theorem execPpsInEdge_powered (h : s.pwr.vhv = true) : execPpsInEdge s = .next (capturePps s) := by
  rw [execPpsInEdge, ifS, if_pos h]

theorem execAnnounceTimeout_runs {d : Fin 2} (hruns : runs (0x11 + d.val) s = true) (htime : blockState 0x10 s ≠ 7) :
    execAnnounceTimeout d s = .next (loseMaster d.val s) := by
  simp only [execAnnounceTimeout, hruns, htime, ne_eq, not_false_eq_true, decide_true, Bool.and_self, if_true]

/-- The servo of a domain with a master hands a Delay_Req to the system queue of a port of its domain. -/
theorem execPtpDelayReqSend_sends {d : Fin 2} {p : Fin 5} {unicast : Bool} {u : State} (hon : isOn (0x11 + d.val) s = true)
    (hport : bitOf (getF (TIM_D_CFG_PORTS d.val) s) p.val = true) (hmaster : (s.dom d.val).gm.isSome = true)
    (hu : u = s.setDom d.val { s.dom d.val with seq := ((s.dom d.val).seq + 1) % 65536 }) :
    execPtpDelayReqSend d p unicast s =
      .next (sendSystem p.val (delayReqFrame d.val p.val (if unicast then masterAddr d.val u else none) u) u) := by
  subst hu
  simp only [execPtpDelayReqSend, hon, hport, hmaster, Bool.and_self, if_true]

/-- The earliest edge of a channel whose time has come. -/
def edgeDue (c : Nat) (s : State) : Option Nat :=
  earliest ((scheduled (s.timer c) ++ (s.timer c).cued).filter (fun t => reached t s))

theorem execTimerEdge_fires {ch : Fin 16} {t : Nat} (hedge : edgeDue ch.val s = some t) (hruns : runs 0x10 s = true) :
    execTimerEdge ch s = .next (fire ch.val t s) := by
  unfold edgeDue at hedge
  simp only [execTimerEdge, hedge, ifS, hruns, if_true]

theorem execTimerPulseEnd_ends {ch : Fin 16} {u : Nat} (hactive : (s.timer ch.val).activeUntil = some u)
    (hend : reached u s = true) : execTimerPulseEnd ch s =
      .next (s.setTimer ch.val { s.timer ch.val with activeUntil := none } |> emit (.tp ch.val (s.timer ch.val).set.pol)) := by
  simp only [execTimerPulseEnd, hactive, ifS, hend, if_true]

theorem execAoclkLoss_powered (h : s.pwr.vhv = true) :
    execAoclkLoss s = .next (aoclkGone (ifS (decide (getF (PG_STAT_STATE 0x10) s ≠ 7)) (blockFaults 0x10 1) s)) := by
  rw [execAoclkLoss, ifS, if_pos h]

/-! ## The commands -/

theorem exec_aoclkTick : exec .aoclkTick s = execAoclkTick s := rfl

theorem exec_ppsInEdge : exec .ppsInEdge s = execPpsInEdge s := rfl

theorem exec_announceTimeout (d : Fin 2) : exec (.announceTimeout d) s = execAnnounceTimeout d s := rfl

theorem exec_ptpDelayReqSend (d : Fin 2) (p : Fin 5) (unicast : Bool) :
    exec (.ptpDelayReqSend d p unicast) s = execPtpDelayReqSend d p unicast s := rfl

theorem exec_timerEdge (ch : Fin 16) : exec (.timerEdge ch) s = execTimerEdge ch s := rfl

theorem exec_timerPulseEnd (ch : Fin 16) : exec (.timerPulseEnd ch) s = execTimerPulseEnd ch s := rfl

theorem exec_aoclkLoss : exec .aoclkLoss s = execAoclkLoss s := rfl

/-- Settles O23: each happening has its effect in the state in which it is due. The servo at rest, the foreign masters that a
time-out keeps and the frame of a Delay_Req are IEEE 1588's by log 39. -/
theorem timeEventsComplete : Obligations.TimeEventsComplete := by
  unfold Obligations.TimeEventsComplete
  simp only [exec_aoclkTick, exec_ppsInEdge, exec_announceTimeout, exec_ptpDelayReqSend, exec_timerEdge, exec_timerPulseEnd,
    exec_aoclkLoss]
  refine ⟨fun s => execAoclkTick_ticks, fun s => execPpsInEdge_powered, fun d s => execAnnounceTimeout_runs, ?delayReq,
    fun c s t => execTimerEdge_fires, fun c s u => execTimerPulseEnd_ends, ?faults, ?faulted⟩
  case delayReq =>
    rintro d p unicast s u _ hon hport hmaster hu rfl
    exact execPtpDelayReqSend_sends hon hport hmaster hu
  case faults =>
    intro s hpowered hstate
    rw [execAoclkLoss_powered hpowered, ifS, if_pos (decide_eq_true hstate)]
  case faulted =>
    intro s hpowered hstate
    rw [execAoclkLoss_powered hpowered, ifS, if_neg (by simp [hstate])]

end Sys2Proof.Machine
end

section
/-!
PROOFS. Cue lists (spec/13): loads (R352, R358), stops (R365), presets (R357) and skipped entries (R363).
-/

namespace Sys2Proof.Machine

variable {s : State} {c : Cmd}

/-! ## Lists of state changes -/

theorem each_nil {α : Type} {f : α → State → State} : each [] f s = s := rfl

theorem each_one {α : Type} {a : α} {f : α → State → State} : each [a] f s = f a s := rfl

/-- Where every member of a list leaves the state, so does the list. -/
theorem each_of_keeps {α : Type} {l : List α} {f : α → State → State} (h : ∀ a ∈ l, ∀ t, f a t = t) : each l f s = s := by
  induction l with
  | nil => rfl
  | cons a r ih =>
    rw [each, List.foldl_cons, h a List.mem_cons_self]
    exact ih fun b hb => h b (List.mem_cons_of_mem _ hb)

/-- Where the members of a list but `a` leave the state, the list does what `a` does. -/
theorem each_of_mem {α : Type} {l : List α} {f : α → State → State} {a : α} (hnodup : l.Nodup) (hmem : a ∈ l)
    (hrest : ∀ b, b ≠ a → ∀ t, f b t = t) : each l f s = f a s := by
  obtain ⟨l₁, l₂, rfl⟩ := List.append_of_mem hmem
  have hsplit := List.nodup_middle.1 hnodup
  have hout : ∀ b ∈ l₁ ++ l₂, b ≠ a := fun b hb hba => (List.nodup_cons.1 hsplit).1 (hba ▸ hb)
  have hbefore : each l₁ f s = s := each_of_keeps fun b hb => hrest b (hout b (List.mem_append_left _ hb))
  have hafter : each l₂ f (f a s) = f a s := each_of_keeps fun b hb => hrest b (hout b (List.mem_append_right _ hb))
  calc each (l₁ ++ a :: l₂) f s = each l₂ f (f a (each l₁ f s)) := by simp [each]
    _ = f a s := by rw [hbefore, hafter]

/-! ## CUE_LOAD (R352, R358) -/

/-- Outside the activation pause a single load of a cycle is met alone, on the state in which it is marked as begun. -/
theorem execCueLoad_one (hpause : s.fwu.pause = false) (h : Served 0x30 c s) :
    execCueLoad [c] s = .next (loadCycle [c] (markStarted 0x30 c s)) := by
  simp only [execCueLoad, hpause, runTies_one h, Bool.false_eq_true, if_false]

theorem settleLoads_nil (l : Nat) : settleLoads l [] s = s := rfl

/-- A load that no other competes with is accepted, and the tie pointer stays. -/
theorem settleLoads_one : settleLoads (cueTarget (srcWords c s)) [c] s = acceptList c (srcWords c s) s := by
  have hsorted : tieSort 8 (getF CUE_TIE_PTR s) Cmd.idx [c] = [c] := rfl
  have hone : (requesters Cmd.idx [c]).length = 1 := rfl
  simp only [settleLoads, hsorted, hone, each_nil, ifS, Nat.not_ofNat_le_one, decide_false, Bool.false_eq_true, if_false,
    if_true]

/-- Where no load passes, none is settled. -/
theorem each_settleLoads_nil (l : List Nat) : each l (fun l => settleLoads l []) s = s := each_of_keeps fun _ _ _ => rfl

theorem loadPasses_iff : loadPasses c s = true ↔
    srcBad c s = false ∧ loadFits c s = true ∧ cueReason (c.idx % 8) (srcWords c s) s = 0 := by
  simp [loadPasses, and_assoc]

/-- A load that passes is left by its judge. -/
theorem judgeLoad_passes (h : loadPasses c s = true) : judgeLoad s c s = s := by
  obtain ⟨hsrc, hfits, hreason⟩ := loadPasses_iff.1 h
  simp only [judgeLoad, hsrc, hfits, hreason, Bool.false_eq_true, Bool.not_true, if_false, ne_eq, not_true_eq_false]

theorem judgeLoad_refuses {r : Nat} (hsrc : srcBad c s = false) (hfits : loadFits c s = true)
    (hr : r = cueReason (c.idx % 8) (srcWords c s) s) (hbad : r ≠ 0) : judgeLoad s c s = refuseList c (srcWords c s) r s := by
  simp only [judgeLoad, hsrc, hfits, ← hr, hbad, Bool.false_eq_true, Bool.not_true, if_false, ne_eq, not_false_eq_true, if_true]

/-- A load alone in its cycle that passes is accepted, whoever gives it. -/
theorem loadCycle_passes (h : loadPasses c s = true) (hlist : cueTarget (srcWords c s) < 8) :
    loadCycle [c] s = acceptList c (srcWords c s) s := by
  cases hwho : isFw c.who
  case true => simp only [loadCycle, hwho, List.filter_cons, List.filter_nil, each_settleLoads_nil, each_nil, each_one, loadOne, h, Bool.not_true, Bool.false_eq_true, if_false, if_true]
  case false =>
    have hothers : ∀ l, l ≠ cueTarget (srcWords c s) → ∀ t,
        settleLoads l ([c].filter (fun c => decide (cueTarget (srcWords c s) = l))) t = t := by
      intro l hl t
      rw [List.filter_cons_of_neg (by simpa using Ne.symm hl)]
      rfl
    have hsettled := each_of_mem (s := s) List.nodup_range (List.mem_range.2 hlist) hothers
    rw [List.filter_cons_of_pos (by simp), List.filter_nil, settleLoads_one] at hsettled
    have hrest : [c].filter (fun c => loadPasses c s) = [c] := List.filter_cons_of_pos h
    simpa only [loadCycle, hwho, List.filter_cons, List.filter_nil, Bool.not_false, Bool.false_eq_true, if_false, if_true, hrest, h,
      each_nil, each_one, judgeLoad_passes h] using hsettled

/-- A load alone in its cycle that its checks refuse is refused, whoever gives it. -/
theorem loadCycle_refuses {r : Nat} (hsrc : srcBad c s = false) (hfits : loadFits c s = true)
    (hr : r = cueReason (c.idx % 8) (srcWords c s) s) (hbad : r ≠ 0) : loadCycle [c] s = refuseList c (srcWords c s) r s := by
  have hfails : loadPasses c s = false := by
    rw [Bool.eq_false_iff, ne_eq, loadPasses_iff]
    rintro ⟨-, -, hzero⟩
    exact hbad (hr.trans hzero)
  cases hwho : isFw c.who <;>
    simp only [loadCycle, hwho, hfails, List.filter_cons, List.filter_nil, each_settleLoads_nil, each_nil, each_one, loadOne, judgeLoad_refuses hsrc hfits hr hbad, Bool.not_true, Bool.not_false, Bool.false_eq_true, if_false,
      if_true]

theorem loadFits_iff : loadFits c s = true ↔ c.src.len = 32 + 16 * fieldAt (srcWords c s) 0 12 0 := decide_eq_true_iff

/-! ## CUE_STOP (R365), CUE_PRESET (R357) and CUE_SKIP (R363) -/

/-- What a CUE_STOP that is met does to list `l`. -/
theorem execCueStop_served {l : Nat} (hpause : s.fwu.pause = false) (h : Served 0x31 c s) (hl : l = c.argF 0 2 0) :
    execCueStop c s = .next (if ((markStarted 0x31 c s).cueList l).state = 0 then answer 0x31 c DONE (markStarted 0x31 c s)
      else if ((markStarted 0x31 c s).cueList l).owner ≠ c.idx % 8 then answer 0x31 c NOT_OWNER (markStarted 0x31 c s)
      else freeList l (markStarted 0x31 c s) |> answer 0x31 c DONE) := by
  subst hl
  simp only [execCueStop, hpause, runCmd_served h, Bool.false_eq_true, if_false]

/-- A good record takes a preset that is free or its giver's; the firmware is partition 0's (log 7). -/
theorem execCuePreset_takes {i : Nat} {t : State} (ht : t = markStarted 0x32 c s) (h : Served 0x32 c s) (hsrc : SrcReads c 48 s)
    (hgood : winReason (srcWords c s) = 0) (hi : i = c.argF 0 7 0)
    (hfree : (FMap.get none t.cue.presets i).any (fun x => decide (x.owner ≠ c.idx % 8)) = false) :
    execCuePreset c s = .next ({ t with cue := { t.cue with
      presets := FMap.set none t.cue.presets i (some ⟨c.idx % 8, parseWin (srcWords c s)⟩) } } |> answer 0x32 c DONE) := by
  subst hi
  rw [execCuePreset, runCmd_served h, ← ht, withLen_reads (ht ▸ srcReads_started.2 hsrc), show srcWords c t = srcWords c s by simp [ht]]
  simp only [hgood, hfree, ne_eq, not_true_eq_false, Bool.false_eq_true, if_false]

theorem execCuePreset_refuses {t : State} (ht : t = markStarted 0x32 c s) (h : Served 0x32 c s) (hsrc : SrcReads c 48 s)
    (hbad : winReason (srcWords c s) ≠ 0) : execCuePreset c s = .next (asmRefuse 0x32 c 1 (winReason (srcWords c s)) t) := by
  rw [execCuePreset, runCmd_served h, ← ht, withLen_reads (ht ▸ srcReads_started.2 hsrc), show srcWords c t = srcWords c s by simp [ht]]
  simp only [hbad, ne_eq, not_false_eq_true, if_true]

theorem execCueSkip_due {l : Fin 8} {e : Nat × Nat} (hpause : s.fwu.pause = false) (h : skippable l.val s = some e) :
    execCueSkip l s = .next (skipEntry l.val e s) := by
  simp only [execCueSkip, hpause, h, Bool.false_eq_true, if_false]

/-! ## The commands -/

theorem exec_cueLoad (cs : List Cmd) : exec (.cueLoad cs) s = execCueLoad cs s := rfl

theorem exec_cueStop : exec (.cueStop c) s = execCueStop c s := rfl

theorem exec_cuePreset : exec (.cuePreset c) s = execCuePreset c s := rfl

theorem exec_cueSkip (l : Fin 8) : exec (.cueSkip l) s = execCueSkip l s := rfl

/-- Settles O24: outside the activation pause a load alone in its cycle is judged and accepted on the state in which it is marked
as begun, from the firmware as from a partition, which stands for partition 0 (log 7). A preset that R282 refuses is recorded as a
window's refusal by log 64. -/
theorem cueCommandsComplete : Obligations.CueCommandsComplete := by
  unfold Obligations.CueCommandsComplete
  simp only [exec_cueLoad, exec_cueStop, exec_cuePreset, exec_cueSkip]
  refine ⟨?accepted, ?refused, ?stop, fun c s t i => execCuePreset_takes, fun c s t => execCuePreset_refuses,
    fun l s e => execCueSkip_due⟩
  case accepted =>
    rintro c s _ hpause rfl hserved hsrc hlen hlist hok
    have hpasses : loadPasses c (markStarted 0x30 c s) = true :=
      loadPasses_iff.2 ⟨by simpa using hsrc, loadFits_iff.2 (by simpa using hlen), by simpa using hok⟩
    rw [execCueLoad_one hpause hserved, loadCycle_passes hpasses (by simpa using hlist), markStarted_srcWords]
  case refused =>
    rintro c s _ r hpause rfl hserved hsrc hlen hr hbad
    rw [execCueLoad_one hpause hserved,
      loadCycle_refuses (by simpa using hsrc) (loadFits_iff.2 (by simpa using hlen)) (by simpa using hr) hbad, markStarted_srcWords]
    rfl
  case stop =>
    rintro c s _ l hpause rfl hserved hl
    rw [execCueStop_served hpause hserved hl]
    exact ⟨fun hfree => by rw [if_pos hfree], fun htaken howner => by rw [if_neg htaken, if_neg (not_not_intro howner)]; rfl,
      fun htaken hother => by rw [if_neg htaken, if_pos hother]⟩

end Sys2Proof.Machine
end

section
/-!
PROOFS. Commands of the rim strip (spec/14): images are stored (R373), regions open, are set and close (R374, R375), updates are
offered (R376), band tables are loaded (R380) and copies asked for (R385).
-/

namespace Sys2Proof.Machine

variable {s t : State} {c : Cmd} {r : Nat}

/-! ## RIM_IMAGE_STORE (R373) -/

theorem rimImageStoreBody_stores {ws : List Word} {i : Nat} (hi : i = c.argF 0 7 0) (hcrc : crcWords (ws.take 288) = ws.getD 288 0)
    (hfree : FMap.get 0 s.rim.storeOwner i = 0 ∨ FMap.get 0 s.rim.storeOwner i = c.idx + 1) :
    rimImageStoreBody c ws s = ({ s with rim := { s.rim with
      store := FMap.set [] s.rim.store i (ws.take 288),
      storeOwner := FMap.set 0 s.rim.storeOwner i (c.idx + 1) } } |> answer 0x38 c DONE) := by
  subst hi
  rw [rimImageStoreBody, if_neg (not_not_intro hcrc), if_neg (by omega)]

theorem execRimImageStore_reads (h : Served 0x38 c s) (hsrc : SrcReads c 1156 s) :
    execRimImageStore c s = .next (rimImageStoreBody c (srcWords c s) (markStarted 0x38 c s)) := by
  rw [execRimImageStore, runCmd_served h, withLen_reads (srcReads_started.2 hsrc), markStarted_srcWords]

/-! ## Regions (R374, R375) -/

/-- A single RIM_REGION_OPEN of a cycle is met alone, on the state in which it is marked as begun. -/
theorem execRimRegionOpen_one (h : Served 0x39 c s) :
    execRimRegionOpen [c] s = .next (rimRegionOpenOne c (markStarted 0x39 c s)) := by
  rw [execRimRegionOpen, runTies_one h, serveTable_one]

/-- A good rectangle that meets no open region takes the lowest free region `r`. -/
theorem rimRegionOpenOne_opens {c0 c1 s0 s1 : Nat} (hc0 : c0 = c.argF 0 28 24) (hc1 : c1 = c.argF 0 20 16)
    (hs0 : s0 = c.argF 0 15 8) (hs1 : s1 = c.argF 0 7 0) (hc : c0 ≤ c1) (hc23 : c1 ≤ 23) (hs : s0 ≤ s1) (hs191 : s1 ≤ 191)
    (hapart : (List.range 16).any (fun r => rimOpen r s && rimOverlap (c0, c1, s0, s1) (rimRect r s)) = false)
    (hr : firstBelow 16 (fun r => !rimOpen r s) = some r) :
    rimRegionOpenOne c s = (s |> wr (RIM_RGN_STAT_STATE r).addr 0 |> setF (RIM_RGN_STAT_STATE r) 1
      |> setF (RIM_RGN_STAT_OWNER r) c.idx |> setF (RIM_RGN_RECT_C0 r) c0 |> setF (RIM_RGN_RECT_C1 r) c1
      |> setF (RIM_RGN_RECT_S0 r) s0 |> setF (RIM_RGN_RECT_S1 r) s1 |> finish 0x39 c DONE 0 r 0) := by
  have hbounds : ¬ (c1 < c0 ∨ 23 < c1 ∨ s1 < s0 ∨ 191 < s1) := by omega
  simp only [rimRegionOpenOne, ← hc0, ← hc1, ← hs0, ← hs1, if_neg hbounds, hapart, hr, Bool.false_eq_true, if_false]

/-- Region `r` is open and `c` comes from its owner or from the firmware, which is no other partition (log 7). -/
structure MayCommand (r : Nat) (c : Cmd) (s : State) : Prop where
  region : r = c.argF 0 3 0
  isOpen : rimOpen r s = true
  giver : c.idx = 8 ∨ getF (RIM_RGN_STAT_OWNER r) s = c.idx

/-- A region with no update queued takes the command. -/
theorem MayCommand.rimOwnerCmd_idle {op : Nat} {f : Nat → State → State} (h : MayCommand r c s) (hidle : s.rimQ r = []) :
    rimOwnerCmd op c f s = (s |> f r |> answer op c DONE) := by
  obtain ⟨rfl, hopen, hgiver⟩ := h
  have hforeign : ¬ (c.idx ≠ 8 ∧ getF (RIM_RGN_STAT_OWNER (c.argF 0 3 0)) s ≠ c.idx) := by tauto
  simp only [rimOwnerCmd, hopen, hidle, hforeign, decide_false, Bool.not_true, Bool.or_self, List.isEmpty_nil, Bool.false_eq_true,
    if_false]

theorem MayCommand.rimOwnerCmd_busy {op : Nat} {f : Nat → State → State} (h : MayCommand r c s) (hbusy : s.rimQ r ≠ []) :
    rimOwnerCmd op c f s = answer op c BUSY s := by
  obtain ⟨rfl, hopen, hgiver⟩ := h
  have hforeign : ¬ (c.idx ≠ 8 ∧ getF (RIM_RGN_STAT_OWNER (c.argF 0 3 0)) s ≠ c.idx) := by tauto
  have hqueue : (s.rimQ (c.argF 0 3 0)).isEmpty = false := List.isEmpty_eq_false_iff.2 hbusy
  simp only [rimOwnerCmd, hopen, hqueue, hforeign, decide_false, Bool.not_true, Bool.not_false, Bool.or_self, Bool.false_eq_true,
    if_false, if_true]

theorem execRimRegionSet_served (h : Served 0x3A c s) : execRimRegionSet c s = .next (rimOwnerCmd 0x3A c (fun r s =>
    s |> setF (RIM_RGN_STAT_CO_EN r) (c.argF 1 31 31) |> setF (RIM_RGN_STAT_CO_OWNER r) (c.argF 1 2 0)) (markStarted 0x3A c s)) := by
  rw [execRimRegionSet, runCmd_served h]

theorem execRimRegionClose_served (h : Served 0x3B c s) : execRimRegionClose c s =
    .next (rimOwnerCmd 0x3B c (fun r => wr (RIM_RGN_STAT_STATE r).addr 0) (markStarted 0x3B c s)) := by
  rw [execRimRegionClose, runCmd_served h]

/-! ## RIM_UPDATE (R376), RIM_BAND_LOAD (R380) and RIM_PERSIST (R385) -/

theorem execRimUpdate_starts (h : mayStart 0x3C c s = true) : execRimUpdate c s = .next (rimUpdateBody c (markStarted 0x3C c s)) :=
  congrArg _ (if_pos h)

theorem execRimBandLoad_reads (h : Served 0x3D c s) (hsrc : SrcReads c 132 s) :
    execRimBandLoad c s = .next (rimBandLoadBody c (srcWords c s) (markStarted 0x3D c s)) := by
  rw [execRimBandLoad, runCmd_served h, withLen_reads (srcReads_started.2 hsrc), markStarted_srcWords]

theorem rimBandLoadBody_owner {ws : List Word} (howner : isOwner c.who 0x180 s = true)
    (hok : bandTableOk (decide (getF RIM_CFG_INVERT s = 2)) ws = true) :
    rimBandLoadBody c ws s = ({ s with rim := { s.rim with bands := ws.take 32 } }
      |> setB RIM_STAT_NO_TABLE false |> fun u => ifS (getB RIM_TEMP_VALID u) (fun u => setB RIM_STAT_T_OUT (rimTOut u) u) u
      |> showInhibit |> answer 0x3D c DONE |> rimServe) := by
  simp only [rimBandLoadBody, howner, hok, Bool.not_true, Bool.false_eq_true, if_false]

theorem execRimPersist_served (h : Served 0x3E c s) : execRimPersist c s =
    .next { markStarted 0x3E c s with rim := { (markStarted 0x3E c s).rim with
      persist := (markStarted 0x3E c s).rim.persist ++ [refOf 0x3E c] } } := by
  rw [execRimPersist, runCmd_served h]

/-! ## The commands -/

theorem exec_rimImageStore : exec (.rimImageStore c) s = execRimImageStore c s := rfl

theorem exec_rimRegionOpen (cs : List Cmd) : exec (.rimRegionOpen cs) s = execRimRegionOpen cs s := rfl

theorem exec_rimRegionSet : exec (.rimRegionSet c) s = execRimRegionSet c s := rfl

theorem exec_rimRegionClose : exec (.rimRegionClose c) s = execRimRegionClose c s := rfl

theorem exec_rimUpdate : exec (.rimUpdate c) s = execRimUpdate c s := rfl

theorem exec_rimBandLoad : exec (.rimBandLoad c) s = execRimBandLoad c s := rfl

theorem exec_rimPersist : exec (.rimPersist c) s = execRimPersist c s := rfl

/-- Settles O25: each command is its body on the state in which it is marked as begun; a region's owner and, by log 7, the firmware
may set and close it. -/
theorem rimCommandsComplete : Obligations.RimCommandsComplete := by
  unfold Obligations.RimCommandsComplete
  simp only [exec_rimImageStore, exec_rimRegionOpen, exec_rimRegionSet, exec_rimRegionClose, exec_rimUpdate, exec_rimBandLoad,
    exec_rimPersist]
  refine ⟨?store, ?opened, ?set, ?closed, ?update, ?bands, ?persist⟩
  case store =>
    rintro c s _ i rfl hserved hsrc hi hcrc hfree
    rw [execRimImageStore_reads hserved hsrc, rimImageStoreBody_stores hi hcrc hfree]
  case opened =>
    rintro c s _ c0 c1 s0 s1 r rfl hserved rfl rfl rfl rfl hc hc1 hs hs1 hapart hr
    rw [execRimRegionOpen_one hserved, rimRegionOpenOne_opens rfl rfl rfl rfl hc hc1 hs hs1 hapart hr]
  case set =>
    rintro c s _ r rfl hserved hr hopen hgiver
    rw [execRimRegionSet_served hserved]
    have h : MayCommand r c (markStarted 0x3A c s) := ⟨hr, hopen, hgiver⟩
    exact ⟨fun hidle => congrArg _ (h.rimOwnerCmd_idle hidle), fun hbusy => congrArg _ (h.rimOwnerCmd_busy hbusy)⟩
  case closed =>
    rintro c s _ r rfl hserved hr hopen hgiver
    rw [execRimRegionClose_served hserved]
    have h : MayCommand r c (markStarted 0x3B c s) := ⟨hr, hopen, hgiver⟩
    exact ⟨fun hidle => congrArg _ (h.rimOwnerCmd_idle hidle), fun hbusy => congrArg _ (h.rimOwnerCmd_busy hbusy)⟩
  case update =>
    rintro c s _ rfl hstarts
    exact execRimUpdate_starts hstarts
  case bands =>
    rintro c s _ rfl hserved hsrc howner hok
    rw [execRimBandLoad_reads hserved hsrc, rimBandLoadBody_owner howner hok]
  case persist =>
    rintro c s _ rfl hserved
    exact execRimPersist_served hserved

end Sys2Proof.Machine
end

section
/-!
PROOFS. What the rim strip does by itself (spec/14): offers are judged (R376, R377), lines end (R378, R379), the boost moves (R382),
the converter reads (R381), copies are written (R385) and the strip is restored (R386).
-/

namespace Sys2Proof.Machine

variable {s u : State} {r c : Nat} {ws : List Word}

/-! ## The end of a line (R378, R379, R386) -/

theorem execCommonLineComplete_driving (h : s.rim.line = some (r, c)) :
    execCommonLineComplete s = .next (finishLine s |> rimServe) := by
  simp only [execCommonLineComplete, h, Option.isSome_some, if_true]

/-- The line `(r, c)` being driven is committed: the state before its region or the restore goes on. -/
def lineCommitted (r c : Nat) (s : State) : State :=
  commitLine c (lineWords r c s) { s with rim := { s.rim with line := none } } |> setF RIM_STAT_LINE 31

theorem finishLine_restore (h : s.rim.line = some (16, c)) : finishLine s = restoreLineDone (lineCommitted 16 c s) := by
  simp only [finishLine, h, lineCommitted, if_true]

/-- A line of region `r` ends: the update is done with the last common of the region, else the next common is its next. -/
theorem finishLine_region (h : s.rim.line = some (r, c)) (hr : r < 16) (hu : u = lineCommitted r c s) :
    finishLine s = if (rimRect r { u with rim := { u.rim with served := r } }).2.1 ≤ c
      then updateDone r { u with rim := { u.rim with served := r } }
      else { u with rim := { u.rim with served := r, nextCom := FMap.set 0 u.rim.nextCom r (c + 1) } } |> showRimQ r := by
  subst hu
  rw [finishLine, h]
  exact if_neg (show r ≠ 16 by omega)

/-! ## The boost (R382) -/

theorem execBoostReady_on (h : getB RIM_STAT_BOOST_ON s = true) :
    execBoostReady s = .next ({ s with rim := { s.rim with boostUp := true } } |> rimServe) := congrArg _ (if_pos h)

theorem execBoostIdleTimeout_idle (hidle : rimBusy s = false) (hline : s.rim.line = none) (hrestore : s.rim.restore = none) :
    execBoostIdleTimeout s = .next ({ s with rim := { s.rim with boostUp := false } } |> setB RIM_STAT_BOOST_ON false) := by
  simp only [execBoostIdleTimeout, hidle, hline, hrestore, Option.isSome_none, Bool.or_self, Bool.false_eq_true, if_false]

/-! ## Conversions (R381) -/

/-- The converter's voltages are shown, and what was asked of it is done. -/
def voltagesShown (x : Conversion) (s : State) : State :=
  { s with rim := { s.rim with convAsked := false } } |> setF RIM_VSUP_VHV x.vhv |> setF RIM_VSUP_VHOLD x.vhold
    |> setF RIM_VRIM_VRIM x.vrim

theorem execConverterConversion_valid {x : Conversion} (hlow : 41 ≤ x.ntc) (hhigh : x.ntc ≤ 4055) :
    execConverterConversion x s = .next (voltagesShown x s |> setB RIM_TEMP_VALID true |> putStripTemp x.ntc
      |> fun v => setB RIM_STAT_T_OUT (rimTOut v) v |> showInhibit |> rimServe) := by
  simp only [execConverterConversion, hlow, hhigh, decide_true, Bool.and_self, ifS, if_true, voltagesShown]

theorem execConverterConversion_invalid {x : Conversion} (h : x.ntc < 41 ∨ 4055 < x.ntc) :
    execConverterConversion x s = .next (voltagesShown x s |> setB RIM_TEMP_VALID false
      |> fun v => setB RIM_STAT_T_OUT (rimTOut v) v |> showInhibit |> rimServe) := by
  have hvalid : (decide (41 ≤ x.ntc) && decide (x.ntc ≤ 4055)) = false := by
    simp only [Bool.and_eq_false_iff, decide_eq_false_iff_not]
    omega
  simp only [execConverterConversion, hvalid, ifS, Bool.false_eq_true, if_false, voltagesShown]

/-! ## Copies (R385, R386) -/

/-- The first copy has SEQ 1 (log 65). -/
theorem execRimPersistWrite_first (hmay : mayPersist s = true) (hnone : newestCopy s = none) :
    execRimPersistWrite s = .next { s with rim := { s.rim with
      persist := [], lastWrite := some (now s),
      writing := some (false, ⟨committedImage s, Word.ofNat 1, getB RIM_CFG_LEVELS s, true⟩, s.rim.persist) } } := by
  simp only [execRimPersistWrite, hmay, hnone, Bool.not_true, Bool.false_eq_true, if_false]

theorem execRimPersistWrite_next {b : Bool} {k : RimCopy} (hmay : mayPersist s = true) (hk : newestCopy s = some (b, k)) :
    execRimPersistWrite s = .next { s with rim := { s.rim with
      persist := [], lastWrite := some (now s),
      writing := some (!b, ⟨committedImage s, Word.ofNat (k.seq.toNat + 1), getB RIM_CFG_LEVELS s, true⟩, s.rim.persist) } } := by
  simp only [execRimPersistWrite, hmay, hk, Bool.not_true, Bool.false_eq_true, if_false]

theorem execPersisted_intact {b : Bool} {k : RimCopy} {cmds : List CmdRef} (h : s.rim.writing = some (b, k, cmds)) :
    execPersisted true s = .next ({ s with rim := { s.rim with
        writing := none, copyA := if b then s.rim.copyA else some { k with valid := true },
        copyB := if b then some { k with valid := true } else s.rim.copyB } }
      |> setF RIM_PSEQ k.seq.toNat |> raise 0x180 8 |> fun t => each cmds (fun r => complete true r DONE 0 0 0) t) := by
  cases b <;> simp only [execPersisted, h, Bool.not_true, Bool.false_eq_true, if_false, if_true]

/-- A write that was cut off leaves a copy that is not valid, and its commands wait for the next. -/
theorem execPersisted_cut {b : Bool} {k : RimCopy} {cmds : List CmdRef} (h : s.rim.writing = some (b, k, cmds)) :
    execPersisted false s = .next { s with rim := { s.rim with
        writing := none, persist := cmds ++ s.rim.persist, copyA := if b then s.rim.copyA else some { k with valid := false },
        copyB := if b then some { k with valid := false } else s.rim.copyB } } := by
  cases b <;> simp only [execPersisted, h, Bool.not_false, Bool.false_eq_true, if_false, if_true]

theorem execRimRestore_blank (hdone : s.rim.restoreDone = false) (hon : isOn 0x180 s = true)
    (hallowed : getB RIM_STAT_INHIBIT s = false) (hnone : newestCopy s = none) :
    execRimRestore s = .next ({ s with rim := { s.rim with
      restore := some (List.range 24, [], false), restoreDone := true, invert := getF RIM_CFG_INVERT s } } |> rimServe) := by
  simp only [execRimRestore, hdone, hon, hallowed, hnone, Bool.not_true, Bool.or_self, Bool.false_eq_true, if_false,
    Option.isSome_none]

theorem execRimRestore_copy {b : Bool} {k : RimCopy} (hdone : s.rim.restoreDone = false) (hon : isOn 0x180 s = true)
    (hallowed : getB RIM_STAT_INHIBIT s = false) (hk : newestCopy s = some (b, k))
    (hu : u = (s |> setB RIM_CFG_LEVELS k.levels |> setF RIM_PSEQ k.seq.toNat)) :
    execRimRestore s = .next ({ u with rim := { u.rim with
      restore := some (List.range 24, k.image, true), restoreDone := true, invert := getF RIM_CFG_INVERT u } } |> rimServe) := by
  subst hu
  simp only [execRimRestore, hdone, hon, hallowed, hk, Bool.not_true, Bool.or_self, Bool.false_eq_true, if_false,
    Option.isSome_some]

/-! ## The commands -/

theorem exec_rimArbiterTick : exec .rimArbiterTick s = execRimArbiterTick s := rfl

theorem exec_commonLineComplete : exec .commonLineComplete s = execCommonLineComplete s := rfl

theorem exec_boostReady : exec .boostReady s = execBoostReady s := rfl

theorem exec_boostIdleTimeout : exec .boostIdleTimeout s = execBoostIdleTimeout s := rfl

theorem exec_converterConversion (x : Conversion) : exec (.converterConversion x) s = execConverterConversion x s := rfl

theorem exec_rimPersistWrite : exec .rimPersistWrite s = execRimPersistWrite s := rfl

theorem exec_persisted (intact : Bool) : exec (.persisted intact) s = execPersisted intact s := rfl

theorem exec_rimRestore : exec .rimRestore s = execRimRestore s := rfl

/-- Settles O26: each happening has its effect in the state in which it is due. That the first copy has SEQ 1 is log 65; the
commands of a write that was cut off go on waiting, since no copy has been written for them. -/
theorem rimEventsComplete : Obligations.RimEventsComplete := by
  unfold Obligations.RimEventsComplete
  simp only [exec_rimArbiterTick, exec_commonLineComplete, exec_boostReady, exec_boostIdleTimeout, exec_converterConversion,
    exec_rimPersistWrite, exec_persisted, exec_rimRestore]
  refine ⟨fun s => rfl, ?line, ?restoreLine, fun s => execBoostReady_on, fun s => execBoostIdleTimeout_idle, ?conversion,
    fun s hmay => ⟨execRimPersistWrite_first hmay, fun b k => execRimPersistWrite_next hmay⟩,
    fun s k cmds b h => ⟨execPersisted_intact h, execPersisted_cut h⟩,
    fun s hdone hon hallowed => ⟨execRimRestore_blank hdone hon hallowed, fun b k u => execRimRestore_copy hdone hon hallowed⟩⟩
  case line =>
    rintro s r c _ u hline hr rfl hu
    rw [execCommonLineComplete_driving hline, finishLine_region hline hr hu]
    exact ⟨fun hlast => by rw [if_pos hlast], fun hmore => by rw [if_neg (Nat.not_le.2 hmore)]⟩
  case restoreLine =>
    rintro s c _ _ hline rfl rfl
    rw [execCommonLineComplete_driving hline, finishLine_restore hline]
    rfl
  case conversion =>
    rintro x s _ rfl
    exact ⟨execConverterConversion_valid, execConverterConversion_invalid⟩

end Sys2Proof.Machine
end

section
/-!
PROOFS. Frames of the calibration cameras (spec/15): frames start (R392), take lines (R393) and end (R393, R400), outputs are written
(R403, R404), triggers end (R394), and sensors and outputs are enabled (R391, R404, R408).
-/

namespace Sys2Proof.Machine

variable {s t : State} {who : Who} {p : Fin 2} {k : Nat} {f : CamFrame}

/-! ## Frames (R391–R393) -/

theorem execCsiFrameStart_enabled {vc num : Nat} (hon : isOn (0x160 + p.val) s = true) (hk : sensorOf p.val vc s = some k) :
    execCsiFrameStart p vc num s = .next (startCamFrame k num s) := by
  simp only [execCsiFrameStart, hon, hk, Bool.not_true, Bool.false_eq_true, if_false]

/-- A good line of the open frame, as long as configured, joins it. -/
theorem takeLine_good {l : CsiLineIn} (hroom : f.lines.length < getF (CAM_S_SIZE_H k) s) (hover : l.overrun = false)
    (hcrc : l.crcOk = true) (hecc : l.eccBad = false) (hlen : l.samples.length = getF (CAM_S_SIZE_W k) s) :
    takeLine k l f s = s.setSensor k { s.sensor k with
      frame := some { f with received := f.received + 1, lines := f.lines ++ [l.samples] } } := by
  unfold takeLine
  rw [if_neg (Nat.not_le.2 hroom), if_neg (ne_true_of_eq_false hover), if_neg (by simp [hcrc, hecc]), if_neg (not_not_intro hlen)]

/-- A line without errors, of the channel and data type of a sensor with an open frame, reaches it. -/
theorem execCsiLine_clean {l : CsiLineIn} (hruns : runs (0x160 + p.val) s = true) (hphy : l.phyError = false) (hcrc : l.crcOk = true)
    (hecc : l.eccBad = false) (hk : sensorOf p.val l.vc s = some k)
    (hdt : l.dt = if getB (CAM_S_CFG_RAW12 k) s then 0x2C else 0x2B) (hf : (s.sensor k).frame = some f) :
    execCsiLine p l s = .next (takeLine k l f s) := by
  simp only [execCsiLine, hruns, hphy, hcrc, hecc, hk, hf, ← hdt, ifS, Bool.not_true, Bool.or_self, Bool.false_eq_true, if_false,
    ne_eq, not_true_eq_false]

theorem execCsiFrameEnd_open {vc : Nat} (hruns : runs (0x160 + p.val) s = true) (hk : sensorOf p.val vc s = some k)
    (hf : (s.sensor k).frame = some f) : execCsiFrameEnd p vc s = .next (endFrame k f s) := by
  simp only [execCsiFrameEnd, hruns, hk, hf, Bool.not_true, Bool.false_eq_true, if_false]

/-! ## Outputs (R403, R404) -/

variable {o : Fin 8}

/-- The frame due at output `o` is taken. -/
def dueTaken (o : Nat) (s : State) : State := { s with cam := { s.cam with due := FMap.set none s.cam.due o none } }

/-- Output `o` writes frame `f` to buffer `b` and shows it. -/
def outputWritten (o b : Nat) (f : CamFrame) (s : State) : State :=
  s |> writeOutput o (outAddr o b s) (pipeline f)
    |> setF (CAM_O_STAT_LAST_BUF o) b |> setF (CAM_O_STAT_FLAGS o) f.flags |> setF (CAM_O_STAT_VALID o) 1
    |> setF (CAM_O_FCOUNT o) f.fcount |> orF CAM_O_CAUSE_DONE (2 ^ o) |> refreshCam

/-- What output `o` offers for capture: frame `f` in buffer `b`. -/
def outputCapture (o b : Nat) (f : CamFrame) (s : State) : Capture where
  index := 0
  pt := (f.stamp : Int)
  addr := outAddr o b s
  planeBuf := none
  camBuf := some (o, b)
  pitch := outPitch o s
  srcW := outW o s
  srcH := outH o s
  concealed := false
  incomplete := false
  done := false
  y := []
  cb := []
  cr := []

/-- A frame due is written to the next free buffer, and offered for capture where it is YC420. -/
theorem execCamOutputComplete_free {b : Nat} (hdue : FMap.get none s.cam.due o.val = some f) (ht : t = dueTaken o.val s)
    (hb : nextOutBuf o.val t = some b) : execCamOutputComplete o s = .next
      (if outYc o.val t = true then takePicture 1 o.val none (outputCapture o.val b f t) (outputWritten o.val b f t)
      else wrongFormat o.val (outputWritten o.val b f t)) := by
  subst ht
  unfold dueTaken at hb
  simp only [execCamOutputComplete, hdue, hb]
  rfl

/-- Without a free buffer the frame is dropped. -/
theorem execCamOutputComplete_full (hdue : FMap.get none s.cam.due o.val = some f) (ht : t = dueTaken o.val s)
    (hb : nextOutBuf o.val t = none) : execCamOutputComplete o s = .next (t |> orF CAM_O_CAUSE_DROP (2 ^ o.val) |> refreshCam) := by
  subst ht
  unfold dueTaken at hb
  simp only [execCamOutputComplete, hdue, hb]
  rfl

/-! ## Triggers (R394) and enables (R391, R404, R408) -/

theorem execCamTrigPulseEnd_ends {u : Nat} (hu : FMap.get none s.cam.trig p.val = some u) (hend : reached u s = true) :
    execCamTrigPulseEnd p s = .next (setTrig p.val none s) := by
  simp only [execCamTrigPulseEnd, hu, ifS, hend, if_true]

theorem execCamSensorEnable_owner {e : Fin 8} (v : Word) (h : OwnerAccepted who 0x160 s) :
    execCamSensorEnable who e v s = .next (writeSensorCfg e.val v.toNat s) := congrArg _ (guardWrite_owner h)

variable {v : Nat}

/-- An entry that is enabled on a channel no other names, takes its configuration. -/
theorem writeSensorCfg_free (hoff : getB (CAM_S_CFG_EN k) s = false) (hfree : sensorOf (bitsOf v 30 30) (bitsOf v 29 26) s = none) :
    writeSensorCfg k v s = wr (0x160400 + 0x40 * k) (Word.ofNat (v / 2 ^ 12 * 2 ^ 12)) s := by
  unfold writeSensorCfg
  rw [hoff, hfree, Option.isSome_none, Bool.and_false, if_neg Bool.false_ne_true]
  exact if_neg Bool.false_ne_true

theorem writeSensorCfg_clash {k' : Nat} (hoff : getB (CAM_S_CFG_EN k) s = false) (hen : bitOf v 31 = true)
    (hclash : sensorOf (bitsOf v 30 30) (bitsOf v 29 26) s = some k') : writeSensorCfg k v s = portCause (bitsOf v 30 30) 6 s := by
  unfold writeSensorCfg
  rw [hoff, hen, hclash, Option.isSome_some, Bool.and_true, if_neg Bool.false_ne_true]
  exact if_pos rfl

theorem execCamOutputEnable_owner (v : Word) (h : OwnerAccepted who 0x160 s) :
    execCamOutputEnable who o v s = .next (writeOutputCfg o.val v.toNat s) := congrArg _ (guardWrite_owner h)

variable {i : Nat}

theorem writeOutputCfg_off (hon : getB (CAM_O_CFG_EN i) s = true) (hoff : bitOf v 31 = false) :
    writeOutputCfg i v s = (dueTaken i s |> setF (CAM_O_CFG_EN i) 0) := by
  unfold writeOutputCfg
  rw [if_pos hon, if_neg (ne_true_of_eq_false hoff)]
  rfl

theorem writeOutputCfg_on (hoff : getB (CAM_O_CFG_EN i) s = false) (hgood : badOutput i (bitsOf v 30 28) s = false) :
    writeOutputCfg i v s = (s |> setF (CAM_O_CFG_SENSOR i) (bitsOf v 30 28)
      |> setF (CAM_O_CFG_FMT i) (bitsOf v 27 27) |> setF (CAM_O_CFG_CONV i) (bitsOf v 26 26)
      |> setF (CAM_O_CFG_NBUF i) (clampN (v % 16) 2 8) |> setF (CAM_O_CFG_EN i) (bitsOf v 31 31)) := by
  unfold writeOutputCfg
  rw [if_neg (ne_true_of_eq_false hoff), hgood, Bool.and_false, if_neg Bool.false_ne_true]

/-! ## The commands -/

theorem exec_csiFrameStart (vc num : Nat) : exec (.csiFrameStart p vc num) s = execCsiFrameStart p vc num s := rfl

theorem exec_csiLine (l : CsiLineIn) : exec (.csiLine p l) s = execCsiLine p l s := rfl

theorem exec_csiFrameEnd (vc : Nat) : exec (.csiFrameEnd p vc) s = execCsiFrameEnd p vc s := rfl

theorem exec_camOutputComplete : exec (.camOutputComplete o) s = execCamOutputComplete o s := rfl

theorem exec_camTrigPulseEnd : exec (.camTrigPulseEnd p) s = execCamTrigPulseEnd p s := rfl

theorem exec_camSensorEnable (e : Fin 8) (v : Word) : exec (.camSensorEnable who e v) s = execCamSensorEnable who e v s := rfl

theorem exec_camOutputEnable (v : Word) : exec (.camOutputEnable who o v) s = execCamOutputEnable who o v s := rfl

/-- Settles O27: each happening has its effect in the state in which it is due, and a write of the owner is its effect, the enable
of an output that of R408. That an output disabled with a frame due writes it no more follows from R404: the frame is taken from it. -/
theorem cameraFramesComplete : Obligations.CameraFramesComplete := by
  unfold Obligations.CameraFramesComplete
  simp only [exec_csiFrameStart, exec_csiLine, exec_csiFrameEnd, exec_camOutputComplete, exec_camTrigPulseEnd, exec_camSensorEnable,
    exec_camOutputEnable]
  refine ⟨fun p vc num s k => execCsiFrameStart_enabled, ?line, fun p vc s k f => execCsiFrameEnd_open, ?written,
    fun o s f t => execCamOutputComplete_full, fun p s u => execCamTrigPulseEnd_ends, ?sensor, ?output⟩
  case line =>
    intro p l s k f hruns hphy hcrc hecc hover hk hdt hf hroom hlen
    rw [execCsiLine_clean hruns hphy hcrc hecc hk hdt hf, takeLine_good hroom hover hcrc hecc hlen]
  case written =>
    rintro o s f t b _ hdue ht hb rfl
    rw [execCamOutputComplete_free hdue ht hb]
    exact ⟨fun hyc => congrArg _ (if_pos hyc), fun hrgb => congrArg _ (if_neg (ne_true_of_eq_false hrgb))⟩
  case sensor =>
    intro who k v s h hoff
    rw [execCamSensorEnable_owner v h]
    exact ⟨fun _ hfree => congrArg _ (writeSensorCfg_free hoff hfree), fun k' hen hk' => congrArg _ (writeSensorCfg_clash hoff hen hk')⟩
  case output =>
    intro who o v s h
    rw [execCamOutputEnable_owner v h]
    exact ⟨fun hon hoff => congrArg _ (writeOutputCfg_off hon hoff), fun hoff _ hgood => congrArg _ (writeOutputCfg_on hoff hgood)⟩

end Sys2Proof.Machine
end

section
/-!
PROOFS. Commands of the calibration cameras (spec/15): I3C transfers (R390), exposure sets (R395–R397), defects and tones (R398) and
windows (R402).
-/

namespace Sys2Proof.Machine

variable {s t : State} {c : Cmd} {op : Nat}

/-- The cameras take commands from the owner of page 0x160 (R405). -/
theorem camOwned_owner {f : State → State} (h : isOwner c.who 0x160 s = true) : camOwned op c f s = f s := if_pos h

/-! ## I3C (R390) -/

theorem execCamI3c_served (h : Served 0x40 c s) (ht : t = markStarted 0x40 c s) (howner : isOwner c.who 0x160 t = true) :
    execCamI3c c s = .next (
      if 256 < (if decide (c.argF 0 30 30 = 1) then c.dst.len else c.src.len) ∨
        (c.argF 0 31 31 = 1 ∧ cccSupported.contains (c.argF 0 7 0) = false) then answer 0x40 c BAD_ARGUMENT t
      else if decide (c.argF 0 30 30 = 1) then
        t.setI3cq (c.argF 0 16 16) (t.i3cq (c.argF 0 16 16) ++ [⟨c, [], false, false⟩]) |> busNext (c.argF 0 16 16)
      else if srcBad c t then abortOperand 0x40 c t
      else t.setI3cq (c.argF 0 16 16) (t.i3cq (c.argF 0 16 16) ++ [⟨c, srcBytes c t, false, false⟩])
        |> busNext (c.argF 0 16 16)) := by
  rw [execCamI3c, runCmd_served h, ← ht, camOwned_owner howner]

variable {p : Fin 2} {data : List Byte} {h : I3c} {r : List I3c}

/-- The bus of port `p` carries transfer `h`, before the transfers `r`. -/
structure Carries (p : Nat) (h : I3c) (r : List I3c) (s : State) : Prop where
  runs : runs (0x160 + p) s = true
  queue : s.i3cq p = h :: r
  running : h.running = true

/-- The bytes of transfer `h` have been driven on the bus of port `p`. -/
def transferSent (p : Nat) (h : I3c) (s : State) : State := emit (.i3c p [Word.ofNat (h.cmd.arg 0)] h.bytes) s

theorem Carries.write_done (hc : Carries p.val h r s) (ht : t = transferSent p.val h s) (hwrite : h.cmd.argF 0 30 30 = 0) :
    execI3cTransferDone p true data s = .next (t.setI3cq p.val r |> answer 0x40 h.cmd DONE |> busNext p.val) := by
  obtain ⟨hruns, hq, hrun⟩ := hc
  subst ht
  simp only [execI3cTransferDone, hruns, hq, hrun, hwrite, Bool.not_true, Bool.false_eq_true, Bool.true_eq_false, if_false,
    zero_ne_one, decide_false, Bool.false_and]
  rfl

theorem Carries.read_done (hc : Carries p.val h r s) (ht : t = transferSent p.val h s) (hread : h.cmd.argF 0 30 30 = 1)
    (hdst : dstBad h.cmd t = false) : execI3cTransferDone p true data s =
      .next (t.setI3cq p.val r |> memWrite (opSpace h.cmd h.cmd.dst t) h.cmd.dst.addr (data.take h.cmd.dst.len)
        |> finish 0x40 h.cmd DONE 0 (data.take h.cmd.dst.len).length 0 |> busNext p.val) := by
  obtain ⟨hruns, hq, hrun⟩ := hc
  subst ht
  unfold transferSent at hdst
  simp only [execI3cTransferDone, hruns, hq, hrun, hread, hdst, Bool.not_true, Bool.false_eq_true, Bool.true_eq_false, if_false,
    decide_true, Bool.and_false, if_true]
  rfl

/-- A first NACK has the transfer sent again. -/
theorem Carries.nack_first (hc : Carries p.val h r s) (ht : t = transferSent p.val h s) (hfirst : h.retried = false) :
    execI3cTransferDone p false data s = .next (t.setI3cq p.val ({ h with retried := true } :: r)) := by
  obtain ⟨hruns, hq, hrun⟩ := hc
  subst ht
  simp only [execI3cTransferDone, hruns, hq, hrun, hfirst, Bool.not_true, Bool.not_false, Bool.false_eq_true, Bool.true_eq_false,
    if_false, if_true]
  rfl

theorem Carries.nack_second (hc : Carries p.val h r s) (ht : t = transferSent p.val h s) (hsecond : h.retried = true) :
    execI3cTransferDone p false data s =
      .next (t.setI3cq p.val r |> portCause p.val 3 |> answer 0x40 h.cmd ABORTED |> busNext p.val) := by
  obtain ⟨hruns, hq, hrun⟩ := hc
  subst ht
  simp only [execI3cTransferDone, hruns, hq, hrun, hsecond, Bool.not_true, Bool.not_false, Bool.false_eq_true, Bool.true_eq_false,
    if_false, if_true]
  rfl

theorem execI3cIbi_on {addr : Nat} {payload : List Byte} (hon : isOn (0x160 + p.val) s = true) : execI3cIbi p addr payload s =
    .next (s |> setF (CAM_P_IBI p.val) (beNat ((payload.take 4) ++ List.replicate (4 - payload.length) 0))
      |> setF (CAM_P_IBI_ADDR_ADDR p.val) addr |> portCause p.val 5) := by
  simp only [execI3cIbi, hon, Bool.not_true, Bool.false_eq_true, if_false]

/-! ## Exposure sets (R395–R397) -/

/-- The sets of target `x` that wait at sensor `k` have given way to a newer one. -/
def setsCoalesced (k x : Nat) (s : State) : State :=
  each ((s.sensor k).sets.filter (fun e => decide (e.target = x) && !e.started)) (fun e => complete true e.cmd COALESCED 0 0 0)
    (s.setSensor k { s.sensor k with sets := (s.sensor k).sets.filter (fun e => decide (e.target ≠ x) || e.started) })

/-- The exposure set of record `ws`, in the slot that the queued sets `u` of sensor `k` leave it. -/
def newSet (c : Cmd) (ws : List Word) (u : State) : ExpSet where
  cmd := refOf 0x41 c
  id := fieldAt ws 1 31 16
  w16 := decide (fieldAt ws 1 0 0 = 1)
  target := wordAt ws 2
  writes := (List.range (fieldAt ws 0 4 0)).map (fun i => (fieldAt ws (3 + i) 31 16, fieldAt ws (3 + i) 15 0))
  slot := (slotFor (fieldAt ws 0 23 21) (wordAt ws 2) u).1
  missed := (slotFor (fieldAt ws 0 23 21) (wordAt ws 2) u).2
  started := false

/-- A good record for an enabled sensor with room joins its sets. -/
theorem execCamExpset_queues {ws : List Word} {k : Nat} {u : State} (hserved : Served 0x41 c s) (ht : t = markStarted 0x41 c s)
    (howner : isOwner c.who 0x160 t = true) (hsrc : srcBad c t = false) (hws : ws = srcWords c t) (hk : k = fieldAt ws 0 23 21)
    (hgood : badSet ws = false) (hen : getB (CAM_S_CFG_EN k) t = true) (hu : u = setsCoalesced k (wordAt ws 2) t)
    (hroom : (u.sensor k).sets.length < 16) : execCamExpset c s =
      .next (u.setSensor k { u.sensor k with sets := (u.sensor k).sets ++ [newSet c ws u] }
        |> ifS (slotFor k (wordAt ws 2) u).2 (missSlot k) |> showSensor k |> busNext (getF (CAM_S_CFG_PORT k) u)) := by
  rw [execCamExpset, runCmd_served hserved, ← ht, camOwned_owner howner, withSrc_reads hsrc, ← hws]
  subst hk hu
  rw [if_neg (ne_true_of_eq_false hgood), if_neg (by simp [hen])]
  exact congrArg _ (if_neg (Nat.not_le.2 hroom))

variable {k : Fin 8} {e : ExpSet}

/-- The writes of set `e` have been sent, or one had two NACKs: the set leaves the queue. -/
def setSent (k : Nat) (e : ExpSet) (ack : Bool) (s : State) : State :=
  sendSet (getF (CAM_S_CFG_PORT k) s) k e ack s
    |> State.setSensor k { s.sensor k with
      sets := dropFirst (fun y => y.started) (s.sensor k).sets,
      applied := (s.sensor k).applied ++ [((e.slot + getF (CAM_S_CFG_LATENCY k) s) % 2 ^ 32, e.id, !ack)] }
    |> showSensor k

theorem execExpsetWritten_acked (he : (s.sensor k.val).sets.find? (fun e => e.started) = some e) :
    execExpsetWritten k true s = .next (setSent k.val e true s |> complete true e.cmd (if e.missed then TOO_LATE else DONE) 0 0 0
      |> busNext (getF (CAM_S_CFG_PORT k.val) s)) := by
  simp only [execExpsetWritten, he, if_true]
  rfl

theorem execExpsetWritten_nacked (he : (s.sensor k.val).sets.find? (fun e => e.started) = some e) :
    execExpsetWritten k false s = .next (setSent k.val e false s |> sensorCause k.val 8 |> complete true e.cmd ABORTED 0 0 0
      |> busNext (getF (CAM_S_CFG_PORT k.val) s)) := by
  simp only [execExpsetWritten, he, Bool.false_eq_true, if_false]
  rfl

theorem execExpsetSlotClose_due {z : Nat} (hz : slotEnd k.val s = some z) (hopen : slotOpen k.val s = true)
    (hend : reached z s = true) : execExpsetSlotClose k s = .next (closeSlot k.val s) := by
  simp only [execExpsetSlotClose, hz, hopen, hend, Bool.and_self, if_true]

/-! ## Tables (R398, R402) -/

variable {n : Nat}

theorem execCamDefectLoad_good (hserved : Served 0x42 c s) (ht : t = markStarted 0x42 c s) (howner : isOwner c.who 0x160 t = true)
    (hsrc : srcBad c t = false) (hshort : c.src.len ≤ 16384) (hwords : c.src.len % 4 = 0) (hn : n = c.argF 0 2 0) :
    execCamDefectLoad c s = .next (t.setSensor n { t.sensor n with
      defects := (srcWords c t).map (fun w => (w.toNat / 65536, w.toNat % 65536)) } |> answer 0x42 c DONE) := by
  subst hn
  rw [execCamDefectLoad, runCmd_served hserved, ← ht, camOwned_owner howner, if_neg (by omega), withSrc_reads hsrc]

theorem execCamToneLoad_good {l : List Nat} (hserved : Served 0x43 c s) (ht : t = markStarted 0x43 c s)
    (howner : isOwner c.who 0x160 t = true) (hsrc : SrcReads c 2048 s) (hn : n = c.argF 0 2 0)
    (hl : l = (srcWords c s).flatMap (fun w => [w.toNat % 65536, w.toNat / 65536])) (hch : c.argF 0 5 4 ≠ 3)
    (hrange : l.any (fun x => decide (1023 < x)) = false) : execCamToneLoad c s =
      .next (t.setSensor n { t.sensor n with tones := FMap.set [] (t.sensor n).tones (c.argF 0 5 4) l } |> answer 0x43 c DONE) := by
  have hwords : srcWords c t = srcWords c s := by rw [ht, markStarted_srcWords]
  subst hn hl
  rw [execCamToneLoad, runCmd_served hserved, ← ht, camOwned_owner howner, withLen_reads (ht ▸ srcReads_started.2 hsrc), hwords]
  exact congrArg _ (if_neg (not_or.2 ⟨hch, ne_true_of_eq_false hrange⟩))

theorem execCamWinLoad_good {ws : List Word} {m : Nat} (hserved : Served 0x44 c s) (ht : t = markStarted 0x44 c s)
    (howner : isOwner c.who 0x160 t = true) (hsrc : srcBad c t = false) (hws : ws = srcWords c t) (hm : m = fieldAt ws 0 23 21)
    (hn : n = fieldAt ws 0 6 0) (hmax : n ≤ 64) (hlen : c.src.len = 4 * (2 + 2 * n))
    (hcrc : crcWords (ws.take (1 + 2 * n)) = ws.getD (1 + 2 * n) 0) (hversion : fieldAt ws 0 31 24 = 1) : execCamWinLoad c s =
      .next (t.setSensor m { t.sensor m with windows := (List.range n).map (fun i => (fieldAt ws (1 + 2 * i) 31 16,
        fieldAt ws (1 + 2 * i) 15 0, fieldAt ws (2 + 2 * i) 31 16 + 1, fieldAt ws (2 + 2 * i) 15 0 + 1)) } |> answer 0x44 c DONE) := by
  rw [execCamWinLoad, runCmd_served hserved, ← ht, camOwned_owner howner, withSrc_reads hsrc, ← hws]
  subst hm hn
  exact congrArg _ (if_neg (by simp only [not_or]; exact ⟨Nat.not_lt.2 hmax, not_not_intro hlen, not_not_intro hcrc, not_not_intro hversion⟩))

/-! ## The commands -/

theorem exec_camI3c : exec (.camI3c c) s = execCamI3c c s := rfl

theorem exec_i3cTransferDone (ack : Bool) : exec (.i3cTransferDone p ack data) s = execI3cTransferDone p ack data s := rfl

theorem exec_i3cIbi (addr : Nat) (payload : List Byte) : exec (.i3cIbi p addr payload) s = execI3cIbi p addr payload s := rfl

theorem exec_camExpset : exec (.camExpset c) s = execCamExpset c s := rfl

theorem exec_expsetWritten (ack : Bool) : exec (.expsetWritten k ack) s = execExpsetWritten k ack s := rfl

theorem exec_expsetSlotClose : exec (.expsetSlotClose k) s = execExpsetSlotClose k s := rfl

theorem exec_camDefectLoad : exec (.camDefectLoad c) s = execCamDefectLoad c s := rfl

theorem exec_camToneLoad : exec (.camToneLoad c) s = execCamToneLoad c s := rfl

theorem exec_camWinLoad : exec (.camWinLoad c) s = execCamWinLoad c s := rfl

/-- Settles O28: each command of the page's owner is its body on the state in which it is marked as begun; transfers and sets end in
the states in which their bus carries them. -/
theorem cameraCommandsComplete : Obligations.CameraCommandsComplete := by
  unfold Obligations.CameraCommandsComplete
  simp only [exec_camI3c, exec_i3cTransferDone, exec_i3cIbi, exec_camExpset, exec_expsetWritten, exec_expsetSlotClose,
    exec_camDefectLoad, exec_camToneLoad, exec_camWinLoad]
  refine ⟨?transfer, ?transferred, fun p addr payload s => execI3cIbi_on, ?set, ?sent, fun k s z => execExpsetSlotClose_due, ?defects,
    ?tones, ?windows⟩
  case transfer =>
    rintro c s t _ ht hserved howner rfl hccc
    have hsupported : ¬ (c.argF 0 31 31 = 1 ∧ cccSupported.contains (c.argF 0 7 0) = false) := by
      rintro ⟨hccc', hunknown⟩
      rcases hccc with h | h
      · omega
      · exact Bool.false_ne_true (hunknown.symm.trans h)
    rw [execCamI3c_served hserved ht howner]
    refine ⟨fun hread hlen => ?_, fun hwrite hlen hsrc => ?_⟩
    · simp only [hread, hsupported, Nat.not_lt.2 hlen, decide_true, if_true, or_self, if_false]
    · simp only [hwrite, hsupported, Nat.not_lt.2 hlen, hsrc, zero_ne_one, decide_false, Bool.false_eq_true, or_self, if_false]
  case transferred =>
    intro p data s h r t hruns hq hrun ht
    have hc : Carries p.val h r s := ⟨hruns, hq, hrun⟩
    exact ⟨hc.write_done ht, hc.read_done ht, hc.nack_first ht, hc.nack_second ht⟩
  case set =>
    rintro c s t ws k _ _ u _ ht hserved howner hsrc hws hk rfl rfl hgood hen hu hroom rfl
    have h := execCamExpset_queues hserved ht howner hsrc hws hk hgood hen hu hroom
    subst hk
    exact h
  case sent =>
    intro k s e v he hv
    rw [hv true, hv false]
    exact ⟨execExpsetWritten_acked he, execExpsetWritten_nacked he⟩
  case defects => exact fun c s t k ht hserved => execCamDefectLoad_good hserved ht
  case tones => exact fun c s t k l ht hserved => execCamToneLoad_good hserved ht
  case windows => exact fun c s t ws k n ht hserved => execCamWinLoad_good hserved ht

end Sys2Proof.Machine
end

section
/-!
PROOFS. The HBM stacks (spec/16): training (R415, R418), temperature (R416, R422), ECC errors (R420) and scrub passes (R421).
-/

namespace Sys2Proof.Machine

variable {s t : State} {i : Fin 4}

/-! ## Training (R415, R418) -/

/-- Training of stack `i` is a start of its page, not a wake. -/
def startsStack (i : Nat) (s : State) : Bool := decide (getF (PG_STAT_STATE (0x170 + i)) s = 1)

/-- Why stack `i` may not use its record: at a start the reason of R424, on a wake, which only verifies, none (log 72). -/
def fullReason (i : Nat) (s : State) : Nat := if startsStack i s then trainReason i s else 0

theorem execHbmTrainingDone_cached (h : trains i.val s = true) (hwhy : fullReason i.val s = 0) :
    execHbmTrainingDone i .cached s = .next (s |> setB (HBM_STAT_TRAINED i.val) true
      |> ifS (startsStack i.val s) (setB (HBM_STAT_CACHED i.val) true) |> setB (HBM_STAT_SELF_REFRESH i.val) false) := by
  rw [execHbmTrainingDone, h]
  exact congrArg _ (if_neg (not_not_intro hwhy))

/-- A record that does not fit is not used. -/
theorem execHbmTrainingDone_unfit (h : trains i.val s = true) (hwhy : fullReason i.val s ≠ 0) :
    execHbmTrainingDone i .cached s = .next s := by
  rw [execHbmTrainingDone, h]
  exact congrArg _ (if_pos hwhy)

theorem execHbmTrainingDone_full (h : trains i.val s = true) : execHbmTrainingDone i .full s =
    .next (trainedFull i.val (if fullReason i.val s = 0 then 5 else fullReason i.val s) (startsStack i.val s) s) := by
  rw [execHbmTrainingDone, h]
  rfl

theorem execHbmTrainingDone_failed (h : trains i.val s = true) :
    execHbmTrainingDone i .failed s = .next (s |> advanceTraffic i.val |> enterFault (0x170 + i.val) 1) := by
  rw [execHbmTrainingDone, h]
  rfl

/-! ## Temperature (R416, R422) -/

/-- Stack `i` shows temperature `x` and its refresh rate. -/
def temperatureShown (i : Nat) (x : Int) (s : State) : State :=
  s |> setF (HBM_STAT_TEMP i) (ofSigned 8 (clampI x (-128) 127)) |> setB (HBM_STAT_REF2X i) (decide (85 < x))

/-- Event 5 is raised as REF2X rises; a lost interface is a fault. -/
theorem execHbmTempPoll_runs {x : Int} {drift : Bool} (h : stackRuns i.val s = true) : execHbmTempPoll i x drift s = .next
    (if drift then temperatureShown i.val x s |> ifS (decide (85 < x) && !getB (HBM_STAT_REF2X i.val) s) (raise 0x170 5)
        |> advanceTraffic i.val |> enterFault (0x170 + i.val) 2
      else temperatureShown i.val x s |> ifS (decide (85 < x) && !getB (HBM_STAT_REF2X i.val) s) (raise 0x170 5)) := by
  rw [execHbmTempPoll, h]
  rfl

/-! ## ECC errors and scrub passes (R420, R421) -/

/-- What an error of the word at `addr` does: it is counted, and one that cannot be corrected poisons the word. -/
def errorMet (i addr port : Nat) (kind : EccKind) (s : State) : State :=
  match kind with
  | .onDie => countF (HBM_ODECC_CNT i) s
  | .correctable => correctedError i s
  | .uncorrectable => s |> poisonWord (addr / 8) |> uncorrectedError i (8 * (addr / 8)) port

/-- A running stack meets an error in a word of its own. -/
theorem execHbmEccError_runs {addr port : Nat} {kind : EccKind} (h : stackRuns i.val s = true) (htop : addr < hbmTop)
    (hown : addr / 256 % 4 = i.val) : execHbmEccError i addr port kind s = .next (errorMet i.val addr port kind s) := by
  have hnone : ¬ (!stackRuns i.val s || decide (hbmTop ≤ addr) || decide (addr / 256 % 4 ≠ i.val)) = true := by
    simp [h, htop, hown]
  exact congrArg Host.Outcome.next (if_neg hnone)

/-- A pass corrects the single-bit errors it finds and counts the poisoned words again, their port being free (log 3). -/
theorem execHbmScrubPass_runs {found : List Nat} (h : stackRuns i.val s = true) (hen : getB (HBM_CFG_SCRUB_EN i.val) s = true)
    (hfound : ∀ a ∈ found, a < hbmTop ∧ a / 256 % 4 = i.val ∧ a ∉ s.poison) (ht : t = each found (fun _ => correctedError i.val) s) :
    execHbmScrubPass i found s = .next (each (((t.poison.map (fun a => a / 8)).eraseDups).filter (fun w => decide (8 * w / 256 % 4 = i.val)))
      (fun w u => uncorrectedError i.val (8 * w) (fresh 6 u).1 (fresh 6 u).2) t) := by
  have hall : found.filter (fun a => decide (a < hbmTop) && decide (a / 256 % 4 = i.val) && !s.poison.contains a) = found := by
    refine List.filter_eq_self.2 fun a ha => ?_
    obtain ⟨htop, hown, hgood⟩ := hfound a ha
    simp [htop, hown, hgood]
  simp only [execHbmScrubPass, h, hen, hall, ← ht, Bool.not_true, Bool.or_self, Bool.false_eq_true, if_false]

/-! ## The commands -/

theorem exec_hbmTrainingDone (res : TrainResult) : exec (.hbmTrainingDone i res) s = execHbmTrainingDone i res s := rfl

theorem exec_hbmTempPoll (x : Int) (drift : Bool) : exec (.hbmTempPoll i x drift) s = execHbmTempPoll i x drift s := rfl

theorem exec_hbmEccError (addr port : Nat) (kind : EccKind) :
    exec (.hbmEccError i addr port kind) s = execHbmEccError i addr port kind s := rfl

theorem exec_hbmScrubPass (found : List Nat) : exec (.hbmScrubPass i found) s = execHbmScrubPass i found s := rfl

/-- Settles O29: each happening has its effect in the state in which it is due. A wake only verifies what a stack holds, so that it
has none of the reasons of R424 (log 72); the fabric port of a scrubbed word is a free value (log 3). -/
theorem memoryEventsComplete : Obligations.MemoryEventsComplete := by
  unfold Obligations.MemoryEventsComplete
  simp only [exec_hbmTrainingDone, exec_hbmTempPoll, exec_hbmEccError, exec_hbmScrubPass]
  refine ⟨fun i s h => ⟨?trained, execHbmTrainingDone_failed h⟩, ?temperature,
    fun i addr port s h htop hown => ⟨execHbmEccError_runs h htop hown, execHbmEccError_runs h htop hown,
      execHbmEccError_runs h htop hown⟩,
    fun i found s t => execHbmScrubPass_runs⟩
  case trained =>
    rintro _ _ rfl rfl
    exact ⟨execHbmTrainingDone_cached h, execHbmTrainingDone_unfit h, execHbmTrainingDone_full h⟩
  case temperature =>
    rintro i x s _ h rfl
    rw [execHbmTempPoll_runs h, execHbmTempPoll_runs h]
    refine ⟨fun hhot hwas => ?rises, fun hsame => ?same⟩
    case rises =>
      have hrise : (decide (85 < x) && !getB (HBM_STAT_REF2X i.val) s) = true := by simp [hhot, hwas]
      rw [hrise]
      rfl
    case same =>
      have hnone : (decide (85 < x) && !getB (HBM_STAT_REF2X i.val) s) = false := by
        rcases hsame with hcool | hwas
        · rw [decide_eq_false (not_lt.2 hcool), Bool.false_and]
        · rw [hwas, Bool.not_true, Bool.and_false]
      rw [hnone]
      exact ⟨rfl, rfl⟩

end Sys2Proof.Machine
end

section
/-!
PROOFS. Commands of the Sluice engine (spec/17): compress and flush (R432), decompress (R434) and the end of a job (R431, R434, R437).
-/

namespace Sys2Proof.Machine

variable {s t : State} {c : Cmd}

/-! ## A command alone in its cycle (R431) -/

/-- A host command of the engine that is alone in its cycle is met on the state in which it is marked as begun. -/
theorem slcCycle_one {r : SlcReq} (h : Served (slcOpcode r) r.cmd s) :
    slcCycle [r] s = slcServe r (markStarted (slcOpcode r) r.cmd s) := by
  rw [slcCycle, runReqs_one h, serveInOrder_one]

theorem execSlcCompress_one (h : Served 0x48 c s) : execSlcCompress c [] s = .next (slcCompressOne c (markStarted 0x48 c s)) :=
  congrArg _ (slcCycle_one (r := ⟨.compress, c⟩) h)

theorem execSlcFlush_one (h : Served 0x49 c s) : execSlcFlush c [] s = .next (slcFlushOne c (markStarted 0x49 c s)) :=
  congrArg _ (slcCycle_one (r := ⟨.flush, c⟩) h)

theorem execSlcDecompress_one (h : Served 0x4A c s) : execSlcDecompress c [] s = .next (slcDecompressOne c (markStarted 0x4A c s)) :=
  congrArg _ (slcCycle_one (r := ⟨.decompress, c⟩) h)

/-! ## Compress and flush (R432, R433) -/

/-- Nothing of R431 to R433 stands against the SLC_COMPRESS `c`, whose partition has `pending` bytes waiting. -/
structure CompressSound (c : Cmd) (pending : Nat) (s : State) : Prop where
  source : granted c c.src s = true
  destination : granted c c.dst s = true
  blockMin : 64 ≤ c.arg 0
  blockMax : c.arg 0 ≤ 65536
  length : c.src.len ≠ 0
  sourceAligned : c.src.addr % 4 = 0
  destinationAligned : c.dst.addr % 4 = 0
  room : pending + c.src.len + 16 * ceilDiv (pending + c.src.len) (c.arg 0) ≤ c.dst.len
  readable : srcBad c s = false

/-- A sound SLC_COMPRESS cuts the pending bytes and its source `r` into blocks; what ends no block stays, unless it flushes. -/
theorem slcCompressOne_sound {p : Nat × List Byte} {cur : Nat} {r : List (List Byte) × List Byte}
    (hp : p = FMap.get (0, []) s.slc.pend c.idx) (h : CompressSound c p.2.length s)
    (hcur : cur = if p.2.isEmpty then c.arg 0 else p.1)
    (hr : r = cutBlocks (c.arg 0) (p.2.length + c.src.len + 1) cur (p.2 ++ srcBytes c s)) : slcCompressOne c s =
      queueCompress 0x48 c (if r.1.isEmpty then cur else c.arg 0)
        (if decide (c.argF 1 0 0 = 1) && !r.2.isEmpty then r.1 ++ [r.2] else r.1) (if decide (c.argF 1 0 0 = 1) then [] else r.2) s := by
  obtain ⟨hsrc, hdst, hmin, hmax, hlen, hsrcAligned, hdstAligned, hroom, hread⟩ := h
  subst hp hcur hr
  unfold slcCompressOne
  rw [if_neg (by simp [hsrc, hdst]), if_neg (by omega), if_neg hlen, if_neg (by omega), if_neg (Nat.not_lt.2 hroom),
    if_neg (ne_true_of_eq_false hread)]

theorem slcFlushOne_sound {p : Nat × List Byte} (hp : p = FMap.get (0, []) s.slc.pend c.idx) (hdst : granted c c.dst s = true)
    (haligned : c.dst.addr % 4 = 0) (hroom : p.2.length + 16 ≤ c.dst.len) :
    slcFlushOne c s = queueCompress 0x49 c 0 (if p.2.isEmpty then [] else [p.2]) [] s := by
  subst hp
  unfold slcFlushOne
  rw [if_neg (by simp [hdst]), if_neg (not_not_intro haligned), if_neg (Nat.not_lt.2 hroom)]

/-! ## Decompress (R434) -/

/-- The job of a decompress command whose blocks are all sound and fit. -/
def decodeJob (c : Cmd) (blocks : List (List Byte)) : SlcJob where
  op := 0x4A
  cmd := c
  blocks := blocks
  orig := (blocks.map List.length).sum
  raws := 0
  status := DONE
  result0 := blocks.length
  result1 := 0
  err := none
  short := false

theorem slcDecompressOne_sound {blocks : List (List Byte)} (hsrc : granted c c.src s = true) (hdst : granted c c.dst s = true)
    (hread : srcBad c s = false) (hblocks : decodeBlocks (c.src.len + 1) (srcBytes c s) c.dst.len = (blocks, none)) :
    slcDecompressOne c s =
      ({ s with slc := { s.slc with dec := s.slc.dec ++ [decodeJob c blocks] } } |> showSlc c.idx) := by
  unfold slcDecompressOne
  rw [if_neg (by simp [hsrc, hdst]), if_neg (ne_true_of_eq_false hread), hblocks]
  rfl

/-! ## The end of a job (R432, R434, R437) -/

variable {j : SlcJob} {r : List SlcJob}

/-- A sound compressed job at the head is written, counted and completes. -/
theorem execSlcCommandDone_compressed (hruns : runs 0x178 s = true) (hfits : j.short = false) (hsound : j.err = none)
    (hj : s.slc.comp = j :: r) (ht : t = showSlc j.cmd.idx { s with slc := { s.slc with comp := r } }) (hdst : dstBad j.cmd t = false) :
    execSlcCommandDone false s = .next (t |> writeJob j j.blocks |> countCompressed j.orig (j.blocks.map List.length).sum j.raws
      |> finish j.op j.cmd j.status 0 j.result0 j.result1) := by
  subst ht
  simp only [execSlcCommandDone, hruns, hj, hdst, hfits, hsound, ifS, Bool.not_true, Bool.false_eq_true, if_false]

theorem execSlcCommandDone_decoded (hruns : runs 0x178 s = true) (hfits : j.short = false) (hsound : j.err = none)
    (hj : s.slc.dec = j :: r) (ht : t = showSlc j.cmd.idx { s with slc := { s.slc with dec := r } }) (hdst : dstBad j.cmd t = false) :
    execSlcCommandDone true s = .next (t |> writeJob j j.blocks |> countDecoded j.orig
      |> finish j.op j.cmd j.status 0 j.result0 j.result1) := by
  subst ht
  simp only [execSlcCommandDone, hruns, hj, hdst, hfits, hsound, ifS, Bool.not_true, Bool.false_eq_true, if_false, if_true]

/-! ## The commands -/

theorem exec_slcCompress (also : List SlcReq) : exec (.slcCompress c also) s = execSlcCompress c also s := rfl

theorem exec_slcFlush (also : List SlcReq) : exec (.slcFlush c also) s = execSlcFlush c also s := rfl

theorem exec_slcDecompress (also : List SlcReq) : exec (.slcDecompress c also) s = execSlcDecompress c also s := rfl

theorem exec_slcCommandDone (decode : Bool) : exec (.slcCommandDone decode) s = execSlcCommandDone decode s := rfl

/-- Settles O30: a command alone in its cycle joins the engine on the state in which it is marked as begun, and the job at the head
of a direction ends in the state in which its page runs. -/
theorem sluiceCommandsComplete : Obligations.SluiceCommandsComplete := by
  unfold Obligations.SluiceCommandsComplete
  simp only [exec_slcCompress, exec_slcFlush, exec_slcDecompress, exec_slcCommandDone]
  refine ⟨?compress, ?flush, ?decompress, fun s j r t hruns hfits hsound =>
    ⟨execSlcCommandDone_compressed hruns hfits hsound, execSlcCommandDone_decoded hruns hfits hsound⟩⟩
  case compress =>
    rintro c s _ p _ cur r ended rfl hserved hp rfl hsrc hdst hmin hmax hlen hsrcAligned hdstAligned hroom hread hcur hr hended
    have hsound : CompressSound c p.2.length (markStarted 0x48 c s) :=
      ⟨hsrc, hdst, hmin, hmax, hlen, hsrcAligned, hdstAligned, hroom, hread⟩
    rw [execSlcCompress_one hserved, slcCompressOne_sound hp hsound hcur hr]
    refine ⟨fun hflush => ?flushing, fun hkeep => ?keeping⟩
    case flushing =>
      subst hended
      rw [hflush]
      cases r.2 <;> rfl
    case keeping =>
      rw [hkeep]
      rfl
  case flush =>
    rintro c s _ p rfl hserved hp hdst haligned hroom
    rw [execSlcFlush_one hserved, slcFlushOne_sound hp hdst haligned hroom]
  case decompress =>
    rintro c s _ blocks rfl hserved hsrc hdst hread hblocks
    rw [execSlcDecompress_one hserved, slcDecompressOne_sound hsrc hdst hread hblocks]
    rfl

end Sys2Proof.Machine
end

section
/-!
PROOFS. Power requests and wakes (spec/18): PWR_SET (R441), STANDBY is entered (R442) and left, and the sources of a wake (R444).
-/

namespace Sys2Proof.Machine

variable {s t : State} {c : Cmd}

/-! ## PWR_SET (R441) -/

theorem settlePower_nil : settlePower [] s = s := rfl

/-- A partition's request that is alone is judged as it stands. -/
theorem settlePower_one (howner : isOwner c.who 2 s = true) : settlePower [c] s = powerOne c s := by
  have hothers : [c].filter (fun c => !isOwner c.who 2 s) = [] := List.filter_cons_of_neg (by simp [howner])
  have hown : [c].filter (fun c => isOwner c.who 2 s) = [c] := List.filter_cons_of_pos howner
  have hfew : ∀ r : Cmd → Bool,
      (requesters Cmd.idx (tieSort 8 (getF PWR_TIE_PTR s) Cmd.idx ([c].filter r))).length < 2 := by
    intro r
    cases hr : r c
    · rw [List.filter_cons_of_neg (by simp [hr])]
      exact Nat.zero_lt_two
    · rw [List.filter_cons_of_pos hr]
      exact Nat.one_lt_two
  simp only [settlePower, hothers, hown, each_nil, each_one, if_pos (hfew _)]

/-- A request of the owner alone in its cycle, outside the activation pause, is judged on the state in which it is marked as begun. -/
theorem execPwrSet_one (hpause : s.fwu.pause = false) (h : Served 0x50 c s) (ht : t = markStarted 0x50 c s)
    (howner : isOwner c.who 2 t = true) : execPwrSet [c] s = .next (powerOne c t) := by
  rw [execPwrSet, runTies_one h, ← ht]
  cases hwho : isFw c.who <;>
    simp only [hpause, hwho, List.filter_cons, List.filter_nil, Bool.not_true, Bool.not_false, Bool.false_eq_true, if_false, if_true,
      each_nil, each_one, settlePower_nil, settlePower_one howner]

variable {g : Nat}

theorem powerOne_accepted (hg : g = c.argF 0 1 0) (h : powerStatus g s = ACCEPTED) :
    powerOne c s = (s |> answer 0x50 c ACCEPTED |> applyPower g) := by
  subst hg
  simp only [powerOne, h, ifS, decide_true, if_true]

theorem powerOne_other (hg : g = c.argF 0 1 0) (h : powerStatus g s ≠ ACCEPTED) :
    powerOne c s = answer 0x50 c (powerStatus g s) s := by
  subst hg
  simp only [powerOne, h, ifS, decide_false, Bool.false_eq_true, if_false]

/-- In the activation pause requests wait (R508). -/
theorem execPwrSet_paused (cs : List Cmd) (h : s.fwu.pause = true) : execPwrSet cs s = .next s := congrArg _ (if_pos h)

/-! ## STANDBY (R442, R444) -/

/-- Pages 0x198 and 0x1A0, which have no idle point, park with the entry's last step (log 32). -/
theorem execStandbyEntered_parked {late : List Nat} (hentering : pwrState s = 3) (hparked : allParked s = true)
    (hlate : late = [0x1A0, 0x198].filter (fun q => isOn q s))
    (ht : t = each (List.range 4) (fun i t => ifS (decide (blockState (0x170 + i) t = 5)) (selfRefresh i) t)
      (copyRoutes (each late parkBlock s))) : execStandbyEntered s =
      .next ({ t with pwr := { t.pwr with parked := late ++ t.pwr.parked, wakePending := 0 } }
        |> setPwr 1 |> raise 2 2 |> setB PWR_STAT_PENDING_WAKE false |> wake t.pwr.wakePending) := by
  have hdone : ¬ (pwrState s ≠ 3 ∨ (!allParked s) = true) := by simp [hentering, hparked]
  subst ht hlate
  rw [execStandbyEntered, if_neg hdone]

theorem execStandbyWakeDone_up (hwaking : pwrState s = 4) (hmain : mainOn s = true)
    (hstacks : hbmPages.any (fun q => s.pwr.parked.contains q && decide (blockState q s = 5) &&
      getB (HBM_STAT_SELF_REFRESH (q - 0x170)) s) = false)
    (ht : t = each s.pwr.parked (fun q t => ifS (decide (blockState q t = 5)) (unpark q) t)
      (setF PWR_STAT_STATE (if s.pwr.fromBoot then 6 else 0) s)) : execStandbyWakeDone s =
      .next ({ t with pwr := { t.pwr with parked := [], fromBoot := false } } |> showPlls |> releaseHeld) := by
  subst ht
  unfold execStandbyWakeDone
  rw [if_neg (by rw [hstacks]; simp [hwaking, hmain])]

/-! ## Wakes (R444) -/

theorem execTimedWake_reached (hvalid : getB TIM_STAT_SEL_VALID s = true)
    (hreached : reached (getF PWR_WAKE_AT_HI s * 2 ^ 32 + getF PWR_WAKE_AT_LO s) s = true) (hnew : s.pwr.timedDone = false) :
    execTimedWake s = .next (wake 4 { s with pwr := { s.pwr with timedDone := true } }) := by
  simp only [execTimedWake, hvalid, hreached, hnew, Bool.not_true, Bool.or_self, Bool.false_eq_true, if_false]

variable {mask m : Nat}

/-- An enabled source wakes the device from STANDBY: its stacks are awaited. -/
theorem wake_standby (hm : m = Nat.land mask (rd PWR_WAKE_EN_WAKE_N.addr s).toNat) (hsource : m ≠ 0) (hstate : pwrState s = 1) :
    wake mask s = ({ s with pwr := { s.pwr with trainFull := false } } |> setF PWR_WAKE_SRC_SRC m |> setPwr 4 |> raise 2 3) := by
  unfold wake
  rw [← hm, hstate, if_neg hsource, if_neg (by decide), if_pos rfl]

/-- An enabled source wakes the device from SLEEP: the main supplies are requested. -/
theorem wake_sleep (hm : m = Nat.land mask (rd PWR_WAKE_EN_WAKE_N.addr s).toNat) (hsource : m ≠ 0) (hstate : pwrState s = 2) :
    wake mask s = (s |> setF PWR_WAKE_SRC_SRC m |> raise 2 3 |> raiseMain) := by
  unfold wake
  rw [← hm, hstate, if_neg hsource, if_neg (by decide), if_neg (by decide), if_pos rfl]

/-! ## The commands -/

theorem exec_pwrSet (cs : List Cmd) : exec (.pwrSet cs) s = execPwrSet cs s := rfl

theorem exec_standbyEntered : exec .standbyEntered s = execStandbyEntered s := rfl

theorem exec_wakeNLow : exec .wakeNLow s = execWakeNLow s := rfl

theorem exec_timedWake : exec .timedWake s = execTimedWake s := rfl

theorem exec_standbyWakeDone : exec .standbyWakeDone s = execStandbyWakeDone s := rfl

/-- Settles O31: a request alone in its cycle is judged on the state in which it is marked as begun, and in the activation pause it
waits (R508); the steps of STANDBY and the wakes have their effects in the states in which they are due. That pages 0x198 and 0x1A0
park with the entry's last step is log 32. -/
theorem powerRequestsComplete : Obligations.PowerRequestsComplete := by
  unfold Obligations.PowerRequestsComplete
  simp only [exec_pwrSet, exec_standbyEntered, exec_wakeNLow, exec_timedWake, exec_standbyWakeDone]
  refine ⟨?requested, fun cs s => execPwrSet_paused cs, fun s late t => execStandbyEntered_parked, fun _ => rfl,
    fun s => execTimedWake_reached, ?fromStandby, ?fromSleep, fun s t => execStandbyWakeDone_up⟩
  case requested =>
    intro c s t g ht hserved howner hg hpause
    rw [execPwrSet_one hpause hserved ht howner]
    refine ⟨fun hok htarget => ?_, fun hok htarget => ?_, fun hok htarget => ?_, fun hother => congrArg _ (powerOne_other hg hother)⟩
    all_goals
      rw [powerOne_accepted hg hok, htarget]
      rfl
  case fromStandby => exact fun s m hm hsource hstate => congrArg Host.Outcome.next (wake_standby hm hsource hstate)
  case fromSleep => exact fun s m hm hsource hstate => congrArg Host.Outcome.next (wake_sleep hm hsource hstate)

end Sys2Proof.Machine
end

section
/-!
PROOFS. Supplies, resets and clocks (spec/18, spec/22): the main supplies (R445, R497, R533), RESET_N (R446, R535), VHV (R383, R384),
PERST_N (R534), PLLs and references (R447).
-/

namespace Sys2Proof.Machine

variable {s t : State}

/-! ## The main supplies (R445, R497, R533) -/

theorem execMainPgRise_boots (hvhv : s.pwr.vhv = true) (hreset : s.pwr.resetLow = false) (hen : getB PWR_STAT_MAIN_EN s = true)
    (hpg : s.pwr.mainPg = false) : execMainPgRise s =
      .next ({ s with pwr := { s.pwr with mainPg := true } } |> setB PWR_STAT_MAIN_PG true |> boot |> romStarts) := by
  simp only [execMainPgRise, hvhv, hreset, hen, hpg, Bool.not_true, Bool.false_eq_true, or_self, if_false]

theorem execMainPgFall_on (h : mainOn s = true) : execMainPgFall s = .next (s |> copyRoutes |> mainFails 4) := by
  rw [execMainPgFall, ifS, if_pos h]

/-- The supplies fail to rise: warm cause 4, where none stands (log 19). -/
theorem execMainPgTimeout_rising (hen : getB PWR_STAT_MAIN_EN s = true) (hpg : s.pwr.mainPg = false) (hcause : s.pwr.warmCause = 0) :
    execMainPgTimeout s = .next (mainFails 4 s) := by
  simp only [execMainPgTimeout, ifS, hen, hpg, hcause, Bool.not_false, Bool.and_self, if_true]

/-! ## RESET_N (R445, R446, R535) -/

theorem execResetNLow_powered (hvhv : s.pwr.vhv = true) (hreset : s.pwr.resetLow = false) :
    execResetNLow s = .next (s |> driveMainEn false |> coldReset 2 true) := by
  simp only [execResetNLow, ifS, hvhv, hreset, Bool.not_false, Bool.and_self, if_true]

/-- RESET_N is high, with the pins read at its release. -/
def resetReleased (pins : Nat) (wakeLow : Bool) (s : State) : State :=
  { s with pwr := { s.pwr with resetLow := false, pcieBif := pins, wakeAtRelease := wakeLow } }

theorem execResetNRelease_reset {b : Fin 4} {w : Bool} (hvhv : s.pwr.vhv = true) (hreset : s.pwr.resetLow = true)
    (ht : t = resetReleased b.val w s) : execResetNRelease b w s =
      .next (if powerUpSleeps t = true then { t with pwr := { t.pwr with warmCause := 6 } } |> setPwr 2 else raiseMain t) := by
  subst ht
  rw [execResetNRelease, hvhv, hreset]
  rfl

/-! ## VHV (R383, R384) and PERST_N (R534) -/

/-- The loss of VHV is told, and the line being driven ends as it can. -/
def vhvFallen (v : VhvFall) (s : State) : State :=
  s |> raise 0x180 7 |> countF RIM_LOSS |> setB RIM_STAT_VHV_LOW true |> showInhibit |> fun u => if v.held then finishLine u else dropLine u

theorem execVhvLoss_powered {v : VhvFall} (hvhv : s.pwr.vhv = true) : execVhvLoss v s =
    .next (if v.only then vhvFallen v s |> corAbort |> slcDown |> driveMainEn false |> coldReset 1 false else vhvFallen v s) := by
  rw [execVhvLoss, hvhv]
  rfl

theorem execVhvRise_off (hvhv : s.pwr.vhv = false) : execVhvRise s = .next (coldReset 1 true s) := by
  simp only [execVhvRise, hvhv, Bool.not_false, if_true]

theorem execVhvRise_low (hvhv : s.pwr.vhv = true) (hlow : getB RIM_STAT_VHV_LOW s = true) :
    execVhvRise s = .next (s |> setB RIM_STAT_VHV_LOW false |> showInhibit |> rimServe) := by
  simp only [execVhvRise, hvhv, hlow, Bool.not_true, Bool.false_eq_true, if_false, if_true]

/-! ## PLLs (R447) -/

variable {k : Fin 70}

theorem execPllUnlock_rclk (hk : k.val < 4) (hlocked : bitOf (getF CLK_STAT_RCLK s) k.val = true) : execPllUnlock k s =
    .next (s |> unlocked |> blockFaults (0x80 + 2 * k.val) 1 |> blockFaults (0x81 + 2 * k.val) 1) := by
  rw [execPllUnlock, if_pos hk, ifS, if_pos hlocked]

theorem execPllUnlock_decode (hk : k.val = 4) (hlocked : getB CLK_STAT_DEC s = true) : execPllUnlock k s =
    .next (each (List.range 24) (fun i => blockFaults (0x40 + i) 1) (unlocked s)) := by
  rw [execPllUnlock, if_neg (by omega), if_pos hk, ifS, if_pos hlocked]

/-- The loss of the hub's clock shuts the package down. -/
theorem execPllUnlock_hub (hk : k.val = 5) (hlocked : getB CLK_STAT_HUB s = true) :
    execPllUnlock k s = .next (s |> unlocked |> shutDown 6 none) := by
  rw [execPllUnlock, if_neg (by omega), if_neg (by omega), if_pos hk, ifS, if_pos hlocked]

theorem unlockLanes_runs {p : Nat} (h : [1, 2, 3, 4].contains (blockState (0x100 + p) s) = true) :
    unlockLanes p s = (s |> unlocked |> lnkFault p 1) := if_pos h

theorem execPllUnlock_lane (hk : 6 ≤ k.val) (hruns : [1, 2, 3, 4].contains (blockState (0x100 + (k.val - 6)) s) = true) :
    execPllUnlock k s = .next (s |> unlocked |> lnkFault (k.val - 6) 1) := by
  rw [execPllUnlock, if_neg (by omega), if_neg (by omega), if_neg (by omega), unlockLanes_runs hruns]

/-! ## References (R447) -/

variable {r : Fin 4}

/-- What a lost reference `r` takes down: one PLL of each NET port that runs (log 19), the PCIe links, or the lane PLLs. -/
def refTakesDown (r : Nat) (s : State) : State :=
  if r = 0 then each ((List.range 5).filter (fun p => [1, 2, 3, 4].contains (blockState (0x20 + p) s)))
    (fun p t => t |> unlocked |> blockFaults (0x20 + p) 1) s
  else if r = 1 then each (List.range 4) (fun p t => t.setLinkUp p false) s
  else if r = 2 then each (List.range 64) unlockLanes s
  else s

theorem execRefLost_present (hpresent : getB (refField r.val) s = true) (ht : t = (s |> setB (refField r.val) false |> raise 1 3)) :
    execRefLost r s = .next (refTakesDown r.val t) := by
  subst ht
  rw [execRefLost, hpresent]
  rfl

theorem execRefClockReturn_powered (h : s.pwr.vhv = true) : execRefClockReturn r s = .next (setB (refField r.val) true s) := by
  rw [execRefClockReturn, ifS, if_pos h]

/-! ## The commands -/

theorem exec_mainPgRise : exec .mainPgRise s = execMainPgRise s := rfl

theorem exec_mainPgFall : exec .mainPgFall s = execMainPgFall s := rfl

theorem exec_mainPgTimeout : exec .mainPgTimeout s = execMainPgTimeout s := rfl

theorem exec_resetNLow : exec .resetNLow s = execResetNLow s := rfl

theorem exec_resetNRelease (b : Fin 4) (w : Bool) : exec (.resetNRelease b w) s = execResetNRelease b w s := rfl

theorem exec_vhvLoss (v : VhvFall) : exec (.vhvLoss v) s = execVhvLoss v s := rfl

theorem exec_vhvRise : exec .vhvRise s = execVhvRise s := rfl

theorem exec_perstNChange (p : Fin 4) (high : Bool) : exec (.perstNChange p high) s = execPerstNChange p high s := rfl

theorem exec_pllUnlock : exec (.pllUnlock k) s = execPllUnlock k s := rfl

theorem exec_refLost : exec (.refLost r) s = execRefLost r s := rfl

theorem exec_refClockReturn : exec (.refClockReturn r) s = execRefClockReturn r s := rfl

/-- Settles O32: each happening has its effect in the state in which it is due. Warm cause 4 for supplies that do not rise, and one
PLL_UNLOCK for each running port as the network reference is lost, are log 19. -/
theorem suppliesResetsAndClocksComplete : Obligations.SuppliesResetsAndClocksComplete := by
  unfold Obligations.SuppliesResetsAndClocksComplete
  simp only [exec_mainPgRise, exec_mainPgFall, exec_mainPgTimeout, exec_resetNLow, exec_resetNRelease, exec_vhvLoss, exec_vhvRise,
    exec_perstNChange, exec_pllUnlock, exec_refLost, exec_refClockReturn]
  refine ⟨fun s => execMainPgRise_boots, fun s => execMainPgFall_on, fun s => execMainPgTimeout_rising, fun s => execResetNLow_powered,
    ?release, ?vhvLoss, fun s => ⟨execVhvRise_off, execVhvRise_low⟩, fun p s => ⟨rfl, rfl⟩,
    fun k s => ⟨execPllUnlock_rclk, execPllUnlock_decode, execPllUnlock_hub, execPllUnlock_lane⟩, ?refLost,
    fun r s => execRefClockReturn_powered⟩
  case release =>
    intro b w s t hvhv hreset ht
    rw [execResetNRelease_reset hvhv hreset ht]
    exact ⟨fun hsleeps => congrArg _ (if_pos hsleeps), fun hrises => congrArg _ (if_neg (ne_true_of_eq_false hrises))⟩
  case vhvLoss =>
    rintro v s _ hvhv rfl
    rw [execVhvLoss_powered hvhv]
    exact ⟨fun hother => congrArg _ (if_neg (ne_true_of_eq_false hother)), fun honly => congrArg _ (if_pos honly)⟩
  case refLost =>
    intro r s t hpresent ht
    rw [execRefLost_present hpresent ht]
    refine ⟨fun hr => ?_, fun hr => ?_, fun hr => ?_, fun hr => ?_⟩
    all_goals
      rw [hr]
      rfl

end Sys2Proof.Machine
end

section
/-!
PROOFS. Thermal sensing, throttling and trim calibration (spec/18): conversions (R448–R450), throttling (R451), trips and the restart
(R453, R454), and trim runs (R455–R458).
-/

namespace Sys2Proof.Machine

variable {s t : State} {who : Who}

/-! ## Conversions (R448–R450) -/

/-- The readings that a conversion takes: those of the sensors that serve no trim, `off`. -/
def takenReadings (readings : List Int) (off : List Nat) : List (Nat × Int) :=
  ((List.range (min 72 readings.length)).filter (fun n => !off.contains n)).map
    (fun n => (n, clampI (readings.getD n 0) (-32768) 32767))

/-- The readings `rs` are taken, of sensors whose exclusion was `was`, and their maximum is evaluated. -/
def readingsJudged (rs : List (Nat × Int)) (was : List (Nat × Bool)) (s : State) : State :=
  each rs (fun e => takeReading e.1 e.2) s |> each rs (fun e => judgeStuck e.1) |> each was (fun e => judgeValid e.1 e.2)
    |> evalMax (rs.map (fun e => e.1))

theorem execThermalConversion_runs {readings : List Int} {off : List Nat} {rs : List (Nat × Int)} {was : List (Nat × Bool)}
    {cold : Bool} (hruns : sensorsRun s = true) (hoff : off = inTrim s) (hrs : rs = takenReadings readings off)
    (hwas : was = rs.map (fun e => (e.1, sensorExcluded e.1 s))) (ht : t = readingsJudged rs was s)
    (hcold : cold = (getB THM_MAX_VALID t && decide (toSigned 16 (getF THM_MAX_TEMP t) < 1520))) :
    execThermalConversion readings s = .next ({ t with pwr := { t.pwr with
      sinceTrip := t.pwr.sinceTrip + 1, cool := if cold then t.pwr.cool + 1 else 0 } } |> sensorsServed off |> zoneDrift |> writeTrim) := by
  subst hcold ht hwas hrs hoff
  rw [execThermalConversion, hruns]
  rfl

/-! ## Throttling (R451) -/

/-- GRACE counts conversions, ten a millisecond (log 19). -/
theorem execThrottleGraceExpire_over (hthrottling : getB THM_STAT_THROTTLING s = true) (hmode : getF THM_CFG_MODE s = 1)
    (hfree : getB THM_STAT_ENFORCED s = false) (hover : 10 * getF THM_THROT_GRACE s ≤ s.pwr.thrAge) :
    execThrottleGraceExpire s = .next (s |> setTherm (getF THM_THROT_CAP s) |> throttleEnforce) := by
  simp only [execThrottleGraceExpire, hthrottling, hmode, hfree, hover, Bool.not_false, decide_true, Bool.and_self, if_true]

/-- A further 100 ms at or above ON halve the cap, or add to the pauses. -/
theorem execThrottleStep_due (hthrottling : getB THM_STAT_THROTTLING s = true) (henforced : getB THM_STAT_ENFORCED s = true)
    (hhigh : 1000 ≤ s.pwr.thrHigh) (ht : t = { s with pwr := { s.pwr with thrHigh := 0 } }) : execThrottleStep s =
      .next (if getF THM_CFG_MODE t = 1 then setTherm (max 1 (getF THM_STAT_THERM t / 2)) t
        else setD (min (getF THM_STAT_D t + getF THM_PAUSE_DUTY t) (getF THM_PAUSE_DUTY_MAX t)) t) := by
  subst ht
  rw [execThrottleStep, hthrottling, henforced, decide_eq_true hhigh]
  rfl

variable {v : Nat}

theorem execThmCfgWrite_accepted (v : Word) (h : Accepted who 4 s) : execThmCfgWrite who v s = .next (writeThmCfg v.toNat s) :=
  congrArg _ (guardWrite_accepted h)

/-- A good THM_CFG releases throttling, whether or not MODE changes (log 19), and is taken. -/
theorem writeThmCfg_good (hmode : bitsOf v 31 30 ≠ 3) (horder : bitsOf v 21 14 < bitsOf v 29 22) : writeThmCfg v s =
    (s |> throttleRelease |> setF THM_CFG_MODE (bitsOf v 31 30) |> setF THM_CFG_ON (bitsOf v 29 22)
      |> setF THM_CFG_OFF (bitsOf v 21 14) |> setF THM_CFG_WARN (bitsOf v 13 6)) := by
  simp only [writeThmCfg, if_neg (Nat.not_le.2 horder), if_neg hmode]

theorem writeThmCfg_inverted (horder : bitsOf v 29 22 ≤ bitsOf v 21 14) : writeThmCfg v s = s := if_pos horder

/-! ## Trips and the restart (R453, R454) -/

theorem execThermalTrip_comparator {n : Nat} (hmain : mainOn s = true) (hup : pwrState s ≠ 5) (hn : n < 72)
    (hhot : 2 ≤ (s.thSensor n).hot) : execThermalTrip (.comparator n (sensorTemp n s)) s =
      .next (shutDown 3 (some (n, sensorTemp n s)) s) := by
  simp only [execThermalTrip, hmain, hup, hn, hhot, ifS, Bool.not_true, decide_false, decide_true, Bool.or_self, Bool.and_self,
    Bool.false_eq_true, if_false, if_true]

theorem execThermalTrip_stack {i : Nat} (hmain : mainOn s = true) (hup : pwrState s ≠ 5) (hi : i < 4) :
    execThermalTrip (.stack i) s = .next (shutDown 4 none s) := by
  simp only [execThermalTrip, hmain, hup, hi, ifS, Bool.not_true, decide_false, decide_true, Bool.or_self, Bool.false_eq_true,
    if_false, if_true]

theorem execThermalRestart_cool (hdown : pwrState s = 5) (hcool : 10000 ≤ s.pwr.cool) (hsince : 100000 ≤ s.pwr.sinceTrip) :
    execThermalRestart s = .next (s |> boot |> raise 2 5 |> romStarts) := by
  rw [execThermalRestart, if_neg (by omega)]

/-! ## Trim runs (R455–R458) -/

variable {z : Nat}

theorem execTrmReq_accepted (v : Word) (h : Accepted who 8 s) :
    execTrmReq who v s = .next (requestRun (bitsOf v.toNat 4 0) s) := congrArg _ (guardWrite_accepted h)

theorem requestRun_idle (hz : z ≤ 29) (hon : isOn 8 s = true) (hpending : getB (TRM_STAT_PENDING z) s = false)
    (hrunning : getB (TRM_STAT_RUNNING z) s = false) :
    requestRun z s = (s.setZone z { s.zone z with lanes := zoneParts z } |> setB (TRM_STAT_PENDING z) true) := by
  unfold requestRun
  rw [if_neg (by simp [hz, hon, hpending, hrunning])]

/-- What a window of `told` ns does to a lane of zone `z`, of a tile of group `g`, that has a run to make; `waits` is the aborted
frame that the lane waits for. -/
def windowUsed (lane told z g : Nat) (waits : Option (Nat × Nat)) (s : State) : State :=
  match waits with
  | some e => ifS (abortedFrameOpen g e.2 s) (laneRuns z (trimPair lane s) 0) s
  | none => match recalWidth lane told s with
    | none => s
    | some width =>
      if 60000 ≤ width then laneRuns z (trimPair lane s) 10000 s
      else if getB TRM_CFG_FORCE s && hasTile lane s && decide ((s.grp g).phase ≠ .none) then forceLane z g lane s
      else deferLane z g s

theorem execLaneRecalWindow_due {lane : Fin 1024} {told g : Nat} {waits : Option (Nat × Nat)} (hz : z = lane.val / 64)
    (hg : g = (tileRec (tileLane lane.val s) s).group) (hmay : trimMayRun z s = true) (hlane : lane.val ∈ (s.zone z).lanes)
    (hrun : getB (TRM_STAT_PENDING z) s = true ∨ getB (TRM_STAT_RUNNING z) s = true)
    (hwaits : waits = ((s.zone z).forced.find? (fun e => decide (e.1 = lane.val))).filter (fun e => awaitsFrame g e.2 s)) :
    execLaneRecalWindow lane told s = .next (windowUsed lane.val told z g waits s) := by
  subst hz hg hwaits
  have hdue : ¬ (!trimMayRun (lane.val / 64) s || !(s.zone (lane.val / 64)).lanes.contains lane.val ||
      !(getB (TRM_STAT_PENDING (lane.val / 64)) s || getB (TRM_STAT_RUNNING (lane.val / 64)) s)) = true := by
    rcases hrun with h | h <;> simp [hmay, hlane, h]
  exact congrArg Host.Outcome.next (if_neg hdue)

variable {lane told g width : Nat}

/-- After a forced abort the lane runs once FS + 10 µs of its frame has come. -/
theorem windowUsed_aborted {e : Nat × Nat} (h : abortedFrameOpen g e.2 s = true) :
    windowUsed lane told z g (some e) s = laneRuns z (trimPair lane s) 0 s := if_pos h

theorem windowUsed_wide (hwidth : recalWidth lane told s = some width) (hwide : 60000 ≤ width) :
    windowUsed lane told z g none s = laneRuns z (trimPair lane s) 10000 s := by
  simp only [windowUsed, hwidth, if_pos hwide]

/-- A window too short aborts the frame under FORCE. -/
theorem windowUsed_forced (hwidth : recalWidth lane told s = some width) (hshort : width < 60000) (hforce : getB TRM_CFG_FORCE s = true)
    (htile : hasTile lane s = true) (hphase : (s.grp g).phase ≠ .none) :
    windowUsed lane told z g none s = forceLane z g lane s := by
  simp only [windowUsed, hwidth, if_neg (Nat.not_le.2 hshort), hforce, htile, hphase, ne_eq, not_false_eq_true, decide_true,
    Bool.and_self, if_true]

theorem windowUsed_deferred (hwidth : recalWidth lane told s = some width) (hshort : width < 60000)
    (hnone : getB TRM_CFG_FORCE s = false ∨ hasTile lane s = false ∨ (s.grp g).phase = .none) :
    windowUsed lane told z g none s = deferLane z g s := by
  have hforce : (getB TRM_CFG_FORCE s && hasTile lane s && decide ((s.grp g).phase ≠ .none)) = false := by
    rcases hnone with h | h | h <;> simp [h]
  simp only [windowUsed, hwidth, if_neg (Nat.not_le.2 hshort), hforce, Bool.false_eq_true, if_false]

theorem execPortRecal_free {z : Fin 30} (hz : 16 ≤ z.val) (hmay : trimMayRun z.val s = true) (hpending : getB (TRM_STAT_PENDING z.val) s = true)
    (hport : z.val < 21 → partnerHolds (z.val - 16) s = false ∧ (s.eport (z.val - 16)).sending = none)
    (hrim : z.val = 21 → s.rim.line = none) : execPortRecal z s = .next (beginRun z.val s) := by
  have hdue : ¬ (z.val < 16 ∨ (!trimMayRun z.val s) = true ∨ (!getB (TRM_STAT_PENDING z.val) s) = true) := by
    simp [hz, hmay, hpending]
  have hfree : ¬ ((z.val < 21 ∧ (partnerHolds (z.val - 16) s = true ∨ (s.eport (z.val - 16)).sending.isSome = true)) ∨
      (z.val = 21 ∧ s.rim.line.isSome = true)) := by
    rintro (⟨hlt, hbusy⟩ | ⟨heq, hbusy⟩)
    · obtain ⟨hfree, hidle⟩ := hport hlt
      simp [hfree, hidle] at hbusy
    · simp [hrim heq] at hbusy
  simp only [execPortRecal, if_neg hdue, if_neg hfree]

theorem execRecalDone_ends {z : Fin 30} {limit : Bool} (hrunning : getB (TRM_STAT_RUNNING z.val) s = true)
    (hlanes : (s.zone z.val).lanes = []) : execRecalDone z limit s = .next ({ s with fwu := { s.fwu with trimDue := true } }
      |> State.setZone z.val { s.zone z.val with ran := true, deferred := [], ended := some (now s) }
      |> setB (TRM_STAT_RUNNING z.val) false |> setF (TRM_STAT_LAST_T z.val) (ofSigned 16 (s.zone z.val).start)
      |> setB (TRM_STAT_LIMIT z.val) limit |> addF (TRM_RUNS z.val) 1 |> raise 8 2 |> ifS limit (raise 8 5)
      |> writeTrim |> ifS (decide (z.val = 21)) rimServe) := by
  rw [execRecalDone, hrunning, hlanes]
  rfl

/-! ## The commands -/

theorem exec_thermalConversion (readings : List Int) : exec (.thermalConversion readings) s = execThermalConversion readings s := rfl

theorem exec_throttleGraceExpire : exec .throttleGraceExpire s = execThrottleGraceExpire s := rfl

theorem exec_throttleStep : exec .throttleStep s = execThrottleStep s := rfl

theorem exec_thmCfgWrite (v : Word) : exec (.thmCfgWrite who v) s = execThmCfgWrite who v s := rfl

theorem exec_thermalTrip (src : TripSource) : exec (.thermalTrip src) s = execThermalTrip src s := rfl

theorem exec_thermalRestart : exec .thermalRestart s = execThermalRestart s := rfl

theorem exec_trmReq (v : Word) : exec (.trmReq who v) s = execTrmReq who v s := rfl

theorem exec_laneRecalWindow (lane : Fin 1024) (told : Nat) :
    exec (.laneRecalWindow lane told) s = execLaneRecalWindow lane told s := rfl

theorem exec_portRecal (z : Fin 30) : exec (.portRecal z) s = execPortRecal z s := rfl

theorem exec_recalDone (z : Fin 30) (limit : Bool) : exec (.recalDone z limit) s = execRecalDone z limit s := rfl

/-- Settles O33: each happening has its effect in the state in which it is due, and an accepted write is its effect. That GRACE is
counted in conversions, and that every good THM_CFG releases throttling, are log 19; what the TRIM item holds is a free value
(log 34). -/
theorem thermalAndTrimComplete : Obligations.ThermalAndTrimComplete := by
  unfold Obligations.ThermalAndTrimComplete
  simp only [exec_thermalConversion, exec_throttleGraceExpire, exec_throttleStep, exec_thmCfgWrite, exec_thermalTrip,
    exec_thermalRestart, exec_trmReq, exec_laneRecalWindow, exec_portRecal, exec_recalDone]
  refine ⟨fun readings s off rs was t cold => execThermalConversion_runs, fun s => execThrottleGraceExpire_over, ?step, ?configured,
    fun n s => execThermalTrip_comparator, fun i s => execThermalTrip_stack, fun s => execThermalRestart_cool, ?requested, ?window,
    fun z s => execPortRecal_free, fun z s limit => execRecalDone_ends⟩
  case step =>
    intro s t hthrottling henforced hhigh ht
    rw [execThrottleStep_due hthrottling henforced hhigh ht]
    exact ⟨fun hcap => congrArg _ (if_pos hcap), fun hpauses => congrArg _ (if_neg hpauses)⟩
  case configured =>
    intro who v s h hmode
    rw [execThmCfgWrite_accepted v h]
    exact ⟨fun hgood => congrArg _ (writeThmCfg_good hmode hgood), fun hinverted => congrArg _ (writeThmCfg_inverted hinverted)⟩
  case requested =>
    rintro who v s _ h rfl hz hon hpending hrunning
    rw [execTrmReq_accepted v h, requestRun_idle hz hon hpending hrunning]
  case window =>
    intro lane told s z g waits hz hg hmay hlane hrun hwaits
    rw [execLaneRecalWindow_due hz hg hmay hlane hrun hwaits]
    refine ⟨fun e he hopen => ?aborted, fun width hnone hwidth => ?opened⟩
    case aborted => rw [he, windowUsed_aborted hopen]
    case opened =>
      rw [hnone]
      exact ⟨fun hwide => congrArg _ (windowUsed_wide hwidth hwide),
        fun hshort hforce htile hphase => congrArg _ (windowUsed_forced hwidth hshort hforce htile hphase),
        fun hshort hdefers => congrArg _ (windowUsed_deferred hwidth hshort hdefers)⟩

end Sys2Proof.Machine
end

section
/-!
PROOFS. The message protocol (spec/19 R466–R469, R486): what becomes of a datagram, the requests that are new, and those that come
again.
-/

namespace Sys2Proof.Machine

variable {m : JmpIn} {s u : State} {typ : Nat} {body : State → State}

/-! ## What becomes of a datagram (R466, R469) -/

/-- The datagram is taken from those that wait, and stamped. -/
def jmpTaken (m : JmpIn) (s : State) : State :=
  jmpStamp m { s with hst := { s.hst with jmpIn := dropFirst (fun x => decide (x = m)) s.hst.jmpIn } }

/-- The last SEQ of the partition that the datagram names. -/
def lastSeq (m : JmpIn) (s : State) : Nat := (rd (HST_JMP_SEQ (jmpPart m)).addr s).toNat

/-- The stored answer leaves again. -/
def answeredAgain (m : JmpIn) (s : State) : State :=
  match (s.prt (jmpPart m)).answer with
  | some a => jmpReply m a.typ a.seq a.body s
  | none => s

/-- Datagram `m` is accepted outside the activation pause; `u` is the state in which it is taken. -/
structure JmpAccepted (m : JmpIn) (s u : State) : Prop where
  words : m.words ≠ []
  running : s.fwu.pause = false
  taken : u = jmpTaken m s
  accepted : jmpAccepted m u = true

/-- An accepted datagram of its type is answered again where its SEQ is the last, dropped where older, and else executed. -/
theorem JmpAccepted.run_eq (h : JmpAccepted m s u) (htyp : jmpType m = typ) : jmpRun typ m body s =
    if ((u.prt (jmpPart m)).lastSet && decide (wordAt m.words 1 = lastSeq m u)) = true then answeredAgain m u
    else if ((u.prt (jmpPart m)).lastSet && decide (diff32 (wordAt m.words 1) (lastSeq m u) < 0)) = true then jmpDrop m u
    else body u := by
  obtain ⟨hwords, hrunning, rfl, haccepted⟩ := h
  have htaken : ¬ (m.words.isEmpty || decide (jmpType m ≠ typ)) = true := by simp [hwords, htyp]
  have hgood : ¬ (!jmpAccepted m (jmpTaken m s)) = true := by simp [haccepted]
  exact (if_neg htaken).trans ((if_neg (ne_true_of_eq_false hrunning)).trans (if_neg hgood))

/-- The SEQ of the datagram comes after the last, or there is none yet. -/
structure JmpNew (m : JmpIn) (u : State) : Prop where
  later : (u.prt (jmpPart m)).lastSet = false ∨ 0 < diff32 (wordAt m.words 1) (lastSeq m u)
  other : wordAt m.words 1 ≠ lastSeq m u

theorem JmpAccepted.run_new (h : JmpAccepted m s u) (htyp : jmpType m = typ) (hnew : JmpNew m u) :
    jmpRun typ m body s = body u := by
  obtain ⟨hlater, hother⟩ := hnew
  have hnotOlder : ¬ ((u.prt (jmpPart m)).lastSet && decide (diff32 (wordAt m.words 1) (lastSeq m u) < 0)) = true := by
    rcases hlater with hfirst | hlater
    · simp [hfirst]
    · simp [Int.le_of_lt hlater]
  rw [h.run_eq htyp, if_neg (by simp [hother]), if_neg hnotOlder]

theorem JmpAccepted.run_repeat (h : JmpAccepted m s u) (htyp : jmpType m = typ) (hset : (u.prt (jmpPart m)).lastSet = true)
    (hseq : wordAt m.words 1 = lastSeq m u) : jmpRun typ m body s = answeredAgain m u := by
  rw [h.run_eq htyp, if_pos (by simp [hset, hseq])]

theorem JmpAccepted.run_older (h : JmpAccepted m s u) (htyp : jmpType m = typ) (hset : (u.prt (jmpPart m)).lastSet = true)
    (hother : wordAt m.words 1 ≠ lastSeq m u) (holder : diff32 (wordAt m.words 1) (lastSeq m u) < 0) :
    jmpRun typ m body s = jmpDrop m u := by
  rw [h.run_eq htyp, if_neg (by simp [hother]), if_pos (by simp [hset, holder])]

/-! ## Requests that are new (R468) -/

theorem jmpAwake_up (h : asleep s = false) : jmpAwake m body s = body s := if_neg (ne_true_of_eq_false h)

section
variable (h : JmpAccepted m s u) (hnew : JmpNew m u)
include h hnew

theorem JmpAccepted.command {p : Nat} (htyp : jmpType m = 1) (hup : asleep u = false) (hlen : (jmpBody m).length = 16)
    (hp : p = jmpPart m) (hroom : (getF (HST_CMD_TAIL_IDX p) u + 65536 - getF (HST_CMD_HEAD_IDX p) u) % 65536 < ringN p u) :
    execJmpCommand m s = .next (u |> memWrite (ringSpace p u) (cmdBase p u + 64 * (getF (HST_CMD_TAIL_IDX p) u % ringN p u))
      (wordsBytes (jmpBody m)) |> addF (HST_CMD_TAIL_IDX p) 1 |> jmpAck m DONE) := by
  subst hp
  rw [execJmpCommand, h.run_new htyp hnew, jmpAwake_up hup, if_neg (not_not_intro hlen), if_neg (Nat.not_le.2 hroom)]

theorem JmpAccepted.regRead {a n : Nat} (htyp : jmpType m = 4) (hup : asleep u = false) (hlen : (jmpBody m).length = 2)
    (ha : a = wordAt (jmpBody m) 0) (hn : n = wordAt (jmpBody m) 1) (hspan : regSpan a n = true) : execJmpRegRead m s =
      .next (jmpAnswer m 6 (Word.ofNat a :: Word.ofNat n :: (readRegs (jmpWho m) n a u).1) (readRegs (jmpWho m) n a u).2) := by
  subst ha hn
  rw [execJmpRegRead, h.run_new htyp hnew, if_neg (by simp [hlen, hspan]), hup]
  rfl

theorem JmpAccepted.regWrite {a n : Nat} (htyp : jmpType m = 5) (hup : asleep u = false) (ha : a = wordAt (jmpBody m) 0)
    (hn : n = wordAt (jmpBody m) 1) (hspan : regSpan a n = true) (hlen : (jmpBody m).length = n + 2) : execJmpRegWrite m s =
      .next (u |> writeRegs (jmpWho m) ((jmpBody m).drop 2) a |> jmpAck m DONE) := by
  subst ha hn
  rw [execJmpRegWrite, h.run_new htyp hnew, if_neg (by simp [hlen, hspan]), hup]
  rfl

theorem JmpAccepted.memWrite (htyp : jmpType m = 7) (hup : asleep u = false) (hspan : memSpan (jmpBody m) = true)
    (hlen : (jmpBody m).length = memCount (jmpBody m) + 2)
    (hregion : inRegion (jmpPart m) (memAddr (jmpBody m)) (4 * memCount (jmpBody m)) u = true) : execJmpMemWrite m s =
      .next (u |> memWrite .hbm (memAddr (jmpBody m)) (wordsBytes ((jmpBody m).drop 2)) |> jmpAck m DONE) := by
  rw [execJmpMemWrite, h.run_new htyp hnew, jmpAwake_up hup, if_neg (by simp [hlen, hspan]), if_pos hregion]

theorem JmpAccepted.memRead {a n : Nat} (htyp : jmpType m = 8) (hup : asleep u = false) (hspan : memSpan (jmpBody m) = true)
    (hlen : (jmpBody m).length = 2) (ha : a = memAddr (jmpBody m)) (hn : n = memCount (jmpBody m))
    (hregion : inRegion (jmpPart m) a (4 * n) u = true) : execJmpMemRead m s =
      .next (jmpAnswer m 9 (jmpBody m ++ bytesWords (memRead .hbm a (4 * n) u)) u) := by
  subst ha hn
  rw [execJmpMemRead, h.run_new htyp hnew, jmpAwake_up hup, if_neg (by simp [hlen, hspan]), if_neg (by simp [hregion])]

/-- A power request from the owner of page 0x002 on M0 is judged. -/
theorem JmpAccepted.power {g : Nat} (htyp : jmpType m = 0xA) (hlen : (jmpBody m).length = 1) (hport : m.port.val = 4)
    (howner : isOwner (jmpWho m) 2 u = true) (hg : g = fieldAt (jmpBody m) 0 1 0) : execJmpPower m s =
      .next (u |> jmpAck m (powerStatus g u) |> ifS (decide (powerStatus g u = ACCEPTED)) (applyPower g)) := by
  subst hg
  rw [execJmpPower, h.run_new htyp hnew, if_neg (not_not_intro hlen), if_neg (by simp [hport, howner])]

theorem JmpAccepted.wake_shutdown (htyp : jmpType m = 0xB) (hbody : jmpBody m = []) (hdown : pwrState u = 5) :
    execJmpWake m s = .next (jmpAck m BUSY u) := by
  rw [execJmpWake, h.run_new htyp hnew, if_neg (by simp [hbody]), if_pos hdown]

theorem JmpAccepted.wake_m0 (htyp : jmpType m = 0xB) (hbody : jmpBody m = []) (hup : pwrState u ≠ 5) (hport : m.port.val = 4) :
    execJmpWake m s = .next (u |> jmpAck m DONE |> wake 2) := by
  rw [execJmpWake, h.run_new htyp hnew, if_neg (by simp [hbody]), if_neg hup, ifS, if_pos (decide_eq_true hport)]

end

theorem execJmpEventSend_sent {p : Fin 8} {es : List Nat} (hes : es = (s.prt p.val).events.take 64) (hsome : es ≠ [])
    (hjmp : transport p.val s = 2) : execJmpEventSend p true s = .next (jmpDevice p.val 3
      (Word.ofNat (now s / 2 ^ 32) :: Word.ofNat (now s) :: Word.ofNat es.length :: es.map Word.ofNat)
      (s.setPrt p.val { s.prt p.val with events := (s.prt p.val).events.drop 64 })) := by
  subst hes
  have hsends : ¬ (((s.prt p.val).events.take 64).isEmpty || decide (transport p.val s ≠ 2)) = true := by
    rw [List.isEmpty_eq_false_iff.2 hsome, decide_eq_false (not_not_intro hjmp)]
    exact Bool.false_ne_true
  exact congrArg Host.Outcome.next (if_neg hsends)

/-! ## The commands -/

theorem exec_jmpCommand : exec (.jmpCommand m) s = execJmpCommand m s := rfl

theorem exec_jmpRegRead : exec (.jmpRegRead m) s = execJmpRegRead m s := rfl

theorem exec_jmpRegWrite : exec (.jmpRegWrite m) s = execJmpRegWrite m s := rfl

theorem exec_jmpMemWrite : exec (.jmpMemWrite m) s = execJmpMemWrite m s := rfl

theorem exec_jmpMemRead : exec (.jmpMemRead m) s = execJmpMemRead m s := rfl

theorem exec_jmpPower : exec (.jmpPower m) s = execJmpPower m s := rfl

theorem exec_jmpWake : exec (.jmpWake m) s = execJmpWake m s := rfl

theorem exec_jmpEventSend (p : Fin 8) (sent : Bool) : exec (.jmpEventSend p sent) s = execJmpEventSend p sent s := rfl

/-- Settles O36: a request that is new is its body on the state in which it is taken and stamped. That a WAKE in SHUTDOWN answers
BUSY is R454, read with log 35. -/
theorem jmpRequestsComplete : Obligations.JmpRequestsComplete := by
  unfold Obligations.JmpRequestsComplete
  simp only [exec_jmpCommand, exec_jmpRegRead, exec_jmpRegWrite, exec_jmpMemWrite, exec_jmpMemRead, exec_jmpPower, exec_jmpWake,
    exec_jmpEventSend]
  refine ⟨?requests, fun p s es => execJmpEventSend_sent⟩
  rintro m s _ u hwords rfl hrunning htaken haccepted hlater hother
  have h : JmpAccepted m s u := ⟨hwords, hrunning, htaken, haccepted⟩
  have hnew : JmpNew m u := ⟨hlater, hother⟩
  refine ⟨fun p => h.command hnew, fun a n => h.regRead hnew, fun a n => h.regWrite hnew, h.memWrite hnew,
    fun a n => h.memRead hnew, ?power, fun htyp hbody => ⟨h.wake_shutdown hnew htyp hbody, h.wake_m0 hnew htyp hbody⟩⟩
  case power =>
    intro g htyp hlen hport howner hg
    rw [h.power hnew htyp hlen hport howner hg]
    exact ⟨fun hok => by rw [hok]; rfl, fun hother => by rw [ifS, if_neg (by simpa using hother)]⟩

/-! ## Requests that come again (R469) -/

theorem answeredAgain_stored {a : JmpOut} (h : (u.prt (jmpPart m)).answer = some a) :
    answeredAgain m u = jmpReply m a.typ a.seq a.body u := by
  rw [answeredAgain, h]

/-- A datagram dropped for a JMP partition is counted in its register. -/
theorem jmpDrop_counts (hwords : m.words ≠ []) (hjmp : transport (jmpPart m) s = 2) (hans : answers 0x190 s = true) :
    jmpDrop m s = countF (HST_JMP_DROP (jmpPart m)) s := by
  simp only [jmpDrop, ifS, hans, hjmp, decide_true, Bool.true_and, if_true]
  rw [if_pos (by simp [hwords])]

/-- The three requests of O49 and the step that executes each. -/
theorem exec_jmpOlder {c : Instr} (h : JmpAccepted m s u) (hset : (u.prt (jmpPart m)).lastSet = true)
    (hother : wordAt m.words 1 ≠ lastSeq m u) (holder : diff32 (wordAt m.words 1) (lastSeq m u) < 0)
    (hc : (jmpType m = 5 ∧ c = .jmpRegWrite m) ∨ (jmpType m = 7 ∧ c = .jmpMemWrite m) ∨ (jmpType m = 0xA ∧ c = .jmpPower m)) :
    exec c s = .next (jmpDrop m u) := by
  rcases hc with ⟨htyp, rfl⟩ | ⟨htyp, rfl⟩ | ⟨htyp, rfl⟩ <;>
    exact congrArg Host.Outcome.next (h.run_older htyp hset hother holder)

/-- Settles O49: a request with the last SEQ leaves its stored answer, and an older one its count alone. -/
theorem jmpRepeatAnsweredAgain : Obligations.JmpRepeatAnsweredAgain := by
  unfold Obligations.JmpRepeatAnsweredAgain
  intro m s u htaken hwords hrunning haccepted hset
  have h : JmpAccepted m s u := ⟨hwords, hrunning, htaken, haccepted⟩
  have hlast : lastSeq m u = (rd (HST_JMP_SEQ (jmpPart m)).addr s).toNat := by rw [htaken]; rfl
  rw [← hlast]
  refine ⟨fun a hseq ha => ?again, fun hother holder hjmp hans c hc => ?older⟩
  case again =>
    rw [← answeredAgain_stored ha]
    exact ⟨fun htyp => congrArg _ (h.run_repeat htyp hset hseq), fun htyp => congrArg _ (h.run_repeat htyp hset hseq),
      fun htyp => congrArg _ (h.run_repeat htyp hset hseq)⟩
  case older =>
    refine ⟨jmpDrop m u, exec_jmpOlder h hset hother holder hc, ?_⟩
    subst htaken
    rw [jmpDrop_counts hwords (by exact hjmp) (by exact hans)]
    exact ⟨rfl, rfl, rfl, fun a ha => rd_setF_other a _ _ ha⟩

end Sys2Proof.Machine
end

section
/-!
PROOFS. Register writes and their ownership (spec/19 R471, spec/21 R515, R521, R523, R524): writes that no one accepts, the pages whose
registers have no rule beyond their tables, and what a plain write leaves in each field.
-/

namespace Sys2Proof.Machine

variable {s : State} {who : Who} {addr page o v : Nat}

/-! ## Writes that are not accepted (R471) -/

theorem getF_lt (f : Fld) (s : State) : getF f s < 2 ^ (f.hi + 1 - f.lo) := Nat.mod_lt _ (Nat.two_pow_pos _)

theorem writeReg_rejected (hassigned : assigned (addr / 0x1000) = true) (hans : answers (addr / 0x1000) s = true)
    (hrefused : accepts who (addr / 0x1000) (addr % 0x1000) s = false) : writeReg who addr v s = rejectWrite who s :=
  guardWrite_reject hassigned hans hrefused

/-- A write not accepted from a partition is counted once more in its page, up to the top. -/
theorem rejectWrite_counts {p : Fin 8} (hs : s.Canonical) (hmain : mainOn s = true) :
    getF (HST_WREJ p.val) (rejectWrite (.part p) s) = satInc 0xFFFFFFFF (getF (HST_WREJ p.val) s) := by
  have hlt : getF (HST_WREJ p.val) s < 2 ^ 32 := getF_lt _ _
  have hcount : satInc 0xFFFFFFFF (getF (HST_WREJ p.val) s) < 2 ^ 32 := by
    unfold satInc
    split <;> omega
  calc getF (HST_WREJ p.val) (rejectWrite (.part p) s)
      = getF (HST_WREJ p.val) (countF (HST_WREJ p.val) s) := by rw [rejectWrite, ifS, if_pos hmain]
    _ = satInc 0xFFFFFFFF (getF (HST_WREJ p.val) s) % 2 ^ 32 := getF_setF_same _ _ ⟨Nat.zero_le _, Nat.le_refl _⟩ hs
    _ = satInc 0xFFFFFFFF (getF (HST_WREJ p.val) s) := Nat.mod_eq_of_lt hcount

theorem rd_rejectWrite_other {p : Fin 8} {a : Nat} (ha : a ≠ (HST_WREJ p.val).addr) : rd a (rejectWrite (.part p) s) = rd a s := by
  rw [rejectWrite, ifS]
  split
  · exact rd_setF_other a _ _ ha
  · rfl

theorem rejectWrite_regsOnly {p : Fin 8} : RegsOnly s (rejectWrite (.part p) s) := by
  rw [rejectWrite, ifS]
  split <;> exact RegsOnly.refl s

theorem exec_registerWrite (reqs : List WriteReq) : exec (.registerWrite reqs) s = execRegisterWrite reqs s := rfl

/-- Settles O50. -/
theorem unacceptedWriteIsCounted : Obligations.UnacceptedWriteIsCounted := by
  unfold Obligations.UnacceptedWriteIsCounted
  refine ⟨?rejected, fun page s => ⟨rfl, rfl, rfl⟩, ?partition⟩
  case rejected =>
    intro p addr v s hs hassigned hans hmain hrefused
    refine ⟨rejectWrite (.part p) s, ?_, rejectWrite_counts hs hmain, fun a => rd_rejectWrite_other, rejectWrite_regsOnly⟩
    rw [exec_registerWrite, execRegisterWrite_one, writeReg_rejected hassigned hans hrefused]
  case partition =>
    intro p page s
    simp only [mayWrite, isOwner, isAdmin, Bool.or_eq_true, decide_eq_true_iff]

/-! ## Pages without rules beyond their tables (R524) -/

/-- The pages whose registers from 0x100 up have no rule beyond their tables, HBM_CFG's traffic counts apart. -/
def plainPages : List Nat := [0x01, 0x18, 0x68, 0x170, 0x171, 0x172, 0x173, 0x178]

theorem mem_plainPages : page ∈ plainPages ↔ page = 0x01 ∨ page = 0x18 ∨ page = 0x68 ∨ 0x170 ≤ page ∧ page ≤ 0x173 ∨ page = 0x178 := by
  simp only [plainPages, List.mem_cons, List.not_mem_nil, or_false]
  omega

theorem accepts_plain (hpage : page ∈ plainPages) (ho : 0x100 ≤ o) : accepts who page o s = mayWrite who page s := by
  rw [mem_plainPages] at hpage
  unfold accepts
  iterate 10 rw [if_neg (by omega)]

/-- The register HBM_CFG of a stack. -/
def isHbmCfg (page o : Nat) : Prop := 0x170 ≤ page ∧ page ≤ 0x173 ∧ o = 0x100

theorem writeAt_plain (hpage : page ∈ plainPages) (ho : 0x100 ≤ o) (hcfg : ¬ isHbmCfg page o) :
    writeAt who page o v s = writePlain (0x1000 * page + o) v s := by
  rw [mem_plainPages] at hpage
  unfold isHbmCfg at hcfg
  unfold writeAt
  dsimp only
  iterate 27 rw [if_neg (by omega)]

/-- Before a write of HBM_CFG the traffic counts go on (log 3). -/
theorem writeAt_hbmCfg (h : isHbmCfg page o) :
    writeAt who page o v s = (s |> advanceTraffic (page - 0x170) |> writePlain (0x1000 * page + o) v) := by
  unfold isHbmCfg at h
  unfold writeAt
  dsimp only
  iterate 8 rw [if_neg (by omega)]
  rw [if_pos h]

/-- An accepted write to such a page is its effect. -/
theorem execRegisterWrite_accepted (v : Word) (hpage : addr / 0x1000 ∈ plainPages) (ho : 0x100 ≤ addr % 0x1000)
    (h : Accepted who (addr / 0x1000) s) : execRegisterWrite [⟨who, addr, v⟩] s =
      .next (writeAt who (addr / 0x1000) (addr % 0x1000) v.toNat s) := by
  obtain ⟨hassigned, hans, hmay⟩ := h
  rw [execRegisterWrite_one, writeReg, guardWrite_ok hassigned hans (by rw [accepts_plain hpage ho, hmay])]

theorem execRegisterWrite_plain (v : Word) (hpage : addr / 0x1000 ∈ plainPages) (ho : 0x100 ≤ addr % 0x1000)
    (hcfg : ¬ isHbmCfg (addr / 0x1000) (addr % 0x1000)) (h : Accepted who (addr / 0x1000) s) :
    execRegisterWrite [⟨who, addr, v⟩] s = .next (writePlain addr v.toNat s) := by
  rw [execRegisterWrite_accepted v hpage ho h, writeAt_plain hpage ho hcfg, Nat.div_add_mod]

/-! ## Reserved offsets (R515) -/

theorem writePlain_reserved (h : regAt addr = none) : writePlain addr v s = s := by rw [writePlain, h]

/-- HBM_CFG is no reserved offset. -/
theorem regAt_hbmCfg : ∀ i : Fin 4, regAt (0x1000 * (0x170 + i.val) + 0x100) ≠ none := by decide +kernel

theorem not_isHbmCfg_of_reserved (h : regAt addr = none) : ¬ isHbmCfg (addr / 0x1000) (addr % 0x1000) := by
  rintro ⟨hlow, hhigh, hoff⟩
  have haddr : addr = 0x1000 * (0x170 + (addr / 0x1000 - 0x170)) + 0x100 := by omega
  exact regAt_hbmCfg ⟨addr / 0x1000 - 0x170, by omega⟩ (by rw [← haddr]; exact h)

/-- Settles O44. -/
theorem reservedOffsetsReadZero : Obligations.ReservedOffsetsReadZero := by
  unfold Obligations.ReservedOffsetsReadZero
  refine ⟨fun addr s hreserved hshown => ?read, fun addr v s => writePlain_reserved, fun who addr v s hreserved hpage ho h => ?write⟩
  case read => rw [readNow, hshown, hreserved]; rfl
  case write =>
    rw [exec_registerWrite, execRegisterWrite_plain v hpage ho (not_isHbmCfg_of_reserved hreserved) h, writePlain_reserved hreserved]

/-! ## What a plain write leaves in a field (R521, R523) -/

/-- What field `d` holds after a write of `new` where it held `old`, by its access type. -/
def FieldDef.after (d : FieldDef) (old new : Nat) : Nat :=
  match d.acc with
  | .rw | .rws | .sh => d.rng.store old new
  | .cnt0 => if new = 0 then 0 else old
  | .w1c => Nat.xor old (Nat.land old new)
  | .setTo c => c
  | .ro | .wo | .own | .win => old

/-- A field lies within its word. -/
def FieldDef.Sound (d : FieldDef) : Prop := d.lo ≤ d.hi ∧ d.hi ≤ 31

/-- Two fields share no bit. -/
def FieldDef.Apart (d e : FieldDef) : Prop := d.hi < e.lo ∨ e.hi < d.lo

/-- Field `d` of the register at `a`. -/
def FieldDef.at (d : FieldDef) (a : Nat) : Fld := ⟨a, d.hi, d.lo⟩

variable {d e : FieldDef} {a : Nat}

/-- A write of a field is `setF`, or nothing where the field keeps its value. -/
theorem writeField_eq : writeField a v d s = setF (d.at a) (d.after (getF (d.at a) s) (bitsOf v d.hi d.lo)) s ∨
    (writeField a v d s = s ∧ d.after (getF (d.at a) s) (bitsOf v d.hi d.lo) = getF (d.at a) s) := by
  cases hacc : d.acc with
  | rw | rws | sh | w1c | setTo => exact .inl (by simp [writeField, FieldDef.after, FieldDef.at, clearF, hacc])
  | ro | wo | own | win => exact .inr (by simp [writeField, FieldDef.after, hacc])
  | cnt0 =>
    by_cases hzero : bitsOf v d.hi d.lo = 0
    · exact .inl (by simp [writeField, FieldDef.after, FieldDef.at, ifS, hacc, hzero])
    · exact .inr (by simp [writeField, FieldDef.after, ifS, hacc, hzero])

theorem writeField_canonical (hs : s.Canonical) : (writeField a v d s).Canonical := by
  rcases writeField_eq (s := s) (a := a) (v := v) (d := d) with h | ⟨h, -⟩
  · rw [h]
    exact wr_canonical _ _ hs
  · rwa [h]

theorem getF_writeField_same (hd : d.Sound) (hs : s.Canonical) : getF (d.at a) (writeField a v d s) =
    d.after (getF (d.at a) s) (bitsOf v d.hi d.lo) % 2 ^ (d.hi + 1 - d.lo) := by
  rcases writeField_eq (s := s) (a := a) (v := v) (d := d) with h | ⟨h, hkept⟩
  · rw [h, getF_setF_same (d.at a) _ hd hs]
    rfl
  · rw [h, hkept]
    exact (Nat.mod_eq_of_lt (getF_lt (d.at a) s)).symm

/-- A field that shares no bit with the one written keeps its value. -/
theorem getF_writeField_apart (hd : d.Sound) (he : e.Sound) (hapart : e.Apart d) (hs : s.Canonical) :
    getF (e.at a) (writeField a v d s) = getF (e.at a) s := by
  rcases writeField_eq (s := s) (a := a) (v := v) (d := d) with h | ⟨h, -⟩
  · rw [h, getF_setF_apart (e.at a) (d.at a) _ rfl he hd hapart hs]
  · rw [h]

theorem rd_writeField_other {b : Nat} (hb : b ≠ a) : rd b (writeField a v d s) = rd b s := by
  rcases writeField_eq (s := s) (a := a) (v := v) (d := d) with h | ⟨h, -⟩
  · rw [h, rd_setF_other b (d.at a) _ hb]
  · rw [h]

theorem writeField_regsOnly {t : State} (ht : RegsOnly t s) : RegsOnly t (writeField a v d s) := by
  rcases writeField_eq (s := s) (a := a) (v := v) (d := d) with h | ⟨h, -⟩
  · rw [h]
    exact ht.setF _ _
  · rwa [h]

/-! ## The fields of a register together -/

/-- The fields lie within the word and share no bit. -/
def FieldsSound (l : List FieldDef) : Prop := (∀ d ∈ l, d.Sound) ∧ l.Pairwise FieldDef.Apart

theorem writeFields_canonical (l : List FieldDef) (hs : s.Canonical) : (each l (writeField a v) s).Canonical :=
  foldl_keeps (P := State.Canonical) hs fun _ _ h => writeField_canonical h

theorem rd_writeFields_other {b : Nat} (l : List FieldDef) (hb : b ≠ a) : rd b (each l (writeField a v) s) = rd b s :=
  foldl_keeps (P := fun t => rd b t = rd b s) rfl fun _ _ h => (rd_writeField_other hb).trans h

theorem writeFields_regsOnly (l : List FieldDef) : RegsOnly s (each l (writeField a v) s) :=
  foldl_keeps (P := RegsOnly s) (RegsOnly.refl s) fun _ _ h => writeField_regsOnly h

/-- A field that shares no bit with those written keeps its value. -/
theorem getF_writeFields_apart {l : List FieldDef} (hl : ∀ d ∈ l, d.Sound) (he : e.Sound) (hapart : ∀ d ∈ l, e.Apart d)
    (hs : s.Canonical) : getF (e.at a) (each l (writeField a v) s) = getF (e.at a) s := by
  induction l generalizing s with
  | nil => rfl
  | cons d r ih =>
    have hrest := ih (fun x hx => hl x (List.mem_cons_of_mem _ hx)) (fun x hx => hapart x (List.mem_cons_of_mem _ hx))
      (writeField_canonical (a := a) (v := v) (d := d) hs)
    exact hrest.trans (getF_writeField_apart (hl d List.mem_cons_self) he (hapart d List.mem_cons_self) hs)

/-- Every field of a register takes its own bits of the word written. -/
theorem getF_writeFields {l : List FieldDef} (hl : FieldsSound l) (he : e ∈ l) (hs : s.Canonical) :
    getF (e.at a) (each l (writeField a v) s) = e.after (getF (e.at a) s) (bitsOf v e.hi e.lo) % 2 ^ (e.hi + 1 - e.lo) := by
  obtain ⟨hsound, hapart⟩ := hl
  induction l generalizing s with
  | nil => cases he
  | cons d r ih =>
    obtain ⟨hhead, htail⟩ := List.pairwise_cons.1 hapart
    have hr : ∀ x ∈ r, x.Sound := fun x hx => hsound x (List.mem_cons_of_mem _ hx)
    have hd : d.Sound := hsound d List.mem_cons_self
    have hwritten : (writeField a v d s).Canonical := writeField_canonical hs
    rcases List.mem_cons.1 he with rfl | hmem
    · exact (getF_writeFields_apart hr hd hhead hwritten).trans (getF_writeField_same hd hs)
    · have hkept := getF_writeField_apart (a := a) (v := v) hd (hr e hmem) (hhead e hmem).symm hs
      exact (ih hmem hwritten hr htail).trans (by rw [hkept])

/-- The fields of every register of the tables lie within the word and share no bit. -/
theorem regTable_sound : ∀ d ∈ regTable, (∀ f ∈ d.fields, f.lo ≤ f.hi ∧ f.hi ≤ 31) ∧
    d.fields.Pairwise (fun f g => f.hi < g.lo ∨ g.hi < f.lo) := by decide +kernel

theorem regAt_sound {r : RegDef} (h : regAt addr = some r) : FieldsSound r.fields := regTable_sound r (List.mem_of_find?_eq_some h)

theorem writePlain_eq {r : RegDef} (h : regAt addr = some r) : writePlain addr v s = each r.fields (writeField addr v) s := by
  rw [writePlain, h]

/-! ## The access types -/

variable {old new : Nat}

theorem FieldDef.after_any (hacc : d.acc ∈ [.rw, .rws, .sh]) (hrng : d.rng = .any) : d.after old new = new := by
  simp only [List.mem_cons, List.not_mem_nil, or_false] at hacc
  rcases hacc with h | h | h <;> simp [FieldDef.after, h, hrng, Rng.store]

theorem FieldDef.after_keep {lo hi : Nat} (hacc : d.acc ∈ [.rw, .rws, .sh]) (hrng : d.rng = .keep lo hi) :
    d.after old new = if lo ≤ new ∧ new ≤ hi then new else old := by
  simp only [List.mem_cons, List.not_mem_nil, or_false] at hacc
  rcases hacc with h | h | h <;> simp [FieldDef.after, h, hrng, Rng.store]

theorem FieldDef.after_cnt0 (hacc : d.acc = .cnt0) : d.after old new = if new = 0 then 0 else old := by
  simp [FieldDef.after, hacc]

theorem FieldDef.after_w1c (hacc : d.acc = .w1c) : d.after old new = old ^^^ (old &&& new) := by
  simp only [FieldDef.after, hacc]
  rfl

theorem FieldDef.after_readOnly (hacc : d.acc ∈ [.ro, .wo, .own, .win]) : d.after old new = old := by
  simp only [List.mem_cons, List.not_mem_nil, or_false] at hacc
  rcases hacc with h | h | h | h <;> simp [FieldDef.after, h]

/-- Of a W1C field exactly the bits written as 1 are cleared. -/
theorem bitOf_xor_and (old new i : Nat) : bitOf (old ^^^ (old &&& new)) i = (bitOf old i && !bitOf new i) := by
  simp only [bitOf_eq_testBit, Nat.testBit_xor, Nat.testBit_and]
  cases old.testBit i <;> cases new.testBit i <;> rfl

/-- Settles O55: a plain write is the write of each of its register's fields, which share no bit; on these pages an accepted write is
plain, but that before one of HBM_CFG the traffic counts go on by free amounts (log 3). -/
theorem fieldsFollowTheirAccessType : Obligations.FieldsFollowTheirAccessType := by
  unfold Obligations.FieldsFollowTheirAccessType
  refine ⟨?fields, fun who addr v s hpage ho hcfg h => ?plain, fun who i v s h => ?hbmCfg⟩
  case fields =>
    rintro addr v s _ r hs hr rfl
    rw [writePlain_eq hr]
    refine ⟨?field, fun a ha => rd_writeFields_other _ ha, writeFields_regsOnly _⟩
    intro d hd new old after hnew hold hafter
    have hw : after = d.after old new % 2 ^ (d.hi + 1 - d.lo) := by
      rw [hafter, hnew, hold]
      exact getF_writeFields (regAt_sound hr) hd hs
    have hnewLt : new < 2 ^ (d.hi + 1 - d.lo) := hnew ▸ Nat.mod_lt _ (Nat.two_pow_pos _)
    have holdLt : old < 2 ^ (d.hi + 1 - d.lo) := hold ▸ getF_lt _ s
    refine ⟨fun hacc hrng => ?any, fun hacc lo hi hrng => ?keep, fun hacc => ?cnt0, fun hacc i => ?w1c, fun hacc => ?readOnly⟩
    case any => rw [hw, FieldDef.after_any hacc hrng, Nat.mod_eq_of_lt hnewLt]
    case keep =>
      rw [hw, FieldDef.after_keep hacc hrng, Nat.mod_eq_of_lt]
      split <;> assumption
    case cnt0 =>
      rw [hw, FieldDef.after_cnt0 hacc, Nat.mod_eq_of_lt]
      split
      · exact Nat.two_pow_pos _
      · exact holdLt
    case w1c =>
      rw [hw, FieldDef.after_w1c hacc, Nat.mod_eq_of_lt (Nat.xor_lt_two_pow holdLt (Nat.and_lt_two_pow _ hnewLt)), bitOf_xor_and]
    case readOnly => rw [hw, FieldDef.after_readOnly hacc, Nat.mod_eq_of_lt holdLt]
  case plain =>
    rw [exec_registerWrite]
    refine execRegisterWrite_plain v hpage ho ?_ h
    rintro ⟨hlow, hhigh, hoff⟩
    have := hcfg hoff
    omega
  case hbmCfg =>
    have hpage : (0x1000 * (0x170 + i.val) + 0x100) / 0x1000 = 0x170 + i.val := by omega
    have hoff : (0x1000 * (0x170 + i.val) + 0x100) % 0x1000 = 0x100 := by omega
    have hplain : 0x170 + i.val ∈ plainPages := mem_plainPages.2 (by omega)
    rw [exec_registerWrite, execRegisterWrite_accepted v (by rwa [hpage]) (by omega) (by rwa [hpage]), hpage, hoff,
      writeAt_hbmCfg ⟨by omega, by omega, rfl⟩, Nat.add_sub_cancel_left]

end Sys2Proof.Machine
end

section
/-!
PROOFS. Updates (spec/20): FWU_BEGIN and FWU_CHUNK (R507), FWU_VERIFY (R496, R507), FWU_ACTIVATE (R508), FWU_CONFIRM and FWU_ABORT
(R509).
-/

namespace Sys2Proof.Machine

variable {s t : State} {c : Cmd} {op : Nat} {d : Download}

/-- An update command of the owner of page 0x1A0 that is met on `t`, the state in which it is marked as begun. -/
structure OwnerUpdates (op : Nat) (c : Cmd) (s t : State) : Prop where
  served : Served op c s
  started : t = markStarted op c s
  owner : isOwner c.who 0x1A0 t = true

theorem OwnerUpdates.updateCmd_eq {body : State → State} (h : OwnerUpdates op c s t) : updateCmd op c body s = body t := by
  obtain ⟨hserved, ht, howner⟩ := h
  have hready : ¬ (mayStart op c s && decide (gate (judgedPages op c) s = .notReady)) = true := by
    simp [hserved.2]
  simp only [updateCmd, runCmd_served hserved, ← ht, ifS, howner, if_true, if_neg hready]

theorem updateSrc_reads {f : List Byte → State → State} (h : srcBad c s = false) : updateSrc op c f s = f (srcBytes c s) s :=
  if_neg (ne_true_of_eq_false h)

/-! ## Begin and chunks (R507) -/

/-- A download begins, into the slot that is not active. -/
def downloadBegun (m : List Byte) (s : State) : State :=
  setDl (some ⟨!(bootRec s).slot, m, ceilDiv (8192 + wordAt (bytesWords m) 4) 65536, [], false⟩) s

/-- No trial runs or is recorded (log 68), outside the activation pause, and SRC is a manifest. -/
structure MayBegin (c : Cmd) (s : State) : Prop where
  noTrial : trialRuns s = false
  noRecord : (bootRec s).trial = false
  running : s.fwu.pause = false
  length : c.src.len = 64
  readable : srcBad c s = false

theorem execFwuBegin_fresh (h : OwnerUpdates 0x58 c s t) (hmay : MayBegin c t) (hnone : t.fwu.dl = none) :
    execFwuBegin c s = .next (t |> downloadBegun (srcBytes c t) |> fwuDone 0x58 c DONE 0 0) := by
  obtain ⟨htrial, hrecord, hrunning, hlen, hsrc⟩ := hmay
  simp only [execFwuBegin, h.updateCmd_eq, htrial, hrecord, hrunning, hlen, updateSrc_reads hsrc, hnone, Bool.or_self,
    Bool.false_eq_true, if_false, ne_eq, not_true_eq_false, downloadBegun]

/-- The download of the same manifest goes on, with the chunks that it has. -/
theorem execFwuBegin_same (h : OwnerUpdates 0x58 c s t) (hmay : MayBegin c t) (hd : t.fwu.dl = some d)
    (hsame : d.manifest = srcBytes c t) : execFwuBegin c s = .next (fwuDone 0x58 c DONE 0 d.have_.length t) := by
  obtain ⟨htrial, hrecord, hrunning, hlen, hsrc⟩ := hmay
  simp only [execFwuBegin, h.updateCmd_eq, htrial, hrecord, hrunning, hlen, updateSrc_reads hsrc, hd, hsame, Bool.or_self,
    Bool.false_eq_true, if_false, if_true, ne_eq, not_true_eq_false]

theorem execFwuChunk_programs {i : Nat} (h : OwnerUpdates 0x59 c s t) (hd : t.fwu.dl = some d) (hi : i = c.argF 0 8 0)
    (hchunk : i < d.chunks) (hsome : 0 < c.src.len) (hmax : c.src.len ≤ 65536) (hlast : c.src.len = 65536 ∨ i + 1 = d.chunks)
    (hsrc : srcBad c t = false) (hfirst : i = 0 → (srcBytes c t).take 64 = d.manifest) : execFwuChunk c s =
      .next (t |> eraseSlot d.slot (65536 * i) 65536 |> programSlot d.slot (65536 * i) (srcBytes c t)
        |> setDl (some { d with have_ := i :: d.have_.filter (fun k => decide (k ≠ i)), verified := false })
        |> fwuDone 0x59 c DONE 0 0) := by
  subst hi
  have hargs : ¬ (d.chunks ≤ c.argF 0 8 0 ∨ c.src.len = 0 ∨ 65536 < c.src.len ∨ (c.src.len ≠ 65536 ∧ c.argF 0 8 0 + 1 ≠ d.chunks)) := by
    omega
  have hmanifest : ¬ (c.argF 0 8 0 = 0 ∧ (srcBytes c t).take 64 ≠ d.manifest) := fun ⟨hzero, hother⟩ => hother (hfirst hzero)
  rw [execFwuChunk, h.updateCmd_eq, hd]
  exact congrArg Host.Outcome.next ((if_neg hargs).trans ((updateSrc_reads hsrc).trans (if_neg hmanifest)))

/-! ## Verify (R496, R507) -/

/-- The outcome `r` of the checks on download `d` is recorded: 0 where it passes. -/
def verifyRecorded (c : Cmd) (d : Download) (r : Nat) (s : State) : State :=
  if r = 0 then s |> setDl (some { d with verified := true }) |> fwuDone 0x5A c DONE 0 0
  else s |> setDl (some { d with verified := false }) |> setF FWU_REJ_REASON r |> fwuDone 0x5A c (verifyStatus r) r r

theorem execFwuVerify_complete {r : Nat} (h : OwnerUpdates 0x5A c s t) (hd : t.fwu.dl = some d)
    (hcomplete : d.chunks ≤ d.have_.length) (hr : r = verifyImage d.slot t) :
    execFwuVerify c s = .next (verifyRecorded c d r t) := by
  simp only [execFwuVerify, h.updateCmd_eq, hd, if_neg (Nat.not_lt.2 hcomplete), ← hr, verifyRecorded]
  by_cases hzero : r = 0
  · simp only [hzero, ifS, decide_true, ne_eq, not_true_eq_false, decide_false, Bool.false_eq_true, if_false, if_true, verifyStatus]
  · simp only [hzero, ifS, decide_false, ne_eq, not_false_eq_true, decide_true, if_true, if_false]

/-! ## Activate, confirm and abort (R508, R509) -/

/-- The trial boot record is written, the download is over, and the pause begins. -/
def trialPrepared (c : Cmd) (s : State) : State :=
  s |> complete false (refOf 0x5B c) ACCEPTED 0 0 0
    |> writeBoot { bootRec s with trial := true, tries := 1, tcfg := !(bootRec s).cfgHalf } |> setDl none |> beginPause

theorem execFwuActivate_verified {u : State} (h : OwnerUpdates 0x5B c s t) (hrunning : t.fwu.pause = false) (hd : t.fwu.dl = some d)
    (hverified : d.verified = true) (hu : u = trialPrepared c t) :
    execFwuActivate c s = .next { u with fwu := { u.fwu with activate := some (refOf 0x5B c) } } := by
  subst hu
  simp only [execFwuActivate, h.updateCmd_eq, hrunning, hd, Option.any_some, hverified, Bool.not_true, Bool.or_self,
    Bool.false_eq_true, if_false, trialPrepared]

/-- The slot and half on trial are the confirmed ones, and the fuses are blown. -/
def trialConfirmed (s : State) : State :=
  s |> writeBoot { bootRec s with slot := runSlot s, trial := false, cfgHalf := (bootRec s).tcfg, tcfg := (bootRec s).cfgHalf }
    |> blowFuses (runSlot s) |> setB FWU_BOOT_TRIAL false |> setF FWU_BOOT_TRIES 0

theorem execFwuConfirm_trial {u : State} (h : OwnerUpdates 0x5C c s t) (htrial : trialRuns t = true) (hu : u = trialConfirmed t) :
    execFwuConfirm c s = .next ({ u with fwu := { u.fwu with erase := true } } |> fwuDone 0x5C c DONE 0 0 |> raise 0x1A0 7) := by
  subst hu
  simp only [execFwuConfirm, h.updateCmd_eq, htrial, Bool.not_true, Bool.false_eq_true, if_false, trialConfirmed]

theorem execFwuAbort_download (h : OwnerUpdates 0x5D c s t) (htrial : trialRuns t = false) (hd : t.fwu.dl.isSome = true) :
    execFwuAbort c s = .next (t |> setDl none |> fwuDone 0x5D c DONE 0 0) := by
  simp only [execFwuAbort, h.updateCmd_eq, htrial, hd, Bool.false_eq_true, if_false, if_true]

/-- A trial that is aborted falls back to the confirmed image. -/
theorem execFwuAbort_trial (h : OwnerUpdates 0x5D c s t) (htrial : trialRuns t = true) : execFwuAbort c s =
    .next (t |> writeBoot { bootRec t with trial := false } |> raise 0x1A0 4 |> fwuDone 0x5D c DONE 0 0 |> beginPause
      |> trySlot (bootRec t).slot (bootRec t).cfgHalf false 0) := by
  simp only [execFwuAbort, h.updateCmd_eq, htrial, if_true]

/-! ## The commands -/

theorem exec_fwuBegin : exec (.fwuBegin c) s = execFwuBegin c s := rfl

theorem exec_fwuChunk : exec (.fwuChunk c) s = execFwuChunk c s := rfl

theorem exec_fwuVerify : exec (.fwuVerify c) s = execFwuVerify c s := rfl

theorem exec_fwuActivate : exec (.fwuActivate c) s = execFwuActivate c s := rfl

theorem exec_fwuConfirm : exec (.fwuConfirm c) s = execFwuConfirm c s := rfl

theorem exec_fwuAbort : exec (.fwuAbort c) s = execFwuAbort c s := rfl

/-- Settles O37: a command of the owner is its body on the state in which it is marked as begun. That no download begins while the boot
record names a trial is log 68; an accepted activation ends the download, since its image is on trial from then on. -/
theorem updateCommandsComplete : Obligations.UpdateCommandsComplete := by
  unfold Obligations.UpdateCommandsComplete
  simp only [exec_fwuBegin, exec_fwuChunk, exec_fwuVerify, exec_fwuActivate, exec_fwuConfirm, exec_fwuAbort]
  rintro op c s t _ ht hserved howner rfl
  have h : OwnerUpdates op c s t := ⟨hserved, ht, howner⟩
  refine ⟨?begins, ?chunk, ?verify, ?activate, ?confirm, ?abortDownload, ?abortTrial⟩
  case begins =>
    rintro rfl htrial hrecord hrunning hlen hsrc
    have hmay : MayBegin c t := ⟨htrial, hrecord, hrunning, hlen, hsrc⟩
    exact ⟨execFwuBegin_fresh h hmay, fun d => execFwuBegin_same h hmay⟩
  case chunk =>
    rintro d i rfl
    exact execFwuChunk_programs h
  case verify =>
    rintro d r rfl hd hcomplete hr
    exact execFwuVerify_complete h hd hcomplete hr
  case activate =>
    rintro d u rfl
    exact execFwuActivate_verified h
  case confirm =>
    rintro u rfl
    exact execFwuConfirm_trial h
  case abortDownload =>
    rintro rfl
    exact execFwuAbort_download h
  case abortTrial =>
    rintro rfl
    exact execFwuAbort_trial h

end Sys2Proof.Machine
end

section
/-!
PROOFS. Boot, store and attestation (spec/20): the activation pause ends (R508), images restart (R509), items are written and read
(R503), the old half is erased (R505), reports are signed (R511), the device boots (R498, R501) and recovers (R502).
-/

namespace Sys2Proof.Machine

variable {s t : State} {c : Cmd}

/-! ## The activation pause (R508) and the watchdog (R509) -/

/-- The pause ends `us` after it began: what was outstanding for 100 ms is aborted but for the activation `a`. -/
def pauseEnded (us : Nat) (a : Option CmdRef) (s : State) : State :=
  s |> ifS (decide (100000 ≤ us)) (each (List.range 8) (abortOutstanding a))
    |> (fun u => { u with fwu := { u.fwu with pause := false, activate := none } }) |> setF FWU_PAUSE_US (min us 0xFFFFF)

theorem execActivationPauseEnd_idle {us : Nat} (hpause : s.fwu.pause = true) (hnone : s.fwu.activate = none)
    (ht : t = pauseEnded us s.fwu.activate s) : execActivationPauseEnd us s = .next (migrate t) := by
  subst ht
  simp only [execActivationPauseEnd, hpause, hnone, Bool.not_true, Bool.false_eq_true, if_false, pauseEnded]

/-- An activation completes with the trial image's first fetch. -/
theorem execActivationPauseEnd_activates {us : Nat} {ref : CmdRef} (hpause : s.fwu.pause = true) (href : s.fwu.activate = some ref)
    (ht : t = pauseEnded us s.fwu.activate s) : execActivationPauseEnd us s =
      .next (t |> runImage (!(bootRec t).slot) (bootRec t).tcfg true false 1 |> migrate |> complete true ref DONE 0 0 0
        |> raise 0x1A0 6) := by
  subst ht
  simp only [execActivationPauseEnd, hpause, href, Bool.not_true, Bool.false_eq_true, if_false, pauseEnded]

/-- The watchdog restarts the image: a trial as a counted trial boot. -/
theorem execFwWatchdogExpire_runs (hmain : mainOn s = true) (hstage : stage s = 1 ∨ stage s = 2) (hrunning : s.fwu.pause = false) :
    execFwWatchdogExpire s = .next (s |> addF FWU_BOOT_WDOG 1 |> beginPause |> ifS (trialRuns s) romSelect) := by
  have hup : (decide (stage s = 1) || decide (stage s = 2)) = true := by simpa using hstage
  simp only [execFwWatchdogExpire, hmain, hup, hrunning, Bool.not_true, Bool.or_self, Bool.false_eq_true, if_false]

/-! ## The configuration store (R503, R505) -/

theorem execCfgItem_writes {k : Nat} (hserved : Served 0x5E c s) (ht : t = markStarted 0x5E c s) (hk : k = c.argF 0 15 0)
    (hknown : keyKnown k = true) (hwrite : c.argF 0 31 31 = 1) (hadmin : isAdmin c.who t = true) (hlen : c.src.len ≤ 65536)
    (hsrc : srcBad c t = false)
    (hroom : halfSize (runHalf t) t - (FMap.get [] (halfItems (runHalf t) t) k).length + c.src.len ≤ 5242880) : execCfgItem c s =
      .next (t |> writeItem (runHalf t) (imageCfmt (runSlot t) t + 1) k (srcBytes c t) |> answer 0x5E c DONE) := by
  subst hk
  have hgood : ¬ (!keyKnown (c.argF 0 15 0) || (decide (0x1000 ≤ c.argF 0 15 0) && decide (65536 < c.src.len))) = true := by
    simp [hknown, Nat.not_lt.2 hlen]
  have hfits : ¬ itemFull (runHalf t) (c.argF 0 15 0) c.src.len t = true := by
    simpa [itemFull] using hroom
  rw [execCfgItem, runCmd_served hserved, ← ht]
  exact congrArg Host.Outcome.next ((if_pos hwrite).trans ((if_neg (by simp [hadmin])).trans ((if_neg hgood).trans
    ((if_neg (ne_true_of_eq_false hsrc)).trans (if_neg hfits)))))

theorem execCfgItem_reads {k : Nat} (hserved : Served 0x5E c s) (ht : t = markStarted 0x5E c s) (hk : k = c.argF 0 15 0)
    (hknown : keyKnown k = true) (hread : c.argF 0 31 31 = 0) (hdst : dstBad c t = false) : execCfgItem c s =
      .next (t |> memWrite (opSpace c c.dst t) c.dst.addr ((FMap.get [] (halfItems (runHalf t) t) k).take c.dst.len)
        |> finish 0x5E c DONE 0 ((FMap.get [] (halfItems (runHalf t) t) k).take c.dst.len).length 0) := by
  subst hk
  rw [execCfgItem, runCmd_served hserved, ← ht]
  exact congrArg Host.Outcome.next ((if_neg (by omega)).trans ((if_neg (by simp [hknown])).trans (if_neg (ne_true_of_eq_false hdst))))

theorem execCfgHalfErase_due (h : s.fwu.erase = true) : execCfgHalfErase s =
    .next (setHalf (!(bootRec s).cfgHalf) [] 0 { s with fwu := { s.fwu with erase := false } }) := by
  simp only [execCfgHalfErase, h, Bool.not_true, Bool.false_eq_true, if_false]

/-! ## Attestation (R511) -/

/-- A report that is alone in its cycle is served, and the pointer of R41 stays. -/
theorem serveReports_one : serveReports [c] s = reportOne c s := by
  cases hwho : isFw c.who
  case true =>
    simp only [serveReports, List.filter_cons, hwho, Bool.not_true, Bool.false_eq_true, if_false, if_true, List.filter_nil, each_one]
    rfl
  case false =>
    simp only [serveReports, List.filter_cons, hwho, Bool.not_false, Bool.false_eq_true, if_false, if_true, List.filter_nil, each_nil]
    rfl

/-- The body of a report without its key, over the nonce of SRC. -/
def reportBytes (c : Cmd) (s : State) : List Byte := wordsBytes (reportBody false (srcWords c s) s)

/-- The signature is a free value, since it depends on the device's private key (log 14). -/
theorem reportOne_signs {b : List Byte} (hsrc : SrcReads c 32 s) (hkey : c.argF 0 0 0 = 0) (hroom : 2580 ≤ c.dst.len)
    (hdst : dstBad c s = false) (hb : b = reportBytes c s ++ fitBytes 2420 (Config.mldsaSign s.free (sha3 (reportBytes c s)))) :
    reportOne c s = ({ s with free := s.free + 1 } |> memWrite (opSpace c c.dst s) c.dst.addr b |> addF ATT_STAT_COUNT 1
      |> finish 0x5F c DONE 0 b.length 0 |> raise 0x1A1 2) := by
  subst hb
  simp only [reportOne, hkey, zero_ne_one, decide_false, Bool.false_eq_true, if_false, if_neg (Nat.not_lt.2 hroom),
    if_neg (ne_true_of_eq_false hdst), withLen_reads hsrc, List.append_nil, reportBytes]

/-! ## Boot (R498–R501) -/

/-- The state in which an image has loaded the store. -/
def storeLoaded (s : State) : State := s |> migrate |> loadStore

/-- The firmware starts its pages at REDUCED (log 36), with the early plane `e`. -/
def reducedReached (e : (Nat × Nat) × FMap Byte) (s : State) : State :=
  s |> (fun u => { u with fwu := { u.fwu with early := e.2, earlyW := e.1.1, earlyH := e.1.2 } })
    |> setF FWU_BOOT_STAGE 1 |> raise 0x1A0 2 |> (fun u => each (bootPages u) bootEnable u)
    |> fun u => ifS (earlyFull u) (fun u => u |> countF HBM_TFULL |> raise 0x170 6) u

theorem execBootReduced_noMap {e : (Nat × Nat) × FMap Byte} (hmain : mainOn s = true) (hboots : pwrState s = 6)
    (hstage : stage s = 0) (hrecovery : s.fwu.recovery = false) (he : e = slatePlane (storeLoaded s))
    (ht : t = reducedReached e (storeLoaded s)) (hmap : earlyMap t = none) :
    execBootReduced s = .next (each (feedPort t) bootEnable t) := by
  have hdue : ¬ (!mainOn s || decide (pwrState s ≠ 6) || decide (stage s ≠ 0) || s.fwu.recovery) = true := by
    simp [hmain, hboots, hstage, hrecovery]
  subst he ht
  unfold reducedReached storeLoaded at hmap
  simp only [execBootReduced, if_neg hdue, hmap, reducedReached, storeLoaded]

theorem execBootFull_ready (hmain : mainOn s = true) (hboots : pwrState s = 6) (hstage : stage s = 1) (hready : fullReady s = true)
    (hlate : earlyMode s = false) : execBootFull s =
      .next (s |> writeEarly |> closeFeed |> setF FWU_BOOT_STAGE 2 |> setPwr 0 |> raise 0x1A0 3) := by
  have hdue : ¬ (!mainOn s || decide (pwrState s ≠ 6) || decide (stage s ≠ 1) || !fullReady s) = true := by
    simp [hmain, hboots, hstage, hready]
  simp only [execBootFull, if_neg hdue, hlate, ifS, Bool.false_eq_true, if_false]

/-! ## Recovery (R502) -/

/-- The word of FWU_RCV_CTRL that names slot `b` and commands nothing. -/
def rcvSlotWord (b : Bool) : Word := if b then 0x80000000 else 0

theorem writeRcvCtrl_program {b : Bool} (h : inRecovery s = true) :
    writeRcvCtrl (Nat.lor (rcvSlotWord b).toNat 1) s = rcvProgram (setB FWU_RCV_CTRL_SLOT b s) := by
  have hbits : bitOf (Nat.lor (rcvSlotWord b).toNat 1) 31 = b ∧ bitOf (Nat.lor (rcvSlotWord b).toNat 1) 0 = true ∧
      bitOf (Nat.lor (rcvSlotWord b).toNat 1) 1 = false := by cases b <;> decide
  obtain ⟨hslot, hprogram, hverify⟩ := hbits
  simp only [writeRcvCtrl, h, hslot, hprogram, hverify, ifS, Bool.not_true, Bool.false_eq_true, if_false, if_true]

theorem writeRcvCtrl_verify {b : Bool} (h : inRecovery s = true) :
    writeRcvCtrl (Nat.lor (rcvSlotWord b).toNat 2) s = rcvVerify (setB FWU_RCV_CTRL_SLOT b s) := by
  have hbits : bitOf (Nat.lor (rcvSlotWord b).toNat 2) 31 = b ∧ bitOf (Nat.lor (rcvSlotWord b).toNat 2) 0 = false ∧
      bitOf (Nat.lor (rcvSlotWord b).toNat 2) 1 = true := by cases b <;> decide
  obtain ⟨hslot, hprogram, hverify⟩ := hbits
  simp only [writeRcvCtrl, h, hslot, hprogram, hverify, ifS, Bool.not_true, Bool.false_eq_true, if_false, if_true]

/-! ## The commands -/

theorem exec_activationPauseEnd (us : Nat) : exec (.activationPauseEnd us) s = execActivationPauseEnd us s := rfl

theorem exec_fwWatchdogExpire : exec .fwWatchdogExpire s = execFwWatchdogExpire s := rfl

theorem exec_cfgItem : exec (.cfgItem c) s = execCfgItem c s := rfl

theorem exec_cfgHalfErase : exec .cfgHalfErase s = execCfgHalfErase s := rfl

theorem exec_attReport (cs : List Cmd) : exec (.attReport cs) s = execAttReport cs s := rfl

theorem exec_bootReduced : exec .bootReduced s = execBootReduced s := rfl

theorem exec_bootFull : exec .bootFull s = execBootFull s := rfl

theorem exec_fwuRcvProgram (who : Who) (v : Word) : exec (.fwuRcvProgram who v) s = execFwuRcvProgram who v s := rfl

theorem exec_fwuRcvVerify (who : Who) (v : Word) : exec (.fwuRcvVerify who v) s = execFwuRcvVerify who v s := rfl

/-- Settles O38: each happening has its effect in the state in which it is due, and each command is its body on the state in which it
is marked as begun; CFG_ITEM is R506's too. Which pages the firmware starts at REDUCED, and that the FEED closes with early mode, are
log 36; the signature of a report is a free value (log 14). -/
theorem storeBootAndReportComplete : Obligations.StoreBootAndReportComplete := by
  unfold Obligations.StoreBootAndReportComplete
  simp only [exec_activationPauseEnd, exec_fwWatchdogExpire, exec_cfgItem, exec_cfgHalfErase, exec_attReport, exec_bootReduced,
    exec_bootFull, exec_fwuRcvProgram, exec_fwuRcvVerify]
  refine ⟨?pause, ?watchdog, ?item, fun s => execCfgHalfErase_due, ?report, fun s e t => execBootReduced_noMap, ?full, ?recovery⟩
  case pause =>
    rintro us s _ t hpause rfl ht
    exact ⟨fun hnone => execActivationPauseEnd_idle hpause hnone ht, fun ref href => execActivationPauseEnd_activates hpause href ht⟩
  case watchdog =>
    rintro s _ hmain hstage hrunning rfl
    rw [execFwWatchdogExpire_runs hmain hstage hrunning]
    exact ⟨fun htrial => congrArg _ (if_pos htrial), fun hno => congrArg _ (if_neg (ne_true_of_eq_false hno))⟩
  case item =>
    rintro c s t _ _ k ht hserved rfl rfl hk hknown
    exact ⟨execCfgItem_writes hserved ht hk hknown, execCfgItem_reads hserved ht hk hknown⟩
  case report =>
    rintro c s t _ b ht hserved hsrc hkey hroom hdst rfl hb
    have hwords : srcWords c t = srcWords c s := by rw [ht, markStarted_srcWords]
    rw [← hwords] at hb
    rw [execAttReport, runTies_one hserved, serveReports_one, ← ht]
    exact congrArg _ (reportOne_signs (ht ▸ srcReads_started.2 hsrc) hkey hroom hdst hb)
  case full =>
    rintro s _ hmain hboots hstage hready rfl hlate
    exact execBootFull_ready hmain hboots hstage hready hlate
  case recovery =>
    rintro who b _ s _ h hrecovery rfl rfl
    exact ⟨congrArg Host.Outcome.next ((guardWrite_accepted h).trans (writeRcvCtrl_program hrecovery)),
      congrArg Host.Outcome.next ((guardWrite_accepted h).trans (writeRcvCtrl_verify hrecovery))⟩

end Sys2Proof.Machine
end

section
/-!
PROOFS. Records of the flash (spec/20): the boot record in force (R492, R493) and the items of a configuration half (R503).
-/

namespace Sys2Proof.Machine

variable {s t : State} {r n : BootRec}

/-! ## The boot record (R492, R493) -/

theorem parseBoot_seq_lt {ws : List Word} (h : parseBoot ws = some r) : r.seq < 2 ^ 32 := by
  unfold parseBoot at h
  split at h
  · cases h
  · cases h
    exact (ws.getD 1 0).isLt

/-- The copy A is in force unless B is newer. -/
theorem bootRec_newer_a (ha : parseBoot s.fwu.bootA = some n)
    (hb : ∀ b, parseBoot s.fwu.bootB = some b → diff32 b.seq n.seq ≤ 0) : bootRec s = n := by
  cases hB : parseBoot s.fwu.bootB with
  | none => simp only [bootRec, ha, hB]
  | some b => simp only [bootRec, ha, hB, if_neg (Int.not_lt.2 (hb b hB))]

/-- The copy B is in force where it is newer. -/
theorem bootRec_newer_b (hb : parseBoot s.fwu.bootB = some n)
    (ha : ∀ a, parseBoot s.fwu.bootA = some a → 0 < diff32 n.seq a.seq) : bootRec s = n := by
  cases hA : parseBoot s.fwu.bootA with
  | none => simp only [bootRec, hA, hb]
  | some a => simp only [bootRec, hA, hb, if_pos (ha a hA)]

/-- The record that a write of `r` stores: with the SEQ after that of the record in force. -/
def nextBoot (r : BootRec) (s : State) : BootRec := { r with seq := ((bootRec s).seq + 1) % 2 ^ 32 }

theorem parseBoot_nextBoot (hr : r.tries < 4) : parseBoot (bootWords (nextBoot r s)) = some (nextBoot r s) :=
  parse_boot _ (Nat.mod_lt _ (Nat.two_pow_pos 32)) hr

/-- A record of the copy in force is older than the next one. -/
theorem diff32_nextBoot (hn : bootRec s = n) (hlt : n.seq < 2 ^ 32) :
    diff32 (nextBoot r s).seq n.seq = 1 ∧ diff32 n.seq (nextBoot r s).seq = -1 := by
  subst hn
  exact diff_succ _ hlt

/-- The write goes to copy A, and leaves B: A is not valid, or older than B. -/
structure WritesA (r : BootRec) (s : State) : Prop where
  copyA : (writeBoot r s).fwu.bootA = bootWords (nextBoot r s)
  copyB : (writeBoot r s).fwu.bootB = s.fwu.bootB
  inForce : ∀ b, parseBoot s.fwu.bootB = some b → bootRec s = b

/-- The write goes to copy B, and leaves A, which is in force. -/
structure WritesB (r : BootRec) (s : State) : Prop where
  copyB : (writeBoot r s).fwu.bootB = bootWords (nextBoot r s)
  copyA : (writeBoot r s).fwu.bootA = s.fwu.bootA
  inForce : ∀ a, parseBoot s.fwu.bootA = some a → bootRec s = a

/-- A write replaces the copy that is not in force. -/
theorem writesA_or_writesB (r : BootRec) (s : State) : WritesA r s ∨ WritesB r s := by
  cases hA : parseBoot s.fwu.bootA with
  | none =>
    refine .inl ⟨by simp only [writeBoot, hA]; rfl, by simp only [writeBoot, hA]; rfl, fun b hb => ?_⟩
    exact bootRec_newer_b hb (by simp [hA])
  | some a =>
    cases hB : parseBoot s.fwu.bootB with
    | none =>
      refine .inr ⟨by simp only [writeBoot, hA, hB]; rfl, by simp only [writeBoot, hA, hB]; rfl, fun x hx => ?_⟩
      exact bootRec_newer_a hx (by simp [hB])
    | some b =>
      by_cases hnewer : 0 < diff32 b.seq a.seq
      · refine .inl ⟨by simp only [writeBoot, hA, hB, hnewer]; rfl, by simp only [writeBoot, hA, hB, hnewer]; rfl, fun x hx => ?_⟩
        refine bootRec_newer_b hx fun y hy => ?_
        rw [← Option.some.inj (hB.symm.trans hx), ← Option.some.inj (hA.symm.trans hy)]
        exact hnewer
      · refine .inr ⟨by simp only [writeBoot, hA, hB, hnewer]; rfl, by simp only [writeBoot, hA, hB, hnewer]; rfl, fun x hx => ?_⟩
        refine bootRec_newer_a hx fun y hy => ?_
        rw [← Option.some.inj (hB.symm.trans hy), ← Option.some.inj (hA.symm.trans hx)]
        exact Int.not_lt.1 hnewer

/-- After a boot record is written it is the one in force. -/
theorem bootRec_writeBoot (hr : r.tries < 4) : bootRec (writeBoot r s) = nextBoot r s := by
  rcases writesA_or_writesB r s with ⟨hA, hB, hforce⟩ | ⟨hB, hA, hforce⟩
  · refine bootRec_newer_a (by rw [hA, parseBoot_nextBoot hr]) fun b hb => ?_
    rw [hB] at hb
    have hdiff := (diff32_nextBoot (r := r) (hforce b hb) (parseBoot_seq_lt hb)).2
    omega
  · refine bootRec_newer_b (by rw [hB, parseBoot_nextBoot hr]) fun a ha => ?_
    rw [hA] at ha
    have hdiff := (diff32_nextBoot (r := r) (hforce a ha) (parseBoot_seq_lt ha)).1
    omega

theorem writeBoot_keeps_copy (r : BootRec) (s : State) :
    (writeBoot r s).fwu.bootA = s.fwu.bootA ∨ (writeBoot r s).fwu.bootB = s.fwu.bootB := by
  rcases writesA_or_writesB r s with h | h
  · exact .inr h.copyB
  · exact .inl h.copyA

/-! ## The configuration halves (R503) -/

variable {half : Bool} {fmt key k : Nat} {data : List Byte} {log : List CfgRec}

theorem halfLog_setHalf : halfLog half (setHalf half log fmt s) = log := by cases half <;> rfl

theorem halfFmt_setHalf : halfFmt half (setHalf half log fmt s) = fmt := by cases half <;> rfl

theorem halfLog_setHalf_other : halfLog (!half) (setHalf half log fmt s) = halfLog (!half) s := by cases half <;> rfl

theorem halfFmt_setHalf_other : halfFmt (!half) (setHalf half log fmt s) = halfFmt (!half) s := by cases half <;> rfl

theorem dataOf_appendRec_same : dataOf key (appendRec key data log) = some data := by
  rw [appendRec, dataOf_append]
  simp [dataOf, lastOk]

theorem dataOf_appendRec_other (h : k ≠ key) : dataOf k (appendRec key data log) = dataOf k log := by
  rw [appendRec, dataOf_append]
  simp [dataOf, lastOk, Ne.symm h]

/-- The value of a key in a half is the data of its newest good record. -/
theorem get_halfItems : FMap.get [] (halfItems half s) k = (dataOf k (halfLog half s)).getD [] := liveItems_get k _

/-- The log of the half after an item is written: sectors that make room for it are erased before. -/
theorem halfLog_writeItem : halfLog half (writeItem half fmt key data s) =
    appendRec key data (reclaim (halfLog half s).length (16 + data.length) (halfLog half s)) := halfLog_setHalf

theorem get_writeItem_same : FMap.get [] (halfItems half (writeItem half fmt key data s)) key = data := by
  rw [get_halfItems, halfLog_writeItem, dataOf_appendRec_same, Option.getD_some]

/-- Another key keeps its value, whatever sectors are erased. -/
theorem get_writeItem_other (h : k ≠ key) :
    FMap.get [] (halfItems half (writeItem half fmt key data s)) k = FMap.get [] (halfItems half s) k := by
  rw [get_halfItems, get_halfItems, halfLog_writeItem, dataOf_appendRec_other h, reclaim_data]

/-- Settles O39: of the two boot copies the one written is newer than the other, which was in force or is not valid; with neither copy
valid the numbers begin at 1 (log 68). An item is the newest record of its key, and erasing sectors loses none of the others. -/
theorem flashRecordsReadBack : Obligations.FlashRecordsReadBack := by
  unfold Obligations.FlashRecordsReadBack
  refine ⟨?boot, ?item⟩
  case boot =>
    rintro r s _ hr rfl
    exact ⟨bootRec_writeBoot hr, writeBoot_keeps_copy r s⟩
  case item =>
    rintro half fmt key data s _ rfl
    exact ⟨get_writeItem_same, halfFmt_setHalf, fun k => get_writeItem_other, halfLog_setHalf_other, halfFmt_setHalf_other⟩

end Sys2Proof.Machine
end
